-- ==== Sys2Proof/Word.lean ====
section
/-! DEFINITION. The word types of the KZ3 architecture (spec/00 R8, R9; spec/02 R50) and the plainest arithmetic on them. -/

namespace Sys2Proof

/-- Eight bits: the unit of memory. -/
abbrev Byte := BitVec 8
/-- One register of one thread (R50). -/
abbrev Word32 := BitVec 32
/-- One uniform register (R50). -/
abbrev Word64 := BitVec 64
/-- One bit per thread of a stand: bit t is thread t (R91, R109). -/
abbrev Mask := BitVec 128

/-- `Min` of the pseudocode. -/
def minN (a b : Nat) : Nat := if a ≤ b then a else b
/-- `Max` of the pseudocode. -/
def maxN (a b : Nat) : Nat := if a ≤ b then b else a
/-- Quotient rounded up. -/
def ceilDiv (a b : Nat) : Nat := (a + b - 1) / b

end Sys2Proof
end

