-- ==== Sys2Proof/Syntax.lean ====
section
/-! DEFINITION. The syntax of KZ3 (spec/02): the fields of each format, and Instr, one constructor per row of spec/opcode_table.json.
The encoded words carry their format's fields; the other rows are steps of the part's own units and of the outside world
(spec/95) and carry the names of what they act on. -/

namespace Sys2Proof

/-- The two encodings of a kernel (spec/02 R30, spec/01 R16). -/
inductive Kind where
  | heart
  | sap
  deriving DecidableEq, Repr, Inhabited

/-- A register or channel operand field (R32): a destination has no PK bit and a short field no UF bit; those read false. -/
structure Opd where
  num : BitVec 8
  uf : Bool
  cl : Bool
  pk : Bool
  deriving DecidableEq, Repr, Inhabited

/-- The field that is all zero. -/
def Opd.zero : Opd := ⟨0, false, false, false⟩

/-- The scheduling fields, which differ between the encodings: WF and SF (R30, R42), or FSEL and RU of SCH (R31). -/
inductive Sched where
  | heart (wf sf : BitVec 4)
  | sap (fsel : BitVec 2) (ru : BitVec 4)
  deriving DecidableEq, Repr, Inhabited

/-- The encoding that a scheduling field belongs to. -/
def Sched.kind : Sched → Kind
  | .heart _ _ => .heart
  | .sap _ _ => .sap

/-- The common head of R28 less LEN and OPC, with the scheduling fields of R30. -/
structure Head where
  uni : Bool
  gp : BitVec 3
  gn : Bool
  sch : Sched
  deriving DecidableEq, Repr, Inhabited

/-- Format A64 (R37). -/
structure A64 where
  h : Head
  dst : Opd
  sa : Opd
  sb : Opd
  ty : BitVec 5
  md : BitVec 2
  deriving DecidableEq, Repr, Inhabited

/-- Format I64 (R37), with the short operand shapes. -/
structure I64 where
  h : Head
  dst : Opd
  sa : Opd
  imm : BitVec 20
  deriving DecidableEq, Repr, Inhabited

/-- Format T96 (R37). -/
structure T96 where
  h : Head
  dst : Opd
  sa : Opd
  sb : Opd
  sc : Opd
  tyd : BitVec 5
  tys : BitVec 5
  md : BitVec 8
  imm : BitVec 10
  deriving DecidableEq, Repr, Inhabited

/-- Format M96 (R37): DR, AB, OFS, TY, SM, PH, OR, VC, MOD. -/
structure M96 where
  h : Head
  dr : Opd
  ab : Opd
  ofs : BitVec 24
  ty : BitVec 5
  sm : BitVec 8
  ph : BitVec 2
  ord : BitVec 2
  vc : BitVec 2
  md : BitVec 6
  deriving DecidableEq, Repr, Inhabited

/-- Format E96 (R37). -/
structure E96 where
  h : Head
  dst : Opd
  sa : Opd
  sb : Opd
  sc : Opd
  imm : BitVec 16
  md : BitVec 12
  deriving DecidableEq, Repr, Inhabited

/-- Format W128 (R37). -/
structure W128 where
  h : Head
  dst : Opd
  sa : Opd
  sb : Opd
  imm : BitVec 64
  md : BitVec 7
  deriving DecidableEq, Repr, Inhabited

/-- A sapwood clause header (R38). -/
structure Hdr where
  wait : BitVec 12
  seta : BitVec 4
  setb : BitVec 4
  clen : BitVec 4
  yld : Bool
  gpt : Bool
  gid : BitVec 16
  deriving DecidableEq, Repr, Inhabited

/-- A heartwood mark word (R39). -/
structure Mark where
  gid : BitVec 16
  deriving DecidableEq, Repr, Inhabited

/-- The part of a fault record that the raiser of a trap gives (spec/17 R398). -/
structure TrapReq where
  cls : BitVec 8
  cause : BitVec 8
  addr : BitVec 64
  sm : BitVec 8
  akind : BitVec 4
  space : Bool
  fmask : Mask
  iw : BitVec 128
  aux : BitVec 64
  deriving DecidableEq, Repr, Inhabited

/-- One reading of the power controller (spec/17 R419, spec/20 R452, R453): board power in watts, the input in millivolts and milliamperes,
the coolant at inlet and outlet in tenths of a degree. -/
structure Reading where
  watts : Nat
  millivolts : Nat
  milliamps : Nat
  inlet : Nat
  outlet : Nat
  deriving DecidableEq, Repr, Inhabited

/-- Where an uncorrectable error lies (spec/17 R405): data that exists elsewhere or that a context owns, in memory or in a unit, the directory
or grove records of a slice, the routing tables of a field; or the unit that firmware takes out at run time while its data is good (spec/12
R284): a slice with a failed bank, a cluster, the routers of a field; or a soft error of a field, which was corrected. -/
inductive UceSite where
  | copyElsewhere (core line : Nat)
  | ownedLine (vi line : Nat)
  | ownedUnit (vi cluster : Nat)
  | sharedSlice (slice : Nat)
  | sharedRouters (field : Nat)
  | failedSlice (slice : Nat)
  | failedCluster (cluster : Nat)
  | failedRouters (field : Nat)
  | corrected (field : Nat)
  deriving DecidableEq, Repr, Inhabited

/-- The two images of spec/19 R450. -/
inductive ImageKind where
  | firmware
  | translator
  deriving DecidableEq, Repr, Inhabited

/-- What the boot ROM finds of an image (R450): whether its two signatures verify, the digests of the two keys they verify with, its
security version and its own digest. -/
structure Image where
  rsaOk : Bool
  slhOk : Bool
  rsaKey : BitVec 384
  slhKey : BitVec 384
  sver : BitVec 16
  digest : BitVec 384
  deriving DecidableEq, Repr, Inhabited

/-- A request from a peer port, in whole 64-byte units (spec/19 R436); an atomic names an operation of spec/15 R349, its
type code, an element of the unit and its operand; or the comparison of R348 with the value it expects. -/
inductive PeerReq where
  | read (port unit : Nat)
  | write (port unit : Nat) (data : List Byte)
  | atomic (port unit : Nat) (op : BitVec 3) (ty : BitVec 5) (elem : Nat) (x : Word64)
  | cas (port unit : Nat) (ty : BitVec 5) (elem : Nat) (expect x : Word64)
  deriving DecidableEq, Repr, Inhabited

/-- The registers of spec/12 R281, spec/17 R414 R422, spec/18 R433, spec/19 R439-R446 and spec/20 R458. -/
inductive Reg where
  | bootStat
  | bootCtl
  | pfEqBase (pf : Nat)
  | pfEqPtr (pf : Nat)
  | viCfg (vi : Nat)
  | viPart (vi : Nat)
  | domCtl (vi : Nat)
  | domSet (vi : Nat) (one : Bool)
  | domList (vi : Nat) (one : Bool)
  | domStat (vi : Nat)
  | netCtl (field : Nat)
  | netArb (field : Nat)
  | netStat (field : Nat)
  | rotCtl (field : Nat)
  | rotStat (field : Nat)
  | verOffer (vi : Nat)
  | verAgree (vi : Nat)
  | ctxRoot (vi : Nat)
  | saveBase (vi : Nat)
  | wdog (vi : Nat)
  | saveLen (vi : Nat)
  | sqBase (vi : Nat)
  | cqBase (vi : Nat)
  | eqBase (vi : Nat)
  | sqPtr (vi : Nat)
  | cqPtr (vi : Nat)
  | eqPtr (vi : Nat)
  | msix (vi word : Nat)
  deriving DecidableEq, Repr, Inhabited

/-- One constructor per row of spec/opcode_table.json, in the table's order. -/
inductive Instr where
  | bra (f : I64)
  | braFar (f : W128)
  | brx (f : A64)
  | call (f : I64)
  | callFar (f : W128)
  | calx (f : A64)
  | ret (f : A64)
  | exit (f : A64)
  | split (f : A64)
  | join (f : A64)
  | rset (f : I64)
  | rwait (f : A64)
  | rcancel (f : A64)
  | yield (f : A64)
  | yieldL (f : A64)
  | yieldLEnd (f : A64)
  | sleep (f : I64)
  | elect (f : A64)
  | vote (f : A64)
  | voteBallot (f : A64)
  | actm (f : A64)
  | nop (f : A64)
  | claim (f : A64)
  | enq (f : A64)
  | enqItemPush (stand : Nat)
  | deq (f : A64)
  | qstat (f : A64)
  | graftShut (f : A64)
  | graftOpen (f : A64)
  | migrHeart (f : A64)
  | migrSap (f : A64)
  | migrCancel (f : A64)
  | migrQ (f : A64)
  | add (f : A64)
  | addc (f : A64)
  | sub (f : A64)
  | subc (f : A64)
  | mulLo (f : A64)
  | mulHi (f : A64)
  | mad (f : T96)
  | madWide (f : T96)
  | min (f : A64)
  | max (f : A64)
  | abs (f : A64)
  | neg (f : A64)
  | and (f : A64)
  | or (f : A64)
  | xor (f : A64)
  | not (f : A64)
  | shl (f : A64)
  | shr (f : A64)
  | sar (f : A64)
  | rot (f : A64)
  | bfe (f : T96)
  | bfi (f : T96)
  | popc (f : A64)
  | clz (f : A64)
  | ctz (f : A64)
  | brev (f : A64)
  | sel (f : T96)
  | cmp (f : A64)
  | mov (f : A64)
  | movFirst (f : A64)
  | moviW128 (f : W128)
  | lea (f : T96)
  | shfl (f : T96)
  | perm (f : T96)
  | pand (f : A64)
  | por (f : A64)
  | pxor (f : A64)
  | pnot (f : A64)
  | addImm (f : I64)
  | subImm (f : I64)
  | mulLoImm (f : I64)
  | minImm (f : I64)
  | maxImm (f : I64)
  | andImm (f : I64)
  | orImm (f : I64)
  | xorImm (f : I64)
  | shlImm (f : I64)
  | shrImm (f : I64)
  | sarImm (f : I64)
  | rotImm (f : I64)
  | cmpImm (f : I64)
  | movi (f : I64)
  | fadd (f : A64)
  | fsub (f : A64)
  | fmul (f : A64)
  | fscale (f : A64)
  | ffma (f : T96)
  | fma2 (f : T96)
  | fdot2 (f : T96)
  | fmin (f : A64)
  | fmax (f : A64)
  | fcmp (f : A64)
  | fclass (f : A64)
  | frcp (f : A64)
  | frsq (f : A64)
  | fsqrt (f : A64)
  | fexp2 (f : A64)
  | flog2 (f : A64)
  | fsin (f : A64)
  | fcos (f : A64)
  | dadd (f : A64)
  | dmul (f : A64)
  | dfma (f : T96)
  | dcmp (f : A64)
  | cvt (f : T96)
  | pack (f : T96)
  | unpack (f : T96)
  | qpack (f : T96)
  | qunpack (f : T96)
  | mres (f : E96)
  | mresDup (f : E96)
  | mrel (f : E96)
  | mtile (f : E96)
  | mtileD (f : E96)
  | mlds (f : E96)
  | mswap (f : E96)
  | mstr (f : E96)
  | mzero (f : E96)
  | mdrn (f : E96)
  | mwait (f : E96)
  | mq (f : E96)
  | ldG (f : M96)
  | stG (f : M96)
  | ldS (f : M96)
  | stS (f : M96)
  | ldC (f : M96)
  | prf (f : M96)
  | smap (f : W128)
  | sunmap (f : A64)
  | swb (f : A64)
  | lstep (f : A64)
  | cmoCln (f : M96)
  | cmoInv (f : M96)
  | cmoCinv (f : M96)
  | dsc (f : M96)
  | pin (f : M96)
  | unpin (f : M96)
  | zero (f : M96)
  | pqrySelf (f : A64)
  | pqryLine (f : A64)
  | pqryRes (f : A64)
  | pqryCnt (f : A64)
  | fenceAr (f : A64)
  | fenceAcq (f : A64)
  | fenceRel (f : A64)
  | fenceM (f : A64)
  | cpy (f : W128)
  | cpyO (f : W128)
  | cpyTIn (f : E96)
  | cpyTOut (f : E96)
  | cpyTDef (f : E96)
  | cpwait (f : A64)
  | cpyield (f : I64)
  | cfe (f : A64)
  | cpcan (f : A64)
  | chsend (f : I64)
  | chrecv (f : I64)
  | chcfgSet (f : A64)
  | chcfgQ (f : A64)
  | atom (f : M96)
  | atomCas (f : W128)
  | red (f : M96)
  | redCell (f : M96)
  | crinit (f : A64)
  | arrive (f : A64)
  | arriveW (f : A64)
  | crwait (f : A64)
  | crexp (f : A64)
  | crinv (f : A64)
  | gcreate (f : W128)
  | gjoin (f : W128)
  | gleave (f : W128)
  | gbar (f : W128)
  | gvote (f : W128)
  | gred (f : W128)
  | gquery (f : W128)
  | gdestroy (f : W128)
  | groveEventApply (stand : Nat)
  | rdsr (f : A64)
  | wrsr (f : A64)
  | trap (f : I64)
  | tret (f : A64)
  | brk (f : I64)
  | spl (f : A64)
  | halt (f : A64)
  | clauseHeader (h : Hdr)
  | markWord (h : Mark)
  | longLatencyComplete (stand : Nat) (idx : Nat)
  | sleepEnd (stand : Nat)
  | trapEntry (stand : Nat)
  | deferredTrapTake (stand : Nat)
  | standEnd (stand : Nat)
  | issueWatchdog (stand : Nat)
  | launch (vi : Nat) (tag : BitVec 16) (record : BitVec 64)
  | copseCreate (launchId stage core : Nat)
  | clusterReassign (field : Nat)
  | stageComplete (launchId stage : Nat)
  | moveRoomSearch (copse : Nat)
  | copseMigrate (copse : Nat)
  | moveLapse (copse : Nat)
  | commandGrant (cluster resv : Nat)
  | planeLoad (cluster resv : Nat)
  | passComplete (cluster resv : Nat)
  | operandLineArrive (cluster resv : Nat)
  | matrixAssist (cluster : Nat)
  | drainCommit (cluster resv : Nat)
  | detDrainCommit (line : Nat)
  | pageAns (vi : Nat) (tag : BitVec 16) (id : Nat) (deny : Bool)
  | inval (vi : Nat) (tag : BitVec 16) (base len : BitVec 64)
  | regionFill (copse line : Nat)
  | regionWriteBack (copse line : Nat)
  | tierMove (unit : Nat) (toNear : Bool)
  | l1WriteBack (core line : Nat)
  | homeMove (line bank : Nat)
  | lineEvict (line : Nat) (replica : Option Nat)
  | markerArrive (stand slice : Nat)
  | domWb (vi : Nat)
  | domWbComplete (vi : Nat)
  | domSwitch (vi : Nat)
  | domSwitchComplete (vi : Nat)
  | copyLineDeliver (copse seq : Nat)
  | copyStatusPush (copse seq : Nat)
  | preempt (vi : Nat) (tag : BitVec 16) (record : BitVec 64) (ord : Option (BitVec 64)) (bound : BitVec 32) (hint : BitVec 8)
  | preemptEval (launchId : Nat)
  | copseSave (copse : Nat)
  | drainLimit (copse : Nat)
  | copseRestore (copse core : Nat)
  | restore (vi : Nat) (tag : BitVec 16) (image xlat xlatSize : BitVec 64)
  | debugCmd (vi : Nat) (tag : BitVec 16) (ord : BitVec 64) (stand : BitVec 4) (op : BitVec 8)
  | shadeRotation (field : Nat) (temps : List (Nat × Int))
  | rateBoundary (cluster : Nat)
  | pmbusReading (r : Reading)
  | powerRemove
  | hostTimeout (vi : Nat) (tag : BitVec 16)
  | uncorrectableError (e : UceSite)
  | flitResend (link : Nat)
  | linkFail (link : Nat)
  | escapeResend (slice plane : Nat)
  | arbiterGrant (plane net router output : Nat)
  | tableChangeStart (plane : Nat) (table : List (Nat × List (Nat × BitVec 4)))
  | tableSwitching (plane : Nat)
  | tableDraining (plane : Nat)
  | tableStable (plane : Nat)
  | verOffer (vi : Nat) (value : Word64)
  | sqPtr (vi : Nat) (value : Word64)
  | pfEqPtr (pf : Nat) (value : Word64)
  | viEnable (vi : Nat) (value : Word64)
  | registerWrite (reg : Reg) (value : Word64)
  | functionLevelReset (vi : Nat)
  | hostPortReset (port : Nat)
  | coldReset
  | rst (value : Word64)
  | sigchk (candidate : Option (ImageKind × Image))
  | ftest
  | hbm
  | net
  | seal
  | enum
  | ready
  | getVersion (pf : Nat)
  | getCapabilities (pf : Nat)
  | negotiateAlgorithms (pf : Nat)
  | getDigests (pf : Nat)
  | getCertificate (pf : Nat) (slot : Nat)
  | challenge (pf : Nat) (nonce : Nat)
  | getMeasurements (pf : Nat) (index : Nat)
  | peerRequest (r : PeerReq)
  | cqPtr (vi : Nat) (value : Word64)
  | eqPtr (vi : Nat) (value : Word64)
  deriving DecidableEq, Repr

end Sys2Proof
end

