-- ==== Sys2Proof/Config.lean ====
section
/-! DEFINITION. What the part fixes and what the spec leaves open: constants with no body, of which nothing can be proved.
A statement about one holds whatever its value. The log entries name each of them. -/

namespace Sys2Proof.Config

/-- A free bit for the n-th use of a choice, at place i (old or new word, old or new value: R43, R49, R229, R335). -/
opaque freeBit : Nat → Nat → Bool
/-- A free bit for what a stand reads of a predicate that an outstanding operation writes: by the stand, the count of its issues and the
place (R43). -/
opaque freePred : Nat → Nat → Nat → Bool
/-- A free 32-bit value (accumulator contents when first reserved, R214; other unpredictable words). -/
opaque freeWord : Nat → Nat → BitVec 32
/-- A free natural, reduced by its user to the number of alternatives (orders and ties the spec leaves unpredictable). -/
opaque freeNat : Nat → Nat
/-- What one step adds to the reference count of a field (R394): the passage of time is not modelled. -/
opaque refTicks : Nat → Nat
/-- What one issue opportunity adds to the count of front-end cycles of a cluster, whose four cores share the clock (R83). -/
opaque feTicks : Nat → Nat

/-- SITE and CHK of a handle of the site of a kind in a binding generation (R285: opaque). -/
opaque siteBits : Nat → Nat → Nat → BitVec 44
/-- The site that a forged handle is taken as naming, where it is not rejected (R285). -/
opaque forgedSite : BitVec 64 → Option Nat
/-- REC of a grove record (R369: opaque). -/
opaque groveRec : Nat → BitVec 32
/-- CHK over REC and TAG of a grove name (R369). -/
opaque groveChk : BitVec 32 → BitVec 16 → BitVec 4
/-- The live grove that a forged grove name is taken as naming, where it is not rejected (R369). -/
opaque forgedGrove : BitVec 64 → Option Nat

/-- The result of a function instruction (R191) for an operand without a stated value, before its bound is applied: the
function (0 frsq, 1 fexp2, 2 flog2, 3 fsin, 4 fcos), the format (0 .f32, 1 .f16) and the operand bits (R192: same bits always). -/
opaque fnValue : Nat → Nat → Nat → Nat

/-- Whether a cluster site, a slice or a stack passes test (R455, facts of one part); stacks by twice their rim field plus their PHY. -/
opaque clusterPasses : Nat → Bool
opaque slicePasses : Nat → Bool
opaque stackTrains : Nat → Bool
/-- Whether the routers at a position pass test, which fail together with the crossover link between them (R429), and a link of a plane. -/
opaque routerPasses : Nat → Bool
opaque linkPasses : Nat → Bool
/-- The flits that the pipeline latches of a link hold (R424). -/
opaque linkLatches : Nat → Nat
/-- The entry that bring-up writes toward a link that cannot be used: plane, router, destination (R428, R455). -/
opaque detour : Nat → Nat → Nat → BitVec 4
/-- The images the boot ROM finds, and the fused minimum security version (R450). -/
opaque firmwareImage : Option Image
opaque translatorImage : Option Image
opaque fusedVersion : BitVec 16
/-- The fused digests of the two public keys (R450). -/
opaque fusedRsa : BitVec 384
opaque fusedSlh : BitVec 384
/-- Measurement 1, the boot ROM, and the digest of a sealed placement map (R451). -/
opaque romDigest : BitVec 384
opaque mapDigest : List Nat → List Nat → BitVec 384
/-- Bytes of SPDM answers whose contents the DMTF standard fixes and this spec does not give (R451). -/
opaque spdmBytes : Nat → Nat → Nat → BitVec 384

/-- Units of 64 KiB that the near tier holds: 56 stacks of 64 GB, in binary units (R2, R22). -/
def nearUnits : Nat := 56 * 2 ^ 36 / 65536
/-- Units of 64 KiB that the deep tier holds (R22): 32 TiB. -/
def deepUnits : Nat := 2 ^ 45 / 65536

/-- The copy engine, of the eight of its field, that the scheduler gives a copse when it is admitted to a core (R318), by the copse and the
core. -/
opaque copyEngine : Nat → Nat → Nat

/-- The bank, among those of the domain in its field, that holds the replica of a line (R274). -/
opaque replicaBank : Nat → Nat → Nat

/-- What STATUS_WORD reads, by whether it reports a removal of power, and what the controller answers before its first reading, by the number of
the command (R452). -/
opaque statusWord : Bool → Nat
opaque pmbusFirst : Nat → Nat
/-- The threshold of the charge pairing (R84), which firmware fixes. -/
opaque chargeThreshold : Nat
/-- The plane a write of a slice is injected on (R314). -/
opaque planeOf : Nat → Nat → Nat
/-- Which rim field terminates a host port, whose reference cycles the port's timeouts count (R421), by its place among the 28 (R11). -/
opaque controllingField : Nat → Nat
/-- Handlers of maintenance code (R457): the entry for a trap class, 0 for none. -/
opaque maintHandler : Nat → BitVec 64
/-- The translator: whether a revision map exists for an encoding revision pair (R137, R139). -/
opaque hasRevisionMap : BitVec 16 → BitVec 16 → Bool
/-- Whether the revision map can express the live state of a feature in an image, and how large its output is (R138, R139): the feature 0
reservations, 1 grove handles, 2 tile descriptors, 3 channels, 4 pending copies, 5 the move request. -/
opaque canExpress : Nat → Nat → Bool
opaque translationBytes : Nat → Nat
/-- The address at which a context maps the translation area at a host address, and the place in the area of the code or table that an image
has at an address (R137). -/
opaque areaAt : Nat → Nat
opaque translatedAt : Nat → Nat → Nat
/-- Of the new graft map for the code at an address of an image (R137, R138): how far on the place of the next pair record is, in words of 8
bytes above one, by index; the SEQ of a record; and the offset of the instruction that follows a count of instructions from it. -/
opaque translatedStep : Nat → Nat → Nat → Nat
opaque translatedSeq : Nat → Nat → Nat → Bool
opaque translatedAfter : Nat → Nat → Nat → Nat → Nat

end Sys2Proof.Config
end

