-- ==== Sys2Proof/WellFormed.lean ====
section
/-! DEFINITION. Well-formed terms: those that stand for a word of the instruction set. A term of a format is well formed when its
fields fit the field shapes of its format (R32) and its MOD names the form of its constructor; the other rows of the table have
no word. What a word may hold beyond that, and which ILL cause it raises, is in Machine/Issue.lean. -/

namespace Sys2Proof

/-- A destination field has no PK bit (R32). -/
def A64.shape (f : A64) : Bool := !f.dst.pk
/-- The short fields have no UF bit and the short destination no PK bit (R32). -/
def I64.shape (f : I64) : Bool := !f.dst.pk && !f.dst.uf && !f.sa.uf
/-- A destination field has no PK bit (R32). -/
def T96.shape (f : T96) : Bool := !f.dst.pk
/-- A destination field has no PK bit (R32). -/
def E96.shape (f : E96) : Bool := !f.dst.pk
/-- A destination field has no PK bit (R32). -/
def W128.shape (f : W128) : Bool := !f.dst.pk

/-- A flag slot of a header holds 0x0-0xB or 0xF (R38). -/
def flagSlotOk (x : BitVec 4) : Bool := x.toNat ≤ 0xB || x == 0xF

/-- A header is well formed when its slots are flags or none and differ, WAIT is 0xFFF at a graft point, and GID is unused and
zero elsewhere (R38, R40). -/
def Hdr.shape (h : Hdr) : Bool :=
  flagSlotOk h.seta && flagSlotOk h.setb && (h.seta != h.setb || h.seta == 0xF) &&
    (if h.gpt then h.wait == 0xFFF else h.gid == 0)

/-- The term stands for a word (R37-R39, R52). -/
def Instr.wf : Instr → Bool
  | .bra f => f.shape
  | .braFar f => f.shape
  | .brx f => f.shape
  | .call f => f.shape
  | .callFar f => f.shape
  | .calx f => f.shape
  | .ret f => f.shape
  | .exit f => f.shape
  | .split f => f.shape
  | .join f => f.shape
  | .rset f => f.shape
  | .rwait f => f.shape
  | .rcancel f => f.shape
  | .yield f => f.shape
  | .yieldL f => f.shape && (f.md == 0)
  | .yieldLEnd f => f.shape && (f.md == 1)
  | .sleep f => f.shape
  | .elect f => f.shape
  | .vote f => f.shape && (f.md != 3)
  | .voteBallot f => f.shape && (f.md == 3)
  | .actm f => f.shape
  | .nop f => f.shape
  | .claim f => f.shape
  | .enq f => f.shape
  | .enqItemPush .. => false
  | .deq f => f.shape
  | .qstat f => f.shape
  | .graftShut f => f.shape && (f.md == 0)
  | .graftOpen f => f.shape && (f.md == 1)
  | .migrHeart f => f.shape && (f.md == 0)
  | .migrSap f => f.shape && (f.md == 1)
  | .migrCancel f => f.shape && (f.md == 2)
  | .migrQ f => f.shape
  | .add f => f.shape
  | .addc f => f.shape
  | .sub f => f.shape
  | .subc f => f.shape
  | .mulLo f => f.shape
  | .mulHi f => f.shape
  | .mad f => f.shape
  | .madWide f => f.shape
  | .min f => f.shape
  | .max f => f.shape
  | .abs f => f.shape
  | .neg f => f.shape
  | .and f => f.shape
  | .or f => f.shape
  | .xor f => f.shape
  | .not f => f.shape
  | .shl f => f.shape
  | .shr f => f.shape
  | .sar f => f.shape
  | .rot f => f.shape
  | .bfe f => f.shape
  | .bfi f => f.shape
  | .popc f => f.shape
  | .clz f => f.shape
  | .ctz f => f.shape
  | .brev f => f.shape
  | .sel f => f.shape
  | .cmp f => f.shape
  | .mov f => f.shape && (f.md == 0)
  | .movFirst f => f.shape && (f.md == 1 && !f.h.uni)
  | .moviW128 f => f.shape
  | .lea f => f.shape
  | .shfl f => f.shape
  | .perm f => f.shape
  | .pand f => f.shape
  | .por f => f.shape
  | .pxor f => f.shape
  | .pnot f => f.shape
  | .addImm f => f.shape
  | .subImm f => f.shape
  | .mulLoImm f => f.shape
  | .minImm f => f.shape
  | .maxImm f => f.shape
  | .andImm f => f.shape
  | .orImm f => f.shape
  | .xorImm f => f.shape
  | .shlImm f => f.shape
  | .shrImm f => f.shape
  | .sarImm f => f.shape
  | .rotImm f => f.shape
  | .cmpImm f => f.shape
  | .movi f => f.shape
  | .fadd f => f.shape
  | .fsub f => f.shape
  | .fmul f => f.shape
  | .fscale f => f.shape
  | .ffma f => f.shape
  | .fma2 f => f.shape
  | .fdot2 f => f.shape
  | .fmin f => f.shape
  | .fmax f => f.shape
  | .fcmp f => f.shape
  | .fclass f => f.shape
  | .frcp f => f.shape
  | .frsq f => f.shape
  | .fsqrt f => f.shape
  | .fexp2 f => f.shape
  | .flog2 f => f.shape
  | .fsin f => f.shape
  | .fcos f => f.shape
  | .dadd f => f.shape
  | .dmul f => f.shape
  | .dfma f => f.shape
  | .dcmp f => f.shape
  | .cvt f => f.shape
  | .pack f => f.shape
  | .unpack f => f.shape
  | .qpack f => f.shape
  | .qunpack f => f.shape
  | .mres f => f.shape && (!f.md.getLsbD 6)
  | .mresDup f => f.shape && (f.md.getLsbD 6)
  | .mrel f => f.shape
  | .mtile f => f.shape && (!f.md.getLsbD 2)
  | .mtileD f => f.shape && (f.md.getLsbD 2)
  | .mlds f => f.shape
  | .mswap f => f.shape
  | .mstr f => f.shape
  | .mzero f => f.shape
  | .mdrn f => f.shape
  | .mwait f => f.shape
  | .mq f => f.shape
  | .ldG _ => true
  | .stG _ => true
  | .ldS _ => true
  | .stS _ => true
  | .ldC _ => true
  | .prf _ => true
  | .smap f => f.shape
  | .sunmap f => f.shape
  | .swb f => f.shape
  | .lstep f => f.shape
  | .cmoCln _ => true
  | .cmoInv _ => true
  | .cmoCinv _ => true
  | .dsc _ => true
  | .pin _ => true
  | .unpin _ => true
  | .zero _ => true
  | .pqrySelf f => f.shape && (f.md == 0)
  | .pqryLine f => f.shape && (f.md == 1)
  | .pqryRes f => f.shape && (f.md == 2)
  | .pqryCnt f => f.shape && (f.md == 3)
  | .fenceAr f => f.shape && (f.md == 0)
  | .fenceAcq f => f.shape && (f.md == 1)
  | .fenceRel f => f.shape && (f.md == 2)
  | .fenceM f => f.shape
  | .cpy f => f.shape
  | .cpyO f => f.shape
  | .cpyTIn f => f.shape && (f.md.extractLsb' 0 2 == 0)
  | .cpyTOut f => f.shape && (f.md.extractLsb' 0 2 == 1)
  | .cpyTDef f => f.shape && (f.md.extractLsb' 0 2 == 2)
  | .cpwait f => f.shape
  | .cpyield f => f.shape
  | .cfe f => f.shape
  | .cpcan f => f.shape
  | .chsend f => f.shape
  | .chrecv f => f.shape
  | .chcfgSet f => f.shape && (f.md == 0)
  | .chcfgQ f => f.shape && (f.md == 1)
  | .atom _ => true
  | .atomCas f => f.shape
  | .red f => !f.md.getLsbD 4
  | .redCell f => f.md.getLsbD 4
  | .crinit f => f.shape
  | .arrive f => f.shape
  | .arriveW f => f.shape
  | .crwait f => f.shape
  | .crexp f => f.shape
  | .crinv f => f.shape
  | .gcreate f => f.shape
  | .gjoin f => f.shape
  | .gleave f => f.shape
  | .gbar f => f.shape
  | .gvote f => f.shape
  | .gred f => f.shape
  | .gquery f => f.shape
  | .gdestroy f => f.shape
  | .groveEventApply .. => false
  | .rdsr f => f.shape
  | .wrsr f => f.shape
  | .trap f => f.shape
  | .tret f => f.shape
  | .brk f => f.shape
  | .spl f => f.shape
  | .halt f => f.shape
  | .clauseHeader h => h.shape
  | .markWord _ => true
  | .longLatencyComplete .. => false
  | .sleepEnd .. => false
  | .trapEntry .. => false
  | .deferredTrapTake .. => false
  | .standEnd .. => false
  | .issueWatchdog .. => false
  | .launch .. => false
  | .copseCreate .. => false
  | .clusterReassign .. => false
  | .stageComplete .. => false
  | .moveRoomSearch .. => false
  | .copseMigrate .. => false
  | .moveLapse .. => false
  | .commandGrant .. => false
  | .planeLoad .. => false
  | .passComplete .. => false
  | .operandLineArrive .. => false
  | .matrixAssist .. => false
  | .drainCommit .. => false
  | .detDrainCommit .. => false
  | .pageAns .. => false
  | .inval .. => false
  | .regionFill .. => false
  | .regionWriteBack .. => false
  | .tierMove .. => false
  | .l1WriteBack .. => false
  | .homeMove .. => false
  | .lineEvict .. => false
  | .markerArrive .. => false
  | .domWb .. => false
  | .domWbComplete .. => false
  | .domSwitch .. => false
  | .domSwitchComplete .. => false
  | .copyLineDeliver .. => false
  | .copyStatusPush .. => false
  | .preempt .. => false
  | .preemptEval .. => false
  | .copseSave .. => false
  | .drainLimit .. => false
  | .copseRestore .. => false
  | .restore .. => false
  | .debugCmd .. => false
  | .shadeRotation .. => false
  | .rateBoundary .. => false
  | .pmbusReading .. => false
  | .powerRemove => false
  | .hostTimeout .. => false
  | .uncorrectableError .. => false
  | .flitResend .. => false
  | .linkFail .. => false
  | .escapeResend .. => false
  | .arbiterGrant .. => false
  | .tableChangeStart .. => false
  | .tableSwitching .. => false
  | .tableDraining .. => false
  | .tableStable .. => false
  | .verOffer .. => false
  | .sqPtr .. => false
  | .pfEqPtr .. => false
  | .viEnable .. => false
  | .registerWrite .. => false
  | .functionLevelReset .. => false
  | .hostPortReset .. => false
  | .coldReset => false
  | .rst .. => false
  | .sigchk .. => false
  | .ftest => false
  | .hbm => false
  | .net => false
  | .seal => false
  | .enum => false
  | .ready => false
  | .getVersion .. => false
  | .getCapabilities .. => false
  | .negotiateAlgorithms .. => false
  | .getDigests .. => false
  | .getCertificate .. => false
  | .challenge .. => false
  | .getMeasurements .. => false
  | .peerRequest .. => false
  | .cqPtr .. => false
  | .eqPtr .. => false

end Sys2Proof
end

