-- ==== Sys2Proof/Decode.lean ====
section
/-! DEFINITION. Decoding of words in both encodings (spec/02 R26-R42, R52-R54), total on any bits, and the encoder of well-formed
terms. A word is taken as up to 128 bits, bit 0 the least significant bit of its first 32-bit word (R27). -/

namespace Sys2Proof

/-! ### The opcode map -/

/-- The opcodes of format I64 (R52). -/
def opsI64 : List Nat :=
  [0x000, 0x003, 0x00A, 0x00F, 0x0C0, 0x0C2, 0x0C4, 0x0C8, 0x0C9, 0x0CC, 0x0CD, 0x0CE, 0x0D0, 0x0D1,
   0x0D2, 0x0D3, 0x0DB, 0x0DD, 0x284, 0x287, 0x288, 0x342, 0x344]
/-- The opcodes of format W128 (R52). -/
def opsW128 : List Nat :=
  [0x001, 0x004, 0x09D, 0x206, 0x280, 0x281, 0x2C1, 0x300, 0x301, 0x302, 0x303, 0x304, 0x305, 0x306,
   0x307]
/-- The opcodes of format A64 (R52). -/
def opsA64 : List Nat :=
  [0x002, 0x005, 0x006, 0x007, 0x008, 0x009, 0x00B, 0x00C, 0x00D, 0x00E, 0x010, 0x011, 0x012, 0x013,
   0x040, 0x041, 0x042, 0x043, 0x044, 0x045, 0x046, 0x080, 0x081, 0x082, 0x083, 0x084, 0x085, 0x088,
   0x089, 0x08A, 0x08B, 0x08C, 0x08D, 0x08E, 0x08F, 0x090, 0x091, 0x092, 0x093, 0x096, 0x097, 0x098,
   0x099, 0x09B, 0x09C, 0x0A1, 0x0A2, 0x0A3, 0x0A4, 0x100, 0x101, 0x102, 0x104, 0x105, 0x106, 0x107,
   0x108, 0x140, 0x141, 0x142, 0x143, 0x144, 0x145, 0x146, 0x148, 0x149, 0x14B, 0x207, 0x208, 0x209,
   0x247, 0x248, 0x249, 0x283, 0x285, 0x286, 0x289, 0x2C3, 0x2C4, 0x2C5, 0x2C6, 0x2C7, 0x2C8, 0x340,
   0x341, 0x343, 0x345, 0x346]
/-- The opcodes of format T96 (R52). -/
def opsT96 : List Nat :=
  [0x086, 0x087, 0x094, 0x095, 0x09A, 0x09E, 0x09F, 0x0A0, 0x103, 0x109, 0x10A, 0x14A, 0x180, 0x181,
   0x182, 0x183, 0x184]
/-- The opcodes of format E96 (R52). -/
def opsE96 : List Nat :=
  [0x1C0, 0x1C1, 0x1C2, 0x1C3, 0x1C4, 0x1C5, 0x1C6, 0x1C7, 0x1C8, 0x1C9, 0x282]
/-- The opcodes of format M96 (R52). -/
def opsM96 : List Nat :=
  [0x200, 0x201, 0x202, 0x203, 0x204, 0x205, 0x240, 0x241, 0x242, 0x243, 0x244, 0x245, 0x246, 0x2C0,
   0x2C2]

/-- The seven formats less H64 (R37). -/
inductive Fmt where
  | a64
  | i64
  | t96
  | m96
  | e96
  | w128
  deriving DecidableEq, Repr

/-- The format of an allocated opcode (R52, R53). -/
def fmtOf (opc : Nat) : Option Fmt :=
  if opc ∈ opsA64 then some .a64
  else if opc ∈ opsI64 then some .i64
  else if opc ∈ opsT96 then some .t96
  else if opc ∈ opsM96 then some .m96
  else if opc ∈ opsE96 then some .e96
  else if opc ∈ opsW128 then some .w128
  else none

/-- The LEN code of a format (R26, R37). -/
def Fmt.len : Fmt → Nat
  | .a64 => 1
  | .i64 => 1
  | .t96 => 2
  | .m96 => 2
  | .e96 => 2
  | .w128 => 3

/-- Bytes of a word by its LEN code (R26). -/
def lenBytes (len : Nat) : Nat :=
  if len = 0 then 8 else if len = 1 then 8 else if len = 2 then 12 else 16

/-! ### Fields -/

/-- The source shape (R32). -/
def opd11 (x : BitVec 11) : Opd := ⟨x.extractLsb' 0 8, x.getLsbD 8, x.getLsbD 9, x.getLsbD 10⟩
/-- The destination shape (R32). -/
def opd10 (x : BitVec 10) : Opd := ⟨x.extractLsb' 0 8, x.getLsbD 8, x.getLsbD 9, false⟩
/-- The short source shape (R32). -/
def short10 (x : BitVec 10) : Opd := ⟨x.extractLsb' 0 8, false, x.getLsbD 8, x.getLsbD 9⟩
/-- The short destination shape (R32). -/
def short9 (x : BitVec 9) : Opd := ⟨x.extractLsb' 0 8, false, x.getLsbD 8, false⟩

/-- The head of a word (R28, R30, R31); `sch` is the sapwood schedule byte. -/
def headOf (k : Kind) (w : BitVec 128) (sch : BitVec 8) : Head :=
  { uni := w.getLsbD 12
    gp := w.extractLsb' 13 3
    gn := w.getLsbD 16
    sch := match k with
      | .heart => .heart (w.extractLsb' 17 4) (w.extractLsb' 21 4)
      | .sap => .sap (sch.extractLsb' 0 2) (sch.extractLsb' 2 4) }

/-- The format body, from bit B of R30. -/
def bodyOf (k : Kind) (w : BitVec 128) : BitVec 103 :=
  match k with
  | .heart => w.extractLsb' 25 103
  | .sap => w.extractLsb' 17 103

/-- The top byte of a word of a LEN code, which is SCH in sapwood code (R31). -/
def topByte (len : Nat) (w : BitVec 128) : BitVec 8 :=
  if len = 1 then w.extractLsb' 56 8 else if len = 2 then w.extractLsb' 88 8 else w.extractLsb' 120 8

/-- Format A64 (R37). -/
def fieldsA64 (h : Head) (b : BitVec 103) : A64 :=
  ⟨h, opd10 (b.extractLsb' 0 10), opd11 (b.extractLsb' 10 11), opd11 (b.extractLsb' 21 11), b.extractLsb' 32 5,
    b.extractLsb' 37 2⟩
/-- Format I64 (R37). -/
def fieldsI64 (h : Head) (b : BitVec 103) : I64 :=
  ⟨h, short9 (b.extractLsb' 0 9), short10 (b.extractLsb' 9 10), b.extractLsb' 19 20⟩
/-- Format T96 (R37). -/
def fieldsT96 (h : Head) (b : BitVec 103) : T96 :=
  ⟨h, opd10 (b.extractLsb' 0 10), opd11 (b.extractLsb' 10 11), opd11 (b.extractLsb' 21 11), opd11 (b.extractLsb' 32 11),
    b.extractLsb' 43 5, b.extractLsb' 48 5, b.extractLsb' 53 8, b.extractLsb' 61 10⟩
/-- Format M96 (R37). -/
def fieldsM96 (h : Head) (b : BitVec 103) : M96 :=
  ⟨h, opd11 (b.extractLsb' 0 11), opd11 (b.extractLsb' 11 11), b.extractLsb' 22 24, b.extractLsb' 46 5, b.extractLsb' 51 8,
    b.extractLsb' 59 2, b.extractLsb' 61 2, b.extractLsb' 63 2, b.extractLsb' 65 6⟩
/-- Format E96 (R37). -/
def fieldsE96 (h : Head) (b : BitVec 103) : E96 :=
  ⟨h, opd10 (b.extractLsb' 0 10), opd11 (b.extractLsb' 10 11), opd11 (b.extractLsb' 21 11), opd11 (b.extractLsb' 32 11),
    b.extractLsb' 43 16, b.extractLsb' 59 12⟩
/-- Format W128 (R37). -/
def fieldsW128 (h : Head) (b : BitVec 103) : W128 :=
  ⟨h, opd10 (b.extractLsb' 0 10), opd11 (b.extractLsb' 10 11), opd11 (b.extractLsb' 21 11), b.extractLsb' 32 64,
    b.extractLsb' 96 7⟩

/-! ### From opcode and fields to the constructor -/

/-- The instruction of an opcode of format I64; none for an undefined MOD selection, which is ILL cause 0x04 (R37). -/
def ofI64 (opc : Nat) (f : I64) : Option Instr :=
  if opc = 0x000 then some (.bra f)
  else if opc = 0x003 then some (.call f)
  else if opc = 0x00A then some (.rset f)
  else if opc = 0x00F then some (.sleep f)
  else if opc = 0x0C0 then some (.addImm f)
  else if opc = 0x0C2 then some (.subImm f)
  else if opc = 0x0C4 then some (.mulLoImm f)
  else if opc = 0x0C8 then some (.minImm f)
  else if opc = 0x0C9 then some (.maxImm f)
  else if opc = 0x0CC then some (.andImm f)
  else if opc = 0x0CD then some (.orImm f)
  else if opc = 0x0CE then some (.xorImm f)
  else if opc = 0x0D0 then some (.shlImm f)
  else if opc = 0x0D1 then some (.shrImm f)
  else if opc = 0x0D2 then some (.sarImm f)
  else if opc = 0x0D3 then some (.rotImm f)
  else if opc = 0x0DB then some (.cmpImm f)
  else if opc = 0x0DD then some (.movi f)
  else if opc = 0x284 then some (.cpyield f)
  else if opc = 0x287 then some (.chsend f)
  else if opc = 0x288 then some (.chrecv f)
  else if opc = 0x342 then some (.trap f)
  else if opc = 0x344 then some (.brk f)
  else none

/-- The instruction of an opcode of format W128; none for an undefined MOD selection, which is ILL cause 0x04 (R37). -/
def ofW128 (opc : Nat) (f : W128) : Option Instr :=
  if opc = 0x001 then some (.braFar f)
  else if opc = 0x004 then some (.callFar f)
  else if opc = 0x09D then some (.moviW128 f)
  else if opc = 0x206 then some (.smap f)
  else if opc = 0x280 then some (.cpy f)
  else if opc = 0x281 then some (.cpyO f)
  else if opc = 0x2C1 then some (.atomCas f)
  else if opc = 0x300 then some (.gcreate f)
  else if opc = 0x301 then some (.gjoin f)
  else if opc = 0x302 then some (.gleave f)
  else if opc = 0x303 then some (.gbar f)
  else if opc = 0x304 then some (.gvote f)
  else if opc = 0x305 then some (.gred f)
  else if opc = 0x306 then some (.gquery f)
  else if opc = 0x307 then some (.gdestroy f)
  else none

/-- The instruction of an opcode of format A64; none for an undefined MOD selection, which is ILL cause 0x04 (R37). -/
def ofA64 (opc : Nat) (f : A64) : Option Instr :=
  if opc = 0x002 then some (.brx f)
  else if opc = 0x005 then some (.calx f)
  else if opc = 0x006 then some (.ret f)
  else if opc = 0x007 then some (.exit f)
  else if opc = 0x008 then some (.split f)
  else if opc = 0x009 then some (.join f)
  else if opc = 0x00B then some (.rwait f)
  else if opc = 0x00C then some (.rcancel f)
  else if opc = 0x00D then some (.yield f)
  else if opc = 0x00E then (if f.md == 0 then some (.yieldL f) else if f.md == 1 then some (.yieldLEnd f) else none)
  else if opc = 0x010 then some (.elect f)
  else if opc = 0x011 then (if f.md != 3 then some (.vote f) else if f.md == 3 then some (.voteBallot f) else none)
  else if opc = 0x012 then some (.actm f)
  else if opc = 0x013 then some (.nop f)
  else if opc = 0x040 then some (.claim f)
  else if opc = 0x041 then some (.enq f)
  else if opc = 0x042 then some (.deq f)
  else if opc = 0x043 then some (.qstat f)
  else if opc = 0x044 then (if f.md == 0 then some (.graftShut f) else if f.md == 1 then some (.graftOpen f) else none)
  else if opc = 0x045 then (if f.md == 0 then some (.migrHeart f) else if f.md == 1 then some (.migrSap f) else if f.md == 2 then some (.migrCancel f) else none)
  else if opc = 0x046 then some (.migrQ f)
  else if opc = 0x080 then some (.add f)
  else if opc = 0x081 then some (.addc f)
  else if opc = 0x082 then some (.sub f)
  else if opc = 0x083 then some (.subc f)
  else if opc = 0x084 then some (.mulLo f)
  else if opc = 0x085 then some (.mulHi f)
  else if opc = 0x088 then some (.min f)
  else if opc = 0x089 then some (.max f)
  else if opc = 0x08A then some (.abs f)
  else if opc = 0x08B then some (.neg f)
  else if opc = 0x08C then some (.and f)
  else if opc = 0x08D then some (.or f)
  else if opc = 0x08E then some (.xor f)
  else if opc = 0x08F then some (.not f)
  else if opc = 0x090 then some (.shl f)
  else if opc = 0x091 then some (.shr f)
  else if opc = 0x092 then some (.sar f)
  else if opc = 0x093 then some (.rot f)
  else if opc = 0x096 then some (.popc f)
  else if opc = 0x097 then some (.clz f)
  else if opc = 0x098 then some (.ctz f)
  else if opc = 0x099 then some (.brev f)
  else if opc = 0x09B then some (.cmp f)
  else if opc = 0x09C then (if f.md == 0 then some (.mov f) else if f.md == 1 && !f.h.uni then some (.movFirst f) else none)
  else if opc = 0x0A1 then some (.pand f)
  else if opc = 0x0A2 then some (.por f)
  else if opc = 0x0A3 then some (.pxor f)
  else if opc = 0x0A4 then some (.pnot f)
  else if opc = 0x100 then some (.fadd f)
  else if opc = 0x101 then some (.fsub f)
  else if opc = 0x102 then some (.fmul f)
  else if opc = 0x104 then some (.fmin f)
  else if opc = 0x105 then some (.fmax f)
  else if opc = 0x106 then some (.fcmp f)
  else if opc = 0x107 then some (.fclass f)
  else if opc = 0x108 then some (.fscale f)
  else if opc = 0x140 then some (.frcp f)
  else if opc = 0x141 then some (.frsq f)
  else if opc = 0x142 then some (.fsqrt f)
  else if opc = 0x143 then some (.fexp2 f)
  else if opc = 0x144 then some (.flog2 f)
  else if opc = 0x145 then some (.fsin f)
  else if opc = 0x146 then some (.fcos f)
  else if opc = 0x148 then some (.dadd f)
  else if opc = 0x149 then some (.dmul f)
  else if opc = 0x14B then some (.dcmp f)
  else if opc = 0x207 then some (.sunmap f)
  else if opc = 0x208 then some (.swb f)
  else if opc = 0x209 then some (.lstep f)
  else if opc = 0x247 then (if f.md == 0 then some (.pqrySelf f) else if f.md == 1 then some (.pqryLine f) else if f.md == 2 then some (.pqryRes f) else if f.md == 3 then some (.pqryCnt f) else none)
  else if opc = 0x248 then (if f.md == 0 then some (.fenceAr f) else if f.md == 1 then some (.fenceAcq f) else if f.md == 2 then some (.fenceRel f) else none)
  else if opc = 0x249 then some (.fenceM f)
  else if opc = 0x283 then some (.cpwait f)
  else if opc = 0x285 then some (.cfe f)
  else if opc = 0x286 then some (.cpcan f)
  else if opc = 0x289 then (if f.md == 0 then some (.chcfgSet f) else if f.md == 1 then some (.chcfgQ f) else none)
  else if opc = 0x2C3 then some (.crinit f)
  else if opc = 0x2C4 then some (.arrive f)
  else if opc = 0x2C5 then some (.arriveW f)
  else if opc = 0x2C6 then some (.crwait f)
  else if opc = 0x2C7 then some (.crexp f)
  else if opc = 0x2C8 then some (.crinv f)
  else if opc = 0x340 then some (.rdsr f)
  else if opc = 0x341 then some (.wrsr f)
  else if opc = 0x343 then some (.tret f)
  else if opc = 0x345 then some (.spl f)
  else if opc = 0x346 then some (.halt f)
  else none

/-- The instruction of an opcode of format T96; none for an undefined MOD selection, which is ILL cause 0x04 (R37). -/
def ofT96 (opc : Nat) (f : T96) : Option Instr :=
  if opc = 0x086 then some (.mad f)
  else if opc = 0x087 then some (.madWide f)
  else if opc = 0x094 then some (.bfe f)
  else if opc = 0x095 then some (.bfi f)
  else if opc = 0x09A then some (.sel f)
  else if opc = 0x09E then some (.lea f)
  else if opc = 0x09F then some (.shfl f)
  else if opc = 0x0A0 then some (.perm f)
  else if opc = 0x103 then some (.ffma f)
  else if opc = 0x109 then some (.fdot2 f)
  else if opc = 0x10A then some (.fma2 f)
  else if opc = 0x14A then some (.dfma f)
  else if opc = 0x180 then some (.cvt f)
  else if opc = 0x181 then some (.pack f)
  else if opc = 0x182 then some (.unpack f)
  else if opc = 0x183 then some (.qpack f)
  else if opc = 0x184 then some (.qunpack f)
  else none

/-- The instruction of an opcode of format E96; none for an undefined MOD selection, which is ILL cause 0x04 (R37). -/
def ofE96 (opc : Nat) (f : E96) : Option Instr :=
  if opc = 0x1C0 then (if !f.md.getLsbD 6 then some (.mres f) else if f.md.getLsbD 6 then some (.mresDup f) else none)
  else if opc = 0x1C1 then some (.mrel f)
  else if opc = 0x1C2 then (if !f.md.getLsbD 2 then some (.mtile f) else if f.md.getLsbD 2 then some (.mtileD f) else none)
  else if opc = 0x1C3 then some (.mlds f)
  else if opc = 0x1C4 then some (.mswap f)
  else if opc = 0x1C5 then some (.mstr f)
  else if opc = 0x1C6 then some (.mdrn f)
  else if opc = 0x1C7 then some (.mzero f)
  else if opc = 0x1C8 then some (.mwait f)
  else if opc = 0x1C9 then some (.mq f)
  else if opc = 0x282 then (if f.md.extractLsb' 0 2 == 0 then some (.cpyTIn f) else if f.md.extractLsb' 0 2 == 1 then some (.cpyTOut f) else if f.md.extractLsb' 0 2 == 2 then some (.cpyTDef f) else none)
  else none

/-- The instruction of an opcode of format M96; none for an undefined MOD selection, which is ILL cause 0x04 (R37). -/
def ofM96 (opc : Nat) (f : M96) : Option Instr :=
  if opc = 0x200 then some (.ldG f)
  else if opc = 0x201 then some (.stG f)
  else if opc = 0x202 then some (.ldS f)
  else if opc = 0x203 then some (.stS f)
  else if opc = 0x204 then some (.ldC f)
  else if opc = 0x205 then some (.prf f)
  else if opc = 0x240 then some (.cmoCln f)
  else if opc = 0x241 then some (.cmoInv f)
  else if opc = 0x242 then some (.cmoCinv f)
  else if opc = 0x243 then some (.dsc f)
  else if opc = 0x244 then some (.pin f)
  else if opc = 0x245 then some (.unpin f)
  else if opc = 0x246 then some (.zero f)
  else if opc = 0x2C0 then some (.atom f)
  else if opc = 0x2C2 then (if !f.md.getLsbD 4 then some (.red f) else if f.md.getLsbD 4 then some (.redCell f) else none)
  else none

/-- The instruction of an opcode in its format; none for an undefined MOD selection. -/
def ofFmt (opc : Nat) (h : Head) (b : BitVec 103) : Fmt → Option Instr
  | .a64 => ofA64 opc (fieldsA64 h b)
  | .i64 => ofI64 opc (fieldsI64 h b)
  | .t96 => ofT96 opc (fieldsT96 h b)
  | .m96 => ofM96 opc (fieldsM96 h b)
  | .e96 => ofE96 opc (fieldsE96 h b)
  | .w128 => ofW128 opc (fieldsW128 h b)

/-! ### Decoding -/

/-- What a word is: an instruction, header or mark word with its bytes; a pad word (R46); or malformed with an ILL cause (R54). -/
inductive Decoded where
  | instr (i : Instr) (bytes : Nat)
  | pad
  | ill (cause : Nat)
  deriving DecidableEq, Repr

/-- UNI, GP and GN of an H64 word are 0, 7 and 0 (R38, R39). -/
def h64HeadOk (w : BitVec 128) : Bool := !w.getLsbD 12 && w.extractLsb' 13 3 == 7 && !w.getLsbD 16

/-- The fields of a header (R38). -/
def fieldsHdr (w : BitVec 128) : Hdr :=
  ⟨w.extractLsb' 17 12, w.extractLsb' 29 4, w.extractLsb' 33 4, w.extractLsb' 37 4, w.getLsbD 41, w.getLsbD 42,
    w.extractLsb' 43 16⟩

/-- A word with LEN 0b00 that is not a pad word (R38-R40); the lowest cause is reported (R55). A word of the wrong kind has no header or mark
layout whose reserved fields could be judged, so that 0x0A is its cause whatever its other bits are (DESIGN CHOICE, log 93). -/
def decodeH64 (k : Kind) (w : BitVec 128) : Decoded :=
  let kind := (w.extractLsb' 2 10).toNat
  match k with
  | .sap =>
    if kind ≠ 0 then .ill 0x0A
    else
      let h := fieldsHdr w
      if w.extractLsb' 59 5 ≠ 0 then .ill 0x04
      else if !h64HeadOk w then .ill 0x0A
      else if !(flagSlotOk h.seta && flagSlotOk h.setb && (h.seta != h.setb || h.seta == 0xF)) then .ill 0x0A
      else if h.gpt && h.wait != 0xFFF then .ill 0x0A
      else if !h.gpt && h.gid != 0 then .ill 0x04
      else .instr (.clauseHeader h) 8
  | .heart =>
    if kind ≠ 1 then .ill 0x0A
    else if w.extractLsb' 33 31 ≠ 0 then .ill 0x04
    else if !h64HeadOk w then .ill 0x0A
    else .instr (.markWord ⟨w.extractLsb' 17 16⟩) 8

/-- A word by its LEN code and opcode (R26, R53). -/
def decode (k : Kind) (w : BitVec 128) : Decoded :=
  if w.extractLsb' 0 32 = 0 then .pad
  else
    let len := (w.extractLsb' 0 2).toNat
    if len = 0 then decodeH64 k w
    else
      let opc := (w.extractLsb' 2 10).toNat
      match fmtOf opc with
      | none => .ill 0x01
      | some fm =>
        if fm.len ≠ len then .ill 0x02
        else
          let sch := topByte len w
          if k = .sap ∧ sch.extractLsb' 6 2 ≠ 0 then .ill 0x04
          else
            match ofFmt opc (headOf k w sch) (bodyOf k w) fm with
            | none => .ill 0x04
            | some i => .instr i (lenBytes len)

/-! ### Encoding -/

/-- The source shape as bits (R32). -/
def Opd.bits11 (o : Opd) : BitVec 11 := BitVec.ofBool o.pk ++ BitVec.ofBool o.cl ++ BitVec.ofBool o.uf ++ o.num
/-- The destination shape as bits (R32). -/
def Opd.bits10 (o : Opd) : BitVec 10 := BitVec.ofBool o.cl ++ BitVec.ofBool o.uf ++ o.num
/-- The short source shape as bits (R32). -/
def Opd.short10 (o : Opd) : BitVec 10 := BitVec.ofBool o.pk ++ BitVec.ofBool o.cl ++ o.num
/-- The short destination shape as bits (R32). -/
def Opd.short9 (o : Opd) : BitVec 9 := BitVec.ofBool o.cl ++ o.num

/-- Bits 16:0 (R28). -/
def headBits (h : Head) (opc : BitVec 10) (len : BitVec 2) : BitVec 17 :=
  BitVec.ofBool h.gn ++ h.gp ++ BitVec.ofBool h.uni ++ opc ++ len

/-- A word of n body bits: head, then WF, SF and body in heartwood code, or body and SCH in sapwood code (R30, R31). -/
def assemble {n : Nat} (h : Head) (opc : BitVec 10) (len : BitVec 2) (body : BitVec n) : BitVec 128 :=
  match h.sch with
  | .heart wf sf => (body ++ sf ++ wf ++ headBits h opc len).setWidth 128
  | .sap fsel ru => ((0 : BitVec 2) ++ ru ++ fsel ++ body ++ headBits h opc len).setWidth 128

/-- An encoded word: its bits and its bytes. -/
structure Encoded where
  bits : BitVec 128
  bytes : Nat
  deriving DecidableEq, Repr

/-- Format A64 (R37). -/
def encA64 (opc : BitVec 10) (f : A64) : Encoded :=
  ⟨assemble f.h opc 1 (f.md ++ f.ty ++ f.sb.bits11 ++ f.sa.bits11 ++ f.dst.bits10), 8⟩
/-- Format I64 (R37). -/
def encI64 (opc : BitVec 10) (f : I64) : Encoded :=
  ⟨assemble f.h opc 1 (f.imm ++ f.sa.short10 ++ f.dst.short9), 8⟩
/-- Format T96 (R37). -/
def encT96 (opc : BitVec 10) (f : T96) : Encoded :=
  ⟨assemble f.h opc 2 (f.imm ++ f.md ++ f.tys ++ f.tyd ++ f.sc.bits11 ++ f.sb.bits11 ++ f.sa.bits11 ++ f.dst.bits10), 12⟩
/-- Format M96 (R37). -/
def encM96 (opc : BitVec 10) (f : M96) : Encoded :=
  ⟨assemble f.h opc 2 (f.md ++ f.vc ++ f.ord ++ f.ph ++ f.sm ++ f.ty ++ f.ofs ++ f.ab.bits11 ++ f.dr.bits11), 12⟩
/-- Format E96 (R37). -/
def encE96 (opc : BitVec 10) (f : E96) : Encoded :=
  ⟨assemble f.h opc 2 (f.md ++ f.imm ++ f.sc.bits11 ++ f.sb.bits11 ++ f.sa.bits11 ++ f.dst.bits10), 12⟩
/-- Format W128 (R37). -/
def encW128 (opc : BitVec 10) (f : W128) : Encoded :=
  ⟨assemble f.h opc 3 (f.md ++ f.imm ++ f.sb.bits11 ++ f.sa.bits11 ++ f.dst.bits10), 16⟩
/-- A clause header (R38). -/
def encHdr (h : Hdr) : Encoded :=
  ⟨((0 : BitVec 5) ++ h.gid ++ BitVec.ofBool h.gpt ++ BitVec.ofBool h.yld ++ h.clen ++ h.setb ++ h.seta ++ h.wait ++
      (0x0E000 : BitVec 17)).setWidth 128, 8⟩
/-- A mark word (R39). -/
def encMark (m : Mark) : Encoded := ⟨((0 : BitVec 31) ++ m.gid ++ (0x0E004 : BitVec 17)).setWidth 128, 8⟩

/-- The word of a term; none for a row that has no word. -/
def encode : Instr → Option Encoded
  | .bra f => some (encI64 0x000 f)
  | .braFar f => some (encW128 0x001 f)
  | .brx f => some (encA64 0x002 f)
  | .call f => some (encI64 0x003 f)
  | .callFar f => some (encW128 0x004 f)
  | .calx f => some (encA64 0x005 f)
  | .ret f => some (encA64 0x006 f)
  | .exit f => some (encA64 0x007 f)
  | .split f => some (encA64 0x008 f)
  | .join f => some (encA64 0x009 f)
  | .rset f => some (encI64 0x00A f)
  | .rwait f => some (encA64 0x00B f)
  | .rcancel f => some (encA64 0x00C f)
  | .yield f => some (encA64 0x00D f)
  | .yieldL f => some (encA64 0x00E f)
  | .yieldLEnd f => some (encA64 0x00E f)
  | .sleep f => some (encI64 0x00F f)
  | .elect f => some (encA64 0x010 f)
  | .vote f => some (encA64 0x011 f)
  | .voteBallot f => some (encA64 0x011 f)
  | .actm f => some (encA64 0x012 f)
  | .nop f => some (encA64 0x013 f)
  | .claim f => some (encA64 0x040 f)
  | .enq f => some (encA64 0x041 f)
  | .enqItemPush .. => none
  | .deq f => some (encA64 0x042 f)
  | .qstat f => some (encA64 0x043 f)
  | .graftShut f => some (encA64 0x044 f)
  | .graftOpen f => some (encA64 0x044 f)
  | .migrHeart f => some (encA64 0x045 f)
  | .migrSap f => some (encA64 0x045 f)
  | .migrCancel f => some (encA64 0x045 f)
  | .migrQ f => some (encA64 0x046 f)
  | .add f => some (encA64 0x080 f)
  | .addc f => some (encA64 0x081 f)
  | .sub f => some (encA64 0x082 f)
  | .subc f => some (encA64 0x083 f)
  | .mulLo f => some (encA64 0x084 f)
  | .mulHi f => some (encA64 0x085 f)
  | .mad f => some (encT96 0x086 f)
  | .madWide f => some (encT96 0x087 f)
  | .min f => some (encA64 0x088 f)
  | .max f => some (encA64 0x089 f)
  | .abs f => some (encA64 0x08A f)
  | .neg f => some (encA64 0x08B f)
  | .and f => some (encA64 0x08C f)
  | .or f => some (encA64 0x08D f)
  | .xor f => some (encA64 0x08E f)
  | .not f => some (encA64 0x08F f)
  | .shl f => some (encA64 0x090 f)
  | .shr f => some (encA64 0x091 f)
  | .sar f => some (encA64 0x092 f)
  | .rot f => some (encA64 0x093 f)
  | .bfe f => some (encT96 0x094 f)
  | .bfi f => some (encT96 0x095 f)
  | .popc f => some (encA64 0x096 f)
  | .clz f => some (encA64 0x097 f)
  | .ctz f => some (encA64 0x098 f)
  | .brev f => some (encA64 0x099 f)
  | .sel f => some (encT96 0x09A f)
  | .cmp f => some (encA64 0x09B f)
  | .mov f => some (encA64 0x09C f)
  | .movFirst f => some (encA64 0x09C f)
  | .moviW128 f => some (encW128 0x09D f)
  | .lea f => some (encT96 0x09E f)
  | .shfl f => some (encT96 0x09F f)
  | .perm f => some (encT96 0x0A0 f)
  | .pand f => some (encA64 0x0A1 f)
  | .por f => some (encA64 0x0A2 f)
  | .pxor f => some (encA64 0x0A3 f)
  | .pnot f => some (encA64 0x0A4 f)
  | .addImm f => some (encI64 0x0C0 f)
  | .subImm f => some (encI64 0x0C2 f)
  | .mulLoImm f => some (encI64 0x0C4 f)
  | .minImm f => some (encI64 0x0C8 f)
  | .maxImm f => some (encI64 0x0C9 f)
  | .andImm f => some (encI64 0x0CC f)
  | .orImm f => some (encI64 0x0CD f)
  | .xorImm f => some (encI64 0x0CE f)
  | .shlImm f => some (encI64 0x0D0 f)
  | .shrImm f => some (encI64 0x0D1 f)
  | .sarImm f => some (encI64 0x0D2 f)
  | .rotImm f => some (encI64 0x0D3 f)
  | .cmpImm f => some (encI64 0x0DB f)
  | .movi f => some (encI64 0x0DD f)
  | .fadd f => some (encA64 0x100 f)
  | .fsub f => some (encA64 0x101 f)
  | .fmul f => some (encA64 0x102 f)
  | .fscale f => some (encA64 0x108 f)
  | .ffma f => some (encT96 0x103 f)
  | .fma2 f => some (encT96 0x10A f)
  | .fdot2 f => some (encT96 0x109 f)
  | .fmin f => some (encA64 0x104 f)
  | .fmax f => some (encA64 0x105 f)
  | .fcmp f => some (encA64 0x106 f)
  | .fclass f => some (encA64 0x107 f)
  | .frcp f => some (encA64 0x140 f)
  | .frsq f => some (encA64 0x141 f)
  | .fsqrt f => some (encA64 0x142 f)
  | .fexp2 f => some (encA64 0x143 f)
  | .flog2 f => some (encA64 0x144 f)
  | .fsin f => some (encA64 0x145 f)
  | .fcos f => some (encA64 0x146 f)
  | .dadd f => some (encA64 0x148 f)
  | .dmul f => some (encA64 0x149 f)
  | .dfma f => some (encT96 0x14A f)
  | .dcmp f => some (encA64 0x14B f)
  | .cvt f => some (encT96 0x180 f)
  | .pack f => some (encT96 0x181 f)
  | .unpack f => some (encT96 0x182 f)
  | .qpack f => some (encT96 0x183 f)
  | .qunpack f => some (encT96 0x184 f)
  | .mres f => some (encE96 0x1C0 f)
  | .mresDup f => some (encE96 0x1C0 f)
  | .mrel f => some (encE96 0x1C1 f)
  | .mtile f => some (encE96 0x1C2 f)
  | .mtileD f => some (encE96 0x1C2 f)
  | .mlds f => some (encE96 0x1C3 f)
  | .mswap f => some (encE96 0x1C4 f)
  | .mstr f => some (encE96 0x1C5 f)
  | .mzero f => some (encE96 0x1C7 f)
  | .mdrn f => some (encE96 0x1C6 f)
  | .mwait f => some (encE96 0x1C8 f)
  | .mq f => some (encE96 0x1C9 f)
  | .ldG f => some (encM96 0x200 f)
  | .stG f => some (encM96 0x201 f)
  | .ldS f => some (encM96 0x202 f)
  | .stS f => some (encM96 0x203 f)
  | .ldC f => some (encM96 0x204 f)
  | .prf f => some (encM96 0x205 f)
  | .smap f => some (encW128 0x206 f)
  | .sunmap f => some (encA64 0x207 f)
  | .swb f => some (encA64 0x208 f)
  | .lstep f => some (encA64 0x209 f)
  | .cmoCln f => some (encM96 0x240 f)
  | .cmoInv f => some (encM96 0x241 f)
  | .cmoCinv f => some (encM96 0x242 f)
  | .dsc f => some (encM96 0x243 f)
  | .pin f => some (encM96 0x244 f)
  | .unpin f => some (encM96 0x245 f)
  | .zero f => some (encM96 0x246 f)
  | .pqrySelf f => some (encA64 0x247 f)
  | .pqryLine f => some (encA64 0x247 f)
  | .pqryRes f => some (encA64 0x247 f)
  | .pqryCnt f => some (encA64 0x247 f)
  | .fenceAr f => some (encA64 0x248 f)
  | .fenceAcq f => some (encA64 0x248 f)
  | .fenceRel f => some (encA64 0x248 f)
  | .fenceM f => some (encA64 0x249 f)
  | .cpy f => some (encW128 0x280 f)
  | .cpyO f => some (encW128 0x281 f)
  | .cpyTIn f => some (encE96 0x282 f)
  | .cpyTOut f => some (encE96 0x282 f)
  | .cpyTDef f => some (encE96 0x282 f)
  | .cpwait f => some (encA64 0x283 f)
  | .cpyield f => some (encI64 0x284 f)
  | .cfe f => some (encA64 0x285 f)
  | .cpcan f => some (encA64 0x286 f)
  | .chsend f => some (encI64 0x287 f)
  | .chrecv f => some (encI64 0x288 f)
  | .chcfgSet f => some (encA64 0x289 f)
  | .chcfgQ f => some (encA64 0x289 f)
  | .atom f => some (encM96 0x2C0 f)
  | .atomCas f => some (encW128 0x2C1 f)
  | .red f => some (encM96 0x2C2 f)
  | .redCell f => some (encM96 0x2C2 f)
  | .crinit f => some (encA64 0x2C3 f)
  | .arrive f => some (encA64 0x2C4 f)
  | .arriveW f => some (encA64 0x2C5 f)
  | .crwait f => some (encA64 0x2C6 f)
  | .crexp f => some (encA64 0x2C7 f)
  | .crinv f => some (encA64 0x2C8 f)
  | .gcreate f => some (encW128 0x300 f)
  | .gjoin f => some (encW128 0x301 f)
  | .gleave f => some (encW128 0x302 f)
  | .gbar f => some (encW128 0x303 f)
  | .gvote f => some (encW128 0x304 f)
  | .gred f => some (encW128 0x305 f)
  | .gquery f => some (encW128 0x306 f)
  | .gdestroy f => some (encW128 0x307 f)
  | .groveEventApply .. => none
  | .rdsr f => some (encA64 0x340 f)
  | .wrsr f => some (encA64 0x341 f)
  | .trap f => some (encI64 0x342 f)
  | .tret f => some (encA64 0x343 f)
  | .brk f => some (encI64 0x344 f)
  | .spl f => some (encA64 0x345 f)
  | .halt f => some (encA64 0x346 f)
  | .clauseHeader h => some (encHdr h)
  | .markWord m => some (encMark m)
  | .longLatencyComplete .. => none
  | .sleepEnd .. => none
  | .trapEntry .. => none
  | .deferredTrapTake .. => none
  | .standEnd .. => none
  | .issueWatchdog .. => none
  | .launch .. => none
  | .copseCreate .. => none
  | .clusterReassign .. => none
  | .stageComplete .. => none
  | .moveRoomSearch .. => none
  | .copseMigrate .. => none
  | .moveLapse .. => none
  | .commandGrant .. => none
  | .planeLoad .. => none
  | .passComplete .. => none
  | .operandLineArrive .. => none
  | .matrixAssist .. => none
  | .drainCommit .. => none
  | .detDrainCommit .. => none
  | .pageAns .. => none
  | .inval .. => none
  | .regionFill .. => none
  | .regionWriteBack .. => none
  | .tierMove .. => none
  | .l1WriteBack .. => none
  | .homeMove .. => none
  | .lineEvict .. => none
  | .markerArrive .. => none
  | .domWb .. => none
  | .domWbComplete .. => none
  | .domSwitch .. => none
  | .domSwitchComplete .. => none
  | .copyLineDeliver .. => none
  | .copyStatusPush .. => none
  | .preempt .. => none
  | .preemptEval .. => none
  | .copseSave .. => none
  | .drainLimit .. => none
  | .copseRestore .. => none
  | .restore .. => none
  | .debugCmd .. => none
  | .shadeRotation .. => none
  | .rateBoundary .. => none
  | .pmbusReading .. => none
  | .powerRemove => none
  | .hostTimeout .. => none
  | .uncorrectableError .. => none
  | .flitResend .. => none
  | .linkFail .. => none
  | .escapeResend .. => none
  | .arbiterGrant .. => none
  | .tableChangeStart .. => none
  | .tableSwitching .. => none
  | .tableDraining .. => none
  | .tableStable .. => none
  | .verOffer .. => none
  | .sqPtr .. => none
  | .pfEqPtr .. => none
  | .viEnable .. => none
  | .registerWrite .. => none
  | .functionLevelReset .. => none
  | .hostPortReset .. => none
  | .coldReset => none
  | .rst .. => none
  | .sigchk .. => none
  | .ftest => none
  | .hbm => none
  | .net => none
  | .seal => none
  | .enum => none
  | .ready => none
  | .getVersion .. => none
  | .getCapabilities .. => none
  | .negotiateAlgorithms .. => none
  | .getDigests .. => none
  | .getCertificate .. => none
  | .challenge .. => none
  | .getMeasurements .. => none
  | .peerRequest .. => none
  | .cqPtr .. => none
  | .eqPtr .. => none

/-- The encoding a term's word belongs to: a header is sapwood code, a mark word heartwood code. -/
def Instr.head? : Instr → Option Head
  | .bra f => some f.h
  | .braFar f => some f.h
  | .brx f => some f.h
  | .call f => some f.h
  | .callFar f => some f.h
  | .calx f => some f.h
  | .ret f => some f.h
  | .exit f => some f.h
  | .split f => some f.h
  | .join f => some f.h
  | .rset f => some f.h
  | .rwait f => some f.h
  | .rcancel f => some f.h
  | .yield f => some f.h
  | .yieldL f => some f.h
  | .yieldLEnd f => some f.h
  | .sleep f => some f.h
  | .elect f => some f.h
  | .vote f => some f.h
  | .voteBallot f => some f.h
  | .actm f => some f.h
  | .nop f => some f.h
  | .claim f => some f.h
  | .enq f => some f.h
  | .enqItemPush .. => none
  | .deq f => some f.h
  | .qstat f => some f.h
  | .graftShut f => some f.h
  | .graftOpen f => some f.h
  | .migrHeart f => some f.h
  | .migrSap f => some f.h
  | .migrCancel f => some f.h
  | .migrQ f => some f.h
  | .add f => some f.h
  | .addc f => some f.h
  | .sub f => some f.h
  | .subc f => some f.h
  | .mulLo f => some f.h
  | .mulHi f => some f.h
  | .mad f => some f.h
  | .madWide f => some f.h
  | .min f => some f.h
  | .max f => some f.h
  | .abs f => some f.h
  | .neg f => some f.h
  | .and f => some f.h
  | .or f => some f.h
  | .xor f => some f.h
  | .not f => some f.h
  | .shl f => some f.h
  | .shr f => some f.h
  | .sar f => some f.h
  | .rot f => some f.h
  | .bfe f => some f.h
  | .bfi f => some f.h
  | .popc f => some f.h
  | .clz f => some f.h
  | .ctz f => some f.h
  | .brev f => some f.h
  | .sel f => some f.h
  | .cmp f => some f.h
  | .mov f => some f.h
  | .movFirst f => some f.h
  | .moviW128 f => some f.h
  | .lea f => some f.h
  | .shfl f => some f.h
  | .perm f => some f.h
  | .pand f => some f.h
  | .por f => some f.h
  | .pxor f => some f.h
  | .pnot f => some f.h
  | .addImm f => some f.h
  | .subImm f => some f.h
  | .mulLoImm f => some f.h
  | .minImm f => some f.h
  | .maxImm f => some f.h
  | .andImm f => some f.h
  | .orImm f => some f.h
  | .xorImm f => some f.h
  | .shlImm f => some f.h
  | .shrImm f => some f.h
  | .sarImm f => some f.h
  | .rotImm f => some f.h
  | .cmpImm f => some f.h
  | .movi f => some f.h
  | .fadd f => some f.h
  | .fsub f => some f.h
  | .fmul f => some f.h
  | .fscale f => some f.h
  | .ffma f => some f.h
  | .fma2 f => some f.h
  | .fdot2 f => some f.h
  | .fmin f => some f.h
  | .fmax f => some f.h
  | .fcmp f => some f.h
  | .fclass f => some f.h
  | .frcp f => some f.h
  | .frsq f => some f.h
  | .fsqrt f => some f.h
  | .fexp2 f => some f.h
  | .flog2 f => some f.h
  | .fsin f => some f.h
  | .fcos f => some f.h
  | .dadd f => some f.h
  | .dmul f => some f.h
  | .dfma f => some f.h
  | .dcmp f => some f.h
  | .cvt f => some f.h
  | .pack f => some f.h
  | .unpack f => some f.h
  | .qpack f => some f.h
  | .qunpack f => some f.h
  | .mres f => some f.h
  | .mresDup f => some f.h
  | .mrel f => some f.h
  | .mtile f => some f.h
  | .mtileD f => some f.h
  | .mlds f => some f.h
  | .mswap f => some f.h
  | .mstr f => some f.h
  | .mzero f => some f.h
  | .mdrn f => some f.h
  | .mwait f => some f.h
  | .mq f => some f.h
  | .ldG f => some f.h
  | .stG f => some f.h
  | .ldS f => some f.h
  | .stS f => some f.h
  | .ldC f => some f.h
  | .prf f => some f.h
  | .smap f => some f.h
  | .sunmap f => some f.h
  | .swb f => some f.h
  | .lstep f => some f.h
  | .cmoCln f => some f.h
  | .cmoInv f => some f.h
  | .cmoCinv f => some f.h
  | .dsc f => some f.h
  | .pin f => some f.h
  | .unpin f => some f.h
  | .zero f => some f.h
  | .pqrySelf f => some f.h
  | .pqryLine f => some f.h
  | .pqryRes f => some f.h
  | .pqryCnt f => some f.h
  | .fenceAr f => some f.h
  | .fenceAcq f => some f.h
  | .fenceRel f => some f.h
  | .fenceM f => some f.h
  | .cpy f => some f.h
  | .cpyO f => some f.h
  | .cpyTIn f => some f.h
  | .cpyTOut f => some f.h
  | .cpyTDef f => some f.h
  | .cpwait f => some f.h
  | .cpyield f => some f.h
  | .cfe f => some f.h
  | .cpcan f => some f.h
  | .chsend f => some f.h
  | .chrecv f => some f.h
  | .chcfgSet f => some f.h
  | .chcfgQ f => some f.h
  | .atom f => some f.h
  | .atomCas f => some f.h
  | .red f => some f.h
  | .redCell f => some f.h
  | .crinit f => some f.h
  | .arrive f => some f.h
  | .arriveW f => some f.h
  | .crwait f => some f.h
  | .crexp f => some f.h
  | .crinv f => some f.h
  | .gcreate f => some f.h
  | .gjoin f => some f.h
  | .gleave f => some f.h
  | .gbar f => some f.h
  | .gvote f => some f.h
  | .gred f => some f.h
  | .gquery f => some f.h
  | .gdestroy f => some f.h
  | .groveEventApply .. => none
  | .rdsr f => some f.h
  | .wrsr f => some f.h
  | .trap f => some f.h
  | .tret f => some f.h
  | .brk f => some f.h
  | .spl f => some f.h
  | .halt f => some f.h
  | .clauseHeader .. => none
  | .markWord .. => none
  | .longLatencyComplete .. => none
  | .sleepEnd .. => none
  | .trapEntry .. => none
  | .deferredTrapTake .. => none
  | .standEnd .. => none
  | .issueWatchdog .. => none
  | .launch .. => none
  | .copseCreate .. => none
  | .clusterReassign .. => none
  | .stageComplete .. => none
  | .moveRoomSearch .. => none
  | .copseMigrate .. => none
  | .moveLapse .. => none
  | .commandGrant .. => none
  | .planeLoad .. => none
  | .passComplete .. => none
  | .operandLineArrive .. => none
  | .matrixAssist .. => none
  | .drainCommit .. => none
  | .detDrainCommit .. => none
  | .pageAns .. => none
  | .inval .. => none
  | .regionFill .. => none
  | .regionWriteBack .. => none
  | .tierMove .. => none
  | .l1WriteBack .. => none
  | .homeMove .. => none
  | .lineEvict .. => none
  | .markerArrive .. => none
  | .domWb .. => none
  | .domWbComplete .. => none
  | .domSwitch .. => none
  | .domSwitchComplete .. => none
  | .copyLineDeliver .. => none
  | .copyStatusPush .. => none
  | .preempt .. => none
  | .preemptEval .. => none
  | .copseSave .. => none
  | .drainLimit .. => none
  | .copseRestore .. => none
  | .restore .. => none
  | .debugCmd .. => none
  | .shadeRotation .. => none
  | .rateBoundary .. => none
  | .pmbusReading .. => none
  | .powerRemove => none
  | .hostTimeout .. => none
  | .uncorrectableError .. => none
  | .flitResend .. => none
  | .linkFail .. => none
  | .escapeResend .. => none
  | .arbiterGrant .. => none
  | .tableChangeStart .. => none
  | .tableSwitching .. => none
  | .tableDraining .. => none
  | .tableStable .. => none
  | .verOffer .. => none
  | .sqPtr .. => none
  | .pfEqPtr .. => none
  | .viEnable .. => none
  | .registerWrite .. => none
  | .functionLevelReset .. => none
  | .hostPortReset .. => none
  | .coldReset => none
  | .rst .. => none
  | .sigchk .. => none
  | .ftest => none
  | .hbm => none
  | .net => none
  | .seal => none
  | .enum => none
  | .ready => none
  | .getVersion .. => none
  | .getCapabilities .. => none
  | .negotiateAlgorithms .. => none
  | .getDigests .. => none
  | .getCertificate .. => none
  | .challenge .. => none
  | .getMeasurements .. => none
  | .peerRequest .. => none
  | .cqPtr .. => none
  | .eqPtr .. => none

/-- The kind of core that the term's word runs on. -/
def Instr.kind (i : Instr) : Kind :=
  match i with
  | .clauseHeader _ => .sap
  | .markWord _ => .heart
  | _ => match i.head? with
    | some h => h.sch.kind
    | none => .heart

/-- A word agrees with an encoding in its bytes. -/
def Agrees (w b : BitVec 128) (bytes : Nat) : Prop := w.extractLsb' 0 (8 * bytes) = b.extractLsb' 0 (8 * bytes)

/-! ### The host's words -/

/-- The kind under which a bare word is read: a word whose low twelve bits are zero can only be a header, which is sapwood code;
any other is read as heartwood code. -/
def wordKind (w : Nat) : Kind := if w % 4096 = 0 then .sap else .heart

/-- The instruction of a word of nbits bits, numbered as the opcode table numbers them; every bit above nbits is zero. -/
def decodeTableWord (nbits w : Nat) : Option Instr :=
  let v := w % 2 ^ nbits
  match decode (wordKind v) (BitVec.ofNat 128 v) with
  | .instr i _ => some i
  | .pad => none
  | .ill _ => none

end Sys2Proof
end

