-- ==== Sys2Proof/Machine/State.lean ====
section
/-! DEFINITION. The state of the device as plain data, the reasons a step can stop, and the state after cold reset.
Tables are sorted lists of key and value; a key that is not listed reads as the table's default, named beside its reader.
Keys: field 9 fy + fx (R73); cluster 140 field + site; core 4 cluster + position (0 heartwood, R398); slice 16 field + site;
bank 8 slice + bank; line pa / 128; stand 16 copse + index (R70). -/

namespace Sys2Proof.Machine

/-- A sorted table. -/
abbrev Tbl (α : Type) := List (Nat × α)
/-- Bytes by address, in canonical form (Memory.wf): an unlisted byte reads 0. -/
abbrev Mem := List Host.Cell

/-! ### Traps (spec/17) -/

/-- A fault record (R398). -/
structure FaultRec where
  npc : Word64
  othpc : Word64
  addr : Word64
  cls : Byte
  cause : Byte
  sm : Byte
  akind : BitVec 4
  space : Bool
  ckind : BitVec 2
  defer : Bool
  stand : BitVec 4
  cont : Word64
  copse : Word64
  lsite : Word64
  pfx : BitVec 4
  pfy : BitVec 4
  pcl : Byte
  pcore : BitVec 2
  fmask : Mask
  iw : BitVec 128
  aux : Word64
  tseq : Word64
  deriving DecidableEq, Repr, Inhabited

/-- A trap frame (R399); rpc0 is RPC at entry, by which `tret` sees whether software changed it (R402). -/
structure Frame where
  record : FaultRec
  rpc : Word64
  rpc0 : Word64
  amask : Mask
  q : BitVec 4
  gate : Bool
  yc : Nat
  rb : Nat
  sdep : Nat
  savs : List Word64
  clh : Option Hdr
  clpos : Nat
  deriving DecidableEq, Repr, Inhabited

/-! ### Stands (spec/04, spec/17 R412) -/

/-- The kinds of a divergence-stack entry (R92). -/
inductive EntryKind where
  | pend
  | join
  | token (n : Nat)
  | call
  deriving DecidableEq, Repr, Inhabited

/-- A divergence-stack entry (R92): `pc` is none until a `join` sets it; `mask` is MASK or ARR. -/
structure Entry where
  kind : EntryKind
  pc : Option Word64
  mask : Mask
  deriving DecidableEq, Repr, Inhabited

/-- What the next non-pad word of a stand must be (R47): an instruction of the clause in progress, or a header, after the end
of a clause or as the target of a control transfer. Heartwood code takes any word anywhere. -/
inductive Place where
  | inClause
  | afterClause
  | target
  deriving DecidableEq, Repr, Inhabited

/-- A place in the code of a stand, to which an abandoned wait goes back (R45). -/
structure Spot where
  pc : Word64
  place : Place
  clh : Option Hdr
  clpos : Nat
  deriving DecidableEq, Repr, Inhabited

/-- The words of a channel entry that are not zero (R337). -/
abbrev ChanEntry := Tbl Word32

/-- What a long-latency operation still waits for before LONG_LATENCY_COMPLETE can write its results (R41). -/
inductive PendOn where
  | ready
  | claim (lvls : List (Nat × Nat))
  | deq (f : A64) (spot : Spot)
  | mwait (cluster resv tag upto dst : Nat) (spot : Spot)
  | grove
  | copies (seqs : List Nat)
  | swb (word : Nat)
  | fenceM
  | log (word : Nat)
  deriving DecidableEq, Repr, Inhabited

/-- An outstanding long-latency operation (R41): its flag, and the writes it makes on completion: words of v registers by
128 reg + thread, s registers, lanes of p registers, q registers, and channel entries. The lists named `lost` hold what a later write of a
sapwood stand has contested (R43): v and p by 128 number + thread, s and q by number. -/
structure Pend where
  flag : Option Nat
  on : PendOn
  vw : Tbl Word32
  sw : Tbl Word64
  pw : Tbl (Mask × Mask)
  qw : Tbl Bool
  ch : Option (Nat × List ChanEntry)
  vlost : List Nat
  slost : List Nat
  plost : List Nat
  qlost : List Nat
  deriving DecidableEq, Repr, Inhabited

/-- What a stand is parked, held or asleep on (R115, R360, R364, R412). A hold on page requests names those still open, each
with the trap that its denial raises, and the trap of one that was denied (R245, R255). -/
inductive Wait where
  | none
  | page (ids : List (Nat × TrapReq)) (denied : Option TrapReq)
  | record (off : BitVec 16) (ph : Bool) (dst : Nat)
  | cont (off : BitVec 16) (ph : Bool) (dst : Nat) (target : Word64)
  | heldRec (off : BitVec 16) (dst : Nat) (park : Bool)
  | grove (gn : Nat)
  | groveHeld (gn : Nat)
  | markers
  | sleep (n : Nat)
  | enq (f : A64) (p : Mask)
  | copies (mask : BitVec 16)
  deriving DecidableEq, Repr, Inhabited

/-- A path-set entry (R314) with the lines its writes touched since the last WF marker (R315). -/
structure Path where
  plane : Nat
  net : Nat
  slice : Nat
  n : Nat
  lines : List Nat
  deriving DecidableEq, Repr, Inhabited

/-- A marker on its way to a slice (R315): WF or FD, the lines whose replicas it collapses. -/
structure Marker where
  slice : Nat
  wf : Bool
  n : Nat
  lines : List Nat
  forM : Bool
  deriving DecidableEq, Repr, Inhabited

/-- A membership handle in a g register (R370): the record and its incarnation. -/
structure GHandle where
  grec : Nat
  tag : Nat
  deriving DecidableEq, Repr, Inhabited

/-- A handle in a b register (R221): the engine's cluster, the record and the tag. -/
structure BHandle where
  resv : Nat
  tag : Nat
  deriving DecidableEq, Repr, Inhabited

/-- A release by `swb` that is not yet performed (R271): the issue of its stand that made it, its mask, the lines of its region that are still
to be written back, and whether its markers have been sent. -/
structure SwbRel where
  word : Nat
  mask : Byte
  lines : List Nat
  sent : Bool
  deriving DecidableEq, Repr, Inhabited

/-- A stand's life: an empty slot, running, ending under R101, or halted (R404). -/
inductive Life where
  | absent
  | live
  | ending
  | halted
  deriving DecidableEq, Repr, Inhabited

/-- A stand (R412 and the registers of R50); `ticket` is the ticket of its last claim that returned one, `current` says that it is still
its current ticket (R77), `fencing` says that it waits in a `fence` (R317); `stall` is why it last failed to issue (R420: the AUX codes, 0 none, 9 an event outside
its control) `last` the place of the word it issued last,
and `issues` the model's own count of its issues, by which free choices are told apart (log 2). -/
structure Stand where
  life : Life
  copse : Nat
  idx : Nat
  pc : Word64
  a : Mask
  exited : Mask
  stack : List Entry
  yc : Nat
  rb : Nat
  v : Tbl Word32
  sr : Tbl Word64
  p : Tbl Mask
  q : BitVec 4
  flags : Tbl Nat
  g : Tbl GHandle
  d : Tbl (BitVec 128)
  b : Tbl BHandle
  lvl : Tbl Word64
  ticket : Option Nat
  current : Bool
  claims : Nat
  gate : Bool
  held : Bool
  lgid : BitVec 16
  place : Place
  clh : Option Hdr
  clpos : Nat
  waited : Bool
  pend : List Pend
  frames : List Frame
  deferred : List FaultRec
  trapWait : Option FaultRec
  tseq : Word64
  copySeq : BitVec 32
  wait : Wait
  enqDone : Nat
  paths : List Path
  markers : List Marker
  rel : Option Byte
  fenceM : Option (BitVec 8 × Option Nat)
  swbs : List SwbRel
  fencing : Bool
  issueWait : Nat
  ready : Nat
  stall : Nat
  last : Spot
  issues : Nat
  exitPc : Word64
  exitMask : Mask
  deriving DecidableEq, Repr, Inhabited

/-- The empty stand slot: every register as at stand start (R72). -/
def Stand.init : Stand where
  life := .absent
  copse := 0
  idx := 0
  pc := 0
  a := 0
  exited := 0
  stack := []
  yc := 0
  rb := 0
  v := []
  sr := []
  p := []
  q := 0
  flags := []
  g := []
  d := []
  b := []
  lvl := []
  ticket := none
  current := false
  claims := 0
  gate := true
  held := false
  lgid := 0
  place := .target
  clh := none
  clpos := 0
  waited := false
  pend := []
  frames := []
  deferred := []
  trapWait := none
  tseq := 0
  copySeq := 0
  wait := .none
  enqDone := 0
  paths := []
  markers := []
  rel := none
  fenceM := none
  swbs := []
  fencing := false
  issueWait := 0
  ready := 0
  stall := 0
  last := ⟨0, .target, none, 0⟩
  issues := 0
  exitPc := 0
  exitMask := 0

/-! ### Copses (spec/11, spec/14, spec/05, spec/17 R411) -/

/-- What will fill an empty line (R252): a copy by its name, or the first-touch fill of its region (R261). -/
inductive Filler where
  | copy (seq : Nat)
  | region
  deriving DecidableEq, Repr, Inhabited

/-- The state of a scratchpad line (R241, R411): region is the index plus one, 0 for none; touched as in R261. -/
structure LineSt where
  full : Bool
  bm : Bool
  touched : Bool
  filler : Option Filler
  region : Nat
  dirty : Mask
  deriving DecidableEq, Repr, Inhabited

/-- A line at copse creation (R241). -/
def LineSt.init : LineSt := ⟨true, false, true, none, 0, 0⟩

/-- A mapped region (R259): mode 0 .rw, 1 .ro, 2 .wo. -/
structure Region where
  soff : Nat
  len : Nat
  va : Nat
  mode : BitVec 2
  mask : Byte
  deriving DecidableEq, Repr, Inhabited

/-- STATE of a move request (R129). -/
inductive MoveState where
  | none
  | pending
  | gather
  | done
  | lapsed
  | refused
  deriving DecidableEq, Repr, Inhabited

/-- A copse's move request (R129): TGT, STATE, REASON, MOVES, the lapse count (R131) and the core where room is reserved. -/
structure Move where
  tgt : Option Kind
  state : MoveState
  reason : Byte
  moves : BitVec 16
  lapse : Nat
  room : Option Nat
  deriving DecidableEq, Repr, Inhabited

/-- The form of a copy request (R329, R411). -/
inductive CopyForm where
  | cpy
  | cpyO
  | tIn
  | tOut
  deriving DecidableEq, Repr, Inhabited

/-- An outstanding copy (R319-R323): its name, stand and copy number, the global runs (address and length) and the scratchpad
offset of its first byte, the lines still to deliver, those delivered, the page request it is parked on, the end and trap that wait
for room in its stand's queue (R397), its status once it has ended, and the lines of a scratchpad source as they were at its acceptance
(R335). -/
structure Copy where
  seq : Nat
  stand : Nat
  num : BitVec 32
  form : CopyForm
  off : Nat
  runs : List (Nat × Nat)
  cr : Option (Nat × Nat)
  grp : BitVec 4
  sm : Byte
  ph : BitVec 2
  ntf : Option Nat
  todo : List Nat
  lines : Nat
  parked : Option Nat
  fate : Option (BitVec 2 × TrapReq)
  status : Option (BitVec 2)
  snap : List (Nat × Mem)
  deriving DecidableEq, Repr, Inhabited

/-- A region fill or write-back in flight (R261, R262): its line, the stand that a write-back is for, the page request it waits
on, and the stands that touched the line, with their program counters and the trap that a denial raises. -/
structure Fill where
  line : Nat
  wb : Option Nat
  req : Option Nat
  stands : List (Nat × Word64 × TrapReq)
  deriving DecidableEq, Repr, Inhabited

/-- A copse's life: resident on its core, saved in its interface's save area, or ended. -/
inductive CopseLife where
  | absent
  | resident
  | saved
  | ended
  deriving DecidableEq, Repr, Inhabited

/-- A pre-emption under way (R408): draining with the reference count left (none: no limit), and the command that asked. -/
structure Drain where
  limit : Option Nat
  opps : Nat
  cmd : Option (Nat × BitVec 16)
  deriving DecidableEq, Repr, Inhabited

/-! ### Cores (spec/13 R299, spec/11 R247 R254, spec/14 R336) -/

/-- An L1 data line (R299): its bytes that are present, those that are dirty, the stands whose stores made bytes dirty, and whether it came at
lowest retention, with the hint stream (R278). -/
structure L1Line where
  bytes : Mem
  valid : Mask
  dirty : Mask
  writers : List Nat
  low : Bool
  deriving DecidableEq, Repr, Inhabited

/-- A line of which an L1 holds nothing. -/
def L1Line.init : L1Line := ⟨[], 0, 0, [], false⟩

/-- One faulting element of a side-log entry (R254): its thread, address, byte length and data. -/
structure LogElem where
  thread : Nat
  va : Nat
  len : Nat
  data : Word64
  deriving DecidableEq, Repr, Inhabited

/-- A side-log entry (R254): a store, or a `red` with its operation and type, of a uniform or a vector word; `word` is the issue of its
stand that made it. -/
structure LogEntry where
  stand : Nat
  page : Nat
  cause : Nat
  elems : List LogElem
  op : Option (BitVec 3 × BitVec 5)
  sm : Byte
  ph : BitVec 2
  uni : Bool
  req : Nat
  word : Nat
  deriving DecidableEq, Repr, Inhabited

/-- A channel (R336-R339): owner, depth, entries oldest first, entries held for issued instructions, entries due from engines. -/
structure Chan where
  owner : Option Nat
  depth : Nat
  entries : List ChanEntry
  held : Nat
  due : Nat
  deriving DecidableEq, Repr, Inhabited

/-- A channel with depth 0 (R338). -/
def Chan.init : Chan := ⟨none, 0, [], 0, 0⟩

/-- A TLB entry (R247): its owner (a copse in the first level, a context in the second), its set, page size as bits of offset, page
number, leaf entry. -/
structure TlbEntry where
  owner : Nat
  set : Nat
  bits : Nat
  page : Nat
  leaf : Word64
  deriving DecidableEq, Repr, Inhabited

/-- A core (R17); `order` holds its resident copses in the order of admission (R248). -/
structure Core where
  l1 : Tbl L1Line
  slog : List LogEntry
  chans : Tbl Chan
  tlb : List TlbEntry
  block : Tbl (List (Nat × Nat))
  opp : Nat
  lastHeavy : Bool
  lastYield : Option Nat
  stopped : Bool
  order : List Nat
  deriving DecidableEq, Repr, Inhabited

/-- A core with nothing in it. -/
def Core.init : Core := ⟨[], [], [], [], [], 0, false, none, false, []⟩

/-! ### The matrix engine (spec/09, spec/10) -/

/-- STATE of a reservation record (R207). -/
inductive RecState where
  | free
  | opened
  | closing
  deriving DecidableEq, Repr, Inhabited

/-- A command on a reservation's queue (R210, R228-R234). -/
inductive CmdOp where
  | fillS (part : BitVec 2) (src first count : Nat)
  | fillG (part : BitVec 2) (first count : Nat) (desc : BitVec 128)
  | load (tile : Nat)
  | swap
  | pass (strm strmTag tile acc : Nat) (z : Bool)
  | zero (mask : Byte)
  | drain (dest dfmt : Nat) (add satx za : Bool) (base row0 rows stride ch acc : Nat) (mask : Byte)
  deriving DecidableEq, Repr, Inhabited

/-- Where a command stands: accepted, granted and computed, a drain staged at its banks, parked on a page request (none once that
was denied and its trap waits for room), or complete but behind an earlier one (R210). -/
inductive CmdPhase where
  | waiting
  | granted
  | staged
  | parked (req : Option Nat)
  | complete
  deriving DecidableEq, Repr, Inhabited

/-- A queued command: its acceptance number and time (R211), stand, phase, the operand lines or drain rows still to come, the scratchpad
lines of a fill as they were at acceptance (R229), the codes that a drain has read, the address that parked it or the tile that a granted
pass computes with, whether it was withdrawn, and the elements that a plain drain to scratchpad has written before its completion, by
64 times their row in the tile (R236). -/
structure Cmd where
  seq : Nat
  stand : Nat
  op : CmdOp
  phase : CmdPhase
  todo : List Nat
  snap : List (Nat × Mem)
  vals : List Word32
  addr : Nat
  withdrawn : Bool
  since : Nat
  early : List Nat
  deriving DecidableEq, Repr, Inhabited

/-- A reservation record (R207) with the copse that owns it, the handle's tag (R221), its queue (R210) and the acceptance
numbers of commands that were withdrawn (R231, R236). -/
structure Resv where
  state : RecState
  gbase : Nat
  gcnt : Nat
  fmt : BitVec 3
  spar : Bool
  bsc : Bool
  role : Bool
  blen : Nat
  xoff : BitVec 16
  moff : BitVec 16
  tsc : Word32
  amask : Byte
  atile : Option Nat
  stile : Option Nat
  breg : BitVec 4
  stand : BitVec 4
  ff : Bool
  copse : Nat
  tag : Nat
  queue : List Cmd
  accepted : Nat
  gone : List Nat
  deriving DecidableEq, Repr, Inhabited

/-- A record at its Reset values (R207). -/
def Resv.init : Resv where
  state := .free
  gbase := 0
  gcnt := 0
  fmt := 0
  spar := false
  bsc := false
  role := false
  blen := 0
  xoff := 0
  moff := 0
  tsc := 0
  amask := 0
  atile := none
  stile := none
  breg := 0
  stand := 0
  ff := false
  copse := 0
  tag := 0
  queue := []
  accepted := 0
  gone := []

/-- A matrix engine: records, operand buffer bytes with the lines that are full and those whose fill was cancelled (R206, R228), planes
as record, tag and tile (R203), accumulator words by 4096 tile + 64 m + n with the free value each tile was first reserved with (R214),
and assists waiting, oldest first: tile, record, command (R217). -/
structure Engine where
  recs : Tbl Resv
  buf : Mem
  full : List Nat
  dead : List Nat
  planes : List (Nat × Nat × Nat)
  acc : Tbl Word32
  accSeed : Tbl Nat
  assists : List (Nat × Nat × Nat)
  deriving DecidableEq, Repr, Inhabited

/-- A reservation on its way between engines or in a copse image (R218, R411): its record's number, the record, its granules' bytes and full
and cancelled lines counted from its first granule, and its accumulator words. -/
structure SavedResv where
  num : Nat
  resv : Resv
  bytes : Mem
  full : List Nat
  dead : List Nat
  acc : Tbl Word32
  accSeed : Tbl Nat
  deriving DecidableEq, Repr, Inhabited

/-- A cluster (R16): the stage it serves, its ticket block, lane rate, charge samples, front-end count, ownership table, TLB, engine; and
half engine cycles since reset (R211, R212). -/
structure Cluster where
  serves : Option (Nat × Nat)
  block : Tbl (List (Nat × Nat))
  rate : BitVec 2
  fe : Nat
  charge : List (Nat × Nat)
  owners : Tbl Nat
  tlb : List TlbEntry
  eng : Engine
  halves : Nat
  deriving DecidableEq, Repr, Inhabited

/-- A cluster after reset (R418, R207). -/
def Cluster.init : Cluster := ⟨none, [], 1, 0, [], [], [], ⟨[], [], [], [], [], [], [], []⟩, 0⟩

/-! ### Copses, with what a saved one keeps of its core and engine (R218, R258, R343) -/

/-- A copse (R18, R411); `base` is its hidden base register, the place of its scratchpad in its core's (R241). -/
structure Copse where
  life : CopseLife
  vi : Nat
  launch : Nat
  stage : Nat
  ord : Nat
  nst : Nat
  core : Nat
  kind : Kind
  vregs : Nat
  uregs : Nat
  alloc : Nat
  scratch : Mem
  lines : Tbl LineSt
  regions : Tbl Region
  move : Move
  copies : List Copy
  fills : List Fill
  engine : Nat
  laneReq : BitVec 2
  gavg : List Nat
  sinceGraft : Nat
  block : List (Nat × Nat)
  maint : Bool
  base : Nat
  drain : Option Drain
  savedChans : Tbl Chan
  savedLog : List LogEntry
  savedResvs : List SavedResv
  deriving DecidableEq, Repr, Inhabited

/-- No copse. -/
def Copse.init : Copse where
  life := .absent
  vi := 0
  launch := 0
  stage := 0
  ord := 0
  nst := 0
  core := 0
  kind := .sap
  vregs := 8
  uregs := 4
  alloc := 0
  scratch := []
  lines := []
  regions := []
  move := ⟨none, .none, 0, 0, 0, none⟩
  copies := []
  fills := []
  engine := 0
  laneReq := 1
  gavg := []
  sinceGraft := 0
  block := []
  maint := false
  base := 0
  drain := none
  savedChans := []
  savedLog := []
  savedResvs := []

/-! ### Fields (spec/17 R414 R419, spec/18 R433) -/

/-- A field's registers and counters; `soft` counts the soft errors that were corrected there (R405). -/
structure Field where
  agemax : BitVec 6
  wn : BitVec 4
  we : BitVec 4
  ws : BitVec 4
  ww : BitVec 4
  wl : BitVec 4
  wx : BitVec 4
  dead : BitVec 16
  reinj : BitVec 16
  escn : BitVec 16
  rotEn : Bool
  intv : BitVec 6
  delta : BitVec 5
  maxp : BitVec 4
  moved : BitVec 32
  skipped : BitVec 16
  fcap : BitVec 2
  tdiv : Nat
  good : Nat
  tdivMax : Nat
  ref : Word64
  interval : Nat
  stalled : Tbl Nat
  soft : Nat
  deriving DecidableEq, Repr, Inhabited

/-- A field after cold reset (R414, R418, R433). -/
def Field.init : Field where
  agemax := 63
  wn := 1
  we := 1
  ws := 1
  ww := 1
  wl := 1
  wx := 1
  dead := 0
  reinj := 0
  escn := 0
  rotEn := true
  intv := 0x0F
  delta := 8
  maxp := 4
  moved := 0
  skipped := 0
  fcap := 2
  tdiv := 1
  good := 0
  tdivMax := 1
  ref := 0
  interval := 0
  stalled := []
  soft := 0

/-! ### The wafer cache (spec/12) -/

/-- An update an add-on-store drain has staged for a line (R216, R235): its cluster, record and command, the elements by offset in
the line with their format and saturation, its key under DET (launch, stage, copse ordinal, stand, issue count), and the copse that
issued it with its interface. -/
structure Staged where
  cluster : Nat
  resv : Nat
  cmd : Nat
  dfmt : Nat
  sat : Bool
  elems : List (Nat × Word32)
  det : Option (Nat × Nat × Nat × Nat × Nat)
  copse : Nat
  vi : Nat
  deriving DecidableEq, Repr, Inhabited

/-- An access that a staged update holds at a line's bank (R216): of a stand's word, by the count of its issues; of a copy or a command of
an engine, by the lines it has still to move; of a region's fill or write-back; of a side-log entry that is to be replayed; of a peer, by the
name of its request. -/
inductive Waiter where
  | stand (k issues : Nat)
  | copy (copse seq left : Nat)
  | cmd (cluster resv seq left : Nat)
  | fill (copse line : Nat)
  | log (core stand word page : Nat)
  | peer (name : Nat)
  deriving DecidableEq, Repr, Inhabited

/-- A directory entry with the home copy (R274): bytes by offset, home bank, the zero flag, replicas by field, pin marks by
context, the written mark, staged updates and the accesses they hold, the first field that loaded the line without a replica and the reference count of the
anchor's field then, the field of the last requests with how many of them came in a row, and the times of the last use of the home copy and,
by field, of the replicas (R277). -/
structure Dir where
  cached : Bool
  bytes : Mem
  bank : Nat
  dirty : Bool
  zero : Bool
  replicas : Tbl Mem
  pins : List Nat
  written : Bool
  staged : List Staged
  waiters : List Waiter
  firstLoad : Option (Nat × Nat)
  streak : Option (Nat × Nat)
  used : Nat
  repUsed : Tbl Nat
  deriving DecidableEq, Repr, Inhabited

/-- A line that is not cached. -/
def Dir.init : Dir := ⟨false, [], 0, false, false, [], [], false, [], [], none, none, 0, []⟩

/-- The thresholds of the placement engine, which firmware may change (R277): successive requests that move a home copy, reference
cycles within which a second field's load makes a replica; and the count of requests that orders last uses. -/
structure Placement where
  moveAfter : Nat
  window : Nat
  clock : Nat
  deriving DecidableEq, Repr, Inhabited

/-! ### What must not be read stale (spec/13 R303-R310) -/

/-- A release that was performed (R305): the core of its stand at that moment, its mask, the lines of which whoever synchronises with it
must not read a replica older than the home, and the issue whose writes alone carry it (none for a fence: every later write). -/
structure Msg where
  core : Nat
  mask : Byte
  lines : List Nat
  at' : Option Nat
  deriving DecidableEq, Repr, Inhabited

/-- The model's own record of the orders that R307 lets no replica or L1 copy break (log 81): `known`, by copse, the lines of which it
must not read an older replica; `engine`, by copse, the lines that its engines wrote, with the observer bit (R306); `sent`, by stand,
the releases it performed; `words`, the releases that a byte's last write carries, with the core in whose L1 it still is; `read`, by
stand, those it has read, with the issue; `objects`, those handed over through an object by its kind and name; `fresh`, core and line,
copies whose next fill is from the home (R301, R345); `near`, core and byte, dirty bytes of L1-executed atomics (R310). -/
structure Order where
  known : Tbl (List Nat)
  engine : Tbl (List (Nat × Nat))
  sent : Tbl (List Msg)
  words : List (Nat × Option Nat × Msg)
  read : Tbl (List (Nat × Msg))
  objects : List (Nat × Nat × Msg)
  fresh : List (Nat × Nat)
  near : List (Nat × Nat)
  deriving DecidableEq, Repr, Inhabited

/-- Nothing recorded. -/
def Order.init : Order := ⟨[], [], [], [], [], [], [], []⟩

/-! ### Launches (spec/03) -/

/-- A level descriptor (R64). -/
structure Level where
  extent : Nat
  dom : BitVec 3
  scope : Byte
  fgsz : Nat
  deriving DecidableEq, Repr, Inhabited

/-- A stage: its descriptor (R63) and its running state (R73-R81): ticket ranges by field, copses created, items of the output
queue by field, whether that queue is closed and the stage complete. -/
structure Stage where
  sentry : Word64
  hentry : Word64
  gmap : Word64
  vregs : Nat
  uregs : Nat
  smem : Nat
  cstands : Nat
  kinds : BitVec 2
  qlog : Nat
  qisz : Nat
  qscope : Byte
  cmin : Nat
  cmax : Nat
  detw : Nat
  levels : List Level
  counters : Tbl (List (Nat × Nat))
  created : Nat
  segs : Tbl (List (List Byte))
  done : Bool
  deriving DecidableEq, Repr, Inhabited

/-- A launch (R62): header fields, stages, the layer step σ (R251), stands terminated (R401), how many line contents were past
when it started (R268), the units that its layer schedule keeps near and those that may go first (R250), and whether it runs. -/
structure Launch where
  running : Bool
  vi : Nat
  tag : BitVec 16
  record : Word64
  det : Bool
  rstrt : Bool
  prio : Nat
  argp : Word64
  tvt : Word64
  lsch : Word64
  ldist : Nat
  latb : Nat
  stages : List Stage
  sigma : BitVec 32
  terminated : Nat
  since : Nat
  kept : List Nat
  passed : List Nat
  deriving DecidableEq, Repr, Inhabited

/-- No launch. -/
def Launch.init : Launch := ⟨false, 0, 0, 0, false, false, 0, 0, 0, 0, 0, 0, [], 0, 0, 0, [], []⟩

/-! ### Groves (spec/16) -/

/-- The kind of an arrival (R374). -/
inductive ArrKind where
  | bar
  | vote (op : BitVec 2)
  | red (op : BitVec 3) (ty : BitVec 5)
  deriving DecidableEq, Repr, Inhabited

/-- A member's part in the open phase (R372, R373). -/
inductive MemSt where
  | idle
  | counted
  | arrived (k : ArrKind) (x : Word64)
  deriving DecidableEq, Repr, Inhabited

/-- A member (R371): its stand, ordinal, order of joining, state, held arrival, and whether it is suspended (R377). -/
structure Member where
  stand : Nat
  ord : Nat
  joined : Nat
  st : MemSt
  held : Option (ArrKind × Word64)
  susp : Bool
  deriving DecidableEq, Repr, Inhabited

/-- A held contribution to the cell under DET (R381): its phase, the ordinal and order of joining of its member, order of issue and
value. -/
structure Contrib where
  phase : Nat
  ord : Nat
  joined : Nat
  n : Nat
  stand : Nat
  x : Word64
  deriving DecidableEq, Repr, Inhabited

/-- A grove record (R368): its interface, identity in names (R369), incarnation, options (R384), members, the open phase, the counts of phase 0 (R372),
what the open phase has seen (R375), the cell and the contributions held for it. -/
structure Grove where
  live : Bool
  vi : Nat
  ident : BitVec 32
  tag : Nat
  limit : Nat
  elas : Bool
  cell : Bool
  cop : BitVec 3
  cty : BitVec 5
  scope : Byte
  start : Nat
  members : List Member
  joins : Nat
  phase : Nat
  zeroCount : Nat
  idle : Bool
  departed : Bool
  excused : Bool
  lastBroken : Bool
  value : Word64
  contribs : List Contrib
  deriving DecidableEq, Repr, Inhabited

/-- A free grove record. -/
def Grove.init : Grove := ⟨false, 0, 0, 0, 0, false, false, 0, 0, 0, 0, [], 0, 0, 0, false, false, false, false, 0, []⟩

/-- An event on its way to a grove's home slice (R376). -/
inductive GroveOp where
  | create (imm : Word64) (val : Word64)
  | join (name : Word64)
  | leave
  | arrive (k : ArrKind) (x : Word64)
  | query (form : BitVec 3)
  | destroy (name : Word64)
  deriving DecidableEq, Repr, Inhabited

/-- A grove event in flight: the issuing stand, its operation, its g register and the handle at issue. -/
structure GroveEvent where
  stand : Nat
  op : GroveOp
  gn : Nat
  handle : Option GHandle
  deriving DecidableEq, Repr, Inhabited

/-! ### Interfaces (spec/12 R281, spec/19) -/

/-- A ring's pointer register (R443). -/
structure Ring where
  logn : BitVec 4
  hptr : BitVec 16
  dptr : BitVec 16
  deriving DecidableEq, Repr, Inhabited

/-- One set of a domain (R281), with the slice list read when it was put in force. -/
structure DomSet where
  nslice : BitVec 11
  hmask : BitVec 14
  laddr : BitVec 45
  slices : List Nat
  deriving DecidableEq, Repr, Inhabited

/-- A domain's register block (R281). -/
structure Domain where
  sel : Bool
  wb : Bool
  sw : Bool
  err : Bool
  set0 : DomSet
  set1 : DomSet
  wblines : BitVec 32
  deriving DecidableEq, Repr, Inhabited

/-- A completion entry (R444). -/
structure Completion where
  tag : BitVec 16
  status : Byte
  detail : BitVec 32
  deriving DecidableEq, Repr, Inhabited

/-- An open page request (R245, R448). -/
structure PageReq where
  id : Nat
  page : Nat
  cause : Nat
  deriving DecidableEq, Repr, Inhabited

/-- A command under way (R447): its opcode, tag, reference counts since it started, and whether its timeout was reported. -/
structure Running where
  opcode : Byte
  tag : BitVec 16
  started : Word64
  tdivMax : Nat
  timedOut : Bool
  victims : List Nat
  unsaved : Nat
  deriving DecidableEq, Repr, Inhabited

/-- A virtual interface: VI_CFG, VI_PART, its domain, its own block, and what it holds; `sites` lists by binding generation the clusters and
slices that it has held, whose handles were issued to it (R285); `saved` lists directory entry, copse, offset and
bytes of each image in its save area (R410), `breached` the copses whose image the host wrote while the interface was enabled, `areaFresh`
says that header and directory stand there and `areaTouched` that the host wrote them then (R413); `ended` that its context was terminated
(R405); `msix` holds the MSI-X table by the place of its 8-byte words (R441), whose unlisted words are as PCIe resets them. -/
structure Vi where
  en : Bool
  ceil : BitVec 2
  wbw : BitVec 8
  cquota : BitVec 16
  gquota : BitVec 16
  pquota : BitVec 16
  nclus : BitVec 14
  partLaddr : BitVec 48
  part : List Nat
  dom : Domain
  sites : Tbl (List Nat × List Nat)
  maxv : BitVec 16
  minv : BitVec 16
  agreed : BitVec 16
  ok : Bool
  fail : Bool
  ctxRoot : BitVec 36
  saveBase : BitVec 52
  saveLen : BitVec 52
  ilog : BitVec 5
  ien : Bool
  hlim : BitVec 32
  sqBase : BitVec 52
  cqBase : BitVec 52
  eqBase : BitVec 52
  sq : Ring
  cq : Ring
  eq : Ring
  cqHeld : List Completion
  eqHeld : List FaultRec
  msi0 : Nat
  msi1 : Nat
  pages : List PageReq
  nextReq : Nat
  cmds : List Running
  saved : List (Nat × Nat × Nat × Nat)
  breached : List Nat
  areaFresh : Bool
  areaTouched : Bool
  ended : Bool
  msix : Tbl Word64
  deriving DecidableEq, Repr, Inhabited

/-- An empty set (R281). -/
def DomSet.init : DomSet := ⟨0, 0, 0, []⟩

/-- A virtual interface after cold reset (R281, R422, R439-R443). -/
def Vi.init : Vi where
  en := false
  ceil := 1
  wbw := 1
  cquota := 0
  gquota := 0
  pquota := 0
  nclus := 0
  partLaddr := 0
  part := []
  dom := ⟨false, false, false, false, DomSet.init, DomSet.init, 0⟩
  sites := []
  maxv := 0
  minv := 0
  agreed := 0
  ok := false
  fail := false
  ctxRoot := 0
  saveBase := 0
  saveLen := 0
  ilog := 26
  ien := true
  hlim := 0x05F5E100
  sqBase := 0
  cqBase := 0
  eqBase := 0
  sq := ⟨0, 0, 0⟩
  cq := ⟨0, 0, 0⟩
  eq := ⟨0, 0, 0⟩
  cqHeld := []
  eqHeld := []
  msi0 := 0
  msi1 := 0
  pages := []
  nextReq := 1
  cmds := []
  saved := []
  breached := []
  areaFresh := false
  areaTouched := false
  ended := false
  msix := []

/-- A PF's event ring (R446): base, pointers, LOST, held events and entries signalled. -/
structure Pf where
  base : BitVec 52
  ring : Ring
  lost : BitVec 16
  held : List FaultRec
  msi : Nat
  deriving DecidableEq, Repr, Inhabited

/-- A PF after cold reset. -/
def Pf.init : Pf := ⟨0, ⟨0, 0, 0⟩, 0, [], 0⟩

/-! ### The network (spec/18) -/

/-- The state of a plane's table change (R431). -/
inductive PlaneState where
  | stable
  | loading
  | switching
  | draining
  deriving DecidableEq, Repr, Inhabited

/-- A plane: active table, state, the tables as router to (destination to entry), the change number (R430), and the
sources that inject under the new table. -/
structure Plane where
  act : Bool
  st : PlaneState
  table0 : Tbl (Tbl (BitVec 4))
  table1 : Tbl (Tbl (BitVec 4))
  gen : Nat
  flipped : List Nat
  deriving DecidableEq, Repr, Inhabited

/-- The transactions that packets carry (R423). -/
inductive Transaction where
  | load
  | atomic
  | fill
  | copyRead
  | mapRead
  | store
  | marker
  | groveEvent
  | recordEvent
  | loadReply
  | atomicReply
  | ack
  | groveDone
  | lineWrite
  | writeBack
  | copyData
  | drainLine
  | homeMove
  deriving DecidableEq, Repr, Inhabited

/-- A packet in the network (R426): what it carries, its plane and router, its header fields, the link over which it came or comes,
whether it is still on that link without an acknowledgement, TS and XO as they were at its sender, and the escape buffer that holds it
with the number of the table it was ejected under. -/
structure Packet where
  id : Nat
  kind : Transaction
  plane : Nat
  router : Nat
  dest : BitVec 11
  dport : BitVec 4
  src : BitVec 11
  sport : BitVec 4
  ts : Bool
  xo : Bool
  esc : Bool
  len : BitVec 3
  txn : BitVec 26
  link : Option Nat
  sent : Bool
  ts0 : Bool
  xo0 : Bool
  escaped : Option (Nat × Nat)
  deriving DecidableEq, Repr, Inhabited

/-- An output's arbiter (R434): pointer, run count, and for each input its head packet with its age. -/
structure Arbiter where
  p : Nat
  c : Nat
  heads : Tbl (Nat × Nat)
  deriving DecidableEq, Repr, Inhabited

/-- A link (R424): failed, and the consecutive failed resends of the flit that waits for its acknowledgement. -/
structure Link where
  failed : Bool
  resends : Nat
  deriving DecidableEq, Repr, Inhabited

/-- The network. -/
structure Net where
  planes : Tbl Plane
  links : Tbl Link
  packets : List Packet
  arbs : Tbl Arbiter
  deriving DecidableEq, Repr, Inhabited

/-! ### The module (spec/20) -/

/-- The phases of bring-up (R454), each while its work is under way; SIGCHK is one step and is passed within it. -/
inductive Phase where
  | rom
  | sigchk
  | ftest
  | hbm
  | net
  | seal
  | enum
  | ready
  | failed
  deriving DecidableEq, Repr, Inhabited

/-- Bring-up and the placement map (R454-R458, R284): phase reached, ERR, MAINT, SEALED, TRANS, SVER, CACHE, the binding
generation, exposed clusters and slices, spares, the clusters and slices of the retained generations, the measurements of the images that are loaded and of the
sealed map (R451), and whether the host ports present their functions. -/
structure Boot where
  phase : Phase
  err : Byte
  maint : Bool
  sealed : Bool
  trans : Bool
  sver : BitVec 16
  cache : BitVec 13
  bgen : BitVec 16
  clusters : List Nat
  spares : List Nat
  slices : List Nat
  gens : List (Nat × List Nat × List Nat)
  meas2 : BitVec 384
  meas3 : BitVec 384
  meas4 : BitVec 384
  ports : Bool
  deriving DecidableEq, Repr, Inhabited

/-- Power (R452, R453): whether the wafer has it, consecutive readings out of range, the report in STATUS_WORD, and what the controller
measured last. -/
structure Power where
  on : Bool
  bad : Nat
  status : Bool
  last : Option Reading
  deriving DecidableEq, Repr, Inhabited

/-- What the host query reports: the pairing threshold (R84), the thresholds of the placement engine (R277), the controlling field of an
interface (R421), a field's count of soft errors (R405), the slices of interface 0's domain as handles (R455). -/
inductive Query where
  | charge
  | placement
  | controlling (vi : Nat)
  | softErrors (field : Nat)
  | sliceList
  deriving DecidableEq, Repr, Inhabited

/-- The reads that the PMBus controller answers (R452). -/
inductive PmbusRead where
  | vin
  | iin
  | pout
  | temperature1
  | temperature2
  | statusWord
  deriving DecidableEq, Repr, Inhabited

/-- How the host reaches a register: through the management block of a PF (R438), or through BAR0 of a VF of a port (R441), at an offset. -/
inductive Access where
  | management (pf offset : Nat)
  | bar (port vf offset : Nat)
  deriving DecidableEq, Repr, Inhabited

/-- An answer to an SPDM request (R451), a reply to a peer, the word to the requester of a pre-emption that its bound is missed for a copse:
the tag of its command, none for a launch that waits for room (R408); or what a query, a PMBus read or a register read returns. -/
inductive Answer where
  | spdm (pf req arg : Nat) (data : List (BitVec 384))
  | peer (port : Nat) (data : List Byte)
  | missed (vi : Nat) (tag : Option (BitVec 16)) (ord : Nat)
  | query (q : Query) (values : List Nat)
  | pmbus (r : PmbusRead) (value : Nat)
  | register (via : Access) (value : Word64)
  deriving DecidableEq, Repr, Inhabited

/-- An old word of code that a stand may still execute (R49): physical word address, stand, old word, instructions left. -/
structure Stale where
  word : Nat
  stand : Nat
  old : Word32
  left : Nat
  deriving DecidableEq, Repr, Inhabited

/-- A move of the machine that the script names: the issue of a stand's next word, a step of a unit or of the outside, bytes that the
host writes into its own memory (its ring entries, tables and images: spec/19 R443) or through the translation of a context into its global
memory (spec/22 R459, R463), a packet that a source injects by its header's first word (spec/18 R426), the acknowledgement of what is on a link
(R424), three steps of units that the opcode table has no row for (elements that a plain drain writes before its completion, R236; the oldest
write of a port, R437; a peer request that waited, R216), the start of maintenance code, which firmware puts at its entry, as a copse of stands with lines of scratchpad (spec/20 R457), new
thresholds of the placement engine (spec/12 R277), or a query, a PMBus read or a register access of the host. -/
inductive Turn where
  | issue (stand : Nat)
  | event (e : Instr)
  | host (addr : Nat) (bytes : List Byte)
  | memory (vi : Nat) (va : Word64) (bytes : List Byte)
  | packet (plane : Nat) (kind : Transaction) (header : Word64)
  | received (link : Nat)
  | drainPart (cluster resv : Nat)
  | postedWrite (port : Nat)
  | peerServe (name : Nat)
  | firmware (core : Nat) (entry : Word64) (stands alloc : Nat) (code : List Byte)
  | thresholds (moveAfter window : Nat)
  | query (q : Query)
  | pmbus (r : PmbusRead)
  | read (via : Access)
  | write (via : Access) (value : Word64)
  deriving DecidableEq, Repr

/-- The device. past holds the contents that lines had before each change at their homes, newest first: what the constant cache
may still return (R268); so do those that lay in an L1. posted holds the writes in the posted-write queues of the ports, oldest first: port, line and
bytes (R437), peerQ the peer requests that a staged update holds (R216), by name. script holds the moves and outside inputs still to come, cur the stand whose word is executing, free the count
of free choices used, nextId the next unused name: these four are the model's own. -/
structure State where
  script : List Turn
  cur : Nat
  free : Nat
  nextId : Nat
  boot : Boot
  power : Power
  pfs : Tbl Pf
  vis : Tbl Vi
  fields : Tbl Field
  clusters : Tbl Cluster
  cores : Tbl Core
  copses : Tbl Copse
  stands : Tbl Stand
  launches : Tbl Launch
  groves : Tbl Grove
  groveQ : List GroveEvent
  frames : Mem
  dir : Tbl Dir
  placement : Placement
  order : Order
  near : List Nat
  retired : List Nat
  stale : List Stale
  past : List (Nat × Mem)
  hostMem : Mem
  net : Net
  answers : List Answer
  posted : List (Nat × Nat × List (Nat × Byte))
  peerQ : List (Nat × PeerReq)
  deriving DecidableEq, Repr

/-- Why a step stops. -/
inductive Fault where
  /-- Raised by `step` when power was removed (R453) and the script names no cold reset: nothing on the wafer runs. Safe. -/
  | noPower
  deriving DecidableEq, Repr

/-- Why an instruction is not executed. -/
inductive Refusal where
  /-- Raised by an arm of `exec` whose instruction has no meaning yet. Safe. -/
  | notModelled (mnemonic : String)
  deriving DecidableEq, Repr

/-- The device after cold reset: bring-up at ROM, every core in maintenance mode (R454, R458), nothing resident, every table
empty, so that every unit reads as its reset value. -/
def State.reset : State where
  script := []
  cur := 0
  free := 0
  nextId := 1
  boot := ⟨.rom, 0, true, false, false, 0, 0, 0, [], [], [], [], 0, 0, 0, false⟩
  power := ⟨true, 0, false, none⟩
  pfs := []
  vis := []
  fields := []
  clusters := []
  cores := []
  copses := []
  stands := []
  launches := []
  groves := []
  groveQ := []
  frames := []
  dir := []
  placement := ⟨8, 65536, 0⟩
  order := Order.init
  near := []
  retired := []
  stale := []
  past := []
  hostMem := []
  net := ⟨[], [], [], []⟩
  answers := []
  posted := []
  peerQ := []

end Sys2Proof.Machine
end

