-- ==== Sys2Proof/Machine/Tables.lean ====
section
/-! DEFINITION. Reading and writing tables, masks and byte memory; the tables of the state by name. -/

namespace Sys2Proof.Machine

/-! ### Tables -/

/-- The entry of a key. -/
def tfind {α : Type} (k : Nat) : Tbl α → Option α
  | [] => none
  | (j, a) :: r => if j = k then some a else tfind k r

/-- The entry of a key, or a default. -/
def tget {α : Type} (d : α) (t : Tbl α) (k : Nat) : α := (tfind k t).getD d

/-- Sets the entry of a key, keeping a table sorted. -/
def tset {α : Type} (k : Nat) (a : α) : Tbl α → Tbl α
  | [] => [(k, a)]
  | (j, b) :: r => if j = k then (k, a) :: r else if k < j then (k, a) :: (j, b) :: r else (j, b) :: tset k a r

/-- Removes a key. -/
def tdel {α : Type} (k : Nat) : Tbl α → Tbl α
  | [] => []
  | (j, b) :: r => if j = k then tdel k r else (j, b) :: tdel k r

/-- Applies a list of writes, first to last. -/
def tputs {α : Type} (ws : List (Nat × α)) (t : Tbl α) : Tbl α := ws.foldl (fun t w => tset w.1 w.2 t) t

/-- A list without repeats, in order of first occurrence. -/
def distinct (xs : List Nat) : List Nat := xs.foldl (fun r x => if r.contains x then r else r ++ [x]) []

/-- Lists compared by their first difference. -/
def listLe : List Nat → List Nat → Bool
  | a :: r, b :: t => decide (a < b) || (a == b && listLe r t)
  | _, _ => true

/-! ### Byte memory -/

/-- A byte of memory; an unlisted byte reads 0. -/
def memGet (m : Mem) (a : Nat) : Byte := tget 0 m a

/-- Writes a byte in canonical form: a zero byte is not listed. -/
def memSet (a : Nat) (b : Byte) (m : Mem) : Mem := if b = 0 then tdel a m else tset a b m

/-- n bytes from a as one number, little-endian (R27, R308). -/
def memRead (m : Mem) (a : Nat) : Nat → Nat
  | 0 => 0
  | n + 1 => (memGet m a).toNat + 256 * memRead m (a + 1) n

/-- Writes the low n bytes of a number, little-endian. -/
def memWrite (m : Mem) (a : Nat) (x : Nat) : Nat → Mem
  | 0 => m
  | n + 1 => memWrite (memSet a (BitVec.ofNat 8 x) m) (a + 1) (x / 256) n

/-- Keys strictly rising from a lower bound, and no zero byte. -/
def Memory.wfFrom (lo : Nat) : Mem → Bool
  | [] => true
  | (a, b) :: r => decide (lo ≤ a) && b != 0 && Memory.wfFrom (a + 1) r

/-- The canonical form of memory. -/
def Memory.wf (m : Mem) : Bool := Memory.wfFrom 0 m

/-- The listed bytes of the aligned block of 2^k bytes at block number n, by offset. -/
def memBlock (m : Mem) (size n : Nat) : Mem :=
  m.filterMap (fun c => if c.1 / size = n then some (c.1 % size, c.2) else none)

/-- Memory with the aligned block replaced by the given bytes. -/
def memSetBlock (m : Mem) (size n : Nat) (b : Mem) : Mem :=
  b.foldl (fun m c => memSet (size * n + c.1) c.2 m) (m.filter (fun c => c.1 / size ≠ n))

/-- The bytes of a number, lowest first. -/
def bytesOf (x : Nat) : Nat → List Byte
  | 0 => []
  | n + 1 => BitVec.ofNat 8 x :: bytesOf (x / 256) n

/-- The number that bytes make, lowest first. -/
def natOf : List Byte → Nat
  | [] => 0
  | b :: r => b.toNat + 256 * natOf r

/-- Bits hi:lo of a number. -/
def bits (x hi lo : Nat) : Nat := x / 2 ^ lo % 2 ^ (hi + 1 - lo)

/-- One bit of a number. -/
def bitAt (x i : Nat) : Bool := x / 2 ^ i % 2 == 1

/-! ### Masks -/

/-- Every thread. -/
def allLanes : Mask := BitVec.allOnes 128

/-- The mask of one thread. -/
def laneBit (t : Nat) : Mask := BitVec.ofNat 128 (2 ^ t)

/-- The threads of a mask in ascending order. -/
def lanes (m : Mask) : List Nat := (List.range 128).filter (fun t => m.getLsbD t)

/-- The mask of a list of threads. -/
def maskOf (ts : List Nat) : Mask := ts.foldl (fun m t => m ||| laneBit t) 0

/-- The lowest thread of a mask. -/
def lowLane (m : Mask) : Nat := ((lanes m).head?).getD 0

/-- Bits set in the low n bits of a number. -/
def popCount (x : Nat) : Nat → Nat
  | 0 => 0
  | n + 1 => x % 2 + popCount (x / 2) n

/-- Significant bits of a number below 2^n. -/
def bitLen (x : Nat) : Nat → Nat
  | 0 => 0
  | n + 1 => if x = 0 then 0 else bitLen (x / 2) n + 1

/-- Sign extension of the low w bits. -/
def sextNat (w x : Nat) : Int := if 2 ^ (w - 1) ≤ x % 2 ^ w then (x % 2 ^ w : Int) - 2 ^ w else (x % 2 ^ w : Int)

/-- An integer as a number of w bits. -/
def wrap (w : Nat) (x : Int) : Nat := (x % (2 ^ w : Nat)).toNat

/-! ### The tables of the state -/

def State.standAt (s : State) (k : Nat) : Stand := tget Stand.init s.stands k
def State.setStand (s : State) (k : Nat) (x : Stand) : State := { s with stands := tset k x s.stands }
def State.copseAt (s : State) (k : Nat) : Copse := tget Copse.init s.copses k
def State.setCopse (s : State) (k : Nat) (x : Copse) : State := { s with copses := tset k x s.copses }
def State.coreAt (s : State) (k : Nat) : Core := tget Core.init s.cores k
def State.setCore (s : State) (k : Nat) (x : Core) : State := { s with cores := tset k x s.cores }
def State.clusterAt (s : State) (k : Nat) : Cluster := tget Cluster.init s.clusters k
def State.setCluster (s : State) (k : Nat) (x : Cluster) : State := { s with clusters := tset k x s.clusters }
def State.fieldAt (s : State) (k : Nat) : Field := tget Field.init s.fields k
def State.setField (s : State) (k : Nat) (x : Field) : State := { s with fields := tset k x s.fields }
def State.viAt (s : State) (k : Nat) : Vi := tget Vi.init s.vis k
def State.setVi (s : State) (k : Nat) (x : Vi) : State := { s with vis := tset k x s.vis }
def State.pfAt (s : State) (k : Nat) : Pf := tget Pf.init s.pfs k
def State.setPf (s : State) (k : Nat) (x : Pf) : State := { s with pfs := tset k x s.pfs }
def State.launchAt (s : State) (k : Nat) : Launch := tget Launch.init s.launches k
def State.setLaunch (s : State) (k : Nat) (x : Launch) : State := { s with launches := tset k x s.launches }
def State.groveAt (s : State) (k : Nat) : Grove := tget Grove.init s.groves k
def State.setGrove (s : State) (k : Nat) (x : Grove) : State := { s with groves := tset k x s.groves }
def State.dirAt (s : State) (k : Nat) : Dir := tget Dir.init s.dir k
def State.setDir (s : State) (k : Nat) (x : Dir) : State := { s with dir := tset k x s.dir }

/-- The executing stand. -/
def State.me (s : State) : Stand := s.standAt s.cur
def State.setMe (s : State) (x : Stand) : State := s.setStand s.cur x
/-- The copse of a stand (its key holds it). -/
def copseOf (stand : Nat) : Nat := stand / 16
def State.myCopse (s : State) : Copse := s.copseAt (copseOf s.cur)
def State.setMyCopse (s : State) (x : Copse) : State := s.setCopse (copseOf s.cur) x
/-- The core of a stand, its cluster and its field. -/
def State.coreOf (s : State) (stand : Nat) : Nat := (s.copseAt (copseOf stand)).core
def State.myCoreKey (s : State) : Nat := s.coreOf s.cur
def State.myCore (s : State) : Core := s.coreAt s.myCoreKey
def State.setMyCore (s : State) (x : Core) : State := s.setCore s.myCoreKey x
def clusterOf (core : Nat) : Nat := core / 4
def fieldOfCluster (c : Nat) : Nat := c / 140
def fieldOfCore (core : Nat) : Nat := fieldOfCluster (clusterOf core)
def fieldOfSlice (s : Nat) : Nat := s / 16
def State.myLaunch (s : State) : Launch := s.launchAt s.myCopse.launch
def State.viOf (s : State) (stand : Nat) : Nat := (s.copseAt (copseOf stand)).vi
/-- The encoding that a stand runs. -/
def State.kindOf (s : State) (stand : Nat) : Kind := (s.copseAt (copseOf stand)).kind
/-- The live stands of a copse, in ascending order. -/
def State.standsOf (s : State) (copse : Nat) : List Nat :=
  (s.stands.filter (fun e => e.1 / 16 = copse && e.2.life != .absent)).map Prod.fst
/-- The copses resident on a core, in ascending order. -/
def State.copsesOn (s : State) (core : Nat) : List Nat :=
  (s.copses.filter (fun e => e.2.life = .resident && e.2.core = core)).map Prod.fst
/-- The stands resident on a core. -/
def State.standsOn (s : State) (core : Nat) : List Nat := (s.copsesOn core).flatMap s.standsOf

/-- The 77 fields of the wafer: a square of 9 by 9 without its corners (R11). -/
def allFields : List Nat := (List.range 81).filter (fun f => f != 0 && f != 8 && f != 72 && f != 80)
/-- The 28 rim fields and the 49 interior ones (R11). -/
def isRim (f : Nat) : Bool := f % 9 == 0 || f % 9 == 8 || f / 9 == 0 || f / 9 == 8
def rimFields : List Nat := allFields.filter isRim
def interiorFields : List Nat := allFields.filter (fun f => !isRim f)
/-- The 56 HBM stacks: two on each rim field (R11). -/
def hbmStacks : List Nat := rimFields.flatMap (fun f => [2 * f, 2 * f + 1])
/-- The ports (R24): their counts by kind, and the rim field that terminates a host port. -/
def hostPorts : Nat := 4
def deepPorts : Nat := 8
def peerPorts : Nat := 16
def portField (port : Nat) : Nat := (rimFields[Config.controllingField port % 28]?).getD 1

/-- The device is in maintenance mode until the placement map is sealed (R51, R458). -/
def State.maint (s : State) : Bool := s.boot.maint

/-- One free choice among n alternatives, and the state with the choice used. -/
def State.pick (s : State) (n : Nat) : Nat × State := (Config.freeNat s.free % n, { s with free := s.free + 1 })
/-- A free bit for a place. -/
def State.coin (s : State) (i : Nat) : Bool := Config.freeBit s.free i
/-- Uses up the free choices of this moment. -/
def State.bump (s : State) : State := { s with free := s.free + 1 }

end Sys2Proof.Machine
end

