-- ==== Sys2Proof/Machine/Memory.lean ====
section
/-! DEFINITION. Global memory: translation (spec/11 R239-R248), the home copies and replicas of the wafer cache (spec/12 R274-R280),
the L1 of a core and where accesses are performed (spec/13 R299, R314), and the stale window of code (spec/02 R49). -/

namespace Sys2Proof.Machine

/-! ### Observer masks (R297) -/

def maskCO : Byte := 0x01
def maskCL : Byte := 0x02
def maskFD : Byte := 0x04
def maskWF : Byte := 0x08
/-- Bit i of a mask in the order CO, CL, FD, WF, XE, ME, PD, HO. -/
def maskHas (m : Byte) (i : Nat) : Bool := m.getLsbD i
/-- A mask with what it implies: WF holds FD, CL, CO; FD holds CL, CO; CL holds CO; zero is CO (R297). -/
def maskFull (m : Byte) : Byte :=
  let m := if m = 0 then maskCO else m
  let m := if maskHas m 3 then m ||| 0x07 else m
  let m := if maskHas m 2 then m ||| 0x03 else m
  if maskHas m 1 then m ||| 0x01 else m
/-- Masks served by the L1: 0 and CO (R299). -/
def maskNarrow (m : Byte) : Bool := m == 0 || m == maskCO

/-! ### The anchor bank (R275, R276) -/

/-- The set in force of an interface's domain. -/
def Domain.live (d : Domain) : DomSet := if d.sel then d.set1 else d.set0
/-- What an interface holds now joins what it has held in a binding generation; the current one and the 7 before it are kept (R284, R285). -/
def Vi.noteSites (v : Vi) (gen : Nat) : Vi :=
  let old := tget ([], []) v.sites gen
  let join (xs ys : List Nat) : List Nat := xs ++ ys.filter (fun y => !xs.contains y)
  let kept := v.sites.filter (fun e => e.1 != gen && (gen + 65536 - e.1) % 65536 < 8)
  { v with sites := tset gen (join old.1 v.part, join old.2 v.dom.live.slices) kept }
/-- The anchor bank of a line in a set (R275): 8 slice + bank. A set with no slices, as before ENUM, gives bank 0 of slice 0, and a line cached
then stays there (DESIGN CHOICE, log 93). -/
def DomSet.anchor (d : DomSet) (line : Nat) : Nat :=
  let h := bits line 15 0 ^^^ bits line 31 16 ^^^ bits line 40 32
  let i := (h &&& d.hmask.toNat) % (8 * d.nslice.toNat)
  8 * (d.slices[i / 8]?).getD 0 + i % 8
/-- The interface whose domain's set in force holds a slice (R282). -/
def State.domainOf (s : State) (slice : Nat) : Option Nat := (s.vis.find? (fun e => e.2.dom.live.slices.contains slice)).map Prod.fst
/-- The anchor bank of a line for an interface. -/
def State.anchor (s : State) (vi line : Nat) : Nat := (s.viAt vi).dom.live.anchor line

/-! ### Home copies -/

/-- Host and peer windows are never cached (R437). -/
def isWindow (pa : Nat) : Bool := bits pa 47 44 == 0xF || bits pa 47 44 == 0xE
/-- The port of a window: host port PA[43:42], or four more than peer port PA[43:40] (R437). -/
def windowPort (pa : Nat) : Nat := if bits pa 47 44 = 0xF then bits pa 43 42 else 4 + bits pa 43 40
/-- Bytes of one line written over others: offset and byte. -/
def putBytes (bs : List (Nat × Byte)) (m : Mem) : Mem := bs.foldl (fun m b => memSet b.1 b.2 m) m
/-- The bytes of a window's line as the wafer sees them: what lies beyond the port, with the writes in its queue (R437). -/
def State.windowBytes (s : State) (line : Nat) : Mem :=
  (s.posted.filter (fun w => w.2.1 == line)).foldl (fun m w => putBytes w.2.2 m) (memBlock s.frames 128 line)
/-- The oldest write in a port's queue leaves it (R437). -/
def State.leavePort (s : State) (port : Nat) : State :=
  match s.posted.find? (fun w => w.1 == port) with
  | none => s
  | some w => { s with posted := s.posted.erase w, frames := w.2.2.foldl (fun m b => memSet (128 * w.2.1 + b.1) b.2 m) s.frames }
/-- All of them leave, in order. -/
def State.emptyPort (s : State) (port : Nat) : State := (s.posted.filter (fun w => w.1 == port)).foldl (fun s _ => s.leavePort port) s
/-- The bytes of a line at its home, by offset: the home copy if there is one, else the frame (R274), or a window's (R437). -/
def State.lineBytes (s : State) (line : Nat) : Mem :=
  let d := s.dirAt line
  if d.cached then d.bytes else if isWindow (128 * line) then s.windowBytes line else memBlock s.frames 128 line
/-- A byte at its home. -/
def State.homeGet (s : State) (pa : Nat) : Byte :=
  let d := s.dirAt (pa / 128)
  if d.cached then memGet d.bytes (pa % 128)
  else if isWindow pa then memGet (s.windowBytes (pa / 128)) (pa % 128) else memGet s.frames pa
/-- n bytes at their homes, little-endian. -/
def State.homeRead (s : State) (pa : Nat) : Nat → Nat
  | 0 => 0
  | n + 1 => (s.homeGet pa).toNat + 256 * s.homeRead (pa + 1) n
/-- The directory entry with the line cached, at its anchor when it was not (R274, R276). A frame of zeros comes as a zero line if the
tier engine reports it as zero-filled, which is free (R280). -/
def State.cached (s : State) (vi line : Nat) : Dir :=
  let d := s.dirAt line
  let b := memBlock s.frames 128 line
  if d.cached then d else { d with cached := true, bytes := b, bank := s.anchor vi line, dirty := false,
                                   zero := b == [] && s.coin line, replicas := [] }
/-- A request that the directory orders (R276, R277): the time of the last use, and how many of the last requests in a row came from its
field. One marked stream keeps the line at lowest retention and does not count (R278). -/
def Dir.request (d : Dir) (clock field : Nat) (stream : Bool) : Dir :=
  if stream then { d with used := 0 }
  else { d with used := clock + 1, streak := match d.streak with | some (f, n) => some (field, if f = field then n + 1 else 1) | none => some (field, 1) }
/-- A request for a cached line reaches its directory. -/
def State.request (s : State) (line field : Nat) (stream : Bool) : State :=
  let d := s.dirAt line
  if d.cached then
    { s.setDir line (d.request s.placement.clock field stream) with placement := { s.placement with clock := s.placement.clock + 1 } }
  else s
/-- A load reaches the home: the line is cached. -/
def State.touchHome (s : State) (vi pa : Nat) : State :=
  if isWindow pa then s else s.setDir (pa / 128) (s.cached vi (pa / 128))

/-- Words of code whose contents change, with the old word, stay executable for a while by each of the given stands (R49). -/
def State.noteStale (s : State) (stands : List Nat) (ws : List (Nat × Word32)) : State :=
  { s with stale := s.stale ++ ws.flatMap (fun w => stands.map (fun k =>
      { word := w.1, stand := k, old := w.2, left := match s.kindOf k with | .heart => 24 | .sap => 8 })) }

/-- The words of a line that differ between two contents, as physical word addresses with the old word. -/
def changedWords (line : Nat) (a b : Mem) : List (Nat × Word32) :=
  if a = b then [] else
  (List.range 32).filterMap (fun i =>
    if memRead a (4 * i) 4 = memRead b (4 * i) 4 then none else some (128 * line + 4 * i, BitVec.ofNat 32 (memRead a (4 * i) 4)))

/-- The stands that run or may run. -/
def State.liveStands (s : State) : List Nat := (s.stands.filter (fun e => e.2.life != .absent)).map Prod.fst
/-- A line's home contents have changed: words of code that a stand's core takes from there change for it (R49); a core whose L1 holds the
word sees no change. -/
def State.noteHome (s : State) (line : Nat) (old new : Mem) : State :=
  (changedWords line old new).foldl (fun s w => s.noteStale (s.liveStands.filter (fun k =>
    match tfind line (s.coreAt (s.coreOf k)).l1 with | some l => !l.valid.getLsbD (w.1 % 128) | none => true)) [w]) s

/-- Writes bytes of one line at its home (R279, R280): the copy becomes dirty and written, and a zero line when all of it is zero. A write of a
window enters the queue of its port (R437). -/
def State.homePut (s : State) (vi line : Nat) (bytes : List (Nat × Byte)) : State :=
  let bs := bytes.filter (fun b => b.1 < 128)
  if bs = [] then s
  else if isWindow (128 * line) then { s with posted := s.posted ++ [(windowPort (128 * line), line, bs)] }
  else
    let d := s.cached vi line
    let b := putBytes bs d.bytes
    let s' := (s.setDir line { d with bytes := b, dirty := true, written := true, zero := b == [] }).noteHome line d.bytes b
    if b = d.bytes then s' else { s' with past := (line, d.bytes) :: s'.past }

/-- The bytes of a value as offsets in the line of its address; an element never crosses a line, being aligned (R265). -/
def elemBytes (pa n x : Nat) : List (Nat × Byte) :=
  (List.range n).map (fun i => (pa % 128 + i, BitVec.ofNat 8 (x / 256 ^ i)))

/-! ### The path set (R314) -/

/-- The physical networks that carry a stand's writes (R423): request for stores of up to 16 bytes and atomics, bulk for whole lines and
write-backs. -/
def netRequest : Nat := 0
def netBulk : Nat := 2
/-- The network of a store by its bytes. -/
def netOf (bytes : Nat) : Nat := if bytes ≤ 16 then netRequest else netBulk
/-- Counts one write of a stand on the path of a plane and network to the slice that holds the line (R314). -/
def Stand.addPath (st : Stand) (plane net slice line : Nat) : Stand :=
  let same (p : Path) : Bool := p.plane == plane && p.net == net && p.slice == slice
  { st with paths := if st.paths.any same then st.paths.map (fun p =>
        if same p then { p with n := p.n + 1, lines := if line ∈ p.lines then p.lines else p.lines ++ [line] } else p)
      else st.paths ++ [⟨plane, net, slice, 1, [line]⟩] }
/-- A global write of a stand is attributed to it (R314). -/
def State.addPath (s : State) (stand net line : Nat) : State :=
  if isWindow (128 * line) then s
  else
    let slice := (s.cached (s.viOf stand) line).bank / 8
    s.setStand stand ((s.standAt stand).addPath (Config.planeOf stand slice % 2) net slice line)

/-! ### What must not be read stale (R303-R310, log 81) -/

/-- The entries of a second list that a first one does not hold, put behind it. -/
def addNew {α : Type} [BEq α] (xs ys : List α) : List α := xs ++ ys.filter (fun y => !xs.contains y)
/-- A replica of the line is older than its home copy (R279). -/
def State.staleLine (s : State) (line : Nat) : Bool := (s.dirAt line).replicas.any (fun r => r.2 != s.lineBytes line)
/-- The stands of a copse must not read replicas of lines that are older than their homes any more: what one of them sees is in the L1
that all of them share. -/
def State.learnBy (s : State) (copse : Nat) (ls : List Nat) : State :=
  match ls.filter s.staleLine with
  | [] => s
  | new => { s with order := { s.order with known := tset copse (addNew (tget [] s.order.known copse) new) s.order.known } }
def State.learn (s : State) (k : Nat) (ls : List Nat) : State := s.learnBy (copseOf k) ls
/-- Everything learnt of a line ends: its replicas are made anew. -/
def State.forget (s : State) (line : Nat) : State :=
  let cut (ls : List Nat) : List Nat := ls.filter (fun l => l != line)
  let cutM (m : Msg) : Msg := { m with lines := cut m.lines }
  let o := s.order
  if o.known = [] ∧ o.sent = [] ∧ o.words = [] ∧ o.read = [] ∧ o.objects = [] ∧ o.engine = [] then s
  else { s with order := { o with
    known := o.known.map (fun e => (e.1, cut e.2))
    engine := o.engine.map (fun e => (e.1, e.2.filter (fun x => x.2 != line)))
    sent := o.sent.map (fun e => (e.1, e.2.map cutM))
    words := o.words.map (fun w => (w.1, w.2.1, cutM w.2.2))
    read := o.read.map (fun e => (e.1, e.2.map (fun x => (x.1, cutM x.2))))
    objects := o.objects.map (fun x => (x.1, x.2.1, cutM x.2.2)) } }
/-- The releases that a write which a stand makes now carries (R305). -/
def State.outgoing (s : State) (k : Nat) : List Msg :=
  (tget [] s.order.sent k).filter (fun m => m.at' == none || m.at' == some (s.standAt k).issues)
/-- A write of a stand at a place, the home or the L1 of a core: its bytes carry the releases that it follows, and no longer those of the
write before it. -/
def State.carry (s : State) (k : Nat) (place : Option Nat) (addrs : List Nat) : State :=
  let kept := s.order.words.filter (fun w => !(w.2.1 == place && addrs.contains w.1))
  { s with order := { s.order with words := addNew kept ((s.outgoing k).flatMap (fun m => addrs.map (fun a => (a, place, m)))) } }
/-- The releases that n bytes carry where a core reads the value v of them: those of its own L1, and those of the home where v is what stands
there. -/
def State.chain (s : State) (core pa n v : Nat) : List (Nat × Option Nat × Msg) :=
  s.order.words.filter (fun w => pa ≤ w.1 && w.1 < pa + n && (w.2.1 == some core || (w.2.1 == none && s.homeRead pa n == v)))
/-- An atomic that read v continues the chain of the releases that its bytes carried before it, where it writes them (R305). -/
def State.keepChain (after before : State) (place : Option Nat) (core pa n v : Nat) : State :=
  { after with order := { after.order with
      words := addNew after.order.words ((before.chain core pa n v).map (fun w => (w.1, place, w.2.2))) } }
/-- The releases that bytes of a line carry pass with its copy from one core to another of its cluster (R345). -/
def State.passChains (s : State) (src dst line : Nat) : State :=
  { s with order := { s.order with words := s.order.words.map (fun w =>
      if w.2.1 = some src ∧ w.1 / 128 = line then (w.1, some dst, w.2.2) else w) } }
/-- Bytes that lay in a core's L1 have gone home with the releases they carry. -/
def State.carryHome (s : State) (core : Nat) (addrs : List Nat) : State :=
  { s with order := { s.order with
      words := (s.order.words.filter (fun w => !(w.2.1 == none && addrs.contains w.1))).map (fun w =>
        if w.2.1 = some core ∧ addrs.contains w.1 then (w.1, none, w.2.2) else w) } }
/-- A stand has read a value of n bytes: later reads do not go back behind it (R307), and the releases that the bytes carry may pair with
an acquire of its (R305). A value that the home does not hold was read from an older copy, and carries none of the home's. -/
def State.heed (s : State) (k core pa n v : Nat) : State :=
  let s := if (s.dirAt (pa / 128)).replicas.any (fun r => memRead r.2 (pa % 128) n != v) then s.learn k [pa / 128] else s
  let ms := s.chain core pa n v
  if ms = [] then s
  else { s with order := { s.order with
    read := tset k (addNew (tget [] s.order.read k) (ms.map (fun w => ((s.standAt k).issues, w.2.2)))) s.order.read } }
/-- Whether a core lies within an observer mask of another (R297). -/
def withinMask (m : Byte) (x y : Nat) : Bool :=
  let f := maskFull m
  maskHas f 3 || (maskHas f 2 && fieldOfCore x == fieldOfCore y) || (maskHas f 1 && clusterOf x == clusterOf y) || (maskHas f 0 && x == y)
/-- A release and an acquire on a core with a mask synchronise (R305): each stand is within the other's mask. -/
def Msg.pairs (x : Msg) (core : Nat) (m : Byte) : Bool := withinMask x.mask x.core core && withinMask m core x.core
/-- What a release of a stand orders (R305, R306): what it must not read stale itself, and what the engines of its copse wrote. -/
def State.orders (s : State) (k : Nat) : List Nat :=
  addNew (tget [] s.order.known (copseOf k)) ((tget [] s.order.engine (copseOf k)).map Prod.snd)
/-- A release of a stand has been performed; a fence counts for all its later writes, another release for those of its own word. -/
def State.signed (s : State) (k : Nat) (m : Byte) (fence : Bool) : State :=
  let sent := (tget [] s.order.sent k).filter (fun x => x.at' == none)
  let new : List Msg := match s.orders k with
    | [] => []
    | ls => [⟨s.coreOf k, m, ls, if fence then none else some (s.standAt k).issues⟩]
  if sent ++ new = tget [] s.order.sent k then s
  else { s with order := { s.order with sent := tset k (addNew sent new) s.order.sent } }
/-- An acquire of a stand takes what the releases it has read order (R305); a fence those of every earlier read, another acquire those of
its own word. What the copse's engines wrote is seen after an acquire that holds the engine's bit (R306). -/
def State.observeAcq (s : State) (k : Nat) (m : Byte) (fence : Bool) : State :=
  let core := s.coreOf k
  let ms := ((tget [] s.order.read k).filter (fun x => fence || x.1 == (s.standAt k).issues)).map Prod.snd
  let eng := (tget [] s.order.engine (copseOf k)).filter (fun x => maskHas m x.1)
  s.learn k ((ms.filter (fun x => x.pairs core m)).flatMap (fun x => x.lines) ++ eng.map Prod.snd)
/-- A release hands over through an object (a grove, a queue, the claims of a stage, the fences of a launch): by the object's kind and name. -/
def State.handOver (s : State) (kind name k : Nat) (m : Byte) : State :=
  match s.orders k with
  | [] => s
  | ls => { s with order := { s.order with objects := addNew s.order.objects [(kind, name, ⟨s.coreOf k, m, ls, none⟩)] } }
/-- An acquire takes what was handed over through an object. -/
def State.takeOver (s : State) (kind name k : Nat) (m : Byte) : State :=
  s.learn k ((s.order.objects.filter (fun x => x.1 == kind && x.2.1 == name && x.2.2.pairs (s.coreOf k) m)).flatMap (fun x => x.2.2.lines))
/-- The kinds of objects. -/
def objFence : Nat := 0
def objGrove : Nat := 1
def objQueue : Nat := 2
def objClaim : Nat := 3
/-- An engine has written a line for a copse: its observer bit is 4 for copies and 5 for the matrix engine (R297, R306). -/
def State.noteEngine (s : State) (copse bit line : Nat) : State :=
  if s.staleLine line then
    { s with order := { s.order with engine := tset copse (addNew (tget [] s.order.engine copse) [(bit, line)]) s.order.engine } }
  else s
/-- A core's copy of a line is filled from the home the next time (R301, R345). -/
def State.mustRefresh (s : State) (core line : Nat) : Bool := s.order.fresh.contains (core, line)
def State.setRefresh (s : State) (core : Nat) (ls : List Nat) : State :=
  if ls = [] then s else { s with order := { s.order with fresh := addNew s.order.fresh (ls.map (fun l => (core, l))) } }
def State.refreshed (s : State) (core line : Nat) : State :=
  if s.mustRefresh core line then { s with order := { s.order with fresh := s.order.fresh.filter (fun x => x != (core, line)) } } else s
/-- No copse of a core must see a newer copy of the line than its replicas. -/
def State.mayReplica (s : State) (core line : Nat) : Bool :=
  !s.mustRefresh core line && !((s.copsesOn core).any (fun c => (tget [] s.order.known c).contains line))

/-- A write by a stand, performed at the home, on a network (R314); one marked stream does not count (R278). -/
def State.homeStore (s : State) (stand net line : Nat) (bs : List (Nat × Byte)) (stream : Bool := false) : State :=
  if isWindow (128 * line) then s.homePut (s.viOf stand) line bs
  else
    ((((s.homePut (s.viOf stand) line bs).addPath stand net line).request line (fieldOfCore (s.coreOf stand)) stream).learn stand [line]).carry
      stand none (bs.map (fun b => 128 * line + b.1))

/-! ### L1 (R299) -/

/-- An L1 line or none. -/
def State.l1At (s : State) (core line : Nat) : Option L1Line := tfind line (s.coreAt core).l1
def State.setL1 (s : State) (core line : Nat) (l : L1Line) : State :=
  let c := s.coreAt core
  s.setCore core { c with l1 := tset line l c.l1 }
/-- Marks of L1-executed atomics on bytes of a core's copy that pass away (R310). -/
def State.unmark (s : State) (core : Nat) (gone : Nat → Bool) : State :=
  if s.order.near = [] then s
  else { s with order := { s.order with near := s.order.near.filter (fun x => !(x.1 == core && gone x.2)) } }
/-- The offsets of a mask with their bytes. -/
def maskedBytes (m : Mask) (b : Mem) : List (Nat × Byte) := (lanes m).map (fun o => (o, memGet b o))
/-- The bytes of an L1 line over those of another source: the bytes of a mask stand. -/
def mergeOver (keep : Mask) (mine base : Mem) : Mem :=
  putBytes (maskedBytes keep mine) (base.filter (fun c => !keep.getLsbD c.1))
/-- A line with what a core has written to it, which its home does not have yet. -/
def State.dirtyView (s : State) (core line : Nat) : Mem :=
  match s.l1At core line with
  | none => s.lineBytes line
  | some l => if l.dirty = 0 then s.lineBytes line else mergeOver l.dirty l.bytes (s.lineBytes line)
/-- What was written to a line in a core's L1 may still reach a constant load though it is overwritten or discarded there (R268). -/
def State.notePast (s : State) (core line : Nat) : State :=
  match s.l1At core line with
  | none => s
  | some l => if l.dirty = 0 then s else { s with past := (line, s.dirtyView core line) :: s.past }
/-- The releases that bytes in a core's copy of a line carry go with it. -/
def State.dropChains (s : State) (core line : Nat) : State :=
  if s.order.words = [] then s
  else { s with order := { s.order with words := s.order.words.filter (fun w => !(w.2.1 == some core && w.1 / 128 == line)) } }
/-- A core's copy of a line goes, whatever it holds; words of code that change by it for the core's stands are noted (R49). -/
def State.dropL1 (s : State) (core line : Nat) : State :=
  match s.l1At core line with
  | none => s
  | some l =>
    let s := s.notePast core line
    let s := s.noteStale (s.standsOn core) ((changedWords line l.bytes (s.lineBytes line)).filter (fun w => l.valid.getLsbD (w.1 % 128)))
    let c := s.coreAt core
    ((s.setCore core { c with l1 := tdel line c.l1 }).unmark core (fun a => a / 128 == line)).dropChains core line

/-- A core's ownership of a line for L1-executed atomics ends (R345). -/
def State.disown (s : State) (core line : Nat) : State :=
  let cl := s.clusterAt (clusterOf core)
  if tfind line cl.owners = some core then s.setCluster (clusterOf core) { cl with owners := tdel line cl.owners } else s

/-- The other cores of a core's cluster. -/
def siblings (core : Nat) : List Nat := ((List.range 4).map (fun i => 4 * clusterOf core + i)).filter (fun c => c != core)
/-- A core has written back a line that it owned with bytes of its L1-executed atomics: the next owner in the cluster reads the line from
the home, so that the atomics of the cluster stay indivisible (R345, log 49). -/
def State.afterAtomics (s : State) (core line : Nat) : State :=
  if s.order.near.any (fun x => x.1 == core && x.2 / 128 == line) then
    (siblings core).foldl (fun s c => s.setRefresh c [line]) (s.unmark core (fun a => a / 128 == line))
  else s
/-- Writes back the dirty bytes of an L1 line, attributed to the stands that wrote them (R299, R314); the line stays, clean, and
is no longer owned (R345). No stand of the core, or of a core to which a writer has moved, goes back behind the bytes (R307). -/
def State.writeBackL1 (s : State) (core line : Nat) : State :=
  match s.l1At core line with
  | none => s
  | some l =>
    if l.dirty = 0 then s
    else
      let vi := s.viOf (l.writers.headD 0)
      let s := s.homePut vi line (maskedBytes l.dirty l.bytes)
      let s := s.request line (fieldOfCore core) l.low
      let s := l.writers.foldl (fun s w => s.addPath w netBulk line) s
      let s := (s.carryHome core ((lanes l.dirty).map (fun o => 128 * line + o))).afterAtomics core line
      let s := (s.copsesOn core ++ l.writers.flatMap (fun w => copseOf w :: s.copsesOn (s.coreOf w))).foldl (fun s c => s.learnBy c [line]) s
      (s.setL1 core line { l with dirty := 0, writers := [] }).disown core line
/-- A line that has passed to another core of the cluster (R345) with bytes that stands of this core made dirty goes home before the
core accesses it again, so that no access of a stand goes before its own write (R303, R307, log 48). -/
def State.recall (s : State) (core line : Nat) : State :=
  (siblings core).foldl (fun s c =>
    match s.l1At c line with
    | none => s
    | some l => if l.writers.any (fun w => s.coreOf w == core) then s.writeBackL1 c line else s) s
/-- Every dirty byte of a core's L1 goes to the home copies (R300), and those of its stands that have passed to another core. -/
def State.flushL1 (s : State) (core : Nat) : State :=
  let s := ((s.coreAt core).l1.map Prod.fst).foldl (fun s line => s.writeBackL1 core line) s
  ((siblings core).flatMap (fun c => (s.coreAt c).l1.map Prod.fst)).foldl (fun s line => s.recall core line) s

/-- The source that serves a plain miss of a core: a replica in its field, or the home copy (R299); which, when they differ, is
free (R279), unless a stand of the core must not see the older one (R303-R309). -/
def State.missBytes (s : State) (core line : Nat) : Mem :=
  let home := s.lineBytes line
  match tfind (fieldOfCore core) (s.dirAt line).replicas with
  | none => home
  | some r => if r = home then home else if s.mayReplica core line && s.coin line then r else home

/-- Lines that a context has marked, and whether its quota admits one more (R291); a quota of 0 sets no limit (R439). -/
def State.pinned (s : State) (vi : Nat) : Nat := (s.dir.filter (fun e => e.2.pins.contains vi)).length
def State.pinRoom (s : State) (vi : Nat) : Bool :=
  (s.viAt vi).pquota == 0 || s.pinned vi < 256 * (s.viAt vi).pquota.toNat
/-- The pin mark of a context on a line (R291): the mark is the directory's, whether the line is cached or not. -/
def State.pinLine (s : State) (vi line : Nat) : State :=
  let d := s.dirAt line
  s.setDir line (if d.pins.contains vi || !s.pinRoom vi then d else { d with pins := d.pins ++ [vi] })
/-- The mark of a context is cleared. -/
def State.unpinLine (s : State) (vi line : Nat) : State :=
  let d := s.dirAt line
  s.setDir line { d with pins := d.pins.filter (fun x => x != vi) }

/-- A load reaches the directory and may make a replica in the loader's field (R277, R278): with the replicate hint, or as the second
such field within the window of reference cycles of the anchor's field. -/
def State.noteLoad (s : State) (vi core line : Nat) (ph : BitVec 2) : State :=
  let d := s.cached vi line
  let f := fieldOfCore core
  let home := fieldOfSlice (d.bank / 8)
  let now := (s.fieldAt (fieldOfSlice (s.anchor vi line / 8))).ref.toNat
  let inDomain := (s.viAt vi).dom.live.slices.any (fun x => fieldOfSlice x == f)
  let d := if ph == 1 && !(d.pins.contains vi) && s.pinRoom vi then { d with pins := d.pins ++ [vi] } else d
  let d := if (tfind f d.replicas).isSome then { d with repUsed := tset f (if ph = 2 then 0 else s.placement.clock) d.repUsed } else d
  let counted := ph != 2 && f != home && !d.written && (tfind f d.replicas).isNone && inDomain
  let second := match d.firstLoad with | none => false | some (g, t) => g != f && now < t + s.placement.window
  let s' :=
    if !counted then s.setDir line d
    else if ph == 3 || second then
      (if d.replicas = [] then s.forget line else s).setDir line
        { d with replicas := tset f d.bytes d.replicas, firstLoad := none, repUsed := tset f s.placement.clock d.repUsed }
    else s.setDir line { d with firstLoad := some (f, now) }
  s'.request line f (ph == 2)

/-- Fills an L1 line for a plain access; dirty and already valid bytes stand. -/
def State.fillL1 (s : State) (vi core line : Nat) (ph : BitVec 2) : State :=
  let src := s.missBytes core line
  let old := (s.l1At core line).getD L1Line.init
  let s := (s.noteLoad vi core line ph).refreshed core line
  s.setL1 core line { old with bytes := mergeOver old.valid old.bytes src, valid := allLanes, low := ph == 2 }

/-- The lanes mask of n bytes at an offset. -/
def byteMask (off n : Nat) : Mask := maskOf ((List.range n).map (fun i => off + i))

/-- What a core sees of n bytes without changing anything: its L1 where it holds them, else the home copies. -/
def State.coreView (s : State) (core pa n : Nat) : Nat :=
  match s.l1At core (pa / 128) with
  | none => s.homeRead pa n
  | some l =>
    natOf ((List.range n).map (fun i =>
      if l.valid.getLsbD (pa % 128 + i) then memGet l.bytes (pa % 128 + i) else s.homeGet (pa + i)))

/-- A core's L1 copy of a line becomes the home's; words of code that change by it are noted (R49). -/
def State.refreshL1 (s : State) (core line : Nat) : State :=
  match s.l1At core line with
  | none => s
  | some l =>
    let b := s.lineBytes line
    ((s.noteStale (s.standsOn core) ((changedWords line l.bytes b).filter (fun w => l.valid.getLsbD (w.1 % 128)))).setL1 core line
      { l with bytes := b, valid := allLanes }).refreshed core line

/-- A global load of n bytes (R299): value and state after. The pin hint marks the line whatever serves the load (R278). -/
def State.load (s : State) (stand : Nat) (m : Byte) (ph : BitVec 2) (pa n : Nat) : Nat × State :=
  let core := s.coreOf stand
  let vi := s.viOf stand
  let line := pa / 128
  if isWindow pa then (s.homeRead pa n, s)
  else
  let s := s.recall core line
  if maskNarrow m then
    let hit := match s.l1At core line with
      | none => false
      | some l => l.valid &&& byteMask (pa % 128) n == byteMask (pa % 128) n
    let s := if !hit then s.fillL1 vi core line ph else if ph == 1 then s.pinLine vi line else s
    let v := s.coreView core pa n
    (v, s.heed stand core pa n v)
  else
    let s := s.writeBackL1 core line
    let s := s.noteLoad vi core line ph
    let s := s.refreshL1 core line
    let v := s.homeRead pa n
    (v, s.heed stand core pa n v)

/-- The bytes of a line as a core sees them. -/
def State.lineView (s : State) (core line : Nat) : Mem :=
  match s.l1At core line with
  | none => s.lineBytes line
  | some l => mergeOver l.valid l.bytes (s.lineBytes line)
/-- A core's L1 copy of a line takes bytes of a store (R299); words of code that change are noted for the core's stands (R49), and what
the line held may still reach a constant load (R268). -/
def State.putL1 (s : State) (stand core line : Nat) (bs : List (Nat × Byte)) (stream : Bool := false) : State :=
  let old := (s.l1At core line).getD L1Line.init
  let m := maskOf (bs.map Prod.fst)
  let was := s.lineView core line
  let held := s.dirtyView core line
  let s := s.setL1 core line
    { old with bytes := putBytes bs old.bytes, valid := old.valid ||| m, dirty := old.dirty ||| m,
               writers := if stand ∈ old.writers then old.writers else old.writers ++ [stand], low := stream }
  let now := s.lineView core line
  let s := (s.noteStale (s.standsOn core) (changedWords line was now)).unmark core (fun a => (bs.map (fun b => 128 * line + b.1)).contains a)
  if was = now then s else { s with past := (line, held) :: s.past }
/-- Bytes of one line stored with a mask (R299): into the core's L1, or there and home, or home alone. -/
def State.storeBytes (s : State) (stand : Nat) (m : Byte) (net line : Nat) (bs : List (Nat × Byte)) (stream : Bool := false) : State :=
  let core := s.coreOf stand
  let addrs := bs.map (fun b => 128 * line + b.1)
  if isWindow (128 * line) then s.homePut (s.viOf stand) line bs
  else
    let s := s.recall core line
    if maskNarrow m then (s.putL1 stand core line bs stream).carry stand (some core) addrs
    else
      match s.l1At core line with
      | none => s.homeStore stand net line bs stream
      | some _ => (((s.putL1 stand core line bs stream).carry stand (some core) addrs).writeBackL1 core line).learn stand [line]
/-- A global store of n bytes; the hints pin and stream act as on a load, and the line is then kept least (R278). -/
def State.store (s : State) (stand : Nat) (m : Byte) (ph : BitVec 2) (pa n x : Nat) : State :=
  let s := if ph == 1 && !isWindow pa then s.pinLine (s.viOf stand) (pa / 128) else s
  s.storeBytes stand m (netOf n) (pa / 128) (elemBytes pa n x) (ph == 2)

/-- The L1 effect of an acquire wider than CO (R301): clean lines go, and clean bytes of dirty lines, which are read again from the
home. A clean line that goes is no longer owned (R345), and words of code that change by it are noted (R49). -/
def State.invalidateL1 (s : State) (core : Nat) : State :=
  let c := s.coreAt core
  let gone := (c.l1.filter (fun e => e.2.dirty = 0)).map Prod.fst
  let s := c.l1.foldl (fun s e => s.noteStale (s.standsOn core)
    ((changedWords e.1 e.2.bytes (s.lineBytes e.1)).filter (fun w => e.2.valid.getLsbD (w.1 % 128) && !e.2.dirty.getLsbD (w.1 % 128)))) s
  let s := s.setCore core { c with l1 := c.l1.filterMap (fun e =>
    if e.2.dirty = 0 then none
    else some (e.1, { e.2 with valid := e.2.dirty, bytes := e.2.bytes.filter (fun b => e.2.dirty.getLsbD b.1) })) }
  (gone.foldl (fun s l => s.disown core l) s).setRefresh core ((c.l1.filter (fun e => e.2.dirty ≠ 0)).map Prod.fst)

/-! ### Replicas and evictions -/

/-- Collapses the replica of one field, or all of them (R279). -/
def Dir.collapse (d : Dir) (field : Option Nat) : Dir :=
  let r := match field with | none => [] | some f => tdel f d.replicas
  let t := match field with | none => [] | some f => tdel f d.repUsed
  { d with replicas := r, repUsed := t, written := if r = [] then false else d.written }
/-- The bank that holds the replica of a line in a field: which of the domain's banks there is free (R274, log 82). -/
def State.replicaBank (s : State) (line field : Nat) : Nat :=
  let sl := match s.domainOf ((s.dirAt line).bank / 8) with
    | some vi => (s.viAt vi).dom.live.slices.filter (fun x => fieldOfSlice x == field)
    | none => []
  let bs := sl.flatMap (fun x => (List.range 8).map (fun i => 8 * x + i))
  (bs[Config.replicaBank line field % bs.length]?).getD (128 * field)
/-- The replica of a line in a field is evicted (R277): the line stays marked as written (R279). -/
def State.dropReplica (s : State) (line field : Nat) : State :=
  let d := s.dirAt line
  s.setDir line { d with replicas := tdel field d.replicas, repUsed := tdel field d.repUsed }
/-- An engine writes bytes of a line at its home (R279, R299); one marked stream does not count (R278). -/
def State.engineWrite (s : State) (vi field line : Nat) (bs : List (Nat × Byte)) (stream : Bool) : State :=
  if isWindow (128 * line) then s.homePut vi line bs else (s.homePut vi line bs).request line field stream
/-- Writes a dirty home copy to its frame; it stays cached, clean (R283, R288). -/
def State.cleanHome (s : State) (line : Nat) : State :=
  let d := s.dirAt line
  if d.cached && d.dirty then { s with frames := memSetBlock s.frames 128 line d.bytes }.setDir line { d with dirty := false } else s
/-- Drops a home copy with its replicas; pin marks and staged updates stay (R288). Data that its frame does not hold is lost. -/
def State.dropHome (s : State) (line : Nat) : State :=
  let d := s.dirAt line
  let s' := s.setDir line { Dir.init with pins := d.pins, staged := d.staged, waiters := d.waiters }
  let b := memBlock s.frames 128 line
  if !d.cached || d.bytes = b then s'
  else { s' with past := (line, d.bytes) :: s'.past }.noteHome line d.bytes b
/-- A store of zeros over a whole line (R280, R289, R290): at its home a zero line; the core's L1 copy, if any, becomes zero and
clean. -/
def State.zeroLine (s : State) (stand line : Nat) : State :=
  let core := s.coreOf stand
  let z := (List.range 128).map (fun o => (o, (0 : Byte)))
  if isWindow (128 * line) then s.homePut (s.viOf stand) line z
  else
    let s := s.recall core line
    let s := match s.l1At core line with
      | none => s
      | some _ => ((s.dropL1 core line).setL1 core line { L1Line.init with valid := allLanes }).disown core line
    s.homeStore stand netBulk line z

/-! ### Translation (R242-R245) -/

/-- The access kinds of translation. -/
inductive Acc where
  | read
  | write
  | fetch
  deriving DecidableEq, Repr

/-- A leaf: its entry and the bits of its page offset. -/
structure Leaf where
  entry : Nat
  bits : Nat
  deriving DecidableEq, Repr

/-- The outcome of a walk or a translation: a value or an XLT cause. -/
inductive Xl (α : Type) where
  | ok (x : α)
  | fault (cause : Nat)
  deriving DecidableEq, Repr

/-- The index of a level (R242). -/
def levelIndex (lvl va : Nat) : Nat :=
  if lvl = 4 then bits va 56 48 else if lvl = 3 then bits va 47 39 else if lvl = 2 then bits va 38 30
  else if lvl = 1 then bits va 29 21 else bits va 20 16
/-- The page offset bits of a leaf at a level (R242). -/
def levelBits (lvl : Nat) : Nat := if lvl = 2 then 30 else if lvl = 1 then 21 else 16

/-- One table entry judged (R243, R244 step 2): a leaf, the next table, or a cause. -/
def judgeEntry (lvl e : Nat) : Xl (Leaf ⊕ Nat) :=
  if !bitAt e 0 then .fault 0x02
  else if bits e 7 5 ≠ 0 || bits e 63 48 ≠ 0 then .fault 0x05
  else if bitAt e 1 then
    if 3 ≤ lvl then .fault 0x05
    else if bits e 47 8 * 256 % 2 ^ levelBits lvl ≠ 0 then .fault 0x05
    else .ok (.inl ⟨e, levelBits lvl⟩)
  else if lvl = 0 then .fault 0x05
  else if bits e 4 2 ≠ 0 then .fault 0x05
  else if 2 ≤ lvl ∧ bits e 47 8 * 256 % 4096 ≠ 0 then .fault 0x05
  else .ok (.inr (bits e 47 8 * 256))

/-- The walk from a level and its table (R242, R244). -/
def State.walk (s : State) (va : Nat) : Nat → Nat → Xl Leaf
  | lvl, table =>
    match judgeEntry lvl (s.homeRead (table + 8 * levelIndex lvl va) 8) with
    | .fault c => .fault c
    | .ok (.inl l) => .ok l
    | .ok (.inr t) =>
      match lvl with
      | 0 => .fault 0x05
      | l + 1 => s.walk va l t

/-- The leaf of an address in an interface's tables, from the tables alone. -/
def State.walkVi (s : State) (vi va : Nat) : Xl Leaf :=
  if va < 2 ^ 57 then s.walk va 4 ((s.viAt vi).ctxRoot.toNat * 4096) else .fault 0x01

/-- The physical ranges, first unit and units, of the leaves with PIN = 1 under a table (R243). -/
def State.pinLeaves (s : State) : Nat → Nat → List (Nat × Nat)
  | lvl, table => (List.range (if lvl = 0 then 32 else 512)).flatMap (fun i =>
    match judgeEntry lvl (s.homeRead (table + 8 * i) 8) with
    | .fault _ => []
    | .ok (.inl l) => if bitAt l.entry 4 then [(bits l.entry 47 8 * 256 / 65536, 2 ^ (l.bits - 16))] else []
    | .ok (.inr t) => match lvl with
      | 0 => []
      | l + 1 => s.pinLeaves l t)
def State.pinnedRanges (s : State) : List (Nat × Nat) :=
  (s.vis.filter (fun v => v.2.en)).flatMap (fun v => s.pinLeaves 4 (v.2.ctxRoot.toNat * 4096))
/-- A unit that stays near: under a leaf with PIN = 1 (R249), or brought up by a KEEP entry of a running launch (R250). -/
def State.staysNear (s : State) (unit : Nat) : Bool :=
  s.launches.any (fun l => l.2.running && l.2.kept.contains unit) || s.pinnedRanges.any (fun r => r.1 ≤ unit && unit < r.1 + r.2)
/-- A unit that is among the first to go: of a DROP entry whose step has passed (R250). -/
def State.goesDeep (s : State) (unit : Nat) : Bool :=
  s.launches.any (fun l => l.2.running && l.2.passed.contains unit) && !s.staysNear unit

/-- Permission at a leaf (R244 step 3), and the physical address. -/
def leafAccess (acc : Acc) (va : Nat) (l : Leaf) : Xl (Nat × Leaf) :=
  if acc = .write ∧ !bitAt l.entry 2 then .fault 0x03
  else if acc = .fetch ∧ !bitAt l.entry 3 then .fault 0x04
  else .ok (bits l.entry 47 8 * 256 + va % 2 ^ l.bits, l)

/-- The sets of the i-th of n resident copses: first and count (R248). -/
def tlbShare (n i : Nat) : Nat × Nat :=
  let q := 64 / n
  let r := 64 % n
  if i < r then (i * (q + 1), q + 1) else (r * (q + 1) + (i - r) * q, q)
/-- The set that a copse's lookup of a page uses on a core (R248). -/
def Core.tlbSet (c : Core) (copse page : Nat) : Nat :=
  let x := tlbShare c.order.length (c.order.idxOf copse)
  x.1 + page % x.2
/-- The cached translation of an address for a copse: in the first-level TLB, else in its cluster's (R247). -/
def State.tlbFind (s : State) (copse va : Nat) : Option TlbEntry :=
  let c := s.copseAt copse
  let core := s.coreAt c.core
  match core.tlb.find? (fun e => e.owner == copse && e.page == va / 2 ^ e.bits && e.set == core.tlbSet copse e.page) with
  | some e => some e
  | none => (s.clusterAt (clusterOf c.core)).tlb.find? (fun e => e.owner == c.vi && e.page == va / 2 ^ e.bits)
/-- The copses of a core change: sets are dealt again, and entries in sets that change owner go (R248). -/
def Core.redeal (c : Core) (order : List Nat) : Core :=
  { c with
    order := order
    tlb := c.tlb.filter (fun e =>
      let x := tlbShare order.length (order.idxOf e.owner)
      order.contains e.owner && x.1 ≤ e.set && e.set < x.1 + x.2) }

/-- Maintenance code has no context: its addresses are physical (log 9). -/
def maintLeaf : Leaf := ⟨0x000F, 48⟩

/-- Translation for a copse: the walk, or a cached entry that differs from it, which may still be used (R246). -/
def State.xlate (s : State) (copse : Nat) (acc : Acc) (va : Nat) : Xl (Nat × Leaf) :=
  if (s.copseAt copse).maint then
    if va < 2 ^ 48 then .ok (va, maintLeaf) else .fault 0x01
  else
    let w := s.walkVi (s.copseAt copse).vi va
    let fresh := match w with | .ok l => leafAccess acc va l | .fault c => .fault c
    match s.tlbFind copse va with
    | none => fresh
    | some e =>
      let old := leafAccess acc va ⟨e.leaf.toNat, e.bits⟩
      if old = fresh ∨ 2 ^ 57 ≤ va then fresh else if s.coin va then old else fresh

/-- An entry added to a set of n ways, its oldest entry making room. -/
def tlbInsert (ways : Nat) (e : TlbEntry) (t : List TlbEntry) : List TlbEntry :=
  let same := t.filter (fun x => x.set == e.set)
  match (if ways ≤ same.length then same.head? else none) with
  | some x => t.erase x ++ [e]
  | none => t ++ [e]
/-- A translation that was used is kept by the first-level TLB and the cluster's (R247): 4 ways, and 4,096 entries. -/
def State.tlbAdd (s : State) (copse va : Nat) (l : Leaf) : State :=
  if (s.copseAt copse).maint || (s.tlbFind copse va).isSome then s
  else
    let k := (s.copseAt copse).core
    let vi := (s.copseAt copse).vi
    let c := s.coreAt k
    let page := va / 2 ^ l.bits
    let s := s.setCore k { c with tlb := tlbInsert 4 ⟨copse, c.tlbSet copse page, l.bits, page, BitVec.ofNat 64 l.entry⟩ c.tlb }
    let cl := s.clusterAt (clusterOf k)
    s.setCluster (clusterOf k) { cl with tlb := tlbInsert 4096 ⟨vi, 0, l.bits, page, BitVec.ofNat 64 l.entry⟩ cl.tlb }

/-! ### Instruction fetch (R46, R48, R49) -/

/-- A word of code as a stand fetches it: what its core sees, or an old word inside the stale window. -/
def State.fetchWord (s : State) (stand pa : Nat) : Nat :=
  let old := s.stale.filter (fun e => e.word == pa && e.stand == stand)
  match old.zipIdx.find? (fun e => s.coin (pa + e.2)) with
  | none => s.coreView (s.coreOf stand) pa 4
  | some e => e.1.old.toNat

/-- One issued instruction shortens a stand's stale window (R49). -/
def State.ageStale (s : State) (stand : Nat) : State :=
  { s with stale := s.stale.filterMap (fun e =>
      if e.stand = stand then (if e.left ≤ 1 then none else some { e with left := e.left - 1 }) else some e) }
/-- A fence whose mask holds CO closes it (R49, R313). -/
def State.closeStale (s : State) (stand : Nat) : State := { s with stale := s.stale.filter (fun e => e.stand != stand) }

end Sys2Proof.Machine
end

