-- ==== Sys2Proof/Machine/Host.lean ====
section
/-! DEFINITION. What the device writes to the host: fault records as words (spec/17 R398), event and completion rings and page
requests (spec/19 R443-R448, spec/11 R245), opaque handles (spec/12 R285), and reading through a context without a page request. -/

namespace Sys2Proof.Machine

/-- A 64-bit handle of a site of a kind in a generation (R285): 1 core, 2 cluster, 3 field, 4 slice. -/
def handleOf (gen kind site : Nat) : Word64 :=
  BitVec.ofNat 64 (gen % 65536 * 2 ^ 48 + kind * 2 ^ 44 + (Config.siteBits kind gen site).toNat % 2 ^ 44)
/-- The current handle of a site. -/
def State.handle (s : State) (kind site : Nat) : Word64 := handleOf s.boot.bgen.toNat kind site

/-- A fault record as a number, bit 0 first (R398). -/
def FaultRec.toBits (r : FaultRec) : Nat :=
  r.npc.toNat + r.othpc.toNat * 2 ^ 64 + r.addr.toNat * 2 ^ 128 + r.cls.toNat * 2 ^ 192 + r.cause.toNat * 2 ^ 200
    + r.sm.toNat * 2 ^ 208 + r.akind.toNat * 2 ^ 216 + r.space.toNat * 2 ^ 220 + r.ckind.toNat * 2 ^ 221
    + r.defer.toNat * 2 ^ 223 + r.stand.toNat * 2 ^ 224 + r.cont.toNat * 2 ^ 256 + r.copse.toNat * 2 ^ 320
    + r.lsite.toNat * 2 ^ 384 + r.pfx.toNat * 2 ^ 448 + r.pfy.toNat * 2 ^ 452 + r.pcl.toNat * 2 ^ 456
    + r.pcore.toNat * 2 ^ 464 + r.fmask.toNat * 2 ^ 512 + r.iw.toNat * 2 ^ 640 + r.aux.toNat * 2 ^ 768 + r.tseq.toNat * 2 ^ 832

/-- A record with nothing in it. -/
def FaultRec.zero : FaultRec :=
  ⟨0, 0, 0, 0, 0, 0, 0, false, 0, false, 0, 0, 0, 0, 0, 0, 0, 0, 0, 0, 0, 0⟩

/-- A host event of R445: CLASS 0x0D. -/
def hostEvent (cause addr aux : Nat) : FaultRec :=
  { FaultRec.zero with cls := 0x0D, cause := BitVec.ofNat 8 cause, addr := BitVec.ofNat 64 addr, aux := BitVec.ofNat 64 aux }

/-! ### Rings (R443, R446) -/

/-- A ring is enabled with LOGN from 4 to 12. -/
def Ring.on (r : Ring) : Bool := 4 ≤ r.logn.toNat && r.logn.toNat ≤ 12
def Ring.size (r : Ring) : Nat := 2 ^ r.logn.toNat
/-- The producer is the device: full at 2^LOGN - 1 entries. -/
def Ring.full (r : Ring) : Bool := (r.dptr.toNat + 1) % r.size == r.hptr.toNat % r.size
def Ring.push (r : Ring) : Ring := { r with dptr := BitVec.ofNat 16 ((r.dptr.toNat + 1) % r.size) }

/-- Writes one event entry, or holds it in order (R443). -/
def Vi.event (v : Vi) (m : Mem) (r : FaultRec) : Vi × Mem :=
  if v.eq.on && !v.eq.full && v.eqHeld == [] then
    ({ v with eq := v.eq.push, msi1 := v.msi1 + 1 }, memWrite m (v.eqBase.toNat * 4096 + 128 * (v.eq.dptr.toNat % v.eq.size)) r.toBits 128)
  else ({ v with eqHeld := v.eqHeld ++ [r] }, m)
/-- An enabled ring has no room for the entry of a cause, which waits until then (R443). -/
def Vi.cqStuck (v : Vi) : Bool := v.cq.on && (v.cq.full || v.cqHeld != [])
/-- The record of a stand of a copse waits for room in the event ring. -/
def Vi.eqHolds (v : Vi) (ord idx : Nat) : Bool :=
  v.eq.on && v.eqHeld.any (fun r => r.cls != 0x0D && r.copse == BitVec.ofNat 64 ord && r.stand.toNat == idx)
/-- Posts an event to an interface's event ring (R445). -/
def State.postEvent (s : State) (vi : Nat) (r : FaultRec) : State :=
  let (v, m) := (s.viAt vi).event s.hostMem r
  { s with hostMem := m }.setVi vi v

/-- A completion entry's bits (R444); DETAIL reads as zero up to version 2 (R442). -/
def Completion.toBits (c : Completion) (version : Nat) : Nat :=
  c.tag.toNat + c.status.toNat * 2 ^ 16 + (if version ≤ 2 then 0 else c.detail.toNat) * 2 ^ 32
/-- Writes one completion entry, or holds it in order. -/
def Vi.complete (v : Vi) (m : Mem) (c : Completion) : Vi × Mem :=
  if v.cq.on && !v.cq.full && v.cqHeld == [] then
    ({ v with cq := v.cq.push, msi0 := v.msi0 + 1 },
      memWrite m (v.cqBase.toNat * 4096 + 16 * (v.cq.dptr.toNat % v.cq.size)) (c.toBits v.agreed.toNat) 16)
  else ({ v with cqHeld := v.cqHeld ++ [c] }, m)
/-- Posts a completion (R444). -/
def State.complete (s : State) (vi : Nat) (tag : BitVec 16) (status detail : Nat) : State :=
  let (v, m) := (s.viAt vi).complete s.hostMem ⟨tag, BitVec.ofNat 8 status, BitVec.ofNat 32 detail⟩
  { s with hostMem := m }.setVi vi v

/-- Writes held completions and events once their rings have room (R443). -/
def drainHeld : Nat → Vi → Mem → Vi × Mem
  | 0, v, m => (v, m)
  | n + 1, v, m =>
    match v.cqHeld with
    | c :: r =>
      if v.cq.on && !v.cq.full then
        let (v, m) := Vi.complete { v with cqHeld := [] } m c
        drainHeld n { v with cqHeld := r } m
      else drainEvents (n + 1) v m
    | [] => drainEvents (n + 1) v m
where
  /-- The events held. -/
  drainEvents : Nat → Vi → Mem → Vi × Mem
    | 0, v, m => (v, m)
    | n + 1, v, m =>
      match v.eqHeld with
      | e :: r =>
        if v.eq.on && !v.eq.full then
          let (v, m) := Vi.event { v with eqHeld := [] } m e
          drainEvents n { v with eqHeld := r } m
        else (v, m)
      | [] => (v, m)
/-- The rings of an interface take what is held for them. -/
def State.flushRings (s : State) (vi : Nat) : State :=
  let v := s.viAt vi
  let (v, m) := drainHeld (v.cqHeld.length + v.eqHeld.length) v s.hostMem
  { s with hostMem := m }.setVi vi v

/-- Posts an event to one PF's ring (R446). -/
def State.postPf (s : State) (pf : Nat) (r : FaultRec) : State :=
  let p := s.pfAt pf
  if p.ring.on && !p.ring.full && p.held == [] then
    { s with hostMem := memWrite s.hostMem (p.base.toNat * 4096 + 128 * (p.ring.dptr.toNat % p.ring.size)) r.toBits 128 }.setPf pf
      { p with ring := p.ring.push, msi := p.msi + 1 }
  else if p.ring.on || p.held.length < 16 then s.setPf pf { p with held := p.held ++ [r] }
  else s.setPf pf { p with held := p.held.drop 1 ++ [r], lost := if p.lost = 0xFFFF then p.lost else p.lost + 1 }
/-- Posts an event to every PF (R446). -/
def State.postPfs (s : State) (r : FaultRec) : State := (List.range 4).foldl (fun s p => s.postPf p r) s
/-- Writes a PF's held entries in order once its ring is enabled. -/
def State.flushPf (s : State) (pf : Nat) : State :=
  let p := s.pfAt pf
  p.held.foldl (fun s r => s.postPf pf r) (s.setPf pf { p with held := [] })

/-! ### What the host writes, and submission entries (R442-R444) -/

/-- The saved copses of an interface whose images meet a range of host memory while the interface is enabled, which software must not write
then (R413). -/
def Vi.breaches (v : Vi) (a n : Nat) : List Nat :=
  let base := 4096 * v.saveBase.toNat
  if !v.en || !v.areaFresh then []
  else (v.saved.filter (fun e => a < base + e.2.2.1 + e.2.2.2 && base + e.2.2.1 < a + n)).map (fun e => e.2.1)
/-- Directory entries of the area. -/
def Vi.ndir (v : Vi) : Nat := if v.cquota = 0 then 4096 else v.cquota.toNat
/-- The range meets the header or directory of the interface's save area, which software must not write while the interface is enabled
either (R413). -/
def Vi.touches (v : Vi) (a n : Nat) : Bool :=
  let base := 4096 * v.saveBase.toNat
  v.en && v.areaFresh && a < base + 4096 + 64 * v.ndir && base < a + n
/-- Bytes written to host memory by the host. -/
def State.hostPut (s : State) (a : Nat) (bs : List Byte) : State :=
  { s with
    hostMem := memWrite s.hostMem a (natOf bs) bs.length
    vis := s.vis.map (fun v => (v.1,
      { v.2 with breached := v.2.breached ++ v.2.breaches a bs.length, areaTouched := v.2.areaTouched || v.2.touches a bs.length })) }
/-- The opcode and tag of the submission entry at the device's pointer. -/
def State.sqHead (s : State) (vi : Nat) : Nat × BitVec 16 :=
  let v := s.viAt vi
  let e := memRead s.hostMem (v.sqBase.toNat * 4096 + 64 * (v.sq.dptr.toNat % v.sq.size)) 4
  (e % 256, BitVec.ofNat 16 (e / 65536))
/-- The device reads submission entries: the interface is enabled, a version agreed, and the ring not empty (R442, R443). -/
def Vi.hasCmd (v : Vi) : Bool := v.en && v.ok && v.sq.on && v.sq.hptr.toNat % v.sq.size != v.sq.dptr.toNat % v.sq.size
/-- A command of the agreed version (R442, R444). -/
def Vi.knows (v : Vi) (op : Nat) : Bool := (1 ≤ op && op ≤ 5) || (op == 6 && 2 ≤ v.agreed.toNat)
/-- Commands that the agreed version does not know complete with BADCMD as they come to be read (R442). -/
def State.badCmds (s : State) (vi : Nat) : Nat → State
  | 0 => s
  | n + 1 =>
    let v := s.viAt vi
    if v.hasCmd && !v.knows (s.sqHead vi).1 then
      ((s.setVi vi { v with sq := v.sq.push }).complete vi (s.sqHead vi).2 0x10 0).badCmds vi n
    else s
/-- The next submission entry is a command with an opcode and a tag: the state with it taken (R444). -/
def State.takeCmd (s : State) (vi op : Nat) (tag : BitVec 16) : Option State :=
  let v := s.viAt vi
  if v.hasCmd && s.sqHead vi == (op, tag) && v.knows op then some ((s.setVi vi { v with sq := v.sq.push }).badCmds vi v.sq.size) else none

/-! ### Page requests (R245, R448) -/

/-- The page an address lies on, as its request names it (log 10): the 64 KiB page. -/
def pageOf (va : Nat) : Nat := va / 65536
/-- A live side-log entry of the core holds one of the pages (R256). -/
def State.pageLogged (s : State) (core : Nat) (xs : List (Nat × Nat)) : Bool :=
  (s.coreAt core).slog.any (fun e => xs.any (fun x => pageOf x.2 == e.page))
/-- Posts a page request, one per page and cause (R448): its id and the state after. -/
def State.postPage (s : State) (vi va cause : Nat) : Nat × State :=
  let v := s.viAt vi
  match v.pages.find? (fun p => p.page == pageOf va && p.cause == cause) with
  | some p => (p.id, s)
  | none =>
    let id := v.nextReq
    let s := s.setVi vi { v with pages := v.pages ++ [⟨id, pageOf va, cause⟩], nextReq := id + 1 }
    (id, s.postEvent vi (hostEvent 0x01 (65536 * pageOf va) id))

/-! ### Reads of the scheduler through a context: no fault, no page request (R69, R126, R468) -/

/-- n bytes at an address of one 64 KiB page, or nothing if it does not translate at once. -/
def State.pageRead (s : State) (vi va n : Nat) : Option Nat :=
  match s.walkVi vi va with
  | .fault _ => none
  | .ok l => match leafAccess .read va l with
    | .fault _ => none
    | .ok (pa, _) => some (s.homeRead pa n)
/-- n bytes at an address, or nothing if one of them does not translate at once (R126). -/
def State.ctxRead (s : State) (vi va n : Nat) : Option Nat :=
  let here := 65536 - va % 65536
  if n ≤ here then s.pageRead vi va n
  else match s.pageRead vi va here, s.pageRead vi (va + here) (n - here) with
    | some x, some y => some (x + y * 256 ^ here)
    | _, _ => none
/-- A run of 64-bit words. -/
def State.ctxWords (s : State) (vi va : Nat) : Nat → Option (List Nat)
  | 0 => some []
  | n + 1 => match s.ctxRead vi va 8, s.ctxWords vi (va + 8) n with
    | some x, some r => some (x :: r)
    | _, _ => none

end Sys2Proof.Machine
end

