-- ==== Sys2Proof/Machine/GraftMap.lean ====
section
/-! DEFINITION. The graft map table and the other program counter (spec/05 R121-R128). -/

namespace Sys2Proof.Machine

/-- A graft map table as read: sizes, entries (GID, NMOVE, PIDX, MIDX), pairs (SOFF, HOFF, SEQ), moves (FROM, TO, RK), SREV, HREV. -/
structure GraftTable where
  ssize : Nat
  hsize : Nat
  entries : List (Nat × Nat × Nat × Nat)
  pairs : List (Nat × Nat × Bool)
  moves : List (Nat × Nat × Nat)
  srev : Nat
  hrev : Nat
  deriving DecidableEq, Repr

/-- Strictly rising. -/
def rising : List Nat → Bool
  | a :: b :: r => decide (a < b) && rising (b :: r)
  | _ => true

/-- Half-open ranges that do not meet. -/
def apart (a al b bl : Nat) : Bool := al == 0 || bl == 0 || a + al ≤ b || b + bl ≤ a

/-- n records of `size` bytes, size 4 or a multiple of 8 up to 16. -/
def State.ctxRecords (s : State) (vi va size : Nat) : Nat → Option (List Nat)
  | 0 => some []
  | n + 1 =>
    match (if size = 16 then
             match s.ctxRead vi va 8, s.ctxRead vi (va + 8) 8 with
             | some a, some b => some (a + b * 2 ^ 64)
             | _, _ => none
           else s.ctxRead vi va size), s.ctxRecords vi (va + size) size n with
    | some x, some r => some (x :: r)
    | _, _ => none

/-- The word of code at an address is a graft point of an id: a header with GPT = 1, or a mark word (R126). -/
def State.graftWordAt (s : State) (vi va gid : Nat) (k : Kind) : Bool :=
  match s.ctxRead vi va 8 with
  | none => false
  | some w =>
    match decode k (BitVec.ofNat 128 w) with
    | .instr (.clauseHeader h) _ => h.gpt && h.gid.toNat == gid
    | .instr (.markWord m) _ => m.gid.toNat == gid
    | _ => false

/-- The move records of one entry are a permutation within each kind (R126). -/
def movesPermute (ms : List (Nat × Nat × Nat)) : Bool :=
  (List.range 4).all (fun rk =>
    let fs := (ms.filter (fun m => m.2.2 == rk)).map (fun m => m.1)
    let ts := (ms.filter (fun m => m.2.2 == rk)).map (fun m => m.2.1)
    fs.Nodup && ts.Nodup && fs.all (fun x => ts.contains x))

/-- A stage's vector registers rounded as in R19, and its s registers (R34). -/
def roundRegs (n : Nat) : Nat := 8 * ceilDiv (maxN n 1) 8

/-- The register limits of R126. -/
def moveInRange (st : Stage) (m : Nat × Nat × Nat) : Bool :=
  let lim := if m.2.2 = 0 then roundRegs st.vregs else if m.2.2 = 1 then st.uregs else if m.2.2 = 2 then 7 else 4
  m.1 < lim && m.2.1 < lim

/-- Reads and checks the graft map table of a stage (R121-R126); none if it is zero or invalid. A table or a part of it that is not aligned as
R121 says is read where it stands, R126 naming no such reason (DESIGN CHOICE, log 93). -/
def State.graftTable (s : State) (vi : Nat) (st : Stage) : Option GraftTable := do
  if st.gmap = 0 then none else some ()
  let h ← s.ctxWords vi st.gmap.toNat 8
  let w (i : Nat) : Nat := (h[i]?).getD 0
  let ngraft := bits (w 0) 63 48
  let npair := bits (w 1) 31 0
  let goff := bits (w 2) 63 32
  let poff := bits (w 3) 31 0
  let moff := bits (w 3) 63 32
  let resvd := bits (w 4) 63 32 + w 5 + w 6 + w 7
  if bits (w 0) 31 0 = 0x4D475A4B ∧ bits (w 0) 47 32 = 1 ∧ resvd = 0 ∧ 1 ≤ npair then some () else none
  let es ← s.ctxRecords vi (st.gmap.toNat + goff) 16 ngraft
  let ps ← s.ctxRecords vi (st.gmap.toNat + poff) 8 npair
  let entries := es.map (fun e => (bits e 15 0, bits e 31 16, bits e 63 32, bits e 95 64))
  let nmoves := entries.foldl (fun m e => maxN m (e.2.2.2 + e.2.1)) 0
  let ms ← s.ctxRecords vi (st.gmap.toNat + moff) 4 nmoves
  let pairs := ps.map (fun p => (bits p 31 0, bits p 62 32, bitAt p 63))
  let moves := ms.map (fun m => (bits m 7 0, bits m 15 8, bits m 17 16))
  let ok := es.all (fun e => bits e 127 96 == 0) && ms.all (fun m => bits m 31 18 == 0)
    && apart 0 64 goff (16 * ngraft) && apart 0 64 poff (8 * npair) && apart 0 64 moff (4 * nmoves)
    && apart goff (16 * ngraft) poff (8 * npair) && apart goff (16 * ngraft) moff (4 * nmoves)
    && apart poff (8 * npair) moff (4 * nmoves)
    && rising (entries.map (fun e => e.1)) && rising (pairs.map (fun p => p.1)) && rising (pairs.map (fun p => p.2.1))
    && (pairs.headD (1, 1, false)).1 == 0 && (pairs.headD (1, 1, false)).2.1 == 0
    && entries.all (fun e =>
        (match pairs[e.2.2.1]? with
         | none => false
         | some p => s.graftWordAt vi (st.sentry.toNat + p.1) e.1 .sap && s.graftWordAt vi (st.hentry.toNat + p.2.1) e.1 .heart)
        && movesPermute ((moves.drop e.2.2.2).take e.2.1))
    && moves.all (moveInRange st)
  if ok then
    some ⟨bits (w 1) 63 32, bits (w 2) 31 0, entries, pairs, moves, bits (w 4) 15 0, bits (w 4) 31 16⟩
  else none

/-- The other kind. -/
def otherKind : Kind → Kind
  | .heart => .sap
  | .sap => .heart
/-- The entry of a stage in a kind, the size of its code and the offset of a pair. -/
def Stage.entry (st : Stage) : Kind → Nat
  | .sap => st.sentry.toNat
  | .heart => st.hentry.toNat
def GraftTable.size (g : GraftTable) : Kind → Nat
  | .sap => g.ssize
  | .heart => g.hsize
def pairOff (p : Nat × Nat × Bool) : Kind → Nat
  | .sap => p.1
  | .heart => p.2.1

/-- Instructions from a code address up to another, where the latter is the first word of an instruction; headers, mark words
and pad words are not counted (R127). -/
def State.countTo (s : State) (vi : Nat) : Nat → Nat → Nat → Nat → Option Nat
  | 0, _, _, _ => none
  | fuel + 1, a, stop, n =>
    match s.ctxRead vi a 4 with
    | none => none
    | some w =>
      if w = 0 then (if stop ≤ a then none else s.countTo vi fuel (32 * (a / 32 + 1)) stop n)
      else if w % 4 = 0 then (if stop ≤ a then none else s.countTo vi fuel (a + 8) stop n)
      else if a = stop then some n
      else if stop < a then none
      else s.countTo vi fuel (a + lenBytes (w % 4)) stop (n + 1)
/-- The address of the instruction that follows n instructions. -/
def State.skipTo (s : State) (vi : Nat) : Nat → Nat → Nat → Option Nat
  | 0, _, _ => none
  | fuel + 1, a, n =>
    match s.ctxRead vi a 4 with
    | none => none
    | some w =>
      if w = 0 then s.skipTo vi fuel (32 * (a / 32 + 1)) n
      else if w % 4 = 0 then s.skipTo vi fuel (a + 8) n
      else match n with
        | 0 => some a
        | m + 1 => s.skipTo vi fuel (a + lenBytes (w % 4)) m

/-- The largest pair record at or below an offset of a kind's code (R127). -/
def GraftTable.pairBelow (g : GraftTable) (k : Kind) (o : Nat) : Option Nat :=
  ((List.range g.pairs.length).filter (fun i => match g.pairs[i]? with | some p => pairOff p k ≤ o | none => false)).getLast?
/-- OtherPC (R127); none is ABSENT. -/
def State.otherPC (s : State) (vi : Nat) (st : Stage) (g : GraftTable) (pc : Nat) (k : Kind) : Option Nat :=
  let o := pc - st.entry k
  if pc < st.entry k ∨ g.size k ≤ o then none
  else
    match g.pairBelow k o with
    | none => none
    | some i =>
      let p := (g.pairs[i]?).getD (0, 0, false)
      let dst := otherKind k
      if pairOff p k = o then some (st.entry dst + pairOff p dst)
      else if !p.2.2 then none
      else
        match s.countTo vi (g.size k) (st.entry k + pairOff p k) pc 0 with
        | none => none
        | some n =>
          match s.skipTo vi (g.size dst + n + 1) (st.entry dst + pairOff p dst) n with
          | none => none
          | some a =>
            let lim := match g.pairs[i + 1]? with | some q => pairOff q dst | none => g.size dst
            if st.entry dst + lim ≤ a then none else some a

/-- Where a context finds what the translator made of the code or table that an image has at an address: in the translation area (R137). -/
def areaPlace (image area va : Nat) : Nat := Config.areaAt area + Config.translatedAt image va % maxN 1 (Config.translationBytes image)
/-- The offset of a pair record in the new code for that at an address: ascending, from the entry on (R123, R137). -/
def translatedPair (image entry i : Nat) : Nat := (List.range i).foldl (fun n j => n + 8 * (1 + Config.translatedStep image entry j)) 0
/-- A program counter carried through its pair index into the code that the translator made of an image's (R138); none where it cannot be. -/
def State.reexpressed (s : State) (vi image area : Nat) (st : Stage) (g : GraftTable) (k : Kind) (pc : Nat) : Option Nat :=
  let o := pc - st.entry k
  if pc < st.entry k ∨ g.size k ≤ o then none
  else match g.pairBelow k o with
    | none => none
    | some i =>
      let p := (g.pairs[i]?).getD (0, 0, false)
      let entry := areaPlace image area (st.entry k)
      if pairOff p k = o then some (entry + translatedPair image (st.entry k) i)
      else if !p.2.2 || !Config.translatedSeq image (st.entry k) i then none
      else (s.countTo vi (g.size k) (st.entry k + pairOff p k) pc 0).map (fun n => entry + Config.translatedAfter image (st.entry k) i n)

/-- The stage of a copse. -/
def Stage.empty : Stage := ⟨0, 0, 0, 1, 0, 0, 0, 3, 0, 0, 0, 0, 0, 0, [], [], 0, [], false⟩
def Launch.stageAt (l : Launch) (n : Nat) : Stage := (l.stages[n]?).getD Stage.empty
def State.stageOf (s : State) (copse : Nat) : Stage :=
  let c := s.copseAt copse
  (s.launchAt c.launch).stageAt c.stage

/-- OTHPC of a fault record (R128, R398). -/
def State.othpc (s : State) (copse pc : Nat) : Word64 :=
  let c := s.copseAt copse
  let st := s.stageOf copse
  match s.graftTable c.vi st with
  | none => BitVec.allOnes 64
  | some g => match s.otherPC c.vi st g pc c.kind with
    | none => BitVec.allOnes 64
    | some a => BitVec.ofNat 64 a

/-- A target of `brx` or `calx` in the other encoding's code is carried (R128): none is ABSENT. -/
def State.carryTarget (s : State) (copse tgt : Nat) : Option Nat :=
  let c := s.copseAt copse
  let st := s.stageOf copse
  let dst := otherKind c.kind
  match s.graftTable c.vi st with
  | none => some tgt
  | some g => if st.entry dst ≤ tgt ∧ tgt < st.entry dst + g.size dst then s.otherPC c.vi st g tgt dst else some tgt

end Sys2Proof.Machine
end

