-- ==== Sys2Proof/Machine/Records.lean ====
section
/-! DEFINITION. Scratchpad bytes and line states (spec/11 R240, R241, R252, R262) and completion records with their phases
(spec/15 R353-R366). -/

namespace Sys2Proof.Machine

/-! ### Scratchpad lines -/

def Copse.lineAt (c : Copse) (l : Nat) : LineSt := tget LineSt.init c.lines l
def Copse.setLine (c : Copse) (l : Nat) (x : LineSt) : Copse := { c with lines := tset l x c.lines }
/-- The lines that n bytes from a meet. -/
def linesOf (a n : Nat) : List Nat := if n = 0 then [] else (List.range ((a + n - 1) / 128 + 1 - a / 128)).map (fun i => a / 128 + i)
/-- The range lies in the allocation (R240). -/
def Copse.inAlloc (c : Copse) (a n : Nat) : Bool := a + n ≤ 128 * c.alloc
/-- The region of a line. -/
def Copse.regionOf (c : Copse) (l : Nat) : Option (Nat × Region) :=
  match (c.lineAt l).region with
  | 0 => none
  | i + 1 => (tfind i c.regions).map (fun r => (i, r))
/-- Bytes written into a .rw or .wo line set its dirty bits (R262). -/
def Copse.markDirty (c : Copse) (l : Nat) (m : Mask) : Copse :=
  match c.regionOf l with
  | none => c
  | some (_, r) => if r.mode = 1 then c else c.setLine l { c.lineAt l with dirty := (c.lineAt l).dirty ||| m }
/-- Writes bytes at an offset of the scratchpad, with their dirty bits. -/
def Copse.put (c : Copse) (a : Nat) (bs : List Byte) : Copse :=
  let w := (List.range bs.length).zip bs
  let c' := { c with scratch := w.foldl (fun m b => memSet (a + b.1) b.2 m) c.scratch }
  (linesOf a bs.length).foldl (fun c l =>
    c.markDirty l (maskOf ((List.range 128).filter (fun o => a ≤ 128 * l + o && 128 * l + o < a + bs.length)))) c'
/-- Reads n bytes of the scratchpad as a number. -/
def Copse.get (c : Copse) (a n : Nat) : Nat := memRead c.scratch a n

/-! ### The record (R354, R355) -/

/-- Bits hi:lo of a number replaced. -/
def setBits (x hi lo v : Nat) : Nat := x - bits x hi lo * 2 ^ lo + v % 2 ^ (hi + 1 - lo) * 2 ^ lo

abbrev recPH (r : Nat) : Nat := bits r 0 0
abbrev recBRK (r : Nat) : Nat := bits r 1 1
abbrev recNXV (r : Nat) : Nat := bits r 3 3
abbrev recVALID (r : Nat) : Nat := bits r 4 4
abbrev recEXPS (r : Nat) : Nat := bits r 12 8
abbrev recARRS (r : Nat) : Nat := bits r 17 13
abbrev recNEXPS (r : Nat) : Nat := bits r 22 18
abbrev recPARK (r : Nat) : Nat := bits r 47 32
abbrev recHELD (r : Nat) : Nat := bits r 63 48
abbrev recSID (r i : Nat) : Nat := bits r (64 + 48 * i + 4) (64 + 48 * i)
abbrev recEXPL (r i : Nat) : Nat := bits r (64 + 48 * i + 14) (64 + 48 * i + 5)
abbrev recDELL (r i : Nat) : Nat := bits r (64 + 48 * i + 24) (64 + 48 * i + 15)
abbrev recNEXPL (r i : Nat) : Nat := bits r (64 + 48 * i + 34) (64 + 48 * i + 25)
def setEXPL (r i v : Nat) : Nat := setBits r (64 + 48 * i + 14) (64 + 48 * i + 5) v
def setDELL (r i v : Nat) : Nat := setBits r (64 + 48 * i + 24) (64 + 48 * i + 15) v
def setNEXPL (r i v : Nat) : Nat := setBits r (64 + 48 * i + 34) (64 + 48 * i + 25) v

/-- The record at an offset of a copse's scratchpad. -/
def State.recAt (s : State) (copse o : Nat) : Nat := (s.copseAt copse).get o 32
/-- Changing a record is no store: it sets no dirty bit (log 11). -/
def State.setRec (s : State) (copse o r : Nat) : State :=
  let c := s.copseAt copse
  s.setCopse copse { c with scratch := memWrite c.scratch o r 32 }

/-- The record checks of PRT cause 0x05 (R353) that `crinit` makes too: alignment and allocation. -/
def Copse.recPlaceOk (c : Copse) (o : Nat) : Bool := o % 32 == 0 && c.inAlloc o 32
/-- All of PRT cause 0x05. -/
def Copse.recOk (c : Copse) (o : Nat) : Bool :=
  c.recPlaceOk o && (c.lineAt (o / 128)).bm && recVALID (c.get o 32) == 1

/-- A valid expectation word (R357). -/
def ewOk (e : Nat) : Bool :=
  bits e 4 0 ≤ 16 && bits e 63 45 == 0 &&
    (bits e 4 0 != 0 || (List.range 4).any (fun i => bits e (14 + 10 * i) (5 + 10 * i) != 0))

/-- A stand that waited on a phase wakes with its status (R360, R365, R332). -/
def State.wakeRec (s : State) (k : Nat) (status : Bool) : State :=
  let st := s.standAt k
  let putQ (d : Nat) : BitVec 4 :=
    BitVec.ofNat 4 ((List.range 4).foldl (fun x i => x + (if (if i = d then status else st.q.getLsbD i) then 2 ^ i else 0)) 0)
  match st.wait with
  | .record _ _ d => s.setStand k { st with q := putQ d, wait := .none }
  | .cont _ _ d t => s.setStand k { st with q := putQ d, wait := .none, pc := t, place := .target }
  | _ => s

/-- A held arrival completes with its token; `arrive.w` then waits for the phase that is open, or ends at once (R364, R366). -/
def State.releaseHeld (s : State) (k o ph : Nat) (ends : Bool) : State :=
  let st := s.standAt k
  match st.wait with
  | .heldRec _ d false => s.setStand k { st with sr := tset d (BitVec.ofNat 64 (ph * 65536 + o)) st.sr, wait := .none }
  | .heldRec _ d true =>
    let s := s.setStand k { st with wait := .record (BitVec.ofNat 16 o) (ph == 1) d }
    if ends then s.wakeRec k false else s
  | _ => s

/-- Completion of the open phase (R358). -/
def State.recComplete (s : State) (copse o : Nat) (broken : Bool) : State :=
  let r := s.recAt copse o
  let r1 := (List.range 4).foldl (fun r i => setDELL r i (if broken then 0 else recDELL r i - recEXPL r i)) r
  let r2 := setBits (setBits (setBits r1 1 1 (if broken then 1 else 0)) 0 0 (1 - recPH r)) 17 13 0
  let r3 := if recNXV r = 1 then
      setBits (setBits ((List.range 4).foldl (fun x i => setEXPL x i (recNEXPL r i)) r2) 12 8 (recNEXPS r)) 3 3 0
    else r2
  let parked := (List.range 16).filter (fun k => bitAt (recPARK r) k)
  let s := parked.foldl (fun s k => s.wakeRec (16 * copse + k) (!broken)) s
  let r4 := setBits r3 47 32 0
  let take := ((List.range 16).filter (fun k => bitAt (recHELD r4) k)).take (recEXPS r4 - recARRS r4)
  let r5 := take.foldl (fun r k => setBits r (48 + k) (48 + k) 0) r4
  let r6 := setBits r5 17 13 (recARRS r4 + take.length)
  let waits := take.filter (fun k => match (s.standAt (16 * copse + k)).wait with | .heldRec _ _ w => w | _ => false)
  let r7 := waits.foldl (fun r k => setBits r (32 + k) (32 + k) 1) r6
  take.foldl (fun s k => s.releaseHeld (16 * copse + k) o (recPH r7) false) (s.setRec copse o r7)

/-- CheckComplete (R358): every pass ends a phase, and a phase takes at least one line or arrival. -/
def State.recCheck (s : State) (copse o : Nat) : Nat → State
  | 0 => s
  | n + 1 =>
    let r := s.recAt copse o
    if recVALID r = 1 ∧ recARRS r = recEXPS r ∧ (List.range 4).all (fun i => recEXPL r i ≤ recDELL r i) then
      (s.recComplete copse o false).recCheck copse o n
    else s
/-- More phases than surplus lines and stands can complete at once. -/
def recFuel : Nat := 1100

/-- A delivered line of a bound copy (R356). -/
def State.recDeliver (s : State) (copse o slot stand : Nat) : State :=
  let r := s.recAt copse o
  if recVALID r = 0 then s
  else
    let admits := recSID r slot == 16 || recSID r slot == stand % 16
    if recEXPL r slot ≠ 0 ∧ admits then
      (s.setRec copse o (setDELL r slot (minN 1023 (recDELL r slot + 1)))).recCheck copse o recFuel
    else s.setRec copse o (setBits r 2 2 1)
/-- A cancelled or denied bound copy ends (R325, R358). -/
def State.recBreak (s : State) (copse o slot : Nat) : State :=
  let r := s.recAt copse o
  if recVALID r = 1 ∧ recEXPL r slot ≠ 0 then (s.recComplete copse o true).recCheck copse o recFuel else s

end Sys2Proof.Machine
end

