-- ==== Sys2Proof/Machine/CopyOps.lean ====
section
/-! DEFINITION. Deferred traps (spec/17 R397), scratchpad lines as accesses meet them (spec/11 R252, R261), channels and copies
(spec/14 R318-R325, R336-R342). -/

namespace Sys2Proof.Machine

/-! ### Fault records and the deferred-trap queue (R397, R398) -/

/-- The record of a trap of a stand with its program counter (R398). -/
def State.faultRec (s : State) (k : Nat) (r : TrapReq) (npc : Word64) (defer : Bool) : FaultRec :=
  let st := s.standAt k
  let c := s.copseAt (copseOf k)
  let l := s.launchAt c.launch
  { npc := npc
    othpc := s.othpc (copseOf k) npc.toNat
    addr := r.addr
    cls := r.cls
    cause := r.cause
    sm := r.sm
    akind := r.akind
    space := r.space
    ckind := match c.kind with | .sap => 1 | .heart => 2
    defer := defer
    stand := BitVec.ofNat 4 (k % 16)
    cont := if c.launch = 0 then 0 else BitVec.ofNat 64 (l.record.toNat / 64 * 64 + c.stage % 8)
    copse := BitVec.ofNat 64 c.ord
    lsite := s.handle 1 c.core
    pfx := BitVec.ofNat 4 (fieldOfCore c.core % 9)
    pfy := BitVec.ofNat 4 (fieldOfCore c.core / 9)
    pcl := BitVec.ofNat 8 (clusterOf c.core % 140)
    pcore := BitVec.ofNat 2 (c.core % 4)
    fmask := r.fmask
    iw := if defer then 0 else r.iw
    aux := r.aux
    tseq := st.tseq }

/-- A deferred trap joins the queue (R397); its caller has seen that there is room. A stand that has gone takes none. -/
def State.deferTrap (s : State) (k : Nat) (r : TrapReq) : State :=
  let st := s.standAt k
  let npc := if st.life = .ending then st.exitPc else st.pc
  let rec' := s.faultRec k r npc true
  if st.life = .absent then s else s.setStand k { st with deferred := st.deferred ++ [rec'], tseq := st.tseq + 1 }
/-- The queue has room (R397). -/
def State.deferRoom (s : State) (k : Nat) : Bool := (s.standAt k).deferred.length < 16

/-! ### Lines met by an access (R252, R261) -/

/-- A command that is a fetch from global memory (R213). -/
def CmdOp.fetches : CmdOp → Bool
  | .fillG .. => true
  | _ => false
/-- The requests of a copse in the queue of its copy engine (R318): copies, operand fetches, first-touch fills and write-backs. -/
def State.requestsOf (s : State) (copse : Nat) : Nat :=
  let c := s.copseAt copse
  (c.copies.filter (fun x => x.status.isNone)).length + c.fills.length
    + (s.clusterAt (clusterOf c.core)).eng.recs.foldl (fun n r =>
        if r.2.copse = copse then n + (r.2.queue.filter (fun q => q.op.fetches && q.phase != .complete)).length else n) 0
/-- Requests in the queue of a copse's copy engine: those of every copse of the field that has the same one (R318). -/
def State.engineLoad (s : State) (copse : Nat) : Nat :=
  let c := s.copseAt copse
  (s.copses.filter (fun e => e.2.life = .resident && fieldOfCore e.2.core = fieldOfCore c.core && e.2.engine = c.engine)).foldl
    (fun n e => n + s.requestsOf e.1) 0
def engineLimit : Nat := 256
def copyLimit : Nat := 64
/-- The engine's queue has room for n requests more. -/
def State.engineRoom (s : State) (copse n : Nat) : Bool := s.engineLoad copse + n ≤ engineLimit

/-! ### Staged updates of a line (R216) -/

/-- An uncommitted add-on-store update of a line holds back what reaches its home; not under DET (R235). -/
def State.stagedLine (s : State) (line : Nat) : Bool := (s.dirAt line).staged.any (fun x => x.det.isNone)
/-- The access still waits at its bank. -/
def State.stillWaits (s : State) : Waiter → Bool
  | .stand k n => (s.standAt k).life == .live && (s.standAt k).issues == n && (s.copseAt (copseOf k)).life == .resident
  | .copy c q n => (s.copseAt c).life == .resident
      && (s.copseAt c).copies.any (fun x => x.seq == q && x.status.isNone && x.parked.isNone && x.todo.length == n)
  | .cmd cl r q n => (tget Resv.init (s.clusterAt cl).eng.recs r).queue.any (fun x => x.seq == q && x.phase == .granted && x.todo.length == n)
  | .fill c l => (s.copseAt c).life == .resident && (s.copseAt c).fills.any (fun x => x.line == l && x.req.isNone)
  | .log c k w p => (s.coreAt c).slog.any (fun e => e.stand == k && e.word == w && e.page == p && e.req == 0 && e.cause == 0)
  | .peer n => s.peerQ.any (fun e => e.1 == n)
/-- An access is held at the banks of those of its lines that have a staged update. -/
def State.holdAt (s : State) (w : Waiter) (lines : List Nat) : State :=
  (distinct (lines.filter s.stagedLine)).foldl (fun s l =>
    let d := s.dirAt l
    let ws := d.waiters.filter s.stillWaits
    s.setDir l { d with waiters := if ws.contains w then ws else ws ++ [w] }) s
/-- The word of the executing stand is held. -/
def State.holdWord (s : State) (lines : List Nat) : State := s.holdAt (.stand s.cur s.me.issues) lines
/-- An access is held for the line: its bank stages nothing more for it until the access is served. -/
def State.heldLine (s : State) (line : Nat) : Bool := (s.dirAt line).waiters.any s.stillWaits
/-- A flush of a core's L1 would meet a staged update: it waits. -/
def State.flushHeld (s : State) (core : Nat) : Bool :=
  let dirty (c : Nat) (p : L1Line → Bool) : Bool := (s.coreAt c).l1.any (fun l => l.2.dirty != 0 && p l.2 && s.stagedLine l.1)
  dirty core (fun _ => true) || (siblings core).any (fun c => dirty c (fun l => l.writers.any (fun w => s.coreOf w == core)))

/-! ### First touches -/

/-- An untouched line of a region raises its one fill at its first touch (R261), once its engine has room for it (R318). -/
def State.touchLine (s : State) (copse l : Nat) : State :=
  let c := s.copseAt copse
  let x := c.lineAt l
  if x.touched || x.region == 0 || !s.engineRoom copse 1 then s
  else s.setCopse copse { c.setLine l { x with touched := true } with fills := c.fills ++ [⟨l, none, none, []⟩] }
def State.touchLines (s : State) (copse : Nat) (ls : List Nat) : State := ls.foldl (fun s l => s.touchLine copse l) s
/-- A line still waits for the first-touch fill of its region. -/
def Copse.awaitsFill (c : Copse) (l : Nat) : Bool :=
  (!(c.lineAt l).touched && (c.lineAt l).region != 0) || c.fills.any (fun x => x.line == l && x.wb.isNone)
/-- Every line is full. -/
def Copse.linesFull (c : Copse) (ls : List Nat) : Bool := ls.all (fun l => (c.lineAt l).full)
/-- Some line is empty without a filler: MEM cause 0x03 (R252, R265). -/
def Copse.linesDead (c : Copse) (ls : List Nat) : Bool := ls.any (fun l => !(c.lineAt l).full && (c.lineAt l).filler == none)
/-- Some line is barrier-marked (R353). -/
def Copse.linesMarked (c : Copse) (ls : List Nat) : Bool := ls.any (fun l => (c.lineAt l).bm)

/-! ### Channels (R336-R341) -/

def State.chanAt (s : State) (core n : Nat) : Chan := tget Chan.init (s.coreAt core).chans n
def State.setChan (s : State) (core n : Nat) (c : Chan) : State :=
  let k := s.coreAt core
  s.setCore core { k with chans := tset n c k.chans }
/-- The channel as maintenance mode has it: no owner, fixed depths (R341). -/
def State.chanDepth (s : State) (core n : Nat) : Nat :=
  if s.maint then (if n < 16 then 2 else if n < 48 then 1 else 2) else (s.chanAt core n).depth
/-- Entries held, those held for issued instructions and those due from engines included (R35, R339). -/
def Chan.used (c : Chan) : Nat := c.entries.length + c.held
/-- Free entries. -/
def State.chanFree (s : State) (core n : Nat) : Nat := s.chanDepth core n - (s.chanAt core n).used
/-- A stand's reference to a channel is a CPY cause 0x05 (R336, R338, R341). -/
def State.chanBad (s : State) (copse core n : Nat) (push : Bool) : Bool :=
  if s.maint then false
  else n < 16 || (push && n < 48) || (s.chanAt core n).owner != some copse || (s.chanAt core n).depth == 0
/-- Pushes entries at the tail. -/
def State.chanPush (s : State) (core n : Nat) (es : List ChanEntry) : State :=
  let c := s.chanAt core n
  s.setChan core n { c with entries := c.entries ++ es }
/-- Takes entries from the head. -/
def State.chanPop (s : State) (core n k : Nat) : State :=
  let c := s.chanAt core n
  s.setChan core n { c with entries := c.entries.drop k }

/-! ### Copies (R318-R325) -/

/-- One piece of a copy: global address, scratchpad offset, bytes. -/
abbrev Piece := Nat × Nat × Nat

/-- Splits a run of n bytes at multiples of 128 of a coordinate. -/
def splitRun (byScratch : Bool) : Nat → Nat → Nat → Nat → List Piece
  | 0, _, _, _ => []
  | fuel + 1, g, o, n =>
    if n = 0 then []
    else
      let x := if byScratch then o else g
      let k := minN n (128 - x % 128)
      (g, o, k) :: splitRun byScratch fuel (g + k) (o + k) (n - k)
/-- The pieces of all runs, in order. -/
def piecesOf (byScratch : Bool) : Nat → List (Nat × Nat) → List Piece
  | _, [] => []
  | o, (g, n) :: r => splitRun byScratch (n / 16 + 2) g o n ++ piecesOf byScratch (o + n) r
/-- Neighbouring pieces of one destination line, grouped. -/
def groupPieces (byScratch : Bool) : List Piece → List (List Piece)
  | [] => []
  | p :: r =>
    let key (q : Piece) : Nat := (if byScratch then q.2.1 else q.1) / 128
    match groupPieces byScratch r with
    | (q :: qs) :: gs => if key p = key q then (p :: q :: qs) :: gs else [p] :: (q :: qs) :: gs
    | gs => [p] :: gs
/-- A copy writes the scratchpad. -/
def CopyForm.inward : CopyForm → Bool
  | .cpy => true
  | .tIn => true
  | .cpyO => false
  | .tOut => false
/-- The lines that a copy delivers, each as its pieces (R320). -/
def Copy.units (c : Copy) : List (List Piece) := groupPieces c.form.inward (piecesOf c.form.inward c.off c.runs)
/-- Bytes of a copy. -/
def Copy.len (c : Copy) : Nat := c.runs.foldl (fun n r => n + r.2) 0
/-- A copy is outstanding until it is complete or cancelled and its status entry, if any, is pushed (R321, R331). -/
def Copse.copyOf (c : Copse) (seq : Nat) : Option Copy := c.copies.find? (fun x => x.seq == seq)
def Copse.mapCopy (c : Copse) (seq : Nat) (f : Copy → Copy) : Copse :=
  { c with copies := c.copies.map (fun x => if x.seq = seq then f x else x) }
def Copse.dropCopy (c : Copse) (seq : Nat) : Copse := { c with copies := c.copies.filter (fun x => x.seq != seq) }

/-- A `cpwait` ends when no copy of its groups is outstanding (R331). -/
def State.wakeCopies (s : State) (copse : Nat) : State :=
  let cs := (s.copseAt copse).copies
  (s.standsOf copse).foldl (fun s k =>
    let st := s.standAt k
    match st.wait with
    | .copies m => if cs.any (fun x => x.stand == k && m.getLsbD x.grp.toNat) then s else s.setStand k { st with wait := .none }
    | _ => s) s

/-- A copy ends: with NTF its status entry is due, otherwise it is gone (R321). -/
def State.copyEnd (s : State) (copse seq : Nat) (status : BitVec 2) : State :=
  let c := s.copseAt copse
  match c.copyOf seq with
  | none => s
  | some x =>
    if x.ntf.isSome then s.setCopse copse (c.mapCopy seq (fun x => { x with status := some status, parked := none, fate := none }))
    else (s.setCopse copse (c.dropCopy seq)).wakeCopies copse

/-- The scratchpad lines of undelivered units. -/
def Copy.restLines (c : Copy) : List Nat :=
  let us := c.units
  (c.todo.flatMap (fun i => ((us[i]?).getD []).map (fun p => p.2.1 / 128))).dedup

/-- Cancels a copy (R325): its undelivered lines stay empty without a filler and its record's phase completes broken. -/
def State.copyCancel (s : State) (copse seq : Nat) (status : BitVec 2) : State :=
  let c := s.copseAt copse
  match c.copyOf seq with
  | none => s
  | some x =>
    if x.status.isSome then s
    else
      let c := x.restLines.foldl (fun c l =>
        let y := c.lineAt l
        if y.filler = some (.copy seq) then c.setLine l { y with filler := none } else c) c
      let s := s.setCopse copse c
      let s := match x.cr with | some (o, slot) => s.recBreak copse o slot | none => s
      s.copyEnd copse seq status

/-- A copy ends as cancelled or denied with a trap for its stand; it stays outstanding until the trap has its place in the stand's
queue (R323, R324, R397). -/
def State.copyFail (s : State) (copse seq : Nat) (status : BitVec 2) (t : TrapReq) : State :=
  let c := s.copseAt copse
  match c.copyOf seq with
  | none => s
  | some x =>
    if x.status.isSome then s
    else if s.deferRoom x.stand then (s.deferTrap x.stand t).copyCancel copse seq status
    else s.setCopse copse (c.mapCopy seq (fun x => { x with fate := some (status, t) }))
/-- Copies whose end waits for room in a stand's queue (R397). -/
def State.settleCopies (s : State) (k : Nat) : State :=
  let copse := copseOf k
  ((s.copseAt copse).copies.filter (fun x => x.stand == k && x.fate.isSome)).foldl (fun s x => match x.fate with
    | some (st, t) => s.copyFail copse x.seq st t
    | none => s) s

/-- Outstanding copies of a stand. -/
def State.copiesOf (s : State) (k : Nat) : List Copy := (s.copseAt (copseOf k)).copies.filter (fun x => x.stand == k)

/-! ### Sources of engines in the scratchpad (R229, R335) -/

/-- The scratchpad lines of a range that are full, as they are at acceptance (R229, R335). -/
def Copse.snapLines (c : Copse) (a n : Nat) : List (Nat × Mem) :=
  ((linesOf a n).filter (fun l => (c.lineAt l).full)).map (fun l => (l, memBlock c.scratch 128 l))
/-- Those of some lines that are full and of which a snapshot has nothing yet join it. -/
def Copse.snapMore (c : Copse) (ls : List Nat) (snap : List (Nat × Mem)) : List (Nat × Mem) :=
  snap ++ (ls.filter (fun l => (tfind l snap).isNone && (c.lineAt l).full)).map (fun l => (l, memBlock c.scratch 128 l))
/-- A copy still reads the scratchpad. -/
def Copy.reading (x : Copy) : Bool := !x.form.inward && x.status.isNone
/-- A fill of the copse still reads the scratchpad from a line on. -/
def Cmd.readingAt (q : Cmd) (l : Nat) : Bool := q.phase != .complete && (match q.op with | .fillS _ src _ _ => src / 128 ≤ l | _ => false)
/-- Some engine has still to read scratchpad lines of the copse. -/
def State.sourced (s : State) (copse : Nat) : Bool :=
  let c := s.copseAt copse
  c.copies.any Copy.reading || (s.clusterAt (clusterOf c.core)).eng.recs.any (fun r => r.2.copse == copse && r.2.queue.any (fun q => q.readingAt 512))
/-- A stand is about to store to lines: what engines have still to read there is kept as it is (R229, R335). -/
def State.keepSources (s : State) (copse : Nat) (ls : List Nat) : State :=
  if !s.sourced copse then s
  else
    let c := s.copseAt copse
    let cl := s.clusterAt (clusterOf c.core)
    let cmd (q : Cmd) : Cmd := { q with snap := c.snapMore (ls.filter q.readingAt) q.snap }
    let resv (r : Resv) : Resv := if r.copse = copse then { r with queue := r.queue.map cmd } else r
    let s := s.setCluster (clusterOf c.core) { cl with eng := { cl.eng with recs := cl.eng.recs.map (fun r => (r.1, resv r.2)) } }
    s.setCopse copse { c with copies := c.copies.map (fun x => if x.reading then { x with snap := c.snapMore ls x.snap } else x) }

end Sys2Proof.Machine
end

