-- ==== Sys2Proof/Machine/Formats.lean ====
section
/-! DEFINITION. Number formats, rounding and reductions (spec/07), with the type codes of spec/02 R36. Values are exact until a
format is asked for. -/

namespace Sys2Proof.Machine

/-! ### Type codes (R36) -/

/-- Bits of a type code; 0 for .k4o and the reserved codes. -/
def tyBits (ty : Nat) : Nat :=
  if ty = 0 ∨ ty = 4 ∨ ty = 8 ∨ ty = 0x10 ∨ ty = 0x11 then 8
  else if ty = 1 ∨ ty = 5 ∨ ty = 9 ∨ ty = 0x0C ∨ ty = 0x0D then 16
  else if ty = 2 ∨ ty = 6 ∨ ty = 0x0A ∨ ty = 0x0E then 32
  else if ty = 3 ∨ ty = 7 ∨ ty = 0x0B ∨ ty = 0x0F then 64
  else 0
def tyI (ty : Nat) : Bool := ty ≤ 3
def tyN (ty : Nat) : Bool := 4 ≤ ty && ty ≤ 7
def tyB (ty : Nat) : Bool := 8 ≤ ty && ty ≤ 0x0B
def tyF (ty : Nat) : Bool := 0x0C ≤ ty && ty ≤ 0x11
/-- The value of the low bits of a register under an integer type: signed for .i types (R142). -/
def tyVal (ty x : Nat) : Int := if tyI ty then sextNat (tyBits ty) x else (x % 2 ^ tyBits ty : Int)
/-- A result narrower than its register is extended: sign for .i types, zero otherwise (R34), results of `cvt` too, which R184 calls
zero-extended under R34 (DESIGN CHOICE, log 94). -/
def extend (ty width x : Nat) : Nat := if tyI ty then wrap width (sextNat (tyBits ty) x) else x % 2 ^ tyBits ty

/-! ### Floating formats (R160, R161) -/

/-- The floating formats. -/
inductive FF where
  | f64
  | f32
  | f16
  | bf16
  | e5m2
  | e4m3
  deriving DecidableEq, Repr

def FF.ebits : FF → Nat
  | .f64 => 11 | .f32 => 8 | .f16 => 5 | .bf16 => 8 | .e5m2 => 5 | .e4m3 => 4
def FF.mbits : FF → Nat
  | .f64 => 52 | .f32 => 23 | .f16 => 10 | .bf16 => 7 | .e5m2 => 2 | .e4m3 => 3
def FF.bias : FF → Nat
  | .f64 => 1023 | .f32 => 127 | .f16 => 15 | .bf16 => 127 | .e5m2 => 15 | .e4m3 => 7
def FF.width (f : FF) : Nat := 1 + f.ebits + f.mbits
/-- The exponent of the unit of the subnormals. -/
def FF.emin (f : FF) : Int := 1 - (f.bias : Int) - (f.mbits : Int)
/-- The sign bit. -/
def FF.signBit (f : FF) : Nat := 2 ^ (f.ebits + f.mbits)
/-- The code of the largest finite value. -/
def FF.maxFin (f : FF) : Nat := if f = .e4m3 then 0x7E else (2 ^ f.ebits - 1) * 2 ^ f.mbits - 1
/-- The code of +∞, for the formats that have it. -/
def FF.infCode (f : FF) : Nat := (2 ^ f.ebits - 1) * 2 ^ f.mbits
/-- The default NaN (R161). -/
def FF.nan (f : FF) : Nat := if f = .e4m3 then 0x7F else f.infCode + 2 ^ (f.mbits - 1)
/-- The format of a type code. -/
def ffOf (ty : Nat) : FF :=
  if ty = 0x0F then .f64 else if ty = 0x0E then .f32 else if ty = 0x0C then .f16 else if ty = 0x0D then .bf16
  else if ty = 0x10 then .e4m3 else .e5m2

/-- A decoded value: a NaN with its fraction and the width of it, an infinity, or m times 2^e. -/
inductive FVal where
  | nan (neg : Bool) (frac fbits : Nat)
  | inf (neg : Bool)
  | num (neg : Bool) (m : Nat) (e : Int)
  deriving DecidableEq, Repr

/-- Decodes a code (R160). -/
def FF.decode (f : FF) (x : Nat) : FVal :=
  let neg := bitAt x (f.ebits + f.mbits)
  let e := x / 2 ^ f.mbits % 2 ^ f.ebits
  let m := x % 2 ^ f.mbits
  if f = .e4m3 then
    if e = 15 ∧ m = 7 then .nan neg 7 3
    else if e = 0 then .num neg m f.emin else .num neg (8 + m) ((e : Int) - 1 + f.emin)
  else if e = 2 ^ f.ebits - 1 then (if m = 0 then .inf neg else .nan neg m f.mbits)
  else if e = 0 then .num neg m f.emin
  else .num neg (2 ^ f.mbits + m) ((e : Int) - 1 + f.emin)

def FVal.isNan : FVal → Bool
  | .nan .. => true
  | _ => false
def FVal.isInf : FVal → Bool
  | .inf _ => true
  | _ => false
def FVal.isZero : FVal → Bool
  | .num _ m _ => m == 0
  | _ => false
def FVal.neg : FVal → Bool
  | .nan n _ _ => n
  | .inf n => n
  | .num n _ _ => n
/-- The value with its sign changed. -/
def FVal.flip : FVal → FVal
  | .nan n f b => .nan n f b
  | .inf n => .inf (!n)
  | .num n m e => .num (!n) m e

/-- A sign put on a magnitude code. -/
def FF.signed (f : FF) (neg : Bool) (code : Nat) : Nat := if neg then f.signBit + code else code
/-- A NaN carried into a format: quiet, its sign kept, its payload aligned at the top (R171). -/
def FF.quiet (f : FF) (neg : Bool) (frac fbits : Nat) : Nat :=
  if f = .e4m3 then f.signed neg 0x7F
  else
    let p := if fbits ≤ f.mbits then frac * 2 ^ (f.mbits - fbits) else frac / 2 ^ (fbits - f.mbits)
    let q := p % 2 ^ (f.mbits - 1) + 2 ^ (f.mbits - 1)
    f.signed neg (f.infCode + q)
/-- What a magnitude above the range becomes (R173). -/
def FF.overflow (f : FF) (rm : Nat) (sat neg : Bool) : Nat :=
  if sat then f.signed neg f.maxFin
  else if f = .e4m3 then f.signed neg 0x7F
  else if rm = 0 ∨ (rm = 2 ∧ !neg) ∨ (rm = 3 ∧ neg) then f.signed neg f.infCode
  else f.signed neg f.maxFin

/-- Whether a quotient with remainder r over den is rounded up in magnitude (R169). -/
def roundUp (rm : Nat) (neg : Bool) (q r den : Nat) : Bool :=
  if rm = 0 then decide (den < 2 * r) || (2 * r == den && q % 2 == 1)
  else if rm = 1 then false
  else if rm = 2 then r != 0 && !neg
  else r != 0 && neg

/-- The exponent of the leading bit of n/d times 2^e, for n and d nonzero. -/
def leadExp (n d : Nat) (e : Int) : Int :=
  let g : Int := (Nat.log2 n : Int) - (Nat.log2 d : Int)
  if n * 2 ^ (-g).toNat < d * 2 ^ g.toNat then g - 1 + e else g + e

/-- Rounds (n/d) times 2^e once into a format (R169, R173). -/
def FF.round (f : FF) (rm : Nat) (sat neg : Bool) (n d : Nat) (e : Int) : Nat :=
  if n = 0 then f.signed neg 0
  else
    let u := max f.emin (leadExp n d e - f.mbits)
    let num := n * 2 ^ (e - u).toNat
    let den := d * 2 ^ (u - e).toNat
    let q := num / den
    let r := num % den
    let q := if roundUp rm neg q r den then q + 1 else q
    let code := (u - f.emin).toNat * 2 ^ f.mbits + q
    let half := f == .e4m3 && rm == 0 && decide (464 * d * 2 ^ (-e).toNat ≤ n * 2 ^ e.toNat)
    if f.maxFin < code ∨ half then f.overflow rm sat neg else f.signed neg code

/-- A value with no NaN or infinity rounded into a format. -/
def FF.ofVal (f : FF) (rm : Nat) (sat : Bool) : FVal → Nat
  | .nan n fr b => f.quiet n fr b
  | .inf n => if f = .e4m3 then (if sat then f.signed n 0x7E else f.signed n 0x7F)
              else if sat then f.signed n f.maxFin else f.signed n f.infCode
  | .num n m e => f.round rm sat n m 1 e

/-! ### Exact arithmetic -/

/-- The exact product; an invalid one has no value. -/
def mulExact : FVal → FVal → Option FVal
  | .num n m e, .num n' m' e' => some (.num (n != n') (m * m') (e + e'))
  | .inf n, .num n' m' _ => if m' = 0 then none else some (.inf (n != n'))
  | .num n m _, .inf n' => if m = 0 then none else some (.inf (n != n'))
  | .inf n, .inf n' => some (.inf (n != n'))
  | _, _ => none

/-- The least exponent of a list of finite values. -/
def minExp : List FVal → Int
  | [] => 0
  | [.num _ _ e] => e
  | .num _ _ e :: r => min e (minExp r)
  | _ :: r => minExp r
/-- A finite value in units of 2^u, for u at most its exponent. -/
def inUnits (u : Int) : FVal → Int
  | .num n m e => if n then -((m * 2 ^ (e - u).toNat : Nat) : Int) else ((m * 2 ^ (e - u).toNat : Nat) : Int)
  | _ => 0

/-- The exact sum of values that are no NaN, rounded once; infinities of both signs are invalid; an exact zero keeps a common
sign and is otherwise +0, or -0 under rounding down (R186). -/
def FF.sum (f : FF) (rm : Nat) (ts : List FVal) : Nat :=
  let pinf := ts.any (fun t => t.isInf && !t.neg)
  let ninf := ts.any (fun t => t.isInf && t.neg)
  if pinf && ninf then f.nan
  else if pinf then f.ofVal rm false (.inf false)
  else if ninf then f.ofVal rm false (.inf true)
  else
    let u := minExp ts
    let x := (ts.map (inUnits u)).foldl (· + ·) 0
    if x = 0 then f.signed (if ts.all (fun t => t.neg) then true else if ts.all (fun t => !t.neg) then false else rm == 3) 0
    else f.round rm false (decide (x < 0)) x.natAbs 1 u

/-- The first NaN of a list of operands, quieted into a format (R171). -/
def firstNan (f : FF) : List FVal → Option Nat
  | [] => none
  | .nan n fr b :: _ => some (f.quiet n fr b)
  | _ :: r => firstNan f r

/-- Products and addends, summed exactly and rounded once; the operands in NaN order (R186, R187). -/
def FF.fused (f : FF) (rm : Nat) (order : List FVal) (prods : List (FVal × FVal)) (adds : List FVal) : Nat :=
  match firstNan f order with
  | some x => x
  | none =>
    match prods.mapM (fun p => mulExact p.1 p.2) with
    | none => f.nan
    | some ps => f.sum rm (ps ++ adds)

def FF.add (f : FF) (rm a b : Nat) : Nat := f.fused rm [f.decode a, f.decode b] [] [f.decode a, f.decode b]
def FF.sub (f : FF) (rm a b : Nat) : Nat := f.fused rm [f.decode a, f.decode b] [] [f.decode a, (f.decode b).flip]
def FF.mul (f : FF) (rm a b : Nat) : Nat := f.fused rm [f.decode a, f.decode b] [(f.decode a, f.decode b)] []
def FF.fma (f : FF) (rm a b c : Nat) : Nat :=
  f.fused rm [f.decode a, f.decode b, f.decode c] [(f.decode a, f.decode b)] [f.decode c]
/-- a times 2^n (R186). -/
def FF.scale (f : FF) (rm a : Nat) (n : Int) : Nat :=
  match f.decode a with
  | .num s m e => f.round rm false s m 1 (e + n)
  | v => f.ofVal rm false v

/-! ### Order -/

/-- a < b for values that are no NaN, with equal zeros. -/
def fLt : FVal → FVal → Bool
  | .inf n, b => n && b != .inf true
  | a, .inf n => !n && a != .inf false
  | .num n m e, .num n' m' e' =>
    let u := min e e'
    decide (inUnits u (.num n m e) < inUnits u (.num n' m' e'))
  | _, _ => false
/-- a < b where -0 lies below +0 (R178, R188). -/
def fLtZ (a b : FVal) : Bool := fLt a b || (a.isZero && b.isZero && a.neg && !b.neg)

/-- Minimum and maximum of R188: `pass` selects NaN propagation. -/
def FF.minmax (f : FF) (isMax propagate : Bool) (a b : Nat) : Nat :=
  let x := f.decode a
  let y := f.decode b
  let pick := if isMax then (if fLtZ x y then b else a) else (if fLtZ y x then b else a)
  if x.isNan || y.isNan then
    if propagate || (x.isNan && y.isNan) then (firstNan f [x, y]).getD f.nan
    else if x.isNan then b else a
  else pick

/-- The comparisons of R189. -/
def FF.cmp (f : FF) (c a b : Nat) : Bool :=
  let x := f.decode a
  let y := f.decode b
  if c = 3 then x.isNan || y.isNan
  else if x.isNan || y.isNan then false
  else if c = 0 then !fLt x y && !fLt y x
  else if c = 1 then fLt x y
  else !fLt y x

/-! ### Float to integer (R173, R195) -/

/-- m times 2^e rounded to an integer. -/
def roundToInt (rm : Nat) (neg : Bool) (m : Nat) (e : Int) : Int :=
  let num := m * 2 ^ e.toNat
  let den := 2 ^ (-e).toNat
  let q := if roundUp rm neg (num / den) (num % den) den then num / den + 1 else num / den
  if neg then -(q : Int) else q
/-- The range of an integer type. -/
def tyMin (ty : Nat) : Int := if tyI ty then -(2 ^ (tyBits ty - 1) : Int) else 0
def tyMax (ty : Nat) : Int := if tyI ty then (2 ^ (tyBits ty - 1) : Int) - 1 else (2 ^ tyBits ty : Int) - 1
/-- Clamped to the range: Sat of R141. -/
def satInt (ty : Nat) (x : Int) : Int := if x < tyMin ty then tyMin ty else if tyMax ty < x then tyMax ty else x
/-- A float value as an integer of a type (R173). -/
def toInt (ty rm : Nat) : FVal → Int
  | .nan .. => 0
  | .inf n => if n then tyMin ty else tyMax ty
  | .num n m e => satInt ty (roundToInt rm n m e)
/-- An integer as an exact value. -/
def ofInt (x : Int) : FVal := .num (decide (x < 0)) x.natAbs 0

/-! ### Reductions (R178-R181, R349) -/

/-- One application of an operation of R349 to the bits of an element: `exch` is 6 and `inc` is 7. -/
def atomOp (op ty old x : Nat) : Nat :=
  let w := tyBits ty
  let old := old % 2 ^ w
  let x := x % 2 ^ w
  if tyF ty then
    let f := ffOf ty
    let a := f.decode old
    let b := f.decode x
    if a.isNan || b.isNan then f.nan
    else if op = 0 then f.add 0 old x
    else if op = 1 then (if fLtZ b a then x else old)
    else (if fLtZ a b then x else old)
  else if op = 0 then (old + x) % 2 ^ w
  else if op = 1 then (if tyVal ty x < tyVal ty old then x else old)
  else if op = 2 then (if tyVal ty old < tyVal ty x then x else old)
  else if op = 3 then old &&& x
  else if op = 4 then old ||| x
  else if op = 5 then old ^^^ x
  else if op = 6 then x
  else (if x ≤ old then 0 else old + 1)

/-- The types that an operation of R349 takes. -/
def atomTyOk (op ty : Nat) : Bool :=
  if op ≤ 2 then ty == 2 || ty == 6 || ty == 3 || ty == 7 || ty == 0x0E || ty == 0x0F
  else if op ≤ 6 then ty == 0x0A || ty == 0x0B
  else ty == 6 || ty == 7

/-- The identity of an operation. -/
def opIdentity (op ty : Nat) : Nat :=
  let w := tyBits ty
  if op = 1 then (if tyF ty then (ffOf ty).infCode else wrap w (tyMax ty))
  else if op = 2 then (if tyF ty then (ffOf ty).signed true (ffOf ty).infCode else wrap w (tyMin ty))
  else if op = 3 then 2 ^ w - 1 else 0

/-- One level of the tree: neighbours combined, left operand first, an odd last one carried up (R181). -/
def treeLevel (op ty : Nat) : List Nat → List Nat
  | a :: b :: r => atomOp op ty a b :: treeLevel op ty r
  | r => r
/-- DetTree (R181). -/
def detTree (op ty : Nat) : Nat → List Nat → Nat
  | _, [] => opIdentity op ty
  | _, [a] => a
  | 0, a :: _ => a
  | n + 1, xs => detTree op ty n (treeLevel op ty xs)
/-- Some binary combination tree, its shape free (R380): each round combines two of the values left. -/
def freeTree (op ty free : Nat) : Nat → List Nat → Nat
  | _, [] => opIdentity op ty
  | _, [a] => a
  | 0, a :: _ => a
  | n + 1, xs =>
    let i := Config.freeNat (free + n) % xs.length
    let ys := xs.eraseIdx i
    let j := Config.freeNat (free + n + 1) % ys.length
    freeTree op ty free n (atomOp op ty ((xs[i]?).getD 0) ((ys[j]?).getD 0) :: ys.eraseIdx j)
/-- A NaN result of a reduction is the default NaN (R171, R178). -/
def plainNan (ty x : Nat) : Nat := if tyF ty && ((ffOf ty).decode x).isNan then (ffOf ty).nan else x
/-- The result of a grove reduction over contributions in ascending ordinal (R380). -/
def reduceAll (det : Bool) (op ty free : Nat) (xs : List Nat) : Nat :=
  plainNan ty (if det || !tyF ty || op != 0 then detTree op ty xs.length xs else freeTree op ty free xs.length xs)

/-! ### K4O and scales (R164-R168) -/

/-- A power of two. -/
def twoTo (e : Int) : FVal := .num false 1 e
/-- A product where an invalid one is NaN. -/
def mulOrNan (a b : FVal) : FVal :=
  match mulExact a b with
  | some x => x
  | none => .nan false 1 1
/-- The value of an E8M0 scale (R167). -/
def e8m0 (e : Nat) : FVal := if e = 0xFF then .nan false 1 1 else twoTo ((e : Int) - 127)
/-- The value of a four-bit two's-complement code. -/
def nibVal (x : Nat) : FVal := ofInt (sextNat 4 x)

/-- The slot of the first marker of a block's codes, if any, scanning in ascending order (R165). -/
def k4oOutlier (e : List Nat) : Option Nat := e.findIdx? (· == 8)
/-- K4ODecode (R165): the eight values and the format fault. -/
def k4oDecode (e : List Nat) (h : Nat) (ts : FVal) : List FVal × Bool :=
  let s := twoTo ((h / 16 % 16 : Nat) - 8 : Int)
  let sc (v : FVal) : FVal := if ts.isNan then ts else mulOrNan (mulOrNan v s) ts
  let at' (j : Nat) : Nat := (e[j]?).getD 0
  match k4oOutlier e with
  | none => ((List.range 8).map (fun j => sc (nibVal (at' j))), false)
  | some o =>
    let p := o ^^^ 1
    let c := at' p * 16 + h % 16
    let bad := c == 0x7F || c == 0xFF
    let second := (List.range 8).any (fun j => j != o && j != p && at' j == 8)
    ((List.range 8).map (fun j =>
      if j = o then (if bad then .num false 0 0 else sc (FF.e4m3.decode c))
      else if j = p then .num false 0 0
      else if at' j = 8 then .num false 0 0 else sc (nibVal (at' j))), bad || second)

/-! ### The matrix engine's pass value (R174) -/

/-- PassValue over products, as the bits of an .f32. -/
def passValue (ps : List (FVal × FVal)) : Nat :=
  let f := FF.f32
  if ps.any (fun p => p.1.isNan || p.2.isNan) then f.nan
  else match ps.mapM (fun p => mulExact p.1 p.2) with
    | none => f.nan
    | some ts => f.sum 0 ts
/-- An addition of the matrix engine or of a reduction: any NaN is the default NaN (R171, R175). -/
def addDefault (f : FF) (a b : Nat) : Nat :=
  if (f.decode a).isNan || (f.decode b).isNan then f.nan else f.add 0 a b

end Sys2Proof.Machine
end

