-- ==== Sys2Proof/Machine/Operands.lean ====
section
/-! DEFINITION. Operand fields (spec/02 R32-R36, R50): what each field of a word names, when it is illegal, what it reads and
writes, and the participating threads (R29, R91). -/

namespace Sys2Proof.Machine

/-- What an instruction's entry makes of an operand field. `regs` counts v registers per thread of the operand, `us` the s
registers of its uniform reading, `even` asks for an even v number, `chan` says that a channel may stand there; `sysreg` is the register
number of R395. -/
inductive Role where
  | none
  | src (regs us : Nat) (even chan : Bool)
  | dst (regs us : Nat) (even chan : Bool)
  | usrc (us : Nat) (chan : Bool)
  | udst (us : Nat)
  | pred
  | qreg
  | preg
  | qdst
  | num (limit cause : Nat)
  | sysreg
  deriving DecidableEq, Repr

/-- A general source, or destination, of one element of w bits. -/
def Role.val (w : Nat) : Role := .src (if w = 64 then 2 else 1) 1 (w == 64) true
def Role.out (w : Nat) : Role := .dst (if w = 64 then 2 else 1) 1 (w == 64) true

/-- The form of a word as its entry gives it: its head, its fields with their roles in the order SA, SB, SC, DR, DST, further
conditions with the ILL cause each raises, whether it is long-latency, whether it must name a flag even so, whether it is of class
0x0, a control transfer (R47), or gives up the slot (R106), and the CHARGE weight of its class (R83). -/
structure Form where
  h : Head
  ops : List (Opd × Role)
  bad : List (Nat × Bool) := []
  long : Bool := false
  mustFlag : Bool := false
  control : Bool := false
  transfer : Bool := false
  yields : Bool := false
  weight : Nat := 0

/-! ### Participating threads (R29, R91) -/

/-- The values that an outstanding operation will write are settled: not while it waits for an item, a command or a phase. -/
def Pend.known (p : Pend) : Bool := match p.on with | .deq _ _ => false | .mwait .. => false | .grove => false | _ => true
/-- Which of the old and the new value a read of an outstanding predicate returns, by the place it is read at (R43). -/
def Stand.newer (st : Stand) (i : Nat) : Bool := Config.freePred (16 * st.copse + st.idx) st.issues i
/-- A predicate register; p7 reads 1 (R50). While a long-latency write to it is outstanding, each thread reads the old or the new
value, unpredictably (R43). -/
def Stand.pval (st : Stand) (n : Nat) : Mask :=
  if n = 7 then allLanes
  else
    let now := tget 0 st.p n
    match (st.pend.filter Pend.known).findSome? (fun p => tfind n p.pw) with
    | none => now
    | some w => if w.2 &&& w.1 = now &&& w.1 then now
      else maskOf ((List.range 128).filter (fun t => if w.1.getLsbD t && st.newer (128 * n + t) then w.2.getLsbD t else now.getLsbD t))
/-- A uniform predicate; 7 reads true (R29). An outstanding write of one is as for the others (R43). -/
def Stand.qval (st : Stand) (n : Nat) : Bool :=
  if n = 7 then true
  else
    let now := st.q.getLsbD n
    match (st.pend.filter Pend.known).findSome? (fun p => tfind n p.qw) with
    | none => now
    | some w => if w = now ∨ 4 ≤ n then now else if st.newer (1024 + n) then w else now
/-- The guard of a uniform instruction. -/
def Stand.guard (st : Stand) (h : Head) : Bool := st.qval h.gp.toNat != h.gn
/-- The set P of R91. -/
def Stand.part (st : Stand) (h : Head) : Mask :=
  if h.uni then (if st.guard h then st.a else 0)
  else st.a &&& (if h.gn then ~~~(st.pval h.gp.toNat) else st.pval h.gp.toNat)

/-! ### ILL causes of the fields (R32-R34, R51) -/

/-- Allocation limits of the stand's copse (R34). -/
def Copse.vLimit (c : Copse) : Nat := c.vregs
def Copse.sLimit (c : Copse) : Nat := minN 128 (maxN c.uregs 4)

/-- The causes that one field raises. -/
def fieldIll (c : Copse) (maint uni : Bool) (o : Opd) (r : Role) : List Nat :=
  let chanBad := (o.pk && !o.cl) || (o.cl && (64 ≤ o.num.toNat || o.uf)) || (maint && (o.cl || o.pk))
  let vreg (n regs : Nat) (even : Bool) : List Nat := if c.vLimit < n + regs ∨ (even && n % 2 == 1) then [6] else []
  let sreg (n us : Nat) : List Nat := if c.sLimit < n + us then [6] else []
  let base (chan : Bool) : List Nat := if chanBad || (o.cl && !chan) then [9] else []
  match r with
  | .none => if o = Opd.zero then [] else [4]
  | .src regs us even chan =>
    base chan ++ (if o.cl then [] else if uni then (if o.uf then sreg o.num.toNat us else [7])
      else if o.uf then sreg o.num.toNat us else vreg o.num.toNat regs even)
  | .dst regs us even chan =>
    base chan ++ (if o.cl then [] else if uni then (if o.uf then sreg o.num.toNat us else [7])
      else if o.uf then [7] else vreg o.num.toNat regs even)
  | .usrc us chan => base chan ++ (if o.cl then [] else if o.uf then sreg o.num.toNat us else [7])
  | .udst us => base false ++ (if o.cl then [] else if o.uf then sreg o.num.toNat us else [7])
  | .pred => base false ++ (if o.cl then [] else if o.uf || (if uni then 4 else 8) ≤ o.num.toNat then [6] else [])
  | .qreg => base false ++ (if o.cl then [] else if o.uf || 4 ≤ o.num.toNat then [6] else [])
  | .qdst => base false ++ (if o.cl then [] else if o.uf || 4 ≤ o.num.toNat then [6] else [])
  | .preg => base false ++ (if o.cl then [] else if o.uf || 8 ≤ o.num.toNat then [6] else [])
  | .num limit cause => (if chanBad || o.cl then [if cause = 6 then 9 else cause] else [])
      ++ (if o.cl then [] else if o.uf || limit ≤ o.num.toNat then [cause] else [])
  | .sysreg => (if o.uf || o.cl then [6] else []) ++ (if o.pk && !o.cl then [9] else [])

/-! ### Registers that a word reads and writes -/

/-- Registers by number: v, s, p, q. -/
structure Uses where
  v : List Nat
  s : List Nat
  p : List Nat
  q : List Nat
  deriving DecidableEq, Repr

def runFrom (n k : Nat) : List Nat := (List.range k).map (fun i => n + i)
/-- The registers of one field. -/
def fieldUses (uni : Bool) (o : Opd) (r : Role) : Uses :=
  let n := o.num.toNat
  match r with
  | .src regs us _ _ => if o.cl then ⟨[], [], [], []⟩ else if uni || o.uf then ⟨[], runFrom n us, [], []⟩ else ⟨runFrom n regs, [], [], []⟩
  | .dst regs us _ _ => if o.cl then ⟨[], [], [], []⟩ else if uni || o.uf then ⟨[], runFrom n us, [], []⟩ else ⟨runFrom n regs, [], [], []⟩
  | .usrc us _ => if o.cl then ⟨[], [], [], []⟩ else ⟨[], runFrom n us, [], []⟩
  | .udst us => ⟨[], runFrom n us, [], []⟩
  | .pred => if uni then ⟨[], [], [], [n]⟩ else ⟨[], [], [n], []⟩
  | .preg => ⟨[], [], [n], []⟩
  | .qreg => ⟨[], [], [], [n]⟩
  | .qdst => ⟨[], [], [], [n]⟩
  | _ => ⟨[], [], [], []⟩
/-- An outstanding operation writes a register that the word uses. -/
def Pend.clashes (p : Pend) (f : Form) : Bool :=
  let us := f.ops.map (fun x => fieldUses f.h.uni x.1 x.2)
  let g := f.h.gp.toNat
  us.any (fun u =>
      p.vw.any (fun w => u.v.contains (w.1 / 128)) || p.sw.any (fun w => u.s.contains w.1)
        || p.pw.any (fun w => u.p.contains w.1) || p.qw.any (fun w => u.q.contains w.1))
    || (if f.h.uni then p.qw.any (fun w => w.1 == g) else p.pw.any (fun w => w.1 == g))
/-- A pending long-latency write to a register of the word: heartwood hardware interlocks on it (R43). -/
def Stand.interlocked (st : Stand) (f : Form) : Bool := st.pend.any (fun p => p.clashes f)

/-! ### Reading registers -/

/-- A v register of a thread: while a long-latency write to it is outstanding, old or new, unpredictably (R43). -/
def State.rdV (s : State) (k n t : Nat) : Word32 :=
  let st := s.standAt k
  let key := 128 * n + t
  let now := tget 0 st.v key
  match (st.pend.filter Pend.known).findSome? (fun p => tfind key p.vw) with
  | none => now
  | some w => if w = now then now else if s.coin key then w else now
/-- An s register (R43). -/
def State.rdS (s : State) (k n : Nat) : Word64 :=
  let st := s.standAt k
  let now := tget 0 st.sr n
  match (st.pend.filter Pend.known).findSome? (fun p => tfind n p.sw) with
  | none => now
  | some w => if w = now then now else if s.coin n then w else now
/-- An even v pair (R34). -/
def State.rdPair (s : State) (k n t : Nat) : Word64 := (s.rdV k (n + 1) t ++ s.rdV k n t : BitVec 64)
/-! ### Sources -/

/-- The value of a source field, by thread, as 64 bits: a v register, a v pair for 64-bit operands, an s register for every
thread, or the head of a channel (R33, R34, R337). -/
abbrev Src := Nat → Word64

/-- Entries that a channel source takes (R337). -/
def chanCount (uni wide : Bool) : Nat := if wide && !uni then 2 else 1

/-- A word of a channel entry. -/
def chanWord (es : List ChanEntry) (i t : Nat) : Word32 := tget 0 ((es[i]?).getD []) t

/-- The value of a source field. -/
def State.srcVal (s : State) (k : Nat) (uni wide : Bool) (o : Opd) : Src :=
  let n := o.num.toNat
  if o.cl then
    let es := (s.chanAt (s.coreOf k) n).entries
    if uni then
      let v := chanWord es 0 1 ++ chanWord es 0 0
      fun _ => v
    else if wide then fun t => chanWord es 1 t ++ chanWord es 0 t
    else fun t => (chanWord es 0 t).setWidth 64
  else if uni || o.uf then
    let v := s.rdS k n
    fun _ => v
  else if wide then fun t => s.rdPair k n t
  else fun t => (s.rdV k n t).setWidth 64
/-- The entries that reading a field takes from its channel; a peek takes none (R32). -/
def State.srcPop (s : State) (k : Nat) (uni wide : Bool) (o : Opd) : State :=
  if o.cl && !o.pk then s.chanPop (s.coreOf k) o.num.toNat (chanCount uni wide) else s
/-- Reads sources one after another, popping as it goes (R35). -/
def State.srcs (s : State) (k : Nat) (uni : Bool) : List (Opd × Bool) → List Src × State
  | [] => ([], s)
  | (o, wide) :: r =>
    let v := s.srcVal k uni wide o
    let (vs, s) := (s.srcPop k uni wide o).srcs k uni r
    (v :: vs, s)

/-- The role reads its field, with 64-bit elements or not. -/
def Role.reads : Role → Option Bool
  | .src regs _ even _ => some (even && regs == 2)
  | .usrc _ _ => some false
  | _ => Option.none
/-- The role writes its field. -/
def Role.writes : Role → Option Bool
  | .dst regs _ even _ => some (even && regs == 2)
  | _ => Option.none

/-- The channels that a word pops and pushes, with entry counts, in order (R35). -/
def Form.chanUses (f : Form) : List (Nat × Bool × Bool × Nat) :=
  f.ops.filterMap (fun x =>
    if x.1.cl then
      match x.2.reads, x.2.writes with
      | some w, _ => some (x.1.num.toNat, false, x.1.pk, chanCount f.h.uni w)
      | Option.none, some w => some (x.1.num.toNat, true, false, chanCount f.h.uni w)
      | Option.none, Option.none => Option.none
    else Option.none)
/-- A channel fault of the word: CPY cause 0x05 (R322, R336, R338). -/
def State.chanFault (s : State) (k : Nat) (f : Form) : Bool :=
  f.chanUses.any (fun u => s.chanBad (copseOf k) (s.coreOf k) u.1 u.2.1)
/-- The entries that a word's sources need of a channel, read in order (R35): a source sees the entries behind those that the pops before
it have taken. The list gives each source's count and whether it only peeks. -/
def entriesNeeded : List (Bool × Nat) → Nat
  | [] => 0
  | (peek, n) :: r => if peek then maxN n (entriesNeeded r) else n + entriesNeeded r
/-- Every entry read is there and every entry to be pushed has room at issue (R35). -/
def State.chanReady (s : State) (k : Nat) (f : Form) : Bool :=
  let core := s.coreOf k
  f.chanUses.all (fun u =>
    let same := f.chanUses.filter (fun x => x.1 == u.1)
    let reads := (same.filter (fun x => !x.2.1)).map (fun x => x.2.2)
    let pushes := (same.filter (fun x => x.2.1)).foldl (fun n x => n + x.2.2.2) 0
    entriesNeeded reads ≤ (s.chanAt core u.1).entries.length && (pushes == 0 || pushes ≤ s.chanFree core u.1))

/-! ### Results -/

/-- No result. -/
def Pend.empty : Pend := ⟨none, .ready, [], [], [], [], none, [], [], [], []⟩

/-- The words of a vector push: W[t] of each thread, zero words unlisted (R143, R337). -/
def entryOf (ts : List (Nat × Word32)) : ChanEntry := ts.filter (fun x => x.2 != 0)

/-- The results of a destination field: w-bit values extended to the register for each thread of P, or once (R34, R337). -/
def outVals (uni : Bool) (p : Mask) (o : Opd) (wide : Bool) (val : Nat → Word64) : Pend :=
  let n := o.num.toNat
  if uni then
    let v := val 0
    if o.cl then { Pend.empty with ch := some (n, [entryOf [(0, v.extractLsb' 0 32), (1, v.extractLsb' 32 32)]]) }
    else { Pend.empty with sw := [(n, v)] }
  else if o.cl then
    let lo := entryOf ((lanes p).map (fun t => (t, (val t).extractLsb' 0 32)))
    let hi := entryOf ((lanes p).map (fun t => (t, (val t).extractLsb' 32 32)))
    { Pend.empty with ch := some (n, if wide then [lo, hi] else [lo]) }
  else
    { Pend.empty with vw := (lanes p).flatMap (fun t =>
        if wide then [(128 * n + t, (val t).extractLsb' 0 32), (128 * (n + 1) + t, (val t).extractLsb' 32 32)]
        else [(128 * n + t, (val t).extractLsb' 0 32)]) }
/-- Predicate results: p[n] in each thread of P, or q[n] (R50: writes to p7 are discarded). -/
def outPred (uni : Bool) (p : Mask) (n : Nat) (val : Nat → Bool) : Pend :=
  if uni then { Pend.empty with qw := [(n, val 0)] }
  else if n = 7 then Pend.empty
  else { Pend.empty with pw := [(n, p, maskOf ((lanes p).filter val))] }
/-- Both results of a word. -/
def Pend.both (a b : Pend) : Pend :=
  { a with vw := a.vw ++ b.vw, sw := a.sw ++ b.sw, pw := a.pw ++ b.pw, qw := a.qw ++ b.qw, ch := if a.ch.isSome then a.ch else b.ch }

/-- q with one bit set. -/
def setQ (q : BitVec 4) (n : Nat) (b : Bool) : BitVec 4 :=
  BitVec.ofNat 4 ((List.range 4).foldl (fun x i => x + (if (if i = n then b else q.getLsbD i) then 2 ^ i else 0)) 0)
/-- Register results written to a stand. -/
def Stand.put (st : Stand) (p : Pend) : Stand :=
  { st with
    v := tputs p.vw st.v
    sr := tputs p.sw st.sr
    p := p.pw.foldl (fun t w => tset w.1 ((tget 0 t w.1 &&& ~~~w.2.1) ||| (w.2.2 &&& w.2.1)) t) st.p
    q := p.qw.foldl (fun q w => setQ q w.1 w.2) st.q }
/-- A write contests outstanding long-latency writes of the same registers (R43). -/
def Pend.contest (mine : Pend) (o : Pend) : Pend :=
  { o with vlost := o.vlost ++ (mine.vw.map Prod.fst).filter (fun k => (tfind k o.vw).isSome),
           slost := o.slost ++ (mine.sw.map Prod.fst).filter (fun k => (tfind k o.sw).isSome),
           plost := o.plost ++ mine.pw.flatMap (fun w => match tfind w.1 o.pw with
             | some x => (lanes (w.2.1 &&& x.1)).map (fun t => 128 * w.1 + t)
             | none => []),
           qlost := o.qlost ++ (mine.qw.map Prod.fst).filter (fun k => (tfind k o.qw).isSome) }
/-- Fixed-latency results: registers and channel entries at once (R35, R43). -/
def State.putNow (s : State) (k : Nat) (p : Pend) : State :=
  let st := s.standAt k
  let s := s.setStand k { st.put p with pend := st.pend.map p.contest }
  match p.ch with
  | none => s
  | some (n, es) => s.chanPush (s.coreOf k) n es
/-- Long-latency results are written at completion; channel room is held from issue (R35, R41). -/
def State.putLater (s : State) (k : Nat) (p : Pend) : State :=
  let st := s.standAt k
  let s := s.setStand k { st with pend := st.pend.map p.contest ++ [p] }
  match p.ch with
  | none => s
  | some (n, es) =>
    let c := s.chanAt (s.coreOf k) n
    s.setChan (s.coreOf k) n { c with held := c.held + es.length }

end Sys2Proof.Machine
end

