-- ==== Sys2Proof/Machine/Flags.lean ====
section
/-! DEFINITION. Completion flags (spec/02 R41-R45). -/

namespace Sys2Proof.Machine

/-- A flag's count (R41). -/
def Stand.flag (st : Stand) (n : Nat) : Nat := tget 0 st.flags n
def Stand.setFlag (st : Stand) (n v : Nat) : Stand := { st with flags := tset n v st.flags }
/-- Every flag is zero. -/
def Stand.flagsClear (st : Stand) : Bool := (List.range 12).all (fun n => st.flag n == 0)

/-- The slot of the clause that FSEL names (R31). -/
def slotOf (h : Hdr) (fsel : Nat) : Nat := if fsel = 1 then h.seta.toNat else h.setb.toNat
/-- The flag that a word bears (R42); 15 for none. -/
def Stand.flagOf (st : Stand) : Sched → Nat
  | .heart _ sf => sf.toNat
  | .sap fsel _ =>
    if fsel = 0 then 15
    else match st.clh with
      | some h => slotOf h fsel.toNat
      | none => 15
/-- The word writes a register or predicate (R42). -/
def Form.writesReg (f : Form) : Bool :=
  f.ops.any (fun x => match x.2 with
    | .dst .. => !x.1.cl
    | .udst _ => true
    | .pred => true
    | .preg => true
    | .qdst => true
    | _ => false)
/-- Flag misuse: ILL cause 0x0B (R42). -/
def Stand.flagIll (st : Stand) (f : Form) : Bool :=
  match f.h.sch with
  | .heart wf sf => wf == 0xD || wf == 0xE || (12 ≤ sf.toNat && sf != 0xF)
  | .sap fsel _ =>
    fsel == 3 || (fsel != 0 && (match st.clh with | some h => slotOf h fsel.toNat == 15 | none => false))
      || (fsel == 0 && ((f.long && f.writesReg) || f.mustFlag))
/-- The heartwood wait before issue (R42). -/
def Stand.wfBlocked (st : Stand) : Sched → Bool
  | .heart wf _ => if wf = 0xC then !st.flagsClear else wf.toNat < 12 && st.flag wf.toNat != 0
  | .sap _ _ => false
/-- An operation that waits on an event outside the stand's control: a `deq`, an `mwait`, a grove instruction (R420). -/
def PendOn.outside : PendOn → Bool
  | .deq _ _ => true
  | .mwait .. => true
  | .grove => true
  | _ => false
/-- The stall code of a wait on flags: 9 when one of them is the flag of such an operation, else 7 (R420). -/
def Stand.flagStall (st : Stand) (ns : List Nat) : Nat :=
  if st.pend.any (fun p => p.on.outside && (match p.flag with | some n => ns.contains n | none => false)) then 9 else 7
/-- The flags that a word of heartwood code waits for. -/
def waitedFlags : Sched → List Nat
  | .heart wf _ => if wf = 0xC then List.range 12 else [wf.toNat]
  | .sap _ _ => []
/-- An issue that would raise a flag above 63 waits (R41). -/
def Stand.flagFull (st : Stand) (f : Form) : Bool :=
  let n := st.flagOf f.h.sch
  n < 12 && 63 ≤ st.flag n
/-- Adds to or takes from a flag; 15 is no flag. -/
def Stand.flagUp (st : Stand) (n : Nat) : Stand := if n < 12 then st.setFlag n (st.flag n + 1) else st
def Stand.flagDown (st : Stand) (n : Nat) : Stand := if n < 12 then st.setFlag n (st.flag n - 1) else st

/-- The threads in which a contested predicate keeps what was written to it last, each freely (R43). -/
def State.keptLanes (s : State) (lost : List Nat) (n : Nat) : Mask :=
  maskOf ((lost.filter (fun x => x / 128 == n && !s.coin (0x30000 + x))).map (fun x => x % 128))
/-- An outstanding operation completes (R41, R43): its results are written, except that a contested register of a sapwood stand
keeps either value, and its flag falls. -/
def State.finish (s : State) (k : Nat) (p : Pend) : State :=
  let st := s.standAt k
  let keep {α : Type} (base : Nat) (lost : List Nat) (ws : List (Nat × α)) : List (Nat × α) :=
    ws.filter (fun w => !(lost.contains w.1) || s.coin (base + w.1))
  let p' := { p with vw := keep 0 p.vlost p.vw, sw := keep 0x10000 p.slost p.sw, qw := keep 0x20000 p.qlost p.qw
                     pw := p.pw.map (fun w => (w.1, w.2.1 &&& ~~~s.keptLanes p.plost w.1, w.2.2)) }
  let st := st.put p'
  let s := s.setStand k (st.flagDown (p.flag.getD 15))
  match p.ch with
  | none => s
  | some (n, es) =>
    let core := s.coreOf k
    let c := s.chanAt core n
    s.setChan core n { c with entries := c.entries ++ es, held := c.held - es.length }

end Sys2Proof.Machine
end

