-- ==== Sys2Proof/Machine/GroveOps.lean ====
section
/-! DEFINITION. Groves at their home slices: names, members, phases and the cell (spec/16 R368-R381). -/

namespace Sys2Proof.Machine

/-! ### Names (R369) -/

/-- The name of a record, by its identity, in an incarnation. -/
def groveName (ident : BitVec 32) (tag : Nat) : Word64 :=
  let t := BitVec.ofNat 16 tag
  BitVec.ofNat 64 (ident.toNat + t.toNat * 2 ^ 32 + (Config.groveChk ident t).toNat * 2 ^ 48 + 8 * 2 ^ 52)
/-- The identity of a new record: an opaque one, or the next that no other record has. -/
def State.newIdent (s : State) (key : Nat) : BitVec 32 :=
  let at' (i : Nat) : BitVec 32 := Config.groveRec key + BitVec.ofNat 32 i
  at' (((List.range (s.groves.length + 1)).find? (fun i => !s.groves.any (fun e => e.2.ident == at' i))).getD 0)
/-- The incarnations of a record under which names were issued: each past one, and the present one while it lives. -/
def Grove.issuedTags (g : Grove) : List Nat := List.range (g.tag + g.live.toNat)

/-- How a name resolves for an interface: a live grove, stale, or bad; a forged one may be taken as some live grove (R369). -/
inductive Named where
  | live (key : Nat)
  | stale
  | bad
  deriving DecidableEq, Repr

def State.resolveName (s : State) (vi : Nat) (w : Word64) : Named :=
  match s.groves.find? (fun e => e.2.vi == vi && e.2.issuedTags.any (fun t => groveName e.2.ident t == w)) with
  | some (k, g) => if g.live && groveName g.ident g.tag == w then .live k else .stale
  | none => match Config.forgedGrove w with
    | some k => if (s.groveAt k).live && (s.groveAt k).vi == vi then .live k else .bad
    | none => .bad

/-- The records that a context holds. -/
def State.grovesOf (s : State) (vi : Nat) : Nat := (s.groves.filter (fun e => e.2.live && e.2.vi == vi)).length

/-! ### Members (R371, R372) -/

def Grove.member (g : Grove) (stand : Nat) : Option Member := g.members.find? (fun m => m.stand == stand)
def Grove.mapMember (g : Grove) (stand : Nat) (f : Member → Member) : Grove :=
  { g with members := g.members.map (fun m => if m.stand = stand then f m else m) }
/-- START 0 counts as 1 (R372). -/
def Grove.startCount (g : Grove) : Nat := maxN 1 g.start
/-- Ascending ordinal, then order of joining (R371). -/
def insMember (m : Member) : List Member → List Member
  | [] => [m]
  | x :: r => if m.ord < x.ord ∨ (m.ord = x.ord ∧ m.joined < x.joined) then m :: x :: r else x :: insMember m r
/-- The ordinal of a stand (R371). -/
def State.memberOrd (s : State) (k : Nat) : Nat :=
  let c := s.copseAt (copseOf k)
  c.stage % 8 * 2 ^ 61 + c.ord % 2 ^ 57 * 16 + k % 16
/-- A join (R372, R376). -/
def Grove.join (g : Grove) (stand ord : Nat) : Grove :=
  let zero := g.phase == 0 && g.zeroCount < g.startCount
  let st : MemSt := if zero || g.idle then .counted else .idle
  { g with members := insMember ⟨stand, ord, g.joins, st, none, false⟩ g.members, joins := g.joins + 1,
           zeroCount := if zero then g.zeroCount + 1 else g.zeroCount }
/-- The live membership that a handle names, if it is not stale (R370). -/
def State.handleLive (s : State) (stand : Nat) (h : GHandle) : Bool :=
  let g := s.groveAt h.grec
  g.live && g.tag == h.tag && (g.member stand).isSome

/-! ### Phases (R373-R376, R380, R381) -/

/-- The open phase is complete (R374). -/
def Grove.complete (g : Grove) : Bool :=
  g.live && !g.idle && (g.phase != 0 || g.startCount ≤ g.zeroCount) && g.members.all (fun m => m.st != .counted)

/-- The arrivals counted in the open phase. -/
def Grove.arrivals (g : Grove) : List (Member × ArrKind × Word64) :=
  g.members.filterMap (fun m => match m.st with | .arrived k x => some (m, k, x) | _ => none)
/-- Not all of one kind (R374). -/
def Grove.mixed (g : Grove) : Bool :=
  match g.arrivals with
  | [] => false
  | (_, k, _) :: r => r.any (fun a => a.2.1 != k)
/-- The status of a completion (R375). -/
def Grove.status (g : Grove) (broken : Bool) : Nat :=
  if broken || g.mixed then 3 else if g.excused then 2 else if g.departed then 1 else 0

/-- The two result words of one arrival (R388, R389): s[D], and s[D+1] for `gred`. -/
def groveResult (k : ArrKind) (status phase : Nat) (votes : List Bool) (red : Nat) : List Nat :=
  let word := status + phase % 65536 * 65536
  match k with
  | .bar => [word]
  | .vote op =>
    let trues := (votes.filter id).length
    let r := if op = 0 then trues == votes.length else if op = 1 then trues != 0
      else trues == votes.length || trues == 0
    [status + (if status < 3 && r then 8 else 0) + trues % 2 ^ 22 * 1024]
  | .red _ ty => [if 3 ≤ status then 0 else extend ty.toNat 64 red, word]

/-- The waiting grove operation of a stand takes its results and becomes ready (R360, R374). -/
def Stand.wakeGrove (st : Stand) (res : List Nat) : Stand :=
  { st with
    wait := .none
    pend := st.pend.map (fun p =>
      if p.on = .grove then
        { p with on := .ready,
                 sw := ((List.range p.sw.length).zip p.sw).map (fun w => (w.2.1, BitVec.ofNat 64 ((res[w.1]?).getD 0))) }
      else p) }

/-- A stand observes a completion of a grove: an acquire with SCOPE (R379). -/
def State.observe (s : State) (key k : Nat) (scope : Byte) (res : List Nat) : State :=
  let s := (s.setStand k ((s.standAt k).wakeGrove res)).takeOver objGrove key k scope
  if maskFull scope = maskCO then s else s.invalidateL1 (s.coreOf k)

/-- A contribution comes before another: by ordinal, by order of joining (R371), and within a member by order of issue (R180). -/
def Contrib.first (c x : Contrib) : Bool :=
  c.ord < x.ord || (c.ord == x.ord && (c.joined < x.joined || (c.joined == x.joined && c.n < x.n)))
/-- Contributions of a phase in that order, applied to the cell from its value (R381). -/
def insContrib (c : Contrib) : List Contrib → List Contrib
  | [] => [c]
  | x :: r => if c.first x then c :: x :: r else x :: insContrib c r
def Grove.applyCell (g : Grove) : Grove :=
  let mine := g.contribs.filter (fun c => c.phase == g.phase)
  let sorted := mine.foldr insContrib []
  { g with
    value := sorted.foldl (fun v c => BitVec.ofNat 64 (atomOp g.cop.toNat g.cty.toNat v.toNat c.x.toNat)) g.value
    contribs := g.contribs.filter (fun c => c.phase != g.phase) }

/-- Opens the next phase and moves held arrivals into it (R372, R374). -/
def Grove.openNext (g : Grove) (broken : Bool) : Grove :=
  let ms := g.members.map (fun m =>
    if g.elas && m.susp then { m with st := .idle }
    else match m.held with
      | some (k, x) => { m with st := .arrived k x, held := none }
      | none => { m with st := .counted })
  { g with members := ms, phase := g.phase + 1, idle := ms.all (fun m => m.st == .idle), departed := false, excused := false,
           lastBroken := broken }

/-- The g register that a stand waits on. -/
def Stand.groveReg (st : Stand) : Nat := match st.wait with | .grove n => n | .groveHeld n => n | _ => 0

/-- The votes of the counted arrivals (R389). -/
def Grove.votes (g : Grove) : List Bool :=
  g.arrivals.filterMap (fun a => match a.2.1 with | .vote _ => some (a.2.2 != 0) | _ => none)
/-- A reduction runs under DET when it has an arrival of a deterministic launch (R380). -/
def State.groveDet (s : State) (g : Grove) : Bool :=
  g.arrivals.any (fun a => (s.launchAt (s.copseAt (copseOf a.1.stand)).launch).det)
/-- One completion of a grove's open phase, in the order of R374. -/
def State.groveComplete (s : State) (key : Nat) (broken : Bool) : State :=
  let g := s.groveAt key
  let arr := g.arrivals
  let status := g.status broken
  let votes := g.votes
  let red := match arr with
    | (_, .red op ty, _) :: _ =>
      if status = 3 then 0 else reduceAll (s.groveDet g) op.toNat ty.toNat s.free (arr.map (fun a => a.2.2.toNat % 2 ^ tyBits ty.toNat))
    | _ => 0
  let s := s.bump.setGrove key ((g.applyCell).openNext (status == 3))
  let s := arr.foldl (fun s a => s.observe key a.1.stand g.scope (groveResult a.2.1 status g.phase votes red)) s
  -- members whose held arrival has been counted are parked now (R373)
  g.members.foldl (fun s m =>
    if m.held.isSome && !(g.elas && m.susp) then
      let st := s.standAt m.stand
      s.setStand m.stand { st with wait := .grove st.groveReg }
    else s) s

/-- Completes phases while one is complete. -/
def State.groveSettle (s : State) (key : Nat) : Nat → State
  | 0 => s
  | n + 1 => if (s.groveAt key).complete then (s.groveComplete key false).groveSettle key n else s
def groveFuel (g : Grove) : Nat := g.members.length + 2
/-- Settles a grove after an event. -/
def State.settle (s : State) (key : Nat) : State := s.groveSettle key (groveFuel (s.groveAt key))

/-- A member is removed: a leave, or a departure, which the phase reports if the member was counted (R376, R378, R387). -/
def State.groveRemove (s : State) (key stand : Nat) (departs : Bool) : State :=
  let g := s.groveAt key
  match g.member stand with
  | none => s
  | some m =>
    let g := { g with members := g.members.filter (fun x => x.stand != stand), contribs := g.contribs.filter (fun c => c.stand != stand),
                      departed := g.departed || (departs && m.st != .idle) }
    (s.setGrove key g).settle key

/-- Suspension at a save (R376, R377): an elastic grove excuses a member that has not arrived; a held arrival is abandoned. -/
def State.groveSuspend (s : State) (key stand : Nat) : State :=
  let g := s.groveAt key
  match g.member stand with
  | none => s
  | some m =>
    let excuse := g.elas && m.st == .counted
    let g := g.mapMember stand (fun m => { m with susp := true, held := none, st := if excuse then .idle else m.st })
    (s.setGrove key { g with excused := g.excused || excuse }).settle key
/-- Resumption at a restore (R376). -/
def State.groveResume (s : State) (key stand : Nat) : State :=
  let g := s.groveAt key
  s.setGrove key (g.mapMember stand (fun m => { m with susp := false, st := if m.st = .idle ∧ g.idle then .counted else m.st }))

/-- An arrival (R373). -/
def State.groveArrive (s : State) (key stand gn : Nat) (k : ArrKind) (x : Word64) : State :=
  let g := s.groveAt key
  let st := s.standAt stand
  match g.member stand with
  | none => s
  | some m =>
    if m.st = .counted then
      let g := { g.mapMember stand (fun m => { m with st := .arrived k x }) with idle := false }
      ((s.setGrove key g).setStand stand { st with wait := .grove gn }).settle key
    else
      (s.setGrove key (g.mapMember stand (fun m => { m with held := some (k, x) }))).setStand stand { st with wait := .groveHeld gn }

/-- The groves a stand belongs to. -/
def State.grovesWith (s : State) (stand : Nat) : List Nat :=
  (s.groves.filter (fun e => e.2.live && (e.2.member stand).isSome)).map Prod.fst
/-- A stand leaves, or departs from, every grove it belongs to (R378). -/
def State.leaveAll (s : State) (stand : Nat) (departs : Bool) : State :=
  (s.grovesWith stand).foldl (fun s k => s.groveRemove k stand departs) s

/-- Destruction (R391): counted and held arrivals wake with status 3 and the record is freed under a new tag. -/
def State.groveDestroy (s : State) (key : Nat) : State :=
  let g := s.groveAt key
  let votes := g.votes
  let s := g.members.foldl (fun s m =>
    match m.st, m.held with
    | .arrived k _, _ => s.observe key m.stand g.scope (groveResult k 3 g.phase votes 0)
    | _, some (k, _) => s.observe key m.stand g.scope (groveResult k 3 g.phase votes 0)
    | _, none => s) s
  s.setGrove key { Grove.init with vi := g.vi, ident := g.ident, tag := g.tag + 1 }

/-- A `gcreate`, `gjoin` or `gleave` of a stand has yet to write its g register. -/
def State.handleComing (s : State) (k gn : Nat) : Bool :=
  s.groveQ.any (fun e => e.stand == k && e.gn == gn && (match e.op with | .create .. | .join _ | .leave => true | _ => false))
/-- A word that names the register meanwhile waits for the write on heartwood; on sapwood it reads the old handle or the new (R43). -/
def State.handleWaits (s : State) (k gn : Nat) : Bool := s.handleComing k gn && (s.kindOf k == .heart || s.coin gn)

end Sys2Proof.Machine
end

