-- ==== Sys2Proof/Machine/Ops.lean ====
section
/-! DEFINITION. The shared operations of a stand: its divergence stack (spec/04 R92-R105), taking a trap and returning from one
(spec/17 R400-R404, R468), and releases, acquires and markers (spec/13 R300, R301, R315, R316). -/

namespace Sys2Proof.Machine

/-! ### The divergence stack: the head of the list is the top entry -/

/-- Entries on the stack; a position counts from the bottom (R93). -/
def Stand.depth (st : Stand) : Nat := st.stack.length
/-- RB follows the stack down inside a region (R105). -/
def Stand.fixRb (st : Stand) : Stand :=
  if st.yc ≠ 0 ∧ st.stack.length < st.rb then { st with rb := st.stack.length } else st
/-- Whether PushPend needs a new entry (R93). -/
def pendNew (stack : List Entry) (pc : Word64) (m : Mask) : Bool :=
  if m = 0 then false
  else match stack with
    | e :: _ => !(e.kind == .pend && e.pc == some pc)
    | [] => true
/-- PushPend (R93). -/
def pushPend (pc : Word64) (m : Mask) (stack : List Entry) : List Entry :=
  if m = 0 then stack
  else match stack with
    | e :: r => if e.kind = .pend ∧ e.pc = some pc then { e with mask := e.mask ||| m } :: r else ⟨.pend, some pc, m⟩ :: e :: r
    | [] => [⟨.pend, some pc, m⟩]
/-- AfterTransfer (R93). -/
def Stand.afterTransfer (st : Stand) : Stand :=
  if st.a = 0 then st
  else match st.stack with
    | e :: r =>
      if e.kind = .pend ∧ e.pc = some st.pc ∧ (st.yc = 0 ∨ st.rb ≤ r.length) then
        Stand.fixRb { st with a := st.a ||| e.mask, stack := r }
      else st
    | [] => st
/-- The entry that Resume stops at (R94): mask, program counter and the entries below. -/
def resumeEntry (exited : Mask) : List Entry → Option (Mask × Word64 × List Entry)
  | [] => none
  | e :: r => if e.mask &&& ~~~exited ≠ 0 then some (e.mask &&& ~~~exited, e.pc.getD 0, r) else resumeEntry exited r
/-- A control transfer: sapwood code must find a header at the new program counter (R47). -/
def Stand.goto (st : Stand) (pc : Word64) : Stand := { st with pc := pc, place := .target, clh := none, clpos := 0 }
/-- Resume (R94); with nothing left the stand goes on to its end, its ticket and a handler that it runs left behind (R77, R101). -/
def Stand.resume (st : Stand) : Stand :=
  match resumeEntry st.exited st.stack with
  | some (m, pc, r) => Stand.fixRb { st.goto pc with a := m, stack := r }
  | none => { st with stack := [], frames := [], current := false, life := if st.life = .live then .ending else st.life }
/-- The stack position of the TOKEN entry of kn, from the top (R95). -/
def tokenAt (n : Nat) (stack : List Entry) : Option Nat := stack.findIdx? (fun e => e.kind == .token n)
/-- Changes the entry at an index from the top. -/
def setEntry (i : Nat) (f : Entry → Entry) (stack : List Entry) : List Entry :=
  (List.range stack.length).zip stack |>.map (fun e => if e.1 = i then f e.2 else e.2)

/-! ### Release, acquire and markers -/

/-- The stand has live side-log entries (R256). -/
def State.logged (s : State) (k : Nat) : Bool := (s.coreAt (s.coreOf k)).slog.any (fun e => e.stand == k)
/-- Sends markers for the path set (R315): one per entry. -/
def Stand.sendMarkers (st : Stand) (wf forM : Bool) : Stand :=
  { st with markers := st.markers ++ st.paths.map (fun p => ⟨p.slice, wf, p.n, p.lines, forM⟩),
            paths := if wf then [] else st.paths.map (fun p => { p with n := 0 }) }
/-- The steps of a release after every earlier access is performed (R300): the L1 is written back, and markers are sent. -/
def State.releaseNow (s : State) (k : Nat) (m : Byte) (forM : Bool) : State :=
  let full := maskFull m
  let s := if full = maskCO then s else s.flushL1 (s.coreOf k)
  if maskHas full 3 then s.setStand k ((s.standAt k).sendMarkers true forM)
  else if maskHas full 2 then s.setStand k ((s.standAt k).sendMarkers false forM)
  else s
/-- Lines of the stand's region write-backs that have not reached their homes: those it started, and those that another stand's write-back
carries for a `swb` of its own (R262, R271). -/
def State.writingBack (s : State) (k : Nat) : List Nat :=
  ((s.copseAt (copseOf k)).fills.filter (fun x => x.wb == some k)).map (fun x => x.line) ++ (s.standAt k).swbs.flatMap (fun r => r.lines)
/-- What a release with a mask must wait for: side-log replay (R256), the stand's region write-backs (R271), and staged updates of lines
that it writes back (R216). -/
def State.relHeld (s : State) (k : Nat) (m : Byte) : Bool :=
  s.logged k || s.writingBack k != [] || (maskFull m != maskCO && s.flushHeld (s.coreOf k))
/-- A release as the stand comes to it (R300): whether it is performed, and the state. The stand waits for side-log replay, for its
region write-backs and for its markers, and comes back with the mask released in `rel`; it also waits for a `fence.m` in progress
(R316). -/
def State.release (s : State) (k : Nat) (m : Byte) : Bool × State :=
  let st := s.standAt k
  if (match st.rel with | some r => maskFull m &&& ~~~(maskFull r) == 0 | none => false) then
    (true, (s.setStand k { st with rel := none }).signed k m false)
  else if st.fenceM.isSome || s.relHeld k m then (false, s)
  else
    let s := s.releaseNow k m false
    let st := s.standAt k
    if st.markers = [] then (true, s.signed k m false) else (false, s.setStand k { st with rel := some m, wait := .markers })
/-- An acquire by an access of the stand's present word (R301, R305). -/
def State.acquire (s : State) (k : Nat) (m : Byte) : State :=
  let s := s.observeAcq k m false
  if maskFull m = maskCO then s else s.invalidateL1 (s.coreOf k)
/-- A `fence.m` ends: its flag may fall and later writes proceed (R316). -/
def Stand.endFenceM (st : Stand) : Stand :=
  { st with fenceM := none, pend := st.pend.map (fun p => if p.on = .fenceM then { p with on := .ready } else p) }
/-- A `fence.m` of a stand completes: it is a release for all that follows (R305, R316). -/
def State.fenceMDone (s : State) (k : Nat) : State :=
  match (s.standAt k).fenceM with
  | none => s
  | some (m, _) => (s.setStand k (s.standAt k).endFenceM).signed k m true
/-- A `fence.m` performs its release once the side log holds nothing of the stand and its region write-backs are home (R256, R316). -/
def State.startFenceM (s : State) (k : Nat) : State :=
  match (s.standAt k).fenceM with
  | none => s
  | some (m, _) =>
    if s.relHeld k m then s
    else
      let s := s.releaseNow k m true
      if (s.standAt k).markers.any (fun x => x.forM) then s else s.fenceMDone k
/-- A release by `swb` goes on: its markers are sent once its lines are home, and it is performed once they are acknowledged (R271, R300);
a staged update of a line of the L1 holds it up (R216). -/
def State.settleSwb (s : State) (k : Nat) (r : SwbRel) : State :=
  if r.lines ≠ [] ∨ (!r.sent && maskFull r.mask != maskCO && s.flushHeld (s.coreOf k)) then s
  else
    let s := if r.sent then s else s.releaseNow k r.mask false
    let st := s.standAt k
    if st.markers ≠ [] then s.setStand k { st with swbs := st.swbs.map (fun x => if x.word = r.word then { x with sent := true } else x) }
    else (s.setStand k { st with
      swbs := st.swbs.filter (fun x => x.word != r.word)
      pend := st.pend.map (fun p => if p.on = .swb r.word then { p with on := .ready } else p) }).signed k r.mask true
def State.settleSwbs (s : State) (k : Nat) : State := (s.standAt k).swbs.foldl (fun s r => s.settleSwb k r) s
/-- What waits in a stand for writes to reach their homes looks again: releases by `swb` (R271), and a `fence.m` whose markers are not yet
sent (R316). -/
def State.resumeFenceM (s : State) (k : Nat) : State :=
  let s := s.settleSwbs k
  if (s.standAt k).markers.any (fun x => x.forM) then s else s.startFenceM k
/-- A line's write-back has ended: what waits for it in the copse's stands goes on. -/
def State.swbLine (s : State) (copse l : Nat) : State :=
  (s.standsOf copse).foldl (fun s k =>
    let st := s.standAt k
    (s.setStand k { st with swbs := st.swbs.map (fun x => { x with lines := x.lines.filter (fun m => m != l) }) }).resumeFenceM k) s
/-- A marker reaches its slice and is acknowledged (R315): replicas of the lines written on the path are invalidated. -/
def State.markerAt (s : State) (k slice : Nat) : State :=
  let st := s.standAt k
  match st.markers.find? (fun x => x.slice == slice) with
  | none => s
  | some x =>
    let f := fieldOfCore (s.coreOf k)
    let s := x.lines.foldl (fun s l => s.setDir l ((s.dirAt l).collapse (if x.wf then none else some f))) s
    let st := { st with markers := st.markers.erase x }
    let st := if st.wait = .markers ∧ st.markers.all (fun y => y.forM) then { st with wait := .none } else st
    let s := s.setStand k st
    let s := if x.forM && !(st.markers.any (fun y => y.forM)) then s.fenceMDone k else s
    s.settleSwbs k

/-! ### Taking a trap (R400, R401, R404, R468) -/

/-- Ends the waits of a stand's held record arrival: its HELD bit falls (R401). -/
def State.dropHeld (s : State) (k : Nat) : State :=
  match (s.standAt k).wait with
  | .heldRec o _ _ =>
    let copse := copseOf k
    s.setRec copse o.toNat (setBits (s.recAt copse o.toNat) (48 + k % 16) (48 + k % 16) 0)
  | _ => s
/-- Terminate (R401). Deferred traps in the queue stay, and so does the copy whose trap waits for room there: no record is dropped (R397). -/
def State.terminate (s : State) (k : Nat) (r : FaultRec) : State :=
  let s := s.dropHeld k
  let s := (((s.copiesOf k).filter (fun c => c.fate.isNone)).map (fun c => c.seq)).foldl (fun s q => s.copyCancel (copseOf k) q 1) s
  let s := s.leaveAll k true
  let st := s.standAt k
  let c := s.copseAt (copseOf k)
  let s := s.setStand k { st with life := .ending, exited := allLanes, a := 0, stack := [], pend := [], wait := .none, trapWait := none,
                                  exitPc := st.pc, exitMask := 0, frames := [], fenceM := none, swbs := [], fencing := false, markers := [],
                                  rel := none, current := false }
  if c.maint then s
  else
    let l := s.launchAt c.launch
    (s.setLaunch c.launch { l with terminated := l.terminated + 1 }).postEvent c.vi r
/-- Halt (R404): the stand stays resident and issues nothing; in maintenance mode the core stops. -/
def State.haltStand (s : State) (k : Nat) (r : FaultRec) : State :=
  let c := s.copseAt (copseOf k)
  let s := s.setStand k { s.standAt k with life := .halted, trapWait := none }
  if c.maint then
    let co := s.coreAt c.core
    s.setCore c.core { co with stopped := true }
  else s.postEvent c.vi r
/-- The handler of a class for the running kind (R66, R400, R468); 0 for none. Maintenance traps enter firmware's own (R457). -/
def State.handler (s : State) (k cls : Nat) : Nat :=
  let c := s.copseAt (copseOf k)
  let h := if c.maint then (Config.maintHandler cls).toNat
    else
      let half := match c.kind with | .sap => 0 | .heart => 8
      (s.ctxRead c.vi ((s.launchAt c.launch).tvt.toNat + 16 * cls + half) 8).getD 0
  if h % 32 = 0 then h else 0
/-- s0 at entry: bits 255:192 of the record (R400, R398). -/
def FaultRec.s0 (r : FaultRec) : Word64 :=
  (0 : BitVec 28) ++ r.stand ++ BitVec.ofBool r.defer ++ r.ckind ++ BitVec.ofBool r.space ++ r.akind ++ r.sm ++ r.cause ++ r.cls
/-- The frame that entry pushes (R399). -/
def Stand.frame (st : Stand) (r : FaultRec) (k : Kind) : Frame :=
  { record := r
    rpc := st.pc
    rpc0 := st.pc
    amask := st.a
    q := st.q
    gate := st.gate
    yc := st.yc
    rb := st.rb
    sdep := st.stack.length
    savs := (List.range 4).map (fun i => tget 0 st.sr i)
    clh := if k = .sap then st.clh else none
    clpos := if k = .sap then st.clpos else 0 }
/-- Entry to a handler: frame, s0-s3 and program counter (R400); an ending stand runs it with the threads of its last `exit` (R101). -/
def Stand.enter (st : Stand) (r : FaultRec) (k : Kind) (h : Word64) : Stand :=
  let f := st.frame r k
  { st.goto h with
    a := if st.life = .ending then st.exitMask else st.a
    frames := f :: st.frames
    sr := tset 3 (BitVec.ofNat 64 (st.frames.length + 1)) (tset 2 r.npc (tset 1 r.addr (tset 0 r.s0 st.sr)))
    tseq := if r.defer then st.tseq else st.tseq + 1
    trapWait := none
    rel := none }
/-- A trap of the stand has been counted (R398). -/
def State.counted (s : State) (k : Nat) : State := s.setStand k { s.standAt k with tseq := (s.standAt k).tseq + 1 }
/-- TakeTrap (R400): every trap of the device is taken here. The stand's program counter is already the one to resume at. A synchronous
trap has its number in the stand's count from here (R398), a deferred one from where it arose. -/
def State.takeTrap (s : State) (k : Nat) (r : FaultRec) : State :=
  let st := s.standAt k
  let r := if r.defer then r else { r with tseq := st.tseq }
  let h := s.handler k r.cls.toNat
  if h = 0 ∨ st.frames.length = 4 then
    let s := if r.defer then s else s.counted k
    if r.cls = 0x0B then s.haltStand k r else s.terminate k r
  else s.setStand k (st.enter r (s.kindOf k) (BitVec.ofNat 64 h))
/-- A synchronous trap is raised by a stand: it is taken when no operation of the stand is outstanding, and waits for that
otherwise (R400, R468). `npc` is the trapping instruction. -/
def State.raise (s : State) (k : Nat) (r : TrapReq) (npc : Word64) : State :=
  let rec' := s.faultRec k r npc false
  if (s.standAt k).pend = [] then s.takeTrap k rec' else s.setStand k { s.standAt k with trapWait := some rec' }

/-- What `tret` continues at, after the frame is popped (R402): the stand, with its place in sapwood code. -/
def Stand.leave (st : Stand) (f : Frame) (k : Kind) (skip : Bool) (len : Nat) : Stand :=
  let st := { st with
    a := f.amask
    q := f.q
    gate := f.gate
    yc := f.yc
    rb := f.rb
    sr := tset 3 ((f.savs[3]?).getD 0) (tset 2 ((f.savs[2]?).getD 0) (tset 1 ((f.savs[1]?).getD 0) (tset 0 ((f.savs[0]?).getD 0) st.sr)))
    frames := st.frames.drop 1
    stack := st.stack.drop (st.stack.length - f.sdep) }
  match k with
  | .heart => { st with pc := if skip then f.rpc + BitVec.ofNat 64 len else f.rpc }
  | .sap =>
    if f.rpc ≠ f.rpc0 then st.goto f.rpc
    else
      let st := { st with clh := f.clh, clpos := f.clpos }
      match f.clh with
      | none => { st with place := .target, pc := if skip then f.rpc + BitVec.ofNat 64 len else f.rpc }
      | some h =>
        let done (n : Nat) : Place := if h.clen.toNat + 1 ≤ n then .afterClause else .inClause
        if skip && done f.clpos == .inClause then
          { st with pc := f.rpc + BitVec.ofNat 64 len, clpos := f.clpos + 1, place := done (f.clpos + 1) }
        else { st with pc := f.rpc, place := done f.clpos }

end Sys2Proof.Machine
end

