-- ==== Sys2Proof/Machine/Issue.lean ====
section
/-! DEFINITION. The issue of one word (spec/02 R35, R41-R47, R54, R55; spec/03 R83; spec/17 R397): the checks every word shares,
what its own effect comes to, and how the stand goes on. -/

namespace Sys2Proof.Machine

/-- What the own effect of a word comes to: done, long-latency with results still to be written, a control transfer that has set
the program counter, a trap, or not yet: the stand is not eligible and the word issues again. -/
inductive Eff where
  | done (s : State)
  | long (s : State) (p : Pend)
  | goto (s : State)
  | trap (r : TrapReq)
  | stay (s : State)

/-- Bytes of a word (R26). -/
def wordBytes (i : Instr) : Nat := match encode i with | some e => e.bytes | none => 8
/-- The words of an instruction as a fault record holds them (R398). -/
def wordBits (i : Instr) : BitVec 128 := match encode i with | some e => e.bits | none => 0

/-- A trap of a word that names no address. -/
def trapOf (i : Instr) (cls cause : Nat) : TrapReq :=
  ⟨BitVec.ofNat 8 cls, BitVec.ofNat 8 cause, 0, 0, 0, false, allLanes, wordBits i, 0⟩

/-- The fault mask of a word: all ones for a uniform one, else its threads (R398). -/
def Stand.fmask (st : Stand) (h : Head) : Mask := if h.uni then allLanes else st.part h
/-- The channel fault of a word (R336, R338). -/
def Stand.chanTrap (st : Stand) (i : Instr) (f : Form) : TrapReq := { trapOf i 6 5 with fmask := st.fmask f.h }

/-- ILL causes of the place of a word in its code (R46, R47). -/
def Stand.placeIll (st : Stand) (k : Kind) (bytes : Nat) (transfer : Bool) : List Nat :=
  (if 32 < st.pc.toNat % 32 + bytes then [3] else []) ++
  (match k with
   | .heart => []
   | .sap => match st.place with
     | .afterClause => [0xA]
     | .target => [0xC]
     | .inClause => if transfer && (match st.clh with | some h => h.clen.toNat != st.clpos | none => false) then [0xC] else [])
/-- All ILL causes of a word (R54). -/
def State.illCauses (s : State) (k : Nat) (i : Instr) (f : Form) : List Nat :=
  let st := s.standAt k
  let c := s.copseAt (copseOf k)
  f.bad.filterMap (fun b => if b.2 then some b.1 else none)
    ++ f.ops.flatMap (fun x => fieldIll c c.maint f.h.uni x.1 x.2)
    ++ (if f.h.uni && 4 ≤ f.h.gp.toNat && f.h.gp != 7 then [8] else [])
    ++ (if st.flagIll f then [0xB] else [])
    ++ st.placeIll c.kind (wordBytes i) f.transfer
/-- The lowest of a list of causes. -/
def lowest : List Nat → Option Nat
  | [] => none
  | a :: r => match lowest r with | none => some a | some b => some (minN a b)

/-- The order in which classes are checked (R397). -/
def classRank (cls : Nat) : Nat :=
  if cls = 0x00 then 0 else if cls = 0x01 then 1 else if cls = 0x02 then 2 else if cls = 0x04 then 3 else if cls = 0x07 then 4
  else if cls = 0x08 then 5 else if cls = 0x09 then 6 else if cls = 0x06 then 7 else if cls = 0x05 then 8 else if cls = 0x03 then 9
  else 10

/-- A stand that can come to issue: live, or ending inside a handler; not parked, held, asleep or at trap entry. -/
def Stand.canIssue (st : Stand) : Bool :=
  (st.life == .live || (st.life == .ending && st.frames != [])) && st.wait == .none && st.trapWait == none

/-- The next word of straight-line code, and the place in the clause (R44, R47). -/
def Stand.advance (st : Stand) (k : Kind) (bytes : Nat) : Stand :=
  let st := { st with pc := st.pc + BitVec.ofNat 64 bytes }
  match k with
  | .heart => st
  | .sap => match st.clh with
    | none => st
    | some h => { st with clpos := st.clpos + 1, place := if h.clen.toNat + 1 ≤ st.clpos + 1 then .afterClause else .inClause }

/-- The counts that an issue leaves: CHARGE (R83), whether it was heavy (R84), whether its clause yields (R44). -/
def State.countIssue (s : State) (k : Nat) (weight : Nat) (yields : Bool) : State :=
  let core := s.coreOf k
  let co := s.coreAt core
  let cl := s.clusterAt (clusterOf core)
  let s := s.setCore core { co with lastHeavy := decide (256 ≤ weight), lastYield := if yields then some k else none }
  if weight = 0 then s
  else s.setCluster (clusterOf core) { cl with charge := (cl.charge.filter (fun c => cl.fe < c.1 + 64)) ++ [(cl.fe, weight)] }

/-- The place of a stand in its code. -/
def Stand.spot (st : Stand) : Spot := ⟨st.pc, st.place, st.clh, st.clpos⟩
/-- Back to a place in its code. -/
def Stand.backTo (st : Stand) (x : Spot) : Stand := { st with pc := x.pc, place := x.place, clh := x.clh, clpos := x.clpos }
/-- What every issued word leaves: its place, the watchdog and readiness counts at 0, the stale window shorter, the counts of R83. -/
def State.issued (s : State) (k weight : Nat) (yields : Bool) (pre : Stand) : State :=
  ((s.setStand k { s.standAt k with issueWait := 0, ready := 0, stall := 0, last := pre.spot, issues := (s.standAt k).issues + 1,
                                    rel := none }).ageStale k).countIssue k weight yields

/-- The word is the last of a clause with YLD = 1. -/
def Stand.yieldsHere (st : Stand) : Bool := match st.clh with | some h => h.yld && h.clen.toNat == st.clpos | none => false

/-- A word of class 0x0 ends with AfterTransfer (R93). -/
def State.afterWord (s : State) (k : Nat) (f : Form) : State := if f.control then s.setStand k (s.standAt k).afterTransfer else s

/-- The stand goes on behind a word whose effect is in the state. -/
def State.retire (s : State) (k : Nat) (i : Instr) (f : Form) (pre : Stand) : State :=
  let w := if f.h.uni then 0 else f.weight * popCount pre.a.toNat 128
  ((s.setStand k ((s.standAt k).advance (s.kindOf k) (wordBytes i))).afterWord k f).issued k w (pre.yieldsHere || f.yields) pre
/-- The stand goes on where a control transfer has put it, AfterTransfer included. -/
def State.retireGoto (s : State) (k : Nat) (f : Form) (pre : Stand) : State := s.issued k 0 (pre.yieldsHere || f.yields) pre

/-- An outstanding operation of the stand is still to push a channel. -/
def Stand.willPush (st : Stand) (n : Nat) : Bool := st.pend.any (fun p => match p.ch with | some x => x.1 == n | none => false)
/-- A long-latency word goes on with its results outstanding under its flag; with no participants it has none (R41), but what it pushes
comes behind earlier pushes of the channel (R184). -/
def State.start (s : State) (k : Nat) (i : Instr) (f : Form) (pre : Stand) (p : Pend) : State :=
  if !f.h.uni && pre.part f.h = 0 then
    (if (match p.ch with | some x => (s.standAt k).willPush x.1 | none => false) then s.putLater k { p with flag := none }
     else s.putNow k p).retire k i f pre
  else
    let n := (s.standAt k).flagOf f.h.sch
    ((s.setStand k ((s.standAt k).flagUp n)).putLater k { p with flag := if n < 12 then some n else none }).retire k i f pre

/-- Why a stand did not issue (R420). -/
def State.stalled (s : State) (k why : Nat) : State := s.setStand k { s.standAt k with stall := why }
/-- The code of a word that its own conditions hold back: 1 channel, 2 empty line, 3 command queue, 6 copy limit, 8 a release or fence;
10 stands for what R420 does not list. -/
def State.stayReason (s : State) (k : Nat) (i : Instr) : Nat :=
  let st := s.standAt k
  let rel := st.wait == .markers || st.fenceM.isSome || s.logged k
  match i with
  | .chsend _ => 1
  | .chrecv _ => 1
  | .mtile _ => 3
  | .mtileD _ => 3
  | .mlds _ => 3
  | .mswap _ => 3
  | .mstr _ => 3
  | .mzero _ => 3
  | .mdrn _ => 3
  | .cpy _ => 6
  | .cpyO _ => 6
  | .cpyTIn _ => 6
  | .cpyTOut _ => 6
  | .enq _ => if rel then 8 else 1
  | .ldS _ => if rel then 8 else 2
  | .stS _ => if rel then 8 else 2
  | .atom f => if rel then 8 else if f.md.getLsbD 3 then 2 else 10
  | .red f => if rel then 8 else if f.md.getLsbD 3 then 2 else 10
  | .atomCas f => if rel then 8 else if f.imm.getLsbD 34 then 2 else 10
  | _ => if rel then 8 else 10
/-- The stale window of what a word has itself stored is counted from behind the word (R49). -/
def State.ownWindow (s : State) (k n : Nat) : State :=
  { s with stale := s.stale.take n ++ (s.stale.drop n).map (fun e => if e.stand = k then { e with left := e.left + 1 } else e) }
/-- The own effect of a word, its own traps and the channel fault of its operands in class order (R397). -/
def State.effect (s : State) (k : Nat) (i : Instr) (f : Form) (body : State → Eff) : State :=
  let st := s.standAt k
  let bad := s.chanFault k f
  if !bad && !s.chanReady k f then s.stalled k 1
  else
    match body s with
    | .trap r => s.raise k (if bad && 7 < classRank r.cls.toNat then st.chanTrap i f else r) st.pc
    | .stay s' => if bad then s.raise k (st.chanTrap i f) st.pc else s'.stalled k (s'.stayReason k i)
    | .done s' => if bad then s.raise k (st.chanTrap i f) st.pc else (s'.ownWindow k s.stale.length).retire k i f st
    | .goto s' => if bad then s.raise k (st.chanTrap i f) st.pc else s'.retireGoto k f st
    | .long s' p => if bad then s.raise k (st.chanTrap i f) st.pc else (s'.ownWindow k s.stale.length).start k i f st p

/-- The words that read or write memory, or order what does: an acquire that is still to be performed holds them back (R301, R303). -/
def Instr.ordered : Instr → Bool
  | .claim _ => true
  | .enq _ => true
  | .deq _ => true
  | .mtile _ => true
  | .mtileD _ => true
  | .mdrn _ => true
  | .ldG _ => true
  | .stG _ => true
  | .ldS _ => true
  | .stS _ => true
  | .ldC _ => true
  | .smap _ => true
  | .sunmap _ => true
  | .swb _ => true
  | .cmoCln _ => true
  | .cmoInv _ => true
  | .cmoCinv _ => true
  | .dsc _ => true
  | .zero _ => true
  | .fenceAr _ => true
  | .fenceAcq _ => true
  | .fenceRel _ => true
  | .fenceM _ => true
  | .cpy _ => true
  | .cpyO _ => true
  | .cpyTIn _ => true
  | .cpyTOut _ => true
  | .cpyield _ => true
  | .atom _ => true
  | .atomCas _ => true
  | .red _ => true
  | .redCell _ => true
  | .crinit _ => true
  | .arrive _ => true
  | .arriveW _ => true
  | .crwait _ => true
  | .crexp _ => true
  | .crinv _ => true
  | .gbar _ => true
  | .gvote _ => true
  | .gred _ => true
  | _ => false
/-- A `deq`, which is an acquire (R87), has not been served yet. -/
def Stand.acquiring (st : Stand) : Bool := st.pend.any (fun p => match p.on with | .deq _ _ => true | _ => false)
/-- Whether a word waits before it issues: flags, the flag limit, heartwood interlocks (R41-R43), an acquire (R301). -/
def State.blocked (s : State) (k : Nat) (i : Instr) (f : Form) : Bool :=
  let st := s.standAt k
  st.wfBlocked f.h.sch || st.flagFull f || (s.kindOf k == .heart && st.interlocked f) || (st.acquiring && Instr.ordered i)
/-- The stall code of such a wait. -/
def State.blockedReason (s : State) (k : Nat) (i : Instr) (f : Form) : Nat :=
  let st := s.standAt k
  let ns := if st.wfBlocked f.h.sch then waitedFlags f.h.sch else [st.flagOf f.h.sch]
  if st.acquiring && Instr.ordered i then 9
  else if st.wfBlocked f.h.sch || st.flagFull f then st.flagStall ns
  else if st.pend.any (fun p => p.on.outside && p.clashes f) then 9 else 7

/-- The issue of a word by the executing stand. -/
def State.issueWord (s : State) (i : Instr) (f : Form) (body : State → Eff) : State :=
  let k := s.cur
  let st := s.standAt k
  if !st.canIssue then s
  else match lowest (s.illCauses k i f) with
    | some c => s.raise k { trapOf i 0 c with addr := st.pc, fmask := st.fmask f.h } st.pc
    | none =>
      if s.blocked k i f then s.stalled k (s.blockedReason k i f)
      else if f.h.uni && !st.guard f.h then s.retire k i f st
      else s.effect k i f body

/-- The outcome of the issue of a word. -/
def word (i : Instr) (f : Form) (body : State → Eff) (s : State) : Host.Outcome State Fault Refusal :=
  .next (s.issueWord i f body)

/-- A fixed-latency effect that is only results: applied at once. -/
def State.now (s : State) (p : Pend) : Eff := .done (s.putNow s.cur p)
/-- Results of a word that is long-latency on a condition. -/
def State.results (s : State) (long : Bool) (p : Pend) : Eff := if long then .long s p else s.now p

/-! ### Checks that many entries share -/

/-- A field of a word that must be zero (R37). -/
def mustZero (b : Bool) : Nat × Bool := (4, !b)
/-- A type the entry does not accept (R36). -/
def badTy (ok : Bool) : Nat × Bool := (5, !ok)
/-- UNI must be 1, or 0 (R52). -/
def onlyUni (h : Head) : Nat × Bool := (7, !h.uni)
def onlyVec (h : Head) : Nat × Bool := (7, h.uni)

end Sys2Proof.Machine
end

