-- ==== Sys2Proof/Machine/Access.lean ====
section
/-! DEFINITION. How an instruction's accesses reach memory: addresses and checks (spec/11 R264, R265), translation of all threads,
page holds and the side log (R244, R245, R255-R257), atomics at their place (spec/15 R344-R346), scratchpad accesses with their
lines (spec/11 R252, R261) and the constant cache (R268). -/

namespace Sys2Proof.Machine

/-! ### Elements and addresses (R264) -/

/-- Element bytes and elements per thread. -/
def M96.eb (f : M96) : Nat := tyBits f.ty.toNat / 8
def M96.count (f : M96) : Nat := if f.vc = 1 then 2 else if f.vc = 2 then 4 else 1
/-- The types that memory instructions take (R263). -/
def memTy (ty : Nat) : Bool := ty ≤ 0x11
/-- The threads that take part: thread 0 stands for a uniform form. -/
def Stand.doing (st : Stand) (h : Head) : List Nat := if h.uni then (if st.part h = 0 then [] else [0]) else lanes (st.part h)
/-- Thread and address of each participant. -/
def State.eas (s : State) (h : Head) (ab : Opd) (ofs : Int) (global : Bool) : List (Nat × Nat) :=
  let k := s.cur
  let base (t : Nat) : Nat :=
    if h.uni || ab.uf then (s.rdS k ab.num.toNat).toNat
    else if global then (s.rdPair k ab.num.toNat t).toNat
    else (s.rdV k ab.num.toNat t).toNat
  (s.me.doing h).map (fun t => (t, wrap (if global then 64 else 32) (base t + ofs)))
def M96.ofsInt (f : M96) : Int := sextNat 24 f.ofs.toNat
/-- The fault mask of a word (R398). -/
def faultMask (uni : Bool) (ts : List Nat) : Mask := if uni then allLanes else maskOf ts

/-- The memory fault of a list of accesses, if any (R265): cause, first address, threads. -/
def memBad (c : Copse) (global aligned : Bool) (size : Nat) (xs : List (Nat × Nat)) : Option (Nat × Nat × List Nat) :=
  let cause (ea : Nat) : Nat :=
    if aligned && ea % size != 0 then 1
    else if global then 0
    else if !c.inAlloc ea size then 2
    else if c.linesDead (linesOf ea size) then 3 else 0
  let cs := (xs.map (fun x => (x.1, x.2, cause x.2))).filter (fun x => x.2.2 != 0)
  match lowest (cs.map (fun x => x.2.2)) with
  | none => none
  | some m =>
    let hit := cs.filter (fun x => x.2.2 == m)
    some (m, ((hit.map (fun x => x.2.1)).headD 0), hit.map Prod.fst)
/-- A trap of an access. -/
def accessTrap (i : Instr) (uni : Bool) (cls cause addr akind : Nat) (space : Bool) (sm : Byte) (ts : List Nat) : TrapReq :=
  { trapOf i cls cause with addr := BitVec.ofNat 64 addr, akind := BitVec.ofNat 4 akind, space := space, sm := sm,
                            fmask := faultMask uni ts }

/-! ### Translation of all threads (R244, R245, R265) -/

/-- Thread, address and translation of each access; a page is translated once. -/
def State.xlateAll (s : State) (k : Nat) (acc : Acc) (xs : List (Nat × Nat)) : List (Nat × Nat × Xl (Nat × Leaf)) :=
  let tbl := (distinct (xs.map (fun x => pageOf x.2))).map (fun p => (p, s.xlate (copseOf k) acc (65536 * p)))
  xs.map (fun x => (x.1, x.2, match tfind (pageOf x.2) tbl with
    | some (.ok (pa, l)) => .ok (pa + x.2 % 65536, l)
    | some (.fault c) => .fault c
    | none => .fault 1))
/-- The first immediate cause, its address, and the threads with one. -/
def immediate (ys : List (Nat × Nat × Xl (Nat × Leaf))) : Option (Nat × Nat × List Nat) :=
  let bad := ys.filterMap (fun y => match y.2.2 with
    | .fault c => if c = 2 ∨ c = 3 then none else some (y.1, y.2.1, c)
    | .ok _ => none)
  match bad with
  | [] => none
  | (_, va, c) :: _ => some (c, va, bad.map Prod.fst)
/-- The faulting pages: page, cause, first address, threads. -/
def faultPages (ys : List (Nat × Nat × Xl (Nat × Leaf))) : List (Nat × Nat × Nat × List Nat) :=
  let bad := ys.filterMap (fun y => match y.2.2 with
    | .fault c => some (y.1, y.2.1, c)
    | .ok _ => none)
  (distinct (bad.map (fun b => pageOf b.2.1))).map (fun p =>
    let mine := bad.filter (fun b => pageOf b.2.1 == p)
    (p, ((mine.map (fun b => b.2.2)).headD 0), ((mine.map (fun b => b.2.1)).headD 0), mine.map Prod.fst))
/-- The accesses that translate: thread, address, physical address. -/
def translated (ys : List (Nat × Nat × Xl (Nat × Leaf))) : List (Nat × Nat × Nat) :=
  ys.filterMap (fun y => match y.2.2 with | .ok (pa, _) => some (y.1, y.2.1, pa) | .fault _ => none)
/-- The translations used may stay in the first-level TLB (R247). -/
def State.keepTlb (s : State) (k : Nat) (ys : List (Nat × Nat × Xl (Nat × Leaf))) : State :=
  ys.foldl (fun s y => match y.2.2 with | .ok (_, l) => s.tlbAdd (copseOf k) y.2.1 l | .fault _ => s) s
/-- The stand is held on page requests until all are answered (R245, R255). -/
def State.holdPages (s : State) (k : Nat) (i : Instr) (uni : Bool) (akind : Nat) (sm : Byte)
    (ps : List (Nat × Nat × Nat × List Nat)) : State :=
  let r := ps.foldl (fun (a : List (Nat × TrapReq) × State) p =>
    let (id, s) := a.2.postPage (a.2.viOf k) p.2.2.1 p.2.1
    (a.1 ++ [(id, accessTrap i uni 3 6 p.2.2.1 akind false sm p.2.2.2)], s)) ([], s)
  r.2.setStand k { r.2.standAt k with wait := .page r.1 none }

/-- What a list of accesses comes to: all translated, not yet, or a trap. -/
inductive Reach where
  | go (s : State) (ys : List (Nat × Nat × Nat))
  | wait (s : State)
  | trap (r : TrapReq)

/-- Accesses that hold their stand on a page request: loads, returning atomics, ordered stores (R245, R255). -/
def State.reach (s : State) (i : Instr) (uni : Bool) (acc : Acc) (akind : Nat) (sm : Byte) (xs : List (Nat × Nat)) : Reach :=
  let k := s.cur
  let ys := s.xlateAll k acc xs
  match immediate ys with
  | some (c, va, ts) => .trap (accessTrap i uni 3 c va akind false sm ts)
  | none =>
    if s.pageLogged (s.coreOf k) xs then .wait s
    else match faultPages ys with
      | [] => .go (s.keepTlb k ys) (translated ys)
      | p :: ps => .wait (s.holdPages k i uni akind sm (p :: ps))

/-! ### Staged updates of a line (R216) -/

/-- A load waits on it unless its L1 serves it. -/
def State.loadWaits (s : State) (core : Nat) (sm : Byte) (pa n : Nat) : Bool :=
  s.stagedLine (pa / 128) &&
    (!maskNarrow sm || (match s.l1At core (pa / 128) with
      | none => true
      | some l => l.valid &&& byteMask (pa % 128) n != byteMask (pa % 128) n))
def State.storeWaits (s : State) (sm : Byte) (pa : Nat) : Bool := s.stagedLine (pa / 128) && !maskNarrow sm

/-! ### Atomics at their place (spec/15 R344-R346) -/

/-- A mask no wider than CL: the atomic executes in L1. -/
def maskNear (m : Byte) : Bool := m &&& 0xFC == 0
/-- A core takes ownership of a line (R345). A copy that passes keeps its dirty bytes; its clean bytes are those of the home, where the
dirty bytes of the copy that it replaces have gone first, so that no write is lost (R304, log 48). A line that no core owns is read as
by a load with mask CO; but where the core's copy is from before atomics of the cluster, the home is read (log 49). -/
def State.ownLine (s : State) (k core line : Nat) : State :=
  let cl := clusterOf core
  match tfind line (s.clusterAt cl).owners with
  | some c =>
    if c = core then s
    else
      let s := match s.l1At c line with
        | none => s
        | some l =>
          let moved (x : Nat × Nat) : Nat × Nat := if x.1 = c ∧ x.2 / 128 = line then (core, x.2) else x
          let s := (s.writeBackL1 core line).passChains c core line
          let s := { s with order := { s.order with near := s.order.near.map moved } }.dropL1 c line
          (s.setL1 core line { l with bytes := mergeOver l.dirty l.bytes (s.lineBytes line), valid := allLanes }).refreshed core line
      let x := s.clusterAt cl
      s.setCluster cl { x with owners := tset line core x.owners }
  | none =>
    let s := if 256 ≤ (s.clusterAt cl).owners.length then
        let os := (s.clusterAt cl).owners.filter (fun x => !s.stagedLine x.1)
        let (n, s) := s.pick os.length
        match os[n]? with
        | some (l, c) => (s.writeBackL1 c l).disown c l
        | none => s
      else s
    let s := if s.mustRefresh core line then
        let old := (s.l1At core line).getD L1Line.init
        ((s.noteLoad (s.viOf k) core line 0).setL1 core line
          { old with bytes := mergeOver old.dirty old.bytes (s.lineBytes line), valid := allLanes }).refreshed core line
      else match s.l1At core line with
        | some l => if l.valid = allLanes then s else s.fillL1 (s.viOf k) core line 0
        | none => s.fillL1 (s.viOf k) core line 0
    let x := s.clusterAt cl
    s.setCluster cl { x with owners := tset line core x.owners }
/-- A home-executed atomic meets L1-executed ones whose copies have not been written back (R310): where their write-back is to lose to its
bytes, which is free, they are dirty no longer. -/
def State.race (s : State) (pa n : Nat) : State :=
  let hit := distinct ((s.order.near.filter (fun x => pa ≤ x.2 && x.2 < pa + n)).map Prod.fst)
  hit.foldl (fun s c =>
    match s.l1At c (pa / 128) with
    | none => s
    | some l =>
      if s.coin c then
        let d := l.dirty &&& ~~~(byteMask (pa % 128) n)
        ((s.notePast c (pa / 128)).setL1 c (pa / 128) { l with dirty := d, writers := if d = 0 then [] else l.writers }).unmark c (fun a => pa ≤ a && a < pa + n)
      else s) s
/-- One atomic step at the place of R344: the old value and the state after. A value that does not change is not written. Beyond a port it
executes behind the writes that were posted there (R437). -/
def State.rmw (s : State) (k : Nat) (sm : Byte) (ph : BitVec 2) (pa n : Nat) (f : Nat → Option Nat) : Nat × State :=
  let core := s.coreOf k
  let line := pa / 128
  if maskNear sm && !isWindow pa then
    let s := s.ownLine k core line
    let old := s.coreView core pa n
    let s := s.heed k core pa n old
    match f old with
    | none => (old, s)
    | some x =>
      let t := (s.store k maskCO ph pa n x).keepChain s (some core) core pa n old
      (old, { t with order := { t.order with near := addNew t.order.near ((List.range n).map (fun i => (core, pa + i))) } })
  else if isWindow pa then
    let s := s.emptyPort (windowPort pa)
    let old := s.homeRead pa n
    match f old with
    | none => (old, s)
    | some x => (old, (s.homeStore k netRequest line (elemBytes pa n x)).emptyPort (windowPort pa))
  else
    let s := (((s.recall core line).writeBackL1 core line).dropL1 core line).disown core line
    let s := if ph == 1 then s.pinLine (s.viOf k) line else s
    let s := s.touchHome (s.viOf k) pa
    let old := s.homeRead pa n
    let s := s.heed k core pa n old
    match f old with
    | none => (old, s.request line (fieldOfCore core) (ph == 2))
    | some x => (old, ((s.homeStore k netRequest line (elemBytes pa n x) (ph == 2)).keepChain s none core pa n old).race pa n)
/-- An atomic waits on a staged update of its line, or of every line in the full table that it needs an entry of (R216, R345). -/
def State.rmwWaits (s : State) (core : Nat) (sm : Byte) (pa : Nat) : Bool :=
  let os := (s.clusterAt (clusterOf core)).owners
  (s.stagedLine (pa / 128) && (!maskNear sm || tfind (pa / 128) os != some core))
    || (maskNear sm && !isWindow pa && (tfind (pa / 128) os).isNone && decide (256 ≤ os.length) && os.all (fun x => s.stagedLine x.1))

/-! ### Writes with the side log (R255-R257) -/

/-- An element to write: thread, address, bytes, data. -/
abbrev Elem := Nat × Nat × Nat × Nat
/-- One element performed: a store, one application of a `red`, or a line of `zero`. -/
def State.applyElem (s : State) (k : Nat) (op : Option (BitVec 3 × BitVec 5)) (sm : Byte) (ph : BitVec 2) (pa n x : Nat) : State :=
  match op with
  | none => if n = 128 then s.zeroLine k (pa / 128) else s.store k sm ph pa n x
  | some (o, ty) => (s.rmw k sm ph pa n (fun old => some (atomOp o.toNat ty.toNat old x))).2
/-- An element waits on a staged update. -/
def State.elemWaits (s : State) (k : Nat) (op : Option (BitVec 3 × BitVec 5)) (sm : Byte) (pa n : Nat) : Bool :=
  match op with
  | none => if n = 128 then s.stagedLine (pa / 128) else s.storeWaits sm pa
  | some _ => s.rmwWaits (s.coreOf k) sm pa
/-- The side log of a core has 64 entries (R254). -/
def sideLogSize : Nat := 64
/-- Adds a side-log entry for a faulting page. -/
def State.logPage (s : State) (k : Nat) (uni : Bool) (op : Option (BitVec 3 × BitVec 5)) (sm : Byte) (ph : BitVec 2)
    (es : List Elem) (p : Nat × Nat × Nat × List Nat) : State :=
  let (id, s) := s.postPage (s.viOf k) p.2.2.1 p.2.1
  let core := s.coreOf k
  let c := s.coreAt core
  s.setCore core { c with slog := c.slog ++ [{
    stand := k
    page := p.1
    cause := p.2.1
    elems := (es.filter (fun e => pageOf e.2.1 == p.1)).map (fun e => ⟨e.1, e.2.1, e.2.2.1, BitVec.ofNat 64 e.2.2.2⟩)
    op := op
    sm := sm
    ph := ph
    uni := uni
    req := id
    word := (s.standAt k).issues }] }
/-- A plain store or `red` (R255): `pop` takes its channel entries once it is performed. -/
def State.writeElems (s : State) (i : Instr) (uni : Bool) (es : List Elem) (sm : Byte) (ph : BitVec 2)
    (op : Option (BitVec 3 × BitVec 5)) (pop : State → State) : Eff :=
  let k := s.cur
  let akind := if op.isSome then 3 else 2
  let xs := es.map (fun e => (e.1, e.2.1))
  let ys := s.xlateAll k .write xs
  match immediate ys with
  | some (c, va, ts) => .trap (accessTrap i uni 3 c va akind false sm ts)
  | none =>
    if s.pageLogged (s.coreOf k) xs || s.me.fenceM.isSome then .stay s
    else
      let ps := faultPages ys
      if sideLogSize - (s.coreAt (s.coreOf k)).slog.length < ps.length then .stay (s.holdPages k i uni akind sm ps)
      else
        let work := (es.zip ys).filterMap (fun e => match e.2.2.2 with | .ok (pa, _) => some (pa, e.1.2.2) | .fault _ => none)
        if work.any (fun w => s.elemWaits k op sm w.1 w.2.1) then .stay (s.holdWord (work.map (fun w => w.1 / 128)))
        else
          let s := work.foldl (fun s w => s.applyElem k op sm ph w.1 w.2.1 w.2.2) ((pop s).keepTlb k ys)
          .done (ps.foldl (fun s p => s.logPage k uni op sm ph es p) s)

/-- A side-log entry is removed. -/
def State.dropLog (s : State) (core : Nat) (e : LogEntry) : State :=
  let c := s.coreAt core
  s.setCore core { c with slog := c.slog.erase e }
/-- An entry whose elements are to be discarded with a cause: its trap joins the stand's queue, or the entry waits for room there
with req 0 (R257, R397). -/
def State.discardLog (s : State) (core : Nat) (e : LogEntry) (cause : Nat) : State :=
  if s.deferRoom e.stand then
    let r : TrapReq := ⟨3, BitVec.ofNat 8 cause, BitVec.ofNat 64 ((e.elems.map (fun x => x.va)).headD 0), e.sm,
      if e.op.isSome then 3 else 2, false, faultMask e.uni (e.elems.map (fun x => x.thread)), 0, BitVec.ofNat 64 e.elems.length⟩
    let s := s.dropLog core e
    if (s.standAt e.stand).life = .live ∨ (s.standAt e.stand).life = .ending ∨ (s.standAt e.stand).life = .halted then
      s.deferTrap e.stand r
    else s
  else
    let c := s.coreAt core
    s.setCore core { c with slog := c.slog.map (fun x => if x = e then { e with req := 0, cause := cause } else x) }
/-- An entry whose page request was answered MAP is translated again and replayed (R256, R257, R448); what must wait for a staged update is
replayed after its commit, until when the entry has request 0 and cause 0 (R216). -/
def State.replayLog (s : State) (core : Nat) (e : LogEntry) : State :=
  match s.xlate (copseOf e.stand) .write (65536 * e.page) with
  | .ok (pa, _) =>
    if e.elems.any (fun x => s.elemWaits e.stand e.op e.sm (pa + x.va % 65536) x.len) then
      let co := s.coreAt core
      (s.setCore core { co with slog := co.slog.map (fun x => if x = e then { e with req := 0, cause := 0 } else x) }).holdAt
        (.log core e.stand e.word e.page) (e.elems.map (fun x => (pa + x.va % 65536) / 128))
    else (e.elems.foldl (fun s x => s.applyElem e.stand e.op e.sm e.ph (pa + x.va % 65536) x.len x.data.toNat) s).dropLog core e
  | .fault c =>
    if c = 2 ∨ c = 3 then
      let (id, s) := s.postPage (s.viOf e.stand) ((e.elems.map (fun x => x.va)).headD 0) c
      let co := s.coreAt core
      s.setCore core { co with slog := co.slog.map (fun x => if x = e then { e with req := id, cause := c } else x) }
    else s.discardLog core e c
/-- Entries that wait for room in a stand's queue are discarded once there is room (R397); those that waited for a commit are replayed. -/
def State.settleLog (s : State) (k : Nat) : State :=
  let core := s.coreOf k
  ((s.coreAt core).slog.filter (fun e => e.stand == k && e.req == 0)).foldl (fun s e =>
    if e.cause = 0 then s.replayLog core e else s.discardLog core e e.cause) s

/-! ### Loads -/

/-- The elements of one thread: keys 4 thread + element. -/
def State.loadElems (s : State) (k : Nat) (sm : Byte) (ph : BitVec 2) (t pa e : Nat) : List Nat → Tbl Nat × State
  | [] => ([], s)
  | i :: r =>
    let (v, s) := s.load k sm ph (pa + i * e) e
    let (vs, s) := s.loadElems k sm ph t pa e r
    ((4 * t + i, v) :: vs, s)
/-- The elements of all threads, in ascending lane order. -/
def State.loadAll (s : State) (k : Nat) (sm : Byte) (ph : BitVec 2) (e n : Nat) : List (Nat × Nat × Nat) → Tbl Nat × State
  | [] => ([], s)
  | (t, _, pa) :: r =>
    let (vs, s) := s.loadElems k sm ph t pa e (List.range n)
    let (ws, s) := s.loadAll k sm ph e n r
    (vs ++ ws, s)

/-- What the constant cache may return for n bytes (R268): the home copy, what has been written to a core's L1 and not yet gone home, or any
contents since the launch started. -/
def State.constView (s : State) (k pa n : Nat) : List Nat :=
  let l := s.launchAt (s.copseAt (copseOf k)).launch
  let olds := ((s.past.take (s.past.length - l.since)).filter (fun e => e.1 == pa / 128)).map (fun e => memRead e.2 (pa % 128) n)
  let inL1 := (s.cores.filter (fun c => c.2.l1.any (fun e => e.1 == pa / 128 && e.2.dirty != 0))).map (fun c =>
    memRead (s.dirtyView c.1 (pa / 128)) (pa % 128) n)
  distinct (s.homeRead pa n :: (inL1 ++ olds))
/-- One element of `ld.c`. -/
def State.loadConst (s : State) (k pa n : Nat) : Nat × State :=
  match s.constView k pa n with
  | [x] => (x, s.touchHome (s.viOf k) pa)
  | xs =>
    let (j, s) := s.pick xs.length
    ((xs[j]?).getD 0, s.touchHome (s.viOf k) pa)
def State.constElems (s : State) (k t pa e : Nat) : List Nat → Tbl Nat × State
  | [] => ([], s)
  | i :: r =>
    let (v, s) := s.loadConst k (pa + i * e) e
    let (vs, s) := s.constElems k t pa e r
    ((4 * t + i, v) :: vs, s)
def State.constAll (s : State) (k e n : Nat) : List (Nat × Nat × Nat) → Tbl Nat × State
  | [] => ([], s)
  | (t, _, pa) :: r =>
    let (vs, s) := s.constElems k t pa e (List.range n)
    let (ws, s) := s.constAll k e n r
    (vs ++ ws, s)

/-! ### Scratchpad accesses (R252, R253, R261, R353) -/

/-- The lines that accesses of n bytes meet. -/
def linesMet (size : Nat) (xs : List (Nat × Nat)) : List Nat := distinct (xs.flatMap (fun x => linesOf x.2 size))
/-- A stand touches a line: an untouched line of a region raises its fill, and a stand that finds a fill in flight takes the trap of
its denial (R261). -/
def State.touchBy (s : State) (k : Nat) (i : Instr) (uni : Bool) (ts : List Nat) (l : Nat) : State :=
  let copse := copseOf k
  let s := s.touchLine copse l
  let c := s.copseAt copse
  match c.fills.find? (fun x => x.line == l && x.wb == none), c.regionOf l with
  | some x, some (_, r) =>
    if (c.lineAt l).full || x.stands.any (fun y => y.1 == k && y.2.1 == (s.standAt k).pc) then s
    else
      let t := accessTrap i uni 3 6 (r.va + (128 * l - r.soff)) 7 false r.mask ts
      s.setCopse copse { c with fills := c.fills.map (fun y => if y = x then { x with stands := x.stands ++ [(k, (s.standAt k).pc, t)] } else y) }
  | _, _ => s
/-- Scratchpad accesses of a stand that have passed the MEM checks: a write to a barrier-marked line traps, empty lines hold the
stand until they are full. -/
def State.scratchReach (s : State) (i : Instr) (uni write : Bool) (akind size : Nat) (xs : List (Nat × Nat)) : Reach :=
  let k := s.cur
  let c := s.myCopse
  let bad := if write then xs.filter (fun x => c.linesMarked (linesOf x.2 size)) else []
  match bad with
  | b :: _ => .trap (accessTrap i uni 5 1 b.2 akind true 0 (bad.map Prod.fst))
  | [] =>
    let ls := linesMet size xs
    let s := ls.foldl (fun s l => s.touchBy k i uni (xs.map Prod.fst) l) s
    if s.myCopse.linesFull ls then .go s (xs.map (fun x => (x.1, x.2, x.2))) else .wait s

end Sys2Proof.Machine
end

