-- ==== Sys2Proof/Machine/Integer.lean ====
section
/-! DEFINITION. Classes 0x2 and 0x3: integer, bit, address, lane-exchange and predicate instructions (spec/06 R141-R158). Values are
naturals below 2^W; `tyVal` reads one under its type. -/

namespace Sys2Proof.Machine

/-! ### What each operation computes -/

/-- Truncated to the width of a type. -/
def cut (ty : Nat) (x : Int) : Nat := wrap (tyBits ty) x
/-- Sat of R141. -/
def cutSat (sat : Bool) (ty : Nat) (x : Int) : Nat := cut ty (if sat then satInt ty x else x)
/-- Add, subtract and multiply (R146). -/
def intAdd (sat : Bool) (ty a b : Nat) : Nat := cutSat sat ty (tyVal ty a + tyVal ty b)
def intSub (sat : Bool) (ty a b : Nat) : Nat := cutSat sat ty (tyVal ty a - tyVal ty b)
def intMulLo (ty a b : Nat) : Nat := cut ty (tyVal ty a * tyVal ty b)
def intMulHi (ty a b : Nat) : Nat := cut ty ((tyVal ty a * tyVal ty b) / 2 ^ tyBits ty)
/-- `min` and `max` (R148). -/
def intMin (ty a b : Nat) : Nat := if tyVal ty b < tyVal ty a then b % 2 ^ tyBits ty else a % 2 ^ tyBits ty
def intMax (ty a b : Nat) : Nat := if tyVal ty a < tyVal ty b then b % 2 ^ tyBits ty else a % 2 ^ tyBits ty
def intAbs (sat : Bool) (ty a : Nat) : Nat := cutSat sat ty (tyVal ty a).natAbs
def intNeg (sat : Bool) (ty a : Nat) : Nat := cutSat sat ty (-tyVal ty a)
/-- Complement (R149). -/
def intNot (ty a : Nat) : Nat := 2 ^ tyBits ty - 1 - a % 2 ^ tyBits ty
/-- Shifts and rotation of W-bit values by a count (R149). -/
def shlN (w a n : Nat) : Nat := if n < w then a * 2 ^ n % 2 ^ w else 0
def shrN (w a n : Nat) : Nat := if n < w then a % 2 ^ w / 2 ^ n else 0
def sarN (w a n : Nat) : Nat := wrap w (sextNat w a / (2 ^ (minN n w) : Nat))
def rotN (w a n : Nat) : Nat :=
  let k := n % w
  (a * 2 ^ k % 2 ^ w) ||| (a % 2 ^ w / 2 ^ (w - k))
/-- Field extraction and insertion (R150). -/
def bfeN (ty a d : Nat) : Nat :=
  let w := tyBits ty
  let pos := bits d 7 0
  let len := bits d 15 8
  if w ≤ pos ∨ len = 0 then 0
  else
    let len := minN len (w - pos)
    let x := a / 2 ^ pos % 2 ^ len
    if tyI ty then cut ty (sextNat len x) else x
def bfiN (w a b d : Nat) : Nat :=
  let pos := bits d 7 0
  let len := bits d 15 8
  if w ≤ pos ∨ len = 0 then b
  else
    let len := minN len (w - pos)
    b - b / 2 ^ pos % 2 ^ len * 2 ^ pos + a % 2 ^ len * 2 ^ pos
/-- Counts and reversal (R151). -/
def popcN (w a : Nat) : Nat := popCount a w
def clzN (w a : Nat) : Nat := w - bitLen (a % 2 ^ w) w
def ctzN (w a : Nat) : Nat := ((List.range w).findIdx? (fun i => bitAt a i)).getD w
def brevN (w a : Nat) : Nat := ((List.range w).map (fun i => if bitAt a i then 2 ^ (w - 1 - i) else 0)).foldl (· + ·) 0
/-- The conditions of MOD (R152). -/
def cmpN (c ty a b : Nat) : Bool :=
  let x := tyVal ty a
  let y := tyVal ty b
  if c = 0 then x == y else if c = 1 then x != y else if c = 2 then decide (x < y) else decide (x ≤ y)
/-- The condition codes of the immediate form (R145) on W-bit values. -/
def cmpCode (w cc a imm : Nat) : Bool :=
  let sx := sextNat 16 imm
  let sa := sextNat w a
  if cc = 0 then a == wrap w sx else if cc = 1 then a != wrap w sx
  else if cc = 2 then decide (sa < sx) else if cc = 3 then decide (sa ≤ sx)
  else if cc = 4 then decide (sx < sa) else if cc = 5 then decide (sx ≤ sa)
  else if cc = 6 then decide (a < imm) else if cc = 7 then decide (a ≤ imm)
  else if cc = 8 then decide (imm < a) else decide (imm ≤ a)
/-- The thread that `shfl` reads (R156); none keeps the thread's own value. -/
def shflFrom (m w t k : Nat) : Option Nat :=
  let base := t - t % w
  if m = 0 then some (base + k % w)
  else if m = 1 then (if w ≤ k ∨ t < base + k then none else some (t - k))
  else if m = 2 then (if w ≤ k ∨ base + w ≤ t + k then none else some (t + k))
  else some (t ^^^ (k % w))
/-- `perm` (R157). -/
def permN (a b c : Nat) : Nat :=
  let ba := a % 2 ^ 32 + b % 2 ^ 32 * 2 ^ 32
  ((List.range 4).map (fun i =>
    let n := c / 16 ^ i % 16
    if 8 ≤ n then 0 else ba / 256 ^ n % 256 * 256 ^ i)).foldl (· + ·) 0

/-! ### Forms -/

/-- Integer types, and those of 32 and 64 bits (R142). -/
def anyInt (ty : Nat) : Bool := ty ≤ 0xB
def numInt (ty : Nat) : Bool := ty ≤ 7
def wordInt (ty : Nat) : Bool := anyInt ty && (tyBits ty == 32 || tyBits ty == 64)
/-- The i-th source of a thread. -/
def srcN (vs : List Src) (i t : Nat) : Nat := ((vs[i]?).getD (fun _ => 0) t).toNat
/-- A result of a type, extended (R34). -/
def outTy (ty x : Nat) : Word64 := BitVec.ofNat 64 (extend ty 64 x)
/-- A count or descriptor operand: 32 bits whatever TY is (R149, R150, log 13). -/
def Role.count (chan : Bool) : Role := .src 1 1 false chan

/-- A word whose result in each thread is a function of its sources there: fields with their width of 64 bits or not. -/
def mapWord (h : Head) (srcs : List (Opd × Bool)) (dst : Opd) (ty : Nat) (g : List Src → Nat → Nat) (s : State) : Eff :=
  let (vs, s) := s.srcs s.cur h.uni srcs
  s.now (outVals h.uni (s.me.part h) dst (tyBits ty == 64) (fun t => outTy ty (g vs t)))

/-- Two sources of the type (R141). -/
def binForm (f : A64) (ok md : Bool) : Form :=
  let w := tyBits f.ty.toNat
  { h := f.h, ops := [(f.sa, .val w), (f.sb, .val w), (f.dst, .out w)], bad := [badTy ok, mustZero md], weight := 1 }
def binBody (f : A64) (g : Nat → Nat → Nat → Nat) : State → Eff :=
  let ty := f.ty.toNat
  let w := tyBits ty == 64
  mapWord f.h [(f.sa, w), (f.sb, w)] f.dst ty (fun vs t => g ty (srcN vs 0 t) (srcN vs 1 t))
/-- One source; SB is zero. -/
def unForm (f : A64) (ok md : Bool) : Form :=
  let w := tyBits f.ty.toNat
  { h := f.h, ops := [(f.sa, .val w), (f.sb, .none), (f.dst, .out w)], bad := [badTy ok, mustZero md], weight := 1 }
def unBody (f : A64) (g : Nat → Nat → Nat) : State → Eff :=
  let ty := f.ty.toNat
  mapWord f.h [(f.sa, tyBits ty == 64)] f.dst ty (fun vs t => g ty (srcN vs 0 t))
/-- A shift: the count is SB's low 32 bits (R149). -/
def shiftForm (f : A64) : Form :=
  let w := tyBits f.ty.toNat
  { h := f.h, ops := [(f.sa, .val w), (f.sb, .count true), (f.dst, .out w)], bad := [badTy (anyInt f.ty.toNat), mustZero (f.md == 0)],
    weight := 1 }
def shiftBody (f : A64) (g : Nat → Nat → Nat → Nat) : State → Eff :=
  let ty := f.ty.toNat
  mapWord f.h [(f.sa, tyBits ty == 64), (f.sb, false)] f.dst ty (fun vs t => g (tyBits ty) (srcN vs 0 t) (srcN vs 1 t % 2 ^ 32))

/-! ### Register forms -/

def formAdd (f : A64) : Form := binForm f (anyInt f.ty.toNat) (f.md == 0 || (f.md == 1 && !tyB f.ty.toNat))
def bodyAdd (f : A64) : State → Eff := binBody f (intAdd (f.md == 1))
def execAdd (f : A64) (s : State) : Host.Outcome State Fault Refusal := word (.add f) (formAdd f) (bodyAdd f) s
def formSub (f : A64) : Form := binForm f (anyInt f.ty.toNat) (f.md == 0 || (f.md == 1 && !tyB f.ty.toNat))
def bodySub (f : A64) : State → Eff := binBody f (intSub (f.md == 1))
def execSub (f : A64) (s : State) : Host.Outcome State Fault Refusal := word (.sub f) (formSub f) (bodySub f) s
def formMulLo (f : A64) : Form := binForm f (anyInt f.ty.toNat) (f.md == 0)
def bodyMulLo (f : A64) : State → Eff := binBody f intMulLo
def execMulLo (f : A64) (s : State) : Host.Outcome State Fault Refusal := word (.mulLo f) (formMulLo f) (bodyMulLo f) s
def formMulHi (f : A64) : Form := binForm f (numInt f.ty.toNat) (f.md == 0)
def bodyMulHi (f : A64) : State → Eff := binBody f intMulHi
def execMulHi (f : A64) (s : State) : Host.Outcome State Fault Refusal := word (.mulHi f) (formMulHi f) (bodyMulHi f) s
def formMin (f : A64) : Form := binForm f (numInt f.ty.toNat) (f.md == 0)
def bodyMin (f : A64) : State → Eff := binBody f intMin
def execMin (f : A64) (s : State) : Host.Outcome State Fault Refusal := word (.min f) (formMin f) (bodyMin f) s
def formMax (f : A64) : Form := binForm f (numInt f.ty.toNat) (f.md == 0)
def bodyMax (f : A64) : State → Eff := binBody f intMax
def execMax (f : A64) (s : State) : Host.Outcome State Fault Refusal := word (.max f) (formMax f) (bodyMax f) s
def formAbs (f : A64) : Form := unForm f (tyI f.ty.toNat) (f.md == 0 || f.md == 1)
def bodyAbs (f : A64) : State → Eff := unBody f (intAbs (f.md == 1))
def execAbs (f : A64) (s : State) : Host.Outcome State Fault Refusal := word (.abs f) (formAbs f) (bodyAbs f) s
def formNeg (f : A64) : Form := unForm f (tyI f.ty.toNat) (f.md == 0 || f.md == 1)
def bodyNeg (f : A64) : State → Eff := unBody f (intNeg (f.md == 1))
def execNeg (f : A64) (s : State) : Host.Outcome State Fault Refusal := word (.neg f) (formNeg f) (bodyNeg f) s
def formAnd (f : A64) : Form := binForm f (anyInt f.ty.toNat) (f.md == 0)
def bodyAnd (f : A64) : State → Eff := binBody f (fun _ a b => a &&& b)
def execAnd (f : A64) (s : State) : Host.Outcome State Fault Refusal := word (.and f) (formAnd f) (bodyAnd f) s
def formOr (f : A64) : Form := binForm f (anyInt f.ty.toNat) (f.md == 0)
def bodyOr (f : A64) : State → Eff := binBody f (fun _ a b => a ||| b)
def execOr (f : A64) (s : State) : Host.Outcome State Fault Refusal := word (.or f) (formOr f) (bodyOr f) s
def formXor (f : A64) : Form := binForm f (anyInt f.ty.toNat) (f.md == 0)
def bodyXor (f : A64) : State → Eff := binBody f (fun _ a b => a ^^^ b)
def execXor (f : A64) (s : State) : Host.Outcome State Fault Refusal := word (.xor f) (formXor f) (bodyXor f) s
def formNot (f : A64) : Form := unForm f (anyInt f.ty.toNat) (f.md == 0)
def bodyNot (f : A64) : State → Eff := unBody f intNot
def execNot (f : A64) (s : State) : Host.Outcome State Fault Refusal := word (.not f) (formNot f) (bodyNot f) s
def formShl (f : A64) : Form := shiftForm f
def bodyShl (f : A64) : State → Eff := shiftBody f shlN
def execShl (f : A64) (s : State) : Host.Outcome State Fault Refusal := word (.shl f) (formShl f) (bodyShl f) s
def formShr (f : A64) : Form := shiftForm f
def bodyShr (f : A64) : State → Eff := shiftBody f shrN
def execShr (f : A64) (s : State) : Host.Outcome State Fault Refusal := word (.shr f) (formShr f) (bodyShr f) s
def formSar (f : A64) : Form := shiftForm f
def bodySar (f : A64) : State → Eff := shiftBody f sarN
def execSar (f : A64) (s : State) : Host.Outcome State Fault Refusal := word (.sar f) (formSar f) (bodySar f) s
def formRot (f : A64) : Form := shiftForm f
def bodyRot (f : A64) : State → Eff := shiftBody f rotN
def execRot (f : A64) (s : State) : Host.Outcome State Fault Refusal := word (.rot f) (formRot f) (bodyRot f) s
def formPopc (f : A64) : Form := unForm f (wordInt f.ty.toNat) (f.md == 0)
def bodyPopc (f : A64) : State → Eff := unBody f (fun ty a => popcN (tyBits ty) a)
def execPopc (f : A64) (s : State) : Host.Outcome State Fault Refusal := word (.popc f) (formPopc f) (bodyPopc f) s
def formClz (f : A64) : Form := unForm f (wordInt f.ty.toNat) (f.md == 0)
def bodyClz (f : A64) : State → Eff := unBody f (fun ty a => clzN (tyBits ty) a)
def execClz (f : A64) (s : State) : Host.Outcome State Fault Refusal := word (.clz f) (formClz f) (bodyClz f) s
def formCtz (f : A64) : Form := unForm f (wordInt f.ty.toNat) (f.md == 0)
def bodyCtz (f : A64) : State → Eff := unBody f (fun ty a => ctzN (tyBits ty) a)
def execCtz (f : A64) (s : State) : Host.Outcome State Fault Refusal := word (.ctz f) (formCtz f) (bodyCtz f) s
def formBrev (f : A64) : Form := unForm f (wordInt f.ty.toNat) (f.md == 0)
def bodyBrev (f : A64) : State → Eff := unBody f (fun ty a => brevN (tyBits ty) a)
def execBrev (f : A64) (s : State) : Host.Outcome State Fault Refusal := word (.brev f) (formBrev f) (bodyBrev f) s

/-- `addc` and `subc` (R146): the carry predicate is p4-p6 or q0-q2. -/
def carryForm (f : A64) : Form :=
  let ty := f.ty.toNat
  let w := tyBits ty
  let c : Opd × Role := if f.h.uni then (⟨BitVec.ofNat 8 f.md.toNat, false, false, false⟩, .qreg)
    else (⟨BitVec.ofNat 8 (4 + f.md.toNat), false, false, false⟩, .preg)
  { h := f.h, ops := [(f.sa, .val w), (f.sb, .val w), (f.dst, .out w), c],
    bad := [badTy (wordInt ty && !tyI ty), mustZero (f.md != 3)], weight := 1 }
def carryBody (f : A64) (sub : Bool) (s : State) : Eff :=
  let ty := f.ty.toNat
  let w := tyBits ty
  let u := f.h.uni
  let cin (t : Nat) : Int := if u then (if s.me.qval f.md.toNat then 1 else 0)
    else (if (s.me.pval (4 + f.md.toNat)).getLsbD t then 1 else 0)
  let (vs, s) := s.srcs s.cur u [(f.sa, w == 64), (f.sb, w == 64)]
  let a (t : Nat) : Int := (srcN vs 0 t % 2 ^ w : Nat)
  let b (t : Nat) : Int := (srcN vs 1 t % 2 ^ w : Nat)
  let x (t : Nat) : Int := if sub then a t - b t - cin t else a t + b t + cin t
  let p := s.me.part f.h
  let n := if u then f.md.toNat else 4 + f.md.toNat
  s.now ((outVals u p f.dst (w == 64) (fun t => outTy ty (wrap w (x t)))).both
    (outPred u p n (fun t => if sub then decide (x t < 0) else decide ((2 ^ w : Nat) ≤ x t))))
def formAddc (f : A64) : Form := carryForm f
def bodyAddc (f : A64) : State → Eff := carryBody f false
def execAddc (f : A64) (s : State) : Host.Outcome State Fault Refusal := word (.addc f) (formAddc f) (bodyAddc f) s
def formSubc (f : A64) : Form := carryForm f
def bodySubc (f : A64) : State → Eff := carryBody f true
def execSubc (f : A64) (s : State) : Host.Outcome State Fault Refusal := word (.subc f) (formSubc f) (bodySubc f) s

/-- `cmp` (R152). -/
def formCmp (f : A64) : Form :=
  let ty := f.ty.toNat
  let w := tyBits ty
  { h := f.h, ops := [(f.sa, .val w), (f.sb, .val w), (f.dst, .pred)],
    bad := [badTy (anyInt ty && !(tyB ty && 2 ≤ f.md.toNat))], weight := 1 }
def bodyCmp (f : A64) (s : State) : Eff :=
  let w := tyBits f.ty.toNat == 64
  let (vs, s) := s.srcs s.cur f.h.uni [(f.sa, w), (f.sb, w)]
  s.now (outPred f.h.uni (s.me.part f.h) f.dst.num.toNat (fun t => cmpN f.md.toNat f.ty.toNat (srcN vs 0 t) (srcN vs 1 t)))
def execCmp (f : A64) (s : State) : Host.Outcome State Fault Refusal := word (.cmp f) (formCmp f) (bodyCmp f) s

/-- `mov` (R153). A MOD that names neither form is ILL cause 0x04. -/
def formMov (f : A64) : Form := unForm f (anyInt f.ty.toNat) (f.md == 0)
def bodyMov (f : A64) : State → Eff := unBody f (fun _ a => a)
def execMov (f : A64) (s : State) : Host.Outcome State Fault Refusal := word (.mov f) (formMov f) (bodyMov f) s
/-- `mov.first` (R153): the destination is uniform. -/
def formMovFirst (f : A64) : Form :=
  { h := f.h, ops := [(f.sa, .val (tyBits f.ty.toNat)), (f.sb, .none), (f.dst, .udst 1)],
    bad := [badTy (anyInt f.ty.toNat), mustZero (f.md == 1 && !f.h.uni)], weight := 1 }
def bodyMovFirst (f : A64) (s : State) : Eff :=
  let ty := f.ty.toNat
  let (vs, s) := s.srcs s.cur false [(f.sa, tyBits ty == 64)]
  let p := s.me.part f.h
  s.now (if p = 0 then Pend.empty
    else { Pend.empty with sw := [(f.dst.num.toNat, BitVec.ofNat 64 (srcN vs 0 (lowLane p) % 2 ^ tyBits ty))] })
def execMovFirst (f : A64) (s : State) : Host.Outcome State Fault Refusal := word (.movFirst f) (formMovFirst f) (bodyMovFirst f) s

/-- `pand`, `por`, `pxor`, `pnot` (R158). -/
def predForm (f : A64) (sb : Role) (md : Bool) : Form :=
  { h := f.h, ops := [(f.sa, .pred), (f.sb, sb), (f.dst, .pred)], bad := [badTy (f.ty == 0), mustZero md], weight := 1 }
/-- A predicate source by thread. -/
def State.predSrc (s : State) (uni : Bool) (o : Opd) (t : Nat) : Bool :=
  if uni then s.me.qval o.num.toNat else (s.me.pval o.num.toNat).getLsbD t
def predBody (f : A64) (g : Bool → Bool → Bool) (s : State) : Eff :=
  s.now (outPred f.h.uni (s.me.part f.h) f.dst.num.toNat (fun t =>
    g (s.predSrc f.h.uni f.sa t != f.md.getLsbD 0) (s.predSrc f.h.uni f.sb t != f.md.getLsbD 1)))
def formPand (f : A64) : Form := predForm f .pred true
def bodyPand (f : A64) : State → Eff := predBody f (fun a b => a && b)
def execPand (f : A64) (s : State) : Host.Outcome State Fault Refusal := word (.pand f) (formPand f) (bodyPand f) s
def formPor (f : A64) : Form := predForm f .pred true
def bodyPor (f : A64) : State → Eff := predBody f (fun a b => a || b)
def execPor (f : A64) (s : State) : Host.Outcome State Fault Refusal := word (.por f) (formPor f) (bodyPor f) s
def formPxor (f : A64) : Form := predForm f .pred true
def bodyPxor (f : A64) : State → Eff := predBody f (fun a b => a != b)
def execPxor (f : A64) (s : State) : Host.Outcome State Fault Refusal := word (.pxor f) (formPxor f) (bodyPxor f) s
def formPnot (f : A64) : Form := predForm f .none (f.md == 0)
def bodyPnot (f : A64) : State → Eff := predBody f (fun a _ => !a)
def execPnot (f : A64) (s : State) : Host.Outcome State Fault Refusal := word (.pnot f) (formPnot f) (bodyPnot f) s

/-! ### T96 forms -/

/-- A T96 form of one type, with IMM and MOD as given (R141, R142). -/
def triForm (f : T96) (ops : List (Opd × Role)) (ok md : Bool) : Form :=
  { h := f.h, ops := ops, bad := [badTy (ok && f.tyd == f.tys), mustZero md], weight := 1 }
/-- `mad` (R147). -/
def formMad (f : T96) : Form :=
  let ty := f.tyd.toNat
  let w := tyBits ty
  triForm f [(f.sa, .val w), (f.sb, .val w), (f.sc, .val w), (f.dst, .out w)] (anyInt ty) (f.md == 0 && f.imm == 0)
def bodyMad (f : T96) : State → Eff :=
  let ty := f.tyd.toNat
  let w := tyBits ty
  mapWord f.h [(f.sa, w == 64), (f.sb, w == 64), (f.sc, w == 64)] f.dst ty
    (fun vs t => cut ty (tyVal ty (srcN vs 0 t) * tyVal ty (srcN vs 1 t) + tyVal ty (srcN vs 2 t)))
def execMad (f : T96) (s : State) : Host.Outcome State Fault Refusal := word (.mad f) (formMad f) (bodyMad f) s
/-- `mad.wide` (R147): TYD is twice as wide as TYS, of the same signedness. -/
def wideTypes (d s : Nat) : Bool := (s == 1 && d == 2) || (s == 5 && d == 6) || (s == 2 && d == 3) || (s == 6 && d == 7)
def formMadWide (f : T96) : Form :=
  let td := f.tyd.toNat
  let ts := f.tys.toNat
  let wd := tyBits td
  { h := f.h, ops := [(f.sa, .val (tyBits ts)), (f.sb, .val (tyBits ts)), (f.sc, .val wd), (f.dst, .out wd)],
                       bad := [badTy (wideTypes td ts), mustZero (f.md == 0 && f.imm == 0)], weight := 1 }
def bodyMadWide (f : T96) : State → Eff :=
  let td := f.tyd.toNat
  let ts := f.tys.toNat
  let wd := tyBits td
  mapWord f.h [(f.sa, false), (f.sb, false), (f.sc, wd == 64)] f.dst td
    (fun vs t => cut td (tyVal ts (srcN vs 0 t) * tyVal ts (srcN vs 1 t) + tyVal td (srcN vs 2 t)))
def execMadWide (f : T96) (s : State) : Host.Outcome State Fault Refusal := word (.madWide f) (formMadWide f) (bodyMadWide f) s
/-- `bfe` and `bfi` (R150). -/
def formBfe (f : T96) : Form :=
  let ty := f.tyd.toNat
  let w := tyBits ty
  triForm f [(f.sa, .val w), (f.sb, .none), (f.sc, .count false), (f.dst, .out w)] (wordInt ty) (f.md == 0 && f.imm == 0)
def bodyBfe (f : T96) : State → Eff :=
  let ty := f.tyd.toNat
  let w := tyBits ty
  mapWord f.h [(f.sa, w == 64), (f.sc, false)] f.dst ty (fun vs t => bfeN ty (srcN vs 0 t) (srcN vs 1 t))
def execBfe (f : T96) (s : State) : Host.Outcome State Fault Refusal := word (.bfe f) (formBfe f) (bodyBfe f) s
def formBfi (f : T96) : Form :=
  let ty := f.tyd.toNat
  let w := tyBits ty
  triForm f [(f.sa, .val w), (f.sb, .val w), (f.sc, .count false), (f.dst, .out w)] (wordInt ty) (f.md == 0 && f.imm == 0)
def bodyBfi (f : T96) : State → Eff :=
  let ty := f.tyd.toNat
  let w := tyBits ty
  mapWord f.h [(f.sa, w == 64), (f.sb, w == 64), (f.sc, false)] f.dst ty
    (fun vs t => bfiN w (srcN vs 0 t) (srcN vs 1 t % 2 ^ w) (srcN vs 2 t))
def execBfi (f : T96) (s : State) : Host.Outcome State Fault Refusal := word (.bfi f) (formBfi f) (bodyBfi f) s
/-- `sel` (R153). -/
def formSel (f : T96) : Form :=
  let ty := f.tyd.toNat
  let w := tyBits ty
  triForm f [(f.sa, .val w), (f.sb, .val w), (f.sc, .pred), (f.dst, .out w)] (anyInt ty) (f.md == 0 && f.imm == 0)
def bodySel (f : T96) (s : State) : Eff :=
  let ty := f.tyd.toNat
  let w := tyBits ty
  let c (t : Nat) : Bool := s.predSrc f.h.uni f.sc t
  mapWord f.h [(f.sa, w == 64), (f.sb, w == 64)] f.dst ty (fun vs t => if c t then srcN vs 0 t else srcN vs 1 t) s
def execSel (f : T96) (s : State) : Host.Outcome State Fault Refusal := word (.sel f) (formSel f) (bodySel f) s
/-- `lea` (R155). -/
def formLea (f : T96) : Form :=
  let ts := f.tys.toNat
  { h := f.h, ops := [(f.sa, .val 64), (f.sb, .val (tyBits ts)), (f.sc, .none), (f.dst, .out 64)],
                       bad := [badTy (f.tyd == 0xB && (ts == 2 || ts == 6 || ts == 0xB)), mustZero (f.md == 0 && f.imm.toNat < 16)],
                       weight := 1 }
def bodyLea (f : T96) : State → Eff :=
  let ts := f.tys.toNat
  mapWord f.h [(f.sa, true), (f.sb, ts == 0xB)] f.dst 0xB
    (fun vs t => wrap 64 (srcN vs 0 t + tyVal ts (srcN vs 1 t) * (2 ^ f.imm.toNat : Nat)))
def execLea (f : T96) (s : State) : Host.Outcome State Fault Refusal := word (.lea f) (formLea f) (bodyLea f) s
/-- `shfl` (R156). -/
def formShfl (f : T96) : Form :=
  let ty := f.tyd.toNat
  let w := tyBits ty
  { triForm f [(f.sa, .val w), (f.sb, .val w), (f.sc, .none), (f.dst, .out w)] (wordInt ty) (f.md.toNat ≤ 3 && f.imm.toNat < 8)
                with bad := [badTy (wordInt ty && f.tyd == f.tys), mustZero (f.md.toNat ≤ 3 && f.imm.toNat < 8), onlyVec f.h] }
def bodyShfl (f : T96) (s : State) : Eff :=
  let ty := f.tyd.toNat
  let w := tyBits ty
  let p := s.me.part f.h
  mapWord f.h [(f.sa, w == 64), (f.sb, w == 64)] f.dst ty (fun vs t =>
      match shflFrom f.md.toNat (2 ^ f.imm.toNat) t (srcN vs 1 t % 2 ^ 32) with
      | none => srcN vs 0 t
      | some j => if p.getLsbD j then srcN vs 0 j else srcN vs 0 t) s
def execShfl (f : T96) (s : State) : Host.Outcome State Fault Refusal := word (.shfl f) (formShfl f) (bodyShfl f) s
/-- `perm` (R157). -/
def formPerm (f : T96) : Form := triForm f [(f.sa, .val 32), (f.sb, .val 32), (f.sc, .val 32), (f.dst, .out 32)] (f.tyd == 0xA) (f.md == 0 && f.imm == 0)
def bodyPerm (f : T96) : State → Eff := mapWord f.h [(f.sa, false), (f.sb, false), (f.sc, false)] f.dst 0xA
    (fun vs t => permN (srcN vs 0 t) (srcN vs 1 t) (srcN vs 2 t))
def execPerm (f : T96) (s : State) : Host.Outcome State Fault Refusal := word (.perm f) (formPerm f) (bodyPerm f) s

/-! ### Immediate forms (R144, R145, R154) -/

/-- A short field names the register file of the instruction (R33). -/
def shortOpd (uni : Bool) (o : Opd) : Opd := { o with uf := uni && !o.cl }
/-- W of an immediate form, and the type that a result of it has: signed 32 or 64 bits. -/
def immTy (uni : Bool) : Nat := if uni then 3 else 2
def immForm (f : I64) (bad : List (Nat × Bool)) : Form :=
  let w := tyBits (immTy f.h.uni)
  { h := f.h, ops := [(shortOpd f.h.uni f.sa, .val w), (shortOpd f.h.uni f.dst, .out w)], bad := bad, weight := 1 }
def immBody (f : I64) (g : Nat → Nat → Nat → Nat) (imm : Nat) : State → Eff :=
  let ty := immTy f.h.uni
  mapWord f.h [(shortOpd f.h.uni f.sa, f.h.uni)] (shortOpd f.h.uni f.dst) ty (fun vs t => g ty (srcN vs 0 t) imm)
/-- The sign-extended immediate as a value of W bits. -/
def immVal (f : I64) : Nat := wrap (tyBits (immTy f.h.uni)) (sextNat 20 f.imm.toNat)
def formAddImm (f : I64) : Form := immForm f []
def bodyAddImm (f : I64) : State → Eff := immBody f (intAdd false) (immVal f)
def execAddImm (f : I64) (s : State) : Host.Outcome State Fault Refusal := word (.addImm f) (formAddImm f) (bodyAddImm f) s
def formSubImm (f : I64) : Form := immForm f []
def bodySubImm (f : I64) : State → Eff := immBody f (intSub false) (immVal f)
def execSubImm (f : I64) (s : State) : Host.Outcome State Fault Refusal := word (.subImm f) (formSubImm f) (bodySubImm f) s
def formMulLoImm (f : I64) : Form := immForm f []
def bodyMulLoImm (f : I64) : State → Eff := immBody f intMulLo (immVal f)
def execMulLoImm (f : I64) (s : State) : Host.Outcome State Fault Refusal := word (.mulLoImm f) (formMulLoImm f) (bodyMulLoImm f) s
def formMinImm (f : I64) : Form := immForm f []
def bodyMinImm (f : I64) : State → Eff := immBody f intMin (immVal f)
def execMinImm (f : I64) (s : State) : Host.Outcome State Fault Refusal := word (.minImm f) (formMinImm f) (bodyMinImm f) s
def formMaxImm (f : I64) : Form := immForm f []
def bodyMaxImm (f : I64) : State → Eff := immBody f intMax (immVal f)
def execMaxImm (f : I64) (s : State) : Host.Outcome State Fault Refusal := word (.maxImm f) (formMaxImm f) (bodyMaxImm f) s
def formAndImm (f : I64) : Form := immForm f []
def bodyAndImm (f : I64) : State → Eff := immBody f (fun _ a b => a &&& b) (immVal f)
def execAndImm (f : I64) (s : State) : Host.Outcome State Fault Refusal := word (.andImm f) (formAndImm f) (bodyAndImm f) s
def formOrImm (f : I64) : Form := immForm f []
def bodyOrImm (f : I64) : State → Eff := immBody f (fun _ a b => a ||| b) (immVal f)
def execOrImm (f : I64) (s : State) : Host.Outcome State Fault Refusal := word (.orImm f) (formOrImm f) (bodyOrImm f) s
def formXorImm (f : I64) : Form := immForm f []
def bodyXorImm (f : I64) : State → Eff := immBody f (fun _ a b => a ^^^ b) (immVal f)
def execXorImm (f : I64) (s : State) : Host.Outcome State Fault Refusal := word (.xorImm f) (formXorImm f) (bodyXorImm f) s
/-- Shifts take IMM[5:0]; the rest of IMM is zero. -/
def formShlImm (f : I64) : Form := immForm f [mustZero (f.imm.toNat < 64)]
def bodyShlImm (f : I64) : State → Eff := immBody f (fun ty a n => shlN (tyBits ty) a n) f.imm.toNat
def execShlImm (f : I64) (s : State) : Host.Outcome State Fault Refusal := word (.shlImm f) (formShlImm f) (bodyShlImm f) s
def formShrImm (f : I64) : Form := immForm f [mustZero (f.imm.toNat < 64)]
def bodyShrImm (f : I64) : State → Eff := immBody f (fun ty a n => shrN (tyBits ty) a n) f.imm.toNat
def execShrImm (f : I64) (s : State) : Host.Outcome State Fault Refusal := word (.shrImm f) (formShrImm f) (bodyShrImm f) s
def formSarImm (f : I64) : Form := immForm f [mustZero (f.imm.toNat < 64)]
def bodySarImm (f : I64) : State → Eff := immBody f (fun ty a n => sarN (tyBits ty) a n) f.imm.toNat
def execSarImm (f : I64) (s : State) : Host.Outcome State Fault Refusal := word (.sarImm f) (formSarImm f) (bodySarImm f) s
def formRotImm (f : I64) : Form := immForm f [mustZero (f.imm.toNat < 64)]
def bodyRotImm (f : I64) : State → Eff := immBody f (fun ty a n => rotN (tyBits ty) a n) f.imm.toNat
def execRotImm (f : I64) (s : State) : Host.Outcome State Fault Refusal := word (.rotImm f) (formRotImm f) (bodyRotImm f) s
/-- `cmp` with an immediate (R145). -/
def formCmpImm (f : I64) : Form :=
  let w := tyBits (immTy f.h.uni)
  let cc := f.imm.toNat / 2 ^ 16
  { h := f.h, ops := [(shortOpd f.h.uni f.sa, .val w), (f.dst, .pred)], bad := [mustZero (cc ≤ 9)], weight := 1 }
def bodyCmpImm (f : I64) (s : State) : Eff :=
  let w := tyBits (immTy f.h.uni)
  let cc := f.imm.toNat / 2 ^ 16
  let (vs, s) := s.srcs s.cur f.h.uni [(shortOpd f.h.uni f.sa, f.h.uni)]
  s.now (outPred f.h.uni (s.me.part f.h) f.dst.num.toNat (fun t => cmpCode w cc (srcN vs 0 t) (f.imm.toNat % 2 ^ 16)))
def execCmpImm (f : I64) (s : State) : Host.Outcome State Fault Refusal := word (.cmpImm f) (formCmpImm f) (bodyCmpImm f) s
/-- `movi` (R154). -/
def formMovi (f : I64) : Form := { h := f.h, ops := [(f.sa, .none), (shortOpd f.h.uni f.dst, .out (tyBits (immTy f.h.uni)))], weight := 1 }
def bodyMovi (f : I64) : State → Eff := mapWord f.h [] (shortOpd f.h.uni f.dst) (immTy f.h.uni) (fun _ _ => immVal f)
def execMovi (f : I64) (s : State) : Host.Outcome State Fault Refusal := word (.movi f) (formMovi f) (bodyMovi f) s
def formMoviW128 (f : W128) : Form :=
  let ty := if f.md.getLsbD 0 then 0xA else 0xB
  { h := f.h, ops := [(f.sa, .none), (f.sb, .none), (f.dst, .out (tyBits ty))],
                       bad := [mustZero (f.md.toNat ≤ 1 && (f.md == 0 || f.imm.toNat < 2 ^ 32))], weight := 1 }
def bodyMoviW128 (f : W128) : State → Eff :=
  let ty := if f.md.getLsbD 0 then 0xA else 0xB
  mapWord f.h [] f.dst ty (fun _ _ => f.imm.toNat)
def execMoviW128 (f : W128) (s : State) : Host.Outcome State Fault Refusal := word (.moviW128 f) (formMoviW128 f) (bodyMoviW128 f) s

end Sys2Proof.Machine
end

