-- ==== Sys2Proof/Machine/LoadStore.lean ====
section
/-! DEFINITION. Class 0x8: loads, stores, prefetch, mapped scratchpad regions and the layer step (spec/11 R259-R272). -/

namespace Sys2Proof.Machine

/-! ### Forms (R263) -/

/-- Roles of DR as destination and as source: a channel only for one element (R263, R264). -/
def M96.drOut (f : M96) : Role :=
  let e := (M96.eb f)
  .dst (if e = 8 then 2 * (M96.count f) else (M96.count f)) (M96.count f) (e == 8) (f.vc == 0)
def M96.drIn (f : M96) : Role :=
  let e := (M96.eb f)
  .src (if e = 8 then 2 * (M96.count f) else (M96.count f)) (M96.count f) (e == 8) (f.vc == 0)
/-- Role of AB. -/
def abRole (global : Bool) : Role := if global then .src 2 1 true false else .src 1 1 false false
/-- A load or store: OR is plain or the given code, which needs a mask; SM, PH as given. -/
def memForm (f : M96) (global : Bool) (dr : Role) (ord : BitVec 2) (sm ph long : Bool) : Form :=
  { h := f.h, ops := [(f.ab, abRole global), (f.dr, dr)],
    bad := [badTy (memTy f.ty.toNat),
            mustZero (sm && ph && (f.ord == 0 || (f.ord == ord && ord != 0 && f.sm != 0)) && f.vc != 3 && f.md == 0)],
    long := long, weight := 1 }

/-- The field of element i of a run of elements of e bytes. -/
def elemOpd (uni : Bool) (o : Opd) (e i : Nat) : Opd := runOpdN o (if uni || o.uf then i else if e = 8 then 2 * i else i)
where
  /-- The register n places on. -/
  runOpdN (o : Opd) (n : Nat) : Opd := { o with num := o.num + BitVec.ofNat 8 n }
/-- Results of a load. -/
def loadPend (uni : Bool) (p : Mask) (f : M96) (tbl : Tbl Nat) : Pend :=
  let ty := f.ty.toNat
  let e := (M96.eb f)
  (List.range (M96.count f)).foldl (fun o i =>
    Pend.both o (outVals uni p (elemOpd uni f.dr e i) (e == 8) (fun t => outTy ty (tget 0 tbl (4 * t + i))))) Pend.empty
/-- The elements that a store writes, and taking the channel entries they came from. -/
def State.storeElems (s : State) (f : M96) (xs : List (Nat × Nat)) : List Elem :=
  let e := (M96.eb f)
  let src (i : Nat) : Src := s.srcVal s.cur f.h.uni (e == 8) (elemOpd f.h.uni f.dr e i)
  xs.flatMap (fun x => (List.range (M96.count f)).map (fun i => (x.1, x.2 + i * e, e, (src i x.1).toNat % 2 ^ (8 * e))))

/-! ### Global loads and stores -/

/-- `ld.g` (R266). -/
def bodyLdG (f : M96) (s : State) : Eff :=
  let i : Instr := .ldG f
  let k := s.cur
  let e := (M96.eb f)
  let xs := s.eas f.h f.ab (M96.ofsInt f) true
  match memBad s.myCopse true true (e * (M96.count f)) xs with
  | some (c, ea, ts) => .trap (accessTrap i f.h.uni 4 c ea 1 false f.sm ts)
  | none =>
    match s.reach i f.h.uni .read 1 f.sm xs with
    | .trap r => .trap r
    | .wait s => .stay s
    | .go s ys =>
      if ys.any (fun y => s.loadWaits (s.coreOf k) f.sm y.2.2 (e * (M96.count f))) then .stay (s.holdWord (ys.map (fun y => y.2.2 / 128)))
      else
        let (tbl, s) := s.loadAll k f.sm f.ph e (M96.count f) ys
        let s := if f.ord = 1 then s.acquire k f.sm else s
        .long s (loadPend f.h.uni (s.me.part f.h) f tbl)
def formLdG (f : M96) : Form := memForm f true (M96.drOut f) 1 true true true
def execLdG (f : M96) (s : State) : Host.Outcome State Fault Refusal := word (.ldG f) (formLdG f) (bodyLdG f) s

/-- An ordered store: its own accesses follow the release (R300). -/
def releaseStore (i : Instr) (f : M96) (s : State) (es : List Elem) : Eff :=
  let k := s.cur
  match s.reach i f.h.uni .write 2 f.sm (es.map (fun e => (e.1, e.2.1))) with
  | .trap r => .trap r
  | .wait s => .stay s
  | .go s ys =>
    if s.me.fenceM.isSome then .stay s
    else if ys.any (fun y => s.storeWaits f.sm y.2.2) then .stay (s.holdWord (ys.map (fun y => y.2.2 / 128)))
    else match s.release k f.sm with
      | (false, s) => .stay s
      | (true, s) =>
        let s := s.srcPop k f.h.uni ((M96.eb f) == 8) f.dr
        .done ((es.zip ys).foldl (fun s w => s.store k f.sm f.ph w.2.2.2 w.1.2.2.1 w.1.2.2.2) s)
/-- `st.g` (R266). -/
def bodyStG (f : M96) (s : State) : Eff :=
  let i : Instr := .stG f
  let k := s.cur
  let xs := s.eas f.h f.ab (M96.ofsInt f) true
  match memBad s.myCopse true true ((M96.eb f) * (M96.count f)) xs with
  | some (c, ea, ts) => .trap (accessTrap i f.h.uni 4 c ea 2 false f.sm ts)
  | none =>
    let pop (s : State) : State := s.srcPop k f.h.uni ((M96.eb f) == 8) f.dr
    if xs = [] then .done (pop s)
    else if f.ord = 0 then s.writeElems i f.h.uni (s.storeElems f xs) f.sm f.ph none pop
    else releaseStore i f s (s.storeElems f xs)
def formStG (f : M96) : Form := memForm f true (M96.drIn f) 2 true true false
def execStG (f : M96) (s : State) : Host.Outcome State Fault Refusal := word (.stG f) (formStG f) (bodyStG f) s

/-- `ld.c` (R268). -/
def bodyLdC (f : M96) (s : State) : Eff :=
  let i : Instr := .ldC f
  let k := s.cur
  let xs := s.eas f.h f.ab (M96.ofsInt f) true
  match memBad s.myCopse true true ((M96.eb f) * (M96.count f)) xs with
  | some (c, ea, ts) => .trap (accessTrap i f.h.uni 4 c ea 1 false f.sm ts)
  | none =>
    match s.reach i f.h.uni .read 1 f.sm xs with
    | .trap r => .trap r
    | .wait s => .stay s
    | .go s ys =>
      if ys.any (fun y => s.stagedLine (y.2.2 / 128)) then .stay (s.holdWord (ys.map (fun y => y.2.2 / 128)))
      else
        let (tbl, s) := s.constAll k (M96.eb f) (M96.count f) ys
        .long s (loadPend f.h.uni (s.me.part f.h) f tbl)
def formLdC (f : M96) : Form := memForm f true (M96.drOut f) 0 (f.sm == 0) (f.ph == 0) true
def execLdC (f : M96) (s : State) : Host.Outcome State Fault Refusal := word (.ldC f) (formLdC f) (bodyLdC f) s

/-- A unit comes to the near tier if there is room, or a unit whose range goes first to make it (R249-R251). Windows never move (R437),
nor does a retired unit come near again (R405). -/
def State.comeNear (s : State) (unit : Nat) : State :=
  if isWindow (65536 * unit) || s.near.contains unit || s.retired.contains unit then s
  else if s.near.length < Config.nearUnits then { s with near := s.near ++ [unit] }
  else match s.near.filter s.goesDeep with
    | [] => s
    | u :: _ => { s with near := s.near.filter (fun x => x != u) ++ [unit] }

/-- `prf` (R268): nothing is checked, and what would fault is dropped. -/
def bodyPrf (f : M96) (s : State) : Eff :=
  let k := s.cur
  let xs := s.eas f.h f.ab (M96.ofsInt f) true
  let ys := translated (s.xlateAll k .read xs)
  .done (ys.foldl (fun s y =>
    let line := y.2.2 / 128
    if isWindow y.2.2 || s.stagedLine line then s
    else if f.md = 0 then
      (match s.l1At (s.coreOf k) line with
        | some l => if l.valid = allLanes then s else s.fillL1 (s.viOf k) (s.coreOf k) line f.ph
        | none => s.fillL1 (s.viOf k) (s.coreOf k) line f.ph)
    else if f.md = 1 then s.noteLoad (s.viOf k) (s.coreOf k) line 3
    else s.comeNear (y.2.2 / 65536)) s)
def formPrf (f : M96) : Form :=
  { h := f.h, ops := [(f.ab, abRole true), (f.dr, .none)],
    bad := [badTy (f.ty == 0), mustZero (f.sm == 0 && f.ord == 0 && f.vc == 0 && f.md.toNat ≤ 2)], weight := 1 }
def execPrf (f : M96) (s : State) : Host.Outcome State Fault Refusal := word (.prf f) (formPrf f) (bodyPrf f) s

/-! ### Scratchpad loads and stores (R267) -/

/-- SM of a scratchpad access. -/
def spMask (m : Byte) : Bool := m == 0 || m == maskCO
/-- The elements of scratchpad loads. -/
def scratchVals (c : Copse) (e n : Nat) (ys : List (Nat × Nat × Nat)) : Tbl Nat :=
  ys.flatMap (fun y => (List.range n).map (fun i => (4 * y.1 + i, c.get (y.2.1 + i * e) e)))
def bodyLdS (f : M96) (s : State) : Eff :=
  let i : Instr := .ldS f
  let k := s.cur
  let xs := s.eas f.h f.ab (M96.ofsInt f) false
  match memBad s.myCopse false true ((M96.eb f) * (M96.count f)) xs with
  | some (c, ea, ts) => .trap (accessTrap i f.h.uni 4 c ea 1 true f.sm ts)
  | none =>
    match s.scratchReach i f.h.uni false 1 ((M96.eb f) * (M96.count f)) xs with
    | .trap r => .trap r
    | .wait s => .stay s
    | .go s ys =>
      let tbl := scratchVals s.myCopse (M96.eb f) (M96.count f) ys
      let s := if f.ord = 1 then s.acquire k f.sm else s
      .long s (loadPend f.h.uni (s.me.part f.h) f tbl)
def formLdS (f : M96) : Form := memForm f false (M96.drOut f) 1 (spMask f.sm) (f.ph == 0) true
def execLdS (f : M96) (s : State) : Host.Outcome State Fault Refusal := word (.ldS f) (formLdS f) (bodyLdS f) s

/-- Elements written to the scratchpad in order. -/
def State.scratchPut (s : State) (es : List Elem) : State :=
  let s := s.keepSources (copseOf s.cur) (distinct (es.flatMap (fun e => linesOf e.2.1 e.2.2.1)))
  s.setMyCopse (es.foldl (fun c e => c.put e.2.1 (bytesOf e.2.2.2 e.2.2.1)) s.myCopse)
def bodyStS (f : M96) (s : State) : Eff :=
  let i : Instr := .stS f
  let k := s.cur
  let xs := s.eas f.h f.ab (M96.ofsInt f) false
  match memBad s.myCopse false true ((M96.eb f) * (M96.count f)) xs with
  | some (c, ea, ts) => .trap (accessTrap i f.h.uni 4 c ea 2 true f.sm ts)
  | none =>
    let pop (s : State) : State := s.srcPop k f.h.uni ((M96.eb f) == 8) f.dr
    if xs = [] then .done (pop s)
    else match s.scratchReach i f.h.uni true 2 ((M96.eb f) * (M96.count f)) xs with
    | .trap r => .trap r
    | .wait s => .stay s
    | .go s _ =>
      let es := s.storeElems f xs
      if f.ord = 0 then .done ((pop s).scratchPut es)
      else match s.release k f.sm with
        | (false, s) => .stay s
        | (true, s) => .done ((pop s).scratchPut es)
def formStS (f : M96) : Form := memForm f false (M96.drIn f) 2 (spMask f.sm) (f.ph == 0) false
def execStS (f : M96) (s : State) : Host.Outcome State Fault Refusal := word (.stS f) (formStS f) (bodyStS f) s

/-! ### Mapped regions (R259-R262, R269-R271) -/

/-- The region of a copse that starts at an offset. -/
def Copse.regionAtOff (c : Copse) (off : Nat) : Option (Nat × Region) := c.regions.find? (fun e => e.2.soff == off)
/-- The lines of a region. -/
def Region.lines (r : Region) : List Nat := linesOf r.soff r.len
/-- The status of `smap`, in the order of R269. -/
def smapStatus (c : Copse) (soff len va : Nat) : Nat :=
  let ls := linesOf soff len
  if 8 ≤ c.regions.length then 1
  else if soff % 128 ≠ 0 ∨ len % 128 ≠ 0 ∨ len = 0 ∨ 65536 < len ∨ !c.inAlloc soff len then 2
  else if c.regions.any (fun e => soff < e.2.soff + e.2.len && e.2.soff < soff + len) then 3
  else if c.linesMarked ls || ls.any (fun l => !(c.lineAt l).full && (c.lineAt l).filler.isSome) then 4
  else if va % 128 ≠ 0 ∨ 2 ^ 57 < va + len then 5
  else 0
/-- The free region number, lowest first. -/
def Copse.freeRegion (c : Copse) : Nat := ((List.range 8).find? (fun i => (tfind i c.regions).isNone)).getD 0
/-- Maps a region (R260). -/
def Copse.mapRegion (c : Copse) (r : Region) : Copse :=
  let n := c.freeRegion
  let x : LineSt := if r.mode = 2 then ⟨true, false, true, none, n + 1, 0⟩ else ⟨false, false, false, some .region, n + 1, 0⟩
  let c := { c with regions := tset n r c.regions, scratch := c.scratch.filter (fun b => b.1 < r.soff || r.soff + r.len ≤ b.1) }
  r.lines.foldl (fun c l => c.setLine l x) c
def formSmap (f : W128) : Form :=
  { h := f.h, ops := [(f.sa, .val 64), (f.sb, .val 64), (f.dst, .udst 1)],
    bad := [onlyUni f.h, mustZero (f.imm.toNat < 2 ^ 25 && f.md.toNat ≤ 2)], weight := 0 }
def bodySmap (f : W128) (s : State) : Eff :=
    let (vs, s) := s.srcs s.cur true [(f.sa, true), (f.sb, true)]
    let soff := srcN vs 0 0
    let va := srcN vs 1 0
    let len := bits f.imm.toNat 16 0
    let status := smapStatus s.myCopse soff len va
    let r : Region := ⟨soff, len, va, BitVec.ofNat 2 f.md.toNat, BitVec.ofNat 8 (bits f.imm.toNat 24 17)⟩
    let s := if status = 0 then s.setMyCopse (s.myCopse.mapRegion r) else s
    s.now { Pend.empty with sw := [(f.dst.num.toNat, BitVec.ofNat 64 status)] }
def execSmap (f : W128) (s : State) : Host.Outcome State Fault Refusal := word (.smap f) (formSmap f) (bodySmap f) s

/-- The lines of a region with dirty bytes to write back; none in a `.ro` region. -/
def Copse.dirtyLines (c : Copse) (r : Region) : List Nat :=
  if r.mode = 1 then [] else r.lines.filter (fun l => (c.lineAt l).dirty != 0)
/-- Starts the write-back of lines for a stand (R262). -/
def Copse.startWb (c : Copse) (k : Nat) (ls : List Nat) : Copse :=
  { c with fills := c.fills ++ (ls.filter (fun l => !c.fills.any (fun x => x.line == l && x.wb.isSome))).map (fun l =>
      (⟨l, some k, none, []⟩ : Fill)) }
/-- Those of the lines whose write-back is not under way. -/
def Copse.notStarted (c : Copse) (ls : List Nat) : List Nat := ls.filter (fun l => !c.fills.any (fun x => x.line == l && x.wb.isSome))
/-- As many of the write-backs start as the copse's engine has room for (R318). -/
def State.startWbs (s : State) (copse k : Nat) (ls : List Nat) : State :=
  let c := s.copseAt copse
  s.setCopse copse (c.startWb k ((c.notStarted ls).take (engineLimit - s.engineLoad copse)))
/-- The end of a region (R270): untouched lines become full and zero, the others keep their contents, and stay full or empty as they are. -/
def Copse.endRegion (c : Copse) (n : Nat) (r : Region) : Copse :=
  let c := { c with regions := tdel n c.regions }
  r.lines.foldl (fun c l =>
    let x := c.lineAt l
    if x.touched then c.setLine l { x with region := 0, dirty := 0 }
    else { c with scratch := c.scratch.filter (fun b => b.1 / 128 ≠ l) }.setLine l LineSt.init) c
def formSunmap (f : A64) : Form :=
  { h := f.h, ops := [(f.sa, .val 64), (f.sb, .none), (f.dst, .none)],
    bad := [onlyUni f.h, badTy (f.ty == 0), mustZero (f.md.toNat ≤ 1)] }
/-- `sunmap` (R270) goes on once nothing of the region is in flight. -/
def bodySunmap (f : A64) (s : State) : Eff :=
    let (vs, s') := s.srcs s.cur true [(f.sa, true)]
    let c := s.myCopse
    match c.regionAtOff (srcN vs 0 0) with
    | none => .done s'
    | some (n, r) =>
      if c.fills.any (fun x => r.lines.contains x.line) then .stay s
      else if f.md = 0 ∧ c.dirtyLines r ≠ [] then .stay (s.startWbs (copseOf s.cur) s.cur (c.dirtyLines r))
      else .done (s'.setMyCopse (s'.myCopse.endRegion n r))
def execSunmap (f : A64) (s : State) : Host.Outcome State Fault Refusal := word (.sunmap f) (formSunmap f) (bodySunmap f) s
def formSwb (f : A64) : Form :=
  { h := f.h, ops := [(f.sa, .val 64), (f.sb, .none), (f.dst, .none)], bad := [onlyUni f.h, badTy (f.ty == 0), mustZero (f.md == 0)] }
/-- `swb` (R271): a release with the region's mask that the stand does not wait for, but for its side log (R256) and a `fence.m` in
progress (R316). It is performed once every line of the region is written back, those too whose write-back another stand has started; then
the flag falls. -/
def bodySwb (f : A64) (s : State) : Eff :=
    let k := s.cur
    let (vs, s') := s.srcs k true [(f.sa, true)]
    match s.myCopse.regionAtOff (srcN vs 0 0) with
    | none => .done s'
    | some (_, r) =>
      let rest := s.myCopse.notStarted (s.myCopse.dirtyLines r)
      if s.logged k || s.me.fenceM.isSome || (maskFull r.mask != maskCO && s.flushHeld (s.coreOf k)) then .stay s
      else if !s.engineRoom (copseOf k) rest.length then .stay (s.startWbs (copseOf k) k rest)
      else
        let ls := s'.myCopse.dirtyLines r
        let s := s'.setMyCopse (s'.myCopse.startWb k ls)
        let n := s.me.issues
        let s := (s.setMe { s.me with swbs := s.me.swbs ++ [⟨n, r.mask, ls, false⟩] }).settleSwbs k
        if s.me.swbs.any (fun x => x.word == n) && s.me.flagOf f.h.sch < 12 then .long s { Pend.empty with on := .swb n } else .done s
def execSwb (f : A64) (s : State) : Host.Outcome State Fault Refusal := word (.swb f) (formSwb f) (bodySwb f) s

/-! ### The layer schedule (R250, R251, R272) -/

/-- An entry of a layer schedule: STEP, BASE, LEN, KEEP, DROP. -/
abbrev LayerEntry := Nat × Nat × Nat × Bool × Bool
/-- Entries of a schedule that keep R250. -/
def layerOk (es : List (List Nat)) : Bool :=
  es.all (fun e =>
    let w (i : Nat) : Nat := (e[i]?).getD 0
    bits (w 0) 63 34 == 0 && w 1 % 65536 == 0 && w 2 != 0 && w 2 % 65536 == 0 && w 3 == 0)
    && (es.map (fun e => (e.headD 0) % 2 ^ 32)).Pairwise (· ≤ ·)
/-- Reads and checks a layer schedule; none if it breaks R250 or cannot be read. -/
def State.layerSchedule (s : State) (vi va : Nat) : Option (List LayerEntry) := do
  let h ← s.ctxWords vi va 4
  let w (i : Nat) : Nat := (h[i]?).getD 0
  let n := bits (w 0) 63 48
  if bits (w 0) 31 0 = 0x4C535A4B ∧ bits (w 0) 47 32 = 1 ∧ 1 ≤ n ∧ w 1 + w 2 + w 3 = 0 then some () else none
  let es ← (List.range n).mapM (fun j => s.ctxWords vi (va + 32 + 32 * j) 4)
  if layerOk es then some (es.map (fun e =>
      ((e.headD 0) % 2 ^ 32, (e[1]?).getD 0, (e[2]?).getD 0, bitAt (e.headD 0) 32, bitAt (e.headD 0) 33))) else none
/-- The units of a range that its interface's tables map. -/
def State.rangeUnits (s : State) (vi va n : Nat) : List Nat :=
  (List.range n).filterMap (fun i => match s.walkVi vi (va + 65536 * i) with
    | .ok l => match leafAccess .read (va + 65536 * i) l with
      | .ok (pa, _) => some (pa / 65536)
      | .fault _ => none
    | .fault _ => none)
def State.entryUnits (s : State) (vi : Nat) (e : LayerEntry) : List Nat := s.rangeUnits vi e.2.1 (e.2.2.1 / 65536)
/-- The prefetch of R251 at the present step of a launch: the units of its entries come near in order while there is room. What a KEEP
entry names then stays; what a DROP entry names may go first once its step has passed (R250). -/
def State.layerPrefetch (s : State) (launch : Nat) : State :=
  let l := s.launchAt launch
  if l.lsch = 0 then s
  else match s.layerSchedule l.vi l.lsch.toNat with
    | none => s
    | some es =>
      let now := es.filter (fun e => l.sigma.toNat ≤ e.1 && e.1 ≤ l.sigma.toNat + l.ldist)
      let past := es.filter (fun e => e.2.2.2.2 && e.1 < l.sigma.toNat)
      let s := s.setLaunch launch { l with passed := past.flatMap (s.entryUnits l.vi) }
      let s := now.foldl (fun s e => (s.entryUnits l.vi e).foldl (fun s u => s.comeNear u) s) s
      let kept := ((now.filter (fun e => e.2.2.2.1)).flatMap (s.entryUnits l.vi)).filter s.near.contains
      s.setLaunch launch { s.launchAt launch with kept := distinct (l.kept ++ kept) }
def formLstep (f : A64) : Form :=
  { h := f.h, ops := [(f.sa, .val 64), (f.sb, .none), (f.dst, .none)], bad := [onlyUni f.h, badTy (f.ty == 0), mustZero (f.md == 0)] }
/-- `lstep` (R272). Maintenance code runs outside any launch and has no step. -/
def bodyLstep (f : A64) (s : State) : Eff :=
    let (vs, s) := s.srcs s.cur true [(f.sa, true)]
    let n := s.myCopse.launch
    let l := s.launchAt n
    let x := srcN vs 0 0 % 2 ^ 32
    if n ≠ 0 ∧ l.sigma.toNat < x then .done ((s.setLaunch n { l with sigma := BitVec.ofNat 32 x }).layerPrefetch n) else .done s
def execLstep (f : A64) (s : State) : Host.Outcome State Fault Refusal := word (.lstep f) (formLstep f) (bodyLstep f) s

end Sys2Proof.Machine
end

