-- ==== Sys2Proof/Machine/Cache.lean ====
section
/-! DEFINITION. Class 0x9: maintenance of the wafer cache by range, pins, the placement query (spec/12 R286-R295) and the fences
(spec/13 R312-R317). -/

namespace Sys2Proof.Machine

/-! ### Ranges (R286, R287) -/

/-- Fields of a maintenance instruction: SM, OR and MOD as given. -/
def maintForm (f : M96) (sm ord md : Bool) : Form :=
  { h := f.h, ops := [(f.ab, abRole true), (f.dr, .src 1 1 false false)],
    bad := [badTy (f.ty == 0), mustZero (sm && ord && f.ph == 0 && f.vc == 0 && md)] }
/-- Thread, address and length of each participant. -/
def State.ranges (s : State) (f : M96) : List (Nat × Nat × Nat) :=
  (s.eas f.h f.ab (M96.ofsInt f) true).map (fun x => (x.1, x.2, (s.srcVal s.cur f.h.uni false f.dr x.1).toNat % 2 ^ 32))
/-- The check of every range before any effect (R287): `whole` for `dsc` and `zero`. -/
def rangeBad (i : Instr) (f : M96) (akind : Nat) (whole : Bool) (xs : List (Nat × Nat × Nat)) : Option TrapReq :=
  match xs.filter (fun x => whole && (x.2.1 % 128 != 0 || x.2.2 % 128 != 0)), xs.filter (fun x => decide (2 ^ 57 < x.2.1 + x.2.2)) with
  | x :: r, _ => some (accessTrap i f.h.uni 4 1 x.2.1 akind false f.sm (x.1 :: r.map Prod.fst))
  | [], x :: r => some (accessTrap i f.h.uni 3 1 x.2.1 akind false f.sm (x.1 :: r.map Prod.fst))
  | [], [] => none
/-- The pages that a range meets: the first address and the bytes on each. -/
def rangePages (ea n : Nat) : List (Nat × Nat) :=
  if n = 0 then []
  else (List.range ((ea + n - 1) / 65536 + 1 - ea / 65536)).map (fun i =>
    let lo := maxN ea (65536 * (ea / 65536 + i))
    (lo, minN (ea + n) (65536 * (ea / 65536 + i + 1)) - lo))
/-- The lines that a range meets on pages that translate, by physical line number. -/
def State.rangeLines (s : State) (k : Nat) (acc : Acc) (ea n : Nat) : List Nat :=
  (rangePages ea n).flatMap (fun p => match s.xlate (copseOf k) acc p.1 with
    | .ok (pa, _) => linesOf pa p.2
    | .fault _ => [])
/-- An operation on the lines of a range, page by page: a malformed entry stops it with the first address on its page; another page
that does not translate is skipped (R287). -/
def State.onPages (s : State) (k : Nat) (acc : Acc) (op : State → Nat → State) : List (Nat × Nat) → Option Nat × State
  | [] => (none, s)
  | (lo, n) :: r =>
    match s.xlate (copseOf k) acc lo with
    | .fault c => if c = 5 then (some lo, s) else s.onPages k acc op r
    | .ok (pa, _) =>
      ((linesOf pa n).foldl (fun s l => if isWindow (128 * l) then s else op s l) s).onPages k acc op r
/-- The ranges of all threads, in ascending lane order; the thread and address of a malformed entry. -/
def State.onRanges (s : State) (k : Nat) (acc : Acc) (op : State → Nat → State) : List (Nat × Nat × Nat) → Option (Nat × Nat) × State
  | [] => (none, s)
  | (t, ea, n) :: r =>
    match s.onPages k acc op (rangePages ea n) with
    | (some va, s) => (some (t, va), s)
    | (none, s) => s.onRanges k acc op r
/-- A maintenance instruction: its checks, then its operation on every line; it waits for staged updates of its lines (R216) and for live
side-log entries of its pages (R256). -/
def maintain (i : Instr) (f : M96) (akind : Nat) (whole waits : Bool) (acc : Acc) (op : State → Nat → State) (s : State) : Eff :=
  let k := s.cur
  let xs := s.ranges f
  match rangeBad i f akind whole xs with
  | some r => .trap r
  | none =>
    if xs.any (fun x => s.pageLogged (s.coreOf k) ((rangePages x.2.1 x.2.2).map (fun p => (0, p.1)))) then .stay s
    else if waits && xs.any (fun x => (s.rangeLines k acc x.2.1 x.2.2).any s.stagedLine) then
      .stay (s.holdWord (xs.flatMap (fun x => s.rangeLines k acc x.2.1 x.2.2)))
    else match s.onRanges k acc op xs with
      | (none, s) => .done s
      | (some (t, va), s') => .stay (s'.raise k (accessTrap i f.h.uni 3 5 va akind false f.sm [t]) s.me.pc)

/-! ### `cmo` (R288) -/

/-- The level of MOD: 0 `.l1`, 1 `.rep`, 2 `.anc`. -/
def cmoLevel (f : M96) : Nat := f.md.toNat
def cmoForm (f : M96) : Form := maintForm f (f.sm == 0) (f.ord == 0) (f.md.toNat ≤ 2)
/-- The clean half, of the issuing core's L1 alone. -/
def State.cmoClean (s : State) (core lvl line : Nat) : State :=
  let s := s.writeBackL1 core line
  if lvl = 2 then s.cleanHome line else s
/-- The invalidate half. -/
def State.cmoDrop (s : State) (core lvl line : Nat) : State :=
  let s := (s.dropL1 core line).disown core line
  if lvl = 0 then s
  else
    let s := s.setDir line ((s.dirAt line).collapse none)
    if lvl = 2 then s.dropHome line else s
/-- `.anc` forms that drop the home copy need a leaf with W = 1. -/
def cmoAcc (lvl : Nat) : Acc := if lvl = 2 then .write else .read
def formCmoCln (f : M96) : Form := cmoForm f
def bodyCmoCln (f : M96) (s : State) : Eff := maintain (.cmoCln f) f 0 false true .read (fun s l => s.cmoClean s.myCoreKey (cmoLevel f) l) s
def execCmoCln (f : M96) (s : State) : Host.Outcome State Fault Refusal := word (.cmoCln f) (formCmoCln f) (bodyCmoCln f) s
def formCmoInv (f : M96) : Form := cmoForm f
def bodyCmoInv (f : M96) (s : State) : Eff := maintain (.cmoInv f) f 0 false true (cmoAcc (cmoLevel f)) (fun s l => s.cmoDrop s.myCoreKey (cmoLevel f) l) s
def execCmoInv (f : M96) (s : State) : Host.Outcome State Fault Refusal := word (.cmoInv f) (formCmoInv f) (bodyCmoInv f) s
def formCmoCinv (f : M96) : Form := cmoForm f
def bodyCmoCinv (f : M96) (s : State) : Eff := maintain (.cmoCinv f) f 0 false true (cmoAcc (cmoLevel f))
      (fun s l => (s.cmoClean s.myCoreKey (cmoLevel f) l).cmoDrop s.myCoreKey (cmoLevel f) l) s
def execCmoCinv (f : M96) (s : State) : Host.Outcome State Fault Refusal := word (.cmoCinv f) (formCmoCinv f) (bodyCmoCinv f) s

/-! ### `dsc`, `zero`, `pin`, `unpin` (R289-R291) -/

/-- One line discarded: a zero line at its home, no replica, nothing in the core's L1. -/
def State.discard (s : State) (k line : Nat) : State :=
  let s := ((s.dropL1 (s.coreOf k) line).disown (s.coreOf k) line).zeroLine k line
  s.setDir line ((s.dirAt line).collapse none)
def formDsc (f : M96) : Form := maintForm f (f.sm == 0) (f.ord == 0) (f.md == 0)
def bodyDsc (f : M96) (s : State) : Eff := if s.me.fenceM.isSome then .stay s
      else maintain (.dsc f) f 0 true true .write (fun s l => s.discard s.cur l) s
def execDsc (f : M96) (s : State) : Host.Outcome State Fault Refusal := word (.dsc f) (formDsc f) (bodyDsc f) s
def formPin (f : M96) : Form := maintForm f (f.sm == 0) (f.ord == 0) (f.md == 0)
def bodyPin (f : M96) (s : State) : Eff := maintain (.pin f) f 0 false false .read (fun s l => s.pinLine (s.viOf s.cur) l) s
def execPin (f : M96) (s : State) : Host.Outcome State Fault Refusal := word (.pin f) (formPin f) (bodyPin f) s
def formUnpin (f : M96) : Form := maintForm f (f.sm == 0) (f.ord == 0) (f.md == 0)
def bodyUnpin (f : M96) (s : State) : Eff := maintain (.unpin f) f 0 false false .read (fun s l => s.unpinLine (s.viOf s.cur) l) s
def execUnpin (f : M96) (s : State) : Host.Outcome State Fault Refusal := word (.unpin f) (formUnpin f) (bodyUnpin f) s

/-- The lines of `zero` as elements of 128 bytes. -/
def zeroElems (xs : List (Nat × Nat × Nat)) : List Elem :=
  xs.flatMap (fun x => (List.range (x.2.2 / 128)).map (fun i => (x.1, x.2.1 + 128 * i, 128, 0)))
/-- The flag of a `zero` falls when every line of it is written, those too that went to the side log (R286). -/
def zeroFlag (f : M96) (e : Eff) : Eff :=
  match e with
  | .done s =>
    let w := s.me.issues
    if s.me.flagOf f.h.sch < 12 && s.myCore.slog.any (fun x => x.stand == s.cur && x.word == w) then
      .long s { Pend.empty with on := .log w }
    else .done s
  | e => e
def bodyZero (f : M96) (s : State) : Eff :=
  let i : Instr := .zero f
  let k := s.cur
  let xs := s.ranges f
  match rangeBad i f 2 true xs with
  | some r => .trap r
  | none =>
    let es := zeroElems xs
    if es = [] then .done s
    else if f.ord = 0 then zeroFlag f (s.writeElems i f.h.uni es f.sm 0 none id)
    else match s.reach i f.h.uni .write 2 f.sm (es.map (fun e => (e.1, e.2.1))) with
      | .trap r => .trap r
      | .wait s => .stay s
      | .go s ys =>
        if s.me.fenceM.isSome then .stay s
        else if ys.any (fun y => s.stagedLine (y.2.2 / 128)) then .stay (s.holdWord (ys.map (fun y => y.2.2 / 128)))
        else match s.release k f.sm with
          | (false, s) => .stay s
          | (true, s) => .done (ys.foldl (fun s y => s.zeroLine k (y.2.2 / 128)) s)
def formZero (f : M96) : Form := maintForm f true (f.ord == 0 || f.ord == 2) (f.md == 0)
def execZero (f : M96) (s : State) : Host.Outcome State Fault Refusal := word (.zero f) (formZero f) (bodyZero f) s

/-! ### The placement query (R292-R295) -/

def pqryForm (f : A64) (two : Bool) (md : BitVec 2) : Form :=
  { h := f.h, ops := [(f.sa, .val 64), (f.sb, .none), (f.dst, .udst (if two then 2 else 1))],
    bad := [onlyUni f.h, badTy (f.ty == 0), mustZero (f.md == md)], long := true, mustFlag := true }
/-- Runs a query of its operand. -/
def pqry (f : A64) (q : State → Nat → List Nat) (s : State) : Eff :=
  let (vs, s) := s.srcs s.cur true [(f.sa, true)]
  let xs := q s (srcN vs 0 0)
  .long s { Pend.empty with sw := ((List.range xs.length).zip xs).map (fun x => (f.dst.num.toNat + x.1, BitVec.ofNat 64 x.2)) }

/-- The site of a stand, by the kinds of R285. -/
def State.siteOf (s : State) (k kind : Nat) : Nat :=
  let core := s.coreOf k
  if kind = 1 then core else if kind = 2 then clusterOf core else fieldOfCore core
def State.querySelf (s : State) (x : Nat) : List Nat := [if x ≤ 2 then (s.handle (x + 1) (s.siteOf s.cur (x + 1))).toNat else 0]
def formPqrySelf (f : A64) : Form := pqryForm f false 0
def bodyPqrySelf (f : A64) : State → Eff := pqry f State.querySelf
def execPqrySelf (f : A64) (s : State) : Host.Outcome State Fault Refusal := word (.pqrySelf f) (formPqrySelf f) (bodyPqrySelf f) s

/-- The state word of a line (R293). -/
def Dir.word (d : Dir) (anchor : Nat) : Nat :=
  d.cached.toNat + (d.cached && d.zero).toNat * 2 + (d.pins != []).toNat * 4 + (d.cached && d.written).toNat * 8
    + minN 76 d.replicas.length * 16 + (d.cached && d.bank != anchor).toNat * 2 ^ 11
def State.queryLine (s : State) (va : Nat) : List Nat :=
  match s.xlate (copseOf s.cur) .read va with
  | .fault _ => [0, 0]
  | .ok (pa, _) =>
    let d := s.dirAt (pa / 128)
    let a := s.anchor (s.viOf s.cur) (pa / 128)
    [(s.handle 4 ((if d.cached then d.bank else a) / 8)).toNat, d.word a]
def formPqryLine (f : A64) : Form := pqryForm f true 1
def bodyPqryLine (f : A64) : State → Eff := pqry f State.queryLine
def execPqryLine (f : A64) (s : State) : Host.Outcome State Fault Refusal := word (.pqryLine f) (formPqryLine f) (bodyPqryLine f) s

/-- Clusters and slices exposed in a retained generation: the current one, or one of the 7 before it. -/
def State.genSites (s : State) (gen : Nat) : Option (List Nat × List Nat) :=
  if gen = s.boot.bgen.toNat then some (s.boot.clusters, s.boot.slices)
  else ((s.boot.gens.take 7).find? (fun g => g.1 == gen)).map Prod.snd
/-- The sites of a kind among clusters and slices: cores, clusters, fields and slices. -/
def sitesIn (kind : Nat) (cs sl : List Nat) : List Nat :=
  if kind = 1 then cs.flatMap (fun c => (List.range 4).map (fun i => 4 * c + i))
  else if kind = 2 then cs
  else if kind = 3 then distinct (cs.map fieldOfCluster)
  else if kind = 4 then sl
  else []
/-- The sites of a kind that a context holds, among clusters and slices. -/
def sitesOf (v : Vi) (kind : Nat) (clusters slices : List Nat) : List Nat :=
  sitesIn kind (clusters.filter v.part.contains) (slices.filter v.dom.live.slices.contains)
/-- The site that a handle names in a generation, for a context: one whose handle was issued to it then; a forged one may be taken as naming
some site of a kind that the context has held in a retained generation (R285). -/
def namedSite (v : Vi) (x gen kind : Nat) : Option Nat :=
  let held (g : Nat) : List Nat := let h := tget ([], []) v.sites g; sitesIn kind h.1 h.2
  match (held gen).find? (fun n => (handleOf gen kind n).toNat == x) with
  | some n => some n
  | none => match Config.forgedSite (BitVec.ofNat 64 x) with
    | some n => if v.sites.any (fun e => (held e.1).contains n) then some n else none
    | none => none
/-- `.res` (R294). -/
def State.queryRes (s : State) (x : Nat) : List Nat :=
  let gen := bits x 63 48
  let kind := bits x 47 44
  let v := s.viAt (s.viOf s.cur)
  match s.genSites gen with
  | none => [0, 3]
  | some _ => match namedSite v x gen kind with
    | none => [0, 4]
    | some n =>
      if !(sitesOf v kind s.boot.clusters s.boot.slices).contains n then [0, 2]
      else if gen = s.boot.bgen.toNat then [x, 0]
      else [(s.handle kind n).toNat, 1]
def formPqryRes (f : A64) : Form := pqryForm f true 2
def bodyPqryRes (f : A64) : State → Eff := pqry f State.queryRes
def execPqryRes (f : A64) (s : State) : Host.Outcome State Fault Refusal := word (.pqryRes f) (formPqryRes f) (bodyPqryRes f) s

/-- `.cnt` (R295). -/
def State.queryCnt (s : State) (x : Nat) : List Nat :=
  let vi := s.viOf s.cur
  let v := s.viAt vi
  let cs := s.boot.clusters.filter v.part.contains
  [if x = 0 then cs.length
   else if x = 1 then v.dom.live.slices.length
   else if x = 2 then s.pinned vi
   else if x = 3 then 256 * v.pquota.toNat
   else if x = 4 then s.boot.bgen.toNat
   else if x = 5 then (distinct (cs.map fieldOfCluster)).length
   else 0]
def formPqryCnt (f : A64) : Form := pqryForm f false 3
def bodyPqryCnt (f : A64) : State → Eff := pqry f State.queryCnt
def execPqryCnt (f : A64) (s : State) : Host.Outcome State Fault Refusal := word (.pqryCnt f) (formPqryCnt f) (bodyPqryCnt f) s

/-! ### Fences (R312, R313, R316) -/

/-- The mask of a fence. -/
def fenceMask (f : A64) : Byte := f.dst.num
def fenceForm (f : A64) (ok : Bool) : Form :=
  { h := f.h, ops := [(f.sa, .none), (f.sb, .none), (f.dst, .num 256 4)],
    bad := [onlyUni f.h, badTy (f.ty == 0), mustZero (f.dst.num != 0 && ok)] }
/-- A fence is complete: with CO in its mask the stale window closes (R313). -/
def State.endFence (s : State) (k : Nat) (m : Byte) : State := if maskHas (maskFull m) 0 then s.closeStale k else s
/-- The acquire half of a fence, for every earlier read of the stand (R301, R305). -/
def State.acquireAll (s : State) (k : Nat) (m : Byte) : State := (s.observeAcq k m true).acquire k m
/-- A fence that releases, acquires, or both in that order; `total` for `fence.ar`, which enters the order of its launch (R309). It waits
for the stand's side log whatever its kind (R256), and nothing of the stand comes before it is complete (R317). -/
def fenceBody (f : A64) (rel acq : Bool) (s : State) : Eff :=
  let k := s.cur
  let m := fenceMask f
  let launch := s.myCopse.launch
  match (if rel then s.release k m else (!s.logged k, s)) with
  | (false, s) => .stay (s.setStand k { s.standAt k with fencing := true })
  | (true, s) =>
    let s := if rel then s.signed k m true else s
    let s := if acq then s.acquireAll k m else s
    let s := if rel && acq then (s.takeOver objFence launch k m).handOver objFence launch k m else s
    .done ((s.setStand k { s.standAt k with fencing := false }).endFence k m)
def formFenceAr (f : A64) : Form := fenceForm f (f.md == 0)
def bodyFenceAr (f : A64) : State → Eff := fenceBody f true true
def execFenceAr (f : A64) (s : State) : Host.Outcome State Fault Refusal := word (.fenceAr f) (formFenceAr f) (bodyFenceAr f) s
def formFenceAcq (f : A64) : Form := fenceForm f (f.md == 1)
def bodyFenceAcq (f : A64) : State → Eff := fenceBody f false true
def execFenceAcq (f : A64) (s : State) : Host.Outcome State Fault Refusal := word (.fenceAcq f) (formFenceAcq f) (bodyFenceAcq f) s
def formFenceRel (f : A64) : Form := fenceForm f (f.md == 2)
def bodyFenceRel (f : A64) : State → Eff := fenceBody f true false
def execFenceRel (f : A64) (s : State) : Host.Outcome State Fault Refusal := word (.fenceRel f) (formFenceRel f) (bodyFenceRel f) s
/-- `fence.m` (R316): it goes on beside the stand; a second one waits for the first. -/
def bodyFenceM (f : A64) (s : State) : Eff :=
  let k := s.cur
  if s.me.fenceM.isSome then .stay s
  else
    let s := (s.setMe { s.me with fenceM := some (fenceMask f, none) }).startFenceM k
    if (s.standAt k).fenceM.isSome then .long s { Pend.empty with on := .fenceM } else .done s
def formFenceM (f : A64) : Form := fenceForm f (f.md == 0 && f.dst.num.getLsbD 3)
def execFenceM (f : A64) (s : State) : Host.Outcome State Fault Refusal := word (.fenceM f) (formFenceM f) (bodyFenceM f) s

end Sys2Proof.Machine
end

