-- ==== Sys2Proof/Machine/Domains.lean ====
section
/-! DEFINITION. Interleave domains: WB and SWITCH (spec/12 R281-R283); rebinding of the placement map (R284); commands under way and
their host timeout (spec/17 R421, spec/19 R447). -/

namespace Sys2Proof.Machine

/-! ### Commands under way (R421, R447) -/

/-- Names of the commands of a domain's register block among those under way; they bear tag 0. -/
def opWb : Byte := 0xF0
def opSwitch : Byte := 0xF1
/-- The largest throttle divisor in force on any field (R419). -/
def State.tdivNow (s : State) : Nat := s.fields.foldl (fun n f => maxN n f.2.tdiv) 1
/-- The count of the interface's controlling field (R421). -/
def State.controlRef (s : State) (vi : Nat) : Word64 := (s.fieldAt (portField (vi / 32))).ref
/-- A timed command starts. -/
def State.startCmd (s : State) (vi : Nat) (op : Byte) (tag : BitVec 16) (victims : List Nat) : State :=
  let v := s.viAt vi
  s.setVi vi { v with cmds := v.cmds ++ [⟨op, tag, s.controlRef vi, s.tdivNow, false, victims, 0⟩] }
/-- A command under way ends; the completion of a domain command is written only where its timeout was reported (R447). -/
def State.endCmd (s : State) (vi : Nat) (r : Running) (status detail : Nat) : State :=
  let v := s.viAt vi
  let s := s.setVi vi { v with cmds := v.cmds.erase r }
  if (r.opcode = opWb || r.opcode = opSwitch) && !r.timedOut then s else s.complete vi r.tag status detail
/-- The timeout of a command expires: a completion and an event, and the command goes on (R447). -/
def State.timeout (s : State) (vi : Nat) (tag : BitVec 16) : State :=
  let v := s.viAt vi
  match v.cmds.find? (fun r => r.tag == tag && !r.timedOut) with
  | none => s
  | some r =>
    if (s.controlRef vi - r.started).toNat ≤ v.hlim.toNat * r.tdivMax then s
    else
      let s := s.setVi vi { v with cmds := v.cmds.map (fun x => if x = r then { x with timedOut := true } else x) }
      (s.complete vi tag 0x11 0).postEvent vi (hostEvent 4 0 tag.toNat)
def execHostTimeout (vi : Nat) (tag : BitVec 16) (s : State) : Host.Outcome State Fault Refusal := .next (s.timeout vi tag)

/-! ### Rebinding (R284) -/

/-- The placement map is rebound: the generation rises, and the site assignments of the 7 before it are retained. -/
def State.rebind (s : State) (clusters slices : List Nat) : State :=
  { s with
    boot := { s.boot with
      gens := ((s.boot.bgen.toNat, s.boot.clusters, s.boot.slices) :: s.boot.gens).take 7
      bgen := s.boot.bgen + 1
      clusters := clusters
      slices := slices }
    vis := s.vis.map (fun v => (v.1, v.2.noteSites (s.boot.bgen + 1).toNat)) }

/-! ### WB and SWITCH (R281-R283) -/

/-- HMASK of a number of slices: 2^k - 1 with 2^k the least power of two not below 8 NSLICE. -/
def hmaskFor (n : Nat) : Nat := 2 ^ bitLen (8 * n - 1) 14 - 1
/-- The set that is not in force. -/
def Domain.other (d : Domain) : DomSet := if d.sel then d.set0 else d.set1
/-- The lines whose home copies lie in the set in force. -/
def State.domainLines (s : State) (vi : Nat) : List Nat :=
  let sl := (s.viAt vi).dom.live.slices
  (s.dir.filter (fun e => e.2.cached && sl.contains (e.2.bank / 8))).map Prod.fst
/-- Those that are dirty. -/
def State.dirtyCount (s : State) (vi : Nat) : Nat := ((s.domainLines vi).filter (fun l => (s.dirAt l).dirty)).length
def State.setDom (s : State) (vi : Nat) (d : Domain) : State := s.setVi vi { s.viAt vi with dom := d }
/-- The command is refused (R282). -/
def State.domErr (s : State) (vi : Nat) : State := s.setDom vi { (s.viAt vi).dom with err := true }
def Domain.busy (d : Domain) : Bool := d.wb || d.sw
/-- A domain's register block takes a write: the device is ready (R456). -/
def State.domainOpen (s : State) (vi : Nat) : Bool := s.boot.phase == .ready && vi < 128
/-- WB starts, or is refused. -/
def State.startWb (s : State) (vi : Nat) : State :=
  let d := (s.viAt vi).dom
  if d.busy then s.domErr vi else (s.setDom vi { d with wb := true }).startCmd vi opWb 0 []
def execDomWb (vi : Nat) (s : State) : Host.Outcome State Fault Refusal := .next (if s.domainOpen vi then s.startWb vi else s)
/-- A domain command under way ends. -/
def State.endDomCmd (s : State) (vi : Nat) (op : Byte) : State :=
  match (s.viAt vi).cmds.find? (fun r => r.opcode == op) with
  | none => s
  | some r => s.endCmd vi r 0 0
/-- WB ends: every home copy of the domain is clean (R283). -/
def State.endWb (s : State) (vi : Nat) : State :=
  let d := (s.viAt vi).dom
  if !d.wb then s
  else
    let n := s.dirtyCount vi
    let s := (s.domainLines vi).foldl (fun s l => s.cleanHome l) s
    (s.setDom vi { d with wb := false, wblines := BitVec.ofNat 32 n }).endDomCmd vi opWb
def execDomWbComplete (vi : Nat) (s : State) : Host.Outcome State Fault Refusal := .next (s.endWb vi)

/-- The slices that the table of a set names, read in the interface's memory at LADDR; none where an entry is no slice handle of the
current binding. -/
def State.readSlices (s : State) (t : DomSet) : Option (List Nat) :=
  (List.range t.nslice.toNat).mapM (fun i =>
    s.boot.slices.find? (fun n => (s.handle 4 n).toNat == s.homeRead (8 * t.laddr.toNat + 8 * i) 8))
/-- The slices of a domain's set in force, with those of the set that a running SWITCH puts in force: no other domain may have one of
them (R282). -/
def Domain.taken (d : Domain) : List Nat := d.live.slices ++ (if d.sw then d.other.slices else [])
/-- The slices that the other set of a domain may be put in force with (R282). -/
def State.switchTo (s : State) (vi : Nat) : Option (List Nat) :=
  let d := (s.viAt vi).dom
  let t := d.other
  if d.busy || t.nslice == 0 || t.hmask.toNat != hmaskFor t.nslice.toNat then none
  else match s.readSlices t with
    | none => none
    | some l => if l.Nodup && !(s.vis.any (fun e => e.1 != vi && e.2.dom.taken.any l.contains)) then some l else none
/-- SWITCH starts, or is refused. -/
def State.startSwitch (s : State) (vi : Nat) : State :=
  let d := (s.viAt vi).dom
  match s.switchTo vi with
  | none => s.domErr vi
  | some l =>
    let d := { d with sw := true }
    (s.setDom vi (if d.sel then { d with set0 := { d.set0 with slices := l } } else { d with set1 := { d.set1 with slices := l } })).startCmd
      vi opSwitch 0 []
def execDomSwitch (vi : Nat) (s : State) : Host.Outcome State Fault Refusal := .next (if s.domainOpen vi then s.startSwitch vi else s)
/-- What an interface holds now has had its handles issued to it in the present binding generation (R285). -/
def State.noteSites (s : State) (vi : Nat) : State := s.setVi vi ((s.viAt vi).noteSites s.boot.bgen.toNat)
/-- SWITCH ends: home copies are written and dropped with their replicas, and SEL flips (R283). -/
def State.endSwitch (s : State) (vi : Nat) : State :=
  let d := (s.viAt vi).dom
  if !d.sw then s
  else
    let n := s.dirtyCount vi
    let s := (s.domainLines vi).foldl (fun s l => (s.cleanHome l).dropHome l) s
    ((s.setDom vi { d with sw := false, sel := !d.sel, wblines := BitVec.ofNat 32 n }).noteSites vi).endDomCmd vi opSwitch
def execDomSwitchComplete (vi : Nat) (s : State) : Host.Outcome State Fault Refusal := .next (s.endSwitch vi)
/-- A write of DOM_CTL: ERR falls by a 1; WB and SWITCH start, and together are refused (R281, R282). -/
def State.writeDomCtl (s : State) (vi x : Nat) : State :=
  let s := if bitAt x 3 then s.setDom vi { (s.viAt vi).dom with err := false } else s
  if bitAt x 1 && bitAt x 2 then s.domErr vi
  else if bitAt x 1 then s.startWb vi
  else if bitAt x 2 then s.startSwitch vi else s

end Sys2Proof.Machine
end

