-- ==== Sys2Proof/Machine/Fetch.lean ====
section
/-! DEFINITION. Fetching the next word of a stand (spec/02 R46-R48), and where a bare word is placed to be the next one fetched. -/

namespace Sys2Proof.Machine

/-- The trap of a fetch (R48, R244). -/
def fetchTrap (pc : Word64) (cause : Nat) : TrapReq :=
  ⟨3, BitVec.ofNat 8 cause, pc, 0, 4, false, allLanes, 0, 0⟩

/-- What a stand finds at its program counter. -/
inductive Fetched where
  | word (s : State) (d : Decoded) (w : BitVec 128)
  | fault (cause : Nat)
  | wait

/-- The bits of the word at a physical address as far as its 32-byte block goes; what lies beyond reads as zero, and a word that
needs it crosses the boundary (R46). -/
def State.fetchBits (s : State) (k pa : Nat) : BitVec 128 :=
  let n := minN 4 ((32 - pa % 32) / 4)
  BitVec.ofNat 128 (((List.range n).map (fun i => s.fetchWord k (pa + 4 * i) * 2 ^ (32 * i))).foldl (· + ·) 0)

/-- Fetch and decode at the program counter of a stand; a page with a live side-log entry is waited for (R256). -/
def State.fetchAt (s : State) (k : Nat) : Fetched :=
  let pc := (s.standAt k).pc.toNat
  if s.pageLogged (s.coreOf k) [(0, pc)] then .wait
  else match s.xlate (copseOf k) .fetch pc with
  | .fault c => .fault c
  | .ok (pa, l) =>
    let w := s.fetchBits k pa
    .word (s.tlbAdd (copseOf k) pc l) (decode (s.kindOf k) w) w

/-- A pad word: fetch goes on at the next 32-byte boundary (R46). -/
def Stand.skipPad (st : Stand) : Stand := { st with pc := BitVec.ofNat 64 (32 * (st.pc.toNat / 32 + 1)) }

/-- A fetch that faults: a page request holds the stand, another cause traps (R48, R244, R245). -/
def State.fetchFault (s : State) (k cause : Nat) : State :=
  let st := s.standAt k
  if cause = 2 then
    let (id, s) := s.postPage (s.viOf k) st.pc.toNat cause
    s.setStand k { s.standAt k with wait := .page [(id, fetchTrap st.pc 6)] none }
  else s.raise k (fetchTrap st.pc cause) st.pc

/-- A word that is no instruction: the lowest ILL cause of its decoding and its place (R54, R55). -/
def State.illWord (s : State) (k cause : Nat) (w : BitVec 128) : State :=
  let st := s.standAt k
  let len := lenBytes (w.toNat % 4)
  let causes := [cause] ++ (if 32 < st.pc.toNat % 32 + len then [3] else [])
    ++ (if s.kindOf k = .sap ∧ w.toNat % 4 ≠ 0 then
          match st.place with | .afterClause => [0xA] | .target => [0xC] | .inClause => [] else [])
  let bits := w.toNat % 2 ^ (8 * len)
  let gp := w.toNat / 2 ^ 13 % 8
  let p := if bitAt w.toNat 12 then allLanes else st.a &&& (if bitAt w.toNat 16 then ~~~(st.pval gp) else st.pval gp)
  s.raise k ⟨0, BitVec.ofNat 8 ((lowest causes).getD cause), st.pc, 0, 0, false, p, BitVec.ofNat 128 bits, 0⟩ st.pc

/-! ### A placed word -/

/-- The physical address where a bare word is placed, and the table pages that map it. -/
def placePc : Nat := 0x40000000
def placeRoot : Nat := 0x1000
def placeTable3 : Nat := 0x2000
def placeTable2 : Nat := 0x3000

/-- Frames with the word's bytes, and a root, a level-3 and a level-2 table whose entry 1 maps the 1 GiB page at placePc. -/
def placeFrames (w : Nat) (m : Mem) : Mem :=
  memWrite (memWrite (memWrite (memWrite m placeRoot (placeTable3 + 1) 8) placeTable3 (placeTable2 + 1) 8)
    (placeTable2 + 8) (placePc + 0xF) 8) placePc w 16

/-- The stage and launch under which a placed word runs. -/
def placeStage : Stage :=
  { Stage.empty with
    sentry := BitVec.ofNat 64 placePc, hentry := BitVec.ofNat 64 placePc, vregs := 256, uregs := 128, smem := 65536, created := 1 }
def placeLaunch : Launch := { Launch.init with running := true, stages := [placeStage] }
/-- Its copse, the only one, on the core of its kind in cluster 140 (field 1, site 0). -/
def placeCopse (k : Kind) : Copse :=
  { Copse.init with life := .resident, launch := 1, nst := 1, core := 560 + (match k with | .heart => 0 | .sap => 1), kind := k,
                    vregs := 256, uregs := 128, alloc := 512 }
/-- Its stand, with every thread active (R71, R72). -/
def placeStand : Stand := { Stand.init with life := .live, copse := 1, pc := BitVec.ofNat 64 placePc, a := allLanes }
/-- The interface that the placed word's context belongs to. -/
def placeVi (v : Vi) : Vi :=
  { v with en := true, ctxRoot := 1, ok := true, agreed := 3, part := [140], dom := { v.dom with sel := false, set0 := ⟨1, 7, 0, [16]⟩ } }.noteSites 1

/-- The device with bring-up behind it, one launch resident and a bare word at its program counter; the next move issues it. -/
def placeWord (s : State) (w : Nat) : State :=
  let k := wordKind w
  { s with
    script := [.issue 16]
    boot := { s.boot with phase := .ready, maint := false, sealed := true, bgen := 1, clusters := [140], slices := [16] }
    vis := tset 0 (placeVi (tget Vi.init s.vis 0)) s.vis
    launches := tset 1 placeLaunch s.launches
    copses := tset 1 (placeCopse k) s.copses
    stands := tset 16 placeStand s.stands
    cores := tset (placeCopse k).core ((tget Core.init s.cores (placeCopse k).core).redeal [1]) s.cores
    frames := placeFrames w s.frames
    nextId := 2 }

end Sys2Proof.Machine
end

