-- ==== Sys2Proof/Machine/Control.lean ====
section
/-! DEFINITION. The control instructions of class 0x0 (spec/04 R96-R111). -/

namespace Sys2Proof.Machine

/-- A control fault (R95): ADDR is the program counter. -/
def ctlTrap (s : State) (i : Instr) (h : Head) (cause : Nat) : TrapReq :=
  let st := s.me
  { trapOf i 1 cause with addr := st.pc, fmask := if h.uni then allLanes else st.part h }

/-- Address of a word plus 4 times the sign-extended 20-bit offset (R97). -/
def relTarget (pc : Word64) (imm : BitVec 20) : Word64 := pc + (imm.signExtend 64 <<< 2)
/-- NextPC (R98). -/
def Stand.nextPc (st : Stand) (i : Instr) : Word64 := st.pc + BitVec.ofNat 64 (wordBytes i)

/-- Threads by target, in the order of their lowest lanes (R98). -/
def addGroup (t : Nat) (pc : Word64) : List (Word64 × Mask) → List (Word64 × Mask)
  | [] => [(pc, laneBit t)]
  | (q, m) :: r => if q = pc then (q, m ||| laneBit t) :: r else (q, m) :: addGroup t pc r
def groupsOf (p : Mask) (tgt : Nat → Word64) : List (Word64 × Mask) :=
  (lanes p).foldl (fun gs t => addGroup t (tgt t) gs) []

/-- The rotation of R105: inside a region with a PEND entry of the region on top and a free entry, the running path goes to position
RB and the top entry runs; where no thread of it is left the stand resumes (R94). AfterTransfer is not applied to the path that comes to run
(DESIGN CHOICE, log 93). -/
def Stand.rotate (st : Stand) : Stand :=
  if st.yc = 0 ∨ st.a = 0 then st
  else match st.stack with
    | e :: r =>
      if e.kind = .pend ∧ st.rb ≤ r.length ∧ r.length + 1 < 32 then
        let stack := r.take (r.length - st.rb) ++ [⟨.pend, some st.pc, st.a⟩] ++ r.drop (r.length - st.rb)
        let m := e.mask &&& ~~~st.exited
        if m = 0 then Stand.resume { st with a := 0, stack := stack } else { st.goto (e.pc.getD 0) with a := m, stack := stack }
      else st
    | [] => st

/-- Pushes PEND entries, the first of the list first (R93). -/
def pushPends (ps : List (Word64 × Mask)) (stack : List Entry) : List Entry := ps.foldl (fun st p => pushPend p.1 p.2 st) stack

/-- Branch (R98) over a stack that may have got a CALL entry (R99): the threads that fall through, and the groups. -/
def branchGroups (s : State) (i : Instr) (h : Head) (rest : Mask) (stack : List Entry) (gs : List (Word64 × Mask)) (rotates : Bool) : Eff :=
  let st := s.me
  match gs with
  | [] => .done s
  | g :: r =>
    if gs.any (fun x => x.1.extractLsb' 0 2 != 0) then .trap { trapOf i 0 0xD with addr := st.pc }
    else
      let stack := pushPends ((st.nextPc i, rest) :: r.reverse) stack
      if 32 < stack.length then .trap (ctlTrap s i h 1)
      else
        let st' := Stand.afterTransfer { st.goto g.1 with a := g.2, stack := stack }
        .goto (s.setMe (if rotates && decide (g.1.toNat ≤ st.pc.toNat) then st'.rotate else st'))

/-- Targets of `brx` and `calx` carried to the running encoding (R128). -/
def carried (s : State) (gs : List (Word64 × Mask)) : Option (List (Word64 × Mask)) :=
  gs.mapM (fun g => (s.carryTarget (copseOf s.cur) g.1.toNat).map (fun t => (BitVec.ofNat 64 t, g.2)))
/-- Groups whose targets have become one are one group. -/
def regroup (gs : List (Word64 × Mask)) : List (Word64 × Mask) :=
  groupsOf (gs.foldl (fun m g => m ||| g.2) 0) (fun t => ((gs.find? (fun g => g.2.getLsbD t)).map Prod.fst).getD 0)

/-- A branch to one target. -/
def branchOne (s : State) (i : Instr) (h : Head) (tgt : Word64) : Eff :=
  let st := s.me
  let p := st.part h
  branchGroups s i h (st.a &&& ~~~p) st.stack (if p = 0 then [] else [(tgt, p)]) true
/-- A call to one target (R99). -/
def callOne (s : State) (i : Instr) (h : Head) (tgt : Word64) : Eff :=
  let st := s.me
  let p := st.part h
  branchGroups s i h 0 (⟨.call, some (st.nextPc i), st.a &&& ~~~p⟩ :: st.stack) (if p = 0 then [] else [(tgt, p)]) false
/-- A branch or call to the targets of SA; a misaligned one is ILL before a control fault (R397). -/
def branchIndexed (s : State) (i : Instr) (f : A64) (call : Bool) : Eff :=
  let st := s.me
  let p := st.part f.h
  let (vs, s) := s.srcs s.cur f.h.uni [(f.sa, true)]
  let gs := groupsOf p ((vs[0]?).getD (fun _ => 0))
  if gs.any (fun x => x.1.extractLsb' 0 2 != 0) then .trap { trapOf i 0 0xD with addr := st.pc }
  else match carried s gs with
    | none => .trap (ctlTrap s i f.h 7)
    | some gs =>
      if call then branchGroups s i f.h 0 (⟨.call, some (st.nextPc i), st.a &&& ~~~p⟩ :: st.stack) (regroup gs) false
      else branchGroups s i f.h (st.a &&& ~~~p) st.stack (regroup gs) true

/-- Forms of the class. -/
def formI (f : I64) (ops : List (Opd × Role)) (bad : List (Nat × Bool)) : Form :=
  { h := f.h, ops := ops, bad := bad, control := true, transfer := true }
def formW (f : W128) (bad : List (Nat × Bool)) : Form :=
  { h := f.h, ops := [(f.sa, .none), (f.sb, .none), (f.dst, .none)], bad := mustZero (f.md == 0) :: bad, control := true, transfer := true }
def formA (f : A64) (sa dst : Role) (md : Bool) (bad : List (Nat × Bool)) : Form :=
  { h := f.h, ops := [(f.sa, sa), (f.sb, .none), (f.dst, dst)], bad := mustZero md :: mustZero (f.ty == 0) :: bad, control := true,
    transfer := true }

def formBra (f : I64) : Form := formI f [(f.sa, .none), (f.dst, .none)] []
def bodyBra (f : I64) (s : State) : Eff := branchOne s (.bra f) f.h (relTarget s.me.pc f.imm)
def execBra (f : I64) (s : State) : Host.Outcome State Fault Refusal := word (.bra f) (formBra f) (bodyBra f) s

def formBraFar (f : W128) : Form := formW f []
def bodyBraFar (f : W128) (s : State) : Eff := branchOne s (.braFar f) f.h f.imm
def execBraFar (f : W128) (s : State) : Host.Outcome State Fault Refusal := word (.braFar f) (formBraFar f) (bodyBraFar f) s

def formBrx (f : A64) : Form := formA f (.val 64) .none (f.md == 0) []
def bodyBrx (f : A64) (s : State) : Eff := branchIndexed s (.brx f) f false
def execBrx (f : A64) (s : State) : Host.Outcome State Fault Refusal := word (.brx f) (formBrx f) (bodyBrx f) s

def formCall (f : I64) : Form := formI f [(f.sa, .none), (f.dst, .none)] []
def bodyCall (f : I64) (s : State) : Eff := callOne s (.call f) f.h (relTarget s.me.pc f.imm)
def execCall (f : I64) (s : State) : Host.Outcome State Fault Refusal := word (.call f) (formCall f) (bodyCall f) s

def formCallFar (f : W128) : Form := formW f []
def bodyCallFar (f : W128) (s : State) : Eff := callOne s (.callFar f) f.h f.imm
def execCallFar (f : W128) (s : State) : Host.Outcome State Fault Refusal := word (.callFar f) (formCallFar f) (bodyCallFar f) s

def formCalx (f : A64) : Form := formA f (.val 64) .none (f.md == 0) []
def bodyCalx (f : A64) (s : State) : Eff := branchIndexed s (.calx f) f true
def execCalx (f : A64) (s : State) : Host.Outcome State Fault Refusal := word (.calx f) (formCalx f) (bodyCalx f) s

/-- The stand goes on at NextPC, or resumes from the stack when A has become empty (R94). -/
def goOn (s : State) (st : Stand) : Eff :=
  if st.a = 0 then .goto (s.setMe st.resume.afterTransfer) else .done (s.setMe st)

/-- `ret` (R100). -/
def retBody (i : Instr) (h : Head) (s : State) : Eff :=
  let st := s.me
  let p := st.part h
  match st.stack.findIdx? (fun e => e.kind == .call) with
  | none => .trap (ctlTrap s i h 5)
  | some j => goOn s { st with stack := setEntry j (fun e => { e with mask := e.mask ||| p }) st.stack, a := st.a &&& ~~~p }
def formRet (f : A64) : Form := formA f .none .none (f.md == 0) []
def bodyRet (f : A64) : State → Eff := retBody (.ret f) f.h
def execRet (f : A64) (s : State) : Host.Outcome State Fault Refusal := word (.ret f) (formRet f) (bodyRet f) s

/-- `exit` (R101); the one that empties A has its place and its threads kept for the stand's deferred traps. -/
def exitBody (h : Head) (s : State) : Eff :=
  let st := s.me
  let p := st.part h
  let st := if st.life = .live ∧ st.a &&& ~~~p = 0 then { st with exitPc := st.pc, exitMask := p } else st
  goOn s { st with exited := st.exited ||| p, a := st.a &&& ~~~p }
def formExit (f : A64) : Form := formA f .none .none (f.md == 0) []
def bodyExit (f : A64) : State → Eff := exitBody f.h
def execExit (f : A64) (s : State) : Host.Outcome State Fault Refusal := word (.exit f) (formExit f) (bodyExit f) s

/-- A push that needs one entry (R93, R102, R103). -/
def pushOne (i : Instr) (h : Head) (e : Entry) (s : State) : Eff :=
  let st := s.me
  if 32 ≤ st.stack.length then .trap (ctlTrap s i h 1) else .done (s.setMe { st with stack := e :: st.stack })
def formSplit (f : A64) : Form := formA f .none .none (f.md == 0) [onlyVec f.h]
def bodySplit (f : A64) : State → Eff := pushOne (.split f) f.h ⟨.join, none, 0⟩
def execSplit (f : A64) (s : State) : Host.Outcome State Fault Refusal := word (.split f) (formSplit f) (bodySplit f) s

/-- `join` (R102). -/
def joinBody (i : Instr) (h : Head) (s : State) : Eff :=
  let st := s.me
  let p := st.part h
  match st.stack.findIdx? (fun e => e.kind == .join) with
  | none => .trap (ctlTrap s i h 4)
  | some j =>
    goOn s { st with stack := setEntry j (fun e => { e with mask := e.mask ||| p, pc := some (st.nextPc i) }) st.stack,
                     a := st.a &&& ~~~p }
def formJoin (f : A64) : Form := formA f .none .none (f.md == 0) [onlyVec f.h]
def bodyJoin (f : A64) : State → Eff := joinBody (.join f) f.h
def execJoin (f : A64) (s : State) : Host.Outcome State Fault Refusal := word (.join f) (formJoin f) (bodyJoin f) s

/-- `rset` (R103): a full stack is cause 0x01, an armed token 0x02. -/
def bodyRset (f : I64) (s : State) : Eff :=
  let st := s.me
  let n := f.dst.num.toNat
  if 32 ≤ st.stack.length then .trap (ctlTrap s (.rset f) f.h 1)
  else if (tokenAt n st.stack).isSome then .trap (ctlTrap s (.rset f) f.h 2)
  else .done (s.setMe { st with stack := ⟨.token n, some (relTarget st.pc f.imm), 0⟩ :: st.stack })
def formRset (f : I64) (s : State) : Form := formI f [(f.sa, .none), (f.dst, .num 8 6)] [onlyVec f.h, (0xD, (relTarget s.me.pc f.imm).extractLsb' 0 2 != 0)]
def execRset (f : I64) (s : State) : Host.Outcome State Fault Refusal := word (.rset f) (formRset f s) (bodyRset f) s

/-- `rwait` (R103). -/
def bodyRwait (f : A64) (s : State) : Eff :=
  let st := s.me
  let p := st.part f.h
  match tokenAt f.sa.num.toNat st.stack with
  | none => .trap (ctlTrap s (.rwait f) f.h 3)
  | some j => goOn s { st with stack := setEntry j (fun e => { e with mask := e.mask ||| p }) st.stack, a := st.a &&& ~~~p }
def formRwait (f : A64) : Form := formA f (.num 8 6) .none (f.md == 0) [onlyVec f.h]
def execRwait (f : A64) (s : State) : Host.Outcome State Fault Refusal := word (.rwait f) (formRwait f) (bodyRwait f) s

/-- `rcancel` (R104). -/
def bodyRcancel (f : A64) (s : State) : Eff :=
  let st := s.me
  match tokenAt f.sa.num.toNat st.stack with
  | none => .trap (ctlTrap s (.rcancel f) f.h 3)
  | some j => .done (s.setMe { st with stack := setEntry j (fun e => { e with kind := .pend }) st.stack })
def formRcancel (f : A64) : Form := formA f (.num 8 6) .none (f.md == 0) [onlyVec f.h]
def execRcancel (f : A64) (s : State) : Host.Outcome State Fault Refusal := word (.rcancel f) (formRcancel f) (bodyRcancel f) s

/-- `yield` with participants (R106): a rotation event inside a region, behind AfterTransfer. -/
def yieldBody (i : Instr) (h : Head) (s : State) : Eff :=
  let st := s.me
  if st.part h = 0 then .done s
  else .goto (s.setMe ((st.advance (s.kindOf s.cur) (wordBytes i)).afterTransfer.rotate))
def formYield (f : A64) (s : State) : Form := { formA f .none .none (f.md == 0) [] with yields := s.me.part f.h != 0 }
def bodyYield (f : A64) : State → Eff := yieldBody (.yield f) f.h
def execYield (f : A64) (s : State) : Host.Outcome State Fault Refusal := word (.yield f) (formYield f s) (bodyYield f) s

/-- `yield.l` (R105). -/
def bodyYieldL (f : A64) (s : State) : Eff :=
  let st := s.me
  if st.yc = 15 then .trap (ctlTrap s (.yieldL f) f.h 6)
  else .done (s.setMe { st with yc := st.yc + 1, rb := if st.yc = 0 then st.stack.length else st.rb })
def formYieldL (f : A64) : Form := formA f .none .none (f.md == 0) [onlyVec f.h]
def execYieldL (f : A64) (s : State) : Host.Outcome State Fault Refusal := word (.yieldL f) (formYieldL f) (bodyYieldL f) s

/-- `yield.l.end` (R105). -/
def bodyYieldLEnd (f : A64) (s : State) : Eff :=
  let st := s.me
  if st.yc = 0 then .trap (ctlTrap s (.yieldLEnd f) f.h 6) else .done (s.setMe { st with yc := st.yc - 1 })
def formYieldLEnd (f : A64) : Form := formA f .none .none (f.md == 1) [onlyVec f.h]
def execYieldLEnd (f : A64) (s : State) : Host.Outcome State Fault Refusal := word (.yieldLEnd f) (formYieldLEnd f) (bodyYieldLEnd f) s

/-- `sleep` (R107): `sleep 0` acts as `yield`. -/
def bodySleep (f : I64) (s : State) : Eff :=
  let st := s.me
  if st.part f.h = 0 then .done s
  else if f.imm = 0 then yieldBody (.sleep f) f.h s
  else .done (s.setMe { st with wait := .sleep f.imm.toNat })
def formSleep (f : I64) (s : State) : Form := { formI f [(f.sa, .none), (f.dst, .none)] [] with yields := s.me.part f.h != 0 && f.imm == 0 }
def execSleep (f : I64) (s : State) : Host.Outcome State Fault Refusal := word (.sleep f) (formSleep f s) (bodySleep f) s

/-- The instructions of the class that transfer no control (R47). -/
def formQ (f : A64) (sa dst : Role) (md : Bool) (bad : List (Nat × Bool)) : Form := { formA f sa dst md bad with transfer := false }

/-- `elect` (R108). -/
def formElect (f : A64) : Form := formQ f .none .preg (f.md == 0) [onlyVec f.h]
def bodyElect (f : A64) (s : State) : Eff := s.now (outPred false (s.me.part f.h) f.dst.num.toNat (fun t => t == lowLane (s.me.part f.h)))
def execElect (f : A64) (s : State) : Host.Outcome State Fault Refusal := word (.elect f) (formElect f) (bodyElect f) s

/-- The threads of P whose predicate is 1 (R109). -/
def voteSet (f : A64) (s : State) : Mask := s.me.part f.h &&& s.me.pval f.sa.num.toNat
def formVote (f : A64) : Form := formQ f .preg .qdst (f.md != 3) [onlyVec f.h]
def bodyVote (f : A64) (s : State) : Eff :=
      let x := voteSet f s
      let p := s.me.part f.h
      s.now (outPred true p f.dst.num.toNat (fun _ => if f.md = 0 then x == p else if f.md = 1 then x != 0 else x == p || x == 0))
def execVote (f : A64) (s : State) : Host.Outcome State Fault Refusal := word (.vote f) (formVote f) (bodyVote f) s
/-- A mask written to a pair of s registers (R109, R110). -/
def maskPair (n : Nat) (m : Mask) : Pend := { Pend.empty with sw := [(n, m.extractLsb' 0 64), (n + 1, m.extractLsb' 64 64)] }
def formVoteBallot (f : A64) : Form := formQ f .preg (.udst 2) (f.md == 3) [onlyVec f.h]
def bodyVoteBallot (f : A64) (s : State) : Eff := s.now (maskPair f.dst.num.toNat (voteSet f s))
def execVoteBallot (f : A64) (s : State) : Host.Outcome State Fault Refusal := word (.voteBallot f) (formVoteBallot f) (bodyVoteBallot f) s
/-- `actm` (R110). -/
def formActm (f : A64) : Form := formQ f .none (.udst 2) (f.md == 0) [onlyVec f.h]
def bodyActm (f : A64) (s : State) : Eff := s.now (maskPair f.dst.num.toNat (s.me.part f.h))
def execActm (f : A64) (s : State) : Host.Outcome State Fault Refusal := word (.actm f) (formActm f) (bodyActm f) s
/-- `nop` (R111). -/
def formNop (f : A64) : Form := formQ f .none .none (f.md == 0) []
def bodyNop (_ : A64) (s : State) : Eff := .done s
def execNop (f : A64) (s : State) : Host.Outcome State Fault Refusal := word (.nop f) (formNop f) (bodyNop f) s

end Sys2Proof.Machine
end

