-- ==== Sys2Proof/Machine/Copies.lean ====
section
/-! DEFINITION. Class 0xA: asynchronous copies, tile descriptors and channels (spec/14 R318-R342), and the delivery of copies by
their engines. -/

namespace Sys2Proof.Machine

/-! ### Tile descriptors (R326, R327, R330) -/

def descBase (d : Nat) : Nat := bits d 63 0
def descStride (d : Nat) : Nat := bits d 95 64
def descBytes (d : Nat) : Nat := bits d 111 96
def descRows (d : Nat) : Nat := bits d 120 112 + 1
/-- A descriptor is valid (R326). -/
def descOk (d : Nat) : Bool :=
  bitAt d 127 && bits d 126 121 == 0 && descBase d % 16 == 0 && descStride d % 16 == 0 && 16 ≤ descBytes d && descBytes d % 16 == 0
    && (descRows d == 1 || descBytes d ≤ descStride d) && descRows d * descBytes d ≤ 65536
    && descBase d + (descRows d - 1) * descStride d + descBytes d ≤ 2 ^ 57
/-- The rows as runs of addresses and lengths. -/
def descRuns (d : Nat) : List (Nat × Nat) := (List.range (descRows d)).map (fun i => (descBase d + i * descStride d, descBytes d))

/-! ### Starting a copy (R319, R320, R322, R329) -/

def bwLen (b : Nat) : Nat := bits b 16 0
def bwCrix (b : Nat) : Nat := bits b 27 17
def bwCrb (b : Nat) : Bool := bitAt b 28
def bwSlot (b : Nat) : Nat := bits b 30 29
def bwGrp (b : Nat) : Nat := bits b 34 31
def bwSm (b : Nat) : Nat := bits b 42 35
def bwPh (b : Nat) : Nat := bits b 44 43
/-- The zero fields of a binding word (R319). -/
def bwZeros (b : Nat) : Bool := bits b 63 45 == 0 && (bwCrb b || (bwCrix b == 0 && bwSlot b == 0))

/-- Lines that a range covers only in part. -/
def partLines (off len : Nat) : List Nat := (linesOf off len).filter (fun l => !(off ≤ 128 * l && 128 * l + 128 ≤ off + len))
/-- Of those, the untouched ones of a region, whose first-touch fill an inward copy raises (R320). -/
def Copse.copyTouches (c : Copse) (off len : Nat) : List Nat :=
  (partLines off len).filter (fun l => !(c.lineAt l).touched && (c.lineAt l).region != 0)
/-- A copy takes its destination lines in the scratchpad (R320): it clears their full bits and is their filler. -/
def State.takeLines (s : State) (copse seq off len : Nat) : State :=
  let s := s.touchLines copse (partLines off len)
  let c := s.copseAt copse
  s.setCopse copse ((linesOf off len).foldl (fun c l =>
    c.setLine l { c.lineAt l with full := false, filler := some (.copy seq), touched := true }) c)
/-- A scratchpad byte that an engine reads: between the acceptance and now either value, where it has changed (R229, R335). -/
def State.snapByte (s : State) (copse : Nat) (snap : List (Nat × Mem)) (a : Nat) : Byte :=
  let now := memGet (s.copseAt copse).scratch a
  match tfind (a / 128) snap with
  | none => now
  | some m => if memGet m (a % 128) = now then now else if s.coin a then memGet m (a % 128) else now

/-- A trap of a copy instruction. -/
def copyTrap (i : Instr) (cls cause addr : Nat) (space : Bool) (akind : Nat) (sm : Nat) : TrapReq :=
  { trapOf i cls cause with addr := BitVec.ofNat 64 addr, space := space, akind := BitVec.ofNat 4 akind, sm := BitVec.ofNat 8 sm }

/-- Checks and acceptance of a copy (R322): `bad6` is CPY cause 0x06. -/
def State.startCopy (s : State) (i : Instr) (form : CopyForm) (off : Nat) (runs : List (Nat × Nat)) (bw : Nat) (ntf : Option Nat)
    (bad6 : Bool) : Eff :=
  let k := s.cur
  let copse := copseOf k
  let c := s.myCopse
  let len := runs.foldl (fun n r => n + r.2) 0
  let ls := linesOf off len
  let ga := (runs.headD (0, 0)).1
  let o := 32 * bwCrix bw
  if off % 16 ≠ 0 ∨ ga % 16 ≠ 0 ∨ !c.inAlloc off len then .trap (copyTrap i 6 1 off false 0 0)
  else if form.inward && ls.any (fun l => !(c.lineAt l).full && (match (c.lineAt l).filler with | some (.copy _) => true | _ => false)) then
    .trap (copyTrap i 6 2 off false 0 0)
  else if bwCrb bw && !(c.inAlloc o 32 && (c.lineAt (o / 128)).bm) then .trap (copyTrap i 6 4 o false 0 0)
  else if (match ntf with | some n => s.chanBad copse c.core (16 + n) false | none => false) then .trap (copyTrap i 6 5 off false 0 0)
  else if bad6 then .trap (copyTrap i 6 6 off false 0 0)
  else if form.inward && c.linesMarked ls then
    .trap (copyTrap i 5 2 (maxN off (128 * ((ls.find? (fun l => (c.lineAt l).bm)).getD 0))) true 6 0)
  else if runs.any (fun r => 2 ^ 57 < r.1 + r.2) then .trap (copyTrap i 3 1 ga false (if form.inward then 5 else 6) (bwSm bw))
  else if !s.engineRoom copse (1 + (if form.inward then (c.copyTouches off len).length else 0)) || decide (copyLimit ≤ c.copies.length) then .stay s
  else
    let seq := s.nextId
    let st := s.me
    let cp : Copy :=
      { seq := seq, stand := k, num := st.copySeq, form := form, off := off, runs := runs,
        cr := if bwCrb bw then some (o, bwSlot bw) else none, grp := BitVec.ofNat 4 (bwGrp bw), sm := BitVec.ofNat 8 (bwSm bw),
        ph := BitVec.ofNat 2 (bwPh bw), ntf := ntf, todo := [], lines := 0, parked := none, fate := none, status := none,
        snap := if form.inward then [] else c.snapLines off len }
    let cp := { cp with todo := List.range cp.units.length }
    let s := { s with nextId := seq + 1 }.setStand k { st with copySeq := st.copySeq + 1 }
    let s := s.setMyCopse { s.myCopse with copies := s.myCopse.copies ++ [cp] }
    let s := if form.inward then s.takeLines copse seq off len else s
    .done (match ntf with
      | none => s
      | some n =>
        let ch := s.chanAt c.core (16 + n)
        s.setChan c.core (16 + n) { ch with due := ch.due + 1 })

/-- NTF and n of the MOD fields. -/
def ntfOf (on : Bool) (n : Nat) : Option Nat := if on then some n else none
def cpyForm (f : W128) : Form :=
  let b := f.imm.toNat
  { h := f.h, ops := [(f.sa, .usrc 1 false), (f.sb, .none), (f.dst, .usrc 1 false)],
    bad := [onlyUni f.h, mustZero (bwLen b != 0 && bwLen b ≤ 0x10000 && bwLen b % 16 == 0 && bwZeros b && f.md.toNat < 32
              && (f.md.getLsbD 4 || f.md.toNat % 16 == 0))] }
def cpyBody (i : Instr) (form : CopyForm) (f : W128) (s : State) : Eff :=
  let k := s.cur
  s.startCopy i form ((s.rdS k f.dst.num.toNat).toNat % 2 ^ 32) [((s.rdS k f.sa.num.toNat).toNat, bwLen f.imm.toNat)] f.imm.toNat
    (ntfOf (f.md.getLsbD 4) (f.md.toNat % 16)) false
def formCpy (f : W128) : Form := cpyForm f
def bodyCpy (f : W128) : State → Eff := cpyBody (.cpy f) .cpy f
def execCpy (f : W128) (s : State) : Host.Outcome State Fault Refusal := word (.cpy f) (formCpy f) (bodyCpy f) s
def formCpyO (f : W128) : Form := cpyForm f
def bodyCpyO (f : W128) : State → Eff := cpyBody (.cpyO f) .cpyO f
def execCpyO (f : W128) (s : State) : Host.Outcome State Fault Refusal := word (.cpyO f) (formCpyO f) (bodyCpyO f) s

def cpyTForm (f : E96) : Form :=
  { h := f.h, ops := [(f.sa, .num 16 6), (f.sb, .usrc 1 false), (f.sc, .none), (f.dst, .usrc 1 false)],
    bad := [onlyUni f.h, mustZero (f.imm == 0 && f.md.toNat % 4 < 2 && f.md.toNat < 128 && (f.md.getLsbD 6 || bits f.md.toNat 5 2 == 0))] }
/-- `cpy.t.in` and `cpy.t.out`: a misaligned offset comes before an invalid descriptor (R322). -/
def cpyTBody (i : Instr) (form : CopyForm) (f : E96) (s : State) : Eff :=
  let k := s.cur
  let off := (s.rdS k f.dst.num.toNat).toNat % 2 ^ 32
  let bw := (s.rdS k f.sb.num.toNat).toNat
  let d := (tget 0 s.me.d f.sa.num.toNat).toNat
  if !descOk d then .trap (copyTrap i 6 (if off % 16 ≠ 0 then 1 else 3) off false 0 0)
  else s.startCopy i form off (descRuns d) bw (ntfOf (f.md.getLsbD 6) (bits f.md.toNat 5 2)) (bwLen bw != 0 || !bwZeros bw)
def formCpyTIn (f : E96) : Form := cpyTForm f
def bodyCpyTIn (f : E96) : State → Eff := cpyTBody (.cpyTIn f) .tIn f
def execCpyTIn (f : E96) (s : State) : Host.Outcome State Fault Refusal := word (.cpyTIn f) (formCpyTIn f) (bodyCpyTIn f) s
def formCpyTOut (f : E96) : Form := cpyTForm f
def bodyCpyTOut (f : E96) : State → Eff := cpyTBody (.cpyTOut f) .tOut f
def execCpyTOut (f : E96) (s : State) : Host.Outcome State Fault Refusal := word (.cpyTOut f) (formCpyTOut f) (bodyCpyTOut f) s

/-- `cpy.t.def` (R330). -/
def descMake (a b : Nat) : Nat := a + bits b 31 0 * 2 ^ 64 + bits b 47 32 * 2 ^ 96 + bits b 56 48 * 2 ^ 112 + 2 ^ 127
def formCpyTDef (f : E96) : Form :=
  { h := f.h, ops := [(f.sa, .usrc 1 false), (f.sb, .usrc 1 false), (f.sc, .none), (f.dst, .num 16 6)],
    bad := [onlyUni f.h, mustZero (f.imm == 0 && f.md == 2)] }
def bodyCpyTDef (f : E96) (s : State) : Eff :=
  let k := s.cur
  let a := (s.rdS k f.sa.num.toNat).toNat
  let b := (s.rdS k f.sb.num.toNat).toNat
  if bits b 63 57 ≠ 0 ∨ !descOk (descMake a b) then .trap (copyTrap (.cpyTDef f) 6 3 a false 0 0)
  else .done (s.setMe { s.me with d := tset f.dst.num.toNat (BitVec.ofNat 128 (descMake a b)) s.me.d })
def execCpyTDef (f : E96) (s : State) : Host.Outcome State Fault Refusal := word (.cpyTDef f) (formCpyTDef f) (bodyCpyTDef f) s

/-! ### Waiting, cancelling and asking (R331-R334) -/

/-- The roles of the A64 forms of the class. -/
def copyA (f : A64) (sa dst : Role) (md : Bool) : Form :=
  { h := f.h, ops := [(f.sa, sa), (f.sb, .none), (f.dst, dst)], bad := [onlyUni f.h, badTy (f.ty == 0), mustZero md] }
def bodyCpwait (f : A64) (s : State) : Eff :=
  let m : BitVec 16 := (s.rdS s.cur f.sa.num.toNat).setWidth 16
  if (s.copiesOf s.cur).any (fun c => m.getLsbD c.grp.toNat) then .stay (s.setMe { s.me with wait := .copies m }) else .done s
def formCpwait (f : A64) : Form := copyA f (.usrc 1 false) .none (f.md == 0)
def execCpwait (f : A64) (s : State) : Host.Outcome State Fault Refusal := word (.cpwait f) (formCpwait f) (bodyCpwait f) s

/-- A stand waits for a phase of a record (R365): its status now, or none once its PARK bit is set. -/
def State.phaseNow (s : State) (copse o : Nat) (ph : Nat) : Option Bool :=
  if recPH (s.recAt copse o) ≠ ph then some (recBRK (s.recAt copse o) == 0) else none
def State.park (s : State) (k o : Nat) : State :=
  let copse := copseOf k
  s.setRec copse o (setBits (s.recAt copse o) (32 + k % 16) (32 + k % 16) 1)

/-- `cpyield` (R332): a stand that waits keeps its program counter here and goes on at the continuation. -/
def bodyCpyield (f : I64) (s : State) : Eff :=
  let k := s.cur
  let copse := copseOf k
  let a := (s.rdS k f.sa.num.toNat).toNat
  let o := bits a 15 0
  let ph := bits a 16 16
  let d := f.dst.num.toNat
  let tgt := relTarget s.me.pc f.imm
  if !(s.myCopse.recPlaceOk o && (s.myCopse.lineAt (o / 128)).bm) then .trap (copyTrap (.cpyield f) 6 4 o true 0 0)
  else match s.phaseNow copse o ph with
    | some b => .goto (s.setMe (({ s.me with q := setQ s.me.q d b } : Stand).goto tgt))
    | none => .goto ((s.setMe { s.me with wait := .cont (BitVec.ofNat 16 o) (ph == 1) d tgt }).park k o)
def cpyieldForm (f : I64) (pc : Word64) : Form :=
  { h := f.h, ops := [(shortOpd f.h.uni f.sa, .usrc 1 false), (f.dst, .qdst)],
    bad := [onlyUni f.h, (0xD, (relTarget pc f.imm).extractLsb' 0 2 != 0)], transfer := true }
def formCpyield (f : I64) (s : State) : Form := cpyieldForm f s.me.pc
def execCpyield (f : I64) (s : State) : Host.Outcome State Fault Refusal := word (.cpyield f) (formCpyield f s) (bodyCpyield f) s

/-- `cfe` (R333). -/
def cfeBits (c : Copse) (l : Nat) (bm : Bool) : Nat :=
  (List.range 64).foldl (fun x i =>
    x + (if l + i < c.alloc ∧ (if bm then (c.lineAt (l + i)).bm else (c.lineAt (l + i)).full) then 2 ^ i else 0)) 0
def formCfe (f : A64) : Form := copyA f (.usrc 1 false) (.udst 1) (f.md.toNat ≤ 1)
def bodyCfe (f : A64) (s : State) : Eff := s.now { Pend.empty with
      sw := [(f.dst.num.toNat, BitVec.ofNat 64 (cfeBits s.myCopse (bits (s.rdS s.cur f.sa.num.toNat).toNat 31 7) (f.md == 1)))] }
def execCfe (f : A64) (s : State) : Host.Outcome State Fault Refusal := word (.cfe f) (formCfe f) (bodyCfe f) s

/-- `cpcan` (R334) completes when every copy it cancels has ended. -/
def bodyCpcan (f : A64) (s : State) : Eff :=
  let k := s.cur
  let m : BitVec 16 := (s.rdS k f.sa.num.toNat).setWidth 16
  let hit := (s.myCopse.copies.filter (fun c => (f.md == 1 || c.stand == k) && m.getLsbD c.grp.toNat)).map (fun c => c.seq)
  let s := hit.foldl (fun s q => match (s.copseAt (copseOf k)).copyOf q with
    | some x => if x.fate.isSome then s else s.copyCancel (copseOf k) q 1
    | none => s) s
  if hit.any (fun q => (s.myCopse.copyOf q).isSome) then .long s { Pend.empty with on := .copies hit } else .done s
def formCpcan (f : A64) : Form := copyA f (.usrc 1 false) .none (f.md.toNat ≤ 1)
def execCpcan (f : A64) (s : State) : Host.Outcome State Fault Refusal := word (.cpcan f) (formCpcan f) (bodyCpcan f) s

/-! ### Channels (R336-R341) -/

def chForm (f : I64) (send : Bool) : Form :=
  { h := f.h,
    ops := if send then [(shortOpd f.h.uni f.sa, .src 1 1 false false), (f.dst, .none)]
      else [(f.sa, .none), (shortOpd f.h.uni f.dst, .dst 1 1 false false)],
    bad := [mustZero (f.imm.toNat < 64)] }
/-- The channel as an operand field. -/
def chOpd (f : I64) : Opd := ⟨BitVec.ofNat 8 (f.imm.toNat % 64), false, true, false⟩
def bodyChsend (f : I64) (s : State) : Eff :=
  let k := s.cur
  let core := s.coreOf k
  let n := f.imm.toNat % 64
  if s.chanBad (copseOf k) core n true then .trap (s.me.chanTrap (.chsend f) (chForm f true))
  else if s.chanFree core n = 0 then .stay s
  else s.now (outVals f.h.uni (s.me.part f.h) (chOpd f) false (s.srcVal k f.h.uni false (shortOpd f.h.uni f.sa)))
def formChsend (f : I64) : Form := chForm f true
def execChsend (f : I64) (s : State) : Host.Outcome State Fault Refusal := word (.chsend f) (formChsend f) (bodyChsend f) s
def bodyChrecv (f : I64) (s : State) : Eff :=
  let k := s.cur
  let core := s.coreOf k
  let n := f.imm.toNat % 64
  if s.chanBad (copseOf k) core n false then .trap (s.me.chanTrap (.chrecv f) (chForm f false))
  else if (s.chanAt core n).entries = [] then .stay s
  else
    let v := s.srcVal k f.h.uni false (chOpd f)
    (s.srcPop k f.h.uni false (chOpd f)).now (outVals f.h.uni (s.me.part f.h) (shortOpd f.h.uni f.dst) false v)
def formChrecv (f : I64) : Form := chForm f false
def execChrecv (f : I64) (s : State) : Host.Outcome State Fault Refusal := word (.chrecv f) (formChrecv f) (bodyChrecv f) s

/-- The channel store of a core (R338). -/
def chanStore : Nat := 128
/-- `chcfg.set` (R339): its status, in the order of the table. -/
def State.chanSet (s : State) (copse core n depth : Nat) : Nat :=
  let ch := s.chanAt core n
  let rest := ((s.coreAt core).chans.filter (fun e => e.1 != n)).foldl (fun x e => x + e.2.depth) 0
  if s.maint ∨ n < 16 then 1
  else if ch.owner.isSome ∧ ch.owner ≠ some copse then 2
  else if 32 < depth ∨ chanStore < rest + depth then 3
  else if depth < ch.used then 4
  else if depth = 0 ∧ ch.due ≠ 0 then 5 else 0
def formChcfgSet (f : A64) : Form := copyA f (.usrc 1 false) (.udst 1) (f.md == 0)
def bodyChcfgSet (f : A64) (s : State) : Eff :=
      let k := s.cur
      let core := s.coreOf k
      let a := (s.rdS k f.sa.num.toNat).toNat
      let n := bits a 5 0
      let depth := bits a 11 6
      let st := s.chanSet (copseOf k) core n depth
      let s := if st ≠ 0 then s
        else s.setChan core n { s.chanAt core n with depth := depth, owner := if depth = 0 then none else some (copseOf k) }
      s.now { Pend.empty with sw := [(f.dst.num.toNat, BitVec.ofNat 64 st)] }
def execChcfgSet (f : A64) (s : State) : Host.Outcome State Fault Refusal := word (.chcfgSet f) (formChcfgSet f) (bodyChcfgSet f) s
/-- `chcfg.q` (R339). -/
def State.chanState (s : State) (copse core n : Nat) : Nat :=
  let ch := s.chanAt core n
  let depth := if n < 16 then 0 else s.chanDepth core n
  depth + ch.used % 64 * 64 + (depth - ch.used) % 64 * 2 ^ 12 + (if ch.owner = some copse then 2 ^ 18 else 0)
def formChcfgQ (f : A64) : Form := copyA f (.usrc 1 false) (.udst 1) (f.md == 1)
def bodyChcfgQ (f : A64) (s : State) : Eff :=
      let k := s.cur
      s.now { Pend.empty with
        sw := [(f.dst.num.toNat, BitVec.ofNat 64 (s.chanState (copseOf k) (s.coreOf k) (bits (s.rdS k f.sa.num.toNat).toNat 5 0)))] }
def execChcfgQ (f : A64) (s : State) : Host.Outcome State Fault Refusal := word (.chcfgQ f) (formChcfgQ f) (bodyChcfgQ f) s

/-! ### Delivery (R320, R321, R323, R324) -/

/-- The page of a unit: the last it meets (R320). -/
def unitPage (u : List Piece) : Nat := u.foldl (fun m p => maxN m (pageOf (p.1 + p.2.2 - 1))) 0
/-- Undelivered units of the first unfinished page. -/
def Copy.ripe (x : Copy) : List Nat :=
  let us := x.units
  let page (i : Nat) : Nat := unitPage ((us[i]?).getD [])
  match lowest (x.todo.map page) with
  | none => []
  | some p => x.todo.filter (fun i => page i == p)
/-- Global lines of undelivered units. -/
def Copy.globals (x : Copy) : List Nat :=
  let us := x.units
  (x.todo.flatMap (fun i => ((us[i]?).getD []).map (fun p => p.1 / 128))).dedup
/-- An earlier copy of the copse still has to touch a global line that one of them writes (R335). -/
def Copse.copyBehind (c : Copse) (x : Copy) (u : List Piece) : Bool :=
  c.copies.any (fun y => y.seq < x.seq && y.status.isNone && (!y.form.inward || !x.form.inward)
    && y.globals.any (fun l => u.any (fun p => p.1 / 128 == l)))
/-- An earlier operand fetch of the copse still has to read bytes that the copy writes (R213, R335). -/
def State.fetchBehind (s : State) (copse : Nat) (x : Copy) (u : List Piece) : Bool :=
  !x.form.inward && (s.clusterAt (clusterOf (s.copseAt copse).core)).eng.recs.any (fun r => r.2.copse == copse && r.2.queue.any (fun q =>
    q.seq < x.seq && q.phase != .complete && (match q.op with
      | .fillG _ _ _ d => (descRuns d.toNat).any (fun r => u.any (fun p => p.1 < r.1 + r.2 && r.1 < p.1 + p.2.2))
      | _ => false)))
/-- Translation of a unit: the physical address of each piece, or the first cause with its address. -/
def State.unitXlate (s : State) (copse : Nat) (acc : Acc) : List Piece → Xl (List (Nat × Piece)) × Nat
  | [] => (.ok [], 0)
  | p :: r =>
    match s.xlate copse acc p.1 with
    | .fault c => (.fault c, p.1)
    | .ok (pa, _) =>
      match s.unitXlate copse acc r with
      | (.ok xs, _) => (.ok ((pa, p) :: xs), 0)
      | e => e
/-- The trap of a copy (R398). -/
def Copy.trap (x : Copy) (cls cause addr : Nat) (space : Bool) (akind : Nat) : TrapReq :=
  ⟨BitVec.ofNat 8 cls, BitVec.ofNat 8 cause, BitVec.ofNat 64 addr, if space then 0 else x.sm, BitVec.ofNat 4 akind, space, allLanes, 0,
    x.num.setWidth 64⟩
def Copy.akind (x : Copy) : Nat := if x.form.inward then 5 else 6
/-- The address of a copy's first undelivered line (R323): what it meets first there that does not translate, or else its first byte. -/
def State.copyLine (s : State) (copse : Nat) (x : Copy) : Nat :=
  let u := (x.units[(lowest x.ripe).getD 0]?).getD []
  match s.unitXlate copse (if x.form.inward then .read else .write) u with
  | (.fault _, va) => 128 * (va / 128)
  | (.ok _, _) => match u with | p :: _ => 128 * (p.1 / 128) | [] => 0
/-- The cause there, or else that of the line that was tried. -/
def State.copyCause (s : State) (copse : Nat) (x : Copy) (cause : Nat) : Nat :=
  match s.unitXlate copse (if x.form.inward then .read else .write) ((x.units[(lowest x.ripe).getD 0]?).getD []) with
  | (.fault c, _) => c
  | (.ok _, _) => cause
/-- A copy meets a page that does not translate, at its first undelivered line (R323); a malformed entry ends it as a denial does. -/
def State.copyPark (s : State) (copse : Nat) (x : Copy) (cause line : Nat) : State :=
  if cause = 2 ∨ cause = 3 then
    if !s.deferRoom x.stand then s
    else
      let (id, s) := s.postPage (s.copseAt copse).vi line cause
      let s := s.setCopse copse ((s.copseAt copse).mapCopy x.seq (fun x => { x with parked := some id }))
      s.deferTrap x.stand (x.trap 3 cause line false x.akind)
  else s.copyFail copse x.seq 2 (x.trap 3 6 line false x.akind)
/-- The bytes of one piece moved. -/
def State.movePiece (s : State) (copse : Nat) (x : Copy) (q : Nat × Piece) : State :=
  let c := s.copseAt copse
  let (pa, (_, o, n)) := q
  if x.form.inward then
    let s := if isWindow pa then s else s.noteLoad c.vi c.core (pa / 128) x.ph
    s.setCopse copse ((s.copseAt copse).put o (bytesOf (s.homeRead pa n) n))
  else
    let s := if x.ph == 1 && !isWindow pa then s.pinLine c.vi (pa / 128) else s
    let bs := (List.range n).map (fun i => (pa % 128 + i, s.snapByte copse x.snap (o + i)))
    (s.engineWrite c.vi (fieldOfCore c.core) (pa / 128) bs (x.ph == 2)).noteEngine copse 4 (pa / 128)
/-- A unit has been delivered (R320, R321). -/
def State.unitDone (s : State) (copse : Nat) (x : Copy) (i : Nat) (u : List Piece) : State :=
  let c := s.copseAt copse
  let c := if x.form.inward then (u.map (fun p => p.2.1 / 128)).foldl (fun c l => c.setLine l { c.lineAt l with full := true, filler := none }) c
    else c
  let s := s.setCopse copse (c.mapCopy x.seq (fun x => { x with todo := x.todo.erase i, lines := x.lines + 1 }))
  let s := match x.cr with | some (o, slot) => s.recDeliver copse o slot x.stand | none => s
  if x.todo.erase i = [] then s.copyEnd copse x.seq 0 else s
/-- One line of a copy (R320). -/
def State.deliver (s : State) (copse seq : Nat) : State :=
  let c := s.copseAt copse
  match c.copyOf seq with
  | none => s
  | some x =>
    if x.status.isSome ∨ c.life ≠ .resident then s
    else match x.fate with
    | some (st, t) => s.copyFail copse seq st t
    | none =>
      let ripe := x.ripe
      if x.parked.isSome ∨ ripe = [] then s
      else
        let (j, s) := if ripe.length = 1 then (0, s) else s.pick ripe.length
        let i := (ripe[j]?).getD 0
        let u := (x.units[i]?).getD []
        let ls := (u.map (fun p => p.2.1 / 128)).dedup
        if c.copyBehind x u || s.fetchBehind copse x u then s
        else match s.unitXlate copse (if x.form.inward then .read else .write) u with
        | (.fault cause, _) => s.copyPark copse x (s.copyCause copse x cause) (s.copyLine copse x)
        | (.ok qs, _) =>
          if x.form.inward then
            match x.restLines.find? (fun l => (c.lineAt l).bm) with
            | some l => s.copyFail copse seq 1 (x.trap 5 2 (maxN x.off (128 * l)) true 6)
            | none =>
              let s := s.touchLines copse ls
              if ls.any (s.copseAt copse).awaitsFill then s
              else if qs.any (fun q => s.stagedLine (q.1 / 128)) then s.holdAt (.copy copse seq x.todo.length) (qs.map (fun q => q.1 / 128))
              else (qs.foldl (fun s q => s.movePiece copse x q) s).unitDone copse x i u
          else
            let s := s.touchLines copse ls
            let c := s.copseAt copse
            match ls.find? (fun l => !(c.lineAt l).full && (c.lineAt l).filler == none) with
            | some l => s.copyFail copse seq 1 (x.trap 4 3 (maxN x.off (128 * l)) true 5)
            | none =>
              if !c.linesFull ls then s
              else if qs.any (fun q => s.stagedLine (q.1 / 128)) then s.holdAt (.copy copse seq x.todo.length) (qs.map (fun q => q.1 / 128))
              else (qs.foldl (fun s q => s.movePiece copse x q) s).bump.unitDone copse x i u
def execCopyLineDeliver (copse seq : Nat) (s : State) : Host.Outcome State Fault Refusal := .next (s.deliver copse seq)

/-- The status entry of a copy (R321). -/
def Copy.entry (x : Copy) (st : BitVec 2) : ChanEntry :=
  entryOf [(0, BitVec.ofNat 32 (x.lines % 1024 + st.toNat * 1024 + x.grp.toNat * 4096)), (1, x.num)]
/-- An ended copy's status entry is pushed when its channel has room, and the copy is then no longer outstanding. -/
def State.pushStatus (s : State) (copse seq : Nat) : State :=
  let c := s.copseAt copse
  match c.copyOf seq with
  | none => s
  | some x =>
    match x.status, x.ntf with
    | some st, some n =>
      if c.life ≠ .resident ∨ s.chanFree c.core (16 + n) = 0 then s
      else
        let s := s.chanPush c.core (16 + n) [x.entry st]
        let ch := s.chanAt c.core (16 + n)
        let s := s.setChan c.core (16 + n) { ch with due := ch.due - 1 }
        (s.setCopse copse ((s.copseAt copse).dropCopy seq)).wakeCopies copse
    | _, _ => s
def execCopyStatusPush (copse seq : Nat) (s : State) : Host.Outcome State Fault Refusal := .next (s.pushStatus copse seq)

end Sys2Proof.Machine
end

