-- ==== Sys2Proof/Machine/Work.lean ====
section
/-! DEFINITION. Class 0x1: tickets, stage queues and the work instructions (spec/03 R73-R79, R85-R88), the graft gate and move
requests (spec/05 R129, R133-R136). A ticket range is a list of half-open intervals in ascending order. -/

namespace Sys2Proof.Machine

/-! ### Ticket ranges -/

abbrev Ranges := List (Nat × Nat)
def Ranges.count (r : Ranges) : Nat := r.foldl (fun n x => n + (x.2 - x.1)) 0
/-- The lowest n tickets, and the rest. -/
def Ranges.low : Nat → Ranges → Ranges × Ranges
  | _, [] => ([], [])
  | n, (a, b) :: r =>
    if n = 0 then ([], (a, b) :: r)
    else if n < b - a then ([(a, a + n)], (a + n, b) :: r)
    else
      let (x, y) := Ranges.low (n - (b - a)) r
      ((a, b) :: x, y)
/-- The top n tickets, and the rest. -/
def Ranges.top (n : Nat) (r : Ranges) : Ranges × Ranges :=
  let (x, y) := Ranges.low (r.count - n) r
  (y, x)
/-- One interval put in order; intervals that touch become one. -/
def Ranges.ins (a b : Nat) : Ranges → Ranges
  | [] => if a < b then [(a, b)] else []
  | (c, d) :: r =>
    if b ≤ a then (c, d) :: r
    else if b < c then (a, b) :: (c, d) :: r
    else if d < a then (c, d) :: Ranges.ins a b r
    else Ranges.ins (minN a c) (maxN b d) r
def Ranges.join (x y : Ranges) : Ranges := x.foldl (fun r i => Ranges.ins i.1 i.2 r) y

/-! ### Stages (R65, R73) -/

def Launch.setStage (l : Launch) (n : Nat) (st : Stage) : Launch := { l with stages := l.stages.set n st }
def State.stage (s : State) (launch n : Nat) : Stage := (s.launchAt launch).stageAt n
def State.setStage (s : State) (launch n : Nat) (st : Stage) : State := s.setLaunch launch ((s.launchAt launch).setStage n st)
/-- The claimed levels with their numbers. -/
def Stage.claimed (st : Stage) : List (Nat × Level) := ((List.range st.levels.length).zip st.levels).filter (fun x => x.2.dom != 0)
/-- T (R65). -/
def Stage.tickets (st : Stage) : Nat :=
  match st.claimed with
  | [] => 0
  | ls => ls.foldl (fun n x => n * x.2.extent) 1
/-- Blk(D) (R73). -/
def Stage.blk (st : Stage) (dom : Nat) : Nat := (st.claimed.filter (fun x => x.2.dom.toNat < dom)).foldl (fun n x => n * x.2.extent) 1
/-- The digits of a ticket by level, innermost first (R74). -/
def digits : List (Nat × Level) → Nat → List (Nat × Nat)
  | [], _ => []
  | (i, l) :: r, t => (i, t % l.extent) :: digits r (t / l.extent)
def Stage.digitsOf (st : Stage) (t : Nat) : List (Nat × Nat) := digits st.claimed.reverse t
/-- Bytes of an item of the stage's output queue (R63). -/
def Stage.itemBytes (st : Stage) : Nat := 8 * 2 ^ st.qisz
/-- The key of a stage's block at a core or cluster. -/
def stageKey (launch stage : Nat) : Nat := 8 * launch + stage
/-- Fields in ring order after a field, wrapping, without it (R74). -/
def ringAfter (f : Nat) (fs : List Nat) : List Nat := fs.filter (fun x => f < x) ++ fs.filter (fun x => x < f)

/-! ### Claims (R74, R75) -/

/-- Takes n tickets from a field counter, stealing when it holds too few (R74). -/
def Stage.takeField (st : Stage) (f n : Nat) : Option Ranges × Stage :=
  let held (c : Tbl Ranges) (g : Nat) : Ranges := tget [] c g
  let c :=
    if (held st.counters f).count < n then
      match (ringAfter f (st.counters.map Prod.fst)).find? (fun v => n ≤ (held st.counters v).count) with
      | none => st.counters
      | some v =>
        let r := held st.counters v
        let (x, y) := r.top (n * maxN 1 (r.count / n / 2))
        tset f (Ranges.join x (held st.counters f)) (tset v y st.counters)
    else st.counters
  if (held c f).count < n then (none, { st with counters := c })
  else
    let (x, y) := (held c f).low n
    (some x, { st with counters := tset f y c })

/-- The block of a holder of a domain: copse 2, core 3, cluster 4. -/
def State.heldBlock (s : State) (copse dom : Nat) : Ranges :=
  let c := s.copseAt copse
  if dom = 2 then c.block
  else if dom = 3 then tget [] (s.coreAt c.core).block (stageKey c.launch c.stage)
  else tget [] (s.clusterAt (clusterOf c.core)).block (stageKey c.launch c.stage)
def State.setBlock (s : State) (copse dom : Nat) (r : Ranges) : State :=
  let c := s.copseAt copse
  let put (t : Tbl Ranges) : Tbl Ranges :=
    if r = [] then tdel (stageKey c.launch c.stage) t else tset (stageKey c.launch c.stage) r t
  if dom = 2 then s.setCopse copse { c with block := r }
  else if dom = 3 then
    let k := s.coreAt c.core
    s.setCore c.core { k with block := put k.block }
  else
    let k := s.clusterAt (clusterOf c.core)
    s.setCluster (clusterOf c.core) { k with block := put k.block }
/-- TakeFrom (R74) over the domains of the holders that take part. -/
def State.takeFrom (s : State) (copse : Nat) : List Nat → Nat → Option Ranges × State
  | [], n =>
    let c := s.copseAt copse
    let (r, st) := (s.stage c.launch c.stage).takeField (fieldOfCore c.core) n
    (r, s.setStage c.launch c.stage st)
  | d :: ds, n =>
    let c := s.copseAt copse
    let (blk, s) := if s.heldBlock copse d = [] then s.takeFrom copse ds ((s.stage c.launch c.stage).blk d)
      else (some (s.heldBlock copse d), s)
    match blk with
    | none => (none, s)
    | some b =>
      let (x, y) := Ranges.low n b
      (some x, s.setBlock copse d y)
/-- Claim (R74, R75): a ticket or none. -/
def State.claimTicket (s : State) (k : Nat) : Option Nat × State :=
  let copse := copseOf k
  let c := s.copseAt copse
  let l := s.launchAt c.launch
  let st := l.stageAt c.stage
  if c.launch = 0 then (none, s)
  else if l.det then
    let me := s.standAt k
    let t := c.ord * (st.cstands + 1) + k % 16 + me.claims * (st.detw * (st.cstands + 1))
    (if t < st.tickets then some t else none, s.setStand k { me with claims := me.claims + 1 })
  else
    let doms := [2, 3, 4].filter (fun d => st.claimed.any (fun x => x.2.dom.toNat == d))
    match s.takeFrom copse doms 1 with
    | (some ((t, _) :: _), s) => (some t, s)
    | (_, s) => (none, s)

/-- A holder's block goes back to a field counter (R74). -/
def State.returnRange (s : State) (launch stage field : Nat) (r : Ranges) : State :=
  if r = [] then s
  else
    let st := s.stage launch stage
    s.setStage launch stage { st with counters := tset field (Ranges.join r (tget [] st.counters field)) st.counters }
def State.returnBlock (s : State) (copse dom : Nat) : State :=
  let c := s.copseAt copse
  (s.setBlock copse dom []).returnRange c.launch c.stage (fieldOfCore c.core) (s.heldBlock copse dom)
/-- A copse leaves its core (R74): its own block goes back, and those of its core and cluster once its stage has no copse there. -/
def State.vacate (s : State) (copse : Nat) : State :=
  let c := s.copseAt copse
  let others (p : Nat → Bool) : Bool := s.copses.any (fun e =>
    e.1 != copse && e.2.life == .resident && e.2.launch == c.launch && e.2.stage == c.stage && p e.2.core)
  let s := s.returnBlock copse 2
  let s := if others (fun x => x == c.core) then s else s.returnBlock copse 3
  if others (fun x => clusterOf x == clusterOf c.core) then s else s.returnBlock copse 4
/-- The current tickets of a flushed copse's stands go back (R77). -/
def State.returnTickets (s : State) (copse : Nat) : State :=
  let c := s.copseAt copse
  if (s.launchAt c.launch).det then s
  else (s.standsOf copse).foldl (fun s k => match (if (s.standAt k).current then (s.standAt k).ticket else none) with
    | none => s
    | some t => (s.setStand k { s.standAt k with ticket := none, current := false }).returnRange c.launch c.stage (fieldOfCore c.core) [(t, t + 1)]) s

/-! ### Queues (R78, R79) -/

/-- The segment that an `enq` of a field goes to. -/
def Stage.segmentFor (st : Stage) (f : Nat) : Nat :=
  let ks := st.segs.map Prod.fst
  if ks.contains f then f else (ringAfter f ks).headD f
def Stage.seg (st : Stage) (f : Nat) : List (List Byte) := tget [] st.segs f
def Stage.segFull (st : Stage) (f : Nat) : Bool := 2 ^ st.qlog ≤ (st.seg f).length
def Stage.pushItem (st : Stage) (f : Nat) (x : List Byte) : Stage := { st with segs := tset f (st.seg f ++ [x]) st.segs }
/-- What a `deq` for n items finds (R78, R87): none while it has to wait, else the items of one segment, as many as there are. -/
def State.takeItems (s : State) (launch consumer field n : Nat) : Option (List (List Byte)) × State :=
  let l := s.launchAt launch
  let st := l.stageAt (consumer - 1)
  let ks := st.segs.map Prod.fst
  let order := if l.det && !st.done then [field] else (if ks.contains field then [field] else []) ++ ringAfter field ks
  match order.find? (fun f => st.seg f != []) with
  | none => (if st.done then some [] else none, s)
  | some f =>
    (some ((st.seg f).take n), s.setStage launch (consumer - 1) { st with segs := tset f ((st.seg f).drop n) st.segs })

/-! ### `claim` (R76, R85) -/

/-- M of R76: the union of SCOPE over the levels whose index changes. -/
def Stage.claimMask (st : Stage) (old : Option Nat) (t : Nat) : Byte :=
  let new := st.digitsOf t
  st.claimed.foldl (fun m x =>
    let same := match old with
      | none => false
      | some o => tfind x.1 (st.digitsOf o) == tfind x.1 new
    if same then m else m ||| x.2.scope) 0
def formClaim (f : A64) : Form :=
  { h := f.h, ops := [(f.sa, .none), (f.sb, .qdst), (f.dst, .udst 1)], bad := [onlyUni f.h, badTy (f.ty == 0), mustZero (f.md == 0)],
    long := true }
def bodyClaim (f : A64) (s : State) : Eff :=
  let k := s.cur
  let st := s.stageOf (copseOf k)
  let res (t : Nat) (b : Bool) (on : PendOn) : Pend :=
    { Pend.empty with on := on, sw := [(f.dst.num.toNat, BitVec.ofNat 64 t)], qw := [(f.sb.num.toNat, b)] }
  match s.claimTicket k with
  | (none, s') => .long (s'.setStand k { s'.standAt k with current := false }) (res 0 false .ready)
  | (some t, _) =>
    let old := s.me.ticket
    let m := st.claimMask old t
    let rel := if old.isNone then (true, s) else s.release k m
    match rel with
    | (false, s) => .stay s
    | (true, s) =>
      let (_, s) := s.claimTicket k
      let n := 16 * s.myCopse.launch + s.myCopse.stage
      let s := ((s.setStand k { s.standAt k with ticket := some t, current := true }).handOver objClaim n k m).takeOver objClaim n k m
      let s := s.acquire k m
      .long s (res t true (.claim (st.digitsOf t)))
def execClaim (f : A64) (s : State) : Host.Outcome State Fault Refusal := word (.claim f) (formClaim f) (bodyClaim f) s

/-! ### `enq` (R86) -/

/-- The roles of a run of registers that holds one item. -/
def runSrc (bytes : Nat) : Role := .src (bytes / 4) (bytes / 8) false false
def runDst (bytes : Nat) : Role := .dst (bytes / 4) (bytes / 8) false false
/-- The item of a thread: in the vector form from v registers, or, where the operand is a uniform field (UF = 1), for every thread from the
s registers that it names (R86; DESIGN CHOICE, log 93). -/
def State.itemOf (s : State) (k : Nat) (f : A64) (bytes t : Nat) : List Byte :=
  let n := f.sa.num.toNat
  if f.h.uni || f.sa.uf then (List.range (bytes / 8)).flatMap (fun i => bytesOf (s.rdS k (n + i)).toNat 8)
  else (List.range (bytes / 4)).flatMap (fun i => bytesOf (s.rdV k (n + i) t).toNat 4)
/-- Its form: a run of registers (R86). -/
def enqForm (f : A64) (st : Stage) : Form :=
  { h := f.h, ops := [(f.sa, runSrc st.itemBytes), (f.sb, .none), (f.dst, .none)], bad := [badTy (f.ty == 0), mustZero (f.md == 0)] }
def bodyEnq (f : A64) (s : State) : Eff :=
  let k := s.cur
  let i : Instr := .enq f
  let c := s.myCopse
  let st := s.stageOf (copseOf k)
  let p := s.me.part f.h
  let seg := st.segmentFor (fieldOfCore c.core)
  if p = 0 then .done s
  else if (s.launchAt c.launch).stages.length ≤ c.stage + 1 then
    .trap { trapOf i 2 1 with fmask := s.me.fmask f.h }
  else if f.h.uni && st.segFull seg then .stay s
  else match s.release k st.qscope with
    | (false, s) => .stay s
    | (true, s) =>
      let s := s.handOver objQueue (16 * c.launch + c.stage) k st.qscope
      if f.h.uni then .done (s.setStage c.launch c.stage (st.pushItem seg (s.itemOf k f st.itemBytes 0)))
      else .stay (s.setStand k { s.standAt k with wait := .enq f p })
def formEnq (f : A64) (s : State) : Form := enqForm f (s.stageOf (copseOf s.cur))
def execEnq (f : A64) (s : State) : Host.Outcome State Fault Refusal := word (.enq f) (formEnq f s) (bodyEnq f) s

/-- One item of a vector `enq` is pushed when its segment has a free entry; after the last the stand goes on (R86). -/
def State.enqPush (s : State) (k : Nat) : State :=
  let me := s.standAt k
  match me.wait with
  | .enq f p =>
    let c := s.copseAt (copseOf k)
    let st := s.stageOf (copseOf k)
    let seg := st.segmentFor (fieldOfCore c.core)
    if c.life ≠ .resident ∨ st.segFull seg then s
    else match (lanes p).drop me.enqDone with
      | [] => s
      | t :: r =>
        let s := s.setStage c.launch c.stage (st.pushItem seg (s.itemOf k f st.itemBytes t))
        if r = [] then
          let done := { s.standAt k with wait := .none, enqDone := 0 }
          (s.setStand k done).retire k (.enq f) (enqForm f st) done
        else s.setStand k { s.standAt k with enqDone := me.enqDone + 1 }
  | _ => s
def execEnqItemPush (stand : Nat) (s : State) : Host.Outcome State Fault Refusal := .next (s.enqPush stand)

/-! ### `deq` (R87) -/

/-- The results of a `deq`: the items by thread, zero and a false predicate for the threads without one. -/
def deqPend (f : A64) (bytes : Nat) (p : Mask) (items : List (List Byte)) : Pend :=
  let n := f.dst.num.toNat
  let got (t i w : Nat) : Nat := natOf ((((items[(lanes p).idxOf t]?).getD []).drop (w * i)).take w)
  if f.h.uni then
    { Pend.empty with sw := (List.range (bytes / 8)).map (fun i => (n + i, BitVec.ofNat 64 (natOf ((((items[0]?).getD []).drop (8 * i)).take 8)))),
                      qw := [(f.sb.num.toNat, items != [])] }
  else
    { outPred false p f.sb.num.toNat (fun t => (lanes p).idxOf t < items.length) with
        vw := (lanes p).flatMap (fun t => (List.range (bytes / 4)).map (fun i => (128 * (n + i) + t, BitVec.ofNat 32 (got t i 4)))) }
/-- Its form; in stage 0 no register range is checked, and nothing but the status is written (R87). -/
def deqForm (f : A64) (first : Bool) (bytes : Nat) : Form :=
  { h := f.h, ops := (f.sa, .none) :: (f.sb, if f.h.uni then .qdst else .preg) :: (if first then [] else [(f.dst, runDst bytes)]),
    bad := [badTy (f.ty == 0), mustZero (f.md == 0), (9, first && (f.dst.cl || f.dst.pk)),
            (7, first && !f.dst.cl && (if f.h.uni then !f.dst.uf else f.dst.uf))], long := true }
/-- Bytes of an item of a copse's input queue. -/
def State.inBytes (s : State) (copse : Nat) : Nat :=
  let c := s.copseAt copse
  ((s.launchAt c.launch).stageAt (c.stage - 1)).itemBytes
def bodyDeq (f : A64) (s : State) : Eff :=
  let p := s.me.part f.h
  if s.myCopse.stage = 0 then .long s (deqPend f 0 p [])
  else .long s { deqPend f (s.inBytes (copseOf s.cur)) p [] with on := .deq f s.me.spot }
def formDeq (f : A64) (s : State) : Form := deqForm f (s.myCopse.stage == 0) (s.inBytes (copseOf s.cur))
def execDeq (f : A64) (s : State) : Host.Outcome State Fault Refusal := word (.deq f) (formDeq f s) (bodyDeq f) s
/-- A waiting `deq` is served (R87): its results, or none while it waits. It is an acquire with the producing stage's QSCOPE. -/
def State.serveDeq (s : State) (k : Nat) (f : A64) (pe : Pend) : Option Pend × State :=
  let c := s.copseAt (copseOf k)
  let p := if f.h.uni then 1 else ((pe.pw.map (fun w => w.2.1)).headD (maskOf (pe.vw.map (fun w => w.1 % 128))))
  match s.takeItems c.launch c.stage (fieldOfCore c.core) (if f.h.uni then 1 else (lanes p).length) with
  | (none, s) => (none, s)
  | (some xs, s) =>
    let r := deqPend f (s.inBytes (copseOf k)) p xs
    (some { pe with on := .ready, vw := r.vw, sw := r.sw, pw := r.pw, qw := r.qw },
      let m := ((s.launchAt c.launch).stageAt (c.stage - 1)).qscope
      (s.takeOver objQueue (16 * c.launch + (c.stage - 1)) k m).acquire k m)

/-! ### `qstat` (R88) -/

def formQstat (f : A64) : Form :=
  { h := f.h, ops := [(f.sa, .none), (f.sb, .none), (f.dst, .udst 1)],
    bad := [onlyUni f.h, badTy (f.ty == 0), mustZero (f.md.toNat ≤ 1)], long := true }
/-- The state of the queue that a stage produces into, as a field sees it. -/
def queueState (st : Stage) (f : Nat) : Nat :=
  let items := (st.seg f).length
  items % 2 ^ 32 + minN (2 ^ st.qlog - items) 0xFFFF * 2 ^ 32 + (if st.counters.all (fun c => c.2 == []) then 2 ^ 62 else 0)
    + (if st.done then 2 ^ 63 else 0)
def bodyQstat (f : A64) (s : State) : Eff :=
  let c := s.myCopse
  let l := s.launchAt c.launch
  let j := c.stage + f.md.toNat
  let x := if j = 0 ∨ l.stages.length ≤ j then 2 ^ 63 else queueState (l.stageAt (j - 1)) (fieldOfCore c.core)
  .long s { Pend.empty with sw := [(f.dst.num.toNat, BitVec.ofNat 64 x)] }
def execQstat (f : A64) (s : State) : Host.Outcome State Fault Refusal := word (.qstat f) (formQstat f) (bodyQstat f) s

/-! ### The graft gate and move requests (R133-R136) -/

/-- `graft` and `migr`: no operands, MOD of the form, the last of their sapwood clause. -/
def graftForm (f : A64) (md : BitVec 2) : Form :=
  { h := f.h, ops := [(f.sa, .none), (f.sb, .none), (f.dst, .none)], bad := [onlyUni f.h, badTy (f.ty == 0), mustZero (f.md == md)],
    transfer := true }
def formGraftShut (f : A64) : Form := graftForm f 0
def bodyGraftShut (_ : A64) (s : State) : Eff := .done (s.setMe { s.me with gate := false })
def execGraftShut (f : A64) (s : State) : Host.Outcome State Fault Refusal := word (.graftShut f) (formGraftShut f) (bodyGraftShut f) s
def formGraftOpen (f : A64) : Form := graftForm f 1
def bodyGraftOpen (_ : A64) (s : State) : Eff := .done (s.setMe { s.me with gate := true })
def execGraftOpen (f : A64) (s : State) : Host.Outcome State Fault Refusal := word (.graftOpen f) (formGraftOpen f) (bodyGraftOpen f) s

/-- Drop (R135): reserved room is freed and held stands are released; the request then stands as given. -/
def State.dropMove (s : State) (copse : Nat) (st : MoveState) (reason : Byte) : State :=
  let c := s.copseAt copse
  let s := s.setCopse copse { c with move := ⟨none, st, reason, c.move.moves, 0, none⟩ }
  (s.standsOf copse).foldl (fun s k => s.setStand k { s.standAt k with held := false }) s
/-- KINDS of a stage allows a kind (R63). -/
def Stage.allows (st : Stage) (k : Kind) : Bool := match k with | .sap => st.kinds.getLsbD 0 | .heart => st.kinds.getLsbD 1
/-- A request for a kind (R135). -/
def State.requestMove (s : State) (copse : Nat) (k : Kind) : State :=
  let c := s.copseAt copse
  let st := s.stageOf copse
  if c.launch = 0 then s
  else if k = c.kind then s.dropMove copse .none 0
  else if !st.allows k then s.dropMove copse .refused 1
  else if st.gmap = 0 then s.dropMove copse .refused 2
  else if (s.graftTable c.vi st).isNone then s.dropMove copse .refused 3
  else if (c.move.state = .pending ∨ c.move.state = .gather) ∧ c.move.tgt = some k then s
  else
    let s := s.dropMove copse .pending 0
    let c := s.copseAt copse
    s.setCopse copse { c with move := { c.move with tgt := some k } }
def formMigrHeart (f : A64) : Form := graftForm f 0
def bodyMigrHeart (_ : A64) (s : State) : Eff := .done (s.requestMove (copseOf s.cur) .heart)
def execMigrHeart (f : A64) (s : State) : Host.Outcome State Fault Refusal := word (.migrHeart f) (formMigrHeart f) (bodyMigrHeart f) s
def formMigrSap (f : A64) : Form := graftForm f 1
def bodyMigrSap (_ : A64) (s : State) : Eff := .done (s.requestMove (copseOf s.cur) .sap)
def execMigrSap (f : A64) (s : State) : Host.Outcome State Fault Refusal := word (.migrSap f) (formMigrSap f) (bodyMigrSap f) s
def formMigrCancel (f : A64) : Form := graftForm f 2
def bodyMigrCancel (_ : A64) (s : State) : Eff := .done (if s.myCopse.launch = 0 then s else s.dropMove (copseOf s.cur) .none 0)
def execMigrCancel (f : A64) (s : State) : Host.Outcome State Fault Refusal := word (.migrCancel f) (formMigrCancel f) (bodyMigrCancel f) s

/-- STATE and the kinds as `migr.q` gives them. -/
def MoveState.code : MoveState → Nat
  | .none => 0
  | .pending => 1
  | .gather => 2
  | .done => 3
  | .lapsed => 4
  | .refused => 5
def kindCode : Kind → Nat
  | .sap => 1
  | .heart => 2
/-- The snapshot of `migr.q` (R136). -/
def State.moveState (s : State) (k : Nat) : Nat :=
  let c := s.copseAt (copseOf k)
  let m := c.move
  let held := ((s.standsOf (copseOf k)).filter (fun j => (s.standAt j).held && (s.standAt j).exited != allLanes)).length
  kindCode c.kind + (match m.tgt with | none => 0 | some t => kindCode t) * 4 + m.state.code * 16
    + (if m.state = .refused then m.reason.toNat else 0) * 256 + held * 65536 + m.moves.toNat * 2 ^ 32
    + (if m.moves = 0 then 0 else (s.standAt k).lgid.toNat) * 2 ^ 48
def formMigrQ (f : A64) : Form :=
  { h := f.h, ops := [(f.sa, .none), (f.sb, .none), (f.dst, .udst 1)], bad := [onlyUni f.h, badTy (f.ty == 0), mustZero (f.md == 0)],
    long := true, mustFlag := true }
def bodyMigrQ (f : A64) (s : State) : Eff := .long s { Pend.empty with sw := [(f.dst.num.toNat, BitVec.ofNat 64 (s.moveState s.cur))] }
def execMigrQ (f : A64) (s : State) : Host.Outcome State Fault Refusal := word (.migrQ f) (formMigrQ f) (bodyMigrQ f) s

end Sys2Proof.Machine
end

