-- ==== Sys2Proof/Machine/Matrix.lean ====
section
/-! DEFINITION. Class 0x7: reservations of a cluster's matrix engine and the commands that stands queue on them (spec/09 R201-R210,
spec/10 R220-R238). Commands are numbered in acceptance order over all engines. -/

namespace Sys2Proof.Machine

/-! ### Engines, records and handles (R206, R207, R221) -/

def State.engineAt (s : State) (cluster : Nat) : Engine := (s.clusterAt cluster).eng
def State.setEngine (s : State) (cluster : Nat) (e : Engine) : State := s.setCluster cluster { s.clusterAt cluster with eng := e }
def Engine.resv (e : Engine) (n : Nat) : Resv := tget Resv.init e.recs n
def Engine.setResv (e : Engine) (n : Nat) (r : Resv) : Engine := { e with recs := tset n r e.recs }
def State.myCluster (s : State) : Nat := clusterOf s.myCoreKey
def State.myEngine (s : State) : Engine := s.engineAt s.myCluster
/-- The records that hold room: OPEN or CLOSING. -/
def Engine.taken (e : Engine) : List (Nat × Resv) := e.recs.filter (fun x => x.2.state != .free)
/-- The OPEN reservation that a b register names; none for a null or stale handle (R221). -/
def State.bound (s : State) (n : Nat) : Option (Nat × Resv) :=
  match tfind n s.me.b with
  | none => none
  | some h =>
    let r := s.myEngine.resv h.resv
    if r.state = .opened ∧ r.tag = h.tag ∧ r.copse = copseOf s.cur then some (h.resv, r) else none

/-- Bytes of a tile's data (R204). -/
def fmtSize (fmt : Nat) : Nat := if fmt ≤ 1 then 8192 else if fmt ≤ 4 then 4096 else 2048
/-- The format class (R202). -/
def fmtClass (fmt : Nat) : Nat := if fmt ≤ 1 then 16 else if fmt ≤ 4 then 8 else 4
/-- A header or scale plane is present. -/
def hasHdr (fmt : Nat) (bsc : Bool) : Bool := fmt == 5 || bsc
def Resv.hdr (r : Resv) : Bool := hasHdr r.fmt.toNat r.bsc
/-- Bytes of one tile's part: data 0, header or scales 1, metadata 2 (R204). -/
def Resv.partSize (r : Resv) (part : Nat) : Nat := if part = 0 then fmtSize r.fmt.toNat else if part = 1 then 512 else 1024
/-- Where a tile's part begins in the reservation (R204, R205). -/
def Resv.partAt (r : Resv) (part i : Nat) : Nat :=
  if part = 0 then i * fmtSize r.fmt.toNat else if part = 1 then 64 * r.xoff.toNat + 512 * i else 64 * r.moff.toNat + 1024 * i
/-- A record's bits (R207). -/
def Resv.toBits (r : Resv) : Nat :=
  (match r.state with | .free => 0 | .opened => 1 | .closing => 2) + r.gbase * 2 ^ 2 + r.gcnt * 2 ^ 9 + r.fmt.toNat * 2 ^ 17
    + r.spar.toNat * 2 ^ 20 + r.bsc.toNat * 2 ^ 21 + r.role.toNat * 2 ^ 22 + r.blen * 2 ^ 23 + r.xoff.toNat * 2 ^ 32
    + r.moff.toNat * 2 ^ 48 + r.tsc.toNat * 2 ^ 64 + r.amask.toNat * 2 ^ 96 + r.atile.getD 0x1FF * 2 ^ 104
    + r.stile.getD 0x1FF * 2 ^ 113 + r.breg.toNat * 2 ^ 122 + r.stand.toNat * 2 ^ 126 + r.queue.length * 2 ^ 130 + r.ff.toNat * 2 ^ 138

/-- ATILE and STILE once every command accepted has taken effect (R221). -/
def Resv.tilesThen (r : Resv) : Option Nat × Option Nat :=
  r.queue.foldl (fun t c =>
    if c.phase = .waiting then match c.op with
      | .load i => (t.1, some i)
      | .swap => (t.2, t.1)
      | _ => t
    else t) (r.atile, r.stile)

/-! ### Accumulators (R214) -/

def Engine.accAt (e : Engine) (tile i : Nat) : Word32 :=
  match tfind (4096 * tile + i) e.acc with
  | some w => w
  | none => match tfind tile e.accSeed with
    | some seed => Config.freeWord seed i
    | none => 0
/-- A tile with all its words replaced. -/
def Engine.setAcc (e : Engine) (tile : Nat) (ws : List Word32) : Engine :=
  { e with
    acc := e.acc.filter (fun x => x.1 < 4096 * tile) ++ ((List.range ws.length).zip ws).map (fun w => (4096 * tile + w.1, w.2))
      ++ e.acc.filter (fun x => 4096 * tile + 4096 ≤ x.1)
    accSeed := tdel tile e.accSeed }
/-- Every word of a tile. -/
def Engine.tileWords (e : Engine) (tile : Nat) : List Word32 := (List.range 4096).map (fun i => e.accAt tile i)
/-- The tiles of a mask. -/
def tilesOf (m : Byte) : List Nat := (List.range 8).filter (fun j => m.getLsbD j)

/-! ### Release of records (R206, R227) -/

/-- A pass that has still to read a streamed reservation. -/
def Engine.readers (e : Engine) (n tag : Nat) : Bool :=
  e.taken.any (fun x => x.2.queue.any (fun c => c.phase == .waiting && (match c.op with | .pass s t _ _ _ => s == n && t == tag | _ => false)))
/-- Lines of a reservation in the buffer. -/
def Resv.owns (r : Resv) (line : Nat) : Bool := 32 * r.gbase ≤ line && line < 32 * (r.gbase + r.gcnt)
/-- A CLOSING reservation with nothing left to do becomes FREE; one whose tiles an accepted pass has still to read waits (R227). -/
def Engine.freeOne (e : Engine) (n : Nat) : Engine :=
  let r := e.resv n
  if r.state = .closing ∧ r.queue = [] ∧ !e.readers n (r.tag - 1) then
    let ts := tilesOf r.amask
    { e with
      recs := tset n { Resv.init with tag := r.tag, gone := r.gone, ff := r.ff } e.recs
      buf := e.buf.filter (fun b => !r.owns (b.1 / 128))
      full := e.full.filter (fun l => !r.owns l)
      dead := e.dead.filter (fun l => !r.owns l)
      planes := e.planes.filter (fun p => p.1 != n)
      acc := e.acc.filter (fun a => !ts.contains (a.1 / 4096))
      accSeed := e.accSeed.filter (fun a => !ts.contains a.1) }
  else e
def Engine.freeAll (e : Engine) : Engine := (e.recs.map Prod.fst).foldl (fun e n => e.freeOne n) e
/-- Releases a reservation as `mrel` does (R227). -/
def Engine.release (e : Engine) (n : Nat) : Engine :=
  let r := e.resv n
  if r.state = .opened then (e.setResv n { r with state := .closing, tag := r.tag + 1 }).freeAll else e
/-- Every reservation of a copse is released; the engine is that of its cluster (R227). -/
def State.releaseResvs (s : State) (copse : Nat) : State :=
  let cl := clusterOf (s.copseAt copse).core
  let e := s.engineAt cl
  s.setEngine cl ((e.taken.filter (fun x => x.2.copse == copse)).foldl (fun e x => e.release x.1) e)

/-! ### Forms (R220, R222) -/

def mForm (f : E96) (sa sb sc dst : Role) (ok : Bool) : Form :=
  { h := f.h, ops := [(f.sa, sa), (f.sb, sb), (f.sc, sc), (f.dst, dst)], bad := [onlyUni f.h, mustZero ok] }
def mLong (f : Form) : Form := { f with long := true, mustFlag := true }
/-- A b or d register field. -/
def numReg : Role := .num 16 6
/-- The matrix fault (R221): the lowest of the causes that apply. -/
def mtxTrap (i : Instr) (causes : List (Nat × Bool)) : Option TrapReq :=
  match lowest (causes.filterMap (fun c => if c.2 then some c.1 else none)) with
  | none => none
  | some c => some (trapOf i 8 c)

/-! ### Queues (R210, R223) -/

def queueLimit : Nat := 16
def engineQueue : Nat := 64
/-- A new command. -/
def newCmd (op : CmdOp) : Cmd := ⟨0, 0, op, .waiting, [], [], [], 0, false, 0, []⟩
/-- Both limits admit the commands, given as reservation and command. -/
def Engine.roomFor (e : Engine) (cs : List (Nat × Cmd)) : Bool :=
  e.taken.foldl (fun n x => n + x.2.queue.length) 0 + cs.length ≤ engineQueue
    && cs.all (fun c => (e.resv c.1).queue.length + (cs.filter (fun d => d.1 == c.1)).length ≤ queueLimit)
/-- One command is accepted. -/
def State.accept (s : State) (cluster k : Nat) (c : Nat × Cmd) : State :=
  let e := s.engineAt cluster
  let r := e.resv c.1
  { s with nextId := s.nextId + 1 }.setEngine cluster
    (e.setResv c.1 { r with queue := r.queue ++ [{ c.2 with seq := s.nextId, stand := k, since := (s.clusterAt cluster).halves }], accepted := s.nextId })
/-- Queues commands in order, or stalls: both limits of R210, and for a fetch the copy engine's (R213, R318), must admit them. -/
def State.enqueue (s : State) (cs : List (Nat × Cmd)) : Eff :=
  let fetches := (cs.filter (fun c => c.2.op.fetches)).length
  if s.myEngine.roomFor cs && (fetches == 0 || s.engineRoom (copseOf s.cur) fetches) then .done (cs.foldl (fun s c => s.accept s.myCluster s.cur c) s) else .stay s

/-! ### `mres`, `mrel` (R225-R227) -/

/-- Two of the conditions of R208, and the ranges of R225. -/
def mresOk (fmt : Nat) (spar bsc : Bool) (a b : Nat) : Bool :=
  let blen := bits a 8 0
  let gcnt := bits a 16 9
  let x := 64 * bits a 47 32
  let m := 64 * bits a 63 48
  let hdr := hasHdr fmt bsc
  let d := blen * fmtSize fmt
  let hl := if hdr then blen * 512 else 0
  let ml := if spar then blen * 1024 else 0
  1 ≤ blen && blen ≤ 256 && 1 ≤ gcnt && gcnt ≤ 128 && bits a 31 17 == 0 && bits b 63 40 == 0 && (hdr || x == 0) && (spar || m == 0)
    && d ≤ gcnt * 4096 && (!hdr || x + hl ≤ gcnt * 4096) && (!spar || m + ml ≤ gcnt * 4096)
    && apart 0 d x hl && apart 0 d m ml && apart x hl m ml
/-- The lowest free run of granules. -/
def Engine.freeRun (e : Engine) (n : Nat) : Option Nat :=
  (List.range (129 - n)).find? (fun b => e.taken.all (fun x => b + n ≤ x.2.gbase || x.2.gbase + x.2.gcnt ≤ b))
/-- bN names an OPEN or CLOSING reservation: a release moves the tag on by one. -/
def State.bNamed (s : State) (n : Nat) : Bool :=
  match tfind n s.me.b with
  | none => false
  | some h =>
    let r := s.myEngine.resv h.resv
    r.copse == copseOf s.cur && ((r.state == .opened && r.tag == h.tag) || (r.state == .closing && r.tag == h.tag + 1))
def freeRecord (e : Engine) : Option Nat := (List.range 32).find? (fun n => (e.resv n).state == .free)
/-- MOD of `mres`. -/
def mresFmt (f : E96) : Nat := f.md.toNat % 8
def mresDupBit (f : E96) : Bool := f.md.getLsbD 6
/-- A reservation as `mres` opens it. -/
def newResv (f : E96) (a b copse stand tag base : Nat) : Resv :=
  { Resv.init with
    state := .opened
    gbase := base
    gcnt := bits a 16 9
    fmt := BitVec.ofNat 3 (mresFmt f)
    spar := f.md.getLsbD 4
    bsc := f.md.getLsbD 5
    role := f.md.getLsbD 3
    blen := bits a 8 0
    xoff := BitVec.ofNat 16 (bits a 47 32)
    moff := BitVec.ofNat 16 (bits a 63 48)
    tsc := BitVec.ofNat 32 b
    amask := BitVec.ofNat 8 (bits b 39 32)
    breg := BitVec.ofNat 4 f.imm.toNat
    stand := BitVec.ofNat 4 stand
    copse := copse
    tag := tag }
def State.bind (s : State) (n : Nat) (h : Option BHandle) : State :=
  s.setMe { s.me with b := match h with | some x => tset n x s.me.b | none => tdel n s.me.b }
/-- Opens a reservation, or says why not. -/
def State.openResv (s : State) (f : E96) (a b : Nat) : Nat × State :=
  let e := s.myEngine
  let fmt := mresFmt f
  let n := f.imm.toNat % 16
  let am : Byte := BitVec.ofNat 8 (bits b 39 32)
  if s.bNamed n then (1, s)
  else if !mresOk fmt (f.md.getLsbD 4) (f.md.getLsbD 5) a b then (2, s)
  else if e.taken.any (fun x => x.2.amask &&& am != 0) then (3, s)
  else match freeRecord e with
  | none => (4, s)
  | some i => match e.freeRun (bits a 16 9) with
    | none => (5, s)
    | some base =>
      let tag := (e.resv i).tag
      let e := (tilesOf am).foldl (fun e j => { e with accSeed := tset j (s.free + j) e.accSeed }) e
      let s := s.setEngine s.myCluster (e.setResv i (newResv f a b (copseOf s.cur) (s.cur % 16) tag base))
      (0, { s with free := s.free + 8 }.bind n (some ⟨i, tag⟩))
/-- `mres.dup` (R226). -/
def State.dupResv (s : State) (f : E96) : Nat × State :=
  let n := bits f.imm.toNat 3 0
  if s.bNamed n then (1, s)
  else match s.myEngine.recs.find? (fun x => x.2.state == .opened && x.2.copse == copseOf s.cur
      && x.2.stand.toNat == bits f.imm.toNat 11 8 && x.2.breg.toNat == bits f.imm.toNat 7 4) with
  | none => (6, s)
  | some (i, r) => (0, s.bind n (some ⟨i, r.tag⟩))
def formMres (f : E96) : Form :=
  mLong (mForm f (.usrc 1 false) (.usrc 1 false) .none (.udst 1)
    (f.imm.toNat < 16 && f.md.toNat < 64 && mresFmt f != 7 && (!f.md.getLsbD 4 || f.md.getLsbD 3)
      && (!f.md.getLsbD 5 || (2 ≤ mresFmt f && mresFmt f ≤ 4))))
def formMresDup (f : E96) : Form := mLong (mForm f .none .none .none (.udst 1) (f.imm.toNat < 4096 && f.md.toNat == 64))
def statusPend (f : E96) (x : Nat) : Pend := { Pend.empty with sw := [(f.dst.num.toNat, BitVec.ofNat 64 x)] }
def bodyMres (f : E96) (s : State) : Eff :=
      let (st, s) := s.openResv f (s.rdS s.cur f.sa.num.toNat).toNat (s.rdS s.cur f.sb.num.toNat).toNat
      .long s (statusPend f st)
def execMres (f : E96) (s : State) : Host.Outcome State Fault Refusal := word (.mres f) (formMres f) (bodyMres f) s
def bodyMresDup (f : E96) (s : State) : Eff :=
      let (st, s) := s.dupResv f
      .long s (statusPend f st)
def execMresDup (f : E96) (s : State) : Host.Outcome State Fault Refusal := word (.mresDup f) (formMresDup f) (bodyMresDup f) s
def formMrel (f : E96) : Form := mForm f numReg .none .none .none (f.imm == 0 && f.md == 0)
def bodyMrel (f : E96) (s : State) : Eff :=
      let n := f.sa.num.toNat
      let s' := match s.bound n with
        | none => s
        | some (i, _) => s.setEngine s.myCluster (s.myEngine.release i)
      .done (s'.bind n none)
def execMrel (f : E96) (s : State) : Host.Outcome State Fault Refusal := word (.mrel f) (formMrel f) (bodyMrel f) s

/-! ### Fills (R228) -/

/-- A descriptor describes tiles of a part (R327): valid, and its bytes are those of n tiles. -/
def descTiles (d size : Nat) : Bool := descOk d && descRows d * descBytes d == size
def mtileForm (f : E96) (d : Bool) : Form :=
  mForm f numReg (if d then .none else .usrc 1 false) (if d then numReg else .none) .none
    (f.md.toNat < 8 && f.md.getLsbD 2 == d && f.md.toNat % 4 != 3 && (!d || bits f.imm.toNat 15 9 == 0))
def mtileBody (i : Instr) (f : E96) (d : Bool) (s : State) : Eff :=
  match s.bound f.sa.num.toNat with
  | none => .trap (trapOf i 8 1)
  | some (n, r) =>
    let part := f.md.toNat % 4
    let first := bits f.imm.toNat 8 0
    let cnt := bits f.imm.toNat 15 9 + 1
    let size := r.partSize part
    let src := (s.rdS s.cur f.sb.num.toNat).toNat
    let desc := tget 0 s.me.d f.sc.num.toNat
    match mtxTrap i [(4, r.blen < first + cnt), (6, !d && (src % 16 != 0 || !s.myCopse.inAlloc src (size * cnt))),
        (8, (part == 1 && !r.hdr) || (part == 2 && !r.spar)), (0xA, d && !descTiles desc.toNat size)] with
    | some t => .trap t
    | none =>
      let p : BitVec 2 := BitVec.ofNat 2 part
      if d then s.enqueue [(n, newCmd (.fillG p first cnt desc))]
      else s.enqueue [(n, { newCmd (.fillS p src first cnt) with snap := s.myCopse.snapLines src (size * cnt) })]
def formMtile (f : E96) : Form := mtileForm f false
def bodyMtile (f : E96) : State → Eff := mtileBody (.mtile f) f false
def execMtile (f : E96) (s : State) : Host.Outcome State Fault Refusal := word (.mtile f) (formMtile f) (bodyMtile f) s
def formMtileD (f : E96) : Form := mtileForm f true
def bodyMtileD (f : E96) : State → Eff := mtileBody (.mtileD f) f true
def execMtileD (f : E96) (s : State) : Host.Outcome State Fault Refusal := word (.mtileD f) (formMtileD f) (bodyMtileD f) s

/-! ### Stationary tiles (R230) -/

def bodyMlds (f : E96) (s : State) : Eff :=
  let i : Instr := .mlds f
  match s.bound f.sa.num.toNat with
  | none => .trap (trapOf i 8 1)
  | some (n, r) =>
    match mtxTrap i [(2, !r.role), (4, r.blen ≤ f.imm.toNat)] with
    | some t => .trap t
    | none => s.enqueue [(n, newCmd (.load f.imm.toNat))]
def formMlds (f : E96) : Form := mForm f numReg .none .none .none (f.imm.toNat < 512 && f.md == 0)
def execMlds (f : E96) (s : State) : Host.Outcome State Fault Refusal := word (.mlds f) (formMlds f) (bodyMlds f) s
def bodyMswap (f : E96) (s : State) : Eff :=
  let i : Instr := .mswap f
  match s.bound f.sa.num.toNat with
  | none => .trap (trapOf i 8 1)
  | some (n, r) =>
    match mtxTrap i [(2, !r.role), (9, r.tilesThen.2.isNone)] with
    | some t => .trap t
    | none => s.enqueue [(n, newCmd .swap)]
def formMswap (f : E96) : Form := mForm f numReg .none .none .none (f.imm == 0 && f.md == 0)
def execMswap (f : E96) (s : State) : Host.Outcome State Fault Refusal := word (.mswap f) (formMswap f) (bodyMswap f) s

/-! ### Passes (R231) -/

def bodyMstr (f : E96) (s : State) : Eff :=
  let i : Instr := .mstr f
  match s.bound f.sa.num.toNat, s.bound f.sb.num.toNat with
  | some (wn, w), some (sn, x) =>
    let d := f.md.getLsbD 0
    let t := bits f.imm.toNat 8 0
    let j := bits f.imm.toNat 11 9
    let n := if w.spar then 2 else 1
    let desc := tget 0 s.me.d f.sc.num.toNat
    match mtxTrap i [(2, !w.role || x.role), (3, (fmtClass w.fmt.toNat == 16) != (fmtClass x.fmt.toNat == 16)), (4, x.blen < t + n),
        (5, !w.amask.getLsbD j), (9, w.tilesThen.1.isNone), (0xA, d && !descTiles desc.toNat (n * fmtSize x.fmt.toNat))] with
    | some t => .trap t
    | none =>
      s.enqueue ((if d then [(sn, newCmd (.fillG 0 t n desc))] else []) ++ [(wn, newCmd (.pass sn x.tag t j (f.md.getLsbD 1)))])
  | _, _ => .trap (trapOf i 8 1)
def formMstr (f : E96) : Form :=
  mForm f numReg numReg (if f.md.getLsbD 0 then numReg else .none) .none (f.imm.toNat < 4096 && f.md.toNat < 4)
def execMstr (f : E96) (s : State) : Host.Outcome State Fault Refusal := word (.mstr f) (formMstr f) (bodyMstr f) s

def bodyMzero (f : E96) (s : State) : Eff :=
  let i : Instr := .mzero f
  match s.bound f.sa.num.toNat with
  | none => .trap (trapOf i 8 1)
  | some (n, r) =>
    let m : Byte := BitVec.ofNat 8 f.imm.toNat
    match mtxTrap i [(2, !r.role), (5, m &&& ~~~r.amask != 0)] with
    | some t => .trap t
    | none => s.enqueue [(n, newCmd (.zero m))]
def formMzero (f : E96) : Form := mForm f numReg .none .none .none (f.imm.toNat < 256 && f.imm != 0 && f.md == 0)
def execMzero (f : E96) (s : State) : Host.Outcome State Fault Refusal := word (.mzero f) (formMzero f) (bodyMzero f) s

/-! ### Drains (R233, R234) -/

/-- Bytes of an element of DFMT, and of a row. -/
def dfmtBytes (d : Nat) : Nat := if d = 0 then 4 else if d ≤ 2 then 2 else 1
def rowBytes (d : Nat) : Nat := 64 * dfmtBytes d
def formMdrn (f : E96) : Form :=
  let md := f.md.toNat
  let dest := md % 4
  let dfmt := bits md 4 2
  mForm f numReg (if dest = 2 then .none else .usrc 1 false) (.usrc 1 false) .none
    (md < 256 && f.imm.toNat < 2048 && dest != 3 && dfmt ≤ 4 && !(f.md.getLsbD 5 && dest == 2) && !(f.md.getLsbD 6 && dfmt == 0))
def bodyMdrn (f : E96) (s : State) : Eff :=
  let i : Instr := .mdrn f
  let md := f.md.toNat
  let dest := md % 4
  let dfmt := bits md 4 2
  let rs := rowBytes dfmt
  let unit := minN rs 128
  let base := if dest = 2 then 0 else (s.rdS s.cur f.sb.num.toNat).toNat
  let sh := (s.rdS s.cur f.sc.num.toNat).toNat
  let row0 := bits sh 5 0
  let rows := bits sh 12 6
  let stride := bits sh 47 16
  let ch := bits sh 63 60
  let j := bits f.imm.toNat 10 8
  if dest = 2 ∧ stride ≠ 0 then .trap { trapOf i 0 4 with addr := s.me.pc }
  else match s.bound f.sa.num.toNat with
  | none => .trap (trapOf i 8 1)
  | some (n, w) =>
    match mtxTrap i [(2, !w.role), (5, !w.amask.getLsbD j),
        (6, dest == 0 && (base % 16 != 0 || stride % 16 != 0 || !s.myCopse.inAlloc base ((rows - 1) * stride + rs))),
        (7, dest == 1 && (base % unit != 0 || stride % unit != 0)),
        (0xB, rows == 0 || 64 < rows || 64 < row0 + rows || bits sh 15 13 != 0 || bits sh 59 48 != 0 || (dest != 2 && ch != 0)
          || (dest == 0 && stride < rs))] with
    | some t => .trap t
    | none =>
      if dest = 2 && s.chanBad (copseOf s.cur) s.myCoreKey (32 + ch) false then .trap (trapOf i 6 5)
      else
        let op : CmdOp := .drain dest dfmt (f.md.getLsbD 5) (f.md.getLsbD 6) (f.md.getLsbD 7) base row0 rows stride ch j
          (BitVec.ofNat 8 f.imm.toNat)
        if dest ≠ 2 then s.enqueue [(n, newCmd op)]
        else match s.enqueue [(n, newCmd op)] with
          | .done s =>
            let c := s.chanAt s.myCoreKey (32 + ch)
            .done (s.setChan s.myCoreKey (32 + ch) { c with due := c.due + 1 })
          | e => e
def execMdrn (f : E96) (s : State) : Host.Outcome State Fault Refusal := word (.mdrn f) (formMdrn f) (bodyMdrn f) s

/-! ### `mwait`, `mq` (R236, R237) -/

def bodyMwait (f : E96) (s : State) : Eff :=
  match s.bound f.sa.num.toNat with
  | none => .trap (trapOf (.mwait f) 8 1)
  | some (n, r) =>
    .long s { Pend.empty with on := .mwait s.myCluster n r.tag r.accepted f.dst.num.toNat s.me.spot, sw := [(f.dst.num.toNat, 0)] }
def formMwait (f : E96) : Form := mLong (mForm f numReg .none .none (.udst 1) (f.imm == 0 && f.md == 0))
def execMwait (f : E96) (s : State) : Host.Outcome State Fault Refusal := word (.mwait f) (formMwait f) (bodyMwait f) s
/-- Whether an `mwait` may complete, and its result: every command it covers has ended, one of them perhaps withdrawn (R236). -/
def Engine.mwaitDone (e : Engine) (n upto : Nat) : Option Nat :=
  let r := e.resv n
  if r.queue.any (fun c => c.seq ≤ upto) then none
  else some (r.ff.toNat + (if r.gone.any (fun g => g ≤ upto) then 2 else 0))
def bodyMq (f : E96) (s : State) : Eff :=
  match s.bound f.sa.num.toNat with
  | none => .long s (statusPend f 0)
  | some (n, r) =>
    let s' := if f.md = 1 then s.setEngine s.myCluster (s.myEngine.setResv n { r with ff := false }) else s
    .long s' (statusPend f (r.toBits / 2 ^ (64 * f.imm.toNat) % 2 ^ 64))
def formMq (f : E96) : Form := mLong (mForm f numReg .none .none (.udst 1) (f.imm.toNat < 4 && f.md.toNat ≤ 1))
def execMq (f : E96) (s : State) : Host.Outcome State Fault Refusal := word (.mq f) (formMq f) (bodyMq f) s

end Sys2Proof.Machine
end

