-- ==== Sys2Proof/Machine/Regions.lean ====
section
/-! DEFINITION. First-touch fills and write-backs of mapped scratchpad regions (spec/11 R261, R262). -/

namespace Sys2Proof.Machine

/-- The global address of a line of a region. -/
def Region.addr (r : Region) (l : Nat) : Nat := r.va + (128 * l - r.soff)
def Copse.fillOf (c : Copse) (l : Nat) (wb : Bool) : Option Fill := c.fills.find? (fun x => x.line == l && x.wb.isSome == wb)
def Copse.dropFill (c : Copse) (x : Fill) : Copse := { c with fills := c.fills.erase x }
def Copse.setFill (c : Copse) (x y : Fill) : Copse := { c with fills := c.fills.map (fun z => if z = x then y else z) }

/-- A fill ends without data: each stand that touched the line and still stands there takes the trap, and the line is untouched
again. -/
def State.fillFail (s : State) (copse : Nat) (x : Fill) (cause : Nat) : State :=
  let c := (s.copseAt copse).dropFill x
  let s := s.setCopse copse (c.setLine x.line { c.lineAt x.line with touched := false })
  x.stands.foldl (fun s y =>
    if (s.standAt y.1).pc = y.2.1 ∧ (s.standAt y.1).canIssue then s.raise y.1 { y.2.2 with cause := BitVec.ofNat 8 cause } y.2.1 else s) s

/-- The line as its fill leaves it: one that a copy fills, or that a cancelled copy left, stays empty (R320, R325). -/
def Copse.filled (c : Copse) (l : Nat) (bytes : Mem) : Copse :=
  let c := { c with scratch := memSetBlock c.scratch 128 l bytes }
  let x := c.lineAt l
  if x.filler = some .region then c.setLine l { x with full := true, filler := none } else c

/-- The bytes of a line that a fill reads as a load with a mask (R261, R299): under a narrow one what the core's L1 holds, over a replica
or the home copy; under another the home, to which the core's dirty bytes go first. -/
def State.fillBytes (s : State) (vi core : Nat) (m : Byte) (line : Nat) : Mem × State :=
  if isWindow (128 * line) then (s.windowBytes line, s)
  else if maskNarrow m then
    let s := s.recall core line
    let src := s.missBytes core line
    (match s.l1At core line with | some l => mergeOver l.valid l.bytes src | none => src, s.noteLoad vi core line 0)
  else
    let s := ((s.recall core line).writeBackL1 core line).noteLoad vi core line 0
    (s.lineBytes line, s)

/-- A first-touch fill reaches the wafer cache (R261). -/
def State.regionFill (s : State) (copse l : Nat) : State :=
  let c := s.copseAt copse
  match c.fillOf l false, c.regionOf l with
  | some x, some (_, r) =>
    if x.req.isSome ∨ c.life ≠ .resident then s
    else match s.xlate copse .read (r.addr l) with
    | .fault cause =>
      if cause = 2 ∨ cause = 3 then
        let (id, s) := s.postPage c.vi (r.addr l) cause
        s.setCopse copse ((s.copseAt copse).setFill x { x with req := some id })
      else s.fillFail copse x cause
    | .ok (pa, _) =>
      if s.stagedLine (pa / 128) then s.holdAt (.fill copse l) [pa / 128]
      else if s.pageLogged c.core [(0, r.addr l)] then s
      else
        let (bytes, s) := s.fillBytes c.vi c.core r.mask (pa / 128)
        s.setCopse copse (((s.copseAt copse).dropFill x).filled l bytes)
  | _, _ => s
def execRegionFill (copse line : Nat) (s : State) : Host.Outcome State Fault Refusal := .next (s.regionFill copse line)

/-- A write-back ends without writing: its line's dirty bytes are discarded and its stand takes the trap, which waits in the fill
until there is room for it (R262, R397). -/
def State.wbFail (s : State) (copse : Nat) (x : Fill) (t : TrapReq) : State :=
  match x.wb with
  | none => s
  | some k =>
    if s.deferRoom k then
      let c := (s.copseAt copse).dropFill x
      ((s.setCopse copse (c.setLine x.line { c.lineAt x.line with dirty := 0 })).deferTrap k t).swbLine copse x.line
    else s.setCopse copse ((s.copseAt copse).setFill x { x with req := some 0, stands := [(k, (s.standAt k).pc, t)] })
/-- The trap of a write-back. -/
def wbTrap (r : Region) (l cause : Nat) : TrapReq := ⟨3, BitVec.ofNat 8 cause, BitVec.ofNat 64 (r.addr l), r.mask, 8, false, allLanes, 0, 0⟩
/-- A write-back of one line is performed (R262): its dirty bytes are a store with the region's mask. -/
def State.regionWb (s : State) (copse l : Nat) : State :=
  let c := s.copseAt copse
  match c.fillOf l true, c.regionOf l with
  | some x, some (_, r) =>
    match x.req, x.wb with
    | some 0, _ => (match x.stands with | (_, _, t) :: _ => s.wbFail copse x t | [] => s)
    | some _, _ => s
    | none, none => s
    | none, some k =>
      if c.life ≠ .resident then s
      else match s.xlate copse .write (r.addr l) with
      | .fault cause =>
        if cause = 2 ∨ cause = 3 then
          let (id, s) := s.postPage c.vi (r.addr l) cause
          s.setCopse copse ((s.copseAt copse).setFill x { x with req := some id })
        else s.wbFail copse x (wbTrap r l cause)
      | .ok (pa, _) =>
        if s.stagedLine (pa / 128) then s.holdAt (.fill copse l) [pa / 128]
        else if s.pageLogged c.core [(0, r.addr l)] then s
        else
          let y := c.lineAt l
          let s := s.storeBytes k r.mask netBulk (pa / 128) (maskedBytes y.dirty (memBlock c.scratch 128 l))
          let c := (s.copseAt copse).dropFill x
          (s.setCopse copse (c.setLine l { c.lineAt l with dirty := 0 })).swbLine copse l
  | _, _ => s
def execRegionWriteBack (copse line : Nat) (s : State) : Host.Outcome State Fault Refusal := .next (s.regionWb copse line)
/-- Write-backs whose trap waits for room (R397). -/
def State.settleFills (s : State) (k : Nat) : State :=
  let copse := copseOf k
  ((s.copseAt copse).fills.filter (fun x => x.wb == some k && x.req == some 0)).foldl (fun s x => match x.stands with
    | (_, _, t) :: _ => s.wbFail copse x t
    | [] => s) s

end Sys2Proof.Machine
end

