-- ==== Sys2Proof/Machine/Stands.lean ====
section
/-! DEFINITION. Clause headers and mark words (spec/02 R38, R39, R44, R47; spec/05 R119, R130), and what happens to a stand beside its
issue: completions, the end of a sleep, trap entry, deferred traps, the end, the watchdog and markers (spec/02 R41, spec/04 R101 R107,
spec/13 R315, spec/17 R397 R400 R420). -/

namespace Sys2Proof.Machine

/-! ### Headers, mark words, graft points -/

/-- A move or a drain of the copse gathers its stands at graft points (R130, R408). -/
def Copse.gathers (c : Copse) : Bool := c.move.state == .gather || c.drain.isSome
/-- A stand comes to a graft point: the issue opportunities since the copse's last one are a sample of GAVG (R407). -/
def State.graftSample (s : State) (k : Nat) : State :=
  if (s.standAt k).waited then s
  else
    let c := s.copseAt (copseOf k)
    let g := c.gavg ++ [c.sinceGraft]
    (s.setCopse (copseOf k) { c with gavg := g.drop (g.length - 8), sinceGraft := 0 }).setStand k { s.standAt k with waited := true }
/-- The lapse limit (R131). -/
def lapseLimit : Nat := 65536
/-- The copse's request has not reached the lapse limit (R131). -/
def Copse.inTime (c : Copse) : Bool := c.move.state != .gather || c.move.lapse < lapseLimit
/-- A stand holds at the graft point it has reached (R120, R130), until the request lapses (R131). -/
def State.holdsHere (s : State) (k : Nat) : Bool :=
  let c := s.copseAt (copseOf k)
  (s.standAt k).gate && c.gathers && (c.inTime || c.drain.isSome)
/-- A stand is held: ready in every respect, but not issued (R130). -/
def State.holding (s : State) (k : Nat) : Bool := (s.standAt k).held && s.holdsHere k
/-- The flags among those given that are not zero. -/
def Stand.raised (st : Stand) (ns : List Nat) : List Nat := ns.filter (fun n => st.flag n != 0)
/-- A header or mark word with its flags at zero: a graft point holds the stand, otherwise it goes on as given. -/
def State.atPoint (s : State) (k : Nat) (graft : Bool) (go : Stand → Stand) : State :=
  let s := if graft then s.graftSample k else s
  let st := s.standAt k
  if graft && s.holdsHere k then (s.setStand k { st with held := true }).stalled k 5
  else s.setStand k { go st with held := false, waited := false }
/-- A clause header (R38, R44, R47). -/
def State.atHeader (s : State) (k : Nat) (h : Hdr) : State :=
  let st := s.standAt k
  if !st.canIssue then s
  else match lowest ((if 32 < st.pc.toNat % 32 + 8 then [3] else []) ++ (if st.place = .inClause then [0xA] else [])) with
    | some c => s.raise k { trapOf (.clauseHeader h) 0 c with addr := st.pc, fmask := st.a } st.pc
    | none =>
      let ns := st.raised ((List.range 12).filter (fun n => h.wait.getLsbD n))
      if ns ≠ [] then s.stalled k (st.flagStall ns)
      else s.atPoint k h.gpt (fun st => { st with pc := st.pc + 8, place := .inClause, clh := some h, clpos := 0 })
/-- A mark word (R39). -/
def State.atMark (s : State) (k : Nat) (m : Mark) : State :=
  let st := s.standAt k
  if !st.canIssue then s
  else if 32 < st.pc.toNat % 32 + 8 then s.raise k { trapOf (.markWord m) 0 3 with addr := st.pc, fmask := st.a } st.pc
  else
    let ns := st.raised (List.range 12)
    if ns ≠ [] then s.stalled k (st.flagStall ns) else s.atPoint k true (fun st => { st with pc := st.pc + 8 })
def execClauseHeader (h : Hdr) (s : State) : Host.Outcome State Fault Refusal := .next (s.atHeader s.cur h)
def execMarkWord (h : Mark) (s : State) : Host.Outcome State Fault Refusal := .next (s.atMark s.cur h)

/-! ### Completion of outstanding operations (R41, R184) -/

/-- The operation may write its results now: with them, or not yet. -/
def State.pendDone (s : State) (k : Nat) (p : Pend) : Option Pend × State :=
  match p.on with
  | .ready => (some p, s)
  | .claim ls =>
    let st := s.standAt k
    (some p, s.setStand k { st with lvl := tputs (ls.map (fun l => (l.1, BitVec.ofNat 64 l.2))) st.lvl })
  | .deq f _ => s.serveDeq k f p
  | .mwait cl n tag upto d _ =>
    let e := s.engineAt cl
    let r := e.resv n
    if r.tag ≠ tag ∧ ¬ (r.tag = tag + 1 ∧ r.state ≠ .opened) then
      (some { p with sw := [(d, (Config.freeWord s.free 0 &&& 3).setWidth 64)] }, s.bump)
    else (match e.mwaitDone n upto with
      | none => (none, s)
      | some x => (some { p with sw := [(d, BitVec.ofNat 64 x)] }, s))
  | .grove => (none, s)
  | .copies qs => if qs.any (fun q => ((s.copseAt (copseOf k)).copyOf q).isSome) then (none, s) else (some p, s)
  | .swb _ => (none, s)
  | .fenceM => (none, s)
  | .log w => if (s.coreAt (s.coreOf k)).slog.any (fun e => e.stand == k && e.word == w) then (none, s) else (some p, s)
/-- An earlier operation of the list must complete first: one that sends to the same channel (R184), or an earlier claim. -/
def Pend.before (p q : Pend) : Bool :=
  (match p.ch, q.ch with | some a, some b => a.1 == b.1 | _, _ => false)
    || (match p.on, q.on with | .claim _, .claim _ => true | _, _ => false)
/-- The outstanding operation at a place of a stand's list completes if it can. -/
def State.completePend (s : State) (k idx : Nat) : State :=
  let st := s.standAt k
  match st.pend[idx]? with
  | none => s
  | some p =>
    if (s.copseAt (copseOf k)).life ≠ .resident ∨ (st.pend.take idx).any (fun q => q.before p) then s
    else match s.pendDone k p with
      | (none, s) => s
      | (some p, s) =>
        let st := s.standAt k
        (s.setStand k { st with pend := st.pend.eraseIdx idx }).finish k p
def execLongLatencyComplete (stand idx : Nat) (s : State) : Host.Outcome State Fault Refusal := .next (s.completePend stand idx)

/-! ### Sleep, trap entry and deferred traps -/

/-- The issue opportunities of a sleep have passed (R107). -/
def State.wake (s : State) (k : Nat) : State :=
  let st := s.standAt k
  if st.wait = .sleep 0 then s.setStand k { st with wait := .none } else s
def execSleepEnd (stand : Nat) (s : State) : Host.Outcome State Fault Refusal := .next (s.wake stand)

/-- A synchronous trap whose stand has nothing outstanding any more is taken (R400). -/
def State.enterTrap (s : State) (k : Nat) : State :=
  let st := s.standAt k
  match st.trapWait with
  | none => s
  | some r => if st.pend = [] ∧ (s.copseAt (copseOf k)).life = .resident then s.takeTrap k r else s
def execTrapEntry (stand : Nat) (s : State) : Host.Outcome State Fault Refusal := .next (s.enterTrap stand)

/-- A deferred trap is due at the stand's next issue opportunity (R397), after a fence that it waits in (R317); a stand that ends takes it
there (R101). -/
def Stand.deferDue (st : Stand) : Bool :=
  (st.life == .live || st.life == .ending) && st.wait == .none && st.trapWait == none && !st.held && !st.fencing && st.deferred != [] && st.frames == []
/-- What waited for room in the queue of a stand goes on (R397). -/
def State.settleDeferred (s : State) (k : Nat) : State := (((s.settleLog k).settleCopies k).settleFills k).resumeFenceM k
/-- The head of the queue is taken, with the program counter of now in its record (R397, R398, R400). A stand that was terminated runs
no handler: its record is posted (R401). -/
def State.takeDeferred (s : State) (k : Nat) : State :=
  let st := s.standAt k
  let c := s.copseAt (copseOf k)
  match st.deferred with
  | [] => s
  | r :: rest =>
    if !st.deferDue || st.pend != [] || c.life != .resident then s
    else
      let pc := if st.life = .ending then st.exitPc else st.pc
      let r := { r with npc := pc, othpc := s.othpc (copseOf k) pc.toNat }
      let s := s.setStand k { st with deferred := rest, pc := pc }
      (if st.life = .ending ∧ st.exitMask = 0 then s.postEvent c.vi r else s.takeTrap k r).settleDeferred k
def execDeferredTrapTake (stand : Nat) (s : State) : Host.Outcome State Fault Refusal := .next (s.takeDeferred stand)

/-! ### The end of a stand (R101) -/

/-- Operand fetches of a stand are under way (R213). -/
def State.fetching (s : State) (k : Nat) : Bool :=
  (s.clusterAt (clusterOf (s.coreOf k))).eng.recs.any (fun r => r.2.queue.any (fun q => q.stand == k && q.op.fetches && q.phase != .complete))
/-- Nothing of an ending stand is outstanding, its own event entry and its operand fetches included (R101, R323, R443). -/
def State.quiet (s : State) (k : Nat) : Bool :=
  let st := s.standAt k
  st.frames == [] && st.pend == [] && st.deferred == [] && st.markers == [] && st.wait == .none && st.trapWait == none
    && st.fenceM.isNone && st.swbs == [] && !s.fetching k && s.copiesOf k == [] && !s.logged k && !(s.viAt (s.viOf k)).eqHolds (s.copseAt (copseOf k)).ord (k % 16) && !(s.copseAt (copseOf k)).fills.any (fun x => x.wb == some k)
/-- The channels of a copse on its core are freed (R338). -/
def State.freeChans (s : State) (copse : Nat) : State :=
  let n := (s.copseAt copse).core
  let c := s.coreAt n
  s.setCore n { c with chans := c.chans.filter (fun e => e.2.owner != some copse) }
/-- A copse leaves its core: its TLB entries go and the sets are dealt again (R248). -/
def State.offCore (s : State) (copse : Nat) : State :=
  let n := (s.copseAt copse).core
  let c := s.coreAt n
  s.setCore n (c.redeal (c.order.filter (fun x => x != copse)))
/-- A copse ends with its last stand: its channels, held blocks and room are free (R74, R338). -/
def State.copseEnds (s : State) (copse : Nat) : State :=
  let s := if (s.copseAt copse).launch = 0 then s else s.vacate copse
  let s := (s.freeChans copse).offCore copse
  s.setCopse copse { s.copseAt copse with life := .ended }
/-- Dirty lines of the copse's `.rw` and `.wo` regions (R262). -/
def Copse.allDirty (c : Copse) : List Nat := c.regions.flatMap (fun r => c.dirtyLines r.2)
/-- The copse holds a reservation that is not free. -/
def State.holdsResv (s : State) (copse : Nat) : Bool :=
  (s.engineAt (clusterOf (s.copseAt copse).core)).taken.any (fun x => x.2.copse == copse)
/-- An ending stand with nothing outstanding ends; the last of its copse waits for the region write-backs and the release of the
reservations that it starts (R101, R227, R262). -/
def State.endStand (s : State) (k : Nat) : State :=
  let copse := copseOf k
  let c := s.copseAt copse
  if (s.standAt k).life ≠ .ending ∨ c.life ≠ .resident ∨ !s.quiet k then s
  else
    let last := s.standsOf copse == [k]
    if last && c.allDirty != [] then s.startWbs copse k c.allDirty
    else
      let s := if last then s.releaseResvs copse else s
      if last && s.holdsResv copse then s
      else
        let s := (s.leaveAll k false).setStand k Stand.init
        if last then s.copseEnds copse else s
def execStandEnd (stand : Nat) (s : State) : Host.Outcome State Fault Refusal := .next (s.endStand stand)

/-! ### The issue watchdog (R420) -/

/-- A release of the stand waits on its side-log entries. -/
def State.waitsOnLog (s : State) (k : Nat) : Bool := (s.standAt k).stall == 8 && s.logged k
/-- The issue opportunities of the core count for a stand (R420). -/
def State.countable (s : State) (k : Nat) : Bool :=
  let st := s.standAt k
  let c := s.copseAt (copseOf k)
  (st.life == .live || (st.life == .ending && st.frames != [])) && c.life == .resident && !c.maint && !(s.coreAt c.core).stopped
    && st.trapWait == none
    && (match st.wait with
        | .none => st.stall != 9 && !s.waitsOnLog k
        | .heldRec .. => true
        | .enq .. => true
        | .markers => true
        | _ => false)
/-- The stall reason that AUX reports; a reason outside the table leaves AUX free. -/
def State.stallCode (s : State) (k : Nat) : Word64 :=
  let st := s.standAt k
  match st.wait with
  | .heldRec .. => 4
  | .enq .. => 1
  | .markers => 8
  | _ => if 1 ≤ st.stall ∧ st.stall ≤ 8 then BitVec.ofNat 64 st.stall else (Config.freeWord s.free 1).setWidth 64
/-- The words at a stand's program counter and the threads they name, as a fault record holds them (R398). -/
def State.wordAt (s : State) (k : Nat) : BitVec 128 × Mask :=
  match s.fetchAt k with
  | .fault _ => (0, allLanes)
  | .wait => (0, allLanes)
  | .word _ _ w =>
    let st := s.standAt k
    let gp := w.toNat / 2 ^ 13 % 8
    (BitVec.ofNat 128 (w.toNat % 2 ^ (8 * lenBytes (w.toNat % 4))),
      if bitAt w.toNat 12 then allLanes else st.a &&& (if bitAt w.toNat 16 then ~~~(st.pval gp) else st.pval gp))
/-- The watchdog ends what a stand could not issue: the instruction is abandoned and WDG cause 0x01 taken at it. -/
def State.watchdog (s : State) (k : Nat) : State :=
  let v := s.viAt (s.viOf k)
  let st := s.standAt k
  if !v.ien || !s.countable k || st.issueWait < 2 ^ v.ilog.toNat then s
  else
    let code := s.stallCode k
    let s := (s.dropHeld k).bump
    let st := match st.wait with | .heldRec .. => st.backTo st.last | _ => st
    let s := s.setStand k { st with wait := .none, enqDone := 0, held := false, waited := false, rel := none, fencing := false, issueWait := 0, stall := 0 }
    let (iw, p) := s.wordAt k
    s.raise k ⟨0x0C, 1, 0, 0, 0, false, p, iw, code⟩ (s.standAt k).pc
def execIssueWatchdog (stand : Nat) (s : State) : Host.Outcome State Fault Refusal := .next (s.watchdog stand)

/-! ### Markers (R315) -/

def execMarkerArrive (stand slice : Nat) (s : State) : Host.Outcome State Fault Refusal := .next (s.markerAt stand slice)

end Sys2Proof.Machine
end

