-- ==== Sys2Proof/Machine/Launches.lean ====
section
/-! DEFINITION. Launches (spec/03 R61-R73, R79-R81, R467): the record and its validation, dealing clusters and tickets, creating
copses, moving clusters between stages, and completion. -/

namespace Sys2Proof.Machine

/-! ### The record (R61-R65, R69) -/

/-- A level descriptor's fields; reserved bits are checked apart. -/
def levelOf (x : Nat) : Level := ⟨bits x 47 0, BitVec.ofNat 3 (bits x 50 48), BitVec.ofNat 8 (bits x 58 51), bits x 71 64⟩
/-- Level n of a stage descriptor. -/
def levelBitsOf (d n : Nat) : Nat := bits d (639 + 128 * n) (512 + 128 * n)
/-- Levels in use. -/
def levelCount (d : Nat) : Nat := bits d 239 237 + 1
/-- The stage that a descriptor describes. -/
def stageOfBits (d : Nat) : Stage :=
  { Stage.empty with
    sentry := BitVec.ofNat 64 (bits d 63 0)
    hentry := BitVec.ofNat 64 (bits d 127 64)
    gmap := BitVec.ofNat 64 (bits d 191 128)
    vregs := bits d 200 192
    uregs := bits d 215 208
    smem := bits d 232 216
    cstands := bits d 236 233
    kinds := BitVec.ofNat 2 (bits d 241 240)
    qlog := bits d 245 242
    qisz := bits d 247 246
    qscope := BitVec.ofNat 8 (bits d 255 248)
    cmin := bits d 271 256
    cmax := bits d 287 272
    detw := bits d 303 288
    levels := (List.range (levelCount d)).map (fun n => levelOf (levelBitsOf d n)) }
/-- A number made of 64-bit words, lowest first. -/
def ofWords : List Nat → Nat
  | [] => 0
  | w :: r => w + 2 ^ 64 * ofWords r
/-- The record as read: the header and the stage descriptors; none is BAD_RECORD. -/
def State.readRecord (s : State) (vi va : Nat) : Option (Nat × List Nat) := do
  let h ← s.ctxWords vi va 16
  let ns := bits (h.headD 0) 50 48 + 1
  let ds ← (List.range ns).mapM (fun n => s.ctxWords vi (va + 128 + 192 * n) 24)
  some (ofWords h, ds.map ofWords)

/-- BAD_FIELD of a header and of a stage (R62-R64). -/
def badHeader (h : Nat) : Bool :=
  bits h 55 53 != 0 || bits h 191 160 != 0 || bits h 351 328 != 0 || bits h 1023 384 != 0 || bits h 159 128 % 8 != 0
    || 0x10000 < bits h 159 128
def badLevel (x : Nat) : Bool :=
  bits x 47 0 == 0 || bits x 63 59 != 0 || bits x 127 72 != 0
    || (if bits x 50 48 = 6 then bits x 71 64 == 0 || 77 < bits x 71 64 else bits x 71 64 != 0)
def badStage (d : Nat) (last det : Bool) : Bool :=
  let st := stageOfBits d
  bits d 207 201 != 0 || bits d 511 304 != 0 || st.vregs == 0 || 256 < st.vregs || 128 < st.uregs || 65536 < st.smem || st.kinds == 0
    || 140 < st.cmin || (if last then st.qlog != 0 else st.qlog < 6) || (det && st.detw == 0)
    || (List.range (levelCount d)).any (fun n => badLevel (levelBitsOf d n))
/-- BAD_ALIGN. -/
def badAlign (h : Nat) (ds : List Nat) : Bool :=
  bits h 127 64 % 64 != 0 || bits h 255 192 % 512 != 0 || bits h 319 256 % 32 != 0
    || ds.any (fun d => bits d 63 0 % 32 != 0 || bits d 127 64 % 32 != 0)
/-- Domains do not increase inward. -/
def domsFall : List Level → Bool
  | a :: b :: r => decide (b.dom.toNat ≤ a.dom.toNat) && domsFall (b :: r)
  | _ => true
/-- BAD_LEVELS (R65). -/
def badLevels (d : Nat) : Bool :=
  let st := stageOfBits d
  !domsFall st.levels || st.levels.dropLast.any (fun l => l.dom == 0)
    || st.levels.any (fun l => l.dom == 0 && 128 < l.extent) || 2 ^ 48 ≤ st.tickets
    || (List.range 8).any (fun n => levelCount d ≤ n && levelBitsOf d n != 0)

/-- The clusters of an interface's partition, ascending, and the fields that hold them (R73). -/
def State.partClusters (s : State) (vi : Nat) : List Nat := s.boot.clusters.filter (s.viAt vi).part.contains
def State.hostFields (s : State) (vi : Nat) : List Nat := distinct ((s.partClusters vi).map fieldOfCluster)
/-- The copses that a context holds resident or saved (R439). -/
def State.copsesOf (s : State) (vi : Nat) : List Nat :=
  (s.copses.filter (fun e => e.2.vi == vi && e.2.launch != 0 && (e.2.life == .resident || e.2.life == .saved))).map Prod.fst
def State.copseRoom (s : State) (vi : Nat) : Bool :=
  (s.viAt vi).cquota == 0 || (s.copsesOf vi).length < (s.viAt vi).cquota.toNat
/-- QUOTA. -/
def State.noQuota (s : State) (vi : Nat) : Bool :=
  !s.copseRoom vi || ((s.viAt vi).gquota != 0 && (s.viAt vi).gquota.toNat ≤ s.grovesOf vi)
/-- The codes of R69 that apply to a record that can be read. -/
def State.recordCodes (s : State) (vi h : Nat) (ds : List Nat) : List Nat :=
  let det := bitAt h 51
  (if bits h 31 0 = 0x4C335A4B then [] else [1])
    ++ (if bits h 47 32 = 1 then [] else [2])
    ++ (if badHeader h || ((List.range ds.length).zip ds).any (fun x => badStage x.2 (x.1 + 1 == ds.length) det) then [3] else [])
    ++ (if badAlign h ds then [4] else [])
    ++ (if ds.any badLevels then [5] else [])
    ++ (if ds.any (fun d => 2048 < roundRegs (stageOfBits d).vregs * ((stageOfBits d).cstands + 1)) then [6] else [])
    ++ (if s.partClusters vi = [] then [7] else [])
    ++ (if s.noQuota vi then [8] else [])
/-- The launch that a valid record describes. -/
def launchOf (vi : Nat) (tag : BitVec 16) (record : Word64) (h : Nat) (ds : List Nat) : Launch :=
  { Launch.init with
    running := true
    vi := vi
    tag := tag
    record := record
    det := bitAt h 51
    rstrt := bitAt h 52
    prio := bits h 63 56
    argp := BitVec.ofNat 64 (bits h 127 64)
    tvt := BitVec.ofNat 64 (bits h 255 192)
    lsch := BitVec.ofNat 64 (bits h 319 256)
    ldist := bits h 327 320
    latb := bits h 383 352
    stages := ds.map stageOfBits }

/-! ### Dealing clusters and tickets at launch (R73, R467) -/

/-- The stages that may take the next clusters: those below CMIN, or else those below CMAX. -/
def dealPool (sts : List Stage) (cnt : List Nat) : List Nat :=
  let at' (i : Nat) : Stage × Nat := ((sts[i]?).getD Stage.empty, (cnt[i]?).getD 0)
  let ok := (List.range sts.length).filter (fun i => (at' i).1.cmax == 0 || (at' i).2 < (at' i).1.cmax)
  let low := ok.filter (fun i => (at' i).2 < (at' i).1.cmin)
  if low = [] then ok else low
/-- Clusters dealt one at a time, round after round. -/
def dealGo (sts : List Stage) : Nat → List Nat → List Nat → List (Nat × Nat)
  | 0, _, _ => []
  | n + 1, free, cnt =>
    match free.zip (dealPool sts cnt) with
    | [] => []
    | now => now ++ dealGo sts n (free.drop now.length) (now.foldl (fun (c : List Nat) x => c.set x.2 (c.getD x.2 0 + 1)) cnt)
/-- The free clusters of a field in a partition. -/
def State.freeClusters (s : State) (vi f : Nat) : List Nat :=
  (s.partClusters vi).filter (fun c => fieldOfCluster c == f && (s.clusterAt c).serves.isNone)
/-- The deal of one field for a new launch: cluster and stage. -/
def State.dealField (s : State) (vi f : Nat) (sts : List Stage) : List (Nat × Nat) :=
  let free := s.freeClusters vi f
  dealGo sts free.length free (sts.map (fun _ => 0))

/-- Shares of nb blocks of a size from a first ticket, in proportion to weights (R73): each as a range of tickets. -/
def splitShares (lo nb blk : Nat) (w : List Nat) : List (Nat × Nat) :=
  let sum (l : List Nat) : Nat := l.foldl (· + ·) 0
  let w := if sum w = 0 then w.map (fun _ => 1) else w
  let base := w.map (fun x => nb * x / sum w)
  let left := nb - sum base
  let nz := (List.range w.length).filter (fun i => (w[i]?).getD 0 != 0)
  let cnt := ((List.range w.length).zip base).map (fun x => x.2 + (if nz.contains x.1 && decide (nz.idxOf x.1 < left) then 1 else 0))
  (cnt.foldl (fun (acc : Nat × List (Nat × Nat)) c => (acc.1 + c * blk, acc.2 ++ [(acc.1, acc.1 + c * blk)])) (lo, [])).2
/-- Consecutive groups of a size. -/
def chunks {α : Type} (n : Nat) : Nat → List α → List (List α)
  | 0, _ => []
  | k + 1, l => if l = [] then [] else l.take n :: chunks n k (l.drop n)
/-- The tickets of each hosting field, given the clusters of the stage there (R73); of two levels of DOM field group the outermost gives
FGSZ (DESIGN CHOICE, log 93). -/
def Stage.splitTickets (st : Stage) (fs : List (Nat × Nat)) : Tbl Ranges :=
  let groups := match st.levels.find? (fun l => l.dom == 6) with
    | some l => chunks (maxN 1 l.fgsz) fs.length fs
    | none => [fs]
  let bg := match st.levels.find? (fun l => l.dom == 6) with | some _ => st.blk 6 | none => maxN 1 st.tickets
  let shares := splitShares 0 (st.tickets / bg) bg (groups.map (fun g => g.foldl (fun n x => n + x.2) 0))
  (groups.zip shares).flatMap (fun g =>
    let sub := splitShares g.2.1 ((g.2.2 - g.2.1) / st.blk 5) (st.blk 5) (g.1.map Prod.snd)
    (g.1.zip sub).map (fun x => (x.1.1, if x.2.1 < x.2.2 then [x.2] else [])))

/-- The launch starts (R73, R251, R467). -/
def State.startLaunch (s : State) (l : Launch) : State :=
  let id := s.nextId
  let fs := s.hostFields l.vi
  let deals := fs.flatMap (fun f => s.dealField l.vi f l.stages)
  let s : State := deals.foldl (fun (s : State) d => s.setCluster d.1 { s.clusterAt d.1 with serves := some (id, d.2) }) { s with nextId := id + 1 }
  let count (n f : Nat) : Nat := (deals.filter (fun d => d.2 == n && fieldOfCluster d.1 == f)).length
  let stages := ((List.range l.stages.length).zip l.stages).map (fun x =>
    { x.2 with
      counters := if l.det || x.2.tickets == 0 then [] else x.2.splitTickets (fs.map (fun f => (f, count x.1 f)))
      segs := if x.1 + 1 = l.stages.length then [] else fs.map (fun f => (f, [])) })
  let s : State := s.setLaunch id { l with stages := stages, since := s.past.length }
  if l.lsch != 0 && (s.layerSchedule l.vi l.lsch.toNat).isNone then s.postEvent l.vi (hostEvent 3 l.lsch.toNat 0) else s.layerPrefetch id
/-- LAUNCH (R69, R440, R444). -/
def State.launchCmd (s : State) (vi : Nat) (tag : BitVec 16) (record : Word64) : State :=
  match s.takeCmd vi 1 tag with
  | none => s
  | some s =>
    let v := s.viAt vi
    if v.ended then s.complete vi tag 0x10 0
    else if v.dom.live.nslice = 0 ∨ v.nclus = 0 then s.complete vi tag 0x12 0
    else match s.readRecord vi record.toNat with
      | none => s.complete vi tag 9 0
      | some (h, ds) => match lowest (s.recordCodes vi h ds) with
        | some c => s.complete vi tag c 0
        | none => s.startLaunch (launchOf vi tag record h ds)
def execLaunch (vi : Nat) (tag : BitVec 16) (record : BitVec 64) (s : State) : Host.Outcome State Fault Refusal :=
  .next (s.launchCmd vi tag record)

/-! ### Room on a core (R19) -/

/-- The kind of a core. -/
def coreKind (core : Nat) : Kind := if core % 4 = 0 then .heart else .sap
/-- What takes room on a core: its resident copses, and those with room reserved there (R129). -/
def State.roomUsers (s : State) (core : Nat) : List (Nat × Copse) :=
  s.copses.filter (fun e => e.2.life == .resident && (e.2.core == core || e.2.move.room == some core))
def sumOf (f : Copse → Nat) (cs : List (Nat × Copse)) : Nat := cs.foldl (fun n e => n + f e.2) 0
/-- Resident stands of a core (R81). -/
def State.coreLoad (s : State) (core : Nat) : Nat :=
  sumOf (fun c => c.nst) (s.copses.filter (fun e => e.2.life == .resident && e.2.core == core))
/-- A set of copses with one more stays within R19. -/
def fitsWith (cs : List (Nat × Copse)) (nst vregs alloc : Nat) : Bool :=
  sumOf (fun c => c.nst) cs + nst ≤ 64 && sumOf (fun c => c.nst * roundRegs c.vregs) cs + nst * roundRegs vregs ≤ 2048
    && sumOf (fun c => c.alloc) cs + alloc ≤ 512 && cs.length < 64
def State.fits (s : State) (core nst vregs alloc : Nat) : Bool := fitsWith (s.roomUsers core) nst vregs alloc

/-! ### Work left and creation of copses (R70-R72, R81) -/

/-- Items in a stage's input segment of a field. -/
def State.inputItems (s : State) (launch stage f : Nat) : Nat := if stage = 0 then 0 else ((s.stage launch (stage - 1)).seg f).length
/-- Work left in a field (R80 check 3, R81): tickets in its counter, of which there are none under DET, and items in its input segment. -/
def State.workLeft (s : State) (launch stage f : Nat) : Nat :=
  Ranges.count (tget [] (s.stage launch stage).counters f) + s.inputItems launch stage f
/-- A copse of a stage is still to be created for a field (R81): under DET while an ordinal is left, otherwise while work is. -/
def State.copseDue (s : State) (launch stage f : Nat) : Bool :=
  let st := s.stage launch stage
  if (s.launchAt launch).det then decide (st.created < st.detw) else s.workLeft launch stage f != 0
/-- Clusters of a field that serve a stage. -/
def State.serving (s : State) (launch stage f : Nat) : List Nat :=
  (s.clusters.filter (fun e => e.2.serves == some (launch, stage) && fieldOfCluster e.1 == f)).map Prod.fst
/-- The cores of a cluster. -/
def coresOf (cluster : Nat) : List Nat := (List.range 4).map (fun i => 4 * cluster + i)
/-- The cores that a new copse of a stage may go to in a field. -/
def State.coresFor (s : State) (launch stage f : Nat) : List Nat :=
  let st := s.stage launch stage
  ((s.serving launch stage f).flatMap coresOf).filter (fun c =>
    st.allows (coreKind c) && s.fits c (st.cstands + 1) st.vregs (ceilDiv st.smem 128))
/-- The core is among the best of the given: fewest stands, then sapwood. -/
def State.bestCore (s : State) (cs : List Nat) (core : Nat) : Bool :=
  let rank (c : Nat) : Nat := 2 * s.coreLoad c + (if coreKind c = .sap then 0 else 1)
  cs.contains core && cs.all (fun c => rank core ≤ rank c)
/-- Threads that start active (R71). -/
def Stage.lanesOn (st : Stage) : Mask :=
  match st.levels.getLast? with
  | some l => if l.dom = 0 then BitVec.ofNat 128 (2 ^ l.extent - 1) else allLanes
  | none => allLanes
/-- A stand at its start (R71, R72). -/
def newStand (copse i : Nat) (st : Stage) (k : Kind) (l : Launch) (stage : Nat) : Stand :=
  { Stand.init with
    life := .live
    copse := copse
    idx := i
    pc := BitVec.ofNat 64 (st.entry k)
    a := st.lanesOn
    exited := ~~~st.lanesOn
    sr := [(0, l.argp), (1, l.record), (2, BitVec.ofNat 64 stage)] }
/-- The base registers of a core's copses (R241): one copse's scratchpad after another's, in the order of admission. -/
def State.rebase (s : State) (core : Nat) : State :=
  ((s.coreAt core).order.foldl (fun (x : Nat × State) c =>
    (x.1 + 128 * (x.2.copseAt c).alloc, x.2.setCopse c { x.2.copseAt c with base := x.1 })) (0, s)).2
/-- A byte of a core's physical scratchpad (R241). -/
def State.physByte (s : State) (core a : Nat) : Byte :=
  match (s.copsesOn core).find? (fun c => (s.copseAt c).base ≤ a && a < (s.copseAt c).base + 128 * (s.copseAt c).alloc) with
  | some c => memGet (s.copseAt c).scratch (a - (s.copseAt c).base)
  | none => 0
/-- A copse is created on a core (R70, R71, R81); the scheduler gives it one of the eight copy engines of the core's field (R318, log 84). -/
def State.createCopse (s : State) (launch stage core : Nat) : State :=
  let l := s.launchAt launch
  let st := s.stage launch stage
  let id := s.nextId
  let k := coreKind core
  let c : Copse :=
    { Copse.init with
      life := .resident
      vi := l.vi
      launch := launch
      stage := stage
      ord := st.created
      nst := st.cstands + 1
      core := core
      engine := Config.copyEngine id core % 8
      kind := k
      vregs := roundRegs st.vregs
      uregs := st.uregs
      alloc := ceilDiv st.smem 128
      gavg := [65536] }
  let s := { s with nextId := id + 1 }.setStage launch stage { st with created := st.created + 1 }
  let s := s.setCopse id c
  let co := s.coreAt core
  let s := (s.setCore core (co.redeal (co.order ++ [id]))).rebase core
  (List.range (st.cstands + 1)).foldl (fun s i => s.setStand (16 * id + i) (newStand id i st k l stage)) s
/-- The scheduler creates a copse where R81 allows one. -/
def State.tryCreate (s : State) (launch stage core : Nat) : State :=
  let l := s.launchAt launch
  let st := s.stage launch stage
  let f := fieldOfCore core
  if l.running && decide (stage < l.stages.length) && !st.done
      && s.copseDue launch stage f
      && s.copseRoom l.vi && s.bestCore (s.coresFor launch stage f) core then
    s.createCopse launch stage core
  else s
def execCopseCreate (launchId stage core : Nat) (s : State) : Host.Outcome State Fault Refusal := .next (s.tryCreate launchId stage core)

/-! ### Clusters between stages (R80, R467) -/

/-- The first with the least key. -/
def bestBy {α : Type} (key : α → List Nat) : List α → Option α
  | [] => none
  | x :: r => match bestBy key r with
    | none => some x
    | some y => if listLe (key x) (key y) then some x else some y
/-- The largest of a quantity. -/
def topOf {α : Type} (f : α → Nat) (l : List α) : Nat := l.foldl (fun n x => maxN n (f x)) 0
/-- The stages of running launches that are not complete. -/
def State.openStages (s : State) : List (Nat × Nat) :=
  s.launches.flatMap (fun e =>
    if e.2.running then (List.range e.2.stages.length).filterMap (fun n => if (e.2.stageAt n).done then none else some (e.1, n)) else [])
/-- Clusters that serve a stage in a field, and whether it may have one more. -/
def State.servingCount (s : State) (x : Nat × Nat) (f : Nat) : Nat := (s.serving x.1 x.2 f).length
def State.belowMax (s : State) (x : Nat × Nat) (f : Nat) : Bool :=
  (s.stage x.1 x.2).cmax == 0 || s.servingCount x f < (s.stage x.1 x.2).cmax
def State.belowMin (s : State) (x : Nat × Nat) (f : Nat) : Bool := s.servingCount x f < (s.stage x.1 x.2).cmin
/-- A free cluster goes at once to a stage of a running launch with work left (R467). -/
def State.redealCluster (s : State) (c : Nat) : State :=
  let f := fieldOfCluster c
  let ok := s.openStages.filter (fun x =>
    (s.viAt (s.launchAt x.1).vi).part.contains c && s.belowMax x f && s.workLeft x.1 x.2 f != 0)
  let key (x : Nat × Nat) : List Nat :=
    [(!s.belowMin x f).toNat, topOf (fun x => (s.launchAt x.1).prio) ok - (s.launchAt x.1).prio,
      if s.belowMin x f then 0 else topOf (fun x => s.workLeft x.1 x.2 f) ok - s.workLeft x.1 x.2 f, x.2, x.1]
  match bestBy key ok with
  | none => s
  | some x => s.setCluster c { s.clusterAt c with serves := some x }
/-- Clusters that have become free are dealt, in ascending order; one that no stage takes stays free. -/
def State.redealAll (s : State) (cs : List Nat) : State := cs.foldl (fun s c => s.redealCluster c) s

/-- Fullness of a stage's input segment against quarters: at least 3/4, under 1/4; and its own output queue is full (R80). -/
def State.inputHigh (s : State) (x : Nat × Nat) (f : Nat) : Bool :=
  x.2 != 0 && 3 * 2 ^ (s.stage x.1 (x.2 - 1)).qlog ≤ 4 * s.inputItems x.1 x.2 f
def State.inputLow (s : State) (x : Nat × Nat) (f : Nat) : Bool :=
  x.2 != 0 && 4 * s.inputItems x.1 x.2 f < 2 ^ (s.stage x.1 (x.2 - 1)).qlog
def State.outputFull (s : State) (x : Nat × Nat) (f : Nat) : Bool :=
  x.2 + 1 < (s.launchAt x.1).stages.length && (s.stage x.1 x.2).segFull f
/-- The stand's next word is an `enq` that found its queue full. -/
def State.enqStalls (s : State) (k : Nat) : Bool :=
  let st := s.standAt k
  match st.wait with
  | .enq .. => true
  | _ => st.stall == 1 && (match s.fetchAt k with | .word _ (.instr (.enq _) _) _ => true | _ => false)
/-- A stand of the stage in the field is stalled on its full queue (R80, R86). -/
def State.producerStalls (s : State) (x : Nat × Nat) (f : Nat) : Bool :=
  s.outputFull x f && s.stands.any (fun e =>
    let c := s.copseAt (copseOf e.1)
    c.life == .resident && c.launch == x.1 && c.stage == x.2 && fieldOfCore c.core == f
      && s.enqStalls e.1)
/-- Reference cycles of a field pass: how long each stage's producers have been stalled there in this interval (R80). -/
def State.tickInterval (s : State) (f cycles : Nat) : State :=
  let x := s.fieldAt f
  let full := s.openStages.filter (fun y => s.producerStalls y f)
  s.setField f { x with interval := x.interval + cycles,
                        stalled := full.foldl (fun t y => tset (stageKey y.1 y.2) (tget 0 t (stageKey y.1 y.2) + cycles) t) x.stalled }
/-- The stage's producers have stalled on a full queue for most of the interval. -/
def State.mostlyStalled (s : State) (x : Nat × Nat) (f : Nat) : Bool :=
  (s.fieldAt f).interval < 2 * tget 0 (s.fieldAt f).stalled (stageKey x.1 x.2)
/-- One check of R80: receivers and donors in order of preference. -/
def State.clusterPair (s : State) (recv give : List (Nat × Nat)) (rkey gkey : Nat × Nat → List Nat) : Option ((Nat × Nat) × (Nat × Nat)) :=
  let fit (r g : Nat × Nat) : Bool := r != g && (s.launchAt r.1).vi == (s.launchAt g.1).vi
  match bestBy rkey (recv.filter (fun r => give.any (fit r))) with
  | none => none
  | some r => (bestBy gkey (give.filter (fit r))).map (fun g => (r, g))
/-- A new interval begins (R80). -/
def State.newInterval (s : State) (f : Nat) : State := s.setField f { s.fieldAt f with interval := 0, stalled := [] }
/-- At most one cluster of a field moves between stages (R80). -/
def State.reassign (s : State) (f : Nat) : State :=
  let all := s.openStages
  let tie (x : Nat × Nat) : List Nat := [x.2, x.1]
  let work (x : Nat × Nat) : Nat := s.workLeft x.1 x.2 f
  let above (x : Nat × Nat) : Nat := s.servingCount x f - (s.stage x.1 x.2).cmin
  let have' := all.filter (fun x => s.servingCount x f != 0)
  let c1 := s.clusterPair (all.filter (fun x => s.belowMin x f && work x != 0 && s.belowMax x f))
    (have'.filter (fun x => (s.stage x.1 x.2).cmin < s.servingCount x f)) tie
    (fun x => (topOf above all - above x) :: tie x)
  let c2 := s.clusterPair (all.filter (fun x => s.inputHigh x f && s.belowMax x f))
    (have'.filter (fun x => work x == 0 || s.inputLow x f || s.mostlyStalled x f)) tie tie
  let c3 := s.clusterPair (all.filter (fun x => work x != 0 && s.belowMax x f)) (have'.filter (fun x => work x == 0))
    (fun x => (topOf work all - work x) :: tie x) tie
  match (match c1 with | some p => some p | none => match c2 with | some p => some p | none => c3) with
  | none => s.newInterval f
  | some (r, g) =>
    let cs := s.serving g.1 g.2 f
    let (j, s) := (s.newInterval f).pick cs.length
    match cs[j]? with
    | none => s
    | some c => s.setCluster c { s.clusterAt c with serves := some r }
def execClusterReassign (field : Nat) (s : State) : Host.Outcome State Fault Refusal := .next (s.reassign field)

/-! ### Completion (R79) -/

/-- A stage is complete. -/
def State.stageReady (s : State) (launch stage : Nat) : Bool :=
  let l := s.launchAt launch
  let st := l.stageAt stage
  l.running && decide (stage < l.stages.length) && !st.done && st.counters.all (fun c => c.2 == [])
    && (!l.det || st.created == st.detw)
    && (stage == 0 || ((l.stageAt (stage - 1)).done && (l.stageAt (stage - 1)).segs.all (fun x => x.2 == [])))
    && s.copses.all (fun e => e.2.launch != launch || e.2.stage != stage || (e.2.life != .resident && e.2.life != .saved))
/-- The clusters that serve a stage, or a launch. -/
def State.servers (s : State) (p : Nat × Nat → Bool) : List Nat :=
  (s.clusters.filter (fun e => match e.2.serves with | some x => p x | none => false)).map Prod.fst
/-- They become free. -/
def State.freeServing (s : State) (p : Nat × Nat → Bool) : State :=
  (s.servers p).foldl (fun s n => s.setCluster n { s.clusterAt n with serves := none }) s
/-- A launch ends: its completion counts the stands that were terminated (R444). -/
def State.endLaunch (s : State) (launch status : Nat) : State :=
  let l := s.launchAt launch
  ((s.setLaunch launch { l with running := false }).freeServing (fun x => x.1 == launch)).complete l.vi l.tag status l.terminated
/-- A stage completes; with the last the launch does (R79), once its completion entry has room (R443). The clusters that this frees are dealt
(R467). -/
def State.finishStage (s : State) (launch stage : Nat) : State :=
  let l := s.launchAt launch
  let last := stage + 1 = l.stages.length
  if !s.stageReady launch stage || (last && (s.viAt l.vi).cqStuck) then s
  else
    let free := s.servers (fun x => x == (launch, stage) || (last && x.1 == launch))
    let s := (s.setStage launch stage { l.stageAt stage with done := true }).freeServing (fun x => x == (launch, stage))
    (if last then s.endLaunch launch 0 else s).redealAll free
def execStageComplete (launchId stage : Nat) (s : State) : Host.Outcome State Fault Refusal := .next (s.finishStage launchId stage)

end Sys2Proof.Machine
end

