-- ==== Sys2Proof/Machine/Network.lean ====
section
/-! DEFINITION. The network (spec/18): what its packets carry (R423, R426), links and their failure (R424), routes and tables (R427-R432),
escape buffers (R430) and arbitration (R434). A packet carries no value: every transaction takes effect whole where it is performed. A router
is 36 gy + gx; outputs are numbered as R427 numbers them, inputs 0 to 5 from north as R434 lists them; a link is 8 (1296 (3 plane + network)
+ router) + output. -/

namespace Sys2Proof.Machine

/-! ### Places -/

def gxOf (router : Nat) : Nat := router % 36
def gyOf (router : Nat) : Nat := router / 36
def fieldOfRouter (router : Nat) : Nat := 9 * (gyOf router / 4) + gxOf router / 4
/-- The slice at a router, and the routers at a slice and in a field. -/
def sliceOfRouter (router : Nat) : Nat := 16 * fieldOfRouter router + 4 * (gyOf router % 4) + gxOf router % 4
def routerAt (field i : Nat) : Nat := 36 * (4 * (field / 9) + i / 4) + 4 * (field % 9) + i % 4
def routersOf (field : Nat) : List Nat := (List.range 16).map (routerAt field)
/-- A position in one of the four absent corners (R427). -/
def absentRouter (router : Nat) : Bool :=
  let f := fieldOfRouter router
  1296 ≤ router || f == 0 || f == 8 || f == 72 || f == 80
def linkOf (plane net router out : Nat) : Nat := 8 * (1296 * (3 * plane + net) + router) + out
def routerOfLink (l : Nat) : Nat := l / 8 % 1296
def planeOfLink (l : Nat) : Nat := l / 8 / 1296 / 3
/-- The router behind an output: north is toward smaller gy. -/
def nextRouter (router out : Nat) : Nat :=
  if out = 1 then router - 36 else if out = 2 then router + 1 else if out = 3 then router + 36 else if out = 4 then router - 1 else router
/-- A router has a link at an output within the grid. -/
def hasLink (router out : Nat) : Bool :=
  (if out = 1 then 0 < gyOf router else if out = 2 then gxOf router < 35 else if out = 3 then gyOf router < 35
    else if out = 4 then 0 < gxOf router else true) && !absentRouter router && !absentRouter (nextRouter router out)
/-- A link passed test, with the routers at its ends (R455); a crossover link passes with its routers (R429). -/
def linkTests (l : Nat) : Bool :=
  let r := routerOfLink l
  Config.routerPasses r && (l % 8 == 5 || (Config.linkPasses l && Config.routerPasses (nextRouter r (l % 8))))
def State.linkAt (s : State) (l : Nat) : Link := tget ⟨false, 0⟩ s.net.links l
/-- A link that is marked failed, failed test, or is not there. -/
def State.linkDead (s : State) (l : Nat) : Bool := (s.linkAt l).failed || !hasLink (routerOfLink l) (l % 8) || !linkTests l
/-- The crossover links of a position. -/
def crossovers (router : Nat) : List Nat := (List.range 6).map (fun n => linkOf (n / 3) (n % 3) router 5)
/-- The routers of a position have failed, with a crossover link between them (R429). -/
def State.routerDead (s : State) (router : Nat) : Bool :=
  (crossovers router).any (fun l => (s.linkAt l).failed) || absentRouter router || !Config.routerPasses router
def State.setNet (s : State) (n : Net) : State := { s with net := n }

/-! ### Transactions (R423, R426) -/

/-- The network of a transaction: 0 request, 1 reply, 2 bulk (R423). -/
def Transaction.net : Transaction → Nat
  | .load | .atomic | .fill | .copyRead | .mapRead | .store | .marker | .groveEvent | .recordEvent => 0
  | .loadReply | .atomicReply | .ack | .groveDone => 1
  | .lineWrite | .writeBack | .copyData | .drainLine | .homeMove => 2
/-- PRI of a transaction (R426). -/
def Transaction.pri : Transaction → BitVec 2
  | .marker | .ack | .groveEvent | .recordEvent => 3
  | .load | .atomic | .loadReply | .atomicReply => 2
  | .fill | .store | .groveDone => 1
  | .copyRead | .mapRead | .lineWrite | .writeBack | .copyData | .drainLine | .homeMove => 0
/-- The values of LEN that a transaction may have, in flits less one (R423): a request has one flit of data at most, a reply at most four,
bulk traffic two for each line. -/
def Transaction.lens : Transaction → List Nat
  | .load | .fill | .copyRead | .mapRead | .marker | .ack => [0]
  | .store => [1]
  | .atomic | .groveEvent | .recordEvent => [0, 1]
  | .loadReply => [1, 2, 3, 4]
  | .atomicReply | .groveDone => [0, 1]
  | .lineWrite | .writeBack | .copyData | .drainLine | .homeMove => [2, 4, 6]
def Packet.net (p : Packet) : Nat := p.kind.net
def Packet.pri (p : Packet) : BitVec 2 := p.kind.pri
/-- Flits of a packet. -/
def Packet.flits (p : Packet) : Nat := p.len.toNat + 1
/-- Bits 63:0 of a packet's header flit (R426). -/
def Packet.header (p : Packet) : Word64 :=
  p.txn ++ p.len ++ BitVec.ofBool p.esc ++ BitVec.ofBool p.xo ++ p.pri ++ BitVec.ofBool p.ts ++ p.sport ++ p.src ++ p.dport ++ p.dest
/-- The packet that a source makes of a header: TS, PRI, XO and ESC are not its to give. -/
def Packet.ofHeader (kind : Transaction) (plane id : Nat) (ts : Bool) (h : Word64) : Packet where
  id := id
  kind := kind
  plane := plane
  router := (h.extractLsb' 15 11).toNat
  dest := h.extractLsb' 0 11
  dport := h.extractLsb' 11 4
  src := h.extractLsb' 15 11
  sport := h.extractLsb' 26 4
  ts := ts
  xo := false
  esc := false
  len := h.extractLsb' 35 3
  txn := h.extractLsb' 38 26
  link := none
  sent := false
  ts0 := ts
  xo0 := false
  escaped := none

/-! ### Tables (R427, R428) -/

/-- A plane after bring-up: table 0 as loaded there, stable. -/
def Plane.init : Plane := ⟨false, .stable, [], [], 0, []⟩
def State.planeAt (s : State) (p : Nat) : Plane := tget Plane.init s.net.planes p
def State.setPlane (s : State) (p : Nat) (x : Plane) : State := s.setNet { s.net with planes := tset p x s.net.planes }
/-- The output that x-then-y routing names (plane 0), or y-then-x (plane 1). -/
def routeOut (plane router dest : Nat) : Nat :=
  let x := if gxOf router < gxOf dest then 2 else if gxOf dest < gxOf router then 4 else 0
  let y := if gyOf router < gyOf dest then 3 else if gyOf dest < gyOf router then 1 else 0
  if plane = 0 then (if x = 0 then y else x) else (if y = 0 then x else y)
/-- A router can send by an output on every network, as it was tested. -/
def usable (plane router out : Nat) : Bool := hasLink router out && (List.range 3).all (fun n => linkTests (linkOf plane n router out))
/-- The entry of bring-up, detours taken where one is needed or the destination named escape (R427, R455). -/
def routeEntry (detours : Bool) (plane router dest : Nat) : BitVec 4 :=
  let o := routeOut plane router dest
  if absentRouter dest then 6
  else if o = 0 then 0
  else if usable plane router o then BitVec.ofNat 4 o
  else if detours then Config.detour plane router dest else 6
/-- A table of the entries that a function gives. -/
def tableOf (f : Nat → Nat → BitVec 4) : Tbl (Tbl (BitVec 4)) :=
  (List.range 1296).map (fun r => (r, (List.range 1296).map (fun d => (d, f r d))))
/-- An entry of a table as it is given: an unlisted one, and every one for an absent position, names escape (R427). -/
def tableEntry (t : Tbl (Tbl (BitVec 4))) (router dest : Nat) : BitVec 4 := if absentRouter dest then 6 else tget 6 (tget [] t router) dest
/-- The turns of a table (R428): a link into a router, by its sender and output, with the output that a packet which came over it takes
there, for the destinations that both routers send that way. -/
def turnsOf (t : Tbl (Tbl (BitVec 4))) : List (Nat × Nat) :=
  t.flatMap (fun row => row.2.flatMap (fun e =>
    let o := (tableEntry t row.1 e.1).toNat % 8
    let n := nextRouter row.1 o
    let p := (tableEntry t n e.1).toNat % 8
    if 1 ≤ o && o ≤ 4 && 1 ≤ p && p ≤ 4 then [(8 * row.1 + o, 8 * n + p)] else []))
/-- Every turn of the first set is one of the second. -/
def turnsWithin (a b : List (Nat × Nat)) : Bool := a.all b.contains
/-- No cycle among links: what depends on no further link is taken out until nothing is left (R428). -/
def acyclic : Nat → List (Nat × Nat) → Bool
  | 0, ds => ds.isEmpty
  | n + 1, ds => ds.isEmpty || acyclic n (ds.filter (fun d => ds.any (fun e => e.1 == d.2)))
def turnsAcyclic (ds : List (Nat × Nat)) : Bool := acyclic ds.length ds
/-- The detours of bring-up keep the turn rules of R428. -/
def detoursKeep (plane : Nat) : Bool := turnsAcyclic (turnsOf (tableOf (routeEntry true plane)))
/-- The entry that bring-up loads (R427, R455): a plane whose detours would break the turn rules has none. -/
def bootEntry (plane router dest : Nat) : BitVec 4 :=
  let o := routeOut plane router dest
  if absentRouter dest then 6
  else if o = 0 then 0
  else if usable plane router o then BitVec.ofNat 4 o
  else routeEntry (detoursKeep plane) plane router dest
/-- The entry of a table of a plane; table 0 before any change is that of bring-up, and a freed table names escape. -/
def State.entryAt (s : State) (plane : Nat) (ts : Bool) (router dest : Nat) : BitVec 4 :=
  let p := s.planeAt plane
  if p.gen = 0 ∧ !ts then bootEntry plane router dest
  else tableEntry (if ts then p.table1 else p.table0) router dest
/-- The active table of a plane. -/
def State.activeTable (s : State) (plane : Nat) : Tbl (Tbl (BitVec 4)) :=
  let p := s.planeAt plane
  if p.gen = 0 then tableOf (bootEntry plane) else if p.act then p.table1 else p.table0
/-- The output that a packet names where it is (R428). -/
def State.outOf (s : State) (p : Packet) : Nat := (s.entryAt p.plane p.ts p.router p.dest.toNat).toNat % 8

/-- The table under which a source injects (R431): while SWITCHING each source flips once, when it likes. -/
def State.injectTs (s : State) (plane source : Nat) : Bool × State :=
  let p := s.planeAt plane
  match p.st with
  | .stable => (p.act, s)
  | .loading => (p.act, s)
  | .draining => (!p.act, s)
  | .switching =>
    if p.flipped.contains source then (!p.act, s)
    else
      let (n, s) := s.pick 2
      if n = 0 then (p.act, s) else (!p.act, s.setPlane plane { p with flipped := source :: p.flipped })

/-! ### Packets (R426, R429, R430) -/

/-- Packets in an escape buffer: of a slice and a network. -/
def State.escapedIn (s : State) (slice net : Nat) : Nat :=
  (s.net.packets.filter (fun p => p.net == net && (match p.escaped with | some e => e.1 == slice | none => false))).length
/-- Injection into a network of a plane is paused in a field (R430). -/
def State.paused (s : State) (field plane net : Nat) : Bool :=
  (List.range 16).any (fun i => 32 ≤ s.escapedIn (16 * field + i) net
    && s.net.packets.any (fun p => p.net == net && p.plane == plane && (match p.escaped with | some e => e.1 == 16 * field + i | none => false)))
/-- A source injects a packet of a kind, by the first word of its header. -/
def State.inject (s : State) (plane : Nat) (kind : Transaction) (h : Word64) : State :=
  let q := Packet.ofHeader kind plane s.nextId false h
  if 2 ≤ plane || s.routerDead q.router || !kind.lens.contains q.len.toNat || s.paused (fieldOfRouter q.router) plane kind.net then s
  else
    let (ts, s) := s.injectTs plane q.router
    { s with nextId := s.nextId + 1 }.setNet { s.net with packets := s.net.packets ++ [{ q with ts := ts, ts0 := ts }] }
/-- A packet comes to another place, behind those that are there. -/
def State.passPacket (s : State) (id : Nat) (f : Packet → Packet) : State :=
  s.setNet { s.net with packets := s.net.packets.filter (fun p => p.id != id) ++ (s.net.packets.filter (fun p => p.id == id)).map f }
def State.setLink (s : State) (l : Nat) (x : Link) : State := s.setNet { s.net with links := tset l x s.net.links }
/-- The packet on a link that the receiver has not acknowledged, and those that wait behind the link. -/
def State.onLink (s : State) (l : Nat) : Option Packet := s.net.packets.find? (fun p => p.sent && p.link == some l)
def State.behindLink (s : State) (l : Nat) : List Packet := s.net.packets.filter (fun p => p.link == some l && p.escaped.isNone)
/-- A link takes a packet: the one before it has passed, and its latches have room for the flits (R424, R434). -/
def State.linkTakes (s : State) (l : Nat) (p : Packet) : Bool :=
  let xs := s.behindLink l
  xs == [] || ((s.onLink l).isNone && decide (xs.foldl (fun n q => n + q.flits) p.flits ≤ Config.linkLatches l))
/-- The receiver acknowledges the packet on a link; the next flit there starts with no failed resend (R424). -/
def State.received (s : State) (l : Nat) : State :=
  match s.onLink l with
  | none => s
  | some p => (s.setLink l { s.linkAt l with resends := 0 }).passPacket p.id (fun q => { q with sent := false })
def execReceived (link : Nat) (s : State) : Host.Outcome State Fault Refusal := .next (s.received link)
/-- A packet enters the escape buffer of the slice at its router, marked with the number of the table that it was routed under; none while
that is full (R430). -/
def State.eject (s : State) (p : Packet) : Option State :=
  let slice := sliceOfRouter p.router
  if 32 ≤ s.escapedIn slice p.net then none
  else
    let f := fieldOfRouter p.router
    let s := s.setField f { s.fieldAt f with escn := (s.fieldAt f).escn + 1 }
    let under := (s.planeAt p.plane).gen + (if p.ts = (s.planeAt p.plane).act then 0 else 1)
    some (s.passPacket p.id (fun q => { q with escaped := some (slice, under), link := none }))
/-- A packet goes over the crossover link of its router to the other plane (R429). -/
def State.cross (s : State) (p : Packet) : Option State :=
  let x := linkOf p.plane p.net p.router 5
  if s.linkDead x then s.eject p
  else if !s.linkTakes x p then none
  else
    let f := fieldOfRouter p.router
    let (ts, s) := s.injectTs (1 - p.plane) p.router
    let s := s.setField f { s.fieldAt f with reinj := (s.fieldAt f).reinj + 1 }
    some (s.passPacket p.id (fun q =>
      { q with plane := 1 - p.plane, xo := true, ts := ts, link := some x, sent := true, ts0 := p.ts, xo0 := p.xo }))
/-- A packet whose output cannot be used goes to the other plane (R429), or to the escape buffer where it came from there (R430). -/
def State.reinject (s : State) (p : Packet) : Option State := if p.xo then s.eject p else s.cross p
/-- A packet leaves its router by the output it names; none where it waits in place. -/
def State.forward (s : State) (p : Packet) (out : Nat) : Option State :=
  if s.routerDead p.router then none
  else if out = 0 then some (s.setNet { s.net with packets := s.net.packets.filter (fun q => q.id != p.id) })
  else if out = 5 then s.cross p
  else if out = 6 then s.eject p
  else if out = 7 then none
  else
    let l := linkOf p.plane p.net p.router out
    if s.linkDead l then s.reinject p
    else if !s.linkTakes l p then none
    else some (s.passPacket p.id (fun q => { q with router := nextRouter p.router out, link := some l, sent := true, ts0 := p.ts, xo0 := p.xo }))

/-! ### Arbitration (R434) -/

/-- The input at which a packet waits. -/
def Packet.input (p : Packet) : Nat :=
  match p.link with
  | none => 4
  | some l => if l % 8 = 1 then 2 else if l % 8 = 2 then 3 else if l % 8 = 3 then 0 else if l % 8 = 4 then 1 else 5
/-- The head packet of an input, received and not escaped. -/
def State.headAt (s : State) (plane net router input : Nat) : Option Packet :=
  s.net.packets.find? (fun p =>
    p.plane == plane && p.net == net && p.router == router && p.escaped.isNone && !p.sent && p.input == input)
/-- The weight of an input of a field's routers; 0 is taken as 1 (R433). -/
def Field.weight (f : Field) (input : Nat) : Nat :=
  let w := if input = 0 then f.wn else if input = 1 then f.we else if input = 2 then f.ws else if input = 3 then f.ww
    else if input = 4 then f.wl else f.wx
  maxN 1 w.toNat
/-- The ages of the heads that name an output, as the arbiter knows them: input, packet, age. -/
def State.headsOf (s : State) (plane net router out : Nat) (a : Arbiter) : List (Nat × Packet × Nat) :=
  (List.range 6).filterMap (fun i => match s.headAt plane net router i with
    | some p => if s.outOf p = out then some (i, p, match tfind i a.heads with | some h => if h.1 = p.id then h.2 else 0 | none => 0) else none
    | none => none)
/-- The candidates: aged heads, or else those of the highest PRI. -/
def candidates (agemax : Nat) (hs : List (Nat × Packet × Nat)) : List (Nat × Packet × Nat) :=
  if hs.any (fun h => h.2.2 == agemax) then hs.filter (fun h => h.2.2 == agemax)
  else hs.filter (fun h => hs.all (fun x => x.2.1.pri.toNat ≤ h.2.1.pri.toNat))
/-- The first candidate in cyclic order from P. -/
def firstFrom (p : Nat) (hs : List (Nat × Packet × Nat)) : Option (Nat × Packet × Nat) :=
  hs.find? (fun h => hs.all (fun x => (h.1 + 6 - p) % 6 ≤ (x.1 + 6 - p) % 6))
/-- Pointer and run count after a grant to an input. -/
def Arbiter.granted (a : Arbiter) (g : Nat) (weight : Nat → Nat) : Nat × Nat :=
  let (p, c) := if g = a.p then (a.p, a.c + 1) else (g, 1)
  if c = weight p then ((p + 1) % 6, 0) else (p, c)
def State.arbAt (s : State) (k : Nat) : Arbiter := tget ⟨0, 0, []⟩ s.net.arbs k
/-- An output of a router grants one packet. -/
def State.grantOut (s : State) (plane net router out : Nat) : State :=
  let k := linkOf plane net router out
  let a := s.arbAt k
  let f := s.fieldAt (fieldOfRouter router)
  let agemax := maxN 1 f.agemax.toNat
  let hs := s.headsOf plane net router out a
  match firstFrom a.p (candidates agemax hs) with
  | none => s
  | some g =>
    match s.forward g.2.1 out with
    | none => s
    | some s =>
      let (p, c) := a.granted g.1 f.weight
      let heads := (hs.filter (fun h => h.1 != g.1)).map (fun h => (h.1, h.2.1.id, minN (h.2.2 + 1) agemax))
      s.setNet { s.net with arbs := tset k ⟨p, c, heads⟩ s.net.arbs }
def execArbiterGrant (plane net router output : Nat) (s : State) : Host.Outcome State Fault Refusal := .next (s.grantOut plane net router output)

/-! ### Links (R424) -/

/-- A flit fails its CRC at the receiver and is sent again. -/
def State.resend (s : State) (l : Nat) : State :=
  let x := s.linkAt l
  if x.failed || (s.onLink l).isNone then s else s.setLink l { x with resends := minN 8 (x.resends + 1) }
def execFlitResend (link : Nat) (s : State) : Host.Outcome State Fault Refusal := .next (s.resend link)
/-- A packet that was not acknowledged is at the sender of its link again, as it was there. -/
def Packet.takenBack (p : Packet) (l : Nat) : Packet :=
  { p with router := routerOfLink l, plane := planeOfLink l, link := none, sent := false, ts := p.ts0, xo := p.xo0 }
/-- A link is marked failed: the packet on it is at its sender again, behind those that wait there. -/
def State.failLink (s : State) (l : Nat) : State :=
  if s.linkDead l then s
  else
    let f := fieldOfRouter (routerOfLink l)
    let s := (s.setLink l { s.linkAt l with failed := true }).setField f { s.fieldAt f with dead := (s.fieldAt f).dead + 1 }
    match s.onLink l with
    | none => s
    | some p => s.passPacket p.id (fun q => q.takenBack l)
/-- The links into and out of the two routers of a position, on every network. -/
def routerLinks (r : Nat) : List Nat :=
  (List.range 6).flatMap (fun n => (List.range 5).flatMap (fun o =>
    if !hasLink r (o + 1) then []
    else if o = 4 then [linkOf (n / 3) (n % 3) r 5]
    else [linkOf (n / 3) (n % 3) r (o + 1), linkOf (n / 3) (n % 3) (nextRouter r (o + 1)) ((o + 2) % 4 + 1)]))
/-- The links that fail with a link: a crossover link takes both its routers with it (R429). -/
def linksWith (l : Nat) : List Nat := if l % 8 = 5 then l :: routerLinks (routerOfLink l) else [l]
def State.linkFails (s : State) (l : Nat) : State :=
  let x := s.linkAt l
  if x.failed ∨ x.resends < 8 then s
  else ((linksWith l).foldl (fun s l => s.failLink l) s).rebind s.boot.clusters s.boot.slices
def execLinkFail (link : Nat) (s : State) : Host.Outcome State Fault Refusal := .next (s.linkFails link)
/-- The packets of a slice's escape buffer are sent again under a newer table, behind those that wait there (R430). -/
def State.resendEscaped (s : State) (slice plane : Nat) : State :=
  let p := s.planeAt plane
  let due (q : Packet) : Bool := match q.escaped with
    | some (n, g) => q.plane == plane && n == slice && decide (g < p.gen)
    | none => false
  if p.st ≠ .stable then s
  else s.setNet { s.net with packets := s.net.packets.filter (fun q => !due q)
    ++ (s.net.packets.filter due).map (fun q => { q with escaped := none, esc := true, xo := false, ts := p.act, ts0 := p.act, xo0 := false }) }
def execEscapeResend (slice plane : Nat) (s : State) : Host.Outcome State Fault Refusal := .next (s.resendEscaped slice plane)

/-! ### Changing tables (R431, R432) -/

/-- A table may follow the active one: its turns are all of the old ones or only some of them, and so the larger set, which both tables
together have, is without a cycle (R428, R432). -/
def State.mayFollow (s : State) (plane : Nat) (t : Tbl (Tbl (BitVec 4))) : Bool :=
  let old := turnsOf (s.activeTable plane)
  let new := turnsOf t
  (turnsWithin new old || turnsWithin old new) && turnsAcyclic (old ++ new)
def State.startTable (s : State) (plane : Nat) (t : Tbl (Tbl (BitVec 4))) : State :=
  let p := s.planeAt plane
  if p.st ≠ .stable ∨ s.mayFollow plane t = false then s
  else s.setPlane plane { p with
    st := .loading
    flipped := []
    table0 := if p.act then t else p.table0
    table1 := if p.act then p.table1 else t }
def execTableChangeStart (plane : Nat) (table : List (Nat × List (Nat × BitVec 4))) (s : State) : Host.Outcome State Fault Refusal :=
  .next (s.startTable plane table)
def State.switchTable (s : State) (plane : Nat) : State :=
  let p := s.planeAt plane
  if p.st = .loading then s.setPlane plane { p with st := .switching } else s
def execTableSwitching (plane : Nat) (s : State) : Host.Outcome State Fault Refusal := .next (s.switchTable plane)
def State.drainTable (s : State) (plane : Nat) : State :=
  let p := s.planeAt plane
  if p.st = .switching then s.setPlane plane { p with st := .draining } else s
def execTableDraining (plane : Nat) (s : State) : Host.Outcome State Fault Refusal := .next (s.drainTable plane)
/-- The change ends once no packet of the old table is in the plane's links or routers; a router keeps a packet that it sent over its
crossover link until that is acknowledged. -/
def State.stableTable (s : State) (plane : Nat) : State :=
  let p := s.planeAt plane
  let holds (q : Packet) : Bool :=
    (q.plane == plane && q.escaped.isNone && q.ts == p.act)
      || (q.sent && (match q.link with | some l => planeOfLink l == plane && q.ts0 == p.act | none => false))
  if p.st ≠ .draining ∨ s.net.packets.any holds then s
  else s.setPlane plane { p with
    st := .stable
    act := !p.act
    gen := p.gen + 1
    flipped := []
    table0 := if p.act then p.table0 else []
    table1 := if p.act then [] else p.table1 }
def execTableStable (plane : Nat) (s : State) : Host.Outcome State Fault Refusal := .next (s.stableTable plane)

end Sys2Proof.Machine
end

