-- ==== Sys2Proof/Machine/MatrixOps.lean ====
section
/-! DEFINITION. The matrix engine at work (spec/09): the arbiter's grants, passes and drains with their values (spec/07 R174-R176), the
operand fetcher, assists, and the commit of staged tile updates. Times are left out; a pass or drain has its values at its grant. -/

namespace Sys2Proof.Machine

/-! ### Operand values (R163-R168, R204, R205) -/

/-- Byte reader of a reservation. -/
def Engine.byteOf (e : Engine) (r : Resv) (off : Nat) : Nat := (memGet e.buf (4096 * r.gbase + off)).toNat
/-- The code of element n of a tile whose data begins at a byte. -/
def elemCode (g : Nat → Nat) (fmt base n : Nat) : Nat :=
  if fmt ≤ 1 then g (base + 2 * n) + 256 * g (base + 2 * n + 1)
  else if fmt ≤ 4 then g (base + n)
  else g (base + n / 2) / 16 ^ (n % 2) % 16
/-- An element's value before its scales. -/
def elemVal (fmt c : Nat) : FVal :=
  if fmt = 0 then FF.bf16.decode c
  else if fmt = 1 then FF.f16.decode c
  else if fmt = 2 then FF.e4m3.decode c
  else if fmt = 3 then FF.e5m2.decode c
  else if fmt = 4 then ofInt (sextNat 8 c)
  else nibVal c
/-- One column or row of a tile: 64 decoded values, and a format fault (R209). -/
def tileVec (r : Resv) (g : Nat → Nat) (i v : Nat) : List FVal × Bool :=
  let fmt := r.fmt.toNat
  let base := r.partAt 0 i
  let hb := r.partAt 1 i + 8 * v
  let ts := FF.f32.decode r.tsc.toNat
  if fmt = 5 then
    let bs := (List.range 8).map (fun kb => k4oDecode ((List.range 8).map (fun j => elemCode g fmt base (64 * v + 8 * kb + j))) (g (hb + kb)) ts)
    (bs.flatMap Prod.fst, bs.any Prod.snd)
  else
    ((List.range 64).map (fun k =>
      let x := elemVal fmt (elemCode g fmt base (64 * v + k))
      mulOrNan (if r.bsc then mulOrNan x (e8m0 (g (hb + k / 8))) else x) ts), false)
/-- The 2:4 group of a column: the two positions kept, or none for a bad nibble (R205). -/
def sparseGroup (r : Resv) (g : Nat → Nat) (i n grp : Nat) : Option (Nat × Nat) :=
  let nib := g (r.partAt 2 i + 16 * n + grp / 2) / 16 ^ (grp % 2) % 16
  if nib % 4 < nib / 4 then some (nib % 4, nib / 4) else none
/-- A zero. -/
def fZero : FVal := .num false 0 0
/-- The products of one output element of a sparse pass; absent positions give products of +0 (R174), whatever the
streamed element there is, a NaN or an infinity too (DESIGN CHOICE, log 94). -/
def sparsePairs (x c : List FVal) (gs : List (Option (Nat × Nat))) : List (FVal × FVal) :=
  let at' (l : List FVal) (i : Nat) : FVal := (l[i]?).getD fZero
  (fZero, fZero) :: ((List.range gs.length).zip gs).flatMap (fun e => match e.2 with
    | some (a, b) => [(at' x (4 * e.1 + a), at' c (2 * e.1)), (at' x (4 * e.1 + b), at' c (2 * e.1 + 1))]
    | none => [])

/-- The pass values of W's tile over S's tile t, row by row, and the format faults of W and S (R231). -/
def Engine.passValues (e : Engine) (w x : Resv) (tile t : Nat) : List Nat × Bool × Bool :=
  let gw := e.byteOf w
  let gx := e.byteOf x
  let cols := (List.range 64).map (fun n => tileVec w gw tile n)
  let rows := (List.range 64).map (fun m =>
    let a := tileVec x gx t m
    if w.spar then
      let b := tileVec x gx (t + 1) m
      (a.1 ++ b.1, a.2 || b.2)
    else a)
  let groups := if w.spar then (List.range 64).map (fun n => (List.range 32).map (fun g => sparseGroup w gw tile n g)) else []
  let bad := groups.any (fun gs => gs.any (fun g => g.isNone))
  (rows.flatMap (fun row => (List.range 64).map (fun n =>
      let col := ((cols[n]?).getD ([], false)).1
      if w.spar then passValue (sparsePairs row.1 col ((groups[n]?).getD [])) else passValue (row.1.zip col))),
    cols.any Prod.snd || bad, rows.any Prod.snd)

/-- A nonzero result below the smallest normal of its format (R176). -/
def FF.tiny (f : FF) (x : Nat) : Bool := x / 2 ^ f.mbits % 2 ^ f.ebits == 0 && x % 2 ^ f.mbits != 0

/-! ### Lines (R206, R224) -/

/-- The lines, within the reservation, of a part of tiles. -/
def Resv.partLines (r : Resv) (part first count : Nat) : List Nat := linesOf (r.partAt part first) (r.partSize part * count)
/-- The lines that a pass reads of a tile. -/
def Resv.tileLines (r : Resv) (i : Nat) : List Nat :=
  r.partLines 0 i 1 ++ (if r.hdr then r.partLines 1 i 1 else []) ++ (if r.spar then r.partLines 2 i 1 else [])
/-- The lines that a fill writes. -/
def Resv.fillLines (r : Resv) : CmdOp → List Nat
  | .fillS p _ first n => r.partLines p.toNat first n
  | .fillG p first n _ => r.partLines p.toNat first n
  | _ => []
def Engine.isFull (e : Engine) (r : Resv) (l : Nat) : Bool := e.full.contains (32 * r.gbase + l)
def Engine.isDead (e : Engine) (r : Resv) (l : Nat) : Bool := e.dead.contains (32 * r.gbase + l)
/-- The streamed tiles of a pass. -/
def passTiles (w : Resv) (t : Nat) : List Nat := if w.spar then [t, t + 1] else [t]
/-- Two lists share a line. -/
def meets (a b : List Nat) : Bool := a.any (fun l => b.contains l)

/-! ### Grants (R211, R224) -/

def Resv.mapCmd (r : Resv) (seq : Nat) (f : Cmd → Cmd) : Resv := { r with queue := r.queue.map (fun c => if c.seq = seq then f c else c) }
def Engine.mapCmd (e : Engine) (n seq : Nat) (f : Cmd → Cmd) : Engine := e.setResv n ((e.resv n).mapCmd seq f)
def Engine.setPhase (e : Engine) (n seq : Nat) (p : CmdPhase) : Engine := e.mapCmd n seq (fun c => { c with phase := p })
/-- A tile waits for an assist (R217). -/
def Engine.assisted (e : Engine) (tile : Nat) : Bool := e.assists.any (fun a => a.1 == tile)
/-- A command that writes a tile. -/
def CmdOp.writes (op : CmdOp) (tile : Nat) : Bool :=
  match op with
  | .pass _ _ _ j _ => j == tile
  | .zero m => m.getLsbD tile
  | .drain _ _ _ _ za _ _ _ _ _ j _ => za && j == tile
  | _ => false
/-- An earlier fill of some of the lines is not yet granted. -/
def Resv.fillAhead (r : Resv) (seq : Nat) (ls : List Nat) : Bool :=
  r.queue.any (fun c => c.seq < seq && c.phase == .waiting && meets (r.fillLines c.op) ls)
/-- An earlier pass has still to read some of the lines. -/
def Engine.readAhead (e : Engine) (n seq : Nat) (ls : List Nat) : Bool :=
  e.taken.any (fun x => x.2.queue.any (fun c => c.seq < seq && c.phase == .waiting && (match c.op with
    | .pass sn _ t _ _ => sn == n && meets ((passTiles x.2 t).flatMap (e.resv n).tileLines) ls
    | _ => false)))
/-- An earlier fill of some of the lines is under way. -/
def Resv.fillNow (r : Resv) (seq : Nat) (ls : List Nat) : Bool :=
  r.queue.any (fun c => c.seq < seq && c.phase != .waiting && c.phase != .complete && meets (r.fillLines c.op) ls)
/-- An earlier command that writes a tile is not complete. -/
def Resv.writerAhead (r : Resv) (seq tile : Nat) : Bool :=
  r.queue.any (fun c => c.seq < seq && c.phase != .complete && c.op.writes tile)

/-- A line is full, or its fill was cancelled. -/
def Engine.settled (e : Engine) (r : Resv) (ls : List Nat) : Bool := ls.all (fun l => e.isFull r l || e.isDead r l)
/-- The lines that a pass reads, by reservation. -/
def Engine.passLines (e : Engine) (w : Resv) (sn t : Nat) : List Nat × List Nat :=
  ((match w.atile with | some i => w.tileLines i | none => []), (passTiles w t).flatMap (e.resv sn).tileLines)
/-- The first waiting command of a reservation is ready (R211, R214, R217, R224). -/
def Engine.ready (e : Engine) (n : Nat) (c : Cmd) : Bool :=
  let r := e.resv n
  match c.op with
  | .swap => true
  | .load i => e.settled r (r.tileLines i)
  | .zero m => (tilesOf m).all (fun j => !e.assisted j && !r.writerAhead c.seq j)
  | .drain _ _ _ _ _ _ _ _ _ _ j _ => !e.assisted j && !r.writerAhead c.seq j
  | .pass sn _ t j _ =>
    let (a, b) := e.passLines r sn t
    !e.assisted j && e.settled r a && e.settled (e.resv sn) b && !(e.resv sn).fillAhead c.seq b
  | op => !e.readAhead n c.seq (r.fillLines op) && !r.fillNow c.seq (r.fillLines op)

/-- The planes that granted passes use. -/
def Engine.busyPlanes (e : Engine) : List (Nat × Nat × Nat) :=
  e.taken.flatMap (fun x => (x.2.queue.filter (fun c => c.phase == .granted && (match c.op with | .pass .. => true | _ => false))).map
    (fun c => (x.1, x.2.tag, c.addr)))
/-- A tile comes to a physical plane, in place of the least recently used tile that is not in use (R203). -/
def Engine.usePlane (e : Engine) (n tag tile : Nat) : Engine :=
  let p := (n, tag, tile)
  let ps := e.planes.erase p
  let out := match ps with
    | a :: b :: _ => if e.busyPlanes.contains a && !e.busyPlanes.contains b then [a] else [b]
    | _ => ps
  { e with planes := out ++ [p] }
/-- A pass is granted: its values are added to its tile, or it is withdrawn (R231). -/
def Engine.grantPass (e : Engine) (n : Nat) (c : Cmd) (sn t j : Nat) (z : Bool) : Engine :=
  let w := e.resv n
  let x := e.resv sn
  let (a, b) := e.passLines w sn t
  if a.any (e.isDead w) || b.any (e.isDead x) then e.mapCmd n c.seq (fun c => { c with phase := .complete, withdrawn := true })
  else
    let tile := w.atile.getD 0
    let (pv, fw, fx) := e.passValues w x tile t
    let out := ((List.range 4096).zip pv).map (fun p => addDefault .f32 (if z then 0 else (e.accAt j p.1).toNat) p.2)
    let slow := pv.any (FF.tiny .f32) || out.any (FF.tiny .f32)
    let e := (e.usePlane n w.tag tile).setAcc j (out.map (fun x => BitVec.ofNat 32 x))
    let e := e.setResv n { e.resv n with ff := (e.resv n).ff || fw }
    let e := e.setResv sn { e.resv sn with ff := (e.resv sn).ff || fx }
    let e := e.mapCmd n c.seq (fun c => { c with phase := .granted, addr := tile })
    if slow then { e with assists := e.assists ++ [(j, n, c.seq)] } else e
/-- The destination format of a drain. -/
def dfmtOf (d : Nat) : FF := if d = 0 then .f32 else if d = 1 then .bf16 else if d = 2 then .f16 else if d = 3 then .e4m3 else .e5m2
/-- The resolution of R173 that SATX selects (R234). -/
def dfmtSat (d : Nat) (satx : Bool) : Bool := if d = 3 then !satx else satx
/-- One accumulator word as a drain converts it (R175): a NaN becomes the default NaN (R171), and an overflow without saturation what R173 gives
for it, in .e4m3 a NaN with the sign of the word (DESIGN CHOICE, log 94). -/
def drainCode (d : Nat) (sat : Bool) (x : Word32) : Nat :=
  let v := FF.f32.decode x.toNat
  if v.isNan then (dfmtOf d).nan else if d = 0 then x.toNat else (dfmtOf d).ofVal 0 sat v
/-- A drain is granted: it reads its rows (R214, R215, R234). -/
def Engine.grantDrain (e : Engine) (n : Nat) (c : Cmd) (d : Nat) (satx za : Bool) (row0 rows j : Nat) : Engine :=
  let ws := ((e.tileWords j).drop (64 * row0)).take (64 * rows)
  let out := ws.map (drainCode d (dfmtSat d satx))
  let slow := (d == 1 || d == 2) && out.any (dfmtOf d).tiny
  let e := if za then e.setAcc j (((List.range 4096).zip (e.tileWords j)).map (fun w =>
      if row0 ≤ w.1 / 64 ∧ w.1 / 64 < row0 + rows then 0 else w.2)) else e
  let e := e.mapCmd n c.seq (fun c => { c with phase := .granted, vals := out.map (fun x => BitVec.ofNat 32 x), todo := List.range rows })
  if slow then { e with assists := e.assists ++ [(j, n, c.seq)] } else e
/-- A fill begins: its lines become empty (R213), and planes that hold its stationary tiles are stale (R224). -/
def Engine.grantFill (e : Engine) (n : Nat) (c : Cmd) (first count : Nat) : Engine :=
  let r := e.resv n
  let ls := (r.fillLines c.op).map (fun l => 32 * r.gbase + l)
  let e := { e with
    full := e.full.filter (fun l => !ls.contains l)
    dead := e.dead.filter (fun l => !ls.contains l)
    planes := e.planes.filter (fun p => !(p.1 == n && first ≤ p.2.2 && p.2.2 < first + count)) }
  e.mapCmd n c.seq (fun c => { c with phase := .granted, todo := r.fillLines c.op })
/-- The head command of a reservation: the first that is not granted. -/
def Engine.head (e : Engine) (n : Nat) : Option Cmd := (e.resv n).queue.find? (fun c => c.phase == .waiting)
/-- The first waiting command of a reservation runs, if it is ready (R211). -/
def Engine.grant (e : Engine) (n : Nat) : Engine :=
  let r := e.resv n
  match e.head n with
  | none => e
  | some c =>
    if !e.ready n c then e
    else match c.op with
      | .swap => (e.setResv n { r with atile := r.stile, stile := r.atile }).setPhase n c.seq .granted
      | .load i => ((e.setResv n { r with stile := some i }).usePlane n r.tag i).setPhase n c.seq .granted
      | .zero m => ((tilesOf m).foldl (fun e j => e.setAcc j (List.replicate 4096 0)) e).setPhase n c.seq .granted
      | .pass sn _ t j z => e.grantPass n c sn t j z
      | .drain _ d _ satx za _ row0 rows _ _ j _ => e.grantDrain n c d satx za row0 rows j
      | .fillS _ _ first count => e.grantFill n c first count
      | .fillG _ first count _ => e.grantFill n c first count

/-- Complete commands leave the queue in the order they were accepted (R210); a released reservation with none left is freed. -/
def Engine.sweep (e : Engine) (n : Nat) : Nat → Engine
  | 0 => e
  | k + 1 =>
    let r := e.resv n
    match r.queue with
    | c :: q =>
      if c.phase = .complete then
        (e.setResv n { r with queue := q, gone := if c.withdrawn then r.gone ++ [c.seq] else r.gone }).sweep n k
      else e.freeAll
    | [] => e.freeAll
def State.sweep (s : State) (cluster n : Nat) : State :=
  let e := s.engineAt cluster
  s.setEngine cluster (e.sweep n (queueLimit + 1))

/-- The path that a command takes (R211): the array, plane loads, zeroing, drains; the others compete with none. -/
def CmdOp.path : CmdOp → Nat
  | .pass .. => 0
  | .load _ => 1
  | .zero _ => 2
  | .drain .. => 3
  | .swap => 4
  | .fillS .. => 4
  | .fillG .. => 4
/-- A command among those that wait for its path (R211): first one that has waited 4,096 engine cycles, then by the PRIO of its launch,
then a pass whose active tile is in a plane, then the oldest. -/
def State.rankOf (s : State) (cluster n : Nat) (c : Cmd) : List Nat :=
  let e := s.engineAt cluster
  let r := e.resv n
  if 8192 ≤ (s.clusterAt cluster).halves - c.since then [0, c.seq, 0, 0]
  else
    [1, 255 - (s.launchAt (s.copseAt r.copse).launch).prio,
      if c.op.path = 0 && !(e.planes.contains (n, r.tag, r.atile.getD 0)) then 1 else 0, c.seq]
/-- The arbiter may choose a reservation's head: it is ready, and no ready one for its path goes before it. -/
def State.mayGrant (s : State) (cluster n : Nat) : Bool :=
  let e := s.engineAt cluster
  match e.head n with
  | none => false
  | some c => e.ready n c && (c.op.path == 4 || e.taken.all (fun x => match e.head x.1 with
      | none => true
      | some d => d.op.path != c.op.path || !e.ready x.1 d || listLe (s.rankOf cluster n c) (s.rankOf cluster x.1 d)))
/-- A turn of the arbiter for a reservation. -/
def State.grantTurn (s : State) (cluster n : Nat) : State :=
  if s.mayGrant cluster n then (s.setEngine cluster ((s.engineAt cluster).grant n)).sweep cluster n else s
def execCommandGrant (cluster resv : Nat) (s : State) : Host.Outcome State Fault Refusal := .next (s.grantTurn cluster resv)
/-- The reservation whose head has waited longest. -/
def Engine.oldestHead (e : Engine) (n : Nat) : Bool :=
  match e.head n with
  | none => false
  | some c => e.taken.all (fun x => match e.head x.1 with | some d => c.seq ≤ d.seq | none => true)
/-- The active tile that the head pass of the oldest waiting reservation needs comes to a plane (R203). -/
def Engine.loadAhead (e : Engine) (n : Nat) : Engine :=
  let r := e.resv n
  match e.head n, r.atile with
  | some c, some i => if c.op.path == 0 && e.oldestHead n then e.usePlane n r.tag i else e
  | _, _ => e
def execPlaneLoad (cluster resv : Nat) (s : State) : Host.Outcome State Fault Refusal :=
  .next (s.setEngine cluster ((s.engineAt cluster).loadAhead resv))
/-- The control core completes the oldest assist (R217). -/
def execMatrixAssist (cluster : Nat) (s : State) : Host.Outcome State Fault Refusal :=
  let e := s.engineAt cluster
  .next (s.setEngine cluster { e with assists := e.assists.drop 1 })

/-! ### Operand lines (R213, R228, R229) -/

/-- The bytes of a line that a fill writes: offset in the fill, offset in the reservation, count. -/
def lineSpan (lo total l : Nat) : Nat × Nat × Nat :=
  let a := maxN lo (128 * l)
  let b := minN (lo + total) (128 * l + 128)
  (a - lo, a, b - a)
/-- The address of byte x of a descriptor's bytes, row by row (R327). -/
def descAddr (d x : Nat) : Nat := descBase d + x / descBytes d * descStride d + x % descBytes d
/-- The 16-byte chunks of n bytes from x. -/
def descChunks (d x n : Nat) : List Nat := (List.range (n / 16)).map (fun i => descAddr d (x + 16 * i))
/-- A fill's place: first byte in the reservation, and bytes. -/
def Resv.fillSpan (r : Resv) : CmdOp → Nat × Nat
  | .fillS p _ first n => (r.partAt p.toNat first, r.partSize p.toNat * n)
  | .fillG p first n _ => (r.partAt p.toNat first, r.partSize p.toNat * n)
  | _ => (0, 0)
/-- One line has arrived. -/
def Engine.putLine (e : Engine) (n seq l off : Nat) (bs : List Byte) : Engine :=
  let r := e.resv n
  let a := 4096 * r.gbase + off
  let line := 32 * r.gbase + l
  let e : Engine := { e with
    buf := putBytes (((List.range bs.length).zip bs).map (fun b => (a + b.1, b.2))) e.buf
    full := if e.full.contains line then e.full else e.full ++ [line] }
  e.mapCmd n seq (fun c => { c with todo := c.todo.erase l, phase := if c.todo.erase l = [] then .complete else c.phase })
/-- A fill ends as cancelled: its remaining lines stay empty (R228). -/
def Engine.cancelFill (e : Engine) (n seq : Nat) (c : Cmd) : Engine :=
  let r := e.resv n
  let ls := c.todo.map (fun l => 32 * r.gbase + l)
  { e with dead := e.dead ++ ls.filter (fun l => !e.dead.contains l) }.mapCmd n seq (fun c => { c with todo := [], phase := .complete })
/-- A fill ends with a deferred trap for its stand, once there is room for it (R228, R397). -/
def State.fillTrap (s : State) (cluster n : Nat) (c : Cmd) (t : TrapReq) : State :=
  if !s.deferRoom c.stand then s
  else (s.deferTrap c.stand t).setEngine cluster ((s.engineAt cluster).cancelFill n c.seq c)
/-- The trap of an operand fill (R398). -/
def operandTrap (cls cause addr : Nat) (space : Bool) : TrapReq :=
  ⟨BitVec.ofNat 8 cls, BitVec.ofNat 8 cause, BitVec.ofNat 64 addr, 0, 0xA, space, allLanes, 0, 0⟩
/-- The next line of a fill from scratchpad. -/
def State.fillFromScratch (s : State) (cluster n : Nat) (c : Cmd) (src l : Nat) : State :=
  let r := (s.engineAt cluster).resv n
  let (lo, total) := r.fillSpan c.op
  let (x, off, k) := lineSpan lo total l
  let copse := copseOf c.stand
  let s := s.touchLines copse (linesOf (src + x) k)
  let cp := s.copseAt copse
  match (linesOf (src + x) k).find? (fun q => (cp.lineAt q).bm || (!(cp.lineAt q).full && (cp.lineAt q).filler == none)) with
  | some q => s.fillTrap cluster n c (operandTrap (if (cp.lineAt q).bm then 5 else 4) 3 (maxN src (128 * q)) true)
  | none =>
    if !cp.linesFull (linesOf (src + x) k) then s
    else
      let bs := (List.range k).map (fun i => s.snapByte copse c.snap (src + x + i))
      s.bump.setEngine cluster ((s.engineAt cluster).putLine n c.seq l off bs)
/-- Translation of all chunks, or the first cause with its address. -/
def State.chunksXlate (s : State) (copse : Nat) : List Nat → Xl (List Nat) × Nat
  | [] => (.ok [], 0)
  | va :: r =>
    match s.xlate copse .read va with
    | .fault c => (.fault c, va)
    | .ok (pa, _) => match s.chunksXlate copse r with
      | (.ok ps, _) => (.ok (pa :: ps), 0)
      | x => x
/-- An earlier copy of the copse still has to write bytes that the fetch reads (R213, R335). -/
def State.copyAhead (s : State) (copse : Nat) (c : Cmd) (vas : List Nat) : Bool :=
  (s.copseAt copse).copies.any (fun y => y.seq < c.seq && y.status.isNone && !y.form.inward
    && y.globals.any (fun l => vas.any (fun va => va / 128 == l)))
/-- The address of a fetch's first undelivered line (R323): what it meets first there that does not translate, or else its first byte; with
the cause there, or else that of the line that was tried. -/
def State.fetchLine (s : State) (copse d : Nat) (span : Nat × Nat) (l cause : Nat) : Nat × Nat :=
  let (x, _, k) := lineSpan span.1 span.2 l
  match s.chunksXlate copse (descChunks d x k) with
  | (.fault c, va) => (c, 128 * (va / 128))
  | (.ok _, _) => (cause, 128 * (descAddr d x / 128))
/-- A line of a fill from global memory (R213): it is read at its home; a page fault parks the fill (R323), which then tells of `first`, its
first undelivered line. -/
def State.fillFromGlobal (s : State) (cluster n : Nat) (c : Cmd) (d first l : Nat) : State :=
  let r := (s.engineAt cluster).resv n
  let (lo, total) := r.fillSpan c.op
  let (x, off, k) := lineSpan lo total l
  let copse := copseOf c.stand
  match s.chunksXlate copse (descChunks d x k) with
  | (.fault cause, _) =>
    let (cause, line) := s.fetchLine copse d (lo, total) first cause
    if !s.deferRoom c.stand then s
    else if cause = 2 ∨ cause = 3 then
      let (id, s) := s.postPage (s.copseAt copse).vi line cause
      let s := s.deferTrap c.stand (operandTrap 3 cause line false)
      s.setEngine cluster ((s.engineAt cluster).mapCmd n c.seq (fun c => { c with phase := .parked (some id), addr := line }))
    else s.fillTrap cluster n c (operandTrap 3 6 line false)
  | (.ok ps, _) =>
    if ps.any (fun pa => s.stagedLine (pa / 128)) then s.holdAt (.cmd cluster n c.seq c.todo.length) (ps.map (fun pa => pa / 128))
    else if s.copyAhead copse c (descChunks d x k) then s
    else
      let cp := s.copseAt copse
      let s := (distinct (ps.map (fun pa => pa / 128))).foldl (fun s line => if isWindow (128 * line) then s else s.noteLoad cp.vi cp.core line 0) s
      let bs := ps.flatMap (fun pa => bytesOf (s.homeRead pa 16) 16)
      s.setEngine cluster ((s.engineAt cluster).putLine n c.seq l off bs)
/-- The lines of a global fill on the lowest page that it has still to read, or the next line of a fill from scratchpad. -/
def Resv.nextLines (r : Resv) (c : Cmd) : List Nat :=
  let (lo, total) := r.fillSpan c.op
  match c.op with
  | .fillG _ _ _ d =>
    let page (l : Nat) : Nat :=
      let (x, _, k) := lineSpan lo total l
      (descChunks d.toNat x k).foldl (fun m va => maxN m (pageOf va)) 0
    (match lowest (c.todo.map page) with
      | none => []
      | some p => c.todo.filter (fun l => page l == p))
  | _ => c.todo.take 1
/-- A line of the first fill of a reservation that is under way. -/
def State.operandLine (s : State) (cluster n : Nat) : State :=
  let r := (s.engineAt cluster).resv n
  match r.queue.find? (fun c => r.fillLines c.op != [] && c.phase != .waiting && c.phase != .complete) with
  | none => s
  | some c =>
    if (s.copseAt (copseOf c.stand)).life ≠ .resident then s
    else match c.phase with
    | .parked none => s.fillTrap cluster n c (operandTrap 3 6 c.addr false)
    | .parked (some _) => s
    | _ =>
      let ls := r.nextLines c
      let (j, s) := if ls.length ≤ 1 then (0, s) else s.pick ls.length
      let l := (ls[j]?).getD 0
      match c.op with
      | .fillS _ src _ _ => s.fillFromScratch cluster n c src l
      | .fillG _ _ _ d => s.fillFromGlobal cluster n c d.toNat ((lowest ls).getD l) l
      | _ => s
def execOperandLineArrive (cluster resv : Nat) (s : State) : Host.Outcome State Fault Refusal :=
  .next ((s.operandLine cluster resv).sweep cluster resv)

/-! ### Drains (R215, R216, R234, R235) -/

/-- The exact sum of two values rounded once, with the resolution of the drain (R215, R234). -/
def FF.addSat (f : FF) (sat : Bool) (x y : Nat) : Nat :=
  let a := f.decode x
  let b := f.decode y
  if a.isNan || b.isNan || (a.isInf && b.isInf && a.neg != b.neg) then f.nan
  else if a.isInf then f.ofVal 0 sat a
  else if b.isInf then f.ofVal 0 sat b
  else
    let u := minExp [a, b]
    let z := inUnits u a + inUnits u b
    if z = 0 then f.signed (a.neg && b.neg) 0
    else
      let y := f.round 0 sat (decide (z < 0)) z.natAbs 1 u
      if (f.decode y).isNan then f.nan else y
/-- The elements of row i of a drain: bytes from the row's start, and code. -/
def Cmd.rowElems (c : Cmd) (sz i : Nat) : List (Nat × Word32) :=
  ((List.range 64).zip ((c.vals.drop (64 * i)).take 64)).map (fun e => (sz * e.1, e.2))
/-- Elements as bytes. -/
def elemsBytes (sz : Nat) (es : List (Nat × Word32)) : List (Nat × Byte) :=
  es.flatMap (fun e => ((List.range sz).zip (bytesOf e.2.toNat sz)).map (fun b => (e.1 + b.1, b.2)))
/-- Elements combined with what stands at their offsets. -/
def combine (d : Nat) (sat : Bool) (old : Nat → Nat) (es : List (Nat × Word32)) : List (Nat × Word32) :=
  es.map (fun e => (e.1, BitVec.ofNat 32 ((dfmtOf d).addSat sat (old e.1) e.2.toNat)))

/-- The parts of a drain. -/
structure DrainOp where
  dest : Nat
  d : Nat
  add : Bool
  satx : Bool
  base : Nat
  stride : Nat
  ch : Nat
  mask : Byte
def CmdOp.drainOp : CmdOp → Option DrainOp
  | .drain dest d add satx _ base _ _ stride ch _ mask => some ⟨dest, d, add, satx, base, stride, ch, mask⟩
  | _ => none
/-- The trap of a drain (R398). -/
def drainTrap (cls cause addr : Nat) (space : Bool) (sm : Byte) : TrapReq :=
  ⟨BitVec.ofNat 8 cls, BitVec.ofNat 8 cause, BitVec.ofNat 64 addr, sm, 9, space, allLanes, 0, 0⟩
/-- A command is complete. -/
def State.cmdDone (s : State) (cluster n seq : Nat) : State := s.setEngine cluster ((s.engineAt cluster).setPhase n seq .complete)
/-- A drain completes without writing, with its trap in its stand's queue (R234, R397). -/
def State.drainFail (s : State) (cluster n : Nat) (c : Cmd) (t : TrapReq) : State :=
  if s.deferRoom c.stand then (s.deferTrap c.stand t).cmdDone cluster n c.seq else s
/-- The key of an add-on-store drain under DET (R235). -/
def State.detKey (s : State) (c : Cmd) : Option (Nat × Nat × Nat × Nat × Nat) :=
  let cp := s.copseAt (copseOf c.stand)
  if (s.launchAt cp.launch).det then some (cp.launch, cp.stage, cp.ord, c.stand % 16, c.seq) else none
/-- The bytes that an add-on-store drain to scratchpad lies between. -/
def CmdOp.addSpan : CmdOp → Option (Nat × Nat)
  | .drain dest d add _ _ base _ rows stride _ _ _ => if dest = 0 && add then some (base, base + (rows - 1) * stride + rowBytes d) else none
  | _ => none
/-- Under DET an add-on-store drain to scratchpad waits for the earlier ones of its stand that it meets (R180, R235). -/
def State.addBehind (s : State) (cluster : Nat) (c : Cmd) : Bool :=
  (s.detKey c).isSome && (s.engineAt cluster).taken.any (fun x => x.2.queue.any (fun q =>
    q.stand == c.stand && q.seq < c.seq && q.phase != .complete && (match q.op.addSpan, c.op.addSpan with
      | some a, some b => decide (a.1 < b.2 ∧ b.1 < a.2)
      | _, _ => false)))
/-- The elements of a drain to scratchpad that are not yet written (R234): place in the tile, address and bytes. -/
def Cmd.scratchElems (c : Cmd) (o : DrainOp) (cp : Copse) : List (Nat × Nat × List Byte) :=
  let sz := dfmtBytes o.d
  (c.todo.flatMap (fun i =>
    let at' := o.base + i * o.stride
    let es := c.rowElems sz i
    let es := if o.add then combine o.d (dfmtSat o.d o.satx) (fun x => cp.get (at' + x) sz) es else es
    es.map (fun e => (64 * i + e.1 / sz, at' + e.1, bytesOf e.2.toNat sz)))).filter (fun e => !c.early.contains e.1)
/-- Elements written. -/
def Copse.putElems (cp : Copse) (es : List (Nat × Nat × List Byte)) : Copse := es.foldl (fun cp e => cp.put e.2.1 e.2.2) cp
/-- The lines of a drain to scratchpad. -/
def Cmd.scratchLines (c : Cmd) (o : DrainOp) : List Nat := distinct (c.todo.flatMap (fun i => linesOf (o.base + i * o.stride) (rowBytes o.d)))
/-- The first place of a drain to scratchpad on a barrier-marked line. -/
def Cmd.barred (c : Cmd) (o : DrainOp) (cp : Copse) : Option Nat :=
  ((c.todo.flatMap (fun i =>
    let at' := o.base + i * o.stride
    (linesOf at' (rowBytes o.d)).map (fun l => (l, maxN at' (128 * l))))).find? (fun x => (cp.lineAt x.1).bm)).map Prod.snd
/-- A drain to scratchpad completes: one with add-on-store is applied whole (R216), of a plain one what is not yet written is (R234). -/
def State.drainScratch (s : State) (cluster n : Nat) (c : Cmd) (o : DrainOp) : State :=
  let copse := copseOf c.stand
  let ls := c.scratchLines o
  let s := s.touchLines copse ls
  let cp := s.copseAt copse
  match c.barred o cp with
  | some a => s.drainFail cluster n c (drainTrap 5 4 a true 0)
  | none =>
    if ls.any cp.awaitsFill || s.addBehind cluster c then s
    else
      let cp := cp.putElems (c.scratchElems o cp)
      let cp := ls.foldl (fun cp l => cp.setLine l { cp.lineAt l with full := true, filler := none }) cp
      (s.setCopse copse cp).cmdDone cluster n c.seq
/-- Some elements of a plain drain to scratchpad are written before it completes, which they are is free: a load before `mwait` returns the
old or the new value of each (R236). -/
def State.drainSome (s : State) (cluster n : Nat) (c : Cmd) (o : DrainOp) : State :=
  let copse := copseOf c.stand
  let cp := s.copseAt copse
  if o.add || c.phase != .granted || cp.life != .resident || (c.barred o cp).isSome || (c.scratchLines o).any cp.awaitsFill then s
  else
    let es := (c.scratchElems o cp).filter (fun e => s.coin e.1)
    ((s.setCopse copse (cp.putElems es)).setEngine cluster ((s.engineAt cluster).mapCmd n c.seq (fun c => { c with early := c.early ++ es.map Prod.fst }))).bump
/-- The pieces of a global drain, each within one line: row, offset in the row, address. -/
def drainPieces (c : Cmd) (o : DrainOp) : List (Nat × Nat × Nat) :=
  let unit := minN (rowBytes o.d) 128
  c.todo.flatMap (fun i => (List.range (rowBytes o.d / unit)).map (fun j => (i, unit * j, o.base + i * o.stride + unit * j)))
/-- All pieces translated, or the first cause with its address. -/
def State.piecesXlate (s : State) (copse : Nat) : List (Nat × Nat × Nat) → Xl (List (Nat × Nat × Nat)) × Nat
  | [] => (.ok [], 0)
  | (i, x, va) :: r =>
    match s.xlate copse .write va with
    | .fault c => (.fault c, va)
    | .ok (pa, _) => match s.piecesXlate copse r with
      | (.ok ps, _) => (.ok ((i, x, pa) :: ps), 0)
      | e => e
/-- The elements of a piece, by offset in its line. -/
def pieceElems (c : Cmd) (d : Nat) (p : Nat × Nat × Nat) : List (Nat × Word32) :=
  let unit := minN (rowBytes d) 128
  ((c.rowElems (dfmtBytes d) p.1).filter (fun e => p.2.1 ≤ e.1 && e.1 < p.2.1 + unit)).map (fun e => (p.2.2 % 128 + (e.1 - p.2.1), e.2))
/-- A line's update is staged (R216): for masks with FD or WF its replicas go. -/
def State.stageLine (s : State) (cluster n : Nat) (c : Cmd) (o : DrainOp) (p : Nat × Nat × Nat) : State :=
  let line := p.2.2 / 128
  let d := if isWindow (128 * line) then s.dirAt line else s.cached (s.copseAt (copseOf c.stand)).vi line
  let d := if maskHas (maskFull o.mask) 2 then d.collapse none else d
  s.setDir line { d with staged := d.staged ++ [⟨cluster, n, c.seq, o.d, dfmtSat o.d o.satx, pieceElems c o.d p, s.detKey c, copseOf c.stand, (s.copseAt (copseOf c.stand)).vi⟩] }
/-- A drain to global memory (R234): every line is translated before any is written or staged. -/
def State.drainGlobal (s : State) (cluster n : Nat) (c : Cmd) (o : DrainOp) : State :=
  let copse := copseOf c.stand
  let cp := s.copseAt copse
  match s.piecesXlate copse (drainPieces c o) with
  | (.fault cause, va) =>
    let line := 128 * (va / 128)
    if cause = 2 ∨ cause = 3 then
      if !s.deferRoom c.stand then s
      else
        let (id, s) := s.postPage cp.vi va cause
        let s := s.deferTrap c.stand (drainTrap 3 cause line false o.mask)
        s.setEngine cluster ((s.engineAt cluster).mapCmd n c.seq (fun c => { c with phase := .parked (some id), addr := line }))
    else s.drainFail cluster n c (drainTrap 3 (if cause = 5 then 6 else cause) line false o.mask)
  | (.ok ps, _) =>
    if o.add && ((s.detKey c).isSome || !ps.any (fun p => isWindow p.2.2)) then
      if ps.any (fun p => s.heldLine (p.2.2 / 128)) then s
      else
      let s := ps.foldl (fun s p => s.stageLine cluster n c o p) s
      if (s.detKey c).isSome then s.cmdDone cluster n c.seq
      else s.setEngine cluster ((s.engineAt cluster).setPhase n c.seq .staged)
    else if ps.any (fun p => s.stagedLine (p.2.2 / 128)) then
      s.holdAt (.cmd cluster n c.seq c.todo.length) (ps.map (fun p => p.2.2 / 128))
    else
      let sz := dfmtBytes o.d
      let s := ps.foldl (fun s p =>
        let line := p.2.2 / 128
        let es := pieceElems c o.d p
        let es := if o.add then combine o.d (dfmtSat o.d o.satx) (fun x => s.homeRead (128 * line + x) sz) es else es
        (s.engineWrite cp.vi (fieldOfCore cp.core) line (elemsBytes sz es) false).noteEngine (copseOf c.stand) 5 line) s
      s.cmdDone cluster n c.seq
/-- One row of a drain to a channel is pushed when there is room (R215, R337). -/
def State.drainRow (s : State) (cluster n : Nat) (c : Cmd) (o : DrainOp) : State :=
  let core := (s.copseAt (copseOf c.stand)).core
  match c.todo with
  | [] => s
  | i :: r =>
    if s.chanFree core (32 + o.ch) = 0 then s
    else
      let bs := (elemsBytes (dfmtBytes o.d) (c.rowElems (dfmtBytes o.d) i)).map Prod.snd
      let e := entryOf ((List.range 128).map (fun w => (w, BitVec.ofNat 32 (natOf ((bs.drop (4 * w)).take 4)))))
      let s := s.chanPush core (32 + o.ch) [e]
      let s := s.setEngine cluster ((s.engineAt cluster).mapCmd n c.seq (fun c => { c with todo := r }))
      if r ≠ [] then s
      else
        let ch := s.chanAt core (32 + o.ch)
        (s.setChan core (32 + o.ch) { ch with due := ch.due - 1 }).cmdDone cluster n c.seq
/-- A drain that has read its rows delivers them. -/
def State.deliverDrain (s : State) (cluster n : Nat) (c : Cmd) (o : DrainOp) : State :=
  if (s.copseAt (copseOf c.stand)).life ≠ .resident then s
  else match c.phase with
  | .parked none => s.drainFail cluster n c (drainTrap 3 6 c.addr false o.mask)
  | .granted => if o.dest = 0 then s.drainScratch cluster n c o else if o.dest = 1 then s.drainGlobal cluster n c o else s.drainRow cluster n c o
  | _ => s
/-- A command that is under way and no fill; an assist holds it (R217). -/
def Engine.running (e : Engine) (n : Nat) (c : Cmd) : Bool :=
  (c.phase == .granted || c.phase == .parked none) && (e.resv n).fillLines c.op == [] && !e.assists.any (fun a => a.2.1 == n && a.2.2 == c.seq)
/-- A command other than a fill completes, or its drain goes a step on (R210, R212, R215), once every earlier command of its reservation is
complete. -/
def State.passDone (s : State) (cluster n : Nat) : State :=
  let e := s.engineAt cluster
  match ((e.resv n).queue.find? (fun c => c.phase != .complete)).filter (e.running n) with
  | none => s
  | some c => match c.op.drainOp with
    | some o => s.deliverDrain cluster n c o
    | none => s.cmdDone cluster n c.seq
def execPassComplete (cluster resv : Nat) (s : State) : Host.Outcome State Fault Refusal := .next ((s.passDone cluster resv).sweep cluster resv)

/-- A free part of the first drain to scratchpad of a reservation that is under way is written (R236). -/
def State.passPart (s : State) (cluster n : Nat) : State :=
  let e := s.engineAt cluster
  match ((e.resv n).queue.find? (fun c => c.phase != .complete)).filter (e.running n) with
  | none => s
  | some c => match c.op.drainOp with
    | some o => if o.dest = 0 then s.drainSome cluster n c o else s
    | none => s
def execDrainPart (cluster resv : Nat) (s : State) : Host.Outcome State Fault Refusal := .next (s.passPart cluster resv)

/-- One staged update is applied to its line and removed; its copse must not read the line as it was any more once it has waited for it and
acquired (R306). -/
def State.applyStaged (s : State) (line : Nat) (x : Staged) : State :=
  let sz := dfmtBytes x.dfmt
  let es := combine x.dfmt x.sat (fun o => s.homeRead (128 * line + o) sz) x.elems
  let d := s.dirAt line
  ((s.setDir line { d with staged := d.staged.erase x }).homePut x.vi line (elemsBytes sz es)).noteEngine x.copse 5 line
/-- The lines with a staged update of a command. -/
def State.stagedOf (s : State) (cluster n seq : Nat) : List (Nat × Staged) :=
  s.dir.flatMap (fun e => (e.2.staged.filter (fun x => x.cluster == cluster && x.resv == n && x.cmd == seq)).map (fun x => (e.1, x)))
/-- What waited for a commit goes on (R216): side-log entries to be replayed, and each `fence.m` and `swb` that had to write back a line. -/
def State.afterCommit (s : State) : State :=
  let s := (s.cores.flatMap (fun c => (c.2.slog.filter (fun e => e.req == 0 && e.cause == 0)).map (fun e => (c.1, e)))).foldl
    (fun s e => s.replayLog e.1 e.2) s
  ((s.stands.filter (fun e => e.2.fenceM.isSome || e.2.swbs != [])).map Prod.fst).foldl (fun s k => s.resumeFenceM k) s
/-- Commit of the first staged drain of a reservation (R216). -/
def State.commit (s : State) (cluster n : Nat) : State :=
  match ((s.engineAt cluster).resv n).queue.find? (fun c => c.phase == .staged) with
  | none => s
  | some c => (((s.stagedOf cluster n c.seq).foldl (fun s x => s.applyStaged x.1 x.2) s).cmdDone cluster n c.seq).afterCommit
def execDrainCommit (cluster resv : Nat) (s : State) : Host.Outcome State Fault Refusal := .next ((s.commit cluster resv).sweep cluster resv)

/-- Keys in ascending order (R235). -/
def keyLt (a b : Nat × Nat × Nat × Nat × Nat) : Bool :=
  let f (k : Nat × Nat × Nat × Nat × Nat) : List Nat := [k.1, k.2.1, k.2.2.1, k.2.2.2.1, k.2.2.2.2]
  lexLt (f a) (f b)
where
  /-- Lexicographic order. -/
  lexLt : List Nat → List Nat → Bool
    | x :: xs, y :: ys => x < y || (x == y && lexLt xs ys)
    | _, _ => false
/-- The staged update with the least key. -/
def leastKey : List Staged → Option Staged
  | [] => none
  | x :: r => match leastKey r with
    | none => if x.det.isSome then some x else none
    | some y => match x.det, y.det with
      | some a, some b => if keyLt a b then some x else some y
      | _, _ => some y
/-- A copse ordinal of a stage has ended: it was created and is neither resident nor saved (R235). -/
def State.ordEnded (s : State) (launch stage o : Nat) : Bool :=
  o < (s.stage launch stage).created && !s.copses.any (fun e =>
    e.2.launch == launch && e.2.stage == stage && e.2.ord == o && (e.2.life == .resident || e.2.life == .saved))
/-- The next deferred update of a line is committed once every copse up to its own and every earlier stage has ended (R235). -/
def State.detCommit (s : State) (line : Nat) : State :=
  match leastKey (s.dirAt line).staged with
  | none => s
  | some x => match x.det with
    | none => s
    | some (launch, stage, ord, _, _) =>
      if (List.range stage).all (fun j => (s.stage launch j).done) && (List.range (ord + 1)).all (fun o => s.ordEnded launch stage o) then
        s.applyStaged line x
      else s
def execDetDrainCommit (line : Nat) (s : State) : Host.Outcome State Fault Refusal := .next (s.detCommit line)

end Sys2Proof.Machine
end

