-- ==== Sys2Proof/Machine/Moves.lean ====
section
/-! DEFINITION. Copses on the move: what a move waits for and carries (spec/02 R45, spec/04 R112, spec/10 R218, spec/11 R258, spec/14
R343, spec/15 R367), migration (spec/05 R127-R132) and shade rotation (spec/17 R414, R415). -/

namespace Sys2Proof.Machine

/-! ### Before a copse moves (R45) -/

/-- A wait that a move abandons, with the place of its instruction: an `mwait`, and a `deq` that finds nothing to take. -/
def State.abandons (s : State) (k : Nat) (p : Pend) : Option Spot := match p.on with
  | .deq f x => if (s.serveDeq k f p).1.isNone then some x else none
  | .mwait _ _ _ _ _ x => some x
  | _ => none
/-- Outstanding operations given up: their flags fall with nothing written. -/
def Stand.withdraw (st : Stand) (gone : Pend → Bool) : Stand :=
  (st.pend.filter gone).foldl (fun st p => st.flagDown (p.flag.getD 15)) { st with pend := st.pend.filter (fun p => !gone p) }
/-- Abandons the waits of a stand; the first of them issues again. A hold on a page request is abandoned, a sleep ends (R112), and a `cpwait`
issues again. -/
def State.abandon (s : State) (k : Nat) : State :=
  let old := s.standAt k
  let st := old.withdraw (fun p => (s.abandons k p).isSome)
  let st := match old.pend.findSome? (fun p => s.abandons k p) with
    | some x => { st.backTo x with trapWait := none }
    | none => st
  let st := match st.wait with
    | .page .. => { st with wait := .none }
    | .sleep _ => { st with wait := .none }
    | .copies _ => { st with wait := .none }
    | _ => st
  s.setStand k st
def State.abandonAll (s : State) (copse : Nat) : State := (s.standsOf copse).foldl (fun s k => s.abandon k) s
/-- The stand waits in a grove (R373). -/
def Wait.inGrove : Wait → Bool
  | .grove _ => true
  | .groveHeld _ => true
  | _ => false
/-- Nothing of a stand is outstanding but an arrival in a grove, and no release, fence or trap entry is under way (R45, R317). -/
def Stand.still (st : Stand) : Bool :=
  st.pend.all (fun p => p.on == .grove) && decide (st.pend.length ≤ st.wait.inGrove.toNat) && st.trapWait == none && st.fenceM.isNone && st.swbs == [] && !st.fencing && st.markers == [] && st.wait != .markers
/-- Every accepted command of the copse's reservations is complete or, being a fetch, parked, and no assist runs on its tiles (R218). -/
def State.resvStill (s : State) (copse : Nat) : Bool :=
  let e := s.engineAt (clusterOf (s.copseAt copse).core)
  e.taken.all (fun x => x.2.copse != copse
    || (x.2.queue.all (fun c => c.op.fetches && (match c.phase with | .parked _ => true | _ => false)) && !(tilesOf x.2.amask).any (fun t => e.assists.any (fun a => a.1 == t))))
/-- A `zero` of the copse still has lines to write from the side log (R286, R296). -/
def State.zeroing (s : State) (copse : Nat) : Bool :=
  (s.coreAt (s.copseAt copse).core).slog.any (fun e => copseOf e.stand == copse && e.elems.any (fun x => x.len == 128))
/-- The copse may move now, its abandoned waits aside: its grove events have reached their slices (R45), its maintenance instructions are
complete (R296), and what its core's L1 still has to write back waits for no staged update (R216). -/
def State.copseStill (s : State) (copse : Nat) : Bool :=
  (s.standsOf copse).all (fun k => (s.standAt k).still) && s.groveQ.all (fun e => copseOf e.stand != copse) && s.resvStill copse
    && !s.zeroing copse && !s.flushHeld (s.copseAt copse).core

/-! ### What moves with a copse -/

/-- A reservation taken out of an engine, its record free again. -/
def Engine.takeOut (e : Engine) (n : Nat) : SavedResv × Engine :=
  let r := e.resv n
  let base := 32 * r.gbase
  let ts := tilesOf r.amask
  (⟨n, r, (e.buf.filter (fun b => r.owns (b.1 / 128))).map (fun b => (b.1 - 4096 * r.gbase, b.2)),
      (e.full.filter (fun l => r.owns l)).map (fun l => l - base), (e.dead.filter (fun l => r.owns l)).map (fun l => l - base),
      e.acc.filter (fun a => ts.contains (a.1 / 4096)), e.accSeed.filter (fun a => ts.contains a.1)⟩,
    { e with
      recs := tset n { Resv.init with tag := r.tag + 1 } e.recs
      buf := e.buf.filter (fun b => !r.owns (b.1 / 128))
      full := e.full.filter (fun l => !r.owns l)
      dead := e.dead.filter (fun l => !r.owns l)
      planes := e.planes.filter (fun p => p.1 != n)
      acc := e.acc.filter (fun a => !ts.contains (a.1 / 4096))
      accSeed := e.accSeed.filter (fun a => !ts.contains a.1) })
/-- A reservation put into an engine that has a free record, a run of granules and its tiles (R218, R219). -/
def Engine.putIn (e : Engine) (x : SavedResv) : Option (Nat × Engine) :=
  if e.taken.any (fun y => y.2.amask &&& x.resv.amask != 0) then none
  else match freeRecord e, e.freeRun x.resv.gcnt with
    | some n, some b =>
      some (n, { e with
        recs := tset n { x.resv with gbase := b, tag := (e.resv n).tag + 1 } e.recs
        buf := memSetAll (x.bytes.map (fun c => (c.1 + 4096 * b, c.2))) e.buf
        full := e.full ++ x.full.map (fun l => l + 32 * b)
        dead := e.dead ++ x.dead.map (fun l => l + 32 * b)
        acc := tputs x.acc e.acc
        accSeed := tputs x.accSeed e.accSeed })
    | _, _ => none
where
  /-- Bytes added to memory. -/
  memSetAll (bs : List (Nat × Byte)) (m : Mem) : Mem := bs.foldl (fun m c => memSet c.1 c.2 m) m
/-- All reservations of a list put in; none where one does not fit. -/
def Engine.putAll (e : Engine) : List SavedResv → Option (List (SavedResv × Nat) × Engine)
  | [] => some ([], e)
  | x :: r => match e.putIn x with
    | none => none
    | some (n, e) => match e.putAll r with
      | none => none
      | some (ns, e) => some ((x, n) :: ns, e)
/-- The handles of a copse's stands name the new records (R219), those of released reservations too that still drain; any other handle is
stale and names no record again (R221). -/
def State.rehandle (s : State) (copse cluster : Nat) (ns : List (SavedResv × Nat)) : State :=
  let e := s.engineAt cluster
  let new (h : BHandle) : BHandle :=
    match ns.find? (fun x => x.1.num == h.resv && x.1.resv.tag == h.tag + (if x.1.resv.state = .closing then 1 else 0)) with
    | some x => ⟨x.2, (e.resv x.2).tag - (if x.1.resv.state = .closing then 1 else 0)⟩
    | none => ⟨32, 0⟩
  (s.standsOf copse).foldl (fun s k =>
    let st := s.standAt k
    s.setStand k { st with b := st.b.map (fun b => (b.1, new b.2)) }) s

/-- Blocks of a core and its cluster whose stage has no copse left there go back to the field counter (R74). -/
def State.sweepBlocks (s : State) (core : Nat) : State :=
  let gone (key : Nat) (p : Nat → Bool) : Bool :=
    !s.copses.any (fun e => e.2.life == .resident && stageKey e.2.launch e.2.stage == key && p e.2.core)
  let f := fieldOfCore core
  let co := s.coreAt core
  let out := co.block.filter (fun b => gone b.1 (fun x => x == core))
  let s := out.foldl (fun s b => s.returnRange (b.1 / 8) (b.1 % 8) f b.2)
    (s.setCore core { co with block := co.block.filter (fun b => !gone b.1 (fun x => x == core)) })
  let n := clusterOf core
  let cl := s.clusterAt n
  let out := cl.block.filter (fun b => gone b.1 (fun x => clusterOf x == n))
  out.foldl (fun s b => s.returnRange (b.1 / 8) (b.1 % 8) f b.2)
    (s.setCluster n { cl with block := cl.block.filter (fun b => !gone b.1 (fun x => clusterOf x == n)) })

/-- What a core's L1 has to write back goes home, but for lines with a staged update (R216). -/
def State.flushFree (s : State) (core : Nat) : State :=
  if !s.flushHeld core then s.flushL1 core
  else (((s.coreAt core).l1.map Prod.fst).filter (fun l => !s.stagedLine l)).foldl (fun s l => s.writeBackL1 core l) s
/-- A copse leaves its core: the dirty bytes of the L1 go home, and its channels, side-log entries and reservations are held with the
copse. -/
def State.takeOff (s : State) (copse : Nat) : State :=
  let n := (s.copseAt copse).core
  let s := s.flushFree n
  let co := s.coreAt n
  let e := s.engineAt (clusterOf n)
  let mine (x : Chan) : Bool := x.owner == some copse
  let rs := (e.taken.filter (fun x => x.2.copse == copse)).foldl
    (fun (acc : List SavedResv × Engine) x => let (r, e) := acc.2.takeOut x.1; (acc.1 ++ [r], e)) ([], e)
  let s := s.setEngine (clusterOf n) rs.2
  let s := s.setCopse copse { s.copseAt copse with
    savedChans := co.chans.filter (fun x => mine x.2)
    savedLog := co.slog.filter (fun x => copseOf x.stand == copse)
    savedResvs := rs.1 }
  s.setCore n ({ co with chans := co.chans.filter (fun x => !mine x.2), slog := co.slog.filter (fun x => copseOf x.stand != copse) }.redeal
    (co.order.filter (fun x => x != copse)))
/-- Channels are free by number on a core, and its store has room (R338). -/
def State.chansFit (s : State) (core : Nat) (cs : Tbl Chan) : Bool :=
  let co := s.coreAt core
  cs.all (fun c => (tget Chan.init co.chans c.1).owner.isNone && (tget Chan.init co.chans c.1).depth == 0)
    && (co.chans ++ cs).foldl (fun n c => n + c.2.depth) 0 ≤ chanStore
/-- A copse that has left its core fits on another (R19, R219, R338). -/
def State.canPut (s : State) (copse core : Nat) : Bool :=
  let c := s.copseAt copse
  fitsWith ((s.roomUsers core).filter (fun x => x.1 != copse && ((s.coreAt core).order.contains x.1 || x.2.move.room == some core)))
      c.nst c.vregs c.alloc
    && s.chansFit core c.savedChans && ((s.engineAt (clusterOf core)).putAll c.savedResvs).isSome
/-- A copse arrives on a core with all it carries; the core's clean lines go, so that its stands see their earlier writes (R311). -/
def State.putOn (s : State) (copse core : Nat) : State :=
  let s := s.invalidateL1 core
  let c := s.copseAt copse
  let co := s.coreAt core
  let s := s.setCore core ({ co with chans := tputs c.savedChans co.chans, slog := co.slog ++ c.savedLog }.redeal (co.order ++ [copse]))
  let s := match (s.engineAt (clusterOf core)).putAll c.savedResvs with
    | none => s
    | some (ns, e) => (s.setEngine (clusterOf core) e).rehandle copse (clusterOf core) ns
  (s.setCopse copse { s.copseAt copse with
    core := core, life := .resident, engine := Config.copyEngine copse core % 8, savedChans := [], savedLog := [], savedResvs := [] }).rebase core

/-! ### Room for a move (R129) -/

/-- The copse with its channels and reservations where they are, as an arrival elsewhere would be judged. -/
def State.moveFits (s : State) (copse core : Nat) : Bool :=
  let c := s.copseAt copse
  s.fits core c.nst c.vregs c.alloc && s.chansFit core ((s.coreAt c.core).chans.filter (fun x => x.2.owner == some copse))
/-- The cores of least load among some. -/
def State.leastLoaded (s : State) (cs : List Nat) : List Nat := cs.filter (fun c => cs.all (fun d => s.coreLoad c ≤ s.coreLoad d))
/-- The scheduler looks for room for a PENDING request. -/
def State.searchRoom (s : State) (copse : Nat) : State :=
  let c := s.copseAt copse
  match c.move.tgt with
  | none => s
  | some k =>
    if c.life ≠ .resident ∨ c.move.state ≠ .pending then s
    else
      let cs := ((s.serving c.launch c.stage (fieldOfCore c.core)).flatMap coresOf).filter (fun x => coreKind x == k && s.moveFits copse x)
      let own := cs.filter (fun x => clusterOf x == clusterOf c.core)
      let best := s.leastLoaded (if own = [] then cs else own)
      if best = [] then s
      else
        let (j, s) := if best.length = 1 then (0, s) else s.pick best.length
        s.setCopse copse { c with move := { c.move with state := .gather, lapse := 0, room := best[j]? } }
def execMoveRoomSearch (copse : Nat) (s : State) : Host.Outcome State Fault Refusal := .next (s.searchRoom copse)

/-! ### Migration (R130) -/

/-- The graft id of the header or mark word at a stand's program counter. -/
def State.gidAt (s : State) (k : Nat) : Option Nat :=
  match s.ctxRead (s.viOf k) (s.standAt k).pc.toNat 8 with
  | none => none
  | some w =>
    match decode (s.kindOf k) (BitVec.ofNat 128 w) with
    | .instr (.clauseHeader h) _ => if h.gpt then some h.gid.toNat else none
    | .instr (.markWord m) _ => some m.gid.toNat
    | _ => none
/-- An instruction of the stand, behind which its program counter stands already in State, has not issued: a held `arrive` (R364). -/
def Wait.stalls : Wait → Bool
  | .heldRec .. => true
  | _ => false
/-- A stand is at a graft point: ended, or with its program counter at a header or mark word, whatever it waits for there (R119). -/
def State.atGraft (s : State) (k : Nat) : Bool :=
  let st := s.standAt k
  st.life == .ending || (st.held || ((st.life == .live || st.life == .halted) && st.place != .inClause && st.trapWait == none && !st.wait.stalls
    && (s.gidAt k).isSome))
/-- No stand of a copse is between trap entry and `tret`. -/
def State.noHandler (s : State) (copse : Nat) : Bool := (s.standsOf copse).all (fun k => (s.standAt k).frames == [])

/-- A register number after the moves of a graft entry (R124): FROM to TO from sapwood, back from heartwood. -/
def movedReg (ms : List (Nat × Nat × Nat)) (from' : Kind) (rk r : Nat) : Nat :=
  match ms.find? (fun m => m.2.2 == rk && (match from' with | .sap => m.1 | .heart => m.2.1) == r) with
  | some m => (match from' with | .sap => m.2.1 | .heart => m.1)
  | none => r
/-- The registers of a stand renamed. -/
def Stand.renamed (st : Stand) (ms : List (Nat × Nat × Nat)) (k : Kind) : Stand :=
  if ms = [] then st
  else
    { st with
      v := tputs (st.v.map (fun e => (128 * movedReg ms k 0 (e.1 / 128) + e.1 % 128, e.2))) []
      sr := tputs (st.sr.map (fun e => (movedReg ms k 1 e.1, e.2))) []
      p := tputs (st.p.map (fun e => (movedReg ms k 2 e.1, e.2))) []
      q := (List.range 4).foldl (fun q i => setQ q (movedReg ms k 3 i) (st.q.getLsbD i)) 0 }
/-- A wait whose program counter is carried (R127); none where it is ABSENT. -/
def Wait.carry (to' : Nat → Option Nat) : Wait → Option Wait
  | .cont o ph d t => (to' t.toNat).map (fun y => .cont o ph d (BitVec.ofNat 64 y))
  | w => some w
/-- A stand carried to the other encoding (R127); none where a program counter is ABSENT. That of a stand whose threads have all exited is
the place of its `exit`. -/
def Stand.carry (st : Stand) (to' : Nat → Option Nat) : Option Stand := do
  let pc ← (to' (if st.life = .ending then st.exitPc else st.pc).toNat).map (BitVec.ofNat 64)
  let stack ← st.stack.mapM (fun e => match e.pc with
    | none => some e
    | some x => (to' x.toNat).map (fun y => { e with pc := some (BitVec.ofNat 64 y) }))
  let wait ← st.wait.carry to'
  some { st with
    pc := pc
    stack := stack
    wait := wait
    exitPc := pc
    place := .target
    clh := none
    clpos := 0 }
/-- Every stand of a copse carried and renamed, with the graft id of the point at which it was (`gid`, taken before its waits were abandoned);
none where one cannot be. -/
def State.carried (s : State) (copse : Nat) (g : GraftTable) (gid : Nat → Option Nat) : Option (List (Nat × Stand)) :=
  let c := s.copseAt copse
  let st := s.stageOf copse
  (s.standsOf copse).mapM (fun k =>
    let x := s.standAt k
    let ms (id : Nat) : List (Nat × Nat × Nat) := match g.entries.find? (fun e => e.1 == id) with
      | some e => (g.moves.drop e.2.2.2).take e.2.1
      | none => []
    let y := match (if x.life = .ending then none else gid k) with
      | some id => { x.renamed (ms id) c.kind with lgid := BitVec.ofNat 16 id }
      | none => x
    (y.carry (fun a => s.otherPC c.vi st g a c.kind)).map (fun z => (k, { z with held := false, waited := false })))
/-- A copse that has gathered changes kind and core, or the request is refused (R130); what its L1 writes back on the way joins its
path sets (R314). -/
def State.migrate (s : State) (copse core : Nat) (gid : Nat → Option Nat) : State :=
  let c := s.copseAt copse
  match s.graftTable c.vi (s.stageOf copse) with
  | none => s.dropMove copse .refused 3
  | some g => match s.carried copse g gid with
    | none => s.dropMove copse .refused 4
    | some sts =>
      let old := c.core
      let s := s.returnBlock copse 2
      let s := (s.takeOff copse).putOn copse core
      let s := sts.foldl (fun s x => s.setStand x.1 { x.2 with paths := (s.standAt x.1).paths, b := (s.standAt x.1).b }) s
      let c := s.copseAt copse
      let s := s.setCopse copse { c with
        kind := otherKind c.kind
        move := ⟨none, .done, 0, if c.move.moves = 0xFFFF then c.move.moves else c.move.moves + 1, 0, none⟩ }
      s.sweepBlocks old
/-- A gathered copse migrates once R130 holds and its channels are free on the new core still (R338). -/
def State.tryMigrate (s : State) (copse : Nat) : State :=
  let c := s.copseAt copse
  if c.life ≠ .resident ∨ c.move.state ≠ .gather ∨ !c.inTime ∨ c.drain.isSome ∨ !s.noHandler copse
      ∨ !(s.standsOf copse).all s.atGraft ∨ s.holdsResv copse then s
  else
    let s' := s.abandonAll copse
    if !s'.copseStill copse then s
    else match c.move.room with
      | some core => if (s'.takeOff copse).canPut copse core then s'.migrate copse core s.gidAt else s
      | none => s
def execCopseMigrate (copse : Nat) (s : State) : Host.Outcome State Fault Refusal := .next (s.tryMigrate copse)

def State.lapseMove (s : State) (copse : Nat) : State :=
  let c := s.copseAt copse
  if c.life = .resident ∧ c.move.state = .gather ∧ lapseLimit ≤ c.move.lapse then s.dropMove copse .lapsed 0 else s
def execMoveLapse (copse : Nat) (s : State) : Host.Outcome State Fault Refusal := .next (s.lapseMove copse)

/-! ### Shade rotation (R415) -/

/-- Insertion by falling temperature, then by cluster. -/
def insHot (x : Nat × Int) : List (Nat × Int) → List (Nat × Int)
  | [] => [x]
  | y :: r => if y.2 < x.2 ∨ (y.2 = x.2 ∧ x.1 < y.1) then x :: y :: r else y :: insHot x r
/-- Hottest with coolest while they differ by at least DELTA. -/
def hotPairs (delta : Int) : Nat → List (Nat × Int) → List (Nat × Nat)
  | 0, _ => []
  | n + 1, l =>
    match l, l.getLast? with
    | h :: r, some c => if r ≠ [] ∧ delta ≤ h.2 - c.2 then (h.1, c.1) :: hotPairs delta n r.dropLast else []
    | _, _ => []
/-- The pairs of a field (R415): stage by stage, up to MAXP. -/
def State.rotationPairs (s : State) (f : Nat) (temps : List (Nat × Int)) : List (Nat × Nat) :=
  let fl := s.fieldAt f
  let maxp := if fl.maxp = 0 then 1 else fl.maxp.toNat
  (s.openStages.flatMap (fun x =>
    let cs := temps.filter (fun t => fieldOfCluster t.1 == f && (s.clusterAt t.1).serves == some x)
    hotPairs fl.delta.toNat cs.length (cs.foldl (fun l t => insHot t l) []))).take maxp
/-- The copses that rotation takes from one core to another: those with no pre-emption under way. -/
def State.rotators (s : State) (a b : Nat) : List (Nat × Nat) :=
  ((s.copsesOn a).filter (fun c => (s.copseAt c).drain.isNone && !(s.copseAt c).maint)).map (fun c => (c, b))
/-- Copses exchanged as given; the first for which its new core has no room stays, and the rest are tried again. The number that moved. -/
def State.exchange (s : State) : Nat → List (Nat × Nat) → Nat × State
  | 0, _ => (0, s)
  | n + 1, ms =>
    let off := ms.foldl (fun s m => (s.abandonAll m.1).takeOff m.1) s
    let r := ms.foldl (fun (acc : State × Option (Nat × Nat)) m =>
      match acc.2 with
      | some _ => acc
      | none => if acc.1.canPut m.1 m.2 then (acc.1.putOn m.1 m.2, none) else (acc.1, some m)) (off, none)
    match r.2 with
    | none => (ms.length, r.1)
    | some m => s.exchange n (ms.erase m)
/-- The end of an interval in a field. -/
def State.rotate (s : State) (f : Nat) (temps : List (Nat × Int)) : State :=
  if !(s.fieldAt f).rotEn then s
  else
    let cores := (s.rotationPairs f temps).flatMap (fun p => (coresOf p.1).zip (coresOf p.2))
    let ms := cores.flatMap (fun c => s.rotators c.1 c.2 ++ s.rotators c.2 c.1)
    let s' := ms.foldl (fun s m => s.abandonAll m.1) s
    if !ms.all (fun m => s'.copseStill m.1) then s
    else
      let (n, s) := s.exchange (ms.length + 1) ms
      let s := cores.foldl (fun s c => (s.sweepBlocks c.1).sweepBlocks c.2) s
      let fl := s.fieldAt f
      s.setField f { fl with moved := fl.moved + BitVec.ofNat 32 n, skipped := fl.skipped + BitVec.ofNat 16 (ms.length - n) }
def execShadeRotation (field : Nat) (temps : List (Nat × Int)) (s : State) : Host.Outcome State Fault Refusal := .next (s.rotate field temps)

end Sys2Proof.Machine
end

