-- ==== Sys2Proof/Machine/System.lean ====
section
/-! DEFINITION. Class 0xD: the special registers, software traps and the return from one, the lane-rate request and `halt` (spec/17
R394, R395, R402-R404, R416-R418). -/

namespace Sys2Proof.Machine

/-! ### Special registers (R394, R399, R418) -/

/-- A frame's bits (R399). -/
def Frame.toBits (f : Frame) : Nat :=
  f.record.toBits + f.rpc.toNat * 2 ^ 1024 + f.amask.toNat * 2 ^ 1088 + f.q.toNat * 2 ^ 1216 + f.gate.toNat * 2 ^ 1220
    + f.yc % 16 * 2 ^ 1221 + f.rb % 64 * 2 ^ 1225 + f.sdep % 64 * 2 ^ 1231
    + natOf (f.savs.flatMap (fun w => bytesOf w.toNat 8)) * 2 ^ 1280
    + (match f.clh with | none => 0 | some h => (wordBits (.clauseHeader h)).toNat % 2 ^ 64) * 2 ^ 1536 + f.clpos % 32 * 2 ^ 1600
/-- Word n of the top frame; 0 with an empty stack. -/
def Stand.frameWord (st : Stand) (n : Nat) : Nat :=
  match st.frames with
  | [] => 0
  | f :: _ => f.toBits / 2 ^ (64 * n) % 2 ^ 64
/-- The numbers of R394. -/
def srNum (n : Nat) : Bool := n ≤ 6 || (8 ≤ n && n ≤ 0x15) || (0x40 ≤ n && n ≤ 0x5F)
/-- CHARGE: the sum over the last 64 front-end cycles (R83). -/
def Cluster.chargeSum (c : Cluster) : Nat := (c.charge.filter (fun x => c.fe < x.1 + 64)).foldl (fun n x => n + x.2) 0
/-- sr.charge (R418). -/
def State.chargeWord (s : State) (copse : Nat) : Nat :=
  let c := s.copseAt copse
  let cl := s.clusterAt (clusterOf c.core)
  let f := s.fieldAt (fieldOfCore c.core)
  cl.chargeSum % 2 ^ 32 + cl.rate.toNat * 2 ^ 32 + c.laneReq.toNat * 2 ^ 34 + f.fcap.toNat * 2 ^ 36 + f.tdiv % 16 * 2 ^ 40
/-- sr.lvl of a level (R72, R85); a lane level reads the thread's lane, of which a uniform form has none: that value is free. -/
def State.lvlWord (s : State) (k : Nat) (uni : Bool) (n t : Nat) : Nat :=
  match (s.stageOf (copseOf k)).levels[n]? with
  | some l =>
    if l.dom = 0 then (if uni then (Config.freeWord s.free (128 + n)).toNat else t) else (tget 0 (s.standAt k).lvl n).toNat
  | none => (tget 0 (s.standAt k).lvl n).toNat
/-- A special register as a thread of a stand reads it. -/
def State.srRead (s : State) (k : Nat) (uni : Bool) (n t : Nat) : Nat :=
  let copse := copseOf k
  let c := s.copseAt copse
  if n = 0 then t
  else if n = 1 then k % 16
  else if n = 2 then c.ord
  else if n = 3 then (s.handle 1 c.core).toNat
  else if n = 4 then (s.handle 2 (clusterOf c.core)).toNat
  else if n = 5 then (s.handle 3 (fieldOfCore c.core)).toNat
  else if n = 6 then kindCode c.kind
  else if n < 0x10 then s.lvlWord k uni (n - 8) t
  else if n = 0x10 then (s.launchAt c.launch).sigma.toNat
  else if n = 0x11 then s.chargeWord copse
  else if n = 0x12 then c.vi
  else if n = 0x13 then s.boot.bgen.toNat
  else if n = 0x14 then (s.fieldAt (fieldOfCore c.core)).ref.toNat
  else if n = 0x15 then (s.standAt k).frames.length
  else (s.standAt k).frameWord (n - 0x40)
/-- The reference count of a field moves on by a free amount (R394, log 7). -/
def State.tickRef (s : State) (field : Nat) : State :=
  let f := s.fieldAt field
  { s with free := s.free + 1 }.setField field { f with ref := f.ref + BitVec.ofNat 64 (Config.refTicks s.free) }

/-! ### `rdsr`, `wrsr` (R395) -/

def formRdsr (f : A64) : Form :=
  { h := f.h, ops := [(f.sa, .sysreg), (f.sb, .none), (f.dst, .out 64)],
    bad := [badTy (f.ty == 0), mustZero (f.md == 0), (6, !srNum f.sa.num.toNat), (7, f.h.uni && f.sa.num == 0)],
    long := true, mustFlag := true }
def bodyRdsr (f : A64) (s : State) : Eff :=
  let k := s.cur
  let s := if f.sa.num = 0x14 then s.tickRef (fieldOfCore s.myCoreKey) else s
  .long s.bump (outVals f.h.uni (s.me.part f.h) f.dst true (fun t => BitVec.ofNat 64 (s.srRead k f.h.uni f.sa.num.toNat t)))
def execRdsr (f : A64) (s : State) : Host.Outcome State Fault Refusal := word (.rdsr f) (formRdsr f) (bodyRdsr f) s

/-- The writable registers: RPC and the saved s registers of the top frame. -/
def srWritable (n : Nat) : Bool := n == 0x50 || (0x54 ≤ n && n ≤ 0x57)
def Frame.write (f : Frame) (n : Nat) (x : Word64) : Frame :=
  if n = 0x50 then { f with rpc := x } else { f with savs := f.savs.set (n - 0x54) x }
def formWrsr (f : A64) : Form :=
  { h := f.h, ops := [(f.sa, .val 64), (f.sb, .none), (f.dst, .sysreg)],
    bad := [onlyUni f.h, badTy (f.ty == 0), mustZero (f.md == 0), (6, !srWritable f.dst.num.toNat)] }
def bodyWrsr (f : A64) (s : State) : Eff :=
  let (vs, s) := s.srcs s.cur true [(f.sa, true)]
  match s.me.frames with
  | [] => .done s
  | fr :: r => .done (s.setMe { s.me with frames := fr.write f.dst.num.toNat (BitVec.ofNat 64 (srcN vs 0 0)) :: r })
def execWrsr (f : A64) (s : State) : Host.Outcome State Fault Refusal := word (.wrsr f) (formWrsr f) (bodyWrsr f) s

/-! ### `trap`, `brk`, `halt` (R403, R404) -/

/-- The stand behind the executing word, in its clause. -/
def State.behind (s : State) (i : Instr) : State := s.setMe (s.me.advance (s.kindOf s.cur) (wordBytes i))
/-- A software trap: it resumes at NextPC, and its record names the word itself. -/
def softTrap (i : Instr) (cls aux : Nat) (s : State) : Eff :=
  .goto ((s.behind i).raise s.cur { trapOf i cls 0 with aux := BitVec.ofNat 64 aux } s.me.pc)
def softForm (f : I64) : Form := { h := f.h, ops := [(f.sa, .none), (f.dst, .none)], bad := [onlyUni f.h] }
def formTrap (f : I64) : Form := softForm f
def bodyTrap (f : I64) : State → Eff := softTrap (.trap f) (16 + f.imm.toNat % 16) (f.imm.toNat / 16)
def execTrap (f : I64) (s : State) : Host.Outcome State Fault Refusal := word (.trap f) (formTrap f) (bodyTrap f) s
def formBrk (f : I64) : Form := softForm f
def bodyBrk (f : I64) : State → Eff := softTrap (.brk f) 0x0B f.imm.toNat
def execBrk (f : I64) (s : State) : Host.Outcome State Fault Refusal := word (.brk f) (formBrk f) (bodyBrk f) s
/-- A64 words of the class with no operands. -/
def bareForm (f : A64) (md : Bool) : Form :=
  { h := f.h, ops := [(f.sa, .none), (f.sb, .none), (f.dst, .none)], bad := [onlyUni f.h, badTy (f.ty == 0), mustZero md] }
def bodyHalt (f : A64) (s : State) : Eff :=
  let k := s.cur
  .goto (((s.behind (.halt f)).counted k).haltStand k (s.faultRec k (trapOf (.halt f) 0x0B 1) s.me.pc false))
def formHalt (f : A64) : Form := bareForm f (f.md == 0)
def execHalt (f : A64) (s : State) : Host.Outcome State Fault Refusal := word (.halt f) (formHalt f) (bodyHalt f) s

/-! ### `tret` (R402) -/

/-- The length of the word at an address, as the stand would fetch it; a free one where nothing can be fetched. -/
def State.wordLen (s : State) (k : Nat) (pc : Word64) : Nat :=
  match s.xlate (copseOf k) .fetch pc.toNat with
  | .ok (pa, _) => lenBytes (s.fetchWord k pa % 4)
  | .fault _ => 8 + 4 * (Config.freeNat s.free % 3)
def bodyTret (f : A64) (s : State) : Eff :=
  let k := s.cur
  match s.me.frames with
  | [] => .trap { trapOf (.tret f) 1 8 with addr := s.me.pc }
  | fr :: _ =>
    if fr.rpc.extractLsb' 0 2 ≠ 0 then .trap { trapOf (.tret f) 0 0xD with addr := s.me.pc }
    else
      let st := s.me.leave fr (s.kindOf k) (f.md == 1) (s.wordLen k fr.rpc)
      .goto (s.bump.setMe (if st.a = 0 then st.resume.afterTransfer else st))
def formTret (f : A64) : Form := bareForm f (f.md.toNat ≤ 1)
def execTret (f : A64) (s : State) : Host.Outcome State Fault Refusal := word (.tret f) (formTret f) (bodyTret f) s

/-! ### `spl` (R416) -/

def formSpl (f : A64) : Form :=
  { h := f.h, ops := [(f.sa, .val 32), (f.sb, .none), (f.dst, .none)], bad := [badTy (f.ty == 0), mustZero (f.md == 0)] }
/-- A request of one thread: 3 is taken as 2. -/
def splReq (x : Nat) : Nat := minN 2 (x % 4)
def bodySpl (f : A64) (s : State) : Eff :=
  let ts := s.me.doing f.h
  let (vs, s) := s.srcs s.cur f.h.uni [(f.sa, false)]
  if ts = [] then .done s
  else
    let m := ts.foldl (fun m t => maxN m (splReq (srcN vs 0 t))) 0
    .done (s.setMyCopse { s.myCopse with laneReq := BitVec.ofNat 2 m })
def execSpl (f : A64) (s : State) : Host.Outcome State Fault Refusal := word (.spl f) (formSpl f) (bodySpl f) s

end Sys2Proof.Machine
end

