-- ==== Sys2Proof/Machine/Images.lean ====
section
/-! DEFINITION. The copse image (spec/17 R407, R410-R412): its sections written from a copse that has left its core, and read back.
A section is its length in bytes with its contents as one number, lowest byte first. -/

namespace Sys2Proof.Machine

/-! ### Fields in a number -/

/-- Fields of a number, each at its lowest bit. -/
def fieldsAt (fs : List (Nat × Nat)) : Nat := fs.foldl (fun n f => n + f.2 * 2 ^ f.1) 0
/-- Items of equal width in bits, from a bit on. -/
def arrayAt (lo w : Nat) (xs : List Nat) : Nat :=
  (((List.range xs.length).zip xs).foldl (fun n x => n + x.2 % 2 ^ w * 2 ^ (w * x.1)) 0) * 2 ^ lo
/-- Item i of such an array. -/
def itemAt (x lo w i : Nat) : Nat := x / 2 ^ (lo + w * i) % 2 ^ w

/-! ### Sizes (R407, R411) -/

/-- UREGS' of the formulas. -/
def Copse.uregsUp (c : Copse) : Nat := maxN c.uregs 4
/-- Channel entries that a copse which has left its core holds. -/
def Copse.heldEntries (c : Copse) : Nat := c.savedChans.foldl (fun n x => n + x.2.entries.length) 0
/-- Bytes of the pending records: copies (those too that only wait to push their status entry: R321) and parked operand fetches, fills and
write-backs, side-log entries, deferred traps. -/
def State.pendBytes (s : State) (copse : Nat) : Nat :=
  let c := s.copseAt copse
  let cmds := c.savedResvs.foldl (fun n r => n + r.resv.queue.length) 0
  64 * (c.copies.length + cmds) + 32 * c.fills.length
    + c.savedLog.foldl (fun n e => n + 24 + 16 * e.elems.length) 0
    + (s.standsOf copse).foldl (fun n k => n + 136 * (s.standAt k).deferred.length) 0
/-- SaveBytes (R407) of a copse that has left its core. -/
def State.imageBytes (s : State) (copse : Nat) : Nat :=
  let c := s.copseAt copse
  1024 + c.nst * (3072 + 512 * c.vregs + 8 * c.uregsUp) + 160 * c.alloc
    + c.savedResvs.foldl (fun n r => n + 1024 + 4096 * r.resv.gcnt + 16384 * (tilesOf r.resv.amask).length) 0
    + 512 * c.heldEntries + s.pendBytes copse
/-- SaveBytes of a copse on its core: that of its image if it left now (R407). -/
def State.saveBytes (s : State) (copse : Nat) : Nat :=
  if (s.copseAt copse).life = .resident then (s.takeOff copse).imageBytes copse else s.imageBytes copse
/-- GAVG: the mean of the last samples (R407). -/
def Copse.gavgMean (c : Copse) : Nat := if c.gavg = [] then 65536 else c.gavg.foldl (· + ·) 0 / c.gavg.length

/-! ### The copse block (R411) -/

/-- A request as it is saved: PENDING for GATHER (R132). -/
def Move.bits (m : Move) : Nat :=
  let code := match m.state with | .gather => 1 | x => x.code
  fieldsAt [(0, match m.tgt with | none => 0 | some k => kindCode k), (2, code), (5, m.reason.toNat), (13, m.moves.toNat), (29, minN m.lapse (2 ^ 17 - 1))]
def Region.bits (r : Region) : Nat :=
  fieldsAt [(0, r.soff), (32, r.len), (64, r.va), (128, r.mode.toNat), (135, 1), (136, r.mask.toNat)]
def State.copseBlock (s : State) (copse : Nat) : Nat :=
  let c := s.copseAt copse
  let shape := fieldsAt [(0, c.stage), (3, kindCode c.kind), (5, c.nst - 1), (9, c.alloc), (19, c.vregs), (28, c.uregsUp - 1),
    (36, c.savedResvs.length), (42, c.savedChans.length), (48, c.laneReq.toNat)]
  fieldsAt [(0, c.ord), (64, (s.launchAt c.launch).record.toNat), (128, shape), (192, c.move.bits), (256, c.gavgMean), (320, s.pendBytes copse)]
    + arrayAt 512 256 ((List.range 8).map (fun i => match tfind i c.regions with | some r => r.bits | none => 0))
    + arrayAt 2560 32 ((List.range 48).map (fun j =>
        let ch := tget Chan.init c.savedChans (16 + j)
        ch.depth % 64 + ch.entries.length % 64 * 64))

/-! ### What the image holds beside R411 and R412: the opaque bits of g and b (log 87) -/

/-- The place of the word that a stand issued last: its header, the place in the clause and what may stand there. -/
def Spot.carry (x : Spot) : List Nat :=
  [x.pc.toNat, match x.clh with | some h => (wordBits (.clauseHeader h)).toNat % 2 ^ 64 | none => 0,
    fieldsAt [(0, x.clpos % 32), (5, match x.place with | .inClause => 0 | .afterClause => 1 | .target => 2)]]
/-- Of a stand, in the upper halves of the images of its g registers: how it lives and waits, its tickets (R75, R77), the threads of its
`exit` and its place (R101), by which its `tret` sees a changed RPC (R402), the vector `enq` that it has begun and its threads (R86), and the
place of the `arrive` that holds it (R364). -/
def Stand.carryWords (st : Stand) : List Nat :=
  let park := match st.wait with | .heldRec _ _ p => p | _ => false
  let two := (st.pend.flatMap (fun p => p.sw)).length == 2
  let rpcs := st.frames.reverse.map (fun f => f.rpc0.toNat)
  [fieldsAt [(0, (st.life == .halted).toNat), (1, (st.life == .absent).toNat), (2, park.toNat), (4, st.waited.toNat),
      (5, st.current.toNat), (6, st.ticket.isSome.toNat), (7, two.toNat), (8, st.lgid.toNat), (24, st.claims % 2 ^ 40)],
    st.ticket.getD 0, st.exitMask.toNat % 2 ^ 64, st.exitMask.toNat / 2 ^ 64] ++ (List.range 4).map (fun i => (rpcs[i]?).getD 0) ++ [st.exitPc.toNat]
    ++ (match st.wait with
      | .enq f p => [(wordBits (.enq f)).toNat % 2 ^ 64, p.toNat % 2 ^ 64, p.toNat / 2 ^ 64]
      | _ => [0, 0, 0])
    ++ st.last.carry
/-- A g register: its handle, with a word of those. -/
def Stand.gImage (st : Stand) (n : Nat) : Nat :=
  (match tfind n st.g with | some h => h.grec + 1 + h.tag % 2 ^ 32 * 2 ^ 32 | none => 0) + ((st.carryWords[n]?).getD 0) % 2 ^ 64 * 2 ^ 64
/-- Of a copy, eight bits: the channel of NTF and the status that it still has to push there. -/
def Copy.carryByte (x : Copy) : Nat :=
  fieldsAt [(0, x.ntf.isSome.toNat), (1, x.ntf.getD 0 % 16), (5, x.status.isSome.toNat), (6, (x.status.getD 0).toNat)]
/-- The place of the reservation that a handle names among those that are saved; 32 for one that names none. -/
def Copse.savedPlace (c : Copse) (h : BHandle) : Nat :=
  (c.savedResvs.findIdx? (fun x => x.num == h.resv && x.resv.tag == h.tag + (if x.resv.state = .closing then 1 else 0))).getD 32
/-- A b register: its handle, with what four of the stand's copies carry. -/
def State.bImage (s : State) (k n : Nat) : Nat :=
  let c := s.copseAt (copseOf k)
  let xs := (c.copies.filter (fun x => x.stand == k)).map Copy.carryByte
  (match tfind n (s.standAt k).b with | some h => c.savedPlace h + 1 | none => 0)
    + arrayAt 32 8 ((List.range 4).map (fun j => (xs[4 * n + j]?).getD 0))

/-! ### The stand block (R412) -/

def Entry.bits (e : Entry) : Nat :=
  let (k, n) := match e.kind with | .pend => (0, 0) | .join => (1, 0) | .token n => (2, n) | .call => (3, 0)
  fieldsAt [(0, k), (2, n), (7, match e.pc with | none => 2 ^ 57 - 1 | some p => p.toNat % 2 ^ 57), (64, e.mask.toNat)]
/-- WAIT: kind, record offset and phase or g register, and destination. -/
def Stand.waitBits (st : Stand) : Nat :=
  let dst := ((st.pend.flatMap (fun p => p.sw)).map Prod.fst).headD 0
  match st.wait with
  | .record o ph d => fieldsAt [(0, 1), (3, o.toNat), (19, ph.toNat), (20, d)]
  | .grove g => fieldsAt [(0, 2), (3, g), (20, dst)]
  | .cont o ph d _ => fieldsAt [(0, 3), (3, o.toNat), (19, ph.toNat), (20, d)]
  | .heldRec o d _ => fieldsAt [(0, 4), (3, o.toNat), (20, d)]
  | _ => 0
def State.standBlock (s : State) (k : Nat) : Nat :=
  let st := s.standAt k
  let st := if st.life = .absent then { st with exited := allLanes } else st
  let lo := st.stack.reverse
  let tok (n : Nat) : Option Nat := lo.findIdx? (fun e => e.kind == .token n)
  fieldsAt [(0, st.pc.toNat), (64, st.a.toNat), (192, st.exited.toNat), (1216, st.q.toNat), (1392, st.yc), (1396, st.rb),
      (1402, st.stack.length), (1408, st.gate.toNat), (1409, st.frames.length), (1412, st.held.toNat), (1413, st.clpos % 32),
      (1418, st.enqDone % 256),
      (1472, match st.clh with | some h => (wordBits (.clauseHeader h)).toNat % 2 ^ 64 | none => 0),
      (7168, st.copySeq.toNat), (7232, st.tseq.toNat), (7296, st.waitBits),
      (7360, match st.wait with | .cont _ _ _ t => t.toNat | _ => 0)]
    + arrayAt 320 128 ((List.range 7).map (fun i => (tget 0 st.p i).toNat))
    + arrayAt 1220 6 ((List.range 12).map (fun n => st.flag n))
    + arrayAt 1344 1 ((List.range 8).map (fun n => (tok n).isSome.toNat))
    + arrayAt 1352 5 ((List.range 8).map (fun n => (tok n).getD 0))
    + arrayAt 1536 64 ((List.range 8).map (fun n => (tget 0 st.lvl n).toNat))
    + arrayAt 2048 128 ((List.range 16).map st.gImage)
    + arrayAt 4096 128 ((List.range 16).map (fun n => (tget 0 st.d n).toNat))
    + arrayAt 6144 64 ((List.range 16).map (fun n => s.bImage k n))
    + arrayAt 8192 192 (lo.map Entry.bits)
    + arrayAt 16384 2048 (st.frames.reverse.map Frame.toBits)

/-! ### The pending section (R411) -/

/-- The head of a pending record. -/
def pendHead (kind k bytes : Nat) : Nat := fieldsAt [(0, kind), (8, k % 16), (16, bytes)]
/-- The binding word of a copy (R319). -/
def Copy.binding (x : Copy) : Nat :=
  fieldsAt [(0, match x.form with | .cpy => x.len | .cpyO => x.len | _ => 0), (17, match x.cr with | some (o, _) => o / 32 | none => 0),
    (28, x.cr.isSome.toNat), (29, match x.cr with | some (_, i) => i | none => 0), (31, x.grp.toNat), (35, x.sm.toNat), (43, x.ph.toNat)]
def CopyForm.code : CopyForm → Nat
  | .cpy => 0
  | .cpyO => 1
  | .tIn => 2
  | .tOut => 3
/-- The descriptor of a tile copy, from its rows (R326). -/
def runsDesc (rs : List (Nat × Nat)) : Nat :=
  match rs with
  | (a, n) :: (b, _) :: _ => a + (b - a) * 2 ^ 64 + n * 2 ^ 96 + (rs.length - 1) * 2 ^ 112 + 2 ^ 127
  | [(a, n)] => a + n * 2 ^ 96 + 2 ^ 127
  | [] => 0
/-- A copy, or an operand fetch: binding word, address, offset, descriptor, next line, number, form, reservation. The binding word of a fetch,
which has none, holds its part and its tiles. -/
def copyRecord (bw addr off desc next seq form resv : Nat) : Nat :=
  fieldsAt [(64, bw), (128, addr), (192, off), (256, desc), (384, next), (416, seq), (448, form), (456, resv)]
/-- The end that a copy comes to once its stand's queue has room for its trap (R397): status, class, cause, space, access kind, and the first
of its pieces on the line at fault, or the scratchpad line (log 87). -/
def Copy.fateBits (x : Copy) : Nat :=
  match x.fate with
  | none => 0
  | some (st, t) =>
    let place := if t.space then t.addr.toNat / 128 else (x.units.flatten.findIdx? (fun p => p.1 / 128 == t.addr.toNat / 128)).getD 0
    fieldsAt [(0, 1), (1, st.toNat), (3, t.cls.toNat % 16), (7, t.cause.toNat % 16), (11, t.space.toNat), (12, t.akind.toNat), (16, place)]
def Copy.pending (x : Copy) : Nat :=
  let tile := x.form == .tIn || x.form == .tOut
  pendHead 1 x.stand 64
    + copyRecord x.binding (x.runs.headD (0, 0)).1 x.off (if tile then runsDesc x.runs else 0) ((lowest x.todo).getD x.lines) x.num.toNat x.form.code 0
    + x.fateBits * 2 ^ 464
def Cmd.pending (c : Cmd) (i : Nat) : Nat :=
  let (w, d) := match c.op with | .fillG p t n d => (fieldsAt [(0, p.toNat), (2, t), (16, n)], d.toNat) | _ => (0, 0)
  pendHead 1 c.stand 64 + copyRecord w (descBase d) 0 d ((lowest c.todo).getD 0) 0 4 i
def Fill.pending (x : Fill) : Nat := pendHead 2 (x.wb.getD 0) 32 + fieldsAt [(64, 128 * x.line), (96, x.wb.isSome.toNat)]
/-- The type of a side-log entry: that of a `red`, and for a store the untyped one of its element's length (R143). -/
def LogEntry.ty (e : LogEntry) : Nat := match e.op with
  | some (_, t) => t.toNat
  | none => match (e.elems.map (fun x => x.len)).headD 4 with | 1 => 8 | 2 => 9 | 4 => 0xA | _ => 0xB
def LogEntry.pending (e : LogEntry) : Nat :=
  let (op, ty, isRed) := match e.op with | some (o, _) => (o.toNat, e.ty, 1) | none => (0, e.ty, 0)
  pendHead 3 e.stand (24 + 16 * e.elems.length)
    + fieldsAt [(64, 65536 * e.page), (128, e.sm.toNat), (136, e.ph.toNat), (138, ty), (143, isRed), (144, op), (147, e.uni.toNat),
        (160, e.elems.length)]
    + arrayAt 192 128 (e.elems.map (fun x => fieldsAt [(0, x.va % 65536), (32, x.thread), (64, x.data.toNat)]))
/-- The section, its records with their bytes. -/
def State.pendRecords (s : State) (copse : Nat) : List (Nat × Nat) :=
  let c := s.copseAt copse
  (c.copies.map (fun x => (64, x.pending)))
    ++ ((List.range c.savedResvs.length).zip c.savedResvs).flatMap (fun r => r.2.resv.queue.map (fun q => (64, q.pending r.1)))
    ++ c.fills.map (fun x => (32, x.pending))
    ++ c.savedLog.map (fun e => (24 + 16 * e.elems.length, e.pending))
    ++ (s.standsOf copse).flatMap (fun k => (s.standAt k).deferred.map (fun r => (136, pendHead 4 k 136 + r.toBits * 2 ^ 64)))

/-! ### Writing an image -/

/-- The 32 bytes of line state (R411). -/
def LineSt.bits (l : LineSt) : Nat :=
  fieldsAt [(0, l.full.toNat), (1, l.bm.toNat), (2, l.touched.toNat), (3, l.filler.isSome.toNat), (8, l.region), (128, l.dirty.toNat)]
/-- The header of a saved reservation: its record with GBASE zero, its tag (with, on top, whether a command was withdrawn that an `mwait` may
still cover: R236, log 87) and the full bits of its lines. -/
def SavedResv.header (r : SavedResv) : Nat :=
  fieldsAt [(0, Resv.toBits { r.resv with gbase := 0 }), (256, r.resv.tag % 2 ^ 63), (319, (r.resv.gone != []).toNat)] + r.full.foldl (fun n l => n + 2 ^ (4096 + l)) 0
def SavedResv.word (r : SavedResv) (i : Nat) : Word32 :=
  match tfind i r.acc with
  | some w => w
  | none => match tfind (i / 4096) r.accSeed with | some seed => Config.freeWord seed (i % 4096) | none => 0
/-- The bytes that bring a section to a 64-byte boundary (R411). -/
def padTo (n : Nat) : Nat := (64 - n % 64) % 64
/-- The sections of an image in order, each a list of pieces. -/
def State.imageParts (s : State) (copse : Nat) : List (Nat × Nat) :=
  let c := s.copseAt copse
  let ks := (List.range c.nst).map (fun i => 16 * copse + i)
  let mem (m : Mem) (n : Nat) : Nat := m.foldl (fun x b => if b.1 < n then x + b.2.toNat * 256 ^ b.1 else x) 0
  [(1024, s.copseBlock copse)] ++ ks.map (fun k => (3072, s.standBlock k))
    ++ ks.map (fun k => (512 * c.vregs, (s.standAt k).v.foldl (fun x w => x + w.2.toNat * 2 ^ (32 * w.1)) 0))
    ++ ks.map (fun k => (8 * c.uregsUp, arrayAt 0 64 ((List.range c.uregsUp).map (fun i => (tget 0 (s.standAt k).sr i).toNat))))
    ++ [(padTo (8 * c.uregsUp * c.nst), 0), (128 * c.alloc, mem c.scratch (128 * c.alloc)), (32 * c.alloc, arrayAt 0 256 ((List.range c.alloc).map (fun l => (c.lineAt l).bits))),
        (padTo (160 * c.alloc), 0)]
    ++ c.savedResvs.flatMap (fun r =>
        [(1024, r.header), (4096 * r.resv.gcnt, mem r.bytes (4096 * r.resv.gcnt))]
          ++ (tilesOf r.resv.amask).map (fun t => (16384, arrayAt 0 32 ((List.range 4096).map (fun i => (r.word (4096 * t + i)).toNat)))))
    ++ c.savedChans.flatMap (fun ch => ch.2.entries.map (fun e => (512, e.foldl (fun x w => x + w.2.toNat * 2 ^ (32 * w.1)) 0)))
    ++ s.pendRecords copse
/-- Bytes of an image, its padding included. -/
def State.imageSize (s : State) (copse : Nat) : Nat := (s.imageParts copse).foldl (fun n p => n + p.1) 0
/-- Pieces written one after another to host memory. -/
def putParts (m : Mem) : Nat → List (Nat × Nat) → Mem
  | _, [] => m
  | a, (n, x) :: r => putParts (memWrite m a x n) (a + n) r

/-! ### Reading an image back -/

def kindOfCode (n : Nat) : Kind := if n = 2 then .heart else .sap
def moveOfBits (x : Nat) : Move :=
  { tgt := if bits x 1 0 = 0 then none else some (kindOfCode (bits x 1 0))
    state := match bits x 4 2 with | 1 => .pending | 2 => .pending | 3 => .done | 4 => .lapsed | 5 => .refused | _ => .none
    reason := BitVec.ofNat 8 (bits x 12 5)
    moves := BitVec.ofNat 16 (bits x 28 13)
    lapse := bits x 45 29
    room := none }
def entryOfBits (x : Nat) : Entry :=
  { kind := match bits x 1 0 with | 0 => .pend | 1 => .join | 2 => .token (bits x 4 2) | _ => .call
    pc := if bits x 63 7 = 2 ^ 57 - 1 then none else some (BitVec.ofNat 64 (bits x 63 7))
    mask := BitVec.ofNat 128 (bits x 191 64) }
/-- A fault record's fields (R398). -/
def recOfBits (x : Nat) : FaultRec where
  npc := BitVec.ofNat 64 (bits x 63 0)
  othpc := BitVec.ofNat 64 (bits x 127 64)
  addr := BitVec.ofNat 64 (bits x 191 128)
  cls := BitVec.ofNat 8 (bits x 199 192)
  cause := BitVec.ofNat 8 (bits x 207 200)
  sm := BitVec.ofNat 8 (bits x 215 208)
  akind := BitVec.ofNat 4 (bits x 219 216)
  space := bitAt x 220
  ckind := BitVec.ofNat 2 (bits x 222 221)
  defer := bitAt x 223
  stand := BitVec.ofNat 4 (bits x 227 224)
  cont := BitVec.ofNat 64 (bits x 319 256)
  copse := BitVec.ofNat 64 (bits x 383 320)
  lsite := BitVec.ofNat 64 (bits x 447 384)
  pfx := BitVec.ofNat 4 (bits x 451 448)
  pfy := BitVec.ofNat 4 (bits x 455 452)
  pcl := BitVec.ofNat 8 (bits x 463 456)
  pcore := BitVec.ofNat 2 (bits x 465 464)
  fmask := BitVec.ofNat 128 (bits x 639 512)
  iw := BitVec.ofNat 128 (bits x 767 640)
  aux := BitVec.ofNat 64 (bits x 831 768)
  tseq := BitVec.ofNat 64 (bits x 895 832)
/-- A clause header word; zero is none. -/
def hdrOfBits (x : Nat) : Option Hdr :=
  if x = 0 then none
  else match decode .sap (BitVec.ofNat 128 x) with
    | .instr (.clauseHeader h) _ => some h
    | _ => none
def frameOfBits (x rpc0 : Nat) : Frame where
  record := recOfBits (bits x 1023 0)
  rpc := BitVec.ofNat 64 (bits x 1087 1024)
  rpc0 := BitVec.ofNat 64 rpc0
  amask := BitVec.ofNat 128 (bits x 1215 1088)
  q := BitVec.ofNat 4 (bits x 1219 1216)
  gate := bitAt x 1220
  yc := bits x 1224 1221
  rb := bits x 1230 1225
  sdep := bits x 1236 1231
  savs := (List.range 4).map (fun i => BitVec.ofNat 64 (itemAt x 1280 64 i))
  clh := hdrOfBits (bits x 1599 1536)
  clpos := bits x 1604 1600
/-- A wait, with the stand's first carried word. -/
def waitOfBits (x cont carry : Nat) : Wait :=
  let o := BitVec.ofNat 16 (bits x 18 3)
  match bits x 2 0 with
  | 1 => .record o (bitAt x 19) (bits x 27 20)
  | 2 => .grove (bits x 19 3)
  | 3 => .cont o (bitAt x 19) (bits x 27 20) (BitVec.ofNat 64 cont)
  | 4 => .heldRec o (bits x 27 20) (bitAt carry 2)
  | _ => .none
/-- The non-zero entries of an array of words, by number. -/
def wordsOf (x w n : Nat) : List (Nat × Nat) := (List.range n).filterMap (fun i => if itemAt x 0 w i = 0 then none else some (i, itemAt x 0 w i))
/-- A vector `enq` that was begun (R86). -/
def enqOfBits (kind : Kind) (x p : Nat) : Wait :=
  match (if x = 0 then none else some (decode kind (BitVec.ofNat 128 x))) with
  | some (.instr (.enq f) _) => .enq f (BitVec.ofNat 128 p)
  | _ => .none
/-- A stand of a copse of a kind from its block and its registers, and the tags of the copse's saved reservations in order; a slot whose stand
has ended is empty. -/
def standOfBits (kind : Kind) (copse i x vx sx vregs uregs : Nat) (tags : List Nat) : Stand :=
  let fl := (List.range 12).filterMap (fun n => if itemAt x 1220 6 n = 0 then none else some (n, itemAt x 1220 6 n))
  let carry (n : Nat) : Nat := itemAt x 2048 128 n / 2 ^ 64
  let c0 := carry 0
  let w := waitOfBits (bits x 7359 7296) (bits x 7423 7360) c0
  let clh := hdrOfBits (bits x 1535 1472)
  let pos := bits x 1417 1413
  let dst := bits x 7323 7316
  if bitAt c0 1 then Stand.init
  else
  { Stand.init with
    life := if bitAt c0 0 then .halted else if BitVec.ofNat 128 (bits x 319 192) = allLanes then .ending else .live
    copse := copse
    idx := i
    pc := BitVec.ofNat 64 (bits x 63 0)
    a := BitVec.ofNat 128 (bits x 191 64)
    exited := BitVec.ofNat 128 (bits x 319 192)
    stack := ((List.range (bits x 1407 1402)).map (fun e => entryOfBits (itemAt x 8192 192 e))).reverse
    yc := bits x 1395 1392
    rb := bits x 1401 1396
    v := (wordsOf vx 32 (128 * vregs)).map (fun w => (w.1, BitVec.ofNat 32 w.2))
    sr := (wordsOf sx 64 uregs).map (fun w => (w.1, BitVec.ofNat 64 w.2))
    p := (List.range 7).map (fun n => (n, BitVec.ofNat 128 (itemAt x 320 128 n)))
    q := BitVec.ofNat 4 (bits x 1219 1216)
    flags := fl
    g := (List.range 16).filterMap (fun n =>
      let h := itemAt x 2048 128 n % 2 ^ 64
      if h = 0 then none else some (n, ⟨h % 2 ^ 32 - 1, h / 2 ^ 32⟩))
    d := (List.range 16).map (fun n => (n, BitVec.ofNat 128 (itemAt x 4096 128 n)))
    b := (List.range 16).filterMap (fun n =>
      let h := itemAt x 6144 64 n % 2 ^ 16
      if h = 0 then none else some (n, ⟨h - 1, (tags[h - 1]?).getD 0⟩))
    lvl := (List.range 8).map (fun n => (n, BitVec.ofNat 64 (itemAt x 1536 64 n)))
    gate := bitAt x 1408
    held := bitAt x 1412
    clh := clh
    clpos := pos
    place := match clh with | some h => if h.clen.toNat + 1 ≤ pos then .afterClause else .inClause | none => .target
    pend := match w with
      | .grove _ => [arrival fl dst c0]
      | _ => []
    frames := ((List.range (bits x 1411 1409)).map (fun f => frameOfBits (itemAt x 16384 2048 f) (carry (4 + f)))).reverse
    ticket := if bitAt c0 6 then some (carry 1) else none
    current := bitAt c0 5
    claims := bits c0 63 24
    lgid := BitVec.ofNat 16 (bits c0 23 8)
    waited := bitAt c0 4
    exitMask := BitVec.ofNat 128 (carry 2 + carry 3 * 2 ^ 64)
    tseq := BitVec.ofNat 64 (bits x 7295 7232)
    copySeq := BitVec.ofNat 32 (bits x 7199 7168)
    wait := if w = .none then enqOfBits kind (carry 9) (carry 10 + carry 11 * 2 ^ 64) else w
    last := ⟨BitVec.ofNat 64 (carry 12), match bits (carry 14) 6 5 with | 0 => .inClause | 1 => .afterClause | _ => .target, hdrOfBits (carry 13), bits (carry 14) 4 0⟩
    enqDone := bits x 1425 1418
    exitPc := BitVec.ofNat 64 (carry 8) }
where
  /-- The grove operation that the stand waits in. -/
  arrival (fl : List (Nat × Nat)) (dst c0 : Nat) : Pend :=
    { Pend.empty with flag := (fl.head?).map Prod.fst, on := .grove, sw := if bitAt c0 7 then [(dst, 0), (dst + 1, 0)] else [(dst, 0)] }
/-- The carried byte of copy i of a stand block. -/
def copyByte (x i : Nat) : Nat := itemAt x 6144 64 (i / 4) / 2 ^ (32 + 8 * (i % 4)) % 256
/-- A line state; a pending filler is settled from the pending section. -/
def lineOfBits (x : Nat) : LineSt :=
  ⟨bitAt x 0, bitAt x 1, bitAt x 2, if bitAt x 3 then some .region else none, bits x 11 8, BitVec.ofNat 128 (bits x 255 128)⟩
/-- A reservation from its header, granules and tiles. -/
def resvOfBits (num h copse : Nat) (bytes : Mem) (acc : Tbl Word32) : SavedResv :=
  { num := num
    resv :=
      { Resv.init with
        state := if bits h 1 0 = 2 then .closing else .opened
        gcnt := bits h 16 9
        fmt := BitVec.ofNat 3 (bits h 19 17)
        spar := bitAt h 20
        bsc := bitAt h 21
        role := bitAt h 22
        blen := bits h 31 23
        xoff := BitVec.ofNat 16 (bits h 47 32)
        moff := BitVec.ofNat 16 (bits h 63 48)
        tsc := BitVec.ofNat 32 (bits h 95 64)
        amask := BitVec.ofNat 8 (bits h 103 96)
        atile := if bits h 112 104 = 0x1FF then none else some (bits h 112 104)
        stile := if bits h 121 113 = 0x1FF then none else some (bits h 121 113)
        breg := BitVec.ofNat 4 (bits h 125 122)
        stand := BitVec.ofNat 4 (bits h 129 126)
        ff := bitAt h 138
        copse := copse
        tag := bits h 318 256
        gone := if bitAt h 319 then [0] else [] }
    bytes := bytes
    full := (List.range (32 * bits h 16 9)).filter (fun l => bitAt h (4096 + l))
    dead := []
    acc := acc
    accSeed := [] }
/-- The bytes of host memory from an address, by offset. -/
def bytesAt (m : Mem) (a n : Nat) : Mem := m.filterMap (fun b => if a ≤ b.1 ∧ b.1 < a + n then some (b.1 - a, b.2) else none)
/-- The reservations of an image from an address: those, and the address behind them. -/
def readResvs (m : Mem) (copse : Nat) : Nat → Nat → Nat → List SavedResv × Nat
  | 0, _, a => ([], a)
  | n + 1, num, a =>
    let h := memRead m a 1024
    let g := bits h 16 9
    let ts := tilesOf (BitVec.ofNat 8 (bits h 103 96))
    let base := a + 1024 + 4096 * g
    let acc := ((List.range ts.length).zip ts).flatMap (fun t =>
      (List.range 4096).map (fun i => (4096 * t.2 + i, BitVec.ofNat 32 (memRead m (base + 16384 * t.1 + 4 * i) 4))))
    let (r, e) := readResvs m copse n (num + 1) (base + 16384 * ts.length)
    (resvOfBits num h copse (bytesAt m (a + 1024) (4096 * g)) acc :: r, e)
/-- The channels of an image. -/
def readChans (m : Mem) (copse blk : Nat) : Nat → Nat → Tbl Chan × Nat
  | 0, a => ([], a)
  | n + 1, a =>
    let j := 47 - n
    let x := itemAt blk 2560 32 j
    let used := bits x 11 6
    if bits x 5 0 = 0 then readChans m copse blk n a
    else
      let es := (List.range used).map (fun i => (wordsOf (memRead m (a + 512 * i) 512) 32 128).map (fun w => (w.1, BitVec.ofNat 32 w.2)))
      let (r, e) := readChans m copse blk n (a + 512 * used)
      ((16 + j, ⟨some copse, bits x 5 0, es, 0, 0⟩) :: r, e)
/-- What the pending section adds: copies, fills, side-log entries, deferred traps, parked operand fetches by reservation. -/
structure Pending where
  copies : List Copy
  fills : List Fill
  logs : List LogEntry
  traps : List (Nat × FaultRec)
  fetches : List (Nat × Cmd)
/-- A copy from its record. -/
def copyOfBits (seq k x : Nat) : Copy :=
  let bw := bits x 127 64
  let d := bits x 383 256
  let form := match bits x 455 448 with | 0 => CopyForm.cpy | 1 => .cpyO | 2 => .tIn | _ => .tOut
  let runs := if bits x 455 448 < 2 then [(bits x 191 128, bwLen bw)] else descRuns d
  let cp : Copy :=
    { seq := seq, stand := k, num := BitVec.ofNat 32 (bits x 447 416), form := form, off := bits x 255 192, runs := runs,
      cr := if bwCrb bw then some (32 * bwCrix bw, bwSlot bw) else none, grp := BitVec.ofNat 4 (bwGrp bw), sm := BitVec.ofNat 8 (bwSm bw),
      ph := BitVec.ofNat 2 (bwPh bw), ntf := none, todo := [], lines := bits x 415 384, parked := none, fate := none, status := none,
      snap := [] }
  let cp := { cp with todo := (List.range cp.units.length).filter (fun i => bits x 415 384 ≤ i) }
  let space := bitAt x 475
  let place := bits x 511 480
  let addr := if space then maxN cp.off (128 * place) else 128 * (((cp.units.flatten[place]?).map (fun p => p.1 / 128)).getD 0)
  { cp with fate := if bitAt x 464 then some (BitVec.ofNat 2 (bits x 466 465), cp.trap (bits x 470 467) (bits x 474 471) addr space (bits x 479 476)) else none }
/-- A copy with the byte that its stand's block carries for it. -/
def Copy.withByte (x : Copy) (b : Nat) : Copy :=
  let x := if bitAt b 0 then { x with ntf := some (bits b 4 1) } else x
  if bitAt b 5 then { x with todo := [], status := some (BitVec.ofNat 2 (bits b 7 6)) } else x
def logOfBits (k x : Nat) : LogEntry :=
  let len := tyBits (bits x 142 138) / 8
  { stand := k
    page := bits x 127 64 / 65536
    cause := 2
    elems := (List.range (bits x 191 160)).map (fun i =>
      let e := itemAt x 192 128 i
      ⟨bits e 38 32, bits x 127 64 + bits e 31 0, len, BitVec.ofNat 64 (bits e 127 64)⟩)
    op := if bitAt x 143 then some (BitVec.ofNat 3 (bits x 146 144), BitVec.ofNat 5 (bits x 142 138)) else none
    sm := BitVec.ofNat 8 (bits x 135 128)
    ph := BitVec.ofNat 2 (bits x 137 136)
    uni := bitAt x 147
    req := 0
    word := 0 }
/-- The pending records from an address on; names of copies count on from seq. -/
def readPending (m : Mem) (copse : Nat) : Nat → Nat → Nat → Nat → Pending
  | 0, _, _, _ => ⟨[], [], [], [], []⟩
  | fuel + 1, seq, a, stop =>
    if stop ≤ a then ⟨[], [], [], [], []⟩
    else
      let n := memRead m (a + 2) 2
      let x := memRead m a n
      let k := 16 * copse + bits x 11 8
      let r := readPending m copse fuel (seq + 1) (a + maxN n 8) stop
      match bits x 7 0 with
      | 1 =>
        if bits x 455 448 = 4 then
          { r with fetches := (bits x 463 456,
              { newCmd (.fillG (BitVec.ofNat 2 (bits x 65 64)) (bits x 79 66) (bits x 95 80) (BitVec.ofNat 128 (bits x 383 256))) with
                seq := seq, stand := k, phase := .granted, todo := [bits x 415 384] }) :: r.fetches }
        else { r with copies := copyOfBits seq k x :: r.copies }
      | 2 => { r with fills := ⟨bits x 95 64 / 128, if bitAt x 96 then some k else none, none, []⟩ :: r.fills }
      | 3 => { r with logs := logOfBits k x :: r.logs }
      | 4 => { r with traps := (k, recOfBits (x / 2 ^ 64)) :: r.traps }
      | _ => r
/-- The parked fetches of a saved reservation, each with its lines from its resume record on. -/
def SavedResv.withFetches (r : SavedResv) (fs : List (Nat × Cmd)) : SavedResv :=
  { r with resv := { r.resv with queue := (fs.filter (fun f => f.1 == r.num)).map (fun f =>
      { f.2 with todo := (r.resv.fillLines f.2.op).filter (fun l => f.2.todo.all (fun n => n ≤ l)) }) } }
/-- A copse and its stands from the image at an address of host memory, as a saved copse of a launch (R411, R412). -/
def readImage (m : Mem) (a bytes copse seq vi launch : Nat) : Copse × List Stand :=
  let blk := memRead m a 1024
  let shape := bits blk 191 128
  let n := bits shape 8 5 + 1
  let alloc := bits shape 18 9
  let vr := bits shape 27 19
  let ur := bits shape 35 28 + 1
  let aV := a + 1024 + 3072 * n
  let aS := aV + 512 * vr * n
  let aM := aS + 8 * ur * n + padTo (8 * ur * n)
  let aL := aM + 128 * alloc
  let (rs, aC) := readResvs m copse (bits shape 41 36) 0 (aL + 32 * alloc + padTo (160 * alloc))
  let (chs, aP) := readChans m copse blk 48 aC
  let pd := readPending m copse (bits blk 383 320) seq aP (minN (aP + bits blk 383 320) (a + bytes))
  let tags := rs.map (fun r => r.resv.tag - (if r.resv.state = .closing then 1 else 0))
  let blkOf (i : Nat) : Nat := memRead m (a + 1024 + 3072 * i) 3072
  let copies := (List.range n).flatMap (fun i =>
    let xs := pd.copies.filter (fun x => x.stand == 16 * copse + i)
    ((List.range xs.length).zip xs).map (fun x => x.2.withByte (copyByte (blkOf i) x.1)))
  let copies := pd.copies.map (fun x => (copies.find? (fun y => y.seq == x.seq)).getD x)
  let lines := (List.range alloc).map (fun l => (l, lineOfBits (memRead m (aL + 32 * l) 32)))
  let fillOf (l : Nat) : Option Filler := match copies.find? (fun c => c.form.inward && c.restLines.contains l) with
    | some c => some (.copy c.seq)
    | none => some .region
  let sts := (List.range n).map (fun i =>
    let st := standOfBits (kindOfCode (bits shape 4 3)) copse i (blkOf i) (memRead m (aV + 512 * vr * i) (512 * vr)) (memRead m (aS + 8 * ur * i) (8 * ur))
      vr ur tags
    { st with deferred := (pd.traps.filter (fun t => t.1 == 16 * copse + i)).map Prod.snd })
  ({ Copse.init with
      life := .saved
      vi := vi
      launch := launch
      stage := bits shape 2 0
      ord := bits blk 63 0
      nst := n
      kind := kindOfCode (bits shape 4 3)
      vregs := vr
      uregs := ur
      alloc := alloc
      scratch := bytesAt m aM (128 * alloc)
      lines := lines.map (fun l => (l.1, { l.2 with filler := if l.2.filler.isSome then fillOf l.1 else none }))
      regions := (List.range 8).filterMap (fun i =>
        let r := itemAt blk 512 256 i
        if bitAt r 135 then some (i, ⟨bits r 31 0, bits r 63 32, bits r 127 64, BitVec.ofNat 2 (bits r 129 128), BitVec.ofNat 8 (bits r 143 136)⟩)
        else none)
      move := moveOfBits (bits blk 255 192)
      copies := copies
      fills := pd.fills
      laneReq := BitVec.ofNat 2 (bits shape 49 48)
      gavg := [bits blk 319 256]
      savedChans := chs.map (fun ch => (ch.1, { ch.2 with due := (copies.filter (fun x => x.ntf == some (ch.1 - 16))).length }))
      savedLog := pd.logs
      savedResvs := rs.map (fun r => r.withFetches pd.fetches) },
    sts)

end Sys2Proof.Machine
end

