-- ==== Sys2Proof/Machine/Preempt.lean ====
section
/-! DEFINITION. Pre-emption (spec/17 R406-R413): its requests and methods, drain, save, flush and restore; the save area; RESTORE
(spec/05 R137-R140) and DEBUG (spec/19 R444). -/

namespace Sys2Proof.Machine

/-! ### Victims and the command that named them (R444) -/

/-- A victim of PREEMPT is saved, flushed, found exited or found unsavable; with its last the command completes. -/
def State.victimDone (s : State) (copse : Nat) (unsaved : Bool) : State :=
  let vi := (s.copseAt copse).vi
  ((s.viAt vi).cmds.filter (fun r => r.opcode == 4 && r.victims.contains copse)).foldl (fun s r =>
    let r' := { r with victims := r.victims.erase copse, unsaved := r.unsaved + unsaved.toNat }
    let v := s.viAt vi
    let s := s.setVi vi { v with cmds := v.cmds.map (fun x => if x = r then r' else x) }
    if r'.victims = [] then s.endCmd vi r' (if r'.unsaved = 0 then 0 else 0x14) r'.unsaved else s) s

/-! ### Flush (R408) -/

/-- What the drains of a copse that leaves for good have staged is committed or withdrawn, drain by drain, which is free (R219); what DET
defers and is to be committed stays for its turn (R235). -/
def State.settleStaged (s : State) (copse : Nat) : State :=
  let c := s.copseAt copse
  let cl := clusterOf c.core
  let mine (x : Staged) : Bool := match x.det with
    | some (l, st, o, _, _) => l == c.launch && st == c.stage && o == c.ord
    | none => x.cluster == cl && ((s.engineAt cl).resv x.resv).copse == copse
  let drains : List (Nat × Nat) := (s.dir.flatMap (fun e => (e.2.staged.filter mine).map (fun x => (x.resv, x.cmd)))).dedup
  drains.foldl (fun s d =>
    let xs := s.dir.flatMap (fun e => (e.2.staged.filter (fun x => mine x && x.resv == d.1 && x.cmd == d.2)).map (fun x => (e.1, x)))
    let (n, s) := s.pick 2
    xs.foldl (fun s x =>
      if n = 0 then s.setDir x.1 { s.dirAt x.1 with staged := (s.dirAt x.1).staged.erase x.2 }
      else if x.2.det.isSome then s else s.applyStaged x.1 x.2) s) s
/-- Pages of header and directory. -/
def Vi.headPages (v : Vi) : Nat := ceilDiv (4096 + 64 * v.ndir) 4096
/-- The header of the area. -/
def Vi.headerBits (v : Vi) (vi : Nat) : Nat :=
  fieldsAt [(0, 0x494D5A4B), (32, 1), (48, v.ndir), (64, 4096 * v.saveLen.toNat), (128, v.saved.foldl (fun n e => n + e.2.2.2) 0), (192, 1),
    (208, 1), (224, vi)]
/-- The directory entry and the pages of a copse's image are free again, and USED falls (R409, R410, R413). -/
def State.dropSaved (s : State) (copse : Nat) : State :=
  let vi := (s.copseAt copse).vi
  let v := s.viAt vi
  let gone := v.saved.filter (fun e => e.2.1 == copse)
  let s := s.setVi vi { v with saved := v.saved.filter (fun e => e.2.1 != copse), breached := v.breached.filter (fun c => c != copse) }
  let base := 4096 * v.saveBase.toNat
  let s := gone.foldl (fun s e => { s with hostMem := memWrite s.hostMem (base + 4096 + 64 * e.1) 0 1 }) s
  if gone = [] then s else { s with hostMem := memWrite s.hostMem base ((s.viAt vi).headerBits vi) 32 }
/-- A copse is discarded (R77, R219, R258, R343, R367, R378). -/
def State.flushCopse (s : State) (copse : Nat) : State :=
  let c := s.copseAt copse
  let ks := s.standsOf copse
  if c.life ≠ .resident ∧ c.life ≠ .saved then s
  else
    let s := ks.foldl (fun s k => s.leaveAll k true) s
    let s := { s with groveQ := s.groveQ.filter (fun e => copseOf e.stand != copse) }
    let s := if c.launch = 0 then s else s.returnTickets copse
    let s :=
      if c.life = .resident then
        let s := (if c.launch = 0 then s else s.vacate copse).settleStaged copse
        let cl := clusterOf c.core
        let e := s.engineAt cl
        (s.setEngine cl { e with assists := e.assists.filter (fun a => (e.resv a.2.1).copse != copse) }).takeOff copse
      else s.dropSaved copse
    let s := ks.foldl (fun s k => s.setStand k Stand.init) s
    (s.setCopse copse { Copse.init with life := .ended, vi := c.vi, launch := c.launch, stage := c.stage, ord := c.ord, core := c.core }).victimDone
      copse false

/-! ### The save area (R409, R410, R413) -/

/-- The lowest free directory entry. -/
def Vi.freeEntry (v : Vi) : Option Nat := (List.range v.ndir).find? (fun i => v.saved.all (fun e => e.1 != i))
/-- The lowest run of n free pages: it begins behind the directory or behind an image. -/
def Vi.freePages (v : Vi) (n : Nat) : Option Nat :=
  let runs := v.saved.map (fun e => (e.2.2.1 / 4096, e.2.2.1 / 4096 + ceilDiv e.2.2.2 4096))
  lowest ((v.headPages :: runs.map Prod.snd).filter (fun p =>
    v.headPages ≤ p && p + n ≤ v.saveLen.toNat && runs.all (fun r => p + n ≤ r.1 || r.2 ≤ p)))
/-- A device whose directory the host wrote while the device alone may write it goes by its own record of the area, or by what the directory
now reads as, freely (R6, R413; log 87). -/
def State.rereadArea (s : State) (vi : Nat) : State :=
  let v := s.viAt vi
  if !v.areaTouched then s
  else
    let (n, s) := (s.setVi vi { v with areaTouched := false }).pick 2
    if n = 0 then s
    else s.setVi vi { s.viAt vi with saved := (List.range v.ndir).filterMap (fun i =>
      let e := memRead s.hostMem (4096 * v.saveBase.toNat + 4096 + 64 * i) 64
      if bits e 1 0 = 1 then some (i, ((v.saved.find? (fun x => x.1 == i)).map (fun x => x.2.1)).getD 0, bits e 127 64, bits e 191 128) else none) }
/-- The image of a copse that has left its core is written to a free entry and free pages of its interface's area; none where it cannot
be. -/
def State.storeImage (s : State) (copse : Nat) : Option State :=
  let c := s.copseAt copse
  let s := s.rereadArea c.vi
  let v := s.viAt c.vi
  let base := 4096 * v.saveBase.toNat
  let s := if v.areaFresh then s else { s with hostMem := s.hostMem.filter (fun b => b.1 < base || base + 4096 + 64 * v.ndir ≤ b.1) }
  let v := if v.areaFresh then v else { v with saved := [], breached := [], areaFresh := true }
  let n := s.imageSize copse
  if v.saveBase = 0 ∨ v.saveLen.toNat < v.headPages then none
  else match v.freeEntry, v.freePages (ceilDiv n 4096) with
    | some e, some p =>
      let v := { v with saved := v.saved ++ [(e, copse, 4096 * p, n)] }
      let m := putParts s.hostMem (base + 4096 * p) (s.imageParts copse)
      let m := memWrite m (base + 4096 + 64 * e)
        (fieldsAt [(0, 1), (64, 4096 * p), (128, n), (192, c.ord), (256, (s.launchAt c.launch).record.toNat), (320, c.stage)]) 64
      some ({ s with hostMem := memWrite m base (v.headerBits c.vi) 32 }.setVi c.vi v)
    | _, _ => none

/-! ### Save (R408, R412, R413) -/

/-- The path set of a stand is emptied by WF markers that perform no release (R412). -/
def State.emptyPaths (s : State) (k : Nat) : State :=
  let s := s.setStand k ((s.standAt k).sendMarkers true false)
  ((s.standAt k).markers.map (fun x => x.slice)).foldl (fun s n => s.markerAt k n) s
/-- A member is suspended at a save; its held arrival is abandoned, and its instruction issues again at restore (R45, R377). -/
def State.suspendStand (s : State) (k : Nat) : State :=
  let st := s.standAt k
  let s := match st.wait with
    | .groveHeld _ => s.setStand k { (st.withdraw (fun p => p.on == PendOn.grove)).backTo st.last with wait := .none }
    | _ => s
  (s.grovesWith k).foldl (fun s key => s.groveSuspend key k) s
/-- A still copse off its core, as it is saved. -/
def State.packed (s : State) (copse : Nat) : State :=
  let c := s.copseAt copse
  let move := if c.move.state = .gather then { c.move with state := .pending, room := none } else c.move
  let ks := s.standsOf copse
  let s := (s.setCopse copse { c with move := move, drain := none }).flushL1 c.core
  let s := ks.foldl (fun s k => (s.emptyPaths k).suspendStand k) s
  let s := (s.vacate copse).takeOff copse
  s.setCopse copse { s.copseAt copse with life := .saved }
/-- A pre-emption ends without a save: the holds of a drain fall. -/
def State.dropDrain (s : State) (copse : Nat) : State :=
  let s := s.setCopse copse { s.copseAt copse with drain := none }
  if (s.copseAt copse).gathers then s else (s.standsOf copse).foldl (fun s k => s.setStand k { s.standAt k with held := false }) s
/-- A save fails (R413): an event, and the copse is flushed where the launch allows that, or stays. -/
def State.saveFails (s : State) (copse : Nat) : State :=
  let c := s.copseAt copse
  let s := s.postEvent c.vi (hostEvent 5 (4096 * (s.viAt c.vi).saveBase.toNat) c.ord)
  if (s.launchAt c.launch).rstrt then s.flushCopse copse else (s.dropDrain copse).victimDone copse true
/-- Every stand of a draining copse is at a graft point or exited, and none is in a handler. -/
def State.drained (s : State) (copse : Nat) : Bool := s.noHandler copse && (s.standsOf copse).all s.atGraft
/-- A copy's resume record says all that it has delivered (R343). -/
def Copy.inOrder (x : Copy) : Bool :=
  x.status.isSome || x.parked.isSome || x.fate.isSome || x.todo == (List.range x.units.length).drop (x.units.length - x.todo.length)
/-- A victim is saved once it may be, its side-log entries replayed (R256) and its copies stopped where their resume records can say so; one
that has ended is found exited. -/
def State.trySave (s : State) (copse : Nat) : State :=
  let c := s.copseAt copse
  if c.life = .ended then s.victimDone copse false
  else match c.drain with
    | none => s
    | some d =>
      if c.life ≠ .resident ∨ !(d.limit == some 0 || s.drained copse) then s
      else
        let s' := s.abandonAll copse
        if !s'.copseStill copse || (s.standsOf copse).any s.logged || !c.copies.all Copy.inOrder then s
        else match (s'.packed copse).storeImage copse with
          | some t => t.victimDone copse false
          | none => s.saveFails copse
def execCopseSave (copse : Nat) (s : State) : Host.Outcome State Fault Refusal := .next (s.trySave copse)

/-- A drain that is not over within its limit becomes a save (R408). -/
def State.drainOver (s : State) (copse : Nat) : State :=
  let c := s.copseAt copse
  match c.drain with
  | some d => if d.limit = none ∧ 65536 ≤ d.opps then s.setCopse copse { c with drain := some { d with limit := some 0 } } else s
  | none => s
def execDrainLimit (copse : Nat) (s : State) : Host.Outcome State Fault Refusal := .next (s.drainOver copse)

/-! ### Requests (R406-R408) -/

/-- Es and Ed; none is infinite. -/
def State.saveCost (s : State) (copse : Nat) : Nat := ceilDiv (s.saveBytes copse) 1024
def State.drainCost (s : State) (copse : Nat) : Option Nat :=
  let c := s.copseAt copse
  if (s.stageOf copse).gmap = 0 then none
  else some (s.saveCost copse + ceilDiv (c.gavgMean * (s.fieldAt (fieldOfCore c.core)).tdiv) 22)
/-- The bound is exceeded: the requester is told (R408). -/
def State.tellMissed (s : State) (copse : Nat) (cmd : Option (Nat × BitVec 16)) : State :=
  let c := s.copseAt copse
  { s with answers := s.answers ++ [.missed c.vi (cmd.map Prod.snd) c.ord] }
/-- A victim is treated under a bound (R408); one that a pre-emption acts on already goes on under that. -/
def State.preemptOne (s : State) (copse bound : Nat) (cmd : Option (Nat × BitVec 16)) : State :=
  let c := s.copseAt copse
  let es := s.saveCost copse
  if c.life ≠ .resident ∨ c.drain.isSome then s
  else if bound ≠ 0 ∧ bound < es ∧ (s.launchAt c.launch).rstrt then s.flushCopse copse
  else if bound = 0 then s.setCopse copse { c with drain := some ⟨none, 0, cmd⟩ }
  else if (match s.drainCost copse with | some ed => decide (ed ≤ bound) | none => false) then s.setCopse copse { c with drain := some ⟨some (bound - es), 0, cmd⟩ }
  else
    let s := s.setCopse copse { c with drain := some ⟨some 0, 0, cmd⟩ }
    if bound < es then s.tellMissed copse cmd else s
/-- PREEMPT: the copses of a launch, or those of one ordinal. -/
def State.preemptCmd (s : State) (vi : Nat) (tag : BitVec 16) (record : Word64) (ord : Option Word64) (bound : Nat) : State :=
  match s.takeCmd vi 4 tag with
  | none => s
  | some s =>
    let named := (s.copses.filter (fun e => e.2.vi == vi && e.2.life == .resident && e.2.launch != 0 && (s.launchAt e.2.launch).record == record
      && (match ord with | some o => o == BitVec.ofNat 64 e.2.ord | none => true))).map Prod.fst
    if named = [] then s.complete vi tag 0 0
    else named.foldl (fun s c => s.preemptOne c bound (some (vi, tag))) (s.startCmd vi 4 tag named)
def execPreempt (vi : Nat) (tag : BitVec 16) (record : BitVec 64) (ord : Option (BitVec 64)) (bound : BitVec 32) (_hint : BitVec 8)
    (s : State) : Host.Outcome State Fault Refusal := .next (s.preemptCmd vi tag record ord bound.toNat)

/-- A stage has a copse to create and clusters in a field, and no core with room there. -/
def State.stageWaits (s : State) (launch stage f : Nat) : Bool :=
  !(s.stage launch stage).done && s.copseDue launch stage f && s.serving launch stage f != [] && s.coresFor launch stage f == []
/-- A running launch waits for room. -/
def State.launchWaits (s : State) (launch : Nat) : Bool :=
  let l := s.launchAt launch
  l.running && (List.range l.stages.length).any (fun n => (s.hostFields l.vi).any (fun f => s.stageWaits launch n f))
/-- Copses that a waiting stage may pre-empt: of the same interface, of strictly lower PRIO, on clusters that serve it. -/
def State.victimsFor (s : State) (launch stage f : Nat) : List Nat :=
  let cls := s.serving launch stage f
  let l := s.launchAt launch
  (s.copses.filter (fun e => e.2.life == .resident && e.2.vi == l.vi && e.2.launch != 0
    && decide ((s.launchAt e.2.launch).prio < l.prio) && cls.contains (clusterOf e.2.core))).map Prod.fst
/-- One copse of the stage would fit on some core with the given copses gone. -/
def State.admits (s : State) (launch stage f : Nat) (gone : List Nat) : Bool :=
  let st := s.stage launch stage
  ((s.serving launch stage f).flatMap coresOf).any (fun c => st.allows (coreKind c)
    && fitsWith ((s.roomUsers c).filter (fun e => !gone.contains e.1)) (st.cstands + 1) st.vregs (ceilDiv st.smem 128))
/-- Victims in the order of R406 until one copse is admitted; none if that never happens. -/
def State.chooseVictims (s : State) (launch stage f : Nat) : List Nat → List Nat → Option (List Nat)
  | gone, [] => if s.admits launch stage f gone then some [] else none
  | gone, c :: r =>
    if s.admits launch stage f gone then some []
    else (s.chooseVictims launch stage f (c :: gone) r).map (fun l => c :: l)
/-- Insertion by ascending PRIO, then ascending SaveBytes. -/
def State.insVictim (s : State) (x : Nat) : List Nat → List Nat
  | [] => [x]
  | y :: r =>
    let key (c : Nat) : List Nat := [(s.launchAt (s.copseAt c).launch).prio, s.saveBytes c]
    if key x ≠ key y ∧ listLe (key x) (key y) then x :: y :: r else y :: s.insVictim x r
/-- A launch that waits for room pre-empts for one of its stages. -/
def State.evalPreempt (s : State) (launch : Nat) : State :=
  let l := s.launchAt launch
  let waits := (List.range l.stages.length).flatMap (fun n => ((s.hostFields l.vi).filter (fun f => s.stageWaits launch n f)).map (fun f => (n, f)))
  match l.running, l.latb, waits with
  | true, b + 1, (n, f) :: _ =>
    let vs := s.victimsFor launch n f
    let busy := vs.filter (fun c => (s.copseAt c).drain.isSome)
    let open' := (vs.filter (fun c => (s.copseAt c).drain.isNone)).foldl (fun l c => s.insVictim c l) []
    (match s.chooseVictims launch n f busy open' with
    | some cs => cs.foldl (fun s c => s.preemptOne c (b + 1) none) s
    | none => s)
  | _, _, _ => s
def execPreemptEval (launchId : Nat) (s : State) : Host.Outcome State Fault Refusal := .next (s.evalPreempt launchId)

/-! ### Restore of a saved copse (R132, R408) -/

/-- A launch of strictly higher PRIO still waits for the room that pre-emption makes. -/
def State.needed (s : State) (copse : Nat) : Bool :=
  let c := s.copseAt copse
  s.launches.any (fun e => e.2.vi == c.vi && e.2.latb != 0 && decide ((s.launchAt c.launch).prio < e.2.prio) && s.launchWaits e.1)
/-- The kind that a saved copse with a PENDING request at graft points is to be restored onto (R132); one with an open reservation cannot
change its kind (R238). -/
def State.wantedKind (s : State) (copse : Nat) : Option Kind :=
  let c := s.copseAt copse
  if c.move.state = .pending ∧ c.savedResvs = [] ∧ (s.standsOf copse).all s.atGraft then c.move.tgt else none
/-- The cores of a kind that serve a saved copse's stage and admit it. -/
def State.admitting (s : State) (copse : Nat) (k : Kind) : List Nat :=
  let c := s.copseAt copse
  ((s.clusters.filter (fun e => e.2.serves == some (c.launch, c.stage))).flatMap (fun e => coresOf e.1)).filter (fun n =>
    coreKind n == k && s.canPut copse n)
/-- A stand that an image left waiting in a grove of which it is no member is answered GONE (R393, log 87). -/
def State.wakeStale (s : State) (k : Nat) : State :=
  let st := s.standAt k
  if st.wait.inGrove && s.grovesWith k == [] then
    s.setStand k (st.wakeGrove (if (st.pend.flatMap (fun p => p.sw)).length = 2 then [0, 4] else [4]))
  else s
/-- What was parked is tried again on the new core (R258, R343), and the memberships resume (R377). -/
def State.wakeRestored (s : State) (copse : Nat) : State :=
  let c := s.copseAt copse
  let s := s.setCopse copse { c with
    copies := c.copies.map (fun x => { x with parked := none })
    fills := c.fills.map (fun x => { x with req := none }) }
  let cl := clusterOf c.core
  let e := s.engineAt cl
  let s := s.setEngine cl { e with recs := e.recs.map (fun r => (r.1, if r.2.copse = copse then
    { r.2 with queue := r.2.queue.map (fun q => match q.phase with | .parked (some _) => { q with phase := .granted } | _ => q) } else r.2)) }
  let s := (s.standsOf copse).foldl (fun s k => (s.grovesWith k).foldl (fun s key => s.groveResume key k) (s.wakeStale k)) s
  ((s.coreAt c.core).slog.filter (fun x => copseOf x.stand == copse)).foldl (fun s x => s.replayLog c.core x) s
/-- A saved copse is admitted to a core, where no request holds its stands any more (R132, R136). -/
def State.restoreTo (s : State) (copse core : Nat) : State :=
  let s := (((s.dropSaved copse).putOn copse core).wakeRestored copse)
  (s.standsOf copse).foldl (fun s k => s.setStand k { s.standAt k with held := false }) s
/-- A saved copse whose image the host wrote while the device alone may write it (R413) comes back as it was saved, or with the registers
and the scratchpad that the image now reads as, freely (R6; log 87). -/
def State.reread (s : State) (copse : Nat) : State :=
  let c := s.copseAt copse
  let s := s.rereadArea c.vi
  let v := s.viAt c.vi
  match (if v.breached.contains copse then v.saved.find? (fun e => e.2.1 == copse) else none) with
  | none => s
  | some e =>
    let (n, s) := (s.setVi c.vi { v with breached := v.breached.filter (fun x => x != copse) }).pick 2
    if n = 0 then s
    else
      let (x, ks) := readImage s.hostMem (4096 * v.saveBase.toNat + e.2.2.1) e.2.2.2 copse s.nextId c.vi c.launch
      let s := (ks.take c.nst).foldl (fun s st => if (s.standAt (16 * copse + st.idx)).life = .absent then s else s.setStand (16 * copse + st.idx) st) s
      s.setCopse copse { c with scratch := x.scratch.filter (fun b => b.1 < 128 * c.alloc) }
/-- The scheduler restores a saved copse onto a core of its kind, or onto the kind that its request names (R132). -/
def State.tryRestore (s : State) (copse core : Nat) : State :=
  let c := s.copseAt copse
  if c.life ≠ .saved ∨ !(s.launchAt c.launch).running ∨ s.needed copse then s
  else
  let s := s.reread copse
  let c := s.copseAt copse
  match (s.wantedKind copse).filter (fun k => s.admitting copse k != []) with
    | none => if (s.admitting copse c.kind).contains core then s.restoreTo copse core else s
    | some k =>
      if !(s.admitting copse k).contains core then s
      else match s.graftTable c.vi (s.stageOf copse) with
        | none => s.dropMove copse .refused 3
        | some g => match s.carried copse g s.gidAt with
          | none => s.dropMove copse .refused 4
          | some sts =>
            let s := sts.foldl (fun s x => s.setStand x.1 x.2) s
            let s := s.setCopse copse { c with
              kind := k
              move := ⟨none, .done, 0, if c.move.moves = 0xFFFF then c.move.moves else c.move.moves + 1, 0, none⟩ }
            s.restoreTo copse core
def execCopseRestore (copse core : Nat) (s : State) : Host.Outcome State Fault Refusal := .next (s.tryRestore copse core)

/-! ### RESTORE (R138-R140, R413) -/

/-- The saved entries of an image's directory: offset, bytes, launch record; none where header or directory is malformed. -/
def State.imageDir (s : State) (image : Nat) : Option (Nat × List (Nat × Nat × Nat)) :=
  let h := memRead s.hostMem image 32
  let cap := bits h 127 64
  let es := (List.range (bits h 63 48)).filterMap (fun i =>
    let e := memRead s.hostMem (image + 4096 + 64 * i) 64
    if bits e 1 0 = 1 then some (bits e 127 64, bits e 191 128, bits e 319 256) else none)
  if bits h 31 0 = 0x494D5A4B ∧ bits h 47 32 = 1 ∧ cap % 4096 = 0 ∧ es.all (fun e => decide (e.1 + e.2.1 ≤ cap)) then some (h, es) else none
/-- A launch for a restored copse: a running launch of its record, or one made from the record with every ticket given out (log 41). -/
def State.restoreLaunch (s : State) (vi : Nat) (tag : BitVec 16) (record image area : Nat) (anew : Bool) (have' : List (Nat × Nat)) : Option (Nat × State) :=
  match (have'.find? (fun x => x.1 == record)).map Prod.snd with
  | some id => some (id, s)
  | none => match (if anew then none else (s.launches.find? (fun e => e.2.running && e.2.vi == vi && e.2.record.toNat == record)).map Prod.fst) with
    | some id => some (id, s)
    | none => match s.readRecord vi record with
      | none => none
      | some (h, ds) =>
        if (s.recordCodes vi h ds).any (fun c => c != 7 && c != 8) then none
        else
          let l := launchOf vi tag (BitVec.ofNat 64 record) h ds
          let tr (x : Word64) : Word64 := if anew && x != 0 then BitVec.ofNat 64 (areaPlace image area x.toNat) else x
          let stages := ((List.range l.stages.length).zip l.stages).map (fun x =>
            { x.2 with
              sentry := tr x.2.sentry
              hentry := tr x.2.hentry
              gmap := tr x.2.gmap
              created := x.2.detw
              segs := if x.1 + 1 = l.stages.length then [] else (s.hostFields vi).map (fun f => (f, [])) })
          let id := s.nextId
          let deals := (s.hostFields vi).flatMap (fun f => s.dealField vi f l.stages)
          let s := deals.foldl (fun s d => s.setCluster d.1 { s.clusterAt d.1 with serves := some (id, d.2) }) { s with nextId := id + 1 }
          some (id, s.setLaunch id { l with stages := stages, since := s.past.length })
/-- A stand whose program counters name places in the translation area (R138); none where one has no place there. -/
def Stand.reexpressed (st : Stand) (to' : Nat → Option Nat) : Option Stand := do
  let f (x : Word64) : Option Word64 := (to' x.toNat).map (BitVec.ofNat 64)
  let pc ← f (if st.life = .ending then st.exitPc else st.pc)
  let stack ← st.stack.mapM (fun e => match e.pc with
    | none => some e
    | some x => (f x).map (fun y => { e with pc := some y }))
  let frames ← st.frames.mapM (fun x => (f x.rpc).bind (fun y => (f x.rpc0).map (fun z => { x with rpc := y, rpc0 := z })))
  let wait ← st.wait.carry to'
  some { st with
    pc := pc
    exitPc := pc
    stack := stack
    frames := frames
    wait := wait
    place := .target
    clh := none
    clpos := 0 }
/-- The stands of copses of an image, re-expressed; none where a program counter cannot be. -/
def State.reexpressAll (s : State) (vi image area : Nat) (ids : List Nat) : Option (List (Nat × Stand)) :=
  (ids.flatMap (fun c => (s.standsOf c).map (fun k => (c, k)))).mapM (fun x =>
    let c := s.copseAt x.1
    let st := s.stageOf x.1
    match s.graftTable vi st with
    | none => none
    | some g => ((s.standAt x.2).reexpressed (fun a => s.reexpressed vi image area st g c.kind a)).map (fun y => (x.2, y)))
/-- The copses of an image put beside those of the state, with their launches; none where a launch cannot be found. -/
def State.placeImages (s : State) (vi : Nat) (tag : BitVec 16) (image area : Nat) (anew : Bool) :
    List (Nat × Nat) → List (Nat × Nat × Nat) → Option (List Nat × State)
  | _, [] => some ([], s)
  | have', e :: r =>
    match s.restoreLaunch vi tag e.2.2 image area anew have' with
    | none => none
    | some (launch, s) =>
      let id := s.nextId
      let (c, ks) := readImage s.hostMem (image + e.1) e.2.1 id (id + 1) vi launch
      let s := { s with nextId := id + 2 + e.2.1 / 32 }.setCopse id c
      let s := ((List.range ks.length).zip ks).foldl (fun s k => s.setStand (16 * id + k.1) k.2) s
      match s.placeImages vi tag image area anew ((e.2.2, launch) :: have') r with
      | none => none
      | some (ids, s) => some (id :: ids, s)
/-- Stands put in place, those of each copse under the name that another is known by. -/
def State.takeStands (s : State) (names : List (Nat × Nat)) (xs : List (Nat × Stand)) : State :=
  xs.foldl (fun s x => match names.find? (fun n => n.1 == copseOf x.1) with
    | some n => s.setStand (16 * n.2 + x.1 % 16) { x.2 with copse := n.2 }
    | none => s) s
/-- The encoding revisions, of the image and of the kernels of its copses, that are not the device's own (R138). -/
def State.otherRevisions (t : State) (vi h : Nat) (ids : List Nat) : List (Nat × Nat) :=
  ((bits h 207 192, bits h 223 208) :: ids.filterMap (fun c => (t.graftTable vi (t.stageOf c)).map (fun g => (g.srev, g.hrev)))).filter
    (fun r => r != (1, 1))
/-- The features of which a copse of an image has live state (R138): 0 an open reservation, 1 a grove handle, 2 a tile descriptor, 3 a channel,
4 a pending copy, 5 a pending move request. -/
def State.liveFeatures (t : State) (c : Nat) : List Nat :=
  let x := t.copseAt c
  let ks := (t.standsOf c).map t.standAt
  (if x.savedResvs != [] then [0] else []) ++ (if ks.any (fun k => k.g != []) then [1] else [])
    ++ (if ks.any (fun k => k.d.any (fun d => d.2.getLsbD 127)) then [2] else []) ++ (if x.savedChans != [] then [3] else [])
    ++ (if x.copies != [] then [4] else []) ++ (if x.move.state = .pending then [5] else [])
/-- The reasons of R139 that apply to an image whose copses are placed in t, those of the save area aside. -/
def State.restoreReasons (s t : State) (vi image area xlatSize : Nat) (revs : List (Nat × Nat)) (ids : List Nat) : List Nat :=
  let anew := revs != []
  let atPoint (c : Nat) : Bool := (t.standsOf c).all t.atGraft
  let needs (c : Nat) : Bool := anew || ((t.copseAt c).move.state == .pending && atPoint c)
  let badMap := ids.any (fun c => needs c && (t.graftTable vi (t.stageOf c)).isNone)
  (if revs.any (fun r => !(s.boot.trans && Config.hasRevisionMap (BitVec.ofNat 16 r.1) (BitVec.ofNat 16 r.2))) then [1] else [])
    ++ (if anew && ids.any (fun c => !atPoint c) then [2] else [])
    ++ (if anew && (ids.any (fun c => (t.liveFeatures c).any (fun f => !Config.canExpress image f)) || (!badMap && (t.reexpressAll vi image area ids).isNone)) then [3] else [])
    ++ (if badMap then [4] else [])
    ++ (if s.partClusters vi = [] then [5] else [])
    ++ (if anew && xlatSize < Config.translationBytes image then [6] else [])
/-- The images written to the interface's own save area, one after another. -/
def State.storeAll (s : State) : List Nat → Option State
  | [] => some s
  | c :: r => match s.storeImage c with
    | none => none
    | some s => s.storeAll r
/-- Bytes of the translation area whose contents the spec leaves open: the translator's output, or what a refused restore leaves (R137,
R140; log 87). -/
def State.translatorOutput (s : State) (area n : Nat) : State := { s with hostMem := memWrite s.hostMem area (Config.freeNat s.free) n }.bump
/-- The new graft map of a kernel, as its bytes in number and their contents (R121-R123, R137): this device's revision, every GID with its index
and its moves, every pair record under its index. -/
def newMap (image : Nat) (st : Stage) (g : GraftTable) : Nat × Nat :=
  let n := g.pairs.length
  let poff := 64 + 16 * g.entries.length
  let moff := poff + 8 * n
  (moff + 4 * g.moves.length,
    fieldsAt [(0, 0x4D475A4B), (32, 1), (48, g.entries.length), (64, n), (96, translatedPair image st.sentry.toNat n),
        (128, translatedPair image st.hentry.toNat n), (160, 64), (192, poff), (224, moff), (256, 1), (272, 1)]
      + arrayAt 512 128 (g.entries.map (fun e => fieldsAt [(0, e.1), (16, e.2.1), (32, e.2.2.1), (64, e.2.2.2)]))
      + arrayAt (8 * poff) 64 ((List.range n).map (fun i => fieldsAt [(0, translatedPair image st.sentry.toNat i), (32, translatedPair image st.hentry.toNat i),
          (63, (Config.translatedSeq image st.sentry.toNat i && Config.translatedSeq image st.hentry.toNat i).toNat)]))
      + arrayAt (8 * moff) 32 (g.moves.map (fun m => fieldsAt [(0, m.1), (8, m.2.1), (16, m.2.2)])))
/-- What the translator leaves in the translation area for the copses of an image (R137): the new encodings, whose words are its own, and the
new graft map of each kernel. -/
def State.translate (s t : State) (vi image area : Nat) (ids : List Nat) : State :=
  ids.foldl (fun s c =>
    let st := t.stageOf c
    match t.graftTable vi st with
    | none => s
    | some g =>
      let m := newMap image st g
      { s with hostMem := memWrite s.hostMem (area + (areaPlace image area st.gmap.toNat - Config.areaAt area)) m.2 m.1 })
    (s.translatorOutput area (Config.translationBytes image))
/-- RESTORE is refused (R140): the translation area holds anything; an event, and a completion with code and reason. -/
def State.refuseRestore (s : State) (vi : Nat) (tag : BitVec 16) (image area size reason : Nat) : State :=
  ((s.translatorOutput area size).postEvent vi (hostEvent 2 image reason)).complete vi tag 0 (2 + 256 * reason)
def State.restoreCmd (s : State) (vi : Nat) (tag : BitVec 16) (image area size : Nat) : State :=
  match s.takeCmd vi 5 tag with
  | none => s
  | some s => match s.imageDir image with
    | none => s.refuseRestore vi tag image area size 7
    | some (h, es) =>
      match s.placeImages vi tag image area false [] es with
      | none => s.refuseRestore vi tag image area size 4
      | some (ids, t) =>
        let revs := t.otherRevisions vi h ids
        let anew := revs != []
        match lowest (s.restoreReasons t vi image area size revs ids) with
        | some n => s.refuseRestore vi tag image area size n
        | none =>
          match (if anew then s.placeImages vi tag image area true [] es else some (ids, t)) with
          | none => s.refuseRestore vi tag image area size 4
          | some (ids', u) =>
            let u := if anew then u.takeStands (ids.zip ids') ((t.reexpressAll vi image area ids).getD []) else u
            if (s.viAt vi).cquota.toNat < (u.copsesOf vi).length ∧ (s.viAt vi).cquota ≠ 0 then s.refuseRestore vi tag image area size 8
            else match (if anew then u.translate t vi image area ids else u).storeAll ids' with
              | none => s.refuseRestore vi tag image area size 8
              | some u => u.complete vi tag 0 (if anew then 1 else 0)
def execRestore (vi : Nat) (tag : BitVec 16) (image xlat xlatSize : BitVec 64) (s : State) : Host.Outcome State Fault Refusal :=
  .next (s.restoreCmd vi tag image.toNat xlat.toNat xlatSize.toNat)

/-! ### DEBUG (R404, R444) -/

/-- The record of a stand that the host driver terminates: that of its halt. -/
def State.debugStand (s : State) (k : Nat) (terminate : Bool) : State :=
  let st := s.standAt k
  if terminate then (s.counted k).terminate k (s.faultRec k ⟨0x0B, 1, 0, 0, 0, false, st.a, 0, 0⟩ st.pc false)
  else s.setStand k { st with life := .live }
def State.debugCommand (s : State) (vi : Nat) (tag : BitVec 16) (ord : Word64) (stand op : Nat) : State :=
  match s.takeCmd vi 6 tag with
  | none => s
  | some s =>
    let halted := s.copses.filter (fun e => e.2.vi == vi && e.2.launch != 0 && (e.2.life == .resident || e.2.life == .saved) && BitVec.ofNat 64 e.2.ord == ord
      && (s.standAt (16 * e.1 + stand)).life == .halted)
    match halted with
    | [] => s.complete vi tag 0x15 0
    | (c, _) :: _ => (s.debugStand (16 * c + stand) (op == 1)).complete vi tag 0 0
def execDebugCmd (vi : Nat) (tag : BitVec 16) (ord : BitVec 64) (stand : BitVec 4) (op : BitVec 8) (s : State) : Host.Outcome State Fault Refusal :=
  .next (s.debugCommand vi tag ord stand.toNat op.toNat)

end Sys2Proof.Machine
end

