-- ==== Sys2Proof/Machine/Power.lean ====
section
/-! DEFINITION. Lane rates and power readings (spec/17 R417-R419, spec/20 R452, R453), the end of a context and uncorrectable errors
(spec/17 R405). -/

namespace Sys2Proof.Machine

/-! ### Rates (R417, R418) -/

/-- The copses on a cluster. -/
def State.copsesIn (s : State) (cluster : Nat) : List Copse := (s.copses.filter (fun e => e.2.life == .resident && clusterOf e.2.core == cluster)).map Prod.snd
/-- The rate of a cluster at a boundary. -/
def State.newRate (s : State) (cluster : Nat) : Nat :=
  let fcap := (s.fieldAt (fieldOfCluster cluster)).fcap.toNat
  let cs := s.copsesIn cluster
  let term (c : Copse) : Nat := minN (s.viAt c.vi).ceil.toNat
    ((cs.filter (fun d => d.vi == c.vi)).foldl (fun n d => maxN n d.laneReq.toNat) 0)
  if cs = [] then minN fcap 1 else minN fcap (cs.foldl (fun n c => maxN n (term c)) 0)
def State.rateStep (s : State) (cluster : Nat) : State :=
  s.setCluster cluster { s.clusterAt cluster with rate := BitVec.ofNat 2 (s.newRate cluster) }
def execRateBoundary (cluster : Nat) (s : State) : Host.Outcome State Fault Refusal := .next (s.rateStep cluster)

/-! ### Readings (R419, R452, R453) -/

/-- A field keeps the largest divisor used. -/
def Field.setTdiv (f : Field) (n : Nat) : Field := { f with tdiv := n, tdivMax := maxN f.tdivMax n }
/-- A reading with the guard band stays below the design power of 42 kW. -/
def readingKeeps (r : Reading) : Bool := r.watts + 42000 * 15 / 100 < 42000
/-- FCAP and TDIV after a reading that keeps the bound, or breaks it (R419). -/
def Field.read (f : Field) (keeps : Bool) : Field :=
  if !keeps then
    if f.fcap = 0 then { f.setTdiv (minN 8 (2 * f.tdiv)) with good := 0 } else { f with fcap := f.fcap - 1, good := 0 }
  else if f.good + 1 < 16 then { f with good := f.good + 1 }
  else if 1 < f.tdiv then { f.setTdiv (f.tdiv / 2) with good := 0 }
  else { f with fcap := if f.fcap = 0 then 1 else 2, good := 0 }
/-- The inlet is above 45 °C, or the input out of its range (R453). -/
def readingOut (r : Reading) : Bool := 450 < r.inlet || r.millivolts < 44000 || 54000 < r.millivolts
/-- What one reading does to a field. -/
def Field.onReading (f : Field) (r : Reading) : Field :=
  if readingOut r then { f.setTdiv 8 with fcap := 0, good := 0 } else f.read (readingKeeps r)
/-- The commands under way note the largest divisor (R421). -/
def State.noteTdiv (s : State) : State :=
  let t := s.tdivNow
  { s with vis := s.vis.map (fun v => (v.1, { v.2 with cmds := v.2.cmds.map (fun c => { c with tdivMax := maxN c.tdivMax t }) })) }
def State.onReading (s : State) (r : Reading) : State :=
  if !s.power.on then s
  else
    let s := allFields.foldl (fun s f => s.setField f ((s.fieldAt f).onReading r)) s
    { s with power := { s.power with bad := if readingOut r then s.power.bad + 1 else 0, last := some r } }.noteTdiv
def execPmbusReading (r : Reading) (s : State) : Host.Outcome State Fault Refusal := .next (s.onReading r)
/-- Power is removed after 1,000 readings out of range: everything on the wafer is lost; host memory is not on it. -/
def State.powerOff (s : State) : State :=
  if s.power.on && decide (1000 ≤ s.power.bad) then
    { State.reset with script := s.script, free := s.free, hostMem := s.hostMem, power := ⟨false, 0, true, s.power.last⟩ }
  else s
def execPowerRemove (s : State) : Host.Outcome State Fault Refusal := .next s.powerOff

/-- What the PMBus controller answers (R452): what it measured last. A read disturbs nothing. -/
def State.pmbusValue (s : State) (r : PmbusRead) : Nat :=
  match r with
  | .vin => (s.power.last.map Reading.millivolts).getD (Config.pmbusFirst 0)
  | .iin => (s.power.last.map Reading.milliamps).getD (Config.pmbusFirst 1)
  | .pout => (s.power.last.map Reading.watts).getD (Config.pmbusFirst 2)
  | .temperature1 => (s.power.last.map Reading.inlet).getD (Config.pmbusFirst 3)
  | .temperature2 => (s.power.last.map Reading.outlet).getD (Config.pmbusFirst 4)
  | .statusWord => Config.statusWord s.power.status
def State.pmbus (s : State) (r : PmbusRead) : State := { s with answers := s.answers ++ [.pmbus r (s.pmbusValue r)] }

/-! ### The end of a context (R393, R405, R406) -/

/-- Every grove of a context is freed, and no one is woken. -/
def State.freeGroves (s : State) (vi : Nat) : State :=
  { s with groves := s.groves.map (fun g => (g.1, if g.2.live && g.2.vi == vi then { Grove.init with vi := vi, ident := g.2.ident, tag := g.2.tag + 1 } else g.2)) }
/-- Every copse of a context is flushed. -/
def State.flushContext (s : State) (vi : Nat) : State := (s.copsesOf vi).foldl (fun s c => s.flushCopse c) s
/-- The launches of a context run no more; no completion is written for them, and the clusters that this frees are dealt (R467). -/
def State.stopLaunches (s : State) (vi : Nat) : State :=
  let ls := (s.launches.filter (fun e => e.2.vi == vi && e.2.running)).map Prod.fst
  let free := s.servers (fun x => ls.contains x.1)
  (ls.foldl (fun s l => (s.setLaunch l { s.launchAt l with running := false }).freeServing (fun x => x.1 == l)) s).redealAll free
/-- The pin marks of a context are cleared (R291). -/
def State.clearPins (s : State) (vi : Nat) : State :=
  { s with dir := s.dir.map (fun (e : Nat × Dir) => (e.1, { e.2 with pins := e.2.pins.filter (fun p => p != vi) })) }
/-- A context is terminated (R405): its marks end with it (R291), and it runs nothing until its interface is reset. -/
def State.terminateContext (s : State) (vi : Nat) : State :=
  let s := (((s.flushContext vi).freeGroves vi).stopLaunches vi).clearPins vi
  s.setVi vi { s.viAt vi with ended := true }

/-! ### Uncorrectable errors (R405) -/

/-- An event of CLASS 0x0E; its CAUSE is free. -/
def State.uceEvent (s : State) (addr : Word64) (field cluster : Nat) : FaultRec :=
  { FaultRec.zero with
    cls := 0x0E
    cause := (Config.freeWord s.free 0).setWidth 8
    addr := addr
    pfx := BitVec.ofNat 4 (field % 9)
    pfy := BitVec.ofNat 4 (field / 9)
    pcl := BitVec.ofNat 8 cluster }
/-- Contexts end, each with the event in its ring, and every PF has it. -/
def State.endContexts (s : State) (vis : List Nat) (r : FaultRec) : State :=
  let s := vis.foldl (fun s v => s.terminateContext v) s
  (vis.foldl (fun s v => s.postEvent v r) s).postPfs r
/-- A page leaves the near tier and does not come back. -/
def State.retireUnit (s : State) (unit : Nat) : State := { s with near := s.near.filter (fun u => u != unit), retired := unit :: s.retired }
/-- The lines of a slice are lost. -/
def State.loseSlice (s : State) (slice : Nat) : State :=
  ((s.dir.filter (fun e => e.2.cached && e.2.bank / 8 == slice)).map Prod.fst).foldl (fun s l => s.dropHome l) s
/-- A slice leaves a domain: what is in it is lost where it cannot be corrected, a WB or SWITCH under way ends, and a SWITCH puts a set
without the slice in force, which writes back and drops the lines that are left (R283, R284). -/
def State.dropSlice (s : State) (vi slice : Nat) (good : Bool) : State :=
  let s := ((if good then s else s.loseSlice slice).endWb vi).endSwitch vi
  if !(s.viAt vi).dom.live.slices.contains slice then s
  else
  let n := s.dirtyCount vi
  let s := (s.domainLines vi).foldl (fun s l => (s.cleanHome l).dropHome l) s
  let d := (s.viAt vi).dom
  let live := d.live.slices.erase slice
  let t : DomSet := { d.other with nslice := BitVec.ofNat 11 live.length, hmask := BitVec.ofNat 14 (hmaskFor live.length), slices := live }
  let d := { d with wblines := BitVec.ofNat 32 n }
  s.setDom vi (if d.sel then { d with set0 := t, sel := false } else { d with set1 := t, sel := true })
/-- A slice is taken out: every domain that has it is re-formed without it, and the map is rebound (R284). -/
def State.retireSlice (s : State) (slice : Nat) (good : Bool) : State :=
  let vis := (s.vis.filter (fun e => e.2.dom.taken.contains slice)).map Prod.fst
  let s := vis.foldl (fun s v => s.dropSlice v slice good) s
  let s := s.rebind s.boot.clusters (s.boot.slices.filter (fun x => x != slice))
  { s with boot := { s.boot with cache := BitVec.ofNat 13 (4 * s.boot.slices.length) } }
/-- An error that ECC cannot correct (R405), or a unit taken out at run time (R284). -/
def State.uce (s : State) (e : UceSite) : State :=
  match e with
  | .copyElsewhere core line =>
    (match s.l1At core line with
    | some l => if l.dirty = 0 then (s.dropL1 core line).disown core line else s
    | none =>
      let d := s.dirAt line
      if (tfind (fieldOfCore core) d.replicas).isSome || !d.cached || d.dirty then s.setDir line (d.collapse (some (fieldOfCore core)))
      else s.dropHome line)
  | .ownedLine vi line => (s.endContexts [vi] (s.uceEvent (BitVec.ofNat 64 (128 * line)) 0 0)).retireUnit (line / 512)
  | .ownedUnit vi cluster =>
    let s := s.endContexts [vi] (s.uceEvent 0 (fieldOfCluster cluster) (cluster % 140))
    s.rebind (s.boot.clusters.filter (fun c => c != cluster)) s.boot.slices
  | .sharedSlice slice =>
    let vis := (s.vis.filter (fun e => e.2.dom.taken.contains slice)).map Prod.fst
    (s.endContexts vis (s.uceEvent 0 (fieldOfSlice slice) 0)).retireSlice slice false
  | .sharedRouters field =>
    let vis := (s.vis.filter (fun e => e.2.dom.taken.any (fun n => fieldOfSlice n == field) || e.2.part.any (fun c => fieldOfCluster c == field))).map Prod.fst
    (s.endContexts vis (s.uceEvent 0 field 0)).rebind s.boot.clusters s.boot.slices
  | .corrected field => s.setField field { s.fieldAt field with soft := (s.fieldAt field).soft + 1 }
  | .failedSlice slice => s.retireSlice slice true
  | .failedCluster cluster => s.rebind (s.boot.clusters.filter (fun c => c != cluster)) s.boot.slices
  | .failedRouters _ => s.rebind s.boot.clusters s.boot.slices
def execUncorrectableError (e : UceSite) (s : State) : Host.Outcome State Fault Refusal := .next (s.uce e).bump

end Sys2Proof.Machine
end

