-- ==== Sys2Proof/Machine/Boot.lean ====
section
/-! DEFINITION. Cold reset, the phases of bring-up (spec/20 R454-R458), image checks and SPDM (spec/19 R450, R451). The phase is the one under
way; the event of a phase does its work and ends it. -/

namespace Sys2Proof.Machine

/-! ### Cold reset (R453, R454, R456) -/

/-- The state after a cold reset: bring-up at ROM, nothing left of what was before but what is not on the wafer: host memory, the script
with its choices, and the report of a removal of power. -/
def State.coldReset (s : State) : State :=
  { State.reset with script := s.script, free := s.free, hostMem := s.hostMem, power := ⟨true, 0, s.power.status, s.power.last⟩ }
def execColdReset (s : State) : Host.Outcome State Fault Refusal := .next s.coldReset
/-- A write of BOOT_CTL: RST (R458). -/
def State.writeBootCtl (s : State) (x : Nat) : State := if bitAt x 0 && s.power.on then s.coldReset else s
def execRst (value : Word64) (s : State) : Host.Outcome State Fault Refusal := .next (s.writeBootCtl value.toNat)

/-! ### Images (R450) -/

/-- An image may be loaded: both signatures verify, each key has the fused digest, and the version is not below the fused one. -/
def imageOk (x : Image) : Bool :=
  x.rsaOk && x.slhOk && x.rsaKey == Config.fusedRsa && x.slhKey == Config.fusedSlh && Config.fusedVersion.toNat ≤ x.sver.toNat
/-- The event of an image that fails. -/
def imageEvent : FaultRec := { FaultRec.zero with cls := 0x0E, cause := 0x10 }
def State.setBoot (s : State) (b : Boot) : State := { s with boot := b }
def State.failBoot (s : State) (err : Byte) : State := s.setBoot { s.boot with phase := .failed, err := err }
/-- An image that is there and fails is reported. -/
def State.reportImage (s : State) (x : Option Image) : State :=
  match x with
  | some i => if imageOk i then s else s.postPfs imageEvent
  | none => s
def passes (x : Option Image) : Bool := match x with | some i => imageOk i | none => false
/-- SIGCHK: the images that the boot ROM finds, one of them as given. -/
def State.checkImages (s : State) (fw tr : Option Image) : State :=
  let s := (s.reportImage fw).reportImage tr
  match fw with
  | some i =>
    if imageOk i then s.setBoot { s.boot with
      phase := .ftest, sver := i.sver, trans := passes tr, meas2 := i.digest, meas3 := if passes tr then (tr.map Image.digest).getD 0 else 0 }
    else s.failBoot 1
  | none => s.failBoot 1
/-- A candidate beside a running image: loaded, or reported and left out. -/
def State.candidate (s : State) (k : ImageKind) (i : Image) : State :=
  if !imageOk i then s.postPfs imageEvent
  else match k with
    | .firmware => s.setBoot { s.boot with sver := i.sver, meas2 := i.digest }
    | .translator => s.setBoot { s.boot with trans := true, meas3 := i.digest }
def State.sigchk (s : State) (c : Option (ImageKind × Image)) : State :=
  if !s.power.on || s.boot.phase == .failed then s
  else if s.boot.phase == .rom || s.boot.phase == .sigchk then
    match c with
    | none => s.checkImages Config.firmwareImage Config.translatorImage
    | some (.firmware, i) => s.checkImages (some i) Config.translatorImage
    | some (.translator, i) => s.checkImages Config.firmwareImage (some i)
  else match c with
    | some (k, i) => s.candidate k i
    | none => s
def execSigchk (candidate : Option (ImageKind × Image)) (s : State) : Host.Outcome State Fault Refusal := .next (s.sigchk candidate)

/-! ### FTEST, HBM and NET (R455) -/

/-- The passing clusters of a field, and of slices. -/
def passingClusters (f : Nat) : List Nat := ((List.range 140).map (fun i => 140 * f + i)).filter Config.clusterPasses
def passingSlices : List Nat :=
  allFields.flatMap (fun f => ((List.range 16).map (fun i => 16 * f + i)).filter (fun n => Config.slicePasses n && Config.routerPasses (routerAt f (n % 16))))
/-- Counts lowered one at a time at the largest, the first among equals, until they sum to the given number. -/
def lowerCounts (target : Nat) : Nat → List Nat → List Nat
  | 0, es => es
  | n + 1, es =>
    if es.foldl (· + ·) 0 ≤ target then es
    else
      let m := es.foldl maxN 0
      lowerCounts target n (es.set (es.idxOf m) (m - 1))
/-- Exposed clusters and spares of the fields, given the passing clusters of each. -/
def exposeClusters (ps : List (List Nat)) : List Nat × List Nat :=
  let es := lowerCounts 10240 10780 (ps.map List.length)
  let xs := ps.zip es
  (xs.flatMap (fun x => x.1.take x.2), xs.flatMap (fun x => x.1.drop x.2))
/-- The placement map of the passing units, or FIELD. -/
def placement (ps : List (List Nat)) (slices : List Nat) : Option (List Nat × List Nat) :=
  if ps.any (fun p => p.length < 120) || (ps.map List.length).foldl (· + ·) 0 < 10240 || slices.length < 1152 then none
  else some (exposeClusters ps)
/-- Links of a field that failed test, with their routers (R433, R455). -/
def deadLinks (f : Nat) : Nat :=
  ((routersOf f).flatMap (fun r => (List.range 6).flatMap (fun n => (List.range 5).map (fun o => linkOf (n / 3) (n % 3) r (o + 1))))).countP
    (fun l => hasLink (routerOfLink l) (l % 8) && !linkTests l)
def State.ftest (s : State) : State :=
  if s.boot.phase ≠ .ftest then s
  else match Sys2Proof.Machine.placement (allFields.map passingClusters) passingSlices with
    | none => s.failBoot 2
    | some (cs, spares) =>
      let s := allFields.foldl (fun s f => s.setField f { s.fieldAt f with dead := BitVec.ofNat 16 (deadLinks f) }) s
      s.setBoot { s.boot with phase := .hbm, clusters := cs, spares := spares, slices := passingSlices }
def execFtest (s : State) : Host.Outcome State Fault Refusal := .next s.ftest
def State.hbm (s : State) : State :=
  if s.boot.phase ≠ .hbm then s
  else if hbmStacks.all Config.stackTrains then s.setBoot { s.boot with phase := .net } else s.failBoot 3
def execHbm (s : State) : Host.Outcome State Fault Refusal := .next s.hbm
/-- A plane's tables of bring-up take a packet from a router to its destination over links that can be used. -/
def leads (plane dest : Nat) : Nat → Nat → Bool
  | 0, r => r == dest
  | n + 1, r =>
    let o := (bootEntry plane r dest).toNat % 8
    r == dest || (1 ≤ o && o ≤ 4 && usable plane r o && leads plane dest n (nextRouter r o))
/-- The routers that are exposed: those that pass test. -/
def exposedRouters : List Nat := (allFields.flatMap routersOf).filter Config.routerPasses
/-- Every exposed router can be reached from every other on one of the planes (R455). -/
def netReaches : Bool := exposedRouters.all (fun a => exposedRouters.all (fun b => leads 0 b 1296 a || leads 1 b 1296 a))
/-- NET: both planes hold the tables of bring-up (R427). -/
def State.netUp (s : State) : State :=
  if s.boot.phase ≠ .net then s
  else if netReaches then { s with net := { s.net with planes := [] } }.setBoot { s.boot with phase := .seal } else s.failBoot 4
def execNet (s : State) : Host.Outcome State Fault Refusal := .next s.netUp
/-! ### Maintenance code (R457) -/

/-- Firmware runs maintenance code during FTEST, HBM and NET. -/
def State.maintTime (s : State) : Bool :=
  s.power.on && s.boot.maint && (s.boot.phase == .ftest || s.boot.phase == .hbm || s.boot.phase == .net)
/-- Bytes that firmware writes at a physical address, at the homes of their lines. -/
def State.firmPut (s : State) (a : Nat) (bs : List Byte) : State :=
  ((List.range bs.length).zip bs).foldl (fun s b =>
    let pa := a + b.1
    if isWindow pa then s
    else if (s.dirAt (pa / 128)).cached then s.homePut 0 (pa / 128) [(pa % 128, b.2)]
    else { s with frames := memSet pa b.2 s.frames }) s
/-- A firmware copse on a core, of no launch and no interface: each stand has 256 vector and 128 uniform registers, all zero. -/
def State.startFirmware (s : State) (core : Nat) (entry : Word64) (stands alloc : Nat) (code : List Byte) : State :=
  if !s.maintTime || !allFields.contains (fieldOfCore core) || stands = 0 || 16 < stands || !s.fits core stands 256 alloc then s
  else
    let s := s.firmPut entry.toNat code
    let id := s.nextId
    let c : Copse :=
      { Copse.init with
        life := .resident
        nst := stands
        core := core
        kind := coreKind core
        engine := Config.copyEngine id core % 8
        vregs := 256
        uregs := 128
        alloc := alloc
        maint := true }
    let s := { s with nextId := id + 1 }.setCopse id c
    let co := s.coreAt core
    let s := (s.setCore core (co.redeal (co.order ++ [id]))).rebase core
    (List.range stands).foldl (fun s i =>
      s.setStand (16 * id + i) { Stand.init with life := .live, copse := id, idx := i, pc := entry, a := allLanes }) s

/-! ### SEAL to READY (R455) -/

/-- SEAL waits until every maintenance stand has exited (R457); then the map is sealed and the cores leave maintenance mode, their
channels empty (R341). -/
def State.seal (s : State) : State :=
  if s.boot.phase ≠ .seal ∨ s.copses.any (fun c => c.2.maint && c.2.life == .resident) then s
  else
    let s := { s with cores := s.cores.map (fun (c : Nat × Core) => (c.1, { c.2 with chans := [], stopped := false })) }
    s.setBoot { s.boot with
      phase := .enum
      maint := false
      sealed := true
      bgen := 1
      gens := []
      cache := BitVec.ofNat 13 (4 * s.boot.slices.length)
      meas4 := Config.mapDigest s.boot.clusters s.boot.slices }
def execSeal (s : State) : Host.Outcome State Fault Refusal := .next s.seal
/-- ENUM: every exposed slice in set 0 of interface 0's domain, in force. -/
def State.enumUp (s : State) : State :=
  if s.boot.phase ≠ .enum ∨ s.boot.ports = true then s
  else
    let n := s.boot.slices.length
    let set0 : DomSet := ⟨BitVec.ofNat 11 n, BitVec.ofNat 14 (hmaskFor n), 0, s.boot.slices⟩
    { s with vis := [(0, { Vi.init with dom := { Vi.init.dom with set0 := set0 } }.noteSites s.boot.bgen.toNat)] }.setBoot { s.boot with ports := true }
def execEnum (s : State) : Host.Outcome State Fault Refusal := .next s.enumUp
def State.readyUp (s : State) : State := if s.boot.phase = .enum ∧ s.boot.ports = true then s.setBoot { s.boot with phase := .ready } else s
def execReady (s : State) : Host.Outcome State Fault Refusal := .next s.readyUp

/-! ### SPDM (R451, R456) -/

/-- An answer, from SIGCHK onward. -/
def State.spdm (s : State) (pf req arg : Nat) (data : List (BitVec 384)) : State :=
  if s.boot.phase = .rom ∨ 4 ≤ pf then s else { s with answers := s.answers ++ [.spdm pf req arg data] }
/-- A measurement block. -/
def State.measure (s : State) (i : Nat) : BitVec 384 :=
  if i = 1 then Config.romDigest else if i = 2 then s.boot.meas2 else if i = 3 then s.boot.meas3 else if i = 4 then s.boot.meas4
  else Config.fusedVersion.setWidth 384
/-- The blocks that a request names: one, or all by 0xFF. -/
def State.measured (s : State) (index : Nat) : List (BitVec 384) :=
  if index = 0xFF then (List.range 5).map (fun i => s.measure (i + 1)) else if 1 ≤ index ∧ index ≤ 5 then [s.measure index] else []
/-- SPDM 1.3, and the selections ECDSA P-384 and SHA-384, by the codes of DMTF's standard; GET_DIGESTS names slot 0 alone. -/
def spdmVersion : BitVec 384 := 0x13
def ecdsaP384 : BitVec 384 := 0x80
def sha384 : BitVec 384 := 0x02
def execGetVersion (pf : Nat) (s : State) : Host.Outcome State Fault Refusal := .next (s.spdm pf 0 0 [spdmVersion, Config.spdmBytes 0 0 pf])
def execGetCapabilities (pf : Nat) (s : State) : Host.Outcome State Fault Refusal := .next (s.spdm pf 1 0 [Config.spdmBytes 1 0 pf])
def execNegotiateAlgorithms (pf : Nat) (s : State) : Host.Outcome State Fault Refusal := .next (s.spdm pf 2 0 [ecdsaP384, sha384, Config.spdmBytes 2 0 pf])
def execGetDigests (pf : Nat) (s : State) : Host.Outcome State Fault Refusal := .next (s.spdm pf 3 0 [1, Config.spdmBytes 3 0 pf])
def execGetCertificate (pf slot : Nat) (s : State) : Host.Outcome State Fault Refusal :=
  .next (s.spdm pf 4 slot (if slot = 0 then [Config.spdmBytes 4 0 pf] else []))
def execChallenge (pf nonce : Nat) (s : State) : Host.Outcome State Fault Refusal := .next (s.spdm pf 5 nonce [Config.spdmBytes 5 nonce pf])
def execGetMeasurements (pf index : Nat) (s : State) : Host.Outcome State Fault Refusal := .next (s.spdm pf 6 index (s.measured index))

end Sys2Proof.Machine
end

