-- ==== Sys2Proof/Machine/Atomics.lean ====
section
/-! DEFINITION. Class 0xB: atomics and the record instructions (spec/15). -/

namespace Sys2Proof.Machine

/-! ### Atomics (R344-R352) -/

/-- The launch of the executing stand is deterministic. -/
def State.det (s : State) : Bool := s.myLaunch.det
/-- What an atomic needs of its word: instruction, head, space, type, mask, hint, order. -/
structure AtomReq where
  i : Instr
  h : Head
  global : Bool
  ty : Nat
  sm : Byte
  ph : BitVec 2
  ord : BitVec 2
  /-- The operation of R349; none for `atom.cas`. -/
  op : Option Nat
/-- Bytes of an element. -/
def AtomReq.size (a : AtomReq) : Nat := tyBits a.ty / 8
def AtomReq.trap (a : AtomReq) (cls cause addr : Nat) (ts : List Nat) : TrapReq :=
  accessTrap a.i a.h.uni cls cause addr 3 (!a.global) a.sm ts
/-- Where the atomics of a word act: the physical address, or the offset in the scratchpad (R344). -/
def State.atomReach (s : State) (a : AtomReq) (xs : List (Nat × Nat)) : Reach :=
  if a.global then s.reach a.i a.h.uni .write 3 a.sm xs else s.scratchReach a.i a.h.uni true 3 a.size xs
/-- One thread's atomic (R350): the old value and the state after; nothing is written when `g` gives none. -/
def State.atomStep (s : State) (a : AtomReq) (p : Nat) (g : Nat → Option Nat) : Nat × State :=
  if a.global then s.rmw s.cur a.sm a.ph p a.size g
  else
    let old := s.myCopse.get p a.size
    match g old with
    | none => (old, s)
    | some x =>
      let s := s.keepSources (copseOf s.cur) (linesOf p a.size)
      (old, s.setMyCopse (s.myCopse.put p (bytesOf x a.size)))
/-- The threads' atomics in ascending lane order (R346). -/
def State.atomSteps (s : State) (a : AtomReq) (g : Nat → Nat → Option Nat) : List (Nat × Nat × Nat) → Tbl Nat × State
  | [] => ([], s)
  | (t, _, p) :: r =>
    let (old, s) := s.atomStep a p (g t)
    let (rest, s) := s.atomSteps a g r
    ((t, old) :: rest, s)
/-- A floating addition, whose result depends on the order: not performed under DET; minimum and maximum are order-free (R178, R182, R352,
log 83). -/
def AtomReq.ordered (a : AtomReq) : Bool := tyF a.ty && a.op == some 0
/-- The faults of R265 and R352 that come before an atomic's effect; a vector word in which no thread takes part has none. -/
def State.atomBad (s : State) (a : AtomReq) (xs : List (Nat × Nat)) : Option TrapReq :=
  match memBad s.myCopse a.global true a.size xs with
  | some (c, ea, ts) => some (a.trap 4 c ea ts)
  | none =>
    if a.ordered && s.det && xs != [] then some { a.trap 7 1 ((xs.map Prod.snd).headD 0) [] with fmask := s.me.fmask a.h }
    else none
/-- An atomic or an ordered `red` (R350, R300, R301): `fin` gets the old values. -/
def State.atomic (s : State) (a : AtomReq) (xs : List (Nat × Nat)) (g : Nat → Nat → Option Nat) (fin : State → Tbl Nat → Eff) : Eff :=
  let k := s.cur
  match s.atomBad a xs with
  | some r => .trap r
  | none =>
    if xs = [] then fin s []
    else match s.atomReach a xs with
    | .trap r => .trap r
    | .wait s => .stay s
    | .go s ys =>
      if a.global && s.me.fenceM.isSome then .stay s
      else if a.global && ys.any (fun y => s.rmwWaits (s.coreOf k) a.sm y.2.2) then .stay (s.holdWord (ys.map (fun y => y.2.2 / 128)))
      else
        let rel := if a.ord.getLsbD 1 then s.release k a.sm else (true, s)
        match rel with
        | (false, s) => .stay s
        | (true, s) =>
          let (tbl, s) := s.atomSteps a g ys
          fin (if a.ord.getLsbD 0 then s.acquire k a.sm else s) tbl

/-- The element of each thread in a register field. -/
def State.elemOf (s : State) (uni : Bool) (o : Opd) (ty t : Nat) : Nat :=
  (s.srcVal s.cur uni (tyBits ty == 64) o t).toNat % 2 ^ tyBits ty
/-- The result of `atom` and `atom.cas`. -/
def atomPend (uni : Bool) (p : Mask) (o : Opd) (ty : Nat) (tbl : Tbl Nat) : Pend :=
  outVals uni p o (tyBits ty == 64) (fun t => outTy ty (tget 0 tbl t))

/-- SP and the operation of MOD. -/
def M96.sp (f : M96) : Bool := f.md.getLsbD 3
def M96.op (f : M96) : Nat := f.md.toNat % 8
/-- A register role without a channel. -/
def regIn (w : Nat) : Role := .src (if w = 64 then 2 else 1) 1 (w == 64) false
def regOut (w : Nat) : Role := .dst (if w = 64 then 2 else 1) 1 (w == 64) false
def atomReq (i : Instr) (f : M96) : AtomReq := ⟨i, f.h, !(M96.sp f), f.ty.toNat, f.sm, f.ph, f.ord, some (M96.op f)⟩
/-- SM and PH of an atomic (R347, R348). -/
def atomHints (sp : Bool) (sm : Byte) (ph : BitVec 2) : Bool := ph != 3 && (!sp || (spMask sm && ph == 0))
def formAtom (f : M96) : Form :=
  { h := f.h, ops := [(f.ab, abRole (!(M96.sp f))), (f.dr, regOut (tyBits f.ty.toNat))],
    bad := [badTy (atomTyOk (M96.op f) f.ty.toNat), mustZero (f.vc == 0 && f.md.toNat < 16 && atomHints (M96.sp f) f.sm f.ph)],
    long := true, mustFlag := true }
def bodyAtom (f : M96) (s : State) : Eff :=
  let ty := f.ty.toNat
  let p := s.me.part f.h
  let x (t : Nat) : Nat := s.elemOf f.h.uni f.dr ty t
  s.atomic (atomReq (.atom f) f) (s.eas f.h f.ab (M96.ofsInt f) (!(M96.sp f))) (fun t old => some (atomOp (M96.op f) ty old (x t)))
    (fun s tbl => .long s (atomPend f.h.uni p f.dr ty tbl))
def execAtom (f : M96) (s : State) : Host.Outcome State Fault Refusal := word (.atom f) (formAtom f) (bodyAtom f) s

def formRed (f : M96) : Form :=
  { h := f.h, ops := [(f.ab, abRole (!(M96.sp f))), (f.dr, regIn (tyBits f.ty.toNat))],
    bad := [badTy (atomTyOk (M96.op f) f.ty.toNat),
            mustZero (f.vc == 0 && f.md.toNat < 16 && M96.op f != 6 && (f.ord == 0 || f.ord == 2) && atomHints (M96.sp f) f.sm f.ph)] }
def bodyRed (f : M96) (s : State) : Eff :=
  let a := atomReq (.red f) f
  let x (t : Nat) : Nat := s.elemOf f.h.uni f.dr a.ty t
  let xs := s.eas f.h f.ab (M96.ofsInt f) a.global
  if a.global && f.ord == 0 then
    match s.atomBad a xs with
    | some r => .trap r
    | none => s.writeElems a.i f.h.uni (xs.map (fun y => (y.1, y.2, a.size, x y.1))) f.sm f.ph (some (BitVec.ofNat 3 (M96.op f), f.ty)) id
  else s.atomic a xs (fun t old => some (atomOp (M96.op f) a.ty old (x t))) (fun s _ => .done s)
def execRed (f : M96) (s : State) : Host.Outcome State Fault Refusal := word (.red f) (formRed f) (bodyRed f) s

/-- Contributions that a cell holds under DET (R352). -/
def cellLimit : Nat := 65536
/-- The phase that a contribution belongs to: the open one while its member has still to arrive in it, else the next. -/
def Grove.cellPhase (g : Grove) (stand : Nat) : Nat :=
  match g.member stand with
  | some m => if m.st = .counted then g.phase else g.phase + 1
  | none => g.phase + 1
/-- The order of joining of a member. -/
def Grove.joinedAt (g : Grove) (stand : Nat) : Nat := match g.member stand with | some m => m.joined | none => 0
/-- One contribution (R351), held when the launch of its stand is deterministic. -/
def State.contribute (s : State) (key k x : Nat) : State :=
  let g := s.groveAt key
  if (s.launchAt (s.copseAt (copseOf k)).launch).det then
    { s with nextId := s.nextId + 1 }.setGrove key
      { g with contribs := g.contribs ++ [({ phase := g.cellPhase k, ord := s.memberOrd k, joined := g.joinedAt k, n := s.nextId, stand := k,
                                             x := BitVec.ofNat 64 x } : Contrib)] }
  else s.setGrove key { g with value := BitVec.ofNat 64 (atomOp g.cop.toNat g.cty.toNat g.value.toNat x) }
def formRedCell (f : M96) : Form :=
  { h := f.h, ops := [(f.ab, .num 16 6), (f.dr, regIn (tyBits f.ty.toNat))],
    bad := [badTy (atomTyOk (M96.op f) f.ty.toNat),
            mustZero (f.vc == 0 && f.md.toNat / 8 == 2 && M96.op f != 6 && f.ord == 0 && f.ph == 0 && f.sm == 0 && f.ofs == 0)] }
/-- A contribution is an event of its grove as well, so it follows the stand's earlier ones (R376). -/
def bodyRedCell (f : M96) (s : State) : Eff :=
  let k := s.cur
  let i : Instr := .redCell f
  let fail (c : Nat) : Eff := .trap { trapOf i 7 c with fmask := s.me.fmask f.h }
  match s.me.doing f.h with
  | [] => .done s
  | ts => if s.groveQ.any (fun e => e.stand == k) then .stay s else match tfind f.ab.num.toNat s.me.g with
    | none => fail 2
    | some h =>
      let g := s.groveAt h.grec
      if !s.handleLive k h || !g.cell then fail 2
      else if g.cop.toNat ≠ M96.op f ∨ g.cty ≠ f.ty then fail 3
      else if s.det && cellLimit ≤ g.contribs.length then fail 4
      else .done (ts.foldl (fun s t => s.contribute h.grec k (s.elemOf f.h.uni f.dr f.ty.toNat t)) s)
def execRedCell (f : M96) (s : State) : Host.Outcome State Fault Refusal := word (.redCell f) (formRedCell f) (bodyRedCell f) s

/-- Fields of `atom.cas` (R348). -/
def casReq (f : W128) : AtomReq :=
  ⟨.atomCas f, f.h, !f.imm.getLsbD 34, f.md.toNat % 32, f.imm.extractLsb' 24 8, f.imm.extractLsb' 32 2, BitVec.ofNat 2 (f.md.toNat / 32), none⟩
def casTy (ty : Nat) : Bool := ty == 0x0A || ty == 0x0B || ty == 2 || ty == 6 || ty == 3 || ty == 7
def formAtomCas (f : W128) : Form :=
  let a := casReq f
  { h := f.h, ops := [(f.sa, abRole a.global), (f.sb, regIn (tyBits a.ty)), (f.dst, regOut (tyBits a.ty))],
    bad := [badTy (casTy a.ty), mustZero (f.imm.toNat < 2 ^ 35 && atomHints (!a.global) a.sm a.ph)], long := true }
def bodyAtomCas (f : W128) (s : State) : Eff :=
  let a := casReq f
  let p := s.me.part f.h
  let x (t : Nat) : Nat := s.elemOf f.h.uni f.dst a.ty t
  let c (t : Nat) : Nat := s.elemOf f.h.uni f.sb a.ty t
  s.atomic a (s.eas f.h f.sa (sextNat 24 (f.imm.toNat % 2 ^ 24)) a.global) (fun t old => if old = c t then some (x t) else none)
    (fun s tbl => .long s (atomPend f.h.uni p f.dst a.ty tbl))
def execAtomCas (f : W128) (s : State) : Host.Outcome State Fault Refusal := word (.atomCas f) (formAtomCas f) (bodyAtomCas f) s

/-! ### Record instructions (R353, R361-R366) -/

/-- The form of a record instruction (R361). -/
def recForm (f : A64) (dst sb : Role) : Form :=
  { h := f.h, ops := [(f.sa, .usrc 1 false), (f.sb, sb), (f.dst, dst)], bad := [onlyUni f.h, badTy (f.ty == 0), mustZero (f.md == 0)] }
/-- PRT cause 0x05 of a record instruction (R353). -/
def recTrap (i : Instr) (o : Nat) : TrapReq := accessTrap i true 5 5 o 0xB true 0 []
/-- The operand word of a record instruction. -/
def State.recWord (s : State) (f : A64) : Nat := (s.rdS s.cur f.sa.num.toNat).toNat
def State.recOff (s : State) (f : A64) : Nat := s.recWord f % 65536
/-- Naming a line of a region touches it (R261). -/
def State.touchRec (s : State) (o : Nat) : State := s.touchLine (copseOf s.cur) (o / 128)
/-- A line of a region has not been touched: no room for its fill (R318). -/
def Copse.untouched (c : Copse) (l : Nat) : Bool := !(c.lineAt l).touched && (c.lineAt l).region != 0
/-- Runs a record instruction whose record must be valid. -/
def onRecord (i : Instr) (f : A64) (s : State) (body : Nat → State → Eff) : Eff :=
  let o := s.recOff f
  if s.myCopse.recOk o then body o (s.touchRec o) else .trap (recTrap i o)

/-- The record that `crinit` writes (R354, R355, R362). -/
def recNew (a e : Nat) : Nat :=
  (List.range 4).foldl (fun r i => setEXPL (setBits r (64 + 48 * i + 4) (64 + 48 * i) (bits a (20 + 5 * i) (16 + 5 * i))) i
    (bits e (14 + 10 * i) (5 + 10 * i))) (16 + bits e 4 0 * 256)
/-- The status of `crinit`, in its order (R362). -/
def Copse.crinitStatus (c : Copse) (o a e : Nat) : Nat :=
  let x := c.lineAt (o / 128)
  if x.bm && recVALID (c.get o 32) == 1 then 1
  else if !ewOk e || (List.range 4).any (fun i => 16 < bits a (20 + 5 * i) (16 + 5 * i)) || bits a 63 36 != 0 then 2
  else if !x.full && x.filler.isSome then 3 else 0
def bodyCrinit (f : A64) (s : State) : Eff :=
  let k := s.cur
  let o := s.recOff f
  let a := s.recWord f
  let e := (s.rdS k f.sb.num.toNat).toNat
  if !s.myCopse.recPlaceOk o then .trap (recTrap (.crinit f) o)
  else
    let s := s.touchRec o
    if s.myCopse.untouched (o / 128) then .stay s
    else
    let st := s.myCopse.crinitStatus o a e
    let s := if st ≠ 0 then s
      else
        let s := s.setRec (copseOf k) o (recNew a e)
        s.setMyCopse (s.myCopse.setLine (o / 128) { s.myCopse.lineAt (o / 128) with bm := true })
    s.now { Pend.empty with sw := [(f.dst.num.toNat, BitVec.ofNat 64 st)] }
def formCrinit (f : A64) : Form := recForm f (.udst 1) (.usrc 1 false)
def execCrinit (f : A64) (s : State) : Host.Outcome State Fault Refusal := word (.crinit f) (formCrinit f) (bodyCrinit f) s

/-- `crexp` (R363). -/
def bodyCrexp (f : A64) (s : State) : Eff :=
  onRecord (.crexp f) f s (fun o s =>
    let k := s.cur
    let e := (s.rdS k f.sb.num.toNat).toNat
    let r := s.recAt (copseOf k) o
    let r' := (List.range 4).foldl (fun r i => setNEXPL r i (bits e (14 + 10 * i) (5 + 10 * i))) (setBits (setBits r 22 18 (bits e 4 0)) 3 3 1)
    let s := if ewOk e then s.setRec (copseOf k) o r' else s
    s.now { Pend.empty with sw := [(f.dst.num.toNat, if ewOk e then 0 else 2)] })
def formCrexp (f : A64) : Form := recForm f (.udst 1) (.usrc 1 false)
def execCrexp (f : A64) (s : State) : Host.Outcome State Fault Refusal := word (.crexp f) (formCrexp f) (bodyCrexp f) s

/-- An arrival of the executing stand (R359, R364): `w` for `arrive.w`. A stand that waits has its instruction behind it. -/
def arriveBody (i : Instr) (f : A64) (w : Bool) (s : State) : Eff :=
  onRecord i f s (fun o s =>
    let k := s.cur
    let copse := copseOf k
    let d := f.dst.num.toNat
    match s.release k maskCO with
    | (false, s) => .stay s
    | (true, s) =>
      let r := s.recAt copse o
      if recEXPS r ≤ recARRS r then
        .done ((s.setRec copse o (setBits r (48 + k % 16) (48 + k % 16) 1)).setStand k
          { s.standAt k with wait := .heldRec (BitVec.ofNat 16 o) d w })
      else
        let ph := recPH r
        let s := (s.setRec copse o (setBits r 17 13 (recARRS r + 1))).recCheck copse o recFuel
        if !w then s.now { Pend.empty with sw := [(d, BitVec.ofNat 64 (ph * 65536 + o))] }
        else match s.phaseNow copse o ph with
          | some b => s.now { Pend.empty with qw := [(d, b)] }
          | none => .done ((s.park k o).setStand k { (s.park k o).standAt k with wait := .record (BitVec.ofNat 16 o) (ph == 1) d }))
def formArrive (f : A64) : Form := recForm f (.udst 1) .none
def bodyArrive (f : A64) : State → Eff := arriveBody (.arrive f) f false
def execArrive (f : A64) (s : State) : Host.Outcome State Fault Refusal := word (.arrive f) (formArrive f) (bodyArrive f) s
def formArriveW (f : A64) : Form := recForm f .qdst .none
def bodyArriveW (f : A64) : State → Eff := arriveBody (.arriveW f) f true
def execArriveW (f : A64) (s : State) : Host.Outcome State Fault Refusal := word (.arriveW f) (formArriveW f) (bodyArriveW f) s

/-- `crwait` (R365). -/
def bodyCrwait (f : A64) (s : State) : Eff :=
  onRecord (.crwait f) f s (fun o s =>
    let k := s.cur
    let copse := copseOf k
    let ph := bits (s.recWord f) 16 16
    let d := f.dst.num.toNat
    match s.phaseNow copse o ph with
    | some b => s.now { Pend.empty with qw := [(d, b)] }
    | none => .done ((s.park k o).setStand k { (s.park k o).standAt k with wait := .record (BitVec.ofNat 16 o) (ph == 1) d }))
def formCrwait (f : A64) : Form := recForm f .qdst .none
def execCrwait (f : A64) (s : State) : Host.Outcome State Fault Refusal := word (.crwait f) (formCrwait f) (bodyCrwait f) s

/-- `crinv` (R366). -/
def bodyCrinv (f : A64) (s : State) : Eff :=
  onRecord (.crinv f) f s (fun o s =>
    let copse := copseOf s.cur
    let r := s.recAt copse o
    let of (m : Nat) : List Nat := ((List.range 16).filter (fun k => bitAt m k)).map (fun k => 16 * copse + k)
    let s := (of (recPARK r)).foldl (fun s k => s.wakeRec k false) s
    let s := (of (recHELD r)).foldl (fun s k => s.releaseHeld k o (recPH r) true) s
    let s := s.setRec copse o 0
    let l := o / 128
    let c := s.copseAt copse
    let left := (List.range 4).any (fun j => recVALID (c.get (128 * l + 32 * j) 32) == 1)
    .done (s.setCopse copse (if left then c else c.setLine l { c.lineAt l with bm := false })))
def formCrinv (f : A64) : Form := recForm f .none .none
def execCrinv (f : A64) (s : State) : Host.Outcome State Fault Refusal := word (.crinv f) (formCrinv f) (bodyCrinv f) s

end Sys2Proof.Machine
end

