-- ==== Sys2Proof/Machine/Functions.lean ====
section
/-! DEFINITION. The functions of class 0x5 (spec/08 R191, R192). `frcp` and `fsqrt` are correctly rounded. The other five have stated
values and a stated bound: elsewhere the result is a free constant of the part (Config.fnValue), as long as it keeps the bound. The
bound is judged against the function in fixed point with 200 fractional bits. -/

namespace Sys2Proof.Machine

/-- Square root of a number below 4^n, rounded down, bit by bit. -/
def isqrt (x : Nat) : Nat → Nat → Nat
  | 0, r => r
  | n + 1, r => isqrt x n (if (r + 2 ^ n) * (r + 2 ^ n) ≤ x then r + 2 ^ n else r)

/-- The unit of the fixed-point values: 2^-200. -/
def fxOne : Int := 2 ^ 200
/-- m times 2^e in fixed point. -/
def fxOf (neg : Bool) (m : Nat) (e : Int) : Int :=
  let x : Int := ((m * 2 ^ (e + 200).toNat / 2 ^ (-(e + 200)).toNat : Nat) : Int)
  if neg then -x else x

/-- 1/sqrt a for a = m times 2^e. -/
def fxRsqrt (m : Nat) (e : Int) : Int := (isqrt (2 ^ (400 - e).toNat / m) 300 0 : Nat)

/-- The square roots of two in turn: 2^(1/2), 2^(1/4), … multiplied in for the bits of a fraction of 200 bits. -/
def expBits (f : Nat) : Nat → Nat → Nat → Nat
  | 0, _, acc => acc
  | n + 1, c, acc =>
    let r := isqrt (c * 2 ^ 200) 201 0
    expBits f n r (if bitAt f n then acc * r / 2 ^ 200 else acc)
/-- 2^a, for a limited to ±400; it is never zero. -/
def fxExp2 (neg : Bool) (m : Nat) (e : Int) : Int :=
  let x := max (-400 * fxOne) (min (400 * fxOne) (fxOf neg m e))
  let n := x / fxOne
  let y := expBits (x % fxOne).toNat 200 (2 ^ 201) (2 ^ 200)
  max 1 ((y * 2 ^ n.toNat / 2 ^ (-n).toNat : Nat) : Int)

/-- Binary digits of log2 of x / 2^400 in [1, 2), by squaring. -/
def logBits : Nat → Nat → Nat → Nat
  | 0, _, acc => acc
  | n + 1, x, acc =>
    let y := x * x / 2 ^ 400
    if 2 ^ 401 ≤ y then logBits n (y / 2) (2 * acc + 1) else logBits n y (2 * acc)
/-- log2 of m times 2^e, with 180 fractional bits. -/
def fxLog2 (m : Nat) (e : Int) : Int :=
  let k := Nat.log2 m
  let x := m * 2 ^ 400 / 2 ^ k
  ((e + k) * 2 ^ 180 + (logBits 180 x 0 : Nat)) * 2 ^ 20

/-- pi with 256 fractional bits. -/
def piBits : Nat := 0x3243F6A8885A308D313198A2E03707344A4093822299F31D0082EFA98EC4E6C89
/-- The terms of a sine or cosine series. -/
def fxSeries (x2 : Int) : Nat → Nat → Int → Int → Int
  | 0, _, _, acc => acc
  | n + 1, k, t, acc => fxSeries x2 n (k + 2) (-(t * x2 / fxOne) / ((k + 1) * (k + 2) : Nat)) (acc + t)
/-- Sine and cosine after the whole turns are taken off; the cosine of a number other than 0 lies below 1. -/
def fxSin (neg : Bool) (m : Nat) (e : Int) : Int :=
  let x := fxOf neg m e % (piBits / 2 ^ 55 : Nat)
  fxSeries (x * x / fxOne) 60 1 x 0
def fxCos (neg : Bool) (m : Nat) (e : Int) : Int :=
  let x := fxOf neg m e % (piBits / 2 ^ 55 : Nat)
  min (fxOne - 1) (fxSeries (x * x / fxOne) 60 0 fxOne 0)

/-- The value of a code in fixed point; an infinity stands at the first value beyond the range, a NaN nowhere. -/
def fxCode (f : FF) (x : Nat) : Option Int :=
  match f.decode x with
  | .nan .. => none
  | .inf n => some (fxOf n (2 ^ f.mbits) ((2 ^ f.ebits : Nat) - 2 + f.emin))
  | .num n m e => some (fxOf n m e)
/-- One unit in the last place at a value: the unit of the binade in which the exact value lies, at a power of two that of the binade above
it, and beyond the range of the format the unit that the binade would have there; the spec does not define it (DESIGN CHOICE, log 20). -/
def fxUlp (f : FF) (x : Int) : Int :=
  if x = 0 then fxOf false 1 f.emin else fxOf false 1 (max f.emin (leadExp x.natAbs 1 (-200) - f.mbits))

/-- The free result, if it lies within a tolerance of a value; else the value rounded. -/
def fnPick (f : FF) (cand : Nat) (x tol : Int) : Nat :=
  let near := match fxCode f cand with | some y => decide ((y - x).natAbs ≤ tol.natAbs) | none => false
  if near then cand else f.round 0 false (decide (x < 0)) x.natAbs 1 (-200)

/-- The constant of the part for a function, a format and an operand. -/
def fnCand (fn : Nat) (f : FF) (a : Nat) : Nat :=
  Config.fnValue fn (if f = .f32 then 0 else 1) (a % 2 ^ f.width) % 2 ^ f.width
/-- Bounds in units of the last place. -/
def fnTol (f : FF) (n : Nat) (x : Int) : Int := (if f = .f32 then (n : Int) else 1) * fxUlp f x

/-- `frcp` (R191). -/
def fnRcp (f : FF) (rm a : Nat) : Nat :=
  match f.decode a with
  | .nan n fr b => f.quiet n fr b
  | .inf n => f.signed n 0
  | .num n m e => if m = 0 then f.signed n f.infCode else f.round rm false n 1 m (-e)
/-- `fsqrt` (R191). -/
def fnSqrt (f : FF) (rm a : Nat) : Nat :=
  match f.decode a with
  | .nan n fr b => f.quiet n fr b
  | .inf n => if n then f.nan else f.infCode
  | .num n m e =>
    if m = 0 then f.signed n 0
    else if n then f.nan
    else
      let x := m * 2 ^ ((e % 2).toNat + 128)
      let r := isqrt x 120 0
      f.round rm false false (2 * r + (if r * r = x then 0 else 1)) 1 ((e - e % 2 - 128) / 2 - 1)
/-- `frsq` (R191). -/
def fnRsq (f : FF) (a : Nat) : Nat :=
  match f.decode a with
  | .nan n fr b => f.quiet n fr b
  | .inf n => if n then f.nan else 0
  | .num n m e =>
    if m = 0 then f.signed n f.infCode
    else if n then f.nan
    else fnPick f (fnCand 0 f a) (fxRsqrt m e) (fnTol f 1 (fxRsqrt m e))
/-- `fexp2` (R191): exact at integers with a representable result. -/
def fnExp2 (f : FF) (a : Nat) : Nat :=
  match f.decode a with
  | .nan n fr b => f.quiet n fr b
  | .inf n => if n then 0 else f.infCode
  | .num n m e =>
    let x := fxOf n m e
    let k := x / fxOne
    if x % fxOne = 0 ∧ (m = 0 ∨ -200 ≤ e) ∧ f.emin ≤ k ∧ k ≤ f.bias then f.round 0 false false 1 1 k
    else fnPick f (fnCand 1 f a) (fxExp2 n m e) (fnTol f 2 (fxExp2 n m e))
/-- `flog2` (R191): exact at powers of two; an absolute bound for .f32 within [0.5, 2]. -/
def fnLog2 (f : FF) (a : Nat) : Nat :=
  match f.decode a with
  | .nan n fr b => f.quiet n fr b
  | .inf n => if n then f.nan else f.infCode
  | .num n m e =>
    if m = 0 then f.signed true f.infCode
    else if n then f.nan
    else
      let k : Int := (Nat.log2 m : Int) + e
      if m = 2 ^ Nat.log2 m then f.round 0 false (decide (k < 0)) k.natAbs 1 0
      else
        let x := fxLog2 m e
        let inside := decide (-1 ≤ k) && decide (k ≤ 0)
        fnPick f (fnCand 2 f a) x (if f = .f32 ∧ inside then fxOf false 1 (-22) else fnTol f 2 x)
/-- Sine and cosine (R191): beyond 32,768 any value in [-1, 1]. -/
def fnTrig (fn : Nat) (f : FF) (a : Nat) (n : Bool) (m : Nat) (e : Int) (x : Int) : Nat :=
  if 32768 * fxOne < (fxOf n m e).natAbs then
    match fxCode f (fnCand fn f a) with
    | some y => if y.natAbs ≤ fxOne.natAbs then fnCand fn f a else 0
    | none => 0
  else fnPick f (fnCand fn f a) x (if f = .f32 then fxOf false 1 (-21) else fnTol f 1 x)
def fnSin (f : FF) (a : Nat) : Nat :=
  match f.decode a with
  | .nan n fr b => f.quiet n fr b
  | .inf _ => f.nan
  | .num n m e => if m = 0 then f.signed n 0 else fnTrig 3 f a n m e (fxSin n m e)
def fnCos (f : FF) (a : Nat) : Nat :=
  match f.decode a with
  | .nan n fr b => f.quiet n fr b
  | .inf _ => f.nan
  | .num n m e => if m = 0 then f.round 0 false false 1 1 0 else fnTrig 4 f a n m e (fxCos n m e)

end Sys2Proof.Machine
end

