-- ==== Sys2Proof/Machine/Float.lean ====
section
/-! DEFINITION. Classes 0x4, 0x5 and 0x6: vector floating point, functions, FP64, conversion and K4O blocks (spec/08 R184-R199). -/

namespace Sys2Proof.Machine

/-- The types .f32, .f16 and .bf16, and the last two (R185). -/
def f3Ty (ty : Nat) : Bool := ty == 0x0E || ty == 0x0C || ty == 0x0D
def halfTy (ty : Nat) : Bool := ty == 0x0C || ty == 0x0D
/-- The types of the functions. -/
def fnTy (ty : Nat) : Bool := ty == 0x0E || ty == 0x0C

/-- A word whose result in each thread is a function of its sources there, fixed or long-latency. -/
def floatWord (h : Head) (long : Bool) (srcs : List (Opd × Bool)) (dst : Opd) (ty : Nat) (g : List Src → Nat → Nat) (s : State) : Eff :=
  let (vs, s) := s.srcs s.cur h.uni srcs
  s.results long (outVals h.uni (s.me.part h) dst (tyBits ty == 64) (fun t => outTy ty (g vs t)))

/-- Two sources of one type, A64. -/
def fbinForm (f : A64) (ok md long : Bool) (weight : Nat) : Form :=
  let w := tyBits f.ty.toNat
  { h := f.h, ops := [(f.sa, .val w), (f.sb, .val w), (f.dst, .out w)], bad := [badTy ok, mustZero md], long := long, weight := weight }
def fbinBody (f : A64) (long : Bool) (g : FF → Nat → Nat → Nat) : State → Eff :=
  let ty := f.ty.toNat
  let w := tyBits ty == 64
  floatWord f.h long [(f.sa, w), (f.sb, w)] f.dst ty (fun vs t => g (ffOf ty) (srcN vs 0 t) (srcN vs 1 t))

/-! ### Class 0x4 -/

def formFadd (f : A64) : Form := fbinForm f (f3Ty f.ty.toNat) true false 2
def bodyFadd (f : A64) : State → Eff := fbinBody f false (fun t a b => t.add f.md.toNat a b)
def execFadd (f : A64) (s : State) : Host.Outcome State Fault Refusal := word (.fadd f) (formFadd f) (bodyFadd f) s
def formFsub (f : A64) : Form := fbinForm f (f3Ty f.ty.toNat) true false 2
def bodyFsub (f : A64) : State → Eff := fbinBody f false (fun t a b => t.sub f.md.toNat a b)
def execFsub (f : A64) (s : State) : Host.Outcome State Fault Refusal := word (.fsub f) (formFsub f) (bodyFsub f) s
def formFmul (f : A64) : Form := fbinForm f (f3Ty f.ty.toNat) true false 2
def bodyFmul (f : A64) : State → Eff := fbinBody f false (fun t a b => t.mul f.md.toNat a b)
def execFmul (f : A64) (s : State) : Host.Outcome State Fault Refusal := word (.fmul f) (formFmul f) (bodyFmul f) s
/-- `fscale` reads SB as .i32 (R186). -/
def formFscale (f : A64) : Form :=
  let w := tyBits f.ty.toNat
  { h := f.h, ops := [(f.sa, .val w), (f.sb, .val 32), (f.dst, .out w)], bad := [badTy (f3Ty f.ty.toNat)], weight := 2 }
def bodyFscale (f : A64) : State → Eff := fbinBody f false (fun t a b => t.scale f.md.toNat a (sextNat 32 b))
def execFscale (f : A64) (s : State) : Host.Outcome State Fault Refusal := word (.fscale f) (formFscale f) (bodyFscale f) s
def formFmin (f : A64) : Form := fbinForm f (f3Ty f.ty.toNat) (f.md.toNat ≤ 1) false 2
def bodyFmin (f : A64) : State → Eff := fbinBody f false (fun t a b => t.minmax false (f.md == 1) a b)
def execFmin (f : A64) (s : State) : Host.Outcome State Fault Refusal := word (.fmin f) (formFmin f) (bodyFmin f) s
def formFmax (f : A64) : Form := fbinForm f (f3Ty f.ty.toNat) (f.md.toNat ≤ 1) false 2
def bodyFmax (f : A64) : State → Eff := fbinBody f false (fun t a b => t.minmax true (f.md == 1) a b)
def execFmax (f : A64) (s : State) : Host.Outcome State Fault Refusal := word (.fmax f) (formFmax f) (bodyFmax f) s

/-- A float comparison (R189). -/
def fcmpForm (f : A64) (ok long : Bool) (weight : Nat) : Form :=
  let w := tyBits f.ty.toNat
  { h := f.h, ops := [(f.sa, .val w), (f.sb, .val w), (f.dst, .pred)], bad := [badTy ok], long := long, weight := weight }
def fcmpBody (f : A64) (long : Bool) (s : State) : Eff :=
  let ty := f.ty.toNat
  let w := tyBits ty == 64
  let (vs, s) := s.srcs s.cur f.h.uni [(f.sa, w), (f.sb, w)]
  s.results long (outPred f.h.uni (s.me.part f.h) f.dst.num.toNat
    (fun t => (ffOf ty).cmp f.md.toNat (srcN vs 0 t % 2 ^ tyBits ty) (srcN vs 1 t % 2 ^ tyBits ty)))
def formFcmp (f : A64) : Form := fcmpForm f (f3Ty f.ty.toNat) false 2
def bodyFcmp (f : A64) : State → Eff := fcmpBody f false
def execFcmp (f : A64) (s : State) : Host.Outcome State Fault Refusal := word (.fcmp f) (formFcmp f) (bodyFcmp f) s

/-- The class of a value (R190). -/
def fclassBit (f : FF) (x : Nat) : Nat :=
  match f.decode x with
  | .nan _ fr b => if bitAt fr (b - 1) then 9 else 8
  | .inf n => if n then 0 else 7
  | .num n m _ =>
    if m = 0 then (if n then 3 else 4)
    else if m < 2 ^ f.mbits then (if n then 2 else 5)
    else (if n then 1 else 6)
/-- `fclass` (R190): long-latency with .f64 only. -/
def formFclass (f : A64) : Form :=
  let ty := f.ty.toNat
  { h := f.h, ops := [(f.sa, .val (tyBits ty)), (f.sb, .none), (f.dst, .out 32)],
    bad := [badTy (f3Ty ty || ty == 0x0F), mustZero (f.md == 0)], long := ty == 0x0F, weight := 2 }
def bodyFclass (f : A64) : State → Eff :=
  let ty := f.ty.toNat
  floatWord f.h (f.ty == 0x0F) [(f.sa, tyBits ty == 64)] f.dst 0xA
    (fun vs t => 2 ^ fclassBit (ffOf ty) (srcN vs 0 t % 2 ^ tyBits ty))
def execFclass (f : A64) (s : State) : Host.Outcome State Fault Refusal := word (.fclass f) (formFclass f) (bodyFclass f) s

/-- The T96 float forms with RM in MOD[1:0] (R185, R187). -/
def ffmaForm (f : T96) (ok long : Bool) (w weight : Nat) : Form :=
  { h := f.h, ops := [(f.sa, .val w), (f.sb, .val w), (f.sc, .val w), (f.dst, .out w)],
    bad := [badTy ok, mustZero (f.md.toNat < 4 && f.imm == 0)], long := long, weight := weight }
def fmaBody (f : T96) (long : Bool) (ty : Nat) (g : Nat → Nat → Nat → Nat) : State → Eff :=
  let w := tyBits ty == 64
  floatWord f.h long [(f.sa, w), (f.sb, w), (f.sc, w)] f.dst ty (fun vs t => g (srcN vs 0 t) (srcN vs 1 t) (srcN vs 2 t))
/-- RM of a T96 form. -/
def T96.rm (f : T96) : Nat := f.md.toNat % 4
def formFfma (f : T96) : Form :=
  let ty := f.tyd.toNat
  ffmaForm f (f3Ty ty && f.tyd == f.tys) false (tyBits ty) 2
def bodyFfma (f : T96) : State → Eff :=
  let ty := f.tyd.toNat
  fmaBody f false ty ((ffOf ty).fma (T96.rm f))
def execFfma (f : T96) (s : State) : Host.Outcome State Fault Refusal := word (.ffma f) (formFfma f) (bodyFfma f) s
/-- `fma2`: two halves, each on its own (R187). -/
def fma2N (t : FF) (rm a b c : Nat) : Nat :=
  t.fma rm (a % 2 ^ 16) (b % 2 ^ 16) (c % 2 ^ 16) + 2 ^ 16 * t.fma rm (bits a 31 16) (bits b 31 16) (bits c 31 16)
def formFma2 (f : T96) : Form :=
  let ty := f.tyd.toNat
  ffmaForm f (halfTy ty && f.tyd == f.tys) false 32 2
def bodyFma2 (f : T96) : State → Eff :=
  let ty := f.tyd.toNat
  fmaBody f false 0xA (fma2N (ffOf ty) (T96.rm f))
def execFma2 (f : T96) (s : State) : Host.Outcome State Fault Refusal := word (.fma2 f) (formFma2 f) (bodyFma2 f) s
/-- `fdot2`: two products and an .f32 addend, rounded once (R187). -/
def fdot2N (t : FF) (rm a b c : Nat) : Nat :=
  let al := t.decode (a % 2 ^ 16)
  let ah := t.decode (bits a 31 16)
  let bl := t.decode (b % 2 ^ 16)
  let bh := t.decode (bits b 31 16)
  let cv := FF.f32.decode c
  FF.f32.fused rm [al, ah, bl, bh, cv] [(al, bl), (ah, bh)] [cv]
def formFdot2 (f : T96) : Form := ffmaForm f (f.tyd == 0x0E && halfTy f.tys.toNat) false 32 2
def bodyFdot2 (f : T96) : State → Eff := fmaBody f false 0x0E (fdot2N (ffOf f.tys.toNat) (T96.rm f))
def execFdot2 (f : T96) (s : State) : Host.Outcome State Fault Refusal := word (.fdot2 f) (formFdot2 f) (bodyFdot2 f) s

/-! ### Class 0x5 -/

/-- A function of one source (R191). -/
def fnForm (f : A64) (md : Bool) : Form :=
  let w := tyBits f.ty.toNat
  { h := f.h, ops := [(f.sa, .val w), (f.sb, .none), (f.dst, .out w)], bad := [badTy (fnTy f.ty.toNat), mustZero md], long := true,
    weight := 4 }
def fnBody (f : A64) (g : FF → Nat → Nat) : State → Eff :=
  let ty := f.ty.toNat
  floatWord f.h true [(f.sa, false)] f.dst ty (fun vs t => g (ffOf ty) (srcN vs 0 t % 2 ^ tyBits ty))
def formFrcp (f : A64) : Form := fnForm f true
def bodyFrcp (f : A64) : State → Eff := fnBody f (fun t a => fnRcp t f.md.toNat a)
def execFrcp (f : A64) (s : State) : Host.Outcome State Fault Refusal := word (.frcp f) (formFrcp f) (bodyFrcp f) s
def formFrsq (f : A64) : Form := fnForm f (f.md == 0)
def bodyFrsq (f : A64) : State → Eff := fnBody f fnRsq
def execFrsq (f : A64) (s : State) : Host.Outcome State Fault Refusal := word (.frsq f) (formFrsq f) (bodyFrsq f) s
def formFsqrt (f : A64) : Form := fnForm f true
def bodyFsqrt (f : A64) : State → Eff := fnBody f (fun t a => fnSqrt t f.md.toNat a)
def execFsqrt (f : A64) (s : State) : Host.Outcome State Fault Refusal := word (.fsqrt f) (formFsqrt f) (bodyFsqrt f) s
def formFexp2 (f : A64) : Form := fnForm f (f.md == 0)
def bodyFexp2 (f : A64) : State → Eff := fnBody f fnExp2
def execFexp2 (f : A64) (s : State) : Host.Outcome State Fault Refusal := word (.fexp2 f) (formFexp2 f) (bodyFexp2 f) s
def formFlog2 (f : A64) : Form := fnForm f (f.md == 0)
def bodyFlog2 (f : A64) : State → Eff := fnBody f fnLog2
def execFlog2 (f : A64) (s : State) : Host.Outcome State Fault Refusal := word (.flog2 f) (formFlog2 f) (bodyFlog2 f) s
def formFsin (f : A64) : Form := fnForm f (f.md == 0)
def bodyFsin (f : A64) : State → Eff := fnBody f fnSin
def execFsin (f : A64) (s : State) : Host.Outcome State Fault Refusal := word (.fsin f) (formFsin f) (bodyFsin f) s
def formFcos (f : A64) : Form := fnForm f (f.md == 0)
def bodyFcos (f : A64) : State → Eff := fnBody f fnCos
def execFcos (f : A64) (s : State) : Host.Outcome State Fault Refusal := word (.fcos f) (formFcos f) (bodyFcos f) s

/-- FP64 (R193). -/
def formDadd (f : A64) : Form := fbinForm f (f.ty == 0x0F) true true 4
def bodyDadd (f : A64) : State → Eff := fbinBody f true (fun t a b => t.add f.md.toNat a b)
def execDadd (f : A64) (s : State) : Host.Outcome State Fault Refusal := word (.dadd f) (formDadd f) (bodyDadd f) s
def formDmul (f : A64) : Form := fbinForm f (f.ty == 0x0F) true true 4
def bodyDmul (f : A64) : State → Eff := fbinBody f true (fun t a b => t.mul f.md.toNat a b)
def execDmul (f : A64) (s : State) : Host.Outcome State Fault Refusal := word (.dmul f) (formDmul f) (bodyDmul f) s
def formDfma (f : T96) : Form := ffmaForm f (f.tyd == 0x0F && f.tyd == f.tys) true 64 4
def bodyDfma (f : T96) : State → Eff := fmaBody f true 0x0F (FF.f64.fma (T96.rm f))
def execDfma (f : T96) (s : State) : Host.Outcome State Fault Refusal := word (.dfma f) (formDfma f) (bodyDfma f) s
def formDcmp (f : A64) : Form := fcmpForm f (f.ty == 0x0F) true 4
def bodyDcmp (f : A64) : State → Eff := fcmpBody f true
def execDcmp (f : A64) (s : State) : Host.Outcome State Fault Refusal := word (.dcmp f) (formDcmp f) (bodyDcmp f) s

/-! ### Class 0x6 -/

/-- Types that `cvt` takes: neither .b nor .k4o (R195). -/
def cvtTy (ty : Nat) : Bool := ty ≤ 7 || (0x0C ≤ ty && ty ≤ 0x11)
/-- A float type that holds every value of another (R195). -/
def holds (td ts : Nat) : Bool :=
  td == ts || (halfTy ts && (td == 0x0E || td == 0x0F)) || (ts == 0x0E && td == 0x0F)
    || ((ts == 0x10 || ts == 0x11) && (halfTy td || td == 0x0E || td == 0x0F))
/-- MOD as a conversion takes it (R195). -/
def cvtMod (td ts md : Nat) : Bool :=
  md < 8 && !(tyF ts && (!tyF td || holds td ts) && 4 ≤ md) && !(!tyF ts && !tyF td && md % 4 != 0)
/-- One conversion (R195, R173); an integer that .f64 does not hold exactly is rounded by RM (DESIGN CHOICE, log 94). -/
def cvtN (td ts md x : Nat) : Nat :=
  let rm := md % 4
  let satx := decide (4 ≤ md)
  let x := x % 2 ^ tyBits ts
  let sat := if td = 0x10 then !satx else satx
  if tyF ts then
    let v := (ffOf ts).decode x
    if tyF td then (ffOf td).ofVal rm (if holds td ts then false else sat) v
    else wrap (tyBits td) (toInt td rm v)
  else if tyF td then (ffOf td).ofVal rm sat (ofInt (tyVal ts x))
  else cutSat satx td (tyVal ts x)
def formCvt (f : T96) : Form :=
  let td := f.tyd.toNat
  let ts := f.tys.toNat
  { h := f.h, ops := [(f.sa, .val (tyBits ts)), (f.sb, .none), (f.sc, .none), (f.dst, .out (tyBits td))],
    bad := [badTy (cvtTy td && cvtTy ts), mustZero (cvtMod td ts f.md.toNat && f.imm == 0)], weight := 2 }
def bodyCvt (f : T96) : State → Eff :=
  let td := f.tyd.toNat
  let ts := f.tys.toNat
  floatWord f.h false [(f.sa, tyBits ts == 64)] f.dst td (fun vs t => cvtN td ts f.md.toNat (srcN vs 0 t))
def execCvt (f : T96) (s : State) : Host.Outcome State Fault Refusal := word (.cvt f) (formCvt f) (bodyCvt f) s

/-- `pack` (R196). -/
def formPack (f : T96) : Form :=
  let td := f.tyd.toNat
  let ts := f.tys.toNat
  let ok := (ts == 0x0E || ts == 2 || ts == 6) && (halfTy td || td == 1 || td == 5 || td == 0x10 || td == 0x11 || td == 0 || td == 4)
  { h := f.h, ops := [(f.sa, .val 32), (f.sb, .val 32), (f.sc, if tyBits td = 16 then .none else .val 32), (f.dst, .out 32)],
    bad := [badTy ok, mustZero (cvtMod td ts f.md.toNat && f.imm == 0)], weight := 2 }
def packN (td ts md a b c : Nat) : Nat :=
  if tyBits td = 16 then cvtN td ts md b * 2 ^ 16 + cvtN td ts md a
  else c % 2 ^ 16 * 2 ^ 16 + cvtN td ts md b * 2 ^ 8 + cvtN td ts md a
def bodyPack (f : T96) : State → Eff :=
  let td := f.tyd.toNat
  let srcs := [(f.sa, false), (f.sb, false)] ++ (if tyBits td = 16 then [] else [(f.sc, false)])
  floatWord f.h false srcs f.dst 0xA
    (fun vs t => packN td f.tys.toNat f.md.toNat (srcN vs 0 t) (srcN vs 1 t) (srcN vs 2 t))
def execPack (f : T96) (s : State) : Host.Outcome State Fault Refusal := word (.pack f) (formPack f) (bodyPack f) s

/-- `unpack` (R197). -/
def formUnpack (f : T96) : Form :=
  let td := f.tyd.toNat
  let ts := f.tys.toNat
  let ok := (tyF ts && ts != 0x0E && ts != 0x0F && td == 0x0E) || ((ts == 0 || ts == 1) && td == 2) || ((ts == 4 || ts == 5) && td == 6)
  { h := f.h, ops := [(f.sa, .val 32), (f.sb, .none), (f.sc, .none), (f.dst, .out 32)],
    bad := [badTy ok, mustZero (f.md == 0 && f.imm.toNat < 4 && (tyBits ts != 16 || f.imm.toNat < 2))], weight := 2 }
def bodyUnpack (f : T96) : State → Eff :=
  let td := f.tyd.toNat
  let ts := f.tys.toNat
  floatWord f.h false [(f.sa, false)] f.dst td
    (fun vs t => cvtN td ts 0 (srcN vs 0 t / 2 ^ (tyBits ts * f.imm.toNat)))
def execUnpack (f : T96) (s : State) : Host.Outcome State Fault Refusal := word (.unpack f) (formUnpack f) (bodyUnpack f) s

/-! ### K4O blocks (R198, R199) -/

/-- A magnitude over a shared denominator; none is infinity. -/
abbrev Mag := Option Nat
def magLt : Mag → Mag → Bool
  | none, _ => false
  | some _, none => true
  | some a, some b => decide (a < b)
def magMax (xs : List Mag) : Mag := xs.foldl (fun a b => if magLt a b then b else a) (some 0)
/-- m over den times 2^(8 - b), rounded to nearest even; none is infinity. -/
def magRound (den b : Nat) : Mag → Mag
  | none => none
  | some m =>
    let x := m * 2 ^ 8
    let d := den * 2 ^ b
    some (if roundUp 0 false (x / d) (x % d) d then x / d + 1 else x / d)
/-- SmallestB (R198). -/
def smallestB (den : Nat) (m o : Mag) : Nat :=
  ((List.range 16).find? (fun b =>
    (match magRound den b m with | some r => decide (r ≤ 7) | none => false)
      && (match o with | some x => decide (x * 2 ^ 8 < 464 * den * 2 ^ b) | none => false))).getD 15
/-- QPack (R198): the element-plane word and the header byte. -/
def qpackN (a : List Nat) (ts : Nat) (noout : Bool) : Nat × Nat :=
  match FF.f32.decode ts with
  | .nan .. => (0, 0)
  | .inf _ => (0, 0)
  | .num tn tm te =>
    let vs := a.map FF.f32.decode
    if tm = 0 ∨ vs.any FVal.isNan then (0, 0)
    else
      -- |y[j]| = m 2^e / (tm 2^te), over the denominator tm 2^(te + 300)
      let mag (v : FVal) : Mag := match v with
        | .num _ m e => some (m * 2 ^ (e + 300).toNat)
        | _ => none
      let den := tm * 2 ^ (te + 300).toNat
      let ys := vs.map mag
      let neg (j : Nat) : Bool := ((vs[j]?).getD (.inf false)).neg != tn
      let at' (j : Nat) : Mag := (ys[j]?).getD (some 0)
      let top := magMax ys
      let j1 := (ys.findIdx? (fun y => y == top)).getD 0
      let m2 := magMax ((List.range 8).filterMap (fun j => if j = j1 ∨ j = (j1 ^^^ 1) then none else some (at' j)))
      let b := smallestB den m2 top
      let out := !noout && (match magRound den b top with | some r => decide (7 < r) | none => true)
      let b := if out then b else smallestB den top (some 0)
      let nib (j : Nat) : Nat :=
        let r := match magRound den b (at' j) with | some r => minN r 7 | none => 7
        if neg j then (16 - r) % 16 else r
      let c := match top with
        | some m => FF.e4m3.round 0 true (neg j1) (m * 2 ^ 8) (den * 2 ^ b) 0
        | none => FF.e4m3.signed (neg j1) 0x7E
      let e (j : Nat) : Nat := if out && j == j1 then 8 else if out && j == (j1 ^^^ 1) then c / 16 else nib j
      (((List.range 8).map (fun j => e j * 16 ^ j)).foldl (· + ·) 0, b * 16 + (if out then c % 16 else 0))
/-- `qpack`: eight sources from SA, two destinations from DST; the scale in SB may be a v register or a channel as well as an s register (R198;
DESIGN CHOICE, log 93). -/
def formQpack (f : T96) : Form :=
  { h := f.h, ops := [(f.sa, .src 8 8 false false), (f.sb, .val 32), (f.sc, .none), (f.dst, .dst 2 2 false false)],
    bad := [badTy (f.tyd == 0x12 && f.tys == 0x0E), mustZero (f.md.toNat < 2 && f.imm == 0)], weight := 2 }
/-- A run of sources: register n + j. -/
def runVal (s : State) (uni : Bool) (o : Opd) (j t : Nat) : Nat :=
  if uni || o.uf then (s.rdS s.cur (o.num.toNat + j)).toNat else (s.rdV s.cur (o.num.toNat + j) t).toNat
/-- A destination run: register n + j. -/
def runOpd (o : Opd) (j : Nat) : Opd := { o with num := o.num + BitVec.ofNat 8 j }
def bodyQpack (f : T96) (s : State) : Eff :=
    let u := f.h.uni
    let a (t : Nat) : List Nat := (List.range 8).map (fun j => runVal s u f.sa j t)
    let (vs, s) := s.srcs s.cur u [(f.sb, false)]
    let r (t : Nat) : Nat × Nat := qpackN (a t) (srcN vs 0 t) (f.md == 1)
    let p := s.me.part f.h
    s.now ((outVals u p f.dst false (fun t => BitVec.ofNat 64 (r t).1)).both
      (outVals u p (runOpd f.dst 1) false (fun t => BitVec.ofNat 64 (r t).2)))
def execQpack (f : T96) (s : State) : Host.Outcome State Fault Refusal := word (.qpack f) (formQpack f) (bodyQpack f) s
/-- `qunpack` (R199): eight destinations from DST; with `.ff` a predicate too. -/
def formQunpack (f : T96) : Form :=
  let n := bits f.md.toNat 5 3
  let ff := f.md.getLsbD 2
  { h := f.h,
    ops := [(f.sa, .val 32), (f.sb, .val 32), (f.sc, .val 32), (f.dst, .dst 8 8 false false)]
      ++ (if ff then [(⟨BitVec.ofNat 8 n, false, false, false⟩, .pred)] else []),
    bad := [badTy (f.tyd == 0x0E && f.tys == 0x12), mustZero (f.md.toNat < 64 && f.imm == 0 && (ff || n == 0))], weight := 2 }
def qunpackN (rm a h c j : Nat) : Nat :=
  let d := k4oDecode ((List.range 8).map (fun i => a / 16 ^ i % 16)) (h % 256) (FF.f32.decode c)
  FF.f32.ofVal rm false ((d.1[j]?).getD (.num false 0 0))
def qunpackFf (a h c : Nat) : Bool := (k4oDecode ((List.range 8).map (fun i => a / 16 ^ i % 16)) (h % 256) (FF.f32.decode c)).2
def bodyQunpack (f : T96) (s : State) : Eff :=
    let u := f.h.uni
    let (vs, s) := s.srcs s.cur u [(f.sa, false), (f.sb, false), (f.sc, false)]
    let p := s.me.part f.h
    let outs := (List.range 8).foldl (fun o j => Pend.both o (outVals u p (runOpd f.dst j) false (fun t =>
      BitVec.ofNat 64 (qunpackN (T96.rm f) (srcN vs 0 t % 2 ^ 32) (srcN vs 1 t) (srcN vs 2 t % 2 ^ 32) j)))) Pend.empty
    let ff := if f.md.getLsbD 2 then outPred u p (bits f.md.toNat 5 3) (fun t => qunpackFf (srcN vs 0 t % 2 ^ 32) (srcN vs 1 t)
      (srcN vs 2 t % 2 ^ 32)) else Pend.empty
    s.now (outs.both ff)
def execQunpack (f : T96) (s : State) : Host.Outcome State Fault Refusal := word (.qunpack f) (formQunpack f) (bodyQunpack f) s

end Sys2Proof.Machine
end

