-- ==== Sys2Proof/Machine/Groves.lean ====
section
/-! DEFINITION. Class 0xC: the grove instructions and the events they send to a grove's home slice (spec/16). -/

namespace Sys2Proof.Machine

/-! ### At the home slice (R376, R385-R391) -/

/-- The first grove operation of a stand that waits takes its results (R376: events of a stand apply in issue order). -/
def answerFirst (res : List Nat) (q0 : Option Bool) : List Pend → List Pend
  | [] => []
  | p :: r =>
    if p.on = .grove then
      { p with on := .ready, sw := ((List.range p.sw.length).zip p.sw).map (fun w => (w.2.1, BitVec.ofNat 64 ((res[w.1]?).getD 0))),
               qw := match q0 with | some b => [(0, b)] | none => p.qw } :: r
    else p :: answerFirst res q0 r
def State.answer (s : State) (k : Nat) (res : List Nat) (q0 : Option Bool) : State :=
  let st := s.standAt k
  s.setStand k { st with pend := answerFirst res q0 st.pend }
/-- Fields of the options word (R384). -/
def optLimit (imm : Nat) : Nat := if bits imm 25 4 = 0 then 4194303 else bits imm 25 4
/-- Records that the slices of a context's domain hold (R368). -/
def State.groveRoom (s : State) (vi : Nat) : Nat := 512 * (s.viAt vi).dom.live.slices.length
def State.setHandle (s : State) (k gn : Nat) (h : Option GHandle) : State :=
  let st := s.standAt k
  s.setStand k { st with g := match h with | some x => tset gn x st.g | none => tdel gn st.g }
/-- The status of `gcreate` (R385); maintenance code is refused (R457). -/
def State.createStatus (s : State) (k gn : Nat) : Nat :=
  let vi := s.viOf k
  let q := (s.viAt vi).gquota.toNat
  if (tfind gn (s.standAt k).g).isSome then 1
  else if (s.copseAt (copseOf k)).maint ∨ (q ≠ 0 ∧ q ≤ s.grovesOf vi) then 2
  else if s.groveRoom vi ≤ s.grovesOf vi then 3 else 0
/-- The record that `gcreate` makes. -/
def State.newGrove (s : State) (k : Nat) (imm x : Nat) : Grove :=
  { Grove.init with
    live := true
    vi := s.viOf k
    ident := s.newIdent s.nextId
    tag := 0
    limit := optLimit imm
    elas := bitAt imm 26
    cell := bitAt imm 27
    cop := BitVec.ofNat 3 (bits imm 30 28)
    cty := BitVec.ofNat 5 (bits imm 35 31)
    scope := BitVec.ofNat 8 (bits imm 43 36)
    start := bits imm 63 44
    value := if bitAt imm 27 then BitVec.ofNat 64 (x % 2 ^ tyBits (bits imm 35 31)) else 0 }
def State.groveCreate (s : State) (k gn : Nat) (imm x : Nat) : State :=
  let st := s.createStatus k gn
  if st ≠ 0 then s.answer k [st] (some false)
  else
    let key := s.nextId
    let s := { s with nextId := key + 1 }.setGrove key ((s.newGrove k imm x).join k (s.memberOrd k))
    (s.setHandle k gn (some ⟨key, 0⟩)).answer k [0] (some true)
/-- The status of `gjoin` and the grove that its name names (R386). -/
def State.joinStatus (s : State) (k gn : Nat) (name : Word64) : Nat × Nat :=
  if (tfind gn (s.standAt k).g).isSome then (1, 0)
  else match s.resolveName (s.viOf k) name with
  | .bad => (5, 0)
  | .stale => (4, 0)
  | .live key =>
    let g := s.groveAt key
    if g.limit ≤ g.members.length then (6, key)
    else if (g.member k).isSome then (7, key) else (0, key)
def State.groveJoin (s : State) (k gn : Nat) (name : Word64) : State :=
  let (st, key) := s.joinStatus k gn name
  if st ≠ 0 then s.answer k [st] (some false)
  else
    let s := s.setGrove key ((s.groveAt key).join k (s.memberOrd k))
    (s.setHandle k gn (some ⟨key, (s.groveAt key).tag⟩)).answer k [0] (some true)
/-- The snapshots of `gquery` (R390). -/
def Grove.queryState (g : Grove) : Nat :=
  (g.members.filter (fun m => m.st != .idle)).length + g.arrivals.length * 2 ^ 22 + (if g.elas then 2 ^ 44 else 0)
    + (if g.cell then 2 ^ 45 else 0) + (if g.lastBroken then 2 ^ 46 else 0) + (if g.idle then 2 ^ 47 else 0) + g.phase % 65536 * 2 ^ 48
def Grove.queryMem (g : Grove) (k : Nat) : Nat :=
  g.members.length + (g.members.filter (fun m => m.susp)).length * 2 ^ 22
    + (if g.members.any (fun m => m.stand == k && m.st != .idle) then 2 ^ 44 else 0)
def State.groveQuery (s : State) (k : Nat) (h : Option GHandle) (form : Nat) : Nat :=
  if form = 4 then (s.viAt (s.viOf k)).gquota.toNat + s.grovesOf (s.viOf k) % 2 ^ 32 * 2 ^ 32
  else match h with
  | none => 0
  | some h =>
    if !s.handleLive k h then 0
    else
      let g := s.groveAt h.grec
      if form = 0 then (groveName g.ident h.tag).toNat
      else if form = 1 then g.queryState
      else if form = 2 then g.queryMem k
      else g.value.toNat
/-- One event takes its effect, whole (R376). -/
def State.groveEvent (s : State) (e : GroveEvent) : State :=
  let k := e.stand
  match e.op with
  | .create imm val => s.groveCreate k e.gn imm.toNat val.toNat
  | .join name => s.groveJoin k e.gn name
  | .leave =>
    (match e.handle with
      | some h => (if s.handleLive k h then s.groveRemove h.grec k false else s).setHandle k e.gn none
      | none => s).answer k [] none
  | .arrive kind x =>
    (match e.handle with
    | some h =>
      if s.handleLive k h then s.groveArrive h.grec k e.gn kind x
      else s.setStand k ((s.standAt k).wakeGrove (groveResult kind 4 0 [] 0))
    | none => s)
  | .query form => s.answer k [s.groveQuery k e.handle form.toNat] none
  | .destroy name =>
    match s.resolveName (s.viOf k) name with
    | .bad => s.answer k [5] none
    | .stale => s.answer k [4] none
    | .live key => (s.groveDestroy key).answer k [0] none
/-- The next event of a stand reaches its home slice. -/
def State.groveApply (s : State) (k : Nat) : State :=
  match s.groveQ.find? (fun e => e.stand == k) with
  | none => s
  | some e =>
    if (s.copseAt (copseOf k)).life ≠ .resident then s
    else
      let s := { s with groveQ := s.groveQ.erase e }
      if (s.standAt k).pend.any (fun p => p.on == .grove) then s.groveEvent e else s
def execGroveEventApply (stand : Nat) (s : State) : Host.Outcome State Fault Refusal := .next (s.groveApply stand)

/-! ### The instructions (R383, R384) -/

/-- The form of a grove instruction. -/
def groveForm (f : W128) (sa dst : Role) (bad : List (Nat × Bool)) : Form :=
  { h := f.h, ops := [(f.sa, sa), (f.sb, .none), (f.dst, dst)], bad := onlyUni f.h :: bad, long := true, mustFlag := true }
/-- The g register of a word. -/
def gReg (f : W128) : Nat := f.imm.toNat % 16
/-- An event is sent; its instruction is outstanding until the home slice has answered. -/
def State.sendGrove (s : State) (f : W128) (op : GroveOp) (regs : List Nat) (q0 : Bool) : Eff :=
  let k := s.cur
  let s := { s with groveQ := s.groveQ ++ [⟨k, op, gReg f, tfind (gReg f) s.me.g⟩] }
  .long s { Pend.empty with on := .grove, sw := regs.map (fun d => (d, 0)), qw := if q0 then [(0, false)] else [] }
/-- A trap of class GRV (R392). -/
def groveTrap (i : Instr) (cause : Nat) : Eff := .trap (trapOf i 9 cause)

/-- The conditions on the options of `gcreate` (R384). -/
def gcreateOk (f : W128) : Bool :=
  let imm := f.imm.toNat
  bits imm 43 36 != 0 && bits imm 30 28 ≤ 5 && (bits imm 25 4 == 0 || bits imm 63 44 ≤ bits imm 25 4) &&
    (bitAt imm 27 || (bits imm 30 28 == 0 && bits imm 35 31 == 0))
/-- The word writes q0 beside its destination (R386). -/
def Form.writesQ0 (f : Form) : Form := { f with ops := f.ops ++ [(Opd.zero, .qdst)] }
def formGcreate (f : W128) : Form :=
  (groveForm f (if bitAt f.imm.toNat 27 then .usrc 1 false else .none) (.udst 1)
    [mustZero (f.md == 0 && gcreateOk f), badTy (!bitAt f.imm.toNat 27 || atomTyOk (bits f.imm.toNat 30 28) (bits f.imm.toNat 35 31))]).writesQ0
def bodyGcreate (f : W128) (s : State) : Eff := s.sendGrove f (.create f.imm (if bitAt f.imm.toNat 27 then s.rdS s.cur f.sa.num.toNat else 0)) [f.dst.num.toNat] true
def execGcreate (f : W128) (s : State) : Host.Outcome State Fault Refusal := word (.gcreate f) (formGcreate f) (bodyGcreate f) s

def smallImm (f : W128) : Bool := f.imm.toNat < 16
def formGjoin (f : W128) : Form := (groveForm f (.usrc 1 false) (.udst 1) [mustZero (f.md == 0 && smallImm f)]).writesQ0
def bodyGjoin (f : W128) (s : State) : Eff := s.sendGrove f (.join (s.rdS s.cur f.sa.num.toNat)) [f.dst.num.toNat] true
def execGjoin (f : W128) (s : State) : Host.Outcome State Fault Refusal := word (.gjoin f) (formGjoin f) (bodyGjoin f) s
def formGleave (f : W128) : Form := groveForm f .none .none [mustZero (f.md == 0 && smallImm f)]
def bodyGleave (f : W128) (s : State) : Eff :=
    if s.handleWaits s.cur (gReg f) then .stay s.bump else s.sendGrove f .leave [] false
def execGleave (f : W128) (s : State) : Host.Outcome State Fault Refusal := word (.gleave f) (formGleave f) (bodyGleave f) s

/-- An arrival (R373, R379, R388, R389): a stale handle is answered at once; otherwise the arrival is a release, and the stand
issues nothing more until the phase has completed. -/
def State.sendArrival (s : State) (i : Instr) (f : W128) (kind : ArrKind) (x : Word64) (regs : List Nat) : Eff :=
  let k := s.cur
  if s.handleWaits k (gReg f) then .stay s.bump
  else match tfind (gReg f) s.me.g with
  | none => groveTrap i 1
  | some h =>
    if !s.handleLive k h then
      .long s { Pend.empty with sw := ((List.range regs.length).zip regs).map (fun d =>
        (d.2, BitVec.ofNat 64 (((groveResult kind 4 0 [] 0)[d.1]?).getD 0))) }
    else match s.release k (s.groveAt h.grec).scope with
      | (false, s) => .stay s
      | (true, s) =>
        let s := s.handOver objGrove h.grec k (s.groveAt h.grec).scope
        (s.setMe { s.me with wait := .groveHeld (gReg f) }).sendGrove f (.arrive kind x) regs false
def formGbar (f : W128) : Form := groveForm f .none (.udst 1) [mustZero (f.md == 0 && smallImm f)]
def bodyGbar (f : W128) (s : State) : Eff := s.sendArrival (.gbar f) f .bar 0 [f.dst.num.toNat]
def execGbar (f : W128) (s : State) : Host.Outcome State Fault Refusal := word (.gbar f) (formGbar f) (bodyGbar f) s
def formGvote (f : W128) : Form := groveForm f .qreg (.udst 1) [mustZero (f.md.toNat ≤ 2 && smallImm f)]
def bodyGvote (f : W128) (s : State) : Eff := s.sendArrival (.gvote f) f (.vote (f.md.extractLsb' 0 2)) (if s.me.qval f.sa.num.toNat then 1 else 0) [f.dst.num.toNat]
def execGvote (f : W128) (s : State) : Host.Outcome State Fault Refusal := word (.gvote f) (formGvote f) (bodyGvote f) s
/-- OP and T of `gred`. -/
def gredOp (f : W128) : Nat := bits f.imm.toNat 6 4
def gredTy (f : W128) : Nat := bits f.imm.toNat 11 7
def formGred (f : W128) : Form :=
  groveForm f (.usrc 1 false) (.udst 2)
    [mustZero (f.md == 0 && f.imm.toNat < 4096 && gredOp f ≤ 5 && f.dst.num.toNat ≤ 126), badTy (atomTyOk (gredOp f) (gredTy f))]
def bodyGred (f : W128) (s : State) : Eff := s.sendArrival (.gred f) f (.red (BitVec.ofNat 3 (gredOp f)) (BitVec.ofNat 5 (gredTy f)))
      (BitVec.ofNat 64 ((s.rdS s.cur f.sa.num.toNat).toNat % 2 ^ tyBits (gredTy f))) [f.dst.num.toNat, f.dst.num.toNat + 1]
def execGred (f : W128) (s : State) : Host.Outcome State Fault Refusal := word (.gred f) (formGred f) (bodyGred f) s

def bodyGquery (f : W128) (s : State) : Eff :=
  let k := s.cur
  let d := f.dst.num.toNat
  let form := f.md.toNat
  if form = 4 then s.sendGrove f (.query 4) [d] false
  else if s.handleWaits k (gReg f) then .stay s.bump
  else match tfind (gReg f) s.me.g with
  | none => groveTrap (.gquery f) 1
  | some h =>
    if !s.handleLive k h then .long s { Pend.empty with sw := [(d, 0)] }
    else if form = 3 && !(s.groveAt h.grec).cell then groveTrap (.gquery f) 2
    else s.sendGrove f (.query (BitVec.ofNat 3 form)) [d] false
def formGquery (f : W128) : Form := groveForm f .none (.udst 1) [mustZero (f.md.toNat ≤ 4 && smallImm f && (f.md != 4 || f.imm == 0))]
def execGquery (f : W128) (s : State) : Host.Outcome State Fault Refusal := word (.gquery f) (formGquery f) (bodyGquery f) s
def formGdestroy (f : W128) : Form := groveForm f (.usrc 1 false) (.udst 1) [mustZero (f.md == 0 && f.imm == 0)]
def bodyGdestroy (f : W128) (s : State) : Eff := s.sendGrove f (.destroy (s.rdS s.cur f.sa.num.toNat)) [f.dst.num.toNat] false
def execGdestroy (f : W128) (s : State) : Host.Outcome State Fault Refusal := word (.gdestroy f) (formGdestroy f) (bodyGdestroy f) s

end Sys2Proof.Machine
end

