-- ==== Sys2Proof/Machine/Pages.lean ====
section
/-! DEFINITION. Answers to page requests and invalidations (spec/11 R245, R246, R256, R257; spec/19 R444, R448), and what moves lines and
units without changing a value: L1 write-backs, moves and evictions of home copies, tier moves (spec/11 R249, spec/12 R277, spec/13 R299). -/

namespace Sys2Proof.Machine

/-! ### Who waits on a request -/

/-- The resident copses of an interface. -/
def State.residentsOf (s : State) (vi : Nat) : List Nat :=
  (s.copses.filter (fun e => e.2.vi == vi && e.2.life == .resident && !e.2.maint)).map Prod.fst
/-- Their stands. -/
def State.standsOfVi (s : State) (vi : Nat) : List Nat := (s.residentsOf vi).flatMap s.standsOf
/-- The side-log entries of an interface, with their cores. -/
def State.logsOf (s : State) (vi : Nat) : List (Nat × LogEntry) :=
  s.cores.flatMap (fun c => (c.2.slog.filter (fun e => s.viOf e.stand == vi)).map (fun e => (c.1, e)))
/-- A stand is held on a request. -/
def Wait.onPage (w : Wait) (id : Nat) : Bool := match w with | .page ids _ => ids.any (fun x => x.1 == id) | _ => false
/-- Matrix commands of an interface parked on a request: cluster, record, command. -/
def State.cmdsOn (s : State) (vi id : Nat) : List (Nat × Nat × Nat) :=
  s.clusters.flatMap (fun c => c.2.eng.recs.flatMap (fun r =>
    (r.2.queue.filter (fun q => s.viOf q.stand == vi && q.phase == .parked (some id))).map (fun q => (c.1, r.1, q.seq))))
/-- Some access still waits on a request (R448). -/
def State.awaited (s : State) (vi id : Nat) : Bool :=
  (s.standsOfVi vi).any (fun k => (s.standAt k).wait.onPage id)
    || (s.logsOf vi).any (fun e => e.2.req == id)
    || (s.residentsOf vi).any (fun c => (s.copseAt c).copies.any (fun x => x.parked == some id) || (s.copseAt c).fills.any (fun x => x.req == some id))
    || s.cmdsOn vi id != []

/-! ### PAGE_ANS -/

/-- A held stand loses one request; with its last it goes on, or takes the trap of a denial (R245). -/
def State.answerStand (s : State) (k id : Nat) (deny : Bool) : State :=
  let st := s.standAt k
  match st.wait with
  | .page ids d =>
    let d := match d with
      | some r => some r
      | none => if deny then (ids.find? (fun x => x.1 == id)).map Prod.snd else none
    match ids.filter (fun x => x.1 != id), d with
    | [], some r => (s.setStand k { st with wait := .none }).raise k r st.pc
    | [], none => s.setStand k { st with wait := .none }
    | rest, d => s.setStand k { st with wait := .page rest d }
  | _ => s
/-- A copse's copies, fills and write-backs that wait on a request. -/
def State.answerCopse (s : State) (copse id : Nat) (deny : Bool) : State :=
  let c := s.copseAt copse
  if !deny then
    s.setCopse copse { c with
      copies := c.copies.map (fun x => if x.parked = some id then { x with parked := none } else x)
      fills := c.fills.map (fun x => if x.req = some id then { x with req := none } else x) }
  else
    let s := (c.copies.filter (fun x => x.parked == some id)).foldl (fun s x =>
      s.copyFail copse x.seq 2 (x.trap 3 6 (s.copyLine copse x) false x.akind)) s
    (c.fills.filter (fun x => x.req == some id)).foldl (fun s x =>
      match x.wb, c.regionOf x.line with
      | some _, some (_, r) => s.wbFail copse x (wbTrap r x.line 6)
      | _, _ => s.fillFail copse x 6) s
/-- An answered request (R245, R256, R257). -/
def State.answerPage (s : State) (vi id : Nat) (deny : Bool) : State :=
  let v := s.viAt vi
  let s := s.setVi vi { v with pages := v.pages.filter (fun p => p.id != id) }
  let cmds := s.cmdsOn vi id
  let s := ((s.logsOf vi).filter (fun e => e.2.req == id)).foldl (fun s e => if deny then s.discardLog e.1 e.2 6 else s.replayLog e.1 e.2) s
  let s := (s.residentsOf vi).foldl (fun s c => s.answerCopse c id deny) s
  let s := cmds.foldl (fun s c =>
    s.setEngine c.1 ((s.engineAt c.1).setPhase c.2.1 c.2.2 (if deny then .parked none else .granted))) s
  let s := (s.standsOfVi vi).foldl (fun s k => if (s.standAt k).wait.onPage id then s.answerStand k id deny else s) s
  (s.standsOfVi vi).foldl (fun s k => s.resumeFenceM k) s
/-- PAGE_ANS: STALE when no access waits on the request any more (R448). -/
def State.pageAnswer (s : State) (vi : Nat) (tag : BitVec 16) (id : Nat) (deny : Bool) : State :=
  match s.takeCmd vi 2 tag with
  | none => s
  | some s =>
    if (s.viAt vi).pages.any (fun p => p.id == id) && s.awaited vi id then (s.answerPage vi id deny).complete vi tag 0 0
    else
      let v := s.viAt vi
      (s.setVi vi { v with pages := v.pages.filter (fun p => p.id != id) }).complete vi tag 0x13 0
def execPageAns (vi : Nat) (tag : BitVec 16) (id : Nat) (deny : Bool) (s : State) : Host.Outcome State Fault Refusal :=
  .next (s.pageAnswer vi tag id deny)

/-! ### INVAL (R246) -/

/-- A page of 2^bits bytes meets a range. -/
def pageMeets (bits page base len : Nat) : Bool := page * 2 ^ bits < base + len && base < (page + 1) * 2 ^ bits
/-- No TLB entry of an interface for a range remains. -/
def State.dropTlb (s : State) (vi base len : Nat) : State :=
  let keep (own : Nat → Bool) (t : List TlbEntry) : List TlbEntry := t.filter (fun e => !(own e.owner && pageMeets e.bits e.page base len))
  { s with
    cores := s.cores.map (fun c => (c.1, { c.2 with tlb := keep (fun o => (s.copseAt o).vi == vi) c.2.tlb }))
    clusters := s.clusters.map (fun c => (c.1, { c.2 with tlb := keep (fun o => o == vi) c.2.tlb })) }
/-- Side-log entries and held accesses to pages of the range are translated afresh. -/
def State.retranslate (s : State) (vi base len : Nat) : State :=
  let ids := ((s.viAt vi).pages.filter (fun p => pageMeets 16 p.page base len)).map (fun p => p.id)
  let s := ((s.logsOf vi).filter (fun e => ids.contains e.2.req)).foldl (fun s e => s.replayLog e.1 e.2) s
  let s := (s.residentsOf vi).foldl (fun s c => ids.foldl (fun s id => s.answerCopse c id false) s) s
  let s := (ids.flatMap (s.cmdsOn vi)).foldl (fun s c => s.setEngine c.1 ((s.engineAt c.1).setPhase c.2.1 c.2.2 .granted)) s
  let s := (s.standsOfVi vi).foldl (fun s k => ids.foldl (fun s id => s.answerStand k id false) s) s
  (s.standsOfVi vi).foldl (fun s k => s.resumeFenceM k) s
def State.invalidate (s : State) (vi : Nat) (tag : BitVec 16) (base len : Nat) : State :=
  match s.takeCmd vi 3 tag with
  | none => s
  | some s => ((s.dropTlb vi base len).retranslate vi base len).complete vi tag 0 0
def execInval (vi : Nat) (tag : BitVec 16) (base len : BitVec 64) (s : State) : Host.Outcome State Fault Refusal :=
  .next (s.invalidate vi tag base.toNat len.toNat)

/-! ### Movement that changes no value -/

/-- A line of an L1 is written back, but for one with a staged update (R216); whether it then stays, clean, is free (R299). -/
def State.evictL1 (s : State) (core line : Nat) : State :=
  if s.stagedLine line then s
  else
  let s := s.writeBackL1 core line
  match s.l1At core line with
  | none => s
  | some _ =>
    let (n, s) := s.pick 2
    if n = 0 then s else (s.dropL1 core line).disown core line
def execL1WriteBack (core line : Nat) (s : State) : Host.Outcome State Fault Refusal := .next (s.evictL1 core line)

/-- The home copy of a line in another bank: a replica in its field gives way to it, and the written mark stays as it is (R279). -/
def Dir.moveTo (d : Dir) (bank : Nat) : Dir :=
  let f := fieldOfSlice (bank / 8)
  { d with bank := bank, streak := none, replicas := tdel f d.replicas, repUsed := tdel f d.repUsed }
/-- A home copy moves to another bank of its domain once enough requests in a row have come from that bank's field (R277). -/
def State.moveHome (s : State) (line bank : Nat) : State :=
  let d := s.dirAt line
  match s.domainOf (d.bank / 8) with
  | none => s
  | some vi =>
    let f := fieldOfSlice (bank / 8)
    let asked := match d.streak with | some (g, n) => g == f && s.placement.moveAfter ≤ n | none => false
    if d.cached && d.staged == [] && (s.viAt vi).dom.live.slices.contains (bank / 8) && f != fieldOfSlice (d.bank / 8) && asked then
      s.setDir line (d.moveTo bank)
    else s
def execHomeMove (line bank : Nat) (s : State) : Host.Outcome State Fault Refusal := .next (s.moveHome line bank)

/-- The copies of a bank in the order in which they go (R277): replicas, clean home copies, dirty home copies, each by least recent use.
An entry is the rank, the last use, the line and the field of a replica; the home copy of a pinned line is not evicted (R291). -/
def State.evictable (s : State) (bank : Nat) : List (Nat × Nat × Nat × Option Nat) :=
  s.dir.flatMap (fun e =>
    (e.2.replicas.filter (fun r => s.replicaBank e.1 r.1 == bank)).map (fun r => (0, tget 0 e.2.repUsed r.1, e.1, some r.1))
      ++ (if e.2.cached && e.2.pins == [] && e.2.bank == bank then
            [(if e.2.dirty then 2 else 1, e.2.used, e.1, none)] else []))
/-- No copy of the bank goes before this one. -/
def State.goesFirst (s : State) (bank : Nat) (x : Nat × Nat × Nat × Option Nat) : Bool :=
  (s.evictable bank).all (fun y => x.1 < y.1 || (x.1 == y.1 && x.2.1 ≤ y.2.1))
/-- A replica is evicted, or a home copy with its replicas, dirty data written to its frame (R277, R279, R280): the copy of its bank that
goes first. -/
def State.evictLine (s : State) (line : Nat) (replica : Option Nat) : State :=
  let d := s.dirAt line
  match replica with
  | some f => if s.goesFirst (s.replicaBank line f) (0, tget 0 d.repUsed f, line, some f) then s.dropReplica line f else s
  | none =>
    if d.cached && d.pins == [] && s.goesFirst d.bank (if d.dirty then 2 else 1, d.used, line, none) then
      (s.cleanHome line).dropHome line
    else s
def execLineEvict (line : Nat) (replica : Option Nat) (s : State) : Host.Outcome State Fault Refusal := .next (s.evictLine line replica)

/-- An L1 of 64 KiB holds 512 lines (R17): of more, freely chosen ones go, those of lowest retention first (R278). -/
def State.trimL1 (s : State) (core : Nat) : State :=
  ((s.coreAt core).l1.drop 512).foldl (fun s _ =>
    let all := (s.coreAt core).l1.filter (fun e => !s.stagedLine e.1)
    let low := all.filter (fun e => e.2.low)
    let ls := (if low = [] then all else low).map Prod.fst
    let (n, s) := s.pick ls.length
    match ls[n]? with
    | some l => ((s.writeBackL1 core l).dropL1 core l).disown core l
    | none => s) s
/-- The copies in a bank of 512 KiB, which has room for 4,096 lines (R12): of more, those go that R277 names. -/
def State.bankCopies (s : State) (bank : Nat) : List Nat :=
  s.dir.flatMap (fun e => (if e.2.cached && e.2.bank == bank then [e.1] else [])
    ++ (e.2.replicas.filter (fun r => s.replicaBank e.1 r.1 == bank)).map (fun _ => e.1))
/-- The banks of the domain that has a bank, where there is room for one copy more. -/
def State.roomyBanks (s : State) (bank : Nat) : List Nat :=
  match s.domainOf (bank / 8) with
  | none => []
  | some vi => ((s.viAt vi).dom.live.slices.flatMap (fun x => (List.range 8).map (fun i => 8 * x + i))).filter
      (fun b => (s.bankCopies b).length < 4096)
/-- In place of an eviction the pinned line of a bank that was used least lately moves to another bank of its domain (R291). -/
def State.moveAside (s : State) (bank : Nat) : State :=
  let mine := s.dir.filter (fun e => e.2.cached && e.2.pins != [] && e.2.bank == bank)
  let bs := s.roomyBanks bank
  match mine.find? (fun e => mine.all (fun x => e.2.used ≤ x.2.used)) with
  | none => s
  | some e =>
    let (n, s) := s.pick bs.length
    match bs[n]? with
    | some b => s.setDir e.1 (e.2.moveTo b)
    | none => s
def State.trimBank (s : State) (bank : Nat) : State :=
  ((s.bankCopies bank).drop 4096).foldl (fun s _ => match (s.evictable bank).find? (s.goesFirst bank) with
    | some x => s.evictLine x.2.2.1 x.2.2.2
    | none => s.moveAside bank) s
def State.trimBanks (s : State) : State :=
  if s.dir.foldl (fun n e => n + 1 + e.2.replicas.length) 0 ≤ 4096 then s
  else (distinct (s.dir.flatMap (fun e => e.2.bank :: e.2.replicas.map (fun r => s.replicaBank e.1 r.1)))).foldl (fun s b => s.trimBank b) s

/-- The deep tier has room for one unit more of those that hold data (R22). -/
def State.deepRoom (s : State) : Bool :=
  ((distinct (s.frames.map (fun b => b.1 / 65536))).filter (fun u => !s.near.contains u)).length < Config.deepUnits
/-- The tier engine commits the move of a unit (R249), into a tier that has room for it (R22). Nothing that stays near goes deep, and nothing else before what goes first (R250);
a unit under a leaf with PIN = 1 finds room, if it must in place of one that need not stay. -/
def State.moveTier (s : State) (unit : Nat) (toNear : Bool) : State :=
  if isWindow (65536 * unit) then s
  else if !toNear then
    if !s.deepRoom || s.staysNear unit || (!s.goesDeep unit && s.near.any s.goesDeep) then s else { s with near := s.near.filter (fun u => u != unit) }
  else
    let t := s.comeNear unit
    if t.near.contains unit || s.retired.contains unit || !s.staysNear unit then t
    else match s.near.filter (fun u => !s.staysNear u) with
      | [] => s
      | u :: _ => { s with near := s.near.filter (fun x => x != u) ++ [unit] }
def execTierMove (unit : Nat) (toNear : Bool) (s : State) : Host.Outcome State Fault Refusal := .next (s.moveTier unit toNear)

end Sys2Proof.Machine
end

