-- ==== Sys2Proof/Machine/Registers.lean ====
section
/-! DEFINITION. The registers of the management block and of the interfaces (spec/12 R281, spec/17 R414 R422, spec/18 R433, spec/19
R438-R446, spec/20 R456 R458): what a read returns and what a write does; function-level and port resets (R449, R456); peers (R436). -/

namespace Sys2Proof.Machine

/-! ### Reads -/

def Ring.bits (r : Ring) : Nat := r.logn.toNat + r.hptr.toNat * 2 ^ 16 + r.dptr.toNat * 2 ^ 32
def phaseCode : Phase → Nat
  | .rom => 0
  | .sigchk => 1
  | .ftest => 2
  | .hbm => 3
  | .net => 4
  | .seal => 5
  | .enum => 6
  | .ready => 7
  | .failed => 0xF
def planeCode : PlaneState → Nat
  | .stable => 0
  | .loading => 1
  | .switching => 2
  | .draining => 3
/-- BOOT_STAT (R458). -/
def Boot.stat (b : Boot) : Nat :=
  phaseCode b.phase + b.err.toNat * 2 ^ 4 + b.maint.toNat * 2 ^ 12 + b.sealed.toNat * 2 ^ 13 + b.trans.toNat * 2 ^ 14 + b.sver.toNat * 2 ^ 16
    + b.cache.toNat * 2 ^ 32 + b.bgen.toNat * 2 ^ 48
def DomSet.bits (d : DomSet) : Nat := d.nslice.toNat + d.hmask.toNat * 2 ^ 16
/-- Injection into some network of a plane is paused in a field. -/
def State.pauseBit (s : State) (f : Nat) : Bool := (List.range 6).any (fun n => s.paused f (n / 3) (n % 3))
/-- What a register holds. -/
def State.regValue (s : State) (r : Reg) : Nat :=
  match r with
  | .bootStat => s.boot.stat
  | .bootCtl => 0
  | .pfEqBase p => (s.pfAt p).base.toNat * 4096
  | .pfEqPtr p => (s.pfAt p).ring.bits + (s.pfAt p).lost.toNat * 2 ^ 48
  | .viCfg n =>
    let v := s.viAt n
    v.en.toNat + v.ceil.toNat * 2 + v.wbw.toNat * 8 + v.cquota.toNat * 2 ^ 16 + v.gquota.toNat * 2 ^ 32 + v.pquota.toNat * 2 ^ 48
  | .viPart n => (s.viAt n).nclus.toNat + (s.viAt n).partLaddr.toNat * 2 ^ 16
  | .domCtl n =>
    let d := (s.viAt n).dom
    d.sel.toNat + d.wb.toNat * 2 + d.sw.toNat * 4 + d.err.toNat * 8
  | .domSet n one => (if one then (s.viAt n).dom.set1 else (s.viAt n).dom.set0).bits
  | .domList n one => (if one then (s.viAt n).dom.set1 else (s.viAt n).dom.set0).laddr.toNat * 8
  | .domStat n => (s.viAt n).dom.wblines.toNat
  | .netCtl f => (s.planeAt 0).act.toNat + (s.planeAt 1).act.toNat * 2 + planeCode (s.planeAt 0).st * 4 + planeCode (s.planeAt 1).st * 16
      + (s.pauseBit f).toNat * 64
  | .netArb f =>
    let x := s.fieldAt f
    x.agemax.toNat + x.wn.toNat * 2 ^ 6 + x.we.toNat * 2 ^ 10 + x.ws.toNat * 2 ^ 14 + x.ww.toNat * 2 ^ 18 + x.wl.toNat * 2 ^ 22 + x.wx.toNat * 2 ^ 26
  | .netStat f => (s.fieldAt f).dead.toNat + (s.fieldAt f).reinj.toNat * 2 ^ 16 + (s.fieldAt f).escn.toNat * 2 ^ 32
  | .rotCtl f => (s.fieldAt f).rotEn.toNat + (s.fieldAt f).intv.toNat * 2 + (s.fieldAt f).delta.toNat * 2 ^ 7 + (s.fieldAt f).maxp.toNat * 2 ^ 12
  | .rotStat f => (s.fieldAt f).moved.toNat + (s.fieldAt f).skipped.toNat * 2 ^ 32
  | .verOffer n => (s.viAt n).maxv.toNat + (s.viAt n).minv.toNat * 2 ^ 16
  | .verAgree n => (s.viAt n).agreed.toNat + (s.viAt n).ok.toNat * 2 ^ 16 + (s.viAt n).fail.toNat * 2 ^ 17 + 3 * 2 ^ 32 + 2 ^ 48
  | .ctxRoot n => (s.viAt n).ctxRoot.toNat * 4096
  | .saveBase n => (s.viAt n).saveBase.toNat * 4096
  | .wdog n => (s.viAt n).ilog.toNat + (s.viAt n).ien.toNat * 32 + (s.viAt n).hlim.toNat * 2 ^ 32
  | .saveLen n => (s.viAt n).saveLen.toNat * 4096
  | .sqBase n => (s.viAt n).sqBase.toNat * 4096
  | .cqBase n => (s.viAt n).cqBase.toNat * 4096
  | .eqBase n => (s.viAt n).eqBase.toNat * 4096
  | .sqPtr n => (s.viAt n).sq.bits
  | .cqPtr n => (s.viAt n).cq.bits
  | .eqPtr n => (s.viAt n).eq.bits
  | .msix n w => (tget (if w % 2 = 1 then 2 ^ 32 else 0) (s.viAt n).msix w).toNat
/-- Registers that answer before READY (R456). -/
def earlyReg : Reg → Bool
  | .bootStat => true
  | .bootCtl => true
  | _ => false
/-- A read by the host (R456). -/
def State.readReg (s : State) (r : Reg) : Word64 :=
  if earlyReg r || s.boot.phase == .ready then BitVec.ofNat 64 (s.regValue r) else 0

/-! ### Writes -/

/-- Management registers take writes once READY; an interface's own block once the interface is enabled too (R439, R456). -/
def State.writable (s : State) : Bool := s.boot.phase == .ready
def State.viWritable (s : State) (vi : Nat) : Bool := s.boot.phase == .ready && vi < 128 && (s.viAt vi).en
/-- A pointer register: LOGN and HPTR (R443). -/
def Ring.write (r : Ring) (x : Nat) : Ring := { r with logn := BitVec.ofNat 4 x, hptr := BitVec.ofNat 16 (x / 2 ^ 16) }
def State.writeSqPtr (s : State) (vi x : Nat) : State :=
  if !s.viWritable vi then s
  else
    let v := s.viAt vi
    let v := { v with sq := v.sq.write x }
    (s.setVi vi v).badCmds vi v.sq.size
def State.writeCqPtr (s : State) (vi x : Nat) : State :=
  if !s.viWritable vi then s
  else
    let v := s.viAt vi
    (s.setVi vi { v with cq := v.cq.write x }).flushRings vi
def State.writeEqPtr (s : State) (vi x : Nat) : State :=
  if !s.viWritable vi then s
  else
    let v := s.viAt vi
    (s.setVi vi { v with eq := v.eq.write x }).flushRings vi
def execSqPtr (vi : Nat) (value : Word64) (s : State) : Host.Outcome State Fault Refusal := .next (s.writeSqPtr vi value.toNat)
def execCqPtr (vi : Nat) (value : Word64) (s : State) : Host.Outcome State Fault Refusal := .next (s.writeCqPtr vi value.toNat)
def execEqPtr (vi : Nat) (value : Word64) (s : State) : Host.Outcome State Fault Refusal := .next (s.writeEqPtr vi value.toNat)
/-- PF_EQ_PTR: a change of LOGN clears LOST, and held entries are written (R446). -/
def State.writePfPtr (s : State) (pf x : Nat) : State :=
  if !s.writable || 4 ≤ pf then s
  else
    let p := s.pfAt pf
    (s.setPf pf { p with ring := p.ring.write x, lost := if (p.ring.write x).logn = p.ring.logn then p.lost else 0 }).flushPf pf
def execPfEqPtr (pf : Nat) (value : Word64) (s : State) : Host.Outcome State Fault Refusal := .next (s.writePfPtr pf value.toNat)

/-- VER_OFFER (R442). -/
def Vi.offer (v : Vi) (maxv minv : Nat) : Vi :=
  let a := minN maxv 3
  let v := { v with maxv := BitVec.ofNat 16 maxv, minv := BitVec.ofNat 16 minv }
  if maxN minv 1 ≤ a then { v with agreed := BitVec.ofNat 16 a, ok := true, fail := false } else { v with ok := false, fail := true }
def State.writeOffer (s : State) (vi x : Nat) : State :=
  if !s.viWritable vi then s
  else
    let v := (s.viAt vi).offer (bits x 15 0) (bits x 31 16)
    (s.setVi vi v).badCmds vi v.sq.size
def execVerOffer (vi : Nat) (value : Word64) (s : State) : Host.Outcome State Fault Refusal := .next (s.writeOffer vi value.toNat)

/-- The clusters of a partition table: current handles of clusters that no other enabled partition has (R440). -/
def State.readPart (s : State) (vi : Nat) : Option (List Nat) :=
  let v := s.viAt vi
  (List.range v.nclus.toNat).mapM (fun i =>
    let x := memRead s.hostMem (65536 * v.partLaddr.toNat + 8 * i) 8
    match s.boot.clusters.find? (fun c => (s.handle 2 c).toNat == x) with
    | some c => if s.vis.any (fun e => e.1 != vi && e.2.en && e.2.part.contains c) then none else some c
    | none => none)
/-- VI_CFG: EN reads the partition table and rebinds the map, or its rise is ignored (R439, R440). -/
def State.writeViCfg (s : State) (vi x : Nat) : State :=
  if !s.writable || 128 ≤ vi then s
  else
    let v := s.viAt vi
    let w := { v with ceil := BitVec.ofNat 2 (x / 2), wbw := BitVec.ofNat 8 (x / 8) }
    let w := if v.en then w else { w with
      cquota := BitVec.ofNat 16 (x / 2 ^ 16), gquota := BitVec.ofNat 16 (x / 2 ^ 32), pquota := BitVec.ofNat 16 (x / 2 ^ 48) }
    let s := s.setVi vi w
    if bitAt x 0 == v.en then s
    else if v.en then ((s.setVi vi { w with en := false, ended := false }).clearPins vi).rebind s.boot.clusters s.boot.slices
    else match s.readPart vi with
      | some l => (s.setVi vi { w with en := true, part := l }).rebind s.boot.clusters s.boot.slices
      | none => s
def execViEnable (vi : Nat) (value : Word64) (s : State) : Host.Outcome State Fault Refusal := .next (s.writeViCfg vi value.toNat)

/-- A launch of an interface is running (R441). -/
def State.launching (s : State) (vi : Nat) : Bool := s.launches.any (fun e => e.2.running && e.2.vi == vi)
/-- The fields of a field's registers (R414, R433). -/
def Field.writeArb (f : Field) (x : Nat) : Field :=
  { f with
    agemax := BitVec.ofNat 6 x
    wn := BitVec.ofNat 4 (x / 2 ^ 6)
    we := BitVec.ofNat 4 (x / 2 ^ 10)
    ws := BitVec.ofNat 4 (x / 2 ^ 14)
    ww := BitVec.ofNat 4 (x / 2 ^ 18)
    wl := BitVec.ofNat 4 (x / 2 ^ 22)
    wx := BitVec.ofNat 4 (x / 2 ^ 26) }
def Field.writeRot (f : Field) (x : Nat) : Field :=
  { f with
    rotEn := bitAt x 0
    intv := BitVec.ofNat 6 (x / 2)
    delta := BitVec.ofNat 5 (x / 2 ^ 7)
    maxp := BitVec.ofNat 4 (x / 2 ^ 12) }
/-- A set that is not in force takes a write (R281). -/
def Domain.writeSet (d : Domain) (one : Bool) (f : DomSet → DomSet) : Domain :=
  if d.sel = one then d else if one then { d with set1 := f d.set1 } else { d with set0 := f d.set0 }
def State.viWrite (s : State) (vi : Nat) (f : Vi → Vi) : State := if s.viWritable vi then s.setVi vi (f (s.viAt vi)) else s
def State.mgmtWrite (s : State) (vi : Nat) (f : Vi → Vi) : State := if s.writable && vi < 128 then s.setVi vi (f (s.viAt vi)) else s
def page (x : Nat) : BitVec 52 := BitVec.ofNat 52 (x / 4096)
/-- A write of a register. -/
def State.writeReg (s : State) (r : Reg) (x : Nat) : State :=
  match r with
  | .bootStat => s
  | .bootCtl => s.writeBootCtl x
  | .pfEqBase p => if s.writable && p < 4 then s.setPf p { s.pfAt p with base := page x } else s
  | .pfEqPtr p => s.writePfPtr p x
  | .viCfg n => s.writeViCfg n x
  | .viPart n => s.mgmtWrite n (fun v => if v.en then v else { v with nclus := BitVec.ofNat 14 x, partLaddr := BitVec.ofNat 48 (x / 2 ^ 16) })
  | .domCtl n => if s.writable && n < 128 then s.writeDomCtl n x else s
  | .domSet n one => s.mgmtWrite n (fun v => { v with dom := v.dom.writeSet one (fun d =>
      { d with nslice := BitVec.ofNat 11 x, hmask := BitVec.ofNat 14 (x / 2 ^ 16) }) })
  | .domList n one => s.mgmtWrite n (fun v => { v with dom := v.dom.writeSet one (fun d => { d with laddr := BitVec.ofNat 45 (x / 8) }) })
  | .domStat _ => s
  | .netCtl _ => s
  | .netArb f => if s.writable && allFields.contains f then s.setField f ((s.fieldAt f).writeArb x) else s
  | .netStat _ => s
  | .rotCtl f => if s.writable && allFields.contains f then s.setField f ((s.fieldAt f).writeRot x) else s
  | .rotStat _ => s
  | .verOffer n => s.writeOffer n x
  | .verAgree _ => s
  | .ctxRoot n => if s.launching n then s else s.viWrite n (fun v => { v with ctxRoot := BitVec.ofNat 36 (x / 4096) })
  | .saveBase n => s.viWrite n (fun v => { v with saveBase := page x, areaFresh := false })
  | .wdog n => s.viWrite n (fun v => { v with
      ilog := BitVec.ofNat 5 (maxN 20 (x % 32)), ien := bitAt x 5, hlim := BitVec.ofNat 32 (x / 2 ^ 32) })
  | .saveLen n => s.viWrite n (fun v => { v with saveLen := page x, areaFresh := false })
  | .sqBase n => s.viWrite n (fun v => { v with sqBase := page x })
  | .cqBase n => s.viWrite n (fun v => { v with cqBase := page x })
  | .eqBase n => s.viWrite n (fun v => { v with eqBase := page x })
  | .sqPtr n => s.writeSqPtr n x
  | .cqPtr n => s.writeCqPtr n x
  | .eqPtr n => s.writeEqPtr n x
  | .msix n w => s.viWrite n (fun v => if w < 4 then { v with msix := tset w (BitVec.ofNat 64 x) v.msix } else v)
def execRegisterWrite (reg : Reg) (value : Word64) (s : State) : Host.Outcome State Fault Refusal := .next (s.writeReg reg value.toNat)

/-! ### Where the registers lie (R281, R433, R438, R441, R446, R458) -/

/-- The register of a domain at an offset of its block (R281). -/
def domainReg (vi offset : Nat) : Option Reg :=
  match offset with
  | 0x00 => some (.domCtl vi)
  | 0x08 => some (.domSet vi false)
  | 0x10 => some (.domSet vi true)
  | 0x18 => some (.domList vi false)
  | 0x20 => some (.domList vi true)
  | 0x28 => some (.domStat vi)
  | _ => none
/-- The register of a field at an offset of its block; 0x28 to 0x3F are reserved (R438). -/
def fieldReg (field offset : Nat) : Option Reg :=
  match offset with
  | 0x00 => some (.netCtl field)
  | 0x08 => some (.netArb field)
  | 0x10 => some (.netStat field)
  | 0x18 => some (.rotCtl field)
  | 0x20 => some (.rotStat field)
  | _ => none
/-- The register at an offset of the management block (R438, R446, R458). -/
def managementReg (o : Nat) : Option Reg :=
  if o = 0 then some .bootStat
  else if o = 8 then some .bootCtl
  else if 0x100 ≤ o ∧ o < 0x180 then
    let p := (o - 0x100) / 0x20
    if o % 0x20 = 0 then some (.pfEqBase p) else if o % 0x20 = 8 then some (.pfEqPtr p) else none
  else if 0x10000 ≤ o ∧ o < 0x11000 then
    let n := (o - 0x10000) / 0x20
    if o % 0x20 = 0 then some (.viCfg n) else if o % 0x20 = 8 then some (.viPart n) else none
  else if 0x20000 ≤ o ∧ o < 0x22000 then domainReg ((o - 0x20000) / 0x40) (o % 0x40)
  else if 0x40000 ≤ o ∧ allFields.contains ((o - 0x40000) / 0x40) then fieldReg ((o - 0x40000) / 0x40) (o % 0x40)
  else none
/-- The register of an interface at an offset of its BAR0 (R441). -/
def barReg (vi offset : Nat) : Option Reg :=
  match offset with
  | 0x000 => some (.verOffer vi)
  | 0x008 => some (.verAgree vi)
  | 0x010 => some (.ctxRoot vi)
  | 0x018 => some (.saveBase vi)
  | 0x020 => some (.wdog vi)
  | 0x028 => some (.saveLen vi)
  | 0x100 => some (.sqBase vi)
  | 0x108 => some (.sqPtr vi)
  | 0x110 => some (.cqBase vi)
  | 0x118 => some (.cqPtr vi)
  | 0x120 => some (.eqBase vi)
  | 0x128 => some (.eqPtr vi)
  | o => if 0x1000 ≤ o ∧ o < 0x1020 ∧ o % 8 = 0 then some (.msix vi ((o - 0x1000) / 8)) else none
/-- The interface that is a VF of a port (R438). -/
def viOfVf (port vf : Nat) : Option Nat := if port < hostPorts ∧ 1 ≤ vf ∧ vf ≤ 32 then some (32 * port + vf - 1) else none
/-- The register that an access reaches. -/
def Access.reg : Access → Option Reg
  | .management pf o => if pf < 4 then managementReg o else none
  | .bar port vf o => (viOfVf port vf).bind (fun n => barReg n o)
/-- A read and a write by an offset; where there is no register a read returns zero and a write is ignored. -/
def State.accessRead (s : State) (a : Access) : State :=
  { s with answers := s.answers ++ [.register a (match a.reg with | some r => s.readReg r | none => 0)] }
def State.accessWrite (s : State) (a : Access) (x : Word64) : State := match a.reg with | some r => s.writeReg r x.toNat | none => s

/-! ### Queries of the host (R84, R277, R405, R421, R455) -/

/-- What the host query reports. -/
def State.queryValues (s : State) (q : Query) : List Nat :=
  match q with
  | .charge => [Config.chargeThreshold]
  | .placement => [s.placement.moveAfter, s.placement.window]
  | .controlling vi => [portField (vi / 32)]
  | .softErrors f => [(s.fieldAt f).soft]
  | .sliceList => (s.viAt 0).dom.live.slices.map (fun n => (s.handle 4 n).toNat)
def State.ask (s : State) (q : Query) : State := if s.writable then { s with answers := s.answers ++ [.query q (s.queryValues q)] } else s
/-- Firmware changes the thresholds of the placement engine (R277). -/
def State.setThresholds (s : State) (moveAfter window : Nat) : State :=
  { s with placement := { s.placement with moveAfter := maxN 1 moveAfter, window := window } }

/-! ### Resets of a function and of a port -/

/-- A line of a domain is clean, without replicas and without the marks of the interface (R296). -/
def State.resetLine (s : State) (vi line : Nat) : State :=
  let s := s.cleanHome line
  let d := (s.dirAt line).collapse none
  s.setDir line { d with pins := d.pins.filter (fun p => p != vi) }
/-- An interface after a function-level reset: VI_CFG, VI_PART and the domain are kept (R449). -/
def Vi.afterFlr (v : Vi) : Vi :=
  { Vi.init with
    en := v.en
    ceil := v.ceil
    wbw := v.wbw
    cquota := v.cquota
    gquota := v.gquota
    pquota := v.pquota
    nclus := v.nclus
    partLaddr := v.partLaddr
    part := v.part
    dom := v.dom
    sites := v.sites
    nextReq := v.nextReq }
/-- A function-level reset (R449). -/
def State.flr (s : State) (vi : Nat) : State :=
  let s := s.flushContext vi
  let s := (s.endWb vi).endSwitch vi
  let s := (s.domainLines vi).foldl (fun s l => s.resetLine vi l) s
  let s := s.clearPins vi
  let s := (s.freeGroves vi).stopLaunches vi
  s.setVi vi (s.viAt vi).afterFlr
def execFunctionLevelReset (vi : Nat) (s : State) : Host.Outcome State Fault Refusal := .next (s.flr vi)
/-- A PCIe reset of one of the four host ports retrains that port alone (R24, R456): nothing else changes. -/
def execHostPortReset (_port : Nat) (s : State) : Host.Outcome State Fault Refusal := .next s

/-! ### Peers (R436) -/

/-- Bytes that come over a peer link are written at the home of their line; its replicas stay (R279). -/
def State.peerPut (s : State) (line : Nat) (bs : List (Nat × Byte)) : State :=
  if (s.dirAt line).cached then s.homePut 0 line bs
  else
    let b := memBlock s.frames 128 line
    let s := { s with frames := bs.foldl (fun (m : Mem) (x : Nat × Byte) => memSet (128 * line + x.1) x.2 m) s.frames, past := (line, b) :: s.past }
    s.noteHome line b (putBytes bs b)
/-- A unit of 64 bytes. -/
def unitBytes (unit : Nat) (data : List Byte) : List (Nat × Byte) := (List.range 64).map (fun i => (64 * (unit % 2) + i, (data[i]?).getD 0))
/-- The link that a request comes over. -/
def peerPort : PeerReq → Nat
  | .read port _ => port
  | .write port _ _ => port
  | .atomic port _ _ _ _ _ => port
  | .cas port _ _ _ _ _ => port
/-- An element of a unit takes the value that a function gives for its old one, which the peer is answered. -/
def State.peerAtomic (s : State) (port unit elem : Nat) (ty : BitVec 5) (f : Nat → Nat) : State :=
  let n := tyBits ty.toNat / 8
  let pa := 64 * unit + elem * n % 64
  let old := s.homeRead pa n
  let s := s.peerPut (pa / 128) (elemBytes pa n (f old))
  { s with answers := s.answers ++ [.peer port (bytesOf old n)] }
/-- The unit of 64 bytes that a peer request names. -/
def peerUnit : PeerReq → Nat
  | .read _ u => u
  | .write _ u _ => u
  | .atomic _ u _ _ _ _ => u
  | .cas _ u _ _ _ _ => u
/-- A peer request is performed at the home. -/
def State.peerDo (s : State) (r : PeerReq) : State :=
  match r with
  | .read port unit => { s with answers := s.answers ++ [.peer port (bytesOf (s.homeRead (64 * unit) 64) 64)] }
  | .write _ unit data => s.peerPut (unit / 2) (unitBytes unit data)
  | .atomic port unit op ty elem x =>
    s.peerAtomic port unit elem ty (fun old => atomOp op.toNat ty.toNat old (x.toNat % 2 ^ tyBits ty.toNat))
  | .cas port unit ty elem expect x =>
    s.peerAtomic port unit elem ty (fun old => if old = expect.toNat % 2 ^ tyBits ty.toNat then x.toNat % 2 ^ tyBits ty.toNat else old)
/-- A request over one of the sixteen peer links (R24), once the device is ready (R456); it waits on a staged update of its line (R216). -/
def State.peer (s : State) (r : PeerReq) : State :=
  if peerPorts ≤ peerPort r || !s.writable then s
  else if s.stagedLine (peerUnit r / 2) then
    { s with peerQ := s.peerQ ++ [(s.nextId, r)], nextId := s.nextId + 1 }.holdAt (.peer s.nextId) [peerUnit r / 2]
  else s.peerDo r
/-- A peer request that waited is served once its line has no staged update. -/
def State.servePeer (s : State) (name : Nat) : State :=
  match s.peerQ.find? (fun e => e.1 == name) with
  | none => s
  | some e => if s.stagedLine (peerUnit e.2 / 2) then s else { s with peerQ := s.peerQ.filter (fun x => x.1 != name) }.peerDo e.2
def execPeerServe (name : Nat) (s : State) : Host.Outcome State Fault Refusal := .next (s.servePeer name)
/-- The oldest write in a port's posted-write queue leaves it (R437). -/
def execPostedWrite (port : Nat) (s : State) : Host.Outcome State Fault Refusal := .next (s.leavePort port)
def execPeerRequest (r : PeerReq) (s : State) : Host.Outcome State Fault Refusal := .next (s.peer r)

/-! ### The host driver's writes of global memory (spec/22 R459, R463) -/

/-- The physical address that an address of a context translates to at once for a write. -/
def State.hostXlate (s : State) (vi va : Nat) : Option Nat :=
  match s.walkVi vi va with
  | .fault _ => none
  | .ok l => match leafAccess .write va l with
    | .fault _ => none
    | .ok (pa, _) => some pa
/-- Bytes that the host driver writes at an address of an enabled interface's context, where all of them translate; each at the home of its
line, and none as long as a line has a staged update (R216). -/
def State.memoryPut (s : State) (vi va : Nat) (bs : List Byte) : State :=
  let xs := ((List.range bs.length).zip bs).map (fun b => (s.hostXlate vi (va + b.1), b.2))
  if !s.viWritable vi || xs.any (fun x => match x.1 with | some pa => s.stagedLine (pa / 128) | none => true) then s
  else xs.foldl (fun s x => match x.1 with | some pa => s.peerPut (pa / 128) [(pa % 128, x.2)] | none => s) s

end Sys2Proof.Machine
end

