-- ==== Sys2Proof/Machine/Dispatch.lean ====
section
/-! DEFINITION. Every instruction and event to its meaning: one arm per constructor of Instr. -/

namespace Sys2Proof.Machine

/-- The meaning of an instruction or event at a state. -/
def exec (i : Instr) (s : State) : Host.Outcome State Fault Refusal :=
  match i with
  | .bra f => Sys2Proof.Machine.execBra f s
  | .braFar f => Sys2Proof.Machine.execBraFar f s
  | .brx f => Sys2Proof.Machine.execBrx f s
  | .call f => Sys2Proof.Machine.execCall f s
  | .callFar f => Sys2Proof.Machine.execCallFar f s
  | .calx f => Sys2Proof.Machine.execCalx f s
  | .ret f => Sys2Proof.Machine.execRet f s
  | .exit f => Sys2Proof.Machine.execExit f s
  | .split f => Sys2Proof.Machine.execSplit f s
  | .join f => Sys2Proof.Machine.execJoin f s
  | .rset f => Sys2Proof.Machine.execRset f s
  | .rwait f => Sys2Proof.Machine.execRwait f s
  | .rcancel f => Sys2Proof.Machine.execRcancel f s
  | .yield f => Sys2Proof.Machine.execYield f s
  | .yieldL f => Sys2Proof.Machine.execYieldL f s
  | .yieldLEnd f => Sys2Proof.Machine.execYieldLEnd f s
  | .sleep f => Sys2Proof.Machine.execSleep f s
  | .elect f => Sys2Proof.Machine.execElect f s
  | .vote f => Sys2Proof.Machine.execVote f s
  | .voteBallot f => Sys2Proof.Machine.execVoteBallot f s
  | .actm f => Sys2Proof.Machine.execActm f s
  | .nop f => Sys2Proof.Machine.execNop f s
  | .claim f => Sys2Proof.Machine.execClaim f s
  | .enq f => Sys2Proof.Machine.execEnq f s
  | .enqItemPush stand => Sys2Proof.Machine.execEnqItemPush stand s
  | .deq f => Sys2Proof.Machine.execDeq f s
  | .qstat f => Sys2Proof.Machine.execQstat f s
  | .graftShut f => Sys2Proof.Machine.execGraftShut f s
  | .graftOpen f => Sys2Proof.Machine.execGraftOpen f s
  | .migrHeart f => Sys2Proof.Machine.execMigrHeart f s
  | .migrSap f => Sys2Proof.Machine.execMigrSap f s
  | .migrCancel f => Sys2Proof.Machine.execMigrCancel f s
  | .migrQ f => Sys2Proof.Machine.execMigrQ f s
  | .add f => Sys2Proof.Machine.execAdd f s
  | .addc f => Sys2Proof.Machine.execAddc f s
  | .sub f => Sys2Proof.Machine.execSub f s
  | .subc f => Sys2Proof.Machine.execSubc f s
  | .mulLo f => Sys2Proof.Machine.execMulLo f s
  | .mulHi f => Sys2Proof.Machine.execMulHi f s
  | .mad f => Sys2Proof.Machine.execMad f s
  | .madWide f => Sys2Proof.Machine.execMadWide f s
  | .min f => Sys2Proof.Machine.execMin f s
  | .max f => Sys2Proof.Machine.execMax f s
  | .abs f => Sys2Proof.Machine.execAbs f s
  | .neg f => Sys2Proof.Machine.execNeg f s
  | .and f => Sys2Proof.Machine.execAnd f s
  | .or f => Sys2Proof.Machine.execOr f s
  | .xor f => Sys2Proof.Machine.execXor f s
  | .not f => Sys2Proof.Machine.execNot f s
  | .shl f => Sys2Proof.Machine.execShl f s
  | .shr f => Sys2Proof.Machine.execShr f s
  | .sar f => Sys2Proof.Machine.execSar f s
  | .rot f => Sys2Proof.Machine.execRot f s
  | .bfe f => Sys2Proof.Machine.execBfe f s
  | .bfi f => Sys2Proof.Machine.execBfi f s
  | .popc f => Sys2Proof.Machine.execPopc f s
  | .clz f => Sys2Proof.Machine.execClz f s
  | .ctz f => Sys2Proof.Machine.execCtz f s
  | .brev f => Sys2Proof.Machine.execBrev f s
  | .sel f => Sys2Proof.Machine.execSel f s
  | .cmp f => Sys2Proof.Machine.execCmp f s
  | .mov f => Sys2Proof.Machine.execMov f s
  | .movFirst f => Sys2Proof.Machine.execMovFirst f s
  | .moviW128 f => Sys2Proof.Machine.execMoviW128 f s
  | .lea f => Sys2Proof.Machine.execLea f s
  | .shfl f => Sys2Proof.Machine.execShfl f s
  | .perm f => Sys2Proof.Machine.execPerm f s
  | .pand f => Sys2Proof.Machine.execPand f s
  | .por f => Sys2Proof.Machine.execPor f s
  | .pxor f => Sys2Proof.Machine.execPxor f s
  | .pnot f => Sys2Proof.Machine.execPnot f s
  | .addImm f => Sys2Proof.Machine.execAddImm f s
  | .subImm f => Sys2Proof.Machine.execSubImm f s
  | .mulLoImm f => Sys2Proof.Machine.execMulLoImm f s
  | .minImm f => Sys2Proof.Machine.execMinImm f s
  | .maxImm f => Sys2Proof.Machine.execMaxImm f s
  | .andImm f => Sys2Proof.Machine.execAndImm f s
  | .orImm f => Sys2Proof.Machine.execOrImm f s
  | .xorImm f => Sys2Proof.Machine.execXorImm f s
  | .shlImm f => Sys2Proof.Machine.execShlImm f s
  | .shrImm f => Sys2Proof.Machine.execShrImm f s
  | .sarImm f => Sys2Proof.Machine.execSarImm f s
  | .rotImm f => Sys2Proof.Machine.execRotImm f s
  | .cmpImm f => Sys2Proof.Machine.execCmpImm f s
  | .movi f => Sys2Proof.Machine.execMovi f s
  | .fadd f => Sys2Proof.Machine.execFadd f s
  | .fsub f => Sys2Proof.Machine.execFsub f s
  | .fmul f => Sys2Proof.Machine.execFmul f s
  | .fscale f => Sys2Proof.Machine.execFscale f s
  | .ffma f => Sys2Proof.Machine.execFfma f s
  | .fma2 f => Sys2Proof.Machine.execFma2 f s
  | .fdot2 f => Sys2Proof.Machine.execFdot2 f s
  | .fmin f => Sys2Proof.Machine.execFmin f s
  | .fmax f => Sys2Proof.Machine.execFmax f s
  | .fcmp f => Sys2Proof.Machine.execFcmp f s
  | .fclass f => Sys2Proof.Machine.execFclass f s
  | .frcp f => Sys2Proof.Machine.execFrcp f s
  | .frsq f => Sys2Proof.Machine.execFrsq f s
  | .fsqrt f => Sys2Proof.Machine.execFsqrt f s
  | .fexp2 f => Sys2Proof.Machine.execFexp2 f s
  | .flog2 f => Sys2Proof.Machine.execFlog2 f s
  | .fsin f => Sys2Proof.Machine.execFsin f s
  | .fcos f => Sys2Proof.Machine.execFcos f s
  | .dadd f => Sys2Proof.Machine.execDadd f s
  | .dmul f => Sys2Proof.Machine.execDmul f s
  | .dfma f => Sys2Proof.Machine.execDfma f s
  | .dcmp f => Sys2Proof.Machine.execDcmp f s
  | .cvt f => Sys2Proof.Machine.execCvt f s
  | .pack f => Sys2Proof.Machine.execPack f s
  | .unpack f => Sys2Proof.Machine.execUnpack f s
  | .qpack f => Sys2Proof.Machine.execQpack f s
  | .qunpack f => Sys2Proof.Machine.execQunpack f s
  | .mres f => Sys2Proof.Machine.execMres f s
  | .mresDup f => Sys2Proof.Machine.execMresDup f s
  | .mrel f => Sys2Proof.Machine.execMrel f s
  | .mtile f => Sys2Proof.Machine.execMtile f s
  | .mtileD f => Sys2Proof.Machine.execMtileD f s
  | .mlds f => Sys2Proof.Machine.execMlds f s
  | .mswap f => Sys2Proof.Machine.execMswap f s
  | .mstr f => Sys2Proof.Machine.execMstr f s
  | .mzero f => Sys2Proof.Machine.execMzero f s
  | .mdrn f => Sys2Proof.Machine.execMdrn f s
  | .mwait f => Sys2Proof.Machine.execMwait f s
  | .mq f => Sys2Proof.Machine.execMq f s
  | .ldG f => Sys2Proof.Machine.execLdG f s
  | .stG f => Sys2Proof.Machine.execStG f s
  | .ldS f => Sys2Proof.Machine.execLdS f s
  | .stS f => Sys2Proof.Machine.execStS f s
  | .ldC f => Sys2Proof.Machine.execLdC f s
  | .prf f => Sys2Proof.Machine.execPrf f s
  | .smap f => Sys2Proof.Machine.execSmap f s
  | .sunmap f => Sys2Proof.Machine.execSunmap f s
  | .swb f => Sys2Proof.Machine.execSwb f s
  | .lstep f => Sys2Proof.Machine.execLstep f s
  | .cmoCln f => Sys2Proof.Machine.execCmoCln f s
  | .cmoInv f => Sys2Proof.Machine.execCmoInv f s
  | .cmoCinv f => Sys2Proof.Machine.execCmoCinv f s
  | .dsc f => Sys2Proof.Machine.execDsc f s
  | .pin f => Sys2Proof.Machine.execPin f s
  | .unpin f => Sys2Proof.Machine.execUnpin f s
  | .zero f => Sys2Proof.Machine.execZero f s
  | .pqrySelf f => Sys2Proof.Machine.execPqrySelf f s
  | .pqryLine f => Sys2Proof.Machine.execPqryLine f s
  | .pqryRes f => Sys2Proof.Machine.execPqryRes f s
  | .pqryCnt f => Sys2Proof.Machine.execPqryCnt f s
  | .fenceAr f => Sys2Proof.Machine.execFenceAr f s
  | .fenceAcq f => Sys2Proof.Machine.execFenceAcq f s
  | .fenceRel f => Sys2Proof.Machine.execFenceRel f s
  | .fenceM f => Sys2Proof.Machine.execFenceM f s
  | .cpy f => Sys2Proof.Machine.execCpy f s
  | .cpyO f => Sys2Proof.Machine.execCpyO f s
  | .cpyTIn f => Sys2Proof.Machine.execCpyTIn f s
  | .cpyTOut f => Sys2Proof.Machine.execCpyTOut f s
  | .cpyTDef f => Sys2Proof.Machine.execCpyTDef f s
  | .cpwait f => Sys2Proof.Machine.execCpwait f s
  | .cpyield f => Sys2Proof.Machine.execCpyield f s
  | .cfe f => Sys2Proof.Machine.execCfe f s
  | .cpcan f => Sys2Proof.Machine.execCpcan f s
  | .chsend f => Sys2Proof.Machine.execChsend f s
  | .chrecv f => Sys2Proof.Machine.execChrecv f s
  | .chcfgSet f => Sys2Proof.Machine.execChcfgSet f s
  | .chcfgQ f => Sys2Proof.Machine.execChcfgQ f s
  | .atom f => Sys2Proof.Machine.execAtom f s
  | .atomCas f => Sys2Proof.Machine.execAtomCas f s
  | .red f => Sys2Proof.Machine.execRed f s
  | .redCell f => Sys2Proof.Machine.execRedCell f s
  | .crinit f => Sys2Proof.Machine.execCrinit f s
  | .arrive f => Sys2Proof.Machine.execArrive f s
  | .arriveW f => Sys2Proof.Machine.execArriveW f s
  | .crwait f => Sys2Proof.Machine.execCrwait f s
  | .crexp f => Sys2Proof.Machine.execCrexp f s
  | .crinv f => Sys2Proof.Machine.execCrinv f s
  | .gcreate f => Sys2Proof.Machine.execGcreate f s
  | .gjoin f => Sys2Proof.Machine.execGjoin f s
  | .gleave f => Sys2Proof.Machine.execGleave f s
  | .gbar f => Sys2Proof.Machine.execGbar f s
  | .gvote f => Sys2Proof.Machine.execGvote f s
  | .gred f => Sys2Proof.Machine.execGred f s
  | .gquery f => Sys2Proof.Machine.execGquery f s
  | .gdestroy f => Sys2Proof.Machine.execGdestroy f s
  | .groveEventApply stand => Sys2Proof.Machine.execGroveEventApply stand s
  | .rdsr f => Sys2Proof.Machine.execRdsr f s
  | .wrsr f => Sys2Proof.Machine.execWrsr f s
  | .trap f => Sys2Proof.Machine.execTrap f s
  | .tret f => Sys2Proof.Machine.execTret f s
  | .brk f => Sys2Proof.Machine.execBrk f s
  | .spl f => Sys2Proof.Machine.execSpl f s
  | .halt f => Sys2Proof.Machine.execHalt f s
  | .clauseHeader h => Sys2Proof.Machine.execClauseHeader h s
  | .markWord h => Sys2Proof.Machine.execMarkWord h s
  | .longLatencyComplete stand idx => Sys2Proof.Machine.execLongLatencyComplete stand idx s
  | .sleepEnd stand => Sys2Proof.Machine.execSleepEnd stand s
  | .trapEntry stand => Sys2Proof.Machine.execTrapEntry stand s
  | .deferredTrapTake stand => Sys2Proof.Machine.execDeferredTrapTake stand s
  | .standEnd stand => Sys2Proof.Machine.execStandEnd stand s
  | .issueWatchdog stand => Sys2Proof.Machine.execIssueWatchdog stand s
  | .launch vi tag record => Sys2Proof.Machine.execLaunch vi tag record s
  | .copseCreate launchId stage core => Sys2Proof.Machine.execCopseCreate launchId stage core s
  | .clusterReassign field => Sys2Proof.Machine.execClusterReassign field s
  | .stageComplete launchId stage => Sys2Proof.Machine.execStageComplete launchId stage s
  | .moveRoomSearch copse => Sys2Proof.Machine.execMoveRoomSearch copse s
  | .copseMigrate copse => Sys2Proof.Machine.execCopseMigrate copse s
  | .moveLapse copse => Sys2Proof.Machine.execMoveLapse copse s
  | .commandGrant cluster resv => Sys2Proof.Machine.execCommandGrant cluster resv s
  | .planeLoad cluster resv => Sys2Proof.Machine.execPlaneLoad cluster resv s
  | .passComplete cluster resv => Sys2Proof.Machine.execPassComplete cluster resv s
  | .operandLineArrive cluster resv => Sys2Proof.Machine.execOperandLineArrive cluster resv s
  | .matrixAssist cluster => Sys2Proof.Machine.execMatrixAssist cluster s
  | .drainCommit cluster resv => Sys2Proof.Machine.execDrainCommit cluster resv s
  | .detDrainCommit line => Sys2Proof.Machine.execDetDrainCommit line s
  | .pageAns vi tag id deny => Sys2Proof.Machine.execPageAns vi tag id deny s
  | .inval vi tag base len => Sys2Proof.Machine.execInval vi tag base len s
  | .regionFill copse line => Sys2Proof.Machine.execRegionFill copse line s
  | .regionWriteBack copse line => Sys2Proof.Machine.execRegionWriteBack copse line s
  | .tierMove unit toNear => Sys2Proof.Machine.execTierMove unit toNear s
  | .l1WriteBack core line => Sys2Proof.Machine.execL1WriteBack core line s
  | .homeMove line bank => Sys2Proof.Machine.execHomeMove line bank s
  | .lineEvict line replica => Sys2Proof.Machine.execLineEvict line replica s
  | .markerArrive stand slice => Sys2Proof.Machine.execMarkerArrive stand slice s
  | .domWb vi => Sys2Proof.Machine.execDomWb vi s
  | .domWbComplete vi => Sys2Proof.Machine.execDomWbComplete vi s
  | .domSwitch vi => Sys2Proof.Machine.execDomSwitch vi s
  | .domSwitchComplete vi => Sys2Proof.Machine.execDomSwitchComplete vi s
  | .copyLineDeliver copse seq => Sys2Proof.Machine.execCopyLineDeliver copse seq s
  | .copyStatusPush copse seq => Sys2Proof.Machine.execCopyStatusPush copse seq s
  | .preempt vi tag record ord bound hint => Sys2Proof.Machine.execPreempt vi tag record ord bound hint s
  | .preemptEval launchId => Sys2Proof.Machine.execPreemptEval launchId s
  | .copseSave copse => Sys2Proof.Machine.execCopseSave copse s
  | .drainLimit copse => Sys2Proof.Machine.execDrainLimit copse s
  | .copseRestore copse core => Sys2Proof.Machine.execCopseRestore copse core s
  | .restore vi tag image xlat xlatSize => Sys2Proof.Machine.execRestore vi tag image xlat xlatSize s
  | .debugCmd vi tag ord stand op => Sys2Proof.Machine.execDebugCmd vi tag ord stand op s
  | .shadeRotation field temps => Sys2Proof.Machine.execShadeRotation field temps s
  | .rateBoundary cluster => Sys2Proof.Machine.execRateBoundary cluster s
  | .pmbusReading r => Sys2Proof.Machine.execPmbusReading r s
  | .powerRemove => Sys2Proof.Machine.execPowerRemove s
  | .hostTimeout vi tag => Sys2Proof.Machine.execHostTimeout vi tag s
  | .uncorrectableError e => Sys2Proof.Machine.execUncorrectableError e s
  | .flitResend link => Sys2Proof.Machine.execFlitResend link s
  | .linkFail link => Sys2Proof.Machine.execLinkFail link s
  | .escapeResend slice plane => Sys2Proof.Machine.execEscapeResend slice plane s
  | .arbiterGrant plane net router output => Sys2Proof.Machine.execArbiterGrant plane net router output s
  | .tableChangeStart plane table => Sys2Proof.Machine.execTableChangeStart plane table s
  | .tableSwitching plane => Sys2Proof.Machine.execTableSwitching plane s
  | .tableDraining plane => Sys2Proof.Machine.execTableDraining plane s
  | .tableStable plane => Sys2Proof.Machine.execTableStable plane s
  | .verOffer vi value => Sys2Proof.Machine.execVerOffer vi value s
  | .sqPtr vi value => Sys2Proof.Machine.execSqPtr vi value s
  | .pfEqPtr pf value => Sys2Proof.Machine.execPfEqPtr pf value s
  | .viEnable vi value => Sys2Proof.Machine.execViEnable vi value s
  | .registerWrite reg value => Sys2Proof.Machine.execRegisterWrite reg value s
  | .functionLevelReset vi => Sys2Proof.Machine.execFunctionLevelReset vi s
  | .hostPortReset port => Sys2Proof.Machine.execHostPortReset port s
  | .coldReset => Sys2Proof.Machine.execColdReset s
  | .rst value => Sys2Proof.Machine.execRst value s
  | .sigchk candidate => Sys2Proof.Machine.execSigchk candidate s
  | .ftest => Sys2Proof.Machine.execFtest s
  | .hbm => Sys2Proof.Machine.execHbm s
  | .net => Sys2Proof.Machine.execNet s
  | .seal => Sys2Proof.Machine.execSeal s
  | .enum => Sys2Proof.Machine.execEnum s
  | .ready => Sys2Proof.Machine.execReady s
  | .getVersion pf => Sys2Proof.Machine.execGetVersion pf s
  | .getCapabilities pf => Sys2Proof.Machine.execGetCapabilities pf s
  | .negotiateAlgorithms pf => Sys2Proof.Machine.execNegotiateAlgorithms pf s
  | .getDigests pf => Sys2Proof.Machine.execGetDigests pf s
  | .getCertificate pf slot => Sys2Proof.Machine.execGetCertificate pf slot s
  | .challenge pf nonce => Sys2Proof.Machine.execChallenge pf nonce s
  | .getMeasurements pf index => Sys2Proof.Machine.execGetMeasurements pf index s
  | .peerRequest r => Sys2Proof.Machine.execPeerRequest r s
  | .cqPtr vi value => Sys2Proof.Machine.execCqPtr vi value s
  | .eqPtr vi value => Sys2Proof.Machine.execEqPtr vi value s

end Sys2Proof.Machine
end

