-- ==== Sys2Proof/Machine/Schedule.lean ====
section
/-! DEFINITION. Issue opportunities: the selector of a core (spec/03 R82, R84; spec/02 R44; spec/04 R106), the counts that an opportunity
advances (spec/17 R407, R420; spec/05 R131), and the moves that the device can make by itself (log 1). -/

namespace Sys2Proof.Machine

/-! ### The issue of a stand -/

/-- The issue of the next word of a stand: pad words are passed over, then the decoded word has its meaning. -/
def issueAt (k : Nat) : Nat → State → Host.Outcome State Fault Refusal
  | 0, s => .next s
  | n + 1, s =>
    match s.fetchAt k with
    | .fault c => .next (s.fetchFault k c)
    | .wait => .next (s.stalled k 10)
    | .word s .pad _ => issueAt k n (s.setStand k (s.standAt k).skipPad)
    | .word s (.ill c) w => .next (s.illWord k c w)
    | .word s (.instr i _) _ => exec i s
/-- What a stand does with its issue opportunity: a due deferred trap comes before its next word (R397). -/
def issueStand (k : Nat) (s : State) : Host.Outcome State Fault Refusal :=
  let st := s.standAt k
  if st.deferDue then .next (s.takeDeferred k) else if st.canIssue then issueAt k 8 { s with cur := k } else .next s

/-! ### The selector (R82, R84, R44) -/

/-- A stand that may come to issue: its copse is resident and no save holds it back but for a fence in progress (R317), and its core runs. -/
def State.runnable (s : State) (k : Nat) : Bool :=
  let st := s.standAt k
  let c := s.copseAt (copseOf k)
  (st.canIssue || st.deferDue) && c.life == .resident && !(s.coreAt c.core).stopped
    && (match c.drain with | some d => d.limit != some 0 || st.fencing | none => true)
/-- The stand as it is before a trial. -/
def State.untried (s : State) (k : Nat) : State :=
  let n := s.coreOf k
  (s.setStand k { s.standAt k with stall := 99 }).setCore n { s.coreAt n with lastHeavy := false }
/-- A trial: whether the stand is ready, and whether its next instruction is heavy. A stand that cannot complete its instruction yet but
takes a step of it (the start of a release, a page request, a line's first touch) needs the opportunity and counts as ready; so does one that
holds at a graft point (R130). -/
def State.trial (s : State) (k : Nat) : Bool × Bool :=
  if (s.standAt k).deferDue then ((s.standAt k).pend == [], false)
  else match issueStand k (s.untried k) with
    | .next t =>
      let w := (t.standAt k).stall
      let moved := { t.standAt k with stall := 0 } != { s.standAt k with stall := 0 } || t.copseAt (copseOf k) != s.copseAt (copseOf k)
      (!(1 ≤ w && w ≤ 10) || w = 5 || moved, (t.coreAt (s.coreOf k)).lastHeavy)
    | _ => (true, false)
/-- The stall that a trial of a stand meets, 0 for none. -/
def State.stallOf (s : State) (k : Nat) : Nat :=
  if (s.standAt k).deferDue then 0
  else match issueStand k (s.untried k) with
    | .next t => if (t.standAt k).stall ≤ 10 then (t.standAt k).stall else 0
    | _ => 0
/-- The ready stands of a core, each with whether its next instruction is heavy; a stand that is alone is taken as ready. -/
def State.readySet (s : State) (core : Nat) : List (Nat × Bool) :=
  match (s.standsOn core).filter s.runnable with
  | [k] => [(k, false)]
  | ks => ks.filterMap (fun k => let (r, h) := s.trial k; if r then some (k, h) else none)
/-- The PRIO of a stand's launch. -/
def State.prioOf (s : State) (k : Nat) : Nat := (s.launchAt (s.copseAt (copseOf k)).launch).prio
/-- The longest ready of a list. -/
def State.oldest (s : State) (ks : List (Nat × Bool)) : List Nat :=
  (ks.filter (fun x => ks.all (fun y => (s.standAt y.1).ready ≤ (s.standAt x.1).ready))).map Prod.fst
/-- The stands that the selector may choose, by the criteria of R82 in order. -/
def State.best (s : State) (core : Nat) (ks : List (Nat × Bool)) : List Nat :=
  let co := s.coreAt core
  let others := ks.filter (fun x => some x.1 != co.lastYield)
  let ks := if others = [] then ks else others
  let old := ks.filter (fun x => 1024 ≤ (s.standAt x.1).ready)
  if old != [] then s.oldest old
  else
    let top := ks.filter (fun x => ks.all (fun y => s.prioOf y.1 ≤ s.prioOf x.1))
    let light := top.filter (fun x => !x.2)
    let paired := co.lastHeavy && Config.chargeThreshold ≤ (s.clusterAt (clusterOf core)).chargeSum
    s.oldest (if paired && light != [] then light else top)
/-- The stand that issues at an opportunity that is offered to a stand: that one if the selector may choose it. -/
def State.chosen (s : State) (core k : Nat) (ks : List (Nat × Bool)) : Option Nat :=
  let b := match ks with | [x] => [x.1] | _ => s.best core ks
  if b.contains k then some k else b.head?

/-! ### What an opportunity advances -/

/-- Why each of several stands of a core that may come to issue would not issue now (R420); that of a stand alone is what its last try left. -/
def State.noteStalls (s : State) (core : Nat) : State :=
  match (s.standsOn core).filter s.runnable with
  | [_] => s
  | ks => ks.foldl (fun t k => t.setStand k { t.standAt k with stall := s.stallOf k }) s
/-- The watchdog counts an opportunity that has passed for those stands of a core that did not issue in it (R420). -/
def State.watch (s : State) (core : Nat) (old : State) : State :=
  (s.standsOn core).foldl (fun s k =>
    let st := s.standAt k
    if st.issues = (old.standAt k).issues ∧ s.countable k then s.setStand k { st with issueWait := st.issueWait + 1 } else s) s
/-- A stand at an issue opportunity of its core: the time it has been ready, and a sleep. -/
def State.tickStand (s : State) (ks : List (Nat × Bool)) (k : Nat) : State :=
  let st := s.standAt k
  s.setStand k { st with
    ready := if ks.any (fun x => x.1 == k) then st.ready + 1 else 0
    wait := match st.wait with | .sleep n => .sleep (n - 1) | w => w }
/-- A copse at an opportunity, with reference cycles that have passed: lapse, drain and the distance from its last graft point. -/
def Copse.tick (c : Copse) (cycles : Nat) : Copse :=
  { c with
    move := if c.move.state = .gather then { c.move with lapse := c.move.lapse + 1 } else c.move
    drain := c.drain.map (fun d => { d with opps := d.opps + 1, limit := d.limit.map (fun n => n - cycles) })
    sinceGraft := c.sinceGraft + 1 }
/-- An issue opportunity of a core passes. -/
def State.tick (s : State) (core : Nat) (ks : List (Nat × Bool)) : State :=
  let r := Config.refTicks s.free
  let cl := s.clusterAt (clusterOf core)
  let f := s.fieldAt (fieldOfCore core)
  let s := s.setCore core { s.coreAt core with opp := (s.coreAt core).opp + 1, lastYield := none }
  let t := Config.feTicks s.free
  let s := s.setCluster (clusterOf core) { cl with fe := cl.fe + t, halves := cl.halves + (if cl.rate = 0 then t else 2 * t) }
  let s := (s.setField (fieldOfCore core) { f with ref := f.ref + BitVec.ofNat 64 r }).tickInterval (fieldOfCore core) r
  let s := (s.copsesOn core).foldl (fun s c => s.setCopse c ((s.copseAt c).tick r)) s
  (((s.standsOn core).foldl (fun s k => s.tickStand ks k) s).trimL1 core).trimBanks.bump
/-- Those that stay ready: a single ready stand issues at once. -/
def waiting (ks : List (Nat × Bool)) : List (Nat × Bool) := if ks.length ≤ 1 then [] else ks
/-- What the stand comes to next consumes no issue opportunity: pad words (R46), or a mark word with the flags at zero (R39). -/
def unspent (k : Nat) : Nat → State → Bool
  | 0, _ => true
  | n + 1, s =>
    match s.fetchAt k with
    | .word s .pad _ => unspent k n (s.setStand k (s.standAt k).skipPad)
    | .word s (.instr (.markWord _) _) _ =>
      let st := s.standAt k
      st.pc.toNat % 32 + 8 ≤ 32 && st.raised (List.range 12) == []
    | _ => false
/-- A turn of a stand: an issue opportunity of its core passes, and the stand that the selector chooses has it. Nothing passes for what
consumes no opportunity; the selector issues no held stand (R130). -/
def issueTurn (k : Nat) (s : State) : Host.Outcome State Fault Refusal :=
  let core := s.coreOf k
  let s := s.noteStalls core
  let ks := s.readySet core
  match s.chosen core k (ks.filter (fun x => !s.holding x.1)) with
  | none => .next ((s.tick core ks).watch core s)
  | some j =>
    let st := s.standAt j
    if !st.deferDue && st.canIssue && unspent j 8 s then issueStand j s
    else match issueStand j (s.tick core (waiting ks)) with
      | .next t => .next (t.watch core s)
      | stop => stop

/-! ### Moves of the device by itself -/

/-- A move, as the meaning that takes it. -/
abbrev Auto := State → Host.Outcome State Fault Refusal

/-- What may happen to a stand beside its issue. -/
def State.standMoves (s : State) (k : Nat) : List Auto :=
  let st := s.standAt k
  (List.range st.pend.length).map (fun i => execLongLatencyComplete k i)
    ++ (if st.wait = .sleep 0 then [execSleepEnd k] else [])
    ++ (if st.trapWait.isSome then [execTrapEntry k] else [])
    ++ (if st.deferDue then [execDeferredTrapTake k] else [])
    ++ (if st.life = .ending then [execStandEnd k] else [])
    ++ (if 2 ^ (s.viAt (s.viOf k)).ilog.toNat ≤ st.issueWait then [execIssueWatchdog k] else [])
    ++ st.markers.map (fun m => execMarkerArrive k m.slice)
    ++ (match st.wait with | .enq .. => [execEnqItemPush k] | _ => [])
    ++ (if s.groveQ.any (fun e => e.stand == k) then [execGroveEventApply k] else [])
/-- What may happen to a copse. -/
def State.copseMoves (s : State) (c : Nat) : List Auto :=
  let x := s.copseAt c
  let serving := (s.clusters.filter (fun e => e.2.serves == some (x.launch, x.stage))).flatMap (fun e => coresOf e.1)
  x.copies.flatMap (fun y => [execCopyLineDeliver c y.seq, execCopyStatusPush c y.seq])
    ++ x.fills.map (fun y => if y.wb.isSome then execRegionWriteBack c y.line else execRegionFill c y.line)
    ++ (match x.move.state with
      | .pending => [execMoveRoomSearch c]
      | .gather => [execCopseMigrate c, execMoveLapse c]
      | _ => [])
    ++ (if x.drain.isSome then [execCopseSave c, execDrainLimit c] else [])
    ++ (if x.life = .saved then serving.map (fun n => execCopseRestore c n) else [])
/-- What may happen to a cluster and its engine. -/
def State.clusterMoves (s : State) (c : Nat) : List Auto :=
  let e := s.engineAt c
  execRateBoundary c :: (if e.assists = [] then [] else [execMatrixAssist c])
    ++ e.taken.flatMap (fun r =>
      [execCommandGrant c r.1, execPlaneLoad c r.1, execDrainPart c r.1, execPassComplete c r.1, execOperandLineArrive c r.1, execDrainCommit c r.1])
/-- What may happen to lines that are cached. -/
def State.lineMoves (s : State) : List Auto :=
  s.cores.flatMap (fun c => c.2.l1.map (fun l => execL1WriteBack c.1 l.1))
    ++ (s.pinnedRanges.flatMap (fun r => ((List.range r.2).map (fun i => r.1 + i)).filter (fun u => !s.near.contains u))).map (fun u => execTierMove u true)
    ++ s.dir.flatMap (fun d =>
      [execLineEvict d.1 none, execHomeMove d.1 (Config.freeNat (s.free + 1)), execTierMove (d.1 / 512) (s.coin 1)]
        ++ d.2.replicas.map (fun r => execLineEvict d.1 (some r.1))
        ++ (if d.2.staged = [] then [] else [execDetDrainCommit d.1]))
/-- What may happen to an interface and its launches. -/
def State.hostMoves (s : State) : List Auto :=
  s.vis.flatMap (fun v =>
    (if v.2.dom.wb then [execDomWbComplete v.1] else []) ++ (if v.2.dom.sw then [execDomSwitchComplete v.1] else [])
      ++ v.2.cmds.map (fun c => execHostTimeout v.1 c.tag))
    ++ (s.launches.filter (fun l => l.2.running)).flatMap (fun l =>
      execPreemptEval l.1 :: (List.range l.2.stages.length).flatMap (fun n =>
        execStageComplete l.1 n :: (s.hostFields l.2.vi).flatMap (fun f => (s.coresFor l.1 n f).map (fun c => execCopseCreate l.1 n c)))
      ++ (s.hostFields l.2.vi).map (fun f => execClusterReassign f))
/-- What may happen in the network and at the ports. -/
def State.netMoves (s : State) : List Auto :=
  s.net.packets.map (fun p => match p.escaped, p.sent, p.link with
    | some (n, _), _, _ => execEscapeResend n p.plane
    | none, true, some l => execReceived l
    | none, _, _ => execArbiterGrant p.plane p.net p.router (s.outOf p))
    ++ s.posted.map (fun w => execPostedWrite w.1)
    ++ s.peerQ.map (fun e => execPeerServe e.1)
    ++ (List.range 2).flatMap (fun p => match (s.planeAt p).st with
      | .stable => []
      | .loading => [execTableSwitching p]
      | .switching => [execTableDraining p]
      | .draining => [execTableStable p])
/-- The next phase of bring-up. -/
def State.bootMoves (s : State) : List Auto :=
  match s.boot.phase with
  | .rom => [execSigchk none]
  | .sigchk => [execSigchk none]
  | .ftest => [execFtest]
  | .hbm => [execHbm]
  | .net => [execNet]
  | .seal => [execSeal]
  | .enum => [if s.boot.ports then execReady else execEnum]
  | .ready => []
  | .failed => []
/-- A core that runs, with stands none of which may come to issue: its issue opportunities pass all the same (R107). -/
def State.idles (s : State) (core : Nat) : Bool := !(s.coreAt core).stopped && s.standsOn core != [] && !(s.standsOn core).any s.runnable
/-- Every move that the device may make by itself. -/
def State.moves (s : State) : List Auto :=
  (s.bootMoves ++ (s.stands.map Prod.fst).flatMap s.standMoves ++ (s.copses.map Prod.fst).flatMap s.copseMoves
    ++ (s.clusters.map Prod.fst).flatMap s.clusterMoves ++ s.lineMoves ++ s.hostMoves ++ s.netMoves)
    ++ ((s.stands.map Prod.fst).filter (fun k => s.runnable k || s.idles (s.coreOf k))).map issueTurn

end Sys2Proof.Machine
end

