-- ==== Sys2Proof/Machine/Step.lean ====
section
/-! DEFINITION. One step of the device: the next move of the script, or, when the script is empty, a move that the machine can make
by itself, freely chosen (log 1). Every move is whole (spec/95). -/

namespace Sys2Proof.Machine

/-- One move. -/
def turn (t : Turn) (s : State) : Host.Outcome State Fault Refusal :=
  match t with
  | .issue k => issueTurn k s
  | .event e => exec e s
  | .host a bs => .next (s.hostPut a bs)
  | .memory vi va bs => .next (s.memoryPut vi va.toNat bs)
  | .packet plane kind h => .next (s.inject plane kind h)
  | .received l => execReceived l s
  | .drainPart c r => execDrainPart c r s
  | .postedWrite p => execPostedWrite p s
  | .peerServe n => execPeerServe n s
  | .firmware core entry stands alloc code => .next (s.startFirmware core entry stands alloc code)
  | .thresholds n w => .next (s.setThresholds n w)
  | .query q => .next (s.ask q)
  | .pmbus r => .next (s.pmbus r)
  | .read a => .next (s.accessRead a)
  | .write a x => .next (s.accessWrite a x)

/-- A move of the device by itself: a free choice among those it has; without power there is none (R453). -/
def freeTurn (s : State) : Host.Outcome State Fault Refusal :=
  if !s.power.on then .fault .noPower
  else match s.moves[Config.freeNat s.free % s.moves.length]? with
    | some m => m { s with free := s.free + 1 }
    | none => .next s

/-- One step. -/
def step (s : State) : Host.Outcome State Fault Refusal :=
  match s.script with
  | t :: r => turn t { s with script := r }
  | [] => freeTurn s

/-- A bare word stored where the next step fetches (log 5). -/
def State.withFetchWord (s : State) (nbits w : Nat) : State := placeWord s (w % 2 ^ nbits)

end Sys2Proof.Machine
end

