-- ==== Sys2Proof/Laws/Encoding.lean ====
section
/-! SUPPORT. Fields of a word that was put together read back: bits of concatenations, and the formats one by one. -/

namespace Sys2Proof

/-! ### Bits of concatenations -/

theorem ext_low {m n : Nat} (a : BitVec m) (b : BitVec n) (i l : Nat) (h : i + l ≤ n) : (a ++ b).extractLsb' i l = b.extractLsb' i l := by
  apply BitVec.eq_of_getLsbD_eq
  intro j hj
  simp only [BitVec.getLsbD_extractLsb', BitVec.getLsbD_append]
  rw [if_pos (by omega)]
theorem ext_high {m n : Nat} (a : BitVec m) (b : BitVec n) (i l : Nat) (h : n ≤ i) : (a ++ b).extractLsb' i l = a.extractLsb' (i - n) l := by
  apply BitVec.eq_of_getLsbD_eq
  intro j hj
  simp only [BitVec.getLsbD_extractLsb', BitVec.getLsbD_append]
  rw [if_neg (by omega), show i + j - n = i - n + j by omega]
theorem ext_width {n v : Nat} (x : BitVec n) (i l : Nat) (h : i + l ≤ v) : (x.setWidth v).extractLsb' i l = x.extractLsb' i l := by
  apply BitVec.eq_of_getLsbD_eq
  intro j hj
  simp only [BitVec.getLsbD_extractLsb', BitVec.getLsbD_setWidth]
  rw [decide_eq_true (show i + j < v by omega)]; simp
theorem ext_ext {n : Nat} (x : BitVec n) (i l j m : Nat) (h : j + m ≤ l) : (x.extractLsb' i l).extractLsb' j m = x.extractLsb' (i + j) m := by
  apply BitVec.eq_of_getLsbD_eq
  intro t ht
  simp only [BitVec.getLsbD_extractLsb']
  rw [decide_eq_true (show j + t < l by omega), Nat.add_assoc]; simp
theorem ext_self {n : Nat} (x : BitVec n) : x.extractLsb' 0 n = x := by
  apply BitVec.eq_of_getLsbD_eq
  intro j hj
  simp [hj]
theorem bit_low {m n : Nat} (a : BitVec m) (b : BitVec n) (i : Nat) (h : i < n) : (a ++ b).getLsbD i = b.getLsbD i := by
  rw [BitVec.getLsbD_append, if_pos h]
theorem bit_high {m n : Nat} (a : BitVec m) (b : BitVec n) (i : Nat) (h : n ≤ i) : (a ++ b).getLsbD i = a.getLsbD (i - n) := by
  rw [BitVec.getLsbD_append, if_neg (by omega)]
theorem bit_width {n v : Nat} (x : BitVec n) (i : Nat) (h : i < v) : (x.setWidth v).getLsbD i = x.getLsbD i := by
  rw [BitVec.getLsbD_setWidth, decide_eq_true h, Bool.true_and]
theorem bit_ofBool (b : Bool) : (BitVec.ofBool b).getLsbD 0 = b := by cases b <;> rfl

theorem Agrees.ext {w b : BitVec 128} {n : Nat} (h : Agrees w b n) (i l : Nat) (hi : i + l ≤ 8 * n) :
    w.extractLsb' i l = b.extractLsb' i l := by
  have := congrArg (fun x => x.extractLsb' i l) h
  simp only [ext_ext _ _ _ _ _ hi, Nat.zero_add] at this
  exact this

theorem Agrees.bit {w b : BitVec 128} {n : Nat} (h : Agrees w b n) (i : Nat) (hi : i < 8 * n) : w.getLsbD i = b.getLsbD i := by
  have := congrArg (fun x => x.getLsbD i) h
  simpa only [BitVec.getLsbD_extractLsb', Nat.zero_add, decide_eq_true hi, Bool.true_and] using this

/-! ### Operands -/

theorem opd11_bits (o : Opd) : opd11 o.bits11 = o := by
  obtain ⟨n, u, c, p⟩ := o
  simp (discharger := omega) only [opd11, Opd.bits11, ext_low, ext_self, bit_low, bit_high, Nat.reduceSub, bit_ofBool]
theorem opd10_bits (o : Opd) (h : o.pk = false) : opd10 o.bits10 = o := by
  obtain ⟨n, u, c, p⟩ := o
  simp only at h
  subst h
  simp (discharger := omega) only [opd10, Opd.bits10, ext_low, ext_self, bit_low, bit_high, Nat.reduceSub, bit_ofBool]
theorem short10_bits (o : Opd) (h : o.uf = false) : short10 o.short10 = o := by
  obtain ⟨n, u, c, p⟩ := o
  simp only at h
  subst h
  simp (discharger := omega) only [short10, Opd.short10, ext_low, ext_self, bit_low, bit_high, Nat.reduceSub, bit_ofBool]
theorem short9_bits (o : Opd) (h : o.uf = false) (h' : o.pk = false) : short9 o.short9 = o := by
  obtain ⟨n, u, c, p⟩ := o
  simp only at h h'
  subst h h'
  simp (discharger := omega) only [short9, Opd.short9, ext_low, ext_self, bit_high, Nat.reduceSub, bit_ofBool]

/-! ### Formats -/

theorem headBits_len (h : Head) (opc : BitVec 10) (len : BitVec 2) : (headBits h opc len).extractLsb' 0 2 = len := by
  rw [headBits, ext_low _ _ _ _ (by omega), ext_self]
theorem headBits_opc (h : Head) (opc : BitVec 10) (len : BitVec 2) : (headBits h opc len).extractLsb' 2 10 = opc := by
  rw [headBits, ext_high _ _ _ _ (by omega), ext_low _ _ _ _ (by omega)]
  exact ext_self opc
theorem headBits_uni (h : Head) (opc : BitVec 10) (len : BitVec 2) : (headBits h opc len).getLsbD 12 = h.uni := by
  rw [headBits, bit_high _ _ _ (by omega), bit_high _ _ _ (by omega), bit_low _ _ _ (by omega)]
  exact bit_ofBool _
theorem headBits_gp (h : Head) (opc : BitVec 10) (len : BitVec 2) : (headBits h opc len).extractLsb' 13 3 = h.gp := by
  rw [headBits, ext_high _ _ _ _ (by omega), ext_high _ _ _ _ (by omega), ext_high _ _ _ _ (by omega), ext_low _ _ _ _ (by omega)]
  exact ext_self h.gp
theorem headBits_gn (h : Head) (opc : BitVec 10) (len : BitVec 2) : (headBits h opc len).getLsbD 16 = h.gn := by
  rw [headBits, bit_high _ _ _ (by omega), bit_high _ _ _ (by omega), bit_high _ _ _ (by omega), bit_high _ _ _ (by omega)]
  exact bit_ofBool _

/-- What decoding finds of a word of a format with n body bits. -/
structure Found (k : Kind) (w : BitVec 128) (h : Head) (opc : BitVec 10) (len : BitVec 2) {n : Nat} (body : BitVec n) : Prop where
  len_eq : w.extractLsb' 0 2 = len
  opc_eq : w.extractLsb' 2 10 = opc
  head_eq : headOf k w (topByte len.toNat w) = h
  body_eq : (bodyOf k w).extractLsb' 0 n = body
  top_eq : k = .sap → (topByte len.toNat w).extractLsb' 6 2 = 0

/-- The field at a place that a literal sum names. -/
theorem ext_at {n : Nat} (x : BitVec n) {i j l : Nat} (h : i = j) : x.extractLsb' i l = x.extractLsb' j l := by rw [h]

theorem found {n bytes : Nat} (w : BitVec 128) (h : Head) (opc : BitVec 10) (len : BitVec 2) (body : BitVec n)
    (hb : 25 + n = 8 * bytes) (hl : topByte len.toNat w = w.extractLsb' (8 * bytes - 8) 8) (hn : bytes ≤ 16)
    (ha : Agrees w (assemble h opc len body) bytes) : Found h.sch.kind w h opc len body := by
  obtain ⟨u, g, gn, sch⟩ := h
  cases sch with
  | heart wf sf =>
    simp only [assemble] at ha
    have e (i l : Nat) (h : i + l ≤ 17) : w.extractLsb' i l = (headBits ⟨u, g, gn, .heart wf sf⟩ opc len).extractLsb' i l := by
      rw [ha.ext _ _ (by omega), ext_width _ _ _ (by omega), ext_low _ _ _ _ h]
    have eb (i : Nat) (h : i < 17) : w.getLsbD i = (headBits ⟨u, g, gn, .heart wf sf⟩ opc len).getLsbD i := by
      rw [ha.bit _ (by omega), bit_width _ _ (by omega), bit_low _ _ _ h]
    have ew : w.extractLsb' 17 4 = wf := by
      rw [ha.ext _ _ (by omega), ext_width _ _ _ (by omega), ext_high _ _ _ _ (by omega), ext_low _ _ _ _ (by omega)]
      exact ext_self wf
    have es : w.extractLsb' 21 4 = sf := by
      rw [ha.ext _ _ (by omega), ext_width _ _ _ (by omega), ext_high _ _ _ _ (by omega), ext_high _ _ _ _ (by omega), ext_low _ _ _ _ (by omega)]
      exact ext_self sf
    refine ⟨?_, ?_, ?_, ?_, fun e => by cases e⟩
    · rw [e _ _ (by omega), headBits_len]
    · rw [e _ _ (by omega), headBits_opc]
    · simp only [headOf, Sched.kind]
      rw [eb 12 (by omega), e 13 3 (by omega), eb 16 (by omega), headBits_uni, headBits_gp, headBits_gn, ew, es]
    · simp only [bodyOf, Sched.kind]
      rw [ext_ext _ _ _ _ _ (by omega), ha.ext _ _ (by omega), ext_width _ _ _ (by omega), ext_high _ _ _ _ (by omega),
        ext_high _ _ _ _ (by omega), ext_high _ _ _ _ (by omega)]
      exact ext_self body
  | sap fsel ru =>
    simp only [assemble] at ha
    have e (i l : Nat) (h : i + l ≤ 17) : w.extractLsb' i l = (headBits ⟨u, g, gn, .sap fsel ru⟩ opc len).extractLsb' i l := by
      rw [ha.ext _ _ (by omega), ext_width _ _ _ (by omega), ext_low _ _ _ _ h]
    have eb (i : Nat) (h : i < 17) : w.getLsbD i = (headBits ⟨u, g, gn, .sap fsel ru⟩ opc len).getLsbD i := by
      rw [ha.bit _ (by omega), bit_width _ _ (by omega), bit_low _ _ _ h]
    have ef : (w.extractLsb' (8 * bytes - 8) 8).extractLsb' 0 2 = fsel := by
      rw [ext_ext _ _ _ _ _ (by omega), ha.ext _ _ (by omega), ext_width _ _ _ (by omega), ext_high _ _ _ _ (by omega),
        ext_high _ _ _ _ (by omega), ext_low _ _ _ _ (by omega), ext_at fsel (show _ = 0 by omega)]
      exact ext_self fsel
    have er : (w.extractLsb' (8 * bytes - 8) 8).extractLsb' 2 4 = ru := by
      rw [ext_ext _ _ _ _ _ (by omega), ha.ext _ _ (by omega), ext_width _ _ _ (by omega), ext_high _ _ _ _ (by omega),
        ext_high _ _ _ _ (by omega), ext_high _ _ _ _ (by omega), ext_low _ _ _ _ (by omega), ext_at ru (show _ = 0 by omega)]
      exact ext_self ru
    refine ⟨?_, ?_, ?_, ?_, fun _ => ?_⟩
    · rw [e _ _ (by omega), headBits_len]
    · rw [e _ _ (by omega), headBits_opc]
    · simp only [headOf, Sched.kind, hl]
      rw [ef, er, eb 12 (by omega), e 13 3 (by omega), eb 16 (by omega), headBits_uni, headBits_gp, headBits_gn]
    · simp only [bodyOf, Sched.kind]
      rw [ext_ext _ _ _ _ _ (by omega), ha.ext _ _ (by omega), ext_width _ _ _ (by omega), ext_high _ _ _ _ (by omega), ext_low _ _ _ _ (by omega)]
      exact ext_self body
    · rw [hl, ext_ext _ _ _ _ _ (by omega), ha.ext _ _ (by omega), ext_width _ _ _ (by omega), ext_high _ _ _ _ (by omega),
        ext_high _ _ _ _ (by omega), ext_high _ _ _ _ (by omega), ext_high _ _ _ _ (by omega), ext_at (0 : BitVec 2) (show _ = 0 by omega)]
      rfl

theorem fieldsA64_body (f : A64) (hs : f.shape = true) (b : BitVec 103) (hb : b.extractLsb' 0 39 = f.md ++ f.ty ++ f.sb.bits11 ++ f.sa.bits11 ++ f.dst.bits10) :
    fieldsA64 f.h b = f := by
  have e (i l : Nat) (h : i + l ≤ 39) : b.extractLsb' i l = (f.md ++ f.ty ++ f.sb.bits11 ++ f.sa.bits11 ++ f.dst.bits10).extractLsb' i l := by
    rw [← hb, ext_ext _ _ _ _ _ h, Nat.zero_add]
  obtain ⟨h, dst, sa, sb, ty, md⟩ := f
  simp only [A64.shape, Bool.not_eq_true'] at hs
  simp only [fieldsA64]
  rw [e 0 10 (by omega), e 10 11 (by omega), e 21 11 (by omega), e 32 5 (by omega), e 37 2 (by omega)]
  simp (discharger := omega) only [ext_low, ext_high, ext_self, Nat.reduceSub, opd11_bits, opd10_bits _ hs]
theorem fieldsI64_body (f : I64) (hs : f.shape = true) (b : BitVec 103) (hb : b.extractLsb' 0 39 = f.imm ++ f.sa.short10 ++ f.dst.short9) :
    fieldsI64 f.h b = f := by
  have e (i l : Nat) (h : i + l ≤ 39) : b.extractLsb' i l = (f.imm ++ f.sa.short10 ++ f.dst.short9).extractLsb' i l := by
    rw [← hb, ext_ext _ _ _ _ _ h, Nat.zero_add]
  obtain ⟨h, dst, sa, imm⟩ := f
  simp only [I64.shape, Bool.and_eq_true, Bool.not_eq_true'] at hs
  simp only [fieldsI64]
  rw [e 0 9 (by omega), e 9 10 (by omega), e 19 20 (by omega)]
  simp (discharger := omega) only [ext_low, ext_high, ext_self, Nat.reduceSub, short10_bits _ hs.2, short9_bits _ hs.1.2 hs.1.1]
theorem fieldsT96_body (f : T96) (hs : f.shape = true) (b : BitVec 103)
    (hb : b.extractLsb' 0 71 = f.imm ++ f.md ++ f.tys ++ f.tyd ++ f.sc.bits11 ++ f.sb.bits11 ++ f.sa.bits11 ++ f.dst.bits10) : fieldsT96 f.h b = f := by
  have e (i l : Nat) (h : i + l ≤ 71) : b.extractLsb' i l =
      (f.imm ++ f.md ++ f.tys ++ f.tyd ++ f.sc.bits11 ++ f.sb.bits11 ++ f.sa.bits11 ++ f.dst.bits10).extractLsb' i l := by
    rw [← hb, ext_ext _ _ _ _ _ h, Nat.zero_add]
  obtain ⟨h, dst, sa, sb, sc, tyd, tys, md, imm⟩ := f
  simp only [T96.shape, Bool.not_eq_true'] at hs
  simp only [fieldsT96]
  rw [e 0 10 (by omega), e 10 11 (by omega), e 21 11 (by omega), e 32 11 (by omega), e 43 5 (by omega), e 48 5 (by omega), e 53 8 (by omega),
    e 61 10 (by omega)]
  simp (discharger := omega) only [ext_low, ext_high, ext_self, Nat.reduceSub, opd11_bits, opd10_bits _ hs]
theorem fieldsM96_body (f : M96) (b : BitVec 103)
    (hb : b.extractLsb' 0 71 = f.md ++ f.vc ++ f.ord ++ f.ph ++ f.sm ++ f.ty ++ f.ofs ++ f.ab.bits11 ++ f.dr.bits11) : fieldsM96 f.h b = f := by
  have e (i l : Nat) (h : i + l ≤ 71) : b.extractLsb' i l =
      (f.md ++ f.vc ++ f.ord ++ f.ph ++ f.sm ++ f.ty ++ f.ofs ++ f.ab.bits11 ++ f.dr.bits11).extractLsb' i l := by
    rw [← hb, ext_ext _ _ _ _ _ h, Nat.zero_add]
  obtain ⟨h, dr, ab, ofs, ty, sm, ph, ord, vc, md⟩ := f
  simp only [fieldsM96]
  rw [e 0 11 (by omega), e 11 11 (by omega), e 22 24 (by omega), e 46 5 (by omega), e 51 8 (by omega), e 59 2 (by omega), e 61 2 (by omega),
    e 63 2 (by omega), e 65 6 (by omega)]
  simp (discharger := omega) only [ext_low, ext_high, ext_self, Nat.reduceSub, opd11_bits]
theorem fieldsE96_body (f : E96) (hs : f.shape = true) (b : BitVec 103)
    (hb : b.extractLsb' 0 71 = f.md ++ f.imm ++ f.sc.bits11 ++ f.sb.bits11 ++ f.sa.bits11 ++ f.dst.bits10) : fieldsE96 f.h b = f := by
  have e (i l : Nat) (h : i + l ≤ 71) : b.extractLsb' i l =
      (f.md ++ f.imm ++ f.sc.bits11 ++ f.sb.bits11 ++ f.sa.bits11 ++ f.dst.bits10).extractLsb' i l := by
    rw [← hb, ext_ext _ _ _ _ _ h, Nat.zero_add]
  obtain ⟨h, dst, sa, sb, sc, imm, md⟩ := f
  simp only [E96.shape, Bool.not_eq_true'] at hs
  simp only [fieldsE96]
  rw [e 0 10 (by omega), e 10 11 (by omega), e 21 11 (by omega), e 32 11 (by omega), e 43 16 (by omega), e 59 12 (by omega)]
  simp (discharger := omega) only [ext_low, ext_high, ext_self, Nat.reduceSub, opd11_bits, opd10_bits _ hs]
theorem fieldsW128_body (f : W128) (hs : f.shape = true) (b : BitVec 103)
    (hb : b.extractLsb' 0 103 = f.md ++ f.imm ++ f.sb.bits11 ++ f.sa.bits11 ++ f.dst.bits10) : fieldsW128 f.h b = f := by
  rw [ext_self] at hb
  subst hb
  obtain ⟨h, dst, sa, sb, imm, md⟩ := f
  simp only [W128.shape, Bool.not_eq_true'] at hs
  simp only [fieldsW128]
  simp (discharger := omega) only [ext_low, ext_high, ext_self, Nat.reduceSub, opd11_bits, opd10_bits _ hs]

/-! ### Decoding what was encoded -/

theorem decode_found {k : Kind} {w : BitVec 128} {h : Head} {opc : BitVec 10} {len : BitVec 2} {n : Nat} {body : BitVec n} {fm : Fmt} {i : Instr}
    (f : Found k w h opc len body) (hl : len ≠ 0) (hf : fmtOf opc.toNat = some fm) (hm : fm.len = len.toNat)
    (hi : ofFmt opc.toNat h (bodyOf k w) fm = some i) : decode k w = .instr i (lenBytes len.toNat) := by
  have hp : ¬ w.extractLsb' 0 32 = 0 := by
    intro e
    have := congrArg (fun x => x.extractLsb' 0 2) e
    simp only [ext_ext _ _ _ _ _ (show 0 + 2 ≤ 32 by omega), Nat.zero_add, f.len_eq] at this
    apply hl
    rw [this]
    decide
  have hl' : ¬ len.toNat = 0 := fun e => hl (by apply BitVec.eq_of_toNat_eq; simpa using e)
  unfold decode
  simp only [hp, if_false, f.len_eq, hl', f.opc_eq, hf, hm, ne_eq, not_true_eq_false]
  rw [if_neg (by rintro ⟨e, h2⟩; exact h2 (f.top_eq e)), f.head_eq, hi]

theorem topByte_1 (w : BitVec 128) : topByte (1 : BitVec 2).toNat w = w.extractLsb' (8 * 8 - 8) 8 := rfl
theorem topByte_2 (w : BitVec 128) : topByte (2 : BitVec 2).toNat w = w.extractLsb' (8 * 12 - 8) 8 := rfl
theorem topByte_3 (w : BitVec 128) : topByte (3 : BitVec 2).toNat w = w.extractLsb' (8 * 16 - 8) 8 := rfl

theorem decode_A64 {i : Instr} (f : A64) (opc : BitVec 10) (hs : f.shape = true) (hf : fmtOf opc.toNat = some .a64)
    (hi : ofA64 opc.toNat f = some i) (w : BitVec 128) (ha : Agrees w (encA64 opc f).bits 8) : decode f.h.sch.kind w = .instr i 8 := by
  have hF := found w f.h opc 1 _ (bytes := 8) (by decide) (topByte_1 w) (by decide) ha
  exact decode_found hF (by decide) hf rfl (by rw [ofFmt, fieldsA64_body f hs _ hF.body_eq, hi])
theorem decode_I64 {i : Instr} (f : I64) (opc : BitVec 10) (hs : f.shape = true) (hf : fmtOf opc.toNat = some .i64)
    (hi : ofI64 opc.toNat f = some i) (w : BitVec 128) (ha : Agrees w (encI64 opc f).bits 8) : decode f.h.sch.kind w = .instr i 8 := by
  have hF := found w f.h opc 1 _ (bytes := 8) (by decide) (topByte_1 w) (by decide) ha
  exact decode_found hF (by decide) hf rfl (by rw [ofFmt, fieldsI64_body f hs _ hF.body_eq, hi])
theorem decode_T96 {i : Instr} (f : T96) (opc : BitVec 10) (hs : f.shape = true) (hf : fmtOf opc.toNat = some .t96)
    (hi : ofT96 opc.toNat f = some i) (w : BitVec 128) (ha : Agrees w (encT96 opc f).bits 12) : decode f.h.sch.kind w = .instr i 12 := by
  have hF := found w f.h opc 2 _ (bytes := 12) (by decide) (topByte_2 w) (by decide) ha
  exact decode_found hF (by decide) hf rfl (by rw [ofFmt, fieldsT96_body f hs _ hF.body_eq, hi])
theorem decode_M96 {i : Instr} (f : M96) (opc : BitVec 10) (hf : fmtOf opc.toNat = some .m96)
    (hi : ofM96 opc.toNat f = some i) (w : BitVec 128) (ha : Agrees w (encM96 opc f).bits 12) : decode f.h.sch.kind w = .instr i 12 := by
  have hF := found w f.h opc 2 _ (bytes := 12) (by decide) (topByte_2 w) (by decide) ha
  exact decode_found hF (by decide) hf rfl (by rw [ofFmt, fieldsM96_body f _ hF.body_eq, hi])
theorem decode_E96 {i : Instr} (f : E96) (opc : BitVec 10) (hs : f.shape = true) (hf : fmtOf opc.toNat = some .e96)
    (hi : ofE96 opc.toNat f = some i) (w : BitVec 128) (ha : Agrees w (encE96 opc f).bits 12) : decode f.h.sch.kind w = .instr i 12 := by
  have hF := found w f.h opc 2 _ (bytes := 12) (by decide) (topByte_2 w) (by decide) ha
  exact decode_found hF (by decide) hf rfl (by rw [ofFmt, fieldsE96_body f hs _ hF.body_eq, hi])
theorem decode_W128 {i : Instr} (f : W128) (opc : BitVec 10) (hs : f.shape = true) (hf : fmtOf opc.toNat = some .w128)
    (hi : ofW128 opc.toNat f = some i) (w : BitVec 128) (ha : Agrees w (encW128 opc f).bits 16) : decode f.h.sch.kind w = .instr i 16 := by
  have hF := found w f.h opc 3 _ (bytes := 16) (by decide) (topByte_3 w) (by decide) ha
  exact decode_found hF (by decide) hf rfl (by rw [ofFmt, fieldsW128_body f hs _ hF.body_eq, hi])

/-- A mark word reads back (R39). -/
theorem decode_mark (m : Mark) (w : BitVec 128) (ha : Agrees w (encMark m).bits 8) : decode .heart w = .instr (.markWord m) 8 := by
  have e (i l : Nat) (h : i + l ≤ 64) : w.extractLsb' i l = ((0 : BitVec 31) ++ m.gid ++ (0x0E004 : BitVec 17)).extractLsb' i l := by
    rw [ha.ext i l (by omega), encMark, ext_width _ _ _ (by omega)]
  have eb (i : Nat) (h : i < 64) : w.getLsbD i = ((0 : BitVec 31) ++ m.gid ++ (0x0E004 : BitVec 17)).getLsbD i := by
    rw [ha.bit i (by omega), encMark, bit_width _ _ (by omega)]
  have hp : ¬ w.extractLsb' 0 32 = 0 := by
    intro h
    have := congrArg (fun x => x.extractLsb' 0 17) h
    simp only [ext_ext _ _ _ _ _ (show 0 + 17 ≤ 32 by omega), Nat.zero_add, e 0 17 (by omega)] at this
    rw [ext_low _ _ _ _ (by omega), ext_self] at this
    revert this; decide
  have hk : (w.extractLsb' 2 10).toNat = 1 := by
    rw [e 2 10 (by omega), ext_low _ _ _ _ (by omega)]
    decide
  have hz : w.extractLsb' 33 31 = 0 := by
    rw [e 33 31 (by omega), ext_high _ _ _ _ (by omega), ext_high _ _ _ _ (by omega)]
    exact ext_self (0 : BitVec 31)
  have hg : w.extractLsb' 17 16 = m.gid := by
    rw [e 17 16 (by omega), ext_high _ _ _ _ (by omega), ext_low _ _ _ _ (by omega)]
    exact ext_self m.gid
  have hl : (w.extractLsb' 0 2).toNat = 0 := by
    rw [e 0 2 (by omega), ext_low _ _ _ _ (by omega)]
    decide
  have ho : h64HeadOk w = true := by
    rw [h64HeadOk, eb 12 (by omega), e 13 3 (by omega), eb 16 (by omega), bit_low _ _ _ (by omega), bit_low _ _ _ (by omega),
      ext_low _ _ _ _ (by omega)]
    decide
  unfold decode decodeH64
  simp only [hp, if_false, hl, if_true, hk, ne_eq, not_true_eq_false, hz, ho, Bool.not_true, Bool.false_eq_true, hg]

/-- A clause header reads back (R38). -/
theorem decode_header (h : Hdr) (hs : h.shape = true) (w : BitVec 128) (ha : Agrees w (encHdr h).bits 8) :
    decode .sap w = .instr (.clauseHeader h) 8 := by
  have e (i l : Nat) (hil : i + l ≤ 64) : w.extractLsb' i l = ((0 : BitVec 5) ++ h.gid ++ BitVec.ofBool h.gpt ++ BitVec.ofBool h.yld ++ h.clen ++
      h.setb ++ h.seta ++ h.wait ++ (0x0E000 : BitVec 17)).extractLsb' i l := by
    rw [ha.ext i l (by omega), encHdr, ext_width _ _ _ (by omega)]
  have eb (i : Nat) (hi : i < 64) : w.getLsbD i = ((0 : BitVec 5) ++ h.gid ++ BitVec.ofBool h.gpt ++ BitVec.ofBool h.yld ++ h.clen ++
      h.setb ++ h.seta ++ h.wait ++ (0x0E000 : BitVec 17)).getLsbD i := by
    rw [ha.bit i (by omega), encHdr, bit_width _ _ (by omega)]
  have hp : ¬ w.extractLsb' 0 32 = 0 := by
    intro h
    have := congrArg (fun x => x.extractLsb' 0 17) h
    simp only [ext_ext _ _ _ _ _ (show 0 + 17 ≤ 32 by omega), Nat.zero_add, e 0 17 (by omega)] at this
    rw [ext_low _ _ _ _ (by omega), ext_self] at this
    revert this; decide
  have hh : fieldsHdr w = h := by
    obtain ⟨wt, sa, sb, cl, y, g, gid⟩ := h
    simp only [fieldsHdr]
    rw [e 17 12 (by omega), e 29 4 (by omega), e 33 4 (by omega), e 37 4 (by omega), eb 41 (by omega), eb 42 (by omega), e 43 16 (by omega)]
    simp (discharger := omega) only [ext_low, ext_high, ext_self, bit_low, bit_high, Nat.reduceSub, bit_ofBool]
  have hk : (w.extractLsb' 2 10).toNat = 0 := by
    rw [e 2 10 (by omega), ext_low _ _ _ _ (by omega)]
    decide
  have hz : w.extractLsb' 59 5 = 0 := by
    rw [e 59 5 (by omega)]
    simp (discharger := omega) only [ext_high, Nat.reduceSub]
    exact ext_self (0 : BitVec 5)
  have hl : (w.extractLsb' 0 2).toNat = 0 := by
    rw [e 0 2 (by omega), ext_low _ _ _ _ (by omega)]
    decide
  have ho : h64HeadOk w = true := by
    rw [h64HeadOk, eb 12 (by omega), e 13 3 (by omega), eb 16 (by omega), bit_low _ _ _ (by omega), bit_low _ _ _ (by omega),
      ext_low _ _ _ _ (by omega)]
    decide
  simp only [Hdr.shape, Bool.and_eq_true] at hs
  obtain ⟨⟨⟨h1, h2⟩, h3⟩, h4⟩ := hs
  have c1 : (flagSlotOk h.seta && flagSlotOk h.setb && (h.seta != h.setb || h.seta == 15)) = true := by simp only [h1, h2, h3, Bool.and_self]
  unfold decode decodeH64
  simp only [hp, if_false, hl, if_true, hk, ne_eq, not_true_eq_false, hz, ho, Bool.not_true, Bool.false_eq_true, hh, c1]
  cases hg : h.gpt with
  | true => rw [hg] at h4; simp only [if_true] at h4; simp only [Bool.true_and, Bool.not_true, Bool.false_and, bne, h4, Bool.false_eq_true, if_false]
  | false => rw [hg] at h4; simp only [Bool.false_eq_true, if_false] at h4; simp only [Bool.false_and, Bool.not_false, Bool.true_and, bne, h4, Bool.not_true, Bool.false_eq_true, if_false]

end Sys2Proof
end

