-- ==== Sys2Proof/Laws/PerInstr.lean ====
section
/-! SUPPORT. The per-instruction family Roundtrip: decoding the word of a well-formed term gives the term back (spec/02 R26-R54). -/

namespace Sys2Proof.Laws

/-- Every word whose bytes are those of the term's encoding decodes, on the kind of core the term is for, to the term and its length. -/
def Roundtrip.Statement (i : Instr) : Prop :=
  i.wf = true → ∃ e, encode i = some e ∧ ∀ w, Agrees w e.bits e.bytes → decode i.kind w = .instr i e.bytes

theorem Roundtrip.bra (f : I64) : Roundtrip.Statement (.bra f) := fun hs => ⟨_, rfl, fun w ha => decode_I64 f 0x000 hs rfl rfl w ha⟩
theorem Roundtrip.braFar (f : W128) : Roundtrip.Statement (.braFar f) := fun hs => ⟨_, rfl, fun w ha => decode_W128 f 0x001 hs rfl rfl w ha⟩
theorem Roundtrip.brx (f : A64) : Roundtrip.Statement (.brx f) := fun hs => ⟨_, rfl, fun w ha => decode_A64 f 0x002 hs rfl rfl w ha⟩
theorem Roundtrip.call (f : I64) : Roundtrip.Statement (.call f) := fun hs => ⟨_, rfl, fun w ha => decode_I64 f 0x003 hs rfl rfl w ha⟩
theorem Roundtrip.callFar (f : W128) : Roundtrip.Statement (.callFar f) := fun hs => ⟨_, rfl, fun w ha => decode_W128 f 0x004 hs rfl rfl w ha⟩
theorem Roundtrip.calx (f : A64) : Roundtrip.Statement (.calx f) := fun hs => ⟨_, rfl, fun w ha => decode_A64 f 0x005 hs rfl rfl w ha⟩
theorem Roundtrip.ret (f : A64) : Roundtrip.Statement (.ret f) := fun hs => ⟨_, rfl, fun w ha => decode_A64 f 0x006 hs rfl rfl w ha⟩
theorem Roundtrip.exit (f : A64) : Roundtrip.Statement (.exit f) := fun hs => ⟨_, rfl, fun w ha => decode_A64 f 0x007 hs rfl rfl w ha⟩
theorem Roundtrip.split (f : A64) : Roundtrip.Statement (.split f) := fun hs => ⟨_, rfl, fun w ha => decode_A64 f 0x008 hs rfl rfl w ha⟩
theorem Roundtrip.join (f : A64) : Roundtrip.Statement (.join f) := fun hs => ⟨_, rfl, fun w ha => decode_A64 f 0x009 hs rfl rfl w ha⟩
theorem Roundtrip.rset (f : I64) : Roundtrip.Statement (.rset f) := fun hs => ⟨_, rfl, fun w ha => decode_I64 f 0x00A hs rfl rfl w ha⟩
theorem Roundtrip.rwait (f : A64) : Roundtrip.Statement (.rwait f) := fun hs => ⟨_, rfl, fun w ha => decode_A64 f 0x00B hs rfl rfl w ha⟩
theorem Roundtrip.rcancel (f : A64) : Roundtrip.Statement (.rcancel f) := fun hs => ⟨_, rfl, fun w ha => decode_A64 f 0x00C hs rfl rfl w ha⟩
theorem Roundtrip.yield (f : A64) : Roundtrip.Statement (.yield f) := fun hs => ⟨_, rfl, fun w ha => decode_A64 f 0x00D hs rfl rfl w ha⟩
theorem Roundtrip.yieldL (f : A64) : Roundtrip.Statement (.yieldL f) := by
  intro hw
  have hs : f.shape = true ∧ (f.md == 0) = true := (Bool.and_eq_true _ _).mp hw
  have h2 := hs.2
  have hi : ofA64 (0x00E : BitVec 10).toNat f = some (.yieldL f) := by
    show (if f.md == 0 then some (Instr.yieldL f) else if f.md == 1 then some (Instr.yieldLEnd f) else none) = some (Instr.yieldL f)
    simp at h2 ⊢
    simp [h2]
  exact ⟨_, rfl, fun w ha => decode_A64 f 0x00E hs.1 rfl hi w ha⟩
theorem Roundtrip.yieldLEnd (f : A64) : Roundtrip.Statement (.yieldLEnd f) := by
  intro hw
  have hs : f.shape = true ∧ (f.md == 1) = true := (Bool.and_eq_true _ _).mp hw
  have h2 := hs.2
  have hi : ofA64 (0x00E : BitVec 10).toNat f = some (.yieldLEnd f) := by
    show (if f.md == 0 then some (Instr.yieldL f) else if f.md == 1 then some (Instr.yieldLEnd f) else none) = some (Instr.yieldLEnd f)
    simp at h2 ⊢
    simp [h2]
  exact ⟨_, rfl, fun w ha => decode_A64 f 0x00E hs.1 rfl hi w ha⟩
theorem Roundtrip.sleep (f : I64) : Roundtrip.Statement (.sleep f) := fun hs => ⟨_, rfl, fun w ha => decode_I64 f 0x00F hs rfl rfl w ha⟩
theorem Roundtrip.elect (f : A64) : Roundtrip.Statement (.elect f) := fun hs => ⟨_, rfl, fun w ha => decode_A64 f 0x010 hs rfl rfl w ha⟩
theorem Roundtrip.vote (f : A64) : Roundtrip.Statement (.vote f) := by
  intro hw
  have hs : f.shape = true ∧ (f.md != 3) = true := (Bool.and_eq_true _ _).mp hw
  have h2 := hs.2
  have hi : ofA64 (0x011 : BitVec 10).toNat f = some (.vote f) := by
    show (if f.md != 3 then some (Instr.vote f) else if f.md == 3 then some (Instr.voteBallot f) else none) = some (Instr.vote f)
    simp at h2 ⊢
    simp [h2]
  exact ⟨_, rfl, fun w ha => decode_A64 f 0x011 hs.1 rfl hi w ha⟩
theorem Roundtrip.voteBallot (f : A64) : Roundtrip.Statement (.voteBallot f) := by
  intro hw
  have hs : f.shape = true ∧ (f.md == 3) = true := (Bool.and_eq_true _ _).mp hw
  have h2 := hs.2
  have hi : ofA64 (0x011 : BitVec 10).toNat f = some (.voteBallot f) := by
    show (if f.md != 3 then some (Instr.vote f) else if f.md == 3 then some (Instr.voteBallot f) else none) = some (Instr.voteBallot f)
    simp at h2 ⊢
    simp [h2]
  exact ⟨_, rfl, fun w ha => decode_A64 f 0x011 hs.1 rfl hi w ha⟩
theorem Roundtrip.actm (f : A64) : Roundtrip.Statement (.actm f) := fun hs => ⟨_, rfl, fun w ha => decode_A64 f 0x012 hs rfl rfl w ha⟩
theorem Roundtrip.nop (f : A64) : Roundtrip.Statement (.nop f) := fun hs => ⟨_, rfl, fun w ha => decode_A64 f 0x013 hs rfl rfl w ha⟩
theorem Roundtrip.claim (f : A64) : Roundtrip.Statement (.claim f) := fun hs => ⟨_, rfl, fun w ha => decode_A64 f 0x040 hs rfl rfl w ha⟩
theorem Roundtrip.enq (f : A64) : Roundtrip.Statement (.enq f) := fun hs => ⟨_, rfl, fun w ha => decode_A64 f 0x041 hs rfl rfl w ha⟩
theorem Roundtrip.enqItemPush (stand : Nat) : Roundtrip.Statement (.enqItemPush stand) := fun h => nomatch h
theorem Roundtrip.deq (f : A64) : Roundtrip.Statement (.deq f) := fun hs => ⟨_, rfl, fun w ha => decode_A64 f 0x042 hs rfl rfl w ha⟩
theorem Roundtrip.qstat (f : A64) : Roundtrip.Statement (.qstat f) := fun hs => ⟨_, rfl, fun w ha => decode_A64 f 0x043 hs rfl rfl w ha⟩
theorem Roundtrip.graftShut (f : A64) : Roundtrip.Statement (.graftShut f) := by
  intro hw
  have hs : f.shape = true ∧ (f.md == 0) = true := (Bool.and_eq_true _ _).mp hw
  have h2 := hs.2
  have hi : ofA64 (0x044 : BitVec 10).toNat f = some (.graftShut f) := by
    show (if f.md == 0 then some (Instr.graftShut f) else if f.md == 1 then some (Instr.graftOpen f) else none) = some (Instr.graftShut f)
    simp at h2 ⊢
    simp [h2]
  exact ⟨_, rfl, fun w ha => decode_A64 f 0x044 hs.1 rfl hi w ha⟩
theorem Roundtrip.graftOpen (f : A64) : Roundtrip.Statement (.graftOpen f) := by
  intro hw
  have hs : f.shape = true ∧ (f.md == 1) = true := (Bool.and_eq_true _ _).mp hw
  have h2 := hs.2
  have hi : ofA64 (0x044 : BitVec 10).toNat f = some (.graftOpen f) := by
    show (if f.md == 0 then some (Instr.graftShut f) else if f.md == 1 then some (Instr.graftOpen f) else none) = some (Instr.graftOpen f)
    simp at h2 ⊢
    simp [h2]
  exact ⟨_, rfl, fun w ha => decode_A64 f 0x044 hs.1 rfl hi w ha⟩
theorem Roundtrip.migrHeart (f : A64) : Roundtrip.Statement (.migrHeart f) := by
  intro hw
  have hs : f.shape = true ∧ (f.md == 0) = true := (Bool.and_eq_true _ _).mp hw
  have h2 := hs.2
  have hi : ofA64 (0x045 : BitVec 10).toNat f = some (.migrHeart f) := by
    show (if f.md == 0 then some (Instr.migrHeart f) else if f.md == 1 then some (Instr.migrSap f) else if f.md == 2 then some (Instr.migrCancel f) else none) = some (Instr.migrHeart f)
    simp at h2 ⊢
    simp [h2]
  exact ⟨_, rfl, fun w ha => decode_A64 f 0x045 hs.1 rfl hi w ha⟩
theorem Roundtrip.migrSap (f : A64) : Roundtrip.Statement (.migrSap f) := by
  intro hw
  have hs : f.shape = true ∧ (f.md == 1) = true := (Bool.and_eq_true _ _).mp hw
  have h2 := hs.2
  have hi : ofA64 (0x045 : BitVec 10).toNat f = some (.migrSap f) := by
    show (if f.md == 0 then some (Instr.migrHeart f) else if f.md == 1 then some (Instr.migrSap f) else if f.md == 2 then some (Instr.migrCancel f) else none) = some (Instr.migrSap f)
    simp at h2 ⊢
    simp [h2]
  exact ⟨_, rfl, fun w ha => decode_A64 f 0x045 hs.1 rfl hi w ha⟩
theorem Roundtrip.migrCancel (f : A64) : Roundtrip.Statement (.migrCancel f) := by
  intro hw
  have hs : f.shape = true ∧ (f.md == 2) = true := (Bool.and_eq_true _ _).mp hw
  have h2 := hs.2
  have hi : ofA64 (0x045 : BitVec 10).toNat f = some (.migrCancel f) := by
    show (if f.md == 0 then some (Instr.migrHeart f) else if f.md == 1 then some (Instr.migrSap f) else if f.md == 2 then some (Instr.migrCancel f) else none) = some (Instr.migrCancel f)
    simp at h2 ⊢
    simp [h2]
  exact ⟨_, rfl, fun w ha => decode_A64 f 0x045 hs.1 rfl hi w ha⟩
theorem Roundtrip.migrQ (f : A64) : Roundtrip.Statement (.migrQ f) := fun hs => ⟨_, rfl, fun w ha => decode_A64 f 0x046 hs rfl rfl w ha⟩
theorem Roundtrip.add (f : A64) : Roundtrip.Statement (.add f) := fun hs => ⟨_, rfl, fun w ha => decode_A64 f 0x080 hs rfl rfl w ha⟩
theorem Roundtrip.addc (f : A64) : Roundtrip.Statement (.addc f) := fun hs => ⟨_, rfl, fun w ha => decode_A64 f 0x081 hs rfl rfl w ha⟩
theorem Roundtrip.sub (f : A64) : Roundtrip.Statement (.sub f) := fun hs => ⟨_, rfl, fun w ha => decode_A64 f 0x082 hs rfl rfl w ha⟩
theorem Roundtrip.subc (f : A64) : Roundtrip.Statement (.subc f) := fun hs => ⟨_, rfl, fun w ha => decode_A64 f 0x083 hs rfl rfl w ha⟩
theorem Roundtrip.mulLo (f : A64) : Roundtrip.Statement (.mulLo f) := fun hs => ⟨_, rfl, fun w ha => decode_A64 f 0x084 hs rfl rfl w ha⟩
theorem Roundtrip.mulHi (f : A64) : Roundtrip.Statement (.mulHi f) := fun hs => ⟨_, rfl, fun w ha => decode_A64 f 0x085 hs rfl rfl w ha⟩
theorem Roundtrip.mad (f : T96) : Roundtrip.Statement (.mad f) := fun hs => ⟨_, rfl, fun w ha => decode_T96 f 0x086 hs rfl rfl w ha⟩
theorem Roundtrip.madWide (f : T96) : Roundtrip.Statement (.madWide f) := fun hs => ⟨_, rfl, fun w ha => decode_T96 f 0x087 hs rfl rfl w ha⟩
theorem Roundtrip.min (f : A64) : Roundtrip.Statement (.min f) := fun hs => ⟨_, rfl, fun w ha => decode_A64 f 0x088 hs rfl rfl w ha⟩
theorem Roundtrip.max (f : A64) : Roundtrip.Statement (.max f) := fun hs => ⟨_, rfl, fun w ha => decode_A64 f 0x089 hs rfl rfl w ha⟩
theorem Roundtrip.abs (f : A64) : Roundtrip.Statement (.abs f) := fun hs => ⟨_, rfl, fun w ha => decode_A64 f 0x08A hs rfl rfl w ha⟩
theorem Roundtrip.neg (f : A64) : Roundtrip.Statement (.neg f) := fun hs => ⟨_, rfl, fun w ha => decode_A64 f 0x08B hs rfl rfl w ha⟩
theorem Roundtrip.and (f : A64) : Roundtrip.Statement (.and f) := fun hs => ⟨_, rfl, fun w ha => decode_A64 f 0x08C hs rfl rfl w ha⟩
theorem Roundtrip.or (f : A64) : Roundtrip.Statement (.or f) := fun hs => ⟨_, rfl, fun w ha => decode_A64 f 0x08D hs rfl rfl w ha⟩
theorem Roundtrip.xor (f : A64) : Roundtrip.Statement (.xor f) := fun hs => ⟨_, rfl, fun w ha => decode_A64 f 0x08E hs rfl rfl w ha⟩
theorem Roundtrip.not (f : A64) : Roundtrip.Statement (.not f) := fun hs => ⟨_, rfl, fun w ha => decode_A64 f 0x08F hs rfl rfl w ha⟩
theorem Roundtrip.shl (f : A64) : Roundtrip.Statement (.shl f) := fun hs => ⟨_, rfl, fun w ha => decode_A64 f 0x090 hs rfl rfl w ha⟩
theorem Roundtrip.shr (f : A64) : Roundtrip.Statement (.shr f) := fun hs => ⟨_, rfl, fun w ha => decode_A64 f 0x091 hs rfl rfl w ha⟩
theorem Roundtrip.sar (f : A64) : Roundtrip.Statement (.sar f) := fun hs => ⟨_, rfl, fun w ha => decode_A64 f 0x092 hs rfl rfl w ha⟩
theorem Roundtrip.rot (f : A64) : Roundtrip.Statement (.rot f) := fun hs => ⟨_, rfl, fun w ha => decode_A64 f 0x093 hs rfl rfl w ha⟩
theorem Roundtrip.bfe (f : T96) : Roundtrip.Statement (.bfe f) := fun hs => ⟨_, rfl, fun w ha => decode_T96 f 0x094 hs rfl rfl w ha⟩
theorem Roundtrip.bfi (f : T96) : Roundtrip.Statement (.bfi f) := fun hs => ⟨_, rfl, fun w ha => decode_T96 f 0x095 hs rfl rfl w ha⟩
theorem Roundtrip.popc (f : A64) : Roundtrip.Statement (.popc f) := fun hs => ⟨_, rfl, fun w ha => decode_A64 f 0x096 hs rfl rfl w ha⟩
theorem Roundtrip.clz (f : A64) : Roundtrip.Statement (.clz f) := fun hs => ⟨_, rfl, fun w ha => decode_A64 f 0x097 hs rfl rfl w ha⟩
theorem Roundtrip.ctz (f : A64) : Roundtrip.Statement (.ctz f) := fun hs => ⟨_, rfl, fun w ha => decode_A64 f 0x098 hs rfl rfl w ha⟩
theorem Roundtrip.brev (f : A64) : Roundtrip.Statement (.brev f) := fun hs => ⟨_, rfl, fun w ha => decode_A64 f 0x099 hs rfl rfl w ha⟩
theorem Roundtrip.sel (f : T96) : Roundtrip.Statement (.sel f) := fun hs => ⟨_, rfl, fun w ha => decode_T96 f 0x09A hs rfl rfl w ha⟩
theorem Roundtrip.cmp (f : A64) : Roundtrip.Statement (.cmp f) := fun hs => ⟨_, rfl, fun w ha => decode_A64 f 0x09B hs rfl rfl w ha⟩
theorem Roundtrip.mov (f : A64) : Roundtrip.Statement (.mov f) := by
  intro hw
  have hs : f.shape = true ∧ (f.md == 0) = true := (Bool.and_eq_true _ _).mp hw
  have h2 := hs.2
  have hi : ofA64 (0x09C : BitVec 10).toNat f = some (.mov f) := by
    show (if f.md == 0 then some (Instr.mov f) else if f.md == 1 && !f.h.uni then some (Instr.movFirst f) else none) = some (Instr.mov f)
    simp at h2 ⊢
    simp [h2]
  exact ⟨_, rfl, fun w ha => decode_A64 f 0x09C hs.1 rfl hi w ha⟩
theorem Roundtrip.movFirst (f : A64) : Roundtrip.Statement (.movFirst f) := by
  intro hw
  have hs : f.shape = true ∧ (f.md == 1 && !f.h.uni) = true := (Bool.and_eq_true _ _).mp hw
  have h2 := hs.2
  have hi : ofA64 (0x09C : BitVec 10).toNat f = some (.movFirst f) := by
    show (if f.md == 0 then some (Instr.mov f) else if f.md == 1 && !f.h.uni then some (Instr.movFirst f) else none) = some (Instr.movFirst f)
    simp at h2 ⊢
    simp [h2]
  exact ⟨_, rfl, fun w ha => decode_A64 f 0x09C hs.1 rfl hi w ha⟩
theorem Roundtrip.moviW128 (f : W128) : Roundtrip.Statement (.moviW128 f) := fun hs => ⟨_, rfl, fun w ha => decode_W128 f 0x09D hs rfl rfl w ha⟩
theorem Roundtrip.lea (f : T96) : Roundtrip.Statement (.lea f) := fun hs => ⟨_, rfl, fun w ha => decode_T96 f 0x09E hs rfl rfl w ha⟩
theorem Roundtrip.shfl (f : T96) : Roundtrip.Statement (.shfl f) := fun hs => ⟨_, rfl, fun w ha => decode_T96 f 0x09F hs rfl rfl w ha⟩
theorem Roundtrip.perm (f : T96) : Roundtrip.Statement (.perm f) := fun hs => ⟨_, rfl, fun w ha => decode_T96 f 0x0A0 hs rfl rfl w ha⟩
theorem Roundtrip.pand (f : A64) : Roundtrip.Statement (.pand f) := fun hs => ⟨_, rfl, fun w ha => decode_A64 f 0x0A1 hs rfl rfl w ha⟩
theorem Roundtrip.por (f : A64) : Roundtrip.Statement (.por f) := fun hs => ⟨_, rfl, fun w ha => decode_A64 f 0x0A2 hs rfl rfl w ha⟩
theorem Roundtrip.pxor (f : A64) : Roundtrip.Statement (.pxor f) := fun hs => ⟨_, rfl, fun w ha => decode_A64 f 0x0A3 hs rfl rfl w ha⟩
theorem Roundtrip.pnot (f : A64) : Roundtrip.Statement (.pnot f) := fun hs => ⟨_, rfl, fun w ha => decode_A64 f 0x0A4 hs rfl rfl w ha⟩
theorem Roundtrip.addImm (f : I64) : Roundtrip.Statement (.addImm f) := fun hs => ⟨_, rfl, fun w ha => decode_I64 f 0x0C0 hs rfl rfl w ha⟩
theorem Roundtrip.subImm (f : I64) : Roundtrip.Statement (.subImm f) := fun hs => ⟨_, rfl, fun w ha => decode_I64 f 0x0C2 hs rfl rfl w ha⟩
theorem Roundtrip.mulLoImm (f : I64) : Roundtrip.Statement (.mulLoImm f) := fun hs => ⟨_, rfl, fun w ha => decode_I64 f 0x0C4 hs rfl rfl w ha⟩
theorem Roundtrip.minImm (f : I64) : Roundtrip.Statement (.minImm f) := fun hs => ⟨_, rfl, fun w ha => decode_I64 f 0x0C8 hs rfl rfl w ha⟩
theorem Roundtrip.maxImm (f : I64) : Roundtrip.Statement (.maxImm f) := fun hs => ⟨_, rfl, fun w ha => decode_I64 f 0x0C9 hs rfl rfl w ha⟩
theorem Roundtrip.andImm (f : I64) : Roundtrip.Statement (.andImm f) := fun hs => ⟨_, rfl, fun w ha => decode_I64 f 0x0CC hs rfl rfl w ha⟩
theorem Roundtrip.orImm (f : I64) : Roundtrip.Statement (.orImm f) := fun hs => ⟨_, rfl, fun w ha => decode_I64 f 0x0CD hs rfl rfl w ha⟩
theorem Roundtrip.xorImm (f : I64) : Roundtrip.Statement (.xorImm f) := fun hs => ⟨_, rfl, fun w ha => decode_I64 f 0x0CE hs rfl rfl w ha⟩
theorem Roundtrip.shlImm (f : I64) : Roundtrip.Statement (.shlImm f) := fun hs => ⟨_, rfl, fun w ha => decode_I64 f 0x0D0 hs rfl rfl w ha⟩
theorem Roundtrip.shrImm (f : I64) : Roundtrip.Statement (.shrImm f) := fun hs => ⟨_, rfl, fun w ha => decode_I64 f 0x0D1 hs rfl rfl w ha⟩
theorem Roundtrip.sarImm (f : I64) : Roundtrip.Statement (.sarImm f) := fun hs => ⟨_, rfl, fun w ha => decode_I64 f 0x0D2 hs rfl rfl w ha⟩
theorem Roundtrip.rotImm (f : I64) : Roundtrip.Statement (.rotImm f) := fun hs => ⟨_, rfl, fun w ha => decode_I64 f 0x0D3 hs rfl rfl w ha⟩
theorem Roundtrip.cmpImm (f : I64) : Roundtrip.Statement (.cmpImm f) := fun hs => ⟨_, rfl, fun w ha => decode_I64 f 0x0DB hs rfl rfl w ha⟩
theorem Roundtrip.movi (f : I64) : Roundtrip.Statement (.movi f) := fun hs => ⟨_, rfl, fun w ha => decode_I64 f 0x0DD hs rfl rfl w ha⟩
theorem Roundtrip.fadd (f : A64) : Roundtrip.Statement (.fadd f) := fun hs => ⟨_, rfl, fun w ha => decode_A64 f 0x100 hs rfl rfl w ha⟩
theorem Roundtrip.fsub (f : A64) : Roundtrip.Statement (.fsub f) := fun hs => ⟨_, rfl, fun w ha => decode_A64 f 0x101 hs rfl rfl w ha⟩
theorem Roundtrip.fmul (f : A64) : Roundtrip.Statement (.fmul f) := fun hs => ⟨_, rfl, fun w ha => decode_A64 f 0x102 hs rfl rfl w ha⟩
theorem Roundtrip.fscale (f : A64) : Roundtrip.Statement (.fscale f) := fun hs => ⟨_, rfl, fun w ha => decode_A64 f 0x108 hs rfl rfl w ha⟩
theorem Roundtrip.ffma (f : T96) : Roundtrip.Statement (.ffma f) := fun hs => ⟨_, rfl, fun w ha => decode_T96 f 0x103 hs rfl rfl w ha⟩
theorem Roundtrip.fma2 (f : T96) : Roundtrip.Statement (.fma2 f) := fun hs => ⟨_, rfl, fun w ha => decode_T96 f 0x10A hs rfl rfl w ha⟩
theorem Roundtrip.fdot2 (f : T96) : Roundtrip.Statement (.fdot2 f) := fun hs => ⟨_, rfl, fun w ha => decode_T96 f 0x109 hs rfl rfl w ha⟩
theorem Roundtrip.fmin (f : A64) : Roundtrip.Statement (.fmin f) := fun hs => ⟨_, rfl, fun w ha => decode_A64 f 0x104 hs rfl rfl w ha⟩
theorem Roundtrip.fmax (f : A64) : Roundtrip.Statement (.fmax f) := fun hs => ⟨_, rfl, fun w ha => decode_A64 f 0x105 hs rfl rfl w ha⟩
theorem Roundtrip.fcmp (f : A64) : Roundtrip.Statement (.fcmp f) := fun hs => ⟨_, rfl, fun w ha => decode_A64 f 0x106 hs rfl rfl w ha⟩
theorem Roundtrip.fclass (f : A64) : Roundtrip.Statement (.fclass f) := fun hs => ⟨_, rfl, fun w ha => decode_A64 f 0x107 hs rfl rfl w ha⟩
theorem Roundtrip.frcp (f : A64) : Roundtrip.Statement (.frcp f) := fun hs => ⟨_, rfl, fun w ha => decode_A64 f 0x140 hs rfl rfl w ha⟩
theorem Roundtrip.frsq (f : A64) : Roundtrip.Statement (.frsq f) := fun hs => ⟨_, rfl, fun w ha => decode_A64 f 0x141 hs rfl rfl w ha⟩
theorem Roundtrip.fsqrt (f : A64) : Roundtrip.Statement (.fsqrt f) := fun hs => ⟨_, rfl, fun w ha => decode_A64 f 0x142 hs rfl rfl w ha⟩
theorem Roundtrip.fexp2 (f : A64) : Roundtrip.Statement (.fexp2 f) := fun hs => ⟨_, rfl, fun w ha => decode_A64 f 0x143 hs rfl rfl w ha⟩
theorem Roundtrip.flog2 (f : A64) : Roundtrip.Statement (.flog2 f) := fun hs => ⟨_, rfl, fun w ha => decode_A64 f 0x144 hs rfl rfl w ha⟩
theorem Roundtrip.fsin (f : A64) : Roundtrip.Statement (.fsin f) := fun hs => ⟨_, rfl, fun w ha => decode_A64 f 0x145 hs rfl rfl w ha⟩
theorem Roundtrip.fcos (f : A64) : Roundtrip.Statement (.fcos f) := fun hs => ⟨_, rfl, fun w ha => decode_A64 f 0x146 hs rfl rfl w ha⟩
theorem Roundtrip.dadd (f : A64) : Roundtrip.Statement (.dadd f) := fun hs => ⟨_, rfl, fun w ha => decode_A64 f 0x148 hs rfl rfl w ha⟩
theorem Roundtrip.dmul (f : A64) : Roundtrip.Statement (.dmul f) := fun hs => ⟨_, rfl, fun w ha => decode_A64 f 0x149 hs rfl rfl w ha⟩
theorem Roundtrip.dfma (f : T96) : Roundtrip.Statement (.dfma f) := fun hs => ⟨_, rfl, fun w ha => decode_T96 f 0x14A hs rfl rfl w ha⟩
theorem Roundtrip.dcmp (f : A64) : Roundtrip.Statement (.dcmp f) := fun hs => ⟨_, rfl, fun w ha => decode_A64 f 0x14B hs rfl rfl w ha⟩
theorem Roundtrip.cvt (f : T96) : Roundtrip.Statement (.cvt f) := fun hs => ⟨_, rfl, fun w ha => decode_T96 f 0x180 hs rfl rfl w ha⟩
theorem Roundtrip.pack (f : T96) : Roundtrip.Statement (.pack f) := fun hs => ⟨_, rfl, fun w ha => decode_T96 f 0x181 hs rfl rfl w ha⟩
theorem Roundtrip.unpack (f : T96) : Roundtrip.Statement (.unpack f) := fun hs => ⟨_, rfl, fun w ha => decode_T96 f 0x182 hs rfl rfl w ha⟩
theorem Roundtrip.qpack (f : T96) : Roundtrip.Statement (.qpack f) := fun hs => ⟨_, rfl, fun w ha => decode_T96 f 0x183 hs rfl rfl w ha⟩
theorem Roundtrip.qunpack (f : T96) : Roundtrip.Statement (.qunpack f) := fun hs => ⟨_, rfl, fun w ha => decode_T96 f 0x184 hs rfl rfl w ha⟩
theorem Roundtrip.mres (f : E96) : Roundtrip.Statement (.mres f) := by
  intro hw
  have hs : f.shape = true ∧ (!f.md.getLsbD 6) = true := (Bool.and_eq_true _ _).mp hw
  have h2 := hs.2
  have hi : ofE96 (0x1C0 : BitVec 10).toNat f = some (.mres f) := by
    show (if !f.md.getLsbD 6 then some (Instr.mres f) else if f.md.getLsbD 6 then some (Instr.mresDup f) else none) = some (Instr.mres f)
    simp at h2 ⊢
    simp [h2]
  exact ⟨_, rfl, fun w ha => decode_E96 f 0x1C0 hs.1 rfl hi w ha⟩
theorem Roundtrip.mresDup (f : E96) : Roundtrip.Statement (.mresDup f) := by
  intro hw
  have hs : f.shape = true ∧ (f.md.getLsbD 6) = true := (Bool.and_eq_true _ _).mp hw
  have h2 := hs.2
  have hi : ofE96 (0x1C0 : BitVec 10).toNat f = some (.mresDup f) := by
    show (if !f.md.getLsbD 6 then some (Instr.mres f) else if f.md.getLsbD 6 then some (Instr.mresDup f) else none) = some (Instr.mresDup f)
    simp at h2 ⊢
    simp [h2]
  exact ⟨_, rfl, fun w ha => decode_E96 f 0x1C0 hs.1 rfl hi w ha⟩
theorem Roundtrip.mrel (f : E96) : Roundtrip.Statement (.mrel f) := fun hs => ⟨_, rfl, fun w ha => decode_E96 f 0x1C1 hs rfl rfl w ha⟩
theorem Roundtrip.mtile (f : E96) : Roundtrip.Statement (.mtile f) := by
  intro hw
  have hs : f.shape = true ∧ (!f.md.getLsbD 2) = true := (Bool.and_eq_true _ _).mp hw
  have h2 := hs.2
  have hi : ofE96 (0x1C2 : BitVec 10).toNat f = some (.mtile f) := by
    show (if !f.md.getLsbD 2 then some (Instr.mtile f) else if f.md.getLsbD 2 then some (Instr.mtileD f) else none) = some (Instr.mtile f)
    simp at h2 ⊢
    simp [h2]
  exact ⟨_, rfl, fun w ha => decode_E96 f 0x1C2 hs.1 rfl hi w ha⟩
theorem Roundtrip.mtileD (f : E96) : Roundtrip.Statement (.mtileD f) := by
  intro hw
  have hs : f.shape = true ∧ (f.md.getLsbD 2) = true := (Bool.and_eq_true _ _).mp hw
  have h2 := hs.2
  have hi : ofE96 (0x1C2 : BitVec 10).toNat f = some (.mtileD f) := by
    show (if !f.md.getLsbD 2 then some (Instr.mtile f) else if f.md.getLsbD 2 then some (Instr.mtileD f) else none) = some (Instr.mtileD f)
    simp at h2 ⊢
    simp [h2]
  exact ⟨_, rfl, fun w ha => decode_E96 f 0x1C2 hs.1 rfl hi w ha⟩
theorem Roundtrip.mlds (f : E96) : Roundtrip.Statement (.mlds f) := fun hs => ⟨_, rfl, fun w ha => decode_E96 f 0x1C3 hs rfl rfl w ha⟩
theorem Roundtrip.mswap (f : E96) : Roundtrip.Statement (.mswap f) := fun hs => ⟨_, rfl, fun w ha => decode_E96 f 0x1C4 hs rfl rfl w ha⟩
theorem Roundtrip.mstr (f : E96) : Roundtrip.Statement (.mstr f) := fun hs => ⟨_, rfl, fun w ha => decode_E96 f 0x1C5 hs rfl rfl w ha⟩
theorem Roundtrip.mzero (f : E96) : Roundtrip.Statement (.mzero f) := fun hs => ⟨_, rfl, fun w ha => decode_E96 f 0x1C7 hs rfl rfl w ha⟩
theorem Roundtrip.mdrn (f : E96) : Roundtrip.Statement (.mdrn f) := fun hs => ⟨_, rfl, fun w ha => decode_E96 f 0x1C6 hs rfl rfl w ha⟩
theorem Roundtrip.mwait (f : E96) : Roundtrip.Statement (.mwait f) := fun hs => ⟨_, rfl, fun w ha => decode_E96 f 0x1C8 hs rfl rfl w ha⟩
theorem Roundtrip.mq (f : E96) : Roundtrip.Statement (.mq f) := fun hs => ⟨_, rfl, fun w ha => decode_E96 f 0x1C9 hs rfl rfl w ha⟩
theorem Roundtrip.ldG (f : M96) : Roundtrip.Statement (.ldG f) := fun _ => ⟨_, rfl, fun w ha => decode_M96 f 0x200 rfl rfl w ha⟩
theorem Roundtrip.stG (f : M96) : Roundtrip.Statement (.stG f) := fun _ => ⟨_, rfl, fun w ha => decode_M96 f 0x201 rfl rfl w ha⟩
theorem Roundtrip.ldS (f : M96) : Roundtrip.Statement (.ldS f) := fun _ => ⟨_, rfl, fun w ha => decode_M96 f 0x202 rfl rfl w ha⟩
theorem Roundtrip.stS (f : M96) : Roundtrip.Statement (.stS f) := fun _ => ⟨_, rfl, fun w ha => decode_M96 f 0x203 rfl rfl w ha⟩
theorem Roundtrip.ldC (f : M96) : Roundtrip.Statement (.ldC f) := fun _ => ⟨_, rfl, fun w ha => decode_M96 f 0x204 rfl rfl w ha⟩
theorem Roundtrip.prf (f : M96) : Roundtrip.Statement (.prf f) := fun _ => ⟨_, rfl, fun w ha => decode_M96 f 0x205 rfl rfl w ha⟩
theorem Roundtrip.smap (f : W128) : Roundtrip.Statement (.smap f) := fun hs => ⟨_, rfl, fun w ha => decode_W128 f 0x206 hs rfl rfl w ha⟩
theorem Roundtrip.sunmap (f : A64) : Roundtrip.Statement (.sunmap f) := fun hs => ⟨_, rfl, fun w ha => decode_A64 f 0x207 hs rfl rfl w ha⟩
theorem Roundtrip.swb (f : A64) : Roundtrip.Statement (.swb f) := fun hs => ⟨_, rfl, fun w ha => decode_A64 f 0x208 hs rfl rfl w ha⟩
theorem Roundtrip.lstep (f : A64) : Roundtrip.Statement (.lstep f) := fun hs => ⟨_, rfl, fun w ha => decode_A64 f 0x209 hs rfl rfl w ha⟩
theorem Roundtrip.cmoCln (f : M96) : Roundtrip.Statement (.cmoCln f) := fun _ => ⟨_, rfl, fun w ha => decode_M96 f 0x240 rfl rfl w ha⟩
theorem Roundtrip.cmoInv (f : M96) : Roundtrip.Statement (.cmoInv f) := fun _ => ⟨_, rfl, fun w ha => decode_M96 f 0x241 rfl rfl w ha⟩
theorem Roundtrip.cmoCinv (f : M96) : Roundtrip.Statement (.cmoCinv f) := fun _ => ⟨_, rfl, fun w ha => decode_M96 f 0x242 rfl rfl w ha⟩
theorem Roundtrip.dsc (f : M96) : Roundtrip.Statement (.dsc f) := fun _ => ⟨_, rfl, fun w ha => decode_M96 f 0x243 rfl rfl w ha⟩
theorem Roundtrip.pin (f : M96) : Roundtrip.Statement (.pin f) := fun _ => ⟨_, rfl, fun w ha => decode_M96 f 0x244 rfl rfl w ha⟩
theorem Roundtrip.unpin (f : M96) : Roundtrip.Statement (.unpin f) := fun _ => ⟨_, rfl, fun w ha => decode_M96 f 0x245 rfl rfl w ha⟩
theorem Roundtrip.zero (f : M96) : Roundtrip.Statement (.zero f) := fun _ => ⟨_, rfl, fun w ha => decode_M96 f 0x246 rfl rfl w ha⟩
theorem Roundtrip.pqrySelf (f : A64) : Roundtrip.Statement (.pqrySelf f) := by
  intro hw
  have hs : f.shape = true ∧ (f.md == 0) = true := (Bool.and_eq_true _ _).mp hw
  have h2 := hs.2
  have hi : ofA64 (0x247 : BitVec 10).toNat f = some (.pqrySelf f) := by
    show (if f.md == 0 then some (Instr.pqrySelf f) else if f.md == 1 then some (Instr.pqryLine f) else if f.md == 2 then some (Instr.pqryRes f) else if f.md == 3 then some (Instr.pqryCnt f) else none) = some (Instr.pqrySelf f)
    simp at h2 ⊢
    simp [h2]
  exact ⟨_, rfl, fun w ha => decode_A64 f 0x247 hs.1 rfl hi w ha⟩
theorem Roundtrip.pqryLine (f : A64) : Roundtrip.Statement (.pqryLine f) := by
  intro hw
  have hs : f.shape = true ∧ (f.md == 1) = true := (Bool.and_eq_true _ _).mp hw
  have h2 := hs.2
  have hi : ofA64 (0x247 : BitVec 10).toNat f = some (.pqryLine f) := by
    show (if f.md == 0 then some (Instr.pqrySelf f) else if f.md == 1 then some (Instr.pqryLine f) else if f.md == 2 then some (Instr.pqryRes f) else if f.md == 3 then some (Instr.pqryCnt f) else none) = some (Instr.pqryLine f)
    simp at h2 ⊢
    simp [h2]
  exact ⟨_, rfl, fun w ha => decode_A64 f 0x247 hs.1 rfl hi w ha⟩
theorem Roundtrip.pqryRes (f : A64) : Roundtrip.Statement (.pqryRes f) := by
  intro hw
  have hs : f.shape = true ∧ (f.md == 2) = true := (Bool.and_eq_true _ _).mp hw
  have h2 := hs.2
  have hi : ofA64 (0x247 : BitVec 10).toNat f = some (.pqryRes f) := by
    show (if f.md == 0 then some (Instr.pqrySelf f) else if f.md == 1 then some (Instr.pqryLine f) else if f.md == 2 then some (Instr.pqryRes f) else if f.md == 3 then some (Instr.pqryCnt f) else none) = some (Instr.pqryRes f)
    simp at h2 ⊢
    simp [h2]
  exact ⟨_, rfl, fun w ha => decode_A64 f 0x247 hs.1 rfl hi w ha⟩
theorem Roundtrip.pqryCnt (f : A64) : Roundtrip.Statement (.pqryCnt f) := by
  intro hw
  have hs : f.shape = true ∧ (f.md == 3) = true := (Bool.and_eq_true _ _).mp hw
  have h2 := hs.2
  have hi : ofA64 (0x247 : BitVec 10).toNat f = some (.pqryCnt f) := by
    show (if f.md == 0 then some (Instr.pqrySelf f) else if f.md == 1 then some (Instr.pqryLine f) else if f.md == 2 then some (Instr.pqryRes f) else if f.md == 3 then some (Instr.pqryCnt f) else none) = some (Instr.pqryCnt f)
    simp at h2 ⊢
    simp [h2]
  exact ⟨_, rfl, fun w ha => decode_A64 f 0x247 hs.1 rfl hi w ha⟩
theorem Roundtrip.fenceAr (f : A64) : Roundtrip.Statement (.fenceAr f) := by
  intro hw
  have hs : f.shape = true ∧ (f.md == 0) = true := (Bool.and_eq_true _ _).mp hw
  have h2 := hs.2
  have hi : ofA64 (0x248 : BitVec 10).toNat f = some (.fenceAr f) := by
    show (if f.md == 0 then some (Instr.fenceAr f) else if f.md == 1 then some (Instr.fenceAcq f) else if f.md == 2 then some (Instr.fenceRel f) else none) = some (Instr.fenceAr f)
    simp at h2 ⊢
    simp [h2]
  exact ⟨_, rfl, fun w ha => decode_A64 f 0x248 hs.1 rfl hi w ha⟩
theorem Roundtrip.fenceAcq (f : A64) : Roundtrip.Statement (.fenceAcq f) := by
  intro hw
  have hs : f.shape = true ∧ (f.md == 1) = true := (Bool.and_eq_true _ _).mp hw
  have h2 := hs.2
  have hi : ofA64 (0x248 : BitVec 10).toNat f = some (.fenceAcq f) := by
    show (if f.md == 0 then some (Instr.fenceAr f) else if f.md == 1 then some (Instr.fenceAcq f) else if f.md == 2 then some (Instr.fenceRel f) else none) = some (Instr.fenceAcq f)
    simp at h2 ⊢
    simp [h2]
  exact ⟨_, rfl, fun w ha => decode_A64 f 0x248 hs.1 rfl hi w ha⟩
theorem Roundtrip.fenceRel (f : A64) : Roundtrip.Statement (.fenceRel f) := by
  intro hw
  have hs : f.shape = true ∧ (f.md == 2) = true := (Bool.and_eq_true _ _).mp hw
  have h2 := hs.2
  have hi : ofA64 (0x248 : BitVec 10).toNat f = some (.fenceRel f) := by
    show (if f.md == 0 then some (Instr.fenceAr f) else if f.md == 1 then some (Instr.fenceAcq f) else if f.md == 2 then some (Instr.fenceRel f) else none) = some (Instr.fenceRel f)
    simp at h2 ⊢
    simp [h2]
  exact ⟨_, rfl, fun w ha => decode_A64 f 0x248 hs.1 rfl hi w ha⟩
theorem Roundtrip.fenceM (f : A64) : Roundtrip.Statement (.fenceM f) := fun hs => ⟨_, rfl, fun w ha => decode_A64 f 0x249 hs rfl rfl w ha⟩
theorem Roundtrip.cpy (f : W128) : Roundtrip.Statement (.cpy f) := fun hs => ⟨_, rfl, fun w ha => decode_W128 f 0x280 hs rfl rfl w ha⟩
theorem Roundtrip.cpyO (f : W128) : Roundtrip.Statement (.cpyO f) := fun hs => ⟨_, rfl, fun w ha => decode_W128 f 0x281 hs rfl rfl w ha⟩
theorem Roundtrip.cpyTIn (f : E96) : Roundtrip.Statement (.cpyTIn f) := by
  intro hw
  have hs : f.shape = true ∧ (f.md.extractLsb' 0 2 == 0) = true := (Bool.and_eq_true _ _).mp hw
  have h2 := hs.2
  have hi : ofE96 (0x282 : BitVec 10).toNat f = some (.cpyTIn f) := by
    show (if f.md.extractLsb' 0 2 == 0 then some (Instr.cpyTIn f) else if f.md.extractLsb' 0 2 == 1 then some (Instr.cpyTOut f) else if f.md.extractLsb' 0 2 == 2 then some (Instr.cpyTDef f) else none) = some (Instr.cpyTIn f)
    simp at h2 ⊢
    simp [h2]
  exact ⟨_, rfl, fun w ha => decode_E96 f 0x282 hs.1 rfl hi w ha⟩
theorem Roundtrip.cpyTOut (f : E96) : Roundtrip.Statement (.cpyTOut f) := by
  intro hw
  have hs : f.shape = true ∧ (f.md.extractLsb' 0 2 == 1) = true := (Bool.and_eq_true _ _).mp hw
  have h2 := hs.2
  have hi : ofE96 (0x282 : BitVec 10).toNat f = some (.cpyTOut f) := by
    show (if f.md.extractLsb' 0 2 == 0 then some (Instr.cpyTIn f) else if f.md.extractLsb' 0 2 == 1 then some (Instr.cpyTOut f) else if f.md.extractLsb' 0 2 == 2 then some (Instr.cpyTDef f) else none) = some (Instr.cpyTOut f)
    simp at h2 ⊢
    simp [h2]
  exact ⟨_, rfl, fun w ha => decode_E96 f 0x282 hs.1 rfl hi w ha⟩
theorem Roundtrip.cpyTDef (f : E96) : Roundtrip.Statement (.cpyTDef f) := by
  intro hw
  have hs : f.shape = true ∧ (f.md.extractLsb' 0 2 == 2) = true := (Bool.and_eq_true _ _).mp hw
  have h2 := hs.2
  have hi : ofE96 (0x282 : BitVec 10).toNat f = some (.cpyTDef f) := by
    show (if f.md.extractLsb' 0 2 == 0 then some (Instr.cpyTIn f) else if f.md.extractLsb' 0 2 == 1 then some (Instr.cpyTOut f) else if f.md.extractLsb' 0 2 == 2 then some (Instr.cpyTDef f) else none) = some (Instr.cpyTDef f)
    simp at h2 ⊢
    simp [h2]
  exact ⟨_, rfl, fun w ha => decode_E96 f 0x282 hs.1 rfl hi w ha⟩
theorem Roundtrip.cpwait (f : A64) : Roundtrip.Statement (.cpwait f) := fun hs => ⟨_, rfl, fun w ha => decode_A64 f 0x283 hs rfl rfl w ha⟩
theorem Roundtrip.cpyield (f : I64) : Roundtrip.Statement (.cpyield f) := fun hs => ⟨_, rfl, fun w ha => decode_I64 f 0x284 hs rfl rfl w ha⟩
theorem Roundtrip.cfe (f : A64) : Roundtrip.Statement (.cfe f) := fun hs => ⟨_, rfl, fun w ha => decode_A64 f 0x285 hs rfl rfl w ha⟩
theorem Roundtrip.cpcan (f : A64) : Roundtrip.Statement (.cpcan f) := fun hs => ⟨_, rfl, fun w ha => decode_A64 f 0x286 hs rfl rfl w ha⟩
theorem Roundtrip.chsend (f : I64) : Roundtrip.Statement (.chsend f) := fun hs => ⟨_, rfl, fun w ha => decode_I64 f 0x287 hs rfl rfl w ha⟩
theorem Roundtrip.chrecv (f : I64) : Roundtrip.Statement (.chrecv f) := fun hs => ⟨_, rfl, fun w ha => decode_I64 f 0x288 hs rfl rfl w ha⟩
theorem Roundtrip.chcfgSet (f : A64) : Roundtrip.Statement (.chcfgSet f) := by
  intro hw
  have hs : f.shape = true ∧ (f.md == 0) = true := (Bool.and_eq_true _ _).mp hw
  have h2 := hs.2
  have hi : ofA64 (0x289 : BitVec 10).toNat f = some (.chcfgSet f) := by
    show (if f.md == 0 then some (Instr.chcfgSet f) else if f.md == 1 then some (Instr.chcfgQ f) else none) = some (Instr.chcfgSet f)
    simp at h2 ⊢
    simp [h2]
  exact ⟨_, rfl, fun w ha => decode_A64 f 0x289 hs.1 rfl hi w ha⟩
theorem Roundtrip.chcfgQ (f : A64) : Roundtrip.Statement (.chcfgQ f) := by
  intro hw
  have hs : f.shape = true ∧ (f.md == 1) = true := (Bool.and_eq_true _ _).mp hw
  have h2 := hs.2
  have hi : ofA64 (0x289 : BitVec 10).toNat f = some (.chcfgQ f) := by
    show (if f.md == 0 then some (Instr.chcfgSet f) else if f.md == 1 then some (Instr.chcfgQ f) else none) = some (Instr.chcfgQ f)
    simp at h2 ⊢
    simp [h2]
  exact ⟨_, rfl, fun w ha => decode_A64 f 0x289 hs.1 rfl hi w ha⟩
theorem Roundtrip.atom (f : M96) : Roundtrip.Statement (.atom f) := fun _ => ⟨_, rfl, fun w ha => decode_M96 f 0x2C0 rfl rfl w ha⟩
theorem Roundtrip.atomCas (f : W128) : Roundtrip.Statement (.atomCas f) := fun hs => ⟨_, rfl, fun w ha => decode_W128 f 0x2C1 hs rfl rfl w ha⟩
theorem Roundtrip.red (f : M96) : Roundtrip.Statement (.red f) := by
  intro hw
  have h2 : (!f.md.getLsbD 4) = true := hw
  have hi : ofM96 (0x2C2 : BitVec 10).toNat f = some (.red f) := by
    show (if !f.md.getLsbD 4 then some (Instr.red f) else if f.md.getLsbD 4 then some (Instr.redCell f) else none) = some (Instr.red f)
    simp at h2 ⊢
    simp [h2]
  exact ⟨_, rfl, fun w ha => decode_M96 f 0x2C2 rfl hi w ha⟩
theorem Roundtrip.redCell (f : M96) : Roundtrip.Statement (.redCell f) := by
  intro hw
  have h2 : (f.md.getLsbD 4) = true := hw
  have hi : ofM96 (0x2C2 : BitVec 10).toNat f = some (.redCell f) := by
    show (if !f.md.getLsbD 4 then some (Instr.red f) else if f.md.getLsbD 4 then some (Instr.redCell f) else none) = some (Instr.redCell f)
    simp at h2 ⊢
    simp [h2]
  exact ⟨_, rfl, fun w ha => decode_M96 f 0x2C2 rfl hi w ha⟩
theorem Roundtrip.crinit (f : A64) : Roundtrip.Statement (.crinit f) := fun hs => ⟨_, rfl, fun w ha => decode_A64 f 0x2C3 hs rfl rfl w ha⟩
theorem Roundtrip.arrive (f : A64) : Roundtrip.Statement (.arrive f) := fun hs => ⟨_, rfl, fun w ha => decode_A64 f 0x2C4 hs rfl rfl w ha⟩
theorem Roundtrip.arriveW (f : A64) : Roundtrip.Statement (.arriveW f) := fun hs => ⟨_, rfl, fun w ha => decode_A64 f 0x2C5 hs rfl rfl w ha⟩
theorem Roundtrip.crwait (f : A64) : Roundtrip.Statement (.crwait f) := fun hs => ⟨_, rfl, fun w ha => decode_A64 f 0x2C6 hs rfl rfl w ha⟩
theorem Roundtrip.crexp (f : A64) : Roundtrip.Statement (.crexp f) := fun hs => ⟨_, rfl, fun w ha => decode_A64 f 0x2C7 hs rfl rfl w ha⟩
theorem Roundtrip.crinv (f : A64) : Roundtrip.Statement (.crinv f) := fun hs => ⟨_, rfl, fun w ha => decode_A64 f 0x2C8 hs rfl rfl w ha⟩
theorem Roundtrip.gcreate (f : W128) : Roundtrip.Statement (.gcreate f) := fun hs => ⟨_, rfl, fun w ha => decode_W128 f 0x300 hs rfl rfl w ha⟩
theorem Roundtrip.gjoin (f : W128) : Roundtrip.Statement (.gjoin f) := fun hs => ⟨_, rfl, fun w ha => decode_W128 f 0x301 hs rfl rfl w ha⟩
theorem Roundtrip.gleave (f : W128) : Roundtrip.Statement (.gleave f) := fun hs => ⟨_, rfl, fun w ha => decode_W128 f 0x302 hs rfl rfl w ha⟩
theorem Roundtrip.gbar (f : W128) : Roundtrip.Statement (.gbar f) := fun hs => ⟨_, rfl, fun w ha => decode_W128 f 0x303 hs rfl rfl w ha⟩
theorem Roundtrip.gvote (f : W128) : Roundtrip.Statement (.gvote f) := fun hs => ⟨_, rfl, fun w ha => decode_W128 f 0x304 hs rfl rfl w ha⟩
theorem Roundtrip.gred (f : W128) : Roundtrip.Statement (.gred f) := fun hs => ⟨_, rfl, fun w ha => decode_W128 f 0x305 hs rfl rfl w ha⟩
theorem Roundtrip.gquery (f : W128) : Roundtrip.Statement (.gquery f) := fun hs => ⟨_, rfl, fun w ha => decode_W128 f 0x306 hs rfl rfl w ha⟩
theorem Roundtrip.gdestroy (f : W128) : Roundtrip.Statement (.gdestroy f) := fun hs => ⟨_, rfl, fun w ha => decode_W128 f 0x307 hs rfl rfl w ha⟩
theorem Roundtrip.groveEventApply (stand : Nat) : Roundtrip.Statement (.groveEventApply stand) := fun h => nomatch h
theorem Roundtrip.rdsr (f : A64) : Roundtrip.Statement (.rdsr f) := fun hs => ⟨_, rfl, fun w ha => decode_A64 f 0x340 hs rfl rfl w ha⟩
theorem Roundtrip.wrsr (f : A64) : Roundtrip.Statement (.wrsr f) := fun hs => ⟨_, rfl, fun w ha => decode_A64 f 0x341 hs rfl rfl w ha⟩
theorem Roundtrip.trap (f : I64) : Roundtrip.Statement (.trap f) := fun hs => ⟨_, rfl, fun w ha => decode_I64 f 0x342 hs rfl rfl w ha⟩
theorem Roundtrip.tret (f : A64) : Roundtrip.Statement (.tret f) := fun hs => ⟨_, rfl, fun w ha => decode_A64 f 0x343 hs rfl rfl w ha⟩
theorem Roundtrip.brk (f : I64) : Roundtrip.Statement (.brk f) := fun hs => ⟨_, rfl, fun w ha => decode_I64 f 0x344 hs rfl rfl w ha⟩
theorem Roundtrip.spl (f : A64) : Roundtrip.Statement (.spl f) := fun hs => ⟨_, rfl, fun w ha => decode_A64 f 0x345 hs rfl rfl w ha⟩
theorem Roundtrip.halt (f : A64) : Roundtrip.Statement (.halt f) := fun hs => ⟨_, rfl, fun w ha => decode_A64 f 0x346 hs rfl rfl w ha⟩
theorem Roundtrip.clauseHeader (h : Hdr) : Roundtrip.Statement (.clauseHeader h) := fun hs => ⟨_, rfl, fun w ha => decode_header h hs w ha⟩
theorem Roundtrip.markWord (h : Mark) : Roundtrip.Statement (.markWord h) := fun _ => ⟨_, rfl, fun w ha => decode_mark h w ha⟩
theorem Roundtrip.longLatencyComplete (stand : Nat) (idx : Nat) : Roundtrip.Statement (.longLatencyComplete stand idx) := fun h => nomatch h
theorem Roundtrip.sleepEnd (stand : Nat) : Roundtrip.Statement (.sleepEnd stand) := fun h => nomatch h
theorem Roundtrip.trapEntry (stand : Nat) : Roundtrip.Statement (.trapEntry stand) := fun h => nomatch h
theorem Roundtrip.deferredTrapTake (stand : Nat) : Roundtrip.Statement (.deferredTrapTake stand) := fun h => nomatch h
theorem Roundtrip.standEnd (stand : Nat) : Roundtrip.Statement (.standEnd stand) := fun h => nomatch h
theorem Roundtrip.issueWatchdog (stand : Nat) : Roundtrip.Statement (.issueWatchdog stand) := fun h => nomatch h
theorem Roundtrip.launch (vi : Nat) (tag : BitVec 16) (record : BitVec 64) : Roundtrip.Statement (.launch vi tag record) := fun h => nomatch h
theorem Roundtrip.copseCreate (launchId stage core : Nat) : Roundtrip.Statement (.copseCreate launchId stage core) := fun h => nomatch h
theorem Roundtrip.clusterReassign (field : Nat) : Roundtrip.Statement (.clusterReassign field) := fun h => nomatch h
theorem Roundtrip.stageComplete (launchId stage : Nat) : Roundtrip.Statement (.stageComplete launchId stage) := fun h => nomatch h
theorem Roundtrip.moveRoomSearch (copse : Nat) : Roundtrip.Statement (.moveRoomSearch copse) := fun h => nomatch h
theorem Roundtrip.copseMigrate (copse : Nat) : Roundtrip.Statement (.copseMigrate copse) := fun h => nomatch h
theorem Roundtrip.moveLapse (copse : Nat) : Roundtrip.Statement (.moveLapse copse) := fun h => nomatch h
theorem Roundtrip.commandGrant (cluster resv : Nat) : Roundtrip.Statement (.commandGrant cluster resv) := fun h => nomatch h
theorem Roundtrip.planeLoad (cluster resv : Nat) : Roundtrip.Statement (.planeLoad cluster resv) := fun h => nomatch h
theorem Roundtrip.passComplete (cluster resv : Nat) : Roundtrip.Statement (.passComplete cluster resv) := fun h => nomatch h
theorem Roundtrip.operandLineArrive (cluster resv : Nat) : Roundtrip.Statement (.operandLineArrive cluster resv) := fun h => nomatch h
theorem Roundtrip.matrixAssist (cluster : Nat) : Roundtrip.Statement (.matrixAssist cluster) := fun h => nomatch h
theorem Roundtrip.drainCommit (cluster resv : Nat) : Roundtrip.Statement (.drainCommit cluster resv) := fun h => nomatch h
theorem Roundtrip.detDrainCommit (line : Nat) : Roundtrip.Statement (.detDrainCommit line) := fun h => nomatch h
theorem Roundtrip.pageAns (vi : Nat) (tag : BitVec 16) (id : Nat) (deny : Bool) : Roundtrip.Statement (.pageAns vi tag id deny) := fun h => nomatch h
theorem Roundtrip.inval (vi : Nat) (tag : BitVec 16) (base len : BitVec 64) : Roundtrip.Statement (.inval vi tag base len) := fun h => nomatch h
theorem Roundtrip.regionFill (copse line : Nat) : Roundtrip.Statement (.regionFill copse line) := fun h => nomatch h
theorem Roundtrip.regionWriteBack (copse line : Nat) : Roundtrip.Statement (.regionWriteBack copse line) := fun h => nomatch h
theorem Roundtrip.tierMove (unit : Nat) (toNear : Bool) : Roundtrip.Statement (.tierMove unit toNear) := fun h => nomatch h
theorem Roundtrip.l1WriteBack (core line : Nat) : Roundtrip.Statement (.l1WriteBack core line) := fun h => nomatch h
theorem Roundtrip.homeMove (line bank : Nat) : Roundtrip.Statement (.homeMove line bank) := fun h => nomatch h
theorem Roundtrip.lineEvict (line : Nat) (replica : Option Nat) : Roundtrip.Statement (.lineEvict line replica) := fun h => nomatch h
theorem Roundtrip.markerArrive (stand slice : Nat) : Roundtrip.Statement (.markerArrive stand slice) := fun h => nomatch h
theorem Roundtrip.domWb (vi : Nat) : Roundtrip.Statement (.domWb vi) := fun h => nomatch h
theorem Roundtrip.domWbComplete (vi : Nat) : Roundtrip.Statement (.domWbComplete vi) := fun h => nomatch h
theorem Roundtrip.domSwitch (vi : Nat) : Roundtrip.Statement (.domSwitch vi) := fun h => nomatch h
theorem Roundtrip.domSwitchComplete (vi : Nat) : Roundtrip.Statement (.domSwitchComplete vi) := fun h => nomatch h
theorem Roundtrip.copyLineDeliver (copse seq : Nat) : Roundtrip.Statement (.copyLineDeliver copse seq) := fun h => nomatch h
theorem Roundtrip.copyStatusPush (copse seq : Nat) : Roundtrip.Statement (.copyStatusPush copse seq) := fun h => nomatch h
theorem Roundtrip.preempt (vi : Nat) (tag : BitVec 16) (record : BitVec 64) (ord : Option (BitVec 64)) (bound : BitVec 32) (hint : BitVec 8) : Roundtrip.Statement (.preempt vi tag record ord bound hint) := fun h => nomatch h
theorem Roundtrip.preemptEval (launchId : Nat) : Roundtrip.Statement (.preemptEval launchId) := fun h => nomatch h
theorem Roundtrip.copseSave (copse : Nat) : Roundtrip.Statement (.copseSave copse) := fun h => nomatch h
theorem Roundtrip.drainLimit (copse : Nat) : Roundtrip.Statement (.drainLimit copse) := fun h => nomatch h
theorem Roundtrip.copseRestore (copse core : Nat) : Roundtrip.Statement (.copseRestore copse core) := fun h => nomatch h
theorem Roundtrip.restore (vi : Nat) (tag : BitVec 16) (image xlat xlatSize : BitVec 64) : Roundtrip.Statement (.restore vi tag image xlat xlatSize) := fun h => nomatch h
theorem Roundtrip.debugCmd (vi : Nat) (tag : BitVec 16) (ord : BitVec 64) (stand : BitVec 4) (op : BitVec 8) : Roundtrip.Statement (.debugCmd vi tag ord stand op) := fun h => nomatch h
theorem Roundtrip.shadeRotation (field : Nat) (temps : List (Nat × Int)) : Roundtrip.Statement (.shadeRotation field temps) := fun h => nomatch h
theorem Roundtrip.rateBoundary (cluster : Nat) : Roundtrip.Statement (.rateBoundary cluster) := fun h => nomatch h
theorem Roundtrip.pmbusReading (r : Reading) : Roundtrip.Statement (.pmbusReading r) := fun h => nomatch h
theorem Roundtrip.powerRemove : Roundtrip.Statement (.powerRemove) := fun h => nomatch h
theorem Roundtrip.hostTimeout (vi : Nat) (tag : BitVec 16) : Roundtrip.Statement (.hostTimeout vi tag) := fun h => nomatch h
theorem Roundtrip.uncorrectableError (e : UceSite) : Roundtrip.Statement (.uncorrectableError e) := fun h => nomatch h
theorem Roundtrip.flitResend (link : Nat) : Roundtrip.Statement (.flitResend link) := fun h => nomatch h
theorem Roundtrip.linkFail (link : Nat) : Roundtrip.Statement (.linkFail link) := fun h => nomatch h
theorem Roundtrip.escapeResend (slice plane : Nat) : Roundtrip.Statement (.escapeResend slice plane) := fun h => nomatch h
theorem Roundtrip.arbiterGrant (plane net router output : Nat) : Roundtrip.Statement (.arbiterGrant plane net router output) := fun h => nomatch h
theorem Roundtrip.tableChangeStart (plane : Nat) (table : List (Nat × List (Nat × BitVec 4))) : Roundtrip.Statement (.tableChangeStart plane table) := fun h => nomatch h
theorem Roundtrip.tableSwitching (plane : Nat) : Roundtrip.Statement (.tableSwitching plane) := fun h => nomatch h
theorem Roundtrip.tableDraining (plane : Nat) : Roundtrip.Statement (.tableDraining plane) := fun h => nomatch h
theorem Roundtrip.tableStable (plane : Nat) : Roundtrip.Statement (.tableStable plane) := fun h => nomatch h
theorem Roundtrip.verOffer (vi : Nat) (value : Word64) : Roundtrip.Statement (.verOffer vi value) := fun h => nomatch h
theorem Roundtrip.sqPtr (vi : Nat) (value : Word64) : Roundtrip.Statement (.sqPtr vi value) := fun h => nomatch h
theorem Roundtrip.pfEqPtr (pf : Nat) (value : Word64) : Roundtrip.Statement (.pfEqPtr pf value) := fun h => nomatch h
theorem Roundtrip.viEnable (vi : Nat) (value : Word64) : Roundtrip.Statement (.viEnable vi value) := fun h => nomatch h
theorem Roundtrip.registerWrite (reg : Reg) (value : Word64) : Roundtrip.Statement (.registerWrite reg value) := fun h => nomatch h
theorem Roundtrip.functionLevelReset (vi : Nat) : Roundtrip.Statement (.functionLevelReset vi) := fun h => nomatch h
theorem Roundtrip.hostPortReset (port : Nat) : Roundtrip.Statement (.hostPortReset port) := fun h => nomatch h
theorem Roundtrip.coldReset : Roundtrip.Statement (.coldReset) := fun h => nomatch h
theorem Roundtrip.rst (value : Word64) : Roundtrip.Statement (.rst value) := fun h => nomatch h
theorem Roundtrip.sigchk (candidate : Option (ImageKind × Image)) : Roundtrip.Statement (.sigchk candidate) := fun h => nomatch h
theorem Roundtrip.ftest : Roundtrip.Statement (.ftest) := fun h => nomatch h
theorem Roundtrip.hbm : Roundtrip.Statement (.hbm) := fun h => nomatch h
theorem Roundtrip.net : Roundtrip.Statement (.net) := fun h => nomatch h
theorem Roundtrip.seal : Roundtrip.Statement (.seal) := fun h => nomatch h
theorem Roundtrip.enum : Roundtrip.Statement (.enum) := fun h => nomatch h
theorem Roundtrip.ready : Roundtrip.Statement (.ready) := fun h => nomatch h
theorem Roundtrip.getVersion (pf : Nat) : Roundtrip.Statement (.getVersion pf) := fun h => nomatch h
theorem Roundtrip.getCapabilities (pf : Nat) : Roundtrip.Statement (.getCapabilities pf) := fun h => nomatch h
theorem Roundtrip.negotiateAlgorithms (pf : Nat) : Roundtrip.Statement (.negotiateAlgorithms pf) := fun h => nomatch h
theorem Roundtrip.getDigests (pf : Nat) : Roundtrip.Statement (.getDigests pf) := fun h => nomatch h
theorem Roundtrip.getCertificate (pf : Nat) (slot : Nat) : Roundtrip.Statement (.getCertificate pf slot) := fun h => nomatch h
theorem Roundtrip.challenge (pf : Nat) (nonce : Nat) : Roundtrip.Statement (.challenge pf nonce) := fun h => nomatch h
theorem Roundtrip.getMeasurements (pf : Nat) (index : Nat) : Roundtrip.Statement (.getMeasurements pf index) := fun h => nomatch h
theorem Roundtrip.peerRequest (r : PeerReq) : Roundtrip.Statement (.peerRequest r) := fun h => nomatch h
theorem Roundtrip.cqPtr (vi : Nat) (value : Word64) : Roundtrip.Statement (.cqPtr vi value) := fun h => nomatch h
theorem Roundtrip.eqPtr (vi : Nat) (value : Word64) : Roundtrip.Statement (.eqPtr vi value) := fun h => nomatch h

end Sys2Proof.Laws
end

