-- ==== Sys2Proof/Safety.lean ====
section
/-! DEFINITION. The terms that claims about the machine use: what a safe step is, when a word may issue, what the stand is once it
has, what a frame is, and the results of the register instructions as spec/06 gives them, written on bit vectors. -/

namespace Sys2Proof.Machine

/-! ### Steps -/

/-- A step is safe when it neither faults nor is refused: the device goes on. -/
def SafeStep (s : State) : Prop := ∃ t, step s = .next t

/-! ### The issue of a word -/

/-- The form of an encoded word, whose roles and conditions decide its ILL causes, and its own effect; none for headers, marks and
events. -/
def wordOf (i : Instr) (s : State) : Option (Form × (State → Eff)) :=
  match i with
  | .bra f => some (formBra f, bodyBra f)
  | .braFar f => some (formBraFar f, bodyBraFar f)
  | .brx f => some (formBrx f, bodyBrx f)
  | .call f => some (formCall f, bodyCall f)
  | .callFar f => some (formCallFar f, bodyCallFar f)
  | .calx f => some (formCalx f, bodyCalx f)
  | .ret f => some (formRet f, bodyRet f)
  | .exit f => some (formExit f, bodyExit f)
  | .split f => some (formSplit f, bodySplit f)
  | .join f => some (formJoin f, bodyJoin f)
  | .rset f => some (formRset f s, bodyRset f)
  | .rwait f => some (formRwait f, bodyRwait f)
  | .rcancel f => some (formRcancel f, bodyRcancel f)
  | .yield f => some (formYield f s, bodyYield f)
  | .yieldL f => some (formYieldL f, bodyYieldL f)
  | .yieldLEnd f => some (formYieldLEnd f, bodyYieldLEnd f)
  | .sleep f => some (formSleep f s, bodySleep f)
  | .elect f => some (formElect f, bodyElect f)
  | .vote f => some (formVote f, bodyVote f)
  | .voteBallot f => some (formVoteBallot f, bodyVoteBallot f)
  | .actm f => some (formActm f, bodyActm f)
  | .nop f => some (formNop f, bodyNop f)
  | .claim f => some (formClaim f, bodyClaim f)
  | .enq f => some (formEnq f s, bodyEnq f)
  | .enqItemPush .. => none
  | .deq f => some (formDeq f s, bodyDeq f)
  | .qstat f => some (formQstat f, bodyQstat f)
  | .graftShut f => some (formGraftShut f, bodyGraftShut f)
  | .graftOpen f => some (formGraftOpen f, bodyGraftOpen f)
  | .migrHeart f => some (formMigrHeart f, bodyMigrHeart f)
  | .migrSap f => some (formMigrSap f, bodyMigrSap f)
  | .migrCancel f => some (formMigrCancel f, bodyMigrCancel f)
  | .migrQ f => some (formMigrQ f, bodyMigrQ f)
  | .add f => some (formAdd f, bodyAdd f)
  | .addc f => some (formAddc f, bodyAddc f)
  | .sub f => some (formSub f, bodySub f)
  | .subc f => some (formSubc f, bodySubc f)
  | .mulLo f => some (formMulLo f, bodyMulLo f)
  | .mulHi f => some (formMulHi f, bodyMulHi f)
  | .mad f => some (formMad f, bodyMad f)
  | .madWide f => some (formMadWide f, bodyMadWide f)
  | .min f => some (formMin f, bodyMin f)
  | .max f => some (formMax f, bodyMax f)
  | .abs f => some (formAbs f, bodyAbs f)
  | .neg f => some (formNeg f, bodyNeg f)
  | .and f => some (formAnd f, bodyAnd f)
  | .or f => some (formOr f, bodyOr f)
  | .xor f => some (formXor f, bodyXor f)
  | .not f => some (formNot f, bodyNot f)
  | .shl f => some (formShl f, bodyShl f)
  | .shr f => some (formShr f, bodyShr f)
  | .sar f => some (formSar f, bodySar f)
  | .rot f => some (formRot f, bodyRot f)
  | .bfe f => some (formBfe f, bodyBfe f)
  | .bfi f => some (formBfi f, bodyBfi f)
  | .popc f => some (formPopc f, bodyPopc f)
  | .clz f => some (formClz f, bodyClz f)
  | .ctz f => some (formCtz f, bodyCtz f)
  | .brev f => some (formBrev f, bodyBrev f)
  | .sel f => some (formSel f, bodySel f)
  | .cmp f => some (formCmp f, bodyCmp f)
  | .mov f => some (formMov f, bodyMov f)
  | .movFirst f => some (formMovFirst f, bodyMovFirst f)
  | .moviW128 f => some (formMoviW128 f, bodyMoviW128 f)
  | .lea f => some (formLea f, bodyLea f)
  | .shfl f => some (formShfl f, bodyShfl f)
  | .perm f => some (formPerm f, bodyPerm f)
  | .pand f => some (formPand f, bodyPand f)
  | .por f => some (formPor f, bodyPor f)
  | .pxor f => some (formPxor f, bodyPxor f)
  | .pnot f => some (formPnot f, bodyPnot f)
  | .addImm f => some (formAddImm f, bodyAddImm f)
  | .subImm f => some (formSubImm f, bodySubImm f)
  | .mulLoImm f => some (formMulLoImm f, bodyMulLoImm f)
  | .minImm f => some (formMinImm f, bodyMinImm f)
  | .maxImm f => some (formMaxImm f, bodyMaxImm f)
  | .andImm f => some (formAndImm f, bodyAndImm f)
  | .orImm f => some (formOrImm f, bodyOrImm f)
  | .xorImm f => some (formXorImm f, bodyXorImm f)
  | .shlImm f => some (formShlImm f, bodyShlImm f)
  | .shrImm f => some (formShrImm f, bodyShrImm f)
  | .sarImm f => some (formSarImm f, bodySarImm f)
  | .rotImm f => some (formRotImm f, bodyRotImm f)
  | .cmpImm f => some (formCmpImm f, bodyCmpImm f)
  | .movi f => some (formMovi f, bodyMovi f)
  | .fadd f => some (formFadd f, bodyFadd f)
  | .fsub f => some (formFsub f, bodyFsub f)
  | .fmul f => some (formFmul f, bodyFmul f)
  | .fscale f => some (formFscale f, bodyFscale f)
  | .ffma f => some (formFfma f, bodyFfma f)
  | .fma2 f => some (formFma2 f, bodyFma2 f)
  | .fdot2 f => some (formFdot2 f, bodyFdot2 f)
  | .fmin f => some (formFmin f, bodyFmin f)
  | .fmax f => some (formFmax f, bodyFmax f)
  | .fcmp f => some (formFcmp f, bodyFcmp f)
  | .fclass f => some (formFclass f, bodyFclass f)
  | .frcp f => some (formFrcp f, bodyFrcp f)
  | .frsq f => some (formFrsq f, bodyFrsq f)
  | .fsqrt f => some (formFsqrt f, bodyFsqrt f)
  | .fexp2 f => some (formFexp2 f, bodyFexp2 f)
  | .flog2 f => some (formFlog2 f, bodyFlog2 f)
  | .fsin f => some (formFsin f, bodyFsin f)
  | .fcos f => some (formFcos f, bodyFcos f)
  | .dadd f => some (formDadd f, bodyDadd f)
  | .dmul f => some (formDmul f, bodyDmul f)
  | .dfma f => some (formDfma f, bodyDfma f)
  | .dcmp f => some (formDcmp f, bodyDcmp f)
  | .cvt f => some (formCvt f, bodyCvt f)
  | .pack f => some (formPack f, bodyPack f)
  | .unpack f => some (formUnpack f, bodyUnpack f)
  | .qpack f => some (formQpack f, bodyQpack f)
  | .qunpack f => some (formQunpack f, bodyQunpack f)
  | .mres f => some (formMres f, bodyMres f)
  | .mresDup f => some (formMresDup f, bodyMresDup f)
  | .mrel f => some (formMrel f, bodyMrel f)
  | .mtile f => some (formMtile f, bodyMtile f)
  | .mtileD f => some (formMtileD f, bodyMtileD f)
  | .mlds f => some (formMlds f, bodyMlds f)
  | .mswap f => some (formMswap f, bodyMswap f)
  | .mstr f => some (formMstr f, bodyMstr f)
  | .mzero f => some (formMzero f, bodyMzero f)
  | .mdrn f => some (formMdrn f, bodyMdrn f)
  | .mwait f => some (formMwait f, bodyMwait f)
  | .mq f => some (formMq f, bodyMq f)
  | .ldG f => some (formLdG f, bodyLdG f)
  | .stG f => some (formStG f, bodyStG f)
  | .ldS f => some (formLdS f, bodyLdS f)
  | .stS f => some (formStS f, bodyStS f)
  | .ldC f => some (formLdC f, bodyLdC f)
  | .prf f => some (formPrf f, bodyPrf f)
  | .smap f => some (formSmap f, bodySmap f)
  | .sunmap f => some (formSunmap f, bodySunmap f)
  | .swb f => some (formSwb f, bodySwb f)
  | .lstep f => some (formLstep f, bodyLstep f)
  | .cmoCln f => some (formCmoCln f, bodyCmoCln f)
  | .cmoInv f => some (formCmoInv f, bodyCmoInv f)
  | .cmoCinv f => some (formCmoCinv f, bodyCmoCinv f)
  | .dsc f => some (formDsc f, bodyDsc f)
  | .pin f => some (formPin f, bodyPin f)
  | .unpin f => some (formUnpin f, bodyUnpin f)
  | .zero f => some (formZero f, bodyZero f)
  | .pqrySelf f => some (formPqrySelf f, bodyPqrySelf f)
  | .pqryLine f => some (formPqryLine f, bodyPqryLine f)
  | .pqryRes f => some (formPqryRes f, bodyPqryRes f)
  | .pqryCnt f => some (formPqryCnt f, bodyPqryCnt f)
  | .fenceAr f => some (formFenceAr f, bodyFenceAr f)
  | .fenceAcq f => some (formFenceAcq f, bodyFenceAcq f)
  | .fenceRel f => some (formFenceRel f, bodyFenceRel f)
  | .fenceM f => some (formFenceM f, bodyFenceM f)
  | .cpy f => some (formCpy f, bodyCpy f)
  | .cpyO f => some (formCpyO f, bodyCpyO f)
  | .cpyTIn f => some (formCpyTIn f, bodyCpyTIn f)
  | .cpyTOut f => some (formCpyTOut f, bodyCpyTOut f)
  | .cpyTDef f => some (formCpyTDef f, bodyCpyTDef f)
  | .cpwait f => some (formCpwait f, bodyCpwait f)
  | .cpyield f => some (formCpyield f s, bodyCpyield f)
  | .cfe f => some (formCfe f, bodyCfe f)
  | .cpcan f => some (formCpcan f, bodyCpcan f)
  | .chsend f => some (formChsend f, bodyChsend f)
  | .chrecv f => some (formChrecv f, bodyChrecv f)
  | .chcfgSet f => some (formChcfgSet f, bodyChcfgSet f)
  | .chcfgQ f => some (formChcfgQ f, bodyChcfgQ f)
  | .atom f => some (formAtom f, bodyAtom f)
  | .atomCas f => some (formAtomCas f, bodyAtomCas f)
  | .red f => some (formRed f, bodyRed f)
  | .redCell f => some (formRedCell f, bodyRedCell f)
  | .crinit f => some (formCrinit f, bodyCrinit f)
  | .arrive f => some (formArrive f, bodyArrive f)
  | .arriveW f => some (formArriveW f, bodyArriveW f)
  | .crwait f => some (formCrwait f, bodyCrwait f)
  | .crexp f => some (formCrexp f, bodyCrexp f)
  | .crinv f => some (formCrinv f, bodyCrinv f)
  | .gcreate f => some (formGcreate f, bodyGcreate f)
  | .gjoin f => some (formGjoin f, bodyGjoin f)
  | .gleave f => some (formGleave f, bodyGleave f)
  | .gbar f => some (formGbar f, bodyGbar f)
  | .gvote f => some (formGvote f, bodyGvote f)
  | .gred f => some (formGred f, bodyGred f)
  | .gquery f => some (formGquery f, bodyGquery f)
  | .gdestroy f => some (formGdestroy f, bodyGdestroy f)
  | .groveEventApply .. => none
  | .rdsr f => some (formRdsr f, bodyRdsr f)
  | .wrsr f => some (formWrsr f, bodyWrsr f)
  | .trap f => some (formTrap f, bodyTrap f)
  | .tret f => some (formTret f, bodyTret f)
  | .brk f => some (formBrk f, bodyBrk f)
  | .spl f => some (formSpl f, bodySpl f)
  | .halt f => some (formHalt f, bodyHalt f)
  | .clauseHeader .. => none
  | .markWord .. => none
  | .longLatencyComplete .. => none
  | .sleepEnd .. => none
  | .trapEntry .. => none
  | .deferredTrapTake .. => none
  | .standEnd .. => none
  | .issueWatchdog .. => none
  | .launch .. => none
  | .copseCreate .. => none
  | .clusterReassign .. => none
  | .stageComplete .. => none
  | .moveRoomSearch .. => none
  | .copseMigrate .. => none
  | .moveLapse .. => none
  | .commandGrant .. => none
  | .planeLoad .. => none
  | .passComplete .. => none
  | .operandLineArrive .. => none
  | .matrixAssist .. => none
  | .drainCommit .. => none
  | .detDrainCommit .. => none
  | .pageAns .. => none
  | .inval .. => none
  | .regionFill .. => none
  | .regionWriteBack .. => none
  | .tierMove .. => none
  | .l1WriteBack .. => none
  | .homeMove .. => none
  | .lineEvict .. => none
  | .markerArrive .. => none
  | .domWb .. => none
  | .domWbComplete .. => none
  | .domSwitch .. => none
  | .domSwitchComplete .. => none
  | .copyLineDeliver .. => none
  | .copyStatusPush .. => none
  | .preempt .. => none
  | .preemptEval .. => none
  | .copseSave .. => none
  | .drainLimit .. => none
  | .copseRestore .. => none
  | .restore .. => none
  | .debugCmd .. => none
  | .shadeRotation .. => none
  | .rateBoundary .. => none
  | .pmbusReading .. => none
  | .powerRemove => none
  | .hostTimeout .. => none
  | .uncorrectableError .. => none
  | .flitResend .. => none
  | .linkFail .. => none
  | .escapeResend .. => none
  | .arbiterGrant .. => none
  | .tableChangeStart .. => none
  | .tableSwitching .. => none
  | .tableDraining .. => none
  | .tableStable .. => none
  | .verOffer .. => none
  | .sqPtr .. => none
  | .pfEqPtr .. => none
  | .viEnable .. => none
  | .registerWrite .. => none
  | .functionLevelReset .. => none
  | .hostPortReset .. => none
  | .coldReset => none
  | .rst .. => none
  | .sigchk .. => none
  | .ftest => none
  | .hbm => none
  | .net => none
  | .seal => none
  | .enum => none
  | .ready => none
  | .getVersion .. => none
  | .getCapabilities .. => none
  | .negotiateAlgorithms .. => none
  | .getDigests .. => none
  | .getCertificate .. => none
  | .challenge .. => none
  | .getMeasurements .. => none
  | .peerRequest .. => none
  | .cqPtr .. => none
  | .eqPtr .. => none

/-- Nothing keeps the executing stand from issuing the word: it can issue, no ILL cause holds (R54), no flag, register or room
holds it back (R35, R41-R43), and its channels are its own (R336). -/
def Issues (s : State) (i : Instr) : Prop :=
  match wordOf i s with
  | some (f, _) => s.me.canIssue = true ∧ s.illCauses s.cur i f = [] ∧ s.blocked s.cur i f = false ∧ s.chanFault s.cur f = false
      ∧ s.chanReady s.cur f = true
  | none => False
/-- A word that issues and acts: a uniform one has a true guard (R29). -/
def Acts (s : State) (i : Instr) : Prop :=
  match wordOf i s with
  | some (f, _) => Issues s i ∧ (f.h.uni = true → s.me.guard f.h = true)
  | none => False
/-- The machine once the word has issued, its effect being in u; the stale window of what it stored is counted from behind it (R49). -/
def done (s u : State) (i : Instr) : State :=
  match wordOf i s with
  | some (f, _) => (u.ownWindow s.cur s.stale.length).retire s.cur i f s.me
  | none => u
/-- The machine once the word, a control transfer, has issued. -/
def gone (s u : State) (i : Instr) : State :=
  match wordOf i s with
  | some (f, _) => u.retireGoto s.cur f s.me
  | none => u
/-- The machine once the word has issued with results outstanding. -/
def started (s u : State) (i : Instr) (p : Pend) : State :=
  match wordOf i s with
  | some (f, _) => (u.ownWindow s.cur s.stale.length).start s.cur i f s.me p
  | none => u

/-! ### Frames -/

/-- Everything but stands, cores, clusters, copses, the stale window and the count of free choices is as before. -/
def SameWorld (s t : State) : Prop :=
  t.script = s.script ∧ t.cur = s.cur ∧ t.nextId = s.nextId ∧ t.boot = s.boot ∧ t.power = s.power ∧ t.pfs = s.pfs ∧ t.vis = s.vis
    ∧ t.fields = s.fields ∧ t.launches = s.launches ∧ t.groves = s.groves ∧ t.groveQ = s.groveQ ∧ t.frames = s.frames
    ∧ t.dir = s.dir ∧ t.placement = s.placement ∧ t.order = s.order ∧ t.near = s.near ∧ t.retired = s.retired ∧ t.past = s.past ∧ t.hostMem = s.hostMem ∧ t.net = s.net
    ∧ t.answers = s.answers ∧ t.posted = s.posted ∧ t.peerQ = s.peerQ
/-- Nothing of a core but its channels and the marks of its last issue has changed. -/
def SameCore (c d : Core) : Prop :=
  d.l1 = c.l1 ∧ d.slog = c.slog ∧ d.tlb = c.tlb ∧ d.block = c.block ∧ d.opp = c.opp ∧ d.stopped = c.stopped ∧ d.order = c.order
/-- Nothing of a cluster but its CHARGE samples has changed. -/
def SameCluster (c d : Cluster) : Prop :=
  d.serves = c.serves ∧ d.block = c.block ∧ d.rate = c.rate ∧ d.fe = c.fe ∧ d.owners = c.owners ∧ d.tlb = c.tlb ∧ d.eng = c.eng ∧ d.halves = c.halves
/-- Nothing of a stand but its registers, its outstanding results, its place in the code and the marks of its last issue has
changed. -/
def SameStand (a b : Stand) : Prop :=
  b.life = a.life ∧ b.copse = a.copse ∧ b.idx = a.idx ∧ b.a = a.a ∧ b.exited = a.exited ∧ b.stack = a.stack ∧ b.yc = a.yc
    ∧ b.rb = a.rb ∧ b.g = a.g ∧ b.d = a.d ∧ b.b = a.b ∧ b.lvl = a.lvl ∧ b.ticket = a.ticket ∧ b.current = a.current ∧ b.claims = a.claims
    ∧ b.gate = a.gate ∧ b.held = a.held ∧ b.lgid = a.lgid ∧ b.waited = a.waited ∧ b.frames = a.frames ∧ b.deferred = a.deferred
    ∧ b.trapWait = a.trapWait ∧ b.tseq = a.tseq ∧ b.copySeq = a.copySeq ∧ b.wait = a.wait ∧ b.enqDone = a.enqDone
    ∧ b.paths = a.paths ∧ b.markers = a.markers ∧ b.rel = none ∧ b.fenceM = a.fenceM ∧ b.swbs = a.swbs ∧ b.fencing = a.fencing ∧ b.exitPc = a.exitPc
    ∧ b.exitMask = a.exitMask
/-- The frame of a word that touches only the executing stand, its core's channels, its cluster's CHARGE and the stale window:
memory, caches, copses, launches, groves, interfaces, the network, every other stand, core and cluster are as before. -/
def LocalFrame (s t : State) : Prop :=
  SameWorld s t ∧ t.copses = s.copses ∧ t.free = s.free
    ∧ (∀ j, j ≠ s.cur → t.standAt j = s.standAt j)
    ∧ (∀ c, c ≠ s.myCoreKey → t.coreAt c = s.coreAt c) ∧ SameCore s.myCore (t.coreAt s.myCoreKey)
    ∧ (∀ c, c ≠ clusterOf s.myCoreKey → t.clusterAt c = s.clusterAt c)
    ∧ SameCluster (s.clusterAt (clusterOf s.myCoreKey)) (t.clusterAt (clusterOf s.myCoreKey))
/-- A byte of memory as a core sees it: its L1, or the home (R299). -/
def byteSeen (s : State) (core pa : Nat) : Nat := s.coreView core pa 1

/-! ### What a result field holds -/

/-- The value of a field that a word has written, for a thread: the s register, the v register or pair, or the last entry or
entries of the channel (R33, R34, R337). -/
def written (t : State) (k : Nat) (uni wide : Bool) (o : Opd) (lane : Nat) : Word64 :=
  let n := o.num.toNat
  let st := t.standAt k
  if o.cl then
    let es := (t.chanAt (t.coreOf k) n).entries.reverse
    if uni then chanWord es 0 1 ++ chanWord es 0 0
    else if wide then chanWord es 0 lane ++ chanWord es 1 lane
    else (chanWord es 0 lane).setWidth 64
  else if uni then tget 0 st.sr n
  else if wide then tget 0 st.v (128 * (n + 1) + lane) ++ tget 0 st.v (128 * n + lane)
  else (tget 0 st.v (128 * n + lane)).setWidth 64
/-- What the destination of a 64-bit value holds of it: all of it, or its low 32 bits (R34). -/
def landed (uni wide : Bool) (x : Word64) : Word64 := if uni || wide then x else (x.setWidth 32).setWidth 64
/-- The threads that a word writes its results for: those of P, or one for a uniform word. -/
def resultLanes (st : Stand) (h : Head) : List Nat := if h.uni then [0] else lanes (st.part h)

/-! ### The register instructions on bit vectors (spec/06) -/

/-- The value of a source under an integer type (R142). -/
def valueOf (ty : Nat) (x : BitVec (tyBits ty)) : Int := if tyI ty then x.toInt else x.toNat
/-- An exact integer clamped to a type (R141). -/
def clamp (ty : Nat) (x : Int) : Int := max (tyMin ty) (min (tyMax ty) x)
/-- The operations of R146-R151 on values of a type. -/
def addOp (sat : Bool) (ty : Nat) (a b : BitVec (tyBits ty)) : BitVec (tyBits ty) :=
  if sat then BitVec.ofInt _ (clamp ty (valueOf ty a + valueOf ty b)) else a + b
def subOp (sat : Bool) (ty : Nat) (a b : BitVec (tyBits ty)) : BitVec (tyBits ty) :=
  if sat then BitVec.ofInt _ (clamp ty (valueOf ty a - valueOf ty b)) else a - b
def mulHiOp (ty : Nat) (a b : BitVec (tyBits ty)) : BitVec (tyBits ty) :=
  if tyI ty then (a.signExtend (2 * tyBits ty) * b.signExtend (2 * tyBits ty)).extractLsb' (tyBits ty) (tyBits ty)
  else (a.setWidth (2 * tyBits ty) * b.setWidth (2 * tyBits ty)).extractLsb' (tyBits ty) (tyBits ty)
def lessOp (ty : Nat) (a b : BitVec (tyBits ty)) : Bool := if tyI ty then a.slt b else a.ult b
def minOp (ty : Nat) (a b : BitVec (tyBits ty)) : BitVec (tyBits ty) := if lessOp ty b a then b else a
def maxOp (ty : Nat) (a b : BitVec (tyBits ty)) : BitVec (tyBits ty) := if lessOp ty a b then b else a
def absOp (sat : Bool) (ty : Nat) (a : BitVec (tyBits ty)) : BitVec (tyBits ty) :=
  if sat && a == BitVec.intMin _ then BitVec.intMax _ else a.abs
def negOp (sat : Bool) (ty : Nat) (a : BitVec (tyBits ty)) : BitVec (tyBits ty) :=
  if sat && a == BitVec.intMin _ then BitVec.intMax _ else -a
/-- Bits pos to pos + len - 1 of a value, none of them beyond its width (R150). -/
def fieldLen (w pos len : Nat) : Nat := if w ≤ pos then 0 else min len (w - pos)
def bfeOp (ty : Nat) (a : BitVec (tyBits ty)) (d : Word32) : BitVec (tyBits ty) :=
  let pos := (d.extractLsb' 0 8).toNat
  let x := a.extractLsb' pos (fieldLen (tyBits ty) pos (d.extractLsb' 8 8).toNat)
  if tyI ty then x.signExtend _ else x.setWidth _
def bfiOp (w : Nat) (a b : BitVec w) (d : Word32) : BitVec w :=
  let pos := (d.extractLsb' 0 8).toNat
  let m := (BitVec.allOnes (fieldLen w pos (d.extractLsb' 8 8).toNat)).setWidth w <<< pos
  (b &&& ~~~m) ||| ((a <<< pos) &&& m)
/-- The conditions of `cmp` (R152) and those of its immediate form (R145). -/
def condOp (c ty : Nat) (a b : BitVec (tyBits ty)) : Bool :=
  if c = 0 then a == b else if c = 1 then a != b else if c = 2 then lessOp ty a b else !lessOp ty b a
def condImm {w : Nat} (cc : Nat) (a : BitVec w) (imm : BitVec 16) : Bool :=
  let sx := imm.signExtend w
  let zx := imm.setWidth w
  if cc = 0 then a == sx else if cc = 1 then a != sx else if cc = 2 then a.slt sx else if cc = 3 then a.sle sx
  else if cc = 4 then sx.slt a else if cc = 5 then sx.sle a else if cc = 6 then a.ult zx else if cc = 7 then a.ule zx
  else if cc = 8 then zx.ult a else zx.ule a
/-- One byte of `perm`: byte n of B over A, or zero (R157). -/
def permByte (a b : Word32) (n : BitVec 4) : Byte := if n.getLsbD 3 then 0 else (b ++ a : BitVec 64).extractLsb' (8 * n.toNat) 8
def permOp (a b c : Word32) : Word32 :=
  permByte a b (c.extractLsb' 12 4) ++ permByte a b (c.extractLsb' 8 4) ++ permByte a b (c.extractLsb' 4 4)
    ++ permByte a b (c.extractLsb' 0 4)

/-- A register instruction: sources in order with their width of 64 bits or not, the destination, the type of the result, its value
in a thread, and whether it is long-latency. -/
structure RegOp where
  srcs : List (Opd × Bool)
  dst : Opd
  ty : Nat
  val : List Src → Nat → Nat
  long : Bool := false
/-- The bits of the n-th source at a width. -/
def srcBits (vs : List Src) (n w t : Nat) : BitVec w := (((vs[n]?).getD (fun _ => 0)) t).setWidth w

/-- One and two sources of TY (A64), three of TYD (T96), and one with the immediate (I64). -/
def op1 (f : A64) (g : BitVec (tyBits f.ty.toNat) → BitVec (tyBits f.ty.toNat)) : RegOp :=
  { srcs := [(f.sa, tyBits f.ty.toNat == 64)], dst := f.dst, ty := f.ty.toNat, val := fun vs t => (g (srcBits vs 0 _ t)).toNat }
def op2 (f : A64) (g : BitVec (tyBits f.ty.toNat) → BitVec (tyBits f.ty.toNat) → BitVec (tyBits f.ty.toNat)) : RegOp :=
  { srcs := [(f.sa, tyBits f.ty.toNat == 64), (f.sb, tyBits f.ty.toNat == 64)], dst := f.dst, ty := f.ty.toNat,
    val := fun vs t => (g (srcBits vs 0 _ t) (srcBits vs 1 _ t)).toNat }
/-- A shift of A64: the count is 32 bits (R149). -/
def opShift (f : A64) (g : BitVec (tyBits f.ty.toNat) → Nat → BitVec (tyBits f.ty.toNat)) : RegOp :=
  { srcs := [(f.sa, tyBits f.ty.toNat == 64), (f.sb, false)], dst := f.dst, ty := f.ty.toNat,
    val := fun vs t => (g (srcBits vs 0 _ t) (srcBits vs 1 32 t).toNat).toNat }
/-- An immediate form (R144): 64-bit uniform or 32-bit vector values. -/
def opImm (f : I64) (g : BitVec (tyBits (immTy f.h.uni)) → BitVec (tyBits (immTy f.h.uni))) : RegOp :=
  { srcs := [(shortOpd f.h.uni f.sa, f.h.uni)], dst := shortOpd f.h.uni f.dst, ty := immTy f.h.uni,
    val := fun vs t => (g (srcBits vs 0 _ t)).toNat }
/-- A float operation of two sources, or three, on codes. -/
def opF2 (f : A64) (long : Bool) (g : Nat → Nat → Nat) : RegOp :=
  { srcs := [(f.sa, tyBits f.ty.toNat == 64), (f.sb, tyBits f.ty.toNat == 64)], dst := f.dst, ty := f.ty.toNat,
    val := fun vs t => g (srcN vs 0 t) (srcN vs 1 t), long := long }
def opF3 (f : T96) (ty : Nat) (long : Bool) (g : Nat → Nat → Nat → Nat) : RegOp :=
  { srcs := [(f.sa, tyBits ty == 64), (f.sb, tyBits ty == 64), (f.sc, tyBits ty == 64)], dst := f.dst, ty := ty,
    val := fun vs t => g (srcN vs 0 t) (srcN vs 1 t) (srcN vs 2 t), long := long }
def opFn (f : A64) (g : FF → Nat → Nat) : RegOp :=
  { srcs := [(f.sa, false)], dst := f.dst, ty := f.ty.toNat,
    val := fun vs t => g (ffOf f.ty.toNat) (srcBits vs 0 (tyBits f.ty.toNat) t).toNat, long := true }

/-- What the integer arithmetic instructions compute (R144-R156), on bit vectors. -/
def arithOp (i : Instr) : Option RegOp :=
  match i with
  | .add f => some (op2 f (addOp (f.md == 1) _))
  | .sub f => some (op2 f (subOp (f.md == 1) _))
  | .mulLo f => some (op2 f (fun a b => a * b))
  | .mulHi f => some (op2 f (mulHiOp _))
  | .mad f => some
      { srcs := [(f.sa, tyBits f.tyd.toNat == 64), (f.sb, tyBits f.tyd.toNat == 64), (f.sc, tyBits f.tyd.toNat == 64)], dst := f.dst,
        ty := f.tyd.toNat, val := fun vs t =>
          (srcBits vs 0 (tyBits f.tyd.toNat) t * srcBits vs 1 _ t + srcBits vs 2 _ t).toNat }
  | .madWide f => some
      { srcs := [(f.sa, false), (f.sb, false), (f.sc, tyBits f.tyd.toNat == 64)], dst := f.dst, ty := f.tyd.toNat,
        val := fun vs t =>
          let ext (x : BitVec (tyBits f.tys.toNat)) : BitVec (tyBits f.tyd.toNat) :=
            if tyI f.tys.toNat then x.signExtend _ else x.setWidth _
          (ext (srcBits vs 0 _ t) * ext (srcBits vs 1 _ t) + srcBits vs 2 _ t).toNat }
  | .min f => some (op2 f (minOp _))
  | .max f => some (op2 f (maxOp _))
  | .abs f => some (op1 f (absOp (f.md == 1) _))
  | .neg f => some (op1 f (negOp (f.md == 1) _))
  | .mov f => some (op1 f (fun a => a))
  | .lea f => some
      { srcs := [(f.sa, true), (f.sb, f.tys == 0xB)], dst := f.dst, ty := 0xB,
        val := fun vs t =>
          let x : Word64 := if f.tys = 2 then (srcBits vs 1 32 t).signExtend 64 else if f.tys = 6 then (srcBits vs 1 32 t).setWidth 64
            else srcBits vs 1 64 t
          (srcBits vs 0 64 t + x <<< f.imm.toNat).toNat }
  | _ => none

/-- What the logical, shift and bit-field instructions compute (R148-R157), on bit vectors. -/
def bitOp (i : Instr) : Option RegOp :=
  match i with
  | .and f => some (op2 f (fun a b => a &&& b))
  | .or f => some (op2 f (fun a b => a ||| b))
  | .xor f => some (op2 f (fun a b => a ^^^ b))
  | .not f => some (op1 f (fun a => ~~~a))
  | .shl f => some (opShift f (fun a n => a <<< n))
  | .shr f => some (opShift f (fun a n => a >>> n))
  | .sar f => some (opShift f (fun a n => a.sshiftRight n))
  | .rot f => some (opShift f (fun a n => a.rotateLeft n))
  | .popc f => some (op1 f (fun a => BitVec.ofNat _ ((List.range (tyBits f.ty.toNat)).filter (fun n => a.getLsbD n)).length))
  | .clz f => some (op1 f (fun a => a.clz))
  | .ctz f => some (op1 f (fun a => a.ctz))
  | .brev f => some (op1 f (fun a => a.reverse))
  | .bfe f => some
      { srcs := [(f.sa, tyBits f.tyd.toNat == 64), (f.sc, false)], dst := f.dst, ty := f.tyd.toNat,
        val := fun vs t => (bfeOp f.tyd.toNat (srcBits vs 0 _ t) (srcBits vs 1 32 t)).toNat }
  | .bfi f => some
      { srcs := [(f.sa, tyBits f.tyd.toNat == 64), (f.sb, tyBits f.tyd.toNat == 64), (f.sc, false)], dst := f.dst, ty := f.tyd.toNat,
        val := fun vs t => (bfiOp (tyBits f.tyd.toNat) (srcBits vs 0 _ t) (srcBits vs 1 _ t) (srcBits vs 2 32 t)).toNat }
  | .perm f => some
      { srcs := [(f.sa, false), (f.sb, false), (f.sc, false)], dst := f.dst, ty := 0xA,
        val := fun vs t => (permOp (srcBits vs 0 32 t) (srcBits vs 1 32 t) (srcBits vs 2 32 t)).toNat }
  | _ => none

/-- What the immediate forms compute (R144, R145), on bit vectors. -/
def immOp (i : Instr) : Option RegOp :=
  match i with
  | .addImm f => some (opImm f (fun a => a + f.imm.signExtend _))
  | .subImm f => some (opImm f (fun a => a - f.imm.signExtend _))
  | .mulLoImm f => some (opImm f (fun a => a * f.imm.signExtend _))
  | .minImm f => some (opImm f (fun a => if a.sle (f.imm.signExtend _) then a else f.imm.signExtend _))
  | .maxImm f => some (opImm f (fun a => if a.slt (f.imm.signExtend _) then f.imm.signExtend _ else a))
  | .andImm f => some (opImm f (fun a => a &&& f.imm.signExtend _))
  | .orImm f => some (opImm f (fun a => a ||| f.imm.signExtend _))
  | .xorImm f => some (opImm f (fun a => a ^^^ f.imm.signExtend _))
  | .shlImm f => some (opImm f (fun a => a <<< f.imm.toNat))
  | .shrImm f => some (opImm f (fun a => a >>> f.imm.toNat))
  | .sarImm f => some (opImm f (fun a => a.sshiftRight f.imm.toNat))
  | .rotImm f => some (opImm f (fun a => a.rotateLeft f.imm.toNat))
  | .movi f => some
      { srcs := [], dst := shortOpd f.h.uni f.dst, ty := immTy f.h.uni,
        val := fun _ _ => (f.imm.signExtend (tyBits (immTy f.h.uni))).toNat }
  | .moviW128 f => some { srcs := [], dst := f.dst, ty := if f.md = 0 then 0xB else 0xA, val := fun _ _ => f.imm.toNat }
  | _ => none

/-! ### Floating values as rationals (spec/07), independent of the model's own formats -/

/-- The exponent and fraction bits of .f16, .bf16, .f32, .f64 and .e5m2 (R160). -/
def floatFields (ty : Nat) : Nat × Nat :=
  if ty = 0x0C then (5, 10) else if ty = 0x0D then (8, 7) else if ty = 0x0E then (8, 23) else if ty = 0x0F then (11, 52) else (5, 2)
/-- The types that have infinities. -/
def floatTy (ty : Nat) : Prop := ty = 0x0C ∨ ty = 0x0D ∨ ty = 0x0E ∨ ty = 0x0F ∨ ty = 0x11
def signOf (ty c : Nat) : Nat := c / 2 ^ ((floatFields ty).1 + (floatFields ty).2) % 2
def expOf (ty c : Nat) : Nat := c / 2 ^ (floatFields ty).2 % 2 ^ (floatFields ty).1
def fracOf (ty c : Nat) : Nat := c % 2 ^ (floatFields ty).2
/-- The codes of infinity and of the default NaN (R161). -/
def infOf (ty sign : Nat) : Nat := sign * 2 ^ ((floatFields ty).1 + (floatFields ty).2) + (2 ^ (floatFields ty).1 - 1) * 2 ^ (floatFields ty).2
def nanOf (ty : Nat) : Nat := infOf ty 0 + 2 ^ ((floatFields ty).2 - 1)
def zeroOf (ty sign : Nat) : Nat := sign * 2 ^ ((floatFields ty).1 + (floatFields ty).2)
def isNanOf (ty c : Nat) : Bool := expOf ty c == 2 ^ (floatFields ty).1 - 1 && fracOf ty c != 0
/-- The value of a finite code (R160): the fraction below a hidden 1, or below 0 where the exponent field is 0. -/
def floatVal (ty c : Nat) : Option ℚ :=
  let e := expOf ty c
  let mb := (floatFields ty).2
  if e = 2 ^ (floatFields ty).1 - 1 then none
  else some ((if signOf ty c = 1 then -1 else 1) * (((if e = 0 then 0 else 2 ^ mb) + fracOf ty c : Nat) : ℚ)
    * (2 : ℚ) ^ ((max e 1 : Nat) - (2 ^ ((floatFields ty).1 - 1) - 1 : Nat) - mb : Int))
/-- r is the exact value x, which is not 0, rounded once into a type (R169): to the nearest finite value, to the even code between two, and to
infinity from half a step above the largest finite value; or to the nearest on the side that RM names. -/
def RoundedTo (ty rm : Nat) (x : ℚ) (r : Nat) : Prop :=
  let eb := (floatFields ty).1
  let mb := (floatFields ty).2
  let fin (v : ℚ) : Prop := ∃ c, c < 2 ^ (1 + eb + mb) ∧ floatVal ty c = some v
  let up : Prop := (∃ v, floatVal ty r = some v ∧ x ≤ v ∧ ∀ w, fin w → x ≤ w → v ≤ w) ∨ (r = infOf ty 0 ∧ ∀ w, fin w → w < x)
  let down : Prop := (∃ v, floatVal ty r = some v ∧ v ≤ x ∧ ∀ w, fin w → w ≤ x → w ≤ v) ∨ (r = infOf ty 1 ∧ ∀ w, fin w → x < w)
  let lim : ℚ := (2 ^ (mb + 2) - 1) * 2 ^ (2 ^ (eb - 1) - 2 - mb)
  r < 2 ^ (1 + eb + mb) ∧ signOf ty r = (if x < 0 then 1 else 0) ∧
    (rm = 0 → (|x| < lim → ∃ v, floatVal ty r = some v ∧
        ∀ w, fin w → |x - v| < |x - w| ∨ (|x - v| = |x - w| ∧ (w = v ∨ r % 2 = 0))) ∧
      (lim ≤ |x| → r = infOf ty (signOf ty r))) ∧
    (rm = 1 → ∃ v, floatVal ty r = some v ∧ |v| ≤ |x| ∧ ∀ w, fin w → |w| ≤ |x| → |w| ≤ |v|) ∧
    (rm = 2 → up) ∧ (rm = 3 → down)
/-- A rational rounded to an integer (R169). -/
def roundedInt (rm : Nat) (x : ℚ) : Int :=
  if rm = 0 then (if x - ⌊x⌋ < 1 / 2 then ⌊x⌋ else if 1 / 2 < x - ⌊x⌋ then ⌈x⌉ else if ⌊x⌋ % 2 = 0 then ⌊x⌋ else ⌈x⌉)
  else if rm = 1 then (if x < 0 then ⌈x⌉ else ⌊x⌋)
  else if rm = 2 then ⌈x⌉ else ⌊x⌋
/-- The first NaN operand, made quiet (R171). -/
def NanRule (ty : Nat) (cs : List Nat) (r : Nat) : Prop :=
  ∀ c, cs.find? (isNanOf ty) = some c → r = (c ||| 2 ^ ((floatFields ty).2 - 1))
/-- A sum (R186): exact and rounded once; an exact zero; infinities. -/
def SumRule (ty rm : Nat) (a b r : Nat) : Prop :=
  NanRule ty [a, b] r ∧
  (∀ x y, floatVal ty a = some x → floatVal ty b = some y → (x + y ≠ 0 → RoundedTo ty rm (x + y) r) ∧
    (x + y = 0 → r = zeroOf ty (if x = 0 ∧ signOf ty a = signOf ty b then signOf ty a else if rm = 3 then 1 else 0))) ∧
  (∀ i j y, (a = infOf ty i ∧ i < 2 ∧ floatVal ty b = some y → r = a) ∧ (b = infOf ty i ∧ i < 2 ∧ floatVal ty a = some y → r = b) ∧
    (a = infOf ty i ∧ b = infOf ty j ∧ i < 2 ∧ j < 2 → r = if i = j then a else nanOf ty))
/-- A product (R186). -/
def ProductRule (ty rm : Nat) (a b r : Nat) : Prop :=
  let s := (signOf ty a + signOf ty b) % 2
  NanRule ty [a, b] r ∧
  (∀ x y, floatVal ty a = some x → floatVal ty b = some y → (x * y ≠ 0 → RoundedTo ty rm (x * y) r) ∧ (x * y = 0 → r = zeroOf ty s)) ∧
  (∀ i j y, (a = infOf ty i ∧ i < 2 ∧ floatVal ty b = some y → r = if y = 0 then nanOf ty else infOf ty s) ∧
    (b = infOf ty i ∧ i < 2 ∧ floatVal ty a = some y → r = if y = 0 then nanOf ty else infOf ty s) ∧
    (a = infOf ty i ∧ b = infOf ty j ∧ i < 2 ∧ j < 2 → r = infOf ty s))
/-- A fused product and sum of finite values (R187). -/
def FusedRule (ty rm : Nat) (a b c r : Nat) : Prop :=
  let s := (signOf ty a + signOf ty b) % 2
  NanRule ty [a, b, c] r ∧
  ∀ x y z, floatVal ty a = some x → floatVal ty b = some y → floatVal ty c = some z → (x * y + z ≠ 0 → RoundedTo ty rm (x * y + z) r) ∧
    (x * y + z = 0 → r = zeroOf ty (if z = 0 ∧ s = signOf ty c then s else if rm = 3 then 1 else 0))

/-- What the float and conversion instructions compute (R185-R197), in the terms of spec/07. -/
def floatOp (i : Instr) : Option RegOp :=
  match i with
  | .fadd f => some (opF2 f false ((ffOf f.ty.toNat).add f.md.toNat))
  | .fsub f => some (opF2 f false ((ffOf f.ty.toNat).sub f.md.toNat))
  | .fmul f => some (opF2 f false ((ffOf f.ty.toNat).mul f.md.toNat))
  | .fmin f => some (opF2 f false ((ffOf f.ty.toNat).minmax false (f.md == 1)))
  | .fmax f => some (opF2 f false ((ffOf f.ty.toNat).minmax true (f.md == 1)))
  | .dadd f => some (opF2 f true (FF.f64.add f.md.toNat))
  | .dmul f => some (opF2 f true (FF.f64.mul f.md.toNat))
  | .ffma f => some (opF3 f f.tyd.toNat false ((ffOf f.tyd.toNat).fma (f.md.toNat % 4)))
  | .dfma f => some (opF3 f 0x0F true (FF.f64.fma (f.md.toNat % 4)))
  | .fma2 f => some (opF3 f 0x0A false (fma2N (ffOf f.tyd.toNat) (f.md.toNat % 4)))
  | .fdot2 f => some (opF3 f 0x0E false (fdot2N (ffOf f.tys.toNat) (f.md.toNat % 4)))
  | .frcp f => some (opFn f (fun t a => fnRcp t f.md.toNat a))
  | .frsq f => some (opFn f fnRsq)
  | .fsqrt f => some (opFn f (fun t a => fnSqrt t f.md.toNat a))
  | .fexp2 f => some (opFn f fnExp2)
  | .flog2 f => some (opFn f fnLog2)
  | .fsin f => some (opFn f fnSin)
  | .fcos f => some (opFn f fnCos)
  | .fclass f => some
      { srcs := [(f.sa, tyBits f.ty.toNat == 64)], dst := f.dst, ty := 0x0A,
        val := fun vs t => 2 ^ (fclassBit (ffOf f.ty.toNat) (srcBits vs 0 (tyBits f.ty.toNat) t).toNat), long := f.ty == 0x0F }
  | .cvt f => some
      { srcs := [(f.sa, tyBits f.tys.toNat == 64)], dst := f.dst, ty := f.tyd.toNat,
        val := fun vs t => cvtN f.tyd.toNat f.tys.toNat f.md.toNat (srcN vs 0 t) }
  | .pack f => some
      { srcs := [(f.sa, false), (f.sb, false)] ++ (if tyBits f.tyd.toNat = 16 then [] else [(f.sc, false)]), dst := f.dst, ty := 0x0A,
        val := fun vs t => packN f.tyd.toNat f.tys.toNat f.md.toNat (srcN vs 0 t) (srcN vs 1 t) (srcN vs 2 t) }
  | .unpack f => some
      { srcs := [(f.sa, false)], dst := f.dst, ty := f.tyd.toNat,
        val := fun vs t => cvtN f.tyd.toNat f.tys.toNat 0 (srcN vs 0 t / 2 ^ (tyBits f.tys.toNat * f.imm.toNat)) }
  | _ => none

/-- A predicate instruction: its sources, whether it writes a q register, the number, the value in a thread, and whether it is
long-latency. -/
structure PredOp where
  srcs : List (Opd × Bool)
  toQ : Bool
  n : Nat
  val : State → List Src → Nat → Bool
  long : Bool := false
/-- A predicate source of the executing stand in a thread, as it reads (R33, R43). -/
def predIn (s : State) (uni : Bool) (o : Opd) (t : Nat) : Bool :=
  if uni then s.me.qval o.num.toNat else (s.me.pval o.num.toNat).getLsbD t
/-- What the instructions that write one predicate compute (R108, R109, R145, R152, R158, R188, R189). -/
def predOp (i : Instr) : Option PredOp :=
  let logic (f : A64) (g : Bool → Bool → Bool) : Option PredOp := some
    { srcs := [], toQ := f.h.uni, n := f.dst.num.toNat,
      val := fun s _ t => g (predIn s f.h.uni f.sa t != f.md.getLsbD 0) (predIn s f.h.uni f.sb t != f.md.getLsbD 1) }
  let two (f : A64) (long : Bool) (g : List Src → Nat → Bool) : Option PredOp := some
    { srcs := [(f.sa, tyBits f.ty.toNat == 64), (f.sb, tyBits f.ty.toNat == 64)], toQ := f.h.uni, n := f.dst.num.toNat,
      val := fun _ => g, long := long }
  match i with
  | .cmp f => two f false (fun vs t => condOp f.md.toNat f.ty.toNat (srcBits vs 0 _ t) (srcBits vs 1 _ t))
  | .fcmp f => two f false (fun vs t =>
      (ffOf f.ty.toNat).cmp f.md.toNat (srcBits vs 0 (tyBits f.ty.toNat) t).toNat (srcBits vs 1 (tyBits f.ty.toNat) t).toNat)
  | .dcmp f => two f true (fun vs t =>
      (ffOf f.ty.toNat).cmp f.md.toNat (srcBits vs 0 (tyBits f.ty.toNat) t).toNat (srcBits vs 1 (tyBits f.ty.toNat) t).toNat)
  | .cmpImm f => some
      { srcs := [(shortOpd f.h.uni f.sa, f.h.uni)], toQ := f.h.uni, n := f.dst.num.toNat,
        val := fun _ vs t => condImm (f.imm.extractLsb' 16 4).toNat (srcBits vs 0 (if f.h.uni then 64 else 32) t) (f.imm.extractLsb' 0 16) }
  | .pand f => logic f (fun a b => a && b)
  | .por f => logic f (fun a b => a || b)
  | .pxor f => logic f (fun a b => a != b)
  | .pnot f => logic f (fun a _ => !a)
  | .elect f => some
      { srcs := [], toQ := false, n := f.dst.num.toNat, val := fun s _ t => (lanes (s.me.part f.h)).head? == some t }
  | .vote f => some
      { srcs := [], toQ := true, n := f.dst.num.toNat,
        val := fun s _ _ =>
          let all := (lanes (s.me.part f.h)).all (fun t => (s.me.pval f.sa.num.toNat).getLsbD t)
          let any := (lanes (s.me.part f.h)).any (fun t => (s.me.pval f.sa.num.toNat).getLsbD t)
          if f.md = 0 then all else if f.md = 1 then any else all || !any }
  | _ => none

/-- What `sel`, `shfl` and `fscale` compute (R153, R156, R193), in a state. -/
def pickOp (i : Instr) (s : State) : Option RegOp :=
  match i with
  | .sel f => some
      { srcs := [(f.sa, tyBits f.tyd.toNat == 64), (f.sb, tyBits f.tyd.toNat == 64)], dst := f.dst, ty := f.tyd.toNat,
        val := fun vs t => if predIn s f.h.uni f.sc t then srcN vs 0 t else srcN vs 1 t }
  | .shfl f => some
      { srcs := [(f.sa, tyBits f.tyd.toNat == 64), (f.sb, tyBits f.tyd.toNat == 64)], dst := f.dst, ty := f.tyd.toNat,
        val := fun vs t =>
          let w := 2 ^ f.imm.toNat
          let k := (srcBits vs 1 32 t).toNat
          let base := t / w * w
          let j : Option Nat := if f.md = 0 then some (base + k % w)
            else if f.md = 1 then (if w ≤ k ∨ t < k + base then none else some (t - k))
            else if f.md = 2 then (if w ≤ k ∨ base + w ≤ t + k then none else some (t + k))
            else some (t ^^^ (k % w))
          match j with
          | some j => if (s.me.part f.h).getLsbD j then srcN vs 0 j else srcN vs 0 t
          | none => srcN vs 0 t }
  | .fscale f => some
      { srcs := [(f.sa, tyBits f.ty.toNat == 64), (f.sb, false)], dst := f.dst, ty := f.ty.toNat,
        val := fun vs t => (ffOf f.ty.toNat).scale f.md.toNat (srcBits vs 0 (tyBits f.ty.toNat) t).toNat (srcBits vs 1 32 t).toInt }
  | _ => none

/-- Every register instruction in a state, by its destination register. -/
def regOp (i : Instr) (s : State) : Option RegOp :=
  (((arithOp i).or (bitOp i)).or ((immOp i).or (floatOp i))).or (pickOp i s)
/-- Every byte of memory reads as before, whichever core reads it. -/
def SameMemory (s t : State) : Prop := ∀ core pa, byteSeen t core pa = byteSeen s core pa

/-- The results of a register instruction as its destination takes them. -/
def regPend (h : Head) (s : State) (o : RegOp) : Pend :=
  outVals h.uni (s.me.part h) o.dst (tyBits o.ty == 64) (fun t => outTy o.ty (o.val (s.srcs s.cur h.uni o.srcs).1 t))

/-! ### Control (spec/04) and traps (spec/17) -/

/-- Two stands agree in everything that control instructions act on and in every register. -/
def AgreeOn (x y : Stand) : Prop :=
  x.pc = y.pc ∧ x.a = y.a ∧ x.exited = y.exited ∧ x.stack = y.stack ∧ x.yc = y.yc ∧ x.rb = y.rb ∧ x.life = y.life ∧ x.wait = y.wait
    ∧ x.gate = y.gate ∧ x.frames = y.frames ∧ x.v = y.v ∧ x.sr = y.sr ∧ x.p = y.p ∧ x.q = y.q ∧ x.flags = y.flags ∧ x.pend = y.pend
/-- The stand goes on at the word behind one of n bytes, where a waiting path may rejoin it (R93). -/
def Stand.pass (st : Stand) (n : Nat) : Stand := ({ st with pc := st.pc + BitVec.ofNat 64 n }).afterTransfer
/-- The stand goes on, or resumes from its stack when no thread is left (R94). -/
def Stand.passOrResume (st : Stand) (n : Nat) : Stand := if st.a = 0 then st.resume.afterTransfer else st.pass n
/-- The word ends in the machine t: whose executing stand agrees with x, and of which nothing else has changed. -/
def EndsAt (i : Instr) (s : State) (x : Stand) : Prop :=
  ∃ t, exec i s = .next t ∧ AgreeOn t.me x ∧ LocalFrame s t ∧ SameMemory s t
/-- The word traps, and has no other effect: class and cause, NextPC at the word; the trap is taken at once when nothing of the stand
is outstanding, and waits with it otherwise (R400). -/
def Traps (i : Instr) (s : State) (cls cause : Nat) : Prop :=
  ∃ r : FaultRec, r.cls = BitVec.ofNat 8 cls ∧ r.cause = BitVec.ofNat 8 cause ∧ r.npc = s.me.pc ∧ r.defer = false
    ∧ exec i s = .next (if s.me.pend = [] then s.takeTrap s.cur r else s.setStand s.cur { s.me with trapWait := some r })

/-- The word ends with results outstanding: they stand last in the stand's list, under the flag the word bears, whose count has
risen; every register and predicate is as before and the program counter has passed the word (R41). -/
def LeavesPending (i : Instr) (s t : State) (p : Pend) : Prop :=
  exec i s = .next t ∧ t.me.pc = s.me.pc + BitVec.ofNat 64 (wordBytes i) ∧ t.me.v = s.me.v ∧ t.me.sr = s.me.sr ∧ t.me.p = s.me.p
    ∧ t.me.q = s.me.q ∧ ∃ h rest, i.head? = some h ∧ rest.length = s.me.pend.length
    ∧ t.me.pend = rest ++ [{ p with flag := if s.me.flagOf h.sch < 12 then some (s.me.flagOf h.sch) else none }]
    ∧ ∀ m, t.me.flag m = s.me.flag m + (if m = s.me.flagOf h.sch ∧ m < 12 then 1 else 0)

/-- The word traps with a record of which p holds, and has no other effect (R400). -/
def TrapsWith (i : Instr) (s : State) (p : FaultRec → Prop) : Prop :=
  ∃ r, p r ∧ r.npc = s.me.pc ∧ r.defer = false
    ∧ exec i s = .next (if s.me.pend = [] then s.takeTrap s.cur r else s.setStand s.cur { s.me with trapWait := some r })
/-- The trap of an access: class, cause, address and kind (R398). -/
def AccessTraps (i : Instr) (s : State) (cls cause addr akind : Nat) : Prop :=
  TrapsWith i s (fun r => r.cls = BitVec.ofNat 8 cls ∧ r.cause = BitVec.ofNat 8 cause ∧ r.addr = BitVec.ofNat 64 addr
    ∧ r.akind = BitVec.ofNat 4 akind)

/-! ### Tickets and queues (spec/03 R73-R78) -/

/-- A ticket lies in a range. -/
def Ranges.has (r : Ranges) (t : Nat) : Prop := ∃ x ∈ r, x.1 ≤ t ∧ t < x.2
/-- A range in canonical form: intervals that are not empty, rising and apart. -/
def Ranges.ok (r : Ranges) : Prop := (∀ x ∈ r, x.1 < x.2) ∧ r.Pairwise (fun x y => x.2 < y.1)
/-- The counter of a field. -/
def Stage.counter (st : Stage) (f : Nat) : Ranges := tget [] st.counters f
/-- x and y part a set of tickets: x has n of them, and those of x lie below those of y. -/
def Parts (n : Nat) (pool : Nat → Prop) (x y : Ranges) : Prop :=
  x.count = n ∧ (∀ t, pool t ↔ x.has t ∨ y.has t) ∧ ∀ t u, x.has t → y.has u → t < u
/-- The segment that a `deq` of a field takes from (R78). -/
def Launch.source (l : Launch) (st : Stage) (g : Nat) : Option Nat :=
  if st.seg g ≠ [] then some g else if l.det = true ∧ st.done = false then none
  else (ringAfter g (st.segs.map Prod.fst)).find? (fun j => st.seg j != [])

/-! ### Memory (spec/11 - spec/13) -/

/-- A byte that the device holds for a place: at the home, in a replica, or in some L1. -/
def Holds (s : State) (pa : Nat) (b : Byte) : Prop :=
  b = s.homeGet pa ∨ (∃ r ∈ (s.dirAt (pa / 128)).replicas, b = memGet r.2 (pa % 128))
    ∨ ∃ core l, s.l1At core (pa / 128) = some l ∧ (l.valid ||| l.dirty).getLsbD (pa % 128) = true ∧ b = memGet l.bytes (pa % 128)
/-- Bytes of one line in canonical form: offsets rising below 128, none zero. -/
def LineForm (m : Mem) : Prop := Memory.wf m = true ∧ ∀ c ∈ m, c.1 < 128
/-- A line of which no other core of the cluster holds bytes that this core's stands made dirty, whose replicas are as its home, and
which no cache holds when it belongs to a window (R279, R303, R437). -/
def Settled (s : State) (core line : Nat) : Prop :=
  (∀ c ∈ siblings core, ∀ l, s.l1At c line = some l → ∀ w ∈ l.writers, s.coreOf w ≠ core)
    ∧ (∀ r ∈ (s.dirAt line).replicas, r.2 = s.lineBytes line)
    ∧ (isWindow (128 * line) = true → (s.dirAt line).cached = false ∧ ∀ c, s.l1At c line = none)
/-- What a load of n bytes gives on settled lines (R299): under mask CO what the core sees, under a wider one the core's dirty bytes
over the home. -/
def loadView (s : State) (core : Nat) (m : Byte) (pa n : Nat) : Nat :=
  if isWindow pa then s.homeRead pa n
  else if maskNarrow m then s.coreView core pa n
  else match s.l1At core (pa / 128) with
    | none => s.homeRead pa n
    | some l => natOf ((List.range n).map (fun i =>
        if l.dirty.getLsbD (pa % 128 + i) then memGet l.bytes (pa % 128 + i) else s.homeGet (pa + i)))
/-- The byte that the last of a list of writes (address, length, value) covering a place puts there. -/
def lastByte (ws : List (Nat × Nat × Nat)) (pa : Nat) : Option Byte :=
  (ws.reverse.find? (fun w => decide (w.1 ≤ pa ∧ pa < w.1 + w.2.1))).map (fun w => BitVec.ofNat 8 (w.2.2 / 256 ^ (pa - w.1)))
/-- Nothing of a stand but its registers, outstanding results, place in the code, path set and markers has changed. -/
def SameThread (a b : Stand) : Prop :=
  b.life = a.life ∧ b.copse = a.copse ∧ b.idx = a.idx ∧ b.a = a.a ∧ b.exited = a.exited ∧ b.stack = a.stack ∧ b.yc = a.yc
    ∧ b.rb = a.rb ∧ b.g = a.g ∧ b.d = a.d ∧ b.b = a.b ∧ b.lvl = a.lvl ∧ b.ticket = a.ticket ∧ b.claims = a.claims
    ∧ b.gate = a.gate ∧ b.held = a.held ∧ b.lgid = a.lgid ∧ b.frames = a.frames ∧ b.deferred = a.deferred
    ∧ b.trapWait = a.trapWait ∧ b.tseq = a.tseq ∧ b.copySeq = a.copySeq ∧ b.enqDone = a.enqDone
    ∧ b.swbs = a.swbs ∧ b.exitPc = a.exitPc ∧ b.exitMask = a.exitMask
/-- The frame of a word that goes to memory: of the machine it changes, beside the executing stand, at most L1 lines, path sets of the
stands whose dirty bytes go home, its core's TLB, channels and issue marks, directory, frames, port queues, ownership and CHARGE of clusters,
and the stale window; the clusters' engines are as `eng` says. -/
def AccessFrameBut (eng : Engine → Engine → Prop) (s t : State) : Prop :=
  t.script = s.script ∧ t.cur = s.cur ∧ t.nextId = s.nextId ∧ t.boot = s.boot ∧ t.power = s.power ∧ t.pfs = s.pfs ∧ t.vis = s.vis
    ∧ t.fields = s.fields ∧ t.launches = s.launches ∧ t.groves = s.groves ∧ t.groveQ = s.groveQ ∧ t.near = s.near
    ∧ t.retired = s.retired ∧ t.hostMem = s.hostMem ∧ t.net = s.net ∧ t.answers = s.answers ∧ t.peerQ = s.peerQ
    ∧ (∀ j, j ≠ copseOf s.cur → t.copseAt j = s.copseAt j)
    ∧ SameThread s.me t.me ∧ (∀ j, j ≠ s.cur → ∃ x, t.standAt j = { s.standAt j with paths := x })
    ∧ (∀ c, c ≠ s.myCoreKey → ∃ x, t.coreAt c = { s.coreAt c with l1 := x })
    ∧ (t.coreAt s.myCoreKey).slog = s.myCore.slog ∧ (t.coreAt s.myCoreKey).block = s.myCore.block
    ∧ (t.coreAt s.myCoreKey).opp = s.myCore.opp ∧ (t.coreAt s.myCoreKey).stopped = s.myCore.stopped
    ∧ (t.coreAt s.myCoreKey).order = s.myCore.order
    ∧ ∀ c, ∃ o tl ch e, t.clusterAt c = { s.clusterAt c with owners := o, tlb := tl, charge := ch, eng := e } ∧ eng (s.clusterAt c).eng e
/-- The engines of the clusters are as before. -/
def AccessFrame : State → State → Prop := AccessFrameBut (fun a b => b = a)
/-- An engine without what its fills keep of scratchpad lines that a store has changed since (R229). -/
def Engine.bare (e : Engine) : Engine :=
  { e with recs := e.recs.map (fun r => (r.1, { r.2 with queue := r.2.queue.map (fun q => { q with snap := [] }) })) }
/-- The frame of a word that writes the scratchpad: engines may keep what stood there. -/
def ScratchFrame : State → State → Prop := AccessFrameBut (fun a b => b.bare = a.bare)
/-- The word passes, with every register and outstanding result as before. -/
def PassesWith (i : Instr) (s t : State) : Prop :=
  exec i s = .next t ∧ t.me.pc = s.me.pc + BitVec.ofNat 64 (wordBytes i) ∧ t.me.v = s.me.v ∧ t.me.sr = s.me.sr ∧ t.me.p = s.me.p
    ∧ t.me.q = s.me.q ∧ t.me.pend = s.me.pend
/-- A vector word without participants passes, with every register, predicate and flag as before; what it sends to a channel behind an
earlier outstanding push of the stand is outstanding too, without a flag (R41, R184). -/
def PassesIdle (i : Instr) (s t : State) (d : Opd) : Prop :=
  let behind : Prop := d.cl = true ∧ s.me.willPush d.num.toNat = true
  exec i s = .next t ∧ t.me.pc = s.me.pc + BitVec.ofNat 64 (wordBytes i) ∧ t.me.v = s.me.v ∧ t.me.sr = s.me.sr ∧ t.me.p = s.me.p
    ∧ t.me.q = s.me.q ∧ t.me.flags = s.me.flags ∧ (¬behind → t.me.pend = s.me.pend)
    ∧ (behind → ∃ rest p es, t.me.pend = rest ++ [p] ∧ rest.length = s.me.pend.length ∧ p.flag = none ∧ p.ch = some (d.num.toNat, es))
/-- The word is not done: the stand stays at it, with every register and outstanding result as before, and issues it again. -/
def WaitsWith (i : Instr) (s t : State) : Prop :=
  exec i s = .next t ∧ t.me.pc = s.me.pc ∧ t.me.v = s.me.v ∧ t.me.sr = s.me.sr ∧ t.me.p = s.me.p
    ∧ t.me.q = s.me.q ∧ t.me.pend = s.me.pend
/-- Accesses that cannot be translated trap with the first immediate cause (R244, R265). -/
def TranslationTraps (i : Instr) (s : State) (acc : Acc) (akind : Nat) (xs : List (Nat × Nat)) : Prop :=
  ∀ c va ts, immediate (s.xlateAll s.cur acc xs) = some (c, va, ts) → AccessTraps i s 3 c va akind
/-- Accesses on pages that are absent or may not be written hold the stand on one request per page (R245, R255). -/
def HoldsOnPages (i : Instr) (s : State) (acc : Acc) (xs : List (Nat × Nat)) : Prop :=
  immediate (s.xlateAll s.cur acc xs) = none → s.pageLogged s.myCoreKey xs = false → faultPages (s.xlateAll s.cur acc xs) ≠ [] →
    ∃ t ids, WaitsWith i s t ∧ t.me.wait = .page ids none ∧ ids.length = (faultPages (s.xlateAll s.cur acc xs)).length ∧ SameMemory s t
/-- Every access translates, and no entry of the side log holds one of the pages. -/
def AllTranslate (s : State) (acc : Acc) (xs : List (Nat × Nat)) : Prop :=
  immediate (s.xlateAll s.cur acc xs) = none ∧ s.pageLogged s.myCoreKey xs = false ∧ faultPages (s.xlateAll s.cur acc xs) = []
/-- Values that a load leaves outstanding: element i of a thread, at key 4 thread + i, extended to its register (R264, R266). -/
def Delivers (f : M96) (ts : List Nat) (tbl : Tbl Nat) (p : Pend) : Prop :=
  p = { p with flag := none } ∧ (f.dr.cl = false → ∀ t ∈ ts, ∀ j, j < M96.count f →
    let x := outTy f.ty.toNat (tget 0 tbl (4 * t + j))
    if f.h.uni then ((f.dr.num + BitVec.ofNat 8 j).toNat, x) ∈ p.sw
    else if M96.eb f = 8 then (128 * (f.dr.num + BitVec.ofNat 8 (2 * j)).toNat + t, x.extractLsb' 0 32) ∈ p.vw ∧
      (128 * ((f.dr.num + BitVec.ofNat 8 (2 * j)).toNat + 1) + t, x.extractLsb' 32 32) ∈ p.vw
    else (128 * (f.dr.num + BitVec.ofNat 8 j).toNat + t, x.extractLsb' 0 32) ∈ p.vw)
/-- The writes of a list of elements with their translations: physical address, bytes, value. -/
def writesOf (es : List Elem) (ys : List (Nat × Nat × Nat)) : List (Nat × Nat × Nat) :=
  (es.zip ys).map (fun w => (w.2.2.2, w.1.2.2.1, w.1.2.2.2))
/-- A plain write with faulting pages puts one entry per page into the side log and ends as given, or is held on the pages when the log has
no room (R255). -/
def SideLogs (i : Instr) (s : State) (uni : Bool) (es : List Elem) (sm : Byte) (op : Option (BitVec 3 × BitVec 5))
    (ends : State → Prop) : Prop :=
  let xs := es.map (fun e => (e.1, e.2.1))
  let ys := s.xlateAll s.cur .write xs
  let ps := faultPages ys
  immediate ys = none → s.pageLogged s.myCoreKey xs = false → s.me.fenceM = none →
    (∀ w ∈ (es.zip ys).filterMap (fun w => match w.2.2.2 with | .ok x => some (x.1, w.1.2.2.1) | .fault _ => none),
      s.elemWaits s.cur op sm w.1 w.2 = false) →
    (ps.length + s.myCore.slog.length ≤ 64 → ∃ t new, ends t ∧ (t.coreAt s.myCoreKey).slog = s.myCore.slog ++ new
      ∧ new.map (fun e => (e.stand, e.page, e.cause)) = ps.map (fun p => (s.cur, p.1, p.2.1))
      ∧ ∀ e ∈ new, e.op = op ∧ e.sm = sm ∧ e.uni = uni
        ∧ e.elems = (es.filter (fun x => pageOf x.2.1 == e.page)).map (fun x => ⟨x.1, x.2.1, x.2.2.1, BitVec.ofNat 64 x.2.2.2⟩))
    ∧ (s.myCore.slog.length ≤ 64 → 64 < ps.length + s.myCore.slog.length →
      ∃ t ids, WaitsWith i s t ∧ t.me.wait = .page ids none ∧ SameMemory s t)
/-- No other core of the cluster holds bytes of a line that this core's stands made dirty. -/
def NoneAway (s : State) (core line : Nat) : Prop := ∀ c ∈ siblings core, ∀ l, s.l1At c line = some l → ∀ w ∈ l.writers, s.coreOf w ≠ core
/-- A byte at its home once the dirty bytes of a core's L1 have gone there. -/
def cleaned (s : State) (core a : Nat) : Byte :=
  match s.l1At core (a / 128) with
  | some l => if l.dirty.getLsbD (a % 128) then memGet l.bytes (a % 128) else s.homeGet a
  | none => s.homeGet a

/-- A byte as a core's next access with mask CO finds it, where the replicas are as the home (R299, R301). -/
def seen (s : State) (core a : Nat) : Byte :=
  match s.l1At core (a / 128) with
  | some l => if l.valid.getLsbD (a % 128) && !s.mustRefresh core (a / 128) then memGet l.bytes (a % 128) else cleaned s core a
  | none => s.homeGet a
/-- The clean bytes that a core holds of a line are as its home. -/
def Agrees (s : State) (core line : Nat) : Prop :=
  ∀ l, s.l1At core line = some l → ∀ o, o < 128 → l.valid.getLsbD o = true → l.dirty.getLsbD o = false → memGet l.bytes o = s.homeGet (128 * line + o)

/-! ### Atomics (spec/15) -/

/-- n bytes of a view of memory, little-endian. -/
def viewBytes (m : Nat → Byte) (pa : Nat) : Nat → Nat
  | 0 => 0
  | n + 1 => (m pa).toNat + 256 * viewBytes m (pa + 1) n
/-- Atomics on elements of n bytes, one thread after the other (R346, R350): the old values and the memory after; g gives the new
value, or none where nothing is written. -/
def atomRun (n : Nat) (g : Nat → Nat → Option Nat) : List (Nat × Nat) → (Nat → Byte) → Tbl Nat × (Nat → Byte)
  | [], m => ([], m)
  | (t, p) :: r, m =>
    let old := viewBytes m p n
    let q := atomRun n g r (match g t old with
      | none => m
      | some x => fun a => if p ≤ a ∧ a < p + n then BitVec.ofNat 8 (x / 256 ^ (a - p)) else m a)
    ((t, old) :: q.1, q.2)
/-- The integer operations of R349. -/
def atomBits (op ty : Nat) (a x : BitVec (tyBits ty)) : BitVec (tyBits ty) :=
  if op = 0 then a + x else if op = 1 then minOp ty a x else if op = 2 then maxOp ty a x else if op = 3 then a &&& x
  else if op = 4 then a ||| x else if op = 5 then a ^^^ x else if op = 6 then x else if a.ult x then a + 1 else 0
/-- What an atomic comes to (R265, R344-R346, R350, R352): its traps in their order; on global memory whose lines no other core of the
cluster has, and no core owns, and on the scratchpad, the threads' steps one after the other. One executed in L1 acts on what the core sees;
where it is an acquire or a release too, the core's clean bytes of the lines are as their homes. A plain `red` (side) meets absent pages with
the side log and not with a held stand. -/
def AtomicClaim (i : Instr) (s : State) (a : AtomReq) (xs : List (Nat × Nat)) (g : Nat → Nat → Option Nat) (side : Bool)
    (ends : State → Tbl Nat → Prop) : Prop :=
  let n := tyBits a.ty / 8
  let own := s.myCoreKey
  let c := s.myCopse
  let owners := (s.clusterAt (clusterOf own)).owners
  let cause (ea : Nat) : Nat := if ea % n ≠ 0 then 1 else if a.global then 0 else if 128 * c.alloc < ea + n then 2
    else if ∃ l ∈ linesOf ea n, (c.lineAt l).full = false ∧ (c.lineAt l).filler = none then 3 else 0
  let ok : Prop := ∀ x ∈ xs, cause x.2 = 0
  let calm : Prop := a.ordered = false ∨ s.det = false
  (∀ m x, m ≠ 0 → xs.find? (fun x => cause x.2 == m) = some x → (∀ y ∈ xs, cause y.2 = 0 ∨ m ≤ cause y.2) →
    AccessTraps i s 4 m x.2 3) ∧
  (ok → ¬calm → xs ≠ [] → Traps i s 7 1) ∧
  (xs = [] → (side = true → s.me.fenceM = none) → ∃ t, PassesWith i s t ∧ SameMemory s t ∧ t.myCopse = c) ∧
  (a.global = true → ok → calm → xs ≠ [] →
    let ys := translated (s.xlateAll s.cur .write xs)
    let r := (s.keepTlb s.cur (s.xlateAll s.cur .write xs)).release s.cur a.sm
    let free : Prop := AllTranslate s .write xs ∧ s.me.fenceM = none ∧ ∀ y ∈ ys, s.rmwWaits own a.sm y.2.2 = false
    TranslationTraps i s .write 3 xs ∧ (side = false → HoldsOnPages i s .write xs) ∧
    (free → a.ord.getLsbD 1 = true → r.1 = false → ∃ t, WaitsWith i s t ∧ t.myCopse = c) ∧
    let near : Prop := maskNear a.sm = true
    let view (s : State) (pa : Nat) : Byte := if maskNear a.sm && a.ord == 0 then seen s own pa else cleaned s own pa
    (free → (∀ y ∈ ys, let line := y.2.2 / 128
        isWindow y.2.2 = false ∧ NoneAway s own line ∧ tfind line owners = none ∧
          (near → (∀ x ∈ (s.dirAt line).replicas, x.2 = s.lineBytes line) ∧ (a.ord ≠ 0 → Agrees s own line))) →
      owners.length + ys.length ≤ 256 → (a.ord.getLsbD 1 = true → r.1 = true ∧ ∀ line, Settled s own line) →
      let run := atomRun n g (ys.map (fun y => (y.1, y.2.2))) (view s)
      ∃ t, ends t run.1 ∧ AccessFrame s t ∧ t.myCopse = c ∧ ∀ pa, view t pa = run.2 pa)) ∧
  (a.global = false → ok → calm → xs ≠ [] →
    let ls := linesMet n xs
    let touched := ls.foldl (fun s l => s.touchBy s.cur i a.h.uni (xs.map Prod.fst) l) s
    let marked (a : Nat) : Bool := (linesOf a n).any (fun l => (c.lineAt l).bm)
    let plain : Prop := ∀ x ∈ xs, marked x.2 = false
    let full : Prop := ∀ l ∈ ls, (touched.myCopse.lineAt l).full = true
    let released : Prop := a.ord.getLsbD 1 = true → (touched.release s.cur a.sm).1 = true
    (∀ x, xs.find? (fun x => marked x.2) = some x → AccessTraps i s 5 1 x.2 3) ∧
    (plain → ¬full ∨ ¬released → ∃ t, WaitsWith i s t ∧ SameMemory s t ∧ t.myCopse.scratch = c.scratch) ∧
    (plain → full → released → let run := atomRun n g xs (memGet c.scratch)
      ∃ t, ends t run.1 ∧ ScratchFrame s t ∧ SameMemory s t ∧ ∀ a, memGet t.myCopse.scratch a = run.2 a))

/-! ### Drains (spec/10 R234) -/

/-- The elements that a drain to scratchpad has still to write: address, bytes, value. -/
def drainElems (c : Cmd) (o : DrainOp) (sz : Nat) : List (Nat × Nat × Nat) :=
  c.todo.flatMap (fun i => (List.range 64).filterMap (fun x =>
    if c.early.contains (64 * i + x) then none else (c.vals[64 * i + x]?).map (fun w => (o.base + i * o.stride + sz * x, sz, w.toNat))))

/-! ### Completion records (spec/15 R354-R358) -/

/-- The fields of a completion record (R354, R355): a slot is SID, EXPL, DELL, NEXPL. -/
structure RecView where
  ph : Nat
  brk : Nat
  stray : Nat
  nxv : Nat
  valid : Nat
  exps : Nat
  arrs : Nat
  nexps : Nat
  park : BitVec 16
  held : BitVec 16
  slots : List (Nat × Nat × Nat × Nat)
  deriving DecidableEq, Repr
/-- The record at an offset of a copse's scratchpad. -/
def recView (s : State) (copse o : Nat) : RecView :=
  let r := memRead (s.copseAt copse).scratch o 32
  let f (hi lo : Nat) : Nat := r / 2 ^ lo % 2 ^ (hi + 1 - lo)
  ⟨f 0 0, f 1 1, f 2 2, f 3 3, f 4 4, f 12 8, f 17 13, f 22 18, BitVec.ofNat 16 (r / 2 ^ 32), BitVec.ofNat 16 (r / 2 ^ 48),
    (List.range 4).map (fun i => let b := 64 + 48 * i
      (f (b + 4) b, f (b + 14) (b + 5), f (b + 24) (b + 15), f (b + 34) (b + 25)))⟩
/-- Sixteen bits by number. -/
def bits16 (p : Nat → Bool) : BitVec 16 := BitVec.ofNat 16 (((List.range 16).filter p).map (fun i => 2 ^ i)).sum
/-- The open phase has all it expects (R358). -/
def RecView.ready (v : RecView) : Prop := v.valid = 1 ∧ v.arrs = v.exps ∧ ∀ x ∈ v.slots, x.2.1 ≤ x.2.2.1
/-- The completion of a phase (R358): `w` tells the held stands that wait for the phase they arrive in. -/
def RecView.complete (v : RecView) (w : Nat → Bool) (broken : Bool) : RecView :=
  let exps := if v.nxv = 1 then v.nexps else v.exps
  let taken := ((List.range 16).filter (fun i => v.held.getLsbD i)).take exps
  { v with ph := 1 - v.ph, brk := if broken then 1 else 0, nxv := 0, exps := exps, arrs := taken.length,
           park := bits16 (fun i => taken.contains i && w i), held := bits16 (fun i => v.held.getLsbD i && !taken.contains i),
           slots := v.slots.map (fun x => (x.1, if v.nxv = 1 then x.2.2.2 else x.2.1, if broken then 0 else x.2.2.1 - x.2.1, x.2.2.2)) }
/-- The record after n phases have completed normally. -/
def RecView.after (v : RecView) (w : Nat → Bool) : Nat → RecView
  | 0 => v
  | n + 1 => (v.after w n).complete w false
/-- n phases complete one after another, and no further one (R358: the loop of CheckComplete, of at most 1,100 rounds). -/
def RecView.settles (v : RecView) (w : Nat → Bool) (n : Nat) : Prop :=
  n ≤ 1100 ∧ (∀ m, m < n → (v.after w m).ready) ∧ (n < 1100 → ¬(v.after w n).ready)
/-- The held stands of a copse that wait for their phase. -/
def heldWaits (s : State) (copse i : Nat) : Bool := match (s.standAt (16 * copse + i)).wait with | .heldRec _ _ w => w | _ => false
/-- The record after a delivered line of a copy of a stand bound to a slot (R356, R358). -/
def LineCounted (s t : State) (copse o slot stand : Nat) : Prop :=
  let v := recView s copse o
  let w := heldWaits s copse
  let x := (v.slots[slot]?).getD (0, 0, 0, 0)
  let counts : Prop := x.2.1 ≠ 0 ∧ (x.1 = 16 ∨ x.1 = stand % 16)
  let v1 := { v with slots := v.slots.set slot (x.1, x.2.1, min 1023 (x.2.2.1 + 1), x.2.2.2) }
  (v.valid = 0 → recView t copse o = v) ∧ (v.valid = 1 → ¬counts → recView t copse o = { v with stray := 1 }) ∧
    (v.valid = 1 → counts → ∃ n, v1.settles w n ∧ recView t copse o = v1.after w n)
/-- The record after a copy bound to a slot has ended before it was complete (R325, R358). -/
def PhaseBroken (s t : State) (copse o slot : Nat) : Prop :=
  let v := recView s copse o
  let w := heldWaits s copse
  let b := v.complete w true
  if v.valid = 1 ∧ ((v.slots[slot]?).getD (0, 0, 0, 0)).2.1 ≠ 0 then ∃ n, b.settles w n ∧ recView t copse o = b.after w n
  else recView t copse o = v

/-! ### Copies (spec/14 R321-R325) -/

/-- A place of the scratchpad lies outside the record that a copy is bound to. -/
def Copy.apart (x : Copy) (a : Nat) : Prop := ∀ o slot, x.cr = some (o, slot) → a < o ∨ o + 32 ≤ a
/-- A copy ends before it is complete (R325): its undelivered destination lines have no filler any more, its record's phase is broken, and
its status entry, if it has one, is due (R321). -/
def CopyEnds (s t : State) (copse : Nat) (x : Copy) (status : BitVec 2) : Prop :=
  let c := s.copseAt copse
  let d := t.copseAt copse
  d.copyOf x.seq = (if x.ntf = none then none else some { x with status := some status, parked := none, fate := none }) ∧
    (∀ l, d.lineAt l = if l ∈ x.restLines ∧ (c.lineAt l).filler = some (.copy x.seq) then { c.lineAt l with filler := none } else c.lineAt l) ∧
    (∀ a, x.apart a → memGet d.scratch a = memGet c.scratch a) ∧
    ∀ o slot, x.cr = some (o, slot) → slot < 4 → PhaseBroken s t copse o slot
/-- A trap joins the queue of its stand with a record of which p holds (R397, R398). -/
def TrapDeferred (s t : State) (k : Nat) (p : FaultRec → Prop) : Prop :=
  ∃ r, p r ∧ r.defer = true ∧ r.npc = (if (s.standAt k).life = .ending then (s.standAt k).exitPc else (s.standAt k).pc) ∧
    r.tseq = (s.standAt k).tseq ∧ (t.standAt k).deferred = (s.standAt k).deferred ++ [r] ∧ (t.standAt k).tseq = (s.standAt k).tseq + 1

/-- A stand that waited on a phase goes on with a status (R360, R332). -/
def woken (x : Stand) (status : Bool) : Stand :=
  match x.wait with
  | .record _ _ d => { x with q := setQ x.q d status, wait := .none }
  | .cont _ _ d tgt => { x with q := setQ x.q d status, wait := .none, pc := tgt, place := .target }
  | _ => x

/-! ### Groves (spec/16) -/

/-- A grove instruction has sent its event and is outstanding; q0 is among its results when it says so. -/
def SendsEvent (i : Instr) (s t : State) (op : GroveOp) (gn : Nat) (regs : List Nat) (q0 : Bool) : Prop :=
  LeavesPending i s t { Pend.empty with on := .grove, sw := regs.map (fun d => (d, 0)), qw := if q0 then [(0, false)] else [] } ∧
    t.groveQ = s.groveQ ++ [⟨s.cur, op, gn, tfind gn s.me.g⟩] ∧ t.groves = s.groves
/-- Result words in the places of an outstanding operation. -/
def Pend.answered (p : Pend) (res : List Nat) : Pend :=
  { p with on := .ready, sw := p.sw.mapIdx (fun i w => (w.1, BitVec.ofNat 64 ((res[i]?).getD 0))) }
/-- The oldest outstanding grove operation of a stand has its results; nothing else of the stand but, perhaps, its g register changes. -/
def GroveAnswers (s t : State) (k : Nat) (g : Tbl GHandle) (res : List Nat) (q0 : Option Bool) : Prop :=
  ∃ a p b, (s.standAt k).pend = a ++ p :: b ∧ p.on = .grove ∧ (∀ x ∈ a, x.on ≠ .grove) ∧
    t.standAt k = { s.standAt k with g := g, pend := a ++ { p.answered res with qw := match q0 with
      | some v => [(0, v)]
      | none => p.qw } :: b }
/-- A stand that waited on a phase is ready, with its results (R360, R374). -/
def groveWoken (x : Stand) (res : List Nat) : Stand :=
  { x with wait := .none, pend := x.pend.map (fun p => if p.on = .grove then p.answered res else p) }
/-- The result words of an arrival by its kind (R388, R389): bar; vote, with n arrivals of which y voted 1; reduction. -/
def arrivalWords (k : ArrKind) (status phase n y red : Nat) : List Nat :=
  let word := status + phase % 2 ^ 16 * 2 ^ 16
  match k with
  | .bar => [word]
  | .vote op => [status + (if status < 3 ∧ ((op = 0 ∧ y = n) ∨ (op = 1 ∧ y ≠ 0) ∨ (op ≠ 0 ∧ op ≠ 1 ∧ (y = n ∨ y = 0))) then 8 else 0) + y % 2 ^ 22 * 2 ^ 10]
  | .red _ ty => [if 3 ≤ status then 0 else extend ty.toNat 64 red, word]

/-! ### Traps and special registers (spec/17 R394-R404) -/

/-- A fault record, bit 0 last (R398). -/
def recordBits (r : FaultRec) : BitVec 1024 :=
  (0 : BitVec 128) ++ r.tseq ++ r.aux ++ r.iw ++ r.fmask ++ (0 : BitVec 46) ++ r.pcore ++ r.pcl ++ r.pfy ++ r.pfx ++ r.lsite ++ r.copse
    ++ r.cont ++ (0 : BitVec 28) ++ r.stand ++ BitVec.ofBool r.defer ++ r.ckind ++ BitVec.ofBool r.space ++ r.akind ++ r.sm ++ r.cause
    ++ r.cls ++ r.addr ++ r.othpc ++ r.npc
/-- A trap frame, bit 0 last (R399). -/
def frameBits (f : Frame) : BitVec 2048 :=
  let sav (i : Nat) : Word64 := (f.savs[i]?).getD 0
  let clh : Word64 := match f.clh with | none => 0 | some h => (wordBits (.clauseHeader h)).setWidth 64
  (0 : BitVec 443) ++ BitVec.ofNat 5 f.clpos ++ clh ++ sav 3 ++ sav 2 ++ sav 1 ++ sav 0 ++ (0 : BitVec 43) ++ BitVec.ofNat 6 f.sdep
    ++ BitVec.ofNat 6 f.rb ++ BitVec.ofNat 4 f.yc ++ BitVec.ofBool f.gate ++ f.q ++ f.amask ++ f.rpc ++ recordBits f.record
/-- A record with its trap's number: a synchronous one has it where it is taken (R398). -/
def numbered (x : Stand) (r : FaultRec) : FaultRec := if r.defer then r else { r with tseq := x.tseq }
/-- A stand at the first instruction of a handler (R400). -/
def entered (x : Stand) (r : FaultRec) (kind : Kind) (h : Word64) : Stand :=
  { x with
    pc := h
    place := .target
    clh := none
    clpos := 0
    a := if x.life = .ending then x.exitMask else x.a
    frames := ⟨numbered x r, x.pc, x.pc, x.a, x.q, x.gate, x.yc, x.rb, x.stack.length, [tget 0 x.sr 0, tget 0 x.sr 1, tget 0 x.sr 2, tget 0 x.sr 3],
      if kind = .sap then x.clh else none, if kind = .sap then x.clpos else 0⟩ :: x.frames
    sr := tset 3 (BitVec.ofNat 64 (x.frames.length + 1)) (tset 2 r.npc (tset 1 r.addr (tset 0 ((recordBits r).extractLsb' 192 64) x.sr)))
    tseq := if r.defer then x.tseq else x.tseq + 1
    trapWait := none
    rel := none }
/-- The handler of a class for the kind a stand runs (R66, R400, R457); 0 where there is none, or its entry is not aligned. -/
def handlerOf (s : State) (k : Nat) (cls : Byte) : Nat :=
  let c := s.copseAt (copseOf k)
  let h := if c.maint then (Config.maintHandler cls.toNat).toNat
    else (s.ctxRead c.vi ((s.launchAt c.launch).tvt.toNat + 16 * cls.toNat + (if c.kind = .heart then 8 else 0)) 8).getD 0
  if h % 32 = 0 then h else 0
/-- An event is in the ring of an interface, whose counter has risen, or is held when the ring takes none (R443, R445). -/
def EventPosted (s t : State) (vi : Nat) (r : FaultRec) : Prop :=
  let v := s.viAt vi
  let size := 2 ^ v.eq.logn.toNat
  let takes : Prop := 4 ≤ v.eq.logn.toNat ∧ v.eq.logn.toNat ≤ 12 ∧ (v.eq.dptr.toNat + 1) % size ≠ v.eq.hptr.toNat % size ∧ v.eqHeld = []
  let base := 4096 * v.eqBase.toNat + 128 * (v.eq.dptr.toNat % size)
  (takes → (t.viAt vi).eq.dptr = BitVec.ofNat 16 ((v.eq.dptr.toNat + 1) % size) ∧ (t.viAt vi).msi1 = v.msi1 + 1 ∧ (t.viAt vi).eqHeld = [] ∧
    ∀ a, memGet t.hostMem a = if base ≤ a ∧ a < base + 128 then (recordBits r).extractLsb' (8 * (a - base)) 8 else memGet s.hostMem a) ∧
  (¬takes → (t.viAt vi).eq = v.eq ∧ (t.viAt vi).eqHeld = v.eqHeld ++ [r] ∧ t.hostMem = s.hostMem)

/-! ### Commands of the host (spec/19 R442-R444) -/

/-- A completion is in the ring of an interface, whose counter has risen, or is held when the ring takes none; DETAIL reads zero up to
version 2 (R442-R444). -/
def CompletionPosted (s t : State) (vi : Nat) (tag : BitVec 16) (status detail : Nat) : Prop :=
  let v := s.viAt vi
  let size := 2 ^ v.cq.logn.toNat
  let takes : Prop := 4 ≤ v.cq.logn.toNat ∧ v.cq.logn.toNat ≤ 12 ∧ (v.cq.dptr.toNat + 1) % size ≠ v.cq.hptr.toNat % size ∧ v.cqHeld = []
  let base := 4096 * v.cqBase.toNat + 16 * (v.cq.dptr.toNat % size)
  let entry : BitVec 128 := (0 : BitVec 64) ++ (if v.agreed.toNat ≤ 2 then 0 else BitVec.ofNat 32 detail) ++ (0 : Byte) ++ BitVec.ofNat 8 status ++ tag
  (takes → (t.viAt vi).cq.dptr = BitVec.ofNat 16 ((v.cq.dptr.toNat + 1) % size) ∧ (t.viAt vi).msi0 = v.msi0 + 1 ∧ (t.viAt vi).cqHeld = [] ∧
    ∀ a, memGet t.hostMem a = if base ≤ a ∧ a < base + 16 then entry.extractLsb' (8 * (a - base)) 8 else memGet s.hostMem a) ∧
  (¬takes → (t.viAt vi).cq = v.cq ∧ (t.viAt vi).cqHeld = v.cqHeld ++ [⟨tag, BitVec.ofNat 8 status, BitVec.ofNat 32 detail⟩] ∧ t.hostMem = s.hostMem)
/-- Nothing of the device but an interface's rings and host memory has changed. -/
def OnlyRings (s t : State) : Prop :=
  t.stands = s.stands ∧ t.copses = s.copses ∧ t.cores = s.cores ∧ t.clusters = s.clusters ∧ t.fields = s.fields ∧ t.launches = s.launches ∧
    t.groves = s.groves ∧ t.groveQ = s.groveQ ∧ t.frames = s.frames ∧ t.dir = s.dir ∧ t.near = s.near ∧ t.boot = s.boot ∧ t.net = s.net ∧
    t.answers = s.answers ∧ t.nextId = s.nextId

/-! ### What every step keeps -/

/-- Keys strictly rising. -/
def Sorted {α : Type} (t : Tbl α) : Prop := (t.map Prod.fst).Pairwise (fun a b => a < b)
/-- The tables of the state are in order, so that each key has one entry. -/
def TablesSorted (s : State) : Prop :=
  Sorted s.stands ∧ Sorted s.copses ∧ Sorted s.cores ∧ Sorted s.clusters ∧ Sorted s.fields ∧ Sorted s.launches ∧ Sorted s.groves ∧ Sorted s.vis ∧
    Sorted s.pfs ∧ Sorted s.dir
/-- Every home copy is a line in canonical form, no window has one (R437), and a clean one holds what its frame holds (R280, R283). -/
def HomesSound (s : State) : Prop :=
  ∀ line, let d := s.dirAt line
    LineForm d.bytes ∧ (isWindow (128 * line) = true → d.cached = false) ∧
      (d.cached = true → d.dirty = false → ∀ o, o < 128 → memGet d.bytes o = memGet s.frames (128 * line + o))
/-- What waits in the queues of the ports is bytes of lines of windows (R437). -/
def PortsSound (s : State) : Prop := ∀ w ∈ s.posted, isWindow (128 * w.2.1) = true ∧ ∀ b ∈ w.2.2, b.1 < 128
/-- The invariant of the model's memory. -/
def MemoryInv (s : State) : Prop := Memory.wf s.frames = true ∧ Memory.wf s.hostMem = true ∧ TablesSorted s ∧ HomesSound s ∧ PortsSound s
end Sys2Proof.Machine
end

