-- ==== Sys2Proof/Certificates/Slice0/Obligations.lean ====
section
/-! DEFINITION. The statements for the provers, by family. -/

open Sys2Proof Sys2Proof.Machine

/-! ### Encodings and steps -/

/-- Decode and encode agree on every well-formed term (spec/02 R26-R39). -/
def Obligations.DecodeOfEncodeIsTheInstruction : Prop := ∀ i : Instr, Sys2Proof.Laws.Roundtrip.Statement i

/-- The other direction: each word has one meaning and every bit of it counts. -/
def Obligations.DecodedWordIsItsEncoding : Prop :=
  ∀ (k : Kind) (w : BitVec 128) (i : Instr) (n : Nat), decode k w = .instr i n →
    i.wf = true ∧ i.kind = k ∧ ∃ e, encode i = some e ∧ e.bytes = n ∧ Agrees w e.bits n

/-- What decoding refuses, and how (R46, R53, R54). -/
def Obligations.ReservedEncodingsAreRefused : Prop :=
  ∀ (k : Kind) (w : BitVec 128),
    (w.extractLsb' 0 32 = 0 → decode k w = .pad) ∧
    (w.extractLsb' 0 32 ≠ 0 → w.extractLsb' 0 2 ≠ 0 → fmtOf (w.extractLsb' 2 10).toNat = none → decode k w = .ill 1) ∧
    (w.extractLsb' 0 32 ≠ 0 → w.extractLsb' 0 2 ≠ 0 → ∀ fm, fmtOf (w.extractLsb' 2 10).toNat = some fm →
      (fm.len ≠ (w.extractLsb' 0 2).toNat → decode k w = .ill 2) ∧
      (fm.len = (w.extractLsb' 0 2).toNat → k = .sap → (topByte fm.len w).extractLsb' 6 2 ≠ 0 → decode k w = .ill 4)) ∧
    (w.extractLsb' 0 32 ≠ 0 → w.extractLsb' 0 2 = 0 →
      (k = .sap → (w.extractLsb' 2 10).toNat ≠ 0 → decode k w = .ill 0x0A) ∧
      (k = .heart → (w.extractLsb' 2 10).toNat ≠ 1 → decode k w = .ill 0x0A))

/-- Words printed in the spec (its worked examples) and what they stand for. -/
def Obligations.PrintedWordsDecode : Prop :=
  let hV : Head := ⟨false, 7, false, .heart 15 15⟩
  let pV : Head := ⟨false, 7, false, .sap 0 0⟩
  let hU : Head := ⟨true, 7, false, .heart 15 15⟩
  let pU : Head := ⟨true, 7, false, .sap 0 0⟩
  let v (n : BitVec 8) : Opd := ⟨n, false, false, false⟩
  let u (n : BitVec 8) : Opd := ⟨n, true, false, false⟩
  let no : Opd := Opd.zero
  (decode .sap 0x00040080_0806E201 = .instr (.add ⟨pV, v 3, v 1, v 2, 2, 0⟩) 8 ∧
    decode .heart 0x04008008_07FEE201 = .instr (.add ⟨hV, v 3, v 1, v 2, 2, 0⟩) 8) ∧
  (decode .heart 0x00004002_087EF101 = .instr (.claim ⟨⟨true, 7, false, .heart 15 3⟩, u 4, no, v 1, 0, 0⟩) 8 ∧
    decode .sap 0x01000040_0208F101 = .instr (.claim ⟨⟨true, 7, false, .sap 1 0⟩, u 4, no, v 1, 0, 0⟩) 8) ∧
  (decode .heart 0x00000002_0A5EF119 = .instr (.migrQ ⟨⟨true, 7, false, .heart 15 2⟩, u 5, no, no, 0, 0⟩) 8 ∧
    decode .sap 0x01000000_020AF119 = .instr (.migrQ ⟨⟨true, 7, false, .sap 1 0⟩, u 5, no, no, 0, 0⟩) 8) ∧
  (decode .sap 0x01000007_00000010_2008E802 = .instr (.ldG ⟨⟨false, 7, false, .sap 1 0⟩, v 4, u 2, 0, 0xE, 0, 0, 0, 0, 0⟩) 12 ∧
    decode .heart 0x00000700_00001020_081EE802 = .instr (.ldG ⟨⟨false, 7, false, .heart 15 0⟩, v 4, u 2, 0, 0xE, 0, 0, 0, 0, 0⟩) 12) ∧
  (decode .sap 0x00040000_00008010_420CF90A = .instr (.cmoCinv ⟨pU, u 6, u 4, 0x100, 0, 0, 0, 0, 0, 1⟩) 12 ∧
    decode .heart 0x04000000_00801042_0DFEF90A = .instr (.cmoCinv ⟨hU, u 6, u 4, 0x100, 0, 0, 0, 0, 0, 1⟩) 12) ∧
  (decode .sap 0x00000000_00826008_08000008_5A14FA03 = .instr (.cpy ⟨pU, u 10, u 11, no, 0x00000041_30040400, 0⟩) 16 ∧
    decode .heart 0x00000000_82600808_0000085A_15FEFA03 = .instr (.cpy ⟨hU, u 10, u 11, no, 0x00000041_30040400, 0⟩) 16) ∧
  (decode .sap 0x00000320_0C00FA1D = .instr (.chsend ⟨pU, no, v 3, 50⟩) 8 ∧
    decode .heart 0x0003200C_01FEFA1D = .instr (.chsend ⟨hU, no, v 3, 50⟩) 8) ∧
  (decode .sap 0x01000083_00000810_200CEB02 = .instr (.atom ⟨⟨false, 7, false, .sap 1 0⟩, v 6, u 2, 0x10, 6, 8, 0, 0, 0, 0⟩) 12 ∧
    decode .heart 0x00008300_00081020_0C1EEB02 = .instr (.atom ⟨⟨false, 7, false, .heart 15 0⟩, v 6, u 2, 0x10, 6, 8, 0, 0, 0, 0⟩) 12) ∧
  (decode .sap 0x00000008_4002FB15 = .instr (.arriveW ⟨pU, v 1, u 8, no, 0, 0⟩) 8 ∧
    decode .heart 0x00000840_03FEFB15 = .instr (.arriveW ⟨hU, v 1, u 8, no, 0, 0⟩) 8) ∧
  (decode .sap 0x01000000_00000000_00020000_0208FC0F = .instr (.gbar ⟨⟨true, 7, false, .sap 1 0⟩, u 4, no, no, 1, 0⟩) 16 ∧
    decode .heart 0x00000000_00000000_02000002_085EFC0F = .instr (.gbar ⟨⟨true, 7, false, .heart 15 2⟩, u 4, no, no, 1, 0⟩) 16) ∧
  (decode .sap 0x00002A30_0000FD09 = .instr (.trap ⟨pU, no, no, 0x2A3⟩) 8 ∧
    decode .heart 0x002A3000_01FEFD09 = .instr (.trap ⟨hU, no, no, 0x2A3⟩) 8)

/-- What step adds around exec: the script's move (log 1), the free passage of counts (log 7), and that passing a clause header consumes an
opportunity (log 88) are the model's choices, no rules of the spec. -/
def Obligations.StepRunsTheDecodedInstruction : Prop :=
  (∀ (s : State) (e : Instr) (r : List Turn), s.script = .event e :: r → step s = exec e { s with script := r }) ∧
  ∀ (s : State) (k : Nat) (r : List Turn), s.script = .issue k :: r →
    let a := { s with script := r }
    (a.standsOn (a.coreOf k)).filter a.runnable = [k] → a.holding k = false →
    let spent := (a.standAt k).deferDue || !(a.standAt k).canIssue || !unspent k 8 a
    let b := { (if spent then a.tick (a.coreOf k) [] else a) with cur := k }
    (b.standAt k).deferDue = false → (b.standAt k).canIssue = true →
    b.pageLogged (b.coreOf k) [(0, (b.standAt k).pc.toNat)] = false → ∀ pa l, b.xlate (copseOf k) .fetch (b.standAt k).pc.toNat = .ok (pa, l) →
      let c := b.tlbAdd (copseOf k) (b.standAt k).pc.toNat l
      let after (t : State) : State := if spent then t.watch (a.coreOf k) a else t
      (∀ i n, decode (b.kindOf k) (b.fetchBits k pa) = .instr i n → ∃ t, exec i c = .next t ∧ step s = .next (after t)) ∧
      (∀ x, decode (b.kindOf k) (b.fetchBits k pa) = .ill x → step s = .next (after (c.illWord k x (b.fetchBits k pa))))

/-- No instruction of the table faults or is refused, and every step is safe, but for the wafer without power (log 1: the script is the model's own). -/
def Obligations.EveryStepGoesOn : Prop :=
  (∀ (i : Instr) (s : State), ∃ t, exec i s = .next t) ∧
  ∀ s : State, (SafeStep s ↔ (s.script ≠ [] ∨ s.power.on = true)) ∧
    (s.script = [] → s.power.on = false → step s = .fault .noPower)

/-- The criteria of R82 with the pairing of R84 and the yield of R44; ties are the model's choice (log 1). -/
def Obligations.SelectorFollowsItsCriteria : Prop :=
  ∀ (s : State) (core k j : Nat) (ks : List (Nat × Bool)), 2 ≤ ks.length → s.chosen core k ks = some j →
    let others := ks.filter (fun x => some x.1 != (s.coreAt core).lastYield)
    let pool := if others = [] then ks else others
    let rdy (x : Nat × Bool) := (s.standAt x.1).ready
    let paired := (s.coreAt core).lastHeavy = true ∧ Config.chargeThreshold ≤ (s.clusterAt (clusterOf core)).chargeSum
    ∃ h, (j, h) ∈ pool ∧
      ((∃ x ∈ pool, 1024 ≤ rdy x) → 1024 ≤ (s.standAt j).ready ∧ ∀ x ∈ pool, rdy x ≤ (s.standAt j).ready) ∧
      ((∀ x ∈ pool, rdy x < 1024) →
        (∀ x ∈ pool, s.prioOf x.1 ≤ s.prioOf j) ∧
        (paired → (∃ x ∈ pool, s.prioOf x.1 = s.prioOf j ∧ x.2 = false) →
          h = false ∧ ∀ x ∈ pool, s.prioOf x.1 = s.prioOf j → x.2 = false → rdy x ≤ (s.standAt j).ready) ∧
        (¬ paired → ∀ x ∈ pool, s.prioOf x.1 = s.prioOf j → rdy x ≤ (s.standAt j).ready))

/-- ILL at issue (R54, R55), and the causes of one word written out from R29, R32-R34, R36, R42, R46, R47 and R51. -/
def Obligations.IllegalWordTrapsWithItsLowestCause : Prop :=
  (∀ (i : Instr) (s : State) (f : Form) (b : State → Eff) (c : Nat), wordOf i s = some (f, b) → s.me.canIssue = true →
    c ∈ s.illCauses s.cur i f → (∀ d ∈ s.illCauses s.cur i f, c ≤ d) →
    ∃ r : FaultRec, r.cls = 0 ∧ r.cause = BitVec.ofNat 8 c ∧ r.npc = s.me.pc ∧ r.addr = s.me.pc ∧ r.iw = wordBits i ∧ r.defer = false ∧
      exec i s = .next (if s.me.pend = [] then s.takeTrap s.cur r else s.setStand s.cur { s.me with trapWait := some r })) ∧
  ∀ (f : A64) (s : State) (x : Nat),
    let c := s.myCopse
    let wide : Prop := tyBits f.ty.toNat = 64
    let bad9 (o : Opd) : Prop := (o.pk = true ∧ o.cl = false) ∨ (o.cl = true ∧ (64 ≤ o.num.toNat ∨ o.uf = true)) ∨ (c.maint = true ∧ (o.cl = true ∨ o.pk = true))
    let sHigh (o : Opd) : Prop := 128 ≤ o.num.toNat ∨ (c.uregs ≤ o.num.toNat ∧ 4 ≤ o.num.toNat)
    let vHigh (o : Opd) : Prop := c.vregs < o.num.toNat + 1 ∨ (wide ∧ (c.vregs < o.num.toNat + 2 ∨ o.num.toNat % 2 = 1))
    let src (o : Opd) : Prop := (x = 9 ∧ bad9 o) ∨ (x = 7 ∧ f.h.uni = true ∧ o.cl = false ∧ o.uf = false) ∨
      (x = 6 ∧ o.cl = false ∧ ((o.uf = true ∧ sHigh o) ∨ (o.uf = false ∧ f.h.uni = false ∧ vHigh o)))
    let dst (o : Opd) : Prop := (x = 9 ∧ bad9 o) ∨ (x = 7 ∧ o.cl = false ∧ f.h.uni ≠ o.uf) ∨
      (x = 6 ∧ o.cl = false ∧ ((o.uf = true ∧ f.h.uni = true ∧ sHigh o) ∨ (o.uf = false ∧ f.h.uni = false ∧ vHigh o)))
    let flags : Prop := match f.h.sch with
      | .heart wf sf => wf = 0xD ∨ wf = 0xE ∨ (12 ≤ sf.toNat ∧ sf.toNat ≤ 14)
      | .sap fsel _ => fsel = 3 ∨ (fsel = 1 ∧ ∃ h, s.me.clh = some h ∧ h.seta = 15) ∨ (fsel = 2 ∧ ∃ h, s.me.clh = some h ∧ h.setb = 15)
    x ∈ s.illCauses s.cur (.add f) (formAdd f) ↔
      (x = 3 ∧ 32 < s.me.pc.toNat % 32 + wordBytes (.add f)) ∨ (x = 4 ∧ f.md ≠ 0 ∧ (f.md ≠ 1 ∨ (8 ≤ f.ty.toNat ∧ f.ty.toNat ≤ 0x0B))) ∨
      (x = 5 ∧ 0x0B < f.ty.toNat) ∨ (x = 8 ∧ f.h.uni = true ∧ 4 ≤ f.h.gp.toNat ∧ f.h.gp.toNat ≤ 6) ∨ (x = 0xB ∧ flags) ∨
      (x = 0xA ∧ c.kind = .sap ∧ s.me.place = .afterClause) ∨ (x = 0xC ∧ c.kind = .sap ∧ s.me.place = .target) ∨ src f.sa ∨ src f.sb ∨ dst f.dst

/-- A guarded-off word (R29). -/
def Obligations.GuardedOffWordOnlyPasses : Prop :=
  ∀ (i : Instr) (s : State) (f : Form) (b : State → Eff), wordOf i s = some (f, b) →
    (f.h.uni = false → ∀ n, n < 128 → (s.me.part f.h).getLsbD n =
      (s.me.a.getLsbD n && ((s.me.pval f.h.gp.toNat).getLsbD n != f.h.gn))) ∧
    (f.h.uni = true → 4 ≤ f.h.gp.toNat → f.h.gp.toNat ≤ 6 → 8 ∈ s.illCauses s.cur i f) ∧
    s.me.qval 7 = true ∧
    (Issues s i → f.h.uni = true → (s.me.qval f.h.gp.toNat != f.h.gn) = false →
      ∃ t, exec i s = .next t ∧ LocalFrame s t ∧ t.me.pc = s.me.pc + BitVec.ofNat 64 (wordBytes i) ∧
      t.me.v = s.me.v ∧ t.me.sr = s.me.sr ∧ t.me.p = s.me.p ∧ t.me.q = s.me.q ∧ t.me.flags = s.me.flags ∧ t.me.pend = s.me.pend ∧
      t.coreAt s.myCoreKey = { s.myCore with lastHeavy := (t.coreAt s.myCoreKey).lastHeavy, lastYield := (t.coreAt s.myCoreKey).lastYield } ∧
      (f.control = false → SameStand s.me t.me))

/-- Words that wait (R35, R41-R43, R301). -/
def Obligations.HeldBackWordWaits : Prop :=
  ∀ (i : Instr) (s : State) (f : Form) (b : State → Eff), wordOf i s = some (f, b) →
    (s.me.canIssue = false → exec i s = .next s) ∧
    (s.me.canIssue = true → s.illCauses s.cur i f = [] →
      (s.blocked s.cur i f = true ∨
        ((f.h.uni = true → s.me.guard f.h = true) ∧ s.chanFault s.cur f = false ∧ s.chanReady s.cur f = false)) →
      ∃ why, exec i s = .next (s.setStand s.cur { s.me with stall := why }))

/-! ### Register instructions -/

/-- Integer arithmetic and the immediate forms on bit vectors (spec/06). -/
def Obligations.IntegerArithmeticResults : Prop :=
  ∀ (i : Instr) (s : State) (o : RegOp) (h : Head), (arithOp i).or (immOp i) = some o → i.head? = some h → Acts s i →
    ∃ t, exec i s = .next t ∧ t.me.pc = s.me.pc + BitVec.ofNat 64 (wordBytes i) ∧ ∀ lane ∈ resultLanes s.me h,
      written t s.cur h.uni (tyBits o.ty == 64) o.dst lane =
        landed h.uni (tyBits o.ty == 64) (outTy o.ty (o.val (s.srcs s.cur h.uni o.srcs).1 lane))

/-- Bit operations on bit vectors (spec/06). -/
def Obligations.BitOperationResults : Prop :=
  ∀ (i : Instr) (s : State) (o : RegOp) (h : Head), bitOp i = some o → i.head? = some h → Acts s i →
    ∃ t, exec i s = .next t ∧ t.me.pc = s.me.pc + BitVec.ofNat 64 (wordBytes i) ∧ ∀ lane ∈ resultLanes s.me h,
      written t s.cur h.uni (tyBits o.ty == 64) o.dst lane =
        landed h.uni (tyBits o.ty == 64) (outTy o.ty (o.val (s.srcs s.cur h.uni o.srcs).1 lane))

/-- The arithmetic of spec/07 on rationals (R160-R173), for the values that the words of R186, R187, R194 and R195 write. An integer beyond 2^53
converted to .f64 is rounded by RM (DESIGN CHOICE, log 94). -/
def Obligations.FloatArithmeticRoundsOnce : Prop :=
  ∀ (vs : List Src) (lane : Nat),
    let code (ty n : Nat) : Nat := (srcBits vs n (tyBits ty) lane).toNat
    let neg (ty c : Nat) : Nat := if signOf ty c = 1 then c - zeroOf ty 1 else c + zeroOf ty 1
    let value (i : Instr) (P : Nat → Prop) : Prop := ∃ o, floatOp i = some o ∧ P (o.val vs lane % 2 ^ tyBits o.ty)
    (∀ (f : A64) (ty : Nat), ty = f.ty.toNat → ty = 0x0C ∨ ty = 0x0D ∨ ty = 0x0E → f.md.toNat < 4 →
      let a := code ty 0
      let b := code ty 1
      value (.fadd f) (SumRule ty f.md.toNat a b) ∧ value (.fmul f) (ProductRule ty f.md.toNat a b) ∧
      (isNanOf ty b = false → value (.fsub f) (SumRule ty f.md.toNat a (neg ty b))) ∧
      value (.fsub f) (NanRule ty [a, b])) ∧
    (∀ f : A64, f.ty = 0x0F → f.md.toNat < 4 →
      value (.dadd f) (SumRule 0x0F f.md.toNat (code 0x0F 0) (code 0x0F 1)) ∧ value (.dmul f) (ProductRule 0x0F f.md.toNat (code 0x0F 0) (code 0x0F 1))) ∧
    (∀ (f : T96) (ty : Nat), ty = f.tyd.toNat → f.md.toNat < 4 →
      (ty = 0x0C ∨ ty = 0x0D ∨ ty = 0x0E → value (.ffma f) (FusedRule ty f.md.toNat (code ty 0) (code ty 1) (code ty 2))) ∧
      (ty = 0x0F → value (.dfma f) (FusedRule ty f.md.toNat (code ty 0) (code ty 1) (code ty 2))) ∧
      let ts := f.tys.toNat
      let c := code ts 0
      (floatTy ts → floatTy ty →
        (∀ x, floatVal ts c = some x → value (.cvt f) (fun r => (x ≠ 0 → RoundedTo ty f.md.toNat x r) ∧ (x = 0 → r = zeroOf ty (signOf ts c)))) ∧
        ((∃ s, s < 2 ∧ c = infOf ts s) → value (.cvt f) (fun r => r = infOf ty (signOf ts c))) ∧
        (isNanOf ts c = true → value (.cvt f) (fun r => isNanOf ty r = true ∧ signOf ty r = signOf ts c ∧
          r / 2 ^ ((floatFields ty).2 - 1) % 2 = 1))) ∧
      (ts < 8 → floatTy ty → let x : ℚ := (valueOf ts (srcBits vs 0 (tyBits ts) lane) : Int)
        value (.cvt f) (fun r => (x ≠ 0 → RoundedTo ty f.md.toNat x r) ∧ (x = 0 → r = 0))) ∧
      (floatTy ts → ty < 8 → value (.cvt f) (fun r =>
        (∀ x, floatVal ts c = some x → r = (BitVec.ofInt (tyBits ty) (clamp ty (roundedInt f.md.toNat x))).toNat) ∧
        (isNanOf ts c = true → r = 0) ∧
        (∀ s, s < 2 → c = infOf ts s → r = (BitVec.ofInt (tyBits ty) (if s = 1 then tyMin ty else tyMax ty)).toNat))))

/-- Float results in the terms of spec/07; LONG_LATENCY_COMPLETE writes the outstanding ones. -/
def Obligations.FloatResults : Prop :=
  ∀ (i : Instr) (s : State) (o : RegOp) (h : Head), floatOp i = some o → i.head? = some h → Acts s i →
    ∃ t, exec i s = .next t ∧ t.me.pc = s.me.pc + BitVec.ofNat 64 (wordBytes i) ∧
      (o.long = false → ∀ lane ∈ resultLanes s.me h,
        written t s.cur h.uni (tyBits o.ty == 64) o.dst lane =
          landed h.uni (tyBits o.ty == 64) (outTy o.ty (o.val (s.srcs s.cur h.uni o.srcs).1 lane))) ∧
      (o.long = true → t.me.v = s.me.v ∧
        (h.uni = false → s.me.part h = 0 → t.me.flags = s.me.flags ∧ t.me.sr = s.me.sr ∧
          let behind : Prop := o.dst.cl = true ∧ s.me.willPush o.dst.num.toNat = true
          (¬behind → t.me.pend.length = s.me.pend.length) ∧
          (behind → ∃ rest, t.me.pend = rest ++ [{ regPend h s o with flag := none }] ∧ rest.length = s.me.pend.length)) ∧
        (h.uni = true ∨ s.me.part h ≠ 0 → LeavesPending i s t (regPend h s o)))

/-- Completion (R41, R43). -/
def Obligations.LongLatencyOperationCompletes : Prop :=
  ∀ (s : State) (k n : Nat) (p : Pend), (s.standAt k).pend[n]? = some p → p.on = .ready →
    (s.copseAt (copseOf k)).life = .resident → (∀ q ∈ (s.standAt k).pend.take n, q.before p = false) →
    (p.vw.map Prod.fst).Nodup → (p.sw.map Prod.fst).Nodup →
    ∃ t, exec (.longLatencyComplete k n) s = .next t ∧
      (t.standAt k).pend = (s.standAt k).pend.eraseIdx n ∧
      (∀ key w, (key, w) ∈ p.vw → tget 0 (t.standAt k).v key = w ∨ (key ∈ p.vlost ∧ tget 0 (t.standAt k).v key = tget 0 (s.standAt k).v key)) ∧
      (∀ key, key ∉ p.vw.map Prod.fst → tget 0 (t.standAt k).v key = tget 0 (s.standAt k).v key) ∧
      (∀ key w, (key, w) ∈ p.sw → tget 0 (t.standAt k).sr key = w ∨ (key ∈ p.slost ∧ tget 0 (t.standAt k).sr key = tget 0 (s.standAt k).sr key)) ∧
      (∀ key, key ∉ p.sw.map Prod.fst → tget 0 (t.standAt k).sr key = tget 0 (s.standAt k).sr key) ∧
      (∀ m b, p.pw = [m] → b < 128 → let new := (tget 0 (t.standAt k).p m.1).getLsbD b
        let old := (tget 0 (s.standAt k).p m.1).getLsbD b
        new = (if m.2.1.getLsbD b then m.2.2.getLsbD b else old) ∨ (128 * m.1 + b ∈ p.plost ∧ new = old)) ∧
      (∀ m, p.qw = [m] → m.1 ∉ p.qlost → m.1 < 4 → (t.standAt k).q.getLsbD m.1 = m.2) ∧
      (∀ m, (t.standAt k).flag m = (s.standAt k).flag m - (if p.flag = some m ∧ m < 12 then 1 else 0)) ∧
      (∀ m es, p.ch = some (m, es) →
        (t.chanAt (s.coreOf k) m).entries = (s.chanAt (s.coreOf k) m).entries ++ es ∧
        (t.chanAt (s.coreOf k) m).held = (s.chanAt (s.coreOf k) m).held - es.length) ∧
      (∀ j, j ≠ k → t.standAt j = s.standAt j) ∧ SameMemory s t

/-- One predicate result. -/
def Obligations.PredicateResults : Prop :=
  ∀ (i : Instr) (s : State) (o : PredOp) (h : Head), predOp i = some o → i.head? = some h → Acts s i →
    ∃ t, exec i s = .next t ∧ t.me.pc = s.me.pc + BitVec.ofNat 64 (wordBytes i) ∧ t.me.v = s.me.v ∧ t.me.sr = s.me.sr ∧
      LocalFrame s t ∧ SameMemory s t ∧
      let val (lane : Nat) : Bool := o.val s (s.srcs s.cur h.uni o.srcs).1 lane
      (o.long = false →
        (∀ m, m ≠ o.n ∨ o.toQ = true → tget 0 t.me.p m = tget 0 s.me.p m) ∧
        (∀ m, m ≠ o.n ∨ o.toQ = false → m < 4 → t.me.q.getLsbD m = s.me.q.getLsbD m) ∧
        (o.toQ = true → o.n < 4 → t.me.q.getLsbD o.n = val 0) ∧
        (o.toQ = false → o.n = 7 → t.me.p = s.me.p) ∧
        (o.toQ = false → o.n ≠ 7 → ∀ lane, lane < 128 → (tget 0 t.me.p o.n).getLsbD lane =
          if (s.me.part h).getLsbD lane then val lane else (tget 0 s.me.p o.n).getLsbD lane)) ∧
      (o.long = true → h.uni = true ∨ s.me.part h ≠ 0 → t.me.p = s.me.p ∧ t.me.q = s.me.q ∧
        ∃ rest p, t.me.pend = rest ++ [p] ∧ p.on = .ready ∧
          (o.toQ = true → p.qw = [(o.n, val 0)]) ∧
          (o.toQ = false → o.n ≠ 7 → ∃ m, p.pw = [(o.n, s.me.part h, m)] ∧ ∀ lane ∈ lanes (s.me.part h), m.getLsbD lane = val lane))

/-- Carry chains (R146), choice, exchange and scaling (R153, R156, R193). -/
def Obligations.CarryAndSelectionResults : Prop :=
  (∀ (f : A64) (s : State) (sub : Bool), let i : Instr := if sub then .subc f else .addc f
     Acts s i →
     let w := tyBits f.ty.toNat
     let vs := (s.srcs s.cur f.h.uni [(f.sa, w == 64), (f.sb, w == 64)]).1
     let c := if f.h.uni then f.md.toNat else 4 + f.md.toNat
     let cin (lane : Nat) : Bool := if f.h.uni then s.me.qval c else (s.me.pval c).getLsbD lane
     let a (lane : Nat) : BitVec w := srcBits vs 0 w lane
     let b (lane : Nat) : BitVec w := srcBits vs 1 w lane
     let d (lane : Nat) : BitVec w :=
       if sub then a lane - b lane - (BitVec.ofBool (cin lane)).setWidth w else a lane + b lane + (BitVec.ofBool (cin lane)).setWidth w
     let cout (lane : Nat) : Bool :=
       if sub then decide ((a lane).toNat < (b lane).toNat + (cin lane).toNat)
       else decide (2 ^ w ≤ (a lane).toNat + (b lane).toNat + (cin lane).toNat)
     ∃ t, exec i s = .next t ∧ t.me.pc = s.me.pc + BitVec.ofNat 64 (wordBytes i) ∧ LocalFrame s t ∧ SameMemory s t ∧ SameStand s.me t.me ∧
       ∀ lane ∈ resultLanes s.me f.h,
         written t s.cur f.h.uni (w == 64) f.dst lane = landed f.h.uni (w == 64) (outTy f.ty.toNat (d lane).toNat) ∧
         (if f.h.uni then t.me.q.getLsbD c = cout 0 else (tget 0 t.me.p c).getLsbD lane = cout lane)) ∧
  (∀ (i : Instr) (s : State) (o : RegOp) (h : Head), pickOp i s = some o → i.head? = some h → Acts s i →
     ∃ t, exec i s = .next t ∧ t.me.pc = s.me.pc + BitVec.ofNat 64 (wordBytes i) ∧ ∀ lane ∈ resultLanes s.me h,
       written t s.cur h.uni (tyBits o.ty == 64) o.dst lane =
         landed h.uni (tyBits o.ty == 64) (outTy o.ty (o.val (s.srcs s.cur h.uni o.srcs).1 lane)))

/-- Masks and the first thread's value in s registers; K4O blocks, in the terms of spec/07's QPack and K4ODecode. -/
def Obligations.MaskFirstAndPackedResults : Prop :=
  (∀ (f : A64) (s : State),
     (Acts s (.actm f) → ∃ t, exec (.actm f) s = .next t ∧
       tget 0 t.me.sr (f.dst.num.toNat + 1) ++ tget 0 t.me.sr f.dst.num.toNat = (s.me.part f.h : BitVec (64 + 64)) ∧
       (∀ n, n ≠ f.dst.num.toNat → n ≠ f.dst.num.toNat + 1 → tget 0 t.me.sr n = tget 0 s.me.sr n) ∧
       t.me.v = s.me.v ∧ t.me.p = s.me.p ∧ t.me.q = s.me.q ∧ LocalFrame s t ∧ SameMemory s t) ∧
     (Acts s (.voteBallot f) → ∃ t, exec (.voteBallot f) s = .next t ∧
       tget 0 t.me.sr (f.dst.num.toNat + 1) ++ tget 0 t.me.sr f.dst.num.toNat =
         ((s.me.part f.h &&& s.me.pval f.sa.num.toNat : BitVec 128) : BitVec (64 + 64)) ∧
       (∀ n, n ≠ f.dst.num.toNat → n ≠ f.dst.num.toNat + 1 → tget 0 t.me.sr n = tget 0 s.me.sr n) ∧
       t.me.v = s.me.v ∧ t.me.p = s.me.p ∧ t.me.q = s.me.q ∧ LocalFrame s t ∧ SameMemory s t) ∧
     (Acts s (.movFirst f) → ∃ t, exec (.movFirst f) s = .next t ∧
       (∀ lane, (lanes (s.me.part f.h)).head? = some lane → tget 0 t.me.sr f.dst.num.toNat =
         ((srcBits (s.srcs s.cur false [(f.sa, tyBits f.ty.toNat == 64)]).1 0 (tyBits f.ty.toNat) lane).setWidth 64)) ∧
       (s.me.part f.h = 0 → t.me.sr = s.me.sr) ∧ (∀ n, n ≠ f.dst.num.toNat → tget 0 t.me.sr n = tget 0 s.me.sr n) ∧
       t.me.v = s.me.v ∧ t.me.p = s.me.p ∧ t.me.q = s.me.q ∧ LocalFrame s t ∧ SameMemory s t)) ∧
  (∀ (f : T96) (s : State),
     (Acts s (.qpack f) → ∃ t, exec (.qpack f) s = .next t ∧ LocalFrame s t ∧ SameMemory s t ∧ ∀ lane ∈ resultLanes s.me f.h,
       let a := (List.range 8).map (fun j => runVal s f.h.uni f.sa j lane)
       let r := qpackN a (srcN (s.srcs s.cur f.h.uni [(f.sb, false)]).1 0 lane) (f.md == 1)
       written t s.cur f.h.uni false f.dst lane = landed f.h.uni false (BitVec.ofNat 64 r.1) ∧
       written t s.cur f.h.uni false (runOpd f.dst 1) lane = landed f.h.uni false (BitVec.ofNat 64 r.2)) ∧
     (Acts s (.qunpack f) → ∃ t, exec (.qunpack f) s = .next t ∧ LocalFrame s t ∧ SameMemory s t ∧ ∀ lane ∈ resultLanes s.me f.h,
       let vs := (s.srcs s.cur f.h.uni [(f.sa, false), (f.sb, false), (f.sc, false)]).1
       let a := (srcBits vs 0 32 lane).toNat
       let c := (srcBits vs 2 32 lane).toNat
       (∀ j, j < 8 → written t s.cur f.h.uni false (runOpd f.dst j) lane =
         landed f.h.uni false (BitVec.ofNat 64 (qunpackN (f.md.extractLsb' 0 2).toNat a (srcN vs 1 lane) c j))) ∧
       (f.md.getLsbD 2 = true → let n := (f.md.extractLsb' 3 3).toNat
         (f.h.uni = true → t.me.q.getLsbD n = qunpackFf a (srcN vs 1 lane) c) ∧
         (f.h.uni = false → n ≠ 7 → (tget 0 t.me.p n).getLsbD lane = qunpackFf a (srcN vs 1 lane) c))))

/-- The frame of the register instructions. -/
def Obligations.RegisterInstructionFrame : Prop :=
  ∀ (i : Instr) (s : State) (o : RegOp) (h : Head), regOp i s = some o → i.head? = some h → Acts s i →
    let n := o.dst.num.toNat
    let wide := tyBits o.ty == 64
    ∃ t, exec i s = .next t ∧ LocalFrame s t ∧ SameStand s.me t.me ∧ SameMemory s t ∧ t.me.p = s.me.p ∧ t.me.q = s.me.q ∧
      (∀ key, ¬(h.uni = false ∧ o.dst.cl = false ∧ ∃ lane ∈ lanes (s.me.part h),
          key = 128 * n + lane ∨ (wide = true ∧ key = 128 * (n + 1) + lane)) → tget 0 t.me.v key = tget 0 s.me.v key) ∧
      (∀ key, ¬(h.uni = true ∧ o.dst.cl = false ∧ key = n) → tget 0 t.me.sr key = tget 0 s.me.sr key) ∧
      (∀ c, (o.dst.cl = true → c ≠ n) → (∀ x ∈ o.srcs, x.1.cl = true → c ≠ x.1.num.toNat) →
        t.chanAt s.myCoreKey c = s.chanAt s.myCoreKey c) ∧
      (o.long = false → t.me.flags = s.me.flags ∧ t.me.pend.length = s.me.pend.length) ∧
      ((t.me.pend.take s.me.pend.length).map (fun p => (p.flag, p.on, p.vw, p.sw, p.pw, p.qw, p.ch)) =
        s.me.pend.map (fun p => (p.flag, p.on, p.vw, p.sw, p.pw, p.qw, p.ch)))

/-! ### Control -/

/-- Branches and calls (R97-R99). -/
def Obligations.BranchesAndCallsTransferControl : Prop :=
  ∀ (i : Instr) (s : State), Acts s i →
    let n := wordBytes i
    let next := s.me.pc + BitVec.ofNat 64 n
    let goes (h : Head) (gs : List (Word64 × Mask)) (call : Bool) : Prop :=
      let p := s.me.part h
      let base : List Entry := if call then ⟨.call, some next, s.me.a &&& ~~~p⟩ :: s.me.stack else s.me.stack
      let rest : Mask := if call then 0 else s.me.a &&& ~~~p
      (gs = [] → EndsAt i s (s.me.pass n)) ∧
      ∀ g r, gs = g :: r →
        ((∃ x ∈ gs, x.1.extractLsb' 0 2 ≠ 0) → Traps i s 0 0x0D) ∧
        ((∀ x ∈ gs, x.1.extractLsb' 0 2 = 0) →
          let stack := r.reverse.foldl (fun k x => pushPend x.1 x.2 k) (pushPend next rest base)
          (32 < stack.length → Traps i s 1 1) ∧
          (stack.length ≤ 32 →
            let x := ({ s.me with pc := g.1, a := g.2, stack := stack }).afterTransfer
            EndsAt i s (if call = false ∧ g.1.toNat ≤ s.me.pc.toNat then x.rotate else x)))
    let one (h : Head) (tgt : Word64) : List (Word64 × Mask) := if s.me.part h = 0 then [] else [(tgt, s.me.part h)]
    let dests (f : A64) : List (Word64 × Mask) :=
      groupsOf (s.me.part f.h) (((s.srcs s.cur f.h.uni [(f.sa, true)]).1[0]?).getD (fun _ => 0))
    let indexed (f : A64) (call : Bool) : Prop :=
      ((∃ x ∈ dests f, x.1.extractLsb' 0 2 ≠ 0) → Traps i s 0 0x0D) ∧
      ((∀ x ∈ dests f, x.1.extractLsb' 0 2 = 0) →
        (carried (s.srcs s.cur f.h.uni [(f.sa, true)]).2 (dests f) = none → Traps i s 1 7) ∧
        ∀ gs, carried (s.srcs s.cur f.h.uni [(f.sa, true)]).2 (dests f) = some gs → goes f.h (regroup gs) call)
    (∀ f, i = .bra f → goes f.h (one f.h (s.me.pc + (f.imm.signExtend 64 <<< 2))) false) ∧
    (∀ f, i = .braFar f → goes f.h (one f.h f.imm) false) ∧
    (∀ f, i = .call f → goes f.h (one f.h (s.me.pc + (f.imm.signExtend 64 <<< 2))) true) ∧
    (∀ f, i = .callFar f → goes f.h (one f.h f.imm) true) ∧
    (∀ f, i = .brx f → indexed f false) ∧ (∀ f, i = .calx f → indexed f true)

/-- The helpers of R93, R94 and R105, on a stand. -/
def Obligations.DivergenceStackOperations : Prop :=
  ∀ (st : Stand) (pc : Word64) (m : Mask) (e : Entry) (r : List Entry),
    (m ≠ 0 → st.stack = e :: r → e.kind = .pend → e.pc = some pc → pushPend pc m st.stack = { e with mask := e.mask ||| m } :: r) ∧
    (m ≠ 0 → (∀ d ∈ st.stack.head?, d.kind ≠ .pend ∨ d.pc ≠ some pc) → pushPend pc m st.stack = ⟨.pend, some pc, m⟩ :: st.stack) ∧
    pushPend pc 0 st.stack = st.stack ∧
    (st.a ≠ 0 → st.stack = e :: r → e.kind = .pend → e.pc = some st.pc → (st.yc = 0 ∨ st.rb ≤ r.length) →
      st.afterTransfer.a = (st.a ||| e.mask) ∧ st.afterTransfer.stack = r ∧ st.afterTransfer.pc = st.pc) ∧
    (st.a = 0 ∨ (∀ d ∈ st.stack.head?, d.kind ≠ .pend ∨ d.pc ≠ some st.pc ∨ (st.yc ≠ 0 ∧ st.stack.length ≤ st.rb)) →
      st.afterTransfer = st) ∧
    (∀ dead a, st.stack = dead ++ e :: r → (∀ d ∈ dead, d.mask &&& ~~~st.exited = 0) → e.mask &&& ~~~st.exited ≠ 0 → e.pc = some a →
      st.resume.a = (e.mask &&& ~~~st.exited) ∧ st.resume.pc = a ∧ st.resume.stack = r ∧ st.resume.life = st.life) ∧
    ((∀ d ∈ st.stack, d.mask &&& ~~~st.exited = 0) → st.life = .live → st.resume.life = .ending ∧ st.resume.stack = []) ∧
    (∀ region below a, st.yc ≠ 0 → st.a ≠ 0 → st.stack = e :: (region ++ below) → below.length = st.rb → e.kind = .pend → e.pc = some a →
      st.stack.length < 32 →
      let stack := region ++ ⟨.pend, some st.pc, st.a⟩ :: below
      (e.mask &&& ~~~st.exited ≠ 0 → st.rotate.a = (e.mask &&& ~~~st.exited) ∧ st.rotate.pc = a ∧ st.rotate.stack = stack) ∧
      (e.mask &&& ~~~st.exited = 0 → st.rotate = Stand.resume { st with a := 0, stack := stack }))

/-- Arrivals (R100-R103). That AfterTransfer is applied to the path that a resume brings to run (`passOrResume`) is the model's choice (log 14). -/
def Obligations.ArrivalsLeaveTheRunningPath : Prop :=
  ∀ (f : A64) (s : State), let st := s.me
    let p := st.part f.h
    let add (r : List Entry) (j : Nat) (pc : Option Word64) : List Entry :=
      r.zipIdx.map (fun x => if x.2 = j then { x.1 with mask := x.1.mask ||| p, pc := pc.or x.1.pc } else x.1)
    (Acts s (.ret f) →
      (∀ j, st.stack.findIdx? (fun e => e.kind == .call) = some j →
        EndsAt (.ret f) s (({ st with stack := add st.stack j none, a := st.a &&& ~~~p }).passOrResume 8)) ∧
      ((∀ e ∈ st.stack, e.kind ≠ .call) → Traps (.ret f) s 1 5)) ∧
    (Acts s (.exit f) → EndsAt (.exit f) s (({ st with exited := st.exited ||| p, a := st.a &&& ~~~p }).passOrResume 8) ∧
      let last : Prop := st.life = .live ∧ st.a &&& ~~~p = 0
      ∃ t, exec (.exit f) s = .next t ∧ (last → t.me.exitPc = st.pc ∧ t.me.exitMask = p) ∧
        (¬last → t.me.exitPc = st.exitPc ∧ t.me.exitMask = st.exitMask)) ∧
    (Acts s (.join f) →
      (∀ j, st.stack.findIdx? (fun e => e.kind == .join) = some j →
        EndsAt (.join f) s (({ st with stack := add st.stack j (some (st.pc + 8)), a := st.a &&& ~~~p }).passOrResume 8)) ∧
      ((∀ e ∈ st.stack, e.kind ≠ .join) → Traps (.join f) s 1 4)) ∧
    (Acts s (.rwait f) →
      (∀ j, st.stack.findIdx? (fun e => e.kind == .token f.sa.num.toNat) = some j →
        EndsAt (.rwait f) s (({ st with stack := add st.stack j none, a := st.a &&& ~~~p }).passOrResume 8)) ∧
      ((∀ e ∈ st.stack, e.kind ≠ .token f.sa.num.toNat) → Traps (.rwait f) s 1 3))

/-- Structured and named reconvergence, and regions (R102-R105). -/
def Obligations.StackAndRegionInstructions : Prop :=
  ∀ (f : A64) (fi : I64) (s : State), let st := s.me
    let free (n : Nat) : Prop := ∀ e ∈ st.stack, e.kind ≠ .token n
    (Acts s (.split f) →
      (st.stack.length < 32 → EndsAt (.split f) s (({ st with stack := ⟨.join, none, 0⟩ :: st.stack }).pass 8)) ∧
      (32 ≤ st.stack.length → Traps (.split f) s 1 1)) ∧
    (Acts s (.rset fi) → let n := fi.dst.num.toNat
      (st.stack.length < 32 → free n → EndsAt (.rset fi) s
        (({ st with stack := ⟨.token n, some (st.pc + (fi.imm.signExtend 64 <<< 2)), 0⟩ :: st.stack }).pass 8)) ∧
      (32 ≤ st.stack.length → Traps (.rset fi) s 1 1) ∧
      (st.stack.length < 32 → ¬ free n → Traps (.rset fi) s 1 2)) ∧
    (Acts s (.rcancel f) → let n := f.sa.num.toNat
      (∀ above e below, st.stack = above ++ e :: below → e.kind = .token n → (∀ d ∈ above, d.kind ≠ .token n) →
        EndsAt (.rcancel f) s (({ st with stack := above ++ { e with kind := .pend } :: below }).pass 8)) ∧
      (free n → Traps (.rcancel f) s 1 3)) ∧
    (Acts s (.yieldL f) →
      (st.yc < 15 → EndsAt (.yieldL f) s (({ st with yc := st.yc + 1, rb := if st.yc = 0 then st.stack.length else st.rb }).pass 8)) ∧
      (st.yc = 15 → Traps (.yieldL f) s 1 6)) ∧
    (Acts s (.yieldLEnd f) →
      (0 < st.yc → EndsAt (.yieldLEnd f) s (({ st with yc := st.yc - 1 }).pass 8)) ∧ (st.yc = 0 → Traps (.yieldLEnd f) s 1 6))

/-- Slot, sleep and the words that are no instructions (R38, R39, R106, R107, R111). -/
def Obligations.YieldSleepAndMarkers : Prop :=
  ∀ (f : A64) (fi : I64) (h : Hdr) (m : Mark) (s : State), let st := s.me
    let c := s.copseAt (copseOf s.cur)
    let holds : Prop := st.gate = true ∧ ((c.move.state = .gather ∧ c.move.lapse < 65536) ∨ c.drain.isSome = true)
    (Acts s (.nop f) → EndsAt (.nop f) s (st.pass 8)) ∧
    (Acts s (.yield f) →
      (st.part f.h = 0 → EndsAt (.yield f) s (st.pass 8)) ∧
      (st.part f.h ≠ 0 → EndsAt (.yield f) s (st.pass 8).rotate ∧
        ∀ t, exec (.yield f) s = .next t → (t.coreAt s.myCoreKey).lastYield = some s.cur)) ∧
    (Acts s (.sleep fi) →
      (st.part fi.h = 0 → EndsAt (.sleep fi) s (st.pass 8)) ∧
      (st.part fi.h ≠ 0 → fi.imm = 0 → EndsAt (.sleep fi) s (st.pass 8).rotate) ∧
      (st.part fi.h ≠ 0 → fi.imm ≠ 0 → EndsAt (.sleep fi) s (({ st with wait := .sleep fi.imm.toNat }).pass 8))) ∧
    (st.canIssue = true → st.pc.toNat % 32 ≤ 24 → st.place ≠ .inClause → (∀ n, n < 12 → h.wait.getLsbD n = true → st.flag n = 0) →
      ∃ t, exec (.clauseHeader h) s = .next t ∧ SameMemory s t ∧
        (h.gpt = true → holds → t.me.held = true ∧ t.me.pc = st.pc) ∧
        (h.gpt = false ∨ ¬holds →
          t.me.pc = st.pc + 8 ∧ t.me.place = .inClause ∧ t.me.clh = some h ∧ t.me.clpos = 0 ∧ t.me.held = false ∧
          t.me.a = st.a ∧ t.me.stack = st.stack ∧ t.me.v = st.v ∧ t.me.sr = st.sr ∧ t.me.p = st.p ∧ t.me.q = st.q)) ∧
    (st.canIssue = true → st.pc.toNat % 32 ≤ 24 → (∀ n, n < 12 → st.flag n = 0) →
      ∃ t, exec (.markWord m) s = .next t ∧ SameMemory s t ∧
        (holds → t.me.held = true ∧ t.me.pc = st.pc) ∧
        (¬holds →
          t.me.pc = st.pc + 8 ∧ t.me.held = false ∧ t.me.a = st.a ∧ t.me.stack = st.stack ∧ t.me.v = st.v ∧ t.me.sr = st.sr))

/-! ### Work and graft -/

/-- Claims (R74-R76, R85); the moment at which the level registers change is the model's choice (log 26). -/
def Obligations.ClaimTakesTheNextTicket : Prop :=
  (∀ (f : A64) (s : State), Acts s (.claim f) →
    let st := s.stageOf (copseOf s.cur)
    let res (x : Word64) (b : Bool) (on : PendOn) : Pend :=
      { Pend.empty with on := on, sw := [(f.dst.num.toNat, x)], qw := [(f.sb.num.toNat, b)] }
    ((s.claimTicket s.cur).1 = none →
      ∃ t, LeavesPending (.claim f) s t (res 0 false .ready) ∧ t.me.ticket = s.me.ticket) ∧
    (∀ x, (s.claimTicket s.cur).1 = some x →
      let m := st.claimMask s.me.ticket x
      (s.me.ticket = none ∨ (s.release s.cur m).1 = true →
        ∃ t, LeavesPending (.claim f) s t (res (BitVec.ofNat 64 x) true (.claim (st.digitsOf x))) ∧ t.me.ticket = some x) ∧
      (s.me.ticket ≠ none → (s.release s.cur m).1 = false →
        ∃ t, exec (.claim f) s = .next t ∧ t.me.ticket = s.me.ticket ∧ t.me.pc = s.me.pc ∧ t.me.sr = s.me.sr ∧ t.me.pend = s.me.pend))) ∧
  (∀ (s : State) (k : Nat), let c := s.copseAt (copseOf k)
    let l := s.launchAt c.launch
    let st := l.stageAt c.stage
    (c.launch = 0 → (s.claimTicket k).1 = none) ∧
    (c.launch ≠ 0 → l.det = true →
      let n := st.cstands + 1
      let t := c.ord * n + k % 16 + (s.standAt k).claims * (st.detw * n)
      (s.claimTicket k).1 = (if t < st.tickets then some t else none) ∧ ((s.claimTicket k).2.standAt k).claims = (s.standAt k).claims + 1) ∧
    (c.launch ≠ 0 → l.det = false →
      let names (d : BitVec 3) : Prop := ∃ x ∈ st.claimed, x.2.dom = d
      let key := stageKey c.launch c.stage
      let r := s.claimTicket k
      let coreBlk (s : State) : Ranges := tget [] (s.coreAt c.core).block key
      let clusterBlk (s : State) : Ranges := tget [] (s.clusterAt (clusterOf c.core)).block key
      (names 2 → ∀ a b y, c.block = (a, b) :: y → a + 1 < b →
        r.1 = some a ∧ (r.2.copseAt (copseOf k)).block = (a + 1, b) :: y ∧ coreBlk r.2 = coreBlk s ∧ r.2.launches = s.launches) ∧
      (¬names 2 → names 3 → ∀ a b y, coreBlk s = (a, b) :: y → a + 1 < b →
        r.1 = some a ∧ coreBlk r.2 = (a + 1, b) :: y ∧ clusterBlk r.2 = clusterBlk s ∧ r.2.launches = s.launches) ∧
      (¬names 2 → ¬names 3 → names 4 → ∀ a b y, clusterBlk s = (a, b) :: y → a + 1 < b →
        r.1 = some a ∧ clusterBlk r.2 = (a + 1, b) :: y ∧ r.2.launches = s.launches) ∧
      (names 2 → names 3 → c.block = [] → ∀ a b y, coreBlk s = (a, b) :: y → 1 < st.blk 2 → a + st.blk 2 < b →
        r.1 = some a ∧ (r.2.copseAt (copseOf k)).block = [(a + 1, a + st.blk 2)] ∧ coreBlk r.2 = (a + st.blk 2, b) :: y) ∧
      (¬names 2 → ¬names 3 → ¬names 4 → c.stage < l.stages.length → let q := st.takeField (fieldOfCore c.core) 1
        (q.1 = none → r.1 = none) ∧ (r.2.stage c.launch c.stage).counters = q.2.counters ∧
        ∀ x t, (∀ f, (st.counter f).ok) → q.1 = some x → x.has t → r.1 = some t))) ∧
  (∀ (st : Stage) (f n : Nat), 0 < n → (∀ g, (st.counter g).ok) → (∀ g h t, g ≠ h → (st.counter g).has t → ¬(st.counter h).has t) →
    let q := st.takeField f n
    let next := (ringAfter f (st.counters.map Prod.fst)).find? (fun v => n ≤ (st.counter v).count)
    (n ≤ (st.counter f).count → ∃ x, q.1 = some x ∧ Parts n (st.counter f).has x (q.2.counter f) ∧ ∀ g, g ≠ f → q.2.counter g = st.counter g) ∧
    ((st.counter f).count < n → next = none → q = (none, st)) ∧
    (∀ v, (st.counter f).count < n → next = some v →
      let m := n * max 1 ((st.counter v).count / n / 2)
      ∃ x moved : Ranges, q.1 = some x ∧ moved.count = m ∧ (∀ t, (st.counter v).has t ↔ moved.has t ∨ (q.2.counter v).has t) ∧
        (∀ t u, moved.has t → (q.2.counter v).has u → u < t) ∧
        Parts n (fun t => (st.counter f).has t ∨ moved.has t) x (q.2.counter f) ∧ ∀ g, g ≠ f → g ≠ v → q.2.counter g = st.counter g)) ∧
  (∀ (s : State) (k n : Nat) (p : Pend) (ls : List (Nat × Nat)), (s.standAt k).pend[n]? = some p → p.on = .claim ls →
    (s.copseAt (copseOf k)).life = .resident → (∀ q ∈ (s.standAt k).pend.take n, q.before p = false) → (ls.map Prod.fst).Nodup →
    ∃ t, exec (.longLatencyComplete k n) s = .next t ∧
      (∀ l x, (l, x) ∈ ls → tget 0 (t.standAt k).lvl l = BitVec.ofNat 64 x) ∧
      (∀ l, l ∉ ls.map Prod.fst → tget 0 (t.standAt k).lvl l = tget 0 (s.standAt k).lvl l) ∧
      (∀ d x, p.sw = [(d, x)] → p.slost = [] → tget 0 (t.standAt k).sr d = x))

/-- Queue items going in (R78, R86). -/
def Obligations.EnqSendsItemsInOrder : Prop :=
  (∀ (f : A64) (s : State), Acts s (.enq f) →
    let c := s.myCopse
    let st := s.stageOf (copseOf s.cur)
    let g := st.segmentFor (fieldOfCore c.core)
    (s.me.part f.h = 0 → ∃ t, exec (.enq f) s = .next t ∧ LocalFrame s t ∧ t.me.pc = s.me.pc + 8) ∧
    (s.me.part f.h ≠ 0 → (s.launchAt c.launch).stages.length ≤ c.stage + 1 → Traps (.enq f) s 2 1) ∧
    (s.me.part f.h ≠ 0 → c.stage + 1 < (s.launchAt c.launch).stages.length →
      (f.h.uni = true → st.segFull g = true → ∃ why, exec (.enq f) s = .next (s.setStand s.cur { s.me with stall := why })) ∧
      (f.h.uni = true → st.segFull g = false → (s.release s.cur st.qscope).1 = true →
        ∃ t, exec (.enq f) s = .next t ∧ t.me.pc = s.me.pc + 8 ∧ t.me.sr = s.me.sr ∧
          (t.stage c.launch c.stage).seg g = st.seg g ++ [(s.release s.cur st.qscope).2.itemOf s.cur f st.itemBytes 0] ∧
          ∀ j, j ≠ g → (t.stage c.launch c.stage).seg j = st.seg j) ∧
      (f.h.uni = false → (s.release s.cur st.qscope).1 = true →
        ∃ t, exec (.enq f) s = .next t ∧ t.me.wait = .enq f (s.me.part f.h) ∧ t.me.enqDone = s.me.enqDone ∧ t.me.pc = s.me.pc ∧
          t.stage c.launch c.stage = st))) ∧
  (∀ (s : State) (k : Nat) (f : A64) (p : Mask) (lane : Nat), let c := s.copseAt (copseOf k)
    let st := s.stageOf (copseOf k)
    let g := st.segmentFor (fieldOfCore c.core)
    (s.standAt k).wait = .enq f p → c.life = .resident → c.stage < (s.launchAt c.launch).stages.length →
    (st.segFull g = true → exec (.enqItemPush k) s = .next s) ∧
    (st.segFull g = false → (lanes p)[(s.standAt k).enqDone]? = some lane →
      ∃ t, exec (.enqItemPush k) s = .next t ∧
        (t.stage c.launch c.stage).seg g = st.seg g ++ [s.itemOf k f st.itemBytes lane] ∧
        (∀ j, j ≠ g → (t.stage c.launch c.stage).seg j = st.seg j) ∧
        ((s.standAt k).enqDone + 1 < (lanes p).length →
          (t.standAt k).enqDone = (s.standAt k).enqDone + 1 ∧ (t.standAt k).wait = .enq f p ∧ (t.standAt k).pc = (s.standAt k).pc) ∧
        ((s.standAt k).enqDone + 1 = (lanes p).length → (t.standAt k).wait = .none ∧ (t.standAt k).pc = (s.standAt k).pc + 8)))

/-- Queue items coming out (R78, R87), and `qstat` (R88). -/
def Obligations.DeqTakesItemsInOrder : Prop :=
  (∀ (f : A64) (s : State), Acts s (.deq f) → (f.h.uni = true ∨ s.me.part f.h ≠ 0) →
    (s.myCopse.stage = 0 → ∃ t p, LeavesPending (.deq f) s t p ∧ p.on = .ready ∧ p.vw = [] ∧ p.sw = [] ∧
      (f.h.uni = true → p.qw = [(f.sb.num.toNat, false)]) ∧
      (f.h.uni = false → f.sb.num.toNat ≠ 7 → p.pw = [(f.sb.num.toNat, s.me.part f.h, 0)])) ∧
    (s.myCopse.stage ≠ 0 → ∃ t p, LeavesPending (.deq f) s t p ∧ p.on = .deq f s.me.spot)) ∧
  (∀ (s : State) (k n : Nat) (f : A64) (x : Spot) (p : Pend), (s.standAt k).pend[n]? = some p → p.on = .deq f x → f.h.uni = true →
    p.slost = [] → p.qlost = [] → p.ch = none → f.sb.num.toNat < 4 →
    let c := s.copseAt (copseOf k)
    let l := s.launchAt c.launch
    let st := l.stageAt (c.stage - 1)
    let g := fieldOfCore c.core
    c.life = .resident → c.stage - 1 < l.stages.length →
    (∀ j item rest, l.source st g = some j → st.seg j = item :: rest → ∃ t, exec (.longLatencyComplete k n) s = .next t ∧
      (∀ w, w < s.inBytes (copseOf k) / 8 →
        tget 0 (t.standAt k).sr (f.dst.num.toNat + w) = BitVec.ofNat 64 (natOf ((item.drop (8 * w)).take 8))) ∧
      (t.standAt k).q.getLsbD f.sb.num.toNat = true ∧ (t.stage c.launch (c.stage - 1)).seg j = rest ∧
      (∀ i, i ≠ j → (t.stage c.launch (c.stage - 1)).seg i = st.seg i) ∧ (t.standAt k).pend = (s.standAt k).pend.eraseIdx n) ∧
    (l.source st g = none → st.done = true → ∃ t, exec (.longLatencyComplete k n) s = .next t ∧
      (∀ w, w < s.inBytes (copseOf k) / 8 → tget 0 (t.standAt k).sr (f.dst.num.toNat + w) = 0) ∧
      (t.standAt k).q.getLsbD f.sb.num.toNat = false) ∧
    (l.source st g = none → st.done = false → exec (.longLatencyComplete k n) s = .next s)) ∧
  (∀ (s : State) (k n : Nat) (f : A64) (x : Spot) (p : Pend) (m old : Mask), (s.standAt k).pend[n]? = some p → p.on = .deq f x →
    f.h.uni = false → p.pw = [(f.sb.num.toNat, m, old)] → p.vlost = [] → p.plost = [] → p.ch = none → f.sb.num.toNat ≠ 7 →
    let c := s.copseAt (copseOf k)
    let l := s.launchAt c.launch
    let st := l.stageAt (c.stage - 1)
    let g := fieldOfCore c.core
    let gives (items : List (List Byte)) (t : State) : Prop := ∀ i lane, (lanes m)[i]? = some lane →
      (∀ w, w < s.inBytes (copseOf k) / 4 → tget 0 (t.standAt k).v (128 * (f.dst.num.toNat + w) + lane) =
        BitVec.ofNat 32 (natOf ((((items[i]?).getD []).drop (4 * w)).take 4))) ∧
      (tget 0 (t.standAt k).p f.sb.num.toNat).getLsbD lane = decide (i < items.length)
    c.life = .resident → c.stage - 1 < l.stages.length →
    (∀ j, l.source st g = some j → ∃ t, exec (.longLatencyComplete k n) s = .next t ∧ gives ((st.seg j).take (lanes m).length) t ∧
      (t.stage c.launch (c.stage - 1)).seg j = (st.seg j).drop (lanes m).length ∧
      (∀ i, i ≠ j → (t.stage c.launch (c.stage - 1)).seg i = st.seg i) ∧ (t.standAt k).pend = (s.standAt k).pend.eraseIdx n) ∧
    (l.source st g = none → st.done = true → ∃ t, exec (.longLatencyComplete k n) s = .next t ∧ gives [] t) ∧
    (l.source st g = none → st.done = false → exec (.longLatencyComplete k n) s = .next s)) ∧
  (∀ (f : A64) (s : State), Acts s (.qstat f) →
    let c := s.myCopse
    let l := s.launchAt c.launch
    let j := c.stage + f.md.toNat
    let st := l.stageAt (j - 1)
    let items := (st.seg (fieldOfCore c.core)).length
    let free := min (2 ^ st.qlog - items) 0xFFFF
    let value : Word64 := if j = 0 ∨ l.stages.length ≤ j then 0x8000000000000000
      else BitVec.ofBool st.done ++ BitVec.ofBool (st.counters.all (fun x => x.2 == [])) ++ (0 : BitVec 14) ++ BitVec.ofNat 16 free ++
        BitVec.ofNat 32 items
    ∃ t, LeavesPending (.qstat f) s t { Pend.empty with sw := [(f.dst.num.toNat, value)] } ∧ LocalFrame s t ∧ SameMemory s t)

/-- The gate and move requests (R129-R136). That a graft map which cannot be read counts as invalid, reason 3, is the model's reading (log 77). -/
def Obligations.GraftGateAndMoveRequests : Prop :=
  ∀ (f : A64) (s : State), let c := s.myCopse
    let me := copseOf s.cur
    let st := s.stageOf me
    let ends (i : Instr) (m : Move) : Prop :=
      ∃ t, exec i s = .next t ∧ t.me.pc = s.me.pc + 8 ∧ (t.copseAt me).move = m ∧
        (m = c.move ∨ ∀ k ∈ s.standsOf me, (t.standAt k).held = false) ∧ SameMemory s t ∧ t.me.v = s.me.v ∧ t.me.sr = s.me.sr
    let asks (i : Instr) (k : Kind) : Prop :=
      (c.launch = 0 → ends i c.move) ∧
      (c.launch ≠ 0 →
        (k = c.kind → ends i ⟨none, .none, 0, c.move.moves, 0, none⟩) ∧
        (k ≠ c.kind → st.allows k = false → ends i ⟨none, .refused, 1, c.move.moves, 0, none⟩) ∧
        (k ≠ c.kind → st.allows k = true → st.gmap = 0 → ends i ⟨none, .refused, 2, c.move.moves, 0, none⟩) ∧
        (k ≠ c.kind → st.allows k = true → st.gmap ≠ 0 → s.graftTable c.vi st = none →
          ends i ⟨none, .refused, 3, c.move.moves, 0, none⟩) ∧
        (k ≠ c.kind → st.allows k = true → st.gmap ≠ 0 → s.graftTable c.vi st ≠ none →
          ((c.move.state = .pending ∨ c.move.state = .gather) ∧ c.move.tgt = some k → ends i c.move) ∧
          (¬((c.move.state = .pending ∨ c.move.state = .gather) ∧ c.move.tgt = some k) →
            ends i ⟨some k, .pending, 0, c.move.moves, 0, none⟩)))
    (Acts s (.graftShut f) → ∃ t, exec (.graftShut f) s = .next t ∧ LocalFrame s t ∧ t.me.gate = false ∧ t.me.pc = s.me.pc + 8) ∧
    (Acts s (.graftOpen f) → ∃ t, exec (.graftOpen f) s = .next t ∧ LocalFrame s t ∧ t.me.gate = true ∧ t.me.pc = s.me.pc + 8) ∧
    (Acts s (.migrHeart f) → asks (.migrHeart f) .heart) ∧ (Acts s (.migrSap f) → asks (.migrSap f) .sap) ∧
    (Acts s (.migrCancel f) → ends (.migrCancel f) (if c.launch = 0 then c.move else ⟨none, .none, 0, c.move.moves, 0, none⟩)) ∧
    (Acts s (.migrQ f) →
      let held := ((s.standsOf me).filter (fun j => (s.standAt j).held && (s.standAt j).exited != allLanes)).length
      let code (k : Kind) : BitVec 2 := match k with | .sap => 1 | .heart => 2
      let value : Word64 := (if c.move.moves = 0 then (0 : BitVec 16) else s.me.lgid) ++ c.move.moves ++ BitVec.ofNat 16 held ++
        (if c.move.state = .refused then c.move.reason else (0 : BitVec 8)) ++ (0 : BitVec 1) ++ BitVec.ofNat 3 c.move.state.code ++
        (match c.move.tgt with | none => (0 : BitVec 2) | some k => code k) ++ code c.kind
      held < 2 ^ 16 → ∃ t, LeavesPending (.migrQ f) s t { Pend.empty with sw := [(f.dst.num.toNat, value)] } ∧ LocalFrame s t ∧ SameMemory s t)

/-! ### Memory accesses -/

/-- Global and constant loads (R266, R268). The ADDR and AKIND of the first failing thread (log 30), one page request per 64 KiB page (log 10), the
cause of the first failing access (log 18) and the contents that a constant load may return (log 21) are the model's readings. -/
def Obligations.GlobalLoadsReadMemory : Prop :=
  ∀ (f : M96) (s : State),
    let n := M96.eb f * M96.count f
    let xs := s.eas f.h f.ab (M96.ofsInt f) true
    let ys := translated (s.xlateAll s.cur .read xs)
    let acts := f.h.uni = true ∨ s.me.part f.h ≠ 0
    let stops (i : Instr) : Prop :=
      (∀ x, xs.find? (fun x => x.2 % n != 0) = some x → AccessTraps i s 4 1 x.2 1) ∧
      ((∀ x ∈ xs, x.2 % n = 0) → TranslationTraps i s .read 1 xs ∧ HoldsOnPages i s .read xs)
    (Acts s (.ldG f) → stops (.ldG f) ∧
      ((∀ x ∈ xs, x.2 % n = 0) → AllTranslate s .read xs → (∀ y ∈ ys, s.loadWaits s.myCoreKey f.sm y.2.2 n = false) →
        (acts → ∃ t p tbl, LeavesPending (.ldG f) s t p ∧ p.on = .ready ∧ Delivers f (xs.map Prod.fst) tbl p ∧
          (∀ y ∈ ys, Settled s s.myCoreKey (y.2.2 / 128) → ∀ j, j < M96.count f →
            tget 0 tbl (4 * y.1 + j) = loadView s s.myCoreKey f.sm (y.2.2 + j * M96.eb f) (M96.eb f)) ∧
          AccessFrame s t ∧ t.myCopse = s.myCopse ∧ (∀ pa b, Holds t pa b → Holds s pa b) ∧
          ∀ core pa, (∀ y ∈ ys, y.2.2 / 128 ≠ pa / 128) → (core ≠ s.myCoreKey ∨ f.ord = 0) → byteSeen t core pa = byteSeen s core pa) ∧
        (¬acts → ∃ t, PassesIdle (.ldG f) s t f.dr))) ∧
    (Acts s (.ldC f) → stops (.ldC f) ∧
      ((∀ x ∈ xs, x.2 % n = 0) → AllTranslate s .read xs → (∀ y ∈ ys, s.stagedLine (y.2.2 / 128) = false) →
        (acts → ∃ t p tbl, LeavesPending (.ldC f) s t p ∧ p.on = .ready ∧ Delivers f (xs.map Prod.fst) tbl p ∧
          (∀ y ∈ ys, ∀ j, j < M96.count f →
            tget 0 tbl (4 * y.1 + j) ∈ s.constView s.cur (y.2.2 + j * M96.eb f) (M96.eb f)) ∧
          AccessFrame s t ∧ t.myCopse = s.myCopse ∧ SameMemory s t) ∧
        (¬acts → ∃ t, PassesIdle (.ldC f) s t f.dr)))

/-- Global stores (R255, R266, R300) and prefetch (R268). The ADDR and AKIND of the first failing thread (log 30), one page request per 64 KiB page
(log 10) and the cause of the first failing access (log 18) are the model's readings. -/
def Obligations.GlobalStoresWriteMemory : Prop :=
  (∀ (f : M96) (s : State), Acts s (.stG f) →
    let n := M96.eb f * M96.count f
    let xs := s.eas f.h f.ab (M96.ofsInt f) true
    let es := s.storeElems f xs
    let vas := es.map (fun e => (e.1, e.2.1))
    let ws := writesOf es (translated (s.xlateAll s.cur .write vas))
    let mine := s.myCoreKey
    (∀ x, xs.find? (fun x => x.2 % n != 0) = some x → AccessTraps (.stG f) s 4 1 x.2 2) ∧
    (xs = [] → ∃ t, PassesWith (.stG f) s t ∧ SameMemory s t) ∧
    ((∀ x ∈ xs, x.2 % n = 0) → TranslationTraps (.stG f) s .write 2 vas ∧
      (f.ord ≠ 0 → HoldsOnPages (.stG f) s .write vas) ∧
      (f.ord = 0 → AllTranslate s .write vas → s.me.fenceM = none → (∀ w ∈ ws, s.storeWaits f.sm w.1 = false) →
        ∃ t, PassesWith (.stG f) s t ∧ AccessFrame s t ∧ t.myCopse = s.myCopse ∧
          (∀ pa b, Holds t pa b → Holds s pa b ∨ ∃ w ∈ ws, w.1 ≤ pa ∧ pa < w.1 + w.2.1) ∧
          (∀ core pa, (∀ w ∈ ws, w.1 / 128 ≠ pa / 128) → byteSeen t core pa = byteSeen s core pa) ∧
          ((∀ w ∈ ws, Settled s mine (w.1 / 128)) →
            (∀ pa, byteSeen t mine pa = match lastByte ws pa with | some b => b.toNat | none => byteSeen s mine pa) ∧
            (maskNarrow f.sm = true → (∀ w ∈ ws, isWindow w.1 = false) → ∀ core pa, core ≠ mine → byteSeen t core pa = byteSeen s core pa) ∧
            (maskNarrow f.sm = false → ∀ pa b, lastByte ws pa = some b → t.homeGet pa = b))) ∧
      (f.ord = 0 → SideLogs (.stG f) s f.h.uni es f.sm none (PassesWith (.stG f) s)) ∧
      (f.ord ≠ 0 → xs ≠ [] → AllTranslate s .write vas → s.me.fenceM = none → (∀ w ∈ ws, s.storeWaits f.sm w.1 = false) →
        let r := (s.keepTlb s.cur (s.xlateAll s.cur .write vas)).release s.cur f.sm
        (r.1 = false → ∃ t, WaitsWith (.stG f) s t ∧ ∀ pa b, Holds t pa b → Holds s pa b) ∧
        (r.1 = true → ∃ t, PassesWith (.stG f) s t ∧ AccessFrame s t ∧ t.myCopse = s.myCopse ∧
          (∀ pa b, Holds t pa b → Holds s pa b ∨ ∃ w ∈ ws, w.1 ≤ pa ∧ pa < w.1 + w.2.1) ∧
          ((∀ line, Settled s mine line) → ∀ pa b, lastByte ws pa = some b → byteSeen t mine pa = b.toNat))))) ∧
  (∀ (f : M96) (s : State), Acts s (.prf f) →
    let ys := translated (s.xlateAll s.cur .read (s.eas f.h f.ab (M96.ofsInt f) true))
    ∃ t, PassesWith (.prf f) s t ∧ t.myCopse = s.myCopse ∧ (∀ pa b, Holds t pa b → Holds s pa b) ∧
      (∀ core pa, core ≠ s.myCoreKey ∨ (∀ y ∈ ys, y.2.2 / 128 ≠ pa / 128) → byteSeen t core pa = byteSeen s core pa))

/-- Scratchpad loads and stores (R265, R267); the ADDR of the first failing thread is the model's reading (log 30). -/
def Obligations.ScratchpadLoadsAndStores : Prop :=
  ∀ (f : M96) (s : State),
    let n := M96.eb f * M96.count f
    let xs := s.eas f.h f.ab (M96.ofsInt f) false
    let c := s.myCopse
    let cause (a : Nat) : Nat := if a % n ≠ 0 then 1 else if 128 * c.alloc < a + n then 2
      else if ∃ l ∈ linesOf a n, (c.lineAt l).full = false ∧ (c.lineAt l).filler = none then 3 else 0
    let ls := linesMet n xs
    let touched (i : Instr) : State := ls.foldl (fun s l => s.touchBy s.cur i f.h.uni (xs.map Prod.fst) l) s
    let traps (i : Instr) (akind : Nat) : Prop :=
      ∀ m x, m ≠ 0 → xs.find? (fun x => cause x.2 == m) = some x → (∀ y ∈ xs, cause y.2 = 0 ∨ m ≤ cause y.2) →
        AccessTraps i s 4 m x.2 akind
    let ok : Prop := ∀ x ∈ xs, cause x.2 = 0
    let full (i : Instr) : Prop := ∀ l ∈ ls, ((touched i).myCopse.lineAt l).full = true
    let waits (i : Instr) : Prop := ∃ t, WaitsWith i s t ∧ SameMemory s t ∧ t.myCopse.scratch = c.scratch ∧
      ∀ l ∈ ls, (t.myCopse.lineAt l).touched = true ∨ (t.myCopse.lineAt l).region = 0 ∨ s.engineRoom (copseOf s.cur) ls.length = false
    (Acts s (.ldS f) → traps (.ldS f) 1 ∧
      (ok → ¬full (.ldS f) → waits (.ldS f)) ∧
      (ok → full (.ldS f) →
        ((f.h.uni = true ∨ s.me.part f.h ≠ 0) → ∃ t p tbl, LeavesPending (.ldS f) s t p ∧ p.on = .ready ∧ Delivers f (xs.map Prod.fst) tbl p ∧
          (∀ x ∈ xs, ∀ j, j < M96.count f → tget 0 tbl (4 * x.1 + j) = memRead c.scratch (x.2 + j * M96.eb f) (M96.eb f)) ∧
          AccessFrame s t ∧ SameMemory s t ∧ t.myCopse.scratch = c.scratch) ∧
        (f.h.uni = false → s.me.part f.h = 0 → ∃ t, PassesIdle (.ldS f) s t f.dr))) ∧
    (Acts s (.stS f) →
      let es := s.storeElems f xs
      let ws := es.map (fun e => (e.2.1, e.2.2.1, e.2.2.2))
      let marked (a : Nat) : Bool := (linesOf a n).any (fun l => (c.lineAt l).bm)
      let plain := ∀ x ∈ xs, marked x.2 = false
      let r := (touched (.stS f)).release s.cur f.sm
      traps (.stS f) 2 ∧ (xs = [] → ∃ t, PassesWith (.stS f) s t ∧ SameMemory s t ∧ t.myCopse = c) ∧
      (ok → ∀ x, xs.find? (fun x => marked x.2) = some x → AccessTraps (.stS f) s 5 1 x.2 2) ∧
      (ok → plain → ¬full (.stS f) → waits (.stS f)) ∧
      (ok → plain → xs ≠ [] → full (.stS f) → f.ord ≠ 0 → r.1 = false → ∃ t, WaitsWith (.stS f) s t ∧ SameMemory s t ∧ t.myCopse.scratch = c.scratch) ∧
      (ok → plain → xs ≠ [] → full (.stS f) → (f.ord = 0 ∨ r.1 = true) → ∃ t, PassesWith (.stS f) s t ∧ ScratchFrame s t ∧ SameMemory s t ∧
        (∀ a, memGet t.myCopse.scratch a = (lastByte ws a).getD (memGet c.scratch a)) ∧
        ∀ l, let wb := match c.regionOf l with | none => false | some (_, r) => r.mode != 1
          (t.myCopse.lineAt l).full = (c.lineAt l).full ∧
          ∀ o, o < 128 → (t.myCopse.lineAt l).dirty.getLsbD o =
            ((c.lineAt l).dirty.getLsbD o || (wb && (lastByte ws (128 * l + o)).isSome))))

/-- Regions (R259-R262, R269-R271) and the layer step (R272). -/
def Obligations.RegionsAndLayerStep : Prop :=
  ∀ (f : A64) (w : W128) (s : State), let c := s.myCopse
    let addr := srcN (s.srcs s.cur true [(f.sa, true)]).1 0 0
    let room := 256 - s.engineLoad (copseOf s.cur)
    (Acts s (.smap w) →
      let vs := (s.srcs s.cur true [(w.sa, true), (w.sb, true)]).1
      let soff := srcN vs 0 0
      let va := srcN vs 1 0
      let len := w.imm.toNat % 2 ^ 17
      let ls := linesOf soff len
      let status := if 8 ≤ c.regions.length then 1
        else if soff % 128 ≠ 0 ∨ len % 128 ≠ 0 ∨ len = 0 ∨ 65536 < len ∨ 128 * c.alloc < soff + len then 2
        else if ∃ e ∈ c.regions, soff < e.2.soff + e.2.len ∧ e.2.soff < soff + len then 3
        else if (∃ l ∈ ls, (c.lineAt l).bm = true) ∨ ∃ l ∈ ls, (c.lineAt l).full = false ∧ (c.lineAt l).filler ≠ none then 4
        else if va % 128 ≠ 0 ∨ 2 ^ 57 < va + len then 5 else 0
      ∃ t, exec (.smap w) s = .next t ∧ t.me.pc = s.me.pc + 16 ∧ t.me.v = s.me.v ∧ t.me.p = s.me.p ∧ t.me.q = s.me.q ∧ SameMemory s t ∧
        (∀ n, tget 0 t.me.sr n = if n = w.dst.num.toNat then BitVec.ofNat 64 status else tget 0 s.me.sr n) ∧
        (status ≠ 0 → t.myCopse = c) ∧
        (status = 0 → ∃ n, n < 8 ∧ (tfind n c.regions).isNone ∧ (∀ m, m < n → (tfind m c.regions).isSome) ∧
          tfind n t.myCopse.regions = some ⟨soff, len, va, w.md.setWidth 2, BitVec.ofNat 8 (w.imm.toNat / 2 ^ 17)⟩ ∧
          (∀ m, m ≠ n → tfind m t.myCopse.regions = tfind m c.regions) ∧
          (∀ l, t.myCopse.lineAt l = if l ∈ ls then
            (if w.md = 2 then ⟨true, false, true, none, n + 1, 0⟩ else ⟨false, false, false, some .region, n + 1, 0⟩) else c.lineAt l) ∧
          ∀ a, memGet t.myCopse.scratch a = if soff ≤ a ∧ a < soff + len then 0 else memGet c.scratch a)) ∧
    (Acts s (.sunmap f) →
      (c.regionAtOff addr = none → ∃ t, PassesWith (.sunmap f) s t ∧ t.myCopse = c ∧ SameMemory s t) ∧
      ∀ n r, c.regionAtOff addr = some (n, r) →
        let dirty := r.lines.filter (fun l => r.mode != 1 && (c.lineAt l).dirty != 0)
        ((∃ x ∈ c.fills, x.line ∈ r.lines) → ∃ t, WaitsWith (.sunmap f) s t ∧ t.myCopse = c ∧ SameMemory s t) ∧
        ((∀ x ∈ c.fills, x.line ∉ r.lines) → f.md = 0 → dirty ≠ [] → ∃ t, WaitsWith (.sunmap f) s t ∧ SameMemory s t ∧
          t.myCopse = { c with fills := c.fills ++ (dirty.take room).map (fun l => ⟨l, some s.cur, none, []⟩) }) ∧
        ((∀ x ∈ c.fills, x.line ∉ r.lines) → (f.md ≠ 0 ∨ dirty = []) → ∃ t, PassesWith (.sunmap f) s t ∧ SameMemory s t ∧
          t.myCopse.regions = tdel n c.regions ∧
          (∀ l, t.myCopse.lineAt l = if l ∈ r.lines then
            (if (c.lineAt l).touched then { c.lineAt l with region := 0, dirty := 0 } else LineSt.init)
            else c.lineAt l) ∧
          ∀ a, memGet t.myCopse.scratch a = if a / 128 ∈ r.lines ∧ (c.lineAt (a / 128)).touched = false then 0 else memGet c.scratch a)) ∧
    (Acts s (.swb f) →
      (c.regionAtOff addr = none → ∃ t, PassesWith (.swb f) s t ∧ t.myCopse = c ∧ SameMemory s t) ∧
      ∀ n r, c.regionAtOff addr = some (n, r) →
        let dirty := r.lines.filter (fun l => r.mode != 1 && (c.lineAt l).dirty != 0)
        let new := dirty.filter (fun l => !c.fills.any (fun x => x.line == l && x.wb.isSome))
        let after : Copse := { c with fills := c.fills ++ new.map (fun l => ⟨l, some s.cur, none, []⟩) }
        let waits : Prop := s.logged s.cur = true ∨ s.me.fenceM ≠ none ∨ (maskFull r.mask ≠ maskCO ∧ s.flushHeld s.myCoreKey = true)
        (waits → ∃ t, WaitsWith (.swb f) s t ∧ t.myCopse = c ∧ SameMemory s t) ∧
        (¬waits → room < new.length → ∃ t, WaitsWith (.swb f) s t ∧ SameMemory s t ∧
          t.myCopse = { c with fills := c.fills ++ (new.take room).map (fun l => ⟨l, some s.cur, none, []⟩) }) ∧
        let n := s.me.issues
        let flagged : Prop := s.me.flagOf f.h.sch < 12
        let ends (t : State) : Prop := (flagged → LeavesPending (.swb f) s t { Pend.empty with on := .swb n }) ∧ (¬flagged → PassesWith (.swb f) s t)
        let u := s.releaseNow s.cur r.mask false
        (¬waits → new.length ≤ room → s.engineLoad (copseOf s.cur) ≤ 256 → (∀ x ∈ s.me.swbs, x.lines ≠ [] ∧ x.word ≠ n) →
          (∀ p ∈ s.me.pend, p.on ≠ .swb n) →
          (dirty ≠ [] → ∃ t, ends t ∧ t.myCopse = after ∧ SameMemory s t ∧ t.me.swbs = s.me.swbs ++ [⟨n, r.mask, dirty, false⟩]) ∧
          (dirty = [] → u.me.markers ≠ [] → ∃ t, ends t ∧ t.myCopse = c ∧ t.me.swbs = s.me.swbs ++ [⟨n, r.mask, [], true⟩] ∧
            t.me.markers = u.me.markers ∧ (∀ pa b, Holds t pa b → Holds s pa b)) ∧
          (dirty = [] → u.me.markers = [] → ∃ t, PassesWith (.swb f) s t ∧ t.myCopse = c ∧ t.me.swbs = s.me.swbs ∧
            (∀ pa b, Holds t pa b → Holds s pa b)))) ∧
    (Acts s (.lstep f) → let l := s.myLaunch
      let x := addr % 2 ^ 32
      ∃ t, PassesWith (.lstep f) s t ∧ SameMemory s t ∧ t.copses = s.copses ∧ (∀ n, n ≠ c.launch → t.launchAt n = s.launchAt n) ∧
        t.myLaunch = if c.launch ≠ 0 ∧ l.sigma.toNat < x
          then { l with sigma := BitVec.ofNat 32 x, kept := t.myLaunch.kept, passed := t.myLaunch.passed } else l)

/-- First-touch fills and write-backs (R261, R262). When the release of an `swb` goes on is the model's reading (log 81). -/
def Obligations.RegionLinesFillAndWriteBack : Prop :=
  ∀ (copse l : Nat) (s : State) (x : Fill) (n : Nat) (r : Region), let c := s.copseAt copse
    let va := r.va + (128 * l - r.soff)
    c.life = .resident → c.regionOf l = some (n, r) → x.req = none →
    (c.fillOf l false = some x →
      (∀ pa e, s.xlate copse .read va = .ok (pa, e) → let line := pa / 128
        (s.stagedLine line = true → ∃ t, exec (.regionFill copse l) s = .next t ∧ t.copses = s.copses ∧ t.stands = s.stands ∧ SameMemory s t) ∧
        (s.stagedLine line = false → s.pageLogged c.core [(0, va)] = false → Settled s c.core line → LineForm (s.lineBytes line) →
          ∃ t, exec (.regionFill copse l) s = .next t ∧ (t.copseAt copse).fills = c.fills.erase x ∧
            (∀ a, a / 128 = l → (memGet (t.copseAt copse).scratch a).toNat = loadView s c.core r.mask (128 * line + a % 128) 1) ∧
            (∀ a, a / 128 ≠ l → memGet (t.copseAt copse).scratch a = memGet c.scratch a) ∧
            (∀ j, j ≠ l → (t.copseAt copse).lineAt j = c.lineAt j) ∧
            ((t.copseAt copse).lineAt l = if (c.lineAt l).filler = some .region then { c.lineAt l with full := true, filler := none }
              else c.lineAt l) ∧
            (∀ k, ∃ ps, t.standAt k = { s.standAt k with paths := ps }) ∧ (∀ b q, Holds t b q → Holds s b q) ∧
            (maskNarrow r.mask = true → t.stands = s.stands ∧ SameMemory s t))) ∧
      (∀ cause, s.xlate copse .read va = .fault cause → cause = 2 ∨ cause = 3 →
        ∃ t id, exec (.regionFill copse l) s = .next t ∧ { x with req := some id } ∈ (t.copseAt copse).fills ∧
          (t.copseAt copse).scratch = c.scratch ∧ t.stands = s.stands ∧ SameMemory s t)) ∧
    (∀ k, x.wb = some k → c.fillOf l true = some x →
      (∀ pa e, s.xlate copse .write va = .ok (pa, e) → let line := pa / 128
        let put (a : Nat) : Prop := a / 128 = line ∧ (c.lineAt l).dirty.getLsbD (a % 128) = true
        (s.stagedLine line = true → ∃ t, exec (.regionWriteBack copse l) s = .next t ∧ t.copses = s.copses ∧ t.stands = s.stands ∧ SameMemory s t) ∧
        (s.stagedLine line = false → s.pageLogged c.core [(0, va)] = false → Settled s c.core line →
          (∀ j ∈ s.standsOf copse, (s.standAt j).fenceM = none ∧ ∀ y ∈ (s.standAt j).swbs, ∃ m ∈ y.lines, m ≠ l) →
          ∃ t, exec (.regionWriteBack copse l) s = .next t ∧ (t.copseAt copse).fills = c.fills.erase x ∧
            (∀ j ∈ s.standsOf copse, (t.standAt j).swbs = (s.standAt j).swbs.map (fun y => { y with lines := y.lines.filter (fun m => m != l) })) ∧
            (t.copseAt copse).scratch = c.scratch ∧ (t.copseAt copse).lineAt l = { c.lineAt l with dirty := 0 } ∧
            (∀ a, put a → byteSeen t c.core a = (memGet c.scratch (128 * l + a % 128)).toNat) ∧
            (∀ a, ¬put a → byteSeen t c.core a = byteSeen s c.core a) ∧
            (maskNarrow r.mask = true → isWindow pa = false → ∀ core a, core ≠ c.core → byteSeen t core a = byteSeen s core a) ∧
            (maskNarrow r.mask = false → ∀ a, put a → t.homeGet a = memGet c.scratch (128 * l + a % 128))) ∧
        (s.stagedLine line = false → s.pageLogged c.core [(0, va)] = false → k ∈ s.standsOf copse →
          (∀ j ∈ s.standsOf copse, (s.standAt j).fenceM = none ∧ (j ≠ k → (s.standAt j).swbs = [])) →
          ∀ y, (s.standAt k).swbs = [y] → y.lines = [l] → ∃ t, exec (.regionWriteBack copse l) s = .next t ∧
            (((t.standAt k).swbs = [] ∧ (t.standAt k).markers = [] ∧ ∀ p ∈ (t.standAt k).pend, p.on ≠ .swb y.word) ∨
              ((t.standAt k).swbs = [{ y with lines := [], sent := true }] ∧ (t.standAt k).markers ≠ []) ∨
              ((t.standAt k).swbs = [{ y with lines := [] }] ∧ t.flushHeld (t.coreOf k) = true)))) ∧
      (∀ cause, s.xlate copse .write va = .fault cause → cause = 2 ∨ cause = 3 →
        ∃ t id, exec (.regionWriteBack copse l) s = .next t ∧ { x with req := some id } ∈ (t.copseAt copse).fills ∧
          t.stands = s.stands ∧ SameMemory s t))

/-- Cache maintenance by range (R286-R291). The ADDR and AKIND of the first failing thread (log 30) and the order in which ranges are checked
and performed (log 37) are the model's readings. -/
def Obligations.CacheMaintenanceByRange : Prop :=
  ∀ (f : M96) (s : State),
    let xs := s.ranges f
    let own := s.myCoreKey
    let vi := s.viOf s.cur
    let beyond (i : Instr) (akind : Nat) (whole : Bool) : Prop :=
      (whole = true → ∀ x, xs.find? (fun x => x.2.1 % 128 != 0 || x.2.2 % 128 != 0) = some x → AccessTraps i s 4 1 x.2.1 akind) ∧
      ((whole = true → ∀ x ∈ xs, x.2.1 % 128 = 0 ∧ x.2.2 % 128 = 0) →
        ∀ x, xs.find? (fun x => decide (2 ^ 57 < x.2.1 + x.2.2)) = some x → AccessTraps i s 3 1 x.2.1 akind)
    let inside (whole : Bool) : Prop := ∀ x ∈ xs, x.2.1 + x.2.2 ≤ 2 ^ 57 ∧ (whole = true → x.2.1 % 128 = 0 ∧ x.2.2 % 128 = 0)
    let ops (i : Instr) (whole waits : Bool) (acc : Acc) (op : State → Nat → State) (post : State → List Nat → Prop) : Prop :=
      let logged : Prop := ∃ x ∈ xs, s.pageLogged own ((rangePages x.2.1 x.2.2).map (fun p => (0, p.1))) = true
      beyond i 0 whole ∧
      (inside whole → logged → ∃ t, WaitsWith i s t ∧ SameMemory s t) ∧
      (inside whole → waits = true → (∃ x ∈ xs, ∃ l ∈ s.rangeLines s.cur acc x.2.1 x.2.2, s.stagedLine l = true) →
        ∃ t, WaitsWith i s t ∧ SameMemory s t) ∧
      (inside whole → ¬logged → (waits = true → ∀ x ∈ xs, ∀ l ∈ s.rangeLines s.cur acc x.2.1 x.2.2, s.stagedLine l = false) →
        ((s.onRanges s.cur acc op xs).1 = none → ∃ t, PassesWith i s t ∧ t.copses = s.copses ∧ t.launches = s.launches) ∧
        (∀ t0 ea n pa e, xs = [(t0, ea, n)] → 0 < n → ea % 65536 + n ≤ 65536 → s.xlate (copseOf s.cur) acc ea = .ok (pa, e) →
          let ls := (linesOf pa n).filter (fun l => !isWindow (128 * l))
          (∀ l ∈ ls, NoneAway s own l ∧ LineForm (s.lineBytes l)) →
          ∃ t, PassesWith i s t ∧ post t ls ∧ (∀ l, l ∉ ls → t.dirAt l = s.dirAt l ∧ ∀ c, t.l1At c l = s.l1At c l) ∧
            ∀ core pa, pa / 128 ∉ ls → byteSeen t core pa = byteSeen s core pa) ∧
        (∀ t0 ea n, xs = [(t0, ea, n)] → 0 < n → ea % 65536 + n ≤ 65536 → s.xlate (copseOf s.cur) acc ea = .fault 5 →
          ∃ r why, r.cls = 3 ∧ r.cause = 5 ∧ r.addr = BitVec.ofNat 64 ea ∧ r.npc = s.me.pc ∧ r.defer = false ∧ exec i s = .next
            (State.stalled (if s.me.pend = [] then s.takeTrap s.cur r else s.setStand s.cur { s.me with trapWait := some r }) s.cur why)))
    let lvl := f.md.toNat
    (Acts s (.cmoCln f) → ops (.cmoCln f) false true .read (fun s l => s.cmoClean own lvl l) (fun t ls => ∀ l ∈ ls,
      t.l1At own l = (s.l1At own l).map (fun x => { x with dirty := 0, writers := if x.dirty = 0 then x.writers else [] }) ∧
      ∀ a, a / 128 = l → t.homeGet a = cleaned s own a ∧ (lvl = 2 → (t.dirAt l).cached = true →
        (t.dirAt l).dirty = false ∧ ((s.dirAt l).dirty = true → memGet t.frames a = t.homeGet a)))) ∧
    (Acts s (.cmoInv f) → ops (.cmoInv f) false true (if lvl = 2 then .write else .read) (fun s l => s.cmoDrop own lvl l) (fun t ls => ∀ l ∈ ls,
      t.l1At own l = none ∧ (lvl ≠ 0 → (t.dirAt l).replicas = []) ∧ (t.dirAt l).pins = (s.dirAt l).pins ∧
      ∀ a, a / 128 = l → (lvl ≠ 2 → t.homeGet a = s.homeGet a) ∧ (lvl = 2 → (t.dirAt l).cached = false ∧ t.homeGet a = memGet s.frames a))) ∧
    (Acts s (.cmoCinv f) → ops (.cmoCinv f) false true (if lvl = 2 then .write else .read)
      (fun s l => (s.cmoClean own lvl l).cmoDrop own lvl l) (fun t ls => ∀ l ∈ ls,
      t.l1At own l = none ∧ (lvl ≠ 0 → (t.dirAt l).replicas = []) ∧
      ∀ a, a / 128 = l → (lvl ≠ 2 → t.homeGet a = cleaned s own a) ∧
        (lvl = 2 → (t.dirAt l).cached = false ∧
          (((s.dirAt l).cached = true ∧ (s.dirAt l).dirty = true) ∨ (∃ x, s.l1At own l = some x ∧ x.dirty ≠ 0) → t.homeGet a = cleaned s own a)))) ∧
    (Acts s (.dsc f) →
      (s.me.fenceM ≠ none → ∃ t, WaitsWith (.dsc f) s t ∧ SameMemory s t) ∧
      (s.me.fenceM = none → ops (.dsc f) true true .write (fun s l => s.discard s.cur l) (fun t ls => ∀ l ∈ ls,
        t.l1At own l = none ∧ (t.dirAt l).replicas = [] ∧ ∀ a, a / 128 = l → t.homeGet a = 0))) ∧
    (Acts s (.pin f) → ops (.pin f) false false .read (fun s l => s.pinLine vi l) (fun t ls => SameMemory s t ∧
      ((s.viAt vi).pquota ≠ 0 → 256 * (s.viAt vi).pquota.toNat ≤ s.pinned vi → ∀ l ∈ ls, (vi ∈ (t.dirAt l).pins ↔ vi ∈ (s.dirAt l).pins)) ∧
      ∀ l ∈ ls, ((s.viAt vi).pquota = 0 → vi ∈ (t.dirAt l).pins) ∧ ∀ x, x ≠ vi → (x ∈ (t.dirAt l).pins ↔ x ∈ (s.dirAt l).pins))) ∧
    (Acts s (.unpin f) → ops (.unpin f) false false .read (fun s l => s.unpinLine vi l) (fun t ls => SameMemory s t ∧
      ∀ l ∈ ls, vi ∉ (t.dirAt l).pins ∧ ∀ x, x ≠ vi → (x ∈ (t.dirAt l).pins ↔ x ∈ (s.dirAt l).pins))) ∧
    (Acts s (.zero f) →
      let es : List Elem := xs.flatMap (fun x => (List.range (x.2.2 / 128)).map (fun i => (x.1, x.2.1 + 128 * i, 128, 0)))
      let vas := es.map (fun e => (e.1, e.2.1))
      let ys := translated (s.xlateAll s.cur .write vas)
      let r := (s.keepTlb s.cur (s.xlateAll s.cur .write vas)).release s.cur f.sm
      let late : Prop := f.ord = 0 ∧ s.me.flagOf f.h.sch < 12 ∧ (faultPages (s.xlateAll s.cur .write vas) ≠ [] ∨
        ∃ e ∈ s.myCore.slog, e.stand = s.cur ∧ e.word = s.me.issues)
      let ends (t : State) : Prop := (¬late → PassesWith (.zero f) s t) ∧
        (late → LeavesPending (.zero f) s t { Pend.empty with on := .log s.me.issues })
      beyond (.zero f) 2 true ∧
      (inside true → (es = [] → ∃ t, PassesWith (.zero f) s t ∧ SameMemory s t) ∧
        TranslationTraps (.zero f) s .write 2 vas ∧ (f.ord ≠ 0 → HoldsOnPages (.zero f) s .write vas) ∧
        (f.ord = 0 → es ≠ [] → SideLogs (.zero f) s f.h.uni es f.sm none ends) ∧
        (es ≠ [] → AllTranslate s .write vas → s.me.fenceM = none → (∀ y ∈ ys, s.stagedLine (y.2.2 / 128) = false ∧ isWindow y.2.2 = false) →
          (f.ord ≠ 0 → r.1 = false → ∃ t, WaitsWith (.zero f) s t ∧ ∀ pa b, Holds t pa b → Holds s pa b) ∧
          (f.ord = 0 ∨ r.1 = true → ∃ t, ends t ∧ t.copses = s.copses ∧
            (∀ y ∈ ys, ∀ a, a / 128 = y.2.2 / 128 → t.homeGet a = 0 ∧ byteSeen t own a = 0) ∧
            (f.ord = 0 → ∀ core pa, (∀ y ∈ ys, y.2.2 / 128 ≠ pa / 128) → byteSeen t core pa = byteSeen s core pa)))))

/-- Placement queries (R292-R295) and moves that change no value (R249, R277, R291, R299). The capacity of the tiers and what a unit that comes near
replaces (log 8), and what a bank gives up first among copies of one rank (log 89), are the model's choices. -/
def Obligations.PlacementQueriesAndMoves : Prop :=
  (∀ (f : A64) (s : State),
    let x := srcN (s.srcs s.cur true [(f.sa, true)]).1 0 0
    let d := f.dst.num.toNat
    let core := s.myCoreKey
    let vi := s.viOf s.cur
    let v := s.viAt vi
    let gives (i : Instr) (xs : List Word64) : Prop :=
      ∃ t, LeavesPending i s t { Pend.empty with sw := xs.zipIdx.map (fun y => (d + y.2, y.1)) } ∧ LocalFrame s t ∧ SameMemory s t
    (Acts s (.pqrySelf f) → gives (.pqrySelf f) [if x = 0 then s.handle 1 core else if x = 1 then s.handle 2 (core / 4)
      else if x = 2 then s.handle 3 (core / 4 / 140) else 0]) ∧
    (Acts s (.pqryLine f) →
      (∀ c, s.xlate (copseOf s.cur) .read x = .fault c → gives (.pqryLine f) [0, 0]) ∧
      ∀ pa e, s.xlate (copseOf s.cur) .read x = .ok (pa, e) →
        let l := s.dirAt (pa / 128)
        let bank := v.dom.live.anchor (pa / 128)
        gives (.pqryLine f) [s.handle 4 ((if l.cached then l.bank else bank) / 8),
          (0 : BitVec 52) ++ BitVec.ofBool (l.cached && l.bank != bank) ++ BitVec.ofNat 7 (min 76 l.replicas.length) ++
            BitVec.ofBool (l.cached && l.written) ++ BitVec.ofBool (l.pins != []) ++ BitVec.ofBool (l.cached && l.zero) ++ BitVec.ofBool l.cached]) ∧
    (Acts s (.pqryRes f) →
      let gen := x / 2 ^ 48 % 2 ^ 16
      let kind := x / 2 ^ 44 % 16
      (s.genSites gen = none → gives (.pqryRes f) [0, 3]) ∧
      (s.genSites gen ≠ none →
        (namedSite v x gen kind = none → gives (.pqryRes f) [0, 4]) ∧
        ∀ n, namedSite v x gen kind = some n →
          (n ∉ sitesOf v kind s.boot.clusters s.boot.slices → gives (.pqryRes f) [0, 2]) ∧
          (n ∈ sitesOf v kind s.boot.clusters s.boot.slices →
            gives (.pqryRes f) (if gen = s.boot.bgen.toNat then [BitVec.ofNat 64 x, 0] else [s.handle kind n, 1])))) ∧
    (Acts s (.pqryCnt f) →
      let cs := s.boot.clusters.filter (fun c => v.part.contains c)
      gives (.pqryCnt f) [BitVec.ofNat 64 (if x = 0 then cs.length else if x = 1 then v.dom.live.slices.length
        else if x = 2 then (s.dir.filter (fun e => e.2.pins.contains vi)).length else if x = 3 then 256 * v.pquota.toNat
        else if x = 4 then s.boot.bgen.toNat else if x = 5 then (cs.map (fun c => c / 140)).dedup.length else 0)])) ∧
  (∀ (core line : Nat) (s : State), ∃ t, exec (.l1WriteBack core line) s = .next t ∧ (s.stagedLine line = true → t = s) ∧
    (s.stagedLine line = false →
      (∀ a, isWindow a = false → t.homeGet a = if a / 128 = line then cleaned s core a else s.homeGet a) ∧
      (∀ c l, c ≠ core ∨ l ≠ line → t.l1At c l = s.l1At c l) ∧
      (∀ l, s.l1At core line = some l → t.l1At core line = none ∨
        t.l1At core line = some { l with dirty := 0, writers := if l.dirty = 0 then l.writers else [] }) ∧
      t.copses = s.copses ∧ t.launches = s.launches ∧ t.vis = s.vis)) ∧
  (∀ (line bank : Nat) (s : State), s.domainOf ((s.dirAt line).bank / 8) = none → exec (.homeMove line bank) s = .next s) ∧
  (∀ (line bank vi : Nat) (s : State), s.domainOf ((s.dirAt line).bank / 8) = some vi →
    let d := s.dirAt line
    let f := fieldOfSlice (bank / 8)
    let may := d.cached = true ∧ d.staged = [] ∧ bank / 8 ∈ (s.viAt vi).dom.live.slices ∧ f ≠ fieldOfSlice (d.bank / 8) ∧
      ∃ n, d.streak = some (f, n) ∧ s.placement.moveAfter ≤ n
    (may → ∃ t, exec (.homeMove line bank) s = .next t ∧ SameMemory s t ∧ (∀ l, l ≠ line → t.dirAt l = s.dirAt l) ∧
      t.dirAt line = { d with bank := bank, streak := none, replicas := tdel f d.replicas, repUsed := tdel f d.repUsed }) ∧
    (¬may → exec (.homeMove line bank) s = .next s)) ∧
  (∀ (line : Nat) (s : State), let d := s.dirAt line
    let may := d.cached = true ∧ d.pins = [] ∧ s.goesFirst d.bank (if d.dirty then 2 else 1, d.used, line, none) = true
    (¬may → exec (.lineEvict line none) s = .next s) ∧
    (may → ∃ t, exec (.lineEvict line none) s = .next t ∧ (t.dirAt line).cached = false ∧ (t.dirAt line).replicas = [] ∧
        (LineForm d.bytes → (d.dirty = true ∨ ∀ o, o < 128 → memGet d.bytes o = memGet s.frames (128 * line + o)) →
          SameMemory s t ∧ ∀ o, o < 128 → memGet t.frames (128 * line + o) = memGet d.bytes o) ∧ ∀ a, a / 128 ≠ line → memGet t.frames a = memGet s.frames a) ∧
    ∀ field, let first := s.goesFirst (s.replicaBank line field) (0, tget 0 d.repUsed field, line, some field)
      (first = false → exec (.lineEvict line (some field)) s = .next s) ∧
      (first = true → exec (.lineEvict line (some field)) s = .next (s.setDir line { d with replicas := tdel field d.replicas, repUsed := tdel field d.repUsed }))) ∧
  (∀ (unit : Nat) (near : Bool) (s : State), ∃ t, exec (.tierMove unit near) s = .next t ∧ t = { s with near := t.near } ∧ SameMemory s t ∧
    let deep : Prop := ∃ u ∈ s.near, s.goesDeep u = true
    (isWindow (65536 * unit) = true → t.near = s.near) ∧
    (isWindow (65536 * unit) = false → near = false →
      t.near = if s.deepRoom = false ∨ s.staysNear unit = true ∨ (s.goesDeep unit = false ∧ deep) then s.near else s.near.filter (fun u => u != unit)) ∧
    (isWindow (65536 * unit) = false → near = true →
      (unit ∈ s.near ∨ unit ∈ s.retired → t.near = s.near) ∧
      (unit ∉ s.near → unit ∉ s.retired →
        (s.near.length < Config.nearUnits → t.near = s.near ++ [unit]) ∧
        (Config.nearUnits ≤ s.near.length →
          ((deep ∨ (s.staysNear unit = true ∧ ∃ u ∈ s.near, s.staysNear u = false)) →
            ∃ u ∈ s.near, t.near = s.near.filter (fun x => x != u) ++ [unit] ∧ s.staysNear u = false ∧ (deep → s.goesDeep u = true)) ∧
          (¬deep → s.staysNear unit = false ∨ (∀ u ∈ s.near, s.staysNear u = true) → t.near = s.near)))))

/-- Fences (R312-R316). -/
def Obligations.FencesReleaseAndAcquire : Prop :=
  (∀ (f : A64) (s : State), let m := f.dst.num
    let wide := maskFull m ≠ maskCO
    let own := s.myCoreKey
    let covered := ∃ r, s.me.rel = some r ∧ maskFull m &&& ~~~(maskFull r) = 0
    let held := s.logged s.cur = true ∨ (∃ x ∈ s.myCopse.fills, x.wb = some s.cur) ∨ (∃ x ∈ s.me.swbs, x.lines ≠ []) ∨ (wide ∧ s.flushHeld own = true)
    let busy := held ∨ s.me.fenceM ≠ none
    let u := s.releaseNow s.cur m false
    let um := (s.setMe { s.me with fenceM := some (m, none) }).releaseNow s.cur m true
    let fresh (t : State) : Prop := maskHas (maskFull m) 0 = true → ∀ e ∈ t.stale, e.stand ≠ s.cur
    let acquired (t : State) : Prop := wide → ∀ e ∈ (t.coreAt own).l1, e.2.dirty ≠ 0 ∧ e.2.valid = e.2.dirty
    let clean (t : State) : Prop := wide → ∀ line l, t.l1At own line = some l → l.dirty = 0
    let release (i : Instr) (post : State → Prop) : Prop :=
      (covered → ∃ t, PassesWith i s t ∧ post t ∧ fresh t ∧ t.me.rel = none ∧ t.copses = s.copses) ∧
      (¬covered → busy → ∃ t, WaitsWith i s t ∧ SameMemory s t) ∧
      (¬covered → ¬busy →
        (u.me.markers = [] → ∃ t, PassesWith i s t ∧ post t ∧ fresh t ∧ clean t ∧ ∀ pa b, Holds t pa b → Holds s pa b) ∧
        (u.me.markers ≠ [] → ∃ t, WaitsWith i s t ∧ clean t ∧ t.me.wait = .markers ∧ t.me.rel = some m ∧ t.me.markers = u.me.markers))
    (Acts s (.fenceRel f) → release (.fenceRel f) (fun _ => True)) ∧
    (Acts s (.fenceAr f) → release (.fenceAr f) acquired) ∧
    (Acts s (.fenceAcq f) →
      (s.logged s.cur = true → ∃ t, WaitsWith (.fenceAcq f) s t ∧ SameMemory s t) ∧
      (s.logged s.cur = false → ∃ t, PassesWith (.fenceAcq f) s t ∧ acquired t ∧ fresh t ∧ AccessFrame s t ∧
        (∀ core pa, core ≠ own ∨ ¬wide → byteSeen t core pa = byteSeen s core pa) ∧ ∀ a, t.homeGet a = s.homeGet a)) ∧
    (Acts s (.fenceM f) →
      (s.me.fenceM ≠ none → ∃ t, WaitsWith (.fenceM f) s t ∧ SameMemory s t) ∧
      (s.me.fenceM = none → held →
        ∃ t, LeavesPending (.fenceM f) s t { Pend.empty with on := .fenceM } ∧ t.me.fenceM = some (m, none) ∧ SameMemory s t) ∧
      (s.me.fenceM = none → ¬held →
        ((∃ x ∈ um.me.markers, x.forM = true) → ∃ t, LeavesPending (.fenceM f) s t { Pend.empty with on := .fenceM } ∧
          t.me.fenceM = some (m, none) ∧ t.me.markers = um.me.markers ∧ clean t) ∧
        ((∀ x ∈ um.me.markers, x.forM = false) → (∀ p ∈ s.me.pend, p.on ≠ .fenceM) →
          ∃ t, PassesWith (.fenceM f) s t ∧ t.me.fenceM = none ∧ clean t)))) ∧
  (∀ (s : State) (k : Nat) (m : Byte) (forM : Bool), let v := s.flushL1 (s.coreOf k)
    let u := s.releaseNow k m forM
    (maskHas (maskFull m) 2 = true → let wf := maskHas (maskFull m) 3
      (u.standAt k).markers = (v.standAt k).markers ++ (v.standAt k).paths.map (fun p => ⟨p.slice, wf, p.n, p.lines, forM⟩) ∧
      (wf = true → (u.standAt k).paths = []) ∧
      (wf = false → (u.standAt k).paths = (v.standAt k).paths.map (fun p => { p with n := 0 }))) ∧
    (maskHas (maskFull m) 2 = false → (u.standAt k).markers = (s.standAt k).markers)) ∧
  (∀ (k slice : Nat) (s : State) (x : Marker), (s.standAt k).markers.find? (fun x => x.slice == slice) = some x →
    ∃ t, exec (.markerArrive k slice) s = .next t ∧ 
      ((∀ y ∈ (s.standAt k).swbs, y.lines ≠ [] ∨ y.sent = true) → (t.standAt k).markers = (s.standAt k).markers.erase x ∧ SameMemory s t ∧
      ((s.standAt k).markers.erase x = [] → ∀ y ∈ (s.standAt k).swbs, y.lines = [] →
        (∀ z ∈ (t.standAt k).swbs, z.word ≠ y.word) ∧ ∀ p ∈ (t.standAt k).pend, p.on ≠ .swb y.word) ∧
      (∀ l ∈ x.lines, if x.wf then (t.dirAt l).replicas = []
        else tfind (fieldOfCore (s.coreOf k)) (t.dirAt l).replicas = none) ∧
      (∀ l, l ∉ x.lines → t.dirAt l = s.dirAt l) ∧
      ((s.standAt k).wait = .markers → (∀ y ∈ (s.standAt k).markers.erase x, y.forM = true) → (t.standAt k).wait = .none) ∧
      (x.forM = true → (∀ y ∈ (s.standAt k).markers.erase x, y.forM = false) → (t.standAt k).fenceM = none) ∧
      (t.standAt k).pc = (s.standAt k).pc ∧ ∀ j, j ≠ k → t.standAt j = s.standAt j)) ∧
  (∀ (k slice : Nat) (s : State), (∀ x ∈ (s.standAt k).markers, x.slice ≠ slice) → exec (.markerArrive k slice) s = .next s)

/-! ### The matrix engine -/

/-- Reservations (R206-R208, R225-R227) and their queries (R236, R237). -/
def Obligations.MatrixReservations : Prop :=
  (∀ (f : E96) (s : State),
    let e := s.myEngine
    let cl := s.myCluster
    let gives (i : Instr) (x : Nat) (post : State → Prop) : Prop :=
      ∃ t, LeavesPending i s t { Pend.empty with sw := [(f.dst.num.toNat, BitVec.ofNat 64 x)] } ∧ post t ∧ SameMemory s t ∧ t.copses = s.copses
    let same (t : State) : Prop := t.engineAt cl = e ∧ t.me.b = s.me.b
    let n := f.imm.toNat % 16
    (Acts s (.mres f) →
      let a := (s.rdS s.cur f.sa.num.toNat).toNat
      let b := (s.rdS s.cur f.sb.num.toNat).toNat
      let ok := mresOk (f.md.toNat % 8) (f.md.getLsbD 4) (f.md.getLsbD 5) a b
      let am : Byte := BitVec.ofNat 8 (b / 2 ^ 32)
      let gcnt := a / 2 ^ 9 % 256
      let held := ∃ x ∈ e.taken, x.2.amask &&& am ≠ 0
      let free (i : Nat) : Prop := i < 32 ∧ (e.resv i).state = .free
      let fits (base : Nat) : Prop := base + gcnt ≤ 128 ∧ ∀ x ∈ e.taken, base + gcnt ≤ x.2.gbase ∨ x.2.gbase + x.2.gcnt ≤ base
      (s.bNamed n = true → gives (.mres f) 1 same) ∧
      (s.bNamed n = false → ok = false → gives (.mres f) 2 same) ∧
      (s.bNamed n = false → ok = true → held → gives (.mres f) 3 same) ∧
      (s.bNamed n = false → ok = true → ¬held → (∀ i, ¬free i) → gives (.mres f) 4 same) ∧
      (s.bNamed n = false → ok = true → ¬held → (∃ i, free i) → (∀ base, ¬fits base) → gives (.mres f) 5 same) ∧
      ∀ i base, s.bNamed n = false → ok = true → ¬held → free i → (∀ j, j < i → ¬free j) → fits base → (∀ c, c < base → ¬fits c) →
        gives (.mres f) 0 (fun t =>
          let r := (t.engineAt cl).resv i
          r.state = .opened ∧ r.gbase = base ∧ r.gcnt = gcnt ∧ r.fmt = f.md.extractLsb' 0 3 ∧ r.spar = f.md.getLsbD 4 ∧
          r.bsc = f.md.getLsbD 5 ∧ r.role = f.md.getLsbD 3 ∧ r.blen = a % 512 ∧ r.xoff = BitVec.ofNat 16 (a / 2 ^ 32) ∧
          r.moff = BitVec.ofNat 16 (a / 2 ^ 48) ∧ r.tsc = BitVec.ofNat 32 b ∧ r.amask = am ∧ r.atile = none ∧ r.stile = none ∧
          r.queue = [] ∧ r.ff = false ∧ r.copse = copseOf s.cur ∧ r.stand = BitVec.ofNat 4 (s.cur % 16) ∧ r.breg = BitVec.ofNat 4 n ∧
          t.bound n = some (i, r) ∧ (∀ m, m ≠ n → tfind m t.me.b = tfind m s.me.b) ∧ ∀ j, j ≠ i → (t.engineAt cl).resv j = e.resv j)) ∧
    (Acts s (.mresDup f) →
      let found (x : Nat × Resv) : Bool := x.2.state == .opened && x.2.copse == copseOf s.cur &&
        x.2.stand.toNat == f.imm.toNat / 2 ^ 8 % 16 && x.2.breg.toNat == f.imm.toNat / 2 ^ 4 % 16
      (s.bNamed n = true → gives (.mresDup f) 1 same) ∧
      (s.bNamed n = false → e.recs.find? found = none → gives (.mresDup f) 6 same) ∧
      ∀ i r, s.bNamed n = false → e.recs.find? found = some (i, r) →
        gives (.mresDup f) 0 (fun t => t.engineAt cl = e ∧ tfind n t.me.b = some ⟨i, r.tag⟩ ∧ ∀ m, m ≠ n → tfind m t.me.b = tfind m s.me.b)) ∧
    (Acts s (.mrel f) → let n := f.sa.num.toNat
      (s.bound n = none → ∃ t, PassesWith (.mrel f) s t ∧ t.engineAt cl = e ∧ tfind n t.me.b = none ∧ SameMemory s t) ∧
      ∀ i r, s.bound n = some (i, r) → ∃ t, PassesWith (.mrel f) s t ∧ tfind n t.me.b = none ∧ SameMemory s t ∧
        (∀ m, m ≠ n → tfind m t.me.b = tfind m s.me.b) ∧
        ((t.engineAt cl).resv i).tag = r.tag + 1 ∧ ((t.engineAt cl).resv i).state ≠ .opened ∧
        (r.queue = [] → e.readers i r.tag = false → ((t.engineAt cl).resv i).state = .free) ∧
        (r.queue ≠ [] → ((t.engineAt cl).resv i).state = .closing ∧ ((t.engineAt cl).resv i).queue = r.queue) ∧
        ∀ j, j ≠ i → (e.resv j).state = .opened → (t.engineAt cl).resv j = e.resv j) ∧
    (Acts s (.mwait f) →
      (s.bound f.sa.num.toNat = none → TrapsWith (.mwait f) s (fun r => r.cls = 8 ∧ r.cause = 1 ∧ r.addr = 0)) ∧
      ∀ i r, s.bound f.sa.num.toNat = some (i, r) → ∃ t, LocalFrame s t ∧ SameMemory s t ∧ LeavesPending (.mwait f) s t
        { Pend.empty with on := .mwait cl i r.tag r.accepted f.dst.num.toNat s.me.spot, sw := [(f.dst.num.toNat, 0)] }) ∧
    (Acts s (.mq f) →
      (s.bound f.sa.num.toNat = none → gives (.mq f) 0 same) ∧
      ∀ i r, s.bound f.sa.num.toNat = some (i, r) → gives (.mq f) (r.toBits / 2 ^ (64 * f.imm.toNat) % 2 ^ 64) (fun t =>
        (t.engineAt cl).resv i = (if f.md = 1 then { r with ff := false } else r) ∧ t.me.b = s.me.b ∧
        ∀ j, j ≠ i → (t.engineAt cl).resv j = e.resv j))) ∧
  (∀ (k idx cl i tag upto d : Nat) (x : Spot) (p : Pend) (s : State), (s.standAt k).pend[idx]? = some p → p.on = .mwait cl i tag upto d x →
    (s.copseAt (copseOf k)).life = .resident → (∀ q ∈ (s.standAt k).pend.take idx, q.before p = false) → p.slost = [] →
    let r := (s.engineAt cl).resv i
    r.tag = tag →
    ((∃ c ∈ r.queue, c.seq ≤ upto) → exec (.longLatencyComplete k idx) s = .next s) ∧
    ((∀ c ∈ r.queue, upto < c.seq) → ∃ t, exec (.longLatencyComplete k idx) s = .next t ∧
      tget 0 (t.standAt k).sr d = BitVec.ofNat 64 (r.ff.toNat + if ∃ g ∈ r.gone, g ≤ upto then 2 else 0) ∧
      (t.standAt k).pend = (s.standAt k).pend.eraseIdx idx))

/-- Matrix commands (R222-R224, R228-R234). That a drain to the scratchpad has MTX cause 6 for a row stride that is no multiple of 16 even with one
row is the model's reading (log 35). -/
def Obligations.MatrixCommandsAreQueued : Prop :=
  ∀ (f : E96) (s : State),
    let e := s.myEngine
    let cl := s.myCluster
    let traps (i : Instr) (cause : Nat) : Prop := TrapsWith i s (fun r => r.cls = 8 ∧ r.cause = BitVec.ofNat 8 cause ∧ r.addr = 0)
    let lowest (i : Instr) (bad : Nat → Prop) : Prop := ∀ m, m < 16 → bad m → (∀ j, j < m → ¬bad j) → traps i m
    let stale (i : Instr) (n : Nat) : Prop := s.bound n = none → traps i 1
    let fetchRoom : Prop := s.engineRoom (copseOf s.cur) 1 = true
    let room (n k : Nat) : Prop :=
      (e.taken.map (fun x => x.2.queue.length)).sum + k ≤ 64 ∧ (e.resv n).queue.length + 1 ≤ 16
    let cmd (op : CmdOp) (q : Nat) (snap : List (Nat × Mem)) : Cmd := ⟨q, s.cur, op, .waiting, [], snap, [], 0, false, (s.clusterAt cl).halves, []⟩
    let takes (i : Instr) (n : Nat) (op : CmdOp) (snap : List (Nat × Mem)) (post : State → Prop) : Prop :=
      let fits : Prop := room n 1 ∧ (op.fetches = true → fetchRoom)
      (fits → ∃ t, PassesWith i s t ∧ SameMemory s t ∧ t.copses = s.copses ∧ post t ∧ t.nextId = s.nextId + 1 ∧
        (t.engineAt cl).resv n = { e.resv n with queue := (e.resv n).queue ++ [cmd op s.nextId snap], accepted := s.nextId } ∧
        ∀ j, j ≠ n → (t.engineAt cl).resv j = e.resv j) ∧
      (¬fits → ∃ t, WaitsWith i s t ∧ t.clusters = s.clusters)
    let none' (_ : State) : Prop := True
    let a := f.sa.num.toNat
    let desc := tget 0 s.me.d f.sc.num.toNat
    (Acts s (.mtile f) → stale (.mtile f) a ∧ ∀ n r, s.bound a = some (n, r) →
      let part := f.md.toNat % 4
      let first := f.imm.toNat % 512
      let cnt := f.imm.toNat / 512 % 128 + 1
      let src := (s.rdS s.cur f.sb.num.toNat).toNat
      let bytes := r.partSize part * cnt
      let bad (m : Nat) : Prop := (m = 4 ∧ r.blen < first + cnt) ∨ (m = 6 ∧ (src % 16 ≠ 0 ∨ 128 * s.myCopse.alloc < src + bytes)) ∨
        (m = 8 ∧ ((part = 1 ∧ r.hdr = false) ∨ (part = 2 ∧ r.spar = false)))
      lowest (.mtile f) bad ∧ ((∀ m, ¬bad m) → takes (.mtile f) n (.fillS (BitVec.ofNat 2 part) src first cnt) (s.myCopse.snapLines src bytes) none')) ∧
    (Acts s (.mtileD f) → stale (.mtileD f) a ∧ ∀ n r, s.bound a = some (n, r) →
      let part := f.md.toNat % 4
      let first := f.imm.toNat % 512
      let cnt := f.imm.toNat / 512 % 128 + 1
      let bad (m : Nat) : Prop := (m = 4 ∧ r.blen < first + cnt) ∨ (m = 8 ∧ ((part = 1 ∧ r.hdr = false) ∨ (part = 2 ∧ r.spar = false))) ∨
        (m = 10 ∧ descTiles desc.toNat (r.partSize part) = false)
      lowest (.mtileD f) bad ∧ ((∀ m, ¬bad m) → takes (.mtileD f) n (.fillG (BitVec.ofNat 2 part) first cnt desc) [] none')) ∧
    (Acts s (.mlds f) → stale (.mlds f) a ∧ ∀ n r, s.bound a = some (n, r) →
      let bad (m : Nat) : Prop := (m = 2 ∧ r.role = false) ∨ (m = 4 ∧ r.blen ≤ f.imm.toNat)
      lowest (.mlds f) bad ∧ ((∀ m, ¬bad m) → takes (.mlds f) n (.load f.imm.toNat) [] none')) ∧
    (Acts s (.mswap f) → stale (.mswap f) a ∧ ∀ n r, s.bound a = some (n, r) →
      let bad (m : Nat) : Prop := (m = 2 ∧ r.role = false) ∨ (m = 9 ∧ r.tilesThen.2 = none)
      lowest (.mswap f) bad ∧ ((∀ m, ¬bad m) → takes (.mswap f) n .swap [] none')) ∧
    (Acts s (.mstr f) → stale (.mstr f) a ∧ stale (.mstr f) f.sb.num.toNat ∧
      ∀ n w m x, s.bound a = some (n, w) → s.bound f.sb.num.toNat = some (m, x) →
      let t0 := f.imm.toNat % 512
      let j := f.imm.toNat / 512 % 8
      let tiles := if w.spar then 2 else 1
      let mem := f.md.getLsbD 0
      let pass : CmdOp := .pass m x.tag t0 j (f.md.getLsbD 1)
      let bad (c : Nat) : Prop := (c = 2 ∧ (w.role = false ∨ x.role = true)) ∨ (c = 3 ∧ ¬(fmtClass w.fmt.toNat = 16 ↔ fmtClass x.fmt.toNat = 16)) ∨
        (c = 4 ∧ x.blen < t0 + tiles) ∨ (c = 5 ∧ w.amask.getLsbD j = false) ∨ (c = 9 ∧ w.tilesThen.1 = none) ∨
        (c = 10 ∧ mem = true ∧ descTiles desc.toNat (tiles * fmtSize x.fmt.toNat) = false)
      lowest (.mstr f) bad ∧ ((∀ c, ¬bad c) →
        (mem = false → takes (.mstr f) n pass [] none') ∧
        (mem = true →
          (room n 2 → room m 2 → fetchRoom → ∃ t, PassesWith (.mstr f) s t ∧ SameMemory s t ∧ t.nextId = s.nextId + 2 ∧
            ((t.engineAt cl).resv m).queue = x.queue ++ [cmd (.fillG 0 t0 tiles desc) s.nextId []] ∧
            ((t.engineAt cl).resv n).queue = w.queue ++ [cmd pass (s.nextId + 1) []] ∧
            ∀ i, i ≠ n → i ≠ m → (t.engineAt cl).resv i = e.resv i) ∧
          (¬(room n 2 ∧ room m 2 ∧ fetchRoom) → ∃ t, WaitsWith (.mstr f) s t ∧ t.clusters = s.clusters)))) ∧
    (Acts s (.mzero f) → stale (.mzero f) a ∧ ∀ n r, s.bound a = some (n, r) →
      let tiles : Byte := f.imm.setWidth 8
      let bad (m : Nat) : Prop := (m = 2 ∧ r.role = false) ∨ (m = 5 ∧ tiles &&& ~~~r.amask ≠ 0)
      lowest (.mzero f) bad ∧ ((∀ m, ¬bad m) → takes (.mzero f) n (.zero tiles) [] none')) ∧
    (Acts s (.mdrn f) →
      let dest := f.md.toNat % 4
      let dfmt := f.md.toNat / 4 % 8
      let row := 64 * (if dfmt = 0 then 4 else if dfmt ≤ 2 then 2 else 1)
      let unit := min row 128
      let base := if dest = 2 then 0 else (s.rdS s.cur f.sb.num.toNat).toNat
      let sh := (s.rdS s.cur f.sc.num.toNat).toNat
      let row0 := sh % 64
      let rows := sh / 2 ^ 6 % 128
      let stride := sh / 2 ^ 16 % 2 ^ 32
      let ch := sh / 2 ^ 60 % 16
      let j := f.imm.toNat / 2 ^ 8 % 8
      let core := s.myCoreKey
      let c := s.chanAt core (32 + ch)
      (dest = 2 → stride ≠ 0 → Traps (.mdrn f) s 0 4) ∧
      (dest ≠ 2 ∨ stride = 0 → stale (.mdrn f) a ∧ ∀ n w, s.bound a = some (n, w) →
        let bad (m : Nat) : Prop := (m = 2 ∧ w.role = false) ∨ (m = 5 ∧ w.amask.getLsbD j = false) ∨
          (m = 6 ∧ dest = 0 ∧ (base % 16 ≠ 0 ∨ stride % 16 ≠ 0 ∨ 128 * s.myCopse.alloc < base + (rows - 1) * stride + row)) ∨
          (m = 7 ∧ dest = 1 ∧ (base % unit ≠ 0 ∨ stride % unit ≠ 0)) ∨
          (m = 11 ∧ (rows = 0 ∨ 64 < rows ∨ 64 < row0 + rows ∨ sh / 2 ^ 13 % 8 ≠ 0 ∨ sh / 2 ^ 48 % 2 ^ 12 ≠ 0 ∨ (dest ≠ 2 ∧ ch ≠ 0) ∨
            (dest = 0 ∧ stride < row)))
        let op : CmdOp := .drain dest dfmt (f.md.getLsbD 5) (f.md.getLsbD 6) (f.md.getLsbD 7) base row0 rows stride ch j (f.imm.setWidth 8)
        let lent := s.chanBad (copseOf s.cur) core (32 + ch) false
        lowest (.mdrn f) bad ∧ ((∀ m, ¬bad m) →
          (dest = 2 → lent = true → Traps (.mdrn f) s 6 5) ∧
          (dest ≠ 2 → takes (.mdrn f) n op [] (fun t => t.chanAt core (32 + ch) = c)) ∧
          (dest = 2 → lent = false → takes (.mdrn f) n op [] (fun t => t.chanAt core (32 + ch) = { c with due := c.due + 1 })))))

/-- Grants (R211, R214, R224, R231-R233) and operand lines (R213, R228, R229). Which commands compete for one path, and that waiting is counted in
half cycles, are the model's choices (log 89). -/
def Obligations.EngineRunsCommandsInOrder : Prop :=
  (∀ (cl n : Nat) (c : Cmd) (s : State), let e := s.engineAt cl
    let r := e.resv n
    r.queue.find? (fun c => c.phase == .waiting) = some c → (r.queue.map (fun c => c.seq)).Nodup → (∀ x ∈ e.recs, x.2.state ≠ .closing) →
    let runs (post : Engine → Cmd → Prop) : Prop := ∃ t d, exec (.commandGrant cl n) s = .next t ∧ d ∈ ((t.engineAt cl).resv n).queue ∧
      d.seq = c.seq ∧ d.phase = .granted ∧ d.op = c.op ∧ post (t.engineAt cl) d ∧ t = { s with clusters := t.clusters } ∧
      ∀ j, j ≠ cl → t.clusterAt j = s.clusterAt j
    let keep (e' : Engine) (ts : List Nat) : Prop := ∀ j x, j ∉ ts → x < 4096 → e'.accAt j x = e.accAt j x
    let first : Prop := e.ready n c = true ∧ (c.op.path = 4 ∨ ∀ x ∈ e.taken, ∀ d, e.head x.1 = some d → d.op.path = c.op.path →
      e.ready x.1 d = true → listLe (s.rankOf cl n c) (s.rankOf cl x.1 d) = true)
    (¬first → exec (.commandGrant cl n) s = .next s) ∧
    (first →
      (c.op = .swap → runs (fun e' _ => (e'.resv n).atile = r.stile ∧ (e'.resv n).stile = r.atile ∧ keep e' [] ∧ e'.buf = e.buf)) ∧
      (∀ i, c.op = .load i → runs (fun e' _ => (e'.resv n).stile = some i ∧ (e'.resv n).atile = r.atile ∧ keep e' [] ∧ e'.buf = e.buf ∧
        (n, r.tag, i) ∈ e'.planes)) ∧
      (∀ m, c.op = .zero m → runs (fun e' _ => keep e' (tilesOf m) ∧ e'.buf = e.buf ∧ ∀ j ∈ tilesOf m, ∀ x, x < 4096 → e'.accAt j x = 0)) ∧
      (∀ sn tg t0 j z, c.op = .pass sn tg t0 j z →
        let x := e.resv sn
        let ls := e.passLines r sn t0
        let dead := (∃ l ∈ ls.1, e.isDead r l = true) ∨ (∃ l ∈ ls.2, e.isDead x l = true)
        (¬dead → runs (fun e' _ => keep e' [j] ∧ e'.buf = e.buf ∧
          let p := e.passValues r x (r.atile.getD 0) t0
          (∀ i v, i < 4096 → p.1[i]? = some v → e'.accAt j i = BitVec.ofNat 32 (addDefault .f32 (if z then 0 else (e.accAt j i).toNat) v)) ∧
          (n ≠ sn → (e'.resv n).ff = (r.ff || p.2.1) ∧ (e'.resv sn).ff = (x.ff || p.2.2)))) ∧
        (dead → ∃ t, exec (.commandGrant cl n) s = .next t ∧ keep (t.engineAt cl) [] ∧ (t.engineAt cl).buf = e.buf ∧
          ∀ d ∈ ((t.engineAt cl).resv n).queue, d.seq = c.seq → d.phase = .complete ∧ d.withdrawn = true)) ∧
      (∀ dest d add satx za base row0 rows stride ch j m, c.op = .drain dest d add satx za base row0 rows stride ch j m → row0 + rows ≤ 64 →
        runs (fun e' q => keep e' [j] ∧ e'.buf = e.buf ∧ q.todo = List.range rows ∧ q.vals.length = 64 * rows ∧
          (∀ i v, i < rows → v < 64 → q.vals[64 * i + v]? =
            some (BitVec.ofNat 32 (drainCode d (dfmtSat d satx) (e.accAt j (64 * (row0 + i) + v))))) ∧
          ∀ x, x < 4096 → e'.accAt j x = if za = true ∧ row0 ≤ x / 64 ∧ x / 64 < row0 + rows then 0 else e.accAt j x)) ∧
      ((r.fillLines c.op ≠ []) → runs (fun e' q => keep e' [] ∧ e'.buf = e.buf ∧ q.todo = r.fillLines c.op ∧
        (∀ l ∈ r.fillLines c.op, e'.isFull r l = false ∧ e'.isDead r l = false) ∧
        ∀ l, l ∉ (r.fillLines c.op).map (fun l => 32 * r.gbase + l) → (l ∈ e'.full ↔ l ∈ e.full))))) ∧
  (∀ (cl n : Nat) (s : State), let e := s.engineAt cl
    (∃ t ps, exec (.planeLoad cl n) s = .next t ∧ t = { s with clusters := t.clusters } ∧ t.engineAt cl = { e with planes := ps } ∧
      (∀ j, j ≠ cl → t.clusterAt j = s.clusterAt j) ∧ (e.oldestHead n = false → ps = e.planes) ∧
      ∀ c sn tg t0 j z i, e.head n = some c → c.op = .pass sn tg t0 j z → e.oldestHead n = true → (e.resv n).atile = some i →
        (n, (e.resv n).tag, i) ∈ ps) ∧
    ∃ t, exec (.matrixAssist cl) s = .next t ∧ t = { s with clusters := t.clusters } ∧ t.engineAt cl = { e with assists := e.assists.drop 1 } ∧
      ∀ j, j ≠ cl → t.clusterAt j = s.clusterAt j) ∧
  (∀ (cl n : Nat) (c : Cmd) (s : State), let e := s.engineAt cl
    let r := e.resv n
    let copse := copseOf c.stand
    let cp := s.copseAt copse
    let span := r.fillSpan c.op
    r.queue.find? (fun c => r.fillLines c.op != [] && c.phase != .waiting && c.phase != .complete) = some c → c.phase = .granted →
    cp.life = .resident → (∀ x ∈ e.recs, x.2.state ≠ .closing) → c.todo ≠ [] →
    let arrives (src : Nat → Nat → Byte) : Prop := ∃ t l, exec (.operandLineArrive cl n) s = .next t ∧ l ∈ c.todo ∧
      let e' := t.engineAt cl
      let x := (lineSpan span.1 span.2 l).1
      let off := (lineSpan span.1 span.2 l).2.1
      let k := (lineSpan span.1 span.2 l).2.2
      e'.isFull r l = true ∧ (∀ i, i < k → memGet e'.buf (4096 * r.gbase + off + i) = src x i) ∧
      (∀ a, a < 4096 * r.gbase + off ∨ 4096 * r.gbase + off + k ≤ a → memGet e'.buf a = memGet e.buf a) ∧
      (∀ j y, y < 4096 → e'.accAt j y = e.accAt j y) ∧ SameMemory s t ∧ t.stands = s.stands ∧ (t.copseAt copse).scratch = cp.scratch
    (∀ p src first cnt, c.op = .fillS p src first cnt →
      (∀ l ∈ c.todo.take 1, let y := lineSpan span.1 span.2 l
        (∀ q ∈ linesOf (src + y.1) y.2.2, (cp.lineAt q).bm = false ∧ (cp.lineAt q).full = true) ∧
        ∀ i, i < y.2.2 → ∀ m, tfind ((src + y.1 + i) / 128) c.snap = some m →
          memGet m ((src + y.1 + i) % 128) = memGet cp.scratch (src + y.1 + i)) →
      arrives (fun x i => memGet cp.scratch (src + x + i))) ∧
    (∀ p first cnt d, c.op = .fillG p first cnt d →
      let v := if (r.nextLines c).length ≤ 1 then s else s.bump
      (∀ l ∈ c.todo, let y := lineSpan span.1 span.2 l
        y.2.2 % 16 = 0 ∧ ∃ ps, (v.chunksXlate copse (descChunks d.toNat y.1 y.2.2)).1 = .ok ps ∧ (∀ pa ∈ ps, s.stagedLine (pa / 128) = false) ∧
        s.copyAhead copse c (descChunks d.toNat y.1 y.2.2) = false) →
      arrives (fun x i => match v.xlate copse .read (descAddr d.toNat (x + i / 16 * 16)) with
        | .ok (pa, _) => s.homeGet (pa + i % 16)
        | .fault _ => 0)))

/-- Completion and drains (R212, R215, R216, R234, R235). R215 gives the drain's addition as one in the destination format; its saturation there is
the model's reading (log 36). -/
def Obligations.DrainsDeliverTheirRows : Prop :=
  (∀ (cl n : Nat) (c : Cmd) (s : State), let e := s.engineAt cl
    let r := e.resv n
    let copse := copseOf c.stand
    let cp := s.copseAt copse
    r.queue.find? (fun c => c.phase != .complete) = some c → e.running n c = true → (r.queue.map (fun c => c.seq)).Nodup → (∀ x ∈ e.recs, x.2.state ≠ .closing) →
    let finished (t : State) : Prop := ∀ d ∈ ((t.engineAt cl).resv n).queue, d.seq = c.seq → d.phase = .complete
    (c.op.drainOp = none → ∃ t, exec (.passComplete cl n) s = .next t ∧ finished t ∧ t = { s with clusters := t.clusters } ∧
      ∀ j x, x < 4096 → (t.engineAt cl).accAt j x = e.accAt j x) ∧
    (∀ o, c.op.drainOp = some o → c.phase = .granted → cp.life = .resident →
      let sz := if o.d = 0 then 4 else if o.d ≤ 2 then 2 else 1
      let data (i : Nat) : List Byte := ((c.vals.drop (64 * i)).take 64).flatMap (fun w => bytesOf w.toNat sz)
      (o.dest = 0 →
        let ls := distinct (c.todo.flatMap (fun i => linesOf (o.base + i * o.stride) (64 * sz)))
        let ws := drainElems c o sz
        (∀ l ∈ ls, (cp.lineAt l).bm = false ∧ cp.awaitsFill l = false) →
        (s.addBehind cl c = true → ∃ t, exec (.passComplete cl n) s = .next t ∧ (t.copseAt copse).scratch = cp.scratch ∧ SameMemory s t) ∧
        (s.addBehind cl c = false → ∃ t, exec (.passComplete cl n) s = .next t ∧ finished t ∧ SameMemory s t ∧ t.stands = s.stands ∧
          (∀ l ∈ ls, ((t.copseAt copse).lineAt l).full = true ∧ ((t.copseAt copse).lineAt l).filler = none) ∧
          (∀ a, lastByte ws a = none → memGet (t.copseAt copse).scratch a = memGet cp.scratch a) ∧
          (o.add = false → ∀ a b, lastByte ws a = some b → memGet (t.copseAt copse).scratch a = b))) ∧
      (o.dest = 1 →
        let unit := min (64 * sz) 128
        let bytes (p : Nat × Nat × Nat) : List Byte := ((data p.1).drop p.2.1).take unit
        (∀ cause va, s.piecesXlate copse (drainPieces c o) = (.fault cause, va) → cause ≠ 2 → cause ≠ 3 → s.deferRoom c.stand = true →
          ∃ t, exec (.passComplete cl n) s = .next t ∧ finished t ∧ SameMemory s t) ∧
        ∀ ps, (s.piecesXlate copse (drainPieces c o)).1 = .ok ps → (∀ p ∈ ps, isWindow p.2.2 = false ∧ p.2.2 % 128 + unit ≤ 128) →
        (o.add = false → (∀ p ∈ ps, s.stagedLine (p.2.2 / 128) = false) →
          let ws := ps.map (fun p => (p.2.2, (bytes p).length, natOf (bytes p)))
          ∃ t, exec (.passComplete cl n) s = .next t ∧ finished t ∧ t.stands = s.stands ∧ t.copses = s.copses ∧
            ∀ a, isWindow a = false → t.homeGet a = (lastByte ws a).getD (s.homeGet a)) ∧
        (o.add = true → (∃ p ∈ ps, s.heldLine (p.2.2 / 128) = true) → ∃ t, exec (.passComplete cl n) s = .next t ∧ t = { s with clusters := t.clusters }) ∧
        (o.add = true → (∀ p ∈ ps, s.heldLine (p.2.2 / 128) = false) → ∃ t, exec (.passComplete cl n) s = .next t ∧ SameMemory s t ∧ t.stands = s.stands ∧ t.copses = s.copses ∧
          (∀ l, (t.dirAt l).staged.length = (s.dirAt l).staged.length + (ps.filter (fun p => p.2.2 / 128 == l)).length) ∧
          ((s.launchAt cp.launch).det = true → finished t) ∧
          ((s.launchAt cp.launch).det = false → ∀ d ∈ ((t.engineAt cl).resv n).queue, d.seq = c.seq → d.phase = .staged))) ∧
      (o.dest = 2 → ∀ i rest, c.todo = i :: rest →
        (s.chanFree cp.core (32 + o.ch) = 0 → ∃ t, exec (.passComplete cl n) s = .next t ∧ t = { s with clusters := t.clusters }) ∧
        (0 < s.chanFree cp.core (32 + o.ch) → ∃ t x, exec (.passComplete cl n) s = .next t ∧ SameMemory s t ∧ t.stands = s.stands ∧
          (t.chanAt cp.core (32 + o.ch)).entries = (s.chanAt cp.core (32 + o.ch)).entries ++ [x] ∧
          (∀ w, w < 128 → tget 0 x w = BitVec.ofNat 32 (natOf (((data i).drop (4 * w)).take 4))) ∧
          (rest = [] → finished t ∧ (t.chanAt cp.core (32 + o.ch)).due = (s.chanAt cp.core (32 + o.ch)).due - 1) ∧
          (rest ≠ [] → ∃ d ∈ ((t.engineAt cl).resv n).queue, d.seq = c.seq ∧ d.todo = rest ∧ d.phase = .granted))))) ∧
  (∀ (cl n : Nat) (s : State), ∃ t, execDrainPart cl n s = .next t ∧ SameMemory s t ∧ t.stands = s.stands ∧ ∀ c o,
    ((s.engineAt cl).resv n).queue.find? (fun c => c.phase != .complete) = some c → c.op.drainOp = some o → o.dest = 0 → o.add = false →
    ∀ a, let was := memGet (s.copseAt (copseOf c.stand)).scratch a
      memGet (t.copseAt (copseOf c.stand)).scratch a = was ∨
        ∃ w ∈ drainElems c o (if o.d = 0 then 4 else if o.d ≤ 2 then 2 else 1), w.1 ≤ a ∧ a < w.1 + w.2.1 ∧
          memGet (t.copseAt (copseOf c.stand)).scratch a = BitVec.ofNat 8 (w.2.2 / 256 ^ (a - w.1))) ∧
  (∀ (line : Nat) (x : Staged) (s : State), isWindow (128 * line) = false → (∀ e ∈ x.elems, e.1 + dfmtBytes x.dfmt ≤ 128) →
    let sum (e : Nat × Word32) : Nat := (dfmtOf x.dfmt).addSat x.sat (s.homeRead (128 * line + e.1) (dfmtBytes x.dfmt)) e.2.toNat
    let ws := x.elems.map (fun e => (128 * line + e.1, dfmtBytes x.dfmt, sum e % 2 ^ 32))
    let added (t : State) : Prop := (t.dirAt line).staged = (s.dirAt line).staged.erase x ∧ t.stands = s.stands ∧ t.copses = s.copses ∧
      ∀ a, isWindow a = false → t.homeGet a = (lastByte ws a).getD (s.homeGet a)
    (∀ cl n c, ((s.engineAt cl).resv n).queue.find? (fun c => c.phase == .staged) = some c → s.stagedOf cl n c.seq = [(line, x)] →
      (∀ e ∈ s.cores, ∀ y ∈ e.2.slog, y.req = 0 → y.cause ≠ 0) → (∀ e ∈ s.stands, e.2.fenceM = none ∧ e.2.swbs = []) →
      ∃ t, exec (.drainCommit cl n) s = .next t ∧ added t ∧
        ∀ d ∈ ((t.engineAt cl).resv n).queue, d.seq = c.seq → d.phase = .complete) ∧
    (∀ launch stage ord k q, leastKey (s.dirAt line).staged = some x → x.det = some (launch, stage, ord, k, q) →
      let ended := (∀ j, j < stage → (s.stage launch j).done = true) ∧ ∀ o, o ≤ ord → o < (s.stage launch stage).created ∧
        ∀ e ∈ s.copses, e.2.launch = launch → e.2.stage = stage → e.2.ord = o → e.2.life ≠ .resident ∧ e.2.life ≠ .saved
      (ended → ∃ t, exec (.detDrainCommit line) s = .next t ∧ added t) ∧
      (¬ended → exec (.detDrainCommit line) s = .next s)))

/-! ### Copies and channels -/

/-- Starting and delivering copies (R318-R323, R325-R330, R335), and their records (R356, R358). That a malformed entry ends a copy as DENY does,
with cause 6 in its trap, and that a copy does not park while its stand's queue is full, are the model's choices (logs 28 and 52). -/
def Obligations.CopiesMoveTheirBytes : Prop :=
  (∀ (w : W128) (f : E96) (s : State),
    let c := s.myCopse
    let k := s.cur
    let starts (i : Instr) (form : CopyForm) (off : Nat) (runs : List (Nat × Nat)) (bw : Nat) (ntf : Option Nat) (bad6 : Bool) : Prop :=
      let len := (runs.map Prod.snd).sum
      let ls := linesOf off len
      let o := bw / 2 ^ 17 % 2 ^ 11 * 32
      let bound := bw / 2 ^ 28 % 2 = 1
      let inw := form = .cpy ∨ form = .tIn
      let cs : List (Prop × Nat × Nat) :=
        [(off % 16 ≠ 0 ∨ (runs.headD (0, 0)).1 % 16 ≠ 0 ∨ 128 * c.alloc < off + len, 6, 1),
         (inw ∧ ∃ l ∈ ls, (c.lineAt l).full = false ∧ ∃ q, (c.lineAt l).filler = some (.copy q), 6, 2),
         (bound ∧ ¬(o + 32 ≤ 128 * c.alloc ∧ (c.lineAt (o / 128)).bm = true), 6, 4),
         (∃ n, ntf = some n ∧ s.chanBad (copseOf k) c.core (16 + n) false = true, 6, 5),
         (bad6 = true, 6, 6), (inw ∧ ∃ l ∈ ls, (c.lineAt l).bm = true, 5, 2), (∃ r ∈ runs, 2 ^ 57 < r.1 + r.2, 3, 1)]
      let full := 64 ≤ c.copies.length ∨ 256 < s.engineLoad (copseOf k) + (1 + if form.inward then (c.copyTouches off len).length else 0)
      (∀ (j : Nat) (x : Prop × Nat × Nat), cs[j]? = some x → x.1 → (∀ (m : Nat) (y : Prop × Nat × Nat), m < j → cs[m]? = some y → ¬y.1) → Traps i s x.2.1 x.2.2) ∧
      ((∀ x : Prop × Nat × Nat, x ∈ cs → ¬x.1) →
        (full → ∃ t, WaitsWith i s t ∧ t.copses = s.copses ∧ SameMemory s t) ∧
        (¬full → ∃ t x, PassesWith i s t ∧ SameMemory s t ∧ t.myCopse.copies = c.copies ++ [x] ∧ t.nextId = s.nextId + 1 ∧
          t.me.copySeq = s.me.copySeq + 1 ∧ t.myCopse.scratch = c.scratch ∧
          x.seq = s.nextId ∧ x.stand = k ∧ x.num = s.me.copySeq ∧ x.form = form ∧ x.off = off ∧ x.runs = runs ∧
          x.cr = (if bound then some (o, bw / 2 ^ 29 % 4) else none) ∧ x.grp = BitVec.ofNat 4 (bw / 2 ^ 31) ∧
          x.sm = BitVec.ofNat 8 (bw / 2 ^ 35) ∧ x.ph = BitVec.ofNat 2 (bw / 2 ^ 43) ∧ x.ntf = ntf ∧ x.lines = 0 ∧ x.status = none ∧
          x.parked = none ∧ x.todo = List.range x.units.length ∧
          (inw → ∀ l ∈ ls,
            (t.myCopse.lineAt l).full = false ∧ (t.myCopse.lineAt l).filler = some (.copy s.nextId)) ∧
          (∀ l, ¬inw ∨ l ∉ ls → t.myCopse.lineAt l = c.lineAt l) ∧
          ∀ n, ntf = some n → (t.chanAt c.core (16 + n)).due = (s.chanAt c.core (16 + n)).due + 1))
    let lines (i : Instr) (form : CopyForm) : Prop :=
      starts i form ((s.rdS k w.dst.num.toNat).toNat % 2 ^ 32) [((s.rdS k w.sa.num.toNat).toNat, w.imm.toNat % 2 ^ 17)] w.imm.toNat
        (if w.md.getLsbD 4 then some (w.md.toNat % 16) else none) false
    let tile (i : Instr) (form : CopyForm) : Prop :=
      let d := (tget 0 s.me.d f.sa.num.toNat).toNat
      let off := (s.rdS k f.dst.num.toNat).toNat % 2 ^ 32
      let bw := (s.rdS k f.sb.num.toNat).toNat
      (descOk d = false → Traps i s 6 (if off % 16 ≠ 0 then 1 else 3)) ∧
      (descOk d = true → starts i form off ((List.range (d / 2 ^ 112 % 2 ^ 9 + 1)).map (fun r =>
          (d % 2 ^ 64 + r * (d / 2 ^ 64 % 2 ^ 32), d / 2 ^ 96 % 2 ^ 16))) bw
        (if f.md.getLsbD 6 then some (f.md.toNat / 4 % 16) else none) (bwLen bw != 0 || !bwZeros bw))
    (Acts s (.cpy w) → lines (.cpy w) .cpy) ∧ (Acts s (.cpyO w) → lines (.cpyO w) .cpyO) ∧
    (Acts s (.cpyTIn f) → tile (.cpyTIn f) .tIn) ∧ (Acts s (.cpyTOut f) → tile (.cpyTOut f) .tOut) ∧
    (Acts s (.cpyTDef f) →
      let a := s.rdS k f.sa.num.toNat
      let b := s.rdS k f.sb.num.toNat
      let stride := (b.extractLsb' 0 32).toNat
      let row := (b.extractLsb' 32 16).toNat
      let rows := (b.extractLsb' 48 9).toNat + 1
      let valid := b.extractLsb' 57 7 = 0 ∧ a.toNat % 16 = 0 ∧ stride % 16 = 0 ∧ 16 ≤ row ∧ row % 16 = 0 ∧ (rows = 1 ∨ row ≤ stride) ∧
        rows * row ≤ 65536 ∧ a.toNat + (rows - 1) * stride + row ≤ 2 ^ 57
      (¬valid → Traps (.cpyTDef f) s 6 3) ∧
      (valid → ∃ t, PassesWith (.cpyTDef f) s t ∧ SameMemory s t ∧
        ∀ n, tget 0 t.me.d n = if n = f.dst.num.toNat then (1 : BitVec 1) ++ (0 : BitVec 6) ++ b.extractLsb' 0 57 ++ a else tget 0 s.me.d n))) ∧
  (∀ (copse seq : Nat) (x : Copy) (s : State), let c := s.copseAt copse
    c.copyOf seq = some x → c.life = .resident → x.fate = none →
    (x.status = none → x.parked = none → x.ripe ≠ [] →
      let v := if x.ripe.length = 1 then s else s.bump
      let unit (i : Nat) : List Piece := (x.units[i]?).getD []
      let moved (i : Nat) (t : State) : Prop := let d := x.todo.erase i
        (t.copseAt copse).copyOf seq = (if d ≠ [] then some { x with todo := d, lines := x.lines + 1 }
          else if x.ntf.isSome then some { x with todo := d, lines := x.lines + 1, status := some 0 } else none)
      let bound (t : State) : Prop := ∀ o slot, x.cr = some (o, slot) → slot < 4 → LineCounted s t copse o slot x.stand
      let free (i : Nat) (acc : Acc) (qs : List (Nat × Piece)) : Prop := c.copyBehind x (unit i) = false ∧ s.fetchBehind copse x (unit i) = false ∧
        (v.unitXlate copse acc (unit i)).1 = .ok qs ∧ (∀ q ∈ qs, s.stagedLine (q.1 / 128) = false ∧ isWindow q.1 = false ∧ q.1 % 128 + q.2.2.2 ≤ 128)
      (x.form.inward = true → (∀ l ∈ x.restLines, (c.lineAt l).bm = false) →
        (∀ o slot, x.cr = some (o, slot) → o % 32 = 0 ∧ o / 128 ∉ x.restLines) →
        (∀ i ∈ x.ripe, (∃ qs, free i .read qs) ∧ ∀ p ∈ unit i, c.awaitsFill (p.2.1 / 128) = false) →
        ∃ t i qs, exec (.copyLineDeliver copse seq) s = .next t ∧ i ∈ x.ripe ∧ free i .read qs ∧ moved i t ∧ SameMemory s t ∧ bound t ∧
          (∀ a, x.apart a → memGet (t.copseAt copse).scratch a =
            (lastByte (qs.map (fun q => (q.2.2.1, q.2.2.2, s.homeRead q.1 q.2.2.2))) a).getD (memGet c.scratch a)) ∧
          ∀ p ∈ unit i, ((t.copseAt copse).lineAt (p.2.1 / 128)).full = true) ∧
      (x.form.inward = false → (∀ i ∈ x.ripe, (∃ qs, free i .write qs) ∧ ∀ p ∈ unit i, (c.lineAt (p.2.1 / 128)).full = true ∧
          ∀ b, p.2.1 ≤ b → b < p.2.1 + p.2.2 → ∀ m, tfind (b / 128) x.snap = some m → memGet m (b % 128) = memGet c.scratch b) →
        ∃ t i qs, exec (.copyLineDeliver copse seq) s = .next t ∧ i ∈ x.ripe ∧ free i .write qs ∧ moved i t ∧ bound t ∧
          (∀ a, x.apart a → memGet (t.copseAt copse).scratch a = memGet c.scratch a) ∧
          ∀ a, isWindow a = false → t.homeGet a =
            (lastByte (qs.map (fun q => (q.1, q.2.2.2, memRead c.scratch q.2.2.1 q.2.2.2))) a).getD (s.homeGet a))) ∧
    (∀ st n, x.status = some st → x.ntf = some n →
      (s.chanFree c.core (16 + n) = 0 → exec (.copyStatusPush copse seq) s = .next s) ∧
      (0 < s.chanFree c.core (16 + n) → ∃ t e, exec (.copyStatusPush copse seq) s = .next t ∧ (t.copseAt copse).copyOf seq = none ∧
        (t.chanAt c.core (16 + n)).entries = (s.chanAt c.core (16 + n)).entries ++ [e] ∧
        (t.chanAt c.core (16 + n)).due = (s.chanAt c.core (16 + n)).due - 1 ∧
        tget 0 e 0 = (0 : BitVec 16) ++ x.grp ++ st ++ BitVec.ofNat 10 x.lines ∧ tget 0 e 1 = x.num ∧ SameMemory s t))) ∧
  (∀ (copse seq : Nat) (x : Copy) (s : State),
    let c := s.copseAt copse
    let v := if x.ripe.length = 1 then s else s.bump
    let acc : Acc := if x.form.inward then .read else .write
    let unit (i : Nat) : List Piece := (x.units[i]?).getD []
    let room := (s.standAt x.stand).deferred.length < 16
    let named (cause line : Nat) (r : FaultRec) : Prop := r.cls = 3 ∧ r.cause = BitVec.ofNat 8 cause ∧ r.addr = BitVec.ofNat 64 line ∧
      r.akind = (if x.form.inward then 5 else 6) ∧ r.sm = x.sm ∧ r.aux = x.num.setWidth 64
    c.copyOf seq = some x → c.life = .resident → x.status = none → (s.standAt x.stand).life ≠ .absent →
    (x.fate = none → x.parked ≠ none → exec (.copyLineDeliver copse seq) s = .next s) ∧
    (x.fate = none → x.parked = none → ∀ first cause va, first ∈ x.ripe → (∀ i ∈ x.ripe, first ≤ i) →
      (∀ i ∈ x.ripe, c.copyBehind x (unit i) = false ∧ s.fetchBehind copse x (unit i) = false ∧ ∃ a, v.unitXlate copse acc (unit i) = (.fault cause, a)) →
      v.unitXlate copse acc (unit first) = (.fault cause, va) →
      ∃ t, exec (.copyLineDeliver copse seq) s = .next t ∧ SameMemory s t ∧
        (cause = 2 ∨ cause = 3 → room → (t.copseAt copse).scratch = c.scratch ∧ (t.copseAt copse).lines = c.lines ∧
          TrapDeferred s t x.stand (named cause (128 * (va / 128))) ∧
          ∃ id, (t.copseAt copse).copyOf seq = some { x with parked := some id } ∧
            ∃ p ∈ (t.viAt c.vi).pages, p.id = id ∧ p.page = 128 * (va / 128) / 65536 ∧ p.cause = cause) ∧
        (cause = 2 ∨ cause = 3 → ¬room → t.copses = s.copses ∧ t.stands = s.stands ∧ t.vis = s.vis) ∧
        (cause ≠ 2 → cause ≠ 3 → room → CopyEnds s t copse x 2 ∧ TrapDeferred s t x.stand (named 6 (128 * (va / 128))))) ∧
    (∀ st (r : TrapReq), x.fate = some (st, r) →
      (room → ∃ t, exec (.copyLineDeliver copse seq) s = .next t ∧ SameMemory s t ∧ CopyEnds s t copse x st ∧
        TrapDeferred s t x.stand (fun f => f.cls = r.cls ∧ f.cause = r.cause ∧ f.addr = r.addr)) ∧
      (¬room → ∃ t, exec (.copyLineDeliver copse seq) s = .next t ∧ SameMemory s t ∧ (t.copseAt copse).copyOf seq = some x ∧ t.stands = s.stands)) ∧
    ∀ vi id tag deny u, s.takeCmd vi 2 tag = some u → u.residentsOf vi = [copse] → (u.copseAt copse).copies = [x] → x.parked = some id →
      x.fate = none → (∃ p ∈ (u.viAt vi).pages, p.id = id) → (∀ f ∈ (u.copseAt copse).fills, f.req ≠ some id) → u.cmdsOn vi id = [] →
      (∀ e ∈ u.logsOf vi, e.2.req ≠ id) →
      (∀ k ∈ u.standsOfVi vi, (u.standAt k).wait.onPage id = false ∧ (u.standAt k).fenceM = none ∧ (u.standAt k).swbs = []) →
      ∃ t, exec (.pageAns vi tag id deny) s = .next t ∧ CompletionPosted u t vi tag 0 0 ∧ SameMemory s t ∧
        (deny = false → (t.copseAt copse).copies = [{ x with parked := none }] ∧ t.stands = u.stands) ∧
        (deny = true → room → CopyEnds u t copse x 2 ∧
          TrapDeferred u t x.stand (fun r => r.cls = 3 ∧ r.cause = 6 ∧ ∀ first, first ∈ x.ripe → (∀ i ∈ x.ripe, first ≤ i) → ∀ cause va,
            u.unitXlate copse acc (unit first) = (.fault cause, va) → r.addr = BitVec.ofNat 64 (128 * (va / 128)))))

/-- Copy controls (R331-R334) and channels (R336-R341). That cpcan is outstanding until the copies it cancelled have ended (log 31), the addresses
of the CPY traps (log 29), and that a record offset of cpyield that is no multiple of 32 is CPY cause 4 as a misplaced one is (log 95), are
the model's choices. -/
def Obligations.CopyControlsAndChannels : Prop :=
  ∀ (f : A64) (g : I64) (s : State),
    let c := s.myCopse
    let k := s.cur
    let core := s.myCoreKey
    let puts (i : Instr) (x : Word64) (post : State → Prop) : Prop := ∃ t, exec i s = .next t ∧ t.me.pc = s.me.pc + 8 ∧ t.me.v = s.me.v ∧
      t.me.p = s.me.p ∧ t.me.q = s.me.q ∧ SameMemory s t ∧ post t ∧
      ∀ n, tget 0 t.me.sr n = if n = f.dst.num.toNat then x else tget 0 s.me.sr n
    let a := s.rdS k f.sa.num.toNat
    (Acts s (.cpwait f) →
      let some' := ∃ x ∈ c.copies, x.stand = k ∧ a.getLsbD x.grp.toNat = true
      (some' → ∃ t, WaitsWith (.cpwait f) s t ∧ t.me.wait = .copies (a.setWidth 16) ∧ t.copses = s.copses) ∧
      (¬some' → ∃ t, PassesWith (.cpwait f) s t ∧ LocalFrame s t ∧ SameMemory s t)) ∧
    (Acts s (.cpyield g) →
      let b := s.rdS k g.sa.num.toNat
      let o := b.toNat % 2 ^ 16
      let ph := b.toNat / 2 ^ 16 % 2
      let tgt := s.me.pc + (g.imm.signExtend 64 <<< 2)
      let r := memRead c.scratch o 32
      let placed := o % 32 = 0 ∧ o + 32 ≤ 128 * c.alloc ∧ (c.lineAt (o / 128)).bm = true
      (¬placed → AccessTraps (.cpyield g) s 6 4 o 0) ∧
      (placed → r % 2 ≠ ph → ∃ t, exec (.cpyield g) s = .next t ∧ t.me.pc = tgt ∧ t.me.a = s.me.a ∧ t.me.stack = s.me.stack ∧
        t.me.v = s.me.v ∧ t.me.sr = s.me.sr ∧ t.me.p = s.me.p ∧ LocalFrame s t ∧ SameMemory s t ∧
        ∀ n, n < 4 → t.me.q.getLsbD n = if n = g.dst.num.toNat then decide (r / 2 % 2 = 0) else s.me.q.getLsbD n) ∧
      (placed → r % 2 = ph → ∃ t, exec (.cpyield g) s = .next t ∧ t.me.pc = s.me.pc ∧
        t.me.wait = .cont (BitVec.ofNat 16 o) (ph == 1) g.dst.num.toNat tgt ∧ t.me.sr = s.me.sr ∧ t.me.q = s.me.q ∧
        memRead t.myCopse.scratch o 32 = (if r / 2 ^ (32 + k % 16) % 2 = 1 then r else r + 2 ^ (32 + k % 16)) ∧
        ∀ x, x < o ∨ o + 32 ≤ x → memGet t.myCopse.scratch x = memGet c.scratch x)) ∧
    (Acts s (.cfe f) → ∃ x : Word64, puts (.cfe f) x (fun t => LocalFrame s t) ∧
      ∀ i, i < 64 → x.getLsbD i = (decide ((a.extractLsb' 7 25).toNat + i < c.alloc) &&
        (if f.md = 1 then (c.lineAt ((a.extractLsb' 7 25).toNat + i)).bm else (c.lineAt ((a.extractLsb' 7 25).toNat + i)).full))) ∧
    (Acts s (.cpcan f) →
      let hit := c.copies.filter (fun x => (f.md == 1 || x.stand == k) && a.getLsbD x.grp.toNat)
      (c.copies.map (fun x => x.seq)).Nodup →
      ((∀ x ∈ hit, x.ntf = none ∧ x.fate = none ∧ x.status = none) →
        ∃ t, PassesWith (.cpcan f) s t ∧ SameMemory s t ∧ t.myCopse.copies = c.copies.filter (fun x => x ∉ hit)) ∧
      ((∃ x ∈ hit, x.ntf ≠ none) → ∃ t, SameMemory s t ∧
        LeavesPending (.cpcan f) s t { Pend.empty with on := .copies (hit.map (fun x => x.seq)) })) ∧
    (Acts s (.chsend g) →
      let n := g.imm.toNat
      let v := s.srcVal k g.h.uni false (shortOpd g.h.uni g.sa)
      (s.chanBad (copseOf k) core n true = true → Traps (.chsend g) s 6 5) ∧
      (s.chanBad (copseOf k) core n true = false →
        (s.chanFree core n = 0 → ∃ t, WaitsWith (.chsend g) s t ∧ t.cores = s.cores) ∧
        (0 < s.chanFree core n → ∃ t e, PassesWith (.chsend g) s t ∧ LocalFrame s t ∧ SameMemory s t ∧
          (t.chanAt core n).entries = (s.chanAt core n).entries ++ [e] ∧ (∀ m, m ≠ n → t.chanAt core m = s.chanAt core m) ∧
          ∀ w, w < 128 → tget 0 e w = if g.h.uni then (if w = 0 then (v 0).extractLsb' 0 32 else if w = 1 then (v 0).extractLsb' 32 32 else 0)
            else if (s.me.part g.h).getLsbD w then (v w).extractLsb' 0 32 else 0))) ∧
    (Acts s (.chrecv g) →
      let n := g.imm.toNat
      (s.chanBad (copseOf k) core n false = true → Traps (.chrecv g) s 6 5) ∧
      (s.chanBad (copseOf k) core n false = false →
        ((s.chanAt core n).entries = [] → ∃ t, WaitsWith (.chrecv g) s t ∧ t.cores = s.cores) ∧
        ∀ e r, (s.chanAt core n).entries = e :: r → ∃ t, exec (.chrecv g) s = .next t ∧ t.me.pc = s.me.pc + 8 ∧ t.me.p = s.me.p ∧
          t.me.q = s.me.q ∧ LocalFrame s t ∧ SameMemory s t ∧
          (t.chanAt core n).entries = r ∧ (∀ m, m ≠ n → t.chanAt core m = s.chanAt core m) ∧
          let d := (shortOpd g.h.uni g.dst).num.toNat
          (g.h.uni = true → t.me.v = s.me.v ∧ ∀ m, tget 0 t.me.sr m = if m = d then tget 0 e 1 ++ tget 0 e 0 else tget 0 s.me.sr m) ∧
          (g.h.uni = false → t.me.sr = s.me.sr ∧ ∀ m w, w < 128 → tget 0 t.me.v (128 * m + w) =
            if m = d ∧ (s.me.part g.h).getLsbD w then tget 0 e w else tget 0 s.me.v (128 * m + w)))) ∧
    (Acts s (.chcfgSet f) →
      let n := (a.extractLsb' 0 6).toNat
      let depth := (a.extractLsb' 6 6).toNat
      let x := s.chanAt core n
      let rest := (((s.coreAt core).chans.filter (fun e => e.1 != n)).map (fun e => e.2.depth)).sum
      let st := if s.maint = true ∨ n < 16 then 1 else if x.owner ≠ none ∧ x.owner ≠ some (copseOf k) then 2
        else if 32 < depth ∨ 128 < rest + depth then 3 else if depth < x.entries.length + x.held then 4
        else if depth = 0 ∧ x.due ≠ 0 then 5 else 0
      puts (.chcfgSet f) (BitVec.ofNat 64 st) (fun t => LocalFrame s t ∧ (∀ m, m ≠ n → t.chanAt core m = s.chanAt core m) ∧
        t.chanAt core n = if st = 0 then { x with depth := depth, owner := if depth = 0 then none else some (copseOf k) } else x)) ∧
    (Acts s (.chcfgQ f) →
      let n := (a.extractLsb' 0 6).toNat
      let x := s.chanAt core n
      let depth := if n < 16 then 0 else s.chanDepth core n
      let used := x.entries.length + x.held
      depth < 64 → used < 64 → puts (.chcfgQ f) ((0 : BitVec 45) ++ BitVec.ofBool (x.owner == some (copseOf k)) ++ BitVec.ofNat 6 (depth - used) ++
        BitVec.ofNat 6 used ++ BitVec.ofNat 6 depth) (fun t => LocalFrame s t ∧ ∀ m, t.chanAt core m = s.chanAt core m))

/-! ### Atomics -/

/-- Atomics (R344-R352). ADDR and AKIND of the traps (log 30), floating minimum and maximum under DET (log 83), the wait of red.cell behind
grove events (log 43) and that the launch of the contributing stand decides whether a contribution is held (log 44) are the model's
choices. -/
def Obligations.AtomicsRunThreadByThread : Prop :=
  (∀ (op ty : Nat) (a x : BitVec (tyBits ty)), op < 8 → atomTyOk op ty = true → tyF ty = false →
    atomOp op ty a.toNat x.toNat = (atomBits op ty a x).toNat) ∧
  (∀ (f : M96) (s : State), Acts s (.atom f) → let ty := f.ty.toNat
    let sp := f.md.getLsbD 3
    let xs := s.eas f.h f.ab (M96.ofsInt f) (!sp)
    AtomicClaim (.atom f) s ⟨.atom f, f.h, !sp, ty, f.sm, f.ph, f.ord, some (f.md.toNat % 8)⟩ xs
      (fun t old => some (atomOp (f.md.toNat % 8) ty old (s.elemOf f.h.uni f.dr ty t))) false
      (fun t tbl => LeavesPending (.atom f) s t (outVals f.h.uni (s.me.part f.h) f.dr (tyBits ty == 64) (fun j => outTy ty (tget 0 tbl j))))) ∧
  (∀ (f : W128) (s : State), Acts s (.atomCas f) → let ty := f.md.toNat % 32
    let sp := f.imm.getLsbD 34
    let xs := s.eas f.h f.sa (f.imm.extractLsb' 0 24).toInt (!sp)
    AtomicClaim (.atomCas f) s ⟨.atomCas f, f.h, !sp, ty, f.imm.extractLsb' 24 8, f.imm.extractLsb' 32 2, f.md.extractLsb' 5 2, none⟩ xs
      (fun t old => if old = s.elemOf f.h.uni f.sb ty t then some (s.elemOf f.h.uni f.dst ty t) else none) false
      (fun t tbl => LeavesPending (.atomCas f) s t (outVals f.h.uni (s.me.part f.h) f.dst (tyBits ty == 64) (fun j => outTy ty (tget 0 tbl j))))) ∧
  (∀ (f : M96) (s : State), Acts s (.red f) → let ty := f.ty.toNat
    let sp := f.md.getLsbD 3
    let xs := s.eas f.h f.ab (M96.ofsInt f) (!sp)
    let side := !sp && f.ord == 0
    AtomicClaim (.red f) s ⟨.red f, f.h, !sp, ty, f.sm, f.ph, f.ord, some (f.md.toNat % 8)⟩ xs
      (fun t old => some (atomOp (f.md.toNat % 8) ty old (s.elemOf f.h.uni f.dr ty t))) side (fun t _ => PassesWith (.red f) s t) ∧
    (side = true → (∀ x ∈ xs, x.2 % (tyBits ty / 8) = 0) → (tyF ty = false ∨ f.md.toNat % 8 ≠ 0 ∨ s.det = false ∨ xs = []) →
      SideLogs (.red f) s f.h.uni (xs.map (fun x => (x.1, x.2, tyBits ty / 8, s.elemOf f.h.uni f.dr ty x.1))) f.sm
        (some (f.md.extractLsb' 0 3, f.ty)) (PassesWith (.red f) s))) ∧
  (∀ (f : M96) (s : State), Acts s (.redCell f) → let ty := f.ty.toNat
    let op := f.md.toNat % 8
    let ts := resultLanes s.me f.h
    let x (t : Nat) : Nat := s.elemOf f.h.uni f.dr ty t
    let early : Prop := ∃ e ∈ s.groveQ, e.stand = s.cur
    (ts = [] → ∃ t, PassesWith (.redCell f) s t ∧ t.groves = s.groves ∧ SameMemory s t) ∧
    (ts ≠ [] → early → ∃ t, WaitsWith (.redCell f) s t ∧ t.groves = s.groves ∧ SameMemory s t) ∧
    (ts ≠ [] → ¬early →
      (tfind f.ab.num.toNat s.me.g = none → Traps (.redCell f) s 7 2) ∧
      ∀ h, tfind f.ab.num.toNat s.me.g = some h → let g := s.groveAt h.grec
        let member : Prop := s.handleLive s.cur h = true ∧ g.cell = true
        let typed : Prop := g.cop.toNat = op ∧ g.cty = f.ty
        (¬member → Traps (.redCell f) s 7 2) ∧
        (member → ¬typed → Traps (.redCell f) s 7 3) ∧
        (member → typed → s.det = true → 65536 ≤ g.contribs.length → Traps (.redCell f) s 7 4) ∧
        (member → typed → s.det = false → ∃ t, PassesWith (.redCell f) s t ∧ SameMemory s t ∧ (∀ j, j ≠ h.grec → t.groveAt j = s.groveAt j) ∧
          t.groveAt h.grec = { g with value := ts.foldl (fun v t => BitVec.ofNat 64 (atomOp op ty v.toNat (x t))) g.value }) ∧
        (member → typed → s.det = true → g.contribs.length < 65536 → ∃ t new, PassesWith (.redCell f) s t ∧ SameMemory s t ∧
          (∀ j, j ≠ h.grec → t.groveAt j = s.groveAt j) ∧ t.groveAt h.grec = { g with contribs := g.contribs ++ new } ∧
          new.map (fun c => (c.phase, c.ord, c.joined, c.stand, c.x)) =
            ts.map (fun t => (g.cellPhase s.cur, s.memberOrd s.cur, g.joinedAt s.cur, s.cur, BitVec.ofNat 64 (x t))))))

/-! ### Completion records -/

/-- The record instructions (R353-R366; R318 for the wait of crinit). The addresses of the PRT traps are log 29's. -/
def Obligations.RecordInstructions : Prop :=
  ∀ (f : A64) (s : State),
    let copse := copseOf s.cur
    let c := s.myCopse
    let me := s.cur % 16
    let a := s.rdS s.cur f.sa.num.toNat
    let e := s.rdS s.cur f.sb.num.toNat
    let o := a.toNat % 2 ^ 16
    let d := f.dst.num.toNat
    let v := recView s copse o
    let placed : Prop := o % 32 = 0 ∧ o + 32 ≤ 128 * c.alloc
    let named : Prop := placed ∧ (c.lineAt (o / 128)).bm = true ∧ v.valid = 1
    let expl (i : Nat) : Nat := (e.extractLsb' (5 + 10 * i) 10).toNat
    let ew : Prop := (e.extractLsb' 0 5).toNat ≤ 16 ∧ e.toNat < 2 ^ 45 ∧ e.toNat ≠ 0
    let sid (i : Nat) : Nat := (a.extractLsb' (16 + 5 * i) 5).toNat
    let goes (i : Instr) (t : State) : Prop := exec i s = .next t ∧ t.me.pc = s.me.pc + 8 ∧ t.me.v = s.me.v ∧ t.me.p = s.me.p ∧
      SameMemory s t ∧ ∀ x, x < o ∨ o + 32 ≤ x → memGet t.myCopse.scratch x = memGet c.scratch x
    let others (t : State) : Prop := ∀ j, j ≠ s.cur → t.standAt j = s.standAt j
    let putS (t : State) (x : Word64) : Prop := t.me.q = s.me.q ∧ t.me.wait = .none ∧ ∀ n, tget 0 t.me.sr n = if n = d then x else tget 0 s.me.sr n
    let putQ (t : State) (b : Bool) : Prop := t.me.sr = s.me.sr ∧ t.me.wait = .none ∧ t.me.q = setQ s.me.q d b
    let parks (t : State) : Prop := t.me.sr = s.me.sr ∧ t.me.q = s.me.q ∧ t.me.wait = .record (BitVec.ofNat 16 o) (v.ph == 1) d
    let ready : Bool := (s.release s.cur 1).1
    let arrives (i : Instr) (w : Bool) : Prop :=
      (¬named → AccessTraps i s 5 5 o 0xB) ∧
      (named → ready = false → ∃ t, WaitsWith i s t ∧ SameMemory s t ∧ t.myCopse.scratch = c.scratch) ∧
      (named → ready = true → v.exps ≤ v.arrs → ∃ t, goes i t ∧ t.me.sr = s.me.sr ∧ t.me.q = s.me.q ∧ others t ∧
        t.me.wait = .heldRec (BitVec.ofNat 16 o) d w ∧ recView t copse o = { v with held := v.held ||| BitVec.ofNat 16 (2 ^ me) }) ∧
      (named → ready = true → v.arrs < v.exps → ∃ t n, goes i t ∧
        let v1 := { v with arrs := v.arrs + 1 }
        let vn := v1.after (heldWaits s copse) n
        v1.settles (heldWaits s copse) n ∧ (n = 0 → others t) ∧
        (0 < n → ∀ j, j < 16 → j ≠ me →
          (v.park.getLsbD j = true → v.held.getLsbD j = false → t.standAt (16 * copse + j) = woken (s.standAt (16 * copse + j)) true) ∧
          (v.park.getLsbD j = false → v.held.getLsbD j = false → t.standAt (16 * copse + j) = s.standAt (16 * copse + j))) ∧
        (w = false → putS t (BitVec.ofNat 64 (v.ph * 2 ^ 16 + o)) ∧ recView t copse o = vn) ∧
        (w = true → vn.ph ≠ v.ph → putQ t (vn.brk == 0) ∧ recView t copse o = vn) ∧
        (w = true → vn.ph = v.ph → parks t ∧ recView t copse o = { vn with park := vn.park ||| BitVec.ofNat 16 (2 ^ me) }))
    (Acts s (.crinit f) →
      (¬placed → AccessTraps (.crinit f) s 5 5 o 0xB) ∧
      let x := c.lineAt (o / 128)
      let noRoom : Prop := x.touched = false ∧ x.region ≠ 0 ∧ s.engineRoom copse 1 = false
      (placed → noRoom → ∃ t, WaitsWith (.crinit f) s t ∧ SameMemory s t ∧ t.myCopse = c) ∧
      (placed → ¬noRoom →
        let status := if x.bm = true ∧ v.valid = 1 then 1
          else if ¬ew ∨ (∃ i, i < 4 ∧ 16 < sid i) ∨ 2 ^ 36 ≤ a.toNat then 2
          else if x.full = false ∧ x.filler ≠ none then 3 else 0
        ∃ t, goes (.crinit f) t ∧ putS t (BitVec.ofNat 64 status) ∧ others t ∧
          (status ≠ 0 → t.myCopse.scratch = c.scratch ∧ ∀ l, (t.myCopse.lineAt l).bm = (c.lineAt l).bm) ∧
          (status = 0 → recView t copse o = ⟨0, 0, 0, 0, 1, (e.extractLsb' 0 5).toNat, 0, 0, 0, 0,
              (List.range 4).map (fun i => (sid i, expl i, 0, 0))⟩ ∧
            ∀ l, (t.myCopse.lineAt l).bm = if l = o / 128 then true else (c.lineAt l).bm))) ∧
    (Acts s (.crexp f) →
      (¬named → AccessTraps (.crexp f) s 5 5 o 0xB) ∧
      (named → ∃ t, goes (.crexp f) t ∧ others t ∧
        (ew → putS t 0 ∧ let slots := ((List.range 4).zip v.slots).map (fun x => (x.2.1, x.2.2.1, x.2.2.2.1, expl x.1))
          recView t copse o = { v with nexps := (e.extractLsb' 0 5).toNat, nxv := 1, slots := slots }) ∧
        (¬ew → putS t 2 ∧ t.myCopse.scratch = c.scratch))) ∧
    (Acts s (.arrive f) → arrives (.arrive f) false) ∧
    (Acts s (.arriveW f) → arrives (.arriveW f) true) ∧
    (Acts s (.crwait f) →
      (¬named → AccessTraps (.crwait f) s 5 5 o 0xB) ∧
      (named → ∃ t, goes (.crwait f) t ∧ others t ∧
        (v.ph ≠ a.toNat / 2 ^ 16 % 2 → putQ t (v.brk == 0) ∧ t.myCopse.scratch = c.scratch) ∧
        (v.ph = a.toNat / 2 ^ 16 % 2 → parks t ∧ recView t copse o = { v with park := v.park ||| BitVec.ofNat 16 (2 ^ me) }))) ∧
    (Acts s (.crinv f) →
      (¬named → AccessTraps (.crinv f) s 5 5 o 0xB) ∧
      (named → ∃ t, goes (.crinv f) t ∧ t.me.sr = s.me.sr ∧ t.me.q = s.me.q ∧ t.me.wait = .none ∧
        (∀ x, o ≤ x → x < o + 32 → memGet t.myCopse.scratch x = 0) ∧
        (∀ l, (t.myCopse.lineAt l).bm = if l = o / 128
          then (List.range 4).any (fun j => 128 * l + 32 * j != o && (recView s copse (128 * l + 32 * j)).valid == 1) else (c.lineAt l).bm) ∧
        ∀ j, j < 16 → j ≠ me → let x := s.standAt (16 * copse + j)
          t.standAt (16 * copse + j) = match x.wait with
            | .heldRec _ d w => if v.held.getLsbD j then
                (if w then { x with q := setQ x.q d false, wait := .none }
                  else { x with sr := tset d (BitVec.ofNat 64 (v.ph * 2 ^ 16 + o)) x.sr, wait := .none }) else x
            | _ => if v.park.getLsbD j then woken x false else x))

/-! ### Groves -/

/-- The grove instructions (R383-R391) up to the home slice. That a g register with an outstanding change interlocks is the model's reading
(log 42). -/
def Obligations.GroveInstructionsSendEvents : Prop :=
  (∀ ident tag, (groveName ident tag).toNat / 2 ^ 52 = 8 ∧ (groveName ident tag).toNat / 2 ^ 32 % 2 ^ 16 = tag % 2 ^ 16) ∧
  ∀ (f : W128) (s : State),
    let n := f.imm.toNat % 16
    let d := f.dst.num.toNat
    let a := s.rdS s.cur f.sa.num.toNat
    let coming := s.handleWaits s.cur n
    let waits (i : Instr) : Prop := ∃ t, WaitsWith i s t ∧ t.groveQ = s.groveQ ∧ t.groves = s.groves
    let arrives (i : Instr) (kind : ArrKind) (x : Word64) (regs : List Nat) : Prop :=
      (coming = true → waits i) ∧
      (coming = false → tfind n s.me.g = none → Traps i s 9 1) ∧
      (coming = false → ∀ h, tfind n s.me.g = some h →
        (s.handleLive s.cur h = false → ∃ t, t.groveQ = s.groveQ ∧ t.groves = s.groves ∧ LeavesPending i s t
          { Pend.empty with sw := regs.zip (match kind with | .red _ _ => [0, 4] | _ => [4]) }) ∧
        (s.handleLive s.cur h = true → (s.release s.cur (s.groveAt h.grec).scope).1 = false → waits i) ∧
        (s.handleLive s.cur h = true → (s.release s.cur (s.groveAt h.grec).scope).1 = true →
          ∃ t, SendsEvent i s t (.arrive kind x) n regs false ∧ t.me.wait = .groveHeld n))
    (Acts s (.gcreate f) → ∃ t, SendsEvent (.gcreate f) s t (.create f.imm (if f.imm.getLsbD 27 then a else 0)) n [d] true ∧ SameMemory s t) ∧
    (Acts s (.gjoin f) → ∃ t, SendsEvent (.gjoin f) s t (.join a) n [d] true ∧ SameMemory s t) ∧
    (Acts s (.gdestroy f) → ∃ t, SendsEvent (.gdestroy f) s t (.destroy a) n [d] false ∧ SameMemory s t) ∧
    (Acts s (.gleave f) → (coming = true → waits (.gleave f)) ∧
      (coming = false → ∃ t, SendsEvent (.gleave f) s t .leave n [] false ∧ SameMemory s t)) ∧
    (Acts s (.gbar f) → arrives (.gbar f) .bar 0 [d]) ∧
    (Acts s (.gvote f) → arrives (.gvote f) (.vote (f.md.setWidth 2)) (if s.me.qval f.sa.num.toNat then 1 else 0) [d]) ∧
    (Acts s (.gred f) → let ty := f.imm.extractLsb' 7 5
      arrives (.gred f) (.red (f.imm.extractLsb' 4 3) ty) ((a.setWidth (tyBits ty.toNat)).setWidth 64) [d, d + 1]) ∧
    (Acts s (.gquery f) → let form := f.md.toNat
      (form = 4 → ∃ t, SendsEvent (.gquery f) s t (.query 4) n [d] false ∧ SameMemory s t) ∧
      (form ≠ 4 → coming = true → waits (.gquery f)) ∧
      (form ≠ 4 → coming = false → tfind n s.me.g = none → Traps (.gquery f) s 9 1) ∧
      (form ≠ 4 → coming = false → ∀ h, tfind n s.me.g = some h →
        (s.handleLive s.cur h = false → ∃ t, LeavesPending (.gquery f) s t { Pend.empty with sw := [(d, 0)] } ∧ SameMemory s t) ∧
        (s.handleLive s.cur h = true → form = 3 → (s.groveAt h.grec).cell = false → Traps (.gquery f) s 9 2) ∧
        (s.handleLive s.cur h = true → (form ≠ 3 ∨ (s.groveAt h.grec).cell = true) →
          ∃ t, SendsEvent (.gquery f) s t (.query (f.md.setWidth 3)) n [d] false ∧ SameMemory s t)))

/-- Events at the home slice (R374-R376, R385-R391). The status of an arrival whose stand has left or whose grove is gone (log 39), and what decides
the order and the holding of contributions (log 44), are the model's choices. -/
def Obligations.GroveEventsTakeEffect : Prop :=
  ∀ (k : Nat) (s : State),
    let st := s.standAt k
    let c := s.copseAt (copseOf k)
    let mine := s.groveQ.find? (fun e => e.stand == k)
    (mine = none ∨ c.life ≠ .resident → exec (.groveEventApply k) s = .next s) ∧
    ∀ e, mine = some e → c.life = .resident → (∃ p ∈ st.pend, p.on = .grove) →
      let gn := e.gn
      let free := (tfind gn st.g).isNone
      let held := (s.groves.filter (fun x => x.2.live && x.2.vi == c.vi)).length
      let ord := c.stage % 8 * 2 ^ 61 + c.ord % 2 ^ 57 * 16 + k % 16
      let reaches (t : State) : Prop := exec (.groveEventApply k) s = .next t ∧ t.groveQ = s.groveQ.erase e ∧ ∀ pa, t.homeGet pa = s.homeGet pa
      let quiet (t : State) : Prop := reaches t ∧ SameMemory s t ∧ ∀ j, j ≠ k → t.standAt j = s.standAt j
      let votes (a : ArrKind) : Bool := match a with | .vote _ => true | _ => false
      let only (t : State) (key : Nat) : Prop := ∀ j, j ≠ key → t.groveAt j = s.groveAt j
      let joined (g : Grove) : Member := ⟨k, ord, g.joins, if (g.phase = 0 ∧ g.zeroCount < max 1 g.start) ∨ g.idle = true then .counted else .idle, none, false⟩
      (∀ imm val, e.op = .create imm val →
        let q := (s.viAt c.vi).gquota.toNat
        let status := if free = false then 1 else if q ≠ 0 ∧ q ≤ held then 2
          else if 512 * (s.viAt c.vi).dom.live.slices.length ≤ held then 3 else 0
        ∃ t, quiet t ∧
          (status ≠ 0 → GroveAnswers s t k st.g [status] (some false) ∧ t.groves = s.groves) ∧
          (status = 0 → ∃ key, key = s.nextId ∧ t.nextId = key + 1 ∧ only t key ∧ GroveAnswers s t k (tset gn ⟨key, 0⟩ st.g) [0] (some true) ∧
            let lim := (imm.extractLsb' 4 22).toNat
            let cty := imm.extractLsb' 31 5
            t.groveAt key = ⟨true, c.vi, s.newIdent key, 0, if lim = 0 then 4194303 else lim, imm.getLsbD 26, imm.getLsbD 27, imm.extractLsb' 28 3, cty,
              imm.extractLsb' 36 8, (imm.extractLsb' 44 20).toNat, [⟨k, ord, 0, .counted, none, false⟩], 1, 0, 1, false, false, false, false,
              if imm.getLsbD 27 then (val.setWidth (tyBits cty.toNat)).setWidth 64 else 0, []⟩)) ∧
      (∀ name, e.op = .join name →
        let named := s.resolveName c.vi name
        let fails (x : Nat) : Prop := ∃ t, quiet t ∧ GroveAnswers s t k st.g [x] (some false) ∧ t.groves = s.groves
        (free = false → fails 1) ∧ (free = true → named = .bad → fails 5) ∧ (free = true → named = .stale → fails 4) ∧
        (free = true → ∀ key, named = .live key → let g := s.groveAt key
          (g.limit ≤ g.members.length → fails 6) ∧
          (g.members.length < g.limit → (g.member k).isSome = true → fails 7) ∧
          (g.members.length < g.limit → (g.member k).isSome = false → ∃ t, quiet t ∧ only t key ∧
            GroveAnswers s t k (tset gn ⟨key, g.tag⟩ st.g) [0] (some true) ∧
            ∃ a b, g.members = a ++ b ∧ t.groveAt key = { g with members := a ++ joined g :: b, joins := g.joins + 1,
                                                                 zeroCount := g.zeroCount + (if g.phase = 0 ∧ g.zeroCount < max 1 g.start then 1 else 0) } ∧
              ((g.members.Pairwise (fun x y => x.ord ≤ y.ord)) → (∀ x ∈ a, x.ord ≤ ord) ∧ ∀ x ∈ b, ord ≤ x.ord)))) ∧
      (e.op = .leave →
        (e.handle = none → ∃ t, quiet t ∧ GroveAnswers s t k st.g [] none ∧ t.groves = s.groves) ∧
        (∀ h, e.handle = some h → s.handleLive k h = false →
          ∃ t, quiet t ∧ GroveAnswers s t k (tdel gn st.g) [] none ∧ t.groves = s.groves) ∧
        ∀ h, e.handle = some h → s.handleLive k h = true → let g := s.groveAt h.grec
          let left := { g with members := g.members.filter (fun x => x.stand != k), contribs := g.contribs.filter (fun x => x.stand != k) }
          left.complete = false → ∃ t, quiet t ∧ only t h.grec ∧ GroveAnswers s t k (tdel gn st.g) [] none ∧ t.groveAt h.grec = left) ∧
      (∀ kind x h, e.op = .arrive kind x → e.handle = some h →
        (s.handleLive k h = false → ∃ t, quiet t ∧ t.groves = s.groves ∧
          t.standAt k = groveWoken st (match kind with | .red _ _ => [0, 4] | _ => [4])) ∧
        (s.handleLive k h = true → ∀ m, (s.groveAt h.grec).member k = some m → (((s.groveAt h.grec).members.map (fun x => x.stand)).Nodup) →
          let g := s.groveAt h.grec
          let put (y : Member) : Grove := { g with members := g.members.map (fun x => if x.stand = k then y else x) }
          let now := { put { m with st := .arrived kind x } with idle := false }
          (m.st ≠ .counted → ∃ t, quiet t ∧ only t h.grec ∧ t.standAt k = { st with wait := .groveHeld gn } ∧
            t.groveAt h.grec = put { m with held := some (kind, x) }) ∧
          (m.st = .counted → now.complete = false → ∃ t, quiet t ∧ only t h.grec ∧ t.standAt k = { st with wait := .grove gn } ∧
            t.groveAt h.grec = now) ∧
          (m.st = .counted → now.complete = true → (∀ y ∈ g.members, y.held ≠ none → y.st = .idle) →
            (∀ y ∈ g.contribs, y.phase = g.phase) → g.contribs.Pairwise (fun a b => a.ord < b.ord ∨ (a.ord = b.ord ∧ (a.joined < b.joined ∨ (a.joined = b.joined ∧ a.n < b.n)))) →
            let arrived : List (Nat × ArrKind × Word64) := now.members.filterMap (fun y => match y.st with | .arrived k x => some (y.stand, k, x) | _ => none)
            let status := if ∃ a ∈ arrived, ∃ b ∈ arrived, a.2.1 ≠ b.2.1 then 3 else if g.excused then 2 else if g.departed then 1 else 0
            let yes := (arrived.filter (fun a => votes a.2.1 && a.2.2 != 0)).length
            let red := match kind with
              | .red op ty => if status = 3 then 0 else reduceAll (arrived.any (fun a => (s.launchAt (s.copseAt (copseOf a.1)).launch).det)) op.toNat ty.toNat s.free (arrived.map (fun a => a.2.2.toNat % 2 ^ tyBits ty.toNat))
              | _ => 0
            let members := now.members.map (fun y => if g.elas && y.susp then { y with st := .idle }
              else match y.held with
                | some (k, x) => { y with st := .arrived k x, held := none }
                | none => { y with st := .counted })
            let next : Grove := { g with members := members, phase := g.phase + 1, idle := members.all (fun y => y.st == .idle), departed := false,
                                         excused := false, lastBroken := status == 3, contribs := [],
                                         value := g.contribs.foldl (fun v y => BitVec.ofNat 64 (atomOp g.cop.toNat g.cty.toNat v.toNat y.x.toNat)) g.value }
            next.complete = false → ∃ t, reaches t ∧ only t h.grec ∧ t.groveAt h.grec = next ∧
              (∀ a ∈ arrived, t.standAt a.1 = groveWoken (s.standAt a.1) (arrivalWords a.2.1 status g.phase arrived.length yes red)) ∧
              (∀ y ∈ now.members, y.held ≠ none → (g.elas && y.susp) = false → ∃ n, t.standAt y.stand = { s.standAt y.stand with wait := .grove n }) ∧
              ∀ j, (∀ y ∈ now.members, y.stand ≠ j) → t.standAt j = s.standAt j))) ∧
      (∀ form, e.op = .query form → ∃ t, quiet t ∧ t.groves = s.groves ∧
        (form = 4 → GroveAnswers s t k st.g [(s.viAt c.vi).gquota.toNat + held % 2 ^ 32 * 2 ^ 32] none) ∧
        (form ≠ 4 → ((∀ h, e.handle = some h → s.handleLive k h = false) → GroveAnswers s t k st.g [0] none) ∧
          ∀ h, e.handle = some h → s.handleLive k h = true → let g := s.groveAt h.grec
            let bit (b : Bool) (n : Nat) : Nat := if b then 2 ^ n else 0
            let count (p : Member → Bool) : Nat := (g.members.filter p).length
            GroveAnswers s t k st.g [if form = 0 then (groveName g.ident h.tag).toNat
              else if form = 1 then count (fun m => m.st != .idle) + count (fun m => m.st != .idle && m.st != .counted) * 2 ^ 22 + bit g.elas 44
                + bit g.cell 45 + bit g.lastBroken 46 + bit g.idle 47 + g.phase % 2 ^ 16 * 2 ^ 48
              else if form = 2 then g.members.length + count (fun m => m.susp) * 2 ^ 22 + bit (g.members.any (fun m => m.stand == k && m.st != .idle)) 44
              else g.value.toNat] none)) ∧
      (∀ name, e.op = .destroy name →
        let named := s.resolveName c.vi name
        let fails (x : Nat) : Prop := ∃ t, quiet t ∧ GroveAnswers s t k st.g [x] none ∧ t.groves = s.groves
        (named = .bad → fails 5) ∧ (named = .stale → fails 4) ∧
        ∀ key, named = .live key → let g := s.groveAt key
          ((g.members.map (fun x => x.stand)).Nodup) → (∀ y ∈ g.members, y.stand = k → y.held = none ∧ (y.st = .idle ∨ y.st = .counted)) →
          ∃ t, reaches t ∧ only t key ∧ t.groveAt key = { Grove.init with vi := g.vi, ident := g.ident, tag := g.tag + 1 } ∧ GroveAnswers s t k st.g [0] none ∧
            let yes := (g.arrivals.filter (fun a => votes a.2.1 && a.2.2 != 0)).length
            ∀ y ∈ g.members, y.stand ≠ k → t.standAt y.stand = match y.st, y.held with
              | .arrived a _, _ => groveWoken (s.standAt y.stand) (arrivalWords a 3 g.phase g.arrivals.length yes 0)
              | _, some (a, _) => groveWoken (s.standAt y.stand) (arrivalWords a 3 g.phase g.arrivals.length yes 0)
              | _, none => s.standAt y.stand)

/-! ### Special registers and traps -/

/-- Special registers (R394, R395, R399, R418) and `spl` (R416). -/
def Obligations.SpecialRegisters : Prop :=
  ∀ (f : A64) (s : State),
    let k := s.cur
    let c := s.myCopse
    let n := f.sa.num.toNat
    let field := fieldOfCore s.myCoreKey
    let others (t : State) : Prop := SameMemory s t ∧ t.launches = s.launches ∧ ∀ j, j ≠ k → t.standAt j = s.standAt j
    (Acts s (.rdsr f) →
      ((f.h.uni = true ∨ s.me.part f.h ≠ 0) → ∃ (t : State) (val : Nat → Word64),
        LeavesPending (.rdsr f) s t (outVals f.h.uni (s.me.part f.h) f.dst true val) ∧ SameStand s.me t.me ∧ others t ∧ t.copses = s.copses ∧
        (n ≠ 0x14 → SameWorld s t) ∧
        ∀ lane, (n = 0 → val lane = BitVec.ofNat 64 lane) ∧ (n = 1 → val lane = BitVec.ofNat 64 (k % 16)) ∧
          (n = 2 → val lane = BitVec.ofNat 64 c.ord) ∧ (n = 3 → val lane = s.handle 1 c.core) ∧
          (n = 4 → val lane = s.handle 2 (clusterOf c.core)) ∧ (n = 5 → val lane = s.handle 3 (fieldOfCore c.core)) ∧
          (n = 6 → val lane = if c.kind = .sap then 1 else 2) ∧
          (8 ≤ n → n ≤ 15 → ((s.stageOf (copseOf k)).levels[n - 8]?).map (fun l => l.dom) ≠ some 0 → val lane = tget 0 s.me.lvl (n - 8)) ∧
          (8 ≤ n → n ≤ 15 → ((s.stageOf (copseOf k)).levels[n - 8]?).map (fun l => l.dom) = some 0 → f.h.uni = false → val lane = BitVec.ofNat 64 lane) ∧
          (n = 0x10 → val lane = s.myLaunch.sigma.setWidth 64) ∧
          (n = 0x11 → let cl := s.clusterAt (clusterOf c.core)
            let fl := s.fieldAt (fieldOfCore c.core)
            val lane = BitVec.ofNat 20 0 ++ BitVec.ofNat 4 fl.tdiv ++ (0 : BitVec 2) ++ fl.fcap ++ c.laneReq ++ cl.rate ++
              BitVec.ofNat 32 ((cl.charge.filter (fun x => cl.fe < x.1 + 64)).map Prod.snd).sum) ∧
          (n = 0x12 → val lane = BitVec.ofNat 64 c.vi) ∧ (n = 0x13 → val lane = s.boot.bgen.setWidth 64) ∧
          (n = 0x14 → val lane = (t.fieldAt field).ref ∧ ∀ x, x ≠ field → t.fieldAt x = s.fieldAt x) ∧
          (n = 0x15 → val lane = BitVec.ofNat 64 s.me.frames.length) ∧
          (0x40 ≤ n → n ≤ 0x5F → (s.me.frames = [] → val lane = 0) ∧
            ∀ fr rest, s.me.frames = fr :: rest → fr.savs.length = 4 → val lane = (frameBits fr).extractLsb' (64 * (n - 0x40)) 64)) ∧
      (f.h.uni = false → s.me.part f.h = 0 → ∃ t, PassesIdle (.rdsr f) s t f.dst ∧ SameStand s.me t.me ∧ others t)) ∧
    (Acts s (.wrsr f) →
      let x := ((s.srcs k true [(f.sa, true)]).1.headD (fun _ => 0)) 0
      let m := f.dst.num.toNat
      ∃ t, PassesWith (.wrsr f) s t ∧ LocalFrame s t ∧ SameMemory s t ∧
        SameStand { s.me with frames := match s.me.frames with
          | [] => []
          | fr :: rest => (if m = 0x50 then { fr with rpc := x } else { fr with savs := fr.savs.set (m - 0x54) x }) :: rest } t.me) ∧
    (Acts s (.spl f) →
      let xs := (resultLanes s.me f.h).map (fun t => min 2 (srcN (s.srcs k f.h.uni [(f.sa, false)]).1 0 t % 4))
      ∃ t, PassesWith (.spl f) s t ∧ SameStand s.me t.me ∧ SameWorld s t ∧ others t ∧ (∀ j, j ≠ copseOf k → t.copseAt j = s.copseAt j) ∧
        t.myCopse = if xs = [] then c else { c with laneReq := BitVec.ofNat 2 (xs.foldl max 0) })

/-- Software traps, `halt` and the return from a trap (R402-R404). -/
def Obligations.TrapsAndReturn : Prop :=
  (∀ (f : I64) (s : State) (i : Instr) (cls code : Nat),
    (i = .trap f ∧ cls = 16 + f.imm.toNat % 16 ∧ code = f.imm.toNat / 16) ∨ (i = .brk f ∧ cls = 0x0B ∧ code = f.imm.toNat) → Acts s i →
    let x := s.me.advance (s.kindOf s.cur) 8
    let u := s.setMe x
    ∃ r : FaultRec, r.cls = BitVec.ofNat 8 cls ∧ r.cause = 0 ∧ r.addr = 0 ∧ r.npc = s.me.pc ∧ r.aux = BitVec.ofNat 64 code ∧ r.defer = false ∧
      r.ckind = (if s.myCopse.kind = .sap then 1 else 2) ∧ r.stand = BitVec.ofNat 4 (s.cur % 16) ∧ r.fmask = allLanes ∧ x.pc = s.me.pc + 8 ∧
      exec i s = .next (gone s (if s.me.pend = [] then u.takeTrap s.cur r else u.setMe { x with trapWait := some r }) i) ∧
      (s.me.pend = [] → handlerOf u s.cur r.cls ≠ 0 → s.me.frames.length < 4 →
        ∃ t, exec i s = .next t ∧ AgreeOn t.me (entered x r (s.kindOf s.cur) (BitVec.ofNat 64 (handlerOf u s.cur r.cls))) ∧ LocalFrame s t ∧ SameMemory s t)) ∧
  (∀ (f : A64) (s : State), Acts s (.halt f) →
    ∃ (t : State) (r : FaultRec), exec (.halt f) s = .next t ∧ r.cls = 0x0B ∧ r.cause = 1 ∧ r.npc = s.me.pc ∧ r.akind = 0 ∧ SameMemory s t ∧
      AgreeOn t.me { s.me with life := .halted, pc := s.me.pc + 8 } ∧ (∀ j, j ≠ s.cur → t.standAt j = s.standAt j) ∧ t.copses = s.copses ∧
      (s.myCopse.maint = true → (t.coreAt s.myCopse.core).stopped = true ∧ t.vis = s.vis ∧ t.hostMem = s.hostMem) ∧
      (s.myCopse.maint = false → EventPosted s t s.myCopse.vi r ∧ (t.coreAt s.myCopse.core).stopped = s.myCore.stopped)) ∧
  (∀ (f : A64) (s : State), Acts s (.tret f) →
    let atWord (cls cause : Nat) : Prop := TrapsWith (.tret f) s (fun r => r.cls = BitVec.ofNat 8 cls ∧ r.cause = BitVec.ofNat 8 cause ∧ r.addr = s.me.pc)
    (s.me.frames = [] → atWord 1 8) ∧
    ∀ fr rest, s.me.frames = fr :: rest →
      (fr.rpc.extractLsb' 0 2 ≠ 0 → atWord 0 0xD) ∧
      (fr.rpc.extractLsb' 0 2 = 0 →
        let kind := s.kindOf s.cur
        let skip : Prop := f.md = 1
        let ended : Bool := match fr.clh with | some h => decide (h.clen.toNat < fr.clpos) | none => false
        let inside : Prop := kind = .sap ∧ fr.rpc = fr.rpc0
        let pc := if skip ∧ (kind = .heart ∨ (inside ∧ ended = false)) then fr.rpc + BitVec.ofNat 64 (s.wordLen s.cur fr.rpc) else fr.rpc
        let sav (i : Nat) : Word64 := (fr.savs[i]?).getD 0
        let y := { s.me with pc := pc, a := fr.amask, q := fr.q, gate := fr.gate, yc := fr.yc, rb := fr.rb, frames := rest,
                             stack := s.me.stack.drop (s.me.stack.length - fr.sdep),
                             sr := tset 3 (sav 3) (tset 2 (sav 2) (tset 1 (sav 1) (tset 0 (sav 0) s.me.sr))) }
        ∃ t, exec (.tret f) s = .next t ∧ AgreeOn t.me (if fr.amask = 0 then y.resume.afterTransfer else y) ∧ SameWorld s t ∧ SameMemory s t ∧
          t.copses = s.copses ∧ (∀ j, j ≠ s.cur → t.standAt j = s.standAt j) ∧
          (fr.amask ≠ 0 → kind = .sap → fr.rpc ≠ fr.rpc0 → t.me.place = .target ∧ t.me.clh = none) ∧
          (fr.amask ≠ 0 → inside → ∀ h, fr.clh = some h → t.me.clh = some h ∧
            t.me.clpos = fr.clpos + (if skip ∧ ended = false then 1 else 0) ∧
            t.me.place = if t.me.clpos < h.clen.toNat + 1 then .inClause else .afterClause)))

/-- Taking a trap (R400, R401, R404). That a terminated stand keeps its deferred records, and takes no handler any more, is the model's reading
(log 51). -/
def Obligations.TakeTrapEntersTerminatesOrHalts : Prop :=
  ∀ (k : Nat) (r : FaultRec) (s : State),
    let st := s.standAt k
    let c := s.copseAt (copseOf k)
    let h := handlerOf s k r.cls
    let t := s.takeTrap k r
    let count := if r.defer then st.tseq else st.tseq + 1
    (h ≠ 0 → st.frames.length < 4 → t = s.setStand k (entered st r c.kind (BitVec.ofNat 64 h))) ∧
    (h = 0 ∨ st.frames.length = 4 →
      (r.cls = 0x0B → t.standAt k = { st with life := .halted, trapWait := none, tseq := count } ∧ (∀ j, j ≠ k → t.standAt j = s.standAt j) ∧
        t.copses = s.copses ∧ SameMemory s t ∧ (c.maint = true → t.cores = (s.setCore c.core { s.coreAt c.core with stopped := true }).cores ∧ t.vis = s.vis) ∧
        (c.maint = false → t.cores = s.cores ∧ EventPosted s t c.vi (numbered st r))) ∧
      (r.cls ≠ 0x0B → st.wait = .none →
        let x := t.standAt k
        x.life = .ending ∧ x.exited = allLanes ∧ x.a = 0 ∧ x.stack = [] ∧ x.pend = [] ∧ x.wait = .none ∧ x.trapWait = none ∧ x.frames = [] ∧
          x.deferred = st.deferred ∧ x.tseq = count ∧ x.markers = [] ∧ x.fenceM = none ∧ x.swbs = [] ∧ x.fencing = false ∧ x.exitPc = st.pc ∧ x.exitMask = 0 ∧ x.v = st.v ∧ x.sr = st.sr ∧ x.p = st.p ∧
          x.q = st.q ∧ (∀ key, (t.groveAt key).live = true → (t.groveAt key).member k = none) ∧
          (c.maint = false → (t.launchAt c.launch).terminated = (s.launchAt c.launch).terminated + 1 ∧ EventPosted s t c.vi (numbered st r))))

/-- Events of a stand beside its issue (R101, R107, R397, R400, R420). That the deferred records of a terminated stand (exitMask 0) are posted as they
fall due is the model's reading (log 51). -/
def Obligations.StandEvents : Prop :=
  ∀ (k : Nat) (s : State),
    let st := s.standAt k
    let copse := copseOf k
    let c := s.copseAt copse
    (exec (.sleepEnd k) s = .next (if st.wait = .sleep 0 then s.setStand k { st with wait := .none } else s)) ∧
    ((st.trapWait = none ∨ st.pend ≠ [] ∨ c.life ≠ .resident) → exec (.trapEntry k) s = .next s) ∧
    (∀ r, st.trapWait = some r → st.pend = [] → c.life = .resident → exec (.trapEntry k) s = .next (s.takeTrap k r)) ∧
    (let due : Prop := (st.life = .live ∨ st.life = .ending) ∧ st.wait = .none ∧ st.trapWait = none ∧ st.held = false ∧ st.fencing = false ∧ st.deferred ≠ [] ∧
        st.frames = [] ∧ st.pend = [] ∧ c.life = .resident
     (¬due → exec (.deferredTrapTake k) s = .next s) ∧
      ∀ r rest, due → st.deferred = r :: rest →
        let pc := if st.life = .ending then st.exitPc else st.pc
        let r' := { r with npc := pc, othpc := s.othpc copse pc.toNat }
        let u := s.setStand k { st with deferred := rest, pc := pc }
        let v := if st.life = .ending ∧ st.exitMask = 0 then u.postEvent c.vi r' else u.takeTrap k r'
        exec (.deferredTrapTake k) s = .next (v.settleDeferred k) ∧
        ((∀ e ∈ (s.coreAt c.core).slog, e.stand ≠ k ∨ e.req ≠ 0) → (∀ x ∈ c.copies, x.stand ≠ k) →
          (∀ x ∈ c.fills, x.wb ≠ some k ∨ x.req ≠ some 0) → st.fenceM = none → st.swbs = [] → handlerOf u k r.cls ≠ 0 → (st.life = .ending → st.exitMask ≠ 0) →
          exec (.deferredTrapTake k) s = .next (u.setStand k (entered { st with deferred := rest, pc := pc } r' c.kind (BitVec.ofNat 64 (handlerOf u k r.cls)))))) ∧
    (let ends : Prop := st.life = .ending ∧ c.life = .resident ∧ s.quiet k = true
      let last : Prop := s.standsOf copse = [k]
      (¬ends → exec (.standEnd k) s = .next s) ∧
      (ends → ¬last → s.grovesWith k = [] → exec (.standEnd k) s = .next (s.setStand k Stand.init)) ∧
      (ends → last → c.allDirty ≠ [] → exec (.standEnd k) s = .next (s.startWbs copse k c.allDirty)) ∧
      (ends → last → c.allDirty = [] → s.grovesWith k = [] → (∀ x ∈ (s.engineAt (clusterOf c.core)).taken, x.2.copse ≠ copse) →
        ∃ t, exec (.standEnd k) s = .next t ∧ t.standAt k = Stand.init ∧ (t.copseAt copse).life = .ended ∧ copse ∉ (t.coreAt c.core).order ∧
          (∀ n ch, tfind n (t.coreAt c.core).chans = some ch → ch.owner ≠ some copse) ∧ SameMemory s t)) ∧
    (let v := s.viAt c.vi
      let due : Prop := v.ien = true ∧ s.countable k = true ∧ 2 ^ v.ilog.toNat ≤ st.issueWait
      (¬due → exec (.issueWatchdog k) s = .next s) ∧
      (due → ∃ (r : FaultRec) (u : State), r.cls = 0x0C ∧ r.cause = 1 ∧ r.addr = 0 ∧ r.defer = false ∧ r.npc = (u.standAt k).pc ∧
        (u.standAt k).wait = .none ∧ (u.standAt k).issueWait = 0 ∧ (u.standAt k).fencing = false ∧ (u.standAt k).pend = st.pend ∧ (u.standAt k).sr = st.sr ∧ SameMemory s u ∧
        (u.standAt k).pc = (match st.wait with | .heldRec .. => st.last.pc | _ => st.pc) ∧
        (match st.wait with
          | .heldRec .. => r.aux = 4
          | .enq .. => r.aux = 1
          | .markers => r.aux = 8
          | _ => 1 ≤ st.stall → st.stall ≤ 8 → r.aux = BitVec.ofNat 64 st.stall) ∧
        exec (.issueWatchdog k) s = .next (if st.pend = [] then u.takeTrap k r else u.setStand k { u.standAt k with trapWait := some r })))

/-! ### Launches, copses and clusters -/

/-- Launches and their scheduling (R61-R81, R467). The model's choices: of several interfaces' launches the lower launch at a tie, and which cluster of
the giving stage moves (log 54); two corners of validation (log 85); base registers in the order of admission (log 89); operands carried by the
event (log 57); the copy engine (log 84); the status of a launch in an ended context (log 65). -/
def Obligations.LaunchesRunAndComplete : Prop :=
  (∀ (vi : Nat) (tag : BitVec 16) (record : Word64) (s : State),
    (s.takeCmd vi 1 tag = none → exec (.launch vi tag record) s = .next s) ∧
    ∀ u, s.takeCmd vi 1 tag = some u →
      let ended : Prop := (u.viAt vi).ended = true
      let nodom : Prop := ¬ended ∧ ((u.viAt vi).dom.live.nslice = 0 ∨ (u.viAt vi).nclus = 0)
      let fails (c : Nat) : Prop := ∃ t, exec (.launch vi tag record) s = .next t ∧ CompletionPosted u t vi tag c 0 ∧ OnlyRings u t
      (ended → fails 0x10) ∧ (nodom → fails 0x12) ∧
      (¬ended → ¬nodom → u.readRecord vi record.toNat = none → fails 9) ∧
      (¬ended → ¬nodom → ∀ h ds, u.readRecord vi record.toNat = some (h, ds) →
        let code (c : Nat) : Prop :=
          (c = 1 ∧ h % 2 ^ 32 ≠ 0x4C335A4B) ∨ (c = 2 ∧ h / 2 ^ 32 % 2 ^ 16 ≠ 1) ∨
          (c = 3 ∧ (badHeader h = true ∨ ∃ n d, ds[n]? = some d ∧ badStage d (n + 1 == ds.length) (h.testBit 51) = true)) ∨
          (c = 4 ∧ badAlign h ds = true) ∨ (c = 5 ∧ ∃ d ∈ ds, badLevels d = true) ∨
          (c = 6 ∧ ∃ d ∈ ds, 2048 < roundRegs (d / 2 ^ 192 % 2 ^ 9) * (d / 2 ^ 233 % 2 ^ 4 + 1)) ∨
          (c = 7 ∧ ∀ x ∈ u.boot.clusters, (u.viAt vi).part.contains x = false) ∨ (c = 8 ∧ u.noQuota vi = true)
        (∀ c, code c → (∀ d, code d → c ≤ d) → fails c) ∧
        ((∀ c, ¬code c) → ∃ t, exec (.launch vi tag record) s = .next t ∧ t.nextId = u.nextId + 1 ∧ SameMemory s t ∧
          t.stands = u.stands ∧ t.copses = u.copses ∧ (∀ n, n ≠ u.nextId → t.launchAt n = u.launchAt n) ∧
          (let l := t.launchAt u.nextId
           let f (hi lo : Nat) : Nat := h / 2 ^ lo % 2 ^ (hi + 1 - lo)
           l.running = true ∧ l.vi = vi ∧ l.tag = tag ∧ l.record = record ∧ l.det = h.testBit 51 ∧ l.rstrt = h.testBit 52 ∧ l.prio = f 63 56 ∧
             l.argp = BitVec.ofNat 64 (f 127 64) ∧ l.tvt = BitVec.ofNat 64 (f 255 192) ∧ l.lsch = BitVec.ofNat 64 (f 319 256) ∧ l.ldist = f 327 320 ∧
             l.latb = f 383 352 ∧ l.sigma = 0 ∧ l.terminated = 0 ∧ l.stages.length = ds.length ∧
             ∀ (n : Nat) (st : Stage) (d : Nat), l.stages[n]? = some st → ds[n]? = some d → st.done = false ∧ st.created = 0 ∧
               st.sentry = BitVec.ofNat 64 d ∧ st.hentry = BitVec.ofNat 64 (d / 2 ^ 64) ∧ st.gmap = BitVec.ofNat 64 (d / 2 ^ 128) ∧
               st.vregs = d / 2 ^ 192 % 2 ^ 9 ∧ st.uregs = d / 2 ^ 208 % 2 ^ 8 ∧ st.cstands = d / 2 ^ 233 % 2 ^ 4 ∧
               ∀ x ∈ st.segs, x.2 = []) ∧
          (∀ c, (t.clusterAt c).serves = (u.clusterAt c).serves ∨ ((u.clusterAt c).serves = none ∧ (u.viAt vi).part.contains c = true ∧
            ∃ n, n < ds.length ∧ (t.clusterAt c).serves = some (u.nextId, n)))))) ∧
  (∀ (launch stage core : Nat) (s : State),
    let l := s.launchAt launch
    let st := s.stage launch stage
    let f := fieldOfCore core
    let n := st.cstands + 1
    let kind (x : Nat) : Kind := if x % 4 = 0 then .heart else .sap
    let users (x : Nat) : List Copse := (s.roomUsers x).map Prod.snd
    let load (x : Nat) : Nat := ((users x).map (fun c => c.nst)).sum
    let may (x : Nat) : Prop := x ∈ (s.serving launch stage f).flatMap (fun c => [4 * c, 4 * c + 1, 4 * c + 2, 4 * c + 3]) ∧
      st.kinds.getLsbD (if x % 4 = 0 then 1 else 0) = true ∧ load x + n ≤ 64 ∧ (users x).length < 64 ∧
      ((users x).map (fun c => c.nst * roundRegs c.vregs)).sum + n * roundRegs st.vregs ≤ 2048 ∧
      ((users x).map (fun c => c.alloc)).sum + (st.smem + 127) / 128 ≤ 512
    let here (x : Nat) : Nat := (((s.copses.map Prod.snd).filter (fun c => c.life == .resident && c.core == x)).map (fun c => c.nst)).sum
    let rank (x : Nat) : Nat := 2 * here x + (if x % 4 = 0 then 1 else 0)
    let can : Prop := l.running = true ∧ stage < l.stages.length ∧ st.done = false ∧
      (if l.det then st.created < st.detw else (st.counter f).count ≠ 0 ∨ (stage ≠ 0 ∧ (s.stage launch (stage - 1)).seg f ≠ [])) ∧
      ((s.viAt l.vi).cquota = 0 ∨ (s.copsesOf l.vi).length < (s.viAt l.vi).cquota.toNat) ∧ may core ∧ ∀ x, may x → rank core ≤ rank x
    (¬can → exec (.copseCreate launch stage core) s = .next s) ∧
    (can → st.cstands < 16 → ∃ t id, exec (.copseCreate launch stage core) s = .next t ∧ id = s.nextId ∧ t.nextId = id + 1 ∧ SameMemory s t ∧
      t.copseAt id = { Copse.init with life := .resident, vi := l.vi, launch := launch, stage := stage, ord := st.created, nst := n, core := core,
                                       kind := kind core, vregs := roundRegs st.vregs, uregs := st.uregs, alloc := (st.smem + 127) / 128, gavg := [65536],
                                       engine := Config.copyEngine id core % 8, base := 128 * ((s.coreAt core).order.map (fun j => (t.copseAt j).alloc)).sum } ∧
      (∀ j, j ≠ id → t.copseAt j = { s.copseAt j with base := (t.copseAt j).base } ∧ (j ∉ (s.coreAt core).order → t.copseAt j = s.copseAt j)) ∧ t.stage launch stage = { st with created := st.created + 1 } ∧
      (t.coreAt core).order = (s.coreAt core).order ++ [id] ∧ (t.coreAt core).l1 = (s.coreAt core).l1 ∧ (t.coreAt core).chans = (s.coreAt core).chans ∧
      (∀ j, 16 * id + n ≤ j ∨ j < 16 * id → t.standAt j = s.standAt j) ∧
      ∀ i, i < n → let on := match st.levels.getLast? with
          | some x => if x.dom = 0 then BitVec.ofNat 128 (2 ^ x.extent - 1) else allLanes
          | none => allLanes
        t.standAt (16 * id + i) = { Stand.init with life := .live, copse := id, idx := i, a := on, exited := ~~~on,
                                                    pc := if core % 4 = 0 then st.hentry else st.sentry,
                                                    sr := [(0, l.argp), (1, l.record), (2, BitVec.ofNat 64 stage)] })) ∧
  (∀ (f : Nat) (s : State),
    let all := s.openStages
    let mate (r g : Nat × Nat) : Prop := r ∈ all ∧ g ∈ all ∧ r ≠ g ∧ (s.launchAt r.1).vi = (s.launchAt g.1).vi ∧ s.servingCount g f ≠ 0 ∧
      s.belowMax r f = true
    let items (x : Nat × Nat) : Nat := if x.2 = 0 then 0 else ((s.stage x.1 (x.2 - 1)).seg f).length
    let work (x : Nat × Nat) : Nat := ((s.stage x.1 x.2).counter f).count + items x
    let room (x : Nat × Nat) : Nat := 2 ^ (s.stage x.1 (x.2 - 1)).qlog
    let lower (x y : Nat × Nat) : Prop := x.2 < y.2 ∨ (x.2 = y.2 ∧ x.1 ≤ y.1)
    let above (x : Nat × Nat) : Nat := s.servingCount x f - (s.stage x.1 x.2).cmin
    let one (r g : Nat × Nat) : Prop := mate r g ∧ s.belowMin r f = true ∧ work r ≠ 0 ∧ (s.stage g.1 g.2).cmin < s.servingCount g f
    let two (r g : Nat × Nat) : Prop := mate r g ∧ r.2 ≠ 0 ∧ 3 * room r ≤ 4 * items r ∧
      (work g = 0 ∨ (g.2 ≠ 0 ∧ 4 * items g < room g) ∨ s.mostlyStalled g f = true)
    let three (r g : Nat × Nat) : Prop := mate r g ∧ work r ≠ 0 ∧ work g = 0
    let none' (p : Nat × Nat → Nat × Nat → Prop) : Prop := ∀ r g, ¬p r g
    let moves (p : Nat × Nat → Nat × Nat → Prop) (better best : Nat × Nat → Nat × Nat → Prop) : Prop := ∃ t r g c,
      exec (.clusterReassign f) s = .next t ∧ p r g ∧ (∀ r' g', p r' g' → better r r') ∧ (∀ g', p r g' → best g g') ∧ c ∈ s.serving g.1 g.2 f ∧
      t = { (s.newInterval f).setCluster c { s.clusterAt c with serves := some r } with free := t.free }
    (∀ r g, one r g → moves one lower (fun x y => above y < above x ∨ (above y = above x ∧ lower x y))) ∧
    (none' one → ∀ r g, two r g → moves two lower lower) ∧
    (none' one → none' two → ∀ r g, three r g → moves three (fun x y => work y < work x ∨ (work y = work x ∧ lower x y)) lower) ∧
    (none' one → none' two → none' three → exec (.clusterReassign f) s = .next (s.newInterval f))) ∧
  (∀ (launch stage : Nat) (s : State),
    let l := s.launchAt launch
    let st := l.stageAt stage
    let ready : Prop := l.running = true ∧ stage < l.stages.length ∧ st.done = false ∧ (∀ c ∈ st.counters, c.2 = []) ∧
      (stage + 1 = l.stages.length → let v := s.viAt l.vi
        4 ≤ v.cq.logn.toNat → v.cq.logn.toNat ≤ 12 → (v.cq.dptr.toNat + 1) % 2 ^ v.cq.logn.toNat ≠ v.cq.hptr.toNat % 2 ^ v.cq.logn.toNat ∧ v.cqHeld = []) ∧
      (l.det = true → st.created = st.detw) ∧ (stage ≠ 0 → (l.stageAt (stage - 1)).done = true ∧ ∀ x ∈ (l.stageAt (stage - 1)).segs, x.2 = []) ∧
      ∀ e ∈ s.copses, e.2.launch = launch → e.2.stage = stage → e.2.life ≠ .resident ∧ e.2.life ≠ .saved
    (¬ready → exec (.stageComplete launch stage) s = .next s) ∧
    (ready → ∃ t, exec (.stageComplete launch stage) s = .next t ∧ SameMemory s t ∧ t.stands = s.stands ∧ t.copses = s.copses ∧
      (t.launchAt launch).stageAt stage = { st with done := true } ∧ (∀ n, n ≠ stage → (t.launchAt launch).stageAt n = l.stageAt n) ∧
      (∀ c, (t.clusterAt c).serves ≠ some (launch, stage)) ∧
      (stage + 1 < l.stages.length → (t.launchAt launch).running = true ∧ t.vis = s.vis ∧ t.hostMem = s.hostMem ∧
        (∀ c, (s.clusterAt c).serves ≠ some (launch, stage) → t.clusterAt c = s.clusterAt c) ∧
        ∀ c, (s.clusters.filter (fun e => e.2.serves == some (launch, stage))).map Prod.fst = [c] →
          let f := fieldOfCluster c
          let items (x : Nat × Nat) : Nat := if x.2 = 0 then 0 else ((s.stage x.1 (x.2 - 1)).seg f).length
          let work (x : Nat × Nat) : Nat := ((s.stage x.1 x.2).counter f).count + items x
          let prio (x : Nat × Nat) : Nat := (s.launchAt x.1).prio
          let takes (x : Nat × Nat) : Prop := x ∈ s.openStages ∧ x ≠ (launch, stage) ∧ (s.viAt (s.launchAt x.1).vi).part.contains c = true ∧
            s.belowMax x f = true ∧ work x ≠ 0
          let low (x : Nat × Nat) : Bool := s.belowMin x f
          let before (x y : Nat × Nat) : Prop := (low x = true ∧ low y = false) ∨ (low x = low y ∧ (prio y < prio x ∨ (prio y = prio x ∧
            ((low x = false ∧ work y < work x) ∨ ((low x = true ∨ work y = work x) ∧ (x.2 < y.2 ∨ (x.2 = y.2 ∧ x.1 ≤ y.1)))))))
          ((∀ x, ¬takes x) → (t.clusterAt c).serves = none) ∧
          ∀ x, takes x → ∃ x, takes x ∧ (t.clusterAt c).serves = some x ∧ ∀ y, takes y → before x y) ∧
      (stage + 1 = l.stages.length → (t.launchAt launch).running = false ∧ CompletionPosted s t l.vi l.tag 0 l.terminated)))

/-! ### Copses on the move -/

/-- Migration (R127-R131) and rotation (R415). That an unreadable graft map refuses with reason 3 is the model's reading (log 77), and so is that a
rotation exchanges its pairs stage by stage (log 58). -/
def Obligations.CopsesMove : Prop :=
  (∀ (copse : Nat) (s : State),
    let c := s.copseAt copse
    let cluster (x : Nat) : Nat := x / 4
    let kind (x : Nat) : Kind := if x % 4 = 0 then .heart else .sap
    let ends (t : State) (st : MoveState) (reason : Byte) : Prop :=
      (t.copseAt copse).move = ⟨none, st, reason, c.move.moves, 0, none⟩ ∧ (t.copseAt copse).kind = c.kind ∧ (t.copseAt copse).core = c.core ∧
        ∀ k ∈ s.standsOf copse, (t.standAt k).held = false
    (let fits (k : Kind) (x : Nat) : Prop := x ∈ (s.serving c.launch c.stage (fieldOfCore c.core)).flatMap coresOf ∧ kind x = k ∧ s.moveFits copse x = true
     let near (k : Kind) (x : Nat) : Prop := fits k x ∧ (cluster x = cluster c.core ∨ ∀ y, fits k y → cluster y ≠ cluster c.core)
     (∀ k, c.life = .resident → c.move.state = .pending → c.move.tgt = some k →
        ((∀ x, ¬fits k x) → exec (.moveRoomSearch copse) s = .next s) ∧
        ((∃ x, fits k x) → ∃ t core, exec (.moveRoomSearch copse) s = .next t ∧ near k core ∧ (∀ y, near k y → s.coreLoad core ≤ s.coreLoad y) ∧
          t = { s.setCopse copse { c with move := { c.move with state := .gather, lapse := 0, room := some core } } with free := t.free })) ∧
     ((c.life ≠ .resident ∨ c.move.state ≠ .pending ∨ c.move.tgt = none) → exec (.moveRoomSearch copse) s = .next s)) ∧
    (let ready : Prop := c.life = .resident ∧ c.move.state = .gather ∧ c.move.lapse < 65536 ∧ c.drain = none ∧ (∀ k ∈ s.standsOf copse, (s.standAt k).frames = []) ∧
        (∀ k ∈ s.standsOf copse, s.atGraft k = true) ∧ s.holdsResv copse = false ∧ (s.abandonAll copse).copseStill copse = true
     let u := s.abandonAll copse
     (¬ready ∨ c.move.room = none → exec (.copseMigrate copse) s = .next s) ∧
     (∀ core, ready → c.move.room = some core → (u.takeOff copse).canPut copse core = false → exec (.copseMigrate copse) s = .next s) ∧
     (∀ core, ready → c.move.room = some core → (u.takeOff copse).canPut copse core = true →
        (u.graftTable c.vi (u.stageOf copse) = none → ∃ t, exec (.copseMigrate copse) s = .next t ∧ ends t .refused 3 ∧ SameMemory s t) ∧
        ∀ g, u.graftTable c.vi (u.stageOf copse) = some g →
          (u.carried copse g s.gidAt = none → ∃ t, exec (.copseMigrate copse) s = .next t ∧ ends t .refused 4 ∧ SameMemory s t) ∧
          ∀ sts, u.carried copse g s.gidAt = some sts →
            ∃ t, exec (.copseMigrate copse) s = .next t ∧ (t.copseAt copse).core = core ∧
              (t.copseAt copse).kind = (if c.kind = .sap then .heart else .sap) ∧
              (t.copseAt copse).move = ⟨none, .done, 0, if c.move.moves = 0xFFFF then 0xFFFF else c.move.moves + 1, 0, none⟩ ∧
              (t.copseAt copse).scratch = c.scratch ∧ (t.copseAt copse).copies = c.copies ∧ (t.coreAt core).order.getLast? = some copse ∧
              (∀ pa b, Holds t pa b → Holds s pa b) ∧ ((∀ line, Settled s c.core line) → ∀ a, t.homeGet a = cleaned s c.core a) ∧
              (∀ j, copseOf j ≠ copse → ∃ x, t.standAt j = { s.standAt j with paths := x }) ∧
              ((s.stands.map Prod.fst).Nodup → ∀ k ∈ s.standsOf copse, let x := u.standAt k
                let y := t.standAt k
                let ms : List (Nat × Nat × Nat) := match (if x.life = .ending then none else s.gidAt k) with
                  | none => []
                  | some id => match g.entries.find? (fun e => e.1 == id) with
                    | some e => (g.moves.drop e.2.2.2).take e.2.1
                    | none => []
                let place (rk r : Nat) : Nat := movedReg ms c.kind rk r
                y.held = false ∧ y.a = x.a ∧ y.frames = [] ∧ y.g = x.g ∧ y.pend = x.pend ∧
                  (match x.wait with
                    | .cont o ph d p => (u.otherPC c.vi (u.stageOf copse) g p.toNat c.kind).map (fun q => Wait.cont o ph d (BitVec.ofNat 64 q)) = some y.wait
                    | w => y.wait = w) ∧
                  (u.otherPC c.vi (u.stageOf copse) g (if x.life = .ending then x.exitPc else x.pc).toNat c.kind).map (BitVec.ofNat 64) = some y.pc ∧
                  y.exitPc = y.pc ∧
                  y.stack.length = x.stack.length ∧
                  (∀ (n : Nat) (e e' : Entry) (pc : Word64), x.stack[n]? = some e → y.stack[n]? = some e' → e.pc = some pc →
                    e'.pc = (u.otherPC c.vi (u.stageOf copse) g pc.toNat c.kind).map (BitVec.ofNat 64)) ∧
                  (ms = [] → y.v = x.v ∧ y.sr = x.sr ∧ y.p = x.p ∧ y.q = x.q) ∧
                  ((∀ r r', place 1 r = place 1 r' → r = r') → (x.sr.map Prod.fst).Nodup → ∀ r, tget 0 y.sr (place 1 r) = tget 0 x.sr r) ∧
                  ((∀ r r', place 0 r = place 0 r' → r = r') → (x.v.map Prod.fst).Nodup →
                    ∀ r lane, lane < 128 → tget 0 y.v (128 * place 0 r + lane) = tget 0 x.v (128 * r + lane))))) ∧
    (let lapses : Prop := c.life = .resident ∧ c.move.state = .gather ∧ 65536 ≤ c.move.lapse
     (¬lapses → exec (.moveLapse copse) s = .next s) ∧
     (lapses → ∃ t, exec (.moveLapse copse) s = .next t ∧ ends t .lapsed 0 ∧ SameMemory s t))) ∧
  (∀ (f : Nat) (temps : List (Nat × Int)) (s : State), (temps.map Prod.fst).Nodup → (s.copses.map Prod.fst).Nodup →
    let fl := s.fieldAt f
    let pairs := s.rotationPairs f temps
    (fl.rotEn = false → exec (.shadeRotation f temps) s = .next s) ∧
    (pairs.length ≤ if fl.maxp = 0 then 1 else fl.maxp.toNat) ∧
    (∀ p ∈ pairs, p.1 ≠ p.2 ∧ fieldOfCluster p.1 = f ∧ fieldOfCluster p.2 = f ∧ (s.clusterAt p.1).serves = (s.clusterAt p.2).serves ∧
      (s.clusterAt p.1).serves ≠ none ∧ ∃ x y, (p.1, x) ∈ temps ∧ (p.2, y) ∈ temps ∧ (fl.delta.toNat : Int) ≤ x - y) ∧
    ∃ (t : State) (n m : Nat), exec (.shadeRotation f temps) s = .next t ∧
      (t.fieldAt f).moved = fl.moved + BitVec.ofNat 32 n ∧ (t.fieldAt f).skipped = fl.skipped + BitVec.ofNat 16 m ∧
      (∀ pa b, Holds t pa b → Holds s pa b) ∧
      ∀ j, let c := s.copseAt j
        let d := t.copseAt j
        d.kind = c.kind ∧ d.stage = c.stage ∧ d.launch = c.launch ∧ d.vi = c.vi ∧ d.scratch = c.scratch ∧ d.life = c.life ∧
          (d.core = c.core ∨ ∃ p ∈ pairs, (c.core / 4 = p.1 ∧ d.core = 4 * p.2 + c.core % 4) ∨ (c.core / 4 = p.2 ∧ d.core = 4 * p.1 + c.core % 4)))

/-! ### Page answers, invalidation and domains -/

/-- Answers, invalidation (R245, R246, R448) and domains (R281-R283; R456 for the block before READY). The model's choices: a request names the 64 KiB
page (log 10), operands are carried by the event (log 57), domain commands bear tag 0 (log 59), the slice table is read at physical addresses
(log 60), a running SWITCH holds the slices of its pending set (log 89). -/
def Obligations.PagesAndDomains : Prop :=
  (∀ (vi op : Nat) (tag : BitVec 16) (s : State),
    let v := s.viAt vi
    let size := 2 ^ v.sq.logn.toNat
    let at' := 4096 * v.sqBase.toNat + 64 * (v.sq.dptr.toNat % size)
    let known : Prop := (1 ≤ op ∧ op ≤ 5) ∨ (op = 6 ∧ 2 ≤ v.agreed.toNat)
    ((s.takeCmd vi op tag).isSome = true ↔ v.en = true ∧ v.ok = true ∧ 4 ≤ v.sq.logn.toNat ∧ v.sq.logn.toNat ≤ 12 ∧
      v.sq.hptr.toNat % size ≠ v.sq.dptr.toNat % size ∧ known ∧ (memGet s.hostMem at').toNat = op ∧
      memGet s.hostMem (at' + 3) ++ memGet s.hostMem (at' + 2) = tag) ∧
    ∀ u, s.takeCmd vi op tag = some u →
      let w := s.setVi vi { v with sq := { v.sq with dptr := BitVec.ofNat 16 ((v.sq.dptr.toNat + 1) % size) } }
      OnlyRings s u ∧ ((w.viAt vi).hasCmd = false ∨ (w.viAt vi).knows (w.sqHead vi).1 = true → u = w)) ∧
  (∀ (vi id : Nat) (tag : BitVec 16) (deny : Bool) (s : State),
    (s.takeCmd vi 2 tag = none → exec (.pageAns vi tag id deny) s = .next s) ∧
    ∀ u, s.takeCmd vi 2 tag = some u →
      let live : Prop := (∃ p ∈ (u.viAt vi).pages, p.id = id) ∧ u.awaited vi id = true
      (¬live → ∃ t, exec (.pageAns vi tag id deny) s = .next t ∧ CompletionPosted u t vi tag 0x13 0 ∧ OnlyRings u t ∧
        (t.viAt vi).pages = (u.viAt vi).pages.filter (fun p => p.id != id)) ∧
      (live → (∀ c ∈ u.residentsOf vi, (∀ x ∈ (u.copseAt c).copies, x.parked ≠ some id) ∧ ∀ x ∈ (u.copseAt c).fills, x.req ≠ some id) →
        u.cmdsOn vi id = [] → (∀ k ∈ u.standsOfVi vi, (u.standAt k).fenceM = none ∧ (u.standAt k).swbs = []) → (u.standsOfVi vi).Nodup →
        (((∀ e ∈ u.logsOf vi, e.2.req ≠ id) → ∃ t, exec (.pageAns vi tag id deny) s = .next t ∧ SameMemory s t ∧
          (deny = false → CompletionPosted u t vi tag 0 0 ∧ (∀ k, k ∉ u.standsOfVi vi → t.standAt k = u.standAt k) ∧
            ∀ k ∈ u.standsOfVi vi, ∀ ids, (u.standAt k).wait = .page ids none → (∃ x ∈ ids, x.1 = id) →
              t.standAt k = { u.standAt k with wait := if ids.filter (fun x => x.1 != id) = [] then .none else .page (ids.filter (fun x => x.1 != id)) none }) ∧
          (deny = true → ∀ k r, u.standsOfVi vi = [k] → (u.standAt k).wait = .page [(id, r)] none → ∃ f : FaultRec, f.cls = r.cls ∧ f.cause = r.cause ∧
            f.addr = r.addr ∧ f.npc = (u.standAt k).pc ∧ f.defer = false ∧
            let w := (u.setVi vi { u.viAt vi with pages := (u.viAt vi).pages.filter (fun p => p.id != id) }).setStand k { u.standAt k with wait := .none }
            t = (if (u.standAt k).pend = [] then w.takeTrap k f else w.setStand k { w.standAt k with trapWait := some f }).complete vi tag 0 0)) ∧
        (∀ core e pa l, (u.logsOf vi).filter (fun x => x.2.req == id) = [(core, e)] → deny = false →
          (u.xlate (copseOf e.stand) .write (65536 * e.page) = .ok (pa, l)) →
          (∀ x ∈ e.elems, u.elemWaits e.stand e.op e.sm (pa + x.va % 65536) x.len = false) → ∃ t, exec (.pageAns vi tag id deny) s = .next t ∧
            (t.coreAt core).slog = (u.coreAt core).slog.erase e ∧
            ∀ c a, byteSeen t c a = byteSeen (e.elems.foldl (fun s x => s.applyElem e.stand e.op e.sm e.ph (pa + x.va % 65536) x.len x.data.toNat)
              (u.setVi vi { u.viAt vi with pages := (u.viAt vi).pages.filter (fun p => p.id != id) })) c a)))) ∧
  (∀ (vi : Nat) (tag : BitVec 16) (base len : Word64) (s : State),
    (s.takeCmd vi 3 tag = none → exec (.inval vi tag base len) s = .next s) ∧
    ∀ u, s.takeCmd vi 3 tag = some u →
      let meets (e : TlbEntry) : Prop := e.page * 2 ^ e.bits < base.toNat + len.toNat ∧ base.toNat < (e.page + 1) * 2 ^ e.bits
      ∃ t, exec (.inval vi tag base len) s = .next t ∧
        (∀ core, ∀ e ∈ (t.coreAt core).tlb, (u.copseAt e.owner).vi = vi → ¬meets e) ∧ (∀ cl, ∀ e ∈ (t.clusterAt cl).tlb, e.owner = vi → ¬meets e) ∧
        ((∀ p ∈ (u.viAt vi).pages, ¬(65536 * p.page < base.toNat + len.toNat ∧ base.toNat < 65536 * p.page + 65536)) → (∀ k ∈ u.standsOfVi vi, (u.standAt k).fenceM = none ∧ (u.standAt k).swbs = []) →
          CompletionPosted u t vi tag 0 0 ∧ SameMemory s t ∧ t.stands = u.stands)) ∧
  (∀ (vi : Nat) (s : State),
    let d := (s.viAt vi).dom
    let other := if d.sel then d.set0 else d.set1
    let busy : Prop := d.wb = true ∨ d.sw = true
    let lines := s.domainLines vi
    let n := (lines.filter (fun l => (s.dirAt l).dirty)).length
    let same (t : State) : Prop := SameMemory s t ∧ t.stands = s.stands ∧ t.cores = s.cores ∧ ∀ j, j ≠ vi → t.viAt j = s.viAt j
    let becomes (i : Instr) (e : Domain) : Prop := ∃ t, exec i s = .next t ∧ (t.viAt vi).dom = e ∧ same t ∧ t.dir = s.dir ∧ t.frames = s.frames
    let sound : Prop := (s.dir.map Prod.fst).Nodup ∧ (∀ l, LineForm (s.dirAt l).bytes) ∧
      ∀ l, (s.dirAt l).cached = true → (s.dirAt l).dirty = false → ∀ o, o < 128 → memGet (s.dirAt l).bytes o = memGet s.frames (128 * l + o)
    let opened : Prop := s.boot.phase = .ready ∧ vi < 128
    (¬opened → exec (.domWb vi) s = .next s ∧ exec (.domSwitch vi) s = .next s) ∧
    (opened → busy → becomes (.domWb vi) { d with err := true }) ∧ (opened → ¬busy → becomes (.domWb vi) { d with wb := true }) ∧
    (let good (l : List Nat) : Prop := other.nslice ≠ 0 ∧ other.hmask.toNat = hmaskFor other.nslice.toNat ∧ s.readSlices other = some l ∧ l.Nodup ∧
        ∀ e ∈ s.vis, e.1 ≠ vi → ∀ x ∈ e.2.dom.taken, x ∉ l
     (opened → busy ∨ (∀ l, ¬good l) → becomes (.domSwitch vi) { d with err := true }) ∧
     (∀ l, opened → ¬busy → good l → becomes (.domSwitch vi) (if d.sel then { d with sw := true, set0 := { d.set0 with slices := l } }
        else { d with sw := true, set1 := { d.set1 with slices := l } }))) ∧
    (∀ k, 1 ≤ k → k ≤ 1232 → 8 * k ≤ hmaskFor k + 1 ∧ hmaskFor k + 1 < 16 * k ∧ ∃ e, hmaskFor k + 1 = 2 ^ e) ∧
    (d.wb = false → exec (.domWbComplete vi) s = .next s) ∧
    (d.wb = true → sound → ∃ t, exec (.domWbComplete vi) s = .next t ∧ same t ∧ (t.viAt vi).dom = { d with wb := false, wblines := BitVec.ofNat 32 n } ∧
      (∀ l ∈ lines, (t.dirAt l).dirty = false ∧ (t.dirAt l).cached = (s.dirAt l).cached ∧ (t.dirAt l).bytes = (s.dirAt l).bytes) ∧
      ∀ a, memGet t.frames a = if a / 128 ∈ lines ∧ (s.dirAt (a / 128)).dirty then memGet (s.dirAt (a / 128)).bytes (a % 128) else memGet s.frames a) ∧
    (d.sw = false → exec (.domSwitchComplete vi) s = .next s) ∧
    (d.sw = true → sound → ∃ t, exec (.domSwitchComplete vi) s = .next t ∧ same t ∧
      (t.viAt vi).dom = { d with sw := false, sel := !d.sel, wblines := BitVec.ofNat 32 n } ∧
      (∀ l ∈ lines, (t.dirAt l).cached = false ∧ (t.dirAt l).replicas = [] ∧ (t.dirAt l).pins = (s.dirAt l).pins) ∧ ∀ pa, t.homeGet pa = s.homeGet pa))

/-! ### Pre-emption, saved copses and debug commands -/

/-- Pre-emption (R406-R413), restores by the scheduler (R132) and DEBUG (R444). That DEBUG finds halted stands of saved
copses and terminates with a BRK record of cause 1 is the model's reading (log 62), as are the clusters of a launch's victims (log 63); what a breach of the save area and the order of RESTORE's reasons
come to (log 87), the launch made again for a RESTORE (log 41), what an image carries in bits that R411 leaves unlisted (log 71) and operands carried by
the event (log 57) are the model's choices. -/
def Obligations.Preemption : Prop :=
  (∀ (k : Nat) (s : State),
    let c := s.copseAt k
    let size := 1024 + c.nst * (3072 + 512 * c.vregs + 8 * max c.uregs 4) + 160 * c.alloc
    c.life = .resident → (∀ x ∈ (s.engineAt (clusterOf c.core)).taken, x.2.copse ≠ k) → (∀ x ∈ (s.coreAt c.core).chans, x.2.owner ≠ some k) →
      (∀ x ∈ (s.coreAt c.core).slog, copseOf x.stand ≠ k) → c.copies = [] → c.fills = [] → (∀ j ∈ s.standsOf k, (s.standAt j).deferred = []) →
      s.saveBytes k = size ∧ s.saveCost k = (size + 1023) / 1024 ∧ ((s.stageOf k).gmap = 0 → s.drainCost k = none) ∧
        ((s.stageOf k).gmap ≠ 0 → s.drainCost k = some ((size + 1023) / 1024 +
          ((if c.gavg = [] then 65536 else c.gavg.sum / c.gavg.length) * (s.fieldAt (fieldOfCore c.core)).tdiv + 21) / 22))) ∧
  (∀ (vi : Nat) (tag : BitVec 16) (record : Word64) (ord : Option Word64) (bound : BitVec 32) (hint : BitVec 8) (s : State),
    (s.takeCmd vi 4 tag = none → exec (.preempt vi tag record ord bound hint) s = .next s) ∧
    ∀ u, s.takeCmd vi 4 tag = some u →
      let named (e : Nat × Copse) : Prop := e.2.vi = vi ∧ e.2.life = .resident ∧ e.2.launch ≠ 0 ∧ (u.launchAt e.2.launch).record = record ∧
        ∀ o, ord = some o → o = BitVec.ofNat 64 e.2.ord
      ((∀ e ∈ u.copses, ¬named e) → ∃ t, exec (.preempt vi tag record ord bound hint) s = .next t ∧ CompletionPosted u t vi tag 0 0 ∧ OnlyRings u t) ∧
      (∀ k c l r, u.copses = l ++ (k, c) :: r → named (k, c) → (∀ e ∈ l ++ r, ¬named e ∧ e.1 ≠ k) → c.drain = none → (∀ x ∈ (u.viAt vi).cmds, k ∉ x.victims) →
        let w := u.startCmd vi 4 tag [k]
        let B := bound.toNat
        let es := w.saveCost k
        let drains (limit : Option Nat) : Prop :=
          exec (.preempt vi tag record ord bound hint) s = .next (w.setCopse k { c with drain := some ⟨limit, 0, some (vi, tag)⟩ })
        (B ≠ 0 → B < es → (u.launchAt c.launch).rstrt = true → ∃ t, exec (.preempt vi tag record ord bound hint) s = .next t ∧
          (t.copseAt k).life = .ended ∧ (∀ j ∈ u.standsOf k, t.standAt j = Stand.init) ∧ k ∉ (t.coreAt c.core).order ∧
          (∀ n ch, tfind n (t.coreAt c.core).chans = some ch → ch.owner ≠ some k)) ∧
        ((B = 0 ∨ es ≤ B ∨ (u.launchAt c.launch).rstrt = false) →
          (B = 0 → drains none) ∧ (B ≠ 0 → ∀ ed, w.drainCost k = some ed → ed ≤ B → drains (some (B - es))) ∧
          (B ≠ 0 → (∀ ed, w.drainCost k = some ed → B < ed) → es ≤ B → drains (some 0)) ∧
          (B ≠ 0 → (∀ ed, w.drainCost k = some ed → B < ed) → B < es → exec (.preempt vi tag record ord bound hint) s =
            .next (let x := w.setCopse k { c with drain := some ⟨some 0, 0, some (vi, tag)⟩ }
              { x with answers := x.answers ++ [.missed vi (some tag) c.ord] }))))) ∧
  (∀ (launch : Nat) (s : State),
    let l := s.launchAt launch
    let waits (n f : Nat) : Prop := n < l.stages.length ∧ f ∈ s.hostFields l.vi ∧ s.stageWaits launch n f = true
    ((l.running = false ∨ l.latb = 0 ∨ ∀ n f, ¬waits n f) → exec (.preemptEval launch) s = .next s) ∧
    (l.running = true → l.latb ≠ 0 → (∃ n f, waits n f) → ∃ n f, waits n f ∧
      let cls := s.serving launch n f
      let key (c : Nat) : Nat × Nat := ((s.launchAt (s.copseAt c).launch).prio, s.saveBytes c)
      let before (a b : Nat) : Prop := (key a).1 < (key b).1 ∨ (key a).1 = (key b).1 ∧ (key a).2 ≤ (key b).2
      let victims := (s.copses.filter (fun e => e.2.life == .resident && e.2.vi == l.vi && e.2.launch != 0 &&
        decide ((s.launchAt e.2.launch).prio < l.prio) && cls.contains (clusterOf e.2.core))).map Prod.fst
      let leaving := victims.filter (fun c => (s.copseAt c).drain.isSome)
      (s.admits launch n f victims = false → exec (.preemptEval launch) s = .next s) ∧
      (s.admits launch n f victims = true → ∃ cs rest, List.Perm (cs ++ rest) (victims.filter (fun c => (s.copseAt c).drain.isNone)) ∧
        (cs ++ rest).Pairwise before ∧ s.admits launch n f (cs ++ leaving) = true ∧
        (∀ i, i < cs.length → s.admits launch n f (cs.take i ++ leaving) = false) ∧
        exec (.preemptEval launch) s = .next (cs.foldl (fun s c => s.preemptOne c l.latb none) s)))) ∧
  (∀ (k : Nat) (s : State), exec (.drainLimit k) s = .next (match (s.copseAt k).drain with
    | some d => if d.limit = none ∧ 65536 ≤ d.opps then s.setCopse k { s.copseAt k with drain := some { d with limit := some 0 } } else s
    | none => s)) ∧
  (∀ (k : Nat) (unsaved : Bool) (s : State) (r : Running), (s.viAt (s.copseAt k).vi).cmds = [r] → r.opcode = 4 → r.victims = [k] →
    let n := r.unsaved + unsaved.toNat
    CompletionPosted s (s.victimDone k unsaved) (s.copseAt k).vi r.tag (if n = 0 then 0 else 0x14) n ∧
      ((s.victimDone k unsaved).viAt (s.copseAt k).vi).cmds = []) ∧
  (∀ (k : Nat) (s : State),
    let c := s.copseAt k
    let u := s.abandonAll k
    let q := (u.packed k).rereadArea c.vi
    let v := q.viAt c.vi
    let due : Prop := c.life = .resident ∧ ∃ d, c.drain = some d ∧ (d.limit = some 0 ∨ (s.noHandler k = true ∧ ∀ j ∈ s.standsOf k, s.atGraft j = true))
    let held := if v.areaFresh then v.saved else []
    let ndir := if v.cquota = 0 then 4096 else v.cquota.toNat
    let head := (4096 + 64 * ndir + 4095) / 4096
    let n := q.imageSize k
    let base := 4096 * v.saveBase.toNat
    let free (p : Nat) : Prop := head ≤ p ∧ p + (n + 4095) / 4096 ≤ v.saveLen.toNat ∧
      ∀ x ∈ held, p + (n + 4095) / 4096 ≤ x.2.2.1 / 4096 ∨ x.2.2.1 / 4096 + (x.2.2.2 + 4095) / 4096 ≤ p
    let fits (e p : Nat) : Prop := v.saveBase ≠ 0 ∧ head ≤ v.saveLen.toNat ∧ (e < ndir ∧ (∀ x ∈ held, x.1 ≠ e) ∧ ∀ i, i < e → ∃ x ∈ held, x.1 = i) ∧
      free p ∧ ∀ i, i < p → ¬free i
    let told : Prop := (∀ x ∈ c.copies, x.inOrder = true) ∧ ∀ j ∈ s.standsOf k, s.logged j = false
    ((s.viAt c.vi).areaTouched = false → q = u.packed k) ∧
    (c.life ≠ .ended → ¬(due ∧ u.copseStill k = true ∧ told) → exec (.copseSave k) s = .next s) ∧
    (c.life = .ended → exec (.copseSave k) s = .next (s.victimDone k false)) ∧
    (due → u.copseStill k = true → told → (∀ r ∈ v.cmds, k ∉ r.victims) → ∀ e p, fits e p → c.ord < 2 ^ 64 → c.stage < 8 →
      ∃ t, exec (.copseSave k) s = .next t ∧ (t.copseAt k).life = .saved ∧ (t.copseAt k).drain = none ∧ k ∉ (t.coreAt c.core).order ∧
        (t.copseAt k).move = (if c.move.state = .gather then { c.move with state := .pending, room := none } else c.move) ∧
        (∀ j ∈ s.standsOf k, (t.standAt j).paths = []) ∧
        (t.viAt c.vi).saved = held ++ [(e, k, 4096 * p, n)] ∧
        memRead t.hostMem (base + 4096 + 64 * e) 64 =
          1 + 4096 * p * 2 ^ 64 + n * 2 ^ 128 + c.ord * 2 ^ 192 + (q.launchAt c.launch).record.toNat * 2 ^ 256 + c.stage * 2 ^ 320 ∧
        memRead t.hostMem base 4 = 0x494D5A4B ∧
        (∀ i, i < c.nst → memRead t.hostMem (base + 4096 * p + 1024 + 3072 * i) 8 = (q.standAt (16 * k + i)).pc.toNat ∧
          memRead t.hostMem (base + 4096 * p + 1024 + 3072 * i + 8) 16 = (q.standAt (16 * k + i)).a.toNat ∧
          ∀ j, j < max c.uregs 4 → memRead t.hostMem (base + 4096 * p + 1024 + (3072 + 512 * c.vregs) * c.nst + 8 * (max c.uregs 4 * i + j)) 8 =
            (tget 0 (q.standAt (16 * k + i)).sr j).toNat) ∧
        ∀ a, a < base ∨ base + 4096 * v.saveLen.toNat ≤ a → memGet t.hostMem a = memGet s.hostMem a) ∧
    (due → u.copseStill k = true → told → (∀ e p, ¬fits e p) → ∃ (w : State) (r : FaultRec), r.cls = 0x0D ∧ r.cause = 5 ∧
      r.addr = BitVec.ofNat 64 (4096 * (s.viAt c.vi).saveBase.toNat) ∧ r.aux = BitVec.ofNat 64 c.ord ∧ EventPosted s w c.vi r ∧ OnlyRings s w ∧
      ((s.launchAt c.launch).rstrt = true → exec (.copseSave k) s = .next (w.flushCopse k)) ∧
      ((s.launchAt c.launch).rstrt = false → (∀ x ∈ (s.viAt c.vi).cmds, k ∉ x.victims) → ∃ t, exec (.copseSave k) s = .next t ∧
        t.copseAt k = { c with drain := none } ∧ (∀ j, j ≠ k → t.copseAt j = s.copseAt j) ∧ t.hostMem = w.hostMem ∧ SameMemory s t ∧
        ∀ j, ∃ b, t.standAt j = { s.standAt j with held := b }))) ∧
  (∀ (k core : Nat) (s : State),
    let l := s.launchAt (s.copseAt k).launch
    let ready : Prop := (s.copseAt k).life = .saved ∧ l.running = true ∧
      ∀ e ∈ s.launches, e.2.vi = (s.copseAt k).vi → e.2.latb ≠ 0 → l.prio < e.2.prio → s.launchWaits e.1 = false
    let w := s.reread k
    let c := w.copseAt k
    let v := w.viAt c.vi
    let onTo (kd : Kind) : Prop := core ∈ w.admitting k kd
    let plain : Prop := c.move.state ≠ .pending ∨ c.savedResvs ≠ [] ∨ (∃ j ∈ w.standsOf k, w.atGraft j = false) ∨ c.move.tgt = none ∨
      ∃ kd, c.move.tgt = some kd ∧ w.admitting k kd = []
    let carried : Prop := c.savedLog = [] ∧ c.savedResvs = [] ∧ (∀ x ∈ (w.coreAt core).slog, copseOf x.stand ≠ k) ∧
      ∀ j ∈ w.standsOf k, (w.standAt j).wait.inGrove = false ∨ w.grovesWith j ≠ []
    let landed (x : Stand) : Stand := { x with held := false, b := x.b.map (fun h => (h.1, ⟨32, 0⟩)) }
    let back (t : State) : Prop := (t.copseAt k).life = .resident ∧ (t.copseAt k).core = core ∧ k ∈ (t.coreAt core).order ∧
      (t.viAt c.vi).saved = v.saved.filter (fun e => e.2.1 != k) ∧
      ∀ e ∈ v.saved, e.2.1 = k → memGet t.hostMem (4096 * v.saveBase.toNat + 4096 + 64 * e.1) = 0
    (k ∉ (s.viAt (s.copseAt k).vi).breached → (s.viAt (s.copseAt k).vi).areaTouched = false → w = s) ∧
    (¬ready → exec (.copseRestore k core) s = .next s) ∧
    (ready → plain → ¬onTo c.kind → exec (.copseRestore k core) s = .next w) ∧
    (ready → plain → onTo c.kind → carried → ∃ t, exec (.copseRestore k core) s = .next t ∧ back t ∧ (t.copseAt k).kind = c.kind ∧
      (t.copseAt k).move = c.move ∧ (∀ j ∈ w.standsOf k, t.standAt j = landed (w.standAt j)) ∧ ∀ j ∉ w.standsOf k, t.standAt j = w.standAt j) ∧
    (∀ kd, ready → c.move.state = .pending → c.savedResvs = [] → (∀ j ∈ w.standsOf k, w.atGraft j = true) → c.move.tgt = some kd →
      w.admitting k kd ≠ [] →
      (¬onTo kd → exec (.copseRestore k core) s = .next w) ∧
      (onTo kd → w.graftTable c.vi (w.stageOf k) = none → exec (.copseRestore k core) s = .next (w.dropMove k .refused 3)) ∧
      (onTo kd → ∀ g, w.graftTable c.vi (w.stageOf k) = some g → w.carried k g w.gidAt = none → exec (.copseRestore k core) s = .next (w.dropMove k .refused 4)) ∧
      (onTo kd → carried → ∀ g sts, w.graftTable c.vi (w.stageOf k) = some g → w.carried k g w.gidAt = some sts → (sts.map Prod.fst).Nodup →
        ∃ t, exec (.copseRestore k core) s = .next t ∧ back t ∧ (t.copseAt k).kind = kd ∧ (∀ x ∈ sts, t.standAt x.1 = landed x.2) ∧
          (t.copseAt k).move = ⟨none, .done, 0, if c.move.moves = 0xFFFF then 0xFFFF else c.move.moves + 1, 0, none⟩))) ∧
  (∀ (vi : Nat) (tag : BitVec 16) (image xlat size : Word64) (s : State),
    let i : Instr := .restore vi tag image xlat size
    (s.takeCmd vi 5 tag = none → exec i s = .next s) ∧
    ∀ u, s.takeCmd vi 5 tag = some u →
      let a := image.toNat
      let h := memRead u.hostMem a 32
      let cap := bits h 127 64
      let entry (n : Nat) : Nat := memRead u.hostMem (a + 4096 + 64 * n) 64
      let saved (n : Nat) : Prop := n < bits h 63 48 ∧ bits (entry n) 1 0 = 1
      let malformed : Prop := bits h 31 0 ≠ 0x494D5A4B ∨ bits h 47 32 ≠ 1 ∨ cap % 4096 ≠ 0 ∨
        ∃ n, saved n ∧ cap < bits (entry n) 127 64 + bits (entry n) 191 128
      let direct : Prop := bits h 207 192 = 1 ∧ bits h 223 208 = 1
      let fits (x : State) : Prop := (u.viAt vi).cquota = 0 ∨ (x.copsesOf vi).length ≤ (u.viAt vi).cquota.toNat
      let refused (n : Nat) : Prop := ∃ (t w x : State) (r : FaultRec), exec i s = .next t ∧ r.cls = 0x0D ∧ r.cause = 2 ∧ r.addr = image ∧
        r.aux = BitVec.ofNat 64 n ∧ x = { u with hostMem := x.hostMem, free := x.free } ∧
        (∀ b, b < xlat.toNat ∨ xlat.toNat + size.toNat ≤ b → memGet x.hostMem b = memGet u.hostMem b) ∧
        EventPosted x w vi r ∧ OnlyRings x w ∧ CompletionPosted w t vi tag 0 (2 + 256 * n) ∧ OnlyRings w t
      (malformed → refused 7) ∧
      (¬malformed → direct → (∀ n, ¬saved n) → u.partClusters vi = [] → refused 5) ∧
      (¬malformed → direct → (∀ n, ¬saved n) → u.partClusters vi ≠ [] → fits u → ∃ t, exec i s = .next t ∧ CompletionPosted u t vi tag 0 0 ∧ OnlyRings u t) ∧
      (∀ n l x, ¬malformed → direct → saved n → (∀ j, saved j → j = n) → u.partClusters vi ≠ [] →
        u.launches.find? (fun e => e.2.running && e.2.vi == vi && e.2.record.toNat == bits (entry n) 319 256) = some (l, x) →
        let id := u.nextId
        let at' := a + bits (entry n) 127 64
        let len := bits (entry n) 191 128
        let c := readImage u.hostMem at' len id (id + 1) vi l
        let w := ((List.range c.2.length).zip c.2).foldl (fun s k => s.setStand (16 * id + k.1) k.2) ({ u with nextId := id + 2 + len / 32 }.setCopse id c.1)
        c.1.move.state ≠ .pending → (∀ g, w.graftTable vi (w.stageOf id) = some g → g.srev = 1 ∧ g.hrev = 1) → fits w →
        (w.storeImage id = none → refused 8) ∧
        (∀ y, w.storeImage id = some y → ∃ t, exec i s = .next t ∧ CompletionPosted y t vi tag 0 0 ∧ OnlyRings y t ∧ t.copseAt id = c.1 ∧ c.1.life = .saved ∧
          c.1.ord = memRead u.hostMem at' 8 ∧ (∀ j, j ≠ id → t.copseAt j = u.copseAt j) ∧
          ∀ j y, c.2[j]? = some y → t.standAt (16 * id + j) = y ∧ (y.life ≠ .absent → y.pc = BitVec.ofNat 64 (memRead u.hostMem (at' + 1024 + 3072 * j) 8) ∧
            y.a = BitVec.ofNat 128 (memRead u.hostMem (at' + 1024 + 3072 * j + 8) 16))))) ∧
  (∀ (vi : Nat) (tag : BitVec 16) (ord : Word64) (stand : BitVec 4) (op : BitVec 8) (s : State),
    (s.takeCmd vi 6 tag = none → exec (.debugCmd vi tag ord stand op) s = .next s) ∧
    ∀ u, s.takeCmd vi 6 tag = some u →
      let place (e : Nat × Copse) : Nat := 16 * e.1 + stand.toNat
      let halts (e : Nat × Copse) : Prop := e.2.vi = vi ∧ e.2.launch ≠ 0 ∧ (e.2.life = .resident ∨ e.2.life = .saved) ∧ BitVec.ofNat 64 e.2.ord = ord ∧
        (u.standAt (place e)).life = .halted
      ((∀ e ∈ u.copses, ¬halts e) → ∃ t, exec (.debugCmd vi tag ord stand op) s = .next t ∧ CompletionPosted u t vi tag 0x15 0 ∧ OnlyRings u t) ∧
      ∀ e ∈ u.copses, halts e → (∀ x ∈ u.copses, halts x → x = e) →
        let k := place e
        let st := u.standAt k
        (op ≠ 1 → ∃ t, exec (.debugCmd vi tag ord stand op) s = .next t ∧ CompletionPosted u t vi tag 0 0 ∧ t.standAt k = { st with life := .live } ∧
          (∀ j, j ≠ k → t.standAt j = u.standAt j) ∧ t.copses = u.copses ∧ SameMemory s t) ∧
        (op = 1 → st.wait = .none → (u.copseAt (copseOf k)).maint = false → ∃ (t w : State) (r : FaultRec),
          exec (.debugCmd vi tag ord stand op) s = .next t ∧ r.cls = 0x0B ∧ r.cause = 1 ∧ r.npc = st.pc ∧ w = (u.counted k).terminate k r ∧
          CompletionPosted w t vi tag 0 0 ∧ OnlyRings w t ∧ (t.standAt k).life = .ending ∧ (t.standAt k).exited = allLanes ∧ (t.standAt k).pend = [] ∧
          (t.standAt k).frames = [] ∧ (∀ key, (t.groveAt key).live = true → (t.groveAt key).member k = none) ∧
          (t.launchAt (u.copseAt (copseOf k)).launch).terminated = (u.launchAt (u.copseAt (copseOf k)).launch).terminated + 1))

/-! ### Rates, readings, timeouts and errors -/

/-- Rates and readings (R417-R419, R453), timeouts (R447) and errors (R405). That launches of an ended context stop without completions is the model's
reading (log 64), and the CAUSE of the event is free (log 65), where also stands what a shared error in routers touches. -/
def Obligations.PowerTimeoutsAndErrors : Prop :=
  (∀ (cluster : Nat) (s : State),
    let fcap := (s.fieldAt (fieldOfCluster cluster)).fcap.toNat
    let here (e : Nat × Copse) : Prop := e ∈ s.copses ∧ e.2.life = .resident ∧ clusterOf e.2.core = cluster
    let top (vi m : Nat) : Prop := (∀ e, here e → e.2.vi = vi → e.2.laneReq.toNat ≤ m) ∧ ∃ e, here e ∧ e.2.vi = vi ∧ e.2.laneReq.toNat = m
    let term (vi n : Nat) : Prop := ∃ m, top vi m ∧ n = min (s.viAt vi).ceil.toNat m
    ∃ rate, exec (.rateBoundary cluster) s = .next (s.setCluster cluster { s.clusterAt cluster with rate := BitVec.ofNat 2 rate }) ∧
      ((∀ e, ¬here e) → rate = min fcap 1) ∧
      ((∃ e, here e) → ∃ m, rate = min fcap m ∧ (∀ e n, here e → term e.2.vi n → n ≤ m) ∧ ∃ e, here e ∧ term e.2.vi m)) ∧
  (∀ (r : Reading) (s : State),
    let out : Prop := 450 < r.inlet ∨ r.millivolts < 44000 ∨ 54000 < r.millivolts
    let keeps : Prop := r.watts + 6300 < 42000
    let div (f : Field) (n : Nat) : Field := { f with tdiv := n, tdivMax := max f.tdivMax n }
    (s.power.on = false → exec (.pmbusReading r) s = .next s) ∧
    (s.power.on = true → ∃ t, exec (.pmbusReading r) s = .next t ∧ SameMemory s t ∧ t.stands = s.stands ∧ t.copses = s.copses ∧ t.cores = s.cores ∧
      t.clusters = s.clusters ∧ t.hostMem = s.hostMem ∧ t.boot = s.boot ∧ t.net = s.net ∧
      t.power.last = some r ∧ (out → t.power.bad = s.power.bad + 1) ∧ (¬out → t.power.bad = 0) ∧ t.power.on = true ∧
      ∀ x, let f := s.fieldAt x
        let u := t.fieldAt x
        (x ∉ allFields → u = f) ∧
        (x ∈ allFields →
          (out → u = { div f 8 with fcap := 0, good := 0 }) ∧
          (¬out → ¬keeps → f.fcap = 0 → u = { div f (min 8 (2 * f.tdiv)) with good := 0 }) ∧
          (¬out → ¬keeps → f.fcap ≠ 0 → u = { f with fcap := f.fcap - 1, good := 0 }) ∧
          (¬out → keeps → f.good + 1 < 16 → u = { f with good := f.good + 1 }) ∧
          (¬out → keeps → 16 ≤ f.good + 1 → 1 < f.tdiv → u = { div f (f.tdiv / 2) with good := 0 }) ∧
          (¬out → keeps → 16 ≤ f.good + 1 → f.tdiv ≤ 1 → u = { f with fcap := if f.fcap = 0 then 1 else 2, good := 0 })))) ∧
  (∀ (s : State),
    (¬(s.power.on = true ∧ 1000 ≤ s.power.bad) → exec .powerRemove s = .next s) ∧
    (s.power.on = true → 1000 ≤ s.power.bad → ∃ t, exec .powerRemove s = .next t ∧ t.power = ⟨false, 0, true, s.power.last⟩ ∧ t.hostMem = s.hostMem ∧
      t.script = s.script ∧ t.free = s.free ∧ t.stands = [] ∧ t.copses = [] ∧ t.launches = [] ∧ t.groves = [] ∧ t.frames = [] ∧ t.dir = [] ∧
      t.vis = [] ∧ t.boot.phase = .rom)) ∧
  (∀ (q : PmbusRead) (x : Reading) (s : State), s.power.last = some x → s.pmbus q = { s with answers := s.answers ++ [.pmbus q (match q with
    | .vin => x.millivolts
    | .iin => x.milliamps
    | .pout => x.watts
    | .temperature1 => x.inlet
    | .temperature2 => x.outlet
    | .statusWord => Config.statusWord s.power.status)] }) ∧
  (∀ (vi : Nat) (tag : BitVec 16) (s : State),
    let v := s.viAt vi
    ((∀ r ∈ v.cmds, r.tag = tag → r.timedOut = true) → exec (.hostTimeout vi tag) s = .next s) ∧
    ∀ l r rest, v.cmds = l ++ r :: rest → (∀ x ∈ l, x.tag = tag → x.timedOut = true) → r.tag = tag → r.timedOut = false →
      let passed := (s.fieldAt (portField (vi / 32))).ref - r.started
      (passed.toNat ≤ v.hlim.toNat * r.tdivMax → exec (.hostTimeout vi tag) s = .next s) ∧
      (v.hlim.toNat * r.tdivMax < passed.toNat → ∃ (t w : State) (e : FaultRec), exec (.hostTimeout vi tag) s = .next t ∧
        CompletionPosted s w vi tag 0x11 0 ∧ OnlyRings s w ∧ EventPosted w t vi e ∧ OnlyRings w t ∧ e.cls = 0x0D ∧ e.cause = 4 ∧ e.addr = 0 ∧
        e.aux = tag.setWidth 64 ∧ (t.viAt vi).cmds = v.cmds.map (fun x => if x = r then { x with timedOut := true } else x))) ∧
  (∀ (e : UceSite) (s : State),
    let gone (t : State) (vi : Nat) : Prop := (t.viAt vi).ended = true ∧
      (∀ c, (s.copseAt c).vi = vi → (s.copseAt c).launch ≠ 0 → (s.copseAt c).life = .resident ∨ (s.copseAt c).life = .saved →
        (t.copseAt c).life = .ended ∧ ∀ j ∈ s.standsOf c, (t.standAt j).life = .absent) ∧
      (∀ l, (s.launchAt l).vi = vi → (t.launchAt l).running = false) ∧ ∀ g, (t.groveAt g).live = true → (t.groveAt g).vi ≠ vi
    let told (t : State) (vi : Nat) (addr : Word64) : Prop := ∃ (w : State) (r : FaultRec), r.cls = 0x0E ∧ r.addr = addr ∧
      EventPosted (s.terminateContext vi) w vi r ∧ OnlyRings (s.terminateContext vi) w ∧ t.pfs = (w.postPfs r).pfs ∧ t.hostMem = (w.postPfs r).hostMem
    (∀ core line, e = .copyElsewhere core line → ∃ t, exec (.uncorrectableError e) s = .next t ∧ t.stands = s.stands ∧ t.copses = s.copses ∧
      t.launches = s.launches ∧ t.groves = s.groves ∧ t.vis = s.vis ∧ t.hostMem = s.hostMem ∧ t.frames = s.frames ∧
      (∀ l, s.l1At core line = some l → l.dirty = 0 → t.l1At core line = none) ∧
      (s.l1At core line = none → (s.dirAt line).cached = true → (s.dirAt line).dirty = false → tfind (fieldOfCore core) (s.dirAt line).replicas = none →
        (t.dirAt line).cached = false) ∧ (∀ l, s.l1At core line = some l → l.dirty ≠ 0 → t = s.bump) ∧
      ∀ c x, (c ≠ core ∨ x ≠ line) → t.l1At c x = s.l1At c x) ∧
    (∀ vi line, e = .ownedLine vi line → ∃ t, exec (.uncorrectableError e) s = .next t ∧ gone t vi ∧ told t vi (BitVec.ofNat 64 (128 * line)) ∧
      line / 512 ∉ t.near ∧ line / 512 ∈ t.retired ∧ t.boot = s.boot) ∧
    (∀ vi cluster, e = .ownedUnit vi cluster → ∃ t, exec (.uncorrectableError e) s = .next t ∧ gone t vi ∧ told t vi 0 ∧
      t.boot.clusters = s.boot.clusters.filter (fun c => c != cluster) ∧ t.boot.slices = s.boot.slices ∧ t.boot.bgen = s.boot.bgen + 1) ∧
    (∀ slice, e = .sharedSlice slice → ∃ t, exec (.uncorrectableError e) s = .next t ∧ t.boot.clusters = s.boot.clusters ∧
      t.boot.slices = s.boot.slices.filter (fun x => x != slice) ∧ t.boot.bgen = s.boot.bgen + 1 ∧
      t.boot.cache = BitVec.ofNat 13 (4 * t.boot.slices.length) ∧
      ∀ v ∈ s.vis.map Prod.fst, slice ∈ (s.viAt v).dom.live.slices → gone t v) ∧
    (∀ field, e = .sharedRouters field → ∃ t, exec (.uncorrectableError e) s = .next t ∧ t.boot.clusters = s.boot.clusters ∧
      t.boot.slices = s.boot.slices ∧ t.boot.bgen = s.boot.bgen + 1 ∧ ∀ v ∈ s.vis.map Prod.fst,
        ((∃ n ∈ (s.viAt v).dom.live.slices, n / 16 = field) ∨ ∃ c ∈ (s.viAt v).part, c / 140 = field) → gone t v) ∧
    (∀ field, e = .corrected field → exec (.uncorrectableError e) s =
      .next (s.setField field { s.fieldAt field with soft := (s.fieldAt field).soft + 1 }).bump) ∧
    (let stays (t : State) : Prop := t.stands = s.stands ∧ t.copses = s.copses ∧ t.launches = s.launches ∧ t.groves = s.groves ∧
        t.boot.bgen = s.boot.bgen + 1
     (∀ slice, e = .failedSlice slice → ∃ t, exec (.uncorrectableError e) s = .next t ∧ stays t ∧ t.boot.clusters = s.boot.clusters ∧
       t.boot.slices = s.boot.slices.filter (fun x => x != slice) ∧ t.boot.cache = BitVec.ofNat 13 (4 * t.boot.slices.length) ∧
       (HomesSound s → ∀ pa, t.homeGet pa = s.homeGet pa) ∧
       ∀ v, v ∈ s.vis.map Prod.fst → (s.vis.map Prod.fst).Nodup → (∀ x ∈ s.vis, slice ∈ x.2.dom.taken → x.1 = v) →
         let d := (s.viAt v).dom
         slice ∈ d.live.slices → d.live.slices.Nodup → d.wb = false → d.sw = false →
           (t.viAt v).dom.wblines = BitVec.ofNat 32 ((s.domainLines v).filter (fun l => (s.dirAt l).dirty)).length ∧
           (t.viAt v).dom.live.slices = d.live.slices.filter (fun x => x != slice) ∧
           ∀ l ∈ s.domainLines v, (t.dirAt l).cached = false) ∧
     (∀ cluster, e = .failedCluster cluster → ∃ t, exec (.uncorrectableError e) s = .next t ∧ stays t ∧ SameMemory s t ∧
       t.boot.clusters = s.boot.clusters.filter (fun c => c != cluster) ∧ t.boot.slices = s.boot.slices) ∧
     ∀ x, e = .failedRouters x → ∃ t, exec (.uncorrectableError e) s = .next t ∧ stays t ∧ SameMemory s t ∧
       t.boot.clusters = s.boot.clusters ∧ t.boot.slices = s.boot.slices))

/-! ### The network -/

/-- The network (R423-R434). That LINK_FAIL rebinds the map and which links a crossover takes are the model's reading (log 66); that a link has one
unacknowledged packet, which packets enter, and which of their values are free (log 61); that LOADING takes the table at once (log 92). -/
def Obligations.NetworkMovesPackets : Prop :=
  (∀ (p : Packet), let h := p.header
    h.extractLsb' 0 11 = p.dest ∧ h.extractLsb' 11 4 = p.dport ∧ h.extractLsb' 15 11 = p.src ∧ h.extractLsb' 26 4 = p.sport ∧ h.getLsbD 30 = p.ts ∧
      h.extractLsb' 31 2 = p.kind.pri ∧ h.getLsbD 33 = p.xo ∧ h.getLsbD 34 = p.esc ∧ h.extractLsb' 35 3 = p.len ∧ h.extractLsb' 38 26 = p.txn) ∧
  (∀ (plane : Nat) (kind : Transaction) (h : Word64) (s : State),
    let r := (h.extractLsb' 15 11).toNat
    let f := 9 * (r / 36 / 4) + r % 36 / 4
    let full : Prop := ∃ i, i < 16 ∧ 32 ≤ s.escapedIn (16 * f + i) kind.net ∧
      ∃ q ∈ s.net.packets, q.kind.net = kind.net ∧ q.plane = plane ∧ ∃ g, q.escaped = some (16 * f + i, g)
    let may : Prop := plane < 2 ∧ s.routerDead r = false ∧ (h.extractLsb' 35 3).toNat ∈ kind.lens ∧ ¬full
    (¬may → s.inject plane kind h = s) ∧
    (may → ∃ ts, let t := s.inject plane kind h
      t.net.packets = s.net.packets ++ [{ Packet.ofHeader kind plane s.nextId ts h with ts0 := ts }] ∧ t.nextId = s.nextId + 1 ∧
        ((s.planeAt plane).st = .stable ∨ (s.planeAt plane).st = .loading → ts = (s.planeAt plane).act) ∧
        ((s.planeAt plane).st = .draining → ts = !(s.planeAt plane).act) ∧ t.stands = s.stands ∧ t.copses = s.copses ∧ SameMemory s t)) ∧
  (∀ (plane net router out : Nat) (s : State),
    let k := 8 * (1296 * (3 * plane + net) + router) + out
    let cross := 8 * (1296 * (3 * plane + net) + router) + 5
    let a := s.arbAt k
    let field := 9 * (router / 36 / 4) + router % 36 / 4
    let slice := 16 * field + 4 * (router / 36 % 4) + router % 36 % 4
    let f := s.fieldAt field
    let top := max 1 f.agemax.toNat
    let weight (i : Nat) : Nat := max 1 (match i with | 0 => f.wn.toNat | 1 => f.we.toNat | 2 => f.ws.toNat | 3 => f.ww.toNat | 4 => f.wl.toNat | _ => f.wx.toNat)
    let names (i : Nat) (p : Packet) : Prop := i < 6 ∧ s.headAt plane net router i = some p ∧ (s.entryAt plane p.ts router p.dest.toNat).toNat % 8 = out
    let age (i : Nat) (p : Packet) : Nat := match tfind i a.heads with | some h => if h.1 = p.id then h.2 else 0 | none => 0
    let aged : Prop := ∃ i p, names i p ∧ age i p = top
    let cand (i : Nat) : Prop := ∃ p, names i p ∧ (aged → age i p = top) ∧ (¬aged → ∀ j q, names j q → q.kind.pri.toNat ≤ p.kind.pri.toNat)
    let wins (i : Nat) : Prop := cand i ∧ ∀ j, cand j → (i + 6 - a.p) % 6 ≤ (j + 6 - a.p) % 6
    let idle : Prop := exec (.arbiterGrant plane net router out) s = .next s
    let room (l : Nat) (p : Packet) : Prop := let xs := s.net.packets.filter (fun q => q.link == some l && q.escaped.isNone)
      xs = [] ∨ ((∀ q ∈ s.net.packets, q.link = some l → q.sent = false) ∧
        (xs.map (fun q => q.len.toNat + 1)).sum + p.len.toNat + 1 ≤ Config.linkLatches l)
    (∀ i p, s.headAt plane net router i = some p → p ∈ s.net.packets ∧ p.plane = plane ∧ p.kind.net = net ∧ p.router = router ∧ p.escaped = none ∧
      p.sent = false ∧ i = match p.link with
        | none => 4
        | some l => if l % 8 = 1 then 2 else if l % 8 = 2 then 3 else if l % 8 = 3 then 0 else if l % 8 = 4 then 1 else 5) ∧
    ((∀ i p, ¬names i p) → idle) ∧ (s.routerDead router = true → idle) ∧
    ∀ g p, a.p < 6 → s.routerDead router = false → names g p → wins g →
      let run := if g = a.p then (a.p, a.c + 1) else (g, 1)
      let turn := if run.2 = weight run.1 then ((run.1 + 1) % 6, 0) else run
      let sole : Prop := ∀ x ∈ s.net.packets, x.id = p.id → x = p
      let moves (q : Packet) : Prop := ∃ t, exec (.arbiterGrant plane net router out) s = .next t ∧
        t.net.packets = s.net.packets.filter (fun x => x.id != p.id) ++ (s.net.packets.filter (fun x => x.id == p.id)).map (fun _ => q) ∧
        t.net.links = s.net.links ∧ (t.arbAt k).p = turn.1 ∧ (t.arbAt k).c = turn.2 ∧
        (∀ i x, i ≠ g → names i x → tfind i (t.arbAt k).heads = some (x.id, min (age i x + 1) top)) ∧ (∀ x, tfind g (t.arbAt k).heads ≠ some x) ∧
        (∀ j, j ≠ k → t.arbAt j = s.arbAt j) ∧ t.stands = s.stands ∧ t.copses = s.copses ∧ SameMemory s t
      let ejects : Prop := (32 ≤ s.escapedIn slice net → idle) ∧
        (s.escapedIn slice net < 32 → sole → let g := if p.ts = (s.planeAt plane).act then (s.planeAt plane).gen else (s.planeAt plane).gen + 1
          moves { p with link := none, escaped := some (slice, g) })
      let crosses : Prop := (s.linkDead cross = false → ¬room cross p → idle) ∧
        (s.linkDead cross = false → room cross p → sole →
          ∃ ts, moves { p with plane := 1 - plane, xo := true, ts := ts, link := some cross, sent := true, ts0 := p.ts, xo0 := p.xo } ∧
            ((s.planeAt (1 - plane)).st = .stable ∨ (s.planeAt (1 - plane)).st = .loading → ts = (s.planeAt (1 - plane)).act))
      (out = 0 → ∃ t, exec (.arbiterGrant plane net router out) s = .next t ∧ t.net.packets = s.net.packets.filter (fun q => q.id != p.id) ∧
        t.net.links = s.net.links ∧ (t.arbAt k).p = turn.1 ∧ (t.arbAt k).c = turn.2 ∧ t.stands = s.stands ∧ t.copses = s.copses ∧ SameMemory s t) ∧
      (1 ≤ out → out ≤ 4 → s.linkDead k = false → (¬room k p → idle) ∧ (room k p → sole →
        moves { p with link := some k, sent := true, ts0 := p.ts, xo0 := p.xo,
                       router := if out = 1 then router - 36 else if out = 2 then router + 1 else if out = 3 then router + 36 else router - 1 })) ∧
      (1 ≤ out → out ≤ 4 → s.linkDead k = true → (p.xo = true → ejects) ∧ (p.xo = false → crosses)) ∧
      (out = 5 → crosses) ∧ (out = 6 → ejects) ∧ (out = 7 → idle)) ∧
  (∀ (l : Nat) (s : State),
    let x := s.linkAt l
    let on := s.net.packets.find? (fun q => q.sent && q.link == some l)
    let put (t : State) (p : Packet) (g : Packet → Packet) : Prop :=
      t.net.packets = s.net.packets.filter (fun q => q.id != p.id) ++ (s.net.packets.filter (fun q => q.id == p.id)).map g
    let field := 9 * (l / 8 % 1296 / 36 / 4) + l / 8 % 1296 % 36 / 4
    exec (.flitResend l) s = .next (if x.failed ∨ on = none then s else s.setLink l { x with resends := min 8 (x.resends + 1) }) ∧
    (on = none → s.received l = s) ∧
    (∀ p, on = some p → put (s.received l) p (fun q => { q with sent := false }) ∧ (s.received l).linkAt l = { x with resends := 0 } ∧
      ∀ j, j ≠ l → (s.received l).linkAt j = s.linkAt j) ∧
    ((x.failed = true ∨ x.resends < 8) → exec (.linkFail l) s = .next s) ∧
    (l < 62208 → x.failed = false → 8 ≤ x.resends → s.linkDead l = false → ∃ t, exec (.linkFail l) s = .next t ∧ (t.linkAt l).failed = true ∧
      t.boot.bgen = s.boot.bgen + 1 ∧ t.boot.clusters = s.boot.clusters ∧ t.boot.slices = s.boot.slices ∧ t.stands = s.stands ∧ t.copses = s.copses ∧ SameMemory s t ∧
      (l % 8 ≠ 5 → (∀ j, j ≠ l → t.linkAt j = s.linkAt j) ∧ (t.fieldAt field).dead = (s.fieldAt field).dead + 1 ∧
        (on = none → t.net.packets = s.net.packets) ∧ ∀ p, on = some p → put t p (fun q =>
          { q with router := l / 8 % 1296, plane := l / 8 / 1296 / 3, link := none, sent := false, ts := q.ts0, xo := q.xo0 })) ∧
      (l % 8 = 5 → t.routerDead (l / 8 % 1296) = true ∧ ∀ plane net out, plane < 2 → net < 3 → 1 ≤ out → out ≤ 5 →
        t.linkDead (8 * (1296 * (3 * plane + net) + l / 8 % 1296) + out) = true ∧
        (out ≤ 4 → hasLink (l / 8 % 1296) out = true →
          t.linkDead (8 * (1296 * (3 * plane + net) + nextRouter (l / 8 % 1296) out) + (out + 1) % 4 + 1) = true)))) ∧
  (∀ (slice plane : Nat) (s : State),
    let x := s.planeAt plane
    let due (q : Packet) : Bool := match q.escaped with
      | some e => q.plane == plane && e.1 == slice && decide (e.2 < x.gen)
      | none => false
    let kept := s.net.packets.filter (fun q => !due q)
    let again := (s.net.packets.filter due).map (fun q => { q with escaped := none, esc := true, xo := false, ts := x.act, ts0 := x.act, xo0 := false })
    (x.st ≠ .stable → exec (.escapeResend slice plane) s = .next s) ∧
    (x.st = .stable → exec (.escapeResend slice plane) s = .next { s with net := { s.net with packets := kept ++ again } })) ∧
  (∀ (plane : Nat) (table : List (Nat × List (Nat × BitVec 4))) (s : State),
    let x := s.planeAt plane
    let becomes (i : Instr) (y : Plane) : Prop := exec i s = .next (s.setPlane plane y) ∧ (s.setPlane plane y).planeAt plane = y
    let waits (i : Instr) : Prop := exec i s = .next s
    let old (q : Packet) : Prop := q ∈ s.net.packets ∧ ((q.plane = plane ∧ q.escaped = none ∧ q.ts = x.act) ∨
      (q.sent = true ∧ q.ts0 = x.act ∧ ∃ l, q.link = some l ∧ l / 8 / 1296 / 3 = plane))
    let was := turnsOf (s.activeTable plane)
    let new := turnsOf table
    let follows : Prop := ((∀ d ∈ new, d ∈ was) ∨ ∀ d ∈ was, d ∈ new) ∧ ∃ rank : Nat → Nat, ∀ d ∈ was ++ new, rank d.1 < rank d.2
    ((x.st ≠ .stable ∨ ¬follows) → waits (.tableChangeStart plane table)) ∧
    (x.st = .stable → follows → becomes (.tableChangeStart plane table) (if x.act then { x with st := .loading, flipped := [], table0 := table }
      else { x with st := .loading, flipped := [], table1 := table })) ∧
    (x.st ≠ .loading → waits (.tableSwitching plane)) ∧ (x.st = .loading → becomes (.tableSwitching plane) { x with st := .switching }) ∧
    (x.st ≠ .switching → waits (.tableDraining plane)) ∧ (x.st = .switching → becomes (.tableDraining plane) { x with st := .draining }) ∧
    ((x.st ≠ .draining ∨ ∃ q, old q) → waits (.tableStable plane)) ∧
    (x.st = .draining → (∀ q, ¬old q) → becomes (.tableStable plane) (if x.act then { x with st := .stable, act := false, gen := x.gen + 1, flipped := [], table1 := [] }
      else { x with st := .stable, act := true, gen := x.gen + 1, flipped := [], table0 := [] })))

/-! ### The host's registers, resets of a function, peers -/

/-- The host's registers (R438-R446), resets (R449, R456) and peers (R436). Posted entries and their events follow logs 60 and 64; what answers before READY follows log 68, the table of MSI-X log 98, the unit a peer
names and what holds its request log 70. -/
def Obligations.HostRegistersAndResets : Prop :=
  (∀ (reg : Reg) (x : Word64) (s : State),
    let i : Instr := .registerWrite reg x
    let ignored : Prop := exec i s = .next s
    let mine (n : Nat) : Prop := s.boot.phase = .ready ∧ n < 128 ∧ (s.viAt n).en = true
    let device (n : Nat) : Prop := s.boot.phase = .ready ∧ n < 128
    let takes (n : Nat) (v : Vi) : Prop := exec i s = .next (s.setVi n v)
    let wide : BitVec 52 := x.extractLsb' 12 52
    ((reg = .bootStat ∨ ∃ n, reg = .domStat n ∨ reg = .netCtl n ∨ reg = .netStat n ∨ reg = .rotStat n ∨ reg = .verAgree n) → ignored) ∧
    (∀ n, (reg = .ctxRoot n ∨ reg = .saveBase n ∨ reg = .saveLen n ∨ reg = .wdog n ∨ reg = .sqBase n ∨ reg = .cqBase n ∨ reg = .eqBase n ∨ reg = .sqPtr n ∨
      reg = .cqPtr n ∨ reg = .eqPtr n ∨ reg = .verOffer n ∨ ∃ w, reg = .msix n w) → ¬mine n → ignored) ∧
    (∀ n, (reg = .viCfg n ∨ reg = .viPart n ∨ reg = .domCtl n ∨ ∃ b, reg = .domSet n b ∨ reg = .domList n b) → ¬device n → ignored) ∧
    (∀ n, mine n →
      (reg = .ctxRoot n → (∀ l ∈ s.launches, l.2.running = true → l.2.vi ≠ n) → takes n { s.viAt n with ctxRoot := x.extractLsb' 12 36 }) ∧
      (reg = .ctxRoot n → (∃ l ∈ s.launches, l.2.running = true ∧ l.2.vi = n) → ignored) ∧
      (reg = .saveBase n → takes n { s.viAt n with saveBase := wide, areaFresh := false }) ∧
      (reg = .saveLen n → takes n { s.viAt n with saveLen := wide, areaFresh := false }) ∧
      (reg = .sqBase n → takes n { s.viAt n with sqBase := wide }) ∧ (reg = .cqBase n → takes n { s.viAt n with cqBase := wide }) ∧
      (reg = .eqBase n → takes n { s.viAt n with eqBase := wide }) ∧
      (∀ w, reg = .msix n w → ∃ m, takes n { s.viAt n with msix := m } ∧
        ∀ k, (s.setVi n { s.viAt n with msix := m }).readReg (.msix n k) = if k = w ∧ w < 4 then x else s.readReg (.msix n k)) ∧
      (reg = .wdog n → takes n { s.viAt n with
        ilog := if (x.extractLsb' 0 5).toNat < 20 then 20 else x.extractLsb' 0 5, ien := x.getLsbD 5, hlim := x.extractLsb' 32 32 })) ∧
    (∀ n, device n →
      let d := (s.viAt n).dom
      let set (b : Bool) (e : DomSet) : Vi := { s.viAt n with dom := if b then { d with set1 := e } else { d with set0 := e } }
      let was (b : Bool) : DomSet := if b then d.set1 else d.set0
      (reg = .viPart n → (s.viAt n).en = false → takes n { s.viAt n with nclus := x.extractLsb' 0 14, partLaddr := x.extractLsb' 16 48 }) ∧
      (∀ b, reg = .domSet n b → d.sel ≠ b → takes n (set b { was b with nslice := x.extractLsb' 0 11, hmask := x.extractLsb' 16 14 })) ∧
      (∀ b, reg = .domList n b → d.sel ≠ b → takes n (set b { was b with laddr := x.extractLsb' 3 45 })) ∧
      ((reg = .viPart n ∧ (s.viAt n).en = true) ∨ (∃ b, (reg = .domSet n b ∨ reg = .domList n b) ∧ d.sel = b) → takes n (s.viAt n)) ∧
      (reg = .domCtl n → (x = 2 → exec i s = exec (.domWb n) s) ∧ (x = 4 → exec i s = exec (.domSwitch n) s) ∧
        (x = 8 → takes n { s.viAt n with dom := { d with err := false } }))) ∧
    (∀ f, (reg = .netArb f ∨ reg = .rotCtl f) → ¬(s.boot.phase = .ready ∧ f ∈ allFields) → ignored) ∧
    (∀ f, s.boot.phase = .ready → f ∈ allFields →
      (reg = .netArb f → exec i s = .next (s.setField f { s.fieldAt f with agemax := x.extractLsb' 0 6, wn := x.extractLsb' 6 4, we := x.extractLsb' 10 4, ws := x.extractLsb' 14 4, ww := x.extractLsb' 18 4, wl := x.extractLsb' 22 4, wx := x.extractLsb' 26 4 })) ∧
      (reg = .rotCtl f → exec i s = .next (s.setField f { s.fieldAt f with rotEn := x.getLsbD 0, intv := x.extractLsb' 1 6, delta := x.extractLsb' 7 5, maxp := x.extractLsb' 12 4 }))) ∧
    (∀ p, reg = .pfEqBase p → exec i s = .next (if s.boot.phase = .ready ∧ p < 4 then s.setPf p { s.pfAt p with base := wide } else s)) ∧
    (∀ n, (reg = .bootCtl → exec i s = exec (.rst x) s) ∧ (reg = .pfEqPtr n → exec i s = exec (.pfEqPtr n x) s) ∧ (reg = .viCfg n → exec i s = exec (.viEnable n x) s) ∧
      (reg = .verOffer n → exec i s = exec (.verOffer n x) s) ∧ (reg = .sqPtr n → exec i s = exec (.sqPtr n x) s) ∧
      (reg = .cqPtr n → exec i s = exec (.cqPtr n x) s) ∧ (reg = .eqPtr n → exec i s = exec (.eqPtr n x) s))) ∧
  (∀ (vi : Nat) (x : Word64) (s : State),
    let v := s.viAt vi
    let mine : Prop := s.boot.phase = .ready ∧ vi < 128 ∧ v.en = true
    let most := min (x.extractLsb' 0 16).toNat 3
    let common : Prop := max (x.extractLsb' 16 16).toNat 1 ≤ most
    let moved (r : Ring) : Ring := { r with logn := x.extractLsb' 0 4, hptr := x.extractLsb' 16 16 }
    (¬mine → exec (.verOffer vi x) s = .next s ∧ exec (.sqPtr vi x) s = .next s ∧ exec (.cqPtr vi x) s = .next s ∧ exec (.eqPtr vi x) s = .next s) ∧
    (mine → ∃ t, exec (.verOffer vi x) s = .next t ∧ OnlyRings s t ∧ (t.viAt vi).maxv = x.extractLsb' 0 16 ∧ (t.viAt vi).minv = x.extractLsb' 16 16 ∧
      (common → (t.viAt vi).agreed.toNat = most ∧ (t.viAt vi).ok = true ∧ (t.viAt vi).fail = false) ∧
      (¬common → (t.viAt vi).agreed = v.agreed ∧ (t.viAt vi).ok = false ∧ (t.viAt vi).fail = true ∧ (t.viAt vi).sq = v.sq ∧ t.hostMem = s.hostMem)) ∧
    (mine → ∃ t, exec (.sqPtr vi x) s = .next t ∧ OnlyRings s t ∧ (t.viAt vi).sq.logn = x.extractLsb' 0 4 ∧ (t.viAt vi).sq.hptr = x.extractLsb' 16 16 ∧
      (((s.setVi vi { v with sq := moved v.sq }).viAt vi).hasCmd = false → t = s.setVi vi { v with sq := moved v.sq })) ∧
    (mine → v.cqHeld = [] → v.eqHeld = [] → exec (.cqPtr vi x) s = .next (s.setVi vi { v with cq := moved v.cq }) ∧
      exec (.eqPtr vi x) s = .next (s.setVi vi { v with eq := moved v.eq })) ∧
    (∀ c, mine → v.cqHeld = [c] → v.eqHeld = [] → ∃ t, exec (.cqPtr vi x) s = .next t ∧ OnlyRings s t ∧
      CompletionPosted (s.setVi vi { v with cq := moved v.cq, cqHeld := [] }) t vi c.tag c.status.toNat c.detail.toNat) ∧
    (∀ r, mine → v.cqHeld = [] → v.eqHeld = [r] → ∃ t, exec (.eqPtr vi x) s = .next t ∧ OnlyRings s t ∧
      EventPosted (s.setVi vi { v with eq := moved v.eq, eqHeld := [] }) t vi r)) ∧
  (∀ (pf : Nat) (x : Word64) (r : FaultRec) (s : State),
    let p := s.pfAt pf
    let y : Pf := { p with ring := { p.ring with logn := x.extractLsb' 0 4, hptr := x.extractLsb' 16 16 }, lost := if x.extractLsb' 0 4 = p.ring.logn then p.lost else 0 }
    let size := 2 ^ p.ring.logn.toNat
    let on : Prop := 4 ≤ p.ring.logn.toNat ∧ p.ring.logn.toNat ≤ 12
    let room : Prop := (p.ring.dptr.toNat + 1) % size ≠ p.ring.hptr.toNat % size
    let base := 4096 * p.base.toNat + 128 * (p.ring.dptr.toNat % size)
    let t := s.postPf pf r
    (¬(s.boot.phase = .ready ∧ pf < 4) → exec (.pfEqPtr pf x) s = .next s) ∧
    (s.boot.phase = .ready → pf < 4 → (p.held = [] → exec (.pfEqPtr pf x) s = .next (s.setPf pf y)) ∧
      (∀ e, p.held = [e] → exec (.pfEqPtr pf x) s = .next (((s.setPf pf y).setPf pf { y with held := [] }).postPf pf e))) ∧
    (on → room → p.held = [] → t.pfAt pf = { p with ring := { p.ring with dptr := BitVec.ofNat 16 ((p.ring.dptr.toNat + 1) % size) }, msi := p.msi + 1 } ∧
      ∀ a, memGet t.hostMem a = if base ≤ a ∧ a < base + 128 then (recordBits r).extractLsb' (8 * (a - base)) 8 else memGet s.hostMem a) ∧
    (¬(on ∧ room ∧ p.held = []) → t.hostMem = s.hostMem ∧
      ((on ∨ p.held.length < 16) → t.pfAt pf = { p with held := p.held ++ [r] }) ∧
      (¬on → 16 ≤ p.held.length → t.pfAt pf = { p with held := p.held.drop 1 ++ [r], lost := if p.lost = 0xFFFF then 0xFFFF else p.lost + 1 }))) ∧
  (∀ (vi : Nat) (x : Word64) (s : State),
    let v := s.viAt vi
    let w : Vi := { v with ceil := x.extractLsb' 1 2, wbw := x.extractLsb' 3 8, cquota := if v.en then v.cquota else x.extractLsb' 16 16, gquota := if v.en then v.gquota else x.extractLsb' 32 16, pquota := if v.en then v.pquota else x.extractLsb' 48 16 }
    let legal (l : List Nat) : Prop := l.length = v.nclus.toNat ∧ ∀ i c, l[i]? = some c → c ∈ s.boot.clusters ∧
      (s.handle 2 c).toNat = memRead s.hostMem (65536 * v.partLaddr.toNat + 8 * i) 8 ∧ ∀ e ∈ s.vis, e.1 ≠ vi → e.2.en = true → c ∉ e.2.part
    let rises : Prop := v.en = false ∧ x.getLsbD 0 = true
    (¬(s.boot.phase = .ready ∧ vi < 128) → exec (.viEnable vi x) s = .next s) ∧
    (s.boot.phase = .ready → vi < 128 →
      (x.getLsbD 0 = v.en → exec (.viEnable vi x) s = .next (s.setVi vi w)) ∧
      (v.en = true → x.getLsbD 0 = false → ∃ t, exec (.viEnable vi x) s = .next t ∧ t.viAt vi = { w with en := false, ended := false, sites := (t.viAt vi).sites } ∧ t.boot.bgen = s.boot.bgen + 1 ∧
        (∀ l, vi ∉ (t.dirAt l).pins) ∧ t.boot.clusters = s.boot.clusters ∧ SameMemory s t ∧ t.copses = s.copses ∧
        ∀ j, j ≠ vi → t.viAt j = { s.viAt j with sites := (t.viAt j).sites }) ∧
      (rises → (∀ c ∈ s.boot.clusters, ∀ d ∈ s.boot.clusters, s.handle 2 c = s.handle 2 d → c = d) →
        ((∀ l, ¬legal l) → exec (.viEnable vi x) s = .next (s.setVi vi w)) ∧
        ∀ l, legal l → ∃ t, exec (.viEnable vi x) s = .next t ∧ t.viAt vi = { w with en := true, part := l, sites := (t.viAt vi).sites } ∧ t.boot.bgen = s.boot.bgen + 1 ∧
          (∀ c ∈ l, c ∈ (tget ([], []) (t.viAt vi).sites t.boot.bgen.toNat).1) ∧ t.boot.clusters = s.boot.clusters ∧ SameMemory s t ∧
          t.copses = s.copses ∧ ∀ j, j ≠ vi → t.viAt j = { s.viAt j with sites := (t.viAt j).sites }))) ∧
  (∀ (vi port : Nat) (s : State),
    let v := s.viAt vi
    exec (.hostPortReset port) s = .next s ∧
    ((s.copses.map Prod.fst).Nodup → v.dom.wb = false → v.dom.sw = false → ∃ t, exec (.functionLevelReset vi) s = .next t ∧
      t.viAt vi = { Vi.init with en := v.en, ceil := v.ceil, wbw := v.wbw, cquota := v.cquota, gquota := v.gquota, pquota := v.pquota, nclus := v.nclus, partLaddr := v.partLaddr, part := v.part, dom := v.dom, sites := v.sites, nextReq := v.nextReq } ∧
      (∀ j, j ≠ vi → t.viAt j = s.viAt j) ∧
      (∀ c, (s.copseAt c).vi = vi → (s.copseAt c).launch ≠ 0 → (s.copseAt c).life = .resident ∨ (s.copseAt c).life = .saved →
        (t.copseAt c).life = .ended ∧ ∀ j ∈ s.standsOf c, (t.standAt j).life = .absent) ∧
      (∀ c, (s.copseAt c).vi ≠ vi → (t.copseAt c).life = (s.copseAt c).life) ∧
      (∀ g, (t.groveAt g).live = true → (t.groveAt g).vi ≠ vi) ∧ (∀ l, (s.launchAt l).vi = vi → (t.launchAt l).running = false) ∧
      (∀ l ∈ t.domainLines vi, (t.dirAt l).dirty = false ∧ (t.dirAt l).replicas = []) ∧ ∀ l, vi ∉ (t.dirAt l).pins)) ∧
  (∀ (port unit : Nat) (s : State),
    let line := unit / 2
    let kept (t : State) : Prop := t.stands = s.stands ∧ t.copses = s.copses ∧ t.cores = s.cores ∧ t.vis = s.vis ∧ t.hostMem = s.hostMem ∧ t.peerQ = s.peerQ
    let plain : Prop := isWindow (128 * line) = false ∨ (s.dirAt line).cached = false ∧ s.posted = []
    let open_ : Prop := port < 16 ∧ s.boot.phase = .ready
    (¬open_ → ∀ r, peerPort r = port → exec (.peerRequest r) s = .next s) ∧
    (open_ → s.stagedLine line = true → ∀ r, peerPort r = port → peerUnit r = unit → ∃ t, exec (.peerRequest r) s = .next t ∧
      t.peerQ = s.peerQ ++ [(s.nextId, r)] ∧ t.answers = s.answers ∧ t.stands = s.stands ∧ t.copses = s.copses ∧ t.cores = s.cores ∧ SameMemory s t) ∧
    (∀ name r, s.peerQ.find? (fun e => e.1 == name) = some (name, r) → peerPort r = port → peerUnit r = unit → open_ →
      (s.stagedLine line = true → s.servePeer name = s) ∧
      (s.stagedLine line = false → exec (.peerRequest r) { s with peerQ := s.peerQ.filter (fun e => e.1 != name) } = .next (s.servePeer name))) ∧
    (open_ → s.stagedLine line = false →
      exec (.peerRequest (.read port unit)) s = .next { s with answers := s.answers ++ [.peer port ((List.range 64).map (fun i => s.homeGet (64 * unit + i)))] } ∧
      (∀ data, plain → ∃ t, exec (.peerRequest (.write port unit data)) s = .next t ∧ kept t ∧ t.answers = s.answers ∧ (t.dirAt line).replicas = (s.dirAt line).replicas ∧
        ∀ pa, t.homeGet pa = if pa / 64 = unit then (data[pa % 64]?).getD 0 else s.homeGet pa) ∧
      ∀ (op : BitVec 3) (ty : BitVec 5) (elem : Nat) (expect x : Word64), plain → tyBits ty.toNat = 32 ∨ tyBits ty.toNat = 64 →
        let n := tyBits ty.toNat / 8
        let pa := 64 * unit + elem * n % 64
        let old := s.homeRead pa n
        let swaps (r : PeerReq) (new : Nat) : Prop := ∃ t, exec (.peerRequest r) s = .next t ∧ kept t ∧ t.answers = s.answers ++ [.peer port (bytesOf old n)] ∧
          ∀ a, t.homeGet a = if pa ≤ a ∧ a < pa + n then BitVec.ofNat 8 (new / 256 ^ (a - pa)) else s.homeGet a
        swaps (.atomic port unit op ty elem x) (atomOp op.toNat ty.toNat old (x.toNat % 2 ^ (8 * n))) ∧
        swaps (.cas port unit ty elem expect x) (if old = expect.toNat % 2 ^ (8 * n) then x.toNat % 2 ^ (8 * n) else old))) ∧
  (∀ (a : Access) (x : Word64) (r : List Turn) (s : State),
    let t : State := { s with script := r }
    (s.script = .write a x :: r → step s = match a.reg with
      | some g => exec (.registerWrite g x) t
      | none => .next t) ∧
    (s.script = .read a :: r → step s = .next { t with answers := s.answers ++ [.register a (match a.reg with
      | some g => t.readReg g
      | none => 0)] })) ∧
  (∀ (pf p n f port vf o : Nat), pf < 4 → p < 4 → n < 128 → f ∈ allFields → port < 4 → 1 ≤ vf → vf ≤ 32 →
    let at_ (o : Nat) (g : Option Reg) : Prop := (Access.management pf o).reg = g
    let own (o : Nat) (g : Reg) : Prop := (Access.bar port vf o).reg = some g
    let v := 32 * port + vf - 1
    at_ 0 (some .bootStat) ∧ at_ 8 (some .bootCtl) ∧ at_ (0x100 + 0x20 * p) (some (.pfEqBase p)) ∧ at_ (0x108 + 0x20 * p) (some (.pfEqPtr p)) ∧
    at_ (0x10000 + 0x20 * n) (some (.viCfg n)) ∧ at_ (0x10008 + 0x20 * n) (some (.viPart n)) ∧
    at_ (0x20000 + 0x40 * n) (some (.domCtl n)) ∧ at_ (0x20008 + 0x40 * n) (some (.domSet n false)) ∧ at_ (0x20010 + 0x40 * n) (some (.domSet n true)) ∧
    at_ (0x20018 + 0x40 * n) (some (.domList n false)) ∧ at_ (0x20020 + 0x40 * n) (some (.domList n true)) ∧ at_ (0x20028 + 0x40 * n) (some (.domStat n)) ∧
    at_ (0x40000 + 0x40 * f) (some (.netCtl f)) ∧ at_ (0x40008 + 0x40 * f) (some (.netArb f)) ∧ at_ (0x40010 + 0x40 * f) (some (.netStat f)) ∧
    at_ (0x40018 + 0x40 * f) (some (.rotCtl f)) ∧ at_ (0x40020 + 0x40 * f) (some (.rotStat f)) ∧
    (0x28 ≤ o → o < 0x40 → at_ (0x40000 + 0x40 * f + o) none) ∧
    own 0 (.verOffer v) ∧ own 8 (.verAgree v) ∧ own 0x10 (.ctxRoot v) ∧ own 0x18 (.saveBase v) ∧ own 0x20 (.wdog v) ∧ own 0x28 (.saveLen v) ∧
    own 0x100 (.sqBase v) ∧ own 0x108 (.sqPtr v) ∧ own 0x110 (.cqBase v) ∧ own 0x118 (.cqPtr v) ∧ own 0x120 (.eqBase v) ∧ own 0x128 (.eqPtr v) ∧
    (o < 4 → own (0x1000 + 8 * o) (.msix v o)))

/-! ### Bring-up, attestation, reset, and what every step keeps -/

/-- Bring-up (R454-R458), images (R450) and SPDM (R451). How maintenance code comes to a core is the model's choice (log 91), what a candidate meets without power log 68, and
which detours keep the turn rules log 92. What SPDM answers beyond the measurement blocks follows log 69. -/
def Obligations.BringUpAndAttestation : Prop :=
  (∀ (s : State) (x : Word64),
    exec .coldReset s = .next { State.reset with script := s.script, free := s.free, hostMem := s.hostMem, power := ⟨true, 0, s.power.status, s.power.last⟩ } ∧
    exec (.rst x) s = (if x.getLsbD 0 = true ∧ s.power.on = true then exec .coldReset s else .next s) ∧
    s.readReg .bootStat = s.boot.bgen ++ (0 : BitVec 3) ++ s.boot.cache ++ s.boot.sver ++ (0 : BitVec 1) ++ BitVec.ofBool s.boot.trans ++ BitVec.ofBool s.boot.sealed ++
      BitVec.ofBool s.boot.maint ++ s.boot.err ++ (match s.boot.phase with
        | .rom => (0 : BitVec 4) | .sigchk => 1 | .ftest => 2 | .hbm => 3 | .net => 4 | .seal => 5 | .enum => 6 | .ready => 7 | .failed => 0xF)) ∧
  (∀ (cand : Option (ImageKind × Image)) (s : State),
    let good (i : Image) : Prop := i.rsaOk = true ∧ i.slhOk = true ∧ i.rsaKey = Config.fusedRsa ∧ i.slhKey = Config.fusedSlh ∧ Config.fusedVersion.toNat ≤ i.sver.toNat
    let fw : Option Image := match cand with | some (.firmware, i) => some i | _ => Config.firmwareImage
    let tr : Option Image := match cand with | some (.translator, i) => some i | _ => Config.translatorImage
    let bad (x : Option Image) : Prop := ∃ i, x = some i ∧ ¬good i
    let told (t : State) : Prop := ∃ r : FaultRec, r.cls = 0x0E ∧ r.cause = 0x10 ∧ t = s.postPfs r
    let ran (b : Boot) : Prop := ∃ t, exec (.sigchk cand) s = .next t ∧ t.boot = b ∧ t.vis = s.vis ∧ t.copses = s.copses ∧ t.stands = s.stands ∧
      (¬bad fw → ¬bad tr → t.pfs = s.pfs ∧ t.hostMem = s.hostMem)
    let start : Prop := s.boot.phase = .rom ∨ s.boot.phase = .sigchk
    ((s.power.on = false ∨ s.boot.phase = .failed ∨ ¬start ∧ cand = none) → exec (.sigchk cand) s = .next s) ∧
    (start → s.power.on = true →
      (∀ i, fw = some i → good i →
        (∀ j, tr = some j → good j → ran { s.boot with phase := .ftest, sver := i.sver, trans := true, meas2 := i.digest, meas3 := j.digest }) ∧
        ((∀ j, tr = some j → ¬good j) → ran { s.boot with phase := .ftest, sver := i.sver, trans := false, meas2 := i.digest, meas3 := 0 })) ∧
      ((∀ i, fw = some i → ¬good i) → ran { s.boot with phase := .failed, err := 1 })) ∧
    (∀ k i, ¬start → s.boot.phase ≠ .failed → s.power.on = true → cand = some (k, i) →
      (¬good i → ∃ t, exec (.sigchk cand) s = .next t ∧ told t) ∧
      (good i → k = .firmware → exec (.sigchk cand) s = .next { s with boot := { s.boot with sver := i.sver, meas2 := i.digest } }) ∧
      (good i → k = .translator → exec (.sigchk cand) s = .next { s with boot := { s.boot with trans := true, meas3 := i.digest } }))) ∧
  (∀ (s : State),
    let units (f : Nat) : List Nat := ((List.range 140).map (fun n => 140 * f + n)).filter Config.clusterPasses
    let slices : List Nat := allFields.flatMap (fun f => ((List.range 16).map (fun n => 16 * f + n)).filter (fun n =>
      Config.slicePasses n && Config.routerPasses (routerAt f (n % 16))))
    let short : Prop := (∃ f ∈ allFields, (units f).length < 120) ∨ (allFields.map (fun f => (units f).length)).sum < 10240 ∨ slices.length < 1152
    let fails (i : Instr) (err : Byte) : Prop := exec i s = .next { s with boot := { s.boot with phase := .failed, err := err } }
    let waits (i : Instr) : Prop := exec i s = .next s
    allFields = (List.range 81).filter (fun f => f != 0 && f != 8 && f != 72 && f != 80) ∧
    (s.boot.phase ≠ .ftest → waits .ftest) ∧ (s.boot.phase = .ftest → short → fails .ftest 2) ∧
    (s.boot.phase = .ftest → ¬short → ∃ (t : State) (e : Nat → Nat), exec .ftest s = .next t ∧
      t.boot = { s.boot with phase := .hbm, clusters := allFields.flatMap (fun f => (units f).take (e f)), spares := allFields.flatMap (fun f => (units f).drop (e f)), slices := slices } ∧
      (allFields.map e).sum = 10240 ∧ (∀ f ∈ allFields, 120 ≤ e f ∧ e f ≤ (units f).length) ∧
      (∀ f ∈ allFields, ∀ g ∈ allFields, e f < (units f).length → e g ≤ e f + 1 ∧ (e g = e f + 1 → f < g)) ∧ t.stands = s.stands ∧ t.vis = s.vis ∧ SameMemory s t) ∧
    (s.boot.phase ≠ .hbm → waits .hbm) ∧
    (s.boot.phase = .hbm → ((∀ n ∈ hbmStacks, Config.stackTrains n = true) → exec .hbm s = .next { s with boot := { s.boot with phase := .net } }) ∧
      ((∃ n ∈ hbmStacks, Config.stackTrains n = false) → fails .hbm 3)) ∧ hbmStacks.length = 56 ∧ hbmStacks.Nodup ∧ (∀ n ∈ hbmStacks, n / 2 ∈ allFields) ∧
    (let hop (plane dest a b : Nat) : Prop := let o := (bootEntry plane a dest).toNat % 8
      1 ≤ o ∧ o ≤ 4 ∧ usable plane a o = true ∧ b = nextRouter a o
    let reaches : Prop := ∀ a b, a ∈ exposedRouters → b ∈ exposedRouters → ∃ plane path, plane < 2 ∧ path.length ≤ 1297 ∧ path.head? = some a ∧
      path.getLast? = some b ∧ List.IsChain (hop plane b) path
    (∀ r, r ∈ exposedRouters ↔ (∃ f ∈ allFields, ∃ k < 16, r = routerAt f k) ∧ Config.routerPasses r = true) ∧
    (s.boot.phase ≠ .net → waits .net) ∧ (s.boot.phase = .net → ¬reaches → fails .net 4) ∧
    (s.boot.phase = .net → reaches → ∃ t, exec .net s = .next t ∧ t.boot = { s.boot with phase := .seal } ∧ t.stands = s.stands ∧
      SameMemory s t ∧ ∀ plane router dest, plane < 2 → router < 1296 → dest < 1296 →
        let x := router % 36
        let y := router / 36
        let dx := dest % 36
        let dy := dest / 36
        let across := if x < dx then 2 else if dx < x then 4 else 0
        let along := if y < dy then 3 else if dy < y then 1 else 0
        let out := if plane = 0 then (if across = 0 then along else across) else (if along = 0 then across else along)
        let works : Prop := hasLink router out = true ∧ ∀ net < 3, linkTests (linkOf plane net router out) = true
        let entry := t.entryAt plane false router dest
        (t.planeAt plane).st = .stable ∧ (t.planeAt plane).act = false ∧ (absentRouter dest = true → entry = 6) ∧
        (absentRouter dest = false → (out = 0 → entry = 0) ∧ (out ≠ 0 → works → entry = BitVec.ofNat 4 out) ∧
          (out ≠ 0 → ¬works → entry = 6 ∨ entry = Config.detour plane router dest)))) ∧
    ((s.boot.phase ≠ .seal ∨ ∃ c ∈ s.copses, c.2.maint = true ∧ c.2.life = .resident) → waits .seal) ∧
    (s.boot.phase = .seal → (∀ c ∈ s.copses, c.2.maint = true → c.2.life ≠ .resident) → ∃ t, exec .seal s = .next t ∧
      t.boot = { s.boot with phase := .enum, maint := false, sealed := true, bgen := 1, gens := [], cache := BitVec.ofNat 13 (4 * s.boot.slices.length), meas4 := Config.mapDigest s.boot.clusters s.boot.slices } ∧
      (∀ c, (t.coreAt c).chans = [] ∧ (t.coreAt c).stopped = false ∧ (t.coreAt c).l1 = (s.coreAt c).l1) ∧ t.stands = s.stands ∧ t.vis = s.vis) ∧
    ((s.boot.phase ≠ .enum ∨ s.boot.ports = true) → waits .enum) ∧
    (s.boot.phase = .enum → s.boot.ports = false → ∃ t, exec .enum s = .next t ∧ t.boot = { s.boot with ports := true } ∧ (∀ n, n ≠ 0 → t.viAt n = Vi.init) ∧
      (let d := (t.viAt 0).dom
       d.sel = false ∧ d.set0.slices = s.boot.slices ∧ d.set0.laddr = 0 ∧ d.set0.nslice = BitVec.ofNat 11 s.boot.slices.length ∧
        d.set0.hmask = BitVec.ofNat 14 (hmaskFor s.boot.slices.length) ∧ t.viAt 0 = { Vi.init with dom := d, sites := (t.viAt 0).sites }) ∧ t.stands = s.stands ∧ t.cores = s.cores) ∧
    exec .ready s = .next (if s.boot.phase = .enum ∧ s.boot.ports = true then { s with boot := { s.boot with phase := .ready } } else s)) ∧
  (∀ (s : State) (core : Nat) (entry : Word64) (stands alloc : Nat) (code : List Byte),
    let t := s.startFirmware core entry stands alloc code
    let id := s.nextId
    let time : Prop := s.power.on = true ∧ s.boot.maint = true ∧ (s.boot.phase = .ftest ∨ s.boot.phase = .hbm ∨ s.boot.phase = .net)
    (∀ r, s.script = .firmware core entry stands alloc code :: r →
      step s = .next (({ s with script := r } : State).startFirmware core entry stands alloc code)) ∧
    (¬time → t = s) ∧
    (time → fieldOfCore core ∈ allFields → 1 ≤ stands → stands ≤ 16 → s.fits core stands 256 alloc = true →
      (let c := t.copseAt id
       c.life = .resident ∧ c.maint = true ∧ c.launch = 0 ∧ c.vi = 0 ∧ c.core = core ∧ c.nst = stands ∧ c.vregs = 256 ∧ c.uregs = 128 ∧ c.alloc = alloc) ∧
      id ∈ (t.coreAt core).order ∧ t.boot = s.boot ∧
      ∀ i, i < stands → t.standAt (16 * id + i) = { Stand.init with life := .live, copse := id, idx := i, pc := entry, a := allLanes })) ∧
  (∀ (pf n : Nat) (s : State),
    let answers (i : Instr) (req arg : Nat) (data : List (BitVec 384)) : Prop := exec i s = .next (if s.boot.phase = .rom ∨ 4 ≤ pf then s
      else { s with answers := s.answers ++ [.spdm pf req arg data] })
    let block (k : Nat) : BitVec 384 := if k = 1 then Config.romDigest else if k = 2 then s.boot.meas2 else if k = 3 then s.boot.meas3
      else if k = 4 then s.boot.meas4 else Config.fusedVersion.setWidth 384
    answers (.getVersion pf) 0 0 [0x13, Config.spdmBytes 0 0 pf] ∧ answers (.getCapabilities pf) 1 0 [Config.spdmBytes 1 0 pf] ∧
      answers (.negotiateAlgorithms pf) 2 0 [0x80, 0x02, Config.spdmBytes 2 0 pf] ∧ answers (.getDigests pf) 3 0 [1, Config.spdmBytes 3 0 pf] ∧
      answers (.getCertificate pf n) 4 n (if n = 0 then [Config.spdmBytes 4 0 pf] else []) ∧ answers (.challenge pf n) 5 n [Config.spdmBytes 5 n pf] ∧
      answers (.getMeasurements pf n) 6 n (if n = 0xFF then [block 1, block 2, block 3, block 4, block 5] else if 1 ≤ n ∧ n ≤ 5 then [block n] else []))

/-- Reset (R454) with the Reset columns of the registers. What the spec gives no reset value for (log 3, log 4) is not stated here. -/
def Obligations.ResetHoldsTheSpecValues : Prop :=
  let s := State.reset
  MemoryInv s ∧ s.boot.phase = .rom ∧ s.boot.maint = true ∧ s.readReg .bootStat = 0x1000 ∧ s.power.on = true ∧
    (∀ c, (s.copseAt c).life = .absent) ∧ (∀ k, (s.standAt k).life = .absent) ∧ (∀ l, (s.launchAt l).running = false) ∧ (∀ g, (s.groveAt g).live = false) ∧
    (∀ f, let x := s.fieldAt f
      x.agemax = 63 ∧ x.wn = 1 ∧ x.we = 1 ∧ x.ws = 1 ∧ x.ww = 1 ∧ x.wl = 1 ∧ x.wx = 1 ∧ x.dead = 0 ∧ x.reinj = 0 ∧ x.escn = 0 ∧ x.rotEn = true ∧
        x.intv = 0x0F ∧ x.delta = 8 ∧ x.maxp = 4 ∧ x.fcap = 2 ∧ x.tdiv = 1) ∧
    (∀ c, (s.clusterAt c).rate = 1) ∧
    (∀ n, let v := s.viAt n
      v.en = false ∧ v.ceil = 1 ∧ v.wbw = 1 ∧ v.cquota = 0 ∧ v.gquota = 0 ∧ v.pquota = 0 ∧ v.nclus = 0 ∧ v.partLaddr = 0 ∧ v.ilog = 26 ∧ v.ien = true ∧
        v.hlim = 0x05F5E100 ∧ v.maxv = 0 ∧ v.minv = 0 ∧ v.agreed = 0 ∧ v.ok = false ∧ v.fail = false ∧ v.sq = ⟨0, 0, 0⟩ ∧ v.cq = ⟨0, 0, 0⟩ ∧
        v.eq = ⟨0, 0, 0⟩ ∧ v.dom.sel = false ∧ v.dom.wb = false ∧ v.dom.sw = false ∧ v.dom.err = false ∧ v.dom.set0.nslice = 0 ∧ v.dom.set0.hmask = 0 ∧
        v.dom.set0.laddr = 0 ∧ v.dom.wblines = 0) ∧
    ∀ p, (s.planeAt p).st = .stable ∧ (s.planeAt p).act = false

/-- The memory invariant is kept by every instruction and every step: a clean home copy is as its frame (R280, R283) and windows are never cached and alone have posted writes (R437);
the canonical form is the model's own. -/
def Obligations.EveryStepKeepsTheMemoryInvariant : Prop :=
  (∀ (i : Instr) (s t : State), MemoryInv s → exec i s = .next t → MemoryInv t) ∧ ∀ (s t : State), MemoryInv s → step s = .next t → MemoryInv t
end

