-- ==== Sys2Proof/Laws/Tables.lean ====
section
/-! SUPPORT. Laws of tables, of byte memory and its canonical form, and of masks. -/

namespace Sys2Proof.Machine

/-! ### Tables -/

@[simp] theorem tfind_tset_self {α : Type} (k : Nat) (a : α) (t : Tbl α) : tfind k (tset k a t) = some a := by
  induction t with
  | nil => simp [tset, tfind]
  | cons h r ih =>
    obtain ⟨j, b⟩ := h
    simp only [tset]
    split
    · simp [tfind]
    · split
      · simp [tfind]
      · simp [tfind, *]

theorem tfind_tset_ne {α : Type} {j k : Nat} (h : j ≠ k) (a : α) (t : Tbl α) : tfind j (tset k a t) = tfind j t := by
  induction t with
  | nil => simp [tset, tfind, Ne.symm h]
  | cons x r ih =>
    obtain ⟨i, b⟩ := x
    simp only [tset]
    split
    · next e => subst e; simp [tfind, Ne.symm h]
    · split
      · simp [tfind, Ne.symm h]
      · simp [tfind, ih]

theorem tfind_tset {α : Type} (j k : Nat) (a : α) (t : Tbl α) : tfind j (tset k a t) = if j = k then some a else tfind j t := by
  split
  · next h => subst h; exact tfind_tset_self _ _ _
  · next h => exact tfind_tset_ne h _ _

@[simp] theorem tget_tset_self {α : Type} (d : α) (k : Nat) (a : α) (t : Tbl α) : tget d (tset k a t) k = a := by simp [tget]

theorem tget_tset_ne {α : Type} (d : α) {j k : Nat} (h : j ≠ k) (a : α) (t : Tbl α) : tget d (tset k a t) j = tget d t j := by
  simp [tget, tfind_tset_ne h]

theorem tget_tset {α : Type} (d : α) (j k : Nat) (a : α) (t : Tbl α) : tget d (tset k a t) j = if j = k then a else tget d t j := by
  simp only [tget, tfind_tset]; split <;> rfl

theorem tfind_tdel {α : Type} (j k : Nat) (t : Tbl α) : tfind j (tdel k t) = if j = k then none else tfind j t := by
  induction t with
  | nil => simp [tdel, tfind]
  | cons x r ih =>
    obtain ⟨i, b⟩ := x
    simp only [tdel]
    split
    · next e => rw [ih]; by_cases h : j = k <;> simp [tfind, h, e]; intro h2; omega
    · next e =>
      simp only [tfind, ih]
      by_cases h : j = k
      · subst h; simp [e]
      · simp [h]

@[simp] theorem tputs_nil {α : Type} (t : Tbl α) : tputs [] t = t := rfl
@[simp] theorem tputs_cons {α : Type} (w : Nat × α) (ws : List (Nat × α)) (t : Tbl α) : tputs (w :: ws) t = tputs ws (tset w.1 w.2 t) := rfl
theorem tputs_append {α : Type} (a b : List (Nat × α)) (t : Tbl α) : tputs (a ++ b) t = tputs b (tputs a t) := by
  simp [tputs, List.foldl_append]

/-- A key that no write names keeps its entry. -/
theorem tfind_tputs_other {α : Type} (j : Nat) (ws : List (Nat × α)) (t : Tbl α) (h : ∀ w ∈ ws, w.1 ≠ j) :
    tfind j (tputs ws t) = tfind j t := by
  induction ws generalizing t with
  | nil => rfl
  | cons w r ih =>
    rw [tputs_cons, ih _ (fun x hx => h x (List.mem_cons_of_mem _ hx)), tfind_tset_ne]
    exact fun e => h w List.mem_cons_self e.symm

/-- A key that one value is written to, and no other, holds that value. -/
theorem tfind_tputs_mem {α : Type} (j : Nat) (a : α) (ws : List (Nat × α)) (t : Tbl α) (h : (j, a) ∈ ws)
    (u : ∀ w ∈ ws, w.1 = j → w.2 = a) : tfind j (tputs ws t) = some a := by
  induction ws generalizing t with
  | nil => cases h
  | cons w r ih =>
    rw [tputs_cons]
    by_cases hr : (j, a) ∈ r
    · exact ih _ hr (fun x hx => u x (List.mem_cons_of_mem _ hx))
    · obtain rfl | h := List.mem_cons.mp h
      · rw [tfind_tputs_other _ _ _ (fun x hx e => hr ?_), tfind_tset_self]
        have := u x (List.mem_cons_of_mem _ hx) e
        obtain ⟨x1, x2⟩ := x
        simp_all
      · exact absurd h hr

/-! ### Byte memory -/

theorem memGet_memSet (a b : Nat) (x : Byte) (m : Mem) : memGet (memSet a x m) b = if b = a then x else memGet m b := by
  unfold memGet memSet
  split
  · next h => subst h; simp only [tget, tfind_tdel]; split <;> rfl
  · exact tget_tset ..

/-- Writing n bytes at a leaves every other address as it was. -/
theorem memGet_memWrite_other (n : Nat) : ∀ (m : Mem) (a x b : Nat), (b < a ∨ a + n ≤ b) → memGet (memWrite m a x n) b = memGet m b := by
  induction n with
  | zero => intros; rfl
  | succ n ih =>
    intro m a x b h
    rw [memWrite, ih _ _ _ _ (by omega), memGet_memSet, if_neg (by omega)]

/-- Byte i of n bytes written at a reads as byte i of the number. -/
theorem memGet_memWrite (n : Nat) : ∀ (m : Mem) (a x i : Nat), i < n →
    memGet (memWrite m a x n) (a + i) = BitVec.ofNat 8 (x / 256 ^ i) := by
  induction n with
  | zero => intros; omega
  | succ n ih =>
    intro m a x i h
    rw [memWrite]
    cases i with
    | zero => rw [memGet_memWrite_other _ _ _ _ _ (by omega), memGet_memSet]; simp
    | succ i =>
      have := ih (memSet a (BitVec.ofNat 8 x) m) (a + 1) (x / 256) i (by omega)
      rw [show a + (i + 1) = a + 1 + i by omega, this, Nat.div_div_eq_div_mul, Nat.pow_succ, Nat.mul_comm 256]

/-- What was written reads back (R27, R308). -/
theorem memRead_memWrite (n : Nat) : ∀ (m : Mem) (a x : Nat), memRead (memWrite m a x n) a n = x % 256 ^ n := by
  have key : ∀ (k : Nat) (m : Mem) (a x j : Nat), (∀ i, i < k → memGet m (a + j + i) = BitVec.ofNat 8 (x / 256 ^ (j + i))) →
      memRead m (a + j) k = x / 256 ^ j % 256 ^ k := by
    intro k
    induction k with
    | zero => intro m a x j _; simp [memRead, Nat.mod_one]
    | succ k ih =>
      intro m a x j h
      have h0 := h 0 (by omega)
      have h1 := ih m a x (j + 1) (fun i hi => by
        have := h (i + 1) (by omega)
        rw [show a + (j + 1) + i = a + j + (i + 1) by omega, show j + 1 + i = j + (i + 1) by omega]; exact this)
      rw [memRead, show a + j + 1 = a + (j + 1) by omega, h1]
      simp only [Nat.add_zero] at h0
      rw [h0]
      simp only [BitVec.toNat_ofNat, show 2 ^ 8 = 256 by rfl]
      rw [Nat.pow_succ 256 j, ← Nat.div_div_eq_div_mul, Nat.pow_succ 256 k, Nat.mul_comm (256 ^ k) 256, Nat.mod_mul]
  intro m a x
  have := key n (memWrite m a x n) a x 0 (fun i hi => by simpa using memGet_memWrite n m a x i hi)
  simpa using this

theorem memRead_congr (n : Nat) : ∀ (m m' : Mem) (a : Nat), (∀ i, i < n → memGet m (a + i) = memGet m' (a + i)) →
    memRead m a n = memRead m' a n := by
  induction n with
  | zero => intros; rfl
  | succ n ih =>
    intro m m' a h
    have h0 := h 0 (by omega)
    simp only [Nat.add_zero] at h0
    rw [memRead, memRead, h0, ih m m' (a + 1) (fun i hi => by
      have := h (i + 1) (by omega)
      rw [show a + 1 + i = a + (i + 1) by omega]; exact this)]

/-- A read apart from the bytes written gives what it gave. -/
theorem memRead_memWrite_other (n k : Nat) (m : Mem) (a x b : Nat) (h : b + k ≤ a ∨ a + n ≤ b) :
    memRead (memWrite m a x n) b k = memRead m b k :=
  memRead_congr _ _ _ _ (fun i hi => memGet_memWrite_other _ _ _ _ _ (by omega))

/-! ### The canonical form -/

theorem wfFrom_cons {lo a : Nat} {b : Byte} {r : Mem} :
    Memory.wfFrom lo ((a, b) :: r) = true ↔ lo ≤ a ∧ b ≠ 0 ∧ Memory.wfFrom (a + 1) r = true := by
  simp [Memory.wfFrom, and_assoc]

theorem wfFrom_le {lo lo' : Nat} (h : lo' ≤ lo) : ∀ {m : Mem}, Memory.wfFrom lo m = true → Memory.wfFrom lo' m = true := by
  intro m hm
  cases m with
  | nil => rfl
  | cons x r => obtain ⟨a, b⟩ := x; rw [wfFrom_cons] at *; exact ⟨by omega, hm.2⟩

theorem wfFrom_tset {lo k : Nat} {b : Byte} (hb : b ≠ 0) (hk : lo ≤ k) : ∀ {m : Mem}, Memory.wfFrom lo m = true →
    Memory.wfFrom lo (tset k b m) = true := by
  intro m
  induction m generalizing lo with
  | nil => intro _; exact wfFrom_cons.mpr ⟨hk, hb, rfl⟩
  | cons x r ih =>
    obtain ⟨a, c⟩ := x
    intro hm
    rw [wfFrom_cons] at hm
    simp only [tset]
    split
    · next e => subst e; exact wfFrom_cons.mpr ⟨hk, hb, hm.2.2⟩
    · split
      · next h => exact wfFrom_cons.mpr ⟨hk, hb, wfFrom_cons.mpr ⟨h, hm.2⟩⟩
      · exact wfFrom_cons.mpr ⟨hm.1, hm.2.1, ih (by omega) hm.2.2⟩

theorem wfFrom_tdel {lo k : Nat} : ∀ {m : Mem}, Memory.wfFrom lo m = true → Memory.wfFrom lo (tdel k m) = true := by
  intro m
  induction m generalizing lo with
  | nil => intro _; rfl
  | cons x r ih =>
    obtain ⟨a, c⟩ := x
    intro hm
    simp only [Memory.wfFrom, Bool.and_eq_true, decide_eq_true_eq] at hm
    simp only [tdel]
    split
    · exact wfFrom_le (by omega) (ih hm.2)
    · simp only [Memory.wfFrom, Bool.and_eq_true, decide_eq_true_eq]; exact ⟨hm.1, ih hm.2⟩

/-- Writing a byte keeps memory canonical. -/
theorem memSet_wf (a : Nat) (b : Byte) {m : Mem} (h : Memory.wf m = true) : Memory.wf (memSet a b m) = true := by
  unfold memSet Memory.wf at *
  split
  · exact wfFrom_tdel h
  · next hb => exact wfFrom_tset hb (Nat.zero_le _) h

/-- Writing bytes keeps memory canonical. -/
theorem memWrite_wf (n : Nat) : ∀ {m : Mem} (a x : Nat), Memory.wf m = true → Memory.wf (memWrite m a x n) = true := by
  induction n with
  | zero => intro m a x h; exact h
  | succ n ih => intro m a x h; exact ih _ _ (memSet_wf _ _ h)

/-- Writing a list of bytes keeps memory canonical. -/
theorem foldl_memSet_wf {β : Type} (f : β → Nat) (g : β → Byte) (bs : List β) : ∀ {m : Mem}, Memory.wf m = true →
    Memory.wf (bs.foldl (fun m b => memSet (f b) (g b) m) m) = true := by
  induction bs with
  | nil => intro m h; exact h
  | cons b r ih => intro m h; exact ih (memSet_wf _ _ h)

theorem wfFrom_filter (p : Host.Cell → Bool) : ∀ {lo : Nat} {m : Mem}, Memory.wfFrom lo m = true → Memory.wfFrom lo (m.filter p) = true := by
  intro lo m
  induction m generalizing lo with
  | nil => intro _; rfl
  | cons x r ih =>
    obtain ⟨a, c⟩ := x
    intro hm
    simp only [Memory.wfFrom, Bool.and_eq_true, decide_eq_true_eq] at hm
    rw [List.filter_cons]
    split
    · simp only [Memory.wfFrom, Bool.and_eq_true, decide_eq_true_eq]; exact ⟨hm.1, ih hm.2⟩
    · exact wfFrom_le (by omega) (ih hm.2)

/-- Replacing a block keeps memory canonical. -/
theorem memSetBlock_wf {m : Mem} (size n : Nat) (b : Mem) (h : Memory.wf m = true) : Memory.wf (memSetBlock m size n b) = true :=
  foldl_memSet_wf (fun c : Host.Cell => size * n + c.1) Prod.snd b (wfFrom_filter _ h)

/-- A listed byte of canonical memory is not below the bound. -/
theorem tfind_wfFrom_lt {m : Mem} : ∀ {lo k : Nat}, Memory.wfFrom lo m = true → k < lo → tfind k m = none := by
  induction m with
  | nil => intros; rfl
  | cons x r ih =>
    obtain ⟨a, b⟩ := x
    intro lo k hm hk
    simp only [Memory.wfFrom, Bool.and_eq_true, decide_eq_true_eq] at hm
    rw [tfind, if_neg (by omega), ih hm.2 (by omega)]

/-- Canonical memories that read alike are equal. -/
theorem wf_ext : ∀ {lo : Nat} {m m' : Mem}, Memory.wfFrom lo m = true → Memory.wfFrom lo m' = true →
    (∀ a, memGet m a = memGet m' a) → m = m' := by
  intro lo m
  induction m generalizing lo with
  | nil =>
    intro m' _ h' h
    cases m' with
    | nil => rfl
    | cons y r' =>
      obtain ⟨a, b⟩ := y
      have := h a
      simp [memGet, tget, tfind, Memory.wfFrom] at this h'
      exact absurd this.symm h'.1.2
  | cons x r ih =>
    obtain ⟨a, b⟩ := x
    intro m' hm h' h
    simp only [Memory.wfFrom, Bool.and_eq_true, decide_eq_true_eq, bne_iff_ne, ne_eq] at hm
    cases m' with
    | nil =>
      have := h a
      simp [memGet, tget, tfind] at this
      exact absurd this hm.1.2
    | cons y r' =>
      obtain ⟨a', b'⟩ := y
      simp only [Memory.wfFrom, Bool.and_eq_true, decide_eq_true_eq, bne_iff_ne, ne_eq] at h'
      have haa : a = a' := by
        rcases Nat.lt_trichotomy a a' with hlt | he | hgt
        · exfalso
          have h1 := h a
          simp only [memGet, tget, tfind, if_neg (Nat.ne_of_gt hlt), tfind_wfFrom_lt h'.2 (show a < a' + 1 by omega)] at h1
          simp at h1; exact hm.1.2 h1
        · exact he
        · exfalso
          have h1 := h a'
          simp only [memGet, tget, tfind, if_neg (Nat.ne_of_gt hgt), tfind_wfFrom_lt hm.2 (show a' < a + 1 by omega)] at h1
          simp at h1; exact h'.1.2 h1.symm
      subst haa
      have hb : b = b' := by simpa [memGet, tget, tfind] using h a
      subst hb
      rw [ih hm.2 h'.2 (fun k => ?_)]
      by_cases e : k = a
      · subst e; simp [memGet, tget, tfind_wfFrom_lt hm.2 (Nat.lt_succ_self _), tfind_wfFrom_lt h'.2 (Nat.lt_succ_self _)]
      · simpa [memGet, tget, tfind, Ne.symm e] using h k

/-! ### Masks -/

@[simp] theorem mem_lanes (m : Mask) (t : Nat) : t ∈ lanes m ↔ t < 128 ∧ m.getLsbD t = true := by
  simp [lanes, List.mem_filter]

@[simp] theorem lanes_zero : lanes 0 = [] := by
  rw [lanes, List.filter_eq_nil_iff]; simp

theorem getLsbD_laneBit (t i : Nat) (h : t < 128) : (laneBit t).getLsbD i = decide (i = t) := by
  simp only [laneBit, BitVec.getLsbD_ofNat, Nat.testBit_two_pow]
  by_cases e : i = t
  · subst e; simp [h]
  · simp [e, Ne.symm e]

theorem getLsbD_maskOf (ts : List Nat) (i : Nat) (h : ∀ t ∈ ts, t < 128) : (maskOf ts).getLsbD i = decide (i ∈ ts) := by
  have key : ∀ (ts : List Nat) (m : Mask), (∀ t ∈ ts, t < 128) →
      (ts.foldl (fun m t => m ||| laneBit t) m).getLsbD i = (m.getLsbD i || decide (i ∈ ts)) := by
    intro ts
    induction ts with
    | nil => intro m _; simp
    | cons t r ih =>
      intro m hr
      rw [List.foldl_cons, ih _ (fun x hx => hr x (List.mem_cons_of_mem _ hx)), BitVec.getLsbD_or,
        getLsbD_laneBit _ _ (hr t List.mem_cons_self)]
      by_cases e : i = t <;> simp [e]
  rw [maskOf, key ts 0 h]; simp

end Sys2Proof.Machine
end

