-- ==== Sys2Proof/Laws/State.lean ====
section
/-! SUPPORT. One lemma per field and per table for each update of the state by table: what it leaves and what it sets. -/

namespace Sys2Proof.Machine

variable (s : State) (k : Nat)

/-! ### setStand -/

@[simp] theorem setStand_script (x : Stand) : (s.setStand k x).script = s.script := rfl
@[simp] theorem setStand_cur (x : Stand) : (s.setStand k x).cur = s.cur := rfl
@[simp] theorem setStand_free (x : Stand) : (s.setStand k x).free = s.free := rfl
@[simp] theorem setStand_nextId (x : Stand) : (s.setStand k x).nextId = s.nextId := rfl
@[simp] theorem setStand_boot (x : Stand) : (s.setStand k x).boot = s.boot := rfl
@[simp] theorem setStand_power (x : Stand) : (s.setStand k x).power = s.power := rfl
@[simp] theorem setStand_pfs (x : Stand) : (s.setStand k x).pfs = s.pfs := rfl
@[simp] theorem setStand_vis (x : Stand) : (s.setStand k x).vis = s.vis := rfl
@[simp] theorem setStand_fields (x : Stand) : (s.setStand k x).fields = s.fields := rfl
@[simp] theorem setStand_clusters (x : Stand) : (s.setStand k x).clusters = s.clusters := rfl
@[simp] theorem setStand_cores (x : Stand) : (s.setStand k x).cores = s.cores := rfl
@[simp] theorem setStand_copses (x : Stand) : (s.setStand k x).copses = s.copses := rfl
@[simp] theorem setStand_launches (x : Stand) : (s.setStand k x).launches = s.launches := rfl
@[simp] theorem setStand_groves (x : Stand) : (s.setStand k x).groves = s.groves := rfl
@[simp] theorem setStand_groveQ (x : Stand) : (s.setStand k x).groveQ = s.groveQ := rfl
@[simp] theorem setStand_frames (x : Stand) : (s.setStand k x).frames = s.frames := rfl
@[simp] theorem setStand_dir (x : Stand) : (s.setStand k x).dir = s.dir := rfl
@[simp] theorem setStand_placement (x : Stand) : (s.setStand k x).placement = s.placement := rfl
@[simp] theorem setStand_order (x : Stand) : (s.setStand k x).order = s.order := rfl
@[simp] theorem setStand_near (x : Stand) : (s.setStand k x).near = s.near := rfl
@[simp] theorem setStand_retired (x : Stand) : (s.setStand k x).retired = s.retired := rfl
@[simp] theorem setStand_stale (x : Stand) : (s.setStand k x).stale = s.stale := rfl
@[simp] theorem setStand_past (x : Stand) : (s.setStand k x).past = s.past := rfl
@[simp] theorem setStand_hostMem (x : Stand) : (s.setStand k x).hostMem = s.hostMem := rfl
@[simp] theorem setStand_net (x : Stand) : (s.setStand k x).net = s.net := rfl
@[simp] theorem setStand_answers (x : Stand) : (s.setStand k x).answers = s.answers := rfl
@[simp] theorem setStand_posted (x : Stand) : (s.setStand k x).posted = s.posted := rfl
@[simp] theorem setStand_peerQ (x : Stand) : (s.setStand k x).peerQ = s.peerQ := rfl
@[simp] theorem setStand_stands (x : Stand) : (s.setStand k x).stands = tset k x s.stands := rfl
@[simp] theorem setStand_standAt (x : Stand) : (s.setStand k x).standAt k = x := tget_tset_self ..
theorem setStand_standAt_ne (x : Stand) {j : Nat} (h : j ≠ k) : (s.setStand k x).standAt j = s.standAt j := tget_tset_ne _ h ..
theorem setStand_standAt_at (x : Stand) (j : Nat) : (s.setStand k x).standAt j = if j = k then x else s.standAt j := tget_tset ..
@[simp] theorem setStand_copseAt (x : Stand) (j : Nat) : (s.setStand k x).copseAt j = s.copseAt j := rfl
@[simp] theorem setStand_coreAt (x : Stand) (j : Nat) : (s.setStand k x).coreAt j = s.coreAt j := rfl
@[simp] theorem setStand_clusterAt (x : Stand) (j : Nat) : (s.setStand k x).clusterAt j = s.clusterAt j := rfl
@[simp] theorem setStand_fieldAt (x : Stand) (j : Nat) : (s.setStand k x).fieldAt j = s.fieldAt j := rfl
@[simp] theorem setStand_viAt (x : Stand) (j : Nat) : (s.setStand k x).viAt j = s.viAt j := rfl
@[simp] theorem setStand_pfAt (x : Stand) (j : Nat) : (s.setStand k x).pfAt j = s.pfAt j := rfl
@[simp] theorem setStand_launchAt (x : Stand) (j : Nat) : (s.setStand k x).launchAt j = s.launchAt j := rfl
@[simp] theorem setStand_groveAt (x : Stand) (j : Nat) : (s.setStand k x).groveAt j = s.groveAt j := rfl
@[simp] theorem setStand_dirAt (x : Stand) (j : Nat) : (s.setStand k x).dirAt j = s.dirAt j := rfl
@[simp] theorem setStand_coreOf (x : Stand) (j : Nat) : (s.setStand k x).coreOf j = s.coreOf j := rfl
@[simp] theorem setStand_viOf (x : Stand) (j : Nat) : (s.setStand k x).viOf j = s.viOf j := rfl
@[simp] theorem setStand_kindOf (x : Stand) (j : Nat) : (s.setStand k x).kindOf j = s.kindOf j := rfl
@[simp] theorem setStand_myCopse (x : Stand) : (s.setStand k x).myCopse = s.myCopse := rfl
@[simp] theorem setStand_myCoreKey (x : Stand) : (s.setStand k x).myCoreKey = s.myCoreKey := rfl
@[simp] theorem setStand_maint (x : Stand) : (s.setStand k x).maint = s.maint := rfl
@[simp] theorem setStand_coin (x : Stand) (j : Nat) : (s.setStand k x).coin j = s.coin j := rfl

/-! ### setCopse -/

@[simp] theorem setCopse_script (x : Copse) : (s.setCopse k x).script = s.script := rfl
@[simp] theorem setCopse_cur (x : Copse) : (s.setCopse k x).cur = s.cur := rfl
@[simp] theorem setCopse_free (x : Copse) : (s.setCopse k x).free = s.free := rfl
@[simp] theorem setCopse_nextId (x : Copse) : (s.setCopse k x).nextId = s.nextId := rfl
@[simp] theorem setCopse_boot (x : Copse) : (s.setCopse k x).boot = s.boot := rfl
@[simp] theorem setCopse_power (x : Copse) : (s.setCopse k x).power = s.power := rfl
@[simp] theorem setCopse_pfs (x : Copse) : (s.setCopse k x).pfs = s.pfs := rfl
@[simp] theorem setCopse_vis (x : Copse) : (s.setCopse k x).vis = s.vis := rfl
@[simp] theorem setCopse_fields (x : Copse) : (s.setCopse k x).fields = s.fields := rfl
@[simp] theorem setCopse_clusters (x : Copse) : (s.setCopse k x).clusters = s.clusters := rfl
@[simp] theorem setCopse_cores (x : Copse) : (s.setCopse k x).cores = s.cores := rfl
@[simp] theorem setCopse_stands (x : Copse) : (s.setCopse k x).stands = s.stands := rfl
@[simp] theorem setCopse_launches (x : Copse) : (s.setCopse k x).launches = s.launches := rfl
@[simp] theorem setCopse_groves (x : Copse) : (s.setCopse k x).groves = s.groves := rfl
@[simp] theorem setCopse_groveQ (x : Copse) : (s.setCopse k x).groveQ = s.groveQ := rfl
@[simp] theorem setCopse_frames (x : Copse) : (s.setCopse k x).frames = s.frames := rfl
@[simp] theorem setCopse_dir (x : Copse) : (s.setCopse k x).dir = s.dir := rfl
@[simp] theorem setCopse_placement (x : Copse) : (s.setCopse k x).placement = s.placement := rfl
@[simp] theorem setCopse_order (x : Copse) : (s.setCopse k x).order = s.order := rfl
@[simp] theorem setCopse_near (x : Copse) : (s.setCopse k x).near = s.near := rfl
@[simp] theorem setCopse_retired (x : Copse) : (s.setCopse k x).retired = s.retired := rfl
@[simp] theorem setCopse_stale (x : Copse) : (s.setCopse k x).stale = s.stale := rfl
@[simp] theorem setCopse_past (x : Copse) : (s.setCopse k x).past = s.past := rfl
@[simp] theorem setCopse_hostMem (x : Copse) : (s.setCopse k x).hostMem = s.hostMem := rfl
@[simp] theorem setCopse_net (x : Copse) : (s.setCopse k x).net = s.net := rfl
@[simp] theorem setCopse_answers (x : Copse) : (s.setCopse k x).answers = s.answers := rfl
@[simp] theorem setCopse_posted (x : Copse) : (s.setCopse k x).posted = s.posted := rfl
@[simp] theorem setCopse_peerQ (x : Copse) : (s.setCopse k x).peerQ = s.peerQ := rfl
@[simp] theorem setCopse_copses (x : Copse) : (s.setCopse k x).copses = tset k x s.copses := rfl
@[simp] theorem setCopse_copseAt (x : Copse) : (s.setCopse k x).copseAt k = x := tget_tset_self ..
theorem setCopse_copseAt_ne (x : Copse) {j : Nat} (h : j ≠ k) : (s.setCopse k x).copseAt j = s.copseAt j := tget_tset_ne _ h ..
theorem setCopse_copseAt_at (x : Copse) (j : Nat) : (s.setCopse k x).copseAt j = if j = k then x else s.copseAt j := tget_tset ..
@[simp] theorem setCopse_standAt (x : Copse) (j : Nat) : (s.setCopse k x).standAt j = s.standAt j := rfl
@[simp] theorem setCopse_coreAt (x : Copse) (j : Nat) : (s.setCopse k x).coreAt j = s.coreAt j := rfl
@[simp] theorem setCopse_clusterAt (x : Copse) (j : Nat) : (s.setCopse k x).clusterAt j = s.clusterAt j := rfl
@[simp] theorem setCopse_fieldAt (x : Copse) (j : Nat) : (s.setCopse k x).fieldAt j = s.fieldAt j := rfl
@[simp] theorem setCopse_viAt (x : Copse) (j : Nat) : (s.setCopse k x).viAt j = s.viAt j := rfl
@[simp] theorem setCopse_pfAt (x : Copse) (j : Nat) : (s.setCopse k x).pfAt j = s.pfAt j := rfl
@[simp] theorem setCopse_launchAt (x : Copse) (j : Nat) : (s.setCopse k x).launchAt j = s.launchAt j := rfl
@[simp] theorem setCopse_groveAt (x : Copse) (j : Nat) : (s.setCopse k x).groveAt j = s.groveAt j := rfl
@[simp] theorem setCopse_dirAt (x : Copse) (j : Nat) : (s.setCopse k x).dirAt j = s.dirAt j := rfl
@[simp] theorem setCopse_maint (x : Copse) : (s.setCopse k x).maint = s.maint := rfl
@[simp] theorem setCopse_coin (x : Copse) (j : Nat) : (s.setCopse k x).coin j = s.coin j := rfl

/-! ### setCore -/

@[simp] theorem setCore_script (x : Core) : (s.setCore k x).script = s.script := rfl
@[simp] theorem setCore_cur (x : Core) : (s.setCore k x).cur = s.cur := rfl
@[simp] theorem setCore_free (x : Core) : (s.setCore k x).free = s.free := rfl
@[simp] theorem setCore_nextId (x : Core) : (s.setCore k x).nextId = s.nextId := rfl
@[simp] theorem setCore_boot (x : Core) : (s.setCore k x).boot = s.boot := rfl
@[simp] theorem setCore_power (x : Core) : (s.setCore k x).power = s.power := rfl
@[simp] theorem setCore_pfs (x : Core) : (s.setCore k x).pfs = s.pfs := rfl
@[simp] theorem setCore_vis (x : Core) : (s.setCore k x).vis = s.vis := rfl
@[simp] theorem setCore_fields (x : Core) : (s.setCore k x).fields = s.fields := rfl
@[simp] theorem setCore_clusters (x : Core) : (s.setCore k x).clusters = s.clusters := rfl
@[simp] theorem setCore_copses (x : Core) : (s.setCore k x).copses = s.copses := rfl
@[simp] theorem setCore_stands (x : Core) : (s.setCore k x).stands = s.stands := rfl
@[simp] theorem setCore_launches (x : Core) : (s.setCore k x).launches = s.launches := rfl
@[simp] theorem setCore_groves (x : Core) : (s.setCore k x).groves = s.groves := rfl
@[simp] theorem setCore_groveQ (x : Core) : (s.setCore k x).groveQ = s.groveQ := rfl
@[simp] theorem setCore_frames (x : Core) : (s.setCore k x).frames = s.frames := rfl
@[simp] theorem setCore_dir (x : Core) : (s.setCore k x).dir = s.dir := rfl
@[simp] theorem setCore_placement (x : Core) : (s.setCore k x).placement = s.placement := rfl
@[simp] theorem setCore_order (x : Core) : (s.setCore k x).order = s.order := rfl
@[simp] theorem setCore_near (x : Core) : (s.setCore k x).near = s.near := rfl
@[simp] theorem setCore_retired (x : Core) : (s.setCore k x).retired = s.retired := rfl
@[simp] theorem setCore_stale (x : Core) : (s.setCore k x).stale = s.stale := rfl
@[simp] theorem setCore_past (x : Core) : (s.setCore k x).past = s.past := rfl
@[simp] theorem setCore_hostMem (x : Core) : (s.setCore k x).hostMem = s.hostMem := rfl
@[simp] theorem setCore_net (x : Core) : (s.setCore k x).net = s.net := rfl
@[simp] theorem setCore_answers (x : Core) : (s.setCore k x).answers = s.answers := rfl
@[simp] theorem setCore_posted (x : Core) : (s.setCore k x).posted = s.posted := rfl
@[simp] theorem setCore_peerQ (x : Core) : (s.setCore k x).peerQ = s.peerQ := rfl
@[simp] theorem setCore_cores (x : Core) : (s.setCore k x).cores = tset k x s.cores := rfl
@[simp] theorem setCore_coreAt (x : Core) : (s.setCore k x).coreAt k = x := tget_tset_self ..
theorem setCore_coreAt_ne (x : Core) {j : Nat} (h : j ≠ k) : (s.setCore k x).coreAt j = s.coreAt j := tget_tset_ne _ h ..
theorem setCore_coreAt_at (x : Core) (j : Nat) : (s.setCore k x).coreAt j = if j = k then x else s.coreAt j := tget_tset ..
@[simp] theorem setCore_standAt (x : Core) (j : Nat) : (s.setCore k x).standAt j = s.standAt j := rfl
@[simp] theorem setCore_copseAt (x : Core) (j : Nat) : (s.setCore k x).copseAt j = s.copseAt j := rfl
@[simp] theorem setCore_clusterAt (x : Core) (j : Nat) : (s.setCore k x).clusterAt j = s.clusterAt j := rfl
@[simp] theorem setCore_fieldAt (x : Core) (j : Nat) : (s.setCore k x).fieldAt j = s.fieldAt j := rfl
@[simp] theorem setCore_viAt (x : Core) (j : Nat) : (s.setCore k x).viAt j = s.viAt j := rfl
@[simp] theorem setCore_pfAt (x : Core) (j : Nat) : (s.setCore k x).pfAt j = s.pfAt j := rfl
@[simp] theorem setCore_launchAt (x : Core) (j : Nat) : (s.setCore k x).launchAt j = s.launchAt j := rfl
@[simp] theorem setCore_groveAt (x : Core) (j : Nat) : (s.setCore k x).groveAt j = s.groveAt j := rfl
@[simp] theorem setCore_dirAt (x : Core) (j : Nat) : (s.setCore k x).dirAt j = s.dirAt j := rfl
@[simp] theorem setCore_coreOf (x : Core) (j : Nat) : (s.setCore k x).coreOf j = s.coreOf j := rfl
@[simp] theorem setCore_viOf (x : Core) (j : Nat) : (s.setCore k x).viOf j = s.viOf j := rfl
@[simp] theorem setCore_kindOf (x : Core) (j : Nat) : (s.setCore k x).kindOf j = s.kindOf j := rfl
@[simp] theorem setCore_myCopse (x : Core) : (s.setCore k x).myCopse = s.myCopse := rfl
@[simp] theorem setCore_myCoreKey (x : Core) : (s.setCore k x).myCoreKey = s.myCoreKey := rfl
@[simp] theorem setCore_maint (x : Core) : (s.setCore k x).maint = s.maint := rfl
@[simp] theorem setCore_coin (x : Core) (j : Nat) : (s.setCore k x).coin j = s.coin j := rfl

/-! ### setCluster -/

@[simp] theorem setCluster_script (x : Cluster) : (s.setCluster k x).script = s.script := rfl
@[simp] theorem setCluster_cur (x : Cluster) : (s.setCluster k x).cur = s.cur := rfl
@[simp] theorem setCluster_free (x : Cluster) : (s.setCluster k x).free = s.free := rfl
@[simp] theorem setCluster_nextId (x : Cluster) : (s.setCluster k x).nextId = s.nextId := rfl
@[simp] theorem setCluster_boot (x : Cluster) : (s.setCluster k x).boot = s.boot := rfl
@[simp] theorem setCluster_power (x : Cluster) : (s.setCluster k x).power = s.power := rfl
@[simp] theorem setCluster_pfs (x : Cluster) : (s.setCluster k x).pfs = s.pfs := rfl
@[simp] theorem setCluster_vis (x : Cluster) : (s.setCluster k x).vis = s.vis := rfl
@[simp] theorem setCluster_fields (x : Cluster) : (s.setCluster k x).fields = s.fields := rfl
@[simp] theorem setCluster_cores (x : Cluster) : (s.setCluster k x).cores = s.cores := rfl
@[simp] theorem setCluster_copses (x : Cluster) : (s.setCluster k x).copses = s.copses := rfl
@[simp] theorem setCluster_stands (x : Cluster) : (s.setCluster k x).stands = s.stands := rfl
@[simp] theorem setCluster_launches (x : Cluster) : (s.setCluster k x).launches = s.launches := rfl
@[simp] theorem setCluster_groves (x : Cluster) : (s.setCluster k x).groves = s.groves := rfl
@[simp] theorem setCluster_groveQ (x : Cluster) : (s.setCluster k x).groveQ = s.groveQ := rfl
@[simp] theorem setCluster_frames (x : Cluster) : (s.setCluster k x).frames = s.frames := rfl
@[simp] theorem setCluster_dir (x : Cluster) : (s.setCluster k x).dir = s.dir := rfl
@[simp] theorem setCluster_placement (x : Cluster) : (s.setCluster k x).placement = s.placement := rfl
@[simp] theorem setCluster_order (x : Cluster) : (s.setCluster k x).order = s.order := rfl
@[simp] theorem setCluster_near (x : Cluster) : (s.setCluster k x).near = s.near := rfl
@[simp] theorem setCluster_retired (x : Cluster) : (s.setCluster k x).retired = s.retired := rfl
@[simp] theorem setCluster_stale (x : Cluster) : (s.setCluster k x).stale = s.stale := rfl
@[simp] theorem setCluster_past (x : Cluster) : (s.setCluster k x).past = s.past := rfl
@[simp] theorem setCluster_hostMem (x : Cluster) : (s.setCluster k x).hostMem = s.hostMem := rfl
@[simp] theorem setCluster_net (x : Cluster) : (s.setCluster k x).net = s.net := rfl
@[simp] theorem setCluster_answers (x : Cluster) : (s.setCluster k x).answers = s.answers := rfl
@[simp] theorem setCluster_posted (x : Cluster) : (s.setCluster k x).posted = s.posted := rfl
@[simp] theorem setCluster_peerQ (x : Cluster) : (s.setCluster k x).peerQ = s.peerQ := rfl
@[simp] theorem setCluster_clusters (x : Cluster) : (s.setCluster k x).clusters = tset k x s.clusters := rfl
@[simp] theorem setCluster_clusterAt (x : Cluster) : (s.setCluster k x).clusterAt k = x := tget_tset_self ..
theorem setCluster_clusterAt_ne (x : Cluster) {j : Nat} (h : j ≠ k) : (s.setCluster k x).clusterAt j = s.clusterAt j := tget_tset_ne _ h ..
theorem setCluster_clusterAt_at (x : Cluster) (j : Nat) : (s.setCluster k x).clusterAt j = if j = k then x else s.clusterAt j := tget_tset ..
@[simp] theorem setCluster_standAt (x : Cluster) (j : Nat) : (s.setCluster k x).standAt j = s.standAt j := rfl
@[simp] theorem setCluster_copseAt (x : Cluster) (j : Nat) : (s.setCluster k x).copseAt j = s.copseAt j := rfl
@[simp] theorem setCluster_coreAt (x : Cluster) (j : Nat) : (s.setCluster k x).coreAt j = s.coreAt j := rfl
@[simp] theorem setCluster_fieldAt (x : Cluster) (j : Nat) : (s.setCluster k x).fieldAt j = s.fieldAt j := rfl
@[simp] theorem setCluster_viAt (x : Cluster) (j : Nat) : (s.setCluster k x).viAt j = s.viAt j := rfl
@[simp] theorem setCluster_pfAt (x : Cluster) (j : Nat) : (s.setCluster k x).pfAt j = s.pfAt j := rfl
@[simp] theorem setCluster_launchAt (x : Cluster) (j : Nat) : (s.setCluster k x).launchAt j = s.launchAt j := rfl
@[simp] theorem setCluster_groveAt (x : Cluster) (j : Nat) : (s.setCluster k x).groveAt j = s.groveAt j := rfl
@[simp] theorem setCluster_dirAt (x : Cluster) (j : Nat) : (s.setCluster k x).dirAt j = s.dirAt j := rfl
@[simp] theorem setCluster_coreOf (x : Cluster) (j : Nat) : (s.setCluster k x).coreOf j = s.coreOf j := rfl
@[simp] theorem setCluster_viOf (x : Cluster) (j : Nat) : (s.setCluster k x).viOf j = s.viOf j := rfl
@[simp] theorem setCluster_kindOf (x : Cluster) (j : Nat) : (s.setCluster k x).kindOf j = s.kindOf j := rfl
@[simp] theorem setCluster_myCopse (x : Cluster) : (s.setCluster k x).myCopse = s.myCopse := rfl
@[simp] theorem setCluster_myCoreKey (x : Cluster) : (s.setCluster k x).myCoreKey = s.myCoreKey := rfl
@[simp] theorem setCluster_maint (x : Cluster) : (s.setCluster k x).maint = s.maint := rfl
@[simp] theorem setCluster_coin (x : Cluster) (j : Nat) : (s.setCluster k x).coin j = s.coin j := rfl

/-! ### setField -/

@[simp] theorem setField_script (x : Field) : (s.setField k x).script = s.script := rfl
@[simp] theorem setField_cur (x : Field) : (s.setField k x).cur = s.cur := rfl
@[simp] theorem setField_free (x : Field) : (s.setField k x).free = s.free := rfl
@[simp] theorem setField_nextId (x : Field) : (s.setField k x).nextId = s.nextId := rfl
@[simp] theorem setField_boot (x : Field) : (s.setField k x).boot = s.boot := rfl
@[simp] theorem setField_power (x : Field) : (s.setField k x).power = s.power := rfl
@[simp] theorem setField_pfs (x : Field) : (s.setField k x).pfs = s.pfs := rfl
@[simp] theorem setField_vis (x : Field) : (s.setField k x).vis = s.vis := rfl
@[simp] theorem setField_clusters (x : Field) : (s.setField k x).clusters = s.clusters := rfl
@[simp] theorem setField_cores (x : Field) : (s.setField k x).cores = s.cores := rfl
@[simp] theorem setField_copses (x : Field) : (s.setField k x).copses = s.copses := rfl
@[simp] theorem setField_stands (x : Field) : (s.setField k x).stands = s.stands := rfl
@[simp] theorem setField_launches (x : Field) : (s.setField k x).launches = s.launches := rfl
@[simp] theorem setField_groves (x : Field) : (s.setField k x).groves = s.groves := rfl
@[simp] theorem setField_groveQ (x : Field) : (s.setField k x).groveQ = s.groveQ := rfl
@[simp] theorem setField_frames (x : Field) : (s.setField k x).frames = s.frames := rfl
@[simp] theorem setField_dir (x : Field) : (s.setField k x).dir = s.dir := rfl
@[simp] theorem setField_placement (x : Field) : (s.setField k x).placement = s.placement := rfl
@[simp] theorem setField_order (x : Field) : (s.setField k x).order = s.order := rfl
@[simp] theorem setField_near (x : Field) : (s.setField k x).near = s.near := rfl
@[simp] theorem setField_retired (x : Field) : (s.setField k x).retired = s.retired := rfl
@[simp] theorem setField_stale (x : Field) : (s.setField k x).stale = s.stale := rfl
@[simp] theorem setField_past (x : Field) : (s.setField k x).past = s.past := rfl
@[simp] theorem setField_hostMem (x : Field) : (s.setField k x).hostMem = s.hostMem := rfl
@[simp] theorem setField_net (x : Field) : (s.setField k x).net = s.net := rfl
@[simp] theorem setField_answers (x : Field) : (s.setField k x).answers = s.answers := rfl
@[simp] theorem setField_posted (x : Field) : (s.setField k x).posted = s.posted := rfl
@[simp] theorem setField_peerQ (x : Field) : (s.setField k x).peerQ = s.peerQ := rfl
@[simp] theorem setField_fields (x : Field) : (s.setField k x).fields = tset k x s.fields := rfl
@[simp] theorem setField_fieldAt (x : Field) : (s.setField k x).fieldAt k = x := tget_tset_self ..
theorem setField_fieldAt_ne (x : Field) {j : Nat} (h : j ≠ k) : (s.setField k x).fieldAt j = s.fieldAt j := tget_tset_ne _ h ..
theorem setField_fieldAt_at (x : Field) (j : Nat) : (s.setField k x).fieldAt j = if j = k then x else s.fieldAt j := tget_tset ..
@[simp] theorem setField_standAt (x : Field) (j : Nat) : (s.setField k x).standAt j = s.standAt j := rfl
@[simp] theorem setField_copseAt (x : Field) (j : Nat) : (s.setField k x).copseAt j = s.copseAt j := rfl
@[simp] theorem setField_coreAt (x : Field) (j : Nat) : (s.setField k x).coreAt j = s.coreAt j := rfl
@[simp] theorem setField_clusterAt (x : Field) (j : Nat) : (s.setField k x).clusterAt j = s.clusterAt j := rfl
@[simp] theorem setField_viAt (x : Field) (j : Nat) : (s.setField k x).viAt j = s.viAt j := rfl
@[simp] theorem setField_pfAt (x : Field) (j : Nat) : (s.setField k x).pfAt j = s.pfAt j := rfl
@[simp] theorem setField_launchAt (x : Field) (j : Nat) : (s.setField k x).launchAt j = s.launchAt j := rfl
@[simp] theorem setField_groveAt (x : Field) (j : Nat) : (s.setField k x).groveAt j = s.groveAt j := rfl
@[simp] theorem setField_dirAt (x : Field) (j : Nat) : (s.setField k x).dirAt j = s.dirAt j := rfl
@[simp] theorem setField_coreOf (x : Field) (j : Nat) : (s.setField k x).coreOf j = s.coreOf j := rfl
@[simp] theorem setField_viOf (x : Field) (j : Nat) : (s.setField k x).viOf j = s.viOf j := rfl
@[simp] theorem setField_kindOf (x : Field) (j : Nat) : (s.setField k x).kindOf j = s.kindOf j := rfl
@[simp] theorem setField_myCopse (x : Field) : (s.setField k x).myCopse = s.myCopse := rfl
@[simp] theorem setField_myCoreKey (x : Field) : (s.setField k x).myCoreKey = s.myCoreKey := rfl
@[simp] theorem setField_maint (x : Field) : (s.setField k x).maint = s.maint := rfl
@[simp] theorem setField_coin (x : Field) (j : Nat) : (s.setField k x).coin j = s.coin j := rfl

/-! ### setVi -/

@[simp] theorem setVi_script (x : Vi) : (s.setVi k x).script = s.script := rfl
@[simp] theorem setVi_cur (x : Vi) : (s.setVi k x).cur = s.cur := rfl
@[simp] theorem setVi_free (x : Vi) : (s.setVi k x).free = s.free := rfl
@[simp] theorem setVi_nextId (x : Vi) : (s.setVi k x).nextId = s.nextId := rfl
@[simp] theorem setVi_boot (x : Vi) : (s.setVi k x).boot = s.boot := rfl
@[simp] theorem setVi_power (x : Vi) : (s.setVi k x).power = s.power := rfl
@[simp] theorem setVi_pfs (x : Vi) : (s.setVi k x).pfs = s.pfs := rfl
@[simp] theorem setVi_fields (x : Vi) : (s.setVi k x).fields = s.fields := rfl
@[simp] theorem setVi_clusters (x : Vi) : (s.setVi k x).clusters = s.clusters := rfl
@[simp] theorem setVi_cores (x : Vi) : (s.setVi k x).cores = s.cores := rfl
@[simp] theorem setVi_copses (x : Vi) : (s.setVi k x).copses = s.copses := rfl
@[simp] theorem setVi_stands (x : Vi) : (s.setVi k x).stands = s.stands := rfl
@[simp] theorem setVi_launches (x : Vi) : (s.setVi k x).launches = s.launches := rfl
@[simp] theorem setVi_groves (x : Vi) : (s.setVi k x).groves = s.groves := rfl
@[simp] theorem setVi_groveQ (x : Vi) : (s.setVi k x).groveQ = s.groveQ := rfl
@[simp] theorem setVi_frames (x : Vi) : (s.setVi k x).frames = s.frames := rfl
@[simp] theorem setVi_dir (x : Vi) : (s.setVi k x).dir = s.dir := rfl
@[simp] theorem setVi_placement (x : Vi) : (s.setVi k x).placement = s.placement := rfl
@[simp] theorem setVi_order (x : Vi) : (s.setVi k x).order = s.order := rfl
@[simp] theorem setVi_near (x : Vi) : (s.setVi k x).near = s.near := rfl
@[simp] theorem setVi_retired (x : Vi) : (s.setVi k x).retired = s.retired := rfl
@[simp] theorem setVi_stale (x : Vi) : (s.setVi k x).stale = s.stale := rfl
@[simp] theorem setVi_past (x : Vi) : (s.setVi k x).past = s.past := rfl
@[simp] theorem setVi_hostMem (x : Vi) : (s.setVi k x).hostMem = s.hostMem := rfl
@[simp] theorem setVi_net (x : Vi) : (s.setVi k x).net = s.net := rfl
@[simp] theorem setVi_answers (x : Vi) : (s.setVi k x).answers = s.answers := rfl
@[simp] theorem setVi_posted (x : Vi) : (s.setVi k x).posted = s.posted := rfl
@[simp] theorem setVi_peerQ (x : Vi) : (s.setVi k x).peerQ = s.peerQ := rfl
@[simp] theorem setVi_vis (x : Vi) : (s.setVi k x).vis = tset k x s.vis := rfl
@[simp] theorem setVi_viAt (x : Vi) : (s.setVi k x).viAt k = x := tget_tset_self ..
theorem setVi_viAt_ne (x : Vi) {j : Nat} (h : j ≠ k) : (s.setVi k x).viAt j = s.viAt j := tget_tset_ne _ h ..
theorem setVi_viAt_at (x : Vi) (j : Nat) : (s.setVi k x).viAt j = if j = k then x else s.viAt j := tget_tset ..
@[simp] theorem setVi_standAt (x : Vi) (j : Nat) : (s.setVi k x).standAt j = s.standAt j := rfl
@[simp] theorem setVi_copseAt (x : Vi) (j : Nat) : (s.setVi k x).copseAt j = s.copseAt j := rfl
@[simp] theorem setVi_coreAt (x : Vi) (j : Nat) : (s.setVi k x).coreAt j = s.coreAt j := rfl
@[simp] theorem setVi_clusterAt (x : Vi) (j : Nat) : (s.setVi k x).clusterAt j = s.clusterAt j := rfl
@[simp] theorem setVi_fieldAt (x : Vi) (j : Nat) : (s.setVi k x).fieldAt j = s.fieldAt j := rfl
@[simp] theorem setVi_pfAt (x : Vi) (j : Nat) : (s.setVi k x).pfAt j = s.pfAt j := rfl
@[simp] theorem setVi_launchAt (x : Vi) (j : Nat) : (s.setVi k x).launchAt j = s.launchAt j := rfl
@[simp] theorem setVi_groveAt (x : Vi) (j : Nat) : (s.setVi k x).groveAt j = s.groveAt j := rfl
@[simp] theorem setVi_dirAt (x : Vi) (j : Nat) : (s.setVi k x).dirAt j = s.dirAt j := rfl
@[simp] theorem setVi_coreOf (x : Vi) (j : Nat) : (s.setVi k x).coreOf j = s.coreOf j := rfl
@[simp] theorem setVi_viOf (x : Vi) (j : Nat) : (s.setVi k x).viOf j = s.viOf j := rfl
@[simp] theorem setVi_kindOf (x : Vi) (j : Nat) : (s.setVi k x).kindOf j = s.kindOf j := rfl
@[simp] theorem setVi_myCopse (x : Vi) : (s.setVi k x).myCopse = s.myCopse := rfl
@[simp] theorem setVi_myCoreKey (x : Vi) : (s.setVi k x).myCoreKey = s.myCoreKey := rfl
@[simp] theorem setVi_maint (x : Vi) : (s.setVi k x).maint = s.maint := rfl
@[simp] theorem setVi_coin (x : Vi) (j : Nat) : (s.setVi k x).coin j = s.coin j := rfl

/-! ### setPf -/

@[simp] theorem setPf_script (x : Pf) : (s.setPf k x).script = s.script := rfl
@[simp] theorem setPf_cur (x : Pf) : (s.setPf k x).cur = s.cur := rfl
@[simp] theorem setPf_free (x : Pf) : (s.setPf k x).free = s.free := rfl
@[simp] theorem setPf_nextId (x : Pf) : (s.setPf k x).nextId = s.nextId := rfl
@[simp] theorem setPf_boot (x : Pf) : (s.setPf k x).boot = s.boot := rfl
@[simp] theorem setPf_power (x : Pf) : (s.setPf k x).power = s.power := rfl
@[simp] theorem setPf_vis (x : Pf) : (s.setPf k x).vis = s.vis := rfl
@[simp] theorem setPf_fields (x : Pf) : (s.setPf k x).fields = s.fields := rfl
@[simp] theorem setPf_clusters (x : Pf) : (s.setPf k x).clusters = s.clusters := rfl
@[simp] theorem setPf_cores (x : Pf) : (s.setPf k x).cores = s.cores := rfl
@[simp] theorem setPf_copses (x : Pf) : (s.setPf k x).copses = s.copses := rfl
@[simp] theorem setPf_stands (x : Pf) : (s.setPf k x).stands = s.stands := rfl
@[simp] theorem setPf_launches (x : Pf) : (s.setPf k x).launches = s.launches := rfl
@[simp] theorem setPf_groves (x : Pf) : (s.setPf k x).groves = s.groves := rfl
@[simp] theorem setPf_groveQ (x : Pf) : (s.setPf k x).groveQ = s.groveQ := rfl
@[simp] theorem setPf_frames (x : Pf) : (s.setPf k x).frames = s.frames := rfl
@[simp] theorem setPf_dir (x : Pf) : (s.setPf k x).dir = s.dir := rfl
@[simp] theorem setPf_placement (x : Pf) : (s.setPf k x).placement = s.placement := rfl
@[simp] theorem setPf_order (x : Pf) : (s.setPf k x).order = s.order := rfl
@[simp] theorem setPf_near (x : Pf) : (s.setPf k x).near = s.near := rfl
@[simp] theorem setPf_retired (x : Pf) : (s.setPf k x).retired = s.retired := rfl
@[simp] theorem setPf_stale (x : Pf) : (s.setPf k x).stale = s.stale := rfl
@[simp] theorem setPf_past (x : Pf) : (s.setPf k x).past = s.past := rfl
@[simp] theorem setPf_hostMem (x : Pf) : (s.setPf k x).hostMem = s.hostMem := rfl
@[simp] theorem setPf_net (x : Pf) : (s.setPf k x).net = s.net := rfl
@[simp] theorem setPf_answers (x : Pf) : (s.setPf k x).answers = s.answers := rfl
@[simp] theorem setPf_posted (x : Pf) : (s.setPf k x).posted = s.posted := rfl
@[simp] theorem setPf_peerQ (x : Pf) : (s.setPf k x).peerQ = s.peerQ := rfl
@[simp] theorem setPf_pfs (x : Pf) : (s.setPf k x).pfs = tset k x s.pfs := rfl
@[simp] theorem setPf_pfAt (x : Pf) : (s.setPf k x).pfAt k = x := tget_tset_self ..
theorem setPf_pfAt_ne (x : Pf) {j : Nat} (h : j ≠ k) : (s.setPf k x).pfAt j = s.pfAt j := tget_tset_ne _ h ..
theorem setPf_pfAt_at (x : Pf) (j : Nat) : (s.setPf k x).pfAt j = if j = k then x else s.pfAt j := tget_tset ..
@[simp] theorem setPf_standAt (x : Pf) (j : Nat) : (s.setPf k x).standAt j = s.standAt j := rfl
@[simp] theorem setPf_copseAt (x : Pf) (j : Nat) : (s.setPf k x).copseAt j = s.copseAt j := rfl
@[simp] theorem setPf_coreAt (x : Pf) (j : Nat) : (s.setPf k x).coreAt j = s.coreAt j := rfl
@[simp] theorem setPf_clusterAt (x : Pf) (j : Nat) : (s.setPf k x).clusterAt j = s.clusterAt j := rfl
@[simp] theorem setPf_fieldAt (x : Pf) (j : Nat) : (s.setPf k x).fieldAt j = s.fieldAt j := rfl
@[simp] theorem setPf_viAt (x : Pf) (j : Nat) : (s.setPf k x).viAt j = s.viAt j := rfl
@[simp] theorem setPf_launchAt (x : Pf) (j : Nat) : (s.setPf k x).launchAt j = s.launchAt j := rfl
@[simp] theorem setPf_groveAt (x : Pf) (j : Nat) : (s.setPf k x).groveAt j = s.groveAt j := rfl
@[simp] theorem setPf_dirAt (x : Pf) (j : Nat) : (s.setPf k x).dirAt j = s.dirAt j := rfl
@[simp] theorem setPf_coreOf (x : Pf) (j : Nat) : (s.setPf k x).coreOf j = s.coreOf j := rfl
@[simp] theorem setPf_viOf (x : Pf) (j : Nat) : (s.setPf k x).viOf j = s.viOf j := rfl
@[simp] theorem setPf_kindOf (x : Pf) (j : Nat) : (s.setPf k x).kindOf j = s.kindOf j := rfl
@[simp] theorem setPf_myCopse (x : Pf) : (s.setPf k x).myCopse = s.myCopse := rfl
@[simp] theorem setPf_myCoreKey (x : Pf) : (s.setPf k x).myCoreKey = s.myCoreKey := rfl
@[simp] theorem setPf_maint (x : Pf) : (s.setPf k x).maint = s.maint := rfl
@[simp] theorem setPf_coin (x : Pf) (j : Nat) : (s.setPf k x).coin j = s.coin j := rfl

/-! ### setLaunch -/

@[simp] theorem setLaunch_script (x : Launch) : (s.setLaunch k x).script = s.script := rfl
@[simp] theorem setLaunch_cur (x : Launch) : (s.setLaunch k x).cur = s.cur := rfl
@[simp] theorem setLaunch_free (x : Launch) : (s.setLaunch k x).free = s.free := rfl
@[simp] theorem setLaunch_nextId (x : Launch) : (s.setLaunch k x).nextId = s.nextId := rfl
@[simp] theorem setLaunch_boot (x : Launch) : (s.setLaunch k x).boot = s.boot := rfl
@[simp] theorem setLaunch_power (x : Launch) : (s.setLaunch k x).power = s.power := rfl
@[simp] theorem setLaunch_pfs (x : Launch) : (s.setLaunch k x).pfs = s.pfs := rfl
@[simp] theorem setLaunch_vis (x : Launch) : (s.setLaunch k x).vis = s.vis := rfl
@[simp] theorem setLaunch_fields (x : Launch) : (s.setLaunch k x).fields = s.fields := rfl
@[simp] theorem setLaunch_clusters (x : Launch) : (s.setLaunch k x).clusters = s.clusters := rfl
@[simp] theorem setLaunch_cores (x : Launch) : (s.setLaunch k x).cores = s.cores := rfl
@[simp] theorem setLaunch_copses (x : Launch) : (s.setLaunch k x).copses = s.copses := rfl
@[simp] theorem setLaunch_stands (x : Launch) : (s.setLaunch k x).stands = s.stands := rfl
@[simp] theorem setLaunch_groves (x : Launch) : (s.setLaunch k x).groves = s.groves := rfl
@[simp] theorem setLaunch_groveQ (x : Launch) : (s.setLaunch k x).groveQ = s.groveQ := rfl
@[simp] theorem setLaunch_frames (x : Launch) : (s.setLaunch k x).frames = s.frames := rfl
@[simp] theorem setLaunch_dir (x : Launch) : (s.setLaunch k x).dir = s.dir := rfl
@[simp] theorem setLaunch_placement (x : Launch) : (s.setLaunch k x).placement = s.placement := rfl
@[simp] theorem setLaunch_order (x : Launch) : (s.setLaunch k x).order = s.order := rfl
@[simp] theorem setLaunch_near (x : Launch) : (s.setLaunch k x).near = s.near := rfl
@[simp] theorem setLaunch_retired (x : Launch) : (s.setLaunch k x).retired = s.retired := rfl
@[simp] theorem setLaunch_stale (x : Launch) : (s.setLaunch k x).stale = s.stale := rfl
@[simp] theorem setLaunch_past (x : Launch) : (s.setLaunch k x).past = s.past := rfl
@[simp] theorem setLaunch_hostMem (x : Launch) : (s.setLaunch k x).hostMem = s.hostMem := rfl
@[simp] theorem setLaunch_net (x : Launch) : (s.setLaunch k x).net = s.net := rfl
@[simp] theorem setLaunch_answers (x : Launch) : (s.setLaunch k x).answers = s.answers := rfl
@[simp] theorem setLaunch_posted (x : Launch) : (s.setLaunch k x).posted = s.posted := rfl
@[simp] theorem setLaunch_peerQ (x : Launch) : (s.setLaunch k x).peerQ = s.peerQ := rfl
@[simp] theorem setLaunch_launches (x : Launch) : (s.setLaunch k x).launches = tset k x s.launches := rfl
@[simp] theorem setLaunch_launchAt (x : Launch) : (s.setLaunch k x).launchAt k = x := tget_tset_self ..
theorem setLaunch_launchAt_ne (x : Launch) {j : Nat} (h : j ≠ k) : (s.setLaunch k x).launchAt j = s.launchAt j := tget_tset_ne _ h ..
theorem setLaunch_launchAt_at (x : Launch) (j : Nat) : (s.setLaunch k x).launchAt j = if j = k then x else s.launchAt j := tget_tset ..
@[simp] theorem setLaunch_standAt (x : Launch) (j : Nat) : (s.setLaunch k x).standAt j = s.standAt j := rfl
@[simp] theorem setLaunch_copseAt (x : Launch) (j : Nat) : (s.setLaunch k x).copseAt j = s.copseAt j := rfl
@[simp] theorem setLaunch_coreAt (x : Launch) (j : Nat) : (s.setLaunch k x).coreAt j = s.coreAt j := rfl
@[simp] theorem setLaunch_clusterAt (x : Launch) (j : Nat) : (s.setLaunch k x).clusterAt j = s.clusterAt j := rfl
@[simp] theorem setLaunch_fieldAt (x : Launch) (j : Nat) : (s.setLaunch k x).fieldAt j = s.fieldAt j := rfl
@[simp] theorem setLaunch_viAt (x : Launch) (j : Nat) : (s.setLaunch k x).viAt j = s.viAt j := rfl
@[simp] theorem setLaunch_pfAt (x : Launch) (j : Nat) : (s.setLaunch k x).pfAt j = s.pfAt j := rfl
@[simp] theorem setLaunch_groveAt (x : Launch) (j : Nat) : (s.setLaunch k x).groveAt j = s.groveAt j := rfl
@[simp] theorem setLaunch_dirAt (x : Launch) (j : Nat) : (s.setLaunch k x).dirAt j = s.dirAt j := rfl
@[simp] theorem setLaunch_coreOf (x : Launch) (j : Nat) : (s.setLaunch k x).coreOf j = s.coreOf j := rfl
@[simp] theorem setLaunch_viOf (x : Launch) (j : Nat) : (s.setLaunch k x).viOf j = s.viOf j := rfl
@[simp] theorem setLaunch_kindOf (x : Launch) (j : Nat) : (s.setLaunch k x).kindOf j = s.kindOf j := rfl
@[simp] theorem setLaunch_myCopse (x : Launch) : (s.setLaunch k x).myCopse = s.myCopse := rfl
@[simp] theorem setLaunch_myCoreKey (x : Launch) : (s.setLaunch k x).myCoreKey = s.myCoreKey := rfl
@[simp] theorem setLaunch_maint (x : Launch) : (s.setLaunch k x).maint = s.maint := rfl
@[simp] theorem setLaunch_coin (x : Launch) (j : Nat) : (s.setLaunch k x).coin j = s.coin j := rfl

/-! ### setGrove -/

@[simp] theorem setGrove_script (x : Grove) : (s.setGrove k x).script = s.script := rfl
@[simp] theorem setGrove_cur (x : Grove) : (s.setGrove k x).cur = s.cur := rfl
@[simp] theorem setGrove_free (x : Grove) : (s.setGrove k x).free = s.free := rfl
@[simp] theorem setGrove_nextId (x : Grove) : (s.setGrove k x).nextId = s.nextId := rfl
@[simp] theorem setGrove_boot (x : Grove) : (s.setGrove k x).boot = s.boot := rfl
@[simp] theorem setGrove_power (x : Grove) : (s.setGrove k x).power = s.power := rfl
@[simp] theorem setGrove_pfs (x : Grove) : (s.setGrove k x).pfs = s.pfs := rfl
@[simp] theorem setGrove_vis (x : Grove) : (s.setGrove k x).vis = s.vis := rfl
@[simp] theorem setGrove_fields (x : Grove) : (s.setGrove k x).fields = s.fields := rfl
@[simp] theorem setGrove_clusters (x : Grove) : (s.setGrove k x).clusters = s.clusters := rfl
@[simp] theorem setGrove_cores (x : Grove) : (s.setGrove k x).cores = s.cores := rfl
@[simp] theorem setGrove_copses (x : Grove) : (s.setGrove k x).copses = s.copses := rfl
@[simp] theorem setGrove_stands (x : Grove) : (s.setGrove k x).stands = s.stands := rfl
@[simp] theorem setGrove_launches (x : Grove) : (s.setGrove k x).launches = s.launches := rfl
@[simp] theorem setGrove_groveQ (x : Grove) : (s.setGrove k x).groveQ = s.groveQ := rfl
@[simp] theorem setGrove_frames (x : Grove) : (s.setGrove k x).frames = s.frames := rfl
@[simp] theorem setGrove_dir (x : Grove) : (s.setGrove k x).dir = s.dir := rfl
@[simp] theorem setGrove_placement (x : Grove) : (s.setGrove k x).placement = s.placement := rfl
@[simp] theorem setGrove_order (x : Grove) : (s.setGrove k x).order = s.order := rfl
@[simp] theorem setGrove_near (x : Grove) : (s.setGrove k x).near = s.near := rfl
@[simp] theorem setGrove_retired (x : Grove) : (s.setGrove k x).retired = s.retired := rfl
@[simp] theorem setGrove_stale (x : Grove) : (s.setGrove k x).stale = s.stale := rfl
@[simp] theorem setGrove_past (x : Grove) : (s.setGrove k x).past = s.past := rfl
@[simp] theorem setGrove_hostMem (x : Grove) : (s.setGrove k x).hostMem = s.hostMem := rfl
@[simp] theorem setGrove_net (x : Grove) : (s.setGrove k x).net = s.net := rfl
@[simp] theorem setGrove_answers (x : Grove) : (s.setGrove k x).answers = s.answers := rfl
@[simp] theorem setGrove_posted (x : Grove) : (s.setGrove k x).posted = s.posted := rfl
@[simp] theorem setGrove_peerQ (x : Grove) : (s.setGrove k x).peerQ = s.peerQ := rfl
@[simp] theorem setGrove_groves (x : Grove) : (s.setGrove k x).groves = tset k x s.groves := rfl
@[simp] theorem setGrove_groveAt (x : Grove) : (s.setGrove k x).groveAt k = x := tget_tset_self ..
theorem setGrove_groveAt_ne (x : Grove) {j : Nat} (h : j ≠ k) : (s.setGrove k x).groveAt j = s.groveAt j := tget_tset_ne _ h ..
theorem setGrove_groveAt_at (x : Grove) (j : Nat) : (s.setGrove k x).groveAt j = if j = k then x else s.groveAt j := tget_tset ..
@[simp] theorem setGrove_standAt (x : Grove) (j : Nat) : (s.setGrove k x).standAt j = s.standAt j := rfl
@[simp] theorem setGrove_copseAt (x : Grove) (j : Nat) : (s.setGrove k x).copseAt j = s.copseAt j := rfl
@[simp] theorem setGrove_coreAt (x : Grove) (j : Nat) : (s.setGrove k x).coreAt j = s.coreAt j := rfl
@[simp] theorem setGrove_clusterAt (x : Grove) (j : Nat) : (s.setGrove k x).clusterAt j = s.clusterAt j := rfl
@[simp] theorem setGrove_fieldAt (x : Grove) (j : Nat) : (s.setGrove k x).fieldAt j = s.fieldAt j := rfl
@[simp] theorem setGrove_viAt (x : Grove) (j : Nat) : (s.setGrove k x).viAt j = s.viAt j := rfl
@[simp] theorem setGrove_pfAt (x : Grove) (j : Nat) : (s.setGrove k x).pfAt j = s.pfAt j := rfl
@[simp] theorem setGrove_launchAt (x : Grove) (j : Nat) : (s.setGrove k x).launchAt j = s.launchAt j := rfl
@[simp] theorem setGrove_dirAt (x : Grove) (j : Nat) : (s.setGrove k x).dirAt j = s.dirAt j := rfl
@[simp] theorem setGrove_coreOf (x : Grove) (j : Nat) : (s.setGrove k x).coreOf j = s.coreOf j := rfl
@[simp] theorem setGrove_viOf (x : Grove) (j : Nat) : (s.setGrove k x).viOf j = s.viOf j := rfl
@[simp] theorem setGrove_kindOf (x : Grove) (j : Nat) : (s.setGrove k x).kindOf j = s.kindOf j := rfl
@[simp] theorem setGrove_myCopse (x : Grove) : (s.setGrove k x).myCopse = s.myCopse := rfl
@[simp] theorem setGrove_myCoreKey (x : Grove) : (s.setGrove k x).myCoreKey = s.myCoreKey := rfl
@[simp] theorem setGrove_maint (x : Grove) : (s.setGrove k x).maint = s.maint := rfl
@[simp] theorem setGrove_coin (x : Grove) (j : Nat) : (s.setGrove k x).coin j = s.coin j := rfl

/-! ### setDir -/

@[simp] theorem setDir_script (x : Dir) : (s.setDir k x).script = s.script := rfl
@[simp] theorem setDir_cur (x : Dir) : (s.setDir k x).cur = s.cur := rfl
@[simp] theorem setDir_free (x : Dir) : (s.setDir k x).free = s.free := rfl
@[simp] theorem setDir_nextId (x : Dir) : (s.setDir k x).nextId = s.nextId := rfl
@[simp] theorem setDir_boot (x : Dir) : (s.setDir k x).boot = s.boot := rfl
@[simp] theorem setDir_power (x : Dir) : (s.setDir k x).power = s.power := rfl
@[simp] theorem setDir_pfs (x : Dir) : (s.setDir k x).pfs = s.pfs := rfl
@[simp] theorem setDir_vis (x : Dir) : (s.setDir k x).vis = s.vis := rfl
@[simp] theorem setDir_fields (x : Dir) : (s.setDir k x).fields = s.fields := rfl
@[simp] theorem setDir_clusters (x : Dir) : (s.setDir k x).clusters = s.clusters := rfl
@[simp] theorem setDir_cores (x : Dir) : (s.setDir k x).cores = s.cores := rfl
@[simp] theorem setDir_copses (x : Dir) : (s.setDir k x).copses = s.copses := rfl
@[simp] theorem setDir_stands (x : Dir) : (s.setDir k x).stands = s.stands := rfl
@[simp] theorem setDir_launches (x : Dir) : (s.setDir k x).launches = s.launches := rfl
@[simp] theorem setDir_groves (x : Dir) : (s.setDir k x).groves = s.groves := rfl
@[simp] theorem setDir_groveQ (x : Dir) : (s.setDir k x).groveQ = s.groveQ := rfl
@[simp] theorem setDir_frames (x : Dir) : (s.setDir k x).frames = s.frames := rfl
@[simp] theorem setDir_placement (x : Dir) : (s.setDir k x).placement = s.placement := rfl
@[simp] theorem setDir_order (x : Dir) : (s.setDir k x).order = s.order := rfl
@[simp] theorem setDir_near (x : Dir) : (s.setDir k x).near = s.near := rfl
@[simp] theorem setDir_retired (x : Dir) : (s.setDir k x).retired = s.retired := rfl
@[simp] theorem setDir_stale (x : Dir) : (s.setDir k x).stale = s.stale := rfl
@[simp] theorem setDir_past (x : Dir) : (s.setDir k x).past = s.past := rfl
@[simp] theorem setDir_hostMem (x : Dir) : (s.setDir k x).hostMem = s.hostMem := rfl
@[simp] theorem setDir_net (x : Dir) : (s.setDir k x).net = s.net := rfl
@[simp] theorem setDir_answers (x : Dir) : (s.setDir k x).answers = s.answers := rfl
@[simp] theorem setDir_posted (x : Dir) : (s.setDir k x).posted = s.posted := rfl
@[simp] theorem setDir_peerQ (x : Dir) : (s.setDir k x).peerQ = s.peerQ := rfl
@[simp] theorem setDir_dir (x : Dir) : (s.setDir k x).dir = tset k x s.dir := rfl
@[simp] theorem setDir_dirAt (x : Dir) : (s.setDir k x).dirAt k = x := tget_tset_self ..
theorem setDir_dirAt_ne (x : Dir) {j : Nat} (h : j ≠ k) : (s.setDir k x).dirAt j = s.dirAt j := tget_tset_ne _ h ..
theorem setDir_dirAt_at (x : Dir) (j : Nat) : (s.setDir k x).dirAt j = if j = k then x else s.dirAt j := tget_tset ..
@[simp] theorem setDir_standAt (x : Dir) (j : Nat) : (s.setDir k x).standAt j = s.standAt j := rfl
@[simp] theorem setDir_copseAt (x : Dir) (j : Nat) : (s.setDir k x).copseAt j = s.copseAt j := rfl
@[simp] theorem setDir_coreAt (x : Dir) (j : Nat) : (s.setDir k x).coreAt j = s.coreAt j := rfl
@[simp] theorem setDir_clusterAt (x : Dir) (j : Nat) : (s.setDir k x).clusterAt j = s.clusterAt j := rfl
@[simp] theorem setDir_fieldAt (x : Dir) (j : Nat) : (s.setDir k x).fieldAt j = s.fieldAt j := rfl
@[simp] theorem setDir_viAt (x : Dir) (j : Nat) : (s.setDir k x).viAt j = s.viAt j := rfl
@[simp] theorem setDir_pfAt (x : Dir) (j : Nat) : (s.setDir k x).pfAt j = s.pfAt j := rfl
@[simp] theorem setDir_launchAt (x : Dir) (j : Nat) : (s.setDir k x).launchAt j = s.launchAt j := rfl
@[simp] theorem setDir_groveAt (x : Dir) (j : Nat) : (s.setDir k x).groveAt j = s.groveAt j := rfl
@[simp] theorem setDir_coreOf (x : Dir) (j : Nat) : (s.setDir k x).coreOf j = s.coreOf j := rfl
@[simp] theorem setDir_viOf (x : Dir) (j : Nat) : (s.setDir k x).viOf j = s.viOf j := rfl
@[simp] theorem setDir_kindOf (x : Dir) (j : Nat) : (s.setDir k x).kindOf j = s.kindOf j := rfl
@[simp] theorem setDir_myCopse (x : Dir) : (s.setDir k x).myCopse = s.myCopse := rfl
@[simp] theorem setDir_myCoreKey (x : Dir) : (s.setDir k x).myCoreKey = s.myCoreKey := rfl
@[simp] theorem setDir_maint (x : Dir) : (s.setDir k x).maint = s.maint := rfl
@[simp] theorem setDir_coin (x : Dir) (j : Nat) : (s.setDir k x).coin j = s.coin j := rfl

/-! ### The executing stand, and the stale window -/

@[simp] theorem setMe_eq (x : Stand) : s.setMe x = s.setStand s.cur x := rfl
theorem me_eq : s.me = s.standAt s.cur := rfl
@[simp] theorem setMe_me (x : Stand) : (s.setStand s.cur x).me = x := tget_tset_self ..
@[simp] theorem bump_standAt (j : Nat) : s.bump.standAt j = s.standAt j := rfl
@[simp] theorem bump_copseAt (j : Nat) : s.bump.copseAt j = s.copseAt j := rfl
@[simp] theorem bump_coreAt (j : Nat) : s.bump.coreAt j = s.coreAt j := rfl
@[simp] theorem bump_clusterAt (j : Nat) : s.bump.clusterAt j = s.clusterAt j := rfl

end Sys2Proof.Machine
end

