-- ==== Sys2Proof/Laws/Results.lean ====
section
/-! SUPPORT. Reading sources and writing results: what each leaves as it was, and that a result stands where its field names. -/

namespace Sys2Proof.Machine

/-! ### States that differ in the channels of one core -/

/-- Only the channels of a core differ. -/
def OnlyChans (core : Nat) (s t : State) : Prop :=
  ∃ cs, t = s.setCore core { s.coreAt core with chans := cs } ∨ t = s

theorem onlyChans_refl (core : Nat) (s : State) : OnlyChans core s s := ⟨[], .inr rfl⟩

theorem tset_tset {α : Type} (k : Nat) (a b : α) (t : Tbl α) : tset k b (tset k a t) = tset k b t := by
  induction t with
  | nil => simp [tset]
  | cons x r ih =>
    obtain ⟨j, c⟩ := x
    simp only [tset]
    split
    · simp [tset]
    · split
      · simp [tset]
      · next h1 h2 => simp [tset, h1, h2, ih]

@[simp] theorem setCore_setCore (s : State) (k : Nat) (a b : Core) : (s.setCore k a).setCore k b = s.setCore k b := by
  simp [State.setCore, tset_tset]
@[simp] theorem setStand_setStand (s : State) (k : Nat) (a b : Stand) : (s.setStand k a).setStand k b = s.setStand k b := by
  simp [State.setStand, tset_tset]

theorem onlyChans_trans {core : Nat} {s t u : State} (h : OnlyChans core s t) (h' : OnlyChans core t u) : OnlyChans core s u := by
  obtain ⟨c, rfl | rfl⟩ := h
  · obtain ⟨d, rfl | rfl⟩ := h'
    · exact ⟨d, .inl (by simp)⟩
    · exact ⟨c, .inl rfl⟩
  · exact h'

theorem onlyChans_setChan (s : State) (core n : Nat) (c : Chan) : OnlyChans core s (s.setChan core n c) := ⟨_, .inl rfl⟩
theorem onlyChans_pop (s : State) (core n k : Nat) : OnlyChans core s (s.chanPop core n k) := onlyChans_setChan ..
theorem onlyChans_push (s : State) (core n : Nat) (es : List ChanEntry) : OnlyChans core s (s.chanPush core n es) := onlyChans_setChan ..

theorem OnlyChans.sameWorld {core : Nat} {s t : State} (h : OnlyChans core s t) : SameWorld s t := by
  obtain ⟨c, rfl | rfl⟩ := h <;> simp [SameWorld]
theorem OnlyChans.stands {core : Nat} {s t : State} (h : OnlyChans core s t) : t.stands = s.stands := by
  obtain ⟨c, rfl | rfl⟩ := h <;> simp
theorem OnlyChans.copses {core : Nat} {s t : State} (h : OnlyChans core s t) : t.copses = s.copses := by
  obtain ⟨c, rfl | rfl⟩ := h <;> simp
theorem OnlyChans.clusters {core : Nat} {s t : State} (h : OnlyChans core s t) : t.clusters = s.clusters := by
  obtain ⟨c, rfl | rfl⟩ := h <;> simp
theorem OnlyChans.free {core : Nat} {s t : State} (h : OnlyChans core s t) : t.free = s.free := by
  obtain ⟨c, rfl | rfl⟩ := h <;> simp
theorem OnlyChans.stale {core : Nat} {s t : State} (h : OnlyChans core s t) : t.stale = s.stale := by
  obtain ⟨c, rfl | rfl⟩ := h <;> simp
theorem OnlyChans.cur {core : Nat} {s t : State} (h : OnlyChans core s t) : t.cur = s.cur := by
  obtain ⟨c, rfl | rfl⟩ := h <;> simp
theorem OnlyChans.me {core : Nat} {s t : State} (h : OnlyChans core s t) : t.me = s.me := by
  simp [State.me, State.standAt, h.stands, h.cur]
theorem OnlyChans.coreAt_ne {core : Nat} {s t : State} (h : OnlyChans core s t) {c : Nat} (e : c ≠ core) : t.coreAt c = s.coreAt c := by
  obtain ⟨d, rfl | rfl⟩ := h
  · simp [setCore_coreAt_ne _ _ _ e]
  · rfl
theorem OnlyChans.coreAt {core : Nat} {s t : State} (h : OnlyChans core s t) : ∃ cs, t.coreAt core = { s.coreAt core with chans := cs } := by
  obtain ⟨d, rfl | rfl⟩ := h
  · exact ⟨d, by simp⟩
  · exact ⟨_, rfl⟩

/-! ### Sources -/

theorem srcPop_onlyChans (s : State) (k : Nat) (uni wide : Bool) (o : Opd) : OnlyChans (s.coreOf k) s (s.srcPop k uni wide o) := by
  unfold State.srcPop
  split
  · exact onlyChans_pop ..
  · exact onlyChans_refl ..

/-- Reading sources changes nothing but the channels they pop (R32, R35). -/
theorem srcs_onlyChans (k : Nat) (uni : Bool) (os : List (Opd × Bool)) : ∀ s : State, OnlyChans (s.coreOf k) s (s.srcs k uni os).2 := by
  induction os with
  | nil => intro s; exact onlyChans_refl ..
  | cons x r ih =>
    obtain ⟨o, wide⟩ := x
    intro s
    have h1 := srcPop_onlyChans s k uni wide o
    have h2 := ih (s.srcPop k uni wide o)
    have hc : (s.srcPop k uni wide o).coreOf k = s.coreOf k := by simp [State.coreOf, State.copseAt, h1.copses]
    rw [hc] at h2
    exact onlyChans_trans h1 h2
theorem srcs_length (k : Nat) (uni : Bool) (os : List (Opd × Bool)) : ∀ s : State, (s.srcs k uni os).1.length = os.length := by
  induction os with
  | nil => intro s; rfl
  | cons x r ih => obtain ⟨o, wide⟩ := x; intro s; simp [State.srcs, ih]

/-! ### Results -/

/-- The stand with results written at once. -/
@[simp] theorem putNow_standAt (s : State) (k : Nat) (p : Pend) : (s.putNow k p).standAt k =
    { (s.standAt k).put p with pend := (s.standAt k).pend.map p.contest } := by
  unfold State.putNow
  cases p.ch with
  | none => simp
  | some x => simp [State.chanPush, State.setChan]
theorem putNow_standAt_ne (s : State) (k : Nat) (p : Pend) {j : Nat} (h : j ≠ k) : (s.putNow k p).standAt j = s.standAt j := by
  unfold State.putNow
  cases p.ch with
  | none => simp [setStand_standAt_ne _ _ _ h]
  | some x => simp [State.chanPush, State.setChan, setStand_standAt_ne _ _ _ h]
theorem putNow_sameWorld (s : State) (k : Nat) (p : Pend) : SameWorld s (s.putNow k p) := by
  unfold State.putNow
  cases p.ch with
  | none => simp [SameWorld]
  | some x => simp [SameWorld, State.chanPush, State.setChan]
@[simp] theorem putNow_copses (s : State) (k : Nat) (p : Pend) : (s.putNow k p).copses = s.copses := by
  unfold State.putNow; cases p.ch <;> simp [State.chanPush, State.setChan]
@[simp] theorem putNow_clusters (s : State) (k : Nat) (p : Pend) : (s.putNow k p).clusters = s.clusters := by
  unfold State.putNow; cases p.ch <;> simp [State.chanPush, State.setChan]
@[simp] theorem putNow_free (s : State) (k : Nat) (p : Pend) : (s.putNow k p).free = s.free := by
  unfold State.putNow; cases p.ch <;> simp [State.chanPush, State.setChan]
@[simp] theorem putNow_coreOf (s : State) (k : Nat) (p : Pend) (j : Nat) : (s.putNow k p).coreOf j = s.coreOf j := by
  simp [State.coreOf, State.copseAt]
theorem putNow_coreAt_ne (s : State) (k : Nat) (p : Pend) {c : Nat} (h : c ≠ s.coreOf k) : (s.putNow k p).coreAt c = s.coreAt c := by
  unfold State.putNow
  cases p.ch with
  | none => simp
  | some x => simp [State.chanPush, State.setChan, setCore_coreAt_ne _ _ _ h]
theorem putNow_coreAt (s : State) (k : Nat) (p : Pend) : ∃ cs, (s.putNow k p).coreAt (s.coreOf k) = { s.coreAt (s.coreOf k) with chans := cs } := by
  unfold State.putNow
  cases p.ch with
  | none => exact ⟨(s.coreAt (s.coreOf k)).chans, by simp⟩
  | some x => exact ⟨_, by simp [State.chanPush, State.setChan]; rfl⟩
/-- A channel that a result names has its entries behind those it held. -/
theorem putNow_chan (s : State) (k n : Nat) (p : Pend) (es : List ChanEntry) (h : p.ch = some (n, es)) :
    ((s.putNow k p).chanAt (s.coreOf k) n).entries = (s.chanAt (s.coreOf k) n).entries ++ es := by
  unfold State.putNow
  simp [h, State.chanPush, State.setChan, State.chanAt]

/-- Putting results changes registers only. -/
theorem put_keeps (st : Stand) (p : Pend) : ∃ v sr pp q, st.put p = { st with v := v, sr := sr, p := pp, q := q } := ⟨_, _, _, _, rfl⟩

theorem tget_entryOf (ts : List Nat) (w : Nat → Word32) (t : Nat) (h : t ∈ ts) (hn : ts.Nodup) :
    tget 0 (entryOf (ts.map (fun t => (t, w t)))) t = w t := by
  induction ts with
  | nil => cases h
  | cons a r ih =>
    rw [List.map_cons, entryOf, List.filter_cons]
    have hn' := List.nodup_cons.mp hn
    by_cases e : a = t
    · subst e
      split
      · simp [tget, tfind]
      · next hz =>
        have hz' : w a = 0 := by simpa using hz
        have : ∀ l : List Nat, a ∉ l → tget 0 (entryOf (l.map (fun t => (t, w t)))) a = 0 := by
          intro l
          induction l with
          | nil => intro _; rfl
          | cons b l ihl =>
            intro hb
            rw [List.map_cons, entryOf, List.filter_cons]
            have hb' : ¬ b = a := fun e => hb (by simp [e])
            have hl := ihl (fun e => hb (List.mem_cons_of_mem _ e))
            simp only [tget, entryOf] at hl ⊢
            split
            · simp only [tfind, hb', if_false]; exact hl
            · exact hl
        rw [hz']
        exact this r hn'.1
    · have hr : t ∈ r := by
        rcases List.mem_cons.mp h with h | h
        · exact absurd h.symm e
        · exact h
      have := ih hr hn'.2
      simp only [tget, entryOf] at this ⊢
      split
      · simp only [tfind, e, if_false]; exact this
      · exact this

theorem halves (x : Word64) : (x.extractLsb' 32 32 ++ x.extractLsb' 0 32 : BitVec 64) = x := by
  ext i hi
  simp only [BitVec.getElem_append, BitVec.getElem_extractLsb', Nat.zero_add]
  split
  · rw [← BitVec.getLsbD_eq_getElem]
  · next h2 => rw [show 32 + (i - 32) = i by omega, ← BitVec.getLsbD_eq_getElem]

theorem lanes_nodup (m : Mask) : (lanes m).Nodup := List.Nodup.filter _ List.nodup_range

/-- A result stands where its field names it, in each of its threads (R33, R34, R337). -/
theorem written_outVals (s : State) (k : Nat) (uni wide : Bool) (o : Opd) (p : Mask) (val : Nat → Word64) (lane : Nat)
    (h : lane ∈ (if uni then [0] else lanes p)) :
    written (s.putNow k (outVals uni p o wide val)) k uni wide o lane = landed uni wide (val lane) := by
  unfold written landed
  cases uni with
  | true =>
    simp only [if_true, List.mem_singleton] at h
    subst h
    cases hc : o.cl with
    | true =>
      have hch : (outVals true p o wide val).ch = some (o.num.toNat, [entryOf [(0, (val 0).extractLsb' 0 32), (1, (val 0).extractLsb' 32 32)]]) := by
        simp [outVals, hc]
      simp only [putNow_coreOf, putNow_chan s k _ _ _ hch, if_true, List.reverse_append, Bool.true_or]
      have e0 : tget 0 (entryOf [(0, (val 0).extractLsb' 0 32), (1, (val 0).extractLsb' 32 32)]) 0 = (val 0).extractLsb' 0 32 :=
        tget_entryOf [0, 1] (fun i => if i = 0 then (val 0).extractLsb' 0 32 else (val 0).extractLsb' 32 32) 0 (by simp) (by decide)
      have e1 : tget 0 (entryOf [(0, (val 0).extractLsb' 0 32), (1, (val 0).extractLsb' 32 32)]) 1 = (val 0).extractLsb' 32 32 :=
        tget_entryOf [0, 1] (fun i => if i = 0 then (val 0).extractLsb' 0 32 else (val 0).extractLsb' 32 32) 1 (by simp) (by decide)
      simp only [chanWord, List.reverse_cons, List.reverse_nil, List.nil_append, List.singleton_append, List.getElem?_cons_zero, Option.getD_some, e0, e1]
      exact halves _
    | false =>
      simp [outVals, hc, Stand.put, Pend.empty]
  | false =>
    simp only [Bool.false_eq_true, if_false] at h
    have hl := (mem_lanes p lane).mp h
    cases hc : o.cl with
    | true =>
      have e (w : Nat → Word32) := tget_entryOf (lanes p) w lane h (lanes_nodup p)
      cases wide with
      | true =>
        have hch : (outVals false p o true val).ch = some (o.num.toNat, [entryOf ((lanes p).map (fun t => (t, (val t).extractLsb' 0 32))),
            entryOf ((lanes p).map (fun t => (t, (val t).extractLsb' 32 32)))]) := by simp [outVals, hc]
        simp only [putNow_coreOf, putNow_chan s k _ _ _ hch, if_true, List.reverse_append, Bool.false_or, Bool.false_eq_true, if_false]
        simp only [chanWord, List.reverse_cons, List.reverse_nil, List.nil_append, List.cons_append, List.getElem?_cons_zero,
          List.getElem?_cons_succ, Option.getD_some, e]
        exact halves _
      | false =>
        have hch : (outVals false p o false val).ch = some (o.num.toNat, [entryOf ((lanes p).map (fun t => (t, (val t).extractLsb' 0 32)))]) := by
          simp [outVals, hc]
        simp only [putNow_coreOf, putNow_chan s k _ _ _ hch, if_true, List.reverse_append, Bool.false_or, Bool.false_eq_true, if_false]
        simp only [chanWord, List.reverse_cons, List.reverse_nil, List.nil_append, List.singleton_append, List.getElem?_cons_zero, Option.getD_some, e]
        ext i hi
        simp [BitVec.getLsbD_setWidth]
    | false =>
      cases wide with
      | true =>
        have h0 : tfind (128 * o.num.toNat + lane) (tputs ((lanes p).flatMap (fun t =>
            [(128 * o.num.toNat + t, (val t).extractLsb' 0 32), (128 * (o.num.toNat + 1) + t, (val t).extractLsb' 32 32)])) (s.standAt k).v)
            = some ((val lane).extractLsb' 0 32) := by
          apply tfind_tputs_mem
          · exact List.mem_flatMap.mpr ⟨lane, h, by simp⟩
          · intro w hw e
            obtain ⟨t, ht, hw⟩ := List.mem_flatMap.mp hw
            have htl := (mem_lanes p t).mp ht
            simp only [List.mem_cons, List.not_mem_nil, or_false] at hw
            rcases hw with rfl | rfl
            · simp only at e; rw [show t = lane by omega]
            · simp only at e; omega
        have h1 : tfind (128 * (o.num.toNat + 1) + lane) (tputs ((lanes p).flatMap (fun t =>
            [(128 * o.num.toNat + t, (val t).extractLsb' 0 32), (128 * (o.num.toNat + 1) + t, (val t).extractLsb' 32 32)])) (s.standAt k).v)
            = some ((val lane).extractLsb' 32 32) := by
          apply tfind_tputs_mem
          · exact List.mem_flatMap.mpr ⟨lane, h, by simp⟩
          · intro w hw e
            obtain ⟨t, ht, hw⟩ := List.mem_flatMap.mp hw
            have htl := (mem_lanes p t).mp ht
            simp only [List.mem_cons, List.not_mem_nil, or_false] at hw
            rcases hw with rfl | rfl
            · simp only at e; omega
            · simp only at e; rw [show t = lane by omega]
        simp only [putNow_standAt, Stand.put, outVals, hc, Bool.false_eq_true, if_false, if_true, tget, h0, h1, Option.getD_some, Bool.or_true]
        exact halves _
      | false =>
        have h0 : tfind (128 * o.num.toNat + lane) (tputs ((lanes p).flatMap (fun t =>
            [(128 * o.num.toNat + t, (val t).extractLsb' 0 32)])) (s.standAt k).v)
            = some ((val lane).extractLsb' 0 32) := by
          apply tfind_tputs_mem
          · exact List.mem_flatMap.mpr ⟨lane, h, by simp⟩
          · intro w hw e
            obtain ⟨t, ht, hw⟩ := List.mem_flatMap.mp hw
            simp only [List.mem_cons, List.not_mem_nil, or_false] at hw
            subst hw
            simp only at e; rw [show t = lane by omega]
        simp only [putNow_standAt, Stand.put, outVals, hc, Bool.false_eq_true, if_false, tget, h0, Option.getD_some, Bool.or_false]
        ext i hi
        simp [BitVec.getLsbD_setWidth]

end Sys2Proof.Machine
end

