-- ==== Sys2Proof/Laws/Retire.lean ====
section
/-! SUPPORT. What an issued word leaves beside its own effect: the stand's place and counts, the marks of its core, the CHARGE of its
cluster, the stale window, and nothing else. -/

namespace Sys2Proof.Machine

variable (s : State) (k : Nat)

/-! ### Counting an issue -/

theorem countIssue_sameWorld (w : Nat) (y : Bool) : SameWorld s (s.countIssue k w y) := by
  by_cases h : w = 0 <;> simp [State.countIssue, SameWorld, h]
@[simp] theorem countIssue_stands (w : Nat) (y : Bool) : (s.countIssue k w y).stands = s.stands := by
  by_cases h : w = 0 <;> simp [State.countIssue, h]
@[simp] theorem countIssue_standAt (w : Nat) (y : Bool) (j : Nat) : (s.countIssue k w y).standAt j = s.standAt j := by
  simp [State.standAt]
@[simp] theorem countIssue_copses (w : Nat) (y : Bool) : (s.countIssue k w y).copses = s.copses := by
  by_cases h : w = 0 <;> simp [State.countIssue, h]
@[simp] theorem countIssue_free (w : Nat) (y : Bool) : (s.countIssue k w y).free = s.free := by
  by_cases h : w = 0 <;> simp [State.countIssue, h]
@[simp] theorem countIssue_stale (w : Nat) (y : Bool) : (s.countIssue k w y).stale = s.stale := by
  by_cases h : w = 0 <;> simp [State.countIssue, h]
theorem countIssue_coreAt_ne (w : Nat) (y : Bool) {c : Nat} (h : c ≠ s.coreOf k) : (s.countIssue k w y).coreAt c = s.coreAt c := by
  by_cases e : w = 0 <;> simp [State.countIssue, e, setCore_coreAt_ne _ _ _ h]
theorem countIssue_coreAt (w : Nat) (y : Bool) : (s.countIssue k w y).coreAt (s.coreOf k) =
    { s.coreAt (s.coreOf k) with lastHeavy := decide (256 ≤ w), lastYield := if y then some k else none } := by
  by_cases h : w = 0 <;> simp [State.countIssue, h]
theorem countIssue_clusterAt_ne (w : Nat) (y : Bool) {c : Nat} (h : c ≠ clusterOf (s.coreOf k)) :
    (s.countIssue k w y).clusterAt c = s.clusterAt c := by
  by_cases e : w = 0 <;> simp [State.countIssue, e, setCluster_clusterAt_ne _ _ _ h]
theorem countIssue_clusterAt (w : Nat) (y : Bool) :
    SameCluster (s.clusterAt (clusterOf (s.coreOf k))) ((s.countIssue k w y).clusterAt (clusterOf (s.coreOf k))) := by
  by_cases h : w = 0 <;> simp [State.countIssue, SameCluster, h]

/-! ### Any issued word -/

theorem issued_sameWorld (w : Nat) (y : Bool) (pre : Stand) : SameWorld s (s.issued k w y pre) := by
  have h := countIssue_sameWorld ((s.setStand k { s.standAt k with issueWait := 0, ready := 0, stall := 0, last := pre.spot, issues := (s.standAt k).issues + 1, rel := none }).ageStale k) k w y
  simpa [SameWorld, State.issued, State.ageStale] using h
@[simp] theorem issued_standAt (w : Nat) (y : Bool) (pre : Stand) : (s.issued k w y pre).standAt k =
    { s.standAt k with issueWait := 0, ready := 0, stall := 0, last := pre.spot, issues := (s.standAt k).issues + 1, rel := none } := by
  simp [State.issued, State.ageStale, State.standAt]
theorem issued_standAt_ne (w : Nat) (y : Bool) (pre : Stand) {j : Nat} (h : j ≠ k) : (s.issued k w y pre).standAt j = s.standAt j := by
  simp [State.issued, State.ageStale, State.standAt, tget_tset_ne _ h]
@[simp] theorem issued_copses (w : Nat) (y : Bool) (pre : Stand) : (s.issued k w y pre).copses = s.copses := by
  simp [State.issued, State.ageStale]
@[simp] theorem issued_free (w : Nat) (y : Bool) (pre : Stand) : (s.issued k w y pre).free = s.free := by
  simp [State.issued, State.ageStale]
theorem issued_coreAt_ne (w : Nat) (y : Bool) (pre : Stand) {c : Nat} (h : c ≠ s.coreOf k) : (s.issued k w y pre).coreAt c = s.coreAt c := by
  rw [State.issued, countIssue_coreAt_ne _ _ _ _ (by exact h)]; rfl
theorem issued_coreAt (w : Nat) (y : Bool) (pre : Stand) : (s.issued k w y pre).coreAt (s.coreOf k) =
    { s.coreAt (s.coreOf k) with lastHeavy := decide (256 ≤ w), lastYield := if y then some k else none } := by
  have := countIssue_coreAt ((s.setStand k { s.standAt k with issueWait := 0, ready := 0, stall := 0, last := pre.spot, issues := (s.standAt k).issues + 1, rel := none }).ageStale k) k w y
  exact this
theorem issued_clusterAt_ne (w : Nat) (y : Bool) (pre : Stand) {c : Nat} (h : c ≠ clusterOf (s.coreOf k)) :
    (s.issued k w y pre).clusterAt c = s.clusterAt c := by
  rw [State.issued, countIssue_clusterAt_ne _ _ _ _ (by exact h)]; rfl
theorem issued_clusterAt (w : Nat) (y : Bool) (pre : Stand) :
    SameCluster (s.clusterAt (clusterOf (s.coreOf k))) ((s.issued k w y pre).clusterAt (clusterOf (s.coreOf k))) := by
  have := countIssue_clusterAt ((s.setStand k { s.standAt k with issueWait := 0, ready := 0, stall := 0, last := pre.spot, issues := (s.standAt k).issues + 1, rel := none }).ageStale k) k w y
  exact this

/-! ### A word that goes on behind itself -/

variable (i : Instr) (f : Form) (pre : Stand)

/-- The stand behind an issued word, before the marks of the issue. -/
def behindWord : Stand :=
  let st := (s.standAt k).advance (s.kindOf k) (wordBytes i)
  if f.control then st.afterTransfer else st
theorem retire_eq : s.retire k i f pre = (s.setStand k (behindWord s k i f)).issued k
    (if f.h.uni then 0 else f.weight * popCount pre.a.toNat 128) (pre.yieldsHere || f.yields) pre := by
  have e : ∀ a b : Stand, (s.setStand k a).setStand k b = s.setStand k b := by
    intro a b
    have key : ∀ (t : Tbl Stand), tset k b (tset k a t) = tset k b t := by
      intro t
      induction t with
      | nil => simp [tset]
      | cons x r ih =>
        obtain ⟨j, c⟩ := x
        simp only [tset]
        split
        · simp [tset]
        · split
          · simp [tset]
          · next h1 h2 => simp [tset, h1, h2, ih]
    simp only [State.setStand, key]
  cases h : f.control <;> simp [State.retire, behindWord, State.afterWord, h, e]

theorem retire_sameWorld : SameWorld s (s.retire k i f pre) := by
  rw [retire_eq]
  exact issued_sameWorld (s.setStand k (behindWord s k i f)) k _ _ pre
@[simp] theorem retire_standAt : (s.retire k i f pre).standAt k =
    { behindWord s k i f with issueWait := 0, ready := 0, stall := 0, last := pre.spot, issues := (behindWord s k i f).issues + 1, rel := none } := by
  rw [retire_eq, issued_standAt, setStand_standAt]
theorem retire_standAt_ne {j : Nat} (h : j ≠ k) : (s.retire k i f pre).standAt j = s.standAt j := by
  rw [retire_eq, issued_standAt_ne _ _ _ _ _ h, setStand_standAt_ne _ _ _ h]
@[simp] theorem retire_copses : (s.retire k i f pre).copses = s.copses := by rw [retire_eq, issued_copses]; rfl
@[simp] theorem retire_free : (s.retire k i f pre).free = s.free := by rw [retire_eq, issued_free]; rfl
@[simp] theorem retire_coreOf (j : Nat) : (s.retire k i f pre).coreOf j = s.coreOf j := by
  simp [State.coreOf, State.copseAt]
theorem retire_coreAt_ne {c : Nat} (h : c ≠ s.coreOf k) : (s.retire k i f pre).coreAt c = s.coreAt c := by
  rw [retire_eq, issued_coreAt_ne _ _ _ _ _ (by exact h)]; rfl
theorem retire_coreAt : ∃ a b, (s.retire k i f pre).coreAt (s.coreOf k) = { s.coreAt (s.coreOf k) with lastHeavy := a, lastYield := b } := by
  rw [retire_eq]
  exact ⟨_, _, issued_coreAt (s.setStand k (behindWord s k i f)) k _ _ pre⟩
theorem retire_clusterAt_ne {c : Nat} (h : c ≠ clusterOf (s.coreOf k)) : (s.retire k i f pre).clusterAt c = s.clusterAt c := by
  rw [retire_eq, issued_clusterAt_ne _ _ _ _ _ (by exact h)]; rfl
theorem retire_clusterAt :
    SameCluster (s.clusterAt (clusterOf (s.coreOf k))) ((s.retire k i f pre).clusterAt (clusterOf (s.coreOf k))) := by
  rw [retire_eq]
  exact issued_clusterAt (s.setStand k (behindWord s k i f)) k _ _ pre
/-- Channels are as they were before the word went on. -/
@[simp] theorem retire_chanAt (c n : Nat) : (s.retire k i f pre).chanAt c n = s.chanAt c n := by
  unfold State.chanAt
  by_cases h : c = s.coreOf k
  · subst h
    obtain ⟨a, b, e⟩ := retire_coreAt s k i f pre
    rw [e]
  · rw [retire_coreAt_ne _ _ _ _ _ h]

/-- AfterTransfer changes only A, the stack and RB. -/
theorem afterTransfer_keeps (st : Stand) : ∃ a stack rb, st.afterTransfer = { st with a := a, stack := stack, rb := rb } := by
  unfold Stand.afterTransfer Stand.fixRb
  split
  · exact ⟨_, _, _, rfl⟩
  · split
    · split
      · split
        · exact ⟨_, _, _, rfl⟩
        · exact ⟨_, _, _, rfl⟩
      · exact ⟨_, _, _, rfl⟩
    · exact ⟨_, _, _, rfl⟩

/-- Going on changes only the place in the code. -/
theorem advance_keeps (st : Stand) (kd : Kind) (n : Nat) : ∃ place clpos,
    st.advance kd n = { st with pc := st.pc + BitVec.ofNat 64 n, place := place, clpos := clpos } := by
  unfold Stand.advance
  cases kd with
  | heart => exact ⟨_, _, rfl⟩
  | sap =>
    simp only
    split
    · exact ⟨_, _, rfl⟩
    · exact ⟨_, _, rfl⟩

theorem behindWord_keeps : ∃ a stack rb place clpos, behindWord s k i f =
    { s.standAt k with a := a, stack := stack, rb := rb, place := place, clpos := clpos, pc := (s.standAt k).pc + BitVec.ofNat 64 (wordBytes i) } := by
  unfold behindWord
  obtain ⟨p, c, e⟩ := advance_keeps (s.standAt k) (s.kindOf k) (wordBytes i)
  simp only [e]
  split
  · obtain ⟨a, b, r, e2⟩ := afterTransfer_keeps
      { s.standAt k with pc := (s.standAt k).pc + BitVec.ofNat 64 (wordBytes i), place := p, clpos := c }
    exact ⟨a, b, r, p, c, by rw [e2]⟩
  · exact ⟨_, _, _, p, c, rfl⟩

/-- The program counter behind a word that goes on (R26): the next word. -/
theorem retire_pc : ((s.retire k i f pre).standAt k).pc = (s.standAt k).pc + BitVec.ofNat 64 (wordBytes i) := by
  obtain ⟨a, b, r, p, c, e⟩ := behindWord_keeps s k i f
  rw [retire_standAt, e]

/-- The registers and what is outstanding are those of the effect. -/
theorem retire_regs : let st := (s.retire k i f pre).standAt k
    st.v = (s.standAt k).v ∧ st.sr = (s.standAt k).sr ∧ st.p = (s.standAt k).p ∧ st.q = (s.standAt k).q
      ∧ st.flags = (s.standAt k).flags ∧ st.pend = (s.standAt k).pend := by
  obtain ⟨a, b, r, p, c, e⟩ := behindWord_keeps s k i f
  simp only [retire_standAt, e, and_self]

/-- A word outside class 0x0 leaves all of the stand but its place in the code and the marks of its issue. -/
theorem retire_stand (h : f.control = false) : ∃ place clpos, (s.retire k i f pre).standAt k =
    { s.standAt k with place := place, clpos := clpos, pc := (s.standAt k).pc + BitVec.ofNat 64 (wordBytes i), issueWait := 0, ready := 0,
                       stall := 0, last := pre.spot, issues := (s.standAt k).issues + 1, rel := none } := by
  obtain ⟨p, c, e⟩ := advance_keeps (s.standAt k) (s.kindOf k) (wordBytes i)
  refine ⟨p, c, ?_⟩
  rw [retire_standAt]
  simp only [behindWord, h, Bool.false_eq_true, if_false, e]

end Sys2Proof.Machine
end

