-- ==== Sys2Proof/Laws/Words.lean ====
section
/-! SUPPORT. What the issue of a word comes to, once for every word: its effect done, long-latency, gone elsewhere, trapped or not yet;
and what the shared operations of the issue leave as it was. -/

namespace Sys2Proof.Machine

/-- The meaning of an encoded word is the issue of its form and own effect. -/
theorem exec_word {i : Instr} {s : State} {f : Form} {b : State → Eff} (h : wordOf i s = some (f, b)) :
    exec i s = .next (s.issueWord i f b) := by
  cases i
  all_goals first
    | (cases h; rfl)
    | (simp only [wordOf, reduceCtorEq] at h)

theorem acts_issues {i : Instr} {s : State} (h : Acts s i) : Issues s i := by
  unfold Acts at h
  split at h
  · exact h.1
  · exact h.elim

/-- A word that acts comes to its effect. -/
theorem issueWord_acts {i : Instr} {s : State} {f : Form} {b : State → Eff} (hw : wordOf i s = some (f, b)) (h : Acts s i) :
    s.issueWord i f b = s.effect s.cur i f b := by
  simp only [Acts, Issues, hw] at h
  obtain ⟨⟨hc, hi, hb, _, _⟩, hg⟩ := h
  unfold State.issueWord
  simp only [State.me] at hc hg
  simp only [hc, Bool.not_true, Bool.false_eq_true, if_false, hi, lowest, hb]
  split
  · next hu =>
    simp only [Bool.and_eq_true, Bool.not_eq_true'] at hu
    rw [hg hu.1] at hu; simp at hu
  · rfl

theorem effect_acts {i : Instr} {s : State} {f : Form} {b : State → Eff} (hw : wordOf i s = some (f, b)) (h : Acts s i) :
    exec i s = .next (match b s with
      | .trap r => s.raise s.cur r s.me.pc
      | .stay u => u.stalled s.cur (u.stayReason s.cur i)
      | .done u => done s u i
      | .goto u => gone s u i
      | .long u p => started s u i p) := by
  rw [exec_word hw, issueWord_acts hw h]
  simp only [Acts, Issues, hw] at h
  obtain ⟨⟨_, _, _, hf, hr⟩, _⟩ := h
  unfold State.effect
  simp only [hf, hr, Bool.not_false, Bool.true_and, Bool.not_true, Bool.false_eq_true, if_false, Bool.false_and, done, gone, started, hw,
    State.me] <;> (cases b s <;> rfl)

/-- A word whose effect is done goes on behind itself. -/
theorem exec_done {i : Instr} {s u : State} {f : Form} {b : State → Eff} (hw : wordOf i s = some (f, b)) (h : Acts s i)
    (hb : b s = .done u) : exec i s = .next (done s u i) := by rw [effect_acts hw h, hb]
/-- A control transfer goes on where it says. -/
theorem exec_gone {i : Instr} {s u : State} {f : Form} {b : State → Eff} (hw : wordOf i s = some (f, b)) (h : Acts s i)
    (hb : b s = .goto u) : exec i s = .next (gone s u i) := by rw [effect_acts hw h, hb]
/-- A long-latency word goes on with its results outstanding. -/
theorem exec_started {i : Instr} {s u : State} {f : Form} {b : State → Eff} {p : Pend} (hw : wordOf i s = some (f, b)) (h : Acts s i)
    (hb : b s = .long u p) : exec i s = .next (started s u i p) := by rw [effect_acts hw h, hb]
/-- A word that traps takes its trap. -/
theorem exec_trapped {i : Instr} {s : State} {f : Form} {b : State → Eff} {r : TrapReq} (hw : wordOf i s = some (f, b)) (h : Acts s i)
    (hb : b s = .trap r) : exec i s = .next (s.raise s.cur r s.me.pc) := by rw [effect_acts hw h, hb]

/-- A word of a stand that cannot issue changes nothing. -/
theorem exec_idle {i : Instr} {s : State} {f : Form} {b : State → Eff} (hw : wordOf i s = some (f, b)) (h : s.me.canIssue = false) :
    exec i s = .next s := by
  rw [exec_word hw]
  simp only [State.me] at h
  simp [State.issueWord, h]

/-- An illegal word traps with the lowest of its causes (R54). -/
theorem exec_illegal {i : Instr} {s : State} {f : Form} {b : State → Eff} {c : Nat} (hw : wordOf i s = some (f, b))
    (hc : s.me.canIssue = true) (hi : lowest (s.illCauses s.cur i f) = some c) :
    exec i s = .next (s.raise s.cur { trapOf i 0 c with addr := s.me.pc, fmask := s.me.fmask f.h } s.me.pc) := by
  rw [exec_word hw]
  simp only [State.me] at *
  simp [State.issueWord, hc, hi]

/-- With nothing stored there is no window to count. -/
@[simp] theorem ownWindow_self (s : State) (k : Nat) : s.ownWindow k s.stale.length = s := by simp [State.ownWindow]
/-- A uniform word whose guard is false goes on with no effect (R29). -/
theorem exec_skipped {i : Instr} {s : State} {f : Form} {b : State → Eff} (hw : wordOf i s = some (f, b)) (h : Issues s i)
    (hu : f.h.uni = true) (hg : s.me.guard f.h = false) : exec i s = .next (done s s i) := by
  rw [exec_word hw]
  simp only [Issues, hw] at h
  obtain ⟨hc, hi, hb, _, _⟩ := h
  simp only [done, hw, ownWindow_self]
  simp only [State.me] at hc hg
  simp [State.issueWord, hc, hi, hb, hu, hg, lowest, State.me]

end Sys2Proof.Machine
end

