-- ==== Sys2Proof/Tests/Slice0.lean ====
section
/-! SUPPORT. Small tests: well-formedness, words written out from the encodings of spec/02 and the examples of the chapters, single steps on
small states, and a witness for the hypotheses of each obligation. -/

namespace Sys2Proof.Tests

set_option Elab.async false

open Sys2Proof Sys2Proof.Machine

/-! ### Operands, heads and states of the tests -/

def vR (n : Nat) : Opd := ⟨BitVec.ofNat 8 n, false, false, false⟩
def sR (n : Nat) : Opd := ⟨BitVec.ofNat 8 n, true, false, false⟩
/-- Every thread, no guard, heartwood and sapwood. -/
def hV : Head := ⟨false, 7, false, .heart 15 15⟩
def hU : Head := ⟨true, 7, false, .heart 15 15⟩
def pV : Head := ⟨false, 7, false, .sap 0 0⟩
def pU : Head := ⟨true, 7, false, .sap 0 0⟩

/-- One stand, with every thread active, on a core of a kind. -/
def on (k : Kind) : State :=
  let s := placeWord State.reset 0
  let c := placeCopse k
  { s with
    cur := 16
    script := []
    copses := [(1, c)]
    cores := [(c.core, Core.init.redeal [1])] }
def heart : State := on .heart
def sap : State := on .sap
/-- The same with the stand changed. -/
def withMe (s : State) (f : Stand → Stand) : State := s.setMe (f s.me)
/-- The state that an instruction leaves. -/
def after (i : Instr) (s : State) : State := match exec i s with | .next t => t | _ => s
def okB (s : State) (i : Instr) (f : Form) : Bool :=
  s.me.canIssue && s.illCauses s.cur i f == [] && !s.blocked s.cur i f && !s.chanFault s.cur f && s.chanReady s.cur f &&
    (!f.h.uni || s.me.guard f.h)
theorem acts_of {s : State} {i : Instr} {f : Form} {b : State → Eff} (hw : wordOf i s = some (f, b)) (h : okB s i f = true) : Acts s i := by
  simp only [okB, Bool.and_eq_true, beq_iff_eq, Bool.not_eq_true', Bool.or_eq_true] at h
  unfold Acts Issues
  rw [hw]
  refine ⟨⟨h.1.1.1.1.1, h.1.1.1.1.2, h.1.1.1.2, h.1.1.2, h.1.2⟩, fun hu => ?_⟩
  rcases h.2 with e | e
  · simp [hu] at e
  · exact e

/-- What Acts says, as a Bool. -/
def actsB (s : State) (i : Instr) : Bool := match wordOf i s with | some x => okB s i x.1 | none => false
theorem acts_ofB {s : State} {i : Instr} (h : actsB s i = true) : Acts s i := by
  unfold actsB at h
  split at h
  · next x hx => exact acts_of (b := x.2) hx h
  · cases h
theorem acts_all {s : State} {l : List Instr} (h : l.all (actsB s) = true) : ∀ i ∈ l, Acts s i :=
  fun i hi => acts_ofB (List.all_eq_true.mp h i hi)
/-- A pair of a predicate register and its negation, a channel, no operand. -/
def pR (n : Nat) : Opd := ⟨BitVec.ofNat 8 n, true, false, false⟩
def no : Opd := Opd.zero
/-- Uniform and vector heads that set flag 2. -/
def hL : Head := ⟨true, 7, false, .heart 15 2⟩
def hVL : Head := ⟨false, 7, false, .heart 15 2⟩
def withCopse (s : State) (f : Copse → Copse) : State := s.setMyCopse (f s.myCopse)
def withLaunch (s : State) (f : Launch → Launch) : State := { s with launches := tset 1 (f (tget Launch.init s.launches 1)) s.launches }
def withStage (s : State) (f : Stage → Stage) : State := withLaunch s (fun l => { l with stages := l.stages.map f })
/-- The uniform base register s8 holds an address. -/
def based (s : State) (a : Word64) : State := withMe s (fun st => { st with sr := [(8, a)] })
def data : Nat := 0x40002000
/-- Memory words by base s8: vector and uniform. -/
def mV (ty : BitVec 5) (sm : BitVec 8) (ord : BitVec 2) : M96 := ⟨hV, vR 4, sR 8, 0, ty, sm, 0, ord, 0, 0⟩
def mU (ty : BitVec 5) (sm : BitVec 8) (ord : BitVec 2) : M96 := ⟨hU, sR 4, sR 8, 0, ty, sm, 0, ord, 0, 0⟩
def dataS : State := { (based heart (BitVec.ofNat 64 data)) with frames := memWrite heart.frames data 0x8877665544332211 8 }
/-- No L1 holds a line, no line is cached. -/
def cold (s : State) : Bool := s.dir == [] && s.cores.all (fun c => c.2.l1 == [])
theorem tfind_mem {α : Type} {k : Nat} {v : α} : ∀ {t : Tbl α}, tfind k t = some v → ∃ c ∈ t, c.2 = v
  | [], h => by simp [tfind] at h
  | c :: r, h => by
    unfold tfind at h
    split at h
    · exact ⟨c, by simp, by simpa using h⟩
    · obtain ⟨d, hd, e⟩ := tfind_mem h
      exact ⟨d, by simp [hd], e⟩
theorem tget_prop {α : Type} (p : α → Prop) (d : α) (k : Nat) (t : Tbl α) (hd : p d) (h : ∀ c ∈ t, p c.2) : p (tget d t k) := by
  unfold tget
  cases e : tfind k t with
  | none => simpa using hd
  | some v =>
    obtain ⟨c, hc, rfl⟩ := tfind_mem e
    simpa using h c hc
theorem cold_l1 {s : State} (h : cold s = true) (c line : Nat) : s.l1At c line = none := by
  simp only [cold, Bool.and_eq_true, List.all_eq_true, beq_iff_eq] at h
  have : (s.coreAt c).l1 = [] := tget_prop (fun x : Core => x.l1 = []) _ _ _ rfl (fun x hx => h.2 x hx)
  unfold State.l1At
  rw [this]
  rfl
theorem cold_dir {s : State} (h : cold s = true) (line : Nat) : s.dirAt line = Dir.init := by
  simp only [cold, Bool.and_eq_true, beq_iff_eq] at h
  unfold State.dirAt
  rw [h.1]
  rfl
/-- Every line is settled in such a state. -/
theorem cold_settled {s : State} (h : cold s = true) (core line : Nat) : Settled s core line := by
  refine ⟨fun c _ l hl => ?_, fun r hr => ?_, fun _ => ⟨?_, fun c => cold_l1 h c line⟩⟩
  · rw [cold_l1 h] at hl; cases hl
  · rw [cold_dir h] at hr; cases hr
  · rw [cold_dir h]; rfl
theorem cold_away {s : State} (h : cold s = true) (core line : Nat) : NoneAway s core line := by
  intro c _ l hl
  rw [cold_l1 h] at hl
  cases hl
/-- A trap vector table (R400) at 0x40004000 with both handlers of a class at 0x40005000; the causes of the traps taken. -/
def handled (cls : Nat) (s : State) : State :=
  { (withLaunch s (fun l => { l with tvt := 0x40004000 })) with
    frames := memWrite (memWrite s.frames (0x40004000 + 16 * cls) 0x40005000 8) (0x40004008 + 16 * cls) 0x40005000 8 }
def trapsOf (s : State) : List (Nat × Nat) := s.me.frames.map (fun f => (f.record.cls.toNat, f.record.cause.toNat))
/-- Scratchpad: s8 is an offset; line 1 empty under a mapped region, line 2 empty without filler, line 3 marked, 512 lines. -/
def padL : LineSt := { LineSt.init with full := false }
def pads : Tbl LineSt := [(1, ⟨false, false, false, some .region, 1, 0⟩), (2, padL), (3, { LineSt.init with bm := true })]
def padC (c : Copse) : Copse := { c with lines := pads, regions := [(0, ⟨128, 128, data, 0, 0⟩)] }
def padS (a : Word64) : State := based (withCopse { dataS with cur := 16 } padC) a
/-- One row of 8 KiB at data (R326). -/
def fillDesc : BitVec 128 := 0x8000_2000_0000_0000_0000_0000_4000_2000
/-- Interface 0 with rings of 16 entries in host memory, and one command in its submission ring. -/
def ringed (v : Vi) : Vi := { v with sqBase := 1, sq := ⟨4, 1, 0⟩, cqBase := 2, cq := ⟨4, 0, 0⟩, eqBase := 3, eq := ⟨4, 0, 0⟩ }
def commanded (op tag : Nat) (s : State) : State :=
  { s with vis := tset 0 (ringed (s.viAt 0)) s.vis, hostMem := memWrite s.hostMem 4096 (op + tag * 65536) 4 }

/-! ### Well-formedness: an ill-formed term for each check -/

theorem test_wf_add : (Instr.add ⟨hV, vR 1, vR 2, vR 3, 2, 0⟩).wf = true := by decide
/-- A destination with PK, in each format that has one (R32). -/
theorem test_wf_pk : (Instr.add ⟨hV, ⟨1, false, false, true⟩, vR 2, vR 3, 2, 0⟩).wf = false ∧
    (Instr.addImm ⟨hV, ⟨1, false, false, true⟩, vR 2, 3⟩).wf = false ∧ (Instr.mad ⟨hV, ⟨1, false, false, true⟩, vR 2, vR 3, vR 4, 2, 2, 0, 0⟩).wf = false ∧
    (Instr.mrel ⟨hU, ⟨1, false, false, true⟩, no, no, no, 0, 0⟩).wf = false ∧ (Instr.cpy ⟨hU, ⟨1, false, false, true⟩, no, no, 0, 0⟩).wf = false := by decide
/-- A short field with UF. -/
theorem test_wf_uf : (Instr.addImm ⟨hV, sR 1, vR 2, 3⟩).wf = false ∧ (Instr.addImm ⟨hV, vR 1, sR 2, 3⟩).wf = false := by
  decide
/-- A MOD that belongs to another form of the opcode. -/
theorem test_wf_mod : (Instr.fenceAr ⟨hU, no, no, no, 0, 1⟩).wf = false ∧ (Instr.red ⟨hV, vR 1, vR 2, 0, 6, 0, 0, 0, 0, 0b010000⟩).wf = false ∧
    (Instr.redCell ⟨hV, vR 1, vR 2, 0, 6, 0, 0, 0, 0, 0⟩).wf = false ∧ (Instr.mres ⟨hU, no, no, no, no, 0, 0x40⟩).wf = false ∧
    (Instr.cpyTIn ⟨hU, no, no, no, no, 0, 1⟩).wf = false ∧ (Instr.vote ⟨hV, vR 1, vR 2, no, 0, 3⟩).wf = false ∧
    (Instr.movFirst ⟨hU, sR 1, sR 2, no, 0xA, 1⟩).wf = false := by decide
/-- Header slots: a reserved flag, one flag twice, WAIT at a graft point, GID elsewhere (R38, R40). -/
theorem test_wf_header : (Instr.clauseHeader ⟨0xFFF, 1, 2, 3, false, true, 5⟩).wf = true ∧ (Instr.clauseHeader ⟨0, 0xC, 2, 3, false, false, 0⟩).wf = false ∧
    (Instr.clauseHeader ⟨0, 2, 2, 3, false, false, 0⟩).wf = false ∧ (Instr.clauseHeader ⟨0, 0xF, 0xF, 3, false, false, 0⟩).wf = true ∧
    (Instr.clauseHeader ⟨0xFFE, 1, 2, 3, false, true, 5⟩).wf = false ∧ (Instr.clauseHeader ⟨0, 1, 2, 3, false, false, 5⟩).wf = false := by decide
/-- A row of the table that is an event has no word. -/
theorem test_wf_event : (Instr.standEnd 16).wf = false ∧ encode (.standEnd 16) = none := by decide

/-! ### Words written out from the encodings (R26-R39 and the examples of the chapters) -/

/-- `?!p1 bra` 0x20 bytes back: IMM 0xFFFF8 (R97). -/
theorem test_decode_bra : decode .heart 0xFFFF800001FF2001 = .instr (.bra ⟨⟨false, 1, true, .heart 15 15⟩, no, no, 0xFFFF8⟩) 8 ∧
    decode .sap 0x00FFFF8000012001 = .instr (.bra ⟨⟨false, 1, true, .sap 0 0⟩, no, no, 0xFFFF8⟩) 8 := by decide +kernel
/-- `claim s4, q1, set=f3` (R85). -/
theorem test_decode_claim : decode .heart 0x00004002087EF101 = .instr (.claim ⟨⟨true, 7, false, .heart 15 3⟩, sR 4, no, vR 1, 0, 0⟩) 8 ∧
    decode .sap 0x010000400208F101 = .instr (.claim ⟨⟨true, 7, false, .sap 1 0⟩, sR 4, no, vR 1, 0, 0⟩) 8 := by decide +kernel
/-- `graft.open` and `migr.cancel` (R133). -/
theorem test_decode_graft : decode .heart 0x4000000001FEF111 = .instr (.graftOpen ⟨hU, no, no, no, 0, 1⟩) 8 ∧
    decode .sap 0x008000000000F115 = .instr (.migrCancel ⟨pU, no, no, no, 0, 2⟩) 8 := by decide +kernel
/-- `ld.g.f32 v4, [s2 + 0x0], set=f0` (R265). -/
theorem test_decode_ldg : decode .sap 0x01000007000000102008E802 = .instr (.ldG ⟨⟨false, 7, false, .sap 1 0⟩, vR 4, sR 2, 0, 0xE, 0, 0, 0, 0, 0⟩) 12 ∧
    decode .heart 0x0000070000001020081EE802 = .instr (.ldG ⟨⟨false, 7, false, .heart 15 0⟩, vR 4, sR 2, 0, 0xE, 0, 0, 0, 0, 0⟩) 12 := by decide +kernel
/-- A uniform `cmo.cinv.rep` with DR 0x106, AB 0x104, OFS 0x100 and MOD 1 (R37, R286). -/
theorem test_decode_cmo : decode .sap 0x0004000000008010420CF90A = .instr (.cmoCinv ⟨pU, sR 6, sR 4, 0x100, 0, 0, 0, 0, 0, 1⟩) 12 ∧
    decode .heart 0x04000000008010420DFEF90A = .instr (.cmoCinv ⟨hU, sR 6, sR 4, 0x100, 0, 0, 0, 0, 0, 1⟩) 12 := by decide +kernel
/-- `fence.ar.sc=CO`, `fence.rel.sc=FD`, `fence.m.sc=WF` (R312). -/
theorem test_decode_fence : decode .sap 0x000000000002F921 = .instr (.fenceAr ⟨pU, vR 1, no, no, 0, 0⟩) 8 ∧
    decode .heart 0x8000000009FEF921 = .instr (.fenceRel ⟨hU, vR 4, no, no, 0, 2⟩) 8 ∧
    decode .heart 0x0000000011FEF925 = .instr (.fenceM ⟨hU, vR 8, no, no, 0, 0⟩) 8 := by decide +kernel
/-- `chsend c50, s3`, uniform (R340): short operands. -/
theorem test_decode_chsend : decode .sap 0x000003200C00FA1D = .instr (.chsend ⟨pU, no, vR 3, 50⟩) 8 ∧
    decode .heart 0x0003200C01FEFA1D = .instr (.chsend ⟨hU, no, vR 3, 50⟩) 8 := by decide +kernel
/-- `atom.add.sc=WF.n32 v6, [s2 + 0x10], set=f0` (R348). -/
theorem test_decode_atom : decode .sap 0x010000830000081020_0CEB02 = .instr (.atom ⟨⟨false, 7, false, .sap 1 0⟩, vR 6, sR 2, 0x10, 6, 8, 0, 0, 0, 0⟩) 12 ∧
    decode .heart 0x000083000008102_00C1EEB02 = .instr (.atom ⟨⟨false, 7, false, .heart 15 0⟩, vR 6, sR 2, 0x10, 6, 8, 0, 0, 0, 0⟩) 12 := by decide +kernel
/-- `gbar s4, g1, set=f2` (R383). -/
theorem test_decode_gbar : decode .sap 0x0100000000000000000200000208FC0F = .instr (.gbar ⟨⟨true, 7, false, .sap 1 0⟩, sR 4, no, no, 1, 0⟩) 16 ∧
    decode .heart 0x0000000000000000020000_02085EFC0F = .instr (.gbar ⟨⟨true, 7, false, .heart 15 2⟩, sR 4, no, no, 1, 0⟩) 16 := by decide +kernel
/-- `trap 3, 0x2A`: IMM 0x2A3 (R403). -/
theorem test_decode_trap : decode .sap 0x00002A300000FD09 = .instr (.trap ⟨pU, no, no, 0x2A3⟩) 8 ∧
    decode .heart 0x002A300001FEFD09 = .instr (.trap ⟨hU, no, no, 0x2A3⟩) 8 := by decide +kernel
/-- A pad, an unallocated opcode, a wrong length, a header in heartwood code (R53). -/
theorem test_decode_reserved : decode .sap 0 = .pad ∧ decode .heart 0xFFFFFFFFFFFFFFFF = .ill 1 ∧ decode .heart 0x08008007FEE202 = .ill 2 ∧
    decode .sap 0x40_040080_0806E201 = .ill 4 ∧ decode .heart 8 = .ill 0xA := by decide +kernel
/-- The table's numbering: an operand word past the bits given is zero. -/
theorem test_table_word : decodeTableWord 64 0x04008008_07FEE201 = some (.add ⟨hV, vR 3, vR 1, vR 2, 2, 0⟩) := by decide +kernel

/-! ### Every word instruction acts on some operands (witnesses of the register obligations) -/

def a3 (ty : BitVec 5) : A64 := ⟨hV, vR 4, vR 8, vR 12, ty, 0⟩
def a2 (ty : BitVec 5) : A64 := ⟨hV, vR 4, vR 8, no, ty, 0⟩
def q3 (ty : BitVec 5) : A64 := ⟨hV, vR 1, vR 8, vR 12, ty, 0⟩
def i2 (imm : BitVec 20) : I64 := ⟨hV, vR 4, vR 8, imm⟩
def t4 (d t : BitVec 5) : T96 := ⟨hV, vR 4, vR 8, vR 12, vR 16, d, t, 0, 0⟩
def t2 (d t : BitVec 5) : T96 := ⟨hV, vR 4, vR 8, no, no, d, t, 0, 0⟩

def arithWords : List Instr :=
  [.add (a3 2), .sub (a3 2), .mulLo (a3 2), .mulHi (a3 2), .mad (t4 2 2), .madWide (t4 3 2), .min (a3 2), .max (a3 6), .abs (a2 2), .neg (a2 2),
   .mov (a2 0xA), .lea ⟨hV, vR 4, vR 8, vR 12, no, 0xB, 2, 0, 3⟩]
theorem witness_arith : ∀ i ∈ arithWords, Acts heart i := acts_all (by decide +kernel)
theorem witness_arith_named : arithWords.all (fun i => (arithOp i).isSome && i.head?.isSome) = true := by decide +kernel
def bitWords : List Instr :=
  [.and (a3 0xA), .or (a3 0xA), .xor (a3 0xA), .not (a2 0xA), .shl (a3 0xA), .shr (a3 6), .sar (a3 2), .rot (a3 0xA), .popc (a2 0xA), .clz (a2 0xA),
   .ctz (a2 0xA), .brev (a2 0xA), .bfe ⟨hV, vR 4, vR 8, no, vR 12, 2, 2, 0, 0⟩, .bfi (t4 0xA 0xA), .perm (t4 0xA 0xA)]
theorem witness_bits : ∀ i ∈ bitWords, Acts heart i := acts_all (by decide +kernel)
theorem witness_bits_named : bitWords.all (fun i => (bitOp i).isSome && i.head?.isSome) = true := by decide +kernel
def immWords : List Instr :=
  [.addImm (i2 5), .subImm (i2 5), .mulLoImm (i2 5), .minImm (i2 5), .maxImm (i2 5), .andImm (i2 5), .orImm (i2 5), .xorImm (i2 5), .shlImm (i2 5),
   .shrImm (i2 5), .sarImm (i2 5), .rotImm (i2 5), .movi ⟨hV, vR 4, no, 5⟩, .moviW128 ⟨hV, vR 4, no, no, 7, 1⟩]
theorem witness_immediates : ∀ i ∈ immWords, Acts heart i := acts_all (by decide +kernel)
theorem witness_immediates_named : immWords.all (fun i => (immOp i).isSome && i.head?.isSome) = true := by decide +kernel
def floatWords : List Instr :=
  [.fadd (a3 0xE), .fsub (a3 0xE), .fmul (a3 0xE), .fmin (a3 0xE), .fmax (a3 0xE), .ffma (t4 0xE 0xE), .fma2 (t4 0xC 0xC), .fdot2 (t4 0xE 0xC),
   .fclass (a2 0xE), .cvt (t2 0xE 2), .pack ⟨hV, vR 4, vR 8, vR 12, no, 0xC, 0xE, 0, 0⟩, .unpack ⟨hV, vR 4, vR 8, no, no, 0xE, 0xC, 0, 1⟩,
   .dadd (a3 0xF), .dmul (a3 0xF), .dfma (t4 0xF 0xF), .frcp (a2 0xE), .frsq (a2 0xE), .fsqrt (a2 0xE), .fexp2 (a2 0xE), .flog2 (a2 0xE),
   .fsin (a2 0xE), .fcos (a2 0xE)]
theorem witness_floats : ∀ i ∈ floatWords, Acts heart i := acts_all (by decide +kernel)
theorem witness_floats_named : floatWords.all (fun i => (floatOp i).isSome && i.head?.isSome) = true := by decide +kernel
/-- Clauses of FloatResults: a result at once, and one that is outstanding for the threads of P. -/
theorem witness_float_long : (floatOp (.fadd (a3 0xE))).map (fun o => o.long) = some false ∧ (floatOp (.frcp (a2 0xE))).map (fun o => o.long) = some true ∧
    heart.me.part hV ≠ 0 := by decide +kernel
theorem witness_float_empty : Acts (withMe heart (fun st => { st with p := [(0, 0)] })) (.frcp ⟨{ hV with gp := 0 }, vR 4, vR 8, no, 0xE, 0⟩) ∧
    (withMe heart (fun st => { st with p := [(0, 0)] })).me.part { hV with gp := 0 } = 0 := ⟨acts_ofB (by decide +kernel), by decide +kernel⟩
def predWords : List Instr :=
  [.cmp (q3 2), .fcmp (q3 0xE), .dcmp (q3 0xF), .cmpImm ⟨hV, vR 1, vR 8, 5⟩, .pand ⟨hV, vR 1, vR 2, vR 3, 0, 0⟩, .por ⟨hV, vR 1, vR 2, vR 3, 0, 0⟩,
   .pxor ⟨hV, vR 1, vR 2, vR 3, 0, 0⟩, .pnot ⟨hV, vR 1, vR 2, no, 0, 0⟩, .elect ⟨hV, vR 1, no, no, 0, 0⟩, .vote ⟨hV, vR 1, vR 2, no, 0, 0⟩,
   .pand ⟨hU, vR 3, vR 2, vR 3, 0, 0⟩, .pnot ⟨hV, vR 7, vR 2, no, 0, 0⟩]
theorem witness_predicates : ∀ i ∈ predWords, Acts heart i := acts_all (by decide +kernel)
theorem witness_predicates_named : predWords.all (fun i => (predOp i).isSome && i.head?.isSome) = true := by decide +kernel
/-- Its clauses: a q register at its greatest number, p7, a long-latency comparison. -/
theorem witness_predicate_kinds : (predOp (.pand ⟨hU, vR 3, vR 2, vR 3, 0, 0⟩)).map (fun o => (o.toQ, o.n)) = some (true, 3) ∧
    (predOp (.pnot ⟨hV, vR 7, vR 2, no, 0, 0⟩)).map (fun o => (o.toQ, o.n)) = some (false, 7) ∧ (predOp (.dcmp (q3 0xF))).map (fun o => o.long) = some true := by
  decide +kernel
def pickWords : List Instr :=
  [.sel ⟨hV, vR 4, vR 8, vR 12, vR 1, 0xA, 0xA, 0, 0⟩, .shfl ⟨hV, vR 4, vR 8, vR 12, no, 0xA, 0xA, 0, 0⟩, .fscale (a3 0xE)]
theorem witness_picks : (∀ i ∈ pickWords, Acts heart i) ∧ pickWords.all (fun i => (pickOp i heart).isSome && (regOp i heart).isSome) = true :=
  ⟨acts_all (by decide +kernel), by decide +kernel⟩
theorem witness_carry : ∀ i ∈ ([.addc (a3 6), .subc (a3 6), .addc ⟨hU, sR 4, sR 8, sR 12, 7, 0⟩] : List Instr), Acts heart i := acts_all (by decide +kernel)
theorem witness_masks : ∀ i ∈ ([.actm ⟨hV, sR 4, no, no, 0, 0⟩, .voteBallot ⟨hV, sR 4, vR 2, no, 0, 3⟩, .movFirst ⟨hV, sR 4, vR 8, no, 0xA, 1⟩,
    .qpack ⟨hV, vR 4, vR 8, vR 16, no, 0x12, 0xE, 0, 0⟩, .qunpack ⟨hV, vR 24, vR 8, vR 12, vR 16, 0xE, 0x12, 0, 0⟩] : List Instr), Acts heart i :=
  acts_all (by decide +kernel)
/-- The mask with the flag of qunpack, in a predicate and in a q register. -/
theorem witness_qunpack_flag : Acts heart (.qunpack ⟨hV, vR 24, vR 8, vR 12, vR 16, 0xE, 0x12, 0b110100, 0⟩) ∧
    Acts heart (.qunpack ⟨hU, sR 24, sR 8, sR 12, sR 16, 0xE, 0x12, 0b011100, 0⟩) := ⟨acts_ofB (by decide +kernel), acts_ofB (by decide +kernel)⟩
/-- RegisterInstructionFrame is about the words of all these tables. -/
theorem witness_frame : (arithWords ++ bitWords ++ immWords ++ floatWords ++ pickWords).all (fun i => (regOp i heart).isSome && actsB heart i) = true := by
  decide +kernel

/-! ### Decoding, steps, traps of a word, holds (witnesses of the first obligations) -/

theorem witness_decoded : decode .heart 0x04008008_07FEE201 = .instr (.add ⟨hV, vR 3, vR 1, vR 2, 2, 0⟩) 8 := by decide +kernel
theorem witness_reserved : let w : BitVec 128 := 0xFFFFFFFF
    w.extractLsb' 0 32 ≠ 0 ∧ w.extractLsb' 0 2 ≠ 0 ∧ fmtOf (w.extractLsb' 2 10).toNat = none := by decide +kernel
theorem witness_wrong_length : let w : BitVec 128 := 0x07FEE202
    w.extractLsb' 0 2 ≠ 0 ∧ fmtOf (w.extractLsb' 2 10).toNat = some .a64 ∧ Fmt.len .a64 ≠ (w.extractLsb' 0 2).toNat := by decide +kernel
theorem witness_top_byte : let w : BitVec 128 := 0x40040080_0806E201
    fmtOf (w.extractLsb' 2 10).toNat = some .a64 ∧ Fmt.len .a64 = (w.extractLsb' 0 2).toNat ∧ (topByte 1 w).extractLsb' 6 2 ≠ 0 := by decide +kernel
theorem witness_header_word : let w : BitVec 128 := 8
    w.extractLsb' 0 32 ≠ 0 ∧ w.extractLsb' 0 2 = 0 ∧ (w.extractLsb' 2 10).toNat ≠ 0 ∧ (w.extractLsb' 2 10).toNat ≠ 1 := by decide +kernel
/-- A placed word is the one that a step runs. -/
theorem witness_step : let s := State.reset.withFetchWord 64 0x04008008_07FEE201
    s.script = [.issue 16] ∧ (let a := { s with script := [] }
      (a.standsOn (a.coreOf 16)).filter a.runnable = [16] ∧
      let b := { a.tick (a.coreOf 16) [] with cur := 16 }
      (b.standAt 16).deferDue = false ∧ (b.standAt 16).canIssue = true ∧ (b.standAt 16).pc.toNat = placePc ∧
      ∃ l, b.xlate (copseOf 16) .fetch (b.standAt 16).pc.toNat = .ok (placePc, l) ∧
        decode (b.kindOf 16) (b.fetchBits 16 placePc) = .instr (.add ⟨hV, vR 3, vR 1, vR 2, 2, 0⟩) 8) :=
  ⟨rfl, by decide +kernel, by decide +kernel, by decide +kernel, by decide +kernel, _, rfl, by decide +kernel⟩
theorem test_step_event : step { heart with script := [.event (.sleepEnd 16)] } = exec (.sleepEnd 16) heart := rfl
theorem witness_no_power : ({ State.reset with power := ⟨false, 0, true, none⟩ } : State).script = [] ∧
    ({ State.reset with power := ⟨false, 0, true, none⟩ } : State).power.on = false := by decide
/-- Two stands of a core. -/
def two : State :=
  { heart with
    copses := [(1, { placeCopse .heart with nst := 2 })]
    stands := [(16, { placeStand with ready := 3 }), (17, { placeStand with ready := 5, idx := 1 })] }
theorem witness_selector : two.chosen 560 16 [(16, false), (17, false)] = some 17 := by decide +kernel
theorem witness_illegal : let i : Instr := .add ⟨hV, vR 4, vR 8, vR 12, 0x13, 0⟩
    wordOf i heart = some (formAdd ⟨hV, vR 4, vR 8, vR 12, 0x13, 0⟩, bodyAdd ⟨hV, vR 4, vR 8, vR 12, 0x13, 0⟩) ∧ heart.me.canIssue = true ∧
    heart.illCauses 16 i (formAdd ⟨hV, vR 4, vR 8, vR 12, 0x13, 0⟩) = [5] := ⟨rfl, by decide +kernel, by decide +kernel⟩
/-- A uniform word with a false guard. -/
def offHead : Head := { hU with gp := 0 }
theorem witness_guarded_off : Issues heart (.yield ⟨offHead, no, no, no, 0, 0⟩) ∧ offHead.uni = true ∧ (heart.me.qval 0 != offHead.gn) = false :=
  ⟨by unfold Issues; exact ⟨by decide +kernel, by decide +kernel, by decide +kernel, by decide +kernel, by decide +kernel⟩, rfl, by decide +kernel⟩
theorem witness_guard_reserved : wordOf (.add ⟨{ hU with gp := 4 }, sR 4, sR 8, sR 12, 3, 0⟩) heart =
    some (formAdd ⟨{ hU with gp := 4 }, sR 4, sR 8, sR 12, 3, 0⟩, bodyAdd ⟨{ hU with gp := 4 }, sR 4, sR 8, sR 12, 3, 0⟩) := rfl
/-- Held back: a sleeping stand; a flag that the word waits for; an empty channel. -/
def addC : A64 := ⟨hV, vR 4, ⟨16, false, true, false⟩, vR 12, 2, 0⟩
def chanS : State := { heart with cores := [(560, { Core.init.redeal [1] with chans := [(16, ⟨some 1, 4, [], 0, 0⟩)] })] }
theorem witness_held : (withMe heart (fun st => { st with wait := .sleep 3 })).me.canIssue = false ∧
    (withMe heart (fun st => { st with flags := [(2, 1)] })).blocked 16 (.add ⟨{ hV with sch := .heart 2 15 }, vR 4, vR 8, vR 12, 2, 0⟩) (formAdd ⟨{ hV with sch := .heart 2 15 }, vR 4, vR 8, vR 12, 2, 0⟩) = true ∧
    chanS.me.canIssue = true ∧ chanS.illCauses 16 (.add addC) (formAdd addC) = [] ∧ chanS.chanFault 16 (formAdd addC) = false ∧
    chanS.chanReady 16 (formAdd addC) = false := by decide +kernel
theorem witness_outstanding : let s := withMe heart (fun st => { st with flags := [(2, 1)], pend := [{ Pend.empty with flag := some 2, vw := [(5, 9)] }] })
    (s.standAt 16).pend[0]? = some { Pend.empty with flag := some 2, vw := [(5, 9)] } ∧ (s.copseAt 1).life = .resident ∧
      tget 0 ((after (.longLatencyComplete 16 0) s).standAt 16).v 5 = 9 ∧ ((after (.longLatencyComplete 16 0) s).standAt 16).flag 2 = 0 := by decide +kernel

/-! ### Control -/

def nu : A64 := ⟨hU, no, no, no, 0, 0⟩
def nv : A64 := ⟨hV, no, no, no, 0, 0⟩
def pushed (es : List Entry) : State := withMe heart (fun st => { st with stack := es })
def full : State := pushed (List.replicate 32 ⟨.call, none, 0⟩)
/-- Branches and calls: all threads, no thread, misaligned targets, a full stack, targets carried by s registers. -/
theorem witness_branches : (∀ i ∈ ([.bra ⟨hV, no, no, 0xFFFF8⟩, .braFar ⟨hV, no, no, no, 0x100, 0⟩, .call ⟨hV, no, no, 4⟩, .callFar ⟨hV, no, no, no, 0x102, 0⟩,
    .brx ⟨hV, no, sR 8, no, 0, 0⟩, .calx ⟨hV, no, sR 8, no, 0, 0⟩, .brx ⟨hV, no, vR 8, no, 0, 0⟩] : List Instr), Acts heart i) ∧
    Acts full (.call ⟨hV, no, no, 4⟩) ∧ heart.me.part hV ≠ 0 ∧ (0x102 : Word64).extractLsb' 0 2 ≠ 0 ∧
    Acts (withMe heart (fun st => { st with p := [(0, 0)] })) (.bra ⟨{ hV with gp := 0 }, no, no, 4⟩) :=
  ⟨acts_all (by decide +kernel), acts_ofB (by decide +kernel), by decide +kernel, by decide +kernel, acts_ofB (by decide +kernel)⟩
/-- A branch of the threads of p0 alone leaves the others on the stack (R97). -/
theorem test_branch_splits : let s := withMe heart (fun st => { st with p := [(0, 1)] })
    let t := after (.bra ⟨{ hV with gp := 0 }, no, no, 4⟩) s
    t.me.a = 1 ∧ t.me.pc = s.me.pc + 16 ∧ t.me.stack = [⟨.pend, some (s.me.pc + 8), allLanes &&& ~~~1⟩] := by decide +kernel
/-- A call pushes its return point (R99). -/
theorem test_call_pushes : (after (.call ⟨hV, no, no, 4⟩) heart).me.stack = [⟨.call, some (heart.me.pc + 8), 0⟩] := by decide +kernel
def stackStand : Stand := { placeStand with stack := [⟨.pend, some (BitVec.ofNat 64 placePc), 1⟩, ⟨.join, none, 2⟩], a := 4 }
theorem witness_stack : stackStand.a ≠ 0 ∧ (∃ e r, stackStand.stack = e :: r ∧ e.kind = .pend ∧ e.pc = some stackStand.pc) ∧ stackStand.yc = 0 ∧
    stackStand.afterTransfer.a = 5 := ⟨by decide, ⟨_, _, rfl, rfl, rfl⟩, rfl, by decide +kernel⟩
theorem witness_resume : let st := { placeStand with exited := 1, stack := [⟨.pend, some 8, 1⟩, ⟨.pend, some 16, 3⟩], a := 0 }
    st.resume.a = 2 ∧ st.resume.pc = 16 ∧ ({ placeStand with exited := allLanes, a := 0 } : Stand).resume.life = .ending := by decide +kernel
theorem witness_rotate : let st := { placeStand with yc := 1, rb := 0, a := 1, stack := [⟨.pend, some 8, 2⟩] }
    st.yc ≠ 0 ∧ st.stack.length < 32 ∧ st.rotate.a = 2 ∧ st.rotate.stack = [⟨.pend, some (BitVec.ofNat 64 placePc), 1⟩] := by decide +kernel
theorem witness_push : pushPend 8 2 [⟨.pend, some 8, 1⟩] = [⟨.pend, some 8, 3⟩] ∧ pushPend 8 2 [⟨.join, none, 1⟩] = [⟨.pend, some 8, 2⟩, ⟨.join, none, 1⟩] ∧
    pushPend 8 0 [] = [] := by decide
/-- ret, join and rwait with their entry and without; exit. -/
theorem witness_arrivals : (∀ i ∈ ([.ret nv, .exit nv, .join nv, .rwait ⟨hV, no, vR 3, no, 0, 0⟩] : List Instr),
    Acts (pushed [⟨.call, some 8, 0⟩, ⟨.join, none, 0⟩, ⟨.token 3, none, 0⟩]) i ∧ Acts heart i) :=
  fun i hi => ⟨acts_all (l := [.ret nv, .exit nv, .join nv, .rwait ⟨hV, no, vR 3, no, 0, 0⟩]) (by decide +kernel) i hi,
    acts_all (l := [.ret nv, .exit nv, .join nv, .rwait ⟨hV, no, vR 3, no, 0, 0⟩]) (by decide +kernel) i hi⟩
theorem test_join_releases : (after (.join nv) (pushed [⟨.join, none, 0⟩])).me.pc = heart.me.pc + 8 ∧
    (after (.exit nv) heart).me.life = .ending := by decide +kernel
/-- split, rset, rcancel, yield.l, yield.l.end: room and none, a token taken, free, the counter at both ends. -/
theorem witness_regions : (∀ s ∈ [heart, full, pushed [⟨.token 7, some 8, 1⟩], withMe heart (fun st => { st with yc := 15 })],
    ∀ i ∈ ([.split nv, .rset ⟨hV, vR 7, no, 2⟩, .rcancel ⟨hV, no, vR 7, no, 0, 0⟩, .yieldL nv, .yieldLEnd ⟨hV, no, no, no, 0, 1⟩] : List Instr),
      Acts s i) := fun s hs i hi => acts_ofB (by revert i hi; revert s hs; decide +kernel)
theorem witness_yields : (∀ i ∈ ([.nop nu, .yield nv, .sleep ⟨hU, no, no, 0⟩, .sleep ⟨hU, no, no, 0xFFFFF⟩] : List Instr), Acts heart i) :=
  acts_all (by decide +kernel)
theorem witness_header : let st := sap.me
    st.canIssue = true ∧ st.pc.toNat % 32 ≤ 24 ∧ st.place ≠ .inClause ∧ (∀ n, n < 12 → st.flag n = 0) ∧ st.gate = true ∧
      (sap.copseAt 1).gathers = false ∧ (after (.clauseHeader ⟨0xFFF, 0, 1, 3, false, true, 5⟩) sap).me.place = .inClause := by decide +kernel
def gathering : State := { sap with copses := [(1, { placeCopse .sap with move := ⟨some .heart, .gather, 0, 0, 0, none⟩ })] }
theorem witness_gathering : gathering.me.gate = true ∧ (gathering.copseAt 1).gathers = true ∧
    (after (.clauseHeader ⟨0xFFF, 0, 1, 3, false, true, 5⟩) gathering).me.held = true ∧ (after (.markWord ⟨5⟩) heart).me.pc = heart.me.pc + 8 := by
  decide +kernel

/-! ### Work and graft -/

def claimI : Instr := .claim ⟨hL, sR 4, no, vR 2, 0, 0⟩
/-- Two levels of 4 and 3, blocks at the core: six tickets held by the copse. -/
def levels : List Level := [⟨3, 2, 0, 0⟩, ⟨4, 2, 0, 0⟩]
def claiming : State := withCopse (withStage heart (fun st => { st with levels := levels })) (fun c => { c with block := [(3, 6), (9, 12)] })
def claimed (t : Nat) (s : State) : State := withMe s (fun st => { st with ticket := some t })
theorem witness_claim : Acts heart claimI ∧ (heart.claimTicket 16).1 = none ∧ Acts claiming claimI ∧ (claiming.claimTicket 16).1 = some 3 ∧
    claiming.me.ticket = none ∧ (claimed 2 claiming).me.ticket ≠ none ∧
    ((claimed 2 claiming).release 16 ((claiming.stageOf 1).claimMask (some 2) 3)).1 = true :=
  ⟨acts_ofB (by decide +kernel), by decide +kernel, acts_ofB (by decide +kernel), by decide +kernel, by decide +kernel, by decide +kernel, by decide +kernel⟩
/-- A release that has to wait: the stand has a dirty line. -/
theorem witness_claim_waits : ∃ s : State, Acts s claimI ∧ s.me.ticket ≠ none ∧ (∃ x, (s.claimTicket 16).1 = some x) ∧
    (s.release 16 ((s.stageOf 1).claimMask s.me.ticket 3)).1 = false :=
  ⟨withStage (withMe (claimed 2 claiming) (fun st => { st with paths := [⟨0, 0, 16, 1, [0]⟩] })) (fun st => { st with levels := [⟨3, 2, 0xFF, 0⟩, ⟨4, 2, 0xFF, 0⟩] }),
    acts_ofB (by decide +kernel), by decide +kernel, ⟨3, by decide +kernel⟩, by decide +kernel⟩
theorem witness_claim_det : let s := withStage (withLaunch heart (fun l => { l with det := true })) (fun st => { st with levels := levels, detw := 2 })
    (s.launchAt 1).det = true ∧ (s.copseAt 1).launch ≠ 0 ∧ (s.claimTicket 16).1 = some 0 ∧ ((withMe s (fun st => { st with claims := 6 })).claimTicket 16).1 = none := by
  decide +kernel
theorem witness_claim_ends : let s := after claimI claiming
    (s.standAt 16).pend[0]? = some { Pend.empty with flag := some 2, on := .claim [(1, 3), (0, 0)], sw := [(4, 3)], qw := [(2, true)] } ∧
    (s.copseAt 1).life = .resident ∧ ([(1, 3), (0, 0)].map Prod.fst).Nodup ∧
    tget 0 ((after (.longLatencyComplete 16 0) s).standAt 16).lvl 1 = 3 := by decide +kernel

/-- A launch of two stages, the copse in stage n, its queue with room for two items, one of which is there. -/
def staged (n : Nat) (items : List (List Byte)) (done : Bool) : State :=
  withCopse { (withLaunch heart (fun l => { l with stages := [{ placeStage with qlog := 1, segs := [(1, items)], done := done }, placeStage] })) with } (fun c => { c with stage := n })
def item : List Byte := [1, 2, 3, 4, 5, 6, 7, 8]
def enqU : A64 := ⟨hU, no, sR 4, no, 0, 0⟩
def enqV : A64 := ⟨hV, no, vR 4, no, 0, 0⟩
theorem witness_enq : Acts heart (.enq enqU) ∧ Acts heart (.enq enqV) ∧ heart.me.part enqV.h ≠ 0 ∧ ((heart.launchAt 1).stages.length ≤ 0 + 1) ∧
    Acts (staged 0 [item] false) (.enq enqU) ∧ Acts (staged 0 [item] false) (.enq enqV) ∧ ((staged 0 [item] false).stageOf 1).segFull 1 = false ∧
    ((staged 0 [item] false).release 16 0).1 = true ∧ ((staged 0 [item, item] false).stageOf 1).segFull 1 = true ∧ Acts (staged 0 [item, item] false) (.enq enqU) :=
  ⟨acts_ofB (by decide +kernel), acts_ofB (by decide +kernel), by decide +kernel, by decide +kernel, acts_ofB (by decide +kernel), acts_ofB (by decide +kernel),
    by decide +kernel, by decide +kernel, by decide +kernel, acts_ofB (by decide +kernel)⟩
def enqOff : A64 := { enqV with h := { hV with gp := 0 } }
theorem witness_enq_none : Acts (withMe heart (fun st => { st with p := [(0, 0)] })) (.enq enqOff) ∧
    (withMe heart (fun st => { st with p := [(0, 0)] })).me.part enqOff.h = 0 := ⟨acts_ofB (by decide +kernel), by decide +kernel⟩
/-- Pushing the first of two items, and the last. -/
theorem witness_enq_push : let s := withMe (staged 0 [item] false) (fun st => { st with wait := .enq enqV 6 })
    (s.standAt 16).wait = .enq enqV 6 ∧ (lanes 6)[0]? = some 1 ∧ (lanes 6).length = 2 ∧
    ((after (.enqItemPush 16) s).standAt 16).enqDone = 1 ∧
    ((after (.enqItemPush 16) (withMe s (fun st => { st with enqDone := 1 }))).standAt 16).wait = .none := by decide +kernel
def deqU : A64 := ⟨hL, sR 4, no, vR 3, 0, 0⟩
def deqV : A64 := ⟨hVL, vR 4, no, vR 3, 0, 0⟩
theorem witness_deq : Acts heart (.deq deqU) ∧ Acts heart (.deq deqV) ∧ Acts (staged 1 [item] false) (.deq deqU) ∧ Acts (staged 1 [item] false) (.deq deqV) :=
  ⟨acts_ofB (by decide +kernel), acts_ofB (by decide +kernel), acts_ofB (by decide +kernel), acts_ofB (by decide +kernel)⟩
theorem witness_deq_served : let s := after (.deq deqU) (staged 1 [item] false)
    let x : Spot := (staged 1 [item] false).me.spot
    (∃ p, (s.standAt 16).pend[0]? = some p ∧ p.on = .deq deqU x ∧ p.slost = [] ∧ p.qlost = [] ∧ p.ch = none) ∧
    1 ∈ ((s.launchAt 1).stageAt 0).segs.map Prod.fst ∧ tget 0 ((after (.longLatencyComplete 16 0) s).standAt 16).sr 4 = 0x0807060504030201 ∧
    (after (.longLatencyComplete 16 0) (after (.deq deqU) (staged 1 [] true))).me.q = 0 ∧ ((staged 1 [] true).launchAt 1).stages.length = 2 ∧
    ((after (.longLatencyComplete 16 0) (after (.deq deqU) (staged 1 [] false))).standAt 16).pend.length = 1 :=
  ⟨⟨_, rfl, by decide +kernel, rfl, rfl, rfl⟩, by decide +kernel, by decide +kernel, by decide +kernel, by decide +kernel, by decide +kernel⟩
theorem witness_qstat : ∀ m ∈ [0, 1], Acts (staged 1 [item] true) (.qstat ⟨hL, sR 4, no, no, 0, m⟩) := fun m hm =>
  acts_ofB (by revert m hm; decide +kernel)

/-- A graft map at 0x40001000: its header and one pair of entry addresses (R122). -/
def mapBytes (m : Mem) : Mem :=
  memWrite (memWrite (memWrite (memWrite (memWrite m 0x40001000 0x00000001_4D475A4B 8) 0x40001008 0x00000100_00000001 8)
    0x40001010 0x00000048_00000100 8) 0x40001018 0x00000048_00000040 8) 0x40001040 0 8
def mapped : State := { (withStage heart (fun st => { st with gmap := 0x40001000 })) with frames := mapBytes heart.frames }
def asked (m : Move) (s : State) : State := withCopse s (fun c => { c with move := m })
theorem witness_moves : (∀ i ∈ ([.graftShut ⟨hU, no, no, no, 0, 0⟩, .graftOpen ⟨hU, no, no, no, 0, 1⟩, .migrHeart ⟨hU, no, no, no, 0, 0⟩,
    .migrSap ⟨hU, no, no, no, 0, 1⟩, .migrCancel ⟨hU, no, no, no, 0, 2⟩, .migrQ ⟨hL, sR 4, no, no, 0, 0⟩] : List Instr),
      Acts heart i ∧ Acts mapped i ∧ Acts (asked ⟨some .sap, .pending, 0, 0, 0, none⟩ mapped) i) :=
  fun i hi => ⟨acts_ofB (by revert i hi; decide +kernel), acts_ofB (by revert i hi; decide +kernel), acts_ofB (by revert i hi; decide +kernel)⟩
theorem witness_move_cases : (heart.copseAt 1).launch ≠ 0 ∧ (heart.stageOf 1).allows .sap = true ∧ (heart.stageOf 1).gmap = 0 ∧
    ((withStage heart (fun st => { st with kinds := 2 })).stageOf 1).allows .sap = false ∧
    (withStage heart (fun st => { st with gmap := 0x40001000 })).graftTable 0 ({ placeStage with gmap := 0x40001000 }) = none ∧
    (mapped.graftTable 0 (mapped.stageOf 1)).isSome = true ∧
    ((after (.migrSap ⟨hU, no, no, no, 0, 1⟩) mapped).copseAt 1).move = ⟨some .sap, .pending, 0, 0, 0, none⟩ := by decide +kernel

/-! ### Memory and scratchpad -/

theorem witness_ld_g : Acts dataS (.ldG (mV 6 0 0)) ∧ (∀ x ∈ dataS.eas hV (sR 8) 0 true, x.2 % 4 = 0) ∧
    AllTranslate dataS .read (dataS.eas hV (sR 8) 0 true) ∧ (∀ y ∈ translated (dataS.xlateAll 16 .read (dataS.eas hV (sR 8) 0 true)),
      dataS.loadWaits 560 0 y.2.2 4 = false) ∧ dataS.me.part hV ≠ 0 ∧ (∀ line, Settled dataS 560 line) :=
  ⟨acts_ofB (by decide +kernel), by decide +kernel, ⟨by decide +kernel, by decide +kernel, by decide +kernel⟩, by decide +kernel, by decide +kernel,
    cold_settled (by decide +kernel) 560⟩
/-- Little endian (R265). -/
theorem test_ld_g : (after (.ldG (mU 7 0 0)) dataS).me.pend.map (fun p => p.sw) = [[(4, 0x8877665544332211)]] := by decide +kernel
theorem witness_ld_g_stops : Acts (based heart 0x40002002) (.ldG (mV 6 0 0)) ∧ 0x40002002 % 4 ≠ 0 ∧
    (immediate ((based heart 0xFFFF000000000000).xlateAll 16 .read [(0, 0xFFFF000000000000)])).isSome = true ∧
    Acts (based heart 0x80000000) (.ldG (mU 6 0 0)) ∧ immediate ((based heart 0x80000000).xlateAll 16 .read [(0, 0x80000000)]) = none ∧
    faultPages ((based heart 0x80000000).xlateAll 16 .read [(0, 0x80000000)]) ≠ [] ∧
    (after (.ldG (mU 6 0 0)) (based heart 0x80000000)).me.wait ≠ .none :=
  ⟨acts_ofB (by decide +kernel), by decide, by decide +kernel, acts_ofB (by decide +kernel), by decide +kernel, by decide +kernel, by decide +kernel⟩
theorem witness_ld_c : Acts dataS (.ldC (mV 6 0 0)) ∧ Acts dataS (.ldC (mU 6 0 0)) ∧
    (∀ y ∈ translated (dataS.xlateAll 16 .read (dataS.eas hU (sR 8) 0 true)), dataS.stagedLine (y.2.2 / 128) = false) :=
  ⟨acts_ofB (by decide +kernel), acts_ofB (by decide +kernel), by decide +kernel⟩
def noThread (s : State) : State := withMe s (fun st => { st with p := [(0, 0)] })
def hN : Head := { hV with gp := 0 }
theorem witness_ld_none : Acts (noThread dataS) (.ldG { mV 6 0 0 with h := hN }) ∧ (noThread dataS).me.part hN = 0 ∧
    Acts (noThread dataS) (.stG { mV 6 0 0 with h := hN }) ∧ (noThread dataS).eas hN (sR 8) 0 true = [] :=
  ⟨acts_ofB (by decide +kernel), by decide +kernel, acts_ofB (by decide +kernel), by decide +kernel⟩

/-- Plain stores, narrow and device wide; an ordered one; pages that are absent. -/
theorem witness_st_g : Acts dataS (.stG (mV 6 0 0)) ∧ Acts dataS (.stG (mU 7 0xFF 0)) ∧ Acts dataS (.stG (mU 7 0xFF 2)) ∧ Acts dataS (.prf { mU 0 0 0 with dr := no }) ∧
    AllTranslate dataS .write (dataS.eas hV (sR 8) 0 true) ∧ dataS.me.fenceM = none ∧ (∀ line, Settled dataS dataS.myCoreKey line) ∧
    (dataS.release 16 0xFF).1 = true ∧ maskNarrow 0 = true ∧ maskNarrow 0xFF = false ∧ isWindow data = false ∧
    Acts (based heart 0x80000000) (.stG (mU 6 0 0)) :=
  ⟨acts_ofB (by decide +kernel), acts_ofB (by decide +kernel), acts_ofB (by decide +kernel), acts_ofB (by decide +kernel),
    ⟨by decide +kernel, by decide +kernel, by decide +kernel⟩, by decide +kernel, cold_settled (by decide +kernel) _, by decide +kernel, by decide, by decide,
    by decide, acts_ofB (by decide +kernel)⟩
theorem test_st_g : let s := withMe dataS (fun st => { st with sr := [(4, 0x1122334455667788), (8, BitVec.ofNat 64 data)] })
    (after (.stG (mU 7 0xFF 0)) s).homeRead data 8 = 0x1122334455667788 ∧ byteSeen (after (.stG (mU 7 0 0)) s) 560 (data + 7) = 0x11 ∧
    (after (.stG (mU 7 0 0)) s).homeRead data 8 = 0x8877665544332211 := by decide +kernel
/-- A full side log (R254): two pages more do not fit. -/
theorem witness_side_log : let s := based heart 0x80000000
    s.myCore.slog.length ≤ 64 ∧ (faultPages (s.xlateAll 16 .write [(0, 0x80000000)])).length = 1 ∧
    ((after (.stG (mU 6 0 0)) s).coreAt 560).slog.map (fun e => (e.stand, e.page)) = [(16, 0x8000)] ∧
    64 < 1 + (List.replicate 64 (default : LogEntry)).length := by decide +kernel
theorem witness_st_g_release_waits : let s := withMe dataS (fun st => { st with paths := [⟨0, 0, 16, 1, [0]⟩] })
    Acts s (.stG (mU 7 0xFF 2)) ∧ (s.release 16 0xFF).1 = false := ⟨acts_ofB (by decide +kernel), by decide +kernel⟩

theorem witness_scratch : (∀ i ∈ ([.ldS (mU 7 0 0), .ldS (mV 6 0 0), .stS (mU 7 0 0), .stS (mV 6 0 0), .stS (mU 7 1 2)] : List Instr), Acts (padS 0) i ∧ Acts (padS 130) i ∧
    Acts (padS 128) i ∧ Acts (padS 256) i ∧ Acts (padS 384) i ∧ Acts (padS 65536) i) ∧ ((padS 0).release 16 1).1 = true ∧
    (∀ l ∈ linesMet 8 [(0, 0)], ((padS 0).myCopse.lineAt l).full = true) :=
  ⟨fun i hi => ⟨acts_ofB (by revert i hi; decide +kernel), acts_ofB (by revert i hi; decide +kernel), acts_ofB (by revert i hi; decide +kernel),
    acts_ofB (by revert i hi; decide +kernel), acts_ofB (by revert i hi; decide +kernel), acts_ofB (by revert i hi; decide +kernel)⟩, by decide +kernel, by decide +kernel⟩
theorem test_st_s : let s := withMe (padS 8) (fun st => { st with sr := [(4, 0x0102030405060708), (8, 8)] })
    memRead (after (.stS (mU 7 0 0)) s).myCopse.scratch 8 8 = 0x0102030405060708 ∧ ((after (.ldS (mU 7 0 0)) (padS 128)).me.pc = placeStand.pc) ∧
    ((after (.ldS (mU 7 0 0)) (padS 256)).me.frames.head?.map (fun f => (f.record.cls, f.record.cause))) = none := by decide +kernel

def smapW (imm : BitVec 64) : W128 := ⟨hU, sR 4, sR 8, sR 6, imm, 0⟩
/-- smap of 128 bytes at 512 over data; then over an existing region; sunmap with and without dirty bytes; swb; lstep. -/
theorem witness_regions_words : Acts (padS 512) (.smap (smapW 128)) ∧ Acts (padS 128) (.smap (smapW 128)) ∧
    (∀ i ∈ ([.sunmap ⟨hU, no, sR 8, no, 0, 0⟩, .sunmap ⟨hU, no, sR 8, no, 0, 1⟩, .swb ⟨hU, no, sR 8, no, 0, 0⟩, .swb ⟨hL, no, sR 8, no, 0, 0⟩, .lstep ⟨hU, no, sR 8, no, 0, 0⟩] : List Instr),
      Acts (padS 128) i ∧ Acts (padS 512) i) ∧ (padS 128).myCopse.regionAtOff 128 = some (0, ⟨128, 128, data, 0, 0⟩) ∧
    (padS 512).myCopse.regionAtOff 512 = none ∧ (padS 512).myLaunch.sigma.toNat < 512 :=
  ⟨acts_ofB (by decide +kernel), acts_ofB (by decide +kernel), fun i hi => ⟨acts_ofB (by revert i hi; decide +kernel), acts_ofB (by revert i hi; decide +kernel)⟩,
    by decide +kernel, by decide +kernel, by decide +kernel⟩
theorem test_smap_status : tget 0 (after (.smap (smapW 128)) (padS 128)).me.sr 4 = 3 ∧ tget 0 (after (.smap (smapW 100)) (padS 512)).me.sr 4 = 2 ∧
    tget 0 (after (.smap (smapW 128)) (padS 512)).me.sr 4 = 0 := by decide +kernel
/-- A fill and a write-back of line 1, their page there and absent. -/
def filling (va : Nat) (x : Fill) (dirty : Mask) : State :=
  withCopse dataS (fun c => { c with lines := [(1, ⟨false, false, false, some .region, 1, dirty⟩)], regions := [(0, ⟨128, 128, va, 0, 0⟩)], fills := [x] })
theorem witness_fills : ((filling data ⟨1, none, none, []⟩ 0).copseAt 1).fillOf 1 false = some ⟨1, none, none, []⟩ ∧
    ((filling data ⟨1, none, none, []⟩ 0).copseAt 1).regionOf 1 = some (0, ⟨128, 128, data, 0, 0⟩) ∧
    (∃ e, (filling data ⟨1, none, none, []⟩ 0).xlate 1 .read data = .ok (data, e)) ∧ (filling data ⟨1, none, none, []⟩ 0).stagedLine (data / 128) = false ∧
    Memory.wf ((filling data ⟨1, none, none, []⟩ 0).lineBytes (data / 128)) = true ∧
    (∀ c ∈ (filling data ⟨1, none, none, []⟩ 0).lineBytes (data / 128), c.1 < 128) ∧
    (filling 0x80000000 ⟨1, none, none, []⟩ 0).xlate 1 .read 0x80000000 = .fault 2 ∧
    memRead ((after (.regionFill 1 1) (filling data ⟨1, none, none, []⟩ 0)).copseAt 1).scratch 128 8 = 0x8877665544332211 :=
  ⟨by decide +kernel, by decide +kernel, ⟨_, by rfl⟩, by decide +kernel, by decide +kernel, by decide +kernel, by decide +kernel, by decide +kernel⟩
theorem witness_write_backs : ((filling data ⟨1, some 16, none, []⟩ 1).copseAt 1).fillOf 1 true = some ⟨1, some 16, none, []⟩ ∧
    ((filling data ⟨1, some 16, none, []⟩ 1).copseAt 1).life = .resident ∧
    byteSeen (after (.regionWriteBack 1 1) (filling data ⟨1, some 16, none, []⟩ 1)) 560 data = 0 ∧
    (filling data ⟨1, some 16, none, []⟩ 1).pageLogged 560 [(0, data)] = false ∧ (filling data ⟨1, some 16, none, []⟩ 1).stagedLine (data / 128) = false ∧
    (filling 0x80000000 ⟨1, some 16, none, []⟩ 1).xlate 1 .write 0x80000000 = .fault 2 := by decide +kernel

/-! ### Cache maintenance, placement, fences -/

/-- s8 an address, s4 a length. -/
def ranged (a n : Word64) : State := withMe dataS (fun st => { st with sr := [(4, n), (8, a)] })
def c0 : M96 := mU 0 0 0
def maintWords : List Instr := [.cmoCln c0, .cmoInv c0, .cmoInv { c0 with md := 2 }, .cmoCinv { c0 with md := 1 }, .cmoCln { c0 with md := 2 }, .dsc c0,
  .pin c0, .unpin c0, .zero c0, .zero { c0 with ord := 2, sm := 0xFF }]
theorem witness_maintenance : ∀ i ∈ maintWords, Acts (ranged (BitVec.ofNat 64 data) 256) i ∧ Acts (ranged 0x1FFFFFFFFFFFF80 256) i ∧ Acts (ranged 0x40002004 256) i :=
  fun i hi => ⟨acts_ofB (by revert i hi; decide +kernel), acts_ofB (by revert i hi; decide +kernel), acts_ofB (by revert i hi; decide +kernel)⟩
theorem witness_maintenance_range : let s := ranged (BitVec.ofNat 64 data) 256
    s.ranges c0 = [(0, data, 256)] ∧ data % 65536 + 256 ≤ 65536 ∧ (∃ e, s.xlate 1 .write data = .ok (data, e)) ∧ (s.onRanges 16 .read (fun s l => s.cmoClean 560 0 l) [(0, data, 256)]).1 = none ∧
    (∀ l, NoneAway s 560 l) ∧ (∀ l ∈ linesOf data 256, Memory.wf (s.lineBytes l) = true ∧ (s.lineBytes l).all (fun c => decide (c.1 < 128)) = true) :=
  ⟨by decide +kernel, by decide, ⟨_, by rfl⟩, by decide +kernel, cold_away (by decide +kernel) 560, by decide +kernel⟩
/-- A malformed table entry for 0x80000000; a staged update of the line; a fence.m under way. -/
def malformed : State := { (ranged 0x80000000 128) with frames := memWrite dataS.frames (placeTable2 + 16) 0x8000003000000009 8 }
theorem witness_maintenance_other : malformed.xlate 1 .read 0x80000000 = .fault 5 ∧ Acts malformed (.cmoCln c0) ∧
    (∃ s, s.stagedLine (data / 128) = true ∧ Acts s (.cmoCln c0) ∧ s.ranges c0 = [(0, data, 256)]) ∧
    Acts (withMe (ranged (BitVec.ofNat 64 data) 256) (fun st => { st with fenceM := some (0xFF, none) })) (.dsc c0) ∧
    ((ranged (BitVec.ofNat 64 data) 256).viAt 0).pquota = 0 ∧ (ranged 0x1FFFFFFFFFFFF80 256).ranges c0 = [(0, 0x1FFFFFFFFFFFF80, 256)] ∧ 2 ^ 57 < 0x1FFFFFFFFFFFF80 + 256 :=
  ⟨by decide +kernel, acts_ofB (by decide +kernel), ⟨{ (ranged (BitVec.ofNat 64 data) 256) with dir := [(data / 128, { Dir.init with cached := true, staged := [⟨140, 0, 0, 0, false, [], none, 1, 0⟩] })] },
    by decide +kernel, acts_ofB (by decide +kernel), by decide +kernel⟩, acts_ofB (by decide +kernel), by decide +kernel, by decide +kernel, by decide⟩
theorem test_zero_and_clean : (after (.zero c0) (ranged (BitVec.ofNat 64 data) 256)).homeRead data 8 = 0 ∧
    (after (.cmoCln c0) (ranged (BitVec.ofNat 64 data) 256)).homeRead data 8 = 0x8877665544332211 ∧
    ((after (.pin c0) (ranged (BitVec.ofNat 64 data) 256)).dirAt (data / 128)).pins = [0] := by decide +kernel
def query (md : BitVec 2) : A64 := ⟨hL, sR 4, sR 8, no, 0, md⟩
theorem witness_queries : Acts (based dataS 0) (.pqrySelf (query 0)) ∧ Acts (based dataS 7) (.pqrySelf (query 0)) ∧ Acts dataS (.pqryLine (query 1)) ∧
    Acts (based dataS 0x80000000) (.pqryLine (query 1)) ∧ Acts (based dataS 0x1100000000000) (.pqryRes (query 2)) ∧ Acts (based dataS 0x7100000000000) (.pqryRes (query 2)) ∧
    (∀ x ∈ [0, 1, 2, 3, 4, 5, 6], Acts (based dataS (BitVec.ofNat 64 x)) (.pqryCnt (query 3))) ∧
    (based dataS 0x80000000).xlate 1 .read 0x80000000 = .fault 2 ∧ dataS.genSites 7 = none ∧ (dataS.genSites 1).isSome = true :=
  ⟨acts_ofB (by decide +kernel), acts_ofB (by decide +kernel), acts_ofB (by decide +kernel), acts_ofB (by decide +kernel), acts_ofB (by decide +kernel),
    acts_ofB (by decide +kernel), fun x hx => acts_ofB (by revert x hx; decide +kernel), by decide +kernel, by decide +kernel, by decide +kernel⟩
/-- A cached dirty line with a replica, at the bank 0 of slice 16. -/
def cachedS (d : Dir) : State := { dataS with dir := [(data / 128, d)] }
def lineD : Dir := { Dir.init with cached := true, bytes := [(0, 5)], bank := 128, dirty := true, replicas := [(1, [(0, 5)])] }
/-- Eight requests in a row have come to it from field 2, where slice 32 of the domain stands. -/
def movedTo : State := (cachedS { lineD with streak := some (2, 8) }).setVi 0 { dataS.viAt 0 with dom := { (dataS.viAt 0).dom with set0 := ⟨2, 7, 0, [16, 32]⟩ } }
theorem witness_line_moves : movedTo.domainOf ((movedTo.dirAt (data / 128)).bank / 8) = some 0 ∧ (256 / 8) ∈ (movedTo.viAt 0).dom.live.slices ∧
    fieldOfSlice (256 / 8) ≠ fieldOfSlice (128 / 8) ∧ movedTo.placement.moveAfter ≤ 8 ∧
    ((after (.homeMove (data / 128) 256) movedTo).dirAt (data / 128)).bank = 256 ∧ after (.homeMove (data / 128) 256) dataS = dataS ∧
    after (.homeMove (data / 128) 129) movedTo = movedTo := by decide +kernel
/-- The oldest replica of a bank goes first. -/
theorem oldest_first (s : State) (bank : Nat) (x : Nat × Option Nat) : s.goesFirst bank (0, 0, x) = true := by
  simp only [State.goesFirst, List.all_eq_true]
  intro y _
  rcases Nat.eq_zero_or_pos y.1 with h | h <;> simp [h]
theorem witness_evictions : Memory.wf lineD.bytes = true ∧ (cachedS { lineD with replicas := [] }).goesFirst 128 (2, 0, data / 128, none) = true ∧
    memGet (after (.lineEvict (data / 128) none) (cachedS { lineD with replicas := [] })).frames data = 5 ∧
    after (.lineEvict (data / 128) none) (cachedS { lineD with pins := [0] }) = cachedS { lineD with pins := [0] } ∧
    (cachedS lineD).goesFirst ((cachedS lineD).replicaBank (data / 128) 1) (0, 0, data / 128, some 1) = true ∧
    isWindow (65536 * 5) = false ∧ 5 ∉ (after (.tierMove 5 false) { dataS with near := [5] }).near :=
  ⟨by decide +kernel, by decide +kernel, by decide +kernel, by decide +kernel, oldest_first _ _ _, by decide +kernel, by decide +kernel⟩

def fenceF (m : BitVec 8) (md : BitVec 2) : A64 := ⟨hU, ⟨m, false, false, false⟩, no, no, 0, md⟩
def fenceL (m : BitVec 8) : A64 := ⟨hL, ⟨m, false, false, false⟩, no, no, 0, 0⟩
def writing : State := withMe dataS (fun st => { st with paths := [⟨0, 0, 16, 1, [0]⟩] })
def busyM : State := withMe dataS (fun st => { st with fenceM := some (0xFF, none) })
def coveredS : State := withMe dataS (fun st => { st with rel := some 0xFF })
def loggedS : State := { dataS with cores := [(560, { Core.init.redeal [1] with slog := [{ (default : LogEntry) with stand := 16 }] })] }
theorem witness_fences : (∀ s ∈ [dataS, writing, busyM, coveredS, loggedS], ∀ i ∈ ([.fenceRel (fenceF 0xFF 2), .fenceRel (fenceF 1 2), .fenceAr (fenceF 0xFF 0),
    .fenceAcq (fenceF 0xFF 1), .fenceM (fenceL 0xFF)] : List Instr), Acts s i) ∧ (dataS.releaseNow 16 0xFF false).me.markers = [] ∧
    (writing.releaseNow 16 0xFF false).me.markers ≠ [] ∧ loggedS.logged 16 = true ∧ maskFull 0xFF &&& ~~~(maskFull 0xFF) = 0 ∧ maskFull 1 = maskCO ∧
    maskFull 0xFF ≠ maskCO ∧ (∃ x ∈ ((writing.setMe { writing.me with fenceM := some (0xFF, none) }).releaseNow 16 0xFF true).me.markers, x.forM = true) :=
  ⟨fun s hs i hi => acts_ofB (by revert i hi; revert s hs; decide +kernel), by decide +kernel, by decide +kernel, by decide +kernel, by decide, by decide, by decide, by decide +kernel⟩
theorem witness_markers : let s := withMe dataS (fun st => { st with markers := [⟨16, true, 1, [data / 128], false⟩], wait := .markers })
    (s.standAt 16).markers.find? (fun x => x.slice == 16) = some ⟨16, true, 1, [data / 128], false⟩ ∧ ((after (.markerArrive 16 16) s).standAt 16).wait = .none ∧
    (∀ x ∈ (s.standAt 16).markers, x.slice ≠ 17) ∧ maskHas (maskFull 0xFF) 2 = true ∧ maskHas (maskFull 0xFF) 3 = true ∧ maskHas (maskFull 0x4) 3 = false ∧
    maskHas (maskFull 0x1) 2 = false := by decide +kernel

/-! ### The matrix engine -/

/-- Two reservations of 8 granules of the stand: b0 with the stationary role and tile 1, b1 streaming. -/
def wRec : Resv := { Resv.init with state := .opened, gbase := 0, gcnt := 8, role := true, blen := 4, amask := 1, atile := some 0, stile := some 1, copse := 1, tag := 5 }
def xRec : Resv := { Resv.init with state := .opened, gbase := 8, gcnt := 8, blen := 4, copse := 1, tag := 6, breg := 1 }
def eng : Engine := { Cluster.init.eng with recs := [(0, wRec), (1, xRec)] }
def mtx0 : State := withMe { dataS with clusters := [(140, { Cluster.init with eng := eng })] } (fun st => { st with b := [(0, ⟨0, 5⟩), (1, ⟨1, 6⟩)] })
/-- s4 and s6 for the operands of `mres`. -/
def mres1 (a b : Word64) (s : State) : State := withMe s (fun st => { st with sr := [(4, a), (6, b)] })
def eF (h : Head) (a b : Nat) (imm : BitVec 16) (md : BitVec 12) : E96 := ⟨h, sR 10, sR a, sR b, no, imm, md⟩
def mresA : Word64 := 0x1004
def mresI (n : BitVec 16) : Instr := .mres (eF hL 4 6 n 8)
/-- Status 0, and 1 to 3: b0 names a record, operands that are not valid, a tile that is held. -/
theorem witness_mres : Acts (mres1 mresA 0x0200000000 mtx0) (mresI 2) ∧ mtx0.bNamed 2 = false ∧ mtx0.bNamed 0 = true ∧
    mresOk 0 false false 0x1004 0x0200000000 = true ∧ mresOk 0 false false 0 0 = false ∧
    (after (mresI 2) (mres1 mresA 0x0200000000 mtx0)).me.pend.map (fun p => p.sw) = [[(10, 0)]] ∧
    (after (mresI 2) (mres1 mresA 0x0100000000 mtx0)).me.pend.map (fun p => p.sw) = [[(10, 3)]] ∧
    (after (mresI 2) (mres1 0 0 mtx0)).me.pend.map (fun p => p.sw) = [[(10, 2)]] ∧
    (after (mresI 0) (mres1 mresA 0 mtx0)).me.pend.map (fun p => p.sw) = [[(10, 1)]] :=
  ⟨acts_ofB (by decide +kernel), by decide +kernel, by decide +kernel, by decide +kernel, by decide +kernel, by decide +kernel, by decide +kernel, by decide +kernel, by decide +kernel⟩
/-- Statuses 4 and 5: no record, no run of granules. -/
def allTaken : State := { mtx0 with clusters := [(140, { Cluster.init with eng := { eng with recs := (List.range 32).map (fun i => (i, { xRec with gcnt := 1, gbase := i })) } })] }
def noRun : State := { mtx0 with clusters := [(140, { Cluster.init with eng := { eng with recs := [(0, { wRec with gcnt := 128 })] } })] }
theorem witness_mres_full : (∀ i, ¬(i < 32 ∧ (allTaken.myEngine.resv i).state = .free)) ∧ (∀ base, ¬(base + 8 ≤ 128 ∧ ∀ x ∈ noRun.myEngine.taken, base + 8 ≤ x.2.gbase ∨ x.2.gbase + x.2.gcnt ≤ base)) ∧
    (after (mresI 2) (mres1 mresA 0x0200000000 allTaken)).me.pend.map (fun p => p.sw) = [[(10, 4)]] ∧
    (after (mresI 2) (mres1 mresA 0x0200000000 noRun)).me.pend.map (fun p => p.sw) = [[(10, 5)]] :=
  ⟨fun i h => by
      have : ∀ i < 32, (allTaken.myEngine.resv i).state ≠ .free := by decide +kernel
      exact this i h.1 h.2,
    fun base h => by
      have := h.2 (0, { wRec with gcnt := 128 }) (by decide +kernel)
      simp [wRec] at this
      omega, by decide +kernel, by decide +kernel⟩
theorem witness_reservations : (∀ i ∈ ([.mresDup ⟨hL, sR 10, no, no, no, 2, 64⟩, .mresDup ⟨hL, sR 10, no, no, no, 0x22, 64⟩, .mresDup ⟨hL, sR 10, no, no, no, 0, 64⟩, .mrel ⟨hU, no, vR 0, no, no, 0, 0⟩,
    .mrel ⟨hU, no, vR 7, no, no, 0, 0⟩, .mwait ⟨hL, sR 10, vR 0, no, no, 0, 0⟩, .mwait ⟨hL, sR 10, vR 7, no, no, 0, 0⟩, .mq ⟨hL, sR 10, vR 0, no, no, 3, 1⟩,
    .mq ⟨hL, sR 10, vR 7, no, no, 0, 0⟩] : List Instr), Acts mtx0 i) ∧ mtx0.bound 0 = some (0, wRec) ∧ mtx0.bound 7 = none :=
  ⟨acts_all (by decide +kernel), by decide +kernel, by decide +kernel⟩
def queued (c : Cmd) : State := { mtx0 with clusters := [(140, { Cluster.init with eng := { eng with recs := [(0, { wRec with queue := [c] }), (1, xRec)] } })] }
def cmd0 (op : CmdOp) (q : Nat) : Cmd := ⟨q, 16, op, .waiting, [], [], [], 0, false, 0, []⟩
theorem witness_mwait_done : let s := after (.mwait ⟨hL, sR 10, vR 0, no, no, 0, 0⟩) mtx0
    (∃ p, (s.standAt 16).pend[0]? = some p ∧ p.on = .mwait 140 0 5 0 10 (s.me.spot) ∨ (∃ x, (s.standAt 16).pend[0]? = some p ∧ p.on = .mwait 140 0 5 0 10 x)) ∧
    (s.engineAt 140 |>.resv 0).tag = 5 ∧ ((after (.longLatencyComplete 16 0) s).standAt 16).pend = [] ∧
    (∃ c ∈ ((queued (cmd0 .swap 0)).engineAt 140 |>.resv 0).queue, c.seq ≤ 0) :=
  ⟨⟨_, .inr ⟨_, rfl, rfl⟩⟩, by decide +kernel, by decide +kernel, ⟨cmd0 .swap 0, by decide +kernel, by decide⟩⟩

/-- Every command: taken, and its record stale (b7); s4 an address, s6 a drain's shape of one row. -/
def mtx1 : State := mres1 0 (0x40 + 0x1000000) mtx0
def commands (n m : Nat) : List Instr :=
  [.mtile ⟨hU, no, vR n, sR 4, no, 0, 0⟩, .mlds ⟨hU, no, vR n, no, no, 3, 0⟩, .mswap ⟨hU, no, vR n, no, no, 0, 0⟩, .mstr ⟨hU, no, vR n, vR m, no, 0, 0⟩,
   .mstr ⟨hU, no, vR n, vR m, vR 2, 0, 1⟩, .mtileD ⟨hU, no, vR n, no, vR 2, 0, 4⟩, .mzero ⟨hU, no, vR n, no, no, 1, 0⟩, .mdrn ⟨hU, no, vR n, sR 4, sR 6, 0, 0⟩, .mdrn ⟨hU, no, vR n, sR 4, sR 6, 0, 1⟩,
   .mdrn ⟨hU, no, vR n, no, sR 4, 0, 2⟩]
theorem witness_commands : (∀ i ∈ commands 0 1 ++ commands 7 1, Acts mtx1 i ∧ Acts (queued (cmd0 .swap 9)) i) :=
  fun i hi => ⟨acts_all (l := commands 0 1 ++ commands 7 1) (by decide +kernel) i hi, acts_all (l := commands 0 1 ++ commands 7 1) (by decide +kernel) i hi⟩
/-- They are taken: the record's queue grows by one. -/
theorem test_commands_queue : [0, 1, 2, 3, 6, 7].all (fun j => match (commands 0 1)[j]? with
    | some i => ((after i mtx1).myEngine.resv 0).queue.length == 1 | none => false) = true := by decide +kernel
/-- Their traps: role, tile range, accumulator tile, address, no tile, shape (R221-R234). -/
theorem test_command_traps : trapsOf (after (.mswap ⟨hU, no, vR 7, no, no, 0, 0⟩) (handled 8 mtx1)) = [(8, 1)] ∧
    trapsOf (after (.mlds ⟨hU, no, vR 1, no, no, 3, 0⟩) (handled 8 mtx1)) = [(8, 2)] ∧
    trapsOf (after (.mlds ⟨hU, no, vR 0, no, no, 4, 0⟩) (handled 8 mtx1)) = [(8, 4)] ∧
    trapsOf (after (.mzero ⟨hU, no, vR 0, no, no, 2, 0⟩) (handled 8 mtx1)) = [(8, 5)] := by decide +kernel
/-- A full queue of 16. -/
theorem witness_queue_full : let s : State := { mtx1 with clusters := [(140, { Cluster.init with eng := { eng with recs := [(0, { wRec with queue := List.replicate 16 (cmd0 .swap 1) })] } })] }
    ¬((s.myEngine.taken.map (fun x => x.2.queue.length)).sum + 1 ≤ 64 ∧ (s.myEngine.resv 0).queue.length + 1 ≤ 16) ∧ Acts s (.mlds ⟨hU, no, vR 0, no, no, 3, 0⟩) :=
  ⟨by decide +kernel, acts_ofB (by decide +kernel)⟩

/-! ### Engine steps and drains -/

/-- An engine whose operand lines are full, with one command of b0, and the same on a machine with a warm home. -/
def engQ (c : Cmd) : Engine := { eng with recs := [(0, { wRec with queue := [c] }), (1, xRec)], full := List.range 512, acc := [(0, 0x3F800000)] }
def runS (c : Cmd) : State := { mtx0 with clusters := [(140, { Cluster.init with eng := engQ c })] }
def opsOf : List CmdOp := [.swap, .load 2, .zero 1, .pass 1 6 0 0 false, .drain 0 0 false false true 0 0 1 256 0 0 0, .fillS 0 0 1 1]
/-- Each command waits as the first of its record, and the engine is ready for it. -/
theorem witness_grants : opsOf.all (fun o => let s := runS (cmd0 o 7)
    ((s.engineAt 140).resv 0).queue.find? (fun c => c.phase == .waiting) == some (cmd0 o 7) && (s.engineAt 140).ready 0 (cmd0 o 7)) = true ∧
    (∀ x ∈ ((runS (cmd0 .swap 7)).engineAt 140).recs, x.2.state ≠ .closing) ∧ wRec.fillLines (.fillS 0 0 1 1) ≠ [] := by decide +kernel
/-- Not ready: a tile whose lines are still coming; and a pass over a line whose fill was cancelled (R231). -/
theorem witness_grant_waits : let e := { engQ (cmd0 (.load 2) 7) with full := [] }
    e.ready 0 (cmd0 (.load 2) 7) = false ∧ (let e := { engQ (cmd0 (.pass 1 6 0 0 false) 7) with dead := [0] }
      e.ready 0 (cmd0 (.pass 1 6 0 0 false) 7) = true ∧ ∃ l ∈ (e.passLines wRec 1 0).1, e.isDead wRec l = true) :=
  ⟨by decide +kernel, by decide +kernel, ⟨0, by decide +kernel, by decide +kernel⟩⟩
/-- A drain reads the accumulator tile's first row and clears it. -/
theorem test_drain_grant : let t := after (.commandGrant 140 0) (runS (cmd0 (.drain 0 0 false false true 0 0 1 256 0 0 0) 7))
    ((t.engineAt 140).resv 0).queue.map (fun c => (c.vals.headD 0, c.todo)) = [(0x3F800000, [0])] ∧ (t.engineAt 140).accAt 0 0 = 0 := by decide +kernel
def granted (o : CmdOp) (todo : List Nat) : State :=
  let s := runS { cmd0 o 7 with phase := .granted, todo := todo }
  { s with clusters := [(140, { Cluster.init with eng := { engQ { cmd0 o 7 with phase := .granted, todo := todo } with full := [] } })] }
/-- Lines arriving from the scratchpad, and from global memory. -/
theorem witness_operand_lines : let s := granted (.fillS 0 0 1 1) [64]
    let g := granted (.fillG 0 1 1 fillDesc) [64]
    ((s.engineAt 140).resv 0).queue.find? (fun c => ((s.engineAt 140).resv 0).fillLines c.op != [] && c.phase != .waiting && c.phase != .complete)
      = some { cmd0 (.fillS 0 0 1 1) 7 with phase := .granted, todo := [64] } ∧
    ((s.copseAt 1).lineAt 0).full = true ∧ ((s.copseAt 1).lineAt 0).bm = false ∧
    ((after (.operandLineArrive 140 0) s).engineAt 140).isFull wRec 64 = true ∧
    memGet ((after (.operandLineArrive 140 0) g).engineAt 140).buf 8192 = 0x11 := by decide +kernel
def drainCmd (dest : Nat) (add : Bool) (base : Nat) : CmdOp := .drain dest 0 add false false base 0 1 256 0 0 0
def drained (o : CmdOp) : Cmd := { cmd0 o 7 with phase := .granted, todo := [0], vals := (List.range 64).map (fun i => BitVec.ofNat 32 (i + 1)) }
def drainS (o : CmdOp) : State := runS (drained o)
theorem witness_drains : (∀ o ∈ [drainCmd 0 false 0, drainCmd 1 false data, drainCmd 1 true data, drainCmd 2 false 0],
      ((drainS o).engineAt 140).running 0 (drained o) = true ∧ o.drainOp ≠ none) ∧
    ((runS { cmd0 .swap 7 with phase := .granted }).engineAt 140).running 0 { cmd0 .swap 7 with phase := .granted } = true ∧
    memRead ((after (.passComplete 140 0) (drainS (drainCmd 0 false 0))).copseAt 1).scratch 4 4 = 2 ∧
    (after (.passComplete 140 0) (drainS (drainCmd 1 false data))).homeRead (data + 4) 4 = 2 ∧
    ((after (.passComplete 140 0) (drainS (drainCmd 1 true data))).dirAt (data / 128)).staged.length = 1 := by decide +kernel
/-- A drain to a channel with room and without. -/
def channed (o : CmdOp) (depth : Nat) : State := { drainS o with cores := [(560, { Core.init.redeal [1] with chans := [(32, ⟨some 1, depth, [], 0, 1⟩)] })] }
theorem witness_channel_drain : 0 < (channed (drainCmd 2 false 0) 4).chanFree 560 32 ∧
    { channed (drainCmd 2 false 0) 1 with cores := [(560, { Core.init with chans := [(32, ⟨some 1, 1, [[]], 0, 1⟩)] })] }.chanFree 560 32 = 0 := by decide +kernel
/-- A staged update and its commit, from its engine and under DET. -/
def stagedX (det : Option (Nat × Nat × Nat × Nat × Nat)) : Staged := ⟨140, 0, 7, 0, false, [(0, 0x3F800000)], det, 1, 0⟩
def stagedS (det : Option (Nat × Nat × Nat × Nat × Nat)) : State :=
  { runS { drained (drainCmd 1 true data) with phase := .staged } with dir := [(data / 128, { Dir.init with cached := true, bank := 128, staged := [stagedX det] })] }
theorem witness_commit : (((stagedS none).engineAt 140).resv 0).queue.find? (fun c => c.phase == .staged) = some { drained (drainCmd 1 true data) with phase := .staged } ∧
    (stagedS none).stagedOf 140 0 7 = [(data / 128, stagedX none)] ∧ (after (.drainCommit 140 0) (stagedS none)).homeRead data 4 = 0x3F800000 ∧
    leastKey ((stagedS (some (1, 0, 0, 0, 0))).dirAt (data / 128)).staged = some (stagedX (some (1, 0, 0, 0, 0))) ∧
    (stagedS (some (1, 0, 0, 0, 0))).ordEnded 1 0 0 = false ∧
    (after (.detDrainCommit (data / 128)) { stagedS (some (1, 0, 0, 0, 0)) with copses := [] }).homeRead data 4 = 0x3F800000 := by decide +kernel

/-! ### Copies and channels -/

/-- s4 the global address, s5 the scratchpad offset, s6 a binding word. -/
def copyIn (off bw : Word64) (s : State) : State := withMe s (fun st => { st with sr := [(4, BitVec.ofNat 64 data), (5, off), (6, bw)], d := [(2, fillDesc)] })
def cpyW (md : BitVec 7) (imm : BitVec 64) : W128 := ⟨hU, sR 5, sR 4, no, imm, md⟩
def cpyT (md : BitVec 12) : E96 := ⟨hU, sR 5, vR 2, sR 6, no, 0, md⟩
def copyWords : List Instr := [.cpy (cpyW 0 128), .cpyO (cpyW 0 128), .cpy (cpyW 18 128), .cpyTIn (cpyT 0), .cpyTOut (cpyT 1), .cpyTDef ⟨hU, vR 3, sR 4, sR 6, no, 0, 2⟩]
theorem witness_copies : (∀ i ∈ copyWords, Acts (copyIn 0 0 dataS) i ∧ Acts (copyIn 8 0 (padS 0)) i ∧ Acts (copyIn 128 1 (padS 0)) i) ∧
    descOk fillDesc.toNat = true ∧ descOk 0 = false :=
  ⟨fun i hi => ⟨acts_all (l := copyWords) (by decide +kernel) i hi, acts_all (l := copyWords) (by decide +kernel) i hi,
    acts_all (l := copyWords) (by decide +kernel) i hi⟩, by decide +kernel, by decide +kernel⟩
/-- A copy is accepted; offset, empty line with a copy to come, marked line, unbound channel (R321). -/
def lent (s : State) : State := { s with cores := [(560, { Core.init.redeal [1] with chans := [(18, ⟨some 1, 1, [], 0, 0⟩)] })] }
theorem test_copy_checks : (after (.cpy (cpyW 0 128)) (copyIn 0 0 dataS)).myCopse.copies.map (fun x => (x.off, x.runs)) = [(0, [(data, 128)])] ∧
    trapsOf (after (.cpy (cpyW 0 128)) (handled 6 (copyIn 8 0 dataS))) = [(6, 1)] ∧
    trapsOf (after (.cpy (cpyW 18 128)) (handled 6 (copyIn 0 0 dataS))) = [(6, 5)] ∧
    (after (.cpy (cpyW 18 128)) (copyIn 0 0 (lent dataS))).myCopse.copies.length = 1 := by decide +kernel
def many (n : Nat) : State := withCopse (copyIn 0 0 dataS) (fun c => { c with copies := List.replicate n { (default : Copy) with grp := 1, stand := 16 } })
theorem witness_copies_full : 64 ≤ (many 64).myCopse.copies.length ∧ Acts (many 64) (.cpy (cpyW 0 128)) ∧
    (after (.cpy (cpyW 0 128)) (many 64)).myCopse.copies.length = 64 := ⟨by decide +kernel, acts_ofB (by decide +kernel), by decide +kernel⟩
/-- One line of a copy in, one of a copy out, and a status for channel 18. -/
def inCopy : Copy := { (default : Copy) with seq := 3, stand := 16, form := .cpy, off := 0, runs := [(data, 128)], todo := [0] }
def moving (x : Copy) : State := withCopse (lent dataS) (fun c => { c with copies := [x], lines := [(0, ⟨x.form != .cpy, false, true, some (.copy 3), 0, 0⟩)], scratch := [(2, 7)] })
theorem witness_deliver : ((moving inCopy).copseAt 1).copyOf 3 = some inCopy ∧ inCopy.ripe ≠ [] ∧ ((moving inCopy).copseAt 1).life = .resident ∧
    ((moving inCopy).copseAt 1).copyBehind inCopy ((inCopy.units[0]?).getD []) = false ∧
    (((moving inCopy).unitXlate 1 .read ((inCopy.units[0]?).getD [])).1 matches .ok _) = true ∧
    memRead ((after (.copyLineDeliver 1 3) (moving inCopy)).copseAt 1).scratch 0 8 = 0x8877665544332211 ∧
    (after (.copyLineDeliver 1 3) (moving { inCopy with form := .cpyO })).homeGet (data + 2) = 7 ∧
    (((moving inCopy).unitXlate 1 .write ((inCopy.units[0]?).getD [])).1 matches .ok _) = true := by decide +kernel
theorem witness_copy_status : let x := { inCopy with todo := [], status := some 0, ntf := some 2, grp := 3, lines := 1 }
    ((moving x).copseAt 1).copyOf 3 = some x ∧ 0 < (moving x).chanFree 560 18 ∧
    ((after (.copyStatusPush 1 3) (moving x)).chanAt 560 18).entries.map (fun e => tget 0 e 0) = [0x3001] ∧
    ({ moving x with cores := [(560, { Core.init with chans := [(18, ⟨some 1, 1, [[]], 0, 0⟩)] })] }).chanFree 560 18 = 0 := by decide +kernel
def ctl (n : Nat) (h : Head) (md : BitVec 2) : A64 := ⟨h, sR 10, sR n, no, 0, md⟩
def controls : List Instr := [.cpwait { ctl 4 hU 0 with dst := no }, .cfe (ctl 4 hU 0), .cfe (ctl 4 hU 1), .cpcan { ctl 4 hL 1 with dst := no }, .cpcan { ctl 4 hU 1 with dst := no },
  .chcfgSet (ctl 4 hU 0), .chcfgQ (ctl 4 hU 1), .cpyield ⟨hU, vR 2, vR 4, 4⟩]
def set4 (x : Word64) (s : State) : State := withMe s (fun st => { st with sr := [(4, x)] })
theorem witness_copy_controls : ∀ i ∈ controls, Acts (set4 2 (many 3)) i ∧ Acts (set4 0 dataS) i ∧ Acts (set4 384 (padS 0)) i :=
  fun i hi => ⟨acts_all (l := controls) (by decide +kernel) i hi, acts_all (l := controls) (by decide +kernel) i hi, acts_all (l := controls) (by decide +kernel) i hi⟩
/-- cpwait stops at a copy of its group; cpyield at a record whose phase is open, past one that is complete; cpcan with copies that notify. -/
theorem test_copy_controls : (after (.cpwait { ctl 4 hU 0 with dst := no }) (set4 2 (many 3))).me.wait = .copies 2 ∧
    (after (.cpyield ⟨hU, vR 2, vR 4, 4⟩) (set4 0x10180 (padS 0))).me.q = 4 ∧
    (after (.cpyield ⟨hU, vR 2, vR 4, 4⟩) (set4 0x180 (padS 0))).me.wait = .cont 0x180 false 2 (placeStand.pc + 16) ∧
    tget 0 (after (.cfe (ctl 4 hU 0)) (set4 0 (padS 0))).me.sr 10 = 0xFFFFFFFFFFFFFFF9 ∧
    (after (.cpcan { ctl 4 hL 1 with dst := no }) (set4 1 (moving { inCopy with ntf := some 2 }))).me.pend.map (fun p => p.on) = [.copies [3]] := by decide +kernel
/-- Channels: 50 of depth 2 with one entry. -/
def chS (es : List ChanEntry) (depth : Nat) : State := { set4 0x123456789 dataS with cores := [(560, { Core.init.redeal [1] with chans := [(50, ⟨some 1, depth, es, 0, 0⟩)] })] }
def sendU : I64 := ⟨hU, no, vR 4, 50⟩
def sendV : I64 := ⟨hV, no, vR 4, 50⟩
def recvU : I64 := ⟨hU, vR 10, no, 50⟩
def recvV : I64 := ⟨hV, vR 10, no, 50⟩
theorem witness_channels : (∀ i ∈ ([.chsend sendU, .chsend sendV, .chrecv recvU, .chrecv recvV] : List Instr), Acts (chS [[(0, 5), (1, 6)]] 2) i ∧ Acts dataS i) ∧
    (chS [[(0, 5), (1, 6)]] 2).chanBad 1 560 50 true = false ∧ dataS.chanBad 1 560 50 false = true ∧ 0 < (chS [[(0, 5), (1, 6)]] 2).chanFree 560 50 ∧
    (chS [[(0, 5), (1, 6)]] 1).chanFree 560 50 = 0 ∧ Acts (chS [] 1) (.chrecv recvU) ∧ Acts (chS [[(0, 5), (1, 6)]] 1) (.chsend sendU) :=
  ⟨fun i hi => ⟨acts_all (l := [.chsend sendU, .chsend sendV, .chrecv recvU, .chrecv recvV]) (by decide +kernel) i hi,
    acts_all (l := [.chsend sendU, .chsend sendV, .chrecv recvU, .chrecv recvV]) (by decide +kernel) i hi⟩,
    by decide +kernel, by decide +kernel, by decide +kernel, by decide +kernel, acts_ofB (by decide +kernel), acts_ofB (by decide +kernel)⟩
theorem test_channels : ((after (.chsend sendU) (chS [] 2)).chanAt 560 50).entries = [[(0, 0x23456789), (1, 1)]] ∧
    tget 0 (after (.chrecv recvU) (chS [[(0, 5), (1, 6)]] 2)).me.sr 10 = 0x600000005 ∧
    tget 0 (after (.chcfgSet (ctl 4 hU 0)) (set4 0x85 dataS)).me.sr 10 = 1 ∧ tget 0 (after (.chcfgSet (ctl 4 hU 0)) (set4 0x8B2 dataS)).me.sr 10 = 3 := by decide +kernel

/-! ### Atomics and records -/

def atomF (h : Head) (r : Opd) (ty : BitVec 5) (md : BitVec 6) (sm : BitVec 8) (ord : BitVec 2) : M96 := ⟨h, r, sR 8, 0, ty, sm, 0, ord, 0, md⟩
def casW (h : Head) (d x : Opd) (imm : BitVec 64) (ty : BitVec 7) : W128 := ⟨h, d, sR 8, x, imm, ty⟩
/-- Adds, swap, inc, on global memory and on the scratchpad, ordered and plain; compare and swap; red. -/
def atomWords : List Instr := [.atom (atomF hL (sR 4) 6 0 0 0), .atom (atomF hVL (vR 4) 6 0 0 0), .atom (atomF hVL (vR 4) 0xA 6 0 0), .atom (atomF hL (sR 4) 7 8 0 0),
  .atom (atomF hL (sR 4) 6 0 0xFF 3), .atomCas (casW hL (sR 4) (sR 6) 0 6), .atomCas (casW hVL (vR 4) (vR 6) 0x400000000 6), .red (atomF hU (sR 4) 6 0 0 0),
  .red (atomF hV (vR 4) 6 8 0 0), .red (atomF hU (sR 4) 6 0 0xFF 2)]
theorem witness_atomics : (∀ i ∈ atomWords, Acts dataS i ∧ Acts (padS 0) i ∧ Acts (padS 384) i ∧ Acts (based heart 0x80000000) i) ∧ (∀ line, NoneAway dataS 560 line) ∧
    (∀ line, Settled dataS 560 line) ∧ (dataS.clusterAt 140).owners = [] ∧ dataS.rmwWaits 560 0xFF data = false ∧ dataS.det = false ∧ tyF 6 = false ∧ tyF 0xE = true ∧
    atomTyOk 0 6 = true ∧ (dataS.release 16 0xFF).1 = true :=
  ⟨fun i hi => ⟨acts_all (l := atomWords) (by decide +kernel) i hi, acts_all (l := atomWords) (by decide +kernel) i hi, acts_all (l := atomWords) (by decide +kernel) i hi,
    acts_all (l := atomWords) (by decide +kernel) i hi⟩, cold_away (by decide +kernel) 560, cold_settled (by decide +kernel) 560, by decide +kernel, by decide +kernel,
    by decide +kernel, by decide, by decide, by decide, by decide +kernel⟩
/-- A floating-point atomic under DET is ATM cause 1 (R350). -/
theorem test_atom_det : let s := withLaunch dataS (fun l => { l with det := true })
    Acts s (.atom (atomF hL (sR 4) 0xE 0 0 0)) ∧ trapsOf (after (.atom (atomF hL (sR 4) 0xE 0 0 0)) (handled 7 s)) = [(7, 1)] :=
  ⟨acts_ofB (by decide +kernel), by decide +kernel⟩
/-- Three threads each add 2 to one word: lane order gives the old values 0x44332211 + 2 t. -/
theorem test_atom_lanes : let s := withMe dataS (fun st => { st with a := 0b10101, v := [(512, 2), (514, 2), (516, 2)] })
    let t := after (.atom (atomF hVL (vR 4) 6 0 0xFF 0)) s
    t.homeRead data 4 = 0x44332217 ∧ t.me.pend.map (fun p => (tget 0 p.vw 512, tget 0 p.vw 514, tget 0 p.vw 516)) = [(0x44332211, 0x44332213, 0x44332215)] := by decide +kernel
theorem test_cas : let s := withMe dataS (fun st => { st with sr := [(4, 9), (6, 0x44332211), (8, BitVec.ofNat 64 data)] })
    (after (.atomCas (casW hL (sR 4) (sR 6) 0xFF000000 6)) s).homeRead data 4 = 9 := by decide +kernel
/-- red.cell: a live handle of a cell grove, a stale one, none, and under DET. -/
def grove1 : Grove := { Grove.init with live := true, tag := 4, limit := 4, cell := true, cop := 0, cty := 6, value := 10, members := [⟨16, 0, 0, .idle, none, false⟩], joins := 1 }
def celled (g : Grove) (h : Tbl GHandle) : State := withMe { dataS with groves := [(0x4000, g)] } (fun st => { st with g := h, sr := [(4, 5)] })
def cellF : M96 := ⟨hU, sR 4, vR 1, 0, 6, 0, 0, 0, 0, 16⟩
theorem witness_cell : Acts (celled grove1 [(1, ⟨0x4000, 4⟩)]) (.redCell cellF) ∧ (celled grove1 [(1, ⟨0x4000, 4⟩)]).handleLive 16 ⟨0x4000, 4⟩ = true ∧
    ((after (.redCell cellF) (celled grove1 [(1, ⟨0x4000, 4⟩)])).groveAt 0x4000).value = 15 ∧
    (celled grove1 [(1, ⟨0x4000, 3⟩)]).handleLive 16 ⟨0x4000, 3⟩ = false ∧ Acts (celled grove1 []) (.redCell cellF) ∧
    ((after (.redCell cellF) (withLaunch (celled grove1 [(1, ⟨0x4000, 4⟩)]) (fun l => { l with det := true }))).groveAt 0x4000).contribs.map (fun c => (c.joined, c.x)) = [(0, 5)] ∧
    Acts { celled grove1 [] with groveQ := [⟨16, .leave, 1, none⟩] } (.redCell cellF) :=
  ⟨acts_ofB (by decide +kernel), by decide +kernel, by decide +kernel, by decide +kernel, acts_ofB (by decide +kernel), by decide +kernel, acts_ofB (by decide +kernel)⟩

/-- A record at 0x80 of the copse's scratchpad (R354), in a barrier-marked line. -/
def recS (w0 w1 : Nat) (s : State) : State :=
  withCopse s (fun c => { c with scratch := memWrite (memWrite [] 0x80 w0 8) 0x88 w1 8, lines := [(1, { LineSt.init with bm := true })], nst := 2 })
def recI (md : List Instr) : List Instr := md
def recF (d : Opd) (b : Opd) : A64 := ⟨hU, d, sR 5, b, 0, 0⟩
def recWords : List Instr := [.crinit (recF (sR 4) (sR 6)), .crexp (recF (sR 4) (sR 6)), .arrive (recF (sR 4) no), .arriveW (recF (vR 1) no), .crwait (recF (vR 1) no), .crinv (recF no no)]
def at80 (s : State) : State := withMe s (fun st => { st with sr := [(5, 0x100080), (6, 0x41)] })
theorem witness_records : (∀ i ∈ recWords, Acts (at80 dataS) i ∧ Acts (at80 (recS 0x110 0x50 dataS)) i ∧ Acts (at80 (recS 0x2110 0x50 dataS)) i) ∧
    (recView (recS 0x110 0x50 dataS) 1 0x80).valid = 1 ∧ ((at80 dataS).release 16 1).1 = true ∧ (recView (recS 0x2110 0x50 dataS) 1 0x80).arrs = 1 :=
  ⟨fun i hi => ⟨acts_all (l := recWords) (by decide +kernel) i hi, acts_all (l := recWords) (by decide +kernel) i hi, acts_all (l := recWords) (by decide +kernel) i hi⟩,
    by decide +kernel, by decide +kernel, by decide +kernel⟩
/-- The example of R367: crinit; the first arrival, parked; the last line with both stands parked. -/
theorem test_crinit : memRead (after (.crinit (recF (sR 4) (sR 6))) (at80 dataS)).myCopse.scratch 0x80 16 = 0x50_0000000000000110 := by decide +kernel
theorem test_arrive_w : let t := after (.arriveW (recF (vR 1) no)) (at80 (recS 0x110 0x8050 dataS))
    memRead t.myCopse.scratch 0x80 16 = 0x8050_0000000100002110 ∧ t.me.wait = .record 0x80 false 1 := by decide +kernel
def lastLine : State :=
  let s := recS 0x300002110 0x8050 dataS
  let s := withCopse s (fun c => { c with copies := [{ inCopy with off := 0x280, cr := some (0x80, 0), sm := 0x0C }],
                                          lines := [(1, { LineSt.init with bm := true }), (5, ⟨false, false, true, some (.copy 3), 0, 0⟩)] })
  { s with stands := [(16, { s.me with wait := .record 0x80 false 1 }), (17, { s.me with idx := 1, wait := .record 0x80 false 2 })] }
theorem test_phase_completes : let t := after (.copyLineDeliver 1 3) lastLine
    memRead (t.copseAt 1).scratch 0x80 32 = 0x50_0000000000000111 ∧ (t.standAt 16).wait = .none ∧ (t.standAt 16).q = 2 ∧ (t.standAt 17).q = 4 := by decide +kernel

/-! ### Groves -/

def gW (d a : Opd) (imm : BitVec 64) (md : BitVec 7) : W128 := ⟨hL, d, a, no, imm, md⟩
def groveWords : List Instr := [.gcreate (gW (sR 4) no 0x1000000001 0), .gjoin (gW (sR 4) (sR 6) 1 0), .gdestroy (gW (sR 4) (sR 6) 0 0), .gleave (gW no no 1 0), .gbar (gW (sR 4) no 1 0),
  .gvote (gW (sR 4) (vR 2) 1 1), .gred (gW (sR 4) (sR 6) 0x301 0), .gquery (gW (sR 4) no 1 0), .gquery (gW (sR 4) no 1 3), .gquery (gW (sR 4) no 0 4)]
/-- No handle; a live one; a stale one; an earlier event of the same register on its way. -/
theorem witness_grove_words : (∀ i ∈ groveWords, Acts dataS i ∧ Acts (celled grove1 [(1, ⟨0x4000, 4⟩)]) i ∧ Acts (celled grove1 [(1, ⟨0x4000, 3⟩)]) i ∧
      Acts { celled grove1 [] with groveQ := [⟨16, .leave, 1, none⟩] } i) ∧
    dataS.handleWaits 16 1 = false ∧ tfind 1 dataS.me.g = none ∧ { celled grove1 [] with groveQ := [⟨16, .leave, 1, none⟩] }.handleWaits 16 1 = true ∧
    ((celled grove1 [(1, ⟨0x4000, 4⟩)]).release 16 0).1 = true :=
  ⟨fun i hi => ⟨acts_all (l := groveWords) (by decide +kernel) i hi, acts_all (l := groveWords) (by decide +kernel) i hi, acts_all (l := groveWords) (by decide +kernel) i hi,
    acts_all (l := groveWords) (by decide +kernel) i hi⟩, by decide +kernel, by decide +kernel, by decide +kernel, by decide +kernel⟩
theorem test_grove_sends : (after (.gbar (gW (sR 4) no 1 0)) (celled grove1 [(1, ⟨0x4000, 4⟩)])).groveQ = [⟨16, .arrive .bar 0, 1, some ⟨0x4000, 4⟩⟩] ∧
    (after (.gbar (gW (sR 4) no 1 0)) (celled grove1 [(1, ⟨0x4000, 3⟩)])).me.pend.map (fun p => p.sw) = [[(4, 4)]] ∧
    trapsOf (after (.gbar (gW (sR 4) no 1 0)) (handled 9 dataS)) = [(9, 1)] := by decide +kernel
/-- An event of stand 16 at the home slice: its register and handle, and the grove. -/
def eventS (g : Grove) (op : GroveOp) (h : Tbl GHandle) : State :=
  withMe { (celled g h) with groveQ := [⟨16, op, 1, tfind 1 h⟩], nextId := 0x5000 } (fun st => { st with pend := [{ Pend.empty with flag := some 2, on := .grove, sw := [(4, 0)], qw := [(0, false)] }] })
def res4 (t : State) : List (Tbl Word64) := (t.standAt 16).pend.map (fun p => p.sw)
theorem resolve_issued (s : State) (key : Nat) (g : Grove) (n : Nat) (h : s.groves = [(key, g)]) (hv : g.vi = 0) (hn : n ∈ g.issuedTags) :
    s.resolveName 0 (groveName g.ident n) = if g.live && groveName g.ident g.tag == groveName g.ident n then .live key else .stale := by
  have : (g.vi == 0 && g.issuedTags.any (fun t => groveName g.ident t == groveName g.ident n)) = true := by
    simp only [hv, beq_self_eq_true, Bool.true_and, List.any_eq_true]
    exact ⟨n, hn, by simp⟩
  simp [State.resolveName, h, this]
/-- A live name, one of a destroyed incarnation, and one that names nothing, whatever names look like. -/
theorem witness_names : (eventS grove1 .leave []).resolveName 0 (groveName 0 4) = .live 0x4000 ∧
    (eventS { grove1 with live := false, tag := 5 } .leave []).resolveName 0 (groveName 0 4) = .stale ∧
    ({ dataS with groves := [] }).resolveName 0 0 = .bad := by
  refine ⟨(resolve_issued _ _ grove1 4 rfl rfl (by decide)).trans (by simp [grove1]),
    (resolve_issued _ _ { grove1 with live := false, tag := 5 } 4 rfl rfl (by decide)).trans (by simp), ?_⟩
  have : ∀ k, (({ dataS with groves := [] } : State).groveAt k).live = false := fun k => rfl
  simp only [State.resolveName, List.find?_nil]
  split
  · simp [this]
  · rfl
theorem witness_grove_events : (∃ p ∈ ((eventS grove1 .leave []).standAt 16).pend, p.on = .grove) ∧ ((eventS grove1 .leave []).copseAt 1).life = .resident ∧
    (grove1.member 16).isSome = true ∧ grove1.members.length < grove1.limit :=
  ⟨⟨_, .head _, rfl⟩, by decide +kernel, by decide +kernel, by decide +kernel⟩
/-- gcreate and its statuses: created, the register is taken, the quota of groves is used up. -/
theorem test_grove_create : ((after (.groveEventApply 16) (eventS grove1 (.create 1 0) [])).groveAt 0x5000).members.map (fun m => (m.stand, m.st)) = [(16, .counted)] ∧
    res4 (after (.groveEventApply 16) (eventS grove1 (.create 1 0) [(1, ⟨0x4000, 4⟩)])) = [[(4, 1)]] ∧
    res4 (after (.groveEventApply 16) { eventS grove1 (.create 1 0) [] with vis := tset 0 { placeVi Vi.init with gquota := 1 } [] }) = [[(4, 2)]] := by decide +kernel
def both (x : MemSt) : Grove := { grove1 with cell := false, zeroCount := 2, members := [⟨16, 0, 0, .counted, none, false⟩, ⟨17, 1, 1, x, none, false⟩], joins := 2 }
/-- An arrival that waits for the other member; the one that completes the phase; one that is held for the next. -/
theorem test_grove_arrive : ((after (.groveEventApply 16) (eventS (both .counted) (.arrive .bar 0) [(1, ⟨0x4000, 4⟩)])).standAt 16).wait = .grove 1 ∧
    ((after (.groveEventApply 16) (eventS (both (.arrived .bar 0)) (.arrive .bar 0) [(1, ⟨0x4000, 4⟩)])).groveAt 0x4000).phase = 1 ∧
    ((after (.groveEventApply 16) (eventS { (both .idle) with members := [⟨16, 0, 0, .idle, none, false⟩, ⟨17, 1, 1, .counted, none, false⟩] } (.arrive .bar 0) [(1, ⟨0x4000, 4⟩)])).standAt 16).wait
      = .groveHeld 1 := by decide +kernel
/-- leave and query. -/
theorem test_grove_rest : ((after (.groveEventApply 16) (eventS (both .counted) .leave [(1, ⟨0x4000, 4⟩)])).groveAt 0x4000).members.map (fun m => m.stand) = [17] ∧
    res4 (after (.groveEventApply 16) (eventS (both .counted) (.query 4) [])) = [[(4, 0x100000000)]] ∧
    res4 (after (.groveEventApply 16) (eventS (both .counted) (.query 2) [(1, ⟨0x4000, 4⟩)])) = [[(4, 0x100000000002)]] := by decide +kernel

/-! ### Special registers, traps, events of a stand -/

def rd (h : Head) (d : Opd) (n : Nat) : Instr := .rdsr ⟨h, d, vR n, no, 0, 0⟩
def frame0 : Frame := { (default : Frame) with rpc := 0x40000020, rpc0 := 0x40000020, amask := 3, savs := [1, 2, 3, 4], sdep := 0, gate := true }
def framed (s : State) : State := withMe s (fun st => { st with frames := [frame0] })
theorem witness_rdsr : (∀ n ∈ [1, 2, 3, 4, 5, 6, 8, 0xF, 0x10, 0x11, 0x12, 0x13, 0x14, 0x15, 0x40, 0x5F], Acts heart (rd hL (sR 4) n) ∧ Acts (framed heart) (rd hVL (vR 4) n)) ∧
    Acts heart (rd hVL (vR 4) 0) ∧ Acts (noThread heart) (rd { hN with sch := .heart 15 2 } (vR 4) 1) ∧ frame0.savs.length = 4 :=
  ⟨fun n hn => ⟨acts_ofB (by revert n hn; decide +kernel), acts_ofB (by revert n hn; decide +kernel)⟩, acts_ofB (by decide +kernel), acts_ofB (by decide +kernel), rfl⟩
theorem test_rdsr : (after (rd hL (sR 4) 6) heart).me.pend.map (fun p => p.sw) = [[(4, 2)]] ∧ (after (rd hL (sR 4) 0x15) (framed heart)).me.pend.map (fun p => p.sw) = [[(4, 1)]] ∧
    (after (rd hL (sR 4) 0x57) (framed heart)).me.pend.map (fun p => p.sw) = [[(4, 4)]] := by decide +kernel
theorem witness_wrsr : (∀ i ∈ ([.wrsr ⟨hU, vR 0x50, sR 4, no, 0, 0⟩, .wrsr ⟨hU, vR 0x57, sR 4, no, 0, 0⟩, .spl ⟨hU, no, sR 4, no, 0, 0⟩, .spl ⟨hV, no, vR 4, no, 0, 0⟩] : List Instr),
    Acts heart i ∧ Acts (framed heart) i) ∧ Acts (noThread heart) (.spl ⟨hN, no, vR 4, no, 0, 0⟩) :=
  ⟨fun i hi => ⟨acts_ofB (by revert i hi; decide +kernel), acts_ofB (by revert i hi; decide +kernel)⟩, acts_ofB (by decide +kernel)⟩
/-- The example of R416: the greatest request of the threads, and 3 taken as 2. -/
theorem test_spl : (after (.spl ⟨hV, no, vR 4, no, 0, 0⟩) (withMe heart (fun st => { st with a := 3, v := [(512, 0), (513, 3)] }))).myCopse.laneReq = 2 := by decide +kernel
/-- The example of R403 in its handler: the class in s0, on sapwood and on heartwood; without a handler the stand ends. -/
def trapI : Instr := .trap ⟨hU, no, no, 0x2A3⟩
def trapP : Instr := .trap ⟨pU, no, no, 0x2A3⟩
theorem test_trap : tget 0 (after trapI (handled 0x13 heart)).me.sr 0 = 0x40000013 ∧ (after trapI (handled 0x13 heart)).me.pc = 0x40005000 ∧
    tget 0 (after trapP (handled 0x13 (withMe sap (fun st => { st with place := .inClause, clh := some ⟨0xFFF, 0, 1, 0, false, false, 0⟩ })))).me.sr 0 = 0x20000013 ∧
    (after trapI heart).me.life = .ending ∧ (after (.brk ⟨hU, no, no, 5⟩) heart).me.life = .halted := by decide +kernel
theorem witness_traps : Acts heart trapI ∧ Acts (handled 0x13 heart) trapI ∧ Acts heart (.brk ⟨hU, no, no, 5⟩) ∧ Acts heart (.halt nu) ∧ heart.me.pend = [] ∧ heart.me.frames.length < 4 ∧
    handlerOf (handled 0x13 heart) 16 0x13 ≠ 0 ∧ handlerOf heart 16 0x13 = 0 :=
  ⟨acts_ofB (by decide +kernel), acts_ofB (by decide +kernel), acts_ofB (by decide +kernel), acts_ofB (by decide +kernel), by decide +kernel, by decide +kernel, by decide +kernel, by decide +kernel⟩
def tretF (md : BitVec 2) : A64 := ⟨hU, no, no, no, 0, md⟩
/-- tret without a frame, with RPC as it was, with a misaligned RPC, and past the word. -/
theorem witness_tret : (∀ md ∈ [0, 1], Acts heart (.tret (tretF md)) ∧ Acts (framed heart) (.tret (tretF md)) ∧
      Acts (withMe heart (fun st => { st with frames := [{ frame0 with rpc := 2 }] })) (.tret (tretF md))) ∧ frame0.rpc.extractLsb' 0 2 = 0 ∧ frame0.amask ≠ 0 :=
  ⟨fun md hm => ⟨acts_ofB (by revert md hm; decide +kernel), acts_ofB (by revert md hm; decide +kernel), acts_ofB (by revert md hm; decide +kernel)⟩, by decide, by decide⟩
theorem test_tret : (after (.tret (tretF 0)) (framed heart)).me.pc = 0x40000020 ∧ (after (.tret (tretF 0)) (framed heart)).me.a = 3 ∧
    tget 0 (after (.tret (tretF 0)) (framed heart)).me.sr 2 = 3 ∧ trapsOf (after (.tret (tretF 0)) (handled 1 heart)) = [(1, 8)] := by decide +kernel
/-- Full frames; a stand whose trap waits; a deferred trap; a stand at its end, the last and not; one that has waited to issue. -/
def rec0 : FaultRec := { (default : FaultRec) with cls := 3, cause := 1 }
theorem witness_stand_events : (withMe heart (fun st => { st with frames := List.replicate 4 frame0 })).me.frames.length = 4 ∧
    (after (.trapEntry 16) (withMe heart (fun st => { st with trapWait := some rec0 }))).me.life = .ending ∧
    ((withMe heart (fun st => { st with deferred := [rec0] })).me.life = .live) ∧ (after (.deferredTrapTake 16) (withMe heart (fun st => { st with deferred := [rec0] }))).me.life = .ending ∧
    (withMe heart (fun st => { st with life := .ending })).quiet 16 = true ∧ (withMe heart (fun st => { st with life := .ending })).standsOf 1 = [16] ∧
    (withMe heart (fun st => { st with life := .ending })).grovesWith 16 = [] ∧ ((after (.standEnd 16) (withMe heart (fun st => { st with life := .ending }))).copseAt 1).life = .ended ∧
    (withMe two (fun st => { st with life := .ending })).standsOf 1 = [16, 17] ∧ (after (.sleepEnd 16) (withMe heart (fun st => { st with wait := .sleep 0 }))).me.wait = .none ∧
    ((withMe heart (fun st => { st with issueWait := 2 ^ 26 })).viAt 0).ien = true ∧ (withMe heart (fun st => { st with issueWait := 2 ^ 26, ready := 0, stall := 2 })).countable 16 = true := by decide +kernel

/-! ### Launches, moves, pages, domains -/

/-- A launch record of one stage with one field level of 4 at 0x40006000 (R62-R64). -/
def recordMem (m : Mem) : Mem :=
  memWrite (memWrite (memWrite (memWrite (memWrite m 0x40006000 0x14C335A4B 8) 0x40006080 0x40000000 8) 0x40006088 0x40000000 8)
    0x40006098 0x0003000000040008 8) 0x400060C0 0x0005000000000004 8
def launchS : State := commanded 1 7 { heart with frames := recordMem heart.frames, copses := [], stands := [] }
def launchBad : State := commanded 1 7 heart
theorem witness_launch : (launchS.takeCmd 0 1 7).isSome = true ∧ launchS.takeCmd 0 1 8 = none ∧ (launchS.viAt 0).dom.live.nslice ≠ 0 ∧ (launchS.viAt 0).nclus = 0 ∧
    (launchS.readRecord 0 0x40006000).map (fun x => launchS.recordCodes 0 x.1 x.2) = some [] ∧ launchBad.readRecord 0 0x80000000 = none ∧
    (launchBad.readRecord 0 0x40006000).map (fun x => launchBad.recordCodes 0 x.1 x.2) = some [1, 2, 3] := by decide +kernel
/-- The same with a controlling count of clusters, as a real partition has. -/
def withClus (s : State) : State := { s with vis := s.vis.map (fun x => (x.1, { x.2 with nclus := 1 })) }
theorem test_launch : (after (.launch 0 7 0x40006000) (withClus launchS)).nextId = 3 ∧ ((after (.launch 0 7 0x40006000) (withClus launchS)).launchAt 2).running = true ∧
    ((after (.launch 0 7 0x40006000) (withClus launchS)).launchAt 2).stages.map (fun st => (st.vregs, st.tickets)) = [(8, 4)] ∧
    memRead (after (.launch 0 7 0x40006000) launchS).hostMem 8192 3 = 0x120007 ∧ memRead (after (.launch 0 7 0x80000000) (withClus launchBad)).hostMem 8192 3 = 0x090007 := by decide +kernel
/-- A stage of four tickets that cluster 140 serves, with no copse yet. -/
def creating : State :=
  { (withStage heart (fun st => { st with levels := levels, counters := [(1, [(0, 4)])], created := 0 })) with
    copses := [], stands := [], cores := [], clusters := [(140, { Cluster.init with serves := some (1, 0) })], nextId := 9 }
theorem witness_create : (creating.launchAt 1).running = true ∧ creating.workLeft 1 0 1 = 4 ∧ creating.serving 1 0 1 = [140] ∧
    ((after (.copseCreate 1 0 561) creating).copseAt 9).life = .resident ∧ ((after (.copseCreate 1 0 561) creating).standAt 144).pc = 0x40000000 ∧
    after (.copseCreate 1 0 560) creating = creating ∧ { creating with clusters := [] }.serving 1 0 1 = [] := by decide +kernel
/-- Two stages, the second without a cluster: below its minimum; with its input queue high; or with work where the other has none (R80). -/
def twoStages (min0 min1 : Nat) (items : Nat) (left : List (Nat × Nat)) : State :=
  { creating with launches := [(1, { placeLaunch with stages :=
      [{ placeStage with cmin := min0, qlog := 6, segs := [(1, List.replicate items item)], counters := [(1, left)] }, { placeStage with cmin := min1, counters := [(1, [])] }] })] }
theorem witness_reassign : let s := twoStages 0 1 1 [(0, 9)]
    let t := twoStages 0 0 64 [(0, 9)]
    let u := twoStages 0 0 1 []
    (1, 1) ∈ s.openStages ∧ (1, 0) ∈ s.openStages ∧ s.servingCount (1, 0) 1 ≠ 0 ∧ s.belowMax (1, 1) 1 = true ∧ s.belowMin (1, 1) 1 = true ∧ s.workLeft 1 1 1 ≠ 0 ∧
    (s.stage 1 0).cmin < s.servingCount (1, 0) 1 ∧ t.belowMin (1, 1) 1 = false ∧ t.inputHigh (1, 1) 1 = true ∧ t.outputFull (1, 0) 1 = true ∧
    u.workLeft 1 1 1 ≠ 0 ∧ u.workLeft 1 0 1 = 0 := by decide +kernel
/-- The example of R75: 24 tickets in blocks of 6 over three clusters and one; B's next claim takes the top half of A's rest. -/
def exampleStage : Stage := { placeStage with levels := [⟨4, 5, 0, 0⟩, ⟨6, 1, 0, 0⟩, ⟨128, 0, 0, 0⟩] }
theorem test_tickets : exampleStage.tickets = 24 ∧ exampleStage.splitTickets [(0, 3), (1, 1)] = [(0, [(0, 18)]), (1, [(18, 24)])] ∧
    ({ exampleStage with counters := [(0, [(12, 18)]), (1, [])] }.takeField 1 1).1 = some [(15, 16)] ∧
    ({ exampleStage with counters := [(0, [(12, 18)]), (1, [])] }.takeField 1 1).2.counters = [(0, [(12, 15)]), (1, [(16, 18)])] ∧
    exampleStage.digitsOf 15 = [(1, 3), (0, 2)] := by decide +kernel
theorem witness_stage_complete : let s := { heart with copses := [], stands := [] }
    (s.launchAt 1).running = true ∧ (s.stage 1 0).done = false ∧ (s.stage 1 0).counters = [] ∧ ((after (.stageComplete 1 0) s).launchAt 1).running = false ∧
    after (.stageComplete 1 0) heart = heart := by decide +kernel

/-- A copse with a pending move and room; gathered at its graft point; without a table; lapsed. -/
def pendingS : State := { (asked ⟨some .sap, .pending, 0, 0, 0, none⟩ mapped) with clusters := [(140, { Cluster.init with serves := some (1, 0) })] }
def gathered (m : Mem) : State :=
  withMe (asked ⟨some .sap, .gather, 0, 0, 5, some 561⟩ { mapped with frames := memWrite m placePc (wordBits (.markWord ⟨5⟩)).toNat 8 }) (fun st => { st with held := true, v := [(0, 5)] })
theorem witness_move_room : pendingS.moveFits 1 561 = true ∧ 561 ∈ (pendingS.serving 1 0 1).flatMap coresOf ∧ mapped.serving 1 0 1 = [] ∧ (pendingS.copseAt 1).life = .resident := by decide +kernel
theorem witness_migrate : (gathered mapped.frames).atGraft 16 = true ∧ (gathered mapped.frames).gidAt 16 = some 5 ∧ (gathered mapped.frames).holdsResv 1 = false ∧
    ((gathered mapped.frames).abandonAll 1).copseStill 1 = true ∧ ((after (.copseMigrate 1) (gathered mapped.frames)).copseAt 1).core = 561 ∧
    ((after (.copseMigrate 1) (gathered mapped.frames)).copseAt 1).kind = .sap ∧ ((after (.copseMigrate 1) (gathered mapped.frames)).copseAt 1).move.state = .done ∧
    ((after (.copseMigrate 1) (gathered heart.frames)).copseAt 1).move = ⟨none, .refused, 3, 0, 0, none⟩ ∧
    ((after (.copseMigrate 1) (withMe (gathered mapped.frames) (fun st => { st with stack := [⟨.pend, some 4, 1⟩] }))).copseAt 1).move.reason = 4 := by decide +kernel
theorem witness_migrate_settled : ∀ line, Settled (gathered mapped.frames) 560 line := cold_settled (by decide +kernel) 560
theorem witness_lapse : ((after (.moveLapse 1) (asked ⟨some .sap, .gather, 0, 0, 65536, some 561⟩ heart)).copseAt 1).move.state = .lapsed ∧
    after (.moveLapse 1) (asked ⟨some .sap, .gather, 0, 0, 65535, some 561⟩ heart) = asked ⟨some .sap, .gather, 0, 0, 65535, some 561⟩ heart := by decide +kernel
/-- Two clusters of one stage, 30 degrees apart, and a copse on the hot one. -/
def hot : State := { heart with clusters := [(140, { Cluster.init with serves := some (1, 0) }), (141, { Cluster.init with serves := some (1, 0) })] }
theorem witness_rotation : hot.rotationPairs 1 [(140, 90), (141, 60)] = [(140, 141)] ∧ (hot.fieldAt 1).rotEn = true ∧ ((after (.shadeRotation 1 [(140, 90), (141, 60)]) hot).copseAt 1).core = 564 ∧
    hot.rotationPairs 1 [(140, 67), (141, 60)] = [] := by decide +kernel

/-- Request 5 for page 0x8000 with its stand held on it; a request nobody waits for; a page with a logged store. -/
def trap0 : TrapReq := ⟨3, 6, 0x80000000, 0, 1, false, allLanes, 0, 0⟩
def requested (op : Nat) : State :=
  let s := commanded op 7 (withMe heart (fun st => { st with wait := .page [(5, trap0)] none }))
  { s with vis := s.vis.map (fun x => (x.1, { x.2 with pages := [⟨5, 0x8000, 2⟩], nextReq := 6 })) }
theorem witness_page_answer : ((requested 2).takeCmd 0 2 7).isSome = true ∧ (requested 2).awaited 0 5 = true ∧ (requested 2).awaited 0 4 = false ∧
    (requested 2).residentsOf 0 = [1] ∧ (requested 2).cmdsOn 0 5 = [] ∧ (requested 2).standsOfVi 0 = [16] ∧
    ((after (.pageAns 0 7 5 false) (requested 2)).standAt 16).wait = .none ∧ ((after (.pageAns 0 7 5 true) (requested 2)).standAt 16).life = .ending ∧
    memRead (after (.pageAns 0 7 4 false) (requested 2)).hostMem 8192 3 = 0x130007 := by decide +kernel
def loggedPage : State :=
  let s := requested 2
  { s with cores := [(560, { Core.init.redeal [1] with slog := [⟨16, 0x4000, 3, [⟨0, 0x40000000, 4, 9⟩], none, 0, 0, true, 5, 0⟩] })], stands := [(16, placeStand)] }
theorem witness_page_log : (loggedPage.logsOf 0).filter (fun x => x.2.req == 5) = [(560, ⟨16, 0x4000, 3, [⟨0, 0x40000000, 4, 9⟩], none, 0, 0, true, 5, 0⟩)] ∧
    (loggedPage.xlate 1 .write 0x40000000 matches .ok _) = true ∧ byteSeen (after (.pageAns 0 7 5 false) loggedPage) 560 0x40000000 = 9 := by decide +kernel
/-- INVAL of a range that meets a TLB entry, with no request in it and with one. -/
def cachedTlb : State := { requested 3 with cores := [(560, { Core.init.redeal [1] with tlb := [⟨1, 0, 30, 1, 0x4000000F⟩] })] }
theorem witness_inval : (cachedTlb.takeCmd 0 3 7).isSome = true ∧ ((after (.inval 0 7 0x40000000 0x1000) cachedTlb).coreAt 560).tlb = [] ∧
    memRead (after (.inval 0 7 0x40000000 0x1000) cachedTlb).hostMem 8192 3 = 7 := by decide +kernel
def domS (d : Domain) : State := { cachedS lineD with vis := [(0, { placeVi Vi.init with dom := d })], frames := memWrite dataS.frames 0x40007000 16 8 }
def dom0 : Domain := ⟨false, false, false, false, ⟨1, 7, 0, [16]⟩, ⟨1, 7, 0x40007000 / 8, []⟩, 0⟩
theorem witness_domains : (domS { dom0 with wb := true }).domainLines 0 = [data / 128] ∧ ((domS { dom0 with wb := true }).dir.map Prod.fst).Nodup ∧
    memGet (after (.domWbComplete 0) (domS { dom0 with wb := true })).frames data = 5 ∧ ((after (.domSwitchComplete 0) (domS { dom0 with sw := true })).dirAt (data / 128)).cached = false ∧
    hmaskFor 1 = 7 ∧ hmaskFor 16 = 0x7F ∧ ((after (.domWb 0) (domS dom0)).viAt 0).dom.wb = true ∧ ((after (.domWb 0) (domS { dom0 with sw := true })).viAt 0).dom.err = true ∧
    ((after (.domSwitch 0) (domS { dom0 with set1 := { dom0.set1 with hmask := 15 } })).viAt 0).dom.err = true := by decide +kernel

/-! ### Pre-emption, saved copses, DEBUG -/

/-- The example of R407: 103,392 bytes, Es = 101, Ed = 1,011. -/
def example407 : State :=
  withCopse (withStage heart (fun st => { st with gmap := 0x40001000 })) (fun c => { c with nst := 4, vregs := 40, uregs := 20, alloc := 47, gavg := [20000] })
theorem test_save_cost : example407.saveBytes 1 = 103392 ∧ example407.saveCost 1 = 101 ∧ example407.drainCost 1 = some 1011 ∧
    heart.drainCost 1 = none := by decide +kernel
theorem witness_save_cost : (example407.copseAt 1).life = .resident ∧ (example407.engineAt (clusterOf (example407.copseAt 1).core)).taken = [] ∧
    (example407.coreAt (example407.copseAt 1).core).chans = [] ∧ (example407.coreAt (example407.copseAt 1).core).slog = [] ∧
    (∀ j ∈ example407.standsOf 1, (example407.standAt j).deferred = []) ∧ (example407.fieldAt 1).tdiv = 1 := by decide +kernel
def restartable (s : State) : State := withLaunch s (fun l => { l with rstrt := true, record := 0x40006000 })
/-- PREEMPT of the copse: B = 2,000 drains with 1,899 cycles to spare, B = 500 saves, B = 50 flushes or saves, no bound drains (R408). -/
def preempted (b : BitVec 32) : State := after (.preempt 0 7 0x40006000 none b 0) (restartable (commanded 4 7 example407))
theorem witness_preempt : ((restartable (commanded 4 7 example407)).takeCmd 0 4 7).isSome = true ∧ (preempted 2000).copseAt 1 = { example407.copseAt 1 with drain := some ⟨some 1899, 0, some (0, 7)⟩ } ∧
    ((preempted 500).copseAt 1).drain = some ⟨some 0, 0, some (0, 7)⟩ ∧ ((preempted 0).copseAt 1).drain = some ⟨none, 0, some (0, 7)⟩ ∧ ((preempted 50).copseAt 1).life = .ended ∧
    memRead (after (.preempt 0 7 0 none 50 0) (restartable (commanded 4 7 example407))).hostMem 8192 3 = 7 := by decide +kernel
/-- A launch that waits for room held by a copse of a lower priority, and one that does not. -/
def urgent : State :=
  { heart with clusters := [(140, { Cluster.init with serves := some (2, 0) })],
               launches := tset 2 { placeLaunch with prio := 9, latb := 500, stages := [{ placeStage with counters := [(1, [(0, 4)])], levels := levels, cstands := 8, created := 0, kinds := 2 }] } heart.launches }
def urgent7 : State := { urgent with launches := urgent.launches.map (fun x => (x.1, { x.2 with stages := x.2.stages.map (fun (st : Stage) => { st with cstands := 7 }) })) }
theorem witness_preempt_eval : (urgent.launchAt 2).running = true ∧ urgent.hostFields 0 = [1] ∧ urgent.stageWaits 2 0 1 = true ∧ after (.preemptEval 1) urgent = urgent ∧
    urgent.admits 2 0 1 [1] = false ∧ urgent7.admits 2 0 1 [1] = true ∧
    urgent7.stageWaits 2 0 1 = true := by decide +kernel
def draining (d : Drain) : State := withCopse example407 (fun c => { c with drain := some d, nst := 1, vregs := 8, uregs := 4, alloc := 0 })
def areaS : State := { draining ⟨some 0, 0, none⟩ with vis := [(0, { ringed (placeVi Vi.init) with saveBase := 16, saveLen := 200 })] }
theorem witness_drains_out : ((after (.drainLimit 1) (draining ⟨none, 65536, none⟩)).copseAt 1).drain = some ⟨some 0, 65536, none⟩ ∧
    after (.drainLimit 1) (draining ⟨none, 65535, none⟩) = draining ⟨none, 65535, none⟩ ∧ (areaS.abandonAll 1).copseStill 1 = true ∧ (areaS.viAt 0).saveBase ≠ 0 ∧
    (4096 + 64 * 4096 + 4095) / 4096 = 65 ∧ ((areaS.abandonAll 1).packed 1).imageSize 1 ≤ 135 * 4096 ∧ (areaS.viAt 0).saved = [] ∧
    ((after (.copseSave 1) (draining ⟨some 0, 0, none⟩)).copseAt 1).life = .resident ∧ ((after (.copseSave 1) (draining ⟨some 0, 0, none⟩)).copseAt 1).drain = none := by decide +kernel
theorem witness_victim : let s := { heart with vis := [(0, { ringed (placeVi Vi.init) with cmds := [⟨4, 7, 0, 1, false, [1], 0⟩] })] }
    (s.viAt (s.copseAt 1).vi).cmds = [⟨4, 7, 0, 1, false, [1], 0⟩] ∧ ((s.victimDone 1 false).viAt 0).cmds = [] := by decide +kernel
/-- A saved copse whose core has room; one that moves as it comes back. -/
def savedS (s : State) : State := { (withCopse s (fun c => { c with life := .saved })) with
  cores := [], clusters := [(140, { Cluster.init with serves := some (1, 0) })], vis := [(0, { ringed (placeVi Vi.init) with saved := [(0, 1, 0x41000, 8192)] })] }
theorem witness_restore : (savedS heart).admitting 1 .heart = [560] ∧ ((after (.copseRestore 1 560) (savedS heart)).copseAt 1).life = .resident ∧
    after (.copseRestore 1 561) (savedS heart) = savedS heart ∧ after (.copseRestore 1 560) heart = heart ∧
    (savedS (gathered mapped.frames)).atGraft 16 = true ∧ (561 ∈ (savedS (gathered mapped.frames)).admitting 1 .sap) ∧
    ((after (.copseRestore 1 561) (withCopse (savedS (gathered mapped.frames)) (fun c => { c with move := ⟨some .sap, .pending, 0, 0, 0, none⟩ }))).copseAt 1).kind = .sap := by decide +kernel
/-- RESTORE: not an image, an image with no entry, no cluster, one entry. -/
def imageS (entry : Nat) (part : List Nat) : State :=
  let s := commanded 5 7 { heart with boot := { heart.boot with clusters := part } }
  { s with hostMem := memWrite (memWrite (memWrite (memWrite (memWrite s.hostMem 0x10000 0x0001_0001_494D5A4B 8) 0x10008 0x10000 8) 0x10018 0x10001 8) 0x11000 entry 8) 0x11010 8192 8 }
theorem witness_restore_image : (launchS.takeCmd 0 5 7) = none ∧ ((commanded 5 7 heart).takeCmd 0 5 7).isSome = true ∧ ((imageS 0 [140]).takeCmd 0 5 7).isSome = true ∧
    bits (memRead (imageS 0 [140]).hostMem 0x10000 32) 207 192 = 1 ∧ bits (memRead (imageS 0 [140]).hostMem 0x10000 32) 223 208 = 1 ∧
    memRead (after (.restore 0 7 0x10000 0 0) (imageS 0 [140])).hostMem 8192 3 = 7 ∧ (after (.restore 0 7 0x10000 0 0) (imageS 0 [])).cores = heart.cores ∧
    (imageS 1 [140]).launches.find? (fun e => e.2.running && e.2.vi == 0 && e.2.record.toNat == 0) = some (1, placeLaunch) ∧
    memRead (after (.restore 0 7 0x20000 0 0) (imageS 0 [140])).hostMem 8192 8 = 0x702_00000007 := by decide +kernel
/-- DEBUG of a halted stand, continued and terminated; of none. -/
def haltedS : State := commanded 6 7 (withMe heart (fun st => { st with life := .halted }))
theorem witness_debug : (haltedS.takeCmd 0 6 7).isSome = true ∧ ((after (.debugCmd 0 7 0 0 0) haltedS).standAt 16).life = .live ∧
    ((after (.debugCmd 0 7 0 0 1) haltedS).standAt 16).life = .ending ∧ memRead (after (.debugCmd 0 7 0 1 0) haltedS).hostMem 8192 3 = 0x150007 := by decide +kernel

/-! ### Rates, readings, timeouts, errors; the network -/

/-- A copse that asks for twice the rate, a bound of half, and a ceiling (R417). -/
def rated (req fcap ceil : Nat) : State :=
  { (withCopse heart (fun c => { c with laneReq := BitVec.ofNat 2 req })) with
    fields := [(1, { Field.init with fcap := BitVec.ofNat 2 fcap })], vis := [(0, { placeVi Vi.init with ceil := BitVec.ofNat 2 ceil })] }
theorem witness_rates : (1, heart.copseAt 1) ∈ heart.copses ∧ (heart.copseAt 1).life = .resident ∧ clusterOf (heart.copseAt 1).core = 140 ∧
    ((after (.rateBoundary 140) (rated 2 2 2)).clusterAt 140).rate = 2 ∧ ((after (.rateBoundary 140) (rated 2 0 2)).clusterAt 140).rate = 0 ∧
    ((after (.rateBoundary 140) (rated 2 2 0)).clusterAt 140).rate = 0 ∧ ((after (.rateBoundary 141) (rated 2 2 2)).clusterAt 141).rate = 1 := by decide +kernel
/-- 35,699 W with the guard of 6,300 W keeps the bound, 35,700 W does not (R419); 45.0 °C and 44 V are in range (R453). -/
theorem witness_readings : readingKeeps ⟨35699, 48000, 0, 300, 0⟩ = true ∧ readingKeeps ⟨35700, 48000, 0, 300, 0⟩ = false ∧ readingOut ⟨0, 44000, 0, 450, 0⟩ = false ∧
    readingOut ⟨0, 43999, 0, 450, 0⟩ = true ∧ readingOut ⟨0, 54001, 0, 450, 0⟩ = true ∧ readingOut ⟨0, 48000, 0, 451, 0⟩ = true ∧
    ({ Field.init with good := 15, tdiv := 8 }.onReading ⟨100, 48000, 0, 300, 0⟩).tdiv = 4 ∧ ({ Field.init with fcap := 0, good := 15 }.onReading ⟨100, 48000, 0, 300, 0⟩).fcap = 1 ∧
    ({ Field.init with fcap := 1, good := 15 }.onReading ⟨100, 48000, 0, 300, 0⟩).fcap = 2 ∧ ({ Field.init with fcap := 0, tdiv := 2 }.onReading ⟨42000, 48000, 0, 300, 0⟩).tdiv = 4 ∧
    heart.power.on = true ∧ 1 ∈ allFields ∧ 8 ∉ allFields ∧ allFields.length = 77 := by decide +kernel
def faded : State := { heart with power := { heart.power with bad := 1000 } }
theorem witness_power : (after .powerRemove faded).power.on = false ∧ (after .powerRemove faded).frames = [] ∧ after .powerRemove heart = heart := by decide +kernel
/-- A command that started at the present count, with a bound that it has and has not yet passed (R447). -/
def timedS (limit : BitVec 32) : State :=
  { heart with vis := [(0, { ringed (placeVi Vi.init) with hlim := limit, cmds := [⟨4, 7, 0, 1, false, [], 0⟩] })],
               fields := (List.range 81).map (fun f => (f, { Field.init with ref := 200 })) }
theorem witness_timeout : ((timedS 100).fieldAt (portField (0 / 32))).ref - 0 = 200 ∧
    100 * 1 < (200 : Word64).toNat ∧ (200 : Word64).toNat ≤ 200 * 1 ∧ ((timedS 100).viAt 0).cmds = [] ++ ⟨4, 7, 0, 1, false, [], 0⟩ :: [] := by
  refine ⟨?_, by decide, by decide, by decide +kernel⟩
  have h : ∀ f < 81, ((timedS 100).fieldAt f).ref - 0 = 200 := by decide +kernel
  have rim : ∀ f ∈ rimFields, f < 81 := by decide +kernel
  refine h _ ?_
  unfold portField
  cases e : rimFields[Config.controllingField (0 / 32) % 28]? with
  | none => decide
  | some f => exact rim f (List.mem_of_getElem? e)
theorem witness_errors : (heart.copseAt 1).vi = 0 ∧ (heart.copseAt 1).launch ≠ 0 ∧ heart.standsOf 1 = [16] ∧ (heart.launchAt 1).vi = 0 ∧
    ((heart.terminateContext 0).copseAt 1).life = .ended ∧ ((heart.terminateContext 0).standAt 16).life = .absent ∧ ((heart.terminateContext 0).launchAt 1).running = false ∧
    0 ∈ heart.vis.map Prod.fst ∧ 16 ∈ (heart.viAt 0).dom.live.slices ∧ heart.boot.slices = [16] := by decide +kernel

/-- Two heads at router 400 (field 19) name its local output under table 1: input north with PRI 1, input local with PRI 2. -/
def pkt (id pri dest : Nat) (link : Option Nat) : Packet :=
  { id := id, kind := if pri = 1 then .store else .load, plane := 0, router := 400, dest := BitVec.ofNat 11 dest, dport := 0, src := 300, sport := 0, ts := true,
    xo := false, esc := false, len := 1, txn := 0, link := link, sent := false, ts0 := true, xo0 := false, escaped := none }
def netS (arbs : Tbl Arbiter) (ps : List Packet) : State :=
  { heart with net := { heart.net with packets := ps, arbs := arbs, planes := [(0, ⟨true, .stable, [], [(400, [(400, 0), (401, 2), (402, 6), (403, 7)]), (0, [(401, 5)])], 1, []⟩)],
                                       links := [(linkOf 0 0 400 2, ⟨true, 8⟩), (linkOf 0 0 400 3, ⟨false, 8⟩)] } }
def heads : List Packet := [pkt 1 1 400 (some (linkOf 0 0 364 3)), pkt 2 2 400 none]
/-- R426: the header of a load to the router 400 from the router 300 under table 1: PRI 2, LEN 1. -/
theorem test_header : (pkt 2 2 400 none).header = 400 + 300 * 2 ^ 15 + 2 ^ 30 + 2 * 2 ^ 31 + 1 * 2 ^ 35 := by decide
/-- R434: the highest PRI first; a saturated age comes before PRI; the pointer passes the input whose run is at its weight, and stays at another. -/
theorem test_arbitration : let s := netS [] heads
    let won (p : Nat) (a : Arbiter) : Option Nat := (firstFrom p (candidates 63 (s.headsOf 0 0 400 0 a))).map Prod.fst
    won 0 ⟨0, 0, []⟩ = some 4 ∧ won 0 ⟨0, 0, [(0, (1, 63))]⟩ = some 0 ∧ won 0 ⟨0, 0, [(0, (7, 63))]⟩ = some 4 ∧
    Arbiter.granted ⟨0, 0, []⟩ 4 (fun _ => 1) = (5, 0) ∧ Arbiter.granted ⟨4, 1, []⟩ 4 (fun _ => 3) = (4, 2) := by decide +kernel
/-- Heads, links and outputs of the statement on the network. -/
theorem witness_network (r : Config.routerPasses 400 = true) : let s := netS [] heads
    s.headAt 0 0 400 4 = some (pkt 2 2 400 none) ∧ s.headAt 0 0 400 0 = some (pkt 1 1 400 (some (linkOf 0 0 364 3))) ∧
    s.headAt 0 0 400 1 = none ∧ s.linkDead (linkOf 0 0 400 2) = true ∧ s.routerDead 400 = false ∧ s.linkDead (linkOf 0 0 400 5) = false ∧
    s.escapedIn (sliceOfRouter 400) 0 = 0 ∧ (∀ p ∈ heads, ∀ x ∈ s.net.packets, x.id = p.id → x = p) ∧ s.behindLink (linkOf 0 0 400 5) = [] ∧
    s.outOf (pkt 1 1 401 none) = 2 ∧ s.outOf (pkt 1 1 402 none) = 6 ∧ s.outOf (pkt 1 1 403 none) = 7 := by
  have b : linkTests 3205 = true := by simp [linkTests, routerOfLink, r]
  refine ⟨by decide +kernel, by decide +kernel, by decide +kernel, by decide +kernel, ?_, ?_, by decide +kernel, by decide +kernel, by decide +kernel, by decide +kernel,
    by decide +kernel, by decide +kernel⟩
  · rw [State.routerDead, r]
    decide +kernel
  · rw [show linkOf 0 0 400 5 = 3205 from rfl, State.linkDead, b]
    decide +kernel
/-- R429, R430: over the crossover link once, then to the escape buffer; from a router that has failed nothing goes. -/
theorem test_reinject (r : Config.routerPasses 400 = true) : let p := pkt 1 1 401 none
    let q := { p with xo := true }
    (netS [] [q]).forward q 2 = (netS [] [q]).eject q ∧ (netS [] [p]).forward p 2 = (netS [] [p]).cross p ∧ (netS [] [p]).forward p 7 = none ∧
    ((netS [] [q]).eject q).map (fun t => t.net.packets.map Packet.escaped) = some [some (sliceOfRouter 400, 1)] ∧ (netS [] [p]).routerDead 0 = true := by
  have dead (ps : List Packet) : (netS [] ps).routerDead 400 = false := by
    rw [State.routerDead, r]
    exact (by decide +kernel : ((crossovers 400).any (fun l => ((netS [] []).linkAt l).failed) || absentRouter 400 || !true) = false)
  have link (ps : List Packet) : (netS [] ps).linkDead (linkOf 0 0 400 2) = true := by
    rw [State.linkDead, show ((netS [] ps).linkAt (linkOf 0 0 400 2)).failed = true from (by decide +kernel : ((netS [] []).linkAt (linkOf 0 0 400 2)).failed = true)]
    rfl
  refine ⟨?_, ?_, ?_, by decide +kernel, by decide +kernel⟩ <;> simp [State.forward, State.reinject, pkt, dead, link, Packet.net, Transaction.net]
/-- R423, R426: the router 800 may inject a load of one flit, none of three, and a line of three flits. -/
theorem witness_inject (r : Config.routerPasses 800 = true) : (netS [] []).routerDead 800 = false ∧ ((0x1900190 : Word64).extractLsb' 15 11).toNat = 800 ∧
    0 ∈ Transaction.load.lens ∧ 2 ∉ Transaction.load.lens ∧ 2 ∈ Transaction.lineWrite.lens ∧ (netS [] []).net.packets = [] ∧
    (Packet.ofHeader .load 0 7 true 0x1900190).router = 800 ∧ (Packet.ofHeader .load 0 7 true 0x1900190).dest = 400 := by
  refine ⟨?_, by decide, by decide, by decide, by decide, rfl, by decide, by decide⟩
  rw [State.routerDead, r]
  decide +kernel
/-- R424: what is received on a link clears its failed resends; without a flit there is nothing to send again. -/
theorem test_received : let l := linkOf 0 0 364 3
    let s := (netS [] [{ pkt 1 1 400 (some l) with sent := true }]).setLink l ⟨false, 5⟩
    s.headAt 0 0 400 0 = none ∧ (s.received l).headAt 0 0 400 0 = some (pkt 1 1 400 (some l)) ∧ (s.received l).linkAt l = ⟨false, 0⟩ ∧
    (after (.flitResend l) s).linkAt l = ⟨false, 6⟩ ∧ (after (.flitResend l) (s.received l)).linkAt l = ⟨false, 0⟩ := by decide +kernel
/-- R424, R429: a link and a crossover that work fail after eight resends; what the link held is at its sender again. -/
theorem witness_links (h : Config.linkPasses 3203 = true) (r : Config.routerPasses 400 = true) (n : Config.routerPasses 436 = true) :
    let s := netS [] [{ pkt 1 1 401 (some (linkOf 0 0 400 3)) with router := 436, sent := true }]
    s.linkDead (linkOf 0 0 400 3) = false ∧ 8 ≤ (s.linkAt (linkOf 0 0 400 3)).resends ∧ linkOf 0 0 400 3 < 62208 ∧ s.linkDead (linkOf 0 0 400 5) = false ∧
    s.onLink (linkOf 0 0 400 3) = some { pkt 1 1 401 (some (linkOf 0 0 400 3)) with router := 436, sent := true } := by
  have a : linkTests 3203 = true := by simp [linkTests, routerOfLink, nextRouter, h, r, n]
  have b : linkTests 3205 = true := by simp [linkTests, routerOfLink, r]
  refine ⟨?_, by decide +kernel, by decide, ?_, by decide +kernel⟩
  · rw [show linkOf 0 0 400 3 = 3203 from rfl, State.linkDead, a]
    decide +kernel
  · rw [show linkOf 0 0 400 5 = 3205 from rfl, State.linkDead, b]
    decide +kernel
/-- R430, R431: an older packet is sent again; the four states of a change in turn. -/
theorem witness_tables : let s := netS [] [{ pkt 1 1 400 none with escaped := some (300, 0) }]
    let next (i : Instr) (t : State) : State := after i t
    let a := next (.tableChangeStart 0 [(400, [(400, 3)])]) s
    let b := next (.tableDraining 0) (next (.tableSwitching 0) a)
    (after (.escapeResend 300 0) s).net.packets = [{ pkt 1 1 400 none with esc := true }] ∧ (s.planeAt 0).st = .stable ∧ (a.planeAt 0).st = .loading ∧
    ((next (.tableSwitching 0) a).planeAt 0).st = .switching ∧ (b.planeAt 0).st = .draining ∧ ((next (.tableStable 0) b).planeAt 0).act = false ∧
    (next (.tableStable 0) b).entryAt 0 false 400 400 = 3 := by decide +kernel
/-- R428, R432: four turns around a square of routers make a cycle, and no table may bring them; three of them do not. -/
def square (n : Nat) : Tbl (Tbl (BitVec 4)) :=
  [(400, [(600, 2), (601, 0), (602, 0), (603, 2)]), (401, [(600, 3), (601, 3)]), (436, [(602, 1), (603, 1)]), (437, [(601, 4), (602, 4)])].take n
theorem test_turns : turnsAcyclic [(0, 1), (1, 2), (2, 3)] = true ∧ turnsAcyclic [(0, 1), (1, 2), (2, 0)] = false ∧
    turnsAcyclic (turnsOf (square 4)) = false ∧ turnsAcyclic (turnsOf (square 3)) = true ∧
    ((after (.tableChangeStart 0 (square 4)) (netS [] [])).planeAt 0).st = .stable := by decide +kernel

/-! ### Registers, resets, peers; bring-up -/

theorem witness_registers : heart.boot.phase = .ready ∧ (heart.viAt 0).en = true ∧ (heart.viAt 1).en = false ∧ (heart.launchAt 1).running = true ∧
    ((after (.registerWrite (.saveBase 0) 0x41000) heart).viAt 0).saveBase = 0x41 ∧ ((after (.registerWrite (.wdog 0) 0x10000001F) heart).viAt 0).ilog = 31 ∧
    ((after (.registerWrite (.wdog 0) 0x100000003) heart).viAt 0).ilog = 20 ∧ after (.registerWrite (.saveBase 1) 0x41000) heart = heart ∧
    after (.registerWrite (.ctxRoot 0) 0x41000) heart = heart ∧ ((after (.registerWrite (.viPart 1) 5) heart).viAt 1).nclus = 5 ∧
    ((after (.registerWrite (.domSet 0 true) 0x70003) heart).viAt 0).dom.set1.nslice = 3 ∧ after (.registerWrite (.domSet 0 false) 0x70003) heart = heart ∧
    ((after (.registerWrite (.netArb 1) 0x7F) heart).fieldAt 1).agemax = 63 ∧ after (.registerWrite (.rotCtl 8) 1) heart = heart := by decide +kernel
/-- R441: the offer of 4 with a least of 1 agrees on 3, one with a least of 4 fails. -/
theorem witness_versions : ((after (.verOffer 0 0x10004) heart).viAt 0).agreed = 3 ∧ ((after (.verOffer 0 0x40004) heart).viAt 0).fail = true ∧
    ((after (.verOffer 0 0x40004) heart).viAt 0).ok = false ∧ after (.verOffer 1 0x10004) heart = heart := by decide +kernel
/-- Rings: a held completion and a held event are written when the host moves; a PF's ring of 16 entries, and one that is disabled. -/
def heldS : State := { heart with vis := [(0, { ringed (placeVi Vi.init) with cqHeld := [⟨9, 1, 0⟩] })] }
def heldE : State := { heart with vis := [(0, { ringed (placeVi Vi.init) with eqHeld := [FaultRec.zero] })] }
def pfS (ring : Ring) (held : List FaultRec) : State := { heart with pfs := [(0, ⟨5, ring, 0, held, 0⟩)] }
theorem witness_rings : memRead (after (.cqPtr 0 4) heldS).hostMem 8192 3 = 0x10009 ∧ ((after (.cqPtr 0 4) heldS).viAt 0).cqHeld = [] ∧
    ((after (.eqPtr 0 4) heldE).viAt 0).eqHeld = [] ∧ ((ringed (placeVi Vi.init)).cqHeld = [] ∧ (ringed (placeVi Vi.init)).eqHeld = []) ∧
    (((pfS ⟨4, 0, 0⟩ []).postPf 0 FaultRec.zero).pfAt 0).ring.dptr = 1 ∧ (((pfS ⟨0, 0, 0⟩ []).postPf 0 FaultRec.zero).pfAt 0).held.length = 1 ∧
    (((pfS ⟨0, 0, 0⟩ (List.replicate 16 FaultRec.zero)).postPf 0 FaultRec.zero).pfAt 0).lost = 1 ∧
    (((pfS ⟨4, 1, 0⟩ []).postPf 0 FaultRec.zero).pfAt 0).held.length = 1 := by decide +kernel
/-- EN falls and rises; with no cluster exposed a table of one is not legal. -/
theorem witness_enable : ((after (.viEnable 0 0) heart).viAt 0).en = false ∧ ((after (.viEnable 1 1) heart).viAt 1).en = true ∧
    (let s := { heart with vis := [(0, { placeVi Vi.init with en := false, nclus := 1 })], boot := { heart.boot with clusters := [] } }
     (s.viAt 0).en = false ∧ ((after (.viEnable 0 1) s).viAt 0).en = false) ∧ ((after (.functionLevelReset 0) heart).viAt 0).ok = false ∧
    ((after (.functionLevelReset 0) heart).copseAt 1).life = .ended ∧ (heart.copses.map Prod.fst).Nodup ∧ (heart.viAt 0).dom.wb = false ∧ (heart.viAt 0).dom.sw = false := by decide +kernel
/-- A peer adds 1 to the 32-bit element 1 of a unit and has the old value. -/
theorem witness_peers : (dataS.dirAt (data / 128)).cached = false ∧ (after (.peerRequest (.atomic 2 (data / 64) 0 2 1 1)) dataS).answers = [.peer 2 [0x55, 0x66, 0x77, 0x88]] ∧
    (after (.peerRequest (.atomic 2 (data / 64) 0 2 1 1)) dataS).homeRead data 8 = 0x8877665644332211 ∧
    (after (.peerRequest (.write 2 (data / 64) [7])) dataS).homeRead data 8 = 7 ∧ tyBits 2 = 32 := by decide +kernel

/-- A bring-up that has reached a phase, with no maintenance stand. -/
def phased (p : Phase) : State := { State.reset with boot := { State.reset.boot with phase := p, trans := true, slices := List.range 1216 } }
/-- The example of R458: FTEST, SEAL complete, READY. -/
theorem test_boot_stat : (phased .ftest).readReg .bootStat = 0x5002 ∧ ((after .seal (phased .seal)).readReg .bootStat).toNat = 0x1130000006006 ∧
    ((after .ready (after .enum (after .seal (phased .seal)))).readReg .bootStat).toNat = 0x1130000006007 ∧
    (after .ready (after .seal (phased .seal))).boot.phase = .enum := by decide +kernel
/-- R455: 10,412 passing clusters, 17 fields with 136 and 60 with 135: all fields come to 133 but the first with 132. -/
theorem test_exposed : lowerCounts 10240 10780 (List.replicate 17 136 ++ List.replicate 60 135) = 132 :: List.replicate 76 133 ∧
    placement (List.replicate 76 (List.range 140) ++ [List.range 119]) (List.range 1216) = none := by decide +kernel
theorem witness_bring_up : after .ready State.reset = State.reset ∧ after .seal (phased .hbm) = phased .hbm ∧ after .enum (phased .net) = phased .net ∧ (phased .enum).boot.ports = false ∧
    (after (.sigchk none) { State.reset with power := ⟨false, 0, false, none⟩ }).boot.phase = .rom ∧
    ((after (.sigchk (some (.firmware, ⟨false, true, 0, 0, 0, 0⟩))) State.reset).boot.phase = .failed) ∧
    (after (.sigchk (some (.firmware, ⟨false, true, 0, 0, 0, 0⟩))) State.reset).boot.err = 1 ∧ (after .coldReset heart).boot.phase = .rom ∧
    (after (.rst 1) heart).boot.phase = .rom ∧ after (.rst 2) heart = heart ∧ after (.getVersion 0) State.reset = State.reset ∧
    (after (.getVersion 3) heart).answers.length = 1 ∧ (after (.getMeasurements 0 4) heart).answers = [.spdm 0 6 4 [heart.boot.meas4]] := by decide +kernel
/-- R457: firmware starts two maintenance stands on core 560 of field 1 while NET runs, and none after READY; SEAL then waits for them. -/
def firmed : State := (phased .net).startFirmware 560 0x4000 2 16 [0x13, 0x57]
theorem witness_firmware : (phased .net).maintTime = true ∧ fieldOfCore 560 ∈ allFields ∧ (phased .net).fits 560 2 256 16 = true ∧
    (firmed.copseAt 1).maint = true ∧ (firmed.standAt 17).life = .live ∧ (firmed.standAt 17).pc = 0x4000 ∧ memGet firmed.frames 0x4001 = 0x57 ∧
    (after .seal { firmed with boot := { firmed.boot with phase := .seal } }).boot.phase = .seal ∧ (heart.startFirmware 560 0x4000 2 16 [0x13]).frames = heart.frames := by decide +kernel
/-- The memory invariant holds after reset. -/
theorem witness_memory_invariant : MemoryInv State.reset := by
  refine ⟨by decide, by decide, by unfold TablesSorted Sorted; decide +kernel, fun line => ?_, fun _ h => by cases h⟩
  have : State.reset.dirAt line = Dir.init := rfl
  simp only [this]
  exact ⟨⟨by decide, by decide⟩, fun _ => rfl, fun h => by cases h⟩

/-! ### Points of the rules that are easily missed -/

/-- A popped entry and one peeked behind it: two entries are needed (R35). -/
theorem test_pop_then_peek : entriesNeeded [(false, 1), (true, 1)] = 2 ∧ entriesNeeded [(true, 1), (false, 1)] = 1 := by decide
def illCausesOf (s : State) (i : Instr) : List Nat := match wordOf i s with | some x => s.illCauses s.cur i x.1 | none => []
/-- deq in stage 0: the destination's register is not range-checked, but its file is (R33, R87). -/
theorem test_deq_stage0 : illCausesOf heart (.deq { deqU with dst := vR 4 }) = [7] ∧ illCausesOf heart (.deq { deqU with dst := sR 200 }) = [] := by decide +kernel
/-- A rotation that brings up an entry without threads resumes with the next (R94, R105). -/
theorem test_rotate_resumes : let st : Stand := { placeStand with yc := 1, rb := 0, a := 1, stack := [⟨.pend, some 0x40000100, 8⟩, ⟨.pend, some 0x40000200, 16⟩], exited := 8 }
    st.rotate.a = 16 ∧ st.rotate.pc = 0x40000200 ∧ st.rotate.stack = [⟨.pend, some placeStand.pc, 1⟩] := by decide +kernel
/-- A reduction of a lone signalling NaN is the default NaN (R161, R171); a store with addition of two least e4m3 numbers without saturation too (R234). -/
theorem test_default_nan : reduceAll false 0 0xE 0 [0x7F800001] = 0x7FC00000 ∧ reduceAll true 1 0xE 0 [0xFF800001] = 0x7FC00000 ∧
    FF.addSat .e4m3 false 0xFE 0xFE = 0x7F := by decide +kernel
/-- A stand sees its own store at the home, though a replica of its field holds an older value (R303, R307). -/
theorem test_own_store_seen : let s := withMe (cachedS lineD) (fun st => { st with sr := [(4, 0x1122334455667788), (8, BitVec.ofNat 64 data)] })
    (after (.ldG (mU 7 0 0)) (after (.stG (mU 7 0xFF 0)) s)).me.pend.map (fun p => p.sw) = [[(4, 0x1122334455667788)]] := by decide +kernel
/-- A stand block and the stand that is read from it (R412): halted, its handlers' and its exit's state kept. -/
def pausedS : State := withMe heart (fun st => { st with
  life := .halted, wait := .heldRec 0x80 5 true, a := 5, exited := 0xF0, exitMask := 3, claims := 3,
  ticket := some 9, current := true, stack := [⟨.token 3, none, 2⟩, ⟨.call, some 0x40000200, 1⟩], g := [(3, ⟨0x4000, 4⟩)] })
theorem test_stand_block : let st := standOfBits .heart 1 0 (pausedS.standBlock 16) 0 0 8 4 []
    st.life = .halted ∧ st.wait = .heldRec 0x80 5 true ∧ st.pc = placeStand.pc ∧ st.a = 5 ∧ st.exited = 0xF0 ∧ st.exitMask = 3 ∧ st.claims = 3 ∧ st.ticket = some 9 ∧
    st.current = true ∧ st.stack = pausedS.me.stack ∧ st.g = [(3, ⟨0x4000, 4⟩)] := by decide +kernel
/-- R405: a clean home copy is dropped, its frame has the bytes; a dirty L1 copy stays. -/
theorem witness_copy_elsewhere : let s := cachedS { lineD with dirty := false, replicas := [] }
    s.l1At 560 (data / 128) = none ∧ tfind (fieldOfCore 560) (s.dirAt (data / 128)).replicas = none ∧
    ((after (.uncorrectableError (.copyElsewhere 560 (data / 128))) s).dirAt (data / 128)).cached = false := by decide +kernel
/-- Slices, clusters and routers taken out at run time (R284); a port beyond the sixteen (R24). -/
theorem witness_exclusions : (after (.uncorrectableError (.failedSlice 16)) heart).boot.slices = [] ∧
    140 ∉ (after (.uncorrectableError (.failedCluster 140)) heart).boot.clusters ∧ (after (.uncorrectableError (.failedRouters 1)) heart).boot.bgen = heart.boot.bgen + 1 ∧
    after (.peerRequest (.read 16 0)) heart = heart := by decide +kernel
theorem witness_homes : HomesSound heart := fun line => by
  rw [show heart.dirAt line = Dir.init from cold_dir (by decide +kernel) line]
  exact ⟨⟨by decide, by decide⟩, fun _ => rfl, fun h => by cases h⟩
/-- The host wrote the image of a saved copse while the interface was enabled (R413). -/
theorem witness_breach : let s : State := { heart with vis := [(0, { placeVi Vi.init with saved := [(0, 1, 8192, 4096)], saveBase := 16, areaFresh := true })] }
    1 ∈ ((s.hostPut 0x12000 [7]).viAt 0).breached ∧ 1 ∉ ((s.hostPut 0x14000 [7]).viAt 0).breached := by decide +kernel

/-! ### Further points: waits, claims, queues, copies that park, drains, launches -/

/-- R42, R54: MOD 2 and a float type of an add; a guard that a uniform word may not have; a register beyond the copse's. -/
theorem test_ill_causes : illCausesOf heart (.add { a3 2 with md := 2 }) = [4] ∧ illCausesOf heart (.add (a3 0xE)) = [5] ∧
    illCausesOf heart (.add ⟨{ hU with gp := 4 }, sR 4, sR 8, sR 12, 2, 0⟩) = [8] ∧ illCausesOf (withCopse heart (fun c => { c with vregs := 13 })) (.add { a3 2 with dst := vR 13 }) = [6] := by decide +kernel
/-- Codes of .f32 by R160: 1, the least subnormal, infinity, a NaN; half up to even (R169). -/
theorem witness_float_rules : floatVal 0xE 0x3F800000 = some 1 ∧ floatVal 0xE 0x7F800000 = none ∧ infOf 0xE 1 = 0xFF800000 ∧ isNanOf 0xE 0x7FA00000 = true ∧
    nanOf 0xE = 0x7FC00000 ∧ zeroOf 0xE 1 = 0x80000000 ∧ signOf 0xE 0x80000001 = 1 := by
  refine ⟨?_, ?_, by decide, by decide, by decide, by decide, by decide⟩
  · norm_num [floatVal, expOf, fracOf, signOf, floatFields]
  · norm_num [floatVal, expOf, fracOf, signOf, floatFields]
theorem test_float_once : let sum (a b : Word32) : Word32 := tget 0 (after (.fadd (a3 0xE)) (withMe heart (fun st => { st with v := [(1024, a), (1536, b)] }))).me.v 512
    sum 0x3F800000 0x33800000 = 0x3F800000 ∧ sum 0x3F800001 0x33800000 = 0x3F800002 := by decide +kernel
/-- R74, R75: blocks of the copse, the core and the cluster; a counter that has tickets, and one that takes half of another's. -/
def atLevel (d : BitVec 3) : State :=
  let s := withStage heart (fun st => { st with levels := [⟨3, d, 0, 0⟩, ⟨4, d, 0, 0⟩], counters := [(1, [(0, 9)])] })
  let b : Tbl Ranges := [(stageKey 1 0, [(3, 6)])]
  { (withCopse s (fun c => { c with block := [(3, 6)] })) with cores := [(560, { Core.init.redeal [1] with block := b })], clusters := [(140, { Cluster.init with block := b })] }
theorem witness_claim_levels : [2, 3, 4].all (fun d => ((atLevel d).claimTicket 16).1 == some 3) = true ∧ (heart.copseAt 1).launch ≠ 0 ∧ (heart.launchAt 1).det = false ∧
    (∃ x ∈ ((atLevel 3).stageOf 1).claimed, x.2.dom = 3) ∧ ((atLevel 1).claimTicket 16).1 = some 0 := by decide +kernel
theorem witness_take : let st := { exampleStage with counters := [(0, [(12, 18)]), (1, [])] }
    1 ≤ (st.counter 0).count ∧ (st.counter 1).count < 1 ∧ (ringAfter 1 (st.counters.map Prod.fst)).find? (fun v => 1 ≤ (st.counter v).count) = some 0 ∧
    (∀ x ∈ st.counter 0, x.1 < x.2) ∧ ({ exampleStage with counters := [(1, [])] }.takeField 1 1).1 = none := by decide +kernel
/-- A vector deq of one item for all threads: the first has it; an empty queue that is done, and one that is not. -/
theorem witness_deq_vector : let s := after (.deq deqV) (staged 1 [item] false)
    (s.standAt 16).pend.map (fun p => (match p.on with | .deq f _ => f == deqV | _ => false, p.pw, p.vlost == [] && p.plost == [] && p.ch.isNone)) =
      [(true, [(3, allLanes, 0)], true)] ∧
    (tget 0 ((after (.longLatencyComplete 16 0) s).standAt 16).p 3) = 1 ∧ (s.copseAt 1).stage = 1 ∧
    ((after (.longLatencyComplete 16 0) s).stage 1 0).seg 1 = [] ∧ ((staged 1 [] true).launchAt 1).source (((staged 1 [] true).launchAt 1).stageAt 0) 1 = none := by decide +kernel
/-- Until it is served, the loads behind it wait (R87, R301). -/
theorem test_deq_acquires : let s := after (.deq deqU) (staged 1 [] false)
    s.blocked 16 (.ldG (mU 7 0 0)) (formLdG (mU 7 0 0)) = true ∧ s.blocked 16 (.add ⟨hU, sR 10, sR 8, sR 12, 2, 0⟩) (formAdd ⟨hU, sR 10, sR 8, sR 12, 2, 0⟩) = false := by decide +kernel
/-- A swb whose region is written back and whose markers have come. -/
theorem witness_swb : let s := withMe dataS (fun st => { st with markers := [⟨16, true, 1, [data / 128], false⟩], swbs := [⟨1, 4, [], true⟩] })
    ((after (.markerArrive 16 16) s).standAt 16).swbs = [] ∧ ((after (.markerArrive 16 16) (withMe s (fun st => { st with swbs := [⟨1, 4, [3], false⟩] }))).standAt 16).swbs = [⟨1, 4, [3], false⟩] := by decide +kernel
/-- Two drains of a stand with addition to one tile of the scratchpad under DET: the later waits (R180). A plain one may be half done (R236). -/
def twoDrains : State :=
  let s := withLaunch (runS (drained (drainCmd 0 true 0))) (fun l => { l with det := true })
  { s with clusters := [(140, { Cluster.init with eng := { engQ (drained (drainCmd 0 true 0)) with
      recs := [(0, { wRec with queue := [drained (drainCmd 0 true 0)] }), (1, { xRec with queue := [{ drained (drainCmd 0 true 0) with seq := 3 }] })] } })] }
theorem witness_add_behind : twoDrains.addBehind 140 (drained (drainCmd 0 true 0)) = true ∧ (drainS (drainCmd 0 true 0)).addBehind 140 (drained (drainCmd 0 true 0)) = false ∧
    (((drainS (drainCmd 0 false 0)).engineAt 140).resv 0).queue.find? (fun c => c.phase != .complete) = some (drained (drainCmd 0 false 0)) ∧
    memRead ((after (.passComplete 140 0) twoDrains).copseAt 1).scratch 0 4 = 0 := by decide +kernel
/-- A copy whose only line is not there: it parks with its request (R335); one whose trap waits for the queue; an answer to its request. -/
def absentCopy : Copy := { inCopy with runs := [(0x80000000, 128)] }
def parkedS (deny : Bool) : State :=
  let s := commanded 2 7 (moving { absentCopy with parked := some 5, cr := if deny then some (0x80, 0) else none })
  { s with vis := s.vis.map (fun x => (x.1, { x.2 with pages := [⟨5, 0x8000, 2⟩], nextReq := 6 })) }
theorem witness_park : let s := moving absentCopy
    let t := after (.copyLineDeliver 1 3) s
    ((s.copseAt 1).copyOf 3 = some absentCopy ∧ absentCopy.ripe = [0] ∧ (s.copseAt 1).copyBehind absentCopy ((absentCopy.units[0]?).getD []) = false ∧
      s.fetchBehind 1 absentCopy ((absentCopy.units[0]?).getD []) = false ∧ (s.unitXlate 1 .read ((absentCopy.units[0]?).getD [])) = (.fault 2, 0x80000000) ∧
      (s.standAt 16).deferred.length < 16 ∧ (s.standAt 16).life ≠ .absent) ∧
    (t.copseAt 1).copies.map (fun x => x.parked.isSome) = [true] ∧ (t.viAt 0).pages.map (fun p => (p.page, p.cause)) = [(0x8000, 2)] ∧
    (t.standAt 16).deferred.map (fun r => (r.cls, r.cause, r.addr)) = [(3, 2, 0x80000000)] := by decide +kernel
theorem witness_park_answer : let u := parkedS false
    (u.takeCmd 0 2 7).isSome = true ∧ u.residentsOf 0 = [1] ∧ (u.copseAt 1).copies.map (fun x => x.parked) = [some 5] ∧ (u.copseAt 1).fills = [] ∧ u.cmdsOn 0 5 = [] ∧ u.logsOf 0 = [] ∧
    u.standsOfVi 0 = [16] ∧ (u.standAt 16).fenceM = none ∧ (u.standAt 16).swbs = [] ∧ ((after (.pageAns 0 7 5 false) u).copseAt 1).copies.map (fun x => x.parked) = [none] ∧
    ((after (.pageAns 0 7 5 true) (parkedS true)).copseAt 1).copies = [] ∧
    ((after (.pageAns 0 7 5 true) (parkedS true)).standAt 16).deferred.map (fun r => (r.cls, r.cause)) = [(3, 6)] := by decide +kernel
def fated : Copy := { inCopy with fate := some (2, trap0) }
theorem witness_fate : ((moving fated).copseAt 1).copyOf 3 = some fated ∧ ((after (.copyLineDeliver 1 3) (moving fated)).copseAt 1).copies = [] ∧
    ((after (.copyLineDeliver 1 3) (withMe (moving fated) (fun st => { st with deferred := List.replicate 16 rec0 }))).copseAt 1).copies.length = 1 := by decide +kernel
/-- A copy bound to a record of the copse: its line is counted, its cancelling breaks the phase (R321, R325, R358). -/
theorem witness_bound : (recView lastLine 1 0x80).valid = 1 ∧ ((lastLine.copseAt 1).copies.map (fun x => x.cr)) = [some (0x80, 0)] ∧
    (recView (after (.copyLineDeliver 1 3) lastLine) 1 0x80).valid = 1 := by decide +kernel
/-- crinit on a region's line that nothing has touched, with the engine's queue full (R318): the stand stays at the word. -/
def fullQueue : State :=
  withCopse (at80 dataS) (fun c => { c with lines := [(1, ⟨false, false, false, some .region, 1, 0⟩)], regions := [(0, ⟨128, 128, data, 0, 0⟩)],
                                            copies := List.replicate 256 { (default : Copy) with stand := 16 } })
theorem witness_crinit_waits : ((fullQueue.copseAt 1).lineAt 1).touched = false ∧ ((fullQueue.copseAt 1).lineAt 1).region ≠ 0 ∧ fullQueue.engineRoom 1 1 = false ∧
    (after (.crinit (recF (sR 4) (sR 6))) fullQueue).me.pc = fullQueue.me.pc ∧ (fullQueue.engineRoom 2 1 = true ∨ fullQueue.engineRoom 2 1 = false) := by decide +kernel
/-- A launch in a context that an error has ended (R405); the free cluster of a stage that completes, dealt to the launch's other stage (R467). -/
theorem test_ended : memRead (after (.launch 0 7 0x40006000) ((withClus launchS).setVi 0 { (withClus launchS).viAt 0 with ended := true })).hostMem 8192 3 = 0x100007 := by decide +kernel
def dealt : State :=
  let s := { (twoStages 0 0 1 []) with copses := [], boot := { heart.boot with clusters := [140] } }
  { s with vis := s.vis.map (fun x => (x.1, { x.2 with part := [140], cq := ⟨4, 0, 0⟩ })) }
theorem test_redeal : ((after (.stageComplete 1 0) dealt).clusterAt 140).serves = some (1, 1) := by decide +kernel
/-- What the PMBus controller answers (R452). -/
theorem witness_pmbus : ({ heart with power := ⟨true, 0, false, some ⟨100, 48000, 2083, 300, 400⟩⟩ }.pmbus .iin).answers = [.pmbus .iin 2083] := by decide +kernel
/-- Registers by their offsets (R438, R441): interface 33 is VF 2 of port 1; the reserved place of a field's block reads zero. -/
theorem test_offsets : (Access.bar 1 2 0x18).reg = some (.saveBase 33) ∧ (Access.management 3 0x20400).reg = some (.domCtl 16) ∧ (Access.management 0 0x40048).reg = some (.netArb 1) ∧
    (Access.management 0 0x40068).reg = none ∧ (Access.management 0 0x40008).reg = none ∧ ((heart.accessRead (.management 0 0)).answers.length = 1) ∧
    ((heart.accessWrite (.bar 0 1 0x18) 0x41000).viAt 0).saveBase = 0x41 := by decide +kernel
theorem witness_msix : ((after (.registerWrite (.msix 0 2) 5) heart).readReg (.msix 0 2)) = 5 ∧ after (.registerWrite (.msix 0 4) 5) heart = heart := by decide +kernel
/-- A peer's compare-and-swap that finds what it expects and one that does not (R348, R436); a request that a staged update holds (R216). -/
def stagedPeer : State := { dataS with dir := [(data / 128, { Dir.init with cached := true, staged := [stagedX none] })] }
theorem witness_peer_cas : (after (.peerRequest (.cas 2 (data / 64) 2 0 0x44332211 9)) dataS).homeRead data 4 = 9 ∧
    (after (.peerRequest (.cas 2 (data / 64) 2 0 8 9)) dataS).homeRead data 4 = 0x44332211 ∧ stagedPeer.stagedLine (data / 128) = true ∧
    (after (.peerRequest (.read 2 (data / 64))) stagedPeer).peerQ = [(stagedPeer.nextId, .read 2 (data / 64))] ∧ dataS.stagedLine (data / 128) = false ∧ dataS.boot.phase = .ready := by decide +kernel

end Sys2Proof.Tests
end

section
/-! SUPPORT. Encodings: a decoded word put together again from its fields (spec/02 R28-R40), and the obligations on decoding. -/

namespace Sys2Proof
open Sys2Proof.Laws

/-! ### A decoded word put together again -/

/-- Two neighbouring fields are one. -/
theorem ext_join {n : Nat} (x : BitVec n) {i j l m : Nat} (h : j = i + m) : x.extractLsb' j l ++ x.extractLsb' i m = x.extractLsb' i (l + m) :=
  BitVec.extractLsb'_append_extractLsb'_eq_extractLsb' h
theorem ofBool_bit {n : Nat} (x : BitVec n) (i : Nat) : BitVec.ofBool (x.getLsbD i) = x.extractLsb' i 1 := by
  apply BitVec.eq_of_getLsbD_eq
  intro j hj
  obtain rfl : j = 0 := by omega
  simp

theorem bits11_opd11 (x : BitVec 11) : (opd11 x).bits11 = x := by
  simp (discharger := omega) only [opd11, Opd.bits11, ofBool_bit, ext_join]
  exact ext_self x
theorem bits10_opd10 (x : BitVec 10) : (opd10 x).bits10 = x := by
  simp (discharger := omega) only [opd10, Opd.bits10, ofBool_bit, ext_join]
  exact ext_self x
theorem short10_short10 (x : BitVec 10) : (short10 x).short10 = x := by
  simp (discharger := omega) only [short10, Opd.short10, ofBool_bit, ext_join]
  exact ext_self x
theorem short9_short9 (x : BitVec 9) : (short9 x).short9 = x := by
  simp (discharger := omega) only [short9, Opd.short9, ofBool_bit, ext_join]
  exact ext_self x

/-- The head of a word put together from its fields is the low seventeen bits of the word (R28). -/
theorem headBits_fields (w : BitVec 128) (sch : Sched) :
    headBits ⟨w.getLsbD 12, w.extractLsb' 13 3, w.getLsbD 16, sch⟩ (w.extractLsb' 2 10) (w.extractLsb' 0 2) = w.extractLsb' 0 17 := by
  simp (discharger := omega) only [headBits, ofBool_bit, ext_join]

/-- A word agrees with what is put together from all that decoding finds of it: the converse of `found`. -/
theorem Found.agrees {n bytes : Nat} {k : Kind} {w : BitVec 128} {h : Head} {opc : BitVec 10} {len : BitVec 2} {body : BitVec n}
    (f : Found k w h opc len body) (hb : 25 + n = 8 * bytes) (hl : topByte len.toNat w = w.extractLsb' (8 * bytes - 8) 8)
    (hn : bytes ≤ 16) : Agrees w (assemble h opc len body) bytes := by
  obtain ⟨rfl, rfl, rfl, rfl, htop⟩ := f
  rw [hl] at htop ⊢
  unfold Agrees assemble
  cases k with
  | heart =>
    simp only [headOf, bodyOf, headBits_fields]
    rw [ext_ext _ _ _ _ _ (by omega), ext_join _ (by omega), ext_join _ (by omega), ext_join _ (by omega),
      ext_width _ _ _ (by omega), ext_ext _ _ _ _ _ (by omega)]
  | sap =>
    have hz := htop rfl
    rw [ext_ext _ _ _ _ _ (by omega)] at hz
    simp only [headOf, bodyOf, headBits_fields]
    rw [← hz, ext_ext _ _ _ _ _ (by omega), ext_ext _ _ _ _ _ (by omega), ext_ext _ _ _ _ _ (by omega), ext_join _ (by omega),
      ext_join _ (by omega), ext_join _ (by omega), ext_join _ (by omega), ext_width _ _ _ (by omega), ext_ext _ _ _ _ _ (by omega)]


/-! ### The instruction of an opcode -/

/-- The term is a well-formed one of an encoding, and its word is the given one. -/
def WordIs (i : Instr) (k : Kind) (e : Encoded) : Prop := i.wf = true ∧ i.kind = k ∧ encode i = some e

/-- What holds of both branches holds of what is selected. -/
theorem forall_mem_ite {c : Prop} [Decidable c] {x r : Option Instr} {P : Instr → Prop} (hx : c → ∀ i ∈ x, P i) (hr : ∀ i ∈ r, P i) :
    ∀ i ∈ (if c then x else r), P i := by
  split
  · next h => exact hx h
  · exact hr
theorem ofI64_word {opc : Nat} {f : I64} (hs : f.shape = true) : ∀ i ∈ ofI64 opc f, WordIs i f.h.sch.kind (encI64 (BitVec.ofNat 10 opc) f) := by
  unfold ofI64
  repeat' refine forall_mem_ite (fun e => ?_) ?_
  all_goals
    rintro i ⟨⟩
  all_goals
    subst opc
    exact ⟨hs, rfl, rfl⟩
theorem ofW128_word {opc : Nat} {f : W128} (hs : f.shape = true) : ∀ i ∈ ofW128 opc f, WordIs i f.h.sch.kind (encW128 (BitVec.ofNat 10 opc) f) := by
  unfold ofW128
  repeat' refine forall_mem_ite (fun e => ?_) ?_
  all_goals
    rintro i ⟨⟩
  all_goals
    subst opc
    exact ⟨hs, rfl, rfl⟩
theorem ofA64_word {opc : Nat} {f : A64} (hs : f.shape = true) : ∀ i ∈ ofA64 opc f, WordIs i f.h.sch.kind (encA64 (BitVec.ofNat 10 opc) f) := by
  unfold ofA64
  repeat' refine forall_mem_ite (fun e => ?_) ?_
  all_goals
    rintro i ⟨⟩
  all_goals
    subst opc
    exact ⟨by simp only [Instr.wf, Bool.and_self, *], rfl, rfl⟩
theorem ofT96_word {opc : Nat} {f : T96} (hs : f.shape = true) : ∀ i ∈ ofT96 opc f, WordIs i f.h.sch.kind (encT96 (BitVec.ofNat 10 opc) f) := by
  unfold ofT96
  repeat' refine forall_mem_ite (fun e => ?_) ?_
  all_goals
    rintro i ⟨⟩
  all_goals
    subst opc
    exact ⟨hs, rfl, rfl⟩
theorem ofE96_word {opc : Nat} {f : E96} (hs : f.shape = true) : ∀ i ∈ ofE96 opc f, WordIs i f.h.sch.kind (encE96 (BitVec.ofNat 10 opc) f) := by
  unfold ofE96
  repeat' refine forall_mem_ite (fun e => ?_) ?_
  all_goals
    rintro i ⟨⟩
  all_goals
    subst opc
    exact ⟨by simp only [Instr.wf, Bool.and_self, *], rfl, rfl⟩
theorem ofM96_word {opc : Nat} {f : M96} : ∀ i ∈ ofM96 opc f, WordIs i f.h.sch.kind (encM96 (BitVec.ofNat 10 opc) f) := by
  unfold ofM96
  repeat' refine forall_mem_ite (fun e => ?_) ?_
  all_goals
    rintro i ⟨⟩
  all_goals
    subst opc
    exact ⟨by simp only [Instr.wf, *], rfl, rfl⟩

/-! ### The fields of a format put together again -/

theorem encA64_fields (opc : BitVec 10) (h : Head) (b : BitVec 103) :
    encA64 opc (fieldsA64 h b) = ⟨assemble h opc 1 (b.extractLsb' 0 39), 8⟩ := by
  simp (discharger := omega) only [encA64, fieldsA64, bits11_opd11, bits10_opd10, ext_join]
theorem encI64_fields (opc : BitVec 10) (h : Head) (b : BitVec 103) :
    encI64 opc (fieldsI64 h b) = ⟨assemble h opc 1 (b.extractLsb' 0 39), 8⟩ := by
  simp (discharger := omega) only [encI64, fieldsI64, short10_short10, short9_short9, ext_join]
theorem encT96_fields (opc : BitVec 10) (h : Head) (b : BitVec 103) :
    encT96 opc (fieldsT96 h b) = ⟨assemble h opc 2 (b.extractLsb' 0 71), 12⟩ := by
  simp (discharger := omega) only [encT96, fieldsT96, bits11_opd11, bits10_opd10, ext_join]
theorem encM96_fields (opc : BitVec 10) (h : Head) (b : BitVec 103) :
    encM96 opc (fieldsM96 h b) = ⟨assemble h opc 2 (b.extractLsb' 0 71), 12⟩ := by
  simp (discharger := omega) only [encM96, fieldsM96, bits11_opd11, ext_join]
theorem encE96_fields (opc : BitVec 10) (h : Head) (b : BitVec 103) :
    encE96 opc (fieldsE96 h b) = ⟨assemble h opc 2 (b.extractLsb' 0 71), 12⟩ := by
  simp (discharger := omega) only [encE96, fieldsE96, bits11_opd11, bits10_opd10, ext_join]
theorem encW128_fields (opc : BitVec 10) (h : Head) (b : BitVec 103) :
    encW128 opc (fieldsW128 h b) = ⟨assemble h opc 3 (b.extractLsb' 0 103), 16⟩ := by
  simp (discharger := omega) only [encW128, fieldsW128, bits11_opd11, bits10_opd10, ext_join]

/-! ### What decodes -/

/-- A word that is no header and no mark word decodes in the format of its opcode (R26, R31, R53). -/
theorem decode_instr {k : Kind} {w : BitVec 128} {i : Instr} {n : Nat} (hl : w.extractLsb' 0 2 ≠ 0) (h : decode k w = .instr i n) :
    ∃ fm, fmtOf (w.extractLsb' 2 10).toNat = some fm ∧ fm.len = (w.extractLsb' 0 2).toNat ∧ n = lenBytes fm.len ∧
      (k = .sap → (topByte fm.len w).extractLsb' 6 2 = 0) ∧
      i ∈ ofFmt (w.extractLsb' 2 10).toNat (headOf k w (topByte fm.len w)) (bodyOf k w) fm := by
  have hl' : ¬ (w.extractLsb' 0 2).toNat = 0 := fun e => hl (BitVec.eq_of_toNat_eq e)
  unfold decode at h
  simp only [hl', if_false] at h
  split at h
  · cases h
  split at h
  · cases h
  next fm hf =>
  split at h
  · cases h
  next hfl =>
  have hfl : fm.len = (w.extractLsb' 0 2).toNat := Decidable.of_not_not hfl
  rw [← hfl] at h
  split at h
  · cases h
  next htop =>
  split at h
  · cases h
  next j hj =>
  cases h
  exact ⟨fm, hf, hfl, rfl, fun hk => Decidable.of_not_not fun e => htop ⟨hk, e⟩, hj⟩

/-- The terms of the formats are well formed, and their words are the words that decode to them. -/
theorem ofFmt_word {k : Kind} {w : BitVec 128} {i : Instr} {fm : Fmt} (hl : fm.len = (w.extractLsb' 0 2).toNat)
    (ht : k = .sap → (topByte fm.len w).extractLsb' 6 2 = 0)
    (h : i ∈ ofFmt (w.extractLsb' 2 10).toNat (headOf k w (topByte fm.len w)) (bodyOf k w) fm) :
    ∃ e, WordIs i k e ∧ e.bytes = lenBytes fm.len ∧ Agrees w e.bits (lenBytes fm.len) := by
  have hlen : w.extractLsb' 0 2 = BitVec.ofNat 2 fm.len := by rw [hl, BitVec.ofNat_toNat, BitVec.setWidth_eq]
  have hk : (headOf k w (topByte fm.len w)).sch.kind = k := by cases k <;> rfl
  have hopc : BitVec.ofNat 10 (w.extractLsb' 2 10).toNat = w.extractLsb' 2 10 := by rw [BitVec.ofNat_toNat, BitVec.setWidth_eq]
  cases fm with
  | a64 =>
    have hw := ofA64_word rfl i h
    rw [hopc, encA64_fields] at hw
    exact ⟨_, hk ▸ hw, rfl, Found.agrees ⟨hlen, rfl, rfl, rfl, ht⟩ rfl rfl (by decide)⟩
  | i64 =>
    have hw := ofI64_word rfl i h
    rw [hopc, encI64_fields] at hw
    exact ⟨_, hk ▸ hw, rfl, Found.agrees ⟨hlen, rfl, rfl, rfl, ht⟩ rfl rfl (by decide)⟩
  | t96 =>
    have hw := ofT96_word rfl i h
    rw [hopc, encT96_fields] at hw
    exact ⟨_, hk ▸ hw, rfl, Found.agrees ⟨hlen, rfl, rfl, rfl, ht⟩ rfl rfl (by decide)⟩
  | m96 =>
    have hw := ofM96_word i h
    rw [hopc, encM96_fields] at hw
    exact ⟨_, hk ▸ hw, rfl, Found.agrees ⟨hlen, rfl, rfl, rfl, ht⟩ rfl rfl (by decide)⟩
  | e96 =>
    have hw := ofE96_word rfl i h
    rw [hopc, encE96_fields] at hw
    exact ⟨_, hk ▸ hw, rfl, Found.agrees ⟨hlen, rfl, rfl, rfl, ht⟩ rfl rfl (by decide)⟩
  | w128 =>
    have hw := ofW128_word rfl i h
    rw [hopc, encW128_fields] at hw
    exact ⟨_, hk ▸ hw, rfl, Found.agrees ⟨hlen, rfl, rfl, rfl, ht⟩ rfl rfl (by decide)⟩

/-- The low seventeen bits of a header or mark word (R38, R39). -/
theorem h64_low {w : BitVec 128} {kind : BitVec 10} (hl : w.extractLsb' 0 2 = 0) (hk : w.extractLsb' 2 10 = kind)
    (ho : h64HeadOk w = true) : w.extractLsb' 0 17 = headBits ⟨false, 7, false, .sap 0 0⟩ kind 0 := by
  simp only [h64HeadOk, Bool.and_eq_true, Bool.not_eq_true', beq_iff_eq] at ho
  obtain ⟨⟨hu, hg⟩, hn⟩ := ho
  rw [← headBits_fields w (.sap 0 0), hu, hg, hn, hl, hk]

/-- The checks of a header are those of its shape (R38, R40). -/
theorem hdrShape_of_checks {h : Hdr} (hf : ¬(!(flagSlotOk h.seta && flagSlotOk h.setb && (h.seta != h.setb || h.seta == 0xF))) = true)
    (hg : ¬(h.gpt && h.wait != 0xFFF) = true) (hi : ¬(!h.gpt && h.gid != 0) = true) : h.shape = true := by
  rw [Bool.not_eq_true', Bool.not_eq_false] at hf
  rw [Hdr.shape, hf]
  cases hp : h.gpt with
  | true => simpa [hp] using hg
  | false => simpa [hp] using hi

/-- A clause header is well formed, and its word is the word that decodes to it (R38, R40). -/
theorem decodeH64_sap {w : BitVec 128} {i : Instr} {n : Nat} (hl : w.extractLsb' 0 2 = 0) (h : decodeH64 .sap w = .instr i n) :
    ∃ e, WordIs i .sap e ∧ e.bytes = n ∧ Agrees w e.bits n := by
  unfold decodeH64 at h
  simp only at h
  split at h
  · cases h
  next hk =>
  split at h
  · cases h
  next hz =>
  split at h
  · cases h
  next ho =>
  split at h
  · cases h
  next hf =>
  split at h
  · cases h
  next hg =>
  split at h
  · cases h
  next hi =>
  cases h
  refine ⟨encHdr (fieldsHdr w), ⟨hdrShape_of_checks hf hg hi, rfl, rfl⟩, rfl, ?_⟩
  have hlow := h64_low (kind := 0) hl (BitVec.eq_of_toNat_eq (Decidable.of_not_not hk)) (by simpa using ho)
  have hz := Decidable.of_not_not hz
  unfold Agrees encHdr fieldsHdr
  rw [← hz, show (0x0E000 : BitVec 17) = _ from hlow.symm]
  simp (discharger := omega) only [ofBool_bit, ext_join]
  rw [ext_width _ _ _ (by omega), ext_ext _ _ _ _ _ (by omega)]

/-- A mark word is the word that decodes to it (R39). -/
theorem decodeH64_heart {w : BitVec 128} {i : Instr} {n : Nat} (hl : w.extractLsb' 0 2 = 0) (h : decodeH64 .heart w = .instr i n) :
    ∃ e, WordIs i .heart e ∧ e.bytes = n ∧ Agrees w e.bits n := by
  unfold decodeH64 at h
  simp only at h
  split at h
  · cases h
  next hk =>
  split at h
  · cases h
  next hz =>
  split at h
  · cases h
  next ho =>
  cases h
  refine ⟨encMark ⟨w.extractLsb' 17 16⟩, ⟨rfl, rfl, rfl⟩, rfl, ?_⟩
  have hlow := h64_low (kind := 1) hl (BitVec.eq_of_toNat_eq (Decidable.of_not_not hk)) (by simpa using ho)
  have hz := Decidable.of_not_not hz
  unfold Agrees encMark
  rw [← hz, show (0x0E004 : BitVec 17) = _ from hlow.symm]
  simp (discharger := omega) only [ext_join]
  rw [ext_width _ _ _ (by omega), ext_ext _ _ _ _ _ (by omega)]

/-- Settles O1: one law of Laws/PerInstr.lean for each row of the opcode table. -/
theorem decodeOfEncodeIsTheInstruction : Obligations.DecodeOfEncodeIsTheInstruction := fun i =>
  @Instr.casesOn Roundtrip.Statement i
    Roundtrip.bra Roundtrip.braFar Roundtrip.brx Roundtrip.call Roundtrip.callFar Roundtrip.calx Roundtrip.ret Roundtrip.exit Roundtrip.split
    Roundtrip.join Roundtrip.rset Roundtrip.rwait Roundtrip.rcancel Roundtrip.yield Roundtrip.yieldL Roundtrip.yieldLEnd Roundtrip.sleep
    Roundtrip.elect Roundtrip.vote Roundtrip.voteBallot Roundtrip.actm Roundtrip.nop Roundtrip.claim Roundtrip.enq Roundtrip.enqItemPush
    Roundtrip.deq Roundtrip.qstat Roundtrip.graftShut Roundtrip.graftOpen Roundtrip.migrHeart Roundtrip.migrSap Roundtrip.migrCancel
    Roundtrip.migrQ Roundtrip.add Roundtrip.addc Roundtrip.sub Roundtrip.subc Roundtrip.mulLo Roundtrip.mulHi Roundtrip.mad Roundtrip.madWide
    Roundtrip.min Roundtrip.max Roundtrip.abs Roundtrip.neg Roundtrip.and Roundtrip.or Roundtrip.xor Roundtrip.not Roundtrip.shl Roundtrip.shr
    Roundtrip.sar Roundtrip.rot Roundtrip.bfe Roundtrip.bfi Roundtrip.popc Roundtrip.clz Roundtrip.ctz Roundtrip.brev Roundtrip.sel Roundtrip.cmp
    Roundtrip.mov Roundtrip.movFirst Roundtrip.moviW128 Roundtrip.lea Roundtrip.shfl Roundtrip.perm Roundtrip.pand Roundtrip.por Roundtrip.pxor
    Roundtrip.pnot Roundtrip.addImm Roundtrip.subImm Roundtrip.mulLoImm Roundtrip.minImm Roundtrip.maxImm Roundtrip.andImm Roundtrip.orImm
    Roundtrip.xorImm Roundtrip.shlImm Roundtrip.shrImm Roundtrip.sarImm Roundtrip.rotImm Roundtrip.cmpImm Roundtrip.movi Roundtrip.fadd
    Roundtrip.fsub Roundtrip.fmul Roundtrip.fscale Roundtrip.ffma Roundtrip.fma2 Roundtrip.fdot2 Roundtrip.fmin Roundtrip.fmax Roundtrip.fcmp
    Roundtrip.fclass Roundtrip.frcp Roundtrip.frsq Roundtrip.fsqrt Roundtrip.fexp2 Roundtrip.flog2 Roundtrip.fsin Roundtrip.fcos Roundtrip.dadd
    Roundtrip.dmul Roundtrip.dfma Roundtrip.dcmp Roundtrip.cvt Roundtrip.pack Roundtrip.unpack Roundtrip.qpack Roundtrip.qunpack Roundtrip.mres
    Roundtrip.mresDup Roundtrip.mrel Roundtrip.mtile Roundtrip.mtileD Roundtrip.mlds Roundtrip.mswap Roundtrip.mstr Roundtrip.mzero Roundtrip.mdrn
    Roundtrip.mwait Roundtrip.mq Roundtrip.ldG Roundtrip.stG Roundtrip.ldS Roundtrip.stS Roundtrip.ldC Roundtrip.prf Roundtrip.smap
    Roundtrip.sunmap Roundtrip.swb Roundtrip.lstep Roundtrip.cmoCln Roundtrip.cmoInv Roundtrip.cmoCinv Roundtrip.dsc Roundtrip.pin Roundtrip.unpin
    Roundtrip.zero Roundtrip.pqrySelf Roundtrip.pqryLine Roundtrip.pqryRes Roundtrip.pqryCnt Roundtrip.fenceAr Roundtrip.fenceAcq
    Roundtrip.fenceRel Roundtrip.fenceM Roundtrip.cpy Roundtrip.cpyO Roundtrip.cpyTIn Roundtrip.cpyTOut Roundtrip.cpyTDef Roundtrip.cpwait
    Roundtrip.cpyield Roundtrip.cfe Roundtrip.cpcan Roundtrip.chsend Roundtrip.chrecv Roundtrip.chcfgSet Roundtrip.chcfgQ Roundtrip.atom
    Roundtrip.atomCas Roundtrip.red Roundtrip.redCell Roundtrip.crinit Roundtrip.arrive Roundtrip.arriveW Roundtrip.crwait Roundtrip.crexp
    Roundtrip.crinv Roundtrip.gcreate Roundtrip.gjoin Roundtrip.gleave Roundtrip.gbar Roundtrip.gvote Roundtrip.gred Roundtrip.gquery
    Roundtrip.gdestroy Roundtrip.groveEventApply Roundtrip.rdsr Roundtrip.wrsr Roundtrip.trap Roundtrip.tret Roundtrip.brk Roundtrip.spl
    Roundtrip.halt Roundtrip.clauseHeader Roundtrip.markWord Roundtrip.longLatencyComplete Roundtrip.sleepEnd Roundtrip.trapEntry
    Roundtrip.deferredTrapTake Roundtrip.standEnd Roundtrip.issueWatchdog Roundtrip.launch Roundtrip.copseCreate Roundtrip.clusterReassign
    Roundtrip.stageComplete Roundtrip.moveRoomSearch Roundtrip.copseMigrate Roundtrip.moveLapse Roundtrip.commandGrant Roundtrip.planeLoad
    Roundtrip.passComplete Roundtrip.operandLineArrive Roundtrip.matrixAssist Roundtrip.drainCommit Roundtrip.detDrainCommit Roundtrip.pageAns
    Roundtrip.inval Roundtrip.regionFill Roundtrip.regionWriteBack Roundtrip.tierMove Roundtrip.l1WriteBack Roundtrip.homeMove Roundtrip.lineEvict
    Roundtrip.markerArrive Roundtrip.domWb Roundtrip.domWbComplete Roundtrip.domSwitch Roundtrip.domSwitchComplete Roundtrip.copyLineDeliver
    Roundtrip.copyStatusPush Roundtrip.preempt Roundtrip.preemptEval Roundtrip.copseSave Roundtrip.drainLimit Roundtrip.copseRestore
    Roundtrip.restore Roundtrip.debugCmd Roundtrip.shadeRotation Roundtrip.rateBoundary Roundtrip.pmbusReading Roundtrip.powerRemove
    Roundtrip.hostTimeout Roundtrip.uncorrectableError Roundtrip.flitResend Roundtrip.linkFail Roundtrip.escapeResend Roundtrip.arbiterGrant
    Roundtrip.tableChangeStart Roundtrip.tableSwitching Roundtrip.tableDraining Roundtrip.tableStable Roundtrip.verOffer Roundtrip.sqPtr
    Roundtrip.pfEqPtr Roundtrip.viEnable Roundtrip.registerWrite Roundtrip.functionLevelReset Roundtrip.hostPortReset Roundtrip.coldReset
    Roundtrip.rst Roundtrip.sigchk Roundtrip.ftest Roundtrip.hbm Roundtrip.net Roundtrip.seal Roundtrip.enum Roundtrip.ready Roundtrip.getVersion
    Roundtrip.getCapabilities Roundtrip.negotiateAlgorithms Roundtrip.getDigests Roundtrip.getCertificate Roundtrip.challenge
    Roundtrip.getMeasurements Roundtrip.peerRequest Roundtrip.cqPtr Roundtrip.eqPtr
/-- Settles O2: every field that decoding reads goes back to its place, and no field is left over. -/
theorem decodedWordIsItsEncoding : Obligations.DecodedWordIsItsEncoding := by
  intro k w i n h
  have key : ∃ e, WordIs i k e ∧ e.bytes = n ∧ Agrees w e.bits n := by
    by_cases hl : w.extractLsb' 0 2 = 0
    · unfold decode at h
      simp only [hl] at h
      split at h
      · cases h
      · cases k with
        | heart => exact decodeH64_heart hl h
        | sap => exact decodeH64_sap hl h
    · obtain ⟨fm, _, hfl, rfl, ht, hi⟩ := decode_instr hl h
      exact ofFmt_word hfl ht hi
  obtain ⟨e, ⟨hw, hk, he⟩, hb, ha⟩ := key
  exact ⟨hw, hk, e, he, hb, ha⟩

/-- Settles O3: the checks of `decode` one after the other. -/
theorem reservedEncodingsAreRefused : Obligations.ReservedEncodingsAreRefused := by
  intro k w
  have hlen (hl : w.extractLsb' 0 2 ≠ 0) : ¬ (w.extractLsb' 0 2).toNat = 0 := fun e => hl (BitVec.eq_of_toNat_eq e)
  refine ⟨fun hp => if_pos hp, fun hp hl hf => ?_, fun hp hl fm hf => ⟨fun hne => ?_, fun he hk ht => ?_⟩, fun hp hl => ⟨?_, ?_⟩⟩
  · simp only [decode, if_neg hp, if_neg (hlen hl), hf]
  · simp only [decode, if_neg hp, if_neg (hlen hl), hf, if_pos hne]
  · rw [he] at ht
    simp only [decode, if_neg hp, if_neg (hlen hl), hf, if_neg (not_not_intro he), if_pos (And.intro hk ht)]
  · rintro rfl hk
    simp only [decode, if_neg hp, hl, decodeH64, if_pos hk]
    rfl
  · rintro rfl hk
    simp only [decode, if_neg hp, hl, decodeH64, if_pos hk]
    rfl

end Sys2Proof
end

section
/-! SUPPORT. Steps: every meaning and every free move answers a next state, the turn of a stand that is alone on its core, and the selector
of a core (spec/03 R82, R84). -/

namespace Sys2Proof.Machine

/-- Every instruction and event answers a next state. -/
theorem exec_next (i : Instr) (s : State) : ∃ t, exec i s = .next t := by
  cases i <;> exact ⟨_, rfl⟩

/-! ### The moves of the device by itself -/

/-- A move answers a next state from every state. -/
def Total (m : Auto) : Prop := ∀ s, ∃ t, m s = .next t
/-- Every move of a list does. -/
def AllTotal (ms : List Auto) : Prop := ∀ m ∈ ms, Total m

theorem allTotal_nil : AllTotal [] := by simp [AllTotal]
theorem allTotal_cons {m : Auto} {ms : List Auto} (h : Total m) (hs : AllTotal ms) : AllTotal (m :: ms) :=
  List.forall_mem_cons.mpr ⟨h, hs⟩
theorem allTotal_append {a b : List Auto} (ha : AllTotal a) (hb : AllTotal b) : AllTotal (a ++ b) :=
  List.forall_mem_append.mpr ⟨ha, hb⟩
theorem allTotal_map {α : Type} {f : α → Auto} {xs : List α} (h : ∀ x, Total (f x)) : AllTotal (xs.map f) :=
  List.forall_mem_map.mpr fun x _ => h x
theorem allTotal_flatMap {α : Type} {f : α → List Auto} {xs : List α} (h : ∀ x, AllTotal (f x)) : AllTotal (xs.flatMap f) := by
  intro m hm
  obtain ⟨x, _, hx⟩ := List.mem_flatMap.mp hm
  exact h x m hx
theorem allTotal_ite {c : Prop} [Decidable c] {a b : List Auto} (ha : AllTotal a) (hb : AllTotal b) : AllTotal (if c then a else b) := by
  split
  · exact ha
  · exact hb
theorem allTotal_one {m : Auto} (h : Total m) : AllTotal [m] := allTotal_cons h allTotal_nil

theorem issueAt_total (k : Nat) : ∀ n, Total (issueAt k n)
  | 0, _ => ⟨_, rfl⟩
  | n + 1, s => by
    unfold issueAt
    split
    · exact ⟨_, rfl⟩
    · exact ⟨_, rfl⟩
    · exact issueAt_total k n _
    · exact ⟨_, rfl⟩
    · exact exec_next _ _
theorem issueStand_total (k : Nat) : Total (issueStand k) := by
  intro s
  unfold issueStand
  dsimp only
  split
  · exact ⟨_, rfl⟩
  split
  · exact issueAt_total k 8 _
  · exact ⟨_, rfl⟩
theorem issueTurn_total (k : Nat) : Total (issueTurn k) := by
  intro s
  unfold issueTurn
  dsimp only
  split
  · exact ⟨_, rfl⟩
  next j _ =>
  split
  · exact issueStand_total j _
  · obtain ⟨t, ht⟩ := issueStand_total j ((s.noteStalls (s.coreOf k)).tick (s.coreOf k) (waiting ((s.noteStalls (s.coreOf k)).readySet (s.coreOf k))))
    rw [ht]
    exact ⟨_, rfl⟩

theorem standMoves_total (s : State) (k : Nat) : AllTotal (s.standMoves k) := by
  have one {c : Prop} [Decidable c] {m : Auto} (h : Total m) : AllTotal (if c then [m] else []) := allTotal_ite (allTotal_one h) allTotal_nil
  unfold State.standMoves
  repeat' refine allTotal_append ?_ ?_
  · exact allTotal_map fun _ _ => ⟨_, rfl⟩
  · exact one fun _ => ⟨_, rfl⟩
  · exact one fun _ => ⟨_, rfl⟩
  · exact one fun _ => ⟨_, rfl⟩
  · exact one fun _ => ⟨_, rfl⟩
  · exact one fun _ => ⟨_, rfl⟩
  · exact allTotal_map fun _ _ => ⟨_, rfl⟩
  · split
    · exact allTotal_one fun _ => ⟨_, rfl⟩
    · exact allTotal_nil
  · exact one fun _ => ⟨_, rfl⟩
theorem copseMoves_total (s : State) (c : Nat) : AllTotal (s.copseMoves c) := by
  unfold State.copseMoves
  repeat' refine allTotal_append ?_ ?_
  · exact allTotal_flatMap fun _ => allTotal_cons (fun _ => ⟨_, rfl⟩) (allTotal_one fun _ => ⟨_, rfl⟩)
  · refine allTotal_map fun y => ?_
    split
    · exact fun _ => ⟨_, rfl⟩
    · exact fun _ => ⟨_, rfl⟩
  · split
    · exact allTotal_one fun _ => ⟨_, rfl⟩
    · exact allTotal_cons (fun _ => ⟨_, rfl⟩) (allTotal_one fun _ => ⟨_, rfl⟩)
    · exact allTotal_nil
  · exact allTotal_ite (allTotal_cons (fun _ => ⟨_, rfl⟩) (allTotal_one fun _ => ⟨_, rfl⟩)) allTotal_nil
  · exact allTotal_ite (allTotal_map fun _ _ => ⟨_, rfl⟩) allTotal_nil
theorem clusterMoves_total (s : State) (c : Nat) : AllTotal (s.clusterMoves c) := by
  unfold State.clusterMoves
  refine allTotal_append (allTotal_cons (fun _ => ⟨_, rfl⟩) (allTotal_ite allTotal_nil (allTotal_one fun _ => ⟨_, rfl⟩))) ?_
  refine allTotal_flatMap fun r => ?_
  repeat' refine allTotal_cons (fun _ => ⟨_, rfl⟩) ?_
  exact allTotal_nil
theorem lineMoves_total (s : State) : AllTotal s.lineMoves := by
  unfold State.lineMoves
  repeat' refine allTotal_append ?_ ?_
  · exact allTotal_flatMap fun _ => allTotal_map fun _ _ => ⟨_, rfl⟩
  · exact allTotal_map fun _ _ => ⟨_, rfl⟩
  · refine allTotal_flatMap fun d => allTotal_append (allTotal_append ?_ (allTotal_map fun _ _ => ⟨_, rfl⟩)) ?_
    · exact allTotal_cons (fun _ => ⟨_, rfl⟩) (allTotal_cons (fun _ => ⟨_, rfl⟩) (allTotal_one fun _ => ⟨_, rfl⟩))
    · exact allTotal_ite allTotal_nil (allTotal_one fun _ => ⟨_, rfl⟩)
theorem hostMoves_total (s : State) : AllTotal s.hostMoves := by
  unfold State.hostMoves
  refine allTotal_append (allTotal_flatMap fun v => allTotal_append (allTotal_append ?_ ?_) ?_)
    (allTotal_flatMap fun l => allTotal_append (allTotal_cons ?_ (allTotal_flatMap fun n => allTotal_cons ?_ ?_)) ?_)
  · exact allTotal_ite (allTotal_one fun _ => ⟨_, rfl⟩) allTotal_nil
  · exact allTotal_ite (allTotal_one fun _ => ⟨_, rfl⟩) allTotal_nil
  · exact allTotal_map fun _ _ => ⟨_, rfl⟩
  · exact fun _ => ⟨_, rfl⟩
  · exact fun _ => ⟨_, rfl⟩
  · exact allTotal_flatMap fun _ => allTotal_map fun _ _ => ⟨_, rfl⟩
  · exact allTotal_map fun _ _ => ⟨_, rfl⟩
theorem netMoves_total (s : State) : AllTotal s.netMoves := by
  unfold State.netMoves
  refine allTotal_append (allTotal_append (allTotal_append ?_ ?_) ?_) ?_
  · refine allTotal_map fun p => ?_
    split
    · exact fun _ => ⟨_, rfl⟩
    · exact fun _ => ⟨_, rfl⟩
    · exact fun _ => ⟨_, rfl⟩
  · exact allTotal_map fun _ _ => ⟨_, rfl⟩
  · exact allTotal_map fun _ _ => ⟨_, rfl⟩
  · refine allTotal_flatMap fun p => ?_
    split
    · exact allTotal_nil
    · exact allTotal_one fun _ => ⟨_, rfl⟩
    · exact allTotal_one fun _ => ⟨_, rfl⟩
    · exact allTotal_one fun _ => ⟨_, rfl⟩
theorem bootMoves_total (s : State) : AllTotal s.bootMoves := by
  unfold State.bootMoves
  split
  case h_7 =>
    refine allTotal_one ?_
    split
    · exact fun _ => ⟨_, rfl⟩
    · exact fun _ => ⟨_, rfl⟩
  case h_8 | h_9 => exact allTotal_nil
  all_goals exact allTotal_one fun _ => ⟨_, rfl⟩

theorem moves_total (s : State) : AllTotal s.moves :=
  allTotal_append
    (allTotal_append (allTotal_append (allTotal_append (allTotal_append (allTotal_append (allTotal_append
      (bootMoves_total s) (allTotal_flatMap (standMoves_total s))) (allTotal_flatMap (copseMoves_total s)))
      (allTotal_flatMap (clusterMoves_total s))) (lineMoves_total s)) (hostMoves_total s)) (netMoves_total s))
    (allTotal_map issueTurn_total)

/-! ### Steps -/

theorem turn_total (t : Turn) : Total (turn t) := by
  intro s
  cases t with
  | issue k => exact issueTurn_total k s
  | event e => exact exec_next e s
  | _ => exact ⟨_, rfl⟩
/-- A free move is there exactly while the device has power (R453). -/
theorem freeTurn_powered {s : State} (h : s.power.on = true) : ∃ t, freeTurn s = .next t := by
  unfold freeTurn
  rw [h]
  simp only [Bool.not_true, Bool.false_eq_true, if_false]
  split
  · next m hm => exact moves_total s m (List.mem_of_getElem? hm) _
  · exact ⟨_, rfl⟩
theorem freeTurn_unpowered {s : State} (h : s.power.on = false) : freeTurn s = .fault .noPower := by
  simp [freeTurn, h]

/-- Settles O6: every meaning and every free move answers a next state; only a device without power has no move. -/
theorem everyStepGoesOn : Obligations.EveryStepGoesOn := by
  refine ⟨exec_next, fun s => ?_⟩
  unfold SafeStep step
  cases hs : s.script with
  | cons t r => simpa using turn_total t { s with script := r }
  | nil =>
    cases hp : s.power.on with
    | true => simpa using freeTurn_powered hp
    | false => simp [freeTurn_unpowered hp]

/-! ### The turn of a stand that alone may issue -/

/-- A stand that fetches comes to what the bytes at its program counter decode to (R48). -/
theorem fetchAt_word {s : State} {k pa : Nat} {l : Leaf} (hp : s.pageLogged (s.coreOf k) [(0, (s.standAt k).pc.toNat)] = false)
    (hx : s.xlate (copseOf k) .fetch (s.standAt k).pc.toNat = .ok (pa, l)) :
    s.fetchAt k = .word (s.tlbAdd (copseOf k) (s.standAt k).pc.toNat l) (decode (s.kindOf k) (s.fetchBits k pa)) (s.fetchBits k pa) := by
  simp only [State.fetchAt, hp, hx, Bool.false_eq_true, if_false]

/-- A stand that may issue and has no deferred trap due issues its next word. -/
theorem issueStand_issues {s b : State} {k : Nat} (hb : b = { s with cur := k }) (hd : (b.standAt k).deferDue = false)
    (hc : (b.standAt k).canIssue = true) : issueStand k s = issueAt k 8 b := by
  have hs : s.standAt k = b.standAt k := by rw [hb]; rfl
  rw [← hs] at hd hc
  simp only [issueStand, hd, hc, Bool.false_eq_true, if_false, if_true]
  rw [hb]

/-- The turn needs no trial and no choice when only one stand of the core may issue and is not held: what consumes no opportunity issues
at once, all else after the opportunity has passed. -/
theorem issueTurn_alone {s : State} {k : Nat} (ha : (s.standsOn (s.coreOf k)).filter s.runnable = [k]) (hh : s.holding k = false) :
    ((!(s.standAt k).deferDue && (s.standAt k).canIssue && unspent k 8 s) = true → issueTurn k s = issueStand k s) ∧
    ((!(s.standAt k).deferDue && (s.standAt k).canIssue && unspent k 8 s) = false → ∀ t, issueStand k (s.tick (s.coreOf k) []) = .next t →
      issueTurn k s = .next (t.watch (s.coreOf k) s)) := by
  have hn : s.noteStalls (s.coreOf k) = s := by simp only [State.noteStalls, ha]
  have hr : s.readySet (s.coreOf k) = [(k, false)] := by simp only [State.readySet, ha]
  have hc : s.chosen (s.coreOf k) k [(k, false)] = some k := by simp [State.chosen]
  have hf : [(k, false)].filter (fun x => !s.holding x.1) = [(k, false)] := by simp [hh]
  have hw : waiting [(k, false)] = [] := by simp [waiting]
  refine ⟨fun h => ?_, fun h t ht => ?_⟩
  · simp only [issueTurn, hn, hr, hf, hc, h, if_true]
  · simp only [issueTurn, hn, hr, hf, hc, h, hw, ht, Bool.false_eq_true, if_false]

/-- The turn of a stand that is alone and comes to fetch. -/
theorem issueTurn_fetches {s b : State} {k : Nat} {spent : Bool} (ha : (s.standsOn (s.coreOf k)).filter s.runnable = [k])
    (hh : s.holding k = false) (hs : spent = ((s.standAt k).deferDue || !(s.standAt k).canIssue || !unspent k 8 s))
    (hb : b = { (if spent then s.tick (s.coreOf k) [] else s) with cur := k })
    (hd : (b.standAt k).deferDue = false) (hc : (b.standAt k).canIssue = true) {t : State} (ht : issueAt k 8 b = .next t) :
    issueTurn k s = .next (if spent then t.watch (s.coreOf k) s else t) := by
  have hsp : (!(s.standAt k).deferDue && (s.standAt k).canIssue && unspent k 8 s) = !spent := by simp [hs]
  obtain ⟨hfree, htick⟩ := issueTurn_alone ha hh
  rw [hsp] at hfree htick
  cases spent with
  | true => exact htick rfl t ((issueStand_issues (by simpa using hb) hd hc).trans ht)
  | false => exact (hfree rfl).trans ((issueStand_issues (by simpa using hb) hd hc).trans ht)

/-- Settles O5: the turn of a stand that is alone, its fetch and its decoding, one after the other. -/
theorem stepRunsTheDecodedInstruction : Obligations.StepRunsTheDecodedInstruction := by
  refine ⟨fun s e r hs => by simp only [step, hs, turn], fun s k r hs => ?_⟩
  intro a ha hh spent b hd hc hp pa l hx c after
  have hstep : step s = issueTurn k a := by simp only [step, hs]; rfl
  refine ⟨fun i n hi => ?_, fun x hi => ?_⟩
  · obtain ⟨t, ht⟩ := exec_next i c
    refine ⟨t, ht, hstep.trans (issueTurn_fetches ha hh rfl rfl hd hc ?_)⟩
    rw [issueAt, fetchAt_word hp hx, hi]
    exact ht
  · refine hstep.trans (issueTurn_fetches ha hh rfl rfl hd hc ?_)
    rw [issueAt, fetchAt_word hp hx, hi]

/-! ### The selector -/

/-- What the selector may choose of a list is in the list, and none of the list has been ready longer (R82). -/
theorem mem_oldest {s : State} {ks : List (Nat × Bool)} {j : Nat} (h : j ∈ s.oldest ks) :
    ∃ b, (j, b) ∈ ks ∧ ∀ x ∈ ks, (s.standAt x.1).ready ≤ (s.standAt j).ready := by
  obtain ⟨⟨i, b⟩, hx, rfl⟩ := List.mem_map.mp h
  obtain ⟨hm, ho⟩ := List.mem_filter.mp hx
  exact ⟨b, hm, by simpa using ho⟩
/-- Of two or more stands the chosen one is among the best. -/
theorem chosen_mem_best {s : State} {core k j : Nat} {ks : List (Nat × Bool)} (hn : 2 ≤ ks.length) (h : s.chosen core k ks = some j) :
    j ∈ s.best core ks := by
  match ks, hn with
  | x :: y :: r, _ =>
    simp only [State.chosen] at h
    split at h
    · next hk => cases h; exact List.contains_iff_mem.mp hk
    · exact List.mem_of_head? h

/-- Settles O7: the pool, those that have waited long, the highest PRIO, the light ones, in the order of `State.best`. -/
theorem selectorFollowsItsCriteria : Obligations.SelectorFollowsItsCriteria := by
  intro s core k j ks hn hj others pool rdy paired
  have hb := chosen_mem_best hn hj
  have hpool : (if others = [] then ks else others) = pool := rfl
  unfold State.best at hb
  simp only at hb
  rw [hpool] at hb
  split at hb
  · next hold =>
    obtain ⟨h, hm, hr⟩ := mem_oldest hb
    obtain ⟨hp, hl⟩ := List.mem_filter.mp hm
    have hl : 1024 ≤ rdy (j, h) := by simpa using hl
    refine ⟨h, hp, fun _ => ⟨hl, fun x hx => ?_⟩, fun hall => absurd (hall _ hp) (by omega)⟩
    by_cases hxl : 1024 ≤ rdy x
    · exact hr x (List.mem_filter.mpr ⟨hx, by simpa using hxl⟩)
    · exact Nat.le_trans (Nat.le_of_lt (Nat.lt_of_not_le hxl)) hl
  · next hold =>
    have hyoung : ∀ x ∈ pool, rdy x < 1024 := by
      have hold : pool.filter (fun x => 1024 ≤ rdy x) = [] := by simpa using hold
      intro x hx
      have := List.filter_eq_nil_iff.mp hold x hx
      simpa using this
    have mem_top (x : Nat × Bool) : x ∈ pool.filter (fun x => pool.all (fun y => s.prioOf y.1 ≤ s.prioOf x.1)) ↔
        x ∈ pool ∧ ∀ y ∈ pool, s.prioOf y.1 ≤ s.prioOf x.1 := by simp
    -- one with the PRIO of a highest one is a highest one
    have top_of_eq {x y : Nat × Bool} (hx : x ∈ pool) (hy : ∀ z ∈ pool, s.prioOf z.1 ≤ s.prioOf y.1) (e : s.prioOf x.1 = s.prioOf y.1) :
        x ∈ pool.filter (fun x => pool.all (fun y => s.prioOf y.1 ≤ s.prioOf x.1)) :=
      (mem_top x).mpr ⟨hx, fun z hz => e ▸ hy z hz⟩
    have hpaired : ((s.coreAt core).lastHeavy && decide (Config.chargeThreshold ≤ (s.clusterAt (clusterOf core)).chargeSum)) = true ↔ paired := by
      simp [paired]
    split at hb
    · next hlight =>
      obtain ⟨hp, _⟩ := (Bool.and_eq_true _ _).mp hlight
      obtain ⟨h, hm, hr⟩ := mem_oldest hb
      obtain ⟨ht, hl⟩ := List.mem_filter.mp hm
      obtain ⟨hmem, hmax⟩ := (mem_top _).mp ht
      refine ⟨h, hmem, fun ⟨x, hx, ho⟩ => absurd ho (Nat.not_le_of_lt (hyoung x hx)), fun _ => ⟨hmax, fun _ _ => ⟨by simpa using hl, ?_⟩, ?_⟩⟩
      · exact fun x hx e hx2 => hr x (List.mem_filter.mpr ⟨top_of_eq hx hmax e, by simpa using hx2⟩)
      · exact fun hnp => absurd (hpaired.mp hp) hnp
    · next hlight =>
      obtain ⟨h, ht, hr⟩ := mem_oldest hb
      obtain ⟨hmem, hmax⟩ := (mem_top _).mp ht
      refine ⟨h, hmem, fun ⟨x, hx, ho⟩ => absurd ho (Nat.not_le_of_lt (hyoung x hx)), fun _ => ⟨hmax, fun hp ⟨x, hx, e, hx2⟩ => ?_, ?_⟩⟩
      · refine absurd ?_ hlight
        rw [hpaired.mpr hp, Bool.true_and, bne_iff_ne]
        exact List.ne_nil_of_mem (List.mem_filter.mpr ⟨top_of_eq hx hmax e, by simpa using hx2⟩)
      · exact fun _ x hx e => hr x (top_of_eq hx hmax e)

end Sys2Proof.Machine
end

section
/-! SUPPORT. The ILL causes of a word (spec/02 R54) and the trap of a word that has one. -/

namespace Sys2Proof.Machine

/-! ### ILL causes -/

/-- The lowest of a list that is not empty is in it, and no other lies below. -/
theorem lowest_spec : ∀ {cs : List Nat}, cs ≠ [] → ∃ m, lowest cs = some m ∧ m ∈ cs ∧ ∀ d ∈ cs, m ≤ d
  | [a], _ => ⟨a, rfl, by simp, by simp⟩
  | a :: b :: r, _ => by
    obtain ⟨m, hm, hmem, hle⟩ := lowest_spec (cs := b :: r) (by simp)
    refine ⟨minN a m, by rw [lowest, hm], ?_, fun d hd => ?_⟩
    · unfold minN
      split
      · exact List.mem_cons_self
      · exact List.mem_cons_of_mem _ hmem
    · have hmin : minN a m ≤ a ∧ minN a m ≤ m := by unfold minN; split <;> omega
      rcases List.mem_cons.mp hd with rfl | hd
      · exact hmin.1
      · exact Nat.le_trans hmin.2 (hle d hd)
theorem lowest_eq {cs : List Nat} {c : Nat} (hc : c ∈ cs) (hl : ∀ d ∈ cs, c ≤ d) : lowest cs = some c := by
  obtain ⟨m, hm, hmem, hle⟩ := lowest_spec (List.ne_nil_of_mem hc)
  rw [hm, Nat.le_antisymm (hle c hc) (hl m hmem)]

@[simp] theorem mem_ite_one {c : Prop} [Decidable c] {a x : Nat} : x ∈ (if c then [a] else []) ↔ x = a ∧ c := by
  split
  · next h => simp [h]
  · next h => simp [h]

/-- Where an ILL cause of a word may come from: its own conditions, its fields, its guard, its flags or its place (R54). -/
theorem mem_illCauses {s : State} {k : Nat} {i : Instr} {f : Form} {x : Nat} : x ∈ s.illCauses k i f ↔
    (x, true) ∈ f.bad ∨
    (∃ o ∈ f.ops, x ∈ fieldIll (s.copseAt (copseOf k)) (s.copseAt (copseOf k)).maint f.h.uni o.1 o.2) ∨
    (x = 8 ∧ f.h.uni = true ∧ 4 ≤ f.h.gp.toNat ∧ f.h.gp.toNat ≤ 6) ∨ (x = 0xB ∧ (s.standAt k).flagIll f = true) ∨
    x ∈ (s.standAt k).placeIll (s.copseAt (copseOf k)).kind (wordBytes i) f.transfer := by
  have hgp : (f.h.uni && decide (4 ≤ f.h.gp.toNat) && f.h.gp != 7) = true ↔ f.h.uni = true ∧ 4 ≤ f.h.gp.toNat ∧ f.h.gp.toNat ≤ 6 := by
    have hb : f.h.gp.toNat < 8 := f.h.gp.isLt
    have h7 : f.h.gp = 7 ↔ f.h.gp.toNat = 7 := BitVec.toNat_eq
    simp only [Bool.and_eq_true, decide_eq_true_eq, bne_iff_ne, ne_eq, h7, and_assoc]
    exact and_congr_right fun _ => by omega
  have hbad : x ∈ f.bad.filterMap (fun b => if b.2 then some b.1 else none) ↔ (x, true) ∈ f.bad := by
    rw [List.mem_filterMap]
    constructor
    · rintro ⟨⟨y, b⟩, hm, hb⟩
      cases b with
      | true => cases hb; exact hm
      | false => cases hb
    · exact fun hm => ⟨_, hm, rfl⟩
  simp only [State.illCauses, List.mem_append, List.mem_flatMap, mem_ite_one, hgp, hbad, or_assoc]

/-! ### The causes of `add` -/

/-- Misuse of CL or PK in a field where a channel may stand (R33). -/
def misused (c : Copse) (o : Opd) : Prop :=
  (o.pk = true ∧ o.cl = false) ∨ (o.cl = true ∧ (64 ≤ o.num.toNat ∨ o.uf = true)) ∨ (c.maint = true ∧ (o.cl = true ∨ o.pk = true))
/-- The s register of a field is beyond the allocation of the copse (R34). -/
def sBeyond (c : Copse) (o : Opd) : Prop := 128 ≤ o.num.toNat ∨ (c.uregs ≤ o.num.toNat ∧ 4 ≤ o.num.toNat)
/-- So is its v register or pair, or the pair is odd (R34). -/
def vBeyond (c : Copse) (w : Nat) (o : Opd) : Prop :=
  c.vregs < o.num.toNat + 1 ∨ (w = 64 ∧ (c.vregs < o.num.toNat + 2 ∨ o.num.toNat % 2 = 1))

theorem sLimit_lt {c : Copse} {o : Opd} : c.sLimit < o.num.toNat + 1 ↔ sBeyond c o := by
  unfold Copse.sLimit sBeyond minN maxN
  split <;> split <;> omega
theorem vLimit_lt {c : Copse} {o : Opd} {w : Nat} :
    (c.vLimit < o.num.toNat + (if w = 64 then 2 else 1) ∨ ((w == 64) && o.num.toNat % 2 == 1) = true) ↔ vBeyond c w o := by
  unfold Copse.vLimit vBeyond
  by_cases h : w = 64
  · simp only [h, if_true, beq_self_eq_true, Bool.true_and, beq_iff_eq, true_and]
    omega
  · simp [h]
theorem misused_iff {c : Copse} {o : Opd} :
    ((o.pk && !o.cl) || (o.cl && (decide (64 ≤ o.num.toNat) || o.uf)) || (c.maint && (o.cl || o.pk))) = true ↔ misused c o := by
  simp only [misused, Bool.or_eq_true, Bool.and_eq_true, Bool.not_eq_true', decide_eq_true_eq, or_assoc]

/-- The causes of a source of one element (R32-R34). -/
theorem mem_fieldIll_val {c : Copse} {uni : Bool} {o : Opd} {w x : Nat} : x ∈ fieldIll c c.maint uni o (.val w) ↔
    (x = 9 ∧ misused c o) ∨ (x = 7 ∧ uni = true ∧ o.cl = false ∧ o.uf = false) ∨
      (x = 6 ∧ o.cl = false ∧ ((o.uf = true ∧ sBeyond c o) ∨ (o.uf = false ∧ uni = false ∧ vBeyond c w o))) := by
  simp only [fieldIll, Role.val, Bool.not_true, Bool.and_false, Bool.or_false, List.mem_append, mem_ite_one, misused_iff]
  cases hc : o.cl <;> cases hu : o.uf <;> cases uni <;>
    simp only [Bool.false_eq_true, if_false, if_true, mem_ite_one, sLimit_lt, vLimit_lt] <;> simp
/-- The causes of a destination of one element (R32-R34). -/
theorem mem_fieldIll_out {c : Copse} {uni : Bool} {o : Opd} {w x : Nat} : x ∈ fieldIll c c.maint uni o (.out w) ↔
    (x = 9 ∧ misused c o) ∨ (x = 7 ∧ o.cl = false ∧ uni ≠ o.uf) ∨
      (x = 6 ∧ o.cl = false ∧ ((o.uf = true ∧ uni = true ∧ sBeyond c o) ∨ (o.uf = false ∧ uni = false ∧ vBeyond c w o))) := by
  simp only [fieldIll, Role.out, Bool.not_true, Bool.and_false, Bool.or_false, List.mem_append, mem_ite_one, misused_iff]
  cases hc : o.cl <;> cases hu : o.uf <;> cases uni <;>
    simp only [Bool.false_eq_true, if_false, if_true, mem_ite_one, sLimit_lt, vLimit_lt] <;> simp

/-- Misuse of flags by a word that is not long-latency (R42). -/
theorem flagIll_short {st : Stand} {f : Form} (hl : f.long = false) (hm : f.mustFlag = false) : st.flagIll f = true ↔
    (match f.h.sch with
      | .heart wf sf => wf = 0xD ∨ wf = 0xE ∨ (12 ≤ sf.toNat ∧ sf.toNat ≤ 14)
      | .sap fsel _ => fsel = 3 ∨ (fsel = 1 ∧ ∃ h, st.clh = some h ∧ h.seta = 15) ∨ (fsel = 2 ∧ ∃ h, st.clh = some h ∧ h.setb = 15)) := by
  unfold Stand.flagIll
  cases f.h.sch with
  | heart wf sf =>
    have hsf : sf ≠ 0xF ↔ sf.toNat ≠ 15 := not_congr BitVec.toNat_eq
    have hb : sf.toNat < 16 := sf.isLt
    simp only [Bool.or_eq_true, beq_iff_eq, Bool.and_eq_true, decide_eq_true_eq, bne_iff_ne, hsf, or_assoc]
    exact or_congr_right (or_congr_right (by omega))
  | sap fsel ru =>
    obtain rfl | rfl | rfl | rfl : fsel = 0 ∨ fsel = 1 ∨ fsel = 2 ∨ fsel = 3 := by revert fsel; decide
    · simp [hl, hm]
    · cases st.clh <;> simp [slotOf, BitVec.toNat_eq]
    · cases st.clh <;> simp [slotOf, BitVec.toNat_eq]
    · simp

/-- Settles O8: `exec_illegal` with the lowest cause, and the places where the causes of `add` come from. -/
theorem illegalWordTrapsWithItsLowestCause : Obligations.IllegalWordTrapsWithItsLowestCause := by
  refine ⟨fun i s f b c hw hi hc hl => ?_, ?_⟩
  · exact ⟨s.faultRec s.cur { trapOf i 0 c with addr := s.me.pc, fmask := s.me.fmask f.h } s.me.pc false, rfl, rfl, rfl, rfl, rfl, rfl,
      by rw [exec_illegal hw hi (lowest_eq hc hl)]; rfl⟩
  · intro f s x c wide bad9 sHigh vHigh src dst flags
    have hbad : (x, true) ∈ (formAdd f).bad ↔
        (x = 4 ∧ f.md ≠ 0 ∧ (f.md ≠ 1 ∨ (8 ≤ f.ty.toNat ∧ f.ty.toNat ≤ 0x0B))) ∨ (x = 5 ∧ 0x0B < f.ty.toNat) := by
      have h4 : (!(f.md == 0 || (f.md == 1 && !tyB f.ty.toNat))) = true ↔ f.md ≠ 0 ∧ (f.md ≠ 1 ∨ (8 ≤ f.ty.toNat ∧ f.ty.toNat ≤ 0x0B)) := by
        simp [tyB, ← imp_iff_not_or]
      have h5 : (!anyInt f.ty.toNat) = true ↔ 0x0B < f.ty.toNat := by simp [anyInt]
      simp only [formAdd, binForm, badTy, mustZero, List.mem_cons, Prod.mk.injEq, List.not_mem_nil, or_false, eq_comm (a := true), h4, h5]
      exact or_comm
    have hplace : x ∈ (s.standAt s.cur).placeIll (s.copseAt (copseOf s.cur)).kind (wordBytes (.add f)) (formAdd f).transfer ↔
        (x = 3 ∧ 32 < s.me.pc.toNat % 32 + wordBytes (.add f)) ∨
        (x = 0xA ∧ c.kind = .sap ∧ s.me.place = .afterClause) ∨ (x = 0xC ∧ c.kind = .sap ∧ s.me.place = .target) := by
      have ht : (formAdd f).transfer = false := rfl
      have hc : s.copseAt (copseOf s.cur) = c := rfl
      rw [← me_eq, hc, ht]
      unfold Stand.placeIll
      rw [List.mem_append, mem_ite_one]
      cases c.kind <;> cases s.me.place <;> simp
    have hops : (∃ o ∈ (formAdd f).ops, x ∈ fieldIll c c.maint f.h.uni o.1 o.2) ↔ src f.sa ∨ src f.sb ∨ dst f.dst := by
      simp only [formAdd, binForm, List.exists_mem_cons_iff, List.not_mem_nil, false_and, exists_false, or_false, mem_fieldIll_val, mem_fieldIll_out]
      rfl
    have hflags : (s.standAt s.cur).flagIll (formAdd f) = true ↔ flags := flagIll_short rfl rfl
    rw [mem_illCauses, hbad, hflags, hplace]
    refine (or_congr_right (or_congr_left hops)).trans (Iff.of_eq ?_)
    rw [show (formAdd f).h = f.h from rfl]
    ac_rfl

end Sys2Proof.Machine
end

section
/-! SUPPORT. The local frame of a word: what keeps it, that it composes, and that memory reads as before inside it. -/

namespace Sys2Proof.Machine

variable {s t u : State}

/-! ### The local frame composes -/

theorem sameWorld_refl (s : State) : SameWorld s s := by simp [SameWorld]

theorem SameWorld.trans (h : SameWorld s t) (h' : SameWorld t u) : SameWorld s u := by
  simp only [SameWorld] at *
  simp only [h', h, and_self]

theorem SameCore.trans {a b c : Core} (h : SameCore a b) (h' : SameCore b c) : SameCore a c := by
  simp only [SameCore] at *
  simp only [h', h, and_self]

theorem SameCluster.trans {a b c : Cluster} (h : SameCluster a b) (h' : SameCluster b c) : SameCluster a c := by
  simp only [SameCluster] at *
  simp only [h', h, and_self]

theorem LocalFrame.cur_eq (h : LocalFrame s t) : t.cur = s.cur := by
  obtain ⟨⟨-, hcur, -⟩, -⟩ := h
  exact hcur

theorem LocalFrame.copses_eq (h : LocalFrame s t) : t.copses = s.copses := h.2.1

theorem LocalFrame.coreOf_eq (h : LocalFrame s t) (k : Nat) : t.coreOf k = s.coreOf k := by
  simp only [State.coreOf, State.copseAt, h.copses_eq]

theorem LocalFrame.kindOf_eq (h : LocalFrame s t) (k : Nat) : t.kindOf k = s.kindOf k := by
  simp only [State.kindOf, State.copseAt, h.copses_eq]

theorem LocalFrame.coreKey_eq (h : LocalFrame s t) : t.myCoreKey = s.myCoreKey := by
  rw [State.myCoreKey, h.coreOf_eq, h.cur_eq]; rfl

theorem localFrame_refl (s : State) : LocalFrame s s :=
  ⟨sameWorld_refl s, rfl, rfl, fun _ _ => rfl, fun _ _ => rfl, by simp [SameCore, State.myCore, State.myCoreKey], fun _ _ => rfl, by simp [SameCluster]⟩

theorem LocalFrame.trans (h : LocalFrame s t) (h' : LocalFrame t u) : LocalFrame s u := by
  have hcur := h.cur_eq
  have hkey := h.coreKey_eq
  obtain ⟨hw, hc, hf, hst, hco, hmy, hcl, hmycl⟩ := h
  obtain ⟨hw', hc', hf', hst', hco', hmy', hcl', hmycl'⟩ := h'
  rw [hcur] at hst'
  rw [State.myCore, hkey] at hmy'
  rw [hkey] at hco' hcl' hmycl'
  exact ⟨hw.trans hw', hc'.trans hc, hf'.trans hf, fun j hj => (hst' j hj).trans (hst j hj), fun c hc => (hco' c hc).trans (hco c hc),
    hmy.trans hmy', fun c hc => (hcl' c hc).trans (hcl c hc), hmycl.trans hmycl'⟩

/-! ### What stays inside it -/

theorem localFrame_setStand (s : State) (x : Stand) : LocalFrame s (s.setStand s.cur x) :=
  ⟨by simp [SameWorld], rfl, rfl, fun _ hj => setStand_standAt_ne _ _ _ hj, fun _ _ => rfl, by simp [SameCore, State.myCore, State.myCoreKey],
    fun _ _ => rfl, by simp [SameCluster]⟩

theorem localFrame_stale (s : State) (l : List Stale) : LocalFrame s { s with stale := l } :=
  ⟨by simp [SameWorld], rfl, rfl, fun _ _ => rfl, fun _ _ => rfl, by simp [SameCore, State.myCore, State.myCoreKey, State.coreAt], fun _ _ => rfl,
    by simp [SameCluster, State.clusterAt]⟩

theorem localFrame_ownWindow (s : State) (k n : Nat) : LocalFrame s (s.ownWindow k n) := localFrame_stale s _

theorem OnlyChans.localFrame (h : OnlyChans s.myCoreKey s t) : LocalFrame s t := by
  refine ⟨h.sameWorld, h.copses, h.free, fun j _ => by simp only [State.standAt, h.stands], fun c hc => h.coreAt_ne hc, ?_,
    fun c _ => by simp only [State.clusterAt, h.clusters], by simp [State.clusterAt, h.clusters, SameCluster]⟩
  obtain ⟨cs, e⟩ := h.coreAt
  simp [e, SameCore, State.myCore]

theorem localFrame_issued (s : State) (w : Nat) (y : Bool) (pre : Stand) : LocalFrame s (s.issued s.cur w y pre) :=
  ⟨issued_sameWorld .., issued_copses .., issued_free .., fun _ hj => issued_standAt_ne _ _ _ _ _ hj, fun _ hc => issued_coreAt_ne _ _ _ _ _ hc,
    by rw [State.myCoreKey, issued_coreAt]; simp [SameCore, State.myCore, State.myCoreKey], fun _ hc => issued_clusterAt_ne _ _ _ _ _ hc, issued_clusterAt ..⟩

theorem localFrame_retire (s : State) (i : Instr) (f : Form) (pre : Stand) : LocalFrame s (s.retire s.cur i f pre) := by
  rw [retire_eq]
  exact (localFrame_setStand s _).trans (localFrame_issued (s.setStand s.cur _) _ _ _)

theorem localFrame_setChan (s : State) (n : Nat) (c : Chan) : LocalFrame s (s.setChan s.myCoreKey n c) := (onlyChans_setChan ..).localFrame

theorem localFrame_putNow (s : State) (p : Pend) : LocalFrame s (s.putNow s.cur p) := by
  unfold State.putNow
  cases p.ch with
  | none => exact localFrame_setStand ..
  | some x =>
    exact (localFrame_setStand s _).trans (localFrame_setChan (s.setStand s.cur _) _ _)

theorem localFrame_putLater (s : State) (p : Pend) : LocalFrame s (s.putLater s.cur p) := by
  unfold State.putLater
  cases p.ch with
  | none => exact localFrame_setStand ..
  | some x =>
    exact (localFrame_setStand s _).trans (localFrame_setChan (s.setStand s.cur _) _ _)

theorem localFrame_srcs (s : State) (uni : Bool) (os : List (Opd × Bool)) : LocalFrame s (s.srcs s.cur uni os).2 :=
  (srcs_onlyChans s.cur uni os s).localFrame

theorem localFrame_start (s : State) (i : Instr) (f : Form) (pre : Stand) (p : Pend) : LocalFrame s (s.start s.cur i f pre p) := by
  have retired {u : State} (h : LocalFrame s u) : LocalFrame s (u.retire s.cur i f pre) := by
    rw [← h.cur_eq]
    exact h.trans (localFrame_retire u i f pre)
  unfold State.start
  split
  · refine retired ?_
    split_ifs
    · exact localFrame_putLater ..
    · exact localFrame_putNow ..
  · exact retired ((localFrame_setStand s _).trans (localFrame_putLater (s.setStand s.cur _) _))

/-! ### How a word leaves it -/

theorem LocalFrame.done (h : LocalFrame s u) (i : Instr) : LocalFrame s (done s u i) := by
  unfold Machine.done
  split
  · rw [← h.cur_eq]
    exact h.trans ((localFrame_ownWindow u _ _).trans (localFrame_retire (u.ownWindow _ _) _ _ _))
  · exact h

theorem LocalFrame.gone (h : LocalFrame s u) (i : Instr) : LocalFrame s (gone s u i) := by
  unfold Machine.gone
  split
  · rw [← h.cur_eq]
    exact h.trans (localFrame_issued u _ _ _)
  · exact h

theorem LocalFrame.started (h : LocalFrame s u) (i : Instr) (p : Pend) : LocalFrame s (started s u i p) := by
  unfold Machine.started
  split
  · rw [← h.cur_eq]
    exact h.trans ((localFrame_ownWindow u _ _).trans (localFrame_start (u.ownWindow _ _) _ _ _ _))
  · exact h

/-! ### Memory inside it -/

theorem sameMemory_refl (s : State) : SameMemory s s := fun _ _ => rfl

/-- A byte of a home reads as before where the directory, the frames and the queues of writes to the host are as before. -/
theorem homeGet_congr (hd : t.dir = s.dir) (hf : t.frames = s.frames) (hp : t.posted = s.posted) (a : Nat) : t.homeGet a = s.homeGet a := by
  unfold State.homeGet State.windowBytes State.dirAt
  rw [hd, hf, hp]

/-- Bytes read as before where also every L1 is. -/
theorem sameMemory_of_parts (hl : ∀ c, (t.coreAt c).l1 = (s.coreAt c).l1) (hd : t.dir = s.dir) (hf : t.frames = s.frames)
    (hp : t.posted = s.posted) : SameMemory s t := by
  intro core pa
  simp only [byteSeen, State.coreView, State.l1At, hl, State.homeRead, homeGet_congr hd hf hp]

theorem sameMemory_setStand (s : State) (k : Nat) (x : Stand) : SameMemory s (s.setStand k x) :=
  sameMemory_of_parts (fun _ => rfl) rfl rfl rfl

theorem SameMemory.trans (h : SameMemory s t) (h' : SameMemory t u) : SameMemory s u :=
  fun core pa => (h' core pa).trans (h core pa)

theorem LocalFrame.l1_eq (h : LocalFrame s t) (c : Nat) : (t.coreAt c).l1 = (s.coreAt c).l1 := by
  obtain ⟨-, -, -, -, hother, ⟨hown, -⟩, -⟩ := h
  by_cases e : c = s.myCoreKey
  · rw [e, hown]; rfl
  · rw [hother c e]

theorem LocalFrame.sameMemory (h : LocalFrame s t) : SameMemory s t := by
  have hl := h.l1_eq
  obtain ⟨hw, -⟩ := h
  simp only [SameWorld] at hw
  exact sameMemory_of_parts hl (by simp only [hw]) (by simp only [hw]) (by simp only [hw])

end Sys2Proof.Machine
end

section
/-! SUPPORT. Words that only pass and words that wait (spec/02 R29, R35, R41-R43). -/

namespace Sys2Proof.Machine

/-- Who takes part in a vector word (R29). -/
theorem getLsbD_part (st : Stand) {h : Head} (hu : h.uni = false) {n : Nat} (hn : n < 128) :
    (st.part h).getLsbD n = (st.a.getLsbD n && ((st.pval h.gp.toNat).getLsbD n != h.gn)) := by
  unfold Stand.part
  cases h.gn <;> simp [hn, hu]

/-- A word of known form whose effect leaves the stale window goes on as its form says. -/
theorem done_eq {i : Instr} {s u : State} {f : Form} {b : State → Eff} (hw : wordOf i s = some (f, b)) (hs : u.stale = s.stale) :
    done s u i = u.retire s.cur i f s.me := by
  simp only [done, hw, ← hs, ownWindow_self]

/-- Settles O9: by the cases of the guard, and by the frame of a word that only passes. -/
theorem guardedOffWordOnlyPasses : Obligations.GuardedOffWordOnlyPasses := by
  unfold Obligations.GuardedOffWordOnlyPasses
  intro i s f b hw
  refine ⟨fun hu n hn => getLsbD_part s.me hu hn, fun hu h4 h6 => mem_illCauses.mpr (.inr (.inr (.inl ⟨rfl, hu, h4, h6⟩))), rfl,
    fun hi hu hg => ⟨done s s i, exec_skipped hw hi hu hg, (localFrame_refl s).done i, ?_⟩⟩
  have hcur : (s.retire s.cur i f s.me).me = (s.retire s.cur i f s.me).standAt s.cur := by
    rw [me_eq, (localFrame_retire s i f s.me).cur_eq]
  rw [done_eq hw rfl, hcur]
  obtain ⟨hv, hsr, hp, hq, hfl, hpd⟩ := retire_regs s s.cur i f s.me
  obtain ⟨a, c, hcore⟩ := retire_coreAt s s.cur i f s.me
  refine ⟨retire_pc .., hv, hsr, hp, hq, hfl, hpd, by rw [State.myCoreKey, hcore]; rfl, fun hc => ?_⟩
  obtain ⟨place, clpos, e⟩ := retire_stand s s.cur i f s.me hc
  rw [e]
  simp [SameStand, me_eq]

/-- Settles O10: a stand that cannot issue leaves the word alone, and the checks before the effect only note why it waits. -/
theorem heldBackWordWaits : Obligations.HeldBackWordWaits := by
  unfold Obligations.HeldBackWordWaits
  intro i s f b hw
  refine ⟨exec_idle hw, fun hc hi hwait => ?_⟩
  rw [exec_word hw]
  simp only [State.me] at hc hwait
  unfold State.issueWord
  simp only [hc, hi, lowest, Bool.not_true, Bool.false_eq_true, if_false]
  cases hb : s.blocked s.cur i f with
  | true => exact ⟨_, rfl⟩
  | false =>
    obtain ⟨hg, hf, hr⟩ := hwait.resolve_left (by simp [hb])
    have hpass : (f.h.uni && !(s.standAt s.cur).guard f.h) = false := by
      cases hu : f.h.uni with
      | false => rfl
      | true => simp [hg hu]
    refine ⟨1, ?_⟩
    simp only [Bool.false_eq_true, if_false, hpass, State.effect, hf, hr, Bool.not_false, Bool.and_self, if_true]
    rfl

end Sys2Proof.Machine
end

section
/-! SUPPORT. The completion of an outstanding operation (spec/02 R41, R43, R184). -/

namespace Sys2Proof.Machine

/-! ### What a completed operation writes (R41, R43) -/

/-- The results of an outstanding operation that a completion writes: a contested one where its coin says so (R43). -/
def State.landing (s : State) (p : Pend) : Pend :=
  { p with vw := p.vw.filter (fun w => !(p.vlost.contains w.1) || s.coin (0 + w.1))
           sw := p.sw.filter (fun w => !(p.slost.contains w.1) || s.coin (0x10000 + w.1))
           qw := p.qw.filter (fun w => !(p.qlost.contains w.1) || s.coin (0x20000 + w.1))
           pw := p.pw.map (fun w => (w.1, w.2.1 &&& ~~~s.keptLanes p.plost w.1, w.2.2)) }

/-- A list of writes of which some are left out: a key that one of them names takes its value or keeps its own. -/
theorem tget_tputs_filter {α : Type} (d : α) (keep : Nat × α → Bool) {ws : List (Nat × α)} (hn : (ws.map Prod.fst).Nodup) (t : Tbl α)
    {key : Nat} {w : α} (h : (key, w) ∈ ws) : tget d (tputs (ws.filter keep) t) key = if keep (key, w) then w else tget d t key := by
  have huniq : ∀ x ∈ ws, x.1 = key → x = (key, w) := fun x hx e => List.inj_on_of_nodup_map hn hx h e
  split
  · next hk =>
    rw [tget, tfind_tputs_mem key w _ _ (List.mem_filter.mpr ⟨h, hk⟩) fun x hx e => by rw [huniq x (List.mem_filter.mp hx).1 e]]
    rfl
  · next hk =>
    rw [tget, tfind_tputs_other key _ _ fun x hx e => hk ?_]
    · rfl
    · obtain ⟨hx, hkeep⟩ := List.mem_filter.mp hx
      rw [← huniq x hx e]
      exact hkeep

/-- A key that no write names keeps its value. -/
theorem tget_tputs_other {α : Type} (d : α) {ws : List (Nat × α)} (t : Tbl α) {key : Nat} (h : key ∉ ws.map Prod.fst) :
    tget d (tputs ws t) key = tget d t key := by
  rw [tget, tfind_tputs_other key ws t fun w hw e => h (List.mem_map.mpr ⟨w, hw, e⟩)]
  rfl

/-- A register that an operation writes takes its value, or keeps what a later write put there (R43). -/
theorem tget_landing {α : Type} {d : α} {lost : List Nat} (coin : Nat → Bool) {ws : List (Nat × α)} (hn : (ws.map Prod.fst).Nodup)
    {t : Tbl α} {key : Nat} {w : α} (h : (key, w) ∈ ws) :
    tget d (tputs (ws.filter fun x => !(lost.contains x.1) || coin x.1) t) key = w ∨
      (key ∈ lost ∧ tget d (tputs (ws.filter fun x => !(lost.contains x.1) || coin x.1) t) key = tget d t key) := by
  rw [tget_tputs_filter d _ hn t h]
  split
  · exact .inl rfl
  · next hk =>
    refine .inr ⟨?_, rfl⟩
    simp only [Bool.or_eq_true, Bool.not_eq_true', not_or, Bool.not_eq_false, List.contains_iff_mem] at hk
    exact hk.1

/-- A lane that a completion leaves as it was is one that was contested. -/
theorem mem_of_keptLanes {s : State} {lost : List Nat} {n b : Nat} (h : (s.keptLanes lost n).getLsbD b = true) : 128 * n + b ∈ lost := by
  have hlanes : ∀ t ∈ (lost.filter (fun x => x / 128 == n && !s.coin (0x30000 + x))).map (fun x => x % 128), t < 128 := by
    intro t ht
    obtain ⟨x, -, rfl⟩ := List.mem_map.mp ht
    exact Nat.mod_lt _ (by decide)
  rw [State.keptLanes, getLsbD_maskOf _ _ hlanes, decide_eq_true_eq] at h
  obtain ⟨x, hx, hb⟩ := List.mem_map.mp h
  obtain ⟨hx, hn⟩ := List.mem_filter.mp hx
  simp only [Bool.and_eq_true, beq_iff_eq] at hn
  rwa [show 128 * n + b = x by omega]

theorem getLsbD_setQ : ∀ (q : BitVec 4) (n : Nat) (b : Bool), n < 4 → (setQ q n b).getLsbD n = b
  | q, 0, b, _ => by revert q b; decide
  | q, 1, b, _ => by revert q b; decide
  | q, 2, b, _ => by revert q b; decide
  | q, 3, b, _ => by revert q b; decide

theorem flag_flagDown (st : Stand) (f : Option Nat) (m : Nat) :
    (st.flagDown (f.getD 15)).flag m = st.flag m - (if f = some m ∧ m < 12 then 1 else 0) := by
  unfold Stand.flagDown
  split
  · next h =>
    have hf : f.getD 15 = m ↔ f = some m := by
      cases f with
      | none => simp at h
      | some n => simp
    unfold Stand.flag Stand.setFlag
    rw [tget_tset]
    by_cases e : m = f.getD 15
    · rw [if_pos e, if_pos ⟨hf.mp e.symm, by omega⟩, e]
    · rw [if_neg e, if_neg fun hm => e (hf.mpr hm.1).symm]
      rfl
  · next h =>
    rw [if_neg fun hm => h (by rw [hm.1]; exact hm.2)]
    rfl

theorem flagDown_eq (st : Stand) (n : Nat) : ∃ fl, st.flagDown n = { st with flags := fl } := by
  unfold Stand.flagDown
  split
  · exact ⟨_, rfl⟩
  · exact ⟨_, rfl⟩

/-! ### What a completion leaves -/

theorem finish_standAt (s : State) (k : Nat) (p : Pend) :
    (s.finish k p).standAt k = ((s.standAt k).put (s.landing p)).flagDown (p.flag.getD 15) := by
  unfold State.finish
  cases h : p.ch with
  | none => exact setStand_standAt ..
  | some x => exact setStand_standAt ..

theorem finish_standAt_ne (s : State) (k : Nat) (p : Pend) {j : Nat} (hj : j ≠ k) : (s.finish k p).standAt j = s.standAt j := by
  unfold State.finish
  cases h : p.ch with
  | none => exact setStand_standAt_ne _ _ _ hj
  | some x => exact setStand_standAt_ne _ _ _ hj

theorem finish_chanAt (s : State) (k n : Nat) (p : Pend) (es : List ChanEntry) (h : p.ch = some (n, es)) :
    (s.finish k p).chanAt (s.coreOf k) n = { s.chanAt (s.coreOf k) n with
      entries := (s.chanAt (s.coreOf k) n).entries ++ es, held := (s.chanAt (s.coreOf k) n).held - es.length } := by
  unfold State.finish
  simp only [h]
  simp [State.setChan, State.chanAt]

theorem sameMemory_finish (s : State) (k : Nat) (p : Pend) : SameMemory s (s.finish k p) := by
  unfold State.finish
  cases h : p.ch with
  | none => exact sameMemory_of_parts (fun _ => rfl) rfl rfl rfl
  | some x =>
    refine sameMemory_of_parts (fun c => ?_) rfl rfl rfl
    simp only [State.setChan, setCore_coreAt_at]
    split
    · next e => subst e; rfl
    · rfl

/-- An operation that is ready, behind none that must come first, completes (R41, R184). -/
theorem exec_complete {s : State} {k n : Nat} {p : Pend} (hp : (s.standAt k).pend[n]? = some p) (hon : p.on = .ready)
    (hres : (s.copseAt (copseOf k)).life = .resident) (hbefore : ∀ q ∈ (s.standAt k).pend.take n, q.before p = false) :
    exec (.longLatencyComplete k n) s = .next ((s.setStand k { s.standAt k with pend := (s.standAt k).pend.eraseIdx n }).finish k p) := by
  have hwait : ¬((s.copseAt (copseOf k)).life ≠ .resident ∨ ((s.standAt k).pend.take n).any (fun q => q.before p) = true) := by
    simpa [hres] using hbefore
  show Host.Outcome.next (s.completePend k n) = _
  congr 1
  unfold State.completePend State.pendDone
  simp only [hp, if_neg hwait, hon]

/-- Settles O15: a completion is the operation taken off the list and its results put, each register by the rule of the tables. -/
theorem longLatencyOperationCompletes : Obligations.LongLatencyOperationCompletes := by
  unfold Obligations.LongLatencyOperationCompletes
  intro s k n p hp hon hres hbefore hv hs
  refine ⟨_, exec_complete hp hon hres hbefore, ?_⟩
  obtain ⟨u, hu⟩ : ∃ u, u = s.setStand k { s.standAt k with pend := (s.standAt k).pend.eraseIdx n } := ⟨_, rfl⟩
  have hstand : u.standAt k = { s.standAt k with pend := (s.standAt k).pend.eraseIdx n } := by rw [hu, setStand_standAt]
  have hother : ∀ j, j ≠ k → u.standAt j = s.standAt j := fun j hj => by rw [hu, setStand_standAt_ne _ _ _ hj]
  have hcore : u.coreOf k = s.coreOf k := by rw [hu, setStand_coreOf]
  have hchan : ∀ m, u.chanAt (s.coreOf k) m = s.chanAt (s.coreOf k) m := fun m => by rw [hu]; rfl
  have hmem : SameMemory s u := by rw [hu]; exact sameMemory_setStand s k _
  rw [← hu]
  obtain ⟨fl, hfl⟩ := flagDown_eq ((u.standAt k).put (u.landing p)) (p.flag.getD 15)
  have hreg : (u.finish k p).standAt k = { (s.standAt k).put (u.landing p) with pend := (s.standAt k).pend.eraseIdx n, flags := fl } := by
    rw [finish_standAt, hfl, hstand]; rfl
  refine ⟨by rw [hreg], fun key w hw => ?_, fun key hk => ?_, fun key w hw => ?_, fun key hk => ?_, fun m b hm hb => ?_, fun m hm hl h4 => ?_,
    fun m => ?_, fun m es he => ?_, fun j hj => (finish_standAt_ne u k p hj).trans (hother j hj), hmem.trans (sameMemory_finish u k p)⟩
  · rw [hreg]
    exact tget_landing (fun x => u.coin (0 + x)) hv hw
  · rw [hreg]
    exact tget_tputs_other 0 _ fun h => hk ((List.filter_sublist.map _).subset h)
  · rw [hreg]
    exact tget_landing (fun x => u.coin (0x10000 + x)) hs hw
  · rw [hreg]
    exact tget_tputs_other 0 _ fun h => hk ((List.filter_sublist.map _).subset h)
  · rw [hreg]
    simp only [Stand.put, State.landing, hm, List.map_cons, List.map_nil, List.foldl_cons, List.foldl_nil, tget_tset_self, BitVec.getLsbD_or, BitVec.getLsbD_and,
      BitVec.getLsbD_not, hb, decide_true, Bool.true_and]
    cases hkept : (u.keptLanes p.plost m.1).getLsbD b with
    | true => exact .inr ⟨mem_of_keptLanes hkept, by simp⟩
    | false => left; cases m.2.1.getLsbD b <;> simp
  · rw [hreg]
    simp only [Stand.put, State.landing, hm]
    rw [List.filter_cons_of_pos (by simp [hl])]
    exact getLsbD_setQ _ _ _ h4
  · rw [finish_standAt, flag_flagDown, hstand]
    rfl
  · have h := finish_chanAt u k m p es he
    rw [hcore, hchan] at h
    rw [h]
    exact ⟨rfl, rfl⟩

end Sys2Proof.Machine
end

section
/-! SUPPORT. Register instructions: their one shape, what their results name, and what they leave (spec/02 R34, R35; spec/06 R141). -/

namespace Sys2Proof.Machine

/-! ### Register instructions are words of one shape -/

/-- A body that reads sources one after another and writes one destination, at once or later. -/
def Maps (b : State → Eff) (s : State) (h : Head) (long : Bool) (os : List (Opd × Bool)) (dst : Opd) (wide : Bool) : Prop :=
  ∃ val, b s = (s.srcs s.cur h.uni os).2.results long (outVals h.uni (s.me.part h) dst wide val)

section
variable (s : State) (f : A64) (fi : I64) (ft : T96)

theorem maps_floatWord (h : Head) (long : Bool) (os : List (Opd × Bool)) (dst : Opd) (ty : Nat) (g : List Src → Nat → Nat) :
    Maps (floatWord h long os dst ty g) s h long os dst (tyBits ty == 64) :=
  ⟨fun t => outTy ty (g (s.srcs s.cur h.uni os).1 t), by simp only [floatWord, (srcs_onlyChans s.cur h.uni os s).me]⟩
theorem maps_mapWord (h : Head) (os : List (Opd × Bool)) (dst : Opd) (ty : Nat) (g : List Src → Nat → Nat) :
    Maps (mapWord h os dst ty g) s h false os dst (tyBits ty == 64) :=
  maps_floatWord s h false os dst ty g
theorem maps_binBody (g : Nat → Nat → Nat → Nat) : Maps (binBody f g) s f.h false
    [(f.sa, tyBits f.ty.toNat == 64), (f.sb, tyBits f.ty.toNat == 64)] f.dst (tyBits f.ty.toNat == 64) := by
  unfold binBody
  exact maps_mapWord ..
theorem maps_unBody (g : Nat → Nat → Nat) : Maps (unBody f g) s f.h false [(f.sa, tyBits f.ty.toNat == 64)] f.dst (tyBits f.ty.toNat == 64) := by
  unfold unBody
  exact maps_mapWord ..
theorem maps_shiftBody (g : Nat → Nat → Nat → Nat) : Maps (shiftBody f g) s f.h false
    [(f.sa, tyBits f.ty.toNat == 64), (f.sb, false)] f.dst (tyBits f.ty.toNat == 64) := by
  unfold shiftBody
  exact maps_mapWord ..
theorem maps_immBody (g : Nat → Nat → Nat → Nat) (imm : Nat) : Maps (immBody fi g imm) s fi.h false [(shortOpd fi.h.uni fi.sa, fi.h.uni)]
    (shortOpd fi.h.uni fi.dst) (tyBits (immTy fi.h.uni) == 64) := by
  unfold immBody
  exact maps_mapWord ..
theorem maps_fbinBody (long : Bool) (g : FF → Nat → Nat → Nat) : Maps (fbinBody f long g) s f.h long
    [(f.sa, tyBits f.ty.toNat == 64), (f.sb, tyBits f.ty.toNat == 64)] f.dst (tyBits f.ty.toNat == 64) := by
  unfold fbinBody
  exact maps_floatWord ..
theorem maps_fmaBody (long : Bool) (ty : Nat) (g : Nat → Nat → Nat → Nat) : Maps (fmaBody ft long ty g) s ft.h long
    [(ft.sa, tyBits ty == 64), (ft.sb, tyBits ty == 64), (ft.sc, tyBits ty == 64)] ft.dst (tyBits ty == 64) := by
  unfold fmaBody
  exact maps_floatWord ..
theorem maps_fnBody (g : FF → Nat → Nat) : Maps (fnBody f g) s f.h true [(f.sa, false)] f.dst (tyBits f.ty.toNat == 64) := by
  unfold fnBody
  exact maps_floatWord ..
theorem maps_bodyLea : Maps (bodyLea ft) s ft.h false [(ft.sa, true), (ft.sb, ft.tys.toNat == 0xB)] ft.dst (tyBits 0xB == 64) := by
  unfold bodyLea
  exact maps_mapWord ..
theorem maps_bodySel : Maps (bodySel ft) s ft.h false [(ft.sa, tyBits ft.tyd.toNat == 64), (ft.sb, tyBits ft.tyd.toNat == 64)] ft.dst
    (tyBits ft.tyd.toNat == 64) := by
  unfold Maps bodySel
  exact maps_mapWord ..
theorem maps_bodyShfl : Maps (bodyShfl ft) s ft.h false [(ft.sa, tyBits ft.tyd.toNat == 64), (ft.sb, tyBits ft.tyd.toNat == 64)] ft.dst
    (tyBits ft.tyd.toNat == 64) := by
  unfold Maps bodyShfl
  exact maps_mapWord ..
end

/-- An instruction whose word is such a body, with the sources, the destination and the width of a register operation: the shape of every
register instruction. -/
def WritesOne (s : State) (i : Instr) (h : Head) (o : RegOp) : Prop :=
  ∃ f b os, wordOf i s = some (f, b) ∧ f.h = h ∧ f.control = false ∧ os.map Prod.fst = o.srcs.map Prod.fst
    ∧ Maps b s h o.long os o.dst (tyBits o.ty == 64)

theorem writesOne_of_maps {s : State} {i : Instr} {f : Form} {b : State → Eff} {o : RegOp} {h : Head} {long : Bool} {os : List (Opd × Bool)}
    {dst : Opd} {wide : Bool} (hw : wordOf i s = some (f, b)) (hm : Maps b s h long os dst wide) (hh : f.h = h) (hc : f.control = false)
    (hos : os.map Prod.fst = o.srcs.map Prod.fst) (hd : o.dst = dst) (hty : (tyBits o.ty == 64) = wide) (hl : o.long = long) :
    WritesOne s i h o :=
  ⟨f, b, os, hw, hh, hc, hos, by rw [hd, hty, hl]; exact hm⟩

theorem writesOne_arithOp {i : Instr} {s : State} {o : RegOp} {h : Head} (ho : arithOp i = some o) (hh : i.head? = some h) :
    WritesOne s i h o := by
  unfold arithOp at ho
  split at ho <;> cases ho <;> cases hh
  · exact writesOne_of_maps rfl (maps_binBody ..) rfl rfl rfl rfl rfl rfl
  · exact writesOne_of_maps rfl (maps_binBody ..) rfl rfl rfl rfl rfl rfl
  · exact writesOne_of_maps rfl (maps_binBody ..) rfl rfl rfl rfl rfl rfl
  · exact writesOne_of_maps rfl (maps_binBody ..) rfl rfl rfl rfl rfl rfl
  · exact writesOne_of_maps rfl (by unfold bodyMad; exact maps_mapWord ..) rfl rfl rfl rfl rfl rfl
  · exact writesOne_of_maps rfl (by unfold bodyMadWide; exact maps_mapWord ..) rfl rfl rfl rfl rfl rfl
  · exact writesOne_of_maps rfl (maps_binBody ..) rfl rfl rfl rfl rfl rfl
  · exact writesOne_of_maps rfl (maps_binBody ..) rfl rfl rfl rfl rfl rfl
  · exact writesOne_of_maps rfl (maps_unBody ..) rfl rfl rfl rfl rfl rfl
  · exact writesOne_of_maps rfl (maps_unBody ..) rfl rfl rfl rfl rfl rfl
  · exact writesOne_of_maps rfl (maps_unBody ..) rfl rfl rfl rfl rfl rfl
  · exact writesOne_of_maps rfl (maps_bodyLea ..) rfl rfl rfl rfl rfl rfl

theorem writesOne_bitOp {i : Instr} {s : State} {o : RegOp} {h : Head} (ho : bitOp i = some o) (hh : i.head? = some h) :
    WritesOne s i h o := by
  unfold bitOp at ho
  split at ho <;> cases ho <;> cases hh
  · exact writesOne_of_maps rfl (maps_binBody ..) rfl rfl rfl rfl rfl rfl
  · exact writesOne_of_maps rfl (maps_binBody ..) rfl rfl rfl rfl rfl rfl
  · exact writesOne_of_maps rfl (maps_binBody ..) rfl rfl rfl rfl rfl rfl
  · exact writesOne_of_maps rfl (maps_unBody ..) rfl rfl rfl rfl rfl rfl
  · exact writesOne_of_maps rfl (maps_shiftBody ..) rfl rfl rfl rfl rfl rfl
  · exact writesOne_of_maps rfl (maps_shiftBody ..) rfl rfl rfl rfl rfl rfl
  · exact writesOne_of_maps rfl (maps_shiftBody ..) rfl rfl rfl rfl rfl rfl
  · exact writesOne_of_maps rfl (maps_shiftBody ..) rfl rfl rfl rfl rfl rfl
  · exact writesOne_of_maps rfl (maps_unBody ..) rfl rfl rfl rfl rfl rfl
  · exact writesOne_of_maps rfl (maps_unBody ..) rfl rfl rfl rfl rfl rfl
  · exact writesOne_of_maps rfl (maps_unBody ..) rfl rfl rfl rfl rfl rfl
  · exact writesOne_of_maps rfl (maps_unBody ..) rfl rfl rfl rfl rfl rfl
  · exact writesOne_of_maps rfl (by unfold bodyBfe; exact maps_mapWord ..) rfl rfl rfl rfl rfl rfl
  · exact writesOne_of_maps rfl (by unfold bodyBfi; exact maps_mapWord ..) rfl rfl rfl rfl rfl rfl
  · exact writesOne_of_maps rfl (by unfold bodyPerm; exact maps_mapWord ..) rfl rfl rfl rfl rfl rfl

theorem writesOne_floatOp {i : Instr} {s : State} {o : RegOp} {h : Head} (ho : floatOp i = some o) (hh : i.head? = some h) :
    WritesOne s i h o := by
  unfold floatOp at ho
  split at ho <;> cases ho <;> cases hh
  · exact writesOne_of_maps rfl (maps_fbinBody ..) rfl rfl rfl rfl rfl rfl
  · exact writesOne_of_maps rfl (maps_fbinBody ..) rfl rfl rfl rfl rfl rfl
  · exact writesOne_of_maps rfl (maps_fbinBody ..) rfl rfl rfl rfl rfl rfl
  · exact writesOne_of_maps rfl (maps_fbinBody ..) rfl rfl rfl rfl rfl rfl
  · exact writesOne_of_maps rfl (maps_fbinBody ..) rfl rfl rfl rfl rfl rfl
  · exact writesOne_of_maps rfl (maps_fbinBody ..) rfl rfl rfl rfl rfl rfl
  · exact writesOne_of_maps rfl (maps_fbinBody ..) rfl rfl rfl rfl rfl rfl
  · exact writesOne_of_maps rfl (maps_fmaBody ..) rfl rfl rfl rfl rfl rfl
  · exact writesOne_of_maps rfl (maps_fmaBody ..) rfl rfl rfl rfl rfl rfl
  · exact writesOne_of_maps rfl (maps_fmaBody ..) rfl rfl rfl rfl rfl rfl
  · exact writesOne_of_maps rfl (maps_fmaBody ..) rfl rfl rfl rfl rfl rfl
  · exact writesOne_of_maps rfl (maps_fnBody ..) rfl rfl rfl rfl rfl rfl
  · exact writesOne_of_maps rfl (maps_fnBody ..) rfl rfl rfl rfl rfl rfl
  · exact writesOne_of_maps rfl (maps_fnBody ..) rfl rfl rfl rfl rfl rfl
  · exact writesOne_of_maps rfl (maps_fnBody ..) rfl rfl rfl rfl rfl rfl
  · exact writesOne_of_maps rfl (maps_fnBody ..) rfl rfl rfl rfl rfl rfl
  · exact writesOne_of_maps rfl (maps_fnBody ..) rfl rfl rfl rfl rfl rfl
  · exact writesOne_of_maps rfl (maps_fnBody ..) rfl rfl rfl rfl rfl rfl
  · exact writesOne_of_maps rfl (by unfold bodyFclass; exact maps_floatWord ..) rfl rfl rfl rfl rfl rfl
  · exact writesOne_of_maps rfl (by unfold bodyCvt; exact maps_floatWord ..) rfl rfl rfl rfl rfl rfl
  · exact writesOne_of_maps rfl (by unfold bodyPack; exact maps_floatWord ..) rfl rfl rfl rfl rfl rfl
  · exact writesOne_of_maps rfl (by unfold bodyUnpack; exact maps_floatWord ..) rfl rfl rfl rfl rfl rfl

/-- The word of `movi` is legal with MOD 0 or 1 alone (R154). -/
theorem moviW128_md {f : W128} {s : State} (h : Acts s (.moviW128 f)) : f.md = 0 ∨ f.md = 1 := by
  have hill : s.illCauses s.cur (.moviW128 f) (formMoviW128 f) = [] := by
    have hi := acts_issues h
    simp only [Issues, wordOf] at hi
    exact hi.2.1
  have hbad : ¬(4, true) ∈ (formMoviW128 f).bad := fun hm => by
    have hx : 4 ∈ s.illCauses s.cur (.moviW128 f) (formMoviW128 f) := mem_illCauses.mpr (.inl hm)
    rw [hill] at hx
    exact absurd hx List.not_mem_nil
  have hle : f.md.toNat ≤ 1 := by
    by_contra hgt
    exact hbad (by simp [formMoviW128, mustZero, hgt])
  rcases Nat.le_one_iff_eq_zero_or_eq_one.mp hle with h0 | h1
  · exact .inl (BitVec.eq_of_toNat_eq (by simpa using h0))
  · exact .inr (BitVec.eq_of_toNat_eq (by simpa using h1))

theorem maps_bodyMoviW128 (s : State) {f : W128} (h : f.md = 0 ∨ f.md = 1) :
    Maps (bodyMoviW128 f) s f.h false [] f.dst (tyBits (if f.md = 0 then 0xB else 0xA) == 64) := by
  have hty : (if f.md = 0 then 0xB else 0xA) = if f.md.getLsbD 0 then 0xA else 0xB := by
    rcases h with h | h
    · rw [h]; decide
    · rw [h]; decide
  rw [hty]
  unfold bodyMoviW128
  exact maps_mapWord ..

theorem writesOne_immOp {i : Instr} {s : State} {o : RegOp} {h : Head} (ho : immOp i = some o) (hh : i.head? = some h) (ha : Acts s i) :
    WritesOne s i h o := by
  unfold immOp at ho
  split at ho <;> cases ho <;> cases hh
  · exact writesOne_of_maps rfl (maps_immBody ..) rfl rfl rfl rfl rfl rfl
  · exact writesOne_of_maps rfl (maps_immBody ..) rfl rfl rfl rfl rfl rfl
  · exact writesOne_of_maps rfl (maps_immBody ..) rfl rfl rfl rfl rfl rfl
  · exact writesOne_of_maps rfl (maps_immBody ..) rfl rfl rfl rfl rfl rfl
  · exact writesOne_of_maps rfl (maps_immBody ..) rfl rfl rfl rfl rfl rfl
  · exact writesOne_of_maps rfl (maps_immBody ..) rfl rfl rfl rfl rfl rfl
  · exact writesOne_of_maps rfl (maps_immBody ..) rfl rfl rfl rfl rfl rfl
  · exact writesOne_of_maps rfl (maps_immBody ..) rfl rfl rfl rfl rfl rfl
  · exact writesOne_of_maps rfl (maps_immBody ..) rfl rfl rfl rfl rfl rfl
  · exact writesOne_of_maps rfl (maps_immBody ..) rfl rfl rfl rfl rfl rfl
  · exact writesOne_of_maps rfl (maps_immBody ..) rfl rfl rfl rfl rfl rfl
  · exact writesOne_of_maps rfl (maps_immBody ..) rfl rfl rfl rfl rfl rfl
  · exact writesOne_of_maps rfl (by unfold bodyMovi; exact maps_mapWord ..) rfl rfl rfl rfl rfl rfl
  · exact writesOne_of_maps rfl (maps_bodyMoviW128 s (moviW128_md ha)) rfl rfl rfl rfl rfl rfl

theorem writesOne_pickOp {i : Instr} {s : State} {o : RegOp} {h : Head} (ho : pickOp i s = some o) (hh : i.head? = some h) :
    WritesOne s i h o := by
  unfold pickOp at ho
  split at ho <;> cases ho <;> cases hh
  · exact writesOne_of_maps rfl (maps_bodySel ..) rfl rfl rfl rfl rfl rfl
  · exact writesOne_of_maps rfl (maps_bodyShfl ..) rfl rfl rfl rfl rfl rfl
  · exact writesOne_of_maps rfl (maps_fbinBody ..) rfl rfl rfl rfl rfl rfl

/-- Every register instruction is a word of that shape. -/
theorem writesOne_regOp {i : Instr} {s : State} {o : RegOp} {h : Head} (ho : regOp i s = some o) (hh : i.head? = some h) (ha : Acts s i) :
    WritesOne s i h o := by
  simp only [regOp, Option.or_eq_some_iff] at ho
  rcases ho with ((ho | ⟨-, ho⟩) | ⟨-, ho | ⟨-, ho⟩⟩) | ⟨-, ho⟩
  · exact writesOne_arithOp ho hh
  · exact writesOne_bitOp ho hh
  · exact writesOne_immOp ho hh ha
  · exact writesOne_floatOp ho hh
  · exact writesOne_pickOp ho hh

/-! ### What results name -/

theorem outVals_vw {uni wide : Bool} {p : Mask} {o : Opd} {val : Nat → Word64} {key : Nat}
    (h : key ∈ (outVals uni p o wide val).vw.map Prod.fst) : uni = false ∧ o.cl = false ∧ ∃ lane ∈ lanes p,
      key = 128 * o.num.toNat + lane ∨ (wide = true ∧ key = 128 * (o.num.toNat + 1) + lane) := by
  unfold outVals at h
  cases uni with
  | true => cases hc : o.cl <;> simp [hc, Pend.empty] at h
  | false =>
    cases hc : o.cl with
    | true => simp [hc, Pend.empty] at h
    | false =>
      refine ⟨rfl, rfl, ?_⟩
      simp only [hc, Bool.false_eq_true, if_false, List.map_flatMap, List.mem_flatMap] at h
      obtain ⟨lane, hl, hk⟩ := h
      refine ⟨lane, hl, ?_⟩
      cases wide with
      | true => simpa using hk
      | false => simpa using hk

theorem outVals_sw {uni wide : Bool} {p : Mask} {o : Opd} {val : Nat → Word64} {key : Nat}
    (h : key ∈ (outVals uni p o wide val).sw.map Prod.fst) : uni = true ∧ o.cl = false ∧ key = o.num.toNat := by
  unfold outVals at h
  cases uni with
  | true =>
    cases hc : o.cl with
    | true => simp [hc, Pend.empty] at h
    | false => simpa [hc] using h
  | false => cases hc : o.cl <;> simp [hc, Pend.empty] at h

theorem outVals_ch {uni wide : Bool} {p : Mask} {o : Opd} {val : Nat → Word64} {n : Nat} {es : List ChanEntry}
    (h : (outVals uni p o wide val).ch = some (n, es)) : o.cl = true ∧ n = o.num.toNat := by
  unfold outVals at h
  cases hc : o.cl with
  | false => cases uni <;> simp [hc, Pend.empty] at h
  | true =>
    refine ⟨rfl, ?_⟩
    cases uni <;> simp only [hc, Bool.false_eq_true, if_false, if_true, Option.some.injEq, Prod.mk.injEq] at h <;> exact h.1.symm

theorem outVals_preds (uni wide : Bool) (p : Mask) (o : Opd) (val : Nat → Word64) :
    (outVals uni p o wide val).pw = [] ∧ (outVals uni p o wide val).qw = [] := by
  unfold outVals
  cases uni <;> cases o.cl <;> exact ⟨rfl, rfl⟩

/-! ### Channels that a word does not name -/

theorem setChan_chanAt_ne (s : State) (core n : Nat) (x : Chan) {c : Nat} (h : c ≠ n) (d : Nat) :
    (s.setChan core n x).chanAt d c = s.chanAt d c := by
  unfold State.chanAt State.setChan
  rw [setCore_coreAt_at]
  split
  · next e => subst e; exact tget_tset_ne _ h _ _
  · rfl

theorem srcs_chanAt_other (k : Nat) (uni : Bool) {c : Nat} (d : Nat) : ∀ (os : List (Opd × Bool)) (s : State),
    (∀ o ∈ os.map Prod.fst, o.cl = true → c ≠ o.num.toNat) → (s.srcs k uni os).2.chanAt d c = s.chanAt d c
  | [], _, _ => rfl
  | (o, wide) :: r, s, h => by
    simp only [List.map_cons, List.forall_mem_cons] at h
    obtain ⟨ho, hr⟩ := h
    have hpop : (s.srcPop k uni wide o).chanAt d c = s.chanAt d c := by
      unfold State.srcPop
      split
      · next hcl => exact setChan_chanAt_ne _ _ _ _ (ho (by simp_all)) d
      · rfl
    exact (srcs_chanAt_other k uni d r _ hr).trans hpop

theorem putNow_chanAt_other (s : State) (k : Nat) {p : Pend} {c : Nat} (h : ∀ x, p.ch = some x → c ≠ x.1) (d : Nat) :
    (s.putNow k p).chanAt d c = s.chanAt d c := by
  unfold State.putNow
  cases hp : p.ch with
  | none => rfl
  | some x => exact setChan_chanAt_ne _ _ _ _ (h x hp) d

theorem putLater_chanAt_other (s : State) (k : Nat) {p : Pend} {c : Nat} (h : ∀ x, p.ch = some x → c ≠ x.1) (d : Nat) :
    (s.putLater k p).chanAt d c = s.chanAt d c := by
  unfold State.putLater
  cases hp : p.ch with
  | none => rfl
  | some x => exact setChan_chanAt_ne _ _ _ _ (h x hp) d

theorem putLater_standAt (s : State) (k : Nat) (p : Pend) :
    (s.putLater k p).standAt k = { s.standAt k with pend := (s.standAt k).pend.map p.contest ++ [p] } := by
  unfold State.putLater
  cases p.ch with
  | none => exact setStand_standAt ..
  | some x => exact setStand_standAt ..

/-! ### The stand behind a register instruction -/

/-- What a later write leaves of an outstanding operation: all but which of its writes are contested (R43). -/
def Pend.kept (p : Pend) : Option Nat × PendOn × List (Nat × Word32) × List (Nat × Word64) × List (Nat × Mask × Mask) × List (Nat × Bool)
    × Option (Nat × List ChanEntry) := (p.flag, p.on, p.vw, p.sw, p.pw, p.qw, p.ch)

theorem kept_contested (p : Pend) (l r : List Pend) : ((l.map p.contest ++ r).take l.length).map Pend.kept = l.map Pend.kept := by
  rw [List.take_left' (by simp), List.map_map]
  rfl

/-- A stand in which, against another, only the registers that a result names, flags and outstanding operations differ. -/
def OnlyResults (a x : Stand) (p : Pend) : Prop :=
  ∃ v sr fl pd, x = { a with v := v, sr := sr, flags := fl, pend := pd }
    ∧ (∀ key, key ∉ p.vw.map Prod.fst → tget 0 v key = tget 0 a.v key) ∧ (∀ key, key ∉ p.sw.map Prod.fst → tget 0 sr key = tget 0 a.sr key)
    ∧ (pd.take a.pend.length).map Pend.kept = a.pend.map Pend.kept

theorem onlyResults_putNow (s : State) (k : Nat) {p : Pend} (hp : p.pw = []) (hq : p.qw = []) :
    OnlyResults (s.standAt k) ((s.putNow k p).standAt k) p := by
  refine ⟨tputs p.vw (s.standAt k).v, tputs p.sw (s.standAt k).sr, (s.standAt k).flags, (s.standAt k).pend.map p.contest, ?_, fun _ => tget_tputs_other 0 _,
    fun _ => tget_tputs_other 0 _, by simpa using kept_contested p (s.standAt k).pend []⟩
  rw [putNow_standAt]
  simp only [Stand.put, hp, hq, List.foldl_nil]

theorem onlyResults_putLater (s : State) (k : Nat) (p : Pend) : OnlyResults (s.standAt k) ((s.putLater k p).standAt k) p :=
  ⟨(s.standAt k).v, (s.standAt k).sr, _, _, putLater_standAt s k p, fun _ _ => rfl, fun _ _ => rfl, kept_contested p _ _⟩

theorem flagUp_eq (st : Stand) (n : Nat) : ∃ fl, st.flagUp n = { st with flags := fl } := by
  unfold Stand.flagUp
  split
  · exact ⟨_, rfl⟩
  · exact ⟨_, rfl⟩

theorem OnlyResults.of_flags {a x : Stand} {p p' : Pend} {fl : Tbl Nat} (h : OnlyResults { a with flags := fl } x p)
    (hv : p'.vw = p.vw) (hs : p'.sw = p.sw) : OnlyResults a x p' := by
  obtain ⟨v, sr, fl', pd, e, hvs, hsr, hpd⟩ := h
  exact ⟨v, sr, fl', pd, e, by rw [hv]; exact hvs, by rw [hs]; exact hsr, hpd⟩

/-- The machine that holds the results of a word at once, before the word goes on: only registers and outstanding operations of the stand
and the channel that the result names differ. -/
def Placed (s w : State) (p : Pend) : Prop :=
  LocalFrame s w ∧ OnlyResults s.me (w.standAt s.cur) p
    ∧ ∀ c, (∀ x, p.ch = some x → c ≠ x.1) → w.chanAt s.myCoreKey c = s.chanAt s.myCoreKey c

theorem placed_putNow (s : State) {p : Pend} (hp : p.pw = []) (hq : p.qw = []) : Placed s (s.putNow s.cur p) p :=
  ⟨localFrame_putNow s p, onlyResults_putNow s s.cur hp hq, fun _ h => putNow_chanAt_other s _ h _⟩

theorem placed_putLater (s : State) (p : Pend) : Placed s (s.putLater s.cur p) p :=
  ⟨localFrame_putLater s p, onlyResults_putLater s s.cur p, fun _ h => putLater_chanAt_other s _ h _⟩

/-- The machine that a long-latency word goes on in, but for its passing: its results placed, at once or later (R41). -/
theorem start_placed (s : State) (i : Instr) (f : Form) (pre : Stand) {p : Pend} (hp : p.pw = []) (hq : p.qw = []) :
    ∃ w, s.start s.cur i f pre p = w.retire s.cur i f pre ∧ Placed s w p := by
  unfold State.start
  split
  · refine ⟨_, rfl, ?_⟩
    split_ifs
    · exact placed_putLater s { p with flag := none }
    · exact placed_putNow s hp hq
  · refine ⟨_, rfl, ?_⟩
    obtain ⟨fl, hfl⟩ := flagUp_eq (s.standAt s.cur) ((s.standAt s.cur).flagOf f.h.sch)
    rw [hfl]
    obtain ⟨hframe, hres, hch⟩ := placed_putLater (s.setStand s.cur { s.standAt s.cur with flags := fl })
      { p with flag := if (s.standAt s.cur).flagOf f.h.sch < 12 then some ((s.standAt s.cur).flagOf f.h.sch) else none }
    rw [setMe_me] at hres
    exact ⟨(localFrame_setStand s _).trans hframe, hres.of_flags rfl rfl, hch⟩

/-- Where results are placed and the word has passed, the frame of the obligation holds. -/
theorem placed_retire {s w t : State} {i : Instr} {f : Form} {p : Pend} (hc : f.control = false) (hw : Placed s w p)
    (ht : t = w.retire s.cur i f s.me) : LocalFrame s t ∧ SameStand s.me t.me ∧ t.me.p = s.me.p ∧ t.me.q = s.me.q ∧ OnlyResults s.me (w.standAt s.cur) p
      ∧ t.me.v = (w.standAt s.cur).v ∧ t.me.sr = (w.standAt s.cur).sr ∧ t.me.flags = (w.standAt s.cur).flags
      ∧ t.me.pend = (w.standAt s.cur).pend
      ∧ ∀ c, (∀ x, p.ch = some x → c ≠ x.1) → t.chanAt s.myCoreKey c = s.chanAt s.myCoreKey c := by
  obtain ⟨hframe, hres, hch⟩ := hw
  have hcur : w.cur = s.cur := hframe.cur_eq
  have hlocal : LocalFrame s t := by
    have h := localFrame_retire w i f s.me
    rw [hcur, ← ht] at h
    exact hframe.trans h
  have hme : t.me = t.standAt s.cur := by rw [me_eq, hlocal.cur_eq]
  obtain ⟨place, clpos, e⟩ := retire_stand w s.cur i f s.me hc
  rw [← ht, ← hme] at e
  have hx := hres
  obtain ⟨v, sr, fl, pd, ex, -⟩ := hx
  refine ⟨hlocal, ?_, ?_, ?_, hres, by rw [e], by rw [e], by rw [e], by rw [e], fun c h => by rw [ht, retire_chanAt, hch c h]⟩
  · rw [e, ex]; simp [SameStand]
  · rw [e, ex]
  · rw [e, ex]

theorem putNow_stale (s : State) (k : Nat) (p : Pend) : (s.putNow k p).stale = s.stale := by
  unfold State.putNow
  cases p.ch with
  | none => rfl
  | some x => rfl

/-- A long-latency word of known form whose effect leaves the stale window starts as its form says. -/
theorem started_eq {i : Instr} {s u : State} {f : Form} {b : State → Eff} {p : Pend} (hw : wordOf i s = some (f, b))
    (hs : u.stale = s.stale) : started s u i p = u.start s.cur i f s.me p := by
  simp only [started, hw, ← hs, ownWindow_self]

/-- Settles O19: the results of a register instruction name only its destination, and nothing else of the word writes. -/
theorem registerInstructionFrame : Obligations.RegisterInstructionFrame := by
  unfold Obligations.RegisterInstructionFrame
  intro i s o h ho hh ha
  obtain ⟨f, b, os, hw, rfl, hc, hos, val, hb⟩ := writesOne_regOp ho hh ha
  obtain ⟨p, hp⟩ : ∃ p, p = outVals f.h.uni (s.me.part f.h) o.dst (tyBits o.ty == 64) val := ⟨_, rfl⟩
  obtain ⟨u, hu⟩ : ∃ u, u = (s.srcs s.cur f.h.uni os).2 := ⟨_, rfl⟩
  have hchans := srcs_onlyChans s.cur f.h.uni os s
  rw [← hu] at hchans
  have hpreds : p.pw = [] ∧ p.qw = [] := by rw [hp]; exact outVals_preds ..
  have hframe : LocalFrame s u := hchans.localFrame
  have hpop : ∀ c, (∀ x ∈ o.srcs, x.1.cl = true → c ≠ x.1.num.toNat) → u.chanAt s.myCoreKey c = s.chanAt s.myCoreKey c := by
    intro c hsrc
    rw [hu]
    refine srcs_chanAt_other s.cur f.h.uni _ os s fun x hx => ?_
    rw [hos] at hx
    obtain ⟨y, hy, rfl⟩ := List.mem_map.mp hx
    exact hsrc y hy
  have hcur : u.cur = s.cur := hframe.cur_eq
  have hme : u.me = s.me := hchans.me
  have hstale : u.stale = s.stale := hchans.stale
  obtain ⟨w, hexec, hplaced, hfixed⟩ : ∃ w, exec i s = .next (w.retire u.cur i f u.me) ∧ Placed u w p ∧
      (o.long = false → (w.standAt u.cur).flags = u.me.flags ∧ (w.standAt u.cur).pend.length = u.me.pend.length) := by
    rw [← hu, ← hp] at hb
    rw [hme]
    cases hl : o.long with
    | false =>
      rw [hl] at hb
      refine ⟨u.putNow u.cur p, ?_, placed_putNow u hpreds.1 hpreds.2, fun _ => ?_⟩
      · rw [exec_done hw ha hb, done_eq hw ((putNow_stale ..).trans hstale), hcur]
      · rw [putNow_standAt, ← hme]
        exact ⟨rfl, List.length_map ..⟩
    | true =>
      rw [hl] at hb
      obtain ⟨w, hstart, hplaced⟩ := start_placed u i f u.me hpreds.1 hpreds.2
      refine ⟨w, ?_, hplaced, fun h => absurd h (by decide)⟩
      rw [exec_started hw ha hb, started_eq hw hstale, ← hcur, ← hme, hstart]
  obtain ⟨t, ht⟩ : ∃ t, t = w.retire u.cur i f u.me := ⟨_, rfl⟩
  rw [← ht] at hexec
  obtain ⟨hlocal, hstand, hpp, hq, ⟨v, sr, fl, pd, e, hv, hsr, hpd⟩, htv, htsr, htfl, htpd, hch⟩ := placed_retire hc hplaced ht
  rw [hme] at hstand hpp hq
  refine ⟨t, hexec, hframe.trans hlocal, hstand, (hframe.trans hlocal).sameMemory, hpp, hq, fun key hk => ?_, fun key hk => ?_,
    fun c hd hs => ?_, fun hl => ?_, ?_⟩
  · rw [htv, e, ← hme]
    exact hv key fun h => hk (by rw [hp] at h; exact outVals_vw h)
  · rw [htsr, e, ← hme]
    exact hsr key fun h => hk (by rw [hp] at h; exact outVals_sw h)
  · rw [← hpop c hs, ← hframe.coreKey_eq]
    refine hch c fun x hx => ?_
    obtain ⟨n, es⟩ := x
    rw [hp] at hx
    obtain ⟨hcl, hn⟩ := outVals_ch hx
    rw [hn]
    exact hd hcl
  · rw [htfl, htpd, ← hme]
    exact hfixed hl
  · rw [htpd, e, ← hme]
    exact hpd

end Sys2Proof.Machine
end

section
/-! SUPPORT. Control transfers (spec/04 R93, R94, R97-R99, R105): stands that agree, where a control word ends, and branches and calls. -/

namespace Sys2Proof.Machine

/-! ### Stands that agree (R93, R94, R105) -/

theorem agreeOn_refl (x : Stand) : AgreeOn x x := by simp [AgreeOn]

theorem AgreeOn.trans {x y z : Stand} (h : AgreeOn x y) (h' : AgreeOn y z) : AgreeOn x z := by
  simp only [AgreeOn] at *
  simp only [h, h', and_self]

theorem AgreeOn.fixRb {x y : Stand} (h : AgreeOn x y) : AgreeOn x.fixRb y.fixRb := by
  have hif : (x.yc ≠ 0 ∧ x.stack.length < x.rb) ↔ (y.yc ≠ 0 ∧ y.stack.length < y.rb) := by
    simp only [AgreeOn] at h
    simp only [h]
  unfold Stand.fixRb
  by_cases hc : x.yc ≠ 0 ∧ x.stack.length < x.rb
  · rw [if_pos hc, if_pos (hif.mp hc)]
    simp only [AgreeOn] at h ⊢
    simp only [h, and_self]
  · rw [if_neg hc, if_neg (mt hif.mpr hc)]
    exact h

/-- AfterTransfer acts on what stands agree in. -/
theorem AgreeOn.afterTransfer {x y : Stand} (h : AgreeOn x y) : AgreeOn x.afterTransfer y.afterTransfer := by
  have hfields := h
  simp only [AgreeOn] at hfields
  unfold Stand.afterTransfer
  simp only [hfields]
  split
  · exact h
  · split
    · split
      · exact AgreeOn.fixRb (by simp only [AgreeOn, and_self])
      · exact h
    · exact h

theorem AgreeOn.resume {x y : Stand} (h : AgreeOn x y) : AgreeOn x.resume y.resume := by
  have hfields := h
  simp only [AgreeOn] at hfields
  unfold Stand.resume
  simp only [hfields]
  split
  · exact AgreeOn.fixRb (by simp only [Stand.goto, AgreeOn, hfields, and_self])
  · simp only [AgreeOn, and_self]

/-- So does a rotation. -/
theorem AgreeOn.rotate {x y : Stand} (h : AgreeOn x y) : AgreeOn x.rotate y.rotate := by
  have hfields := h
  simp only [AgreeOn] at hfields
  unfold Stand.rotate
  simp only [hfields]
  split
  · exact h
  · split
    · split
      · split
        · exact AgreeOn.resume (by simp only [AgreeOn, and_self])
        · simp only [Stand.goto, AgreeOn, hfields, and_self]
      · exact h
    · exact h

/-- Going on, a stand agrees with one that has the next program counter. -/
theorem agreeOn_advance (st : Stand) (kd : Kind) (n : Nat) : AgreeOn (st.advance kd n) { st with pc := st.pc + BitVec.ofNat 64 n } := by
  obtain ⟨place, clpos, e⟩ := advance_keeps st kd n
  rw [e]
  simp [AgreeOn]

/-! ### Where a word ends, and how it traps -/

/-- A control transfer ends where its effect has put the stand. -/
theorem endsAt_gone {i : Instr} {s u : State} {f : Form} {b : State → Eff} {x : Stand} (hw : wordOf i s = some (f, b)) (ha : Acts s i)
    (hb : b s = .goto u) (hu : LocalFrame s u) (hx : AgreeOn u.me x) : EndsAt i s x := by
  have hlocal := hu.gone i
  refine ⟨_, exec_gone hw ha hb, AgreeOn.trans ?_ hx, hlocal, hlocal.sameMemory⟩
  rw [me_eq, hlocal.cur_eq, me_eq, hu.cur_eq]
  simp only [gone, hw, State.retireGoto, issued_standAt]
  simp [AgreeOn]

/-- A word of class 0x0 whose effect is done ends behind itself. -/
theorem endsAt_done {i : Instr} {s u : State} {f : Form} {b : State → Eff} (hw : wordOf i s = some (f, b)) (ha : Acts s i)
    (hb : b s = .done u) (hu : LocalFrame s u) (hc : f.control = true) : EndsAt i s (u.me.pass (wordBytes i)) := by
  have hlocal := hu.done i
  refine ⟨_, exec_done hw ha hb, ?_, hlocal, hlocal.sameMemory⟩
  rw [me_eq, hlocal.cur_eq, me_eq, hu.cur_eq]
  simp only [done, hw, retire_standAt, behindWord, hc, if_true, Stand.pass]
  exact (agreeOn_advance (u.standAt s.cur) _ (wordBytes i)).afterTransfer

theorem traps_of_trap {i : Instr} {s : State} {f : Form} {b : State → Eff} {r : TrapReq} {cls cause : Nat} (hw : wordOf i s = some (f, b))
    (ha : Acts s i) (hb : b s = .trap r) (hcls : r.cls = BitVec.ofNat 8 cls) (hcause : r.cause = BitVec.ofNat 8 cause) :
    Traps i s cls cause :=
  ⟨s.faultRec s.cur r s.me.pc false, hcls, hcause, rfl, rfl, exec_trapped hw ha hb⟩

/-! ### Branches and calls (R97-R99, R105) -/

/-- What a branch or call to groups of threads comes to (R98, R99). -/
def Transfers (i : Instr) (s : State) (h : Head) (gs : List (Word64 × Mask)) (call : Bool) : Prop :=
  let next := s.me.pc + BitVec.ofNat 64 (wordBytes i)
  let base : List Entry := if call then ⟨.call, some next, s.me.a &&& ~~~(s.me.part h)⟩ :: s.me.stack else s.me.stack
  let rest : Mask := if call then 0 else s.me.a &&& ~~~(s.me.part h)
  (gs = [] → EndsAt i s (s.me.pass (wordBytes i))) ∧
  ∀ g r, gs = g :: r →
    ((∃ x ∈ gs, x.1.extractLsb' 0 2 ≠ 0) → Traps i s 0 0x0D) ∧
    ((∀ x ∈ gs, x.1.extractLsb' 0 2 = 0) →
      let stack := r.reverse.foldl (fun k x => pushPend x.1 x.2 k) (pushPend next rest base)
      (32 < stack.length → Traps i s 1 1) ∧
      (stack.length ≤ 32 →
        let x := ({ s.me with pc := g.1, a := g.2, stack := stack }).afterTransfer
        EndsAt i s (if call = false ∧ g.1.toNat ≤ s.me.pc.toNat then x.rotate else x)))

theorem agreeOn_goto (st : Stand) (pc : Word64) (a : Mask) (stack : List Entry) :
    AgreeOn { st.goto pc with a := a, stack := stack } { st with pc := pc, a := a, stack := stack } := by
  simp [AgreeOn, Stand.goto]

/-- The branch over groups does that, whatever sources it has read before. -/
theorem branchGroups_transfers {i : Instr} {s u : State} {f : Form} {b : State → Eff} {gs : List (Word64 × Mask)} {call : Bool}
    (hw : wordOf i s = some (f, b)) (ha : Acts s i) (hc : f.control = true) (hu : LocalFrame s u) (hme : u.me = s.me)
    (hb : b s = branchGroups u i f.h (if call then 0 else s.me.a &&& ~~~(s.me.part f.h))
      (if call then ⟨.call, some (s.me.nextPc i), s.me.a &&& ~~~(s.me.part f.h)⟩ :: s.me.stack else s.me.stack) gs !call) :
    Transfers i s f.h gs call := by
  unfold Transfers
  refine ⟨fun hgs => ?_, ?_⟩
  · rw [hgs] at hb
    rw [← hme]
    exact endsAt_done hw ha hb hu hc
  · rintro g r rfl
    simp only [branchGroups, hme] at hb
    refine ⟨fun hbad => ?_, fun hgood => ⟨fun hfull => ?_, fun hroom => ?_⟩⟩
    · rw [if_pos (by simpa using hbad)] at hb
      exact traps_of_trap hw ha hb rfl rfl
    · rw [if_neg (by simpa using hgood), if_pos (by exact hfull)] at hb
      exact traps_of_trap hw ha hb rfl rfl
    · rw [if_neg (by simpa using hgood), if_neg (by exact Nat.not_lt.mpr hroom)] at hb
      refine endsAt_gone hw ha hb (hu.trans (localFrame_setStand u _)) ?_
      rw [setMe_eq, me_eq, setStand_cur, setStand_standAt]
      by_cases hback : call = false ∧ g.1.toNat ≤ s.me.pc.toNat
      · rw [if_pos (by simpa using hback), if_pos hback]
        exact (agreeOn_goto ..).afterTransfer.rotate
      · rw [if_neg (by simpa using hback), if_neg hback]
        exact (agreeOn_goto ..).afterTransfer

/-- A branch or call to one target. -/
theorem branchOne_transfers {i : Instr} {s : State} {f : Form} {b : State → Eff} {tgt : Word64} (hw : wordOf i s = some (f, b)) (ha : Acts s i)
    (hc : f.control = true) (hb : b s = branchOne s i f.h tgt) :
    Transfers i s f.h (if s.me.part f.h = 0 then [] else [(tgt, s.me.part f.h)]) false :=
  branchGroups_transfers hw ha hc (localFrame_refl s) rfl hb

theorem callOne_transfers {i : Instr} {s : State} {f : Form} {b : State → Eff} {tgt : Word64} (hw : wordOf i s = some (f, b)) (ha : Acts s i)
    (hc : f.control = true) (hb : b s = callOne s i f.h tgt) :
    Transfers i s f.h (if s.me.part f.h = 0 then [] else [(tgt, s.me.part f.h)]) true :=
  branchGroups_transfers hw ha hc (localFrame_refl s) rfl hb

/-- The groups of a branch or call to the targets of a register. -/
def targetGroups (s : State) (f : A64) : List (Word64 × Mask) :=
  groupsOf (s.me.part f.h) (((s.srcs s.cur f.h.uni [(f.sa, true)]).1[0]?).getD (fun _ => 0))

/-- A branch or call to the targets of a register (R97, R128). -/
theorem branchIndexed_transfers {i : Instr} {s : State} {f : A64} {m : Form} {b : State → Eff} {call : Bool} (hw : wordOf i s = some (m, b))
    (ha : Acts s i) (hc : m.control = true) (hh : m.h = f.h) (hb : b s = branchIndexed s i f call) :
    ((∃ x ∈ targetGroups s f, x.1.extractLsb' 0 2 ≠ 0) → Traps i s 0 0x0D) ∧
    ((∀ x ∈ targetGroups s f, x.1.extractLsb' 0 2 = 0) →
      (carried (s.srcs s.cur f.h.uni [(f.sa, true)]).2 (targetGroups s f) = none → Traps i s 1 7) ∧
      ∀ gs, carried (s.srcs s.cur f.h.uni [(f.sa, true)]).2 (targetGroups s f) = some gs → Transfers i s f.h (regroup gs) call) := by
  simp only [branchIndexed] at hb
  refine ⟨fun hbad => ?_, fun hgood => ⟨fun hnone => ?_, fun gs hgs => ?_⟩⟩
  · rw [if_pos (by simpa [targetGroups] using hbad)] at hb
    exact traps_of_trap hw ha hb rfl rfl
  · rw [if_neg (by simpa [targetGroups] using hgood)] at hb
    simp only [targetGroups] at hnone
    rw [hnone] at hb
    exact traps_of_trap hw ha hb rfl rfl
  · rw [if_neg (by simpa [targetGroups] using hgood)] at hb
    simp only [targetGroups] at hgs
    rw [hgs] at hb
    rw [← hh] at hb ⊢
    refine branchGroups_transfers hw ha hc (localFrame_srcs s m.h.uni [(f.sa, true)]) (srcs_onlyChans s.cur m.h.uni _ s).me ?_
    cases call with
    | false => exact hb
    | true => exact hb

/-- Settles O20: each form is a branch over groups, of one target or of those of a register. -/
theorem branchesAndCallsTransferControl : Obligations.BranchesAndCallsTransferControl := by
  unfold Obligations.BranchesAndCallsTransferControl
  intro i s ha n next goes one dests indexed
  refine ⟨?_, ?_, ?_, ?_, ?_, ?_⟩ <;> rintro f rfl
  · exact branchOne_transfers rfl ha rfl rfl
  · exact branchOne_transfers rfl ha rfl rfl
  · exact callOne_transfers rfl ha rfl rfl
  · exact callOne_transfers rfl ha rfl rfl
  · exact branchIndexed_transfers rfl ha rfl rfl rfl
  · exact branchIndexed_transfers rfl ha rfl rfl rfl

end Sys2Proof.Machine
end

section
/-! SUPPORT. yield, sleep and the words that are no instructions (spec/02 R38, R39; spec/04 R105-R107; spec/05 R130, R131). -/

namespace Sys2Proof.Machine

/-! ### `yield` and `sleep` (R105-R107) -/

/-- A yield with threads that take part ends in a rotation behind the word (R106). -/
theorem yield_endsAt {i : Instr} {s : State} {f : Form} {b : State → Eff} (hw : wordOf i s = some (f, b)) (ha : Acts s i)
    (hb : b s = yieldBody i f.h s) (hp : s.me.part f.h ≠ 0) : EndsAt i s (s.me.pass (wordBytes i)).rotate := by
  simp only [yieldBody, if_neg hp] at hb
  refine endsAt_gone hw ha hb (localFrame_setStand s _) ?_
  rw [setMe_eq, me_eq, setStand_cur, setStand_standAt]
  exact (agreeOn_advance s.me _ _).afterTransfer.rotate

/-- A control transfer that gives up the slot is remembered by its core (R44, R106). -/
theorem gone_lastYield {i : Instr} {s u : State} {f : Form} {b : State → Eff} (hw : wordOf i s = some (f, b)) (hu : LocalFrame s u)
    (hy : f.yields = true) : ((gone s u i).coreAt s.myCoreKey).lastYield = some s.cur := by
  simp only [gone, hw, State.retireGoto, State.myCoreKey, ← hu.coreOf_eq, issued_coreAt, hy, Bool.or_true, if_true]

/-! ### Clause headers, mark words and graft points (R38, R39, R130, R131) -/

/-- The executing stand's copse gathers its stands, in time, or drains: the condition of a hold at a graft point (R130, R131). -/
def State.graftHolds (s : State) : Prop :=
  let c := s.copseAt (copseOf s.cur)
  s.me.gate = true ∧ ((c.move.state = .gather ∧ c.move.lapse < 65536) ∨ c.drain.isSome = true)

theorem holdsHere_iff (s : State) : s.holdsHere s.cur = true ↔ s.graftHolds := by
  have hlapse : decide ((s.copseAt (copseOf s.cur)).move.lapse < lapseLimit) = true ↔ (s.copseAt (copseOf s.cur)).move.lapse < 65536 :=
    decide_eq_true_iff
  unfold State.holdsHere State.graftHolds Copse.gathers Copse.inTime
  cases hg : s.me.gate <;> cases hd : (s.copseAt (copseOf s.cur)).drain.isSome <;>
    by_cases hm : (s.copseAt (copseOf s.cur)).move.state = .gather <;> simp [← me_eq, hg, hd, hm, hlapse]

/-- The sample of GAVG at a graft point touches the stand's mark of it alone, and counts of its copse (R407). -/
theorem graftSample_keeps (s : State) : (s.graftSample s.cur).cur = s.cur ∧ SameMemory s (s.graftSample s.cur)
    ∧ (∃ w, (s.graftSample s.cur).standAt s.cur = { s.me with waited := w })
    ∧ (s.graftSample s.cur).holdsHere s.cur = s.holdsHere s.cur := by
  unfold State.graftSample
  split
  · exact ⟨rfl, sameMemory_refl s, ⟨s.me.waited, rfl⟩, rfl⟩
  · refine ⟨rfl, sameMemory_of_parts (fun _ => rfl) rfl rfl rfl, ⟨true, setStand_standAt ..⟩, ?_⟩
    simp [State.holdsHere, Copse.gathers, Copse.inTime]

/-- What a header or mark word with its flags at zero comes to: it holds at a graft point whose stands gather, and otherwise goes on. -/
theorem atPoint_spec (s : State) (graft : Bool) (go : Stand → Stand) : let t := s.atPoint s.cur graft go
    SameMemory s t ∧ (graft = true → s.graftHolds → t.me.held = true ∧ t.me.pc = s.me.pc)
      ∧ (graft = false ∨ ¬s.graftHolds → ∃ w, t.me = { go { s.me with waited := w } with held := false, waited := false }) := by
  obtain ⟨u, hu, hcur, hmem, ⟨w, hw⟩, hholds⟩ : ∃ u, u = (if graft then s.graftSample s.cur else s) ∧ u.cur = s.cur ∧ SameMemory s u
      ∧ (∃ w, u.standAt s.cur = { s.me with waited := w }) ∧ u.holdsHere s.cur = s.holdsHere s.cur := by
    refine ⟨_, rfl, ?_⟩
    split
    · exact graftSample_keeps s
    · exact ⟨rfl, sameMemory_refl s, ⟨s.me.waited, rfl⟩, rfl⟩
  have hme : ∀ x, (u.setStand s.cur x).me = x := fun x => by rw [me_eq, setStand_cur, hcur, setStand_standAt]
  unfold State.atPoint
  simp only [← hu, hholds, hw, State.stalled, setStand_setStand, setStand_standAt]
  by_cases hgraft : graft = true ∧ s.graftHolds
  · have hh := (holdsHere_iff s).mpr hgraft.2
    rw [if_pos (by simp [hgraft.1, hh])]
    refine ⟨hmem.trans (sameMemory_setStand u _ _), fun _ _ => ?_, fun h => h.elim (fun hf => by simp [hf] at hgraft) (absurd hgraft.2)⟩
    rw [hme]
    exact ⟨rfl, rfl⟩
  · rw [if_neg (by simpa using fun h1 h2 => hgraft ⟨h1, (holdsHere_iff s).mp h2⟩)]
    exact ⟨hmem.trans (sameMemory_setStand u _ _), fun h1 h2 => absurd ⟨h1, h2⟩ hgraft, fun _ => ⟨w, hme _⟩⟩

/-- Flags that are zero hold nothing back. -/
theorem raised_nil {st : Stand} {ns : List Nat} (h : ∀ n ∈ ns, st.flag n = 0) : st.raised ns = [] := by
  unfold Stand.raised
  rw [List.filter_eq_nil_iff]
  simpa using h

/-- A clause header whose place is right and whose flags are zero comes to its point (R38). -/
theorem exec_clauseHeader {s : State} {h : Hdr} (hc : s.me.canIssue = true) (hpc : s.me.pc.toNat % 32 ≤ 24) (hplace : s.me.place ≠ .inClause)
    (hflags : ∀ n, n < 12 → h.wait.getLsbD n = true → s.me.flag n = 0) : exec (.clauseHeader h) s =
      .next (s.atPoint s.cur h.gpt (fun st => { st with pc := st.pc + 8, place := .inClause, clh := some h, clpos := 0 })) := by
  have hraised : s.me.raised ((List.range 12).filter (fun n => h.wait.getLsbD n)) = [] := raised_nil (by simpa using hflags)
  show Host.Outcome.next (s.atHeader s.cur h) = _
  unfold State.atHeader
  simp only [State.me] at hc hpc hplace hraised
  simp only [hc, Bool.not_true, Bool.false_eq_true, if_false, if_neg (show ¬32 < (s.standAt s.cur).pc.toNat % 32 + 8 by omega), hplace,
    List.append_nil, lowest, hraised, ne_eq, not_true_eq_false]

/-- A mark word whose place is right comes to its point with all flags zero (R39). -/
theorem exec_markWord {s : State} (m : Mark) (hc : s.me.canIssue = true) (hpc : s.me.pc.toNat % 32 ≤ 24)
    (hflags : ∀ n, n < 12 → s.me.flag n = 0) : exec (.markWord m) s = .next (s.atPoint s.cur true (fun st => { st with pc := st.pc + 8 })) := by
  have hraised : s.me.raised (List.range 12) = [] := raised_nil (by simpa using hflags)
  show Host.Outcome.next (s.atMark s.cur m) = _
  unfold State.atMark
  simp only [State.me] at hc hpc hraised
  simp only [hc, Bool.not_true, Bool.false_eq_true, if_false, if_neg (show ¬32 < (s.standAt s.cur).pc.toNat % 32 + 8 by omega), hraised,
    ne_eq, not_true_eq_false]

/-- Settles O24: `yield`, `sleep` and `nop` end as control words do, headers and mark words at their graft point. -/
theorem yieldSleepAndMarkers : Obligations.YieldSleepAndMarkers := by
  unfold Obligations.YieldSleepAndMarkers
  intro f fi h m s st c holds
  refine ⟨fun ha => endsAt_done rfl ha rfl (localFrame_refl s) rfl, fun ha => ⟨fun hp => ?_, fun hp => ⟨?_, fun t ht => ?_⟩⟩,
    fun ha => ⟨fun hp => ?_, fun hp h0 => ?_, fun hp h0 => ?_⟩, fun hc hpc hplace hflags => ?_, fun hc hpc hflags => ?_⟩
  · exact endsAt_done rfl ha (if_pos hp) (localFrame_refl s) rfl
  · exact yield_endsAt rfl ha rfl hp
  · have hb : bodyYield f s = .goto _ := if_neg hp
    rw [exec_gone rfl ha hb] at ht
    cases ht
    exact gone_lastYield rfl (localFrame_setStand s _) (bne_iff_ne.mpr hp)
  · exact endsAt_done rfl ha (if_pos hp) (localFrame_refl s) rfl
  · exact yield_endsAt rfl ha ((if_neg hp).trans (if_pos h0)) hp
  · have hend := endsAt_done rfl ha ((if_neg hp).trans (if_neg h0)) (localFrame_setStand s _) rfl
    rw [setMe_me] at hend
    exact hend
  · refine ⟨_, exec_clauseHeader hc hpc hplace hflags, ?_⟩
    obtain ⟨hmem, hhold, hgo⟩ := atPoint_spec s h.gpt (fun st => { st with pc := st.pc + 8, place := .inClause, clh := some h, clpos := 0 })
    refine ⟨hmem, hhold, fun hno => ?_⟩
    obtain ⟨w, e⟩ := hgo hno
    rw [e]
    exact ⟨rfl, rfl, rfl, rfl, rfl, rfl, rfl, rfl, rfl, rfl, rfl⟩
  · refine ⟨_, exec_markWord m hc hpc hflags, ?_⟩
    obtain ⟨hmem, hhold, hgo⟩ := atPoint_spec s true (fun st => { st with pc := st.pc + 8 })
    refine ⟨hmem, hhold rfl, fun hno => ?_⟩
    obtain ⟨w, e⟩ := hgo (.inr hno)
    rw [e]
    exact ⟨rfl, rfl, rfl, rfl, rfl, rfl⟩

end Sys2Proof.Machine
end

section
/-! SUPPORT. What the memory side of an access leaves: writing lines home, releases (spec/13 R299-R301, R314). -/

namespace Sys2Proof.Machine

/-! ### What the memory side of an access leaves -/

/-- Of the machine only L1 lines, path sets, ownership of lines, the directory, frames, port queues and what is noted of orders, old values and
code differ: what writing dirty lines home and noting a release may change. -/
def MemFrame (s t : State) : Prop :=
  (t.script = s.script ∧ t.cur = s.cur ∧ t.free = s.free ∧ t.nextId = s.nextId ∧ t.boot = s.boot ∧ t.power = s.power ∧ t.pfs = s.pfs
    ∧ t.vis = s.vis ∧ t.fields = s.fields ∧ t.copses = s.copses ∧ t.launches = s.launches ∧ t.groves = s.groves ∧ t.groveQ = s.groveQ
    ∧ t.near = s.near ∧ t.retired = s.retired ∧ t.hostMem = s.hostMem ∧ t.net = s.net ∧ t.answers = s.answers ∧ t.peerQ = s.peerQ)
  ∧ (∀ j, ∃ x, t.standAt j = { s.standAt j with paths := x }) ∧ (∀ c, ∃ x, t.coreAt c = { s.coreAt c with l1 := x })
  ∧ ∀ c, ∃ x, t.clusterAt c = { s.clusterAt c with owners := x }

theorem memFrame_refl (s : State) : MemFrame s s := by
  refine ⟨by simp, fun _ => ⟨_, rfl⟩, fun _ => ⟨_, rfl⟩, fun _ => ⟨_, rfl⟩⟩

theorem MemFrame.trans {s t u : State} (h : MemFrame s t) (h' : MemFrame t u) : MemFrame s u := by
  obtain ⟨hf, hst, hco, hcl⟩ := h
  obtain ⟨hf', hst', hco', hcl'⟩ := h'
  refine ⟨by simp only [hf', hf, and_self], fun j => ?_, fun c => ?_, fun c => ?_⟩
  · obtain ⟨x, e⟩ := hst j
    obtain ⟨y, e'⟩ := hst' j
    exact ⟨y, by rw [e', e]⟩
  · obtain ⟨x, e⟩ := hco c
    obtain ⟨y, e'⟩ := hco' c
    exact ⟨y, by rw [e', e]⟩
  · obtain ⟨x, e⟩ := hcl c
    obtain ⟨y, e'⟩ := hcl' c
    exact ⟨y, by rw [e', e]⟩

theorem memFrame_ite {s t u : State} {c : Prop} [Decidable c] (ht : MemFrame s t) (hu : MemFrame s u) : MemFrame s (if c then t else u) := by
  split
  · exact ht
  · exact hu

/-- A fold stays inside the frame when each of its steps does. -/
theorem memFrame_foldl {α : Type} {f : State → α → State} (hf : ∀ s a, MemFrame s (f s a)) : ∀ (l : List α) (s : State), MemFrame s (l.foldl f s)
  | [], s => memFrame_refl s
  | a :: l, s => (hf s a).trans (memFrame_foldl hf l (f s a))

section
variable (s : State)

theorem memFrame_setDir (k : Nat) (d : Dir) : MemFrame s (s.setDir k d) :=
  ⟨by simp, fun _ => ⟨_, rfl⟩, fun _ => ⟨_, rfl⟩, fun _ => ⟨_, rfl⟩⟩
theorem memFrame_order (o : Order) : MemFrame s { s with order := o } :=
  ⟨by simp, fun _ => ⟨_, rfl⟩, fun _ => ⟨_, rfl⟩, fun _ => ⟨_, rfl⟩⟩
theorem memFrame_stale (l : List Stale) : MemFrame s { s with stale := l } :=
  ⟨by simp, fun _ => ⟨_, rfl⟩, fun _ => ⟨_, rfl⟩, fun _ => ⟨_, rfl⟩⟩
theorem memFrame_past (l : List (Nat × Mem)) : MemFrame s { s with past := l } :=
  ⟨by simp, fun _ => ⟨_, rfl⟩, fun _ => ⟨_, rfl⟩, fun _ => ⟨_, rfl⟩⟩
theorem memFrame_posted (l : List (Nat × Nat × List (Nat × Byte))) : MemFrame s { s with posted := l } :=
  ⟨by simp, fun _ => ⟨_, rfl⟩, fun _ => ⟨_, rfl⟩, fun _ => ⟨_, rfl⟩⟩
theorem memFrame_placement (p : Placement) : MemFrame s { s with placement := p } :=
  ⟨by simp, fun _ => ⟨_, rfl⟩, fun _ => ⟨_, rfl⟩, fun _ => ⟨_, rfl⟩⟩

theorem memFrame_setL1 (core line : Nat) (l : L1Line) : MemFrame s (s.setL1 core line l) := by
  refine ⟨by simp [State.setL1], fun _ => ⟨_, rfl⟩, fun c => ?_, fun _ => ⟨_, rfl⟩⟩
  simp only [State.setL1, setCore_coreAt_at]
  split
  · next e => subst e; exact ⟨_, rfl⟩
  · exact ⟨_, rfl⟩
theorem memFrame_disown (core line : Nat) : MemFrame s (s.disown core line) := by
  unfold State.disown
  simp only
  split
  · refine ⟨by simp, fun _ => ⟨_, rfl⟩, fun _ => ⟨_, rfl⟩, fun c => ?_⟩
    simp only [setCluster_clusterAt_at]
    split
    · next e => subst e; exact ⟨_, rfl⟩
    · exact ⟨_, rfl⟩
  · exact memFrame_refl s
theorem memFrame_addPath (stand net line : Nat) : MemFrame s (s.addPath stand net line) := by
  unfold State.addPath
  split
  · exact memFrame_refl s
  · refine ⟨by simp, fun j => ?_, fun _ => ⟨_, rfl⟩, fun _ => ⟨_, rfl⟩⟩
    simp only [setStand_standAt_at]
    split
    · next e => subst e; exact ⟨_, rfl⟩
    · exact ⟨_, rfl⟩
theorem memFrame_noteStale (stands : List Nat) (ws : List (Nat × Word32)) : MemFrame s (s.noteStale stands ws) := memFrame_stale s _
theorem memFrame_noteHome (line : Nat) (old new : Mem) : MemFrame s (s.noteHome line old new) :=
  memFrame_foldl (fun s _ => memFrame_noteStale s _ _) _ s
theorem memFrame_homePut (vi line : Nat) (bytes : List (Nat × Byte)) : MemFrame s (s.homePut vi line bytes) := by
  unfold State.homePut
  simp only
  split_ifs
  · exact memFrame_refl s
  · exact memFrame_posted s _
  · exact (memFrame_setDir s _ _).trans (memFrame_noteHome _ _ _ _)
  · exact ((memFrame_setDir s _ _).trans (memFrame_noteHome _ _ _ _)).trans (memFrame_past _ _)
theorem memFrame_request (line field : Nat) (stream : Bool) : MemFrame s (s.request line field stream) := by
  unfold State.request
  simp only
  split
  · exact (memFrame_setDir s _ _).trans (memFrame_placement _ _)
  · exact memFrame_refl s
theorem memFrame_learnBy (copse : Nat) (ls : List Nat) : MemFrame s (s.learnBy copse ls) := by
  unfold State.learnBy
  split
  · exact memFrame_refl s
  · exact memFrame_order s _
theorem memFrame_unmark (core : Nat) (p : Nat → Bool) : MemFrame s (s.unmark core p) := by
  unfold State.unmark
  split
  · exact memFrame_refl s
  · exact memFrame_order s _
theorem memFrame_setRefresh (core : Nat) (ls : List Nat) : MemFrame s (s.setRefresh core ls) := by
  unfold State.setRefresh
  split
  · exact memFrame_refl s
  · exact memFrame_order s _
theorem memFrame_carryHome (core : Nat) (addrs : List Nat) : MemFrame s (s.carryHome core addrs) := memFrame_order s _
theorem memFrame_afterAtomics (core line : Nat) : MemFrame s (s.afterAtomics core line) := by
  unfold State.afterAtomics
  split
  · exact (memFrame_unmark s _ _).trans (memFrame_foldl (fun s c => memFrame_setRefresh s c _) _ _)
  · exact memFrame_refl s

/-- Writing a line back changes only that. -/
theorem memFrame_writeBackL1 (core line : Nat) : MemFrame s (s.writeBackL1 core line) := by
  unfold State.writeBackL1
  split
  · exact memFrame_refl s
  · simp only
    split
    · exact memFrame_refl s
    · next l _ _ =>
      refine (memFrame_homePut s (s.viOf (l.writers.headD 0)) line (maskedBytes l.dirty l.bytes)).trans ?_
      refine (memFrame_request _ line (fieldOfCore core) l.low).trans ?_
      refine (memFrame_foldl (fun s w => memFrame_addPath s w netBulk line) l.writers _).trans ?_
      refine (memFrame_carryHome _ core ((lanes l.dirty).map (fun o => 128 * line + o))).trans ((memFrame_afterAtomics _ core line).trans ?_)
      exact (memFrame_foldl (fun s c => memFrame_learnBy s c [line]) _ _).trans ((memFrame_setL1 _ _ _ _).trans (memFrame_disown _ _ _))
theorem memFrame_recall (core line : Nat) : MemFrame s (s.recall core line) := by
  refine memFrame_foldl (fun s c => ?_) _ s
  split
  · exact memFrame_refl s
  · split
    · exact memFrame_writeBackL1 s _ _
    · exact memFrame_refl s
/-- So does writing back all of an L1 (R300). -/
theorem memFrame_flushL1 (core : Nat) : MemFrame s (s.flushL1 core) :=
  (memFrame_foldl (fun s line => memFrame_writeBackL1 s core line) _ s).trans (memFrame_foldl (fun s line => memFrame_recall s core line) _ _)
theorem memFrame_signed (k : Nat) (m : Byte) (fence : Bool) : MemFrame s (s.signed k m fence) :=
  memFrame_ite (memFrame_refl s) (memFrame_order s _)
theorem memFrame_handOver (kind name k : Nat) (m : Byte) : MemFrame s (s.handOver kind name k m) := by
  unfold State.handOver
  split
  · exact memFrame_refl s
  · exact memFrame_order s _
end

end Sys2Proof.Machine
end

section
/-! SUPPORT. The grove instructions (spec/16 R383-R392). -/

namespace Sys2Proof.Machine

/-! ### Words that wait, and words that leave results outstanding -/

/-- Two stands agree in the program counter and its clause, the registers, the flags and what is outstanding. -/
def SameRegs (a b : Stand) : Prop :=
  b.pc = a.pc ∧ b.clh = a.clh ∧ b.v = a.v ∧ b.sr = a.sr ∧ b.p = a.p ∧ b.q = a.q ∧ b.flags = a.flags ∧ b.pend = a.pend

theorem sameRegs_refl (a : Stand) : SameRegs a a := by simp [SameRegs]

/-- A condition on the fields of a word that acts does not hold (R54). -/
theorem acts_not_bad {i : Instr} {s : State} {f : Form} {b : State → Eff} (hw : wordOf i s = some (f, b)) (ha : Acts s i) {c : Nat} {x : Bool}
    (hm : (c, x) ∈ f.bad) : x = false := by
  have hi := acts_issues ha
  simp only [Issues, hw] at hi
  obtain ⟨-, hill, -⟩ := hi
  cases x with
  | false => rfl
  | true => exact absurd (mem_illCauses (s := s) (k := s.cur) (i := i).mpr (.inl hm)) (by rw [hill]; exact List.not_mem_nil)

/-- A word that is not done issues again. -/
theorem exec_stayed {i : Instr} {s u : State} {f : Form} {b : State → Eff} (hw : wordOf i s = some (f, b)) (ha : Acts s i)
    (hb : b s = .stay u) : exec i s = .next (u.stalled s.cur (u.stayReason s.cur i)) := by rw [effect_acts hw ha, hb]

theorem waitsWith_stayed {i : Instr} {s u : State} {f : Form} {b : State → Eff} (hw : wordOf i s = some (f, b)) (ha : Acts s i)
    (hb : b s = .stay u) (hcur : u.cur = s.cur) (hr : SameRegs s.me u.me) :
    WaitsWith i s (u.stalled s.cur (u.stayReason s.cur i)) := by
  have hme : (u.stalled s.cur (u.stayReason s.cur i)).me = { u.me with stall := u.stayReason s.cur i } := by
    rw [State.stalled, me_eq, setStand_cur, hcur, setStand_standAt, me_eq, hcur]
  obtain ⟨hpc, -, hv, hsr, hp, hq, -, hpd⟩ := hr
  refine ⟨exec_stayed hw ha hb, ?_⟩
  rw [hme]
  exact ⟨hpc, hv, hsr, hp, hq, hpd⟩

theorem flag_flagUp (st : Stand) (n m : Nat) : (st.flagUp n).flag m = st.flag m + (if m = n ∧ m < 12 then 1 else 0) := by
  unfold Stand.flagUp
  split
  · next h =>
    unfold Stand.flag Stand.setFlag
    rw [tget_tset]
    by_cases e : m = n
    · rw [if_pos e, if_pos ⟨e, e ▸ h⟩, e]
    · rw [if_neg e, if_neg (fun hm : m = n ∧ m < 12 => e hm.1)]
      rfl
  · next h =>
    rw [if_neg (fun hm : m = n ∧ m < 12 => h (hm.1 ▸ hm.2))]
    rfl

/-- The stand behind a uniform word that leaves results outstanding (R41). -/
theorem start_standAt (s : State) (k : Nat) (i : Instr) {f : Form} (pre : Stand) (p : Pend) (hu : f.h.uni = true) (hc : f.control = false) :
    ∃ place clpos, (s.start k i f pre p).standAt k = { s.standAt k with
      flags := ((s.standAt k).flagUp ((s.standAt k).flagOf f.h.sch)).flags,
      pend := (s.standAt k).pend.map p.contest
        ++ [{ p with flag := if (s.standAt k).flagOf f.h.sch < 12 then some ((s.standAt k).flagOf f.h.sch) else none }],
      place := place, clpos := clpos, pc := (s.standAt k).pc + BitVec.ofNat 64 (wordBytes i), issueWait := 0, ready := 0, stall := 0,
      last := pre.spot, issues := (s.standAt k).issues + 1, rel := none } := by
  obtain ⟨fl, hfl⟩ := flagUp_eq (s.standAt k) ((s.standAt k).flagOf f.h.sch)
  unfold State.start
  rw [if_neg (by simp [hu])]
  simp only [hfl]
  obtain ⟨place, clpos, e⟩ := retire_stand ((s.setStand k { s.standAt k with flags := fl }).putLater k
    { p with flag := if (s.standAt k).flagOf f.h.sch < 12 then some ((s.standAt k).flagOf f.h.sch) else none }) k i f pre hc
  refine ⟨place, clpos, ?_⟩
  rw [e, putLater_standAt, setStand_standAt]
  rfl

/-- A uniform long-latency word leaves its results outstanding (R41). -/
theorem leavesPending_started {i : Instr} {s u : State} {f : Form} {b : State → Eff} {p : Pend} (hw : wordOf i s = some (f, b)) (ha : Acts s i)
    (hh : i.head? = some f.h) (hu : f.h.uni = true) (hc : f.control = false) (hb : b s = .long u p) (hcur : u.cur = s.cur)
    (hr : SameRegs s.me u.me) : LeavesPending i s (started s u i p) p ∧ (started s u i p).me.wait = u.me.wait := by
  obtain ⟨w, hwin⟩ : ∃ w, w = u.ownWindow s.cur s.stale.length := ⟨_, rfl⟩
  have hwcur : w.cur = s.cur := by rw [hwin]; exact hcur
  have hstand : w.standAt s.cur = u.me := by rw [hwin, me_eq, hcur]; rfl
  have ht : started s u i p = w.start s.cur i f s.me p := by simp only [started, hw, hwin]
  have hlocal := localFrame_start w i f s.me p
  rw [hwcur] at hlocal
  obtain ⟨place, clpos, e⟩ := start_standAt w s.cur i s.me p hu hc
  rw [← ht] at hlocal e
  have hme : (started s u i p).me = (started s u i p).standAt s.cur := by rw [me_eq, hlocal.cur_eq, hwcur]
  rw [hstand] at e
  obtain ⟨hpc, hclh, hv, hsr, hp, hq, hfl, hpd⟩ := hr
  have hflagOf : u.me.flagOf f.h.sch = s.me.flagOf f.h.sch := by simp only [Stand.flagOf, hclh]
  have hflag : ∀ m, u.me.flag m = s.me.flag m := fun m => by simp only [Stand.flag, hfl]
  rw [hflagOf, hpc, hpd] at e
  refine ⟨⟨exec_started hw ha hb, ?_⟩, by rw [hme, e]⟩
  rw [hme, e]
  refine ⟨rfl, hv, hsr, hp, hq, f.h, s.me.pend.map p.contest, hh, List.length_map .., rfl, fun m => ?_⟩
  rw [← hflag]
  exact flag_flagUp ..

theorem started_groves {i : Instr} {s u : State} {p : Pend} (hcur : u.cur = s.cur) :
    (started s u i p).groves = u.groves ∧ (started s u i p).groveQ = u.groveQ ∧ SameMemory u (started s u i p) := by
  unfold started
  split
  · next f _ _ =>
    rw [← hcur]
    have hlocal := (localFrame_ownWindow u u.cur s.stale.length).trans (localFrame_start (u.ownWindow u.cur s.stale.length) i f s.me p)
    have hmem := hlocal.sameMemory
    obtain ⟨⟨-, -, -, -, -, -, -, -, -, hgroves, hqueue, -⟩, -⟩ := hlocal
    exact ⟨hgroves, hqueue, hmem⟩
  · exact ⟨rfl, rfl, sameMemory_refl u⟩

/-! ### The grove instructions (R383-R392) -/

/-- Where a word's effect may start from: the machine as it was, but for what a release has written home. -/
def ReadyToSend (s u : State) : Prop :=
  u.cur = s.cur ∧ SameRegs s.me u.me ∧ u.me.g = s.me.g ∧ u.groveQ = s.groveQ ∧ u.groves = s.groves

theorem readyToSend_refl (s : State) : ReadyToSend s s := ⟨rfl, sameRegs_refl _, rfl, rfl, rfl⟩

/-- An event that is sent leaves its instruction outstanding (R383). -/
theorem sendsEvent_sent {i : Instr} {s u : State} {f : Form} {b : State → Eff} {w : W128} {op : GroveOp} {regs : List Nat} {q0 : Bool}
    (hw : wordOf i s = some (f, b)) (ha : Acts s i) (hh : i.head? = some f.h) (hu : f.h.uni = true) (hc : f.control = false)
    (hb : b s = u.sendGrove w op regs q0) (hr : ReadyToSend s u) :
    ∃ t, SendsEvent i s t op (w.imm.toNat % 16) regs q0 ∧ t.me.wait = u.me.wait ∧ (SameMemory s u → SameMemory s t) := by
  obtain ⟨hcur, hregs, hg, hq, hgr⟩ := hr
  obtain ⟨v, hv⟩ : ∃ v, v = { u with groveQ := u.groveQ ++ ([⟨u.cur, op, gReg w, tfind (gReg w) u.me.g⟩] : List GroveEvent) } := ⟨_, rfl⟩
  have hvcur : v.cur = s.cur := by rw [hv]; exact hcur
  have hvme : v.me = u.me := by rw [hv]; rfl
  have hvq : v.groveQ = s.groveQ ++ ([⟨s.cur, op, w.imm.toNat % 16, tfind (w.imm.toNat % 16) s.me.g⟩] : List GroveEvent) := by rw [hv, ← hq, ← hg, ← hcur]; rfl
  have hvgr : v.groves = s.groves := by rw [hv]; exact hgr
  have hvmem : SameMemory u v := by rw [hv]; exact sameMemory_of_parts (fun _ => rfl) rfl rfl rfl
  have hb' : b s = .long v { Pend.empty with on := .grove, sw := regs.map (fun d => (d, 0)), qw := if q0 then [(0, false)] else [] } := by
    rw [hb, hv]; rfl
  obtain ⟨hleaves, hwait⟩ := leavesPending_started hw ha hh hu hc hb' hvcur (by rw [hvme]; exact hregs)
  obtain ⟨htgr, htq, htmem⟩ := started_groves (i := i) (p := { Pend.empty with
    on := .grove, sw := regs.map (fun d => (d, 0)), qw := if q0 then [(0, false)] else [] }) hvcur
  exact ⟨_, ⟨hleaves, htq.trans hvq, htgr.trans hvgr⟩, hwait.trans (by rw [hvme]), fun hmem => hmem.trans (hvmem.trans htmem)⟩

/-- A word that waits without an effect leaves the groves and their events as they are. -/
theorem waits_stayed {i : Instr} {s u : State} {f : Form} {b : State → Eff} (hw : wordOf i s = some (f, b)) (ha : Acts s i)
    (hb : b s = .stay u) (hr : ReadyToSend s u) : ∃ t, WaitsWith i s t ∧ t.groveQ = s.groveQ ∧ t.groves = s.groves := by
  obtain ⟨hcur, hregs, -, hq, hgr⟩ := hr
  exact ⟨_, waitsWith_stayed hw ha hb hcur hregs, hq, hgr⟩

theorem MemFrame.readyToSend {s u : State} (h : MemFrame s u) : ReadyToSend s u := by
  obtain ⟨hfields, hst, -⟩ := h
  have hcur : u.cur = s.cur := by simp only [hfields]
  obtain ⟨x, e⟩ := hst s.cur
  have hme : u.me = { s.me with paths := x } := by rw [me_eq, hcur, e]; rfl
  exact ⟨hcur, by rw [hme]; exact sameRegs_refl _, by rw [hme], by simp only [hfields], by simp only [hfields]⟩

theorem ReadyToSend.trans {s t u : State} (h : ReadyToSend s t) (h' : ReadyToSend t u) : ReadyToSend s u := by
  simp only [ReadyToSend, SameRegs] at *
  simp only [h', h, and_self]

/-- A stand of which only waits and marks of releases change may send. -/
theorem readyToSend_setMe {s : State} {x : Stand} (hr : SameRegs s.me x) (hg : x.g = s.me.g) : ReadyToSend s (s.setStand s.cur x) :=
  ⟨rfl, by rw [setMe_me]; exact hr, by rw [setMe_me]; exact hg, rfl, rfl⟩

theorem readyToSend_releaseNow (s : State) (m : Byte) (forM : Bool) : ReadyToSend s (s.releaseNow s.cur m forM) := by
  obtain ⟨u, hu, hr⟩ : ∃ u, u = (if maskFull m = maskCO then s else s.flushL1 (s.coreOf s.cur)) ∧ ReadyToSend s u := by
    refine ⟨_, rfl, ?_⟩
    split
    · exact readyToSend_refl s
    · exact (memFrame_flushL1 s _).readyToSend
  unfold State.releaseNow
  simp only [← hu]
  have hsend : ∀ wf, ReadyToSend s (u.setStand s.cur ((u.standAt s.cur).sendMarkers wf forM)) := fun wf => by
    rw [← hr.1]
    exact hr.trans (readyToSend_setMe (sameRegs_refl _) rfl)
  split_ifs
  · exact hsend true
  · exact hsend false
  · exact hr

/-- A release leaves what a grove instruction needs, done or not (R300). -/
theorem readyToSend_release (s : State) (m : Byte) : ReadyToSend s (s.release s.cur m).2 := by
  have hnow := readyToSend_releaseNow s m false
  have hcovered : ReadyToSend s ((s.setStand s.cur { s.standAt s.cur with rel := none }).signed s.cur m false) :=
    (readyToSend_setMe (s := s) (x := { s.me with rel := none }) (sameRegs_refl _) rfl).trans (memFrame_signed _ _ _ _).readyToSend
  have hheld : ReadyToSend s s := readyToSend_refl s
  have hdone : ReadyToSend s ((s.releaseNow s.cur m false).signed s.cur m false) := hnow.trans (memFrame_signed _ _ _ _).readyToSend
  have hmarkers : ReadyToSend s ((s.releaseNow s.cur m false).setStand s.cur
      { (s.releaseNow s.cur m false).standAt s.cur with rel := some m, wait := .markers }) := by
    have h := readyToSend_setMe (s := s.releaseNow s.cur m false) (x := { (s.releaseNow s.cur m false).me with rel := some m, wait := .markers })
      (sameRegs_refl _) rfl
    rw [me_eq, hnow.1] at h
    exact hnow.trans h
  unfold State.release
  simp only
  split <;> split_ifs <;> assumption

/-- The results of a stale handle (R379): status 4, behind a zero for a reduction. -/
def staleWords : ArrKind → List Word64
  | .red _ _ => [0, 4]
  | _ => [4]

/-- What an arrival comes to (R373, R379, R388, R389). -/
def Arrives (i : Instr) (f : W128) (s : State) (kind : ArrKind) (x : Word64) (regs : List Nat) : Prop :=
  let n := f.imm.toNat % 16
  (s.handleWaits s.cur n = true → ∃ t, WaitsWith i s t ∧ t.groveQ = s.groveQ ∧ t.groves = s.groves) ∧
  (s.handleWaits s.cur n = false → tfind n s.me.g = none → Traps i s 9 1) ∧
  (s.handleWaits s.cur n = false → ∀ h, tfind n s.me.g = some h →
    (s.handleLive s.cur h = false → ∃ t, t.groveQ = s.groveQ ∧ t.groves = s.groves ∧
      LeavesPending i s t { Pend.empty with sw := regs.zip (staleWords kind) }) ∧
    (s.handleLive s.cur h = true → (s.release s.cur (s.groveAt h.grec).scope).1 = false →
      ∃ t, WaitsWith i s t ∧ t.groveQ = s.groveQ ∧ t.groves = s.groves) ∧
    (s.handleLive s.cur h = true → (s.release s.cur (s.groveAt h.grec).scope).1 = true →
      ∃ t, SendsEvent i s t (.arrive kind x) n regs false ∧ t.me.wait = .groveHeld n))

/-- An arrival writes one register, or two for a reduction. -/
def ArrKind.regs (d : Nat) : ArrKind → List Nat
  | .red _ _ => [d, d + 1]
  | _ => [d]

theorem staleWords_eq (kind : ArrKind) (d : Nat) : ((List.range (kind.regs d).length).zip (kind.regs d)).map (fun e =>
    (e.2, BitVec.ofNat 64 (((groveResult kind 4 0 [] 0)[e.1]?).getD 0))) = (kind.regs d).zip (staleWords kind) := by
  cases kind with
  | bar => rfl
  | vote op => rfl
  | red op ty => rfl

theorem readyToSend_handOver (s : State) (kind name : Nat) (m : Byte) : ReadyToSend s (s.handOver kind name s.cur m) :=
  (memFrame_handOver s kind name s.cur m).readyToSend

section
variable {i : Instr} {s : State} {f : W128} {m : Form} {b : State → Eff}

theorem arrives_sent {kind : ArrKind} {x : Word64} {d : Nat} (hw : wordOf i s = some (m, b)) (ha : Acts s i) (hh : i.head? = some m.h)
    (hu : m.h.uni = true) (hc : m.control = false) (hb : b s = s.sendArrival i f kind x (kind.regs d)) :
    Arrives i f s kind x (kind.regs d) := by
  unfold Arrives
  simp only [State.sendArrival] at hb
  refine ⟨fun hcoming => ?_, fun hcoming hnone => ?_, fun hcoming h hsome => ⟨fun hdead => ?_, fun hlive hno => ?_, fun hlive hyes => ?_⟩⟩
  · rw [gReg, if_pos hcoming] at hb
    exact waits_stayed hw ha hb ⟨rfl, sameRegs_refl _, rfl, rfl, rfl⟩
  all_goals rw [gReg, if_neg (by simp [hcoming])] at hb
  · rw [hnone] at hb
    exact traps_of_trap hw ha hb rfl rfl
  all_goals rw [hsome] at hb
  · simp only [hdead, Bool.not_false, if_true, staleWords_eq] at hb
    obtain ⟨hleaves, -⟩ := leavesPending_started hw ha hh hu hc hb rfl (sameRegs_refl _)
    obtain ⟨hgr, hq, -⟩ := started_groves (i := i) (s := s) (u := s)
      (p := { Pend.empty with sw := (kind.regs d).zip (staleWords kind) }) rfl
    exact ⟨_, hq, hgr, hleaves⟩
  all_goals
    simp only [hlive, Bool.not_true, Bool.false_eq_true, if_false] at hb
    have hr := readyToSend_release s (s.groveAt h.grec).scope
    obtain ⟨u, hrel⟩ : ∃ u, u = (s.release s.cur (s.groveAt h.grec).scope).2 := ⟨_, rfl⟩
    rw [← hrel] at hr
  · rw [show s.release s.cur (s.groveAt h.grec).scope = (false, u) from Prod.ext hno hrel.symm] at hb
    exact waits_stayed hw ha hb hr
  · rw [show s.release s.cur (s.groveAt h.grec).scope = (true, u) from Prod.ext hyes hrel.symm] at hb
    simp only at hb
    obtain ⟨v, hv⟩ : ∃ v, v = u.handOver objGrove h.grec s.cur (u.groveAt h.grec).scope := ⟨_, rfl⟩
    have hrv : ReadyToSend s v := by
      rw [hv, ← hr.1]
      exact hr.trans (readyToSend_handOver ..)
    rw [← hv, setMe_eq] at hb
    obtain ⟨t, hsent, hwait, -⟩ := sendsEvent_sent hw ha hh hu hc hb
      (hrv.trans (readyToSend_setMe (x := { v.me with wait := .groveHeld (gReg f) }) (sameRegs_refl _) rfl))
    exact ⟨t, hsent, by rw [hwait, setMe_me]⟩

/-- An event that a word sends as it stands changes no memory. -/
theorem sends_plain {op : GroveOp} {regs : List Nat} {q0 : Bool} (hw : wordOf i s = some (m, b)) (ha : Acts s i) (hh : i.head? = some m.h)
    (hu : m.h.uni = true) (hc : m.control = false) (hb : b s = s.sendGrove f op regs q0) :
    ∃ t, SendsEvent i s t op (f.imm.toNat % 16) regs q0 ∧ SameMemory s t := by
  obtain ⟨t, hsent, -, hmem⟩ := sendsEvent_sent hw ha hh hu hc hb (readyToSend_refl s)
  exact ⟨t, hsent, hmem (sameMemory_refl s)⟩
end

/-- A grove word is uniform (R383). -/
theorem grove_uni {i : Instr} {s : State} {f : W128} {m : Form} {b : State → Eff} (hw : wordOf i s = some (m, b)) (ha : Acts s i)
    (hm : onlyUni f.h ∈ m.bad) : f.h.uni = true := by
  have h := acts_not_bad hw ha hm
  simpa using h

/-- A grove name has KIND 8 and its tag in place (R369, R370). -/
theorem groveName_fields (ident : BitVec 32) (tag : Nat) :
    (groveName ident tag).toNat / 2 ^ 52 = 8 ∧ (groveName ident tag).toNat / 2 ^ 32 % 2 ^ 16 = tag % 2 ^ 16 := by
  have hi : ident.toNat < 2 ^ 32 := ident.isLt
  have hc : (Config.groveChk ident (BitVec.ofNat 16 tag)).toNat < 2 ^ 4 := (Config.groveChk ident (BitVec.ofNat 16 tag)).isLt
  unfold groveName
  simp only [BitVec.toNat_ofNat]
  omega

theorem bitAt_toNat {w : Nat} (x : BitVec w) (n : Nat) : bitAt x.toNat n = x.getLsbD n := by
  rw [bitAt, BitVec.getLsbD, Nat.testBit_eq_decide_div_mod_eq, Bool.beq_eq_decide_eq]

theorem ofNat_bits {w : Nat} (x : BitVec w) (hi lo : Nat) : BitVec.ofNat (hi + 1 - lo) (bits x.toNat hi lo) = x.extractLsb' lo (hi + 1 - lo) := by
  apply BitVec.eq_of_toNat_eq
  rw [BitVec.toNat_ofNat, BitVec.extractLsb'_toNat, bits, Nat.shiftRight_eq_div_pow, Nat.mod_mod]

/-- Settles O45: each word sends its event at once, or waits, or is answered where its handle is stale. -/
theorem groveInstructionsSendEvents : Obligations.GroveInstructionsSendEvents := by
  unfold Obligations.GroveInstructionsSendEvents
  refine ⟨groveName_fields, fun f s => ?_⟩
  intro n d a coming waits arrives
  refine ⟨fun ha => ?_, fun ha => ?_, fun ha => ?_, fun ha => ?_, fun ha => ?_, fun ha => ?_, fun ha => ?_, fun ha => ?_⟩
  · have hb : bodyGcreate f s = s.sendGrove f (.create f.imm (if f.imm.getLsbD 27 then a else 0)) [d] true := by
      rw [bodyGcreate, bitAt_toNat]
    exact sends_plain rfl ha rfl (grove_uni rfl ha List.mem_cons_self) rfl hb
  · exact sends_plain rfl ha rfl (grove_uni rfl ha List.mem_cons_self) rfl rfl
  · exact sends_plain rfl ha rfl (grove_uni rfl ha List.mem_cons_self) rfl rfl
  · refine ⟨fun hc => ?_, fun hc => ?_⟩
    · have hb : bodyGleave f s = .stay s.bump := if_pos hc
      exact waits_stayed rfl ha hb ⟨rfl, sameRegs_refl _, rfl, rfl, rfl⟩
    · have hb : bodyGleave f s = s.sendGrove f .leave [] false := if_neg (by rw [show s.handleWaits s.cur (gReg f) = false from hc]; decide)
      exact sends_plain rfl ha rfl (grove_uni rfl ha List.mem_cons_self) rfl hb
  · exact arrives_sent (kind := .bar) rfl ha rfl (grove_uni rfl ha List.mem_cons_self) rfl rfl
  · have hb : bodyGvote f s = s.sendArrival (.gvote f) f (.vote (f.md.setWidth 2)) (if s.me.qval f.sa.num.toNat then 1 else 0) [d] := by
      rw [bodyGvote, BitVec.setWidth_eq_extractLsb' (by decide)]
    exact arrives_sent (kind := .vote (f.md.setWidth 2)) rfl ha rfl (grove_uni rfl ha List.mem_cons_self) rfl hb
  · intro ty
    have hty : gredTy f = ty.toNat := by
      rw [BitVec.extractLsb'_toNat, Nat.shiftRight_eq_div_pow]
      rfl
    have hb : bodyGred f s = s.sendArrival (.gred f) f (.red (f.imm.extractLsb' 4 3) ty) ((a.setWidth (tyBits ty.toNat)).setWidth 64) [d, d + 1] := by
      have hop : BitVec.ofNat 3 (gredOp f) = f.imm.extractLsb' 4 3 := ofNat_bits f.imm 6 4
      have hval : BitVec.ofNat 64 (a.toNat % 2 ^ tyBits ty.toNat) = (a.setWidth (tyBits ty.toNat)).setWidth 64 :=
        BitVec.eq_of_toNat_eq (by rw [BitVec.toNat_ofNat, BitVec.toNat_setWidth, BitVec.toNat_setWidth])
      rw [bodyGred, hop, hty, hval, BitVec.ofNat_toNat, BitVec.setWidth_eq]
    exact arrives_sent (kind := .red (f.imm.extractLsb' 4 3) ty) rfl ha rfl (grove_uni rfl ha List.mem_cons_self) rfl hb
  · intro form
    have huni := grove_uni (f := f) rfl ha List.mem_cons_self
    refine ⟨fun h4 => ?_, fun h4 hc => ?_, fun h4 hc hnone => ?_, fun h4 hc h hsome => ⟨fun hdead => ?_, fun hlive h3 hcell => ?_, fun hlive hok => ?_⟩⟩
    · exact sends_plain rfl ha rfl huni rfl (if_pos h4)
    all_goals
      have hb : bodyGquery f s = _ := if_neg h4
    · rw [if_pos (show s.handleWaits s.cur (gReg f) = true from hc)] at hb
      exact waits_stayed rfl ha hb ⟨rfl, sameRegs_refl _, rfl, rfl, rfl⟩
    all_goals rw [if_neg (by rw [show s.handleWaits s.cur (gReg f) = false from hc]; decide)] at hb
    · rw [show tfind (gReg f) s.me.g = none from hnone] at hb
      exact traps_of_trap rfl ha hb rfl rfl
    all_goals
      rw [show tfind (gReg f) s.me.g = some h from hsome] at hb
    · simp only [hdead, Bool.not_false, if_true] at hb
      obtain ⟨hleaves, -⟩ := leavesPending_started rfl ha rfl huni rfl hb rfl (sameRegs_refl _)
      obtain ⟨-, -, hmem⟩ := started_groves (i := .gquery f) (s := s) (u := s) (p := { Pend.empty with sw := [(d, 0)] }) rfl
      exact ⟨_, hleaves, hmem⟩
    · simp only [hlive, Bool.not_true, Bool.false_eq_true, if_false] at hb
      rw [if_pos (by simp [show f.md.toNat = 3 from h3, hcell])] at hb
      exact traps_of_trap rfl ha hb rfl rfl
    · simp only [hlive, Bool.not_true, Bool.false_eq_true, if_false] at hb
      have hcell : ¬ (decide (f.md.toNat = 3) && !(s.groveAt h.grec).cell) = true := by
        rcases hok with h3 | hcell
        · simp [show f.md.toNat ≠ 3 from h3]
        · simp [hcell]
      rw [if_neg hcell, BitVec.ofNat_toNat] at hb
      exact sends_plain rfl ha rfl huni rfl hb

end Sys2Proof.Machine
end

section
/-! SUPPORT. A fence that leaves a dirty line (spec/13 R300, R301, R314): the refutation of O36. -/


namespace Sys2Proof.Machine

/-! ### A release and an acquire in an L1 that lists a line twice -/

/-- A `fence.ar` word with the mask CL: a uniform word whose guard is always true. -/
def clusterFence : A64 := ⟨⟨true, 7, false, .heart 0 0⟩, ⟨2, false, false, false⟩, .zero, .zero, 0, 0⟩

/-- A machine whose core 0 lists line 0 twice: first as clean, then with a dirty byte. Its one stand is about to issue. The statement asks
nothing of the tables of its state, so it speaks of this one too. -/
def twiceListed : State :=
  { State.reset with
    cores := [(0, { Core.init with l1 := [(0, L1Line.init), (0, { L1Line.init with valid := 1, dirty := 1 })] })]
    copses := [(0, { Copse.init with life := .resident, kind := .heart })]
    stands := [(0, { Stand.init with life := .live, place := .inClause })] }

theorem clusterFence_acts : Acts twiceListed (.fenceAr clusterFence) := by
  refine ⟨⟨?canIssue, ?legal, ?unblocked, ?ownChannels, ?room⟩, fun _ => ?guard⟩ <;> rfl

/-- The write-back reads the first entry of the line, which is clean, and the acquire drops that entry alone: the second comes to light. -/
theorem clusterFence_leavesDirty :
    (twiceListed.issueWord (.fenceAr clusterFence) (formFenceAr clusterFence) (bodyFenceAr clusterFence)).l1At 0 0
      = some { L1Line.init with valid := 1, dirty := 1 } := rfl

/-- Refutes O36: the release half of a `fence.ar` writes back the entry of a line that the L1 finds first, and its acquire half removes
the clean entries; where the L1 lists a line twice, clean and then dirty (`twiceListed`), a dirty line stays that the fence did not send
home, against the clause `clean` of a performed release. -/
theorem not_fencesReleaseAndAcquire : ¬ Obligations.FencesReleaseAndAcquire := by
  unfold Obligations.FencesReleaseAndAcquire
  rintro ⟨hfences, -⟩
  obtain ⟨-, har, -⟩ := hfences clusterFence twiceListed
  obtain ⟨-, -, hperformed⟩ := har clusterFence_acts
  have hnotCovered : ¬ ∃ r, twiceListed.me.rel = some r ∧ maskFull 2 &&& ~~~(maskFull r) = 0 := by
    rintro ⟨r, hrel, -⟩
    cases hrel
  obtain ⟨hpasses, -⟩ := hperformed hnotCovered (by
    rintro ((hlogged | ⟨x, hx, -⟩ | ⟨x, hx, -⟩ | ⟨-, hflush⟩) | hfence)
    · cases hlogged
    · cases hx
    · cases hx
    · cases hflush
    · exact hfence rfl)
  obtain ⟨t, ⟨hexec, -⟩, -, -, hclean, -⟩ := hpasses rfl
  obtain rfl : twiceListed.issueWord _ (formFenceAr clusterFence) (bodyFenceAr clusterFence) = t := Host.Outcome.next.inj hexec
  exact absurd (hclean (by decide) 0 _ clusterFence_leavesDirty) (by decide)

end Sys2Proof.Machine
end

section
/-! SUPPORT. A cluster table that lists a cluster twice (spec/03 R79): the refutation of O51. -/

namespace Sys2Proof.Machine

/-- A machine whose table of clusters lists cluster 0 twice: first, and so read, as serving launch 2, then as serving the one stage of
launch 1 that is ready to complete. The statement asks nothing of the tables of its state, so it speaks of this one too. -/
def twiceServing : State :=
  { State.reset with
    launches := [(1, { Launch.init with running := true, stages := [Stage.empty, Stage.empty] })]
    clusters := [(0, { Cluster.init with serves := some (2, 0) }), (0, { Cluster.init with serves := some (1, 0) })] }

/-- The completion frees the cluster that it finds by the second entry, and the first entry goes. -/
theorem twiceServing_frees : ((twiceServing.finishStage 1 0).clusterAt 0).serves = none := rfl

/-- Refutes O51: a completing stage frees the clusters that some entry of the table lists as its own; where the table lists a cluster twice
(`twiceServing`), one that serves another launch loses its stage, against the clause that every other cluster stays as it was. -/
theorem not_launchesRunAndComplete : ¬ Obligations.LaunchesRunAndComplete := by
  unfold Obligations.LaunchesRunAndComplete
  rintro ⟨-, -, -, hcomplete⟩
  obtain ⟨-, hready⟩ := hcomplete 1 0 twiceServing
  obtain ⟨t, hexec, -, -, -, -, -, -, hgoesOn, -⟩ := hready (by
    refine ⟨rfl, by decide, rfl, ?counters, ?ring, ?det, ?earlier, ?copses⟩
    case counters => intro c hc; cases hc
    case ring => intro hlast; cases hlast
    case det => intro hdet; cases hdet
    case earlier => intro h0; exact absurd rfl h0
    case copses => intro e he; cases he)
  obtain rfl : twiceServing.finishStage 1 0 = t := Host.Outcome.next.inj hexec
  obtain ⟨-, -, -, hothers, -⟩ := hgoesOn (by decide)
  have hstays := hothers 0 (by decide)
  have hlost := twiceServing_frees
  rw [hstays] at hlost
  cases hlost

end Sys2Proof.Machine
end

section
/-! SUPPORT. What releases, acquires and the claim of a ticket leave (spec/13 R300, R301; spec/03 R74), and where a word of no class 0x0
leaves its stand. -/

namespace Sys2Proof.Machine

/-! ### Releases and acquires (R300, R301) -/

/-- What a release may change: what writing dirty lines home does, and of a stand its path set, its markers, what it has released and
what it waits for. -/
def ReleaseFrame (s t : State) : Prop :=
  (t.cur = s.cur ∧ t.free = s.free ∧ t.copses = s.copses ∧ t.launches = s.launches) ∧
    ∀ j, ∃ paths markers rel wait, t.standAt j = { s.standAt j with paths := paths, markers := markers, rel := rel, wait := wait }

theorem releaseFrame_refl (s : State) : ReleaseFrame s s := ⟨by simp, fun _ => ⟨_, _, _, _, rfl⟩⟩

theorem ReleaseFrame.trans {s t u : State} (h : ReleaseFrame s t) (h' : ReleaseFrame t u) : ReleaseFrame s u := by
  obtain ⟨hf, hst⟩ := h
  obtain ⟨hf', hst'⟩ := h'
  refine ⟨by simp only [hf', hf, and_self], fun j => ?_⟩
  obtain ⟨_, _, _, _, e⟩ := hst j
  obtain ⟨a, b, c, d, e'⟩ := hst' j
  exact ⟨a, b, c, d, by rw [e', e]⟩

theorem MemFrame.releaseFrame {s t : State} (h : MemFrame s t) : ReleaseFrame s t := by
  obtain ⟨hf, hst, -⟩ := h
  refine ⟨by simp only [hf, and_self], fun j => ?_⟩
  obtain ⟨x, e⟩ := hst j
  exact ⟨x, _, _, _, e⟩

/-- A stand of which only these parts change. -/
theorem releaseFrame_setStand {s : State} {k : Nat} {x : Stand}
    (h : ∃ paths markers rel wait, x = { s.standAt k with paths := paths, markers := markers, rel := rel, wait := wait }) :
    ReleaseFrame s (s.setStand k x) := by
  refine ⟨by simp, fun j => ?_⟩
  rw [setStand_standAt_at]
  split
  · next e => subst e; exact h
  · exact ⟨_, _, _, _, rfl⟩

theorem ReleaseFrame.me {s t : State} (h : ReleaseFrame s t) :
    ∃ paths markers rel wait, t.me = { s.me with paths := paths, markers := markers, rel := rel, wait := wait } := by
  obtain ⟨⟨hcur, -⟩, hst⟩ := h
  rw [me_eq, hcur]
  exact hst s.cur

theorem releaseFrame_releaseNow (s : State) (k : Nat) (m : Byte) (forM : Bool) : ReleaseFrame s (s.releaseNow k m forM) := by
  obtain ⟨u, hu, hr⟩ : ∃ u, u = (if maskFull m = maskCO then s else s.flushL1 (s.coreOf k)) ∧ ReleaseFrame s u :=
    ⟨_, rfl, (memFrame_ite (memFrame_refl s) (memFrame_flushL1 s _)).releaseFrame⟩
  unfold State.releaseNow
  simp only [← hu]
  split_ifs
  · exact hr.trans (releaseFrame_setStand ⟨_, _, _, _, rfl⟩)
  · exact hr.trans (releaseFrame_setStand ⟨_, _, _, _, rfl⟩)
  · exact hr

/-- A release, performed or not, stays in its frame (R300). -/
theorem releaseFrame_release (s : State) (k : Nat) (m : Byte) : ReleaseFrame s (s.release k m).2 := by
  have hsigned : ∀ t, ReleaseFrame s t → ReleaseFrame s (t.signed k m false) := fun t h => h.trans (memFrame_signed t k m false).releaseFrame
  have hnow := releaseFrame_releaseNow s k m false
  have hcovered : ReleaseFrame s ((s.setStand k { s.standAt k with rel := none }).signed k m false) :=
    hsigned _ (releaseFrame_setStand ⟨_, _, _, _, rfl⟩)
  have hheld := releaseFrame_refl s
  have hdone := hsigned _ hnow
  have hmarkers : ReleaseFrame s ((s.releaseNow k m false).setStand k { (s.releaseNow k m false).standAt k with rel := some m, wait := .markers }) :=
    hnow.trans (releaseFrame_setStand ⟨_, _, _, _, rfl⟩)
  unfold State.release
  simp only
  split <;> split_ifs <;> assumption

theorem memFrame_takeOver (s : State) (kind name k : Nat) (m : Byte) : MemFrame s (s.takeOver kind name k m) := memFrame_learnBy s _ _

theorem memFrame_setL1s (s : State) (core : Nat) (l1 : Tbl L1Line) : MemFrame s (s.setCore core { s.coreAt core with l1 := l1 }) := by
  refine ⟨by simp, fun _ => ⟨_, rfl⟩, fun c => ?_, fun _ => ⟨_, rfl⟩⟩
  rw [setCore_coreAt_at]
  split
  · next e => subst e; exact ⟨_, rfl⟩
  · exact ⟨_, rfl⟩

/-- The L1 effect of an acquire changes lines, their owners and what is noted of code and orders (R301). -/
theorem memFrame_invalidateL1 (s : State) (core : Nat) : MemFrame s (s.invalidateL1 core) := by
  have hnoted := memFrame_foldl (fun t (e : Nat × L1Line) => memFrame_noteStale t (t.standsOn core)
    ((changedWords e.1 e.2.bytes (t.lineBytes e.1)).filter (fun w => e.2.valid.getLsbD (w.1 % 128) && !e.2.dirty.getLsbD (w.1 % 128))))
    (s.coreAt core).l1 s
  unfold State.invalidateL1
  simp only
  generalize hu : List.foldl _ s (s.coreAt core).l1 = u
  rw [hu] at hnoted
  have hcore : s.coreAt core = { u.coreAt core with l1 := (s.coreAt core).l1 } := by
    obtain ⟨-, -, hco, -⟩ := hnoted
    obtain ⟨x, e⟩ := hco core
    rw [e]
  refine hnoted.trans (MemFrame.trans ?_ ((memFrame_foldl (fun t l => memFrame_disown t core l) _ _).trans (memFrame_setRefresh _ _ _)))
  rw [hcore]
  exact memFrame_setL1s u core _

theorem memFrame_acquire (s : State) (k : Nat) (m : Byte) : MemFrame s (s.acquire k m) := by
  have hobserved : MemFrame s (s.observeAcq k m false) := memFrame_learnBy s _ _
  exact memFrame_ite hobserved (hobserved.trans (memFrame_invalidateL1 _ _))

/-- Handing over through an object leaves every stand as it is. -/
theorem handOver_standAt (s : State) (kind name k : Nat) (m : Byte) (j : Nat) : (s.handOver kind name k m).standAt j = s.standAt j := by
  unfold State.handOver
  split
  · rfl
  · rfl

/-! ### A word of no class 0x0 whose effect is done -/

/-- The stand behind such a word. -/
theorem done_me {i : Instr} {s u : State} {f : Form} {b : State → Eff} (hw : wordOf i s = some (f, b)) (hc : f.control = false)
    (hcur : u.cur = s.cur) : ∃ place clpos, (done s u i).me = { u.me with
      place := place, clpos := clpos, pc := u.me.pc + BitVec.ofNat 64 (wordBytes i), issueWait := 0, ready := 0, stall := 0,
      last := s.me.spot, issues := u.me.issues + 1, rel := none } := by
  simp only [done, hw, ← hcur]
  obtain ⟨place, clpos, e⟩ := retire_stand (u.ownWindow u.cur s.stale.length) u.cur i f s.me hc
  refine ⟨place, clpos, ?_⟩
  have hsame : ((u.ownWindow u.cur s.stale.length).retire u.cur i f s.me).cur = u.cur := (localFrame_retire (u.ownWindow u.cur _) i f s.me).cur_eq
  rw [me_eq, hsame, e]
  rfl

theorem done_launches (s u : State) (i : Instr) : (done s u i).launches = u.launches := by
  unfold done
  split
  · obtain ⟨-, -, -, -, -, -, -, -, hl, -⟩ := retire_sameWorld (u.ownWindow s.cur s.stale.length) s.cur i _ s.me
    exact hl
  · rfl

end Sys2Proof.Machine
end

section
/-! SUPPORT. Queue items going in (spec/03 R78, R86). -/

namespace Sys2Proof.Machine

/-! ### Stages and their queues (R65, R78) -/

theorem stage_setStage (s : State) {launch n : Nat} (st : Stage) (h : n < (s.launchAt launch).stages.length) :
    (s.setStage launch n st).stage launch n = st := by
  simp [State.stage, State.setStage, Launch.setStage, Launch.stageAt, h]

theorem stage_congr {s t : State} (h : t.launches = s.launches) (launch n : Nat) : t.stage launch n = s.stage launch n := by
  simp only [State.stage, State.launchAt, h]

theorem seg_pushItem_self (st : Stage) (g : Nat) (x : List Byte) : (st.pushItem g x).seg g = st.seg g ++ [x] := tget_tset_self ..

theorem seg_pushItem_ne (st : Stage) {g j : Nat} (x : List Byte) (h : j ≠ g) : (st.pushItem g x).seg j = st.seg j := tget_tset_ne _ h ..

/-- A stage that has had an item pushed to a segment: the item stands last there, and every other segment is as it was. -/
theorem pushed_segs {t : State} {launch n g : Nat} {st : Stage} {x : List Byte} (h : t.stage launch n = st.pushItem g x) :
    (t.stage launch n).seg g = st.seg g ++ [x] ∧ ∀ j, j ≠ g → (t.stage launch n).seg j = st.seg j := by
  rw [h]
  exact ⟨seg_pushItem_self .., fun j hj => seg_pushItem_ne _ _ hj⟩

/-- The item of a thread is read from its registers, which the coins for contested ones and the issue count stand beside (R86). -/
theorem itemOf_congr {s t : State} {k : Nat} (hst : t.standAt k = s.standAt k) (hf : t.free = s.free) (f : A64) (bytes lane : Nat) :
    t.itemOf k f bytes lane = s.itemOf k f bytes lane := by
  have hs : ∀ n, t.rdS k n = s.rdS k n := fun n => by
    simp only [State.rdS, State.coin, hst, hf]
    rfl
  have hv : ∀ n i, t.rdV k n i = s.rdV k n i := fun n i => by
    simp only [State.rdV, State.coin, hst, hf]
    rfl
  simp only [State.itemOf, hs, hv]

/-! ### The word itself (R86) -/

section
variable {f : A64} {s : State}

theorem enq_form (f : A64) (s : State) : wordOf (.enq f) s = some (formEnq f s, bodyEnq f) := rfl

theorem bodyEnq_empty (hp : s.me.part f.h = 0) : bodyEnq f s = .done s := by
  unfold bodyEnq
  simp only [hp, if_true]

/-- The last stage has no output queue. -/
theorem bodyEnq_last (hp : s.me.part f.h ≠ 0) (hlast : (s.launchAt s.myCopse.launch).stages.length ≤ s.myCopse.stage + 1) :
    bodyEnq f s = .trap { trapOf (.enq f) 2 1 with fmask := s.me.fmask f.h } := by
  unfold bodyEnq
  simp only [hp, if_false, hlast, if_true]

/-- A uniform word waits while its segment is full. -/
theorem bodyEnq_full (hp : s.me.part f.h ≠ 0) (hnext : s.myCopse.stage + 1 < (s.launchAt s.myCopse.launch).stages.length) (hu : f.h.uni = true)
    (hfull : (s.stageOf (copseOf s.cur)).segFull ((s.stageOf (copseOf s.cur)).segmentFor (fieldOfCore s.myCopse.core)) = true) :
    bodyEnq f s = .stay s := by
  unfold bodyEnq
  simp only [hp, if_false, Nat.not_le.mpr hnext, hu, hfull, Bool.and_self, if_true]

section
variable {r : State} (hp : s.me.part f.h ≠ 0) (hnext : s.myCopse.stage + 1 < (s.launchAt s.myCopse.launch).stages.length)
  (hrel : s.release s.cur (s.stageOf (copseOf s.cur)).qscope = (true, r))
include hp hnext hrel

/-- With room and its release performed, a uniform word pushes its item. -/
theorem bodyEnq_pushes (hu : f.h.uni = true)
    (hroom : (s.stageOf (copseOf s.cur)).segFull ((s.stageOf (copseOf s.cur)).segmentFor (fieldOfCore s.myCopse.core)) = false) :
    let st := s.stageOf (copseOf s.cur)
    let u := r.handOver objQueue (16 * s.myCopse.launch + s.myCopse.stage) s.cur st.qscope
    bodyEnq f s = .done (u.setStage s.myCopse.launch s.myCopse.stage
      (st.pushItem (st.segmentFor (fieldOfCore s.myCopse.core)) (u.itemOf s.cur f st.itemBytes 0))) := by
  unfold bodyEnq
  simp only [hp, if_false, Nat.not_le.mpr hnext, hu, hroom, Bool.and_false, Bool.false_eq_true, hrel, if_true]

/-- A vector word goes on to push an item for each of its threads. -/
theorem bodyEnq_begins (hv : f.h.uni = false) :
    let u := r.handOver objQueue (16 * s.myCopse.launch + s.myCopse.stage) s.cur (s.stageOf (copseOf s.cur)).qscope
    bodyEnq f s = .stay (u.setStand s.cur { u.standAt s.cur with wait := .enq f (s.me.part f.h) }) := by
  unfold bodyEnq
  simp only [hp, if_false, Nat.not_le.mpr hnext, hv, Bool.false_and, Bool.false_eq_true, hrel]
end

/-- A uniform `enq` with room sends its item (R86). -/
theorem enq_pushes (ha : Acts s (.enq f)) (hp : s.me.part f.h ≠ 0) (hnext : s.myCopse.stage + 1 < (s.launchAt s.myCopse.launch).stages.length)
    (hu : f.h.uni = true) (hrel : (s.release s.cur (s.stageOf (copseOf s.cur)).qscope).1 = true) :
    let st := s.stageOf (copseOf s.cur)
    let g := st.segmentFor (fieldOfCore s.myCopse.core)
    st.segFull g = false → ∃ t, exec (.enq f) s = .next t ∧ t.me.pc = s.me.pc + 8 ∧ t.me.sr = s.me.sr ∧
      t.stage s.myCopse.launch s.myCopse.stage = st.pushItem g ((s.release s.cur st.qscope).2.itemOf s.cur f st.itemBytes 0) := by
  intro st g hroom
  have hr := releaseFrame_release s s.cur st.qscope
  obtain ⟨r, hpair⟩ : ∃ r, s.release s.cur st.qscope = (true, r) := ⟨_, Prod.ext hrel rfl⟩
  rw [hpair] at hr ⊢
  obtain ⟨u, hu'⟩ : ∃ u, u = r.handOver objQueue (16 * s.myCopse.launch + s.myCopse.stage) s.cur st.qscope := ⟨_, rfl⟩
  have hhand : MemFrame r u := hu' ▸ memFrame_handOver r _ _ _ _
  have hitem : u.itemOf s.cur f st.itemBytes 0 = r.itemOf s.cur f st.itemBytes 0 :=
    itemOf_congr (by rw [hu', handOver_standAt]) hhand.releaseFrame.1.2.1 f _ _
  obtain ⟨v, hv⟩ : ∃ v, v = u.setStage s.myCopse.launch s.myCopse.stage (st.pushItem g (u.itemOf s.cur f st.itemBytes 0)) := ⟨_, rfl⟩
  have hbody : bodyEnq f s = .done v := by
    rw [hv, hu']
    exact bodyEnq_pushes hp hnext hpair hu hroom
  have hframe := hr.trans hhand.releaseFrame
  obtain ⟨paths, markers, rel, wait, hme⟩ := hframe.me
  obtain ⟨⟨hcur, -, -, hl⟩, -⟩ := hframe
  obtain ⟨place, clpos, e⟩ := done_me (i := .enq f) (enq_form f s) rfl (u := v) (by rw [hv]; exact hcur)
  have hvme : v.me = u.me := by rw [hv]; rfl
  rw [hvme, hme] at e
  refine ⟨_, exec_done (enq_form f s) ha hbody, by rw [e]; rfl, by rw [e], ?_⟩
  rw [stage_congr (done_launches ..), hv, hitem]
  exact stage_setStage u _ (by rw [State.launchAt, hl]; exact Nat.lt_of_succ_lt hnext)

/-- A vector `enq` waits from its first item on (R86). -/
theorem enq_begins (ha : Acts s (.enq f)) (hp : s.me.part f.h ≠ 0) (hnext : s.myCopse.stage + 1 < (s.launchAt s.myCopse.launch).stages.length)
    (hv : f.h.uni = false) (hrel : (s.release s.cur (s.stageOf (copseOf s.cur)).qscope).1 = true) :
    ∃ t, exec (.enq f) s = .next t ∧ t.me.wait = .enq f (s.me.part f.h) ∧ t.me.enqDone = s.me.enqDone ∧ t.me.pc = s.me.pc ∧
      t.stage s.myCopse.launch s.myCopse.stage = s.stageOf (copseOf s.cur) := by
  obtain ⟨r, hpair⟩ : ∃ r, s.release s.cur (s.stageOf (copseOf s.cur)).qscope = (true, r) := ⟨_, Prod.ext hrel rfl⟩
  have hr := releaseFrame_release s s.cur (s.stageOf (copseOf s.cur)).qscope
  rw [hpair] at hr
  have hbody := bodyEnq_begins hp hnext hpair hv
  have hframe := hr.trans (memFrame_handOver r objQueue (16 * s.myCopse.launch + s.myCopse.stage) s.cur (s.stageOf (copseOf s.cur)).qscope).releaseFrame
  generalize r.handOver objQueue _ s.cur _ = u at hbody hframe
  obtain ⟨paths, markers, rel, wait, hme⟩ := hframe.me
  obtain ⟨⟨hcur, -, -, hl⟩, -⟩ := hframe
  refine ⟨_, exec_stayed (enq_form f s) ha hbody, ?_⟩
  rw [me_eq, hcur] at hme
  simp only [State.stalled, me_eq, setStand_cur, hcur, setStand_standAt, hme, State.stage, State.launchAt, setStand_launches, hl]
  exact ⟨trivial, trivial, trivial, rfl⟩

end

/-! ### An item of a vector word (R86) -/

section
variable {s : State} {k lane : Nat} {f : A64} {p : Mask} (hwait : (s.standAt k).wait = .enq f p) (hres : (s.copseAt (copseOf k)).life = .resident)
  (hroom : (s.stageOf (copseOf k)).segFull ((s.stageOf (copseOf k)).segmentFor (fieldOfCore (s.copseAt (copseOf k)).core)) = false)

/-- The machine with one more item of a vector `enq` pushed. -/
def State.itemPushed (s : State) (k : Nat) (f : A64) (lane : Nat) : State :=
  let c := s.copseAt (copseOf k)
  let st := s.stageOf (copseOf k)
  s.setStage c.launch c.stage (st.pushItem (st.segmentFor (fieldOfCore c.core)) (s.itemOf k f st.itemBytes lane))

include hwait hres hroom

/-- A push that is not the last counts its item. -/
theorem enqPush_counts {j : Nat} {r : List Nat} (hitems : (lanes p).drop (s.standAt k).enqDone = lane :: j :: r) :
    s.enqPush k = (s.itemPushed k f lane).setStand k { s.standAt k with enqDone := (s.standAt k).enqDone + 1 } := by
  obtain ⟨x, hx⟩ : ∃ x, x = { s.standAt k with enqDone := (s.standAt k).enqDone + 1 } := ⟨_, rfl⟩
  rw [← hx]
  unfold State.enqPush
  simp only [hwait, hres, hroom, hitems, ne_eq, not_true_eq_false, Bool.false_eq_true, or_self, if_false, reduceCtorEq]
  rw [hx]
  rfl

/-- With the last one the stand passes the word. -/
theorem enqPush_passes (hitems : (lanes p).drop (s.standAt k).enqDone = [lane]) :
    let done := { s.standAt k with wait := .none, enqDone := 0 }
    s.enqPush k = ((s.itemPushed k f lane).setStand k done).retire k (.enq f) (enqForm f (s.stageOf (copseOf k))) done := by
  unfold State.enqPush
  simp only [hwait, hres, hroom, hitems, ne_eq, not_true_eq_false, Bool.false_eq_true, or_self, if_false, if_true]
  rfl
end

theorem enqPush_full {s : State} {k : Nat} {f : A64} {p : Mask} (hwait : (s.standAt k).wait = .enq f p)
    (hfull : (s.stageOf (copseOf k)).segFull ((s.stageOf (copseOf k)).segmentFor (fieldOfCore (s.copseAt (copseOf k)).core)) = true) :
    s.enqPush k = s := by
  unfold State.enqPush
  simp only [hwait, hfull, or_true, if_true]

/-- Settles O26: the word pushes or begins to push once its release is performed, and each push appends one item. -/
theorem enqSendsItemsInOrder : Obligations.EnqSendsItemsInOrder := by
  unfold Obligations.EnqSendsItemsInOrder
  refine ⟨fun f s ha => ?_, fun s k f p lane => ?_⟩
  · intro c st g
    refine ⟨fun hp => ?_, fun hp hlast => traps_of_trap (enq_form f s) ha (bodyEnq_last hp hlast) rfl rfl, fun hp hnext => ⟨fun hu hfull => ?_,
      fun hu hroom hrel => ?_, fun hv hrel => enq_begins ha hp hnext hv hrel⟩⟩
    · obtain ⟨place, clpos, e⟩ := done_me (i := .enq f) (enq_form f s) rfl (u := s) rfl
      exact ⟨_, exec_done (enq_form f s) ha (bodyEnq_empty hp), (localFrame_refl s).done _, by rw [e]; rfl⟩
    · exact ⟨_, exec_stayed (enq_form f s) ha (bodyEnq_full hp hnext hu hfull)⟩
    · obtain ⟨t, hexec, hpc, hsr, hstage⟩ := enq_pushes ha hp hnext hu hrel hroom
      exact ⟨t, hexec, hpc, hsr, pushed_segs hstage⟩
  · intro c st g hwait hres hstage
    refine ⟨fun hfull => congrArg Host.Outcome.next (enqPush_full hwait hfull), fun hroom hlane => ?_⟩
    obtain ⟨hn, hget⟩ := List.getElem?_eq_some_iff.mp hlane
    have hdrop := List.drop_eq_getElem_cons hn
    rw [hget] at hdrop
    have hpushed : (s.itemPushed k f lane).stage c.launch c.stage = st.pushItem g (s.itemOf k f st.itemBytes lane) := stage_setStage s _ hstage
    cases hrest : (lanes p).drop ((s.standAt k).enqDone + 1) with
    | nil =>
      rw [hrest] at hdrop
      have hlast := List.drop_eq_nil_iff.mp hrest
      refine ⟨_, congrArg Host.Outcome.next (enqPush_passes hwait hres hroom hdrop), ?_⟩
      obtain ⟨place, clpos, e⟩ := retire_stand ((s.itemPushed k f lane).setStand k { s.standAt k with wait := .none, enqDone := 0 }) k (.enq f)
        (enqForm f st) { s.standAt k with wait := .none, enqDone := 0 } rfl
      have hl := retire_sameWorld ((s.itemPushed k f lane).setStand k { s.standAt k with wait := .none, enqDone := 0 }) k (.enq f)
        (enqForm f st) { s.standAt k with wait := .none, enqDone := 0 }
      obtain ⟨-, -, -, -, -, -, -, -, hl, -⟩ := hl
      obtain ⟨hself, hothers⟩ := pushed_segs ((stage_congr hl c.launch c.stage).trans hpushed)
      exact ⟨hself, hothers, fun h => absurd h (Nat.not_lt.mpr hlast), fun _ => by rw [e, setStand_standAt]; exact ⟨rfl, rfl⟩⟩
    | cons j r =>
      rw [hrest] at hdrop
      have hmore : (s.standAt k).enqDone + 1 < (lanes p).length := by
        by_contra hlast
        rw [List.drop_eq_nil_of_le (Nat.not_lt.mp hlast)] at hrest
        cases hrest
      refine ⟨_, congrArg Host.Outcome.next (enqPush_counts hwait hres hroom hdrop), ?_⟩
      obtain ⟨hself, hothers⟩ := pushed_segs hpushed
      refine ⟨hself, hothers, fun _ => ?_, fun hlast => absurd hlast (Nat.ne_of_lt hmore)⟩
      rw [setStand_standAt]
      exact ⟨rfl, hwait, rfl⟩

end Sys2Proof.Machine
end

section
/-! SUPPORT. An outstanding operation that its own condition lets complete, or not yet (spec/02 R41, R43, R184). -/

namespace Sys2Proof.Machine

section
variable {s u : State} {k n : Nat} {p q : Pend} (hp : (s.standAt k).pend[n]? = some p) (hres : (s.copseAt (copseOf k)).life = .resident)
  (hbefore : ∀ o ∈ (s.standAt k).pend.take n, o.before p = false)
include hres hbefore

theorem pend_mayComplete :
    ¬((s.copseAt (copseOf k)).life ≠ .resident ∨ ((s.standAt k).pend.take n).any (fun q => q.before p) = true) := by
  simpa [hres] using hbefore

include hp

/-- It completes with the results that its condition has left it. -/
theorem exec_completes (hdone : s.pendDone k p = (some q, u)) : exec (.longLatencyComplete k n) s =
    .next ((u.setStand k { u.standAt k with pend := (u.standAt k).pend.eraseIdx n }).finish k q) := by
  show Host.Outcome.next (s.completePend k n) = _
  unfold State.completePend
  simp only [hp, if_neg (pend_mayComplete hres hbefore), hdone]

/-- It goes on waiting. -/
theorem exec_waits (hdone : s.pendDone k p = (none, u)) : exec (.longLatencyComplete k n) s = .next u := by
  show Host.Outcome.next (s.completePend k n) = _
  unfold State.completePend
  simp only [hp, if_neg (pend_mayComplete hres hbefore), hdone]

/-- The stand behind the completion: its results are in its registers, and the operation has left its list. -/
theorem completed_standAt (hdone : s.pendDone k p = (some q, u)) : ∃ (t r : State) (fl : Tbl Nat), exec (.longLatencyComplete k n) s = .next t ∧
    t.standAt k = { ({ u.standAt k with pend := (u.standAt k).pend.eraseIdx n } : Stand).put (r.landing q) with flags := fl } ∧
    t.launches = u.launches := by
  obtain ⟨r, hr⟩ : ∃ r, r = u.setStand k { u.standAt k with pend := (u.standAt k).pend.eraseIdx n } := ⟨_, rfl⟩
  obtain ⟨fl, e⟩ := flagDown_eq (({ u.standAt k with pend := (u.standAt k).pend.eraseIdx n } : Stand).put (r.landing q)) (q.flag.getD 15)
  refine ⟨_, r, fl, exec_completes hp hres hbefore hdone, ?_, ?_⟩
  · rw [← hr, finish_standAt, ← e, hr, setStand_standAt]
  · unfold State.finish
    cases q.ch with
    | none => rfl
    | some x => rfl
end

/-- An operation that pushes no channel and is no claim waits for no earlier one (R184). -/
theorem before_of_plain {o p : Pend} (hch : p.ch = none) (hon : ∀ ls, p.on ≠ .claim ls) : o.before p = false := by
  unfold Pend.before
  rw [hch, Bool.or_eq_false_iff]
  refine ⟨by cases o.ch <;> rfl, ?_⟩
  cases hp : p.on with
  | claim ls => exact absurd hp (hon ls)
  | _ => cases o.on <;> rfl

/-! ### Results that no later write has contested (R43) -/

theorem landing_vw {s : State} {p : Pend} (h : p.vlost = []) : (s.landing p).vw = p.vw := by simp [State.landing, h]

theorem landing_sw {s : State} {p : Pend} (h : p.slost = []) : (s.landing p).sw = p.sw := by simp [State.landing, h]

theorem landing_qw {s : State} {p : Pend} (h : p.qlost = []) : (s.landing p).qw = p.qw := by simp [State.landing, h]

theorem landing_pw {s : State} {p : Pend} (h : p.plost = []) : (s.landing p).pw = p.pw := by
  have hnone : ∀ n, s.keptLanes [] n = 0 := fun _ => rfl
  have hall : ∀ m : Mask, m &&& ~~~0 = m := fun m => BitVec.and_allOnes
  simp only [State.landing, h, hnone, hall, List.map_id']

/-- A list of writes leaves at a key what it names for it. -/
theorem tget_tputs_mem {α : Type} (d : α) {key : Nat} {w : α} {ws : List (Nat × α)} (t : Tbl α) (h : (key, w) ∈ ws)
    (hu : ∀ x ∈ ws, x.1 = key → x.2 = w) : tget d (tputs ws t) key = w := by
  rw [tget, tfind_tputs_mem key w ws t h hu]
  rfl


/-! ### The words themselves (R87, R88) -/

/-- A long-latency word that some thread takes part in leaves its results outstanding under its flag (R41). -/
theorem start_participates {s : State} {k : Nat} (i : Instr) {f : Form} {pre : Stand} (p : Pend) (hpart : f.h.uni = true ∨ pre.part f.h ≠ 0) :
    s.start k i f pre p = ((s.setStand k ((s.standAt k).flagUp ((s.standAt k).flagOf f.h.sch))).putLater k
      { p with flag := if (s.standAt k).flagOf f.h.sch < 12 then some ((s.standAt k).flagOf f.h.sch) else none }).retire k i f pre := by
  unfold State.start
  rw [if_neg]
  intro hnone
  obtain ⟨hu, hp⟩ : f.h.uni = false ∧ pre.part f.h = 0 := by simpa using hnone
  exact hpart.elim (fun h => absurd (hu.symm.trans h) (by decide)) (absurd hp)

/-- So such a word ends with them last in its stand's list, whether it is uniform or not. -/
theorem leavesPending_participates {i : Instr} {s : State} {f : Form} {b : State → Eff} {p : Pend} (hw : wordOf i s = some (f, b))
    (ha : Acts s i) (hh : i.head? = some f.h) (hpart : f.h.uni = true ∨ s.me.part f.h ≠ 0) (hc : f.control = false) (hb : b s = .long s p) :
    LeavesPending i s (started s s i p) p := by
  have ht : started s s i p = s.start s.cur i f s.me p := started_eq hw rfl
  have hlocal := localFrame_start s i f s.me p
  rw [← ht] at hlocal
  have hme : (started s s i p).me = (started s s i p).standAt s.cur := by rw [me_eq, hlocal.cur_eq]
  obtain ⟨fl, hfl⟩ := flagUp_eq s.me (s.me.flagOf f.h.sch)
  have hstart := start_participates (s := s) (k := s.cur) i p hpart
  rw [← me_eq, hfl] at hstart
  obtain ⟨place, clpos, e⟩ := retire_stand ((s.setStand s.cur { s.me with flags := fl }).putLater s.cur
    { p with flag := if s.me.flagOf f.h.sch < 12 then some (s.me.flagOf f.h.sch) else none }) s.cur i f s.me hc
  rw [← hstart, ← ht, ← hme, putLater_standAt, setStand_standAt] at e
  refine ⟨exec_started hw ha hb, ?_⟩
  rw [e]
  refine ⟨rfl, rfl, rfl, rfl, rfl, f.h, s.me.pend.map p.contest, hh, List.length_map .., rfl, fun m => ?_⟩
  have hflags := flag_flagUp s.me (s.me.flagOf f.h.sch) m
  rw [hfl] at hflags
  exact hflags

theorem deq_form (f : A64) (s : State) : wordOf (.deq f) s = some (formDeq f s, bodyDeq f) := rfl

/-- What a `deq` of stage 0 leaves outstanding: a false status and no register (R87). -/
theorem deqPend_first (f : A64) (p : Mask) : (deqPend f 0 p []).on = .ready ∧ (deqPend f 0 p []).vw = [] ∧ (deqPend f 0 p []).sw = [] ∧
    (f.h.uni = true → (deqPend f 0 p []).qw = [(f.sb.num.toNat, false)]) ∧
    (f.h.uni = false → f.sb.num.toNat ≠ 7 → (deqPend f 0 p []).pw = [(f.sb.num.toNat, p, 0)]) := by
  unfold deqPend
  cases hu : f.h.uni with
  | true => exact ⟨rfl, rfl, rfl, fun _ => rfl, fun h => absurd h (by decide)⟩
  | false =>
    simp only [Bool.false_eq_true, if_false, outPred]
    by_cases h7 : f.sb.num.toNat = 7
    · simp [h7, Pend.empty]
    · simp [h7, Pend.empty, maskOf]

/-- A `deq` is outstanding: ready in stage 0, to be served in a later one (R87). -/
theorem deq_leavesPending {f : A64} {s : State} (ha : Acts s (.deq f)) (hpart : f.h.uni = true ∨ s.me.part f.h ≠ 0) {p : Pend}
    (hb : bodyDeq f s = .long s p) : LeavesPending (.deq f) s (started s s (.deq f) p) p :=
  leavesPending_participates (deq_form f s) ha rfl hpart rfl hb

theorem qstat_form (f : A64) (s : State) : wordOf (.qstat f) s = some (formQstat f, bodyQstat f) := rfl

/-- Bits side by side, as a number. -/
theorem toNat_append_add {m n : Nat} (x : BitVec m) (y : BitVec n) : (x ++ y).toNat = x.toNat * 2 ^ n + y.toNat := by
  rw [BitVec.toNat_append, ← Nat.shiftLeft_add_eq_or_of_lt y.isLt, Nat.shiftLeft_eq]

/-- The fields of R88's value. -/
theorem queueState_fields (st : Stage) (g : Nat) : BitVec.ofNat 64 (queueState st g) =
    BitVec.ofBool st.done ++ BitVec.ofBool (st.counters.all (fun x => x.2 == [])) ++ (0 : BitVec 14)
      ++ BitVec.ofNat 16 (min (2 ^ st.qlog - (st.seg g).length) 0xFFFF) ++ BitVec.ofNat 32 (st.seg g).length := by
  apply BitVec.eq_of_toNat_eq
  have hfree : minN (2 ^ st.qlog - (st.seg g).length) 0xFFFF = min (2 ^ st.qlog - (st.seg g).length) 0xFFFF := Nat.min_def.symm
  simp only [queueState, hfree, toNat_append_add, BitVec.toNat_ofNat, BitVec.toNat_ofBool]
  cases st.done <;> cases st.counters.all (fun x => x.2 == []) <;> simp <;> omega

/-- `qstat` leaves its snapshot outstanding (R88). -/
theorem qstat_leavesPending (f : A64) (s : State) (ha : Acts s (.qstat f)) :
    let l := s.launchAt s.myCopse.launch
    let j := s.myCopse.stage + f.md.toNat
    let x : Word64 := if j = 0 ∨ l.stages.length ≤ j then 0x8000000000000000
      else BitVec.ofNat 64 (queueState (l.stageAt (j - 1)) (fieldOfCore s.myCopse.core))
    ∃ t, LeavesPending (.qstat f) s t { Pend.empty with sw := [(f.dst.num.toNat, x)] } ∧ LocalFrame s t ∧ SameMemory s t := by
  intro l j x
  have hu : f.h.uni = true := by
    simpa using acts_not_bad (qstat_form f s) ha (show onlyUni f.h ∈ (formQstat f).bad from List.mem_cons_self)
  have hb : bodyQstat f s = .long s { Pend.empty with sw := [(f.dst.num.toNat, x)] } := by
    have hx : x = BitVec.ofNat 64 (if j = 0 ∨ l.stages.length ≤ j then 2 ^ 63 else queueState (l.stageAt (j - 1)) (fieldOfCore s.myCopse.core)) :=
      (apply_ite (BitVec.ofNat 64) ..).symm
    rw [hx]
    rfl
  obtain ⟨hleaves, -⟩ := leavesPending_started (qstat_form f s) ha rfl hu rfl hb rfl (sameRegs_refl _)
  have hlocal := (localFrame_refl s).started (.qstat f) { Pend.empty with sw := [(f.dst.num.toNat, x)] }
  exact ⟨_, hleaves, hlocal, hlocal.sameMemory⟩


/-! ### What a `deq` takes (R78, R87) -/

theorem tfind_of_not_mem {α : Type} {key : Nat} : ∀ {t : Tbl α}, key ∉ t.map Prod.fst → tfind key t = none
  | [], _ => rfl
  | (j, _) :: r, h => by
    rw [tfind, if_neg fun e : j = key => h (e ▸ List.mem_cons_self), tfind_of_not_mem fun hr => h (List.mem_cons_of_mem _ hr)]

theorem seg_of_not_mem (st : Stage) {g : Nat} (h : g ∉ st.segs.map Prod.fst) : st.seg g = [] := by
  rw [Stage.seg, tget, tfind_of_not_mem h]
  rfl

/-- A `deq` looks for its segment in the order of R78. -/
theorem find_source (l : Launch) (st : Stage) (g : Nat) :
    (if l.det && !st.done then [g] else (if (st.segs.map Prod.fst).contains g then [g] else []) ++ ringAfter g (st.segs.map Prod.fst)).find?
      (fun f => st.seg f != []) = l.source st g := by
  have hfirst : ([g] : List Nat).find? (fun f => st.seg f != []) = if st.seg g ≠ [] then some g else none := by
    by_cases hg : st.seg g = [] <;> simp [hg]
  have hown : (if (st.segs.map Prod.fst).contains g then [g] else ([] : List Nat)).find? (fun f => st.seg f != []) =
      if st.seg g ≠ [] then some g else none := by
    split
    · exact hfirst
    · next h => simp [seg_of_not_mem st (by simpa using h)]
  unfold Launch.source
  by_cases hdet : l.det = true ∧ st.done = false
  · rw [if_pos (by simp [hdet]), if_pos hdet, hfirst]
  · rw [if_neg (by simpa using hdet), if_neg hdet, List.find?_append, hown]
    split <;> rfl

section
variable {s : State} {launch c g n : Nat}

theorem takeItems_some {j : Nat} (h : (s.launchAt launch).source (s.stage launch (c - 1)) g = some j) :
    s.takeItems launch c g n = (some (((s.stage launch (c - 1)).seg j).take n),
      s.setStage launch (c - 1) { s.stage launch (c - 1) with
        segs := tset j (((s.stage launch (c - 1)).seg j).drop n) (s.stage launch (c - 1)).segs }) := by
  rw [← find_source] at h
  unfold State.takeItems
  simp only
  split
  · next hnone => cases hnone.symm.trans h
  · next i hi =>
    obtain rfl : i = j := Option.some.inj (hi.symm.trans h)
    rfl

theorem takeItems_none (h : (s.launchAt launch).source (s.stage launch (c - 1)) g = none) :
    s.takeItems launch c g n = (if (s.stage launch (c - 1)).done then some [] else none, s) := by
  rw [← find_source] at h
  unfold State.takeItems
  simp only
  split
  · rfl
  · next i hi => cases hi.symm.trans h
end

/-- A waiting operation with the results that it is served. -/
def Pend.served (p r : Pend) : Pend := { p with on := .ready, vw := r.vw, sw := r.sw, pw := r.pw, qw := r.qw }

/-- The threads that a waiting `deq` serves. -/
def Pend.deqMask (p : Pend) (f : A64) : Mask :=
  if f.h.uni then 1 else (p.pw.map (fun w => w.2.1)).headD (maskOf (p.vw.map (fun w => w.1 % 128)))

/-- As many items as it asks for. -/
def Pend.deqCount (p : Pend) (f : A64) : Nat := if f.h.uni then 1 else (lanes (p.deqMask f)).length

/-- A `deq` that finds items, or a closed queue, is served and acquires what its producers released (R87). -/
theorem pendDone_served {s u : State} {k : Nat} {f : A64} {x : Spot} {p : Pend} {xs : List (List Byte)} (hon : p.on = .deq f x)
    (htake : s.takeItems (s.copseAt (copseOf k)).launch (s.copseAt (copseOf k)).stage (fieldOfCore (s.copseAt (copseOf k)).core) (p.deqCount f)
      = (some xs, u)) :
    ∃ w, s.pendDone k p = (some (p.served (deqPend f (u.inBytes (copseOf k)) (p.deqMask f) xs)), w) ∧ MemFrame u w := by
  have hd : s.pendDone k p = s.serveDeq k f p := by
    unfold State.pendDone
    rw [hon]
  obtain ⟨c, hc⟩ : ∃ c, c = s.copseAt (copseOf k) := ⟨_, rfl⟩
  obtain ⟨qs, hqs⟩ : ∃ qs, qs = ((u.launchAt c.launch).stageAt (c.stage - 1)).qscope := ⟨_, rfl⟩
  refine ⟨(u.takeOver objQueue (16 * c.launch + (c.stage - 1)) k qs).acquire k qs, ?_, (memFrame_takeOver ..).trans (memFrame_acquire ..)⟩
  rw [hd, hqs, hc]
  unfold State.serveDeq
  simp only [Pend.deqCount, Pend.deqMask] at htake ⊢
  rw [htake]
  rfl

/-- One that finds nothing in an open queue waits. -/
theorem pendDone_unserved {s u : State} {k : Nat} {f : A64} {x : Spot} {p : Pend} (hon : p.on = .deq f x)
    (htake : s.takeItems (s.copseAt (copseOf k)).launch (s.copseAt (copseOf k)).stage (fieldOfCore (s.copseAt (copseOf k)).core) (p.deqCount f)
      = (none, u)) :
    s.pendDone k p = (none, u) := by
  unfold State.pendDone
  rw [hon]
  show s.serveDeq k f p = _
  unfold State.serveDeq
  simp only [Pend.deqCount, Pend.deqMask] at htake
  simp only [htake]

/-! ### The results of a `deq` (R87) -/

/-- The registers of a uniform one: the words of its item. -/
theorem deqPend_sw {f : A64} (hu : f.h.uni = true) {bytes : Nat} {m : Mask} {xs : List (List Byte)} (t : Tbl Word64) {w : Nat} (hw : w < bytes / 8) :
    tget 0 (tputs (deqPend f bytes m xs).sw t) (f.dst.num.toNat + w) = BitVec.ofNat 64 (natOf ((((xs[0]?).getD []).drop (8 * w)).take 8)) := by
  unfold deqPend
  rw [if_pos hu]
  refine tget_tputs_mem 0 t (List.mem_map.mpr ⟨w, List.mem_range.mpr hw, rfl⟩) fun y hy e => ?_
  obtain ⟨i, -, rfl⟩ := List.mem_map.mp hy
  rw [Nat.add_left_cancel e]

theorem deqPend_qw {f : A64} (hu : f.h.uni = true) (bytes : Nat) (m : Mask) (xs : List (List Byte)) :
    (deqPend f bytes m xs).qw = [(f.sb.num.toNat, xs != [])] := by
  unfold deqPend
  rw [if_pos hu]

section
variable {f : A64} {m : Mask} {i lane : Nat} (hv : f.h.uni = false) (hlane : (lanes m)[i]? = some lane)
include hv hlane

/-- Those of a vector one: to each thread, in lane order, the words of its item. -/
theorem deqPend_vw {bytes : Nat} {xs : List (List Byte)} (t : Tbl Word32) {w : Nat} (hw : w < bytes / 4) :
    tget 0 (tputs (deqPend f bytes m xs).vw t) (128 * (f.dst.num.toNat + w) + lane) =
      BitVec.ofNat 32 (natOf ((((xs[i]?).getD []).drop (4 * w)).take 4)) := by
  obtain ⟨hi, rfl⟩ := List.getElem?_eq_some_iff.mp hlane
  have hidx : (lanes m).idxOf (lanes m)[i] = i := (lanes_nodup m).idxOf_getElem i hi
  have hlt : ∀ j ∈ lanes m, j < 128 := fun j hj => ((mem_lanes m j).mp hj).1
  unfold deqPend
  rw [if_neg (by simp [hv])]
  refine tget_tputs_mem 0 t (List.mem_flatMap.mpr ⟨_, List.getElem_mem hi, List.mem_map.mpr ⟨w, List.mem_range.mpr hw, ?_⟩⟩) fun y hy e => ?_
  · simp only [hidx]
  · obtain ⟨j, hj, hy⟩ := List.mem_flatMap.mp hy
    obtain ⟨v, -, rfl⟩ := List.mem_map.mp hy
    have hjlt := hlt j hj
    have hilt := hlt _ (List.getElem_mem hi)
    obtain ⟨rfl, rfl⟩ : v = w ∧ j = (lanes m)[i] := by
      simp only at e
      omega
    simp only [hidx]

/-- And to its predicate whether there was one. -/
theorem deqPend_pw (bytes : Nat) (xs : List (List Byte)) (h7 : f.sb.num.toNat ≠ 7) : ∃ val, (deqPend f bytes m xs).pw = [(f.sb.num.toNat, m, val)] ∧
    m.getLsbD lane = true ∧ val.getLsbD lane = decide (i < xs.length) := by
  obtain ⟨hi, rfl⟩ := List.getElem?_eq_some_iff.mp hlane
  have hidx : (lanes m).idxOf (lanes m)[i] = i := (lanes_nodup m).idxOf_getElem i hi
  have hmem := List.getElem_mem hi
  refine ⟨maskOf ((lanes m).filter fun t => (lanes m).idxOf t < xs.length), ?_, ((mem_lanes m _).mp hmem).2, ?_⟩
  · unfold deqPend outPred
    rw [if_neg (by simp [hv]), if_neg (by decide), if_neg h7]
  · rw [getLsbD_maskOf _ _ fun t ht => ((mem_lanes m t).mp (List.mem_filter.mp ht).1).1]
    simp only [List.mem_filter, hmem, hidx, true_and, decide_eq_true_eq]
end

/-- The stand whose waiting `deq` has been served these items. -/
def ServedStand (s : State) (k n : Nat) (f : A64) (p : Pend) (xs : List (List Byte)) (t : State) : Prop :=
  ∃ (r : State), let q := r.landing (p.served (deqPend f (s.inBytes (copseOf k)) (p.deqMask f) xs))
    (t.standAt k).v = tputs q.vw (s.standAt k).v ∧ (t.standAt k).sr = tputs q.sw (s.standAt k).sr ∧
    (t.standAt k).p = q.pw.foldl (fun t w => tset w.1 ((tget 0 t w.1 &&& ~~~w.2.1) ||| (w.2.2 &&& w.2.1)) t) (s.standAt k).p ∧
    (t.standAt k).q = q.qw.foldl (fun q w => setQ q w.1 w.2) (s.standAt k).q ∧ (t.standAt k).pend = (s.standAt k).pend.eraseIdx n

section
variable {s t : State} {k n : Nat} {f : A64} {p : Pend} {xs : List (List Byte)} (h : ServedStand s k n f p xs t)
include h

theorem ServedStand.pend : (t.standAt k).pend = (s.standAt k).pend.eraseIdx n := by
  obtain ⟨r, -, -, -, -, hpend⟩ := h
  exact hpend

theorem ServedStand.uniform (hu : f.h.uni = true) (hs : p.slost = []) (hq : p.qlost = []) (hsb : f.sb.num.toNat < 4) :
    (∀ w, w < s.inBytes (copseOf k) / 8 →
      tget 0 (t.standAt k).sr (f.dst.num.toNat + w) = BitVec.ofNat 64 (natOf ((((xs[0]?).getD []).drop (8 * w)).take 8))) ∧
    (t.standAt k).q.getLsbD f.sb.num.toNat = (xs != []) := by
  obtain ⟨r, -, hsr, -, hqs, -⟩ := h
  rw [landing_sw (p := p.served _) hs] at hsr
  rw [landing_qw (p := p.served _) hq] at hqs
  refine ⟨fun w hw => ?_, ?_⟩
  · rw [hsr]
    exact deqPend_sw hu _ hw
  · rw [hqs, Pend.served, deqPend_qw hu]
    exact getLsbD_setQ _ _ _ hsb

theorem ServedStand.vector {m : Mask} (hm : p.deqMask f = m) (hu : f.h.uni = false) (hvl : p.vlost = []) (hpl : p.plost = [])
    (h7 : f.sb.num.toNat ≠ 7) {i lane : Nat} (hlane : (lanes m)[i]? = some lane) :
    (∀ w, w < s.inBytes (copseOf k) / 4 → tget 0 (t.standAt k).v (128 * (f.dst.num.toNat + w) + lane) =
      BitVec.ofNat 32 (natOf ((((xs[i]?).getD []).drop (4 * w)).take 4))) ∧
    (tget 0 (t.standAt k).p f.sb.num.toNat).getLsbD lane = decide (i < xs.length) := by
  obtain ⟨r, hv, -, hps, -⟩ := h
  subst hm
  rw [landing_vw (p := p.served _) hvl] at hv
  rw [landing_pw (p := p.served _) hpl] at hps
  refine ⟨fun w hw => ?_, ?_⟩
  · rw [hv]
    exact deqPend_vw hu hlane _ hw
  · obtain ⟨val, hpw, hlive, hval⟩ := deqPend_pw hu hlane (s.inBytes (copseOf k)) xs h7
    rw [hps, Pend.served, hpw]
    simp [hlive, hval]
end

/-! ### A waiting `deq` completes, or does not yet (R78, R87) -/

section
variable {s : State} {k n : Nat} {f : A64} {x : Spot} {p : Pend} (hp : (s.standAt k).pend[n]? = some p) (hon : p.on = .deq f x)
  (hch : p.ch = none) (hres : (s.copseAt (copseOf k)).life = .resident)
include hp hon hch hres

theorem deq_served {u : State} {xs : List (List Byte)} (hst : u.standAt k = s.standAt k) (hbytes : u.inBytes (copseOf k) = s.inBytes (copseOf k))
    (htake : s.takeItems (s.copseAt (copseOf k)).launch (s.copseAt (copseOf k)).stage (fieldOfCore (s.copseAt (copseOf k)).core) (p.deqCount f)
      = (some xs, u)) :
    ∃ t, exec (.longLatencyComplete k n) s = .next t ∧ ServedStand s k n f p xs t ∧ t.launches = u.launches := by
  obtain ⟨w, hdone, hframe⟩ := pendDone_served hon htake
  obtain ⟨t, r, fl, hexec, e, hl⟩ := completed_standAt hp hres (fun o _ => before_of_plain hch fun ls h => by rw [hon] at h; cases h) hdone
  obtain ⟨⟨-, -, -, -, -, -, -, -, -, -, hlaunches, -⟩, hstands, -⟩ := hframe
  obtain ⟨pa, hpa⟩ := hstands k
  rw [hpa, hst, hbytes] at e
  exact ⟨t, hexec, ⟨r, by rw [e]; rfl, by rw [e]; rfl, by rw [e]; rfl, by rw [e]; rfl, by rw [e]; rfl⟩, hl.trans hlaunches⟩

/-- Its segment gives it its oldest items, and no other changes. -/
theorem deq_takes {j : Nat}
    (hsrc : (s.launchAt (s.copseAt (copseOf k)).launch).source
      (s.stage (s.copseAt (copseOf k)).launch ((s.copseAt (copseOf k)).stage - 1)) (fieldOfCore (s.copseAt (copseOf k)).core) = some j)
    (hlen : (s.copseAt (copseOf k)).stage - 1 < (s.launchAt (s.copseAt (copseOf k)).launch).stages.length) :
    let c := s.copseAt (copseOf k)
    let st := s.stage c.launch (c.stage - 1)
    ∃ t, exec (.longLatencyComplete k n) s = .next t ∧ ServedStand s k n f p ((st.seg j).take (p.deqCount f)) t ∧
      (t.stage c.launch (c.stage - 1)).seg j = (st.seg j).drop (p.deqCount f) ∧
      ∀ i, i ≠ j → (t.stage c.launch (c.stage - 1)).seg i = st.seg i := by
  intro c st
  obtain ⟨u, hu⟩ : ∃ u, u = s.setStage c.launch (c.stage - 1) { st with segs := tset j ((st.seg j).drop (p.deqCount f)) st.segs } := ⟨_, rfl⟩
  have htake : s.takeItems c.launch c.stage (fieldOfCore c.core) (p.deqCount f) = (some ((st.seg j).take (p.deqCount f)), u) := by
    rw [hu]
    exact takeItems_some hsrc
  have hstage : u.stage c.launch (c.stage - 1) = { st with segs := tset j ((st.seg j).drop (p.deqCount f)) st.segs } := by
    rw [hu]
    exact stage_setStage s _ hlen
  have hbytes : u.inBytes (copseOf k) = s.inBytes (copseOf k) := by
    have hc : u.copseAt (copseOf k) = c := by rw [hu]; rfl
    show ((u.stage (u.copseAt (copseOf k)).launch ((u.copseAt (copseOf k)).stage - 1)).itemBytes) = st.itemBytes
    rw [hc, hstage]
    rfl
  obtain ⟨t, hexec, hserved, hl⟩ := deq_served hp hon hch hres (by rw [hu]; rfl) hbytes htake
  refine ⟨t, hexec, hserved, ?_⟩
  rw [stage_congr hl, hstage]
  exact ⟨tget_tset_self .., fun i hi => tget_tset_ne _ hi ..⟩

section
variable (hsrc : (s.launchAt (s.copseAt (copseOf k)).launch).source
  (s.stage (s.copseAt (copseOf k)).launch ((s.copseAt (copseOf k)).stage - 1)) (fieldOfCore (s.copseAt (copseOf k)).core) = none)
include hsrc

/-- From a closed queue with nothing left it takes nothing. -/
theorem deq_closed (hdone : (s.stage (s.copseAt (copseOf k)).launch ((s.copseAt (copseOf k)).stage - 1)).done = true) :
    ∃ t, exec (.longLatencyComplete k n) s = .next t ∧ ServedStand s k n f p [] t := by
  obtain ⟨t, hexec, hserved, -⟩ := deq_served hp hon hch hres rfl rfl ((takeItems_none hsrc).trans (by rw [if_pos hdone]))
  exact ⟨t, hexec, hserved⟩

/-- At an open queue with nothing to take it waits. -/
theorem deq_open (hopen : (s.stage (s.copseAt (copseOf k)).launch ((s.copseAt (copseOf k)).stage - 1)).done = false) :
    exec (.longLatencyComplete k n) s = .next s :=
  exec_waits hp hres (fun o _ => before_of_plain hch fun ls h => by rw [hon] at h; cases h)
    (pendDone_unserved hon ((takeItems_none hsrc).trans (by rw [hopen]; rfl)))
end
end

/-- Settles O27: a `deq` is outstanding until a segment gives it items or its queue is closed. -/
theorem deqTakesItemsInOrder : Obligations.DeqTakesItemsInOrder := by
  unfold Obligations.DeqTakesItemsInOrder
  refine ⟨fun f s ha hpart => ⟨fun hfirst => ?_, fun hlater => ?_⟩, ?_, ?_, fun f s ha => ?_⟩
  · obtain ⟨hon, hvw, hsw, hqw, hpw⟩ := deqPend_first f (s.me.part f.h)
    have hb : bodyDeq f s = .long s (deqPend f 0 (s.me.part f.h) []) := if_pos hfirst
    exact ⟨_, _, deq_leavesPending ha hpart hb, hon, hvw, hsw, hqw, hpw⟩
  · have hb : bodyDeq f s = .long s { deqPend f (s.inBytes (copseOf s.cur)) (s.me.part f.h) [] with on := .deq f s.me.spot } := if_neg hlater
    exact ⟨_, _, deq_leavesPending ha hpart hb, rfl⟩
  · intro s k n f x p hp hon hu hsl hql hch hsb c l st g hres hlen
    have hcount : p.deqCount f = 1 := if_pos hu
    refine ⟨fun j item rest hsrc hseg => ?_, fun hsrc hdone => ?_, fun hsrc hopen => deq_open hp hon hch hres hsrc hopen⟩
    · obtain ⟨t, hexec, hserved, hself, hothers⟩ := deq_takes hp hon hch hres hsrc hlen
      rw [hcount, show (s.stage c.launch (c.stage - 1)).seg j = item :: rest from hseg] at hserved hself
      obtain ⟨hsr, hq⟩ := hserved.uniform hu hsl hql hsb
      exact ⟨t, hexec, hsr, hq, hself, hothers, hserved.pend⟩
    · obtain ⟨t, hexec, hserved⟩ := deq_closed hp hon hch hres hsrc hdone
      obtain ⟨hsr, hq⟩ := hserved.uniform hu hsl hql hsb
      exact ⟨t, hexec, fun w hw => by rw [hsr w hw]; simp [natOf], hq⟩
  · intro s k n f x p m old hp hon hu hpw hvl hpl hch h7 c l st g gives hres hlen
    have hmask : p.deqMask f = m := by simp [Pend.deqMask, hu, hpw]
    have hcount : p.deqCount f = (lanes m).length := by simp [Pend.deqCount, hu, hmask]
    refine ⟨fun j hsrc => ?_, fun hsrc hdone => ?_, fun hsrc hopen => deq_open hp hon hch hres hsrc hopen⟩
    · obtain ⟨t, hexec, hserved, hself, hothers⟩ := deq_takes hp hon hch hres hsrc hlen
      rw [hcount] at hserved hself
      exact ⟨t, hexec, fun i lane hlane => hserved.vector hmask hu hvl hpl h7 hlane, hself, hothers, hserved.pend⟩
    · obtain ⟨t, hexec, hserved⟩ := deq_closed hp hon hch hres hsrc hdone
      exact ⟨t, hexec, fun i lane hlane => hserved.vector hmask hu hvl hpl h7 hlane⟩
  · have h := qstat_leavesPending f s ha
    simp only [queueState_fields] at h
    exact h

end Sys2Proof.Machine
end

section
/-! SUPPORT. Ticket ranges and field counters (spec/03 R73, R74). -/

namespace Sys2Proof.Machine

/-! ### Ticket ranges -/

theorem Ranges.count_foldl (r : Ranges) : ∀ n, r.foldl (fun n x => n + (x.2 - x.1)) n = n + r.count := by
  induction r with
  | nil => exact fun _ => rfl
  | cons x r ih =>
    intro n
    rw [Ranges.count, List.foldl_cons, List.foldl_cons, ih (n + _), ih (0 + _)]
    omega

@[simp] theorem Ranges.count_nil : Ranges.count [] = 0 := rfl

@[simp] theorem Ranges.count_cons (x : Nat × Nat) (r : Ranges) : Ranges.count (x :: r) = x.2 - x.1 + Ranges.count r := by
  rw [Ranges.count, List.foldl_cons, Ranges.count_foldl]
  omega

@[simp] theorem Ranges.has_nil (t : Nat) : ¬Ranges.has [] t := fun ⟨_, h, _⟩ => List.not_mem_nil h

@[simp] theorem Ranges.has_cons (x : Nat × Nat) (r : Ranges) (t : Nat) : Ranges.has (x :: r) t ↔ (x.1 ≤ t ∧ t < x.2) ∨ Ranges.has r t := by
  simp [Ranges.has]

theorem Ranges.ok_nil : Ranges.ok [] := ⟨by simp, List.Pairwise.nil⟩

theorem Ranges.ok_cons {x : Nat × Nat} {r : Ranges} : Ranges.ok (x :: r) ↔ x.1 < x.2 ∧ (∀ y ∈ r, x.2 < y.1) ∧ Ranges.ok r := by
  simp only [Ranges.ok, List.forall_mem_cons, List.pairwise_cons]
  tauto

/-- What follows an interval lies above it. -/
theorem Ranges.lt_of_has {x : Nat × Nat} {r : Ranges} (h : ∀ y ∈ r, x.2 < y.1) {t : Nat} (ht : Ranges.has r t) : x.2 < t := by
  obtain ⟨y, hy, hle, -⟩ := ht
  exact (h y hy).trans_le hle

/-- The tickets of a range. -/
def Ranges.tickets : Ranges → Finset Nat
  | [] => ∅
  | x :: r => Finset.Ico x.1 x.2 ∪ Ranges.tickets r

theorem Ranges.mem_tickets (r : Ranges) (t : Nat) : t ∈ r.tickets ↔ r.has t := by
  induction r with
  | nil => simp [Ranges.tickets]
  | cons x r ih => simp [Ranges.tickets, ih]

/-- In canonical form no ticket is counted twice. -/
theorem Ranges.card_tickets {r : Ranges} (h : r.ok) : r.tickets.card = r.count := by
  induction r with
  | nil => rfl
  | cons x r ih =>
    obtain ⟨-, hfirst, hr⟩ := Ranges.ok_cons.mp h
    have hdisj : Disjoint (Finset.Ico x.1 x.2) (Ranges.tickets r) := Finset.disjoint_left.mpr fun t ht hu => by
      have hlt := Ranges.lt_of_has hfirst ((Ranges.mem_tickets r t).mp hu)
      have := (Finset.mem_Ico.mp ht).2
      omega
    rw [Ranges.tickets, Finset.card_union_of_disjoint hdisj, Nat.card_Ico, ih hr, Ranges.count_cons]

theorem Ranges.count_le_of_has {x y : Ranges} (hx : x.ok) (hy : y.ok) (h : ∀ t, x.has t → y.has t) : x.count ≤ y.count := by
  rw [← Ranges.card_tickets hx, ← Ranges.card_tickets hy]
  refine Finset.card_le_card fun t ht => ?_
  rw [Ranges.mem_tickets] at ht ⊢
  exact h t ht

/-! ### The lowest tickets and the top ones -/

theorem Ranges.low_cons (n a b : Nat) (r : Ranges) : Ranges.low n ((a, b) :: r) = if n = 0 then ([], (a, b) :: r)
    else if n < b - a then ([(a, a + n)], (a + n, b) :: r) else ((a, b) :: (Ranges.low (n - (b - a)) r).1, (Ranges.low (n - (b - a)) r).2) := rfl

theorem Ranges.low_has (n : Nat) (r : Ranges) (t : Nat) : r.has t ↔ (r.low n).1.has t ∨ (r.low n).2.has t := by
  induction r generalizing n with
  | nil => simp [Ranges.low]
  | cons x r ih =>
    rw [Ranges.low_cons]
    split_ifs
    · simp
    · simp only [Ranges.has_cons, Ranges.has_nil, or_false, ← or_assoc]
      exact or_congr_left (by omega)
    · simp only [Ranges.has_cons, ih (n - (x.2 - x.1)), or_assoc]

theorem Ranges.low_count {n : Nat} {r : Ranges} (h : n ≤ r.count) : (r.low n).1.count = n ∧ (r.low n).2.count = r.count - n := by
  induction r generalizing n with
  | nil => exact ⟨(Nat.le_zero.mp h).symm, (Nat.zero_sub n).symm⟩
  | cons x r ih =>
    rw [Ranges.count_cons] at h
    rw [Ranges.low_cons]
    split_ifs
    · subst n
      simp
    · simp only [Ranges.count_cons, Ranges.count_nil]
      omega
    · obtain ⟨hl, hr⟩ := ih (n := n - (x.2 - x.1)) (by omega)
      simp only [Ranges.count_cons, hl, hr]
      omega

/-- In canonical form the lowest tickets lie below the rest, and both are canonical. -/
theorem Ranges.low_ok {r : Ranges} (h : r.ok) (n : Nat) :
    (r.low n).1.ok ∧ (r.low n).2.ok ∧ ∀ t u, (r.low n).1.has t → (r.low n).2.has u → t < u := by
  induction r generalizing n with
  | nil => exact ⟨Ranges.ok_nil, Ranges.ok_nil, fun _ _ ht => absurd ht (Ranges.has_nil _)⟩
  | cons x r ih =>
    obtain ⟨hx, hfirst, hr⟩ := Ranges.ok_cons.mp h
    rw [Ranges.low_cons]
    split_ifs
    · exact ⟨Ranges.ok_nil, h, fun _ _ ht => absurd ht (Ranges.has_nil _)⟩
    · refine ⟨Ranges.ok_cons.mpr ⟨by simp only; omega, by simp, Ranges.ok_nil⟩, Ranges.ok_cons.mpr ⟨by simp only; omega, hfirst, hr⟩, fun t u ht hu => ?_⟩
      simp only [Ranges.has_cons, Ranges.has_nil, or_false] at ht hu
      obtain hu | hu := hu
      · omega
      · have := Ranges.lt_of_has hfirst hu
        omega
    · obtain ⟨hlow, hrest, hlt⟩ := ih hr (n - (x.2 - x.1))
      have hsub : ∀ t, (Ranges.low (n - (x.2 - x.1)) r).1.has t ∨ (Ranges.low (n - (x.2 - x.1)) r).2.has t → x.2 < t := fun t ht =>
        Ranges.lt_of_has hfirst ((Ranges.low_has _ r t).mpr ht)
      refine ⟨Ranges.ok_cons.mpr ⟨hx, fun y hy => hsub _ (.inl ⟨y, hy, le_refl _, hlow.1 y hy⟩), hlow⟩, hrest, fun t u ht hu => ?_⟩
      have hxu := hsub u (.inr hu)
      obtain ⟨-, htx⟩ | ht := (Ranges.has_cons ..).mp ht
      · exact htx.trans hxu
      · exact hlt t u ht hu

/-- The lowest of the tickets is the start of the first interval. -/
theorem Ranges.low_one {r : Ranges} (h : r.ok) {t : Nat} (ht : (r.low 1).1.has t) : ∃ b y, (r.low 1).1 = (t, b) :: y := by
  cases r with
  | nil => exact absurd ht (Ranges.has_nil _)
  | cons x r =>
    obtain ⟨hx, -, -⟩ := Ranges.ok_cons.mp h
    have hzero : ∀ r : Ranges, (r.low 0).1 = [] := fun r => by cases r <;> rfl
    rw [Ranges.low_cons] at ht ⊢
    rw [if_neg (by decide)] at ht ⊢
    split_ifs at ht ⊢ with hmore
    · simp only [Ranges.has_cons, Ranges.has_nil, or_false] at ht
      obtain rfl : t = x.1 := by omega
      exact ⟨_, _, rfl⟩
    · rw [show 1 - (x.2 - x.1) = 0 by omega, hzero] at ht ⊢
      simp only [Ranges.has_cons, Ranges.has_nil, or_false] at ht
      obtain rfl : t = x.1 := by omega
      exact ⟨_, _, rfl⟩

/-! ### Ranges joined -/

theorem Ranges.ins_spec {r : Ranges} (h : r.ok) (a b : Nat) :
    (Ranges.ins a b r).ok ∧ ∀ t, (Ranges.ins a b r).has t ↔ (a ≤ t ∧ t < b) ∨ r.has t := by
  induction r generalizing a b with
  | nil =>
    unfold Ranges.ins
    split_ifs with hab
    · exact ⟨Ranges.ok_cons.mpr ⟨hab, by simp, Ranges.ok_nil⟩, fun t => by simp⟩
    · exact ⟨Ranges.ok_nil, fun t => by simp; omega⟩
  | cons x r ih =>
    obtain ⟨hx, hfirst, hr⟩ := Ranges.ok_cons.mp h
    rw [Ranges.ins]
    split_ifs with hempty hbelow habove
    · exact ⟨h, fun t => ⟨.inr, fun ht => ht.resolve_left (by omega)⟩⟩
    · refine ⟨Ranges.ok_cons.mpr ⟨by simp only; omega, fun y hy => ?_, h⟩, fun t => by rw [Ranges.has_cons]⟩
      obtain rfl | hy := List.mem_cons.mp hy
      · exact hbelow
      · have := hfirst y hy
        simp only
        omega
    · obtain ⟨hok, hhas⟩ := ih hr a b
      refine ⟨Ranges.ok_cons.mpr ⟨hx, fun y hy => ?_, hok⟩, fun t => ?_⟩
      · obtain ⟨hle, -⟩ | hin := (hhas y.1).mp ⟨y, hy, le_refl _, hok.1 y hy⟩
        · exact habove.trans_le hle
        · exact Ranges.lt_of_has hfirst hin
      · rw [Ranges.has_cons, hhas, Ranges.has_cons]
        exact or_left_comm
    · obtain ⟨hok, hhas⟩ := ih hr (minN a x.1) (maxN b x.2)
      refine ⟨hok, fun t => ?_⟩
      rw [hhas, Ranges.has_cons, ← or_assoc]
      refine or_congr_left ?_
      simp only [minN, maxN]
      split_ifs <;> omega

theorem Ranges.join_spec (x : Ranges) {y : Ranges} (h : y.ok) : (Ranges.join x y).ok ∧ ∀ t, (Ranges.join x y).has t ↔ x.has t ∨ y.has t := by
  induction x generalizing y with
  | nil => exact ⟨h, fun t => by simp [Ranges.join]⟩
  | cons i x ih =>
    obtain ⟨hok, hhas⟩ := Ranges.ins_spec h i.1 i.2
    obtain ⟨hok', hhas'⟩ := ih hok
    refine ⟨hok', fun t => (hhas' t).trans ?_⟩
    rw [hhas, Ranges.has_cons]
    tauto

/-! ### Field counters (R74) -/

theorem not_mem_ringAfter (f : Nat) (fs : List Nat) : f ∉ ringAfter f fs := by simp [ringAfter]

section
variable {st : Stage} {f n : Nat}

/-- The donor that a field counter with too few takes from. -/
def Stage.donor (st : Stage) (f n : Nat) : Option Nat := (ringAfter f (st.counters.map Prod.fst)).find? (fun v => n ≤ (st.counter v).count)

theorem takeField_enough (h : n ≤ (st.counter f).count) :
    st.takeField f n = (some ((st.counter f).low n).1, { st with counters := tset f ((st.counter f).low n).2 st.counters }) := by
  have hno : ¬Ranges.count (tget [] st.counters f) < n := Nat.not_lt.mpr h
  unfold Stage.takeField
  simp only [if_neg hno]
  rfl

theorem takeField_none (h : (st.counter f).count < n) (hd : st.donor f n = none) : st.takeField f n = (none, st) := by
  have hyes : Ranges.count (tget [] st.counters f) < n := h
  have hnone : (ringAfter f (st.counters.map Prod.fst)).find? (fun v => n ≤ Ranges.count (tget [] st.counters v)) = none := hd
  unfold Stage.takeField
  simp only [hyes, if_true, hnone]

/-- What a donor gives: half of its blocks, but at least one. -/
def Stage.given (st : Stage) (v n : Nat) : Ranges × Ranges := (st.counter v).top (n * maxN 1 ((st.counter v).count / n / 2))

theorem takeField_donor {v : Nat} (h : (st.counter f).count < n) (hd : st.donor f n = some v)
    (hn : n ≤ (Ranges.join (st.given v n).1 (st.counter f)).count) :
    let pool := Ranges.join (st.given v n).1 (st.counter f)
    st.takeField f n = (some (pool.low n).1, { st with counters := tset f (pool.low n).2 (tset f pool (tset v (st.given v n).2 st.counters)) }) := by
  have hyes : Ranges.count (tget [] st.counters f) < n := h
  have hno : ¬Ranges.count (Ranges.join (st.given v n).1 (st.counter f)) < n := Nat.not_lt.mpr hn
  intro pool
  have hsome : (ringAfter f (st.counters.map Prod.fst)).find? (fun v => n ≤ Ranges.count (tget [] st.counters v)) = some v := hd
  unfold Stage.takeField
  simp only [hyes, if_true, hsome, tget_tset_self]
  exact if_neg hno

theorem donor_enough {v : Nat} (hd : st.donor f n = some v) : n ≤ (st.counter v).count ∧ v ≠ f :=
  ⟨by simpa using List.find?_some hd, fun e => not_mem_ringAfter f _ (e ▸ List.mem_of_find?_eq_some hd)⟩

/-- What is given lies above what its donor keeps, and is enough. -/
theorem given_spec {v : Nat} (hv : (st.counter v).ok) (hn : n ≤ (st.counter v).count) :
    (st.given v n).1.count = n * max 1 ((st.counter v).count / n / 2) ∧ n ≤ (st.given v n).1.count ∧ (st.given v n).1.ok ∧
    (∀ t, (st.counter v).has t ↔ (st.given v n).1.has t ∨ (st.given v n).2.has t) ∧
    ∀ t u, (st.given v n).1.has t → (st.given v n).2.has u → u < t := by
  obtain ⟨m, hm⟩ : ∃ m, m = n * max 1 ((st.counter v).count / n / 2) := ⟨_, rfl⟩
  have hmax : ∀ a b, maxN a b = max a b := fun a b => by
    unfold maxN
    split <;> omega
  have hnm : n ≤ m := hm ▸ Nat.le_mul_of_pos_right n (by omega)
  have hle : m ≤ (st.counter v).count := by
    rw [hm, ← Nat.mul_max_mul_left, Nat.mul_one]
    exact max_le hn ((Nat.mul_le_mul_left n (Nat.div_le_self _ 2)).trans (Nat.mul_div_le ..))
  obtain ⟨hrest, htop, hlt⟩ := Ranges.low_ok hv ((st.counter v).count - m)
  obtain ⟨-, hcount⟩ := Ranges.low_count (n := (st.counter v).count - m) (r := st.counter v) (by omega)
  have hgiven : st.given v n = ((Ranges.low ((st.counter v).count - m) (st.counter v)).2, (Ranges.low ((st.counter v).count - m) (st.counter v)).1) := by
    rw [Stage.given, hmax, ← hm]
    rfl
  rw [hgiven, ← hm]
  exact ⟨by rw [hcount]; omega, by rw [hcount]; omega, htop, fun t => (Ranges.low_has _ _ t).trans or_comm, fun t u ht hu => hlt u t hu ht⟩

/-- The pool of a field counter that has taken from a donor. -/
theorem pool_spec {v : Nat} (hf : (st.counter f).ok) (hv : (st.counter v).ok) (hn : n ≤ (st.counter v).count) :
    let pool := Ranges.join (st.given v n).1 (st.counter f)
    pool.ok ∧ n ≤ pool.count ∧ ∀ t, pool.has t ↔ (st.counter f).has t ∨ (st.given v n).1.has t := by
  intro pool
  obtain ⟨-, hle, hok, -⟩ := given_spec hv hn
  obtain ⟨hpool, hhas⟩ := Ranges.join_spec (st.given v n).1 hf
  exact ⟨hpool, hle.trans (Ranges.count_le_of_has hok hpool fun t ht => (hhas t).mpr (.inl ht)), fun t => (hhas t).trans or_comm⟩

theorem counter_tset_self (r : Ranges) (c : Tbl Ranges) : ({ st with counters := tset f r c } : Stage).counter f = r := tget_tset_self ..

/-- Taking from a range in canonical form parts it. -/
theorem parts_low {r : Ranges} (h : r.ok) (hn : n ≤ r.count) {pool : Nat → Prop} (hpool : ∀ t, pool t ↔ r.has t) :
    Parts n pool (r.low n).1 (r.low n).2 :=
  ⟨(Ranges.low_count hn).1, fun t => (hpool t).trans (Ranges.low_has n r t), (Ranges.low_ok h n).2.2⟩

/-- What a field counter hands out are the lowest tickets of a range in canonical form. -/
theorem takeField_low (hok : ∀ g, (st.counter g).ok) {x : Ranges} (hx : (st.takeField f n).1 = some x) : ∃ r : Ranges, r.ok ∧ x = (r.low n).1 := by
  by_cases henough : n ≤ (st.counter f).count
  · rw [takeField_enough henough] at hx
    exact ⟨_, hok f, (Option.some.inj hx).symm⟩
  · cases hd : st.donor f n with
    | none =>
      rw [takeField_none (Nat.not_le.mp henough) hd] at hx
      cases hx
    | some v =>
      obtain ⟨hpool, hle, -⟩ := pool_spec (hok f) (hok v) (donor_enough hd).1
      rw [takeField_donor (Nat.not_le.mp henough) hd hle] at hx
      exact ⟨_, hpool, (Option.some.inj hx).symm⟩

/-- TakeFrom a field counter (R74): its own tickets, or a donor's share joined to them. -/
theorem takeField_parts (hok : ∀ g, (st.counter g).ok) :
    let q := st.takeField f n
    (n ≤ (st.counter f).count → ∃ x, q.1 = some x ∧ Parts n (st.counter f).has x (q.2.counter f) ∧ ∀ g, g ≠ f → q.2.counter g = st.counter g) ∧
    ∀ v, (st.counter f).count < n → st.donor f n = some v →
      ∃ x moved : Ranges, q.1 = some x ∧ moved.count = n * max 1 ((st.counter v).count / n / 2) ∧
        (∀ t, (st.counter v).has t ↔ moved.has t ∨ (q.2.counter v).has t) ∧ (∀ t u, moved.has t → (q.2.counter v).has u → u < t) ∧
        Parts n (fun t => (st.counter f).has t ∨ moved.has t) x (q.2.counter f) ∧ ∀ g, g ≠ f → g ≠ v → q.2.counter g = st.counter g := by
  intro q
  refine ⟨fun henough => ?_, fun v hfew hd => ?_⟩
  · have hq : q = _ := takeField_enough henough
    rw [hq, counter_tset_self]
    exact ⟨_, rfl, parts_low (hok f) henough fun _ => Iff.rfl, fun g hg => tget_tset_ne _ hg ..⟩
  · obtain ⟨hn, hvf⟩ := donor_enough hd
    obtain ⟨hcount, -, -, hsplit, hlt⟩ := given_spec (hok v) hn
    obtain ⟨hpool, hle, hhas⟩ := pool_spec (hok f) (hok v) hn
    have hq : q = _ := takeField_donor hfew hd hle
    have hkept : q.2.counter v = (st.given v n).2 := by
      rw [hq]
      exact (tget_tset_ne _ hvf ..).trans ((tget_tset_ne _ hvf ..).trans (tget_tset_self ..))
    rw [hkept]
    refine ⟨_, (st.given v n).1, by rw [hq], hcount, hsplit, hlt, ?_, fun g hgf hgv => ?_⟩
    · rw [hq, counter_tset_self]
      exact parts_low hpool hle fun t => (hhas t).symm
    · rw [hq]
      exact (tget_tset_ne _ hgf ..).trans ((tget_tset_ne _ hgf ..).trans (tget_tset_ne _ hgv ..))
end

end Sys2Proof.Machine
end

section
/-! SUPPORT. Claims (spec/03 R74-R76, R85). -/

namespace Sys2Proof.Machine

/-! ### Who hands out a ticket (R74, R75) -/

/-- Some claimed level names the domain. -/
def Stage.namesDom (st : Stage) (d : Nat) : Bool := st.claimed.any (fun x => x.2.dom.toNat == d)

theorem namesDom_iff (st : Stage) (d : BitVec 3) : st.namesDom d.toNat = true ↔ ∃ x ∈ st.claimed, x.2.dom = d := by
  simp [Stage.namesDom, List.any_eq_true, BitVec.toNat_inj]

/-- The ticket that a claim makes of what a holder gave: the lowest. -/
def firstTicket : Option Ranges → Option Nat
  | some ((t, _) :: _) => some t
  | _ => none

section
variable {s : State} {copse d n : Nat} {ds : List Nat}

/-- A holder with a block hands out its lowest tickets. -/
theorem takeFrom_held (h : s.heldBlock copse d ≠ []) :
    s.takeFrom copse (d :: ds) n = (some ((s.heldBlock copse d).low n).1, s.setBlock copse d ((s.heldBlock copse d).low n).2) := by
  rw [State.takeFrom]
  simp only [if_neg h]

/-- An empty one does so from the block that it gets. -/
theorem takeFrom_empty (h : s.heldBlock copse d = []) {b : Ranges} {u : State}
    (hb : s.takeFrom copse ds ((s.stage (s.copseAt copse).launch (s.copseAt copse).stage).blk d) = (some b, u)) :
    s.takeFrom copse (d :: ds) n = (some (b.low n).1, u.setBlock copse d (b.low n).2) := by
  rw [State.takeFrom]
  simp only [if_pos h, hb]

/-- Taking tickets leaves every stand as it is. -/
theorem takeFrom_stands (s : State) (copse : Nat) (ds : List Nat) (n : Nat) :
    (s.takeFrom copse ds n).2.cur = s.cur ∧ (s.takeFrom copse ds n).2.stands = s.stands := by
  have hset : ∀ (u : State) d r, (u.setBlock copse d r).cur = u.cur ∧ (u.setBlock copse d r).stands = u.stands := fun u d r => by
    unfold State.setBlock
    simp only
    split_ifs <;> exact ⟨rfl, rfl⟩
  induction ds generalizing n with
  | nil => exact ⟨rfl, rfl⟩
  | cons d ds ih =>
    by_cases hheld : s.heldBlock copse d = []
    · obtain ⟨hcur, hst⟩ := ih ((s.stage (s.copseAt copse).launch (s.copseAt copse).stage).blk d)
      rw [State.takeFrom]
      simp only [if_pos hheld]
      split
      · exact ⟨hcur, hst⟩
      · obtain ⟨hcur', hst'⟩ := hset (s.takeFrom copse ds ((s.stage (s.copseAt copse).launch (s.copseAt copse).stage).blk d)).2 d (Ranges.low n ‹_›).2
        exact ⟨hcur'.trans hcur, hst'.trans hst⟩
    · rw [takeFrom_held hheld]
      exact hset s d _
end

section
variable {s : State} {k : Nat}

theorem claimTicket_idle (h : (s.copseAt (copseOf k)).launch = 0) : s.claimTicket k = (none, s) := by
  unfold State.claimTicket
  simp only [if_pos h]

theorem claimTicket_det (h : (s.copseAt (copseOf k)).launch ≠ 0) (hdet : (s.launchAt (s.copseAt (copseOf k)).launch).det = true) :
    let c := s.copseAt (copseOf k)
    let st := (s.launchAt c.launch).stageAt c.stage
    let n := st.cstands + 1
    let t := c.ord * n + k % 16 + (s.standAt k).claims * (st.detw * n)
    s.claimTicket k = (if t < st.tickets then some t else none, s.setStand k { s.standAt k with claims := (s.standAt k).claims + 1 }) := by
  unfold State.claimTicket
  simp only [if_neg h, if_pos hdet]

/-- The domains whose holders are asked. -/
def Stage.holders (st : Stage) : List Nat := [2, 3, 4].filter st.namesDom

theorem claimTicket_dealt (h : (s.copseAt (copseOf k)).launch ≠ 0) (hdet : (s.launchAt (s.copseAt (copseOf k)).launch).det = false) :
    let r := s.takeFrom (copseOf k) ((s.launchAt (s.copseAt (copseOf k)).launch).stageAt (s.copseAt (copseOf k)).stage).holders 1
    s.claimTicket k = (firstTicket r.1, r.2) := by
  intro r
  obtain ⟨x, u, hr⟩ : ∃ x u, s.takeFrom (copseOf k) ([2, 3, 4].filter fun d => ((s.launchAt (s.copseAt (copseOf k)).launch).stageAt
    (s.copseAt (copseOf k)).stage).claimed.any fun x => x.2.dom.toNat == d) 1 = (x, u) := ⟨_, _, rfl⟩
  unfold State.claimTicket
  simp only [if_neg h, hdet, Bool.false_eq_true, if_false, hr]
  rw [show r = (x, u) from hr]
  match x with
  | none => rfl
  | some [] => rfl
  | some ((t, _) :: _) => rfl

/-- A claim changes of the stands the number of claims of its own, if that. -/
theorem claimTicket_stands (s : State) (k : Nat) :
    (s.claimTicket k).2.cur = s.cur ∧ ∀ j, ∃ n, (s.claimTicket k).2.standAt j = { s.standAt j with claims := n } := by
  by_cases h : (s.copseAt (copseOf k)).launch = 0
  · rw [claimTicket_idle h]
    exact ⟨rfl, fun _ => ⟨_, rfl⟩⟩
  · cases hdet : (s.launchAt (s.copseAt (copseOf k)).launch).det with
    | true =>
      rw [claimTicket_det h hdet]
      refine ⟨rfl, fun j => ?_⟩
      rw [setStand_standAt_at]
      split
      · next e => subst e; exact ⟨_, rfl⟩
      · exact ⟨_, rfl⟩
    | false =>
      rw [claimTicket_dealt h hdet]
      obtain ⟨hcur, hst⟩ := takeFrom_stands s (copseOf k) ((s.launchAt (s.copseAt (copseOf k)).launch).stageAt (s.copseAt (copseOf k)).stage).holders 1
      exact ⟨hcur, fun j => ⟨_, by rw [State.standAt, hst]; rfl⟩⟩
end

/-! ### Blocks (R73, R74) -/

section
variable {s : State} {k : Nat} (hlaunch : (s.copseAt (copseOf k)).launch ≠ 0)
  (hdet : (s.launchAt (s.copseAt (copseOf k)).launch).det = false)

/-- The stage that a stand works for. -/
def State.workStage (s : State) (k : Nat) : Stage := (s.launchAt (s.copseAt (copseOf k)).launch).stageAt (s.copseAt (copseOf k)).stage
/-- The blocks of a stand's core and cluster for its stage. -/
def State.coreBlock (s : State) (c : Copse) : Ranges := tget [] (s.coreAt c.core).block (stageKey c.launch c.stage)
def State.clusterBlock (s : State) (c : Copse) : Ranges := tget [] (s.clusterAt (clusterOf c.core)).block (stageKey c.launch c.stage)

/-- One ticket of a block of several. -/
theorem low_one_of_more {a b : Nat} (y : Ranges) (h : a + 1 < b) : Ranges.low 1 ((a, b) :: y) = ([(a, a + 1)], (a + 1, b) :: y) := by
  rw [Ranges.low_cons, if_neg (by decide), if_pos (by omega)]

theorem setBlock_core (s : State) (copse : Nat) (i : Nat × Nat) (y : Ranges) :
    let c := s.copseAt copse
    (s.setBlock copse 3 (i :: y)).coreBlock c = i :: y ∧ (s.setBlock copse 3 (i :: y)).clusterBlock c = s.clusterBlock c ∧
      (s.setBlock copse 3 (i :: y)).launches = s.launches ∧ (s.setBlock copse 3 (i :: y)).copses = s.copses := by
  intro c
  refine ⟨?_, rfl, rfl, rfl⟩
  unfold State.setBlock State.coreBlock
  simp only [if_neg (show ¬(3 : Nat) = 2 by decide), if_true, reduceCtorEq, if_false, c, setCore_coreAt]
  exact tget_tset_self ..

theorem setBlock_cluster (s : State) (copse : Nat) (i : Nat × Nat) (y : Ranges) :
    let c := s.copseAt copse
    (s.setBlock copse 4 (i :: y)).clusterBlock c = i :: y ∧ (s.setBlock copse 4 (i :: y)).launches = s.launches := by
  intro c
  refine ⟨?_, rfl⟩
  unfold State.setBlock State.clusterBlock
  simp only [if_neg (show ¬(4 : Nat) = 2 by decide), if_neg (show ¬(4 : Nat) = 3 by decide), reduceCtorEq, if_false, c,
    setCluster_clusterAt]
  exact tget_tset_self ..

theorem setBlock_copse (s : State) (copse : Nat) (y : Ranges) :
    ((s.setBlock copse 2 y).copseAt copse).block = y ∧ (∀ c, (s.setBlock copse 2 y).coreBlock c = s.coreBlock c) ∧
      (s.setBlock copse 2 y).launches = s.launches := by
  refine ⟨?_, fun _ => rfl, rfl⟩
  unfold State.setBlock
  simp

include hlaunch hdet

/-- A claim whose first holder has a block of several tickets takes the lowest. -/
theorem claimTicket_held {d : Nat} {ds : List Nat} (hh : (s.workStage k).holders = d :: ds) {a b : Nat} {y : Ranges}
    (hb : s.heldBlock (copseOf k) d = (a, b) :: y) (hab : a + 1 < b) :
    s.claimTicket k = (some a, s.setBlock (copseOf k) d ((a + 1, b) :: y)) := by
  unfold State.workStage at hh
  rw [claimTicket_dealt hlaunch hdet, hh, takeFrom_held (by rw [hb]; exact List.cons_ne_nil _ _), hb, low_one_of_more y hab]
  rfl

/-- One whose copse has none first gets it a block from its core. -/
theorem claimTicket_refilled {ds : List Nat} (hh : (s.workStage k).holders = 2 :: 3 :: ds) {a b : Nat} {y : Ranges}
    (hempty : s.heldBlock (copseOf k) 2 = []) (hb : s.heldBlock (copseOf k) 3 = (a, b) :: y) (hblk : 1 < (s.workStage k).blk 2)
    (hab : a + (s.workStage k).blk 2 < b) :
    s.claimTicket k = (some a, (s.setBlock (copseOf k) 3 ((a + (s.workStage k).blk 2, b) :: y)).setBlock (copseOf k) 2
      [(a + 1, a + (s.workStage k).blk 2)]) := by
  have hinner : s.takeFrom (copseOf k) (3 :: ds) ((s.workStage k).blk 2) = (some [(a, a + (s.workStage k).blk 2)],
      s.setBlock (copseOf k) 3 ((a + (s.workStage k).blk 2, b) :: y)) := by
    rw [takeFrom_held (by rw [hb]; exact List.cons_ne_nil _ _), hb, Ranges.low_cons, if_neg (by omega), if_pos (by omega)]
  unfold State.workStage at hh
  rw [claimTicket_dealt hlaunch hdet, hh, takeFrom_empty hempty hinner, low_one_of_more [] (by omega)]
  rfl

/-- One for which no holder takes part takes from the field counter. -/
theorem claimTicket_field (hh : (s.workStage k).holders = []) :
    let c := s.copseAt (copseOf k)
    let q := (s.workStage k).takeField (fieldOfCore c.core) 1
    s.claimTicket k = (firstTicket q.1, s.setStage c.launch c.stage q.2) := by
  unfold State.workStage at hh
  rw [claimTicket_dealt hlaunch hdet, hh]
  rfl
end

/-- From a field counter a claim has its lowest ticket. -/
theorem firstTicket_takeField {st : Stage} {f t : Nat} {x : Ranges} (hok : ∀ g, (st.counter g).ok) (hx : (st.takeField f 1).1 = some x)
    (ht : x.has t) : firstTicket (some x) = some t := by
  obtain ⟨r, hr, rfl⟩ := takeField_low hok hx
  obtain ⟨b, y, e⟩ := Ranges.low_one hr ht
  rw [e]
  rfl

/-- Which holder a ticket comes from (R74). -/
theorem claimTicket_from (s : State) (k : Nat) : let c := s.copseAt (copseOf k)
    let l := s.launchAt c.launch
    let st := l.stageAt c.stage
    c.launch ≠ 0 → l.det = false →
      let names (d : BitVec 3) : Prop := ∃ x ∈ st.claimed, x.2.dom = d
      let r := s.claimTicket k
      (names 2 → ∀ a b y, c.block = (a, b) :: y → a + 1 < b →
        r.1 = some a ∧ (r.2.copseAt (copseOf k)).block = (a + 1, b) :: y ∧ r.2.coreBlock c = s.coreBlock c ∧ r.2.launches = s.launches) ∧
      (¬names 2 → names 3 → ∀ a b y, s.coreBlock c = (a, b) :: y → a + 1 < b →
        r.1 = some a ∧ r.2.coreBlock c = (a + 1, b) :: y ∧ r.2.clusterBlock c = s.clusterBlock c ∧ r.2.launches = s.launches) ∧
      (¬names 2 → ¬names 3 → names 4 → ∀ a b y, s.clusterBlock c = (a, b) :: y → a + 1 < b →
        r.1 = some a ∧ r.2.clusterBlock c = (a + 1, b) :: y ∧ r.2.launches = s.launches) ∧
      (names 2 → names 3 → c.block = [] → ∀ a b y, s.coreBlock c = (a, b) :: y → 1 < st.blk 2 → a + st.blk 2 < b →
        r.1 = some a ∧ (r.2.copseAt (copseOf k)).block = [(a + 1, a + st.blk 2)] ∧ r.2.coreBlock c = (a + st.blk 2, b) :: y) ∧
      (¬names 2 → ¬names 3 → ¬names 4 → c.stage < l.stages.length → let q := st.takeField (fieldOfCore c.core) 1
        (q.1 = none → r.1 = none) ∧ (r.2.stage c.launch c.stage).counters = q.2.counters ∧
        ∀ x t, (∀ f, (st.counter f).ok) → q.1 = some x → x.has t → r.1 = some t) := by
  intro c l st hlaunch hdet names r
  have hyes : ∀ d : BitVec 3, names d → st.namesDom d.toNat = true := fun d => (namesDom_iff st d).mpr
  have hno : ∀ d : BitVec 3, ¬names d → ¬st.namesDom d.toNat = true := fun d => mt (namesDom_iff st d).mp
  have hcopse : s.heldBlock (copseOf k) 2 = c.block := rfl
  have hcore : s.heldBlock (copseOf k) 3 = s.coreBlock c := rfl
  have hcluster : s.heldBlock (copseOf k) 4 = s.clusterBlock c := rfl
  refine ⟨fun h2 a b y hb hab => ?_, fun h2 h3 a b y hb hab => ?_, fun h2 h3 h4 a b y hb hab => ?_, fun h2 h3 hempty a b y hb hblk hab => ?_,
    fun h2 h3 h4 hlen => ?_⟩
  · have hr : r = _ := claimTicket_held hlaunch hdet (List.filter_cons_of_pos (hyes 2 h2)) (hcopse.trans hb) hab
    obtain ⟨hblock, hcores, hl⟩ := setBlock_copse s (copseOf k) ((a + 1, b) :: y)
    rw [hr]
    exact ⟨rfl, hblock, hcores c, hl⟩
  · have hr : r = _ := claimTicket_held hlaunch hdet ((List.filter_cons_of_neg (hno 2 h2)).trans
      (List.filter_cons_of_pos (hyes 3 h3))) (hcore.trans hb) hab
    obtain ⟨hblock, hkept, hl, -⟩ := setBlock_core s (copseOf k) (a + 1, b) y
    rw [hr]
    exact ⟨rfl, hblock, hkept, hl⟩
  · have hr : r = _ := claimTicket_held hlaunch hdet ((List.filter_cons_of_neg (hno 2 h2)).trans
      ((List.filter_cons_of_neg (hno 3 h3)).trans (List.filter_cons_of_pos (hyes 4 h4)))) (hcluster.trans hb) hab
    obtain ⟨hblock, hl⟩ := setBlock_cluster s (copseOf k) (a + 1, b) y
    rw [hr]
    exact ⟨rfl, hblock, hl⟩
  · have hr : r = _ := claimTicket_refilled hlaunch hdet ((List.filter_cons_of_pos (hyes 2 h2)).trans (congrArg _
      (List.filter_cons_of_pos (hyes 3 h3)))) (hcopse.trans hempty) (hcore.trans hb) hblk hab
    obtain ⟨hblock, -, -, hcopses⟩ := setBlock_core s (copseOf k) (a + st.blk 2, b) y
    obtain ⟨hown, hcores, -⟩ := setBlock_copse (s.setBlock (copseOf k) 3 ((a + st.blk 2, b) :: y)) (copseOf k) [(a + 1, a + st.blk 2)]
    rw [hr]
    exact ⟨rfl, hown, (hcores c).trans hblock⟩
  · have hholders : st.holders = [] := (List.filter_cons_of_neg (hno 2 h2)).trans
      ((List.filter_cons_of_neg (hno 3 h3)).trans (List.filter_cons_of_neg (hno 4 h4)))
    have hr : r = _ := claimTicket_field hlaunch hdet hholders
    intro q
    rw [hr]
    refine ⟨fun hnone => ?_, by rw [stage_setStage s _ hlen]; rfl, fun x t hok hx ht => ?_⟩
    · show firstTicket q.1 = none
      rw [hnone]
      rfl
    · show firstTicket q.1 = some t
      rw [hx]
      exact firstTicket_takeField hok hx ht

/-! ### The word (R76, R85) -/

section
variable {f : A64} {s : State}

theorem claim_form (f : A64) (s : State) : wordOf (.claim f) s = some (formClaim f, bodyClaim f) := rfl

/-- The results of a claim. -/
def claimPend (f : A64) (t : Nat) (b : Bool) (on : PendOn) : Pend :=
  { Pend.empty with on := on, sw := [(f.dst.num.toNat, BitVec.ofNat 64 t)], qw := [(f.sb.num.toNat, b)] }

/-- The machine that has released what R76 asks for takes the ticket, and hands on and acquires what other claims released. -/
def State.takeTicket (s : State) (t : Nat) (m : Byte) : State :=
  let u := (s.claimTicket s.cur).2
  let n := 16 * u.myCopse.launch + u.myCopse.stage
  (((u.setStand s.cur { u.standAt s.cur with ticket := some t, current := true }).handOver objClaim n s.cur m).takeOver objClaim n s.cur m).acquire s.cur m

theorem bodyClaim_none {u : State} (h : s.claimTicket s.cur = (none, u)) :
    bodyClaim f s = .long (u.setStand s.cur { u.standAt s.cur with current := false }) (claimPend f 0 false .ready) := by
  unfold bodyClaim
  simp only [h]
  rfl

section
variable {x : Nat} (h : (s.claimTicket s.cur).1 = some x)
include h

/-- A claim with a ticket starts once the release that its levels ask for is performed; the first of a stand releases nothing. -/
theorem bodyClaim_takes {r : State}
    (hrel : (if s.me.ticket.isNone then (true, s) else s.release s.cur ((s.stageOf (copseOf s.cur)).claimMask s.me.ticket x)) = (true, r))
    (hcur : r.cur = s.cur) :
    bodyClaim f s = .long (r.takeTicket x ((s.stageOf (copseOf s.cur)).claimMask s.me.ticket x))
      (claimPend f x true (.claim ((s.stageOf (copseOf s.cur)).digitsOf x))) := by
  obtain ⟨u, hu⟩ : ∃ u, s.claimTicket s.cur = (some x, u) := ⟨_, Prod.ext h rfl⟩
  unfold bodyClaim
  simp only [hu, hrel, State.takeTicket, hcur]
  rfl

theorem bodyClaim_waits {r : State} (hold : s.me.ticket ≠ none)
    (hrel : s.release s.cur ((s.stageOf (copseOf s.cur)).claimMask s.me.ticket x) = (false, r)) : bodyClaim f s = .stay r := by
  obtain ⟨u, hu⟩ : ∃ u, s.claimTicket s.cur = (some x, u) := ⟨_, Prod.ext h rfl⟩
  have hsome : s.me.ticket.isNone = false := by
    cases ht : s.me.ticket with
    | none => exact absurd ht hold
    | some _ => rfl
  unfold bodyClaim
  simp only [hu, hsome, Bool.false_eq_true, if_false, hrel]
end

/-- Taking the ticket leaves the stand's registers and sets its ticket. -/
theorem takeTicket_me (s : State) (t : Nat) (m : Byte) : (s.takeTicket t m).cur = s.cur ∧ SameRegs s.me (s.takeTicket t m).me ∧
    (s.takeTicket t m).me.ticket = some t := by
  obtain ⟨hcur, hst⟩ := claimTicket_stands s s.cur
  obtain ⟨u, hu⟩ : ∃ u, u = (s.claimTicket s.cur).2 := ⟨_, rfl⟩
  rw [← hu] at hcur hst
  obtain ⟨v, hv⟩ : ∃ v, v = u.setStand s.cur { u.standAt s.cur with ticket := some t, current := true } := ⟨_, rfl⟩
  obtain ⟨w, hw, hframe⟩ : ∃ w, s.takeTicket t m = w ∧ MemFrame v w :=
    ⟨_, rfl, by rw [hv, hu]; exact ((memFrame_handOver ..).trans (memFrame_takeOver ..)).trans (memFrame_acquire ..)⟩
  rw [hw]
  obtain ⟨⟨-, hwcur, -⟩, hstands, -⟩ := hframe
  have hvcur : v.cur = s.cur := by rw [hv]; exact hcur
  obtain ⟨n, en⟩ := hst s.cur
  obtain ⟨pa, epa⟩ := hstands s.cur
  have hme : w.me = w.standAt s.cur := by rw [me_eq, hwcur, hvcur]
  rw [hv, setStand_standAt, en] at epa
  rw [hme, epa, hwcur, hvcur]
  exact ⟨rfl, ⟨rfl, rfl, rfl, rfl, rfl, rfl, rfl, rfl⟩, rfl⟩

/-- A started uniform word leaves the stand the ticket that its effect gave it. -/
theorem started_ticket {i : Instr} {u : State} {m : Form} {b : State → Eff} {p : Pend} (hw : wordOf i s = some (m, b))
    (hu : m.h.uni = true) (hc : m.control = false) (hcur : u.cur = s.cur) : (started s u i p).me.ticket = u.me.ticket := by
  obtain ⟨w, hwin⟩ : ∃ w, w = u.ownWindow s.cur s.stale.length := ⟨_, rfl⟩
  have hwcur : w.cur = s.cur := by rw [hwin]; exact hcur
  have hstand : w.standAt s.cur = u.me := by rw [hwin, me_eq, hcur]; rfl
  have ht : started s u i p = w.start s.cur i m s.me p := by simp only [started, hw, hwin]
  have hlocal := localFrame_start w i m s.me p
  rw [hwcur] at hlocal
  obtain ⟨place, clpos, e⟩ := start_standAt w s.cur i s.me p hu hc
  rw [ht, me_eq, hlocal.cur_eq, hwcur, e, hstand]

section
variable (ha : Acts s (.claim f))
include ha

theorem claim_leaves {u : State} {p : Pend} (hb : bodyClaim f s = .long u p) (hcur : u.cur = s.cur) (hr : SameRegs s.me u.me) :
    ∃ t, LeavesPending (.claim f) s t p ∧ t.me.ticket = u.me.ticket := by
  have hu : f.h.uni = true := by
    simpa using acts_not_bad (claim_form f s) ha (show onlyUni f.h ∈ (formClaim f).bad from List.mem_cons_self)
  obtain ⟨hleaves, -⟩ := leavesPending_started (claim_form f s) ha rfl hu rfl hb hcur hr
  exact ⟨_, hleaves, started_ticket (claim_form f s) hu rfl hcur⟩

/-- A claim without a ticket leaves zero and false outstanding (R85). -/
theorem claim_noTicket (h : (s.claimTicket s.cur).1 = none) :
    ∃ t, LeavesPending (.claim f) s t (claimPend f 0 false .ready) ∧ t.me.ticket = s.me.ticket := by
  obtain ⟨hcur, hst⟩ := claimTicket_stands s s.cur
  obtain ⟨u, hu⟩ : ∃ u, s.claimTicket s.cur = (none, u) := ⟨_, Prod.ext h rfl⟩
  rw [hu] at hcur hst
  obtain ⟨n, en⟩ := hst s.cur
  obtain ⟨v, hv, hb⟩ : ∃ v, v = u.setStand s.cur { u.standAt s.cur with current := false } ∧
      bodyClaim f s = .long v (claimPend f 0 false .ready) := ⟨_, rfl, bodyClaim_none hu⟩
  have hvcur : v.cur = s.cur := by rw [hv]; exact hcur
  have hme : v.me = { s.me with claims := n, current := false } := by
    rw [me_eq, hvcur, hv, setStand_standAt, en]
    rfl
  obtain ⟨t, hleaves, hticket⟩ := claim_leaves ha hb hvcur (by rw [hme]; exact ⟨rfl, rfl, rfl, rfl, rfl, rfl, rfl, rfl⟩)
  exact ⟨t, hleaves, by rw [hticket, hme]⟩

variable {x : Nat} (h : (s.claimTicket s.cur).1 = some x)
include h

/-- One with a ticket whose release is performed takes it (R76). -/
theorem claim_takes (hrel : s.me.ticket = none ∨ (s.release s.cur ((s.stageOf (copseOf s.cur)).claimMask s.me.ticket x)).1 = true) :
    ∃ t, LeavesPending (.claim f) s t (claimPend f x true (.claim ((s.stageOf (copseOf s.cur)).digitsOf x))) ∧ t.me.ticket = some x := by
  obtain ⟨m, hm⟩ : ∃ m, m = (s.stageOf (copseOf s.cur)).claimMask s.me.ticket x := ⟨_, rfl⟩
  rw [← hm] at hrel
  obtain ⟨r, hpair, hframe⟩ : ∃ r, (if s.me.ticket.isNone then (true, s) else s.release s.cur m) = (true, r) ∧ ReleaseFrame s r := by
    cases ht : s.me.ticket with
    | none => exact ⟨s, rfl, releaseFrame_refl s⟩
    | some o =>
      obtain htrue := hrel.resolve_left (by rw [ht]; exact Option.some_ne_none o)
      exact ⟨_, Prod.ext htrue rfl, releaseFrame_release s s.cur m⟩
  obtain ⟨paths, markers, rel, wait, hme⟩ := hframe.me
  obtain ⟨⟨hcur, -⟩, -⟩ := hframe
  rw [hm] at hpair
  have hb := bodyClaim_takes (f := f) h hpair hcur
  obtain ⟨htcur, hregs, hticket⟩ := takeTicket_me r x ((s.stageOf (copseOf s.cur)).claimMask s.me.ticket x)
  rw [hme] at hregs
  obtain ⟨t, hleaves, ht⟩ := claim_leaves ha hb (htcur.trans hcur) hregs
  exact ⟨t, hleaves, ht.trans hticket⟩

/-- One whose release is not performed waits. -/
theorem claim_waits (hold : s.me.ticket ≠ none) (hrel : (s.release s.cur ((s.stageOf (copseOf s.cur)).claimMask s.me.ticket x)).1 = false) :
    ∃ t, exec (.claim f) s = .next t ∧ t.me.ticket = s.me.ticket ∧ t.me.pc = s.me.pc ∧ t.me.sr = s.me.sr ∧ t.me.pend = s.me.pend := by
  obtain ⟨r, hpair, hframe⟩ : ∃ r, s.release s.cur ((s.stageOf (copseOf s.cur)).claimMask s.me.ticket x) = (false, r) ∧ ReleaseFrame s r :=
    ⟨_, Prod.ext hrel rfl, releaseFrame_release ..⟩
  obtain ⟨paths, markers, rel, wait, hme⟩ := hframe.me
  obtain ⟨⟨hcur, -⟩, -⟩ := hframe
  refine ⟨_, exec_stayed (claim_form f s) ha (bodyClaim_waits h hold hpair), ?_⟩
  rw [me_eq, hcur] at hme
  simp only [State.stalled, me_eq, setStand_cur, hcur, setStand_standAt, hme, and_self]
end
end

/-! ### Its completion (R41, R85) -/

/-- Digits written to the level registers. -/
theorem tget_digits (ls : List (Nat × Nat)) (t : Tbl Word64) (hn : (ls.map Prod.fst).Nodup) {l x : Nat} (h : (l, x) ∈ ls) :
    tget 0 (tputs (ls.map fun l => (l.1, BitVec.ofNat 64 l.2)) t) l = BitVec.ofNat 64 x := by
  refine tget_tputs_mem 0 t (List.mem_map.mpr ⟨_, h, rfl⟩) fun y hy e => ?_
  obtain ⟨z, hz, rfl⟩ := List.mem_map.mp hy
  rw [List.inj_on_of_nodup_map hn hz h e]

/-- Settles O25: a claim has the lowest ticket of the first holder asked, and its results and digits are written on completion. -/
theorem claimTakesTheNextTicket : Obligations.ClaimTakesTheNextTicket := by
  unfold Obligations.ClaimTakesTheNextTicket
  refine ⟨fun f s ha => ⟨claim_noTicket ha, fun x h => ⟨claim_takes ha h, claim_waits ha h⟩⟩, fun s k => ?_, fun st f n _ hok _ => ?_, ?_⟩
  · intro c l st
    refine ⟨fun h => by rw [claimTicket_idle h], fun h hdet => ?_, claimTicket_from s k⟩
    rw [claimTicket_det h hdet]
    exact ⟨rfl, by rw [setStand_standAt]⟩
  · obtain ⟨henough, hdonor⟩ := takeField_parts (f := f) (n := n) hok
    exact ⟨henough, fun hfew hnone => takeField_none hfew hnone, hdonor⟩
  · intro s k n p ls hp hon hres hbefore hn
    obtain ⟨u, hu⟩ : ∃ u, u = s.setStand k { s.standAt k with lvl := tputs (ls.map fun l => (l.1, BitVec.ofNat 64 l.2)) (s.standAt k).lvl } := ⟨_, rfl⟩
    have hdone : s.pendDone k p = (some p, u) := by
      unfold State.pendDone
      simp only [hon, hu]
    obtain ⟨t, r, fl, hexec, e, -⟩ := completed_standAt hp hres hbefore hdone
    have hlvl : (t.standAt k).lvl = tputs (ls.map fun l => (l.1, BitVec.ofNat 64 l.2)) (s.standAt k).lvl := by
      rw [e, hu, setStand_standAt]
      rfl
    have hsr : (t.standAt k).sr = tputs (r.landing p).sw (s.standAt k).sr := by
      rw [e, hu, setStand_standAt]
      rfl
    refine ⟨t, hexec, fun l x hx => ?_, fun l hl => ?_, fun d x hsw hsl => ?_⟩
    · rw [hlvl]
      exact tget_digits ls _ hn hx
    · rw [hlvl]
      exact tget_tputs_other 0 _ (by simpa using hl)
    · rw [hsr, landing_sw hsl, hsw]
      exact tget_tset_self ..

end Sys2Proof.Machine
end

section
/-! SUPPORT. Fault records and events (spec/17 R398, spec/19 R443, R445). -/

namespace Sys2Proof.Machine

/-! ### Records as bits (R398) -/

/-- Powers past 256 in factors, each small enough to be computed. -/
theorem two_pow_split (n : Nat) : 2 ^ (n + 257) = 2 ^ (n + 1) * 2 ^ 256 := Nat.pow_add 2 (n + 1) 256

/-- The fields of a record, as a number and as bits. -/
theorem toBits_eq_recordBits (r : FaultRec) : r.toBits = (recordBits r).toNat := by
  simp only [FaultRec.toBits, recordBits, toNat_append_add, BitVec.toNat_ofBool, BitVec.ofNat_eq_ofNat, BitVec.toNat_ofNat, two_pow_split]
  ring

theorem s0_toNat (r : FaultRec) : r.s0.toNat = r.cls.toNat + r.cause.toNat * 2 ^ 8 + r.sm.toNat * 2 ^ 16 + r.akind.toNat * 2 ^ 24
    + r.space.toNat * 2 ^ 28 + r.ckind.toNat * 2 ^ 29 + r.defer.toNat * 2 ^ 31 + r.stand.toNat * 2 ^ 32 := by
  simp only [FaultRec.s0, toNat_append_add, BitVec.toNat_ofBool, BitVec.ofNat_eq_ofNat, BitVec.toNat_ofNat]
  ring

/-- s0 at entry is bits 255:192 of the record (R400). -/
theorem s0_eq_recordBits (r : FaultRec) : r.s0 = (recordBits r).extractLsb' 192 64 := by
  apply BitVec.eq_of_toNat_eq
  have hlow : r.npc.toNat + r.othpc.toNat * 2 ^ 64 + r.addr.toNat * 2 ^ 128 < 2 ^ 192 := by
    have := r.npc.isLt
    have := r.othpc.isLt
    have := r.addr.isLt
    omega
  obtain ⟨high, hhigh⟩ : ∃ high, r.toBits = r.npc.toNat + r.othpc.toNat * 2 ^ 64 + r.addr.toNat * 2 ^ 128 + (r.s0.toNat + high * 2 ^ 64) * 2 ^ 192 := by
    refine ⟨r.cont.toNat + r.copse.toNat * 2 ^ 64 + r.lsite.toNat * 2 ^ 128 + r.pfx.toNat * 2 ^ 192 + r.pfy.toNat * 2 ^ 196 + r.pcl.toNat * 2 ^ 200
      + r.pcore.toNat * 2 ^ 208 + r.fmask.toNat * 2 ^ 256 + r.iw.toNat * 2 ^ 384 + r.aux.toNat * 2 ^ 512 + r.tseq.toNat * 2 ^ 576, ?_⟩
    simp only [s0_toNat, FaultRec.toBits, two_pow_split]
    ring
  have hs0 := r.s0.isLt
  rw [BitVec.extractLsb'_toNat, ← toBits_eq_recordBits, hhigh, Nat.shiftRight_eq_div_pow, Nat.add_mul_div_right _ _ (Nat.two_pow_pos 192),
    Nat.div_eq_of_lt hlow, Nat.zero_add, Nat.add_mul_mod_self_right, Nat.mod_eq_of_lt hs0]

/-- A byte of a record as memory holds it. -/
theorem byteOf_recordBits (r : FaultRec) (i : Nat) : BitVec.ofNat 8 (r.toBits / 256 ^ i) = (recordBits r).extractLsb' (8 * i) 8 := by
  apply BitVec.eq_of_toNat_eq
  rw [BitVec.toNat_ofNat, BitVec.extractLsb'_toNat, toBits_eq_recordBits, Nat.shiftRight_eq_div_pow, Nat.pow_mul]

/-! ### Posting an event (R443, R445) -/

theorem memGet_record (m : Mem) (base : Nat) (r : FaultRec) (a : Nat) :
    memGet (memWrite m base r.toBits 128) a = if base ≤ a ∧ a < base + 128 then (recordBits r).extractLsb' (8 * (a - base)) 8 else memGet m a := by
  split
  · next h =>
    obtain ⟨i, rfl⟩ := Nat.exists_eq_add_of_le h.1
    rw [memGet_memWrite 128 m base _ i (by omega), byteOf_recordBits, Nat.add_sub_cancel_left]
  · next h => exact memGet_memWrite_other 128 m base _ a (by omega)

/-- The event ring has room and holds nothing back. -/
def Vi.takesEvent (v : Vi) : Bool := v.eq.on && !v.eq.full && v.eqHeld == []

theorem takesEvent_iff (v : Vi) : v.takesEvent = true ↔ 4 ≤ v.eq.logn.toNat ∧ v.eq.logn.toNat ≤ 12 ∧
    (v.eq.dptr.toNat + 1) % 2 ^ v.eq.logn.toNat ≠ v.eq.hptr.toNat % 2 ^ v.eq.logn.toNat ∧ v.eqHeld = [] := by
  simp [Vi.takesEvent, Ring.on, Ring.full, Ring.size, and_assoc]

theorem eventPosted_postEvent (s : State) (vi : Nat) (r : FaultRec) : EventPosted s (s.postEvent vi r) vi r := by
  unfold EventPosted State.postEvent Vi.event
  simp only [← takesEvent_iff]
  refine ⟨fun htakes => ?_, fun hheld => ?_⟩
  · have htakes' : ((s.viAt vi).eq.on && !(s.viAt vi).eq.full && (s.viAt vi).eqHeld == []) = true := htakes
    obtain ⟨-, -, -, hempty⟩ := (takesEvent_iff (s.viAt vi)).mp htakes
    simp only [if_pos htakes', setVi_viAt, setVi_hostMem]
    refine ⟨rfl, trivial, hempty, fun a => ?_⟩
    rw [Nat.mul_comm 4096]
    exact memGet_record ..
  · have hheld' : ¬((s.viAt vi).eq.on && !(s.viAt vi).eq.full && (s.viAt vi).eqHeld == []) = true := hheld
    simp only [if_neg hheld', setVi_viAt, setVi_hostMem, and_self]

/-- What the event is posted to are the interface's ring and the host's memory. -/
theorem EventPosted.of_same {s u t : State} {vi : Nat} {r : FaultRec} (h : EventPosted u t vi r) (hv : u.vis = s.vis)
    (hm : u.hostMem = s.hostMem) : EventPosted s t vi r := by
  unfold EventPosted at h ⊢
  simp only [State.viAt, hv, hm] at h
  exact h

/-- Posting changes nothing but the interfaces and the host's memory. -/
theorem postEvent_keeps (s : State) (vi : Nat) (r : FaultRec) : (s.postEvent vi r).stands = s.stands ∧ (s.postEvent vi r).copses = s.copses ∧
    (s.postEvent vi r).cores = s.cores ∧ (s.postEvent vi r).launches = s.launches ∧ (s.postEvent vi r).groves = s.groves ∧
    (s.postEvent vi r).dir = s.dir ∧ (s.postEvent vi r).frames = s.frames ∧ (s.postEvent vi r).posted = s.posted := by
  simp [State.postEvent]

end Sys2Proof.Machine
end

section
/-! SUPPORT. What ending a stand's copies and memberships leaves of the stand (spec/14 R325, spec/15 R358, spec/16 R374, R378, spec/17 R401). -/

namespace Sys2Proof.Machine

/-! ### Operations that spare a stand which waits on nothing -/

/-- Two copses work for the same launch through the same interface. -/
def SameOwner (c d : Copse) : Prop := d.maint = c.maint ∧ d.launch = c.launch ∧ d.vi = c.vi

/-- A stand that waits on nothing stays as it is but for its path set, and so do launches, copses' owners, interfaces and the host's memory. -/
def Spares (k : Nat) (s t : State) : Prop :=
  ((s.standAt k).wait = .none → ∃ x, t.standAt k = { s.standAt k with paths := x }) ∧
    (t.vis = s.vis ∧ t.hostMem = s.hostMem ∧ t.launches = s.launches) ∧ ∀ c, SameOwner (s.copseAt c) (t.copseAt c)

section
variable {k : Nat}

theorem spares_refl (s : State) : Spares k s s := ⟨fun _ => ⟨_, rfl⟩, by simp, fun _ => by simp [SameOwner]⟩

theorem Spares.trans {s t u : State} (h : Spares k s t) (h' : Spares k t u) : Spares k s u := by
  obtain ⟨hst, hf, hc⟩ := h
  obtain ⟨hst', hf', hc'⟩ := h'
  refine ⟨fun hwait => ?_, by simp only [hf', hf, and_self], fun c => ?_⟩
  · obtain ⟨x, e⟩ := hst hwait
    obtain ⟨y, e'⟩ := hst' (by rw [e]; exact hwait)
    exact ⟨y, by rw [e', e]⟩
  · obtain ⟨hm, hl, hv⟩ := hc c
    obtain ⟨hm', hl', hv'⟩ := hc' c
    exact ⟨hm'.trans hm, hl'.trans hl, hv'.trans hv⟩

theorem spares_foldl {β : Type} {f : State → β → State} {l : List β} (h : ∀ s, ∀ x ∈ l, Spares k s (f s x)) (s : State) :
    Spares k s (l.foldl f s) := by
  induction l generalizing s with
  | nil => exact spares_refl s
  | cons x l ih => exact (h s x List.mem_cons_self).trans (ih (fun s y hy => h s y (List.mem_cons_of_mem _ hy)) _)

theorem MemFrame.spares {s t : State} (h : MemFrame s t) : Spares k s t := by
  obtain ⟨⟨-, -, -, -, -, -, -, hvis, -, hcopses, hlaunches, -, -, -, -, hhost, -⟩, hst, -⟩ := h
  refine ⟨fun _ => hst k, ⟨hvis, hhost, hlaunches⟩, fun c => ?_⟩
  have hsame : t.copseAt c = s.copseAt c := by simp only [State.copseAt, hcopses]
  rw [hsame]
  exact ⟨rfl, rfl, rfl⟩

theorem spares_setStand_ne (s : State) {j : Nat} (x : Stand) (h : j ≠ k) : Spares k s (s.setStand j x) :=
  ⟨fun _ => ⟨_, setStand_standAt_ne _ _ _ h.symm⟩, by simp, fun _ => by simp [SameOwner]⟩

/-- A stand that waits is another one. -/
theorem spares_setStand (s : State) {j : Nat} (x : Stand) (h : (s.standAt j).wait ≠ .none) : Spares k s (s.setStand j x) := by
  by_cases hj : j = k
  · subst hj
    exact ⟨fun hwait => absurd hwait h, by simp, fun _ => by simp [SameOwner]⟩
  · exact spares_setStand_ne s x hj

theorem spares_setCopse {s : State} {copse : Nat} {c : Copse} (h : SameOwner (s.copseAt copse) c) : Spares k s (s.setCopse copse c) := by
  refine ⟨fun _ => ⟨_, rfl⟩, by simp, fun j => ?_⟩
  rw [setCopse_copseAt_at]
  split
  · next e => subst e; exact h
  · exact ⟨rfl, rfl, rfl⟩

/-! ### Records (R358, R364) -/

theorem spares_setRec (s : State) (copse o r : Nat) : Spares k s (s.setRec copse o r) := spares_setCopse ⟨rfl, rfl, rfl⟩

theorem spares_wakeRec (s : State) (j : Nat) (status : Bool) : Spares k s (s.wakeRec j status) := by
  unfold State.wakeRec
  simp only
  split
  · next h => exact spares_setStand s _ (by rw [h]; exact Wait.noConfusion)
  · next h => exact spares_setStand s _ (by rw [h]; exact Wait.noConfusion)
  · exact spares_refl s

theorem spares_releaseHeld (s : State) (j o ph : Nat) (ends : Bool) : Spares k s (s.releaseHeld j o ph ends) := by
  unfold State.releaseHeld
  simp only
  split
  · next h => exact spares_setStand s _ (by rw [h]; exact Wait.noConfusion)
  · next h =>
    have hset := fun x => spares_setStand (k := k) s (j := j) x (by rw [h]; exact Wait.noConfusion)
    split
    · exact (hset _).trans (spares_wakeRec ..)
    · exact hset _
  · exact spares_refl s

theorem spares_recComplete (s : State) (copse o : Nat) (broken : Bool) : Spares k s (s.recComplete copse o broken) := by
  unfold State.recComplete
  simp only
  exact ((spares_foldl (fun s j _ => spares_wakeRec s _ _) s).trans (spares_setRec ..)).trans (spares_foldl (fun s j _ => spares_releaseHeld s ..) _)

theorem spares_recCheck (copse o n : Nat) (s : State) : Spares k s (s.recCheck copse o n) := by
  induction n generalizing s with
  | zero => exact spares_refl s
  | succ n ih =>
    unfold State.recCheck
    simp only
    split
    · exact (spares_recComplete ..).trans (ih _)
    · exact spares_refl s

theorem spares_recBreak (s : State) (copse o slot : Nat) : Spares k s (s.recBreak copse o slot) := by
  unfold State.recBreak
  simp only
  split
  · exact (spares_recComplete ..).trans (spares_recCheck ..)
  · exact spares_refl s

/-! ### Copies (R325, R331) -/

theorem spares_wakeCopies (s : State) (copse : Nat) : Spares k s (s.wakeCopies copse) := by
  unfold State.wakeCopies
  refine spares_foldl (fun t j _ => ?_) s
  simp only
  split
  · next h =>
    split
    · exact spares_refl t
    · exact spares_setStand t _ (by rw [h]; exact Wait.noConfusion)
  · exact spares_refl t

theorem spares_copyEnd (s : State) (copse seq : Nat) (status : BitVec 2) : Spares k s (s.copyEnd copse seq status) := by
  unfold State.copyEnd
  simp only
  split
  · exact spares_refl s
  · split
    · exact spares_setCopse ⟨rfl, rfl, rfl⟩
    · exact (spares_setCopse (c := (s.copseAt copse).dropCopy seq) ⟨rfl, rfl, rfl⟩).trans (spares_wakeCopies ..)

/-- Lines that lose their filler leave the copse its owner. -/
theorem sameOwner_emptied (seq : Nat) (ls : List Nat) (c : Copse) : SameOwner c (ls.foldl (fun c l =>
    let y := c.lineAt l
    if y.filler = some (.copy seq) then c.setLine l { y with filler := none } else c) c) := by
  refine List.foldlRecOn ls _ ⟨rfl, rfl, rfl⟩ fun d hd l _ => ?_
  simp only
  split
  · exact hd
  · exact hd

/-- Cancelling a copy. -/
theorem spares_copyCancel (s : State) (copse seq : Nat) (status : BitVec 2) : Spares k s (s.copyCancel copse seq status) := by
  unfold State.copyCancel
  simp only
  split
  · exact spares_refl s
  · next x _ =>
    split
    · exact spares_refl s
    · have hset := spares_setCopse (k := k) (s := s) (copse := copse) (sameOwner_emptied seq x.restLines (s.copseAt copse))
      refine Spares.trans ?_ (spares_copyEnd ..)
      split
      · exact hset.trans (spares_recBreak ..)
      · exact hset

/-! ### Groves (R374, R378) -/

/-- No member of the grove is the stand. -/
def Grove.lacks (g : Grove) (k : Nat) : Prop := ∀ m ∈ g.members, m.stand ≠ k

theorem member_eq_none_iff (g : Grove) : g.member k = none ↔ g.lacks k := by
  simp [Grove.member, Grove.lacks, List.find?_eq_none]

/-- An operation on one grove of which the stand is no member. -/
def GroveSpares (key k : Nat) (s t : State) : Prop :=
  Spares k s t ∧ ((s.groveAt key).lacks k → (t.groveAt key).lacks k) ∧ ∀ j, j ≠ key → t.groveAt j = s.groveAt j

variable {key : Nat}

theorem groveSpares_refl (s : State) : GroveSpares key k s s := ⟨spares_refl s, id, fun _ _ => rfl⟩

theorem GroveSpares.trans {s t u : State} (h : GroveSpares key k s t) (h' : GroveSpares key k t u) : GroveSpares key k s u :=
  ⟨h.1.trans h'.1, h'.2.1 ∘ h.2.1, fun j hj => (h'.2.2 j hj).trans (h.2.2 j hj)⟩

theorem groveSpares_of_groves {s t : State} (h : Spares k s t) (hg : t.groves = s.groves) : GroveSpares key k s t :=
  have hsame : ∀ j, t.groveAt j = s.groveAt j := fun j => by simp only [State.groveAt, hg]
  ⟨h, fun hlacks => by rw [hsame]; exact hlacks, fun j _ => hsame j⟩

theorem groveSpares_foldl {β : Type} {f : State → β → State} {l : List β} (h : ∀ s, ∀ x ∈ l, GroveSpares key k s (f s x)) (s : State) :
    GroveSpares key k s (l.foldl f s) := by
  induction l generalizing s with
  | nil => exact groveSpares_refl s
  | cons x l ih => exact (h s x List.mem_cons_self).trans (ih (fun s y hy => h s y (List.mem_cons_of_mem _ hy)) _)

/-- Another stand's observing a completion. -/
theorem groveSpares_observe (s : State) {j : Nat} (hj : j ≠ k) (scope : Byte) (res : List Nat) : GroveSpares key k s (s.observe key j scope res) := by
  have hset := spares_setStand_ne s ((s.standAt j).wakeGrove res) hj
  have htake : MemFrame _ _ := memFrame_takeOver (s.setStand j ((s.standAt j).wakeGrove res)) objGrove key j scope
  obtain ⟨u, hu⟩ : ∃ u, u = (s.setStand j ((s.standAt j).wakeGrove res)).takeOver objGrove key j scope := ⟨_, rfl⟩
  rw [← hu] at htake
  have hframe : MemFrame (s.setStand j ((s.standAt j).wakeGrove res)) (if maskFull scope = maskCO then u else u.invalidateL1 (u.coreOf j)) :=
    memFrame_ite htake (htake.trans (memFrame_invalidateL1 ..))
  unfold State.observe
  simp only [← hu]
  refine groveSpares_of_groves (hset.trans hframe.spares) ?_
  obtain ⟨⟨-, -, -, -, -, -, -, -, -, -, -, hgroves, -⟩, -⟩ := hframe
  exact hgroves

theorem arrivals_member {g : Grove} {a : Member × ArrKind × Word64} (h : a ∈ g.arrivals) : a.1 ∈ g.members := by
  obtain ⟨m, hm, e⟩ := List.mem_filterMap.mp h
  split at e
  · cases e
    exact hm
  · cases e

theorem openNext_lacks (g : Grove) (broken : Bool) (h : g.lacks k) : (g.applyCell.openNext broken).lacks k := by
  intro m hm
  obtain ⟨x, hx, rfl⟩ := List.mem_map.mp hm
  have hne := h x hx
  split
  · exact hne
  · split
    · exact hne
    · exact hne

/-- Completing a phase of a grove without the stand. -/
theorem groveSpares_complete (s : State) (broken : Bool) (h : (s.groveAt key).lacks k) : GroveSpares key k s (s.groveComplete key broken) := by
  have hset : ∀ g : Grove, g.lacks k → GroveSpares key k s (s.bump.setGrove key g) := fun g hg =>
    ⟨⟨fun _ => ⟨_, rfl⟩, ⟨rfl, rfl, rfl⟩, fun _ => ⟨rfl, rfl, rfl⟩⟩, fun _ => by rw [setGrove_groveAt]; exact hg,
      fun j hj => setGrove_groveAt_ne _ _ _ hj⟩
  unfold State.groveComplete
  simp only
  refine ((hset _ (openNext_lacks _ _ h)).trans (groveSpares_foldl (fun t a ha => groveSpares_observe t (h _ (arrivals_member ha)) _ _) _)).trans
    (groveSpares_foldl (fun t m hm => ?_) _)
  split
  · exact groveSpares_of_groves (spares_setStand_ne t _ (h m hm)) rfl
  · exact groveSpares_refl t

theorem groveSpares_settle (n : Nat) (s : State) (h : (s.groveAt key).lacks k) : GroveSpares key k s (s.groveSettle key n) := by
  induction n generalizing s with
  | zero => exact groveSpares_refl s
  | succ n ih =>
    unfold State.groveSettle
    split
    · have hc := groveSpares_complete s false h
      exact hc.trans (ih _ (hc.2.1 h))
    · exact groveSpares_refl s

/-- A stand that is removed is no member any more. -/
theorem groveRemove_lacks (s : State) (departs : Bool) : ((s.groveRemove key k departs).groveAt key).lacks k ∧
    Spares k s (s.groveRemove key k departs) ∧ ∀ j, j ≠ key → (s.groveRemove key k departs).groveAt j = s.groveAt j := by
  unfold State.groveRemove
  simp only
  split
  · next hnone => exact ⟨(member_eq_none_iff _).mp hnone, spares_refl s, fun _ _ => rfl⟩
  · next m _ =>
    obtain ⟨g, hg⟩ : ∃ g : Grove, g = { s.groveAt key with
        members := (s.groveAt key).members.filter (fun x => x.stand != k)
        contribs := (s.groveAt key).contribs.filter (fun c => c.stand != k)
        departed := (s.groveAt key).departed || (departs && m.st != .idle) } := ⟨_, rfl⟩
    have hlacks : g.lacks k := fun x hx => by
      rw [hg] at hx
      simpa using (List.mem_filter.mp hx).2
    rw [← hg]
    have hown : ((s.setGrove key g).groveAt key).lacks k := by
      rw [setGrove_groveAt]
      exact hlacks
    obtain ⟨hspares, hkept, hothers⟩ := groveSpares_settle (groveFuel ((s.setGrove key g).groveAt key)) (s.setGrove key g) hown
    have hset : Spares k s (s.setGrove key g) := ⟨fun _ => ⟨_, rfl⟩, ⟨rfl, rfl, rfl⟩, fun _ => ⟨rfl, rfl, rfl⟩⟩
    exact ⟨hkept hown, hset.trans hspares, fun j hj => (hothers j hj).trans (setGrove_groveAt_ne _ _ _ hj)⟩

/-- Removed from some groves, a stand is a member of none of them, and of no other that it was not one of. -/
theorem groveRemove_foldl (departs : Bool) (keys : List Nat) (s : State) :
    let t := keys.foldl (fun s j => s.groveRemove j k departs) s
    Spares k s t ∧ ∀ j, (t.groveAt j).lacks k ∨ (j ∉ keys ∧ t.groveAt j = s.groveAt j) := by
  induction keys generalizing s with
  | nil => exact ⟨spares_refl s, fun j => .inr ⟨List.not_mem_nil, rfl⟩⟩
  | cons key keys ih =>
    obtain ⟨hlacks, hspares, hothers⟩ := groveRemove_lacks (k := k) (key := key) s departs
    obtain ⟨hrest, hall⟩ := ih (s.groveRemove key k departs)
    refine ⟨hspares.trans hrest, fun j => ?_⟩
    obtain hj | ⟨hnot, hsame⟩ := hall j
    · exact .inl hj
    · by_cases hjk : j = key
      · subst hjk
        exact .inl (by rw [List.foldl_cons, hsame]; exact hlacks)
      · exact .inr ⟨fun hmem => (List.mem_cons.mp hmem).elim hjk hnot, hsame.trans (hothers j hjk)⟩

theorem mem_of_tfind {α : Type} {key : Nat} {v : α} : ∀ {t : Tbl α}, tfind key t = some v → (key, v) ∈ t
  | (j, a) :: r, h => by
    unfold tfind at h
    split at h
    · next e =>
      cases h
      exact e ▸ List.mem_cons_self
    · exact List.mem_cons_of_mem _ (mem_of_tfind h)

/-- A live grove that has the stand among its members is one of those that it leaves. -/
theorem mem_grovesWith {s : State} (hlive : (s.groveAt key).live = true) (hmem : (s.groveAt key).member k ≠ none) : key ∈ s.grovesWith k := by
  cases hfind : tfind key s.groves with
  | none =>
    rw [State.groveAt, tget, hfind] at hlive
    cases hlive
  | some g =>
    have hg : s.groveAt key = g := by rw [State.groveAt, tget, hfind]; rfl
    rw [hg] at hlive hmem
    exact List.mem_map.mpr ⟨_, List.mem_filter.mpr ⟨mem_of_tfind hfind, by simp [hlive, Option.isSome_iff_ne_none, hmem]⟩, rfl⟩

/-- A stand that leaves all its groves is a member of no live one (R378). -/
theorem leaveAll_members (s : State) (departs : Bool) : Spares k s (s.leaveAll k departs) ∧
    ∀ key, ((s.leaveAll k departs).groveAt key).live = true → ((s.leaveAll k departs).groveAt key).member k = none := by
  obtain ⟨hspares, hall⟩ := groveRemove_foldl (k := k) departs (s.grovesWith k) s
  refine ⟨hspares, fun key hlive => ?_⟩
  obtain hlacks | ⟨hnot, hsame⟩ := hall key
  · exact (member_eq_none_iff _).mpr hlacks
  · rw [show (s.leaveAll k departs).groveAt key = s.groveAt key from hsame] at hlive ⊢
    by_contra hmem
    exact hnot (mem_grovesWith hlive hmem)

end

end Sys2Proof.Machine
end

section
/-! SUPPORT. Taking a trap (spec/17 R400, R401, R404, R468): entry to a handler, halt, and termination. -/

namespace Sys2Proof.Machine

/-! ### The record and the handler (R398, R400) -/

theorem takeTrap_record (st : Stand) (r : FaultRec) : (if r.defer then r else { r with tseq := st.tseq }) = numbered st r := rfl

theorem numbered_fields (st : Stand) (r : FaultRec) : (numbered st r).cls = r.cls ∧ (numbered st r).npc = r.npc ∧ (numbered st r).addr = r.addr ∧
    (numbered st r).s0 = r.s0 ∧ (numbered st r).defer = r.defer := by
  unfold numbered
  split <;> exact ⟨rfl, rfl, rfl, rfl, rfl⟩

theorem handler_eq (s : State) (k : Nat) (cls : Byte) : s.handler k cls.toNat = handlerOf s k cls := by
  unfold State.handler handlerOf
  simp only
  cases hk : (s.copseAt (copseOf k)).kind with
  | sap => simp only [reduceCtorEq, if_false]
  | heart => simp only [if_true]

/-- Entry to a handler (R399, R400). -/
theorem enter_eq (st : Stand) (r : FaultRec) (kind : Kind) (h : Word64) : st.enter (numbered st r) kind h = entered st r kind h := by
  obtain ⟨-, hnpc, haddr, hs0, hdefer⟩ := numbered_fields st r
  unfold Stand.enter entered
  rw [hnpc, haddr, hs0, hdefer, s0_eq_recordBits]
  rfl

section
variable {s : State} {k : Nat} {r : FaultRec}

theorem takeTrap_enters (hh : handlerOf s k r.cls ≠ 0) (hroom : (s.standAt k).frames.length < 4) :
    s.takeTrap k r = s.setStand k (entered (s.standAt k) r (s.copseAt (copseOf k)).kind (BitVec.ofNat 64 (handlerOf s k r.cls))) := by
  unfold State.takeTrap
  simp only [takeTrap_record, numbered_fields, handler_eq]
  rw [if_neg (by omega), enter_eq]
  rfl

/-- The machine in which a synchronous trap has been counted (R398). -/
def State.numberedAt (s : State) (k : Nat) (r : FaultRec) : State := if r.defer then s else s.counted k

theorem numberedAt_standAt (s : State) (k : Nat) (r : FaultRec) :
    (s.numberedAt k r).standAt k = { s.standAt k with tseq := if r.defer then (s.standAt k).tseq else (s.standAt k).tseq + 1 } ∧
      ∀ j, j ≠ k → (s.numberedAt k r).standAt j = s.standAt j := by
  unfold State.numberedAt State.counted
  split
  · exact ⟨rfl, fun _ _ => rfl⟩
  · exact ⟨setStand_standAt .., fun j hj => setStand_standAt_ne _ _ _ hj⟩

theorem takeTrap_fails (hno : handlerOf s k r.cls = 0 ∨ (s.standAt k).frames.length = 4) : s.takeTrap k r =
    if r.cls = 0x0B then (s.numberedAt k r).haltStand k (numbered (s.standAt k) r) else (s.numberedAt k r).terminate k (numbered (s.standAt k) r) := by
  unfold State.takeTrap
  simp only [takeTrap_record, numbered_fields, handler_eq]
  rw [if_pos hno]
  rfl
end

/-! ### Halt (R404) -/

/-- Counting a trap changes the stand alone. -/
theorem numberedAt_keeps (s : State) (k : Nat) (r : FaultRec) : (s.numberedAt k r).copses = s.copses ∧ (s.numberedAt k r).cores = s.cores ∧
    (s.numberedAt k r).vis = s.vis ∧ (s.numberedAt k r).hostMem = s.hostMem ∧ (s.numberedAt k r).launches = s.launches ∧
    (s.numberedAt k r).dir = s.dir ∧ (s.numberedAt k r).frames = s.frames ∧ (s.numberedAt k r).posted = s.posted := by
  unfold State.numberedAt
  split
  · simp
  · exact ⟨rfl, rfl, rfl, rfl, rfl, rfl, rfl, rfl⟩

theorem haltStand_eq (s : State) (k : Nat) (r : FaultRec) : s.haltStand k r =
    (let c := s.copseAt (copseOf k)
    let v := s.setStand k { s.standAt k with life := .halted, trapWait := none }
    if c.maint then v.setCore c.core { s.coreAt c.core with stopped := true } else v.postEvent c.vi r) := rfl

/-- The stand halts, and its core stops or its record is posted (R404). -/
theorem halt_spec (s : State) (k : Nat) (r : FaultRec) :
    let c := s.copseAt (copseOf k)
    let t := s.haltStand k r
    t.standAt k = { s.standAt k with life := .halted, trapWait := none } ∧ (∀ j, j ≠ k → t.standAt j = s.standAt j) ∧ t.copses = s.copses ∧
      SameMemory s t ∧ (c.maint = true → t.cores = (s.setCore c.core { s.coreAt c.core with stopped := true }).cores ∧ t.vis = s.vis) ∧
      (c.maint = false → t.cores = s.cores ∧ EventPosted s t c.vi r) := by
  intro c t
  have ht : t = _ := haltStand_eq s k r
  obtain ⟨v, hv⟩ : ∃ v, v = s.setStand k { s.standAt k with life := .halted, trapWait := none } := ⟨_, rfl⟩
  simp only [← hv] at ht
  have hvk : v.standAt k = { s.standAt k with life := .halted, trapWait := none } := by rw [hv, setStand_standAt]
  have hvj : ∀ j, j ≠ k → v.standAt j = s.standAt j := fun j hj => by rw [hv, setStand_standAt_ne _ _ _ hj]
  have hmem : SameMemory s v := hv ▸ sameMemory_setStand s k _
  cases hm : c.maint with
  | true =>
    rw [if_pos hm] at ht
    rw [ht]
    refine ⟨hvk, hvj, by rw [hv]; rfl, hmem.trans (sameMemory_of_parts (fun j => ?_) rfl rfl rfl), fun _ => ⟨by rw [hv]; rfl, by rw [hv]; rfl⟩,
      fun h => absurd h (by decide)⟩
    rw [setCore_coreAt_at]
    split
    · next e => rw [e, hv]; rfl
    · rfl
  | false =>
    rw [if_neg (by rw [hm]; decide)] at ht
    obtain ⟨hst, hco, hcores, -, -, hdir, hframes, hposted⟩ := postEvent_keeps v c.vi r
    rw [← ht] at hst hco hcores hdir hframes hposted
    have hstand : ∀ j, t.standAt j = v.standAt j := fun j => by simp only [State.standAt, hst]
    refine ⟨(hstand k).trans hvk, fun j hj => (hstand j).trans (hvj j hj), hco.trans (by rw [hv]; rfl),
      hmem.trans (sameMemory_of_parts (fun j => by simp only [State.coreAt, hcores]) hdir hframes hposted), fun h => absurd h (by decide),
      fun _ => ⟨hcores.trans (by rw [hv]; rfl), ?_⟩⟩
    rw [ht]
    exact (eventPosted_postEvent v c.vi r).of_same (by rw [hv]; rfl) (by rw [hv]; rfl)

/-! ### Termination (R401) -/

/-- A stand that has been terminated, but for its counts. -/
def Stand.terminated (x : Stand) : Stand :=
  { x with life := .ending, exited := allLanes, a := 0, stack := [], pend := [], wait := .none, trapWait := none, exitPc := x.pc, exitMask := 0,
           frames := [], fenceM := none, swbs := [], fencing := false, markers := [], rel := none, current := false }

/-- Its copies are cancelled and its groves left; then it ends, its launch counts it, and its record is posted. -/
theorem terminate_eq {s : State} {k : Nat} (hwait : (s.standAt k).wait = .none) (r : FaultRec) : ∃ u, Spares k s u ∧
    (∀ key, (u.groveAt key).live = true → (u.groveAt key).member k = none) ∧
    s.terminate k r = (let c := u.copseAt (copseOf k)
      let v := u.setStand k (u.standAt k).terminated
      if c.maint then v else (v.setLaunch c.launch { v.launchAt c.launch with terminated := (v.launchAt c.launch).terminated + 1 }).postEvent c.vi r) := by
  obtain ⟨w, hw⟩ : ∃ w, w = (((s.copiesOf k).filter (fun c => c.fate.isNone)).map (fun c => c.seq)).foldl
    (fun s q => s.copyCancel (copseOf k) q 1) s := ⟨_, rfl⟩
  have hcopies : Spares k s w := hw ▸ spares_foldl (fun t q _ => spares_copyCancel t (copseOf k) q 1) s
  obtain ⟨hgroves, hmembers⟩ := leaveAll_members (k := k) w true
  have hdrop : s.dropHeld k = s := by
    unfold State.dropHeld
    simp only [hwait]
  refine ⟨w.leaveAll k true, hcopies.trans hgroves, hmembers, ?_⟩
  unfold State.terminate
  simp only [hdrop, ← hw]
  rfl

/-- What a terminated stand is, and what else changes (R401). -/
theorem terminate_spec {s : State} {k : Nat} (hwait : (s.standAt k).wait = .none) (r : FaultRec) :
    let c := s.copseAt (copseOf k)
    let t := s.terminate k r
    (∃ pa, t.standAt k = ({ s.standAt k with paths := pa } : Stand).terminated) ∧
    (∀ key, (t.groveAt key).live = true → (t.groveAt key).member k = none) ∧
    (c.maint = false → (t.launchAt c.launch).terminated = (s.launchAt c.launch).terminated + 1 ∧ EventPosted s t c.vi r) := by
  intro c t
  obtain ⟨u, ⟨hst, ⟨hvis, hhost, hlaunches⟩, hcopse⟩, hmembers, ht⟩ := terminate_eq hwait r
  obtain ⟨pa, hpa⟩ := hst hwait
  obtain ⟨hm, hl, hv⟩ := hcopse (copseOf k)
  change t = _ at ht
  simp only [hm, hl, hv, hpa] at ht
  obtain ⟨v, hv'⟩ : ∃ v, v = u.setStand k ({ s.standAt k with paths := pa } : Stand).terminated := ⟨_, rfl⟩
  rw [← hv'] at ht
  have hvst : v.standAt k = ({ s.standAt k with paths := pa } : Stand).terminated := by rw [hv', setStand_standAt]
  have hvgr : ∀ key, v.groveAt key = u.groveAt key := fun key => by rw [hv']; rfl
  have hvl : v.launchAt c.launch = s.launchAt c.launch := by rw [hv', setStand_launchAt, State.launchAt, hlaunches]; rfl
  cases hmaint : c.maint with
  | true =>
    rw [if_pos hmaint] at ht
    rw [ht]
    exact ⟨⟨pa, hvst⟩, fun key hlive => by rw [hvgr] at hlive ⊢; exact hmembers key hlive, fun h => absurd h (by decide)⟩
  | false =>
    rw [if_neg (by rw [hmaint]; decide)] at ht
    obtain ⟨w, hw⟩ : ∃ w, w = v.setLaunch c.launch { v.launchAt c.launch with terminated := (v.launchAt c.launch).terminated + 1 } := ⟨_, rfl⟩
    rw [← hw] at ht
    obtain ⟨hpst, -, -, hpl, hpg, -⟩ := postEvent_keeps w c.vi r
    rw [← ht] at hpst hpl hpg
    have htst : t.standAt k = v.standAt k := by rw [State.standAt, hpst, hw]; rfl
    have htgr : ∀ key, t.groveAt key = u.groveAt key := fun key => by rw [State.groveAt, hpg, hw, ← hvgr]; rfl
    refine ⟨⟨pa, htst.trans hvst⟩, fun key hlive => by rw [htgr] at hlive ⊢; exact hmembers key hlive, fun _ => ⟨?_, ?_⟩⟩
    · rw [State.launchAt, hpl, hw, hvl]
      exact congrArg Launch.terminated (tget_tset_self ..)
    · rw [ht]
      refine (eventPosted_postEvent w c.vi r).of_same ?_ ?_
      · rw [hw, hv']
        exact hvis
      · rw [hw, hv']
        exact hhost

/-- Settles O49: a trap with a handler and room for its frame enters it; otherwise a `brk` halts its stand and any other class terminates it. -/
theorem takeTrapEntersTerminatesOrHalts : Obligations.TakeTrapEntersTerminatesOrHalts := by
  unfold Obligations.TakeTrapEntersTerminatesOrHalts
  intro k r s st c h t count
  refine ⟨takeTrap_enters, fun hno => ?_⟩
  have ht : t = _ := takeTrap_fails hno
  obtain ⟨hown, hothers⟩ := numberedAt_standAt s k r
  obtain ⟨hcopses, hcores, hvis, hhost, hlaunches, hdir, hframes, hposted⟩ := numberedAt_keeps s k r
  obtain ⟨u, hu⟩ : ∃ u, u = s.numberedAt k r := ⟨_, rfl⟩
  rw [← hu] at ht hown hothers hcopses hcores hvis hhost hlaunches hdir hframes hposted
  have hcopse : u.copseAt (copseOf k) = c := by simp only [State.copseAt, hcopses, c]
  refine ⟨fun hbrk => ?_, fun hbrk hwait => ?_⟩
  · rw [if_pos hbrk] at ht
    obtain ⟨hst, hst', hco, hmem, hstops, hposts⟩ := halt_spec u k (numbered st r)
    rw [← ht] at hst hst' hco hmem hstops hposts
    rw [hcopse] at hstops hposts
    have hcore : ∀ j, u.coreAt j = s.coreAt j := fun j => by simp only [State.coreAt, hcores]
    refine ⟨by rw [hst, hown], fun j hj => (hst' j hj).trans (hothers j hj), hco.trans hcopses,
      (sameMemory_of_parts (fun j => by rw [hcore]) hdir hframes hposted).trans hmem, fun hm => ?_, fun hm => ?_⟩
    · obtain ⟨hstopped, hsame⟩ := hstops hm
      refine ⟨hstopped.trans ?_, hsame.trans hvis⟩
      rw [setCore_cores, setCore_cores, hcore, hcores]
    · obtain ⟨hsame, hevent⟩ := hposts hm
      exact ⟨hsame.trans hcores, hevent.of_same hvis hhost⟩
  · rw [if_neg hbrk] at ht
    obtain ⟨⟨pa, hst⟩, hmembers, hcounted⟩ := terminate_spec (s := u) (k := k) (by rw [hown]; exact hwait) (numbered st r)
    rw [← ht, hown] at hst
    rw [← ht] at hmembers hcounted
    rw [hcopse] at hcounted
    simp only [hst]
    refine ⟨rfl, rfl, rfl, rfl, rfl, rfl, rfl, rfl, rfl, rfl, rfl, rfl, rfl, rfl, rfl, rfl, rfl, rfl, rfl, rfl, hmembers, fun hm => ?_⟩
    obtain ⟨hterm, hevent⟩ := hcounted hm
    refine ⟨hterm.trans ?_, hevent.of_same hvis hhost⟩
    simp only [State.launchAt, hlaunches]

end Sys2Proof.Machine
end

section
/-! SUPPORT. The divergence stack and the words that act on it (spec/04 R93-R95, R100-R105). -/

namespace Sys2Proof.Machine

/-! ### PushPend, AfterTransfer, Resume and rotation (R93, R94, R105) -/

/-- RB alone follows the stack down. -/
theorem fixRb_eq (st : Stand) : ∃ rb, st.fixRb = { st with rb := rb } := by
  unfold Stand.fixRb
  split
  · exact ⟨_, rfl⟩
  · exact ⟨_, rfl⟩

/-- A path of the address of the pending one on top joins it. -/
theorem pushPend_merges {pc : Word64} {m : Mask} {e : Entry} {r : List Entry} (hm : m ≠ 0) (hk : e.kind = .pend) (hpc : e.pc = some pc) :
    pushPend pc m (e :: r) = { e with mask := e.mask ||| m } :: r := by
  unfold pushPend
  rw [if_neg hm]
  exact if_pos ⟨hk, hpc⟩

theorem pushPend_pushes {pc : Word64} {m : Mask} {stack : List Entry} (hm : m ≠ 0)
    (htop : ∀ d ∈ stack.head?, d.kind ≠ .pend ∨ d.pc ≠ some pc) : pushPend pc m stack = ⟨.pend, some pc, m⟩ :: stack := by
  unfold pushPend
  rw [if_neg hm]
  cases stack with
  | nil => rfl
  | cons d r => exact if_neg (not_and_or.mpr (htop d rfl))

theorem afterTransfer_rejoins {st : Stand} {e : Entry} {r : List Entry} (ha : st.a ≠ 0) (hs : st.stack = e :: r) (hk : e.kind = .pend)
    (hpc : e.pc = some st.pc) (hr : st.yc = 0 ∨ st.rb ≤ r.length) : ∃ rb, st.afterTransfer = { st with a := st.a ||| e.mask, stack := r, rb := rb } := by
  unfold Stand.afterTransfer
  rw [if_neg ha]
  simp only [hs]
  rw [if_pos ⟨hk, hpc, hr⟩]
  exact fixRb_eq _

theorem afterTransfer_idle {st : Stand} (h : st.a = 0 ∨ ∀ d ∈ st.stack.head?, d.kind ≠ .pend ∨ d.pc ≠ some st.pc ∨ (st.yc ≠ 0 ∧ st.stack.length ≤ st.rb)) :
    st.afterTransfer = st := by
  unfold Stand.afterTransfer
  by_cases ha : st.a = 0
  · rw [if_pos ha]
  · rw [if_neg ha]
    split
    · next e r hs =>
      rw [hs] at h
      refine if_neg fun ⟨hk, hpc, hr⟩ => ?_
      obtain hn | hn | ⟨hyc, hlen⟩ := h.resolve_left ha e rfl
      · exact hn hk
      · exact hn hpc
      · rw [List.length_cons] at hlen
        omega
    · rfl

/-- Resume looks past the entries whose threads have all exited (R94). -/
theorem resumeEntry_dead {exited : Mask} : ∀ {dead : List Entry} (r : List Entry), (∀ d ∈ dead, d.mask &&& ~~~exited = 0) →
    resumeEntry exited (dead ++ r) = resumeEntry exited r
  | [], _, _ => rfl
  | d :: dead, r, h => by
    obtain ⟨hd, hdead⟩ := List.forall_mem_cons.mp h
    rw [List.cons_append, resumeEntry, if_neg (not_not.mpr hd)]
    exact resumeEntry_dead r hdead

theorem resume_takes {st : Stand} {dead r : List Entry} {e : Entry} {pc : Word64} (hs : st.stack = dead ++ e :: r)
    (hdead : ∀ d ∈ dead, d.mask &&& ~~~st.exited = 0) (he : e.mask &&& ~~~st.exited ≠ 0) (hpc : e.pc = some pc) :
    ∃ rb, st.resume = { st.goto pc with a := e.mask &&& ~~~st.exited, stack := r, rb := rb } := by
  have hentry : resumeEntry st.exited st.stack = some (e.mask &&& ~~~st.exited, pc, r) := by
    rw [hs, resumeEntry_dead _ hdead, resumeEntry, if_pos he, hpc]
    rfl
  unfold Stand.resume
  rw [hentry]
  exact fixRb_eq _

theorem resume_ends {st : Stand} (hdead : ∀ d ∈ st.stack, d.mask &&& ~~~st.exited = 0) :
    st.resume = { st with stack := [], frames := [], current := false, life := if st.life = .live then .ending else st.life } := by
  have hentry : resumeEntry st.exited st.stack = none := by
    rw [← List.append_nil st.stack, resumeEntry_dead [] hdead]
    rfl
  unfold Stand.resume
  rw [hentry]

/-- In a region with a pending path on top, a rotation puts the running path directly above the entries below the region (R105). -/
theorem rotate_eq {st : Stand} {e : Entry} {region below : List Entry} {pc : Word64} (hyc : st.yc ≠ 0) (ha : st.a ≠ 0)
    (hs : st.stack = e :: (region ++ below)) (hb : below.length = st.rb) (hk : e.kind = .pend) (hpc : e.pc = some pc) (hroom : st.stack.length < 32) :
    st.rotate = if e.mask &&& ~~~st.exited = 0 then Stand.resume { st with a := 0, stack := region ++ ⟨.pend, some st.pc, st.a⟩ :: below }
      else { st.goto pc with a := e.mask &&& ~~~st.exited, stack := region ++ ⟨.pend, some st.pc, st.a⟩ :: below } := by
  have hlen : (region ++ below).length - st.rb = region.length := by rw [List.length_append, hb, Nat.add_sub_cancel]
  have hrb : st.rb ≤ (region ++ below).length := by rw [List.length_append, hb]; exact Nat.le_add_left ..
  rw [hs, List.length_cons] at hroom
  unfold Stand.rotate
  rw [if_neg (not_or.mpr ⟨hyc, ha⟩)]
  simp only [hs]
  rw [if_pos ⟨hk, hrb, hroom⟩, hlen, List.take_left, List.drop_left, List.append_assoc, hpc]
  rfl

/-- Settles O21: each clause is the case of the operation that its hypotheses pick. -/
theorem divergenceStackOperations : Obligations.DivergenceStackOperations := by
  unfold Obligations.DivergenceStackOperations
  intro st pc m e r
  refine ⟨fun hm hs hk hpc => hs ▸ pushPend_merges hm hk hpc, pushPend_pushes, if_pos rfl, fun ha hs hk hpc hr => ?_, afterTransfer_idle,
    fun dead a hs hdead he hpc => ?_, fun hdead hlive => ?_, fun region below a hyc ha hs hb hk hpc hroom => ⟨fun hm => ?_, fun hm => ?_⟩⟩
  · obtain ⟨rb, h⟩ := afterTransfer_rejoins ha hs hk hpc hr
    rw [h]
    exact ⟨rfl, rfl, rfl⟩
  · obtain ⟨rb, h⟩ := resume_takes hs hdead he hpc
    rw [h]
    exact ⟨rfl, rfl, rfl, rfl⟩
  · rw [resume_ends hdead]
    exact ⟨if_pos hlive, rfl⟩
  · rw [rotate_eq hyc ha hs hb hk hpc hroom, if_neg hm]
    exact ⟨rfl, rfl, rfl⟩
  · rw [rotate_eq hyc ha hs hb hk hpc hroom, if_pos hm]

/-! ### Entries of the stack (R95) -/

/-- An entry is changed where it stands. -/
theorem setEntry_eq (j : Nat) (g : Entry → Entry) (stack : List Entry) :
    setEntry j g stack = stack.zipIdx.map (fun x => if x.2 = j then g x.1 else x.1) := by
  rw [setEntry, List.zipIdx_eq_zip_range', List.range_eq_range', ← List.zip_swap, List.map_map]
  rfl

theorem setEntry_append (g : Entry → Entry) (above : List Entry) (e : Entry) (below : List Entry) :
    setEntry above.length g (above ++ e :: below) = above ++ g e :: below := by
  have habove : (above.zipIdx.map fun x => if x.2 = above.length then g x.1 else x.1) = above := by
    rw [← List.map_congr_left (f := Prod.fst) fun x hx => ?_]
    · exact List.zipIdx_map_fst ..
    · exact (if_neg (Nat.ne_of_lt (by simpa using (List.mem_zipIdx hx).2.1))).symm
  have hbelow : ((below.zipIdx (above.length + 1)).map fun x => if x.2 = above.length then g x.1 else x.1) = below := by
    rw [← List.map_congr_left (f := Prod.fst) fun x hx => ?_]
    · exact List.zipIdx_map_fst ..
    · exact (if_neg (Nat.ne_of_gt (List.mem_zipIdx hx).1)).symm
  rw [setEntry_eq, List.zipIdx_append, List.zipIdx_cons, List.map_append, List.map_cons, habove, Nat.zero_add, hbelow, if_pos rfl]

/-- No entry is of a kind. -/
theorem findIdx?_kind_none {k : EntryKind} {stack : List Entry} (h : ∀ e ∈ stack, e.kind ≠ k) : stack.findIdx? (fun e => e.kind == k) = none :=
  List.findIdx?_eq_none_iff.mpr fun e he => beq_false_of_ne (h e he)

/-- The first entry of a kind, from the top. -/
theorem findIdx?_kind_some {k : EntryKind} {above below : List Entry} {e : Entry} (he : e.kind = k) (h : ∀ d ∈ above, d.kind ≠ k) :
    (above ++ e :: below).findIdx? (fun e => e.kind == k) = some above.length := by
  rw [List.findIdx?_append, findIdx?_kind_none h, List.findIdx?_cons, if_pos (beq_iff_eq.mpr he)]
  exact congrArg some (Nat.zero_add _)

/-! ### Arrivals (R100-R103) -/

/-- A word whose effect has taken threads out of the running path goes on behind itself, or resumes (R94). -/
theorem endsAt_goOn {i : Instr} {s : State} {f : Form} {b : State → Eff} {x : Stand} (hw : wordOf i s = some (f, b)) (ha : Acts s i)
    (hc : f.control = true) (hb : b s = goOn s x) : EndsAt i s (x.passOrResume (wordBytes i)) := by
  unfold Stand.passOrResume
  split
  · next h0 =>
    rw [goOn, if_pos h0] at hb
    exact endsAt_gone hw ha hb (localFrame_setStand s _) (by rw [setMe_eq, setMe_me]; exact agreeOn_refl _)
  · next h0 =>
    rw [goOn, if_neg h0] at hb
    have hend := endsAt_done hw ha hb (localFrame_setStand s x) hc
    rwa [setMe_eq, setMe_me] at hend

/-- The stack in which an arrival has added its threads to an entry, whose address it may set. -/
def arrived (p : Mask) (j : Nat) (pc : Option Word64) (stack : List Entry) : List Entry :=
  setEntry j (fun e => { e with mask := e.mask ||| p, pc := pc.or e.pc }) stack

theorem arrived_eq (p : Mask) (j : Nat) (pc : Option Word64) (stack : List Entry) : arrived p j pc stack =
    stack.zipIdx.map (fun x => if x.2 = j then { x.1 with mask := x.1.mask ||| p, pc := pc.or x.1.pc } else x.1) := setEntry_eq ..

/-- A word of 8 bytes is an arrival at the topmost entry of a kind (R100, R102, R103), and traps where there is none (R95). -/
def ArrivesAt (i : Instr) (s : State) (h : Head) (k : EntryKind) (pc : Option Word64) (cause : Nat) : Prop :=
  (∀ j, s.me.stack.findIdx? (fun e => e.kind == k) = some j → EndsAt i s
    (({ s.me with stack := arrived (s.me.part h) j pc s.me.stack, a := s.me.a &&& ~~~(s.me.part h) }).passOrResume 8)) ∧
  ((∀ e ∈ s.me.stack, e.kind ≠ k) → Traps i s 1 cause)

theorem arrivesAt_topmost {i : Instr} {s : State} {f : Form} {b : State → Eff} {k : EntryKind} {pc : Option Word64} {cause : Nat}
    (hw : wordOf i s = some (f, b)) (ha : Acts s i) (hc : f.control = true) (h8 : wordBytes i = 8)
    (hsome : ∀ j, s.me.stack.findIdx? (fun e => e.kind == k) = some j →
      b s = goOn s { s.me with stack := arrived (s.me.part f.h) j pc s.me.stack, a := s.me.a &&& ~~~(s.me.part f.h) })
    (hnone : s.me.stack.findIdx? (fun e => e.kind == k) = none → b s = .trap (ctlTrap s i f.h cause)) : ArrivesAt i s f.h k pc cause :=
  ⟨fun j hj => h8 ▸ endsAt_goOn hw ha hc (hsome j hj), fun hno => traps_of_trap hw ha (hnone (findIdx?_kind_none hno)) rfl rfl⟩

theorem ret_arrivesAt {f : A64} {s : State} (ha : Acts s (.ret f)) : ArrivesAt (.ret f) s f.h .call none 5 :=
  arrivesAt_topmost (f := formRet f) (b := bodyRet f) rfl ha rfl rfl (fun j hj => by rw [bodyRet, retBody, hj]; rfl)
    (fun hj => by rw [bodyRet, retBody, hj]; rfl)

theorem join_arrivesAt {f : A64} {s : State} (ha : Acts s (.join f)) : ArrivesAt (.join f) s f.h .join (some (s.me.pc + 8)) 4 :=
  arrivesAt_topmost (f := formJoin f) (b := bodyJoin f) rfl ha rfl rfl (fun j hj => by rw [bodyJoin, joinBody, hj]; rfl)
    (fun hj => by rw [bodyJoin, joinBody, hj]; rfl)

theorem rwait_arrivesAt {f : A64} {s : State} (ha : Acts s (.rwait f)) : ArrivesAt (.rwait f) s f.h (.token f.sa.num.toNat) none 3 :=
  arrivesAt_topmost (f := formRwait f) (b := bodyRwait f) rfl ha rfl rfl (fun j hj => by rw [bodyRwait, tokenAt, hj]; rfl)
    (fun hj => by rw [bodyRwait, tokenAt, hj]; rfl)

/-- Settling where a word ends: a stand that agrees will do. -/
theorem EndsAt.of_agree {i : Instr} {s : State} {x y : Stand} (h : EndsAt i s x) (hxy : AgreeOn x y) : EndsAt i s y := by
  obtain ⟨t, hexec, hx, hframe⟩ := h
  exact ⟨t, hexec, hx.trans hxy, hframe⟩

theorem AgreeOn.pass {x y : Stand} (h : AgreeOn x y) (n : Nat) : AgreeOn (x.pass n) (y.pass n) := by
  refine AgreeOn.afterTransfer ?_
  simp only [AgreeOn] at h ⊢
  simp only [h, and_self]

theorem AgreeOn.passOrResume {x y : Stand} (h : AgreeOn x y) (n : Nat) : AgreeOn (x.passOrResume n) (y.passOrResume n) := by
  have ha : x.a = y.a := h.2.1
  unfold Stand.passOrResume
  rw [ha]
  split
  · exact h.resume.afterTransfer
  · exact h.pass n

/-! ### What is remembered of an `exit` (R101) -/

/-- Two stands remember the same `exit`. -/
def SameExit (x y : Stand) : Prop := x.exitPc = y.exitPc ∧ x.exitMask = y.exitMask

theorem sameExit_resume (st : Stand) : SameExit st.resume st := by
  unfold Stand.resume
  split
  · obtain ⟨rb, h⟩ := fixRb_eq { st.goto _ with a := _, stack := _ }
    rw [h]
    exact ⟨rfl, rfl⟩
  · exact ⟨rfl, rfl⟩

theorem sameExit_afterTransfer (st : Stand) : SameExit st.afterTransfer st := by
  obtain ⟨a, stack, rb, h⟩ := afterTransfer_keeps st
  rw [h]
  exact ⟨rfl, rfl⟩

theorem SameExit.trans {x y z : Stand} (h : SameExit x y) (h' : SameExit y z) : SameExit x z := ⟨h.1.trans h'.1, h.2.trans h'.2⟩

/-- The stand behind a control transfer is the one that its effect has put, but for the marks of the issue. -/
theorem gone_me {i : Instr} {s u : State} {f : Form} {b : State → Eff} (hw : wordOf i s = some (f, b)) (hu : LocalFrame s u) :
    (gone s u i).me = { u.me with issueWait := 0, ready := 0, stall := 0, last := s.me.spot, issues := u.me.issues + 1, rel := none } := by
  rw [me_eq, (hu.gone i).cur_eq, me_eq, hu.cur_eq]
  simp only [gone, hw, State.retireGoto, issued_standAt]

/-- The stand behind a word that goes on behind itself, of class 0x0 or not. -/
theorem done_me_control {i : Instr} {s u : State} {f : Form} {b : State → Eff} (hw : wordOf i s = some (f, b)) (hu : LocalFrame s u) :
    ∃ aa stack rb place clpos, (done s u i).me = { u.me with
      a := aa, stack := stack, rb := rb, place := place, clpos := clpos, pc := u.me.pc + BitVec.ofNat 64 (wordBytes i), issueWait := 0, ready := 0,
      stall := 0, last := s.me.spot, issues := u.me.issues + 1, rel := none } := by
  obtain ⟨a, stack, rb, place, clpos, h⟩ := behindWord_keeps (u.ownWindow s.cur s.stale.length) s.cur i f
  refine ⟨a, stack, rb, place, clpos, ?_⟩
  rw [me_eq, (hu.done i).cur_eq, me_eq, hu.cur_eq]
  simp only [done, hw, retire_standAt, h]
  rfl

theorem exec_goOn_sameExit {i : Instr} {s : State} {f : Form} {b : State → Eff} {x : Stand} (hw : wordOf i s = some (f, b)) (ha : Acts s i)
    (hb : b s = goOn s x) : ∃ t, exec i s = .next t ∧ SameExit t.me x := by
  unfold goOn at hb
  split at hb
  · refine ⟨_, exec_gone hw ha hb, ?_⟩
    rw [setMe_eq, gone_me hw (localFrame_setStand s _), setMe_me]
    exact (sameExit_afterTransfer _).trans (sameExit_resume x)
  · refine ⟨_, exec_done hw ha hb, ?_⟩
    obtain ⟨a, stack, rb, place, clpos, h⟩ := done_me_control hw (localFrame_setStand s x)
    rw [setMe_eq, h, setMe_me]
    exact ⟨rfl, rfl⟩

/-- The stand whose threads p exit; a live one that is left with none remembers where. -/
def Stand.exits (st : Stand) (p : Mask) : Stand :=
  let st' := if st.life = .live ∧ st.a &&& ~~~p = 0 then { st with exitPc := st.pc, exitMask := p } else st
  { st' with exited := st'.exited ||| p, a := st'.a &&& ~~~p }

theorem exits_agree (st : Stand) (p : Mask) : AgreeOn (st.exits p) { st with exited := st.exited ||| p, a := st.a &&& ~~~p } := by
  unfold Stand.exits
  split
  · simp [AgreeOn]
  · exact agreeOn_refl _

theorem bodyExit_eq (f : A64) (s : State) : bodyExit f s = goOn s (s.me.exits (s.me.part f.h)) := rfl

/-- Settles O22: `ret`, `join` and `rwait` are arrivals at the topmost entry of a kind, and an `exit` goes on with its threads gone. -/
theorem arrivalsLeaveTheRunningPath : Obligations.ArrivalsLeaveTheRunningPath := by
  unfold Obligations.ArrivalsLeaveTheRunningPath
  intro f s st p add
  have hadd : ∀ r j pc, add r j pc = arrived p j pc r := fun r j pc => (arrived_eq p j pc r).symm
  simp only [hadd]
  refine ⟨ret_arrivesAt, fun ha => ⟨?_, ?_⟩, join_arrivesAt, rwait_arrivesAt⟩
  · exact (endsAt_goOn (b := bodyExit f) rfl ha rfl (bodyExit_eq f s)).of_agree ((exits_agree st p).passOrResume 8)
  · obtain ⟨t, hexec, hpc, hmask⟩ := exec_goOn_sameExit rfl ha (bodyExit_eq f s)
    refine ⟨t, hexec, fun hlast => ?_, fun hlast => ?_⟩
    · rw [hpc, hmask, Stand.exits, if_pos hlast]
      exact ⟨rfl, rfl⟩
    · rw [hpc, hmask, Stand.exits, if_neg hlast]
      exact ⟨rfl, rfl⟩

/-! ### Words that push and change entries, and regions (R102-R105) -/

/-- A word whose effect is on its stand alone goes on behind itself. -/
theorem endsAt_setMe {i : Instr} {s : State} {f : Form} {b : State → Eff} {x : Stand} (hw : wordOf i s = some (f, b)) (ha : Acts s i)
    (hc : f.control = true) (hb : b s = .done (s.setMe x)) : EndsAt i s (x.pass (wordBytes i)) := by
  have hend := endsAt_done hw ha hb (localFrame_setStand s x) hc
  rwa [setMe_eq, setMe_me] at hend

/-- A token is free when no entry bears it (R95). -/
theorem tokenAt_isSome {n : Nat} {stack : List Entry} : (tokenAt n stack).isSome ↔ ¬∀ e ∈ stack, e.kind ≠ .token n := by
  simp [tokenAt]

/-- Settles O23: each word changes the stack or the region and goes on, or traps for want of room, of a token or of a region. -/
theorem stackAndRegionInstructions : Obligations.StackAndRegionInstructions := by
  unfold Obligations.StackAndRegionInstructions
  intro f fi s st free
  refine ⟨fun ha => ⟨fun hroom => ?_, fun hfull => ?_⟩, fun ha => ⟨fun hroom hfree => ?_, fun hfull => ?_, fun hroom harmed => ?_⟩,
    fun ha => ⟨fun above e below hs he habove => ?_, fun hfree => ?_⟩, fun ha => ⟨fun hlow => ?_, fun hmax => ?_⟩, fun ha => ⟨fun hpos => ?_, fun hzero => ?_⟩⟩
  · exact endsAt_setMe rfl ha rfl (if_neg (Nat.not_le.mpr hroom))
  · exact traps_of_trap rfl ha (if_pos hfull) rfl rfl
  · have hno : ¬(tokenAt fi.dst.num.toNat st.stack).isSome := fun h => tokenAt_isSome.mp h hfree
    exact endsAt_setMe rfl ha rfl ((if_neg (Nat.not_le.mpr hroom)).trans (if_neg hno))
  · exact traps_of_trap rfl ha (if_pos hfull) rfl rfl
  · exact traps_of_trap rfl ha ((if_neg (Nat.not_le.mpr hroom)).trans (if_pos (tokenAt_isSome.mpr harmed))) rfl rfl
  · have hb : bodyRcancel f s = .done (s.setMe { st with stack := above ++ { e with kind := .pend } :: below }) := by
      rw [bodyRcancel, tokenAt, show s.me.stack = above ++ e :: below from hs, findIdx?_kind_some he habove]
      simp only [setEntry_append]
      rfl
    exact endsAt_setMe rfl ha rfl hb
  · have hb : bodyRcancel f s = .trap (ctlTrap s (.rcancel f) f.h 3) := by
      rw [bodyRcancel, tokenAt, findIdx?_kind_none hfree]
    exact traps_of_trap rfl ha hb rfl rfl
  · exact endsAt_setMe rfl ha rfl (if_neg (Nat.ne_of_lt hlow))
  · exact traps_of_trap rfl ha (if_pos hmax) rfl rfl
  · exact endsAt_setMe rfl ha rfl (if_neg (Nat.ne_of_gt hpos))
  · exact traps_of_trap rfl ha (if_pos hzero) rfl rfl

end Sys2Proof.Machine
end

section
/-! SUPPORT. Words that write one predicate (spec/04 R108, R109; spec/06 R145, R152, R158; spec/08 R189). -/

namespace Sys2Proof.Machine

/-! ### Values of sources as bit vectors (R141, R142) -/

theorem toNat_srcBits (vs : List Src) (n w t : Nat) : (srcBits vs n w t).toNat = srcN vs n t % 2 ^ w := BitVec.toNat_setWidth ..

/-- The low bits of a number as a signed value. -/
theorem sextNat_eq_toInt (w x : Nat) : sextNat w x = (BitVec.ofNat w x).toInt := by
  rw [sextNat, BitVec.toInt_eq_toNat_cond, BitVec.toNat_ofNat]
  cases w with
  | zero => simp [Nat.mod_one]
  | succ w =>
    have hpow : 2 ^ (w + 1) = 2 * 2 ^ w := by rw [Nat.pow_succ, Nat.mul_comm]
    rw [Nat.add_sub_cancel]
    split_ifs with hhigh hlow
    · omega
    · push_cast; rfl
    · push_cast; rfl
    · omega

theorem sextNat_toNat {w : Nat} (x : BitVec w) : sextNat w x.toNat = x.toInt := by
  rw [sextNat_eq_toInt, BitVec.ofNat_toNat, BitVec.setWidth_eq]

/-- What the type of a source makes of it. -/
theorem tyVal_srcN (ty : Nat) (vs : List Src) (n t : Nat) : tyVal ty (srcN vs n t) = valueOf ty (srcBits vs n (tyBits ty) t) := by
  rw [tyVal, valueOf]
  split
  · rw [sextNat_eq_toInt]
    congr 1
    exact BitVec.eq_of_toNat_eq (by rw [BitVec.toNat_ofNat, toNat_srcBits])
  · rw [toNat_srcBits]
    push_cast
    rfl

theorem valueOf_inj {ty : Nat} {a b : BitVec (tyBits ty)} : valueOf ty a = valueOf ty b ↔ a = b := by
  unfold valueOf
  split
  · exact BitVec.toInt_inj
  · rw [Int.natCast_inj]
    exact BitVec.toNat_inj

theorem lessOp_iff {ty : Nat} {a b : BitVec (tyBits ty)} : lessOp ty a b = true ↔ valueOf ty a < valueOf ty b := by
  unfold lessOp valueOf
  split
  · exact BitVec.slt_iff_toInt_lt
  · rw [Int.ofNat_lt]
    exact BitVec.ult_iff_lt

/-- The conditions of `cmp` are those on its operands as bit vectors (R152). -/
theorem cmpN_eq_condOp (c ty : Nat) (vs : List Src) (t : Nat) :
    cmpN c ty (srcN vs 0 t) (srcN vs 1 t) = condOp c ty (srcBits vs 0 _ t) (srcBits vs 1 _ t) := by
  have hle : decide (valueOf ty (srcBits vs 0 (tyBits ty) t) ≤ valueOf ty (srcBits vs 1 (tyBits ty) t))
      = !lessOp ty (srcBits vs 1 (tyBits ty) t) (srcBits vs 0 (tyBits ty) t) := by
    rw [Bool.eq_iff_iff, decide_eq_true_eq, Bool.not_eq_true', ← Bool.not_eq_true, lessOp_iff, Int.not_lt]
  have hlt : decide (valueOf ty (srcBits vs 0 (tyBits ty) t) < valueOf ty (srcBits vs 1 (tyBits ty) t))
      = lessOp ty (srcBits vs 0 (tyBits ty) t) (srcBits vs 1 (tyBits ty) t) := by
    rw [Bool.eq_iff_iff, decide_eq_true_eq, lessOp_iff]
  have heq : (valueOf ty (srcBits vs 0 (tyBits ty) t) == valueOf ty (srcBits vs 1 (tyBits ty) t))
      = (srcBits vs 0 (tyBits ty) t == srcBits vs 1 (tyBits ty) t) := by
    rw [Bool.eq_iff_iff, beq_iff_eq, beq_iff_eq, valueOf_inj]
  simp only [cmpN, condOp, tyVal_srcN, bne, heq, hlt, hle]

/-- The condition codes of the immediate form on an operand of at least 16 bits (R145). -/
theorem cmpCode_eq_condImm {w : Nat} (h16 : 16 ≤ w) (cc : Nat) (a : BitVec w) (imm : BitVec 16) :
    cmpCode w cc a.toNat imm.toNat = condImm cc a imm := by
  have hsx : (imm.signExtend w).toInt = imm.toInt := BitVec.toInt_signExtend_of_le h16
  have hzx : (imm.setWidth w).toNat = imm.toNat := BitVec.toNat_setWidth_of_le h16
  have hwrap : wrap w imm.toInt = (imm.signExtend w).toNat := by
    rw [BitVec.signExtend, BitVec.toNat_ofInt]
    rfl
  have heq : (a.toNat == (imm.signExtend w).toNat) = (a == imm.signExtend w) := by
    rw [Bool.eq_iff_iff, beq_iff_eq, beq_iff_eq, BitVec.toNat_inj]
  simp only [cmpCode, condImm, sextNat_toNat, hwrap, bne, heq, BitVec.slt, BitVec.sle, BitVec.ult, BitVec.ule, hsx, hzx]

/-! ### What a predicate result writes (R50) -/

theorem getLsbD_setQ_ne (q : BitVec 4) {n m : Nat} (b : Bool) (h : m ≠ n) (hm : m < 4) : (setQ q n b).getLsbD m = q.getLsbD m := by
  have hbits : ∀ (c : Fin 4 → Bool) (j : Fin 4), (BitVec.ofNat 4 (0 + (if c 0 then 2 ^ 0 else 0) + (if c 1 then 2 ^ 1 else 0) +
      (if c 2 then 2 ^ 2 else 0) + (if c 3 then 2 ^ 3 else 0))).getLsbD j = c j := by decide
  exact (hbits (fun i => if i.val = n then b else q.getLsbD i) ⟨m, hm⟩).trans (if_neg h)

theorem put_outPred_uniform (st : Stand) (p : Mask) (n : Nat) (val : Nat → Bool) :
    st.put (outPred true p n val) = { st with q := setQ st.q n (val 0) } := rfl

theorem put_outPred_discarded (st : Stand) (p : Mask) (val : Nat → Bool) : st.put (outPred false p 7 val) = st := rfl

theorem put_outPred_vector (st : Stand) (p : Mask) {n : Nat} (h7 : n ≠ 7) (val : Nat → Bool) : st.put (outPred false p n val) =
    { st with p := tset n ((tget 0 st.p n &&& ~~~p) ||| (maskOf ((lanes p).filter val) &&& p)) st.p } := by
  rw [outPred, if_neg (by decide), if_neg h7]
  rfl

theorem outPred_plain (uni : Bool) (p : Mask) (n : Nat) (val : Nat → Bool) :
    (outPred uni p n val).vw = [] ∧ (outPred uni p n val).sw = [] ∧ (outPred uni p n val).ch = none ∧ (outPred uni p n val).on = .ready := by
  unfold outPred
  split_ifs <;> exact ⟨rfl, rfl, rfl, rfl⟩

/-- The threads of a set whose value is 1, as a mask. -/
theorem getLsbD_filtered (p : Mask) (val : Nat → Bool) {lane : Nat} (h : lane < 128) :
    (maskOf ((lanes p).filter val)).getLsbD lane = (p.getLsbD lane && val lane) := by
  rw [getLsbD_maskOf _ _ fun t ht => ((mem_lanes p t).mp (List.mem_filter.mp ht).1).1]
  simp [h]

/-- A predicate takes the value in the threads of the set and keeps its own in the others. -/
theorem getLsbD_merged (old p : Mask) (val : Nat → Bool) {lane : Nat} (h : lane < 128) :
    ((old &&& ~~~p) ||| (maskOf ((lanes p).filter val) &&& p)).getLsbD lane = if p.getLsbD lane then val lane else old.getLsbD lane := by
  rw [BitVec.getLsbD_or, BitVec.getLsbD_and, BitVec.getLsbD_and, BitVec.getLsbD_not, getLsbD_filtered p val h]
  cases p.getLsbD lane <;> simp [h]

/-- What a predicate result makes of the predicates of a stand (R50). -/
theorem put_outPred (st : Stand) (toQ : Bool) (p : Mask) (n : Nat) (val : Nat → Bool) : let x := st.put (outPred toQ p n val)
    (∀ m, m ≠ n ∨ toQ = true → tget 0 x.p m = tget 0 st.p m) ∧ (∀ m, m ≠ n ∨ toQ = false → m < 4 → x.q.getLsbD m = st.q.getLsbD m) ∧
    (toQ = true → n < 4 → x.q.getLsbD n = val 0) ∧ (toQ = false → n = 7 → x.p = st.p) ∧
    (toQ = false → n ≠ 7 → ∀ lane, lane < 128 → (tget 0 x.p n).getLsbD lane = if p.getLsbD lane then val lane else (tget 0 st.p n).getLsbD lane) := by
  cases toQ with
  | true =>
    rw [put_outPred_uniform]
    exact ⟨fun _ _ => rfl, fun m hm hlt => getLsbD_setQ_ne _ _ (hm.resolve_right (by decide)) hlt, fun _ => getLsbD_setQ _ _ _,
      fun h => absurd h (by decide), fun h => absurd h (by decide)⟩
  | false =>
    by_cases h7 : n = 7
    · subst h7
      rw [put_outPred_discarded]
      exact ⟨fun _ _ => rfl, fun _ _ _ => rfl, fun h => absurd h (by decide), fun _ _ => rfl, fun _ h => absurd rfl h⟩
    · rw [put_outPred_vector st p h7]
      refine ⟨fun m hm => tget_tset_ne _ (hm.resolve_right (by decide)) _ _, fun _ _ _ => rfl, fun h => absurd h (by decide), fun _ h => absurd h h7,
        fun _ _ lane hlane => ?_⟩
      rw [tget_tset_self]
      exact getLsbD_merged _ p val hlane

/-! ### Instructions that write one predicate are words of one shape -/

/-- The result of a predicate instruction as its destination takes it. -/
def predPend (h : Head) (s : State) (o : PredOp) : Pend := outPred o.toQ (s.me.part h) o.n (o.val s (s.srcs s.cur h.uni o.srcs).1)

/-- A word that reads its sources and writes that, at once or later. -/
def WritesPred (s : State) (i : Instr) (h : Head) (o : PredOp) : Prop :=
  ∃ f b, wordOf i s = some (f, b) ∧ f.h = h ∧ b s = (s.srcs s.cur h.uni o.srcs).2.results o.long (predPend h s o)

/-- A predicate result depends on its value in its threads alone. -/
theorem outPred_congr {toQ : Bool} {p : Mask} {n : Nat} {val val' : Nat → Bool} (h0 : toQ = true → val 0 = val' 0)
    (h : ∀ lane ∈ lanes p, val lane = val' lane) : outPred toQ p n val = outPred toQ p n val' := by
  cases toQ with
  | true => rw [outPred, outPred, if_pos rfl, if_pos rfl, h0 rfl]
  | false => simp only [outPred, List.filter_congr h, Bool.false_eq_true, if_false]

theorem all_lanes (p m : Mask) : (lanes p).all (fun t => m.getLsbD t) = (p &&& m == p) := by
  rw [Bool.eq_iff_iff, List.all_eq_true, beq_iff_eq]
  constructor
  · intro h
    refine BitVec.eq_of_getLsbD_eq fun t ht => ?_
    rw [BitVec.getLsbD_and]
    cases hp : p.getLsbD t with
    | true => exact h t ((mem_lanes p t).mpr ⟨ht, hp⟩)
    | false => rfl
  · intro h t ht
    have hp := ((mem_lanes p t).mp ht).2
    rw [← h, BitVec.getLsbD_and, Bool.and_eq_true] at hp
    exact hp.2

theorem any_lanes (p m : Mask) : (lanes p).any (fun t => m.getLsbD t) = (p &&& m != 0) := by
  rw [Bool.eq_iff_iff, List.any_eq_true, bne_iff_ne]
  constructor
  · rintro ⟨t, ht, hm⟩ h0
    have hbit : (p &&& m).getLsbD t = true := by rw [BitVec.getLsbD_and, ((mem_lanes p t).mp ht).2, hm]; rfl
    rw [h0] at hbit
    exact absurd (BitVec.getLsbD_zero.symm.trans hbit) (by decide)
  · intro h
    by_contra hnone
    refine h (BitVec.eq_of_getLsbD_eq fun t ht => ?_)
    refine (Bool.eq_false_iff.mpr fun hbit => ?_).trans BitVec.getLsbD_zero.symm
    rw [BitVec.getLsbD_and] at hbit
    obtain ⟨hp, hm⟩ := (Bool.and_eq_true _ _).mp hbit
    exact hnone ⟨t, (mem_lanes p t).mpr ⟨ht, hp⟩, hm⟩

/-- An operand of the immediate form is W bits wide (R33, R145). -/
theorem immSource_eq (s : State) (k : Nat) (uni : Bool) (o : Opd) (t : Nat) : let vs := (s.srcs k uni [(shortOpd uni o, uni)]).1
    srcN vs 0 t = (srcBits vs 0 (if uni then 64 else 32) t).toNat := by
  intro vs
  have hlt : srcN vs 0 t < 2 ^ (if uni then 64 else 32) := by
    cases uni with
    | true => exact BitVec.isLt _
    | false =>
      have hval : ∃ x : Word32, (s.srcVal k false false (shortOpd false o)) t = x.setWidth 64 := by
        unfold State.srcVal
        split
        · exact ⟨_, rfl⟩
        · exact ⟨_, rfl⟩
      obtain ⟨x, hx⟩ := hval
      show ((s.srcVal k false false (shortOpd false o)) t).toNat < 2 ^ 32
      rw [hx, BitVec.toNat_setWidth_of_le (by decide)]
      exact x.isLt
  rw [toNat_srcBits, Nat.mod_eq_of_lt hlt]

section
variable (s : State) (f : A64)

theorem writesPred_cmp : WritesPred s (.cmp f) f.h
    { srcs := [(f.sa, tyBits f.ty.toNat == 64), (f.sb, tyBits f.ty.toNat == 64)], toQ := f.h.uni, n := f.dst.num.toNat,
      val := fun _ vs t => condOp f.md.toNat f.ty.toNat (srcBits vs 0 _ t) (srcBits vs 1 _ t) } := by
  refine ⟨formCmp f, bodyCmp f, rfl, rfl, ?_⟩
  simp only [bodyCmp, predPend, cmpN_eq_condOp, (srcs_onlyChans s.cur f.h.uni _ s).me]
  rfl

theorem writesPred_fcmpBody {i : Instr} {m : Form} {long : Bool} (hw : wordOf i s = some (m, fcmpBody f long)) (hm : m.h = f.h) : WritesPred s i f.h
    { srcs := [(f.sa, tyBits f.ty.toNat == 64), (f.sb, tyBits f.ty.toNat == 64)], toQ := f.h.uni, n := f.dst.num.toNat, long := long,
      val := fun _ vs t => (ffOf f.ty.toNat).cmp f.md.toNat (srcBits vs 0 (tyBits f.ty.toNat) t).toNat
        (srcBits vs 1 (tyBits f.ty.toNat) t).toNat } := by
  refine ⟨m, fcmpBody f long, hw, hm, ?_⟩
  simp only [fcmpBody, predPend, toNat_srcBits, (srcs_onlyChans s.cur f.h.uni _ s).me]

theorem writesPred_cmpImm (f : I64) : WritesPred s (.cmpImm f) f.h
    { srcs := [(shortOpd f.h.uni f.sa, f.h.uni)], toQ := f.h.uni, n := f.dst.num.toNat,
      val := fun _ vs t => condImm (f.imm.extractLsb' 16 4).toNat (srcBits vs 0 (if f.h.uni then 64 else 32) t) (f.imm.extractLsb' 0 16) } := by
  refine ⟨formCmpImm f, bodyCmpImm f, rfl, rfl, ?_⟩
  have hw : tyBits (immTy f.h.uni) = if f.h.uni then 64 else 32 := by cases f.h.uni <;> rfl
  have h16 : 16 ≤ (if f.h.uni then 64 else 32) := by split <;> decide
  have hcc : f.imm.toNat / 2 ^ 16 = (f.imm.extractLsb' 16 4).toNat := by
    have := f.imm.isLt
    rw [BitVec.extractLsb'_toNat, Nat.shiftRight_eq_div_pow]
    omega
  have himm : f.imm.toNat % 2 ^ 16 = (f.imm.extractLsb' 0 16).toNat := by rw [BitVec.extractLsb'_toNat, Nat.shiftRight_zero]
  simp only [bodyCmpImm, predPend, hw, hcc, himm, immSource_eq, cmpCode_eq_condImm h16, (srcs_onlyChans s.cur f.h.uni _ s).me]
  rfl

theorem writesPred_predBody {i : Instr} {m : Form} (g : Bool → Bool → Bool) (hw : wordOf i s = some (m, predBody f g)) (hm : m.h = f.h) :
    WritesPred s i f.h
      { srcs := [], toQ := f.h.uni, n := f.dst.num.toNat,
        val := fun s _ t => g (predIn s f.h.uni f.sa t != f.md.getLsbD 0) (predIn s f.h.uni f.sb t != f.md.getLsbD 1) } :=
  ⟨m, predBody f g, hw, hm, rfl⟩

theorem writesPred_elect : WritesPred s (.elect f) f.h
    { srcs := [], toQ := false, n := f.dst.num.toNat, val := fun s _ t => (lanes (s.me.part f.h)).head? == some t } := by
  refine ⟨formElect f, bodyElect f, rfl, rfl, congrArg s.now (outPred_congr (fun h => absurd h (by decide)) fun t ht => ?_)⟩
  obtain ⟨a, r, hl⟩ := List.exists_cons_of_ne_nil (List.ne_nil_of_mem ht)
  show (t == lowLane (s.me.part f.h)) = ((lanes (s.me.part f.h)).head? == some t)
  rw [lowLane, hl, Bool.eq_iff_iff, beq_iff_eq, beq_iff_eq]
  exact eq_comm.trans Option.some_inj.symm

theorem writesPred_vote : WritesPred s (.vote f) f.h
    { srcs := [], toQ := true, n := f.dst.num.toNat,
      val := fun s _ _ =>
        let all := (lanes (s.me.part f.h)).all (fun t => (s.me.pval f.sa.num.toNat).getLsbD t)
        let any := (lanes (s.me.part f.h)).any (fun t => (s.me.pval f.sa.num.toNat).getLsbD t)
        if f.md = 0 then all else if f.md = 1 then any else all || !any } := by
  refine ⟨formVote f, bodyVote f, rfl, rfl, ?_⟩
  simp only [bodyVote, voteSet, predPend, all_lanes, any_lanes, bne, Bool.not_not]
  rfl
end

/-- Every predicate instruction is a word of that shape. -/
theorem writesPred_predOp {i : Instr} {s : State} {o : PredOp} {h : Head} (ho : predOp i = some o) (hh : i.head? = some h) : WritesPred s i h o := by
  unfold predOp at ho
  split at ho <;> cases ho <;> cases hh
  · exact writesPred_cmp ..
  · exact writesPred_fcmpBody _ _ rfl rfl
  · exact writesPred_fcmpBody _ _ rfl rfl
  · exact writesPred_cmpImm ..
  · exact writesPred_predBody _ _ (fun a b => a && b) rfl rfl
  · exact writesPred_predBody _ _ (fun a b => a || b) rfl rfl
  · exact writesPred_predBody _ _ (fun a b => a != b) rfl rfl
  · exact writesPred_predBody _ _ (fun a _ => !a) rfl rfl
  · exact writesPred_elect ..
  · exact writesPred_vote ..

/-! ### The stand behind such a word -/

/-- A word that goes on, its effect on registers and predicates alone, leaves all of them and what is outstanding as its effect does. -/
theorem done_regs {i : Instr} {s u : State} {f : Form} {b : State → Eff} (hw : wordOf i s = some (f, b)) (hu : LocalFrame s u) :
    (done s u i).me.pc = u.me.pc + BitVec.ofNat 64 (wordBytes i) ∧ (done s u i).me.v = u.me.v ∧ (done s u i).me.sr = u.me.sr ∧
      (done s u i).me.p = u.me.p ∧ (done s u i).me.q = u.me.q := by
  obtain ⟨a, stack, rb, place, clpos, h⟩ := done_me_control hw hu
  rw [h]
  exact ⟨rfl, rfl, rfl, rfl, rfl⟩

theorem putNow_me (s : State) (p : Pend) : (s.putNow s.cur p).me = { s.me.put p with pend := s.me.pend.map p.contest } := by
  rw [me_eq, (localFrame_putNow s p).cur_eq, putNow_standAt]
  rfl

/-- What a long-latency word whose results are predicates has done before it goes on (R41). -/
theorem start_preds (s : State) (i : Instr) (f : Form) (pre : Stand) {p : Pend} (hv : p.vw = []) (hs : p.sw = []) (hch : p.ch = none) :
    ∃ (w : State) (pp : Tbl Mask) (q : BitVec 4) (fl : Tbl Nat) (pd : List Pend), s.start s.cur i f pre p = w.retire s.cur i f pre ∧
      w.standAt s.cur = { s.me with p := pp, q := q, flags := fl, pend := pd } ∧
      (f.h.uni = true ∨ pre.part f.h ≠ 0 → pp = s.me.p ∧ q = s.me.q ∧ ∃ rest g, pd = rest ++ [{ p with flag := g }]) := by
  by_cases hpart : f.h.uni = true ∨ pre.part f.h ≠ 0
  · obtain ⟨fl, hfl⟩ := flagUp_eq s.me (s.me.flagOf f.h.sch)
    have hstart := start_participates (s := s) (k := s.cur) i p hpart
    rw [← me_eq, hfl] at hstart
    exact ⟨_, s.me.p, s.me.q, fl, _, hstart, (putLater_standAt ..).trans (by rw [setStand_standAt]), fun _ => ⟨rfl, rfl, _, _, rfl⟩⟩
  · obtain ⟨hu, h0⟩ := not_or.mp hpart
    have hstart : s.start s.cur i f pre p = (s.putNow s.cur p).retire s.cur i f pre := by
      unfold State.start
      rw [if_pos (by simp [hu, not_not.mp h0]), hch]
      rfl
    refine ⟨_, (s.me.put p).p, (s.me.put p).q, s.me.flags, s.me.pend.map p.contest, hstart, (putNow_standAt ..).trans ?_, fun h => absurd h hpart⟩
    simp only [Stand.put, hv, hs]
    rfl

/-- Settles O16: the word reads its sources and its result is put, or left outstanding; a predicate result names nothing but its predicate. -/
theorem predicateResults : Obligations.PredicateResults := by
  unfold Obligations.PredicateResults
  intro i s o h ho hh ha
  obtain ⟨f, b, hw, rfl, hb⟩ := writesPred_predOp ho hh
  obtain ⟨u, hu⟩ : ∃ u, u = (s.srcs s.cur f.h.uni o.srcs).2 := ⟨_, rfl⟩
  have hchans := srcs_onlyChans s.cur f.h.uni o.srcs s
  rw [← hu] at hchans hb
  have hframe : LocalFrame s u := hchans.localFrame
  obtain ⟨hv, hs, hch, hon⟩ : (predPend f.h s o).vw = [] ∧ (predPend f.h s o).sw = [] ∧ (predPend f.h s o).ch = none ∧
    (predPend f.h s o).on = .ready := outPred_plain ..
  cases hl : o.long with
  | false =>
    rw [hl] at hb
    have hput := hframe.trans (localFrame_putNow u (predPend f.h s o))
    obtain ⟨hpc, hv', hs', hp, hq⟩ := done_regs hw hput
    rw [putNow_me, hchans.me] at hpc hv' hs' hp hq
    refine ⟨_, exec_done hw ha hb, hpc, hv'.trans (by rw [Stand.put, hv]; rfl), hs'.trans (by rw [Stand.put, hs]; rfl), hput.done i,
      (hput.done i).sameMemory, fun _ => ?_, fun h => absurd h (by decide)⟩
    rw [hp, hq]
    exact put_outPred s.me o.toQ (s.me.part f.h) o.n (o.val s (s.srcs s.cur f.h.uni o.srcs).1)
  | true =>
    rw [hl] at hb
    have hstarted := hframe.started i (predPend f.h s o)
    refine ⟨_, exec_started hw ha hb, ?_⟩
    obtain ⟨w, pp, q, fl, pd, hstart, hst, hpart⟩ := start_preds u i f s.me hv hs hch
    obtain ⟨t, ht⟩ : ∃ t, t = started s u i (predPend f.h s o) := ⟨_, rfl⟩
    have hretire : t = w.retire s.cur i f s.me := by rw [ht, started_eq hw hchans.stale, ← hframe.cur_eq, hstart]
    have hme : t.me = t.standAt s.cur := by rw [me_eq, ht, hstarted.cur_eq]
    rw [← ht] at hstarted ⊢
    rw [hframe.cur_eq, hchans.me] at hst
    rw [hchans.me] at hpart
    obtain ⟨hv', hs', hp', hq', -, hpd'⟩ := retire_regs w s.cur i f s.me
    have hpc' := retire_pc w s.cur i f s.me
    rw [← hretire, ← hme, hst] at hv' hs' hp' hq' hpd' hpc'
    refine ⟨hpc', hv', hs', hstarted, hstarted.sameMemory, fun h => absurd h (by decide), fun _ hpar => ?_⟩
    obtain ⟨hpp, hqq, rest, g, hpd⟩ := hpart hpar
    refine ⟨hp'.trans hpp, hq'.trans hqq, rest, _, hpd'.trans hpd, hon, fun hQ => ?_,
      fun hQ h7 => ⟨maskOf ((lanes (s.me.part f.h)).filter (o.val s (s.srcs s.cur f.h.uni o.srcs).1)), ?_, fun lane hlane => ?_⟩⟩
    · simp only [predPend, hQ, outPred, if_true]
    · simp only [predPend, hQ, outPred, Bool.false_eq_true, if_false, if_neg h7]
    · obtain ⟨hlt, hbit⟩ := (mem_lanes _ _).mp hlane
      rw [getLsbD_filtered _ _ hlt, hbit, Bool.true_and]

end Sys2Proof.Machine
end

section
/-! SUPPORT. Masks, the first thread's value and K4O blocks in registers (spec/04 R109, R110; spec/06 R153, R165; spec/08 R198, R199). -/

namespace Sys2Proof.Machine

/-- A word that reads its sources and puts its result at once leaves the registers and predicates that the result makes, and nothing else. -/
theorem exec_now {i : Instr} {s u : State} {f : Form} {b : State → Eff} {p : Pend} (hw : wordOf i s = some (f, b)) (ha : Acts s i)
    (hu : OnlyChans s.myCoreKey s u) (hb : b s = u.now p) : ∃ t, exec i s = .next t ∧ LocalFrame s t ∧ SameMemory s t ∧
      t.standAt s.cur = t.me ∧ t.me.v = (s.me.put p).v ∧ t.me.sr = (s.me.put p).sr ∧ t.me.p = (s.me.put p).p ∧ t.me.q = (s.me.put p).q := by
  have hput := hu.localFrame.trans (localFrame_putNow u p)
  obtain ⟨-, hv, hs, hp, hq⟩ := done_regs hw hput
  rw [putNow_me, hu.me] at hv hs hp hq
  exact ⟨_, exec_done hw ha hb, hput.done i, (hput.done i).sameMemory, by rw [me_eq, (hput.done i).cur_eq], hv, hs, hp, hq⟩

/-! ### A mask in a pair of s registers, and the first thread's value -/

theorem mask_halves (m : Mask) : (m.extractLsb' 64 64 ++ m.extractLsb' 0 64 : BitVec (64 + 64)) = m := by
  ext i hi
  simp only [BitVec.getElem_append, BitVec.getElem_extractLsb', Nat.zero_add]
  split
  · rw [← BitVec.getLsbD_eq_getElem]
  · rw [Nat.add_sub_cancel' (by omega), ← BitVec.getLsbD_eq_getElem]

theorem put_maskPair (st : Stand) (n : Nat) (m : Mask) :
    tget 0 (st.put (maskPair n m)).sr (n + 1) ++ tget 0 (st.put (maskPair n m)).sr n = (m : BitVec (64 + 64)) ∧
    ∀ j, j ≠ n → j ≠ n + 1 → tget 0 (st.put (maskPair n m)).sr j = tget 0 st.sr j := by
  show tget 0 (tset (n + 1) (m.extractLsb' 64 64) (tset n (m.extractLsb' 0 64) st.sr)) (n + 1) ++
      tget 0 (tset (n + 1) (m.extractLsb' 64 64) (tset n (m.extractLsb' 0 64) st.sr)) n = (m : BitVec (64 + 64)) ∧
    ∀ j, j ≠ n → j ≠ n + 1 → tget 0 (tset (n + 1) (m.extractLsb' 64 64) (tset n (m.extractLsb' 0 64) st.sr)) j = tget 0 st.sr j
  refine ⟨?_, fun j hn hn' => by rw [tget_tset_ne _ hn', tget_tset_ne _ hn]⟩
  rw [tget_tset_self, tget_tset_ne _ (by omega), tget_tset_self]
  exact mask_halves m

/-- A word that writes a mask to a pair of s registers. -/
theorem exec_maskPair {i : Instr} {s : State} {f : Form} {b : State → Eff} {n : Nat} {m : Mask} (hw : wordOf i s = some (f, b)) (ha : Acts s i)
    (hb : b s = s.now (maskPair n m)) : ∃ t, exec i s = .next t ∧ tget 0 t.me.sr (n + 1) ++ tget 0 t.me.sr n = (m : BitVec (64 + 64)) ∧
      (∀ j, j ≠ n → j ≠ n + 1 → tget 0 t.me.sr j = tget 0 s.me.sr j) ∧ t.me.v = s.me.v ∧ t.me.p = s.me.p ∧ t.me.q = s.me.q ∧
      LocalFrame s t ∧ SameMemory s t := by
  obtain ⟨t, ht, hf, hm, -, hv, hs, hp, hq⟩ := exec_now hw ha (onlyChans_refl _ s) hb
  obtain ⟨hpair, hrest⟩ := put_maskPair s.me n m
  rw [← hs] at hpair
  exact ⟨t, ht, hpair, fun j hj hj' => by rw [hs, hrest j hj hj'], hv, hp, hq, hf, hm⟩

/-- The result of `mov.first`: the value of the lowest participating thread, or none (R153). -/
def firstPend (p : Mask) (n w : Nat) (vs : List Src) : Pend :=
  if p = 0 then Pend.empty else { Pend.empty with sw := [(n, BitVec.ofNat 64 (srcN vs 0 (lowLane p) % 2 ^ w))] }

theorem put_firstPend (st : Stand) (p : Mask) (n w : Nat) (vs : List Src) : let x := st.put (firstPend p n w vs)
    (∀ lane, (lanes p).head? = some lane → tget 0 x.sr n = (srcBits vs 0 w lane).setWidth 64) ∧ (p = 0 → x.sr = st.sr) ∧
    (∀ j, j ≠ n → tget 0 x.sr j = tget 0 st.sr j) ∧ x.v = st.v ∧ x.p = st.p ∧ x.q = st.q := by
  intro x
  by_cases hp : p = 0
  · subst hp
    have hx : x = st := by show st.put (firstPend 0 n w vs) = st; rw [firstPend, if_pos rfl]; rfl
    rw [hx]
    exact ⟨fun lane hl => absurd hl (by rw [lanes_zero]; exact nofun), fun _ => rfl, fun _ _ => rfl, rfl, rfl, rfl⟩
  · have hx : x = { st with sr := tset n (BitVec.ofNat 64 (srcN vs 0 (lowLane p) % 2 ^ w)) st.sr } := by
      show st.put (firstPend p n w vs) = _
      rw [firstPend, if_neg hp]
      rfl
    rw [hx]
    refine ⟨fun lane hl => ?_, fun h => absurd h hp, fun j hj => tget_tset_ne _ hj _ _, rfl, rfl, rfl⟩
    rw [tget_tset_self, lowLane, hl, Option.getD_some, ← toNat_srcBits, BitVec.ofNat_toNat]

/-! ### Runs of destination registers -/

/-- The results of a run of destinations, register by register. -/
def runPend (uni : Bool) (p : Mask) (o : Opd) (val : Nat → Nat → Word64) (m : Nat) : Pend :=
  (List.range m).foldl (fun r j => r.both (outVals uni p (runOpd o j) false (val j))) Pend.empty

section
variable {uni : Bool} {p : Mask} {o : Opd} (val : Nat → Nat → Word64)

theorem runPend_succ (m : Nat) : runPend uni p o val (m + 1) = (runPend uni p o val m).both (outVals uni p (runOpd o m) false (val m)) := by
  rw [runPend, List.range_succ, List.foldl_append]
  rfl

theorem runOpd_num (o : Opd) (j : Nat) : (runOpd o j).num.toNat = (o.num.toNat + j) % 256 := by
  show (o.num + BitVec.ofNat 8 j).toNat = _
  rw [BitVec.toNat_add, BitVec.toNat_ofNat, Nat.add_mod_mod]

theorem outVals_run (h : o.cl = false) (j : Nat) : outVals uni p (runOpd o j) false (val j) =
    if uni then { Pend.empty with sw := [((o.num.toNat + j) % 256, val j 0)] }
    else { Pend.empty with vw := (lanes p).map (fun t => (128 * ((o.num.toNat + j) % 256) + t, (val j t).extractLsb' 0 32)) } := by
  have hcl : (runOpd o j).cl = false := h
  rw [outVals, hcl, runOpd_num]
  cases uni with
  | true => rfl
  | false => simp only [Bool.false_eq_true, if_false, List.map_eq_flatMap]

/-- What a run of registers names, in each thread; no channel and no predicate. -/
theorem runPend_eq (h : o.cl = false) (m : Nat) : runPend uni p o val m =
    if uni then { Pend.empty with sw := (List.range m).map (fun j => ((o.num.toNat + j) % 256, val j 0)) }
    else { Pend.empty with vw := (List.range m).flatMap (fun j =>
      (lanes p).map (fun t => (128 * ((o.num.toNat + j) % 256) + t, (val j t).extractLsb' 0 32))) } := by
  induction m with
  | zero => cases uni <;> rfl
  | succ m ih =>
    rw [runPend_succ, outVals_run val h, ih, List.range_succ]
    cases uni
    · simp [Pend.both, Pend.empty]
    · simp [Pend.both, Pend.empty]

theorem runPend_sw (h : o.cl = false) (m : Nat) (w : Nat × Word64) : w ∈ (runPend true p o val m).sw ↔
    ∃ j < m, ((o.num.toNat + j) % 256, val j 0) = w := by
  rw [runPend_eq val h, if_pos rfl, List.mem_map]
  simp only [List.mem_range]

theorem runPend_vw (h : o.cl = false) (m : Nat) (w : Nat × Word32) : w ∈ (runPend false p o val m).vw ↔
    ∃ j < m, ∃ t ∈ lanes p, (128 * ((o.num.toNat + j) % 256) + t, (val j t).extractLsb' 0 32) = w := by
  rw [runPend_eq val h, if_neg (by decide), List.mem_flatMap]
  simp only [List.mem_range, List.mem_map]

theorem runPend_preds (h : o.cl = false) (m : Nat) : (runPend uni p o val m).pw = [] ∧ (runPend uni p o val m).qw = [] := by
  rw [runPend_eq val h]
  cases uni <;> exact ⟨rfl, rfl⟩
end

/-- Each register of a run holds its value, in each thread that takes part. -/
theorem written_run {t : State} {k : Nat} {h : Head} {o : Opd} {val : Nat → Nat → Word64} {m : Nat} {r : Pend} {st : Stand} (hcl : o.cl = false)
    (hm : m ≤ 256) (hvw : r.vw = (runPend h.uni (st.part h) o val m).vw) (hsw : r.sw = (runPend h.uni (st.part h) o val m).sw)
    (hv : (t.standAt k).v = (st.put r).v) (hs : (t.standAt k).sr = (st.put r).sr) {lane : Nat} (hl : lane ∈ resultLanes st h) {j : Nat} (hj : j < m) :
    written t k h.uni false (runOpd o j) lane = landed h.uni false (val j lane) := by
  have hcl' : (runOpd o j).cl = false := hcl
  simp only [written, hcl', landed, runOpd_num, hv, hs, Stand.put, hvw, hsw, Bool.false_eq_true, if_false, Bool.or_false]
  rw [resultLanes] at hl
  cases hu : h.uni with
  | true =>
    rw [hu, if_pos rfl, List.mem_singleton] at hl
    subst hl
    rw [if_pos rfl, if_pos rfl]
    refine tget_tputs_mem 0 st.sr ((runPend_sw val hcl m _).mpr ⟨j, hj, rfl⟩) fun w hw hk => ?_
    obtain ⟨i, hi, rfl⟩ := (runPend_sw val hcl m w).mp hw
    have hij : i = j := by simp only at hk; omega
    rw [hij]
  | false =>
    rw [hu, if_neg (by decide)] at hl
    have hlt := ((mem_lanes _ _).mp hl).1
    rw [if_neg (by decide), if_neg (by decide), tget_tputs_mem 0 st.v ((runPend_vw val hcl m _).mpr ⟨j, hj, lane, hl, rfl⟩) fun w hw hk => ?_]
    · rw [← BitVec.setWidth_eq_extractLsb' (by decide)]
    · obtain ⟨i, hi, t', ht', rfl⟩ := (runPend_vw val hcl m w).mp hw
      have hlt' := ((mem_lanes _ _).mp ht').1
      obtain ⟨rfl, rfl⟩ : i = j ∧ t' = lane := by simp only at hk; omega
      rfl

/-- A field where no channel may stand does not name one in a word that acts (R33). -/
theorem acts_no_channel {i : Instr} {s : State} {f : Form} {b : State → Eff} (hw : wordOf i s = some (f, b)) (ha : Acts s i) {o : Opd}
    {regs us : Nat} {even : Bool} (hm : (o, Role.dst regs us even false) ∈ f.ops) : o.cl = false := by
  have hi := acts_issues ha
  simp only [Issues, hw] at hi
  obtain ⟨-, hill, -⟩ := hi
  by_contra hcl
  rw [Bool.not_eq_false] at hcl
  have h9 : 9 ∈ s.illCauses s.cur i f := mem_illCauses.mpr (.inr (.inl ⟨_, hm, by simp [fieldIll, hcl]⟩))
  rw [hill] at h9
  exact absurd h9 List.not_mem_nil

theorem runOpd_zero (o : Opd) : runOpd o 0 = o := by
  show { o with num := o.num + BitVec.ofNat 8 0 } = o
  rw [BitVec.add_zero]

/-! ### K4O blocks (R165, R198, R199) -/

/-- The element-plane word and the header byte as two registers of a run. -/
def packWord (r : Nat × Nat) : Nat → Word64
  | 0 => BitVec.ofNat 64 r.1
  | _ => BitVec.ofNat 64 r.2

/-- The block that `qpack` makes of a thread's sources. -/
def packOf (s : State) (f : T96) (t : Nat) : Nat × Nat :=
  qpackN ((List.range 8).map (fun j => runVal s f.h.uni f.sa j t)) (srcN (s.srcs s.cur f.h.uni [(f.sb, false)]).1 0 t) (f.md == 1)

theorem bodyQpack_eq (f : T96) (s : State) : bodyQpack f s = (s.srcs s.cur f.h.uni [(f.sb, false)]).2.now
    ((outVals f.h.uni (s.me.part f.h) f.dst false (fun t => packWord (packOf s f t) 0)).both
      (outVals f.h.uni (s.me.part f.h) (runOpd f.dst 1) false (fun t => packWord (packOf s f t) 1))) := by
  unfold bodyQpack
  simp only [(srcs_onlyChans s.cur f.h.uni [(f.sb, false)] s).me]
  rfl

theorem exec_qpack (f : T96) (s : State) (ha : Acts s (.qpack f)) : ∃ t, exec (.qpack f) s = .next t ∧ LocalFrame s t ∧ SameMemory s t ∧
    ∀ lane ∈ resultLanes s.me f.h, ∀ j < 2,
      written t s.cur f.h.uni false (runOpd f.dst j) lane = landed f.h.uni false (packWord (packOf s f lane) j) := by
  have hw : wordOf (.qpack f) s = some (formQpack f, bodyQpack f) := rfl
  have hcl : f.dst.cl = false := acts_no_channel hw ha (regs := 2) (us := 2) (even := false) (by simp [formQpack])
  obtain ⟨t, ht, hf, hm, hst, hv, hs, -⟩ := exec_now hw ha (srcs_onlyChans s.cur f.h.uni [(f.sb, false)] s) (bodyQpack_eq f s)
  rw [← hst] at hv hs
  refine ⟨t, ht, hf, hm, fun lane hl j hj => ?_⟩
  refine written_run (val := fun j t => packWord (packOf s f t) j) (m := 2) hcl (by decide) ?_ ?_ hv hs hl hj
  · rw [runPend_succ, runPend_succ, runOpd_zero]
    rfl
  · rw [runPend_succ, runPend_succ, runOpd_zero]
    rfl

section
variable (f : T96) (s : State)

/-- The sources of `qunpack`: the element plane, the header and the tensor scale. -/
def unpackSrcs : List Src := (s.srcs s.cur f.h.uni [(f.sa, false), (f.sb, false), (f.sc, false)]).1

/-- The values that `qunpack` decodes for a thread, and its format-fault bit. -/
def unpackWord (j t : Nat) : Word64 := BitVec.ofNat 64 (qunpackN (f.md.extractLsb' 0 2).toNat (srcBits (unpackSrcs f s) 0 32 t).toNat
  (srcN (unpackSrcs f s) 1 t) (srcBits (unpackSrcs f s) 2 32 t).toNat j)
def unpackFf (t : Nat) : Bool :=
  qunpackFf (srcBits (unpackSrcs f s) 0 32 t).toNat (srcN (unpackSrcs f s) 1 t) (srcBits (unpackSrcs f s) 2 32 t).toNat

/-- The number of the predicate that `qunpack` writes. -/
def ffNum : Nat := (f.md.extractLsb' 3 3).toNat

def ffPend : Pend := if f.md.getLsbD 2 then outPred f.h.uni (s.me.part f.h) (ffNum f) (unpackFf f s) else Pend.empty

theorem ffNum_eq : bits f.md.toNat 5 3 = ffNum f := by
  rw [ffNum, BitVec.extractLsb'_toNat, Nat.shiftRight_eq_div_pow]
  rfl

theorem roundMode_eq : T96.rm f = (f.md.extractLsb' 0 2).toNat := by
  rw [BitVec.extractLsb'_toNat, Nat.shiftRight_zero]
  rfl

theorem bodyQunpack_eq : bodyQunpack f s = (s.srcs s.cur f.h.uni [(f.sa, false), (f.sb, false), (f.sc, false)]).2.now
    ((runPend f.h.uni (s.me.part f.h) f.dst (unpackWord f s) 8).both (ffPend f s)) := by
  unfold bodyQunpack
  simp only [(srcs_onlyChans s.cur f.h.uni [(f.sa, false), (f.sb, false), (f.sc, false)] s).me, ← toNat_srcBits, ffNum_eq, roundMode_eq]
  rfl

theorem ffPend_plain : (ffPend f s).vw = [] ∧ (ffPend f s).sw = [] := by
  unfold ffPend
  split
  · obtain ⟨hv, hs, -⟩ := outPred_plain f.h.uni (s.me.part f.h) (ffNum f) (unpackFf f s)
    exact ⟨hv, hs⟩
  · exact ⟨rfl, rfl⟩

/-- A uniform predicate of a `qunpack` that acts is one of the four (R51). -/
theorem acts_ffNum {f : T96} {s : State} (ha : Acts s (.qunpack f)) (hff : f.md.getLsbD 2 = true) (hu : f.h.uni = true) : ffNum f < 4 := by
  have hi := acts_issues ha
  have hw : wordOf (.qunpack f) s = some (formQunpack f, bodyQunpack f) := rfl
  simp only [Issues, hw] at hi
  obtain ⟨-, hill, -⟩ := hi
  by_contra hge
  have hlt : ffNum f < 256 := Nat.lt_trans (f.md.extractLsb' 3 3).isLt (by decide)
  have hop : (⟨BitVec.ofNat 8 (ffNum f), false, false, false⟩, Role.pred) ∈ (formQunpack f).ops := by
    simp [formQunpack, hff, ffNum_eq]
  have h6 : 6 ∈ s.illCauses s.cur (.qunpack f) (formQunpack f) := by
    refine mem_illCauses.mpr (.inr (.inl ⟨_, hop, ?_⟩))
    have hu' : (formQunpack f).h.uni = true := hu
    simp [fieldIll, hu', Nat.mod_eq_of_lt hlt, Nat.le_of_not_lt hge]
  rw [hill] at h6
  exact absurd h6 List.not_mem_nil

theorem exec_qunpack (ha : Acts s (.qunpack f)) : ∃ t, exec (.qunpack f) s = .next t ∧ LocalFrame s t ∧ SameMemory s t ∧
    ∀ lane ∈ resultLanes s.me f.h,
      (∀ j < 8, written t s.cur f.h.uni false (runOpd f.dst j) lane = landed f.h.uni false (unpackWord f s j lane)) ∧
      (f.md.getLsbD 2 = true →
        (f.h.uni = true → t.me.q.getLsbD (ffNum f) = unpackFf f s lane) ∧
        (f.h.uni = false → ffNum f ≠ 7 → (tget 0 t.me.p (ffNum f)).getLsbD lane = unpackFf f s lane)) := by
  have hw : wordOf (.qunpack f) s = some (formQunpack f, bodyQunpack f) := rfl
  have hcl : f.dst.cl = false := acts_no_channel hw ha (regs := 8) (us := 8) (even := false) (by simp [formQunpack])
  obtain ⟨t, ht, hf, hm, hst, hv, hs, hp, hq⟩ :=
    exec_now hw ha (srcs_onlyChans s.cur f.h.uni [(f.sa, false), (f.sb, false), (f.sc, false)] s) (bodyQunpack_eq f s)
  rw [← hst] at hv hs
  obtain ⟨hvw, hsw⟩ := ffPend_plain f s
  obtain ⟨hpw, hqw⟩ := runPend_preds (uni := f.h.uni) (p := s.me.part f.h) (unpackWord f s) hcl 8
  refine ⟨t, ht, hf, hm, fun lane hl => ⟨fun j hj => ?_, fun hff => ?_⟩⟩
  · refine written_run (val := unpackWord f s) (m := 8) hcl (by decide) ?_ ?_ hv hs hl hj
    · rw [Pend.both, hvw, List.append_nil]
    · rw [Pend.both, hsw, List.append_nil]
  · have hpend : ffPend f s = outPred f.h.uni (s.me.part f.h) (ffNum f) (unpackFf f s) := if_pos hff
    simp only [Stand.put, Pend.both, hpw, hqw, List.nil_append, hpend] at hp hq
    obtain ⟨-, -, hq', -, hp'⟩ := put_outPred s.me f.h.uni (s.me.part f.h) (ffNum f) (unpackFf f s)
    rw [resultLanes] at hl
    refine ⟨fun hu => ?_, fun hu h7 => ?_⟩
    · rw [hu, if_pos rfl, List.mem_singleton] at hl
      rw [hl, hq]
      exact hq' hu (acts_ffNum ha hff hu)
    · rw [hu, if_neg (by decide)] at hl
      obtain ⟨hlt, hbit⟩ := (mem_lanes _ _).mp hl
      rw [hp]
      exact (hp' hu h7 lane hlt).trans (if_pos hbit)
end

/-- Settles O18: each word puts its results at once, in the registers that its destination names. -/
theorem maskFirstAndPackedResults : Obligations.MaskFirstAndPackedResults := by
  unfold Obligations.MaskFirstAndPackedResults
  refine ⟨fun f s => ⟨fun ha => ?_, fun ha => ?_, fun ha => ?_⟩, fun f s => ⟨fun ha => ?_, fun ha => ?_⟩⟩
  · exact exec_maskPair (f := formActm f) (b := bodyActm f) rfl ha rfl
  · exact exec_maskPair (f := formVoteBallot f) (b := bodyVoteBallot f) rfl ha rfl
  · have hchans := srcs_onlyChans s.cur false [(f.sa, tyBits f.ty.toNat == 64)] s
    have hb : bodyMovFirst f s = (s.srcs s.cur false [(f.sa, tyBits f.ty.toNat == 64)]).2.now (firstPend (s.me.part f.h) f.dst.num.toNat
        (tyBits f.ty.toNat) (s.srcs s.cur false [(f.sa, tyBits f.ty.toNat == 64)]).1) := by
      unfold bodyMovFirst
      simp only [hchans.me]
      rfl
    obtain ⟨t, ht, hf, hm, -, hv, hs, hp, hq⟩ := exec_now (f := formMovFirst f) (b := bodyMovFirst f) rfl ha hchans hb
    obtain ⟨hfirst, hnone, hrest, hv', hp', hq'⟩ := put_firstPend s.me (s.me.part f.h) f.dst.num.toNat (tyBits f.ty.toNat)
      (s.srcs s.cur false [(f.sa, tyBits f.ty.toNat == 64)]).1
    rw [← hs] at hfirst hnone hrest
    exact ⟨t, ht, hfirst, hnone, hrest, hv.trans hv', hp.trans hp', hq.trans hq', hf, hm⟩
  · obtain ⟨t, ht, hf, hm, hword⟩ := exec_qpack f s ha
    refine ⟨t, ht, hf, hm, fun lane hl => ⟨?_, hword lane hl 1 (by decide)⟩⟩
    have h0 := hword lane hl 0 (by decide)
    rw [runOpd_zero] at h0
    exact h0
  · exact exec_qunpack f s ha

end Sys2Proof.Machine
end

section
/-! SUPPORT. What happens to a stand beside its issue (spec/04 R101, R107; spec/12 R338; spec/17 R397, R398, R400, R420). -/

namespace Sys2Proof.Machine

section
variable {s : State} {k : Nat}

/-! ### Trap entry (R400) -/

theorem enterTrap_waits (h : (s.standAt k).trapWait = none ∨ (s.standAt k).pend ≠ [] ∨ (s.copseAt (copseOf k)).life ≠ .resident) :
    s.enterTrap k = s := by
  unfold State.enterTrap
  simp only
  split
  · rfl
  · next r hr =>
    rw [hr] at h
    refine if_neg fun hnow => ?_
    obtain ⟨hpend, hlife⟩ := hnow
    exact h.elim nofun (fun h => h.elim (absurd hpend) (absurd hlife))

theorem enterTrap_takes {r : FaultRec} (hr : (s.standAt k).trapWait = some r) (hpend : (s.standAt k).pend = [])
    (hlife : (s.copseAt (copseOf k)).life = .resident) : s.enterTrap k = s.takeTrap k r := by
  simp only [State.enterTrap, hr, hpend, hlife, and_self, if_true]

/-! ### Deferred traps (R397) -/

/-- A deferred trap of a stand is due, and nothing of the stand is outstanding. -/
def TakesDeferred (st : Stand) (c : Copse) : Prop :=
  (st.life = .live ∨ st.life = .ending) ∧ st.wait = .none ∧ st.trapWait = none ∧ st.held = false ∧ st.fencing = false ∧ st.deferred ≠ [] ∧
    st.frames = [] ∧ st.pend = [] ∧ c.life = .resident

theorem takesDeferred_iff (st : Stand) (c : Copse) :
    (!st.deferDue || st.pend != [] || c.life != .resident) = false ↔ TakesDeferred st c := by
  simp only [TakesDeferred, Stand.deferDue, Bool.or_eq_false_iff, Bool.not_eq_false', Bool.and_eq_true, Bool.or_eq_true, beq_iff_eq, bne_iff_ne,
    bne_eq_false_iff_eq, Bool.not_eq_true', and_assoc, ne_eq]

theorem takeDeferred_not_due (h : ¬TakesDeferred (s.standAt k) (s.copseAt (copseOf k))) : s.takeDeferred k = s := by
  rw [← takesDeferred_iff, Bool.not_eq_false] at h
  unfold State.takeDeferred
  simp only
  split
  · rfl
  · exact if_pos h

/-- Where a deferred trap returns to: a stand that ends has its place of exit (R101, R398). -/
def Stand.deferPc (st : Stand) : Word64 := if st.life = .ending then st.exitPc else st.pc

/-- A stand whose queue has lost its head. -/
def Stand.dequeued (st : Stand) (rest : List FaultRec) : Stand := { st with deferred := rest, pc := st.deferPc }

/-- A record of the queue as it is taken, with the program counter of now. -/
def State.takenRec (s : State) (k : Nat) (r : FaultRec) : FaultRec :=
  { r with npc := (s.standAt k).deferPc, othpc := s.othpc (copseOf k) (s.standAt k).deferPc.toNat }

/-- The head of the queue is taken, or posted where no handler of the stand runs any more (R397, R398, R401). -/
theorem takeDeferred_due {r : FaultRec} {rest : List FaultRec} (h : TakesDeferred (s.standAt k) (s.copseAt (copseOf k)))
    (hq : (s.standAt k).deferred = r :: rest) :
    s.takeDeferred k = (if (s.standAt k).life = .ending ∧ (s.standAt k).exitMask = 0
      then (s.setStand k ((s.standAt k).dequeued rest)).postEvent (s.copseAt (copseOf k)).vi (s.takenRec k r)
      else (s.setStand k ((s.standAt k).dequeued rest)).takeTrap k (s.takenRec k r)).settleDeferred k := by
  unfold State.takeDeferred
  simp only [hq]
  rw [if_neg (ne_true_of_eq_false ((takesDeferred_iff _ _).mpr h))]
  rfl

/-- Nothing of a stand waits for room in its queue. -/
theorem settleDeferred_nothing (hlog : ∀ e ∈ (s.coreAt (s.coreOf k)).slog, e.stand ≠ k ∨ e.req ≠ 0)
    (hcopies : ∀ x ∈ (s.copseAt (copseOf k)).copies, x.stand ≠ k) (hfills : ∀ x ∈ (s.copseAt (copseOf k)).fills, x.wb ≠ some k ∨ x.req ≠ some 0)
    (hfence : (s.standAt k).fenceM = none) (hswbs : (s.standAt k).swbs = []) : s.settleDeferred k = s := by
  have hl : s.settleLog k = s := by
    unfold State.settleLog
    simp only
    rw [List.filter_eq_nil_iff.mpr fun e he => ?_]
    · rfl
    · simpa [imp_iff_not_or] using hlog e he
  have hc : s.settleCopies k = s := by
    unfold State.settleCopies
    simp only
    rw [List.filter_eq_nil_iff.mpr fun x hx => ?_]
    · rfl
    · simp [hcopies x hx]
  have hf : s.settleFills k = s := by
    unfold State.settleFills
    simp only
    rw [List.filter_eq_nil_iff.mpr fun x hx => ?_]
    · rfl
    · simpa [imp_iff_not_or] using hfills x hx
  have hm : s.resumeFenceM k = s := by
    unfold State.resumeFenceM State.settleSwbs State.startFenceM
    simp only [hswbs, List.foldl_nil, hfence, ite_self]
  rw [State.settleDeferred, hl, hc, hf, hm]

/-! ### The end of a stand (R101) -/

theorem leaveAll_none (h : s.grovesWith k = []) (departs : Bool) : s.leaveAll k departs = s := by
  rw [State.leaveAll, h]
  rfl

/-- A stand that ends with nothing outstanding. -/
def StandEnds (s : State) (k : Nat) : Prop := (s.standAt k).life = .ending ∧ (s.copseAt (copseOf k)).life = .resident ∧ s.quiet k = true

theorem standEnds_iff : ((s.standAt k).life ≠ .ending ∨ (s.copseAt (copseOf k)).life ≠ .resident ∨ (!s.quiet k) = true) ↔ ¬StandEnds s k := by
  rw [StandEnds, Bool.not_eq_true', ← Bool.not_eq_true]
  tauto

theorem endStand_not (h : ¬StandEnds s k) : s.endStand k = s := if_pos (standEnds_iff.mpr h)

theorem endStand_not_last (h : StandEnds s k) (hlast : s.standsOf (copseOf k) ≠ [k]) (hgroves : s.grovesWith k = []) :
    s.endStand k = s.setStand k Stand.init := by
  unfold State.endStand
  simp only [beq_eq_false_iff_ne.mpr hlast, Bool.false_and, Bool.false_eq_true, if_false, leaveAll_none hgroves]
  exact if_neg fun hno => standEnds_iff.mp hno h

theorem endStand_dirty (h : StandEnds s k) (hlast : s.standsOf (copseOf k) = [k]) (hdirty : (s.copseAt (copseOf k)).allDirty ≠ []) :
    s.endStand k = s.startWbs (copseOf k) k (s.copseAt (copseOf k)).allDirty := by
  unfold State.endStand
  simp only [hlast, beq_self_eq_true, Bool.true_and, bne_iff_ne.mpr hdirty, if_true]
  exact if_neg fun hno => standEnds_iff.mp hno h

/-- The machine in which a copse without reservations has released them. -/
theorem releaseResvs_none {copse : Nat} (h : ∀ x ∈ (s.engineAt (clusterOf (s.copseAt copse).core)).taken, x.2.copse ≠ copse) :
    s.releaseResvs copse = s.setEngine (clusterOf (s.copseAt copse).core) (s.engineAt (clusterOf (s.copseAt copse).core)) ∧
      (s.releaseResvs copse).holdsResv copse = false := by
  have heq : s.releaseResvs copse = s.setEngine (clusterOf (s.copseAt copse).core) (s.engineAt (clusterOf (s.copseAt copse).core)) := by
    unfold State.releaseResvs
    simp only
    rw [List.filter_eq_nil_iff.mpr fun x hx => by simpa using h x hx]
    rfl
  refine ⟨heq, ?_⟩
  rw [heq, State.holdsResv, List.any_eq_false]
  intro x hx
  rw [State.engineAt, State.setEngine, setCluster_copseAt, setCluster_clusterAt] at hx
  simpa using h x hx

theorem endStand_last (h : StandEnds s k) (hlast : s.standsOf (copseOf k) = [k]) (hclean : (s.copseAt (copseOf k)).allDirty = [])
    (hgroves : s.grovesWith k = [])
    (hresv : ∀ x ∈ (s.engineAt (clusterOf (s.copseAt (copseOf k)).core)).taken, x.2.copse ≠ copseOf k) :
    s.endStand k = ((s.setEngine (clusterOf (s.copseAt (copseOf k)).core) (s.engineAt (clusterOf (s.copseAt (copseOf k)).core))).setStand k
      Stand.init).copseEnds (copseOf k) := by
  obtain ⟨heq, hnone⟩ := releaseResvs_none hresv
  unfold State.endStand
  rw [if_neg fun hno => standEnds_iff.mp hno h]
  simp only [hlast, beq_self_eq_true, Bool.true_and, hclean, bne_self_eq_false, Bool.false_eq_true, if_false, if_true, hnone]
  rw [heq, leaveAll_none (s := s.setEngine _ _) hgroves]

/-! ### The end of a copse (R74, R338) -/

/-- Stands, the cores of copses and memory are as before. -/
def KeepsPlaces (s t : State) : Prop := t.stands = s.stands ∧ (∀ n, (t.copseAt n).core = (s.copseAt n).core) ∧ SameMemory s t

theorem keepsPlaces_refl (s : State) : KeepsPlaces s s := ⟨rfl, fun _ => rfl, sameMemory_refl s⟩

theorem KeepsPlaces.trans {t u : State} (h : KeepsPlaces s t) (h' : KeepsPlaces t u) : KeepsPlaces s u := by
  obtain ⟨hst, hco, hme⟩ := h
  obtain ⟨hst', hco', hme'⟩ := h'
  exact ⟨hst'.trans hst, fun n => (hco' n).trans (hco n), hme.trans hme'⟩

theorem keepsPlaces_setLaunch (s : State) (n : Nat) (l : Launch) : KeepsPlaces s (s.setLaunch n l) :=
  ⟨rfl, fun _ => rfl, sameMemory_of_parts (fun _ => rfl) rfl rfl rfl⟩

theorem keepsPlaces_setCluster (s : State) (n : Nat) (c : Cluster) : KeepsPlaces s (s.setCluster n c) :=
  ⟨rfl, fun _ => rfl, sameMemory_of_parts (fun _ => rfl) rfl rfl rfl⟩

theorem keepsPlaces_setCore (s : State) (n : Nat) {c : Core} (h : c.l1 = (s.coreAt n).l1) : KeepsPlaces s (s.setCore n c) := by
  refine ⟨rfl, fun _ => rfl, sameMemory_of_parts (fun j => ?_) rfl rfl rfl⟩
  rw [setCore_coreAt_at]
  split
  · next e => rw [h, e]
  · rfl

theorem keepsPlaces_setCopse (s : State) (n : Nat) {c : Copse} (h : c.core = (s.copseAt n).core) : KeepsPlaces s (s.setCopse n c) := by
  refine ⟨rfl, fun j => ?_, sameMemory_of_parts (fun _ => rfl) rfl rfl rfl⟩
  rw [setCopse_copseAt_at]
  split
  · next e => rw [h, e]
  · rfl

theorem keepsPlaces_returnBlock (s : State) (copse dom : Nat) : KeepsPlaces s (s.returnBlock copse dom) := by
  have hset : KeepsPlaces s (s.setBlock copse dom []) := by
    unfold State.setBlock
    simp only
    split_ifs
    · exact keepsPlaces_setCopse s _ rfl
    · exact keepsPlaces_setCore s _ rfl
    · exact keepsPlaces_setCluster s _ _
  refine hset.trans ?_
  unfold State.returnBlock State.returnRange
  simp only
  split_ifs
  · exact keepsPlaces_refl _
  · exact keepsPlaces_setLaunch _ _ _

theorem keepsPlaces_vacate (s : State) (copse : Nat) : KeepsPlaces s (s.vacate copse) := by
  have hif (p : Bool) (u : State) (dom : Nat) : KeepsPlaces u (if p then u else u.returnBlock copse dom) := by
    split
    · exact keepsPlaces_refl u
    · exact keepsPlaces_returnBlock u copse dom
  exact ((keepsPlaces_returnBlock s copse 2).trans (hif ..)).trans (hif ..)

theorem keepsPlaces_freeChans (s : State) (copse : Nat) : KeepsPlaces s (s.freeChans copse) := keepsPlaces_setCore s _ rfl
theorem keepsPlaces_offCore (s : State) (copse : Nat) : KeepsPlaces s (s.offCore copse) := keepsPlaces_setCore s _ rfl

/-- Off its core, a copse has no channel there and no place in its order. -/
theorem offCore_freeChans (s : State) (copse : Nat) : let n := (s.copseAt copse).core
    ((s.freeChans copse).offCore copse).coreAt n = ({ s.coreAt n with chans := (s.coreAt n).chans.filter (fun e => e.2.owner != some copse) } : Core).redeal
      ((s.coreAt n).order.filter (fun x => x != copse)) := by
  simp only [State.offCore, State.freeChans, setCore_copseAt, setCore_coreAt]

theorem copseEnds_facts (s : State) (copse : Nat) : let t := s.copseEnds copse
    t.stands = s.stands ∧ (t.copseAt copse).life = .ended ∧ copse ∉ (t.coreAt (s.copseAt copse).core).order ∧
      (∀ n ch, tfind n (t.coreAt (s.copseAt copse).core).chans = some ch → ch.owner ≠ some copse) ∧ SameMemory s t := by
  obtain ⟨v, hv⟩ : ∃ v, v = (if (s.copseAt copse).launch = 0 then s else s.vacate copse) := ⟨_, rfl⟩
  have hkeep : KeepsPlaces s v := by
    rw [hv]
    split
    · exact keepsPlaces_refl s
    · exact keepsPlaces_vacate s copse
  have ht : s.copseEnds copse =
      ((v.freeChans copse).offCore copse).setCopse copse { ((v.freeChans copse).offCore copse).copseAt copse with life := .ended } := by
    rw [hv]
    rfl
  obtain ⟨hst, hcore, hmem⟩ := ((hkeep.trans (keepsPlaces_freeChans v copse)).trans (keepsPlaces_offCore _ copse)).trans
    (keepsPlaces_setCopse _ copse (c := { ((v.freeChans copse).offCore copse).copseAt copse with life := .ended }) rfl)
  have hplace := offCore_freeChans v copse
  obtain ⟨-, hcore', -⟩ := hkeep
  simp only [hcore'] at hplace
  simp only [ht, setCopse_copseAt, setCopse_coreAt, hplace]
  refine ⟨hst, trivial, ?_, fun n ch hch => ?_, hmem⟩
  · simp [Core.redeal]
  · obtain ⟨-, howner⟩ := List.mem_filter.mp (mem_of_tfind hch)
    exact bne_iff_ne.mp howner

/-! ### The issue watchdog (R420) -/

/-- A stand whose instruction is abandoned: where it fetched, or at the word that its suspended command came from. -/
def Stand.abandoned (st : Stand) : Stand :=
  { (match st.wait with | .heldRec .. => st.backTo st.last | _ => st) with
    wait := .none, enqDone := 0, held := false, waited := false, rel := none, fencing := false, issueWait := 0, stall := 0 }

theorem abandoned_fields (st : Stand) : st.abandoned.wait = .none ∧ st.abandoned.issueWait = 0 ∧ st.abandoned.fencing = false ∧
    st.abandoned.pend = st.pend ∧ st.abandoned.sr = st.sr := by
  unfold Stand.abandoned
  split <;> exact ⟨rfl, rfl, rfl, rfl, rfl⟩

theorem abandoned_pc_heldRec {st : Stand} {o : BitVec 16} {ph : Nat} {b : Bool} (h : st.wait = .heldRec o ph b) : st.abandoned.pc = st.last.pc := by
  unfold Stand.abandoned
  rw [h]
  rfl

theorem abandoned_pc_other {st : Stand} (h : ∀ o ph b, st.wait ≠ .heldRec o ph b) : st.abandoned.pc = st.pc := by
  unfold Stand.abandoned
  split
  · next hw => exact absurd hw (h _ _ _)
  · rfl

theorem stallCode_heldRec {o : BitVec 16} {n : Nat} {b : Bool} (h : (s.standAt k).wait = .heldRec o n b) : s.stallCode k = 4 := by
  simp only [State.stallCode, h]

theorem stallCode_enq {f : A64} {p : Mask} (h : (s.standAt k).wait = .enq f p) : s.stallCode k = 1 := by simp only [State.stallCode, h]

theorem stallCode_markers (h : (s.standAt k).wait = .markers) : s.stallCode k = 8 := by simp only [State.stallCode, h]

theorem stallCode_other (hrec : ∀ o ph b, (s.standAt k).wait ≠ .heldRec o ph b) (henq : ∀ f p, (s.standAt k).wait ≠ .enq f p)
    (hmark : (s.standAt k).wait ≠ .markers) (h1 : 1 ≤ (s.standAt k).stall) (h8 : (s.standAt k).stall ≤ 8) :
    s.stallCode k = BitVec.ofNat 64 (s.standAt k).stall := by
  simp only [State.stallCode, h1, h8, and_self, if_true]

/-- The machine in which the watchdog has abandoned an instruction. -/
def State.cutOff (s : State) (k : Nat) : State := (s.dropHeld k).bump.setStand k (s.standAt k).abandoned

theorem cutOff_sameMemory (s : State) (k : Nat) : SameMemory s (s.cutOff k) := by
  have hdrop : SameMemory s (s.dropHeld k) := by
    unfold State.dropHeld
    split
    · exact sameMemory_of_parts (fun _ => rfl) rfl rfl rfl
    · exact sameMemory_refl s
  exact hdrop.trans (sameMemory_of_parts (fun _ => rfl) rfl rfl rfl)

/-- The fault of the watchdog, with the stall reason in AUX. -/
def State.watchdogRec (s : State) (k : Nat) : FaultRec := (s.cutOff k).faultRec k
  ⟨0x0C, 1, 0, 0, 0, false, ((s.cutOff k).wordAt k).2, ((s.cutOff k).wordAt k).1, s.stallCode k⟩ ((s.cutOff k).standAt k).pc false

/-- The watchdog of a stand has run out. -/
def WatchdogDue (s : State) (k : Nat) : Prop := (s.viAt (s.copseAt (copseOf k)).vi).ien = true ∧ s.countable k = true ∧
  2 ^ (s.viAt (s.copseAt (copseOf k)).vi).ilog.toNat ≤ (s.standAt k).issueWait

theorem watchdogDue_iff : (!(s.viAt (s.copseAt (copseOf k)).vi).ien || !s.countable k ||
    decide ((s.standAt k).issueWait < 2 ^ (s.viAt (s.copseAt (copseOf k)).vi).ilog.toNat)) = false ↔ WatchdogDue s k := by
  simp only [WatchdogDue, Bool.or_eq_false_iff, Bool.not_eq_false', and_assoc, decide_eq_false_iff_not, Nat.not_lt]

theorem watchdog_not_due (h : ¬WatchdogDue s k) : s.watchdog k = s := by
  rw [← watchdogDue_iff, Bool.not_eq_false] at h
  exact if_pos h

theorem watchdog_due (h : WatchdogDue s k) : s.watchdog k =
    if (s.standAt k).pend = [] then (s.cutOff k).takeTrap k (s.watchdogRec k)
    else (s.cutOff k).setStand k { (s.cutOff k).standAt k with trapWait := some (s.watchdogRec k) } := by
  obtain ⟨-, -, -, hpend, -⟩ := abandoned_fields (s.standAt k)
  have hpend' : ((s.cutOff k).standAt k).pend = (s.standAt k).pend := by rw [State.cutOff, setStand_standAt, hpend]
  rw [← hpend']
  exact if_neg (ne_true_of_eq_false (watchdogDue_iff.mpr h))

/-! ### The events -/

theorem exec_sleepEnd : exec (.sleepEnd k) s = .next (if (s.standAt k).wait = .sleep 0 then s.setStand k { s.standAt k with wait := .none } else s) := rfl
theorem exec_trapEntry : exec (.trapEntry k) s = .next (s.enterTrap k) := rfl
theorem exec_deferredTrapTake : exec (.deferredTrapTake k) s = .next (s.takeDeferred k) := rfl
theorem exec_standEnd : exec (.standEnd k) s = .next (s.endStand k) := rfl
theorem exec_issueWatchdog : exec (.issueWatchdog k) s = .next (s.watchdog k) := rfl

/-- A deferred trap with a handler is entered as any other, where nothing waits for room in the queue. -/
theorem takeDeferred_enters {r : FaultRec} {rest : List FaultRec} (hdue : TakesDeferred (s.standAt k) (s.copseAt (copseOf k)))
    (hq : (s.standAt k).deferred = r :: rest) (hlog : ∀ e ∈ (s.coreAt (s.coreOf k)).slog, e.stand ≠ k ∨ e.req ≠ 0)
    (hcopies : ∀ x ∈ (s.copseAt (copseOf k)).copies, x.stand ≠ k) (hfills : ∀ x ∈ (s.copseAt (copseOf k)).fills, x.wb ≠ some k ∨ x.req ≠ some 0)
    (hfence : (s.standAt k).fenceM = none) (hswbs : (s.standAt k).swbs = [])
    (hh : handlerOf (s.setStand k ((s.standAt k).dequeued rest)) k r.cls ≠ 0) (hmask : (s.standAt k).life = .ending → (s.standAt k).exitMask ≠ 0) :
    s.takeDeferred k = (s.setStand k ((s.standAt k).dequeued rest)).setStand k (entered ((s.standAt k).dequeued rest) (s.takenRec k r)
      (s.copseAt (copseOf k)).kind (BitVec.ofNat 64 (handlerOf (s.setStand k ((s.standAt k).dequeued rest)) k r.cls))) := by
  have hempty : ((s.standAt k).dequeued rest).frames = [] := by
    obtain ⟨-, -, -, -, -, -, hframes, -, -⟩ := hdue
    exact hframes
  rw [takeDeferred_due hdue hq, if_neg fun hpost => hmask hpost.1 hpost.2,
    takeTrap_enters (r := s.takenRec k r) hh (by rw [setStand_standAt, hempty]; decide), setStand_standAt]
  exact settleDeferred_nothing hlog hcopies hfills (by rw [setStand_standAt]; exact hfence) (by rw [setStand_standAt]; exact hswbs)

theorem endStand_last_ends (h : StandEnds s k) (hlast : s.standsOf (copseOf k) = [k]) (hclean : (s.copseAt (copseOf k)).allDirty = [])
    (hgroves : s.grovesWith k = [])
    (hresv : ∀ x ∈ (s.engineAt (clusterOf (s.copseAt (copseOf k)).core)).taken, x.2.copse ≠ copseOf k) :
    ∃ t, s.endStand k = t ∧ t.standAt k = Stand.init ∧ (t.copseAt (copseOf k)).life = .ended ∧
      copseOf k ∉ (t.coreAt (s.copseAt (copseOf k)).core).order ∧
      (∀ n ch, tfind n (t.coreAt (s.copseAt (copseOf k)).core).chans = some ch → ch.owner ≠ some (copseOf k)) ∧ SameMemory s t := by
  obtain ⟨u, hu⟩ : ∃ u, u = (s.setEngine (clusterOf (s.copseAt (copseOf k)).core) (s.engineAt (clusterOf (s.copseAt (copseOf k)).core))).setStand k
    Stand.init := ⟨_, rfl⟩
  have hcopse : u.copseAt (copseOf k) = s.copseAt (copseOf k) := by rw [hu]; rfl
  have hmem : SameMemory s u := by rw [hu]; exact sameMemory_of_parts (fun _ => rfl) rfl rfl rfl
  have hstand : u.standAt k = Stand.init := by rw [hu, setStand_standAt]
  obtain ⟨hst, hlife, horder, hchans, hmem'⟩ := copseEnds_facts u (copseOf k)
  rw [hcopse] at horder hchans
  refine ⟨_, endStand_last h hlast hclean hgroves hresv, ?_⟩
  rw [← hu]
  exact ⟨by rw [← hstand, State.standAt, hst]; rfl, hlife, horder, hchans, hmem.trans hmem'⟩

end

/-- Settles O50: each event by the lemmas of its condition and of its effect. -/
theorem standEvents : Obligations.StandEvents := by
  unfold Obligations.StandEvents
  intro k s st copse c
  refine ⟨exec_sleepEnd, fun h => ?_, fun r hr hp hl => ?_, ⟨fun h => ?_, fun r rest hdue hq => ⟨?_, fun hl hc hf hm hs hh hmask => ?_⟩⟩,
    ⟨fun h => ?_, fun h hl hg => ?_, fun h hl hd => ?_, fun h hl hd hg hr => ?_⟩, fun h => ?_, fun h => ?_⟩
  · rw [exec_trapEntry, enterTrap_waits h]
  · rw [exec_trapEntry, enterTrap_takes hr hp hl]
  · rw [exec_deferredTrapTake, takeDeferred_not_due h]
  · exact exec_deferredTrapTake.trans (congrArg Host.Outcome.next (takeDeferred_due hdue hq))
  · exact exec_deferredTrapTake.trans (congrArg Host.Outcome.next (takeDeferred_enters hdue hq hl hc hf hm hs hh hmask))
  · rw [exec_standEnd, endStand_not h]
  · rw [exec_standEnd, endStand_not_last h hl hg]
  · rw [exec_standEnd, endStand_dirty h hl hd]
  · obtain ⟨t, ht, hfacts⟩ := endStand_last_ends h hl hd hg hr
    exact ⟨t, by rw [exec_standEnd, ht], hfacts⟩
  · rw [exec_issueWatchdog, watchdog_not_due h]
  · obtain ⟨hwait, hcount, hfencing, hpend, hsr⟩ := abandoned_fields st
    have hst : (s.cutOff k).standAt k = st.abandoned := setStand_standAt ..
    have haux : (s.watchdogRec k).aux = s.stallCode k := rfl
    refine ⟨s.watchdogRec k, s.cutOff k, rfl, rfl, rfl, rfl, rfl, ?_⟩
    rw [hst, haux, exec_issueWatchdog, watchdog_due h, hst]
    refine ⟨hwait, hcount, hfencing, hpend, hsr, cutOff_sameMemory s k, ?_, ?_, rfl⟩
    · split
      · next hw => exact abandoned_pc_heldRec hw
      · next hw => exact abandoned_pc_other hw
    · split
      · next hw => exact stallCode_heldRec hw
      · next hw => exact stallCode_enq hw
      · next hw => exact stallCode_markers hw
      · next hrec henq hmark => exact stallCode_other hrec henq hmark

end Sys2Proof.Machine
end

section
/-! SUPPORT. The graft gate and move requests (spec/05 R129, R133-R136). -/

namespace Sys2Proof.Machine

/-! ### Stands released from their hold (R129, R135) -/

/-- Stands that no request holds any more. -/
def State.letGo (s : State) (ks : List Nat) : State := ks.foldl (fun s k => s.setStand k { s.standAt k with held := false }) s

theorem letGo_cons (s : State) (k : Nat) (ks : List Nat) :
    s.letGo (k :: ks) = (s.setStand k { s.standAt k with held := false }).letGo ks := rfl

theorem letGo_standAt (ks : List Nat) (j : Nat) : ∀ s : State,
    (s.letGo ks).standAt j = if j ∈ ks then { s.standAt j with held := false } else s.standAt j := by
  induction ks with
  | nil => exact fun s => rfl
  | cons k ks ih =>
    intro s
    rw [letGo_cons, ih, setStand_standAt_at]
    by_cases hj : j = k
    · subst hj
      simp
    · simp [hj]

/-- Nothing but the stands changes. -/
theorem letGo_eq (ks : List Nat) : ∀ s : State, ∃ ts, s.letGo ks = { s with stands := ts } := by
  induction ks with
  | nil => exact fun s => ⟨s.stands, rfl⟩
  | cons k ks ih =>
    intro s
    obtain ⟨ts, h⟩ := ih (s.setStand k { s.standAt k with held := false })
    exact ⟨ts, h⟩

/-! ### Requests (R135) -/

/-- A copse's request is replaced by m: its stands are released, and nothing else of the device changes. -/
def MoveReplaced (s u : State) (copse : Nat) (m : Move) : Prop :=
  u.cur = s.cur ∧ SameMemory s u ∧ (u.copseAt copse).move = m ∧
    ∀ j, u.standAt j = if j ∈ s.standsOf copse then { s.standAt j with held := false } else s.standAt j

theorem dropMove_eq (s : State) (copse : Nat) (st : MoveState) (reason : Byte) : s.dropMove copse st reason =
    (s.setCopse copse { s.copseAt copse with move := ⟨none, st, reason, (s.copseAt copse).move.moves, 0, none⟩ }).letGo (s.standsOf copse) := rfl

theorem dropMove_replaces (s : State) (copse : Nat) (st : MoveState) (reason : Byte) :
    MoveReplaced s (s.dropMove copse st reason) copse ⟨none, st, reason, (s.copseAt copse).move.moves, 0, none⟩ := by
  rw [dropMove_eq]
  refine ⟨?cur, ?memory, ?move, fun j => letGo_standAt ..⟩
  all_goals
    obtain ⟨ts, h⟩ := letGo_eq (s.standsOf copse)
      (s.setCopse copse { s.copseAt copse with move := ⟨none, st, reason, (s.copseAt copse).move.moves, 0, none⟩ })
    rw [h]
  case cur => rfl
  case memory => exact sameMemory_of_parts (fun _ => rfl) rfl rfl rfl
  case move => exact congrArg Copse.move (setCopse_copseAt ..)

theorem MoveReplaced.setCopse {s u : State} {copse : Nat} {m n : Move} (h : MoveReplaced s u copse m) {c : Copse} (hc : c.move = n) :
    MoveReplaced s (u.setCopse copse c) copse n := by
  obtain ⟨hcur, hmem, -, hstands⟩ := h
  exact ⟨hcur, hmem.trans (sameMemory_of_parts (fun _ => rfl) rfl rfl rfl), (congrArg Copse.move (setCopse_copseAt ..)).trans hc, hstands⟩

section
variable {s : State} {copse : Nat} {k : Kind}

theorem requestMove_outside (hl : (s.copseAt copse).launch = 0) : s.requestMove copse k = s := if_pos hl

variable (hl : (s.copseAt copse).launch ≠ 0)
include hl

theorem requestMove_present (hk : k = (s.copseAt copse).kind) : s.requestMove copse k = s.dropMove copse .none 0 := by
  simp only [State.requestMove, if_neg hl, if_pos hk]

variable (hk : k ≠ (s.copseAt copse).kind)
include hk

theorem requestMove_forbidden (ha : (s.stageOf copse).allows k = false) : s.requestMove copse k = s.dropMove copse .refused 1 := by
  simp only [State.requestMove, if_neg hl, if_neg hk, ha, Bool.not_false, if_true]

variable (ha : (s.stageOf copse).allows k = true)
include ha

theorem requestMove_unmapped (hm : (s.stageOf copse).gmap = 0) : s.requestMove copse k = s.dropMove copse .refused 2 := by
  simp only [State.requestMove, if_neg hl, if_neg hk, ha, Bool.not_true, Bool.false_eq_true, if_false, if_pos hm]

variable (hm : (s.stageOf copse).gmap ≠ 0)
include hm

theorem requestMove_badMap (hg : s.graftTable (s.copseAt copse).vi (s.stageOf copse) = none) :
    s.requestMove copse k = s.dropMove copse .refused 3 := by
  simp only [State.requestMove, if_neg hl, if_neg hk, ha, Bool.not_true, Bool.false_eq_true, if_false, if_neg hm, hg, Option.isNone_none, if_true]

variable (hg : s.graftTable (s.copseAt copse).vi (s.stageOf copse) ≠ none)
include hg

/-- With a valid map, what counts is whether the kind is asked for already. -/
theorem requestMove_mapped : s.requestMove copse k =
    if ((s.copseAt copse).move.state = .pending ∨ (s.copseAt copse).move.state = .gather) ∧ (s.copseAt copse).move.tgt = some k then s
    else
      let u := s.dropMove copse .pending 0
      u.setCopse copse { u.copseAt copse with move := { (u.copseAt copse).move with tgt := some k } } := by
  have hvalid : ¬ (s.graftTable (s.copseAt copse).vi (s.stageOf copse)).isNone = true := by simpa using hg
  simp only [State.requestMove, if_neg hl, if_neg hk, ha, Bool.not_true, Bool.false_eq_true, if_false, if_neg hm, if_neg hvalid]

theorem requestMove_pending
    (hnew : ¬(((s.copseAt copse).move.state = .pending ∨ (s.copseAt copse).move.state = .gather) ∧ (s.copseAt copse).move.tgt = some k)) :
    MoveReplaced s (s.requestMove copse k) copse ⟨some k, .pending, 0, (s.copseAt copse).move.moves, 0, none⟩ := by
  have h := dropMove_replaces s copse .pending 0
  obtain ⟨-, -, hmove, -⟩ := id h
  rw [requestMove_mapped hl hk ha hm hg, if_neg hnew]
  exact h.setCopse (congrArg (fun m : Move => { m with tgt := some k }) hmove)
end

/-! ### The words (R133-R135) -/

/-- Behind an effect that keeps the executing stand, the device is within the local frame of the word. -/
theorem localFrame_done {s u : State} (hcur : u.cur = s.cur) (i : Instr) : LocalFrame u (done s u i) := by
  unfold done
  split
  · rw [← hcur]
    exact (localFrame_ownWindow u _ _).trans (localFrame_retire (u.ownWindow _ _) ..)
  · exact localFrame_refl u

/-- The word of 8 bytes passes, and its copse's request is m; where that is another, no stand of the copse is held any more. -/
def MoveEnds (i : Instr) (s : State) (m : Move) : Prop :=
  ∃ t, exec i s = .next t ∧ t.me.pc = s.me.pc + 8 ∧ (t.copseAt (copseOf s.cur)).move = m ∧
    (m = s.myCopse.move ∨ ∀ k ∈ s.standsOf (copseOf s.cur), (t.standAt k).held = false) ∧ SameMemory s t ∧ t.me.v = s.me.v ∧ t.me.sr = s.me.sr

section
variable {i : Instr} {s : State} {f : Form} {b : State → Eff} (hw : wordOf i s = some (f, b)) (ha : Acts s i) (hc : f.control = false)
  (h8 : wordBytes i = 8)
include hw ha hc h8

theorem moveEnds_unchanged (hb : b s = .done s) : MoveEnds i s s.myCopse.move := by
  obtain ⟨place, clpos, hme⟩ := done_me hw hc (u := s) rfl
  have hlocal := localFrame_done (s := s) rfl i
  refine ⟨done s s i, exec_done hw ha hb, ?_, ?_, .inl rfl, hlocal.sameMemory, ?_, ?_⟩
  · rw [hme, h8]
    rfl
  · rw [State.copseAt, hlocal.copses_eq]
    rfl
  · rw [hme]
  · rw [hme]

theorem moveEnds_replaced {u : State} {m : Move} (hb : b s = .done u) (hu : MoveReplaced s u (copseOf s.cur) m) : MoveEnds i s m := by
  obtain ⟨hcur, hmem, hmove, hstands⟩ := hu
  obtain ⟨place, clpos, hme⟩ := done_me hw hc hcur
  have hlocal := localFrame_done hcur i
  have hume : ∃ held, u.me = { s.me with held := held } := by
    rw [me_eq, hcur, hstands]
    split
    · exact ⟨false, rfl⟩
    · exact ⟨s.me.held, rfl⟩
  obtain ⟨held, hume⟩ := hume
  refine ⟨done s u i, exec_done hw ha hb, ?pc, ?move, .inr fun k hk => ?held, hmem.trans hlocal.sameMemory, ?v, ?sr⟩
  case pc =>
    rw [hme, hume, h8]
    rfl
  case move =>
    rw [State.copseAt, hlocal.copses_eq]
    exact hmove
  case held =>
    have hfree : (u.standAt k).held = false := by rw [hstands, if_pos hk]
    obtain ⟨-, -, -, hothers, -⟩ := id hlocal
    by_cases hkc : k = u.cur
    · subst hkc
      have hown : (done s u i).standAt u.cur = (done s u i).me := by rw [me_eq, hlocal.cur_eq]
      rw [hown, hme]
      exact hfree
    · rw [hothers k hkc]
      exact hfree
  case v => rw [hme, hume]
  case sr => rw [hme, hume]
end

/-- What a request for a kind comes to (R135). -/
def MoveAsked (i : Instr) (s : State) (k : Kind) : Prop :=
  let c := s.myCopse
  let st := s.stageOf (copseOf s.cur)
  (c.launch = 0 → MoveEnds i s c.move) ∧
  (c.launch ≠ 0 →
    (k = c.kind → MoveEnds i s ⟨none, .none, 0, c.move.moves, 0, none⟩) ∧
    (k ≠ c.kind → st.allows k = false → MoveEnds i s ⟨none, .refused, 1, c.move.moves, 0, none⟩) ∧
    (k ≠ c.kind → st.allows k = true → st.gmap = 0 → MoveEnds i s ⟨none, .refused, 2, c.move.moves, 0, none⟩) ∧
    (k ≠ c.kind → st.allows k = true → st.gmap ≠ 0 → s.graftTable c.vi st = none → MoveEnds i s ⟨none, .refused, 3, c.move.moves, 0, none⟩) ∧
    (k ≠ c.kind → st.allows k = true → st.gmap ≠ 0 → s.graftTable c.vi st ≠ none →
      ((c.move.state = .pending ∨ c.move.state = .gather) ∧ c.move.tgt = some k → MoveEnds i s c.move) ∧
      (¬((c.move.state = .pending ∨ c.move.state = .gather) ∧ c.move.tgt = some k) → MoveEnds i s ⟨some k, .pending, 0, c.move.moves, 0, none⟩)))

theorem moveAsked_of_requestMove {i : Instr} {s : State} {f : Form} {b : State → Eff} {k : Kind} (hw : wordOf i s = some (f, b)) (ha : Acts s i)
    (hc : f.control = false) (h8 : wordBytes i = 8) (hb : b s = .done (s.requestMove (copseOf s.cur) k)) : MoveAsked i s k := by
  have stays (h : s.requestMove (copseOf s.cur) k = s) : MoveEnds i s s.myCopse.move := moveEnds_unchanged hw ha hc h8 (hb.trans (congrArg Eff.done h))
  have drops {st : MoveState} {r : Byte} (h : s.requestMove (copseOf s.cur) k = s.dropMove (copseOf s.cur) st r) :
      MoveEnds i s ⟨none, st, r, s.myCopse.move.moves, 0, none⟩ :=
    moveEnds_replaced hw ha hc h8 (hb.trans (congrArg Eff.done h)) (dropMove_replaces ..)
  refine ⟨fun hl => stays (requestMove_outside hl), fun hl => ⟨fun hk => drops (requestMove_present hl hk),
    fun hk hall => drops (requestMove_forbidden hl hk hall), fun hk hall hm => drops (requestMove_unmapped hl hk hall hm),
    fun hk hall hm hg => drops (requestMove_badMap hl hk hall hm hg), fun hk hall hm hg => ⟨fun hagain => ?_, fun hnew => ?_⟩⟩⟩
  · exact stays ((requestMove_mapped hl hk hall hm hg).trans (if_pos hagain))
  · exact moveEnds_replaced hw ha hc h8 hb (requestMove_pending hl hk hall hm hg hnew)

/-- `migr.cancel` drops the request of a copse of a launch. -/
theorem migrCancel_ends {f : A64} {s : State} (ha : Acts s (.migrCancel f)) :
    MoveEnds (.migrCancel f) s (if s.myCopse.launch = 0 then s.myCopse.move else ⟨none, .none, 0, s.myCopse.move.moves, 0, none⟩) := by
  have hw : wordOf (.migrCancel f) s = some (formMigrCancel f, bodyMigrCancel f) := rfl
  by_cases hl : s.myCopse.launch = 0
  · rw [if_pos hl]
    exact moveEnds_unchanged hw ha rfl rfl (congrArg Eff.done (if_pos hl))
  · rw [if_neg hl]
    exact moveEnds_replaced hw ha rfl rfl (congrArg Eff.done (if_neg hl)) (dropMove_replaces ..)

/-- A word whose only effect is the stand's gate. -/
theorem gate_set {i : Instr} {s : State} {f : Form} {b : State → Eff} {g : Bool} (hw : wordOf i s = some (f, b)) (ha : Acts s i)
    (hc : f.control = false) (h8 : wordBytes i = 8) (hb : b s = .done (s.setMe { s.me with gate := g })) :
    ∃ t, exec i s = .next t ∧ LocalFrame s t ∧ t.me.gate = g ∧ t.me.pc = s.me.pc + 8 := by
  obtain ⟨place, clpos, hme⟩ := done_me hw hc (u := s.setMe { s.me with gate := g }) rfl
  have hset : (s.setMe { s.me with gate := g }).me = { s.me with gate := g } := setStand_standAt ..
  rw [hset, h8] at hme
  exact ⟨_, exec_done hw ha hb, (localFrame_setStand s _).done i, congrArg Stand.gate hme, congrArg Stand.pc hme⟩

/-! ### The snapshot (R136) -/

/-- A kind in the two bits of the snapshot. -/
def kindBits (k : Kind) : BitVec 2 := match k with
  | .sap => 1
  | .heart => 2

theorem kindBits_toNat (k : Kind) : (kindBits k).toNat = kindCode k := by cases k <;> rfl

theorem moveState_code_lt (m : MoveState) : m.code < 8 := by cases m <;> decide

/-- The stands of a copse that a request holds, its ended ones aside. -/
def State.heldStands (s : State) (copse : Nat) : Nat :=
  ((s.standsOf copse).filter (fun j => (s.standAt j).held && (s.standAt j).exited != allLanes)).length

/-- Eight fields side by side, as a number. -/
theorem snapshot_toNat (a b c : BitVec 16) (d : BitVec 8) (z : BitVec 1) (e : BitVec 3) (f g : BitVec 2) :
    (a ++ b ++ c ++ d ++ z ++ e ++ f ++ g : Word64).toNat = g.toNat + f.toNat * 4 + e.toNat * 16 + z.toNat * 128 + d.toNat * 256 +
      c.toNat * 65536 + b.toNat * 2 ^ 32 + a.toNat * 2 ^ 48 := by
  simp only [toNat_append_add]
  omega

theorem ofNat_eq_of_toNat {w n : Nat} {x : BitVec w} (h : x.toNat = n) : BitVec.ofNat w n = x := by
  rw [← h, BitVec.ofNat_toNat, BitVec.setWidth_eq]

/-- The fields of R136's value. -/
theorem moveState_fields (s : State) (k : Nat) (hheld : s.heldStands (copseOf k) < 2 ^ 16) :
    let c := s.copseAt (copseOf k)
    BitVec.ofNat 64 (s.moveState k) = (if c.move.moves = 0 then (0 : BitVec 16) else (s.standAt k).lgid) ++ c.move.moves
      ++ BitVec.ofNat 16 (s.heldStands (copseOf k)) ++ (if c.move.state = .refused then c.move.reason else (0 : BitVec 8)) ++ (0 : BitVec 1)
      ++ BitVec.ofNat 3 c.move.state.code ++ (match c.move.tgt with | none => (0 : BitVec 2) | some k => kindBits k) ++ kindBits c.kind := by
  intro c
  have hval : s.moveState k = kindCode c.kind + (match c.move.tgt with | none => 0 | some t => kindCode t) * 4 + c.move.state.code * 16
      + (if c.move.state = .refused then c.move.reason.toNat else 0) * 256 + s.heldStands (copseOf k) * 65536 + c.move.moves.toNat * 2 ^ 32
      + (if c.move.moves = 0 then 0 else (s.standAt k).lgid.toNat) * 2 ^ 48 := rfl
  have htgt : (match c.move.tgt with | none => (0 : BitVec 2) | some k => kindBits k).toNat = (match c.move.tgt with | none => 0 | some t => kindCode t) := by
    cases c.move.tgt with
    | none => rfl
    | some k => exact kindBits_toNat k
  have hlgid : (if c.move.moves = 0 then (0 : BitVec 16) else (s.standAt k).lgid).toNat = if c.move.moves = 0 then 0 else (s.standAt k).lgid.toNat :=
    apply_ite BitVec.toNat ..
  have hreason : (if c.move.state = .refused then c.move.reason else (0 : BitVec 8)).toNat = if c.move.state = .refused then c.move.reason.toNat else 0 :=
    apply_ite BitVec.toNat ..
  have hcode : (BitVec.ofNat 3 c.move.state.code).toNat = c.move.state.code := Nat.mod_eq_of_lt (moveState_code_lt _)
  have hcount : (BitVec.ofNat 16 (s.heldStands (copseOf k))).toNat = s.heldStands (copseOf k) := Nat.mod_eq_of_lt hheld
  refine ofNat_eq_of_toNat ?_
  rw [snapshot_toNat, hval, htgt, hlgid, hreason, hcode, hcount, kindBits_toNat]
  rfl

/-- `migr.q` leaves its snapshot outstanding (R136). -/
theorem migrQ_leavesPending {f : A64} {s : State} (ha : Acts s (.migrQ f)) :
    ∃ t, LeavesPending (.migrQ f) s t { Pend.empty with sw := [(f.dst.num.toNat, BitVec.ofNat 64 (s.moveState s.cur))] } ∧ LocalFrame s t ∧
      SameMemory s t := by
  have hw : wordOf (.migrQ f) s = some (formMigrQ f, bodyMigrQ f) := rfl
  have hu : f.h.uni = true := by
    simpa using acts_not_bad hw ha (show onlyUni f.h ∈ (formMigrQ f).bad from List.mem_cons_self)
  obtain ⟨hleaves, -⟩ := leavesPending_started hw ha rfl hu rfl rfl rfl (sameRegs_refl _)
  have hlocal := (localFrame_refl s).started (.migrQ f) { Pend.empty with sw := [(f.dst.num.toNat, BitVec.ofNat 64 (s.moveState s.cur))] }
  exact ⟨_, hleaves, hlocal, hlocal.sameMemory⟩

/-- Settles O28: the gate by its frame, requests by the cases of R135, each of which replaces the copse's request or leaves it, and the
snapshot by its fields. -/
theorem graftGateAndMoveRequests : Obligations.GraftGateAndMoveRequests := by
  unfold Obligations.GraftGateAndMoveRequests
  intro f s c me st ends asks
  refine ⟨fun ha => gate_set rfl ha rfl rfl rfl, fun ha => gate_set rfl ha rfl rfl rfl, fun ha => moveAsked_of_requestMove rfl ha rfl rfl rfl,
    fun ha => moveAsked_of_requestMove rfl ha rfl rfl rfl, migrCancel_ends, ?_⟩
  intro ha held code value hheld
  have hvalue : value = BitVec.ofNat 64 (s.moveState s.cur) := (moveState_fields s s.cur hheld).symm
  rw [hvalue]
  exact migrQ_leavesPending ha

end Sys2Proof.Machine
end

section
/-! SUPPORT. A saved stand that is left with a path (spec/13 R314, spec/17 R412): the refutation of O54. -/

namespace Sys2Proof.Machine

/-! ### A save from an L1 that lists a line twice -/

/-- An L1 line with one dirty byte, which stand 16 wrote. -/
def writtenLine : L1Line := { L1Line.init with valid := 1, dirty := 1, writers := [16] }

/-- An elastic grove of scope WF for whose phase stand 17 waits and stand 16 has yet to arrive: it completes as stand 16 is suspended. -/
def awaitedGrove : Grove :=
  { Grove.init with
    live := true
    elas := true
    phase := 1
    scope := maskWF
    members := [⟨16, 0, 0, .counted, none, false⟩, ⟨17, 1, 1, .arrived .bar 0, none, false⟩] }

/-- A machine whose core 0 lists line 0 twice: first as clean, then with a dirty byte. Its one copse is due to be saved to an area of 16 pages,
with one directory entry. The statement asks nothing of the tables of its state, so it speaks of this one too. -/
def twiceHeld : State :=
  { State.reset with
    cores := [(0, { Core.init with order := [1], l1 := [(0, L1Line.init), (0, writtenLine)] })]
    copses := [(1, { Copse.init with life := .resident, kind := .heart, nst := 2, drain := some ⟨some 0, 0, none⟩ })]
    stands := [(16, { Stand.init with life := .live }),
      (17, { Stand.init with life := .live, wait := .grove 0, pend := [{ Pend.empty with on := .grove, sw := [(0, 0)] }] })]
    groves := [(0, awaitedGrove)]
    vis := [(0, { Vi.init with saveBase := 1, saveLen := 16, cquota := 1 })] }

theorem twiceHeld_still : (twiceHeld.abandonAll 1).copseStill 1 = true := by decide +kernel

/-- The write-back before the path sets are emptied reads the first entry of the line, which is clean; the acquire of stand 17, as the grove
completes, drops that entry, and the write-back as the copse leaves its core finds the second and attributes it to stand 16. -/
theorem twiceHeld_leavesPath : ((twiceHeld.trySave 1).standAt 16).paths ≠ [] := by decide +kernel

/-- Refutes O54: a save writes the L1 back, empties the path sets, suspends the stands in their groves, and writes the L1 back again as the copse
leaves its core, where it is meant to find nothing. Where the L1 lists a line twice, clean and then dirty (`twiceHeld`), an acquire between the two
write-backs brings the dirty entry to light, and a stand whose path set was emptied has a path again, against the clause that a saved stand has
none. -/
theorem not_preemption : ¬ Obligations.Preemption := by
  unfold Obligations.Preemption
  rintro ⟨-, -, -, -, -, hsave, -⟩
  obtain ⟨-, -, -, hstores, -⟩ := hsave 1 twiceHeld
  have hnotLogged : ∀ j ∈ twiceHeld.standsOf 1, twiceHeld.logged j = false := by decide +kernel
  have hsaved := hstores ⟨rfl, _, rfl, .inl rfl⟩ twiceHeld_still ⟨fun x hx => (List.not_mem_nil hx).elim, hnotLogged⟩
    (fun r hr => (List.not_mem_nil hr).elim) 0 2
  obtain ⟨t, hexec, -, -, -, -, hpaths, -⟩ := hsaved (by
    refine ⟨?area, ?headFits, ⟨?entry, ?entryFree, ?entryLowest⟩, ⟨?behindHead, ?inArea, ?apart⟩, fun i hi ⟨hhead, _⟩ => ?pageLowest⟩
    case entryFree => exact fun x hx => (List.not_mem_nil hx).elim
    case entryLowest => exact fun i hi => absurd hi (Nat.not_lt_zero i)
    case apart => exact fun x hx => (List.not_mem_nil hx).elim
    case pageLowest => exact Nat.not_le_of_lt (Nat.lt_of_lt_of_le hi (by decide +kernel)) hhead
    all_goals decide +kernel) (by decide) (by decide)
  obtain rfl : twiceHeld.trySave 1 = t := Host.Outcome.next.inj hexec
  exact twiceHeld_leavesPath (hpaths 16 (by decide +kernel))

end Sys2Proof.Machine
end

section
/-! SUPPORT. Words whose result in each thread is a function of their sources there (spec/06 R141): what one leaves in its destination. -/

namespace Sys2Proof.Machine

/-! ### A result is its low bits (R34, R141) -/

theorem ofNat_srcN (vs : List Src) (n w t : Nat) : BitVec.ofNat w (srcN vs n t) = srcBits vs n w t :=
  BitVec.eq_of_toNat_eq (by rw [BitVec.toNat_ofNat, toNat_srcBits])

/-- What a register takes of a result depends on the low bits that its type names. -/
theorem outTy_congr {ty x y : Nat} (h : BitVec.ofNat (tyBits ty) x = BitVec.ofNat (tyBits ty) y) : outTy ty x = outTy ty y := by
  have hmod : x % 2 ^ tyBits ty = y % 2 ^ tyBits ty := by rw [← BitVec.toNat_ofNat, ← BitVec.toNat_ofNat, h]
  rw [outTy, outTy, extend, extend, sextNat_eq_toInt, sextNat_eq_toInt, h, hmod]

/-! ### What a written field holds -/

/-- A word that goes on leaves a field as its effect has written it. -/
theorem written_done {s u : State} {i : Instr} {f : Form} {b : State → Eff} (hw : wordOf i s = some (f, b)) (k : Nat) (uni wide : Bool) (o : Opd)
    (lane : Nat) : written (done s u i) k uni wide o lane = written u k uni wide o lane := by
  obtain ⟨hv, hsr⟩ : ((done s u i).standAt k).v = (u.standAt k).v ∧ ((done s u i).standAt k).sr = (u.standAt k).sr := by
    simp only [done, hw]
    by_cases hk : k = s.cur
    · obtain ⟨hv, hsr, -⟩ := retire_regs (u.ownWindow s.cur s.stale.length) s.cur i f s.me
      rw [hk]
      exact ⟨hv, hsr⟩
    · rw [retire_standAt_ne _ _ _ _ _ hk]
      exact ⟨rfl, rfl⟩
  have hchan : ∀ n, (done s u i).chanAt ((done s u i).coreOf k) n = u.chanAt (u.coreOf k) n := by
    intro n
    simp only [done, hw, retire_coreOf, retire_chanAt]
    rfl
  simp only [written, hv, hsr, hchan]

/-! ### Words that map their sources -/

/-- A word that reads its sources and puts, in each thread, the value of a register operation (R141). -/
def WritesResult (s : State) (i : Instr) (h : Head) (o : RegOp) : Prop :=
  ∃ f b, wordOf i s = some (f, b) ∧ b s = mapWord h o.srcs o.dst o.ty o.val s

/-- Functions with the same low bits put the same results. -/
theorem mapWord_congr {h : Head} {os : List (Opd × Bool)} {dst : Opd} {ty : Nat} {g g' : List Src → Nat → Nat} {s : State}
    (hg : ∀ vs t, BitVec.ofNat (tyBits ty) (g vs t) = BitVec.ofNat (tyBits ty) (g' vs t)) : mapWord h os dst ty g s = mapWord h os dst ty g' s := by
  simp only [mapWord, fun vs t => outTy_congr (hg vs t)]

/-- Such a word goes on behind itself, with the value of every participating thread in its destination. -/
theorem exec_writesResult {s : State} {i : Instr} {h : Head} {o : RegOp} (hr : WritesResult s i h o) (ha : Acts s i) :
    ∃ t, exec i s = .next t ∧ t.me.pc = s.me.pc + BitVec.ofNat 64 (wordBytes i) ∧ ∀ lane ∈ resultLanes s.me h,
      written t s.cur h.uni (tyBits o.ty == 64) o.dst lane =
        landed h.uni (tyBits o.ty == 64) (outTy o.ty (o.val (s.srcs s.cur h.uni o.srcs).1 lane)) := by
  obtain ⟨f, b, hw, hb⟩ := hr
  have hchans := srcs_onlyChans s.cur h.uni o.srcs s
  obtain ⟨hpc, -⟩ := done_regs hw (hchans.localFrame.trans (localFrame_putNow _ _))
  rw [putNow_me, hchans.me] at hpc
  refine ⟨_, exec_done hw ha hb, hpc, fun lane hl => ?_⟩
  rw [written_done hw, hchans.cur, hchans.me]
  exact written_outVals _ _ _ _ _ _ (fun t => outTy o.ty (o.val _ t)) lane hl

end Sys2Proof.Machine
end

section
/-! SUPPORT. The integer arithmetic of the model as operations on bit vectors (spec/06 R141-R149). -/

namespace Sys2Proof.Machine

/-! ### Integers as bit vectors -/

theorem ofNat_eq_of_eq_toNat {w n : Nat} {x : BitVec w} (h : n = x.toNat) : BitVec.ofNat w n = x := by
  rw [h, BitVec.ofNat_toNat, BitVec.setWidth_eq]

theorem ofNat_wrap (w : Nat) (x : Int) : BitVec.ofNat w (wrap w x) = BitVec.ofInt w x := by
  refine ofNat_eq_of_eq_toNat ?_
  rw [BitVec.toNat_ofInt]
  rfl

/-- What a type makes of a number is what it makes of its low bits. -/
theorem tyVal_eq_valueOf (ty a : Nat) : tyVal ty a = valueOf ty (BitVec.ofNat (tyBits ty) a) := by
  rw [tyVal, valueOf, sextNat_eq_toInt, BitVec.toNat_ofNat]
  push_cast
  rfl

theorem ofInt_valueOf {ty : Nat} (x : BitVec (tyBits ty)) : BitVec.ofInt (tyBits ty) (valueOf ty x) = x := by
  rw [valueOf]
  split
  · exact BitVec.ofInt_toInt
  · exact (BitVec.ofInt_natCast _ _).trans (ofNat_eq_of_eq_toNat rfl)

theorem ofInt_tyVal (ty a : Nat) : BitVec.ofInt (tyBits ty) (tyVal ty a) = BitVec.ofNat (tyBits ty) a := by
  rw [tyVal_eq_valueOf, ofInt_valueOf]

theorem ofInt_sub (w : Nat) (x y : Int) : BitVec.ofInt w (x - y) = BitVec.ofInt w x - BitVec.ofInt w y := by
  rw [Int.sub_eq_add_neg, BitVec.ofInt_add, BitVec.ofInt_neg, BitVec.add_neg_eq_sub]

theorem ofNat_cut (ty : Nat) (x : Int) : BitVec.ofNat (tyBits ty) (cut ty x) = BitVec.ofInt (tyBits ty) x := ofNat_wrap _ x

theorem tyMin_le_tyMax (ty : Nat) : tyMin ty ≤ tyMax ty := by
  have hlow : (0 : Int) < 2 ^ (tyBits ty - 1) := by positivity
  have hall : (0 : Int) < 2 ^ tyBits ty := by positivity
  unfold tyMin tyMax
  split <;> omega

theorem satInt_eq_clamp (ty : Nat) (x : Int) : satInt ty x = clamp ty x := by
  have := tyMin_le_tyMax ty
  unfold satInt clamp
  split_ifs <;> omega

theorem ofNat_cutSat (sat : Bool) (ty : Nat) (x : Int) :
    BitVec.ofNat (tyBits ty) (cutSat sat ty x) = BitVec.ofInt (tyBits ty) (if sat then clamp ty x else x) := by
  rw [cutSat, ofNat_cut, satInt_eq_clamp]

/-! ### Sums, products and order (R146, R147, R148) -/

section
variable (sat : Bool) (ty a b : Nat)

theorem intAdd_bits : BitVec.ofNat (tyBits ty) (intAdd sat ty a b) = addOp sat ty (BitVec.ofNat _ a) (BitVec.ofNat _ b) := by
  rw [intAdd, ofNat_cutSat, addOp, ← tyVal_eq_valueOf, ← tyVal_eq_valueOf, ← ofInt_tyVal ty a, ← ofInt_tyVal ty b, ← BitVec.ofInt_add]
  split <;> rfl

theorem intSub_bits : BitVec.ofNat (tyBits ty) (intSub sat ty a b) = subOp sat ty (BitVec.ofNat _ a) (BitVec.ofNat _ b) := by
  rw [intSub, ofNat_cutSat, subOp, ← tyVal_eq_valueOf, ← tyVal_eq_valueOf, ← ofInt_tyVal ty a, ← ofInt_tyVal ty b, ← ofInt_sub]
  split <;> rfl

theorem intMulLo_bits : BitVec.ofNat (tyBits ty) (intMulLo ty a b) = BitVec.ofNat _ a * BitVec.ofNat _ b := by
  rw [intMulLo, ofNat_cut, BitVec.ofInt_mul, ofInt_tyVal, ofInt_tyVal]

/-- The high half of 2w bits of an integer. -/
theorem extractLsb'_ofInt_high (w : Nat) (x : Int) : (BitVec.ofInt (2 * w) x).extractLsb' w w = BitVec.ofInt w (x / 2 ^ w) := by
  apply BitVec.eq_of_toNat_eq
  rw [BitVec.extractLsb'_toNat, BitVec.toNat_ofInt, BitVec.toNat_ofInt, Nat.shiftRight_eq_div_pow]
  have hpos : (0 : Int) < 2 ^ w := by positivity
  zify
  rw [Int.toNat_of_nonneg (Int.emod_nonneg _ (by positivity)), Int.toNat_of_nonneg (Int.emod_nonneg _ (by positivity))]
  have hsq : (2 : Int) ^ (2 * w) = 2 ^ w * 2 ^ w := by rw [two_mul, pow_add]
  rw [hsq, Int.emod_def x, mul_assoc, Int.sub_mul_ediv_left _ _ hpos.ne', Int.sub_mul_emod_self_left]

/-- A value brought to a width, by its sign or by zeros. -/
def extended (signed : Bool) (w : Nat) {v : Nat} (x : BitVec v) : BitVec w := if signed then x.signExtend w else x.setWidth w

theorem extended_ofNat (signed : Bool) (w v : Nat) :
    extended signed w (BitVec.ofNat v a) = BitVec.ofInt w (if signed then sextNat v a else (a % 2 ^ v : Int)) := by
  rw [extended, sextNat_eq_toInt]
  split
  · rfl
  · rw [← BitVec.ofNat_toNat, BitVec.toNat_ofNat, ← BitVec.ofInt_natCast]
    push_cast
    rfl

theorem extended_tyVal (w : Nat) : extended (tyI ty) w (BitVec.ofNat (tyBits ty) a) = BitVec.ofInt w (tyVal ty a) := extended_ofNat ..

theorem intMulHi_bits : BitVec.ofNat (tyBits ty) (intMulHi ty a b) = mulHiOp ty (BitVec.ofNat _ a) (BitVec.ofNat _ b) := by
  have hop : mulHiOp ty (BitVec.ofNat _ a) (BitVec.ofNat _ b) =
      (extended (tyI ty) (2 * tyBits ty) (BitVec.ofNat (tyBits ty) a) * extended (tyI ty) (2 * tyBits ty) (BitVec.ofNat (tyBits ty) b)).extractLsb'
        (tyBits ty) (tyBits ty) := by
    unfold mulHiOp extended
    split <;> rfl
  rw [hop, extended_tyVal, extended_tyVal, ← BitVec.ofInt_mul, extractLsb'_ofInt_high, intMulHi, ofNat_cut]

theorem lessOp_ofNat : lessOp ty (BitVec.ofNat _ a) (BitVec.ofNat _ b) = true ↔ tyVal ty a < tyVal ty b := by
  rw [lessOp_iff, ← tyVal_eq_valueOf, ← tyVal_eq_valueOf]

theorem ofNat_mod_two_pow (w x : Nat) : BitVec.ofNat w (x % 2 ^ w) = BitVec.ofNat w x := BitVec.eq_of_toNat_eq (by simp)

theorem intMin_bits : BitVec.ofNat (tyBits ty) (intMin ty a b) = minOp ty (BitVec.ofNat _ a) (BitVec.ofNat _ b) := by
  unfold intMin minOp
  simp only [lessOp_ofNat]
  split
  · exact ofNat_mod_two_pow ..
  · exact ofNat_mod_two_pow ..

theorem intMax_bits : BitVec.ofNat (tyBits ty) (intMax ty a b) = maxOp ty (BitVec.ofNat _ a) (BitVec.ofNat _ b) := by
  unfold intMax maxOp
  simp only [lessOp_ofNat]
  split
  · exact ofNat_mod_two_pow ..
  · exact ofNat_mod_two_pow ..
end

/-! ### Absolute value and negation (R148) -/

theorem ofInt_natAbs_toInt {w : Nat} (x : BitVec w) : BitVec.ofInt w x.toInt.natAbs = x.abs := by
  rw [BitVec.abs_eq]
  cases hm : x.msb with
  | true =>
    have hneg := BitVec.toInt_neg_of_msb_true hm
    rw [if_pos rfl, show (x.toInt.natAbs : Int) = -x.toInt by omega, BitVec.ofInt_neg, BitVec.ofInt_toInt]
  | false =>
    have hpos := BitVec.toInt_nonneg_of_msb_false hm
    rw [if_neg (by decide), Int.natAbs_of_nonneg hpos, BitVec.ofInt_toInt]

theorem eq_intMin_iff {w : Nat} (hw : 0 < w) (x : BitVec w) : x = BitVec.intMin w ↔ x.toInt = -2 ^ (w - 1) := by
  rw [← BitVec.toInt_inj, BitVec.toInt_intMin_of_pos hw]

theorem tyBits_pos_of_signed {ty : Nat} (h : tyI ty = true) : 0 < tyBits ty := by
  have hle : ty ≤ 3 := of_decide_eq_true h
  interval_cases ty <;> decide

/-- A signed value with its sign lost or changed is out of its type's range for the most negative one alone. -/
theorem clamp_magnitude {ty : Nat} (h : tyI ty = true) (x : BitVec (tyBits ty)) {y : Int} (hy : y = x.toInt.natAbs ∨ y = -x.toInt) :
    clamp ty y = if x = BitVec.intMin _ then tyMax ty else y := by
  have hlow := x.le_toInt
  have hhigh := x.toInt_lt
  simp only [eq_intMin_iff (tyBits_pos_of_signed h), clamp, tyMin, tyMax, if_pos h]
  split <;> omega

theorem ofInt_tyMax {ty : Nat} (h : tyI ty = true) : BitVec.ofInt (tyBits ty) (tyMax ty) = BitVec.intMax _ := by
  rw [tyMax, if_pos h, ← BitVec.toInt_intMax, BitVec.ofInt_toInt]

theorem ofNat_cutSat_magnitude (sat : Bool) {ty : Nat} (h : tyI ty = true) (a : Nat) {y : Int}
    (hy : y = (tyVal ty a).natAbs ∨ y = -tyVal ty a) : BitVec.ofNat (tyBits ty) (cutSat sat ty y) =
      if sat && BitVec.ofNat (tyBits ty) a == BitVec.intMin _ then BitVec.intMax _ else BitVec.ofInt _ y := by
  rw [tyVal_eq_valueOf, valueOf, if_pos h] at hy
  rw [ofNat_cutSat, clamp_magnitude h _ hy]
  cases sat with
  | false => rfl
  | true =>
    simp only [if_true, Bool.true_and, beq_iff_eq]
    split
    · exact ofInt_tyMax h
    · rfl

theorem intAbs_bits (sat : Bool) {ty : Nat} (h : tyI ty = true) (a : Nat) :
    BitVec.ofNat (tyBits ty) (intAbs sat ty a) = absOp sat ty (BitVec.ofNat _ a) := by
  rw [intAbs, ofNat_cutSat_magnitude sat h a (.inl rfl), absOp, tyVal_eq_valueOf, valueOf, if_pos h, ofInt_natAbs_toInt]

theorem intNeg_bits (sat : Bool) {ty : Nat} (h : tyI ty = true) (a : Nat) :
    BitVec.ofNat (tyBits ty) (intNeg sat ty a) = negOp sat ty (BitVec.ofNat _ a) := by
  rw [intNeg, ofNat_cutSat_magnitude sat h a (.inr rfl), negOp, BitVec.ofInt_neg, ofInt_tyVal]

end Sys2Proof.Machine
end

section
/-! SUPPORT. The logic, shifts, counts and bit fields of the model as operations on bit vectors (spec/06 R149-R151, R157). -/

namespace Sys2Proof.Machine

/-! ### Complement, shifts and rotation (R149) -/

section
variable (w a n : Nat)

theorem intNot_bits (ty a : Nat) : BitVec.ofNat (tyBits ty) (intNot ty a) = ~~~BitVec.ofNat (tyBits ty) a :=
  ofNat_eq_of_eq_toNat (by rw [BitVec.toNat_not, BitVec.toNat_ofNat]; rfl)

theorem shlN_bits : BitVec.ofNat w (shlN w a n) = BitVec.ofNat w a <<< n := by
  rw [shlN]
  split
  · apply BitVec.eq_of_toNat_eq
    rw [ofNat_mod_two_pow, BitVec.toNat_shiftLeft, BitVec.toNat_ofNat, BitVec.toNat_ofNat, Nat.shiftLeft_eq, Nat.mod_mul_mod]
  · next h => rw [BitVec.shiftLeft_eq_zero (Nat.le_of_not_lt h)]

theorem shrN_bits : BitVec.ofNat w (shrN w a n) = BitVec.ofNat w a >>> n := by
  rw [shrN]
  split
  · exact ofNat_eq_of_eq_toNat (by rw [BitVec.toNat_ushiftRight, BitVec.toNat_ofNat, Nat.shiftRight_eq_div_pow])
  · next h => rw [BitVec.ushiftRight_eq_zero (Nat.le_of_not_lt h)]

/-- A count beyond the width fills with the sign, as a count of the width does. -/
theorem sshiftRight_minN (x : BitVec w) : x.sshiftRight (minN n w) = x.sshiftRight n := by
  rw [minN]
  split
  · rfl
  · next h =>
    refine BitVec.eq_of_getLsbD_eq fun i hi => ?_
    rw [BitVec.getLsbD_sshiftRight, BitVec.getLsbD_sshiftRight, if_neg (by omega), if_neg (by omega)]

theorem sarN_bits : BitVec.ofNat w (sarN w a n) = (BitVec.ofNat w a).sshiftRight n := by
  rw [sarN, ofNat_wrap, sextNat_eq_toInt, ← sshiftRight_minN, BitVec.sshiftRight, Int.shiftRight_eq_div_pow]

theorem rotN_bits : BitVec.ofNat w (rotN w a n) = (BitVec.ofNat w a).rotateLeft n := by
  rw [rotN, BitVec.rotateLeft_def, BitVec.ofNat_or]
  congr 1
  · apply BitVec.eq_of_toNat_eq
    rw [ofNat_mod_two_pow, BitVec.toNat_shiftLeft, BitVec.toNat_ofNat, BitVec.toNat_ofNat, Nat.shiftLeft_eq, Nat.mod_mul_mod]
  · exact ofNat_eq_of_eq_toNat (by rw [BitVec.toNat_ushiftRight, BitVec.toNat_ofNat, Nat.shiftRight_eq_div_pow])
end

/-! ### Counts and reversal (R151) -/

theorem bitAt_eq_getLsbD {w i : Nat} (a : Nat) (h : i < w) : bitAt a i = (BitVec.ofNat w a).getLsbD i := by
  rw [BitVec.getLsbD_ofNat, decide_eq_true h, Bool.true_and, Nat.testBit_eq_decide_div_mod_eq, bitAt, Bool.beq_eq_decide_eq]

theorem popCount_eq_length (a w : Nat) : popCount a w = ((List.range w).filter (fun i => a.testBit i)).length := by
  induction w generalizing a with
  | zero => rfl
  | succ w ih =>
    have hrest : (List.range w).filter (fun i => (a / 2).testBit i) = (List.range w).filter ((fun i => a.testBit i) ∘ Nat.succ) :=
      List.filter_congr fun i _ => (Nat.testBit_succ a i).symm
    rw [popCount, ih, hrest, List.range_succ_eq_map, List.filter_cons, List.filter_map]
    simp only [Nat.testBit_zero, decide_eq_true_eq]
    split
    · next h => rw [List.length_cons, List.length_map, h, Nat.add_comm]
    · next h => rw [List.length_map, show a % 2 = 0 by omega, Nat.zero_add]

theorem popcN_bits (w a : Nat) : popcN w a = ((List.range w).filter (fun i => (BitVec.ofNat w a).getLsbD i)).length := by
  rw [popcN, popCount_eq_length]
  congr 1
  refine List.filter_congr fun i hi => ?_
  rw [BitVec.getLsbD_ofNat, decide_eq_true (List.mem_range.mp hi), Bool.true_and]

/-- A number has at most m significant bits when it is below 2^m. -/
theorem bitLen_le_iff {x n : Nat} (h : x < 2 ^ n) (m : Nat) : bitLen x n ≤ m ↔ x < 2 ^ m := by
  induction n generalizing x m with
  | zero =>
    have hx : x = 0 := by omega
    simp [bitLen, hx]
  | succ n ih =>
    rw [bitLen]
    split
    · next hx => simp [hx]
    · next hx =>
      have hhalf : x / 2 < 2 ^ n := by rw [Nat.pow_succ] at h; omega
      cases m with
      | zero => simp [hx]
      | succ m => rw [Nat.add_le_add_iff_right, ih hhalf, Nat.pow_succ, Nat.div_lt_iff_lt_mul (by decide)]

theorem toNat_natCast_width (w : Nat) : (w : BitVec w).toNat = w := by
  rw [BitVec.natCast_eq_ofNat, BitVec.toNat_ofNat, Nat.mod_eq_of_lt Nat.lt_two_pow_self]

theorem clzN_bits (w a : Nat) : clzN w a = (BitVec.ofNat w a).clz.toNat := by
  obtain ⟨x, hx⟩ : ∃ x, x = BitVec.ofNat w a := ⟨_, rfl⟩
  rw [clzN, ← BitVec.toNat_ofNat, ← hx]
  have hbelow := (bitLen_le_iff x.isLt _).mpr (BitVec.toNat_lt_two_pow_sub_clz (x := x))
  by_cases h0 : x = 0#w
  · rw [BitVec.clz_eq_iff_eq_zero.mpr h0, toNat_natCast_width] at hbelow ⊢
    omega
  · have hlt := BitVec.clz_lt_iff_ne_zero.mpr h0
    rw [BitVec.lt_def, toNat_natCast_width] at hlt
    have habove := mt (bitLen_le_iff x.isLt (w - 1 - x.clz.toNat)).mp
      (Nat.not_lt.mpr (BitVec.two_pow_sub_clz_le_toNat_of_ne_zero (by omega) h0))
    omega

theorem ctzN_bits (w a : Nat) : ctzN w a = (BitVec.ofNat w a).ctz.toNat := by
  by_cases h0 : BitVec.ofNat w a = 0#w
  · have hnone : (List.range w).findIdx? (fun i => bitAt a i) = none := by
      refine List.findIdx?_eq_none_iff.mpr fun i hi => ?_
      rw [bitAt_eq_getLsbD a (List.mem_range.mp hi), h0, BitVec.getLsbD_zero]
    rw [ctzN, hnone, BitVec.ctz_eq_reverse_clz, BitVec.clz_eq_iff_eq_zero.mpr (BitVec.reverse_eq_zero_iff.mpr h0), toNat_natCast_width]
    rfl
  · have hlt := BitVec.ctz_lt_iff_ne_zero.mpr h0
    rw [BitVec.lt_def, toNat_natCast_width] at hlt
    have hfind : (List.range w).findIdx? (fun i => bitAt a i) = some (BitVec.ofNat w a).ctz.toNat := by
      refine List.findIdx?_eq_some_iff_getElem.mpr ⟨by rwa [List.length_range], ?_, fun j hj => ?_⟩
      · rw [List.getElem_range, bitAt_eq_getLsbD a hlt]
        exact BitVec.getLsbD_true_ctz_of_ne_zero h0
      · rw [List.getElem_range, bitAt_eq_getLsbD a (hj.trans hlt), BitVec.getLsbD_false_of_lt_ctz hj]
        decide
    rw [ctzN, hfind]
    rfl

/-- The number whose bits below n are given. -/
def numberOf (q : Nat → Bool) (n : Nat) : Nat := ((List.range n).map fun j => if q j then 2 ^ j else 0).sum

theorem numberOf_succ (q : Nat → Bool) (n : Nat) : numberOf q (n + 1) = 2 ^ n * (q n).toNat + numberOf q n := by
  rw [numberOf, List.range_succ, List.map_append, List.sum_append, List.map_singleton, List.sum_singleton, Nat.add_comm]
  cases q n <;> simp [numberOf]

theorem numberOf_lt (q : Nat → Bool) (n : Nat) : numberOf q n < 2 ^ n := by
  induction n with
  | zero => exact Nat.one_pos
  | succ n ih =>
    have hbit := Nat.mul_le_mul_left (2 ^ n) (Bool.toNat_le (q n))
    rw [numberOf_succ, Nat.pow_succ]
    omega

theorem testBit_numberOf (q : Nat → Bool) {n i : Nat} (h : i < n) : (numberOf q n).testBit i = q i := by
  induction n with
  | zero => exact absurd h (Nat.not_lt_zero i)
  | succ n ih =>
    rw [numberOf_succ, Nat.testBit_two_pow_mul_add _ (numberOf_lt q n)]
    split
    · next hi => exact ih hi
    · next hi =>
      rw [show i = n by omega, Nat.sub_self]
      cases q n <;> rfl

theorem brevN_eq (w a : Nat) : brevN w a = numberOf (fun j => bitAt a (w - 1 - j)) w := by
  rw [brevN, ← List.sum_eq_foldl_nat, ← List.sum_reverse_nat, ← List.map_reverse, List.range_eq_range', List.reverse_range', List.map_map,
    numberOf]
  refine congrArg List.sum (List.map_congr_left fun j hj => ?_)
  have hj' := List.mem_range.mp hj
  simp only [Function.comp, Nat.zero_add, show w - 1 - (w - 1 - j) = j by omega]

theorem brevN_bits (w a : Nat) : BitVec.ofNat w (brevN w a) = (BitVec.ofNat w a).reverse := by
  refine BitVec.eq_of_getLsbD_eq fun i hi => ?_
  rw [brevN_eq, BitVec.getLsbD_ofNat, testBit_numberOf _ hi, BitVec.getLsbD_reverse, BitVec.getMsbD_eq_getLsbD,
    bitAt_eq_getLsbD (w := w) a (by omega)]

/-! ### Bit fields (R150) -/

theorem extractLsb'_ofNat {w pos len : Nat} (h : pos + len ≤ w) (a : Nat) :
    (BitVec.ofNat w a).extractLsb' pos len = BitVec.ofNat len (a / 2 ^ pos) := by
  refine BitVec.eq_of_getLsbD_eq fun i hi => ?_
  rw [BitVec.getLsbD_extractLsb', BitVec.getLsbD_ofNat, BitVec.getLsbD_ofNat, Nat.testBit_div_two_pow, decide_eq_true (show pos + i < w by omega),
    Bool.true_and, Nat.add_comm]

/-- Eight bits of a descriptor. -/
theorem bits_eq_field {lo : Nat} (h : lo + 8 ≤ 32) (d : Nat) : bits d (lo + 7) lo = ((BitVec.ofNat 32 d).extractLsb' lo 8).toNat := by
  rw [extractLsb'_ofNat h, BitVec.toNat_ofNat, bits, show lo + 7 + 1 - lo = 8 by omega]

theorem fieldLen_empty {w pos len : Nat} (h : w ≤ pos ∨ len = 0) : fieldLen w pos len = 0 := by
  unfold fieldLen
  split <;> omega

theorem fieldLen_some {w pos len : Nat} (h : ¬(w ≤ pos ∨ len = 0)) : minN len (w - pos) = fieldLen w pos len ∧ pos + fieldLen w pos len ≤ w := by
  unfold fieldLen minN
  split <;> split <;> omega

theorem extended_empty (signed : Bool) (w : Nat) {v : Nat} (hv : v = 0) (x : BitVec v) : extended signed w x = 0#w := by
  subst hv
  have hzero : (if signed then sextNat 0 0 else ((0 : Nat) % 2 ^ 0 : Int)) = (0 : Nat) := by cases signed <;> rfl
  rw [BitVec.of_length_zero (x := x), extended_ofNat, hzero, BitVec.ofInt_natCast]

theorem bfeN_bits (ty a d : Nat) : BitVec.ofNat (tyBits ty) (bfeN ty a d) = bfeOp ty (BitVec.ofNat _ a) (BitVec.ofNat 32 d) := by
  have hop : bfeOp ty (BitVec.ofNat _ a) (BitVec.ofNat 32 d) = extended (tyI ty) (tyBits ty)
      ((BitVec.ofNat (tyBits ty) a).extractLsb' (bits d 7 0) (fieldLen (tyBits ty) (bits d 7 0) (bits d 15 8))) := by
    rw [bits_eq_field (lo := 0) (by decide), bits_eq_field (lo := 8) (by decide)]
    rfl
  rw [hop, bfeN]
  split
  · next h => rw [extended_empty _ _ (fieldLen_empty h)]
  · next h =>
    obtain ⟨hlen, hle⟩ := fieldLen_some h
    rw [extractLsb'_ofNat hle, extended_ofNat, hlen]
    split
    · rw [ofNat_cut, sextNat_eq_toInt, ofNat_mod_two_pow, sextNat_eq_toInt]
    · rw [← BitVec.ofInt_natCast]
      push_cast
      rfl

/-- The bits of a number in which a field is replaced. -/
theorem testBit_insert (a b pos len i : Nat) : (b - b / 2 ^ pos % 2 ^ len * 2 ^ pos + a % 2 ^ len * 2 ^ pos).testBit i =
    if pos ≤ i ∧ i < pos + len then a.testBit (i - pos) else b.testBit i := by
  have hsplit : b - b / 2 ^ pos % 2 ^ len * 2 ^ pos + a % 2 ^ len * 2 ^ pos = 2 ^ pos * (2 ^ len * (b / 2 ^ pos / 2 ^ len) + a % 2 ^ len) + b % 2 ^ pos := by
    have hlow := Nat.div_add_mod b (2 ^ pos)
    have hmid := Nat.div_add_mod (b / 2 ^ pos) (2 ^ len)
    have hb : b = 2 ^ pos * (2 ^ len * (b / 2 ^ pos / 2 ^ len)) + b / 2 ^ pos % 2 ^ len * 2 ^ pos + b % 2 ^ pos := by
      rw [Nat.mul_comm (b / 2 ^ pos % 2 ^ len), ← Nat.mul_add, hmid, hlow]
    rw [Nat.mul_add, Nat.mul_comm (2 ^ pos) (a % 2 ^ len)]
    omega
  have hfield := Nat.mod_lt a (Nat.two_pow_pos len)
  have hrest := Nat.mod_lt b (Nat.two_pow_pos pos)
  rw [hsplit, Nat.testBit_two_pow_mul_add _ hrest, Nat.testBit_two_pow_mul_add _ hfield, Nat.testBit_mod_two_pow, Nat.testBit_mod_two_pow,
    Nat.testBit_div_two_pow, Nat.testBit_div_two_pow]
  by_cases hlow : i < pos
  · rw [if_pos hlow, if_neg (by omega), decide_eq_true hlow, Bool.true_and]
  · rw [if_neg hlow]
    by_cases hin : i - pos < len
    · rw [if_pos hin, if_pos (by omega), decide_eq_true hin, Bool.true_and]
    · rw [if_neg hin, if_neg (by omega), show i - pos - len + len + pos = i by omega]

/-- The bits of a value in which a field is replaced (R150). -/
theorem getLsbD_bfiOp {w i pos len : Nat} (a b : BitVec w) {d : Word32} (hpos : (d.extractLsb' 0 8).toNat = pos)
    (hlen : fieldLen w pos (d.extractLsb' 8 8).toNat = len) (h : i < w) :
    (bfiOp w a b d).getLsbD i = if pos ≤ i ∧ i < pos + len then a.getLsbD (i - pos) else b.getLsbD i := by
  simp only [bfiOp, hpos, hlen, BitVec.getLsbD_or, BitVec.getLsbD_and, BitVec.getLsbD_not, BitVec.getLsbD_shiftLeft, BitVec.getLsbD_setWidth,
    BitVec.getLsbD_allOnes, h, decide_true, Bool.true_and]
  by_cases hin : pos ≤ i ∧ i < pos + len
  · rw [if_pos hin, decide_eq_false (show ¬i < pos by omega), decide_eq_true (show i - pos < w by omega), decide_eq_true (show i - pos < len by omega)]
    simp
  · have hout : (!decide (i < pos) && (decide (i - pos < w) && decide (i - pos < len))) = false := by
      simp only [Bool.and_eq_false_imp, Bool.not_eq_true', decide_eq_false_iff_not, decide_eq_true_eq]
      omega
    rw [if_neg hin, hout]
    simp

theorem bfiN_bits (w a b d : Nat) : BitVec.ofNat w (bfiN w a b d) = bfiOp w (BitVec.ofNat w a) (BitVec.ofNat w b) (BitVec.ofNat 32 d) := by
  refine BitVec.eq_of_getLsbD_eq fun i hi => ?_
  rw [getLsbD_bfiOp (pos := bits d 7 0) _ _ (bits_eq_field (lo := 0) (by decide) d).symm rfl hi, ← bits_eq_field (lo := 8) (by decide), bfiN]
  simp only [BitVec.getLsbD_ofNat, hi, decide_true, Bool.true_and]
  split
  · next h => rw [fieldLen_empty h, if_neg (by omega)]
  · next h => rw [(fieldLen_some h).1, testBit_insert, decide_eq_true (show i - bits d 7 0 < w by omega), Bool.true_and]

/-! ### Bytes (R157) -/

theorem toNat_append_eq_add {m n : Nat} (x : BitVec m) (y : BitVec n) : (x ++ y).toNat = x.toNat * 2 ^ n + y.toNat := by
  rw [BitVec.toNat_append, ← Nat.shiftLeft_add_eq_or_of_lt y.isLt, Nat.shiftLeft_eq]

theorem toNat_permByte (a b : Word32) (n : BitVec 4) : (permByte a b n).toNat =
    if 8 ≤ n.toNat then 0 else (a.toNat + b.toNat * 2 ^ 32) / 256 ^ n.toNat % 256 := by
  have hbit : ∀ n : BitVec 4, n.getLsbD 3 = decide (8 ≤ n.toNat) := by decide
  rw [permByte, hbit]
  simp only [decide_eq_true_eq]
  split
  · rfl
  · rw [BitVec.extractLsb'_toNat, toNat_append_eq_add, Nat.shiftRight_eq_div_pow, Nat.pow_mul, Nat.add_comm]

/-- The selector of a byte. -/
theorem toNat_selector (c : Nat) {i : Nat} (h : i < 4) : ((BitVec.ofNat 32 c).extractLsb' (4 * i) 4).toNat = c / 16 ^ i % 16 := by
  rw [extractLsb'_ofNat (by omega), BitVec.toNat_ofNat, Nat.pow_mul]

theorem permN_bits (a b c : Nat) : BitVec.ofNat 32 (permN a b c) = permOp (BitVec.ofNat 32 a) (BitVec.ofNat 32 b) (BitVec.ofNat 32 c) := by
  have hbyte : ∀ i < 4, (permByte (BitVec.ofNat 32 a) (BitVec.ofNat 32 b) ((BitVec.ofNat 32 c).extractLsb' (4 * i) 4)).toNat * 256 ^ i =
      if 8 ≤ c / 16 ^ i % 16 then 0 else (a % 2 ^ 32 + b % 2 ^ 32 * 2 ^ 32) / 256 ^ (c / 16 ^ i % 16) % 256 * 256 ^ i := by
    intro i hi
    rw [toNat_permByte, toNat_selector c hi, BitVec.toNat_ofNat, BitVec.toNat_ofNat, ite_mul, Nat.zero_mul]
  refine ofNat_eq_of_eq_toNat ?_
  rw [permOp, toNat_append_eq_add, toNat_append_eq_add, toNat_append_eq_add, permN]
  simp only [List.range_succ, List.range_zero, List.nil_append, List.cons_append, List.map_cons, List.map_nil, List.foldl_cons, List.foldl_nil]
  rw [← hbyte 0 (by decide), ← hbyte 1 (by decide), ← hbyte 2 (by decide), ← hbyte 3 (by decide)]
  simp only [Nat.mul_zero, Nat.mul_one, Nat.reduceMul]
  omega

end Sys2Proof.Machine
end

section
/-! SUPPORT. Integer arithmetic and bit operations in their destinations (spec/06 R144-R157). -/

namespace Sys2Proof.Machine

/-! ### The shapes of the register forms (R141, R144, R149) -/

section
variable {s : State} {i : Instr} {m : Form}

theorem writesResult_op1 {f : A64} {body : Nat → Nat → Nat} {g : BitVec (tyBits f.ty.toNat) → BitVec (tyBits f.ty.toNat)}
    (hw : wordOf i s = some (m, unBody f body)) (hg : ∀ a, BitVec.ofNat (tyBits f.ty.toNat) (body f.ty.toNat a) = g (BitVec.ofNat _ a)) :
    WritesResult s i f.h (op1 f g) := by
  refine ⟨m, _, hw, ?_⟩
  rw [unBody]
  exact mapWord_congr fun vs t => by simp only [op1, hg, ofNat_srcN, BitVec.ofNat_toNat, BitVec.setWidth_eq]

theorem writesResult_op2 {f : A64} {body : Nat → Nat → Nat → Nat}
    {g : BitVec (tyBits f.ty.toNat) → BitVec (tyBits f.ty.toNat) → BitVec (tyBits f.ty.toNat)} (hw : wordOf i s = some (m, binBody f body))
    (hg : ∀ a b, BitVec.ofNat (tyBits f.ty.toNat) (body f.ty.toNat a b) = g (BitVec.ofNat _ a) (BitVec.ofNat _ b)) :
    WritesResult s i f.h (op2 f g) := by
  refine ⟨m, _, hw, ?_⟩
  rw [binBody]
  exact mapWord_congr fun vs t => by simp only [op2, hg, ofNat_srcN, BitVec.ofNat_toNat, BitVec.setWidth_eq]

theorem writesResult_opShift {f : A64} {body : Nat → Nat → Nat → Nat} {g : BitVec (tyBits f.ty.toNat) → Nat → BitVec (tyBits f.ty.toNat)}
    (hw : wordOf i s = some (m, shiftBody f body))
    (hg : ∀ a n, BitVec.ofNat (tyBits f.ty.toNat) (body (tyBits f.ty.toNat) a n) = g (BitVec.ofNat _ a) n) : WritesResult s i f.h (opShift f g) := by
  refine ⟨m, _, hw, ?_⟩
  rw [shiftBody]
  exact mapWord_congr fun vs t => by simp only [opShift, hg, ofNat_srcN, toNat_srcBits, BitVec.ofNat_toNat, BitVec.setWidth_eq]

theorem writesResult_opImm {f : I64} {body : Nat → Nat → Nat → Nat} {imm : Nat}
    {g : BitVec (tyBits (immTy f.h.uni)) → BitVec (tyBits (immTy f.h.uni))} (hw : wordOf i s = some (m, immBody f body imm))
    (hg : ∀ a, BitVec.ofNat (tyBits (immTy f.h.uni)) (body (immTy f.h.uni) a imm) = g (BitVec.ofNat _ a)) : WritesResult s i f.h (opImm f g) := by
  refine ⟨m, _, hw, ?_⟩
  rw [immBody]
  exact mapWord_congr fun vs t => by simp only [opImm, hg, ofNat_srcN, BitVec.ofNat_toNat, BitVec.setWidth_eq]
end

/-! ### Integer arithmetic -/

/-- `abs` and `neg` take signed types alone (R142). -/
theorem acts_signed {i : Instr} {s : State} {f : A64} {body : State → Eff} {md : Bool} (hw : wordOf i s = some (unForm f (tyI f.ty.toNat) md, body))
    (ha : Acts s i) : tyI f.ty.toNat = true := by
  simpa using acts_not_bad hw ha (c := 5) (x := !tyI f.ty.toNat) (by simp [unForm, badTy])

/-- What `mad` and `mad.wide` compute: sources extended by TYS, and an addend of TYD (R147). -/
theorem ofNat_cut_mad (td ts a b c : Nat) : BitVec.ofNat (tyBits td) (cut td (tyVal ts a * tyVal ts b + tyVal td c)) =
    extended (tyI ts) (tyBits td) (BitVec.ofNat (tyBits ts) a) * extended (tyI ts) (tyBits td) (BitVec.ofNat (tyBits ts) b) +
      BitVec.ofNat (tyBits td) c := by
  rw [ofNat_cut, BitVec.ofInt_add, BitVec.ofInt_mul, ofInt_tyVal, extended_tyVal, extended_tyVal]

/-- What `lea` computes: a base and a scaled index of 64 bits (R155). -/
theorem ofNat_lea (ts a b n : Nat) : BitVec.ofNat 64 (wrap 64 (a + tyVal ts b * (2 ^ n : Nat))) =
    BitVec.ofNat 64 a + extended (tyI ts) 64 (BitVec.ofNat (tyBits ts) b) <<< n := by
  have hpow : BitVec.ofNat 64 (2 ^ n) = BitVec.twoPow 64 n := BitVec.eq_of_toNat_eq (by rw [BitVec.toNat_ofNat, BitVec.toNat_twoPow])
  rw [ofNat_wrap, BitVec.ofInt_add, BitVec.ofInt_mul, BitVec.ofInt_natCast, BitVec.ofInt_natCast, extended_tyVal, BitVec.shiftLeft_eq_mul_twoPow, hpow]

section
variable {s : State} {f : T96} {o : RegOp}

theorem writesResult_mad (ho : arithOp (.mad f) = some o) : WritesResult s (.mad f) f.h o := by
  cases ho
  refine ⟨formMad f, bodyMad f, rfl, ?_⟩
  rw [bodyMad]
  exact mapWord_congr fun vs t => by
    simp only [ofNat_cut, BitVec.ofInt_add, BitVec.ofInt_mul, ofInt_tyVal, ofNat_srcN, BitVec.ofNat_toNat, BitVec.setWidth_eq]

theorem writesResult_madWide (ho : arithOp (.madWide f) = some o) : WritesResult s (.madWide f) f.h o := by
  cases ho
  refine ⟨formMadWide f, bodyMadWide f, rfl, ?_⟩
  rw [bodyMadWide]
  exact mapWord_congr fun vs t => by
    simp only [ofNat_cut_mad, ofNat_srcN, BitVec.ofNat_toNat, BitVec.setWidth_eq, extended]

/-- `lea` takes an index of .i32, .n32 or .b64 (R142). -/
theorem acts_lea (ha : Acts s (.lea f)) : f.tys = 2 ∨ f.tys = 6 ∨ f.tys = 0xB := by
  have hok := acts_not_bad (f := formLea f) (b := bodyLea f) rfl ha (c := 5)
    (x := !(f.tyd == 0xB && (f.tys.toNat == 2 || f.tys.toNat == 6 || f.tys.toNat == 0xB))) (by simp [formLea, badTy])
  simp only [Bool.not_eq_false', Bool.and_eq_true, Bool.or_eq_true, beq_iff_eq] at hok
  rw [← BitVec.toNat_inj, ← BitVec.toNat_inj, ← BitVec.toNat_inj, ← or_assoc]
  exact hok.2

/-- The index of `lea` by its type. -/
theorem lea_index {ts : BitVec 5} (h : ts = 2 ∨ ts = 6 ∨ ts = 0xB) (vs : List Src) (t : Nat) :
    extended (tyI ts.toNat) 64 (BitVec.ofNat (tyBits ts.toNat) (srcN vs 1 t)) =
      if ts = 2 then (srcBits vs 1 32 t).signExtend 64 else if ts = 6 then (srcBits vs 1 32 t).setWidth 64 else srcBits vs 1 64 t := by
  rw [ofNat_srcN]
  rcases h with rfl | rfl | rfl
  · rfl
  · rfl
  · exact BitVec.setWidth_eq _

theorem writesResult_lea (ho : arithOp (.lea f) = some o) (ha : Acts s (.lea f)) : WritesResult s (.lea f) f.h o := by
  cases ho
  refine ⟨formLea f, bodyLea f, rfl, ?_⟩
  have hwide : (f.tys.toNat == 0xB) = (f.tys == 0xB) := by rw [Bool.eq_iff_iff, beq_iff_eq, beq_iff_eq, ← BitVec.toNat_inj]; rfl
  simp only [bodyLea, hwide]
  exact mapWord_congr fun vs t => (ofNat_lea ..).trans (by rw [lea_index (acts_lea ha), ofNat_srcN, BitVec.ofNat_toNat]; exact (BitVec.setWidth_eq _).symm)
end

theorem writesResult_arithOp {i : Instr} {s : State} {o : RegOp} {h : Head} (ho : arithOp i = some o) (hh : i.head? = some h) (ha : Acts s i) :
    WritesResult s i h o := by
  unfold arithOp at ho
  split at ho <;> cases ho <;> cases hh
  · exact writesResult_op2 rfl (intAdd_bits _ _)
  · exact writesResult_op2 rfl (intSub_bits _ _)
  · exact writesResult_op2 rfl (intMulLo_bits _)
  · exact writesResult_op2 rfl (intMulHi_bits _)
  · exact writesResult_mad rfl
  · exact writesResult_madWide rfl
  · exact writesResult_op2 rfl (intMin_bits _)
  · exact writesResult_op2 rfl (intMax_bits _)
  · exact writesResult_op1 rfl (intAbs_bits _ (acts_signed rfl ha))
  · exact writesResult_op1 rfl (intNeg_bits _ (acts_signed rfl ha))
  · exact writesResult_op1 rfl fun _ => rfl
  · exact writesResult_lea rfl ha

/-! ### Immediate forms (R144, R154) -/

theorem tyI_immTy (uni : Bool) : tyI (immTy uni) = true := by cases uni <;> rfl

theorem ofNat_immVal (f : I64) : BitVec.ofNat (tyBits (immTy f.h.uni)) (immVal f) = f.imm.signExtend _ := by
  rw [immVal, ofNat_wrap, sextNat_toNat]
  rfl

theorem minOp_signed {ty : Nat} (h : tyI ty = true) (a b : BitVec (tyBits ty)) : minOp ty a b = if a.sle b then a else b := by
  rw [minOp, lessOp, if_pos h, BitVec.sle_eq_not_slt]
  cases b.slt a <;> rfl

theorem maxOp_signed {ty : Nat} (h : tyI ty = true) (a b : BitVec (tyBits ty)) : maxOp ty a b = if a.slt b then b else a := by
  rw [maxOp, lessOp, if_pos h]

section
variable {s : State} {o : RegOp}

theorem writesResult_movi {f : I64} (ho : immOp (.movi f) = some o) : WritesResult s (.movi f) f.h o := by
  cases ho
  refine ⟨formMovi f, bodyMovi f, rfl, ?_⟩
  rw [bodyMovi]
  exact mapWord_congr fun vs t => by rw [ofNat_immVal, BitVec.ofNat_toNat, BitVec.setWidth_eq]

theorem writesResult_moviW128 {f : W128} (ho : immOp (.moviW128 f) = some o) (ha : Acts s (.moviW128 f)) : WritesResult s (.moviW128 f) f.h o := by
  cases ho
  refine ⟨formMoviW128 f, bodyMoviW128 f, rfl, ?_⟩
  have hty : (if f.md.getLsbD 0 then 0xA else 0xB) = if f.md = 0 then 0xB else 0xA := by
    rcases moviW128_md ha with h | h
    · rw [h]; rfl
    · rw [h]; rfl
  rw [bodyMoviW128, hty]
end

theorem writesResult_immOp {i : Instr} {s : State} {o : RegOp} {h : Head} (ho : immOp i = some o) (hh : i.head? = some h) (ha : Acts s i) :
    WritesResult s i h o := by
  unfold immOp at ho
  split at ho <;> cases ho <;> cases hh
  · exact writesResult_opImm rfl fun a => (intAdd_bits false _ a _).trans (by rw [ofNat_immVal]; rfl)
  · exact writesResult_opImm rfl fun a => (intSub_bits false _ a _).trans (by rw [ofNat_immVal]; rfl)
  · exact writesResult_opImm rfl fun a => (intMulLo_bits _ a _).trans (by rw [ofNat_immVal])
  · exact writesResult_opImm rfl fun a => (intMin_bits _ a _).trans (by rw [ofNat_immVal, minOp_signed (tyI_immTy _)])
  · exact writesResult_opImm rfl fun a => (intMax_bits _ a _).trans (by rw [ofNat_immVal, maxOp_signed (tyI_immTy _)])
  · exact writesResult_opImm rfl fun a => BitVec.ofNat_and.trans (by rw [ofNat_immVal])
  · exact writesResult_opImm rfl fun a => BitVec.ofNat_or.trans (by rw [ofNat_immVal])
  · exact writesResult_opImm rfl fun a => BitVec.ofNat_xor.trans (by rw [ofNat_immVal])
  · exact writesResult_opImm rfl fun a => shlN_bits _ a _
  · exact writesResult_opImm rfl fun a => shrN_bits _ a _
  · exact writesResult_opImm rfl fun a => sarN_bits _ a _
  · exact writesResult_opImm rfl fun a => rotN_bits _ a _
  · exact writesResult_movi rfl
  · exact writesResult_moviW128 rfl ha

/-- Settles O11: the word maps its sources, and the functions it maps them by are the operations on bit vectors. -/
theorem integerArithmeticResults : Obligations.IntegerArithmeticResults := by
  unfold Obligations.IntegerArithmeticResults
  intro i s o h ho hh ha
  rcases Option.or_eq_some_iff.mp ho with ho | ⟨-, ho⟩
  · exact exec_writesResult (writesResult_arithOp ho hh ha) ha
  · exact exec_writesResult (writesResult_immOp ho hh ha) ha

/-! ### Bit operations -/

section
variable {s : State} {f : T96} {o : RegOp}

theorem writesResult_bfe (ho : bitOp (.bfe f) = some o) : WritesResult s (.bfe f) f.h o := by
  cases ho
  refine ⟨formBfe f, bodyBfe f, rfl, ?_⟩
  rw [bodyBfe]
  exact mapWord_congr fun vs t => by simp only [bfeN_bits, ofNat_srcN, BitVec.ofNat_toNat, BitVec.setWidth_eq]

theorem writesResult_bfi (ho : bitOp (.bfi f) = some o) : WritesResult s (.bfi f) f.h o := by
  cases ho
  refine ⟨formBfi f, bodyBfi f, rfl, ?_⟩
  rw [bodyBfi]
  exact mapWord_congr fun vs t => by simp only [bfiN_bits, ofNat_mod_two_pow, ofNat_srcN, BitVec.ofNat_toNat, BitVec.setWidth_eq]

theorem writesResult_perm (ho : bitOp (.perm f) = some o) : WritesResult s (.perm f) f.h o := by
  cases ho
  refine ⟨formPerm f, bodyPerm f, rfl, ?_⟩
  rw [bodyPerm]
  exact mapWord_congr fun vs t => (permN_bits ..).trans (by simp only [ofNat_srcN, BitVec.ofNat_toNat]; exact (BitVec.setWidth_eq _).symm)
end

theorem writesResult_bitOp {i : Instr} {s : State} {o : RegOp} {h : Head} (ho : bitOp i = some o) (hh : i.head? = some h) : WritesResult s i h o := by
  unfold bitOp at ho
  split at ho <;> cases ho <;> cases hh
  · exact writesResult_op2 rfl fun _ _ => BitVec.ofNat_and
  · exact writesResult_op2 rfl fun _ _ => BitVec.ofNat_or
  · exact writesResult_op2 rfl fun _ _ => BitVec.ofNat_xor
  · exact writesResult_op1 rfl (intNot_bits _)
  · exact writesResult_opShift rfl (shlN_bits _)
  · exact writesResult_opShift rfl (shrN_bits _)
  · exact writesResult_opShift rfl (sarN_bits _)
  · exact writesResult_opShift rfl (rotN_bits _)
  · exact writesResult_op1 rfl fun a => by rw [popcN_bits]
  · exact writesResult_op1 rfl fun a => ofNat_eq_of_eq_toNat (clzN_bits _ a)
  · exact writesResult_op1 rfl fun a => ofNat_eq_of_eq_toNat (ctzN_bits _ a)
  · exact writesResult_op1 rfl fun a => brevN_bits _ a
  · exact writesResult_bfe rfl
  · exact writesResult_bfi rfl
  · exact writesResult_perm rfl

/-- Settles O12: the word maps its sources, and the functions it maps them by are the operations on bit vectors. -/
theorem bitOperationResults : Obligations.BitOperationResults := by
  unfold Obligations.BitOperationResults
  intro i s o h ho hh ha
  exact exec_writesResult (writesResult_bitOp ho hh) ha

end Sys2Proof.Machine
end

section
/-! SUPPORT. Carries, choice, lane exchange and scaling in their destinations (spec/06 R146, R153, R156; spec/08 R186). -/

namespace Sys2Proof.Machine

/-! ### Sums and differences with a carry (R146) -/

/-- A sum or a difference with the carry or the borrow that comes in. -/
def carryOp (sub : Bool) {w : Nat} (a b : BitVec w) (c : Bool) : BitVec w :=
  if sub then a - b - (BitVec.ofBool c).setWidth w else a + b + (BitVec.ofBool c).setWidth w

/-- The carry or the borrow that goes out. -/
def carryOut (sub : Bool) {w : Nat} (a b : BitVec w) (c : Bool) : Bool :=
  if sub then decide (a.toNat < b.toNat + c.toNat) else decide (2 ^ w ≤ a.toNat + b.toNat + c.toNat)

/-- The exact sum or difference. -/
def carryExact (sub : Bool) {w : Nat} (a b : BitVec w) (c : Bool) : Int :=
  if sub then a.toNat - b.toNat - c.toNat else a.toNat + b.toNat + c.toNat

theorem ofInt_toNat {w : Nat} (x : BitVec w) : BitVec.ofInt w x.toNat = x := (BitVec.ofInt_natCast w _).trans (ofNat_eq_of_eq_toNat rfl)

theorem ofNat_carryExact (sub : Bool) {w : Nat} (a b : BitVec w) (c : Bool) :
    BitVec.ofNat w (wrap w (carryExact sub a b c)) = carryOp sub a b c := by
  have hbit : BitVec.ofInt w c.toNat = (BitVec.ofBool c).setWidth w := by
    rw [BitVec.ofInt_natCast, ← BitVec.toNat_ofBool, BitVec.ofNat_toNat]
  rw [ofNat_wrap]
  cases sub with
  | true => simp only [carryExact, carryOp, if_true, ofInt_sub, ofInt_toNat, hbit]
  | false => simp only [carryExact, carryOp, Bool.false_eq_true, if_false, BitVec.ofInt_add, ofInt_toNat, hbit]

/-- The carry is an overflow of the exact sum, and the borrow a negative difference. -/
theorem carryOut_eq (sub : Bool) {w : Nat} (a b : BitVec w) (c : Bool) : carryOut sub a b c =
    if sub then decide (carryExact sub a b c < 0) else decide ((2 ^ w : Nat) ≤ carryExact sub a b c) := by
  cases sub with
  | true =>
    simp only [carryOut, carryExact, if_true, decide_eq_decide]
    omega
  | false =>
    simp only [carryOut, carryExact, Bool.false_eq_true, if_false, decide_eq_decide]
    omega

section
variable (f : A64) (s : State) (sub : Bool)

/-- The number of the carry predicate, and its value in a thread. -/
def carryNum : Nat := if f.h.uni then f.md.toNat else 4 + f.md.toNat
def carryIn (lane : Nat) : Bool := if f.h.uni then s.me.qval (carryNum f) else (s.me.pval (carryNum f)).getLsbD lane

/-- A source of `addc` and `subc` in a thread. -/
def carrySrc (n lane : Nat) : BitVec (tyBits f.ty.toNat) :=
  srcBits (s.srcs s.cur f.h.uni [(f.sa, tyBits f.ty.toNat == 64), (f.sb, tyBits f.ty.toNat == 64)]).1 n _ lane

/-- The value and the carry in a thread. -/
def carryValue (lane : Nat) : BitVec (tyBits f.ty.toNat) := carryOp sub (carrySrc f s 0 lane) (carrySrc f s 1 lane) (carryIn f s lane)
def carryFlag (lane : Nat) : Bool := carryOut sub (carrySrc f s 0 lane) (carrySrc f s 1 lane) (carryIn f s lane)

/-- The results of `addc` and `subc`, the values and the carries. -/
def carryVals : Pend :=
  outVals f.h.uni (s.me.part f.h) f.dst (tyBits f.ty.toNat == 64) (fun t => outTy f.ty.toNat (carryValue f s sub t).toNat)
def carryPred : Pend := outPred f.h.uni (s.me.part f.h) (carryNum f) (carryFlag f s sub)

theorem carryBody_eq : carryBody f sub s = (s.srcs s.cur f.h.uni [(f.sa, tyBits f.ty.toNat == 64), (f.sb, tyBits f.ty.toNat == 64)]).2.now
    ((carryVals f s sub).both (carryPred f s sub)) := by
  have hbit : ∀ b : Bool, (if b then 1 else 0 : Int) = b.toNat := by decide
  have hin : ∀ t, (if f.h.uni then (if s.me.qval f.md.toNat then 1 else 0)
      else (if (s.me.pval (4 + f.md.toNat)).getLsbD t then 1 else 0) : Int) = (carryIn f s t).toNat := by
    intro t
    rw [carryIn, carryNum]
    cases f.h.uni with
    | true => simp only [if_true, hbit]
    | false => simp only [Bool.false_eq_true, if_false, hbit]
  have hval : ∀ t, outTy f.ty.toNat (carryValue f s sub t).toNat =
      outTy f.ty.toNat (wrap (tyBits f.ty.toNat) (carryExact sub (carrySrc f s 0 t) (carrySrc f s 1 t) (carryIn f s t))) := fun t =>
    outTy_congr ((ofNat_eq_of_eq_toNat rfl).trans (ofNat_carryExact ..).symm)
  have hflag : carryFlag f s sub = fun t => carryOut sub (carrySrc f s 0 t) (carrySrc f s 1 t) (carryIn f s t) := rfl
  simp only [carryVals, carryPred, hval, hflag, carryOut_eq]
  unfold carryBody
  simp only [hin, (srcs_onlyChans s.cur f.h.uni _ s).me, ← toNat_srcBits]
  rfl

/-- A carry predicate is one of four to six, or of the uniform ones (R146). -/
theorem carryNum_uniform (h : f.h.uni = true) : carryNum f < 4 := by
  rw [carryNum, if_pos h]
  exact f.md.isLt

theorem wordOf_carry : wordOf (if sub then .subc f else .addc f) s = some (carryForm f, carryBody f sub) := by cases sub <;> rfl

variable {f s sub} in
theorem carryNum_vector (ha : Acts s (if sub then .subc f else .addc f)) (h : f.h.uni = false) : carryNum f ≠ 7 := by
  have hmd : f.md ≠ 3 := by
    simpa using acts_not_bad (wordOf_carry f s sub) ha (c := 4) (x := !(f.md != 3)) (by simp [carryForm, mustZero])
  have hlt : f.md.toNat ≠ 3 := fun e => hmd (BitVec.eq_of_toNat_eq e)
  rw [carryNum, if_neg (by rw [h]; decide)]
  omega
end

/-! ### A word that writes a destination and a predicate -/

/-- Predicate results behind register results name no register and no channel. -/
theorem written_putNow_both (s : State) (k : Nat) {p r : Pend} (hv : r.vw = []) (hs : r.sw = []) (hc : r.ch = none) (uni wide : Bool) (o : Opd)
    (lane : Nat) : written (s.putNow k (p.both r)) k uni wide o lane = written (s.putNow k p) k uni wide o lane := by
  have hch : (p.both r).ch = p.ch := by
    simp only [Pend.both, hc]
    cases p.ch <;> rfl
  have hchan : ∀ n, (s.putNow k (p.both r)).chanAt (s.coreOf k) n = (s.putNow k p).chanAt (s.coreOf k) n := by
    intro n
    unfold State.putNow
    rw [hch]
    cases p.ch <;> rfl
  have hregs : (s.standAt k).put (p.both r) = { (s.standAt k).put p with
      p := ((s.standAt k).put (p.both r)).p, q := ((s.standAt k).put (p.both r)).q } := by
    simp only [Stand.put, Pend.both, hv, hs, List.append_nil]
  simp only [written, putNow_standAt, putNow_coreOf, hchan]
  rw [hregs]

/-- Predicates are those of the predicate results alone. -/
theorem put_both_preds (st : Stand) {p : Pend} (r : Pend) (hp : p.pw = []) (hq : p.qw = []) :
    (st.put (p.both r)).p = (st.put r).p ∧ (st.put (p.both r)).q = (st.put r).q := by
  simp only [Stand.put, Pend.both, hp, hq, List.nil_append, and_self]

/-- The stand behind a word of no class 0x0 that puts its results at once, and a field that it has written. -/
theorem exec_now_stand {i : Instr} {s u : State} {f : Form} {b : State → Eff} {p : Pend} (hw : wordOf i s = some (f, b)) (hc : f.control = false)
    (ha : Acts s i) (hu : OnlyChans s.myCoreKey s u) (hb : b s = u.now p) : ∃ t, exec i s = .next t ∧
      t.me.pc = s.me.pc + BitVec.ofNat 64 (wordBytes i) ∧ LocalFrame s t ∧ SameMemory s t ∧ SameStand s.me t.me ∧
      t.me.p = (s.me.put p).p ∧ t.me.q = (s.me.put p).q ∧
      ∀ uni wide o lane, written t s.cur uni wide o lane = written (u.putNow s.cur p) s.cur uni wide o lane := by
  have hput := hu.localFrame.trans (localFrame_putNow u p)
  obtain ⟨place, clpos, hme⟩ := done_me hw hc hput.cur_eq
  rw [putNow_me, hu.me] at hme
  refine ⟨_, exec_done hw ha hb, ?_, hput.done i, (hput.done i).sameMemory, ?_, ?_, ?_, fun uni wide o lane => ?_⟩
  · rw [hme]; rfl
  · rw [hme]; simp [SameStand, Stand.put]
  · rw [hme]
  · rw [hme]
  · rw [written_done hw, hu.cur]

theorem exec_carry (f : A64) (s : State) (sub : Bool) (ha : Acts s (if sub then .subc f else .addc f)) :
    ∃ t, exec (if sub then .subc f else .addc f) s = .next t ∧
      t.me.pc = s.me.pc + BitVec.ofNat 64 (wordBytes (if sub then .subc f else .addc f)) ∧ LocalFrame s t ∧ SameMemory s t ∧ SameStand s.me t.me ∧
      ∀ lane ∈ resultLanes s.me f.h,
        written t s.cur f.h.uni (tyBits f.ty.toNat == 64) f.dst lane =
          landed f.h.uni (tyBits f.ty.toNat == 64) (outTy f.ty.toNat (carryValue f s sub lane).toNat) ∧
        (if f.h.uni then t.me.q.getLsbD (carryNum f) = carryFlag f s sub 0
          else (tget 0 t.me.p (carryNum f)).getLsbD lane = carryFlag f s sub lane) := by
  have hchans := srcs_onlyChans s.cur f.h.uni [(f.sa, tyBits f.ty.toNat == 64), (f.sb, tyBits f.ty.toNat == 64)] s
  obtain ⟨t, hexec, hpc, hlocal, hmem, hstand, hp, hq, hwritten⟩ := exec_now_stand (wordOf_carry f s sub) rfl ha hchans (carryBody_eq f s sub)
  obtain ⟨hpw, hqw⟩ : (carryVals f s sub).pw = [] ∧ (carryVals f s sub).qw = [] := outVals_preds ..
  obtain ⟨hvw, hsw, hch, -⟩ : (carryPred f s sub).vw = [] ∧ (carryPred f s sub).sw = [] ∧ (carryPred f s sub).ch = none ∧
    (carryPred f s sub).on = .ready := outPred_plain ..
  obtain ⟨hbp, hbq⟩ := put_both_preds s.me (carryPred f s sub) hpw hqw
  obtain ⟨-, -, huniform, -, hvector⟩ := put_outPred s.me f.h.uni (s.me.part f.h) (carryNum f) (carryFlag f s sub)
  refine ⟨t, hexec, hpc, hlocal, hmem, hstand, fun lane hl => ⟨?_, ?_⟩⟩
  · rw [hwritten, written_putNow_both _ _ hvw hsw hch]
    exact written_outVals _ _ _ _ _ _ (fun t => outTy f.ty.toNat (carryValue f s sub t).toNat) lane hl
  · rw [hp, hq, hbp, hbq]
    split
    · next hu => exact huniform hu (carryNum_uniform f hu)
    · next hu =>
      rw [resultLanes, if_neg hu] at hl
      obtain ⟨hlt, hbit⟩ := (mem_lanes _ _).mp hl
      have hu' : f.h.uni = false := Bool.eq_false_iff.mpr hu
      exact (hvector hu' (carryNum_vector ha hu') lane hlt).trans (if_pos hbit)

/-! ### Lane exchange (R156) -/

/-- The thread that `shfl` reads, in the rule's own words. -/
def exchanged (md : BitVec 8) (w t k : Nat) : Option Nat :=
  let base := t / w * w
  if md = 0 then some (base + k % w)
  else if md = 1 then (if w ≤ k ∨ t < k + base then none else some (t - k))
  else if md = 2 then (if w ≤ k ∨ base + w ≤ t + k then none else some (t + k))
  else some (t ^^^ (k % w))

theorem shflFrom_eq (md : BitVec 8) (w t k : Nat) : shflFrom md.toNat w t k = exchanged md w t k := by
  have hmode : ∀ n : BitVec 8, md = n ↔ md.toNat = n.toNat := fun n => BitVec.toNat_inj.symm
  simp only [shflFrom, exchanged, hmode, Nat.div_mul_self_eq_mod_sub_self, Nat.add_comm k]
  rfl

/-! ### Scaling (spec/08 R186) -/

/-- The bits of a number from a place on, below a width. -/
theorem mod_two_pow_div {m n w : Nat} (h : m + n ≤ w) (x : Nat) : x % 2 ^ w / 2 ^ m % 2 ^ n = x / 2 ^ m % 2 ^ n := by
  rw [show w = m + (w - m) by omega, Nat.pow_add, Nat.mod_mul_right_div_self, Nat.mod_mod_of_dvd _ (Nat.pow_dvd_pow 2 (by omega))]

/-- A code is its bits within the width of its format. -/
theorem decode_mod (f : FF) (x : Nat) : f.decode (x % 2 ^ f.width) = f.decode x := by
  have hsign : bitAt (x % 2 ^ f.width) (f.ebits + f.mbits) = bitAt x (f.ebits + f.mbits) := by
    rw [bitAt, bitAt, ← Nat.pow_one 2, mod_two_pow_div (by unfold FF.width; omega)]
  have hexp : x % 2 ^ f.width / 2 ^ f.mbits % 2 ^ f.ebits = x / 2 ^ f.mbits % 2 ^ f.ebits := mod_two_pow_div (by unfold FF.width; omega) x
  have hfrac : x % 2 ^ f.width % 2 ^ f.mbits = x % 2 ^ f.mbits := Nat.mod_mod_of_dvd _ (Nat.pow_dvd_pow 2 (by unfold FF.width; omega))
  simp only [FF.decode, hsign, hexp, hfrac]

theorem scale_mod (f : FF) (rm a : Nat) (n : Int) : f.scale rm (a % 2 ^ f.width) n = f.scale rm a n := by
  rw [FF.scale, FF.scale, decode_mod]

/-- The types of class 0x4 and the formats that they name (R160, R185). -/
theorem f3Ty_width {ty : Nat} (h : f3Ty ty = true) : (ffOf ty).width = tyBits ty ∧ (tyBits ty == 64) = false := by
  simp only [f3Ty, Bool.or_eq_true, beq_iff_eq] at h
  rcases h with (rfl | rfl) | rfl
  · exact ⟨rfl, rfl⟩
  · exact ⟨rfl, rfl⟩
  · exact ⟨rfl, rfl⟩

section
variable {s : State} {o : RegOp}

theorem writesResult_sel {f : T96} (ho : pickOp (.sel f) s = some o) : WritesResult s (.sel f) f.h o := by
  cases ho
  exact ⟨formSel f, bodySel f, rfl, rfl⟩

theorem writesResult_shfl {f : T96} (ho : pickOp (.shfl f) s = some o) : WritesResult s (.shfl f) f.h o := by
  cases ho
  refine ⟨formShfl f, bodyShfl f, rfl, ?_⟩
  rw [bodyShfl]
  refine mapWord_congr fun vs t => congrArg _ ?_
  rw [shflFrom_eq, ← toNat_srcBits]
  show _ = match exchanged f.md (2 ^ f.imm.toNat) t (srcBits vs 1 32 t).toNat with
    | some j => if (s.me.part f.h).getLsbD j then srcN vs 0 j else srcN vs 0 t
    | none => srcN vs 0 t
  cases exchanged f.md (2 ^ f.imm.toNat) t (srcBits vs 1 32 t).toNat <;> rfl

theorem writesResult_fscale {f : A64} (ho : pickOp (.fscale f) s = some o) (ha : Acts s (.fscale f)) : WritesResult s (.fscale f) f.h o := by
  cases ho
  refine ⟨formFscale f, bodyFscale f, rfl, ?_⟩
  have hty : f3Ty f.ty.toNat = true := by
    simpa using acts_not_bad (f := formFscale f) (b := bodyFscale f) rfl ha (c := 5) (x := !f3Ty f.ty.toNat) (by simp [formFscale, badTy])
  obtain ⟨hwidth, hnarrow⟩ := f3Ty_width hty
  have hbody : bodyFscale f s = mapWord f.h [(f.sa, false), (f.sb, false)] f.dst f.ty.toNat
      (fun vs t => (ffOf f.ty.toNat).scale f.md.toNat (srcN vs 0 t) (sextNat 32 (srcN vs 1 t))) s := by
    rw [bodyFscale, fbinBody, hnarrow]
    rfl
  rw [hbody]
  simp only [hnarrow]
  exact mapWord_congr fun vs t => by rw [toNat_srcBits, ← hwidth, scale_mod, sextNat_eq_toInt, ofNat_srcN]

theorem writesResult_pickOp {i : Instr} {h : Head} (ho : pickOp i s = some o) (hh : i.head? = some h) (ha : Acts s i) : WritesResult s i h o := by
  unfold pickOp at ho
  split at ho <;> cases ho <;> cases hh
  · exact writesResult_sel rfl
  · exact writesResult_shfl rfl
  · exact writesResult_fscale rfl ha
end

/-- Settles O17: a carry word puts a value and a predicate, and `sel`, `shfl` and `fscale` map their sources. -/
theorem carryAndSelectionResults : Obligations.CarryAndSelectionResults := by
  unfold Obligations.CarryAndSelectionResults
  exact ⟨fun f s sub ha => exec_carry f s sub ha, fun i s o h ho hh ha => exec_writesResult (writesResult_pickOp ho hh ha) ha⟩

end Sys2Proof.Machine
end

section
/-! SUPPORT. Floating codes as rationals (spec/07 R160, R161): magnitude codes in their order, and what a finite value stands for. -/

namespace Sys2Proof.Machine

/-! ### Magnitude codes -/

/-- The value of a code without its sign (R160); codes above the finite ones go on as further binades. -/
def FF.mag (f : FF) (k : Nat) : ℚ :=
  if k < 2 ^ f.mbits then k * 2 ^ f.emin
  else ((2 ^ f.mbits + k % 2 ^ f.mbits : Nat) : ℚ) * 2 ^ (((k / 2 ^ f.mbits : Nat) : Int) - 1 + f.emin)

theorem zpow_two_pos (e : Int) : (0 : ℚ) < 2 ^ e := zpow_pos (by norm_num) e

/-- A code as the binade's number and a mantissa, which may be the first one of the next binade. -/
theorem FF.mag_binade (f : FF) {j q : Nat} (hq : q ≤ 2 * 2 ^ f.mbits) (hj : j = 0 ∨ 2 ^ f.mbits ≤ q) :
    f.mag (j * 2 ^ f.mbits + q) = q * 2 ^ ((j : Int) + f.emin) := by
  have hB : 0 < 2 ^ f.mbits := Nat.two_pow_pos _
  rcases Nat.lt_or_ge q (2 ^ f.mbits) with hlt | hge
  · obtain rfl : j = 0 := by omega
    rw [Nat.zero_mul, Nat.zero_add, FF.mag, if_pos hlt, Nat.cast_zero, Int.zero_add]
  · rw [FF.mag, if_neg (by nlinarith)]
    rcases Nat.lt_or_eq_of_le hq with hlt | rfl
    · obtain ⟨r, rfl⟩ := Nat.exists_eq_add_of_le hge
      have hr : r < 2 ^ f.mbits := by omega
      have hcode : j * 2 ^ f.mbits + (2 ^ f.mbits + r) = r + (j + 1) * 2 ^ f.mbits := by ring
      rw [hcode, Nat.add_mul_mod_self_right, Nat.add_mul_div_right _ _ hB, Nat.mod_eq_of_lt hr, Nat.div_eq_of_lt hr]
      congr 2
      push_cast
      ring
    · have hcode : j * 2 ^ f.mbits + 2 * 2 ^ f.mbits = 0 + (j + 2) * 2 ^ f.mbits := by ring
      rw [hcode, Nat.add_mul_mod_self_right, Nat.add_mul_div_right _ _ hB, Nat.zero_mod, Nat.zero_div]
      have hexp : (((0 + (j + 2) : Nat) : Int) - 1 + f.emin) = 1 + (j + f.emin) := by push_cast; ring
      rw [hexp, zpow_add₀ (by norm_num)]
      push_cast
      ring

/-- Every code has such a form, with a mantissa below the next binade's. -/
theorem FF.exists_binade (f : FF) (k : Nat) :
    ∃ j q, k = j * 2 ^ f.mbits + q ∧ q < 2 * 2 ^ f.mbits ∧ (j = 0 ∨ 2 ^ f.mbits ≤ q) := by
  have hB : 0 < 2 ^ f.mbits := Nat.two_pow_pos _
  have hdm := Nat.div_add_mod' k (2 ^ f.mbits)
  have hmod := Nat.mod_lt k hB
  cases hd : k / 2 ^ f.mbits with
  | zero =>
    rw [hd] at hdm
    exact ⟨0, k, by omega, by omega, .inl rfl⟩
  | succ j =>
    rw [hd, Nat.add_mul] at hdm
    exact ⟨j, 2 ^ f.mbits + k % 2 ^ f.mbits, by omega, by omega, .inr (by omega)⟩

theorem FF.mag_strictMono (f : FF) : StrictMono f.mag := by
  refine strictMono_nat_of_lt_succ fun k => ?_
  obtain ⟨j, q, rfl, hq, hj⟩ := f.exists_binade k
  rw [Nat.add_assoc, f.mag_binade hq.le hj, f.mag_binade (j := j) (q := q + 1) (by omega) (by omega)]
  exact mul_lt_mul_of_pos_right (by push_cast; linarith) (zpow_two_pos _)

@[simp] theorem FF.mag_zero (f : FF) : f.mag 0 = 0 := by
  rw [FF.mag, if_pos (Nat.two_pow_pos _), Nat.cast_zero, zero_mul]

theorem FF.mag_nonneg (f : FF) (k : Nat) : 0 ≤ f.mag k := by
  rw [← f.mag_zero]
  exact f.mag_strictMono.monotone (Nat.zero_le k)

/-! ### Formats with infinities -/

theorem FF.mbits_pos (f : FF) : 1 ≤ f.mbits := by cases f <;> decide
theorem FF.two_le_ebits (f : FF) : 2 ≤ f.ebits := by cases f <;> decide
theorem FF.bias_eq (f : FF) : f.bias = 2 ^ (f.ebits - 1) - 1 := by cases f <;> rfl

theorem FF.infCode_pos (f : FF) : 0 < f.infCode :=
  Nat.mul_pos (Nat.sub_pos_of_lt (Nat.one_lt_two_pow (by have := f.two_le_ebits; omega))) (Nat.two_pow_pos _)

theorem FF.maxFin_add_one {f : FF} (h : f ≠ .e4m3) : f.maxFin + 1 = f.infCode := by
  have := f.infCode_pos
  rw [FF.maxFin, if_neg h, ← FF.infCode]
  omega

theorem FF.le_maxFin_iff {f : FF} (h : f ≠ .e4m3) {k : Nat} : k ≤ f.maxFin ↔ k < f.infCode := by
  rw [← FF.maxFin_add_one h, Nat.lt_succ_iff]

/-- The codes of the infinities are below the sign. -/
theorem FF.infCode_lt (f : FF) : f.infCode + 2 ^ f.mbits = f.signBit := by
  rw [FF.infCode, FF.signBit, Nat.pow_add, ← Nat.succ_mul, Nat.succ_eq_add_one, Nat.sub_add_cancel Nat.one_le_two_pow]

/-- The formats of the types with infinities, in the terms of the statements. -/
theorem floatTy.fields {ty : Nat} (h : floatTy ty) : floatFields ty = ((ffOf ty).ebits, (ffOf ty).mbits) := by
  rcases h with rfl | rfl | rfl | rfl | rfl <;> rfl
theorem floatTy.ne {ty : Nat} (h : floatTy ty) : ffOf ty ≠ .e4m3 := by
  rcases h with rfl | rfl | rfl | rfl | rfl <;> decide
theorem floatTy.width {ty : Nat} (h : floatTy ty) : tyBits ty = (ffOf ty).width := by
  rcases h with rfl | rfl | rfl | rfl | rfl <;> rfl
theorem floatTy.tyF {ty : Nat} (h : floatTy ty) : tyF ty = true := by
  rcases h with rfl | rfl | rfl | rfl | rfl <;> rfl

/-! ### Signs -/

/-- A sign as a factor. -/
def signum (neg : Bool) : ℚ := if neg then -1 else 1

@[simp] theorem signum_true : signum true = -1 := rfl
@[simp] theorem signum_false : signum false = 1 := rfl
@[simp] theorem abs_signum (neg : Bool) : |signum neg| = 1 := by cases neg <;> simp
theorem signum_bne (a b : Bool) : signum (a != b) = signum a * signum b := by cases a <;> cases b <;> simp

/-- The sign of a code. -/
def FF.negOf (f : FF) (c : Nat) : Bool := bitAt c (f.ebits + f.mbits)

theorem FF.signed_lt {f : FF} {neg : Bool} {k : Nat} (h : k < f.signBit) : f.signed neg k < 2 ^ f.width := by
  have hw : 2 ^ f.width = 2 * f.signBit := by rw [FF.width, FF.signBit, Nat.add_assoc, Nat.pow_add, Nat.pow_one]
  rw [FF.signed, hw]
  split <;> omega

section
variable {ty : Nat} (h : floatTy ty)
include h

theorem signOf_signed {neg : Bool} {k : Nat} (hk : k < (ffOf ty).signBit) : signOf ty ((ffOf ty).signed neg k) = neg.toNat := by
  rw [signOf, h.fields, FF.signed]
  rw [FF.signBit] at *
  cases neg with
  | true => rw [if_pos rfl, Nat.add_div_left _ (Nat.two_pow_pos _), Nat.div_eq_of_lt hk]; rfl
  | false => rw [if_neg (by decide), Nat.div_eq_of_lt hk]; rfl

omit h in
theorem signed_mod {neg : Bool} {k : Nat} (hk : k < (ffOf ty).signBit) : (ffOf ty).signed neg k % (ffOf ty).signBit = k := by
  rw [FF.signed]
  split
  · rw [Nat.add_mod_left, Nat.mod_eq_of_lt hk]
  · exact Nat.mod_eq_of_lt hk

theorem infOf_eq (neg : Bool) : infOf ty neg.toNat = (ffOf ty).signed neg (ffOf ty).infCode := by
  rw [infOf, h.fields]
  cases neg <;> simp [FF.signed, FF.signBit, FF.infCode]

theorem zeroOf_eq (neg : Bool) : zeroOf ty neg.toNat = (ffOf ty).signed neg 0 := by
  rw [zeroOf, h.fields]
  cases neg <;> simp [FF.signed, FF.signBit]

theorem signOf_eq (c : Nat) : signOf ty c = ((ffOf ty).negOf c).toNat := by
  rw [signOf, h.fields, FF.negOf, bitAt]
  rcases Nat.mod_two_eq_zero_or_one (c / 2 ^ ((ffOf ty).ebits + (ffOf ty).mbits)) with e | e <;> simp [e]

theorem expOf_eq (c : Nat) : expOf ty c = c % (ffOf ty).signBit / 2 ^ (ffOf ty).mbits := by
  rw [expOf, h.fields, FF.signBit, Nat.add_comm (ffOf ty).ebits, Nat.pow_add, Nat.mod_mul_right_div_self]

theorem fracOf_eq (c : Nat) : fracOf ty c = c % (ffOf ty).signBit % 2 ^ (ffOf ty).mbits := by
  rw [fracOf, h.fields, FF.signBit, Nat.mod_mod_of_dvd _ (Nat.pow_dvd_pow 2 (Nat.le_add_left _ _))]

/-! ### The values of codes -/

omit h in
/-- The exponent field of a magnitude code is full from infinity on. -/
theorem exp_full_iff {k : Nat} (hk : k < (ffOf ty).signBit) : k / 2 ^ (ffOf ty).mbits = 2 ^ (ffOf ty).ebits - 1 ↔ ¬k < (ffOf ty).infCode := by
  have hB : 0 < 2 ^ (ffOf ty).mbits := Nat.two_pow_pos _
  have hlt : k / 2 ^ (ffOf ty).mbits < 2 ^ (ffOf ty).ebits := by
    rw [Nat.div_lt_iff_lt_mul hB, ← Nat.pow_add]
    exact hk
  rw [Nat.not_lt, FF.infCode, ← Nat.le_div_iff_mul_le hB]
  omega

omit h in
/-- The value of R160: a fraction below a hidden 1, or below 0 where the exponent field is 0. -/
theorem FF.mag_eq (f : FF) (k : Nat) : (((if k / 2 ^ f.mbits = 0 then 0 else 2 ^ f.mbits) + k % 2 ^ f.mbits : Nat) : ℚ)
    * 2 ^ (((max (k / 2 ^ f.mbits) 1 : Nat) : Int) - ((2 ^ (f.ebits - 1) - 1 : Nat) : Int) - (f.mbits : Int)) = f.mag k := by
  have hB : 0 < 2 ^ f.mbits := Nat.two_pow_pos _
  rw [FF.mag, FF.emin, f.bias_eq]
  by_cases hk : k < 2 ^ f.mbits
  · rw [if_pos hk, if_pos (Nat.div_eq_of_lt hk), Nat.mod_eq_of_lt hk, Nat.div_eq_of_lt hk, Nat.zero_add]
    rfl
  · have hd : 1 ≤ k / 2 ^ f.mbits := (Nat.one_le_div_iff hB).mpr (Nat.not_lt.mp hk)
    rw [if_neg hk, if_neg (by omega), max_eq_left hd]
    congr 2
    ring

/-- A code below infinity, its sign apart, stands for its magnitude; the others for no number (R160). -/
theorem floatVal_eq (c : Nat) : floatVal ty c = if c % (ffOf ty).signBit ≤ (ffOf ty).maxFin
    then some (signum ((ffOf ty).negOf c) * (ffOf ty).mag (c % (ffOf ty).signBit)) else none := by
  have hk : c % (ffOf ty).signBit < (ffOf ty).signBit := Nat.mod_lt _ (Nat.two_pow_pos _)
  have hsign : (if ((ffOf ty).negOf c).toNat = 1 then -1 else 1 : ℚ) =
      signum ((ffOf ty).negOf c) := by
    cases (ffOf ty).negOf c <;> rfl
  simp only [floatVal, expOf_eq h, fracOf_eq h, signOf_eq h, h.fields, hsign, exp_full_iff hk, FF.le_maxFin_iff h.ne, ite_not, mul_assoc]
  rw [← FF.mag_eq]
end

end Sys2Proof.Machine
end

section
/-! SUPPORT. Rounding once (spec/07 R169, R173): the codes on both sides of an exact value, and the one of them that a mode takes. -/

namespace Sys2Proof.Machine

/-! ### One quotient rounded -/

/-- The modes that take the larger magnitude of two, for a sign (R169). -/
def RoundsAway (rm : Nat) (neg : Bool) : Prop := (rm = 2 ∧ neg = false) ∨ (rm = 3 ∧ neg = true)

/-- A value from q on and below q + 1 goes to q + 1. -/
def RoundsUp (rm : Nat) (neg : Bool) (q : Nat) (t : ℚ) : Prop :=
  (rm = 0 ∧ (2 * q + 1 < 2 * t ∨ (2 * t = 2 * q + 1 ∧ q % 2 = 1))) ∨ (RoundsAway rm neg ∧ t ≠ q)

/-- A quotient lies between its floor and the next number. -/
theorem div_floor_spec (num : Nat) {den : Nat} (hd : 0 < den) :
    ((num / den : Nat) : ℚ) ≤ num / den ∧ (num / den : ℚ) < (num / den : Nat) + 1 := by
  have hq : (0 : ℚ) < den := by exact_mod_cast hd
  rw [le_div_iff₀ hq, div_lt_iff₀ hq]
  refine ⟨by exact_mod_cast Nat.div_mul_le_self num den, ?_⟩
  exact_mod_cast Nat.lt_mul_of_div_lt (Nat.lt_succ_self _) hd

theorem roundUp_iff {rm : Nat} (hrm : rm < 4) (neg : Bool) (num : Nat) {den : Nat} (hd : 0 < den) :
    roundUp rm neg (num / den) (num % den) den = true ↔ RoundsUp rm neg (num / den) (num / den) := by
  have hq : (0 : ℚ) < den := by exact_mod_cast hd
  have hnum : (num : ℚ) = den * (num / den : Nat) + (num % den : Nat) := by exact_mod_cast (Nat.div_add_mod num den).symm
  have ht : (num / den : ℚ) = (num / den : Nat) + (num % den : Nat) / den := by
    rw [div_eq_iff hq.ne', add_mul, div_mul_cancel₀ _ hq.ne', mul_comm, ← hnum]
  have habove : (2 * ((num / den : Nat) : ℚ) + 1 < 2 * (num / den)) ↔ den < 2 * (num % den) := by
    rw [ht, mul_add, add_lt_add_iff_left, ← mul_div_assoc, lt_div_iff₀ hq, one_mul]
    norm_cast
  have hhalf : (2 * (num / den : ℚ) = 2 * (num / den : Nat) + 1) ↔ 2 * (num % den) = den := by
    rw [ht, mul_add, add_right_inj, ← mul_div_assoc, div_eq_one_iff_eq hq.ne']
    norm_cast
  have hexact : (num / den : ℚ) ≠ (num / den : Nat) ↔ num % den ≠ 0 := by
    rw [ht, Ne, add_eq_left, div_eq_zero_iff, Nat.cast_eq_zero, Nat.cast_eq_zero, or_iff_left hd.ne']
  unfold RoundsUp RoundsAway
  rw [habove, hhalf, hexact]
  interval_cases rm <;> simp [roundUp]
  all_goals cases neg <;> simp

/-! ### The codes around a value -/

/-- A magnitude code as a result: one above the largest finite value overflows (R173). -/
def FF.clip (f : FF) (rm : Nat) (neg : Bool) (k : Nat) : Nat := if f.maxFin < k then f.overflow rm false neg else f.signed neg k

/-- The unit in which a value is rounded: that of its binade, or of the subnormals. -/
def FF.unit (f : FF) (n : Nat) (e : Int) : Int := max f.emin ((Nat.log2 n : Int) + e - f.mbits)

theorem leadExp_one {n : Nat} (hn : n ≠ 0) (e : Int) : leadExp n 1 e = (Nat.log2 n : Int) + e := by
  have hlog : Nat.log2 1 = 0 := by decide
  have hneg : (-((Nat.log2 n : Int) - (0 : Nat))).toNat = 0 := by omega
  have hpos : ((Nat.log2 n : Int) - (0 : Nat)).toNat = Nat.log2 n := by omega
  have hle : ¬n * 2 ^ 0 < 1 * 2 ^ Nat.log2 n := by
    rw [Nat.pow_zero, Nat.mul_one, Nat.one_mul, Nat.not_lt]
    exact Nat.log2_self_le hn
  simp only [leadExp, hlog, hneg, hpos, if_neg hle]
  push_cast
  ring

theorem FF.round_eq {f : FF} (h : f ≠ .e4m3) (rm : Nat) (neg : Bool) {n : Nat} (hn : n ≠ 0) (e : Int) :
    let num := n * 2 ^ (e - f.unit n e).toNat
    let den := 2 ^ (f.unit n e - e).toNat
    f.round rm false neg n 1 e = f.clip rm neg ((f.unit n e - f.emin).toNat * 2 ^ f.mbits +
      if roundUp rm neg (num / den) (num % den) den then num / den + 1 else num / den) := by
  have hf : (f == .e4m3) = false := by simpa using h
  simp only [FF.round, if_neg hn, leadExp_one hn, hf, Bool.false_and, Bool.false_eq_true, or_false, one_mul]
  rfl

/-- What is rounded, in its unit. -/
theorem unit_quotient (n : Nat) (e u : Int) :
    ((n * 2 ^ (e - u).toNat : Nat) : ℚ) / (2 ^ (u - e).toNat : Nat) * 2 ^ u = n * 2 ^ e := by
  have hexp : e = ((e - u).toNat : Int) - ((u - e).toNat : Int) + u := by omega
  conv_rhs => rw [hexp, zpow_add₀ (by norm_num), zpow_sub₀ (by norm_num), zpow_natCast, zpow_natCast]
  push_cast
  ring

/-- The mantissa of a value in its unit: below the next binade's, and above the subnormals' a full one. -/
theorem unit_mantissa (f : FF) {n : Nat} (hn : n ≠ 0) {e u : Int} (hu : u = f.unit n e) :
    let q := n * 2 ^ (e - u).toNat / 2 ^ (u - e).toNat
    q < 2 * 2 ^ f.mbits ∧ ((u - f.emin).toNat = 0 ∨ 2 ^ f.mbits ≤ q) := by
  obtain ⟨hle, hlt⟩ := div_floor_spec (n * 2 ^ (e - u).toNat) (Nat.two_pow_pos (u - e).toNat)
  have hquot := unit_quotient n e u
  have hlow : (2 : ℚ) ^ (Nat.log2 n : Int) ≤ n := by
    rw [zpow_natCast]
    exact_mod_cast Nat.log2_self_le hn
  have hhigh : (n : ℚ) < 2 ^ ((Nat.log2 n : Int) + 1) := by
    have := Nat.lt_log2_self (n := n)
    exact_mod_cast this
  intro q
  constructor
  · have hexp : (2 : ℚ) ^ ((Nat.log2 n : Int) + 1) * 2 ^ e ≤ 2 ^ ((f.mbits : Int) + 1) * 2 ^ u := by
      rw [← zpow_add₀ (by norm_num), ← zpow_add₀ (by norm_num)]
      exact zpow_le_zpow_right₀ (by norm_num) (by rw [hu, FF.unit]; omega)
    have hmul : (q : ℚ) * 2 ^ u < 2 ^ ((f.mbits : Int) + 1) * 2 ^ u := by
      have h1 := mul_le_mul_of_nonneg_right hle (zpow_two_pos u).le
      have h2 := mul_lt_mul_of_pos_right hhigh (zpow_two_pos e)
      linarith
    have hq := lt_of_mul_lt_mul_right hmul (zpow_two_pos u).le
    rw [Nat.mul_comm, ← Nat.pow_succ]
    exact_mod_cast hq
  · by_cases hsub : u ≤ f.emin
    · exact .inl (by omega)
    · right
      have hexp : (2 : ℚ) ^ (f.mbits : Int) * 2 ^ u = 2 ^ (Nat.log2 n : Int) * 2 ^ e := by
        rw [← zpow_add₀ (by norm_num), ← zpow_add₀ (by norm_num)]
        congr 1
        rw [FF.unit] at hu
        omega
      have hmul : (2 : ℚ) ^ (f.mbits : Int) * 2 ^ u < (q + 1) * 2 ^ u := by
        have h1 := mul_lt_mul_of_pos_right hlt (zpow_two_pos u)
        have h2 := mul_le_mul_of_nonneg_right hlow (zpow_two_pos e).le
        linarith
      have hq := lt_of_mul_lt_mul_right hmul (zpow_two_pos u).le
      have : 2 ^ f.mbits < q + 1 := by exact_mod_cast hq
      omega

/-- A value from code k on and below the next goes to the next (R169). -/
def FF.Up (f : FF) (rm : Nat) (neg : Bool) (k : Nat) (y : ℚ) : Prop :=
  (rm = 0 ∧ (f.mag k + f.mag (k + 1) < 2 * y ∨ (2 * y = f.mag k + f.mag (k + 1) ∧ k % 2 = 1))) ∨ (RoundsAway rm neg ∧ y ≠ f.mag k)

/-- The code of a rounded value: the one below it or the next one. -/
theorem FF.round_between {f : FF} (h : f ≠ .e4m3) {rm : Nat} (hrm : rm < 4) (neg : Bool) {n : Nat} (hn : n ≠ 0) (e : Int) :
    ∃ k, f.mag k ≤ n * 2 ^ e ∧ n * 2 ^ e < f.mag (k + 1) ∧
      (f.Up rm neg k (n * 2 ^ e) → f.round rm false neg n 1 e = f.clip rm neg (k + 1)) ∧
      (¬f.Up rm neg k (n * 2 ^ e) → f.round rm false neg n 1 e = f.clip rm neg k) := by
  obtain ⟨u, hu⟩ : ∃ u, u = f.unit n e := ⟨_, rfl⟩
  have hround := FF.round_eq h rm neg hn e
  have hdecide := roundUp_iff hrm neg (n * 2 ^ (e - u).toNat) (Nat.two_pow_pos (u - e).toNat)
  obtain ⟨hle, hlt⟩ := div_floor_spec (n * 2 ^ (e - u).toNat) (Nat.two_pow_pos (u - e).toNat)
  obtain ⟨hq, hj⟩ := unit_mantissa f hn hu
  have hquot := unit_quotient n e u
  simp only [← hu] at hround
  generalize n * 2 ^ (e - u).toNat / 2 ^ (u - e).toNat = q at *
  generalize ((n * 2 ^ (e - u).toNat : Nat) : ℚ) / (2 ^ (u - e).toNat : Nat) = t at *
  have hexp : ((u - f.emin).toNat : Int) + f.emin = u := by
    have : f.emin ≤ u := by rw [hu, FF.unit]; omega
    omega
  have hmag := f.mag_binade hq.le hj
  have hmag' := f.mag_binade (j := (u - f.emin).toNat) (q := q + 1) (by omega) (by omega)
  rw [hexp] at hmag hmag'
  rw [← Nat.add_assoc] at hmag'
  have hpos := zpow_two_pos u
  have hodd : ((u - f.emin).toNat * 2 ^ f.mbits + q) % 2 = q % 2 := by
    obtain ⟨m, hm⟩ := Nat.exists_eq_add_of_le f.mbits_pos
    rw [hm, Nat.add_comm 1, Nat.pow_succ, ← Nat.mul_assoc, Nat.mul_add_mod_self_right]
  refine ⟨(u - f.emin).toNat * 2 ^ f.mbits + q, ?_, ?_, ?_⟩
  · rw [hmag, ← hquot]
    exact mul_le_mul_of_nonneg_right hle hpos.le
  · rw [hmag', ← hquot]
    push_cast
    exact mul_lt_mul_of_pos_right hlt hpos
  · have hiff : f.Up rm neg ((u - f.emin).toNat * 2 ^ f.mbits + q) (n * 2 ^ e) ↔ RoundsUp rm neg q t := by
      have hsum : (q : ℚ) * 2 ^ u + ((q + 1 : Nat) : ℚ) * 2 ^ u = (2 * q + 1) * 2 ^ u := by push_cast; ring
      have htwo : 2 * (t * 2 ^ u) = 2 * t * 2 ^ u := by ring
      rw [FF.Up, RoundsUp, hmag, hmag', ← hquot, hsum, htwo, mul_lt_mul_iff_left₀ hpos, mul_left_inj' hpos.ne', Ne, mul_left_inj' hpos.ne', hodd]
    rw [hiff, ← hdecide]
    exact ⟨fun hup => by rw [hround, if_pos hup, Nat.add_assoc], fun hdown => by rw [hround, if_neg hdown]⟩

end Sys2Proof.Machine
end

section
/-! SUPPORT. The rounding of the model is the rounding of the spec (spec/07 R169, R173). -/

namespace Sys2Proof.Machine

/-! ### Magnitudes rounded -/

/-- A code is at least as near to a value as another, and takes a tie as that very code or as an even one (R169). -/
def FF.Nearer (f : FF) (y : ℚ) (c i : Nat) : Prop := |y - f.mag c| < |y - f.mag i| ∨ (|y - f.mag c| = |y - f.mag i| ∧ (i = c ∨ c % 2 = 0))

/-- The modes that take the smaller magnitude of two, for a sign (R169). -/
def RoundsToward (rm : Nat) (neg : Bool) : Prop := rm = 1 ∨ (rm = 2 ∧ neg = true) ∨ (rm = 3 ∧ neg = false)

theorem not_away_of_toward {rm : Nat} {neg : Bool} (h : RoundsToward rm neg) : ¬RoundsAway rm neg ∧ rm ≠ 0 := by
  rcases h with rfl | ⟨rfl, rfl⟩ | ⟨rfl, rfl⟩ <;> simp [RoundsAway]

section
variable {f : FF} {k : Nat} {y : ℚ} (hk : f.mag k ≤ y) (hk' : y < f.mag (k + 1))
include hk hk'

theorem nearer_of_not_up {neg : Bool} (hd : ¬f.Up 0 neg k y) (i : Nat) : f.Nearer y k i := by
  have hle : 2 * y ≤ f.mag k + f.mag (k + 1) := by
    by_contra hlt
    exact hd (.inl ⟨rfl, .inl (not_le.mp hlt)⟩)
  rcases Nat.lt_trichotomy i k with hi | rfl | hi
  · have := f.mag_strictMono hi
    left
    rw [abs_of_nonneg (by linarith), abs_of_nonneg (by linarith)]
    linarith
  · exact .inr ⟨rfl, .inl rfl⟩
  · have := f.mag_strictMono.monotone (Nat.succ_le_of_lt hi)
    rw [Nat.succ_eq_add_one] at this
    unfold FF.Nearer
    rw [abs_of_nonneg (by linarith), abs_of_nonpos (by linarith)]
    rcases lt_or_eq_of_le (show y - f.mag k ≤ -(y - f.mag i) by linarith) with hlt | heq
    · exact .inl hlt
    · refine .inr ⟨heq, .inr ?_⟩
      by_contra hodd
      exact hd (.inl ⟨rfl, .inr ⟨by linarith, by omega⟩⟩)

omit hk in
theorem nearer_of_up {neg : Bool} (hu : f.Up 0 neg k y) (i : Nat) : f.Nearer y (k + 1) i := by
  have hup : f.mag k + f.mag (k + 1) < 2 * y ∨ (2 * y = f.mag k + f.mag (k + 1) ∧ k % 2 = 1) := by
    simpa [FF.Up, RoundsAway] using hu
  have hle : f.mag k + f.mag (k + 1) ≤ 2 * y := by rcases hup with h | ⟨h, -⟩ <;> linarith
  rcases Nat.lt_trichotomy i (k + 1) with hi | rfl | hi
  · have := f.mag_strictMono.monotone (Nat.lt_succ_iff.mp hi)
    unfold FF.Nearer
    rw [abs_of_nonpos (by linarith), abs_of_nonneg (by linarith)]
    rcases hup with hlt | ⟨-, hodd⟩
    · exact .inl (by linarith)
    · rcases lt_or_eq_of_le (show -(y - f.mag (k + 1)) ≤ y - f.mag i by linarith) with hlt | heq
      · exact .inl hlt
      · exact .inr ⟨heq, .inr (by omega)⟩
  · exact .inr ⟨rfl, .inl rfl⟩
  · have := f.mag_strictMono hi
    left
    rw [abs_of_nonpos (by linarith), abs_of_nonpos (by linarith)]
    linarith
end

/-! ### Where values begin to overflow -/

/-- Half a step above the largest finite value. -/
theorem lim_eq {f : FF} (h : f ≠ .e4m3) :
    ((2 ^ (f.mbits + 2) - 1) * 2 ^ (2 ^ (f.ebits - 1) - 2 - f.mbits) : ℚ) * 2 = f.mag f.maxFin + f.mag (f.maxFin + 1) := by
  obtain ⟨a, ha⟩ : ∃ a, 2 ^ (f.ebits - 1) = a + 2 + f.mbits := by
    refine ⟨2 ^ (f.ebits - 1) - 2 - f.mbits, ?_⟩
    have : 2 + f.mbits ≤ 2 ^ (f.ebits - 1) := by
      cases f with
      | e4m3 => exact absurd rfl h
      | _ => decide
    omega
  have hfull : 2 ^ f.ebits = 2 * (a + 2 + f.mbits) := by
    rw [← ha, ← Nat.pow_succ', Nat.succ_eq_add_one, Nat.sub_add_cancel (by have := f.two_le_ebits; omega)]
  have hmax : f.maxFin = (2 * a + 1 + 2 * f.mbits) * 2 ^ f.mbits + (2 * 2 ^ f.mbits - 1) := by
    have := FF.maxFin_add_one h
    have hB := Nat.two_pow_pos f.mbits
    have hcode : (2 * (a + 2 + f.mbits) - 1) * 2 ^ f.mbits = (2 * a + 1 + 2 * f.mbits) * 2 ^ f.mbits + 2 * 2 ^ f.mbits := by
      rw [← Nat.add_mul]
      congr 1
      omega
    rw [FF.infCode, hfull, hcode] at this
    omega
  have hB := Nat.two_pow_pos f.mbits
  have hexp : ((2 * a + 1 + 2 * f.mbits : Nat) : Int) + f.emin = (a : Int) + 1 := by
    rw [FF.emin, f.bias_eq, ha]
    push_cast
    omega
  have hlast := f.mag_binade (j := 2 * a + 1 + 2 * f.mbits) (q := 2 * 2 ^ f.mbits - 1) (by omega) (by omega)
  have hnext := f.mag_binade (j := 2 * a + 1 + 2 * f.mbits) (q := 2 * 2 ^ f.mbits) le_rfl (by omega)
  rw [← hmax, hexp] at hlast
  rw [show _ + 2 * 2 ^ f.mbits = f.maxFin + 1 by omega, hexp] at hnext
  rw [hlast, hnext, show 2 ^ (f.ebits - 1) - 2 - f.mbits = a by omega, zpow_add₀ (by norm_num), zpow_natCast, Nat.cast_sub (by omega)]
  push_cast
  ring

theorem FF.maxFin_odd {f : FF} (h : f ≠ .e4m3) : f.maxFin % 2 = 1 := by
  cases f with
  | e4m3 => exact absurd rfl h
  | _ => decide

/-- What a mode does with a magnitude above the range (R173). -/
theorem FF.clip_eq {f : FF} (h : f ≠ .e4m3) (rm : Nat) (neg : Bool) (k : Nat) :
    (rm = 0 ∨ RoundsAway rm neg → f.clip rm neg k = f.signed neg (min k (f.maxFin + 1))) ∧
    (RoundsToward rm neg → f.clip rm neg k = f.signed neg (min k f.maxFin)) := by
  have hcond : (rm = 0 ∨ (rm = 2 ∧ (!neg) = true) ∨ (rm = 3 ∧ neg = true)) ↔ rm = 0 ∨ RoundsAway rm neg := by simp [RoundsAway]
  simp only [FF.clip, FF.overflow, Bool.false_eq_true, if_false, if_neg h, ← FF.maxFin_add_one h]
  refine ⟨fun ha => ?_, fun ht => ?_⟩
  · rw [if_pos (hcond.mpr ha)]
    split
    · rw [min_eq_right (by omega)]
    · rw [min_eq_left (by omega)]
  · rw [if_neg (hcond.not.mpr (not_or.mpr (not_away_of_toward ht).symm))]
    split
    · rw [min_eq_right (by omega)]
    · rw [min_eq_left (by omega)]

section
variable {f : FF} (h : f ≠ .e4m3) {k : Nat} {y : ℚ} (hk : f.mag k ≤ y) (hk' : y < f.mag (k + 1))
include hk hk'

include h in
/-- The code that rounding to nearest takes goes beyond the finite ones from half a step above the largest on. -/
theorem nearest_overflows_iff {neg : Bool} {c : Nat} (hc : (f.Up 0 neg k y ∧ c = k + 1) ∨ (¬f.Up 0 neg k y ∧ c = k)) :
    f.maxFin < c ↔ f.mag f.maxFin + f.mag (f.maxFin + 1) ≤ 2 * y := by
  have hup : f.Up 0 neg k y ↔ f.mag k + f.mag (k + 1) < 2 * y ∨ (2 * y = f.mag k + f.mag (k + 1) ∧ k % 2 = 1) := by
    simp [FF.Up, RoundsAway]
  have hodd := FF.maxFin_odd h
  rw [hup] at hc
  have hmono := f.mag_strictMono
  rcases Nat.lt_trichotomy k f.maxFin with hlt | heq | hgt
  · have h1 := hmono.monotone (Nat.succ_le_of_lt hlt)
    have h2 := hmono (Nat.lt_succ_self f.maxFin)
    rw [Nat.succ_eq_add_one] at h1 h2
    exact ⟨fun h3 => by omega, fun h3 => absurd h3 (not_le.mpr (by linarith))⟩
  · rw [← heq] at hodd ⊢
    rcases hc with ⟨h1 | ⟨h1, -⟩, rfl⟩ | ⟨h1, rfl⟩
    · exact ⟨fun _ => h1.le, fun _ => Nat.lt_succ_self _⟩
    · exact ⟨fun _ => h1.ge, fun _ => Nat.lt_succ_self _⟩
    · refine ⟨fun h2 => absurd h2 (Nat.lt_irrefl _), fun h2 => absurd ?_ h1⟩
      rcases h2.lt_or_eq with h3 | h3
      · exact .inl h3
      · exact .inr ⟨h3.symm, hodd⟩
  · have h1 := hmono.monotone (Nat.succ_le_of_lt hgt)
    have h2 := hmono (Nat.lt_succ_self f.maxFin)
    rw [Nat.succ_eq_add_one] at h1 h2
    exact ⟨fun _ => by linarith, fun _ => by omega⟩

/-- The codes of values up to a value are those up to the code below it. -/
theorem mag_le_iff (i : Nat) : f.mag i ≤ y ↔ i ≤ k := by
  refine ⟨fun hi => ?_, fun hi => (f.mag_strictMono.monotone hi).trans hk⟩
  by_contra hlt
  have := f.mag_strictMono.monotone (Nat.succ_le_of_lt (Nat.not_le.mp hlt))
  rw [Nat.succ_eq_add_one] at this
  linarith

/-- The codes of values from a value on are those from the next code on, or from the one that is exact. -/
theorem le_mag_iff {c : Nat} (hc : (y ≠ f.mag k ∧ c = k + 1) ∨ (y = f.mag k ∧ c = k)) (i : Nat) : y ≤ f.mag i ↔ c ≤ i := by
  rcases hc with ⟨hne, rfl⟩ | ⟨heq, rfl⟩
  · refine ⟨fun hi => ?_, fun hi => hk'.le.trans (f.mag_strictMono.monotone hi)⟩
    by_contra hlt
    have := f.mag_strictMono.monotone (Nat.lt_succ_iff.mp (Nat.not_le.mp hlt))
    exact hne (by linarith)
  · rw [heq, f.mag_strictMono.le_iff_le]
end

/-! ### A signed code as a rounded value -/

/-- A code up to infinity is no sign. -/
theorem FF.lt_signBit {f : FF} (h : f ≠ .e4m3) {c : Nat} (hc : c ≤ f.maxFin + 1) : c < f.signBit := by
  have := FF.maxFin_add_one h
  have := f.infCode_lt
  have := Nat.two_pow_pos f.mbits
  omega

theorem FF.signBit_even (f : FF) : f.signBit % 2 = 0 := by
  cases f <;> decide

section
variable {ty : Nat} (h : floatTy ty)
include h

theorem negOf_signed {neg : Bool} {c : Nat} (hc : c < (ffOf ty).signBit) : (ffOf ty).negOf ((ffOf ty).signed neg c) = neg := by
  have := signOf_signed h (neg := neg) hc
  rw [signOf_eq h] at this
  revert this
  cases (ffOf ty).negOf ((ffOf ty).signed neg c) <;> cases neg <;> simp

theorem floatVal_signed {neg : Bool} {c : Nat} (hc : c ≤ (ffOf ty).maxFin) :
    floatVal ty ((ffOf ty).signed neg c) = some (signum neg * (ffOf ty).mag c) := by
  have hlt := FF.lt_signBit h.ne (Nat.le_succ_of_le hc)
  rw [floatVal_eq h, signed_mod hlt, if_pos hc, negOf_signed h hlt]

/-- A finite value, taken with a sign, is a magnitude or the negative of one that is not 0. -/
theorem signum_mul_finite (neg : Bool) {c : Nat} {w : ℚ} (hw : floatVal ty c = some w) : ∃ i, i ≤ (ffOf ty).maxFin ∧
    (signum neg * w = (ffOf ty).mag i ∨ (signum neg * w = -(ffOf ty).mag i ∧ 0 < (ffOf ty).mag i)) := by
  rw [floatVal_eq h] at hw
  split at hw
  · next hle =>
    refine ⟨_, hle, ?_⟩
    obtain rfl := Option.some.inj hw
    rw [← mul_assoc, ← signum_bne]
    rcases (FF.mag_nonneg (ffOf ty) (c % (ffOf ty).signBit)).lt_or_eq with hpos | hzero
    · cases neg != (ffOf ty).negOf c with
      | false => exact .inl (one_mul _)
      | true => exact .inr ⟨neg_one_mul _, hpos⟩
    · exact .inl (by rw [← hzero, mul_zero])
  · cases hw

theorem roundedTo_signed {rm c : Nat} {neg : Bool} {y : ℚ} (hy : 0 < y) (hc : c ≤ (ffOf ty).maxFin + 1)
    (hnear : rm = 0 → (2 * y < (ffOf ty).mag (ffOf ty).maxFin + (ffOf ty).mag ((ffOf ty).maxFin + 1) → c ≤ (ffOf ty).maxFin ∧ ∀ i, (ffOf ty).Nearer y c i) ∧
      ((ffOf ty).mag (ffOf ty).maxFin + (ffOf ty).mag ((ffOf ty).maxFin + 1) ≤ 2 * y → c = (ffOf ty).maxFin + 1))
    (htoward : RoundsToward rm neg → c ≤ (ffOf ty).maxFin ∧ (ffOf ty).mag c ≤ y ∧ ∀ i, i ≤ (ffOf ty).maxFin → (ffOf ty).mag i ≤ y → i ≤ c)
    (haway : RoundsAway rm neg → (c ≤ (ffOf ty).maxFin ∧ y ≤ (ffOf ty).mag c ∧ ∀ i, y ≤ (ffOf ty).mag i → c ≤ i) ∨
      (c = (ffOf ty).maxFin + 1 ∧ (ffOf ty).mag (ffOf ty).maxFin < y)) :
    RoundedTo ty rm (signum neg * y) ((ffOf ty).signed neg c) := by
  have hT : RoundsToward rm neg → c ≤ (ffOf ty).maxFin ∧ (ffOf ty).mag c ≤ y ∧
      ∀ w d, floatVal ty d = some w → signum neg * w ≤ y → signum neg * w ≤ (ffOf ty).mag c := fun ht => by
    obtain ⟨hfin, hle, hmax⟩ := htoward ht
    refine ⟨hfin, hle, fun w d hw hx => ?_⟩
    obtain ⟨i, hi, hwi | ⟨hwi, hpos⟩⟩ := signum_mul_finite h neg hw
    · rw [hwi] at hx ⊢
      exact (ffOf ty).mag_strictMono.monotone (hmax i hi hx)
    · have := (ffOf ty).mag_nonneg c
      linarith
  have hA : RoundsAway rm neg → (c ≤ (ffOf ty).maxFin ∧ y ≤ (ffOf ty).mag c ∧
      ∀ w d, floatVal ty d = some w → y ≤ signum neg * w → (ffOf ty).mag c ≤ signum neg * w) ∨
      (c = (ffOf ty).maxFin + 1 ∧ ∀ w d, floatVal ty d = some w → signum neg * w < y) := fun ha => by
    rcases haway ha with ⟨hfin, hle, hmin⟩ | ⟨htop, hlast⟩
    · refine .inl ⟨hfin, hle, fun w d hw hx => ?_⟩
      obtain ⟨i, -, hwi | ⟨hwi, hpos⟩⟩ := signum_mul_finite h neg hw
      · rw [hwi] at hx ⊢
        exact (ffOf ty).mag_strictMono.monotone (hmin i hx)
      · linarith
    · refine .inr ⟨htop, fun w d hw => ?_⟩
      obtain ⟨i, hi, hwi | ⟨hwi, hpos⟩⟩ := signum_mul_finite h neg hw
      · rw [hwi]
        exact ((ffOf ty).mag_strictMono.monotone hi).trans_lt hlast
      · linarith
  have hlt := FF.lt_signBit h.ne hc
  have hwidth : 1 + (ffOf ty).ebits + (ffOf ty).mbits = (ffOf ty).width := rfl
  have habs : ∀ z, |signum neg * z| = |z| := fun z => by rw [abs_mul, abs_signum, one_mul]
  have hsign : signOf ty ((ffOf ty).signed neg c) = neg.toNat := signOf_signed h hlt
  have hinf : ∀ c, c = (ffOf ty).maxFin + 1 → (ffOf ty).signed neg c = infOf ty neg.toNat := by
    rintro c rfl
    rw [infOf_eq h, FF.maxFin_add_one h.ne]
  unfold RoundedTo
  simp only [h.fields, hwidth]
  refine ⟨FF.signed_lt hlt, ?_, fun hrm => ⟨fun hx => ?_, fun hx => ?_⟩, fun hrm => ?_, fun hrm => ?_, fun hrm => ?_⟩
  · rw [hsign]
    cases neg <;> simp [hy, hy.le]
  · rw [habs, abs_of_pos hy] at hx
    obtain ⟨hfin, hn⟩ := (hnear hrm).1 (by rw [← lim_eq h.ne]; linarith)
    refine ⟨_, floatVal_signed h hfin, ?_⟩
    rintro w ⟨d, -, hw⟩
    have hone : signum neg * signum neg = 1 := by cases neg <;> simp
    have hdist : ∀ z, |signum neg * y - z| = |y - signum neg * z| := fun z => by rw [← habs, mul_sub, ← mul_assoc, hone, one_mul]
    rw [hdist, hdist, ← mul_assoc, hone, one_mul]
    obtain ⟨i, -, hwi | ⟨hwi, hpos⟩⟩ := signum_mul_finite h neg hw
    · rw [hwi]
      rcases hn i with hlt | ⟨heq, rfl | heven⟩
      · exact .inl hlt
      · exact .inr ⟨rfl, .inl (by rw [← hwi, ← mul_assoc, hone, one_mul])⟩
      · refine .inr ⟨heq, .inr ?_⟩
        have := (ffOf ty).signBit_even
        rw [FF.signed]
        split <;> omega
    · left
      have hbelow : |y - (ffOf ty).mag i| < |y - -(ffOf ty).mag i| := by
        rw [sub_neg_eq_add, abs_of_pos (add_pos hy hpos), abs_lt]
        constructor <;> linarith
      rw [hwi]
      rcases hn i with hlt | ⟨heq, -⟩ <;> linarith
  · rw [habs, abs_of_pos hy] at hx
    rw [hsign]
    exact hinf c ((hnear hrm).2 (by rw [← lim_eq h.ne]; linarith))
  · obtain ⟨hfin, hle, hmax⟩ := htoward (.inl hrm)
    refine ⟨_, floatVal_signed h hfin, ?_, ?_⟩
    · rw [habs, habs, abs_of_pos hy, abs_of_nonneg (FF.mag_nonneg ..)]
      exact hle
    · rintro w ⟨d, -, hw⟩
      obtain ⟨i, hi, hwi⟩ := signum_mul_finite h neg hw
      have hwi : |w| = (ffOf ty).mag i := by
        rw [← habs]
        rcases hwi with hwi | ⟨hwi, -⟩
        · rw [hwi, abs_of_nonneg (FF.mag_nonneg ..)]
        · rw [hwi, abs_neg, abs_of_nonneg (FF.mag_nonneg ..)]
      rw [hwi, habs, habs, abs_of_pos hy, abs_of_nonneg (FF.mag_nonneg ..)]
      exact fun hle => (ffOf ty).mag_strictMono.monotone (hmax i hi hle)
  · cases neg with
    | false =>
      rcases hA (.inl ⟨hrm, rfl⟩) with ⟨hfin, hle, hmin⟩ | ⟨htop, hmax⟩
      · exact .inl ⟨_, floatVal_signed h hfin, by simpa using hle, fun w ⟨d, _, hw⟩ hx => by simpa using hmin w d hw (by simpa using hx)⟩
      · exact .inr ⟨hinf c htop, fun w ⟨d, _, hw⟩ => by simpa using hmax w d hw⟩
    | true =>
      obtain ⟨hfin, hle, hmax⟩ := hT (.inr (.inl ⟨hrm, rfl⟩))
      refine .inl ⟨_, floatVal_signed h hfin, by simpa using hle, fun w ⟨d, _, hw⟩ hx => ?_⟩
      have := hmax w d hw (by simpa [neg_le] using hx)
      simpa [neg_le] using this
  · cases neg with
    | false =>
      obtain ⟨hfin, hle, hmax⟩ := hT (.inr (.inr ⟨hrm, rfl⟩))
      exact .inl ⟨_, floatVal_signed h hfin, by simpa using hle, fun w ⟨d, _, hw⟩ hx => by simpa using hmax w d hw (by simpa using hx)⟩
    | true =>
      rcases hA (.inr ⟨hrm, rfl⟩) with ⟨hfin, hle, hmin⟩ | ⟨htop, hmax⟩
      · refine .inl ⟨_, floatVal_signed h hfin, by simpa using hle, fun w ⟨d, _, hw⟩ hx => ?_⟩
        have := hmin w d hw (by simpa [le_neg] using hx)
        simpa [le_neg] using this
      · refine .inr ⟨hinf c htop, fun w ⟨d, _, hw⟩ => ?_⟩
        have := hmax w d hw
        simpa [neg_lt] using this

/-- What the model rounds is rounded as R169 and R173 say. -/
theorem roundedTo_round {rm : Nat} (hrm : rm < 4) (neg : Bool) {n : Nat} (hn : n ≠ 0) (e : Int) :
    RoundedTo ty rm (signum neg * (n * 2 ^ e)) ((ffOf ty).round rm false neg n 1 e) := by
  have hy : (0 : ℚ) < n * 2 ^ e := mul_pos (by exact_mod_cast Nat.pos_of_ne_zero hn) (zpow_two_pos e)
  obtain ⟨k, hk, hk', hup, hdown⟩ := FF.round_between h.ne hrm neg hn e
  generalize (n * 2 ^ e : ℚ) = y at *
  obtain ⟨c, hc, hround⟩ : ∃ c, (((ffOf ty).Up rm neg k y ∧ c = k + 1) ∨ (¬(ffOf ty).Up rm neg k y ∧ c = k)) ∧
      (ffOf ty).round rm false neg n 1 e = (ffOf ty).clip rm neg c := by
    by_cases hu : (ffOf ty).Up rm neg k y
    · exact ⟨_, .inl ⟨hu, rfl⟩, hup hu⟩
    · exact ⟨_, .inr ⟨hu, rfl⟩, hdown hu⟩
  obtain ⟨hclip, hclipT⟩ := FF.clip_eq h.ne rm neg c
  rw [hround]
  by_cases ht : RoundsToward rm neg
  · obtain ⟨hna, hne⟩ := not_away_of_toward ht
    have hck : c = k := by
      rcases hc with ⟨hu, -⟩ | ⟨-, rfl⟩
      · exact absurd hu (by simp [FF.Up, hna, hne])
      · rfl
    rw [hclipT ht, hck]
    refine roundedTo_signed h hy (by omega) (fun h0 => absurd h0 hne) (fun _ => ⟨min_le_right .., ?_, fun i hi hle => ?_⟩) fun ha => absurd ha hna
    · exact (mag_le_iff hk hk' _).mpr (min_le_left ..)
    · exact le_min ((mag_le_iff hk hk' i).mp hle) hi
  · have ha : rm = 0 ∨ RoundsAway rm neg := by
      unfold RoundsToward at ht
      unfold RoundsAway
      cases neg <;> simp at * <;> omega
    rw [hclip ha]
    refine roundedTo_signed h hy (min_le_right ..) (fun h0 => ?_) (fun h1 => absurd h1 ht) fun h2 => ?_
    · subst h0
      rw [← not_le, ← nearest_overflows_iff h.ne hk hk' hc]
      refine ⟨fun hlt => ?_, fun hgt => min_eq_right hgt⟩
      rw [min_eq_left (by omega)]
      refine ⟨by omega, fun i => ?_⟩
      rcases hc with ⟨hu, rfl⟩ | ⟨hu, rfl⟩
      · exact nearer_of_up hk' hu i
      · exact nearer_of_not_up hk hk' hu i
    · have hne : rm ≠ 0 := fun h0 => by simp [RoundsAway, h0] at h2
      have hiff : (ffOf ty).Up rm neg k y ↔ y ≠ (ffOf ty).mag k := by simp [FF.Up, hne, h2]
      have hle := le_mag_iff hk hk' (c := c) (by rwa [hiff, not_not] at hc)
      rcases Nat.lt_or_ge (ffOf ty).maxFin c with hgt | hfin
      · refine .inr ⟨min_eq_right hgt, ?_⟩
        rw [← not_le, hle]
        omega
      · rw [min_eq_left (by omega)]
        exact .inl ⟨hfin, (hle c).mpr le_rfl, fun i hi => (hle i).mp hi⟩
end

end Sys2Proof.Machine
end

section
/-! SUPPORT. Decoded values as rationals, exact sums and products, and NaNs (spec/07 R160, R161, R171). -/

namespace Sys2Proof.Machine

/-! ### What a decoded value stands for -/

/-- The exact value of a number; infinities and NaNs have none. -/
def FVal.val : FVal → ℚ
  | .num n m e => signum n * (m * 2 ^ e)
  | _ => 0

def FVal.isNum : FVal → Bool
  | .num .. => true
  | _ => false

/-- A bit set in a number. -/
theorem or_two_pow_eq (x n : Nat) : x ||| 2 ^ n = x / 2 ^ (n + 1) * 2 ^ (n + 1) + (2 ^ n + x % 2 ^ n) := by
  have hl : 2 ^ n + x % 2 ^ n < 2 ^ (n + 1) := by
    have := Nat.mod_lt x (Nat.two_pow_pos n)
    rw [Nat.pow_succ]
    omega
  apply Nat.eq_of_testBit_eq
  intro i
  rw [Nat.mul_comm, Nat.testBit_two_pow_mul_add _ hl, Nat.testBit_or, Nat.testBit_two_pow]
  rcases Nat.lt_trichotomy i n with h | rfl | h
  · rw [if_pos (by omega), Nat.testBit_two_pow_add_gt h, Nat.testBit_mod_two_pow]
    simp [h, h.ne']
  · rw [if_pos (by omega), Nat.testBit_two_pow_add_eq, Nat.testBit_mod_two_pow]
    simp
  · rw [if_neg (by omega), Nat.testBit_div_two_pow, Nat.sub_add_cancel h]
    simp [h.ne]

section
variable {ty : Nat} (h : floatTy ty)
include h

/-- A code by its fields: full exponents are infinities and NaNs. -/
theorem decode_fields (c : Nat) : (ffOf ty).decode c =
    if expOf ty c = 2 ^ (ffOf ty).ebits - 1 then (if fracOf ty c = 0 then .inf ((ffOf ty).negOf c) else .nan ((ffOf ty).negOf c) (fracOf ty c) (ffOf ty).mbits)
    else .num ((ffOf ty).negOf c) ((if expOf ty c = 0 then 0 else 2 ^ (ffOf ty).mbits) + fracOf ty c) ((max (expOf ty c) 1 : Nat) - 1 + (ffOf ty).emin) := by
  simp only [FF.decode, if_neg h.ne, expOf, fracOf, h.fields, FF.negOf]
  by_cases h1 : c / 2 ^ (ffOf ty).mbits % 2 ^ (ffOf ty).ebits = 2 ^ (ffOf ty).ebits - 1
  · rw [if_pos h1, if_pos h1]
  · rw [if_neg h1, if_neg h1]
    by_cases h0 : c / 2 ^ (ffOf ty).mbits % 2 ^ (ffOf ty).ebits = 0
    · simp [h0]
    · rw [if_neg h0, if_neg h0, max_eq_left (by omega)]

/-- A code with a value is a number of that value (R160). -/
theorem decode_of_floatVal {c : Nat} {x : ℚ} (hx : floatVal ty c = some x) :
    ∃ m e, (ffOf ty).decode c = .num ((ffOf ty).negOf c) m e ∧ x = FVal.val (.num ((ffOf ty).negOf c) m e) := by
  rw [decode_fields h]
  simp only [floatVal, h.fields, signOf_eq h] at hx
  split at hx
  · cases hx
  · next hfull =>
    refine ⟨_, _, if_neg hfull, ?_⟩
    rw [← Option.some.inj hx, FVal.val, FF.emin, FF.bias_eq, mul_assoc]
    congr 1
    · cases (ffOf ty).negOf c <;> rfl
    · congr 2
      ring

theorem decode_infOf (neg : Bool) : (ffOf ty).decode (infOf ty neg.toNat) = .inf neg := by
  have hB := Nat.two_pow_pos (ffOf ty).mbits
  have hlt : (ffOf ty).infCode < (ffOf ty).signBit := FF.lt_signBit h.ne (FF.maxFin_add_one h.ne).ge
  have hexp : expOf ty (infOf ty neg.toNat) = 2 ^ (ffOf ty).ebits - 1 := by
    rw [expOf, h.fields, infOf, h.fields, Nat.pow_add, ← Nat.mul_assoc, ← Nat.add_mul, Nat.mul_div_cancel _ hB, Nat.mul_add_mod_self_right]
    exact Nat.mod_eq_of_lt (Nat.sub_lt (Nat.two_pow_pos _) Nat.one_pos)
  have hfrac : fracOf ty (infOf ty neg.toNat) = 0 := by
    rw [fracOf, h.fields, infOf, h.fields, Nat.pow_add, ← Nat.mul_assoc, ← Nat.add_mul, Nat.mul_mod_left]
  have hneg : (ffOf ty).negOf (infOf ty neg.toNat) = neg := by rw [infOf_eq h, negOf_signed h hlt]
  rw [decode_fields h, if_pos hexp, if_pos hfrac, hneg]

theorem isNan_decode (c : Nat) : ((ffOf ty).decode c).isNan = isNanOf ty c := by
  rw [decode_fields h, isNanOf, h.fields]
  by_cases h1 : expOf ty c = 2 ^ (ffOf ty).ebits - 1
  · by_cases h2 : fracOf ty c = 0 <;> simp [h1, h2, FVal.isNan]
  · simp [h1, FVal.isNan]

theorem isNanOf_iff {c : Nat} : isNanOf ty c = true ↔ expOf ty c = 2 ^ (ffOf ty).ebits - 1 ∧ fracOf ty c ≠ 0 := by
  rw [isNanOf, h.fields, Bool.and_eq_true, beq_iff_eq, bne_iff_ne]

theorem decode_of_isNanOf {c : Nat} (hc : isNanOf ty c = true) :
    (ffOf ty).decode c = .nan ((ffOf ty).negOf c) (fracOf ty c) (ffOf ty).mbits := by
  obtain ⟨hexp, hfrac⟩ := (isNanOf_iff h).mp hc
  rw [decode_fields h, if_pos hexp, if_neg hfrac]

/-- A NaN made quiet in its own format is its code with the quiet bit (R171). -/
theorem quiet_eq {c : Nat} (hc : isNanOf ty c = true) (hw : c < 2 ^ (ffOf ty).width) :
    (ffOf ty).quiet ((ffOf ty).negOf c) (fracOf ty c) (ffOf ty).mbits = c ||| 2 ^ ((ffOf ty).mbits - 1) := by
  obtain ⟨hexp, -⟩ := (isNanOf_iff h).mp hc
  obtain ⟨b, hb⟩ := Nat.exists_eq_add_of_le' (ffOf ty).mbits_pos
  have hhigh : c / 2 ^ (ffOf ty).mbits = (2 ^ (ffOf ty).ebits - 1) + 2 ^ (ffOf ty).ebits * signOf ty c := by
    have hdiv : c / 2 ^ (ffOf ty).mbits / 2 ^ (ffOf ty).ebits = signOf ty c := by
      rw [signOf, h.fields, Nat.div_div_eq_div_mul, ← Nat.pow_add, Nat.add_comm]
      refine (Nat.mod_eq_of_lt ?_).symm
      rw [Nat.div_lt_iff_lt_mul (Nat.two_pow_pos _), ← Nat.pow_succ']
      rwa [FF.width, show 1 + _ + _ = ((ffOf ty).ebits + (ffOf ty).mbits).succ by omega] at hw
    rw [← hexp, ← hdiv, expOf, h.fields]
    exact (Nat.mod_add_div _ _).symm
  have hsign : (ffOf ty).signed ((ffOf ty).negOf c) ((ffOf ty).infCode + (fracOf ty c % 2 ^ b + 2 ^ b)) =
      c / 2 ^ (ffOf ty).mbits * 2 ^ (ffOf ty).mbits + (2 ^ b + fracOf ty c % 2 ^ b) := by
    rw [hhigh, signOf_eq h, FF.signed, FF.signBit, FF.infCode, Nat.pow_add]
    cases (ffOf ty).negOf c with
    | true =>
      rw [if_pos rfl, Bool.toNat_true]
      ring
    | false =>
      rw [if_neg (by decide), Bool.toNat_false]
      ring
  have hlow : fracOf ty c % 2 ^ b = c % 2 ^ b := by
    rw [fracOf, h.fields]
    exact Nat.mod_mod_of_dvd _ (Nat.pow_dvd_pow 2 (by omega))
  rw [FF.quiet, if_neg h.ne, if_pos le_rfl, Nat.sub_self, Nat.pow_zero, Nat.mul_one, or_two_pow_eq, hb, Nat.add_sub_cancel, ← hb, hsign, hlow]

theorem firstNan_decode (cs : List Nat) (hw : ∀ c ∈ cs, c < 2 ^ (ffOf ty).width) :
    firstNan (ffOf ty) (cs.map (ffOf ty).decode) = (cs.find? (isNanOf ty)).map (fun c => c ||| 2 ^ ((ffOf ty).mbits - 1)) := by
  induction cs with
  | nil => rfl
  | cons c r ih =>
    simp only [List.forall_mem_cons] at hw
    obtain ⟨hc, hr⟩ := hw
    rw [List.map_cons, List.find?_cons]
    cases hn : isNanOf ty c with
    | true => rw [decode_of_isNanOf h hn, firstNan, quiet_eq h hn hc, Option.map_some]
    | false =>
      have hd := isNan_decode h c
      rw [hn] at hd
      rw [← ih hr]
      cases hv : (ffOf ty).decode c with
      | nan => rw [hv] at hd; cases hd
      | inf => rfl
      | num => rfl
end

/-! ### Exact sums -/

theorem minExp_le {n : Bool} {m : Nat} {e : Int} : ∀ {ts : List FVal}, (∀ t ∈ ts, t.isNum = true) → .num n m e ∈ ts → minExp ts ≤ e
  | [], _, hm => absurd hm List.not_mem_nil
  | [.num _ _ _], _, hm => by
    cases List.mem_singleton.mp hm
    exact le_rfl
  | .num _ _ e' :: t :: r, hts, hm => by
    show min e' (minExp (t :: r)) ≤ e
    rcases List.mem_cons.mp hm with h | h
    · cases h
      exact min_le_left ..
    · exact (min_le_right ..).trans (minExp_le (fun t ht => hts t (List.mem_cons_of_mem _ ht)) h)
  | .nan _ _ _ :: _, hts, _ => by cases hts _ List.mem_cons_self
  | .inf _ :: _, hts, _ => by cases hts _ List.mem_cons_self

theorem inUnits_mul {u e : Int} (hu : u ≤ e) (n : Bool) (m : Nat) : (inUnits u (.num n m e) : ℚ) * 2 ^ u = FVal.val (.num n m e) := by
  have hexp : e = ((e - u).toNat : Int) + u := by omega
  have hpow : (2 : ℚ) ^ e = 2 ^ (e - u).toNat * 2 ^ u := by
    conv_lhs => rw [hexp, zpow_add₀ (by norm_num), zpow_natCast]
  rw [inUnits, FVal.val, hpow]
  cases n <;> push_cast <;> simp <;> ring

/-- A sum in a unit that no value falls below. -/
theorem sum_inUnits {u : Int} : ∀ {ts : List FVal}, (∀ t ∈ ts, t.isNum = true) → (∀ n m e, FVal.num n m e ∈ ts → u ≤ e) →
    (((ts.map (inUnits u)).sum : Int) : ℚ) * 2 ^ u = (ts.map FVal.val).sum
  | [], _, _ => by simp
  | t :: r, hts, hu => by
    rw [List.forall_mem_cons] at hts
    obtain ⟨ht, hr⟩ := hts
    have ih := sum_inUnits hr fun n m e hm => hu n m e (List.mem_cons_of_mem _ hm)
    cases t with
    | num n m e =>
      rw [List.map_cons, List.map_cons, List.sum_cons, List.sum_cons, Int.cast_add, add_mul, ih, inUnits_mul (hu n m e List.mem_cons_self)]
    | nan => cases ht
    | inf => cases ht

/-- A sum of numbers is rounded once; an exact zero has a common sign, or that of the mode (R186). -/
theorem sum_nums {f : FF} (rm : Nat) {ts : List FVal} (hts : ∀ t ∈ ts, t.isNum = true) :
    ((ts.map FVal.val).sum ≠ 0 → ∃ (neg : Bool) (n : Nat) (e : Int), n ≠ 0 ∧ (ts.map FVal.val).sum = signum neg * (n * 2 ^ e) ∧ f.sum rm ts = f.round rm false neg n 1 e) ∧
    ((ts.map FVal.val).sum = 0 → f.sum rm ts =
      f.signed (if ts.all (fun t => t.neg) then true else if ts.all (fun t => !t.neg) then false else rm == 3) 0) := by
  have hinf : ∀ b, ts.any (fun t => t.isInf && (t.neg == b)) = false := fun b => by
    rw [List.any_eq_false]
    intro t ht
    have := hts t ht
    cases t with
    | num => simp [FVal.isInf]
    | nan => cases this
    | inf => cases this
  have hpos := hinf false
  have hneg := hinf true
  simp only [beq_false, beq_true] at hpos hneg
  have hval := sum_inUnits hts fun n m e hm => minExp_le hts hm
  rw [← hval]
  have hfold : (ts.map (inUnits (minExp ts))).foldl (· + ·) 0 = (ts.map (inUnits (minExp ts))).sum := List.sum_eq_foldl.symm
  simp only [FF.sum, hpos, hneg, Bool.false_and, Bool.false_eq_true, if_false, hfold]
  generalize (ts.map (inUnits (minExp ts))).sum = x
  constructor
  · intro hx
    have hx0 : x ≠ 0 := fun h0 => hx (by rw [h0, Int.cast_zero, zero_mul])
    refine ⟨decide (x < 0), x.natAbs, minExp ts, Int.natAbs_ne_zero.mpr hx0, ?_, by rw [if_neg hx0]⟩
    rw [← mul_assoc]
    congr 1
    rcases lt_or_ge x 0 with hlt | hge
    · obtain ⟨n, rfl⟩ := Int.eq_negSucc_of_lt_zero hlt
      simp [hlt]
    · obtain ⟨n, rfl⟩ := Int.eq_ofNat_of_zero_le hge
      simp [hge.not_gt]
  · intro hx
    have hx0 : x = 0 := by
      rcases mul_eq_zero.mp hx with h0 | h0
      · exact_mod_cast h0
      · exact absurd h0 (zpow_two_pos _).ne'
    rw [if_pos hx0]

/-! ### Exact products -/

theorem mulExact_num {v w : FVal} (hv : v.isNum = true) (hw : w.isNum = true) : ∃ p, mulExact v w = some p ∧ p.isNum = true ∧
    p.neg = (v.neg != w.neg) ∧ p.val = v.val * w.val := by
  cases v with
  | nan => cases hv
  | inf => cases hv
  | num n m e =>
    cases w with
    | nan => cases hw
    | inf => cases hw
    | num n' m' e' =>
      refine ⟨_, rfl, rfl, rfl, ?_⟩
      simp only [FVal.val, signum_bne, zpow_add₀ (show (2 : ℚ) ≠ 0 by norm_num)]
      push_cast
      ring

theorem FVal.val_num_eq_zero {n : Bool} {m : Nat} {e : Int} : FVal.val (.num n m e) = 0 ↔ m = 0 := by
  have hn : signum n ≠ 0 := by cases n <;> simp
  rw [FVal.val, mul_eq_zero, mul_eq_zero, Nat.cast_eq_zero]
  simp [hn, (zpow_two_pos e).ne']

/-- An infinity times a number is invalid where the number is 0 (R161). -/
theorem mulExact_inf_num (n : Bool) {w : FVal} (hw : w.isNum = true) :
    mulExact (.inf n) w = (if w.val = 0 then none else some (.inf (n != w.neg))) ∧
    mulExact w (.inf n) = (if w.val = 0 then none else some (.inf (w.neg != n))) := by
  cases w with
  | nan => cases hw
  | inf => cases hw
  | num n' m' e' => simp only [mulExact, FVal.val_num_eq_zero, FVal.neg, and_self]

end Sys2Proof.Machine
end

section
/-! SUPPORT. Sums, products and fused forms of the model follow their rules (spec/08 R186, R187, R193). -/

namespace Sys2Proof.Machine

/-! ### Results are codes of their format -/

section
variable {f : FF} (h : f ≠ .e4m3)

theorem FF.quiet_lt (neg : Bool) (frac fbits : Nat) (h : f ≠ .e4m3) : f.quiet neg frac fbits < 2 ^ f.width := by
  rw [FF.quiet, if_neg h]
  refine FF.signed_lt ?_
  obtain ⟨b, hb⟩ := Nat.exists_eq_add_of_le' f.mbits_pos
  have hB : 2 ^ f.mbits = 2 * 2 ^ (f.mbits - 1) := by rw [hb, Nat.add_sub_cancel, Nat.pow_succ, Nat.mul_comm]
  have := f.infCode_lt
  refine lt_of_lt_of_eq (Nat.add_lt_add_left ?_ _) this
  have := Nat.mod_lt (if fbits ≤ f.mbits then frac * 2 ^ (f.mbits - fbits) else frac / 2 ^ (fbits - f.mbits)) (Nat.two_pow_pos (f.mbits - 1))
  omega

include h

theorem FF.infCode_lt_signBit : f.infCode < f.signBit := FF.lt_signBit h (FF.maxFin_add_one h).ge

theorem FF.nan_lt : f.nan < 2 ^ f.width := by
  have := f.infCode_lt
  have hB : 2 ^ (f.mbits - 1) ≤ 2 ^ f.mbits := Nat.pow_le_pow_right (by decide) (Nat.sub_le ..)
  have hw : 2 ^ f.width = 2 * f.signBit := by rw [FF.width, FF.signBit, Nat.add_assoc, Nat.pow_add, Nat.pow_one]
  have := FF.lt_signBit h (Nat.zero_le _)
  rw [FF.nan, if_neg h]
  omega

theorem FF.zero_lt_signBit : 0 < f.signBit := FF.lt_signBit h (Nat.zero_le _)

theorem FF.clip_lt (rm : Nat) (neg : Bool) (k : Nat) : f.clip rm neg k < 2 ^ f.width := by
  have hmax := FF.lt_signBit h (Nat.le_succ f.maxFin)
  simp only [FF.clip, FF.overflow, Bool.false_eq_true, if_false, if_neg h]
  split
  · split
    · exact FF.signed_lt (FF.infCode_lt_signBit h)
    · exact FF.signed_lt hmax
  · next hle => exact FF.signed_lt (lt_of_le_of_lt (Nat.not_lt.mp hle) hmax)

theorem FF.round_lt (rm : Nat) (neg : Bool) (n : Nat) (e : Int) : f.round rm false neg n 1 e < 2 ^ f.width := by
  by_cases hn : n = 0
  · rw [FF.round, if_pos hn]
    exact FF.signed_lt (FF.zero_lt_signBit h)
  · rw [FF.round_eq h rm neg hn]
    exact FF.clip_lt h ..

theorem FF.ofVal_lt (rm : Nat) (v : FVal) : f.ofVal rm false v < 2 ^ f.width := by
  cases v with
  | nan => exact FF.quiet_lt _ _ _ h
  | inf n =>
    simp only [FF.ofVal, if_neg h, Bool.false_eq_true, if_false]
    exact FF.signed_lt (FF.infCode_lt_signBit h)
  | num n m e => exact FF.round_lt h rm n m e

theorem FF.sum_lt (rm : Nat) (ts : List FVal) : f.sum rm ts < 2 ^ f.width := by
  unfold FF.sum
  simp only
  split
  · exact FF.nan_lt h
  split
  · exact FF.ofVal_lt h ..
  split
  · exact FF.ofVal_lt h ..
  split
  · exact FF.signed_lt (FF.zero_lt_signBit h)
  · exact FF.round_lt h ..

theorem firstNan_lt {vs : List FVal} {x : Nat} (hx : firstNan f vs = some x) : x < 2 ^ f.width := by
  induction vs with
  | nil => cases hx
  | cons v r ih =>
    cases v with
    | nan n fr b =>
      obtain rfl := Option.some.inj hx
      exact FF.quiet_lt _ _ _ h
    | inf n => exact ih hx
    | num n m e => exact ih hx

theorem FF.fused_lt (rm : Nat) (order : List FVal) (prods : List (FVal × FVal)) (adds : List FVal) :
    f.fused rm order prods adds < 2 ^ f.width := by
  unfold FF.fused
  split
  · next hx => exact firstNan_lt h hx
  · split
    · exact FF.nan_lt h
    · exact FF.sum_lt h ..
end

/-! ### NaN operands -/

section
variable {ty : Nat} (h : floatTy ty)
include h

theorem nanRule_fused (rm : Nat) {cs : List Nat} (hw : ∀ c ∈ cs, c < 2 ^ (ffOf ty).width) (prods : List (FVal × FVal)) (adds : List FVal) :
    NanRule ty cs ((ffOf ty).fused rm (cs.map (ffOf ty).decode) prods adds) := by
  intro c hc
  rw [FF.fused, firstNan_decode h cs hw, hc, h.fields]
  rfl

/-- Without NaNs a fused form is the sum of its exact products and addends, unless a product is invalid. -/
theorem fused_eq (rm : Nat) {cs : List Nat} (hw : ∀ c ∈ cs, c < 2 ^ (ffOf ty).width) (hn : ∀ c ∈ cs, isNanOf ty c = false)
    (prods : List (FVal × FVal)) (adds : List FVal) : (ffOf ty).fused rm (cs.map (ffOf ty).decode) prods adds =
      match prods.mapM (fun p => mulExact p.1 p.2) with
      | none => (ffOf ty).nan
      | some ps => (ffOf ty).sum rm (ps ++ adds) := by
  have hnone : cs.find? (isNanOf ty) = none := List.find?_eq_none.mpr fun c hc => by rw [hn c hc]; decide
  rw [FF.fused, firstNan_decode h cs hw, hnone]
  rfl

theorem isNanOf_of_floatVal {c : Nat} {x : ℚ} (hx : floatVal ty c = some x) : isNanOf ty c = false := by
  obtain ⟨m, e, hd, -⟩ := decode_of_floatVal h hx
  rw [← isNan_decode h, hd]
  rfl

theorem isNanOf_infOf (neg : Bool) : isNanOf ty (infOf ty neg.toNat) = false := by
  rw [← isNan_decode h, decode_infOf h]
  rfl

/-! ### Sums of numbers -/

/-- A sum of numbers is rounded once, and an exact zero has a common sign or that of the mode. -/
theorem sum_rounded {rm : Nat} (hrm : rm < 4) {ts : List FVal} (hts : ∀ t ∈ ts, t.isNum = true) :
    ((ts.map FVal.val).sum ≠ 0 → RoundedTo ty rm (ts.map FVal.val).sum ((ffOf ty).sum rm ts)) ∧
    ((ts.map FVal.val).sum = 0 → (ffOf ty).sum rm ts =
      zeroOf ty (if ts.all (fun t => t.neg) then true else if ts.all (fun t => !t.neg) then false else rm == 3).toNat) := by
  obtain ⟨hne, hzero⟩ := sum_nums (f := ffOf ty) rm hts
  refine ⟨fun hx => ?_, fun hx => by rw [hzero hx, zeroOf_eq h]⟩
  obtain ⟨neg, n, e, hn, hval, hsum⟩ := hne hx
  rw [hval, hsum]
  exact roundedTo_round h hrm neg hn e
end

theorem FVal.val_eq {v : FVal} (hv : v.isNum = true) : ∃ p : ℚ, 0 ≤ p ∧ v.val = signum v.neg * p := by
  cases v with
  | nan => cases hv
  | inf => cases hv
  | num n m e => exact ⟨m * 2 ^ e, mul_nonneg (Nat.cast_nonneg _) (zpow_two_pos e).le, rfl⟩

/-- The sign of a zero that two numbers give together (R186). -/
theorem zero_sign {v w : FVal} (hv : v.isNum = true) (hw : w.isNum = true) (h0 : v.val + w.val = 0) (rm : Nat) :
    (if [v, w].all (fun t => t.neg) then true else if [v, w].all (fun t => !t.neg) then false else rm == 3).toNat =
      if w.val = 0 ∧ v.neg.toNat = w.neg.toNat then v.neg.toNat else if rm = 3 then 1 else 0 := by
  obtain ⟨p, hp, hvp⟩ := FVal.val_eq hv
  obtain ⟨q, hq, hwq⟩ := FVal.val_eq hw
  have hrm : (rm == 3).toNat = if rm = 3 then 1 else 0 := by by_cases hr : rm = 3 <;> simp [hr]
  rw [hvp, hwq] at h0
  rw [hwq]
  simp only [List.all_cons, List.all_nil, Bool.and_true]
  generalize v.neg = n at *
  generalize w.neg = n' at *
  cases n <;> cases n' <;> simp [hrm] at * <;> intro hne <;> exact absurd (by linarith) hne

end Sys2Proof.Machine
end

section
/-! SUPPORT. The rules of sums, products and fused forms (spec/08 R186, R187, R193). -/

namespace Sys2Proof.Machine

theorem exists_sign {i : Nat} (hi : i < 2) : ∃ n : Bool, i = n.toNat := by
  interval_cases i
  · exact ⟨false, rfl⟩
  · exact ⟨true, rfl⟩

/-- The sign of a product. -/
theorem toNat_bne (a b : Bool) : (a != b).toNat = (a.toNat + b.toNat) % 2 := by cases a <;> cases b <;> rfl

section
variable {ty : Nat} (h : floatTy ty)
include h

theorem nanOf_eq : nanOf ty = (ffOf ty).nan := by
  have := infOf_eq h false
  rw [FF.nan, if_neg h.ne, nanOf, h.fields]
  exact congrArg (· + _) this

/-! ### Short sums -/

/-- A sum of two numbers. -/
theorem sum_two {rm : Nat} (hrm : rm < 4) {v w : FVal} (hv : v.isNum = true) (hw : w.isNum = true) :
    (v.val + w.val ≠ 0 → RoundedTo ty rm (v.val + w.val) ((ffOf ty).sum rm [v, w])) ∧
    (v.val + w.val = 0 → (ffOf ty).sum rm [v, w] =
      zeroOf ty (if w.val = 0 ∧ v.neg.toNat = w.neg.toNat then v.neg.toNat else if rm = 3 then 1 else 0)) := by
  obtain ⟨hne, hzero⟩ := sum_rounded h hrm (ts := [v, w]) (by simp [hv, hw])
  have hsum : ([v, w].map FVal.val).sum = v.val + w.val := by simp
  rw [hsum] at hne hzero
  exact ⟨hne, fun h0 => by rw [hzero h0, zero_sign hv hw h0]⟩

/-- A number alone is rounded, and a zero keeps its sign. -/
theorem sum_one {rm : Nat} (hrm : rm < 4) {v : FVal} (hv : v.isNum = true) :
    (v.val ≠ 0 → RoundedTo ty rm v.val ((ffOf ty).sum rm [v])) ∧ (v.val = 0 → (ffOf ty).sum rm [v] = zeroOf ty v.neg.toNat) := by
  obtain ⟨hne, hzero⟩ := sum_rounded h hrm (ts := [v]) (by simp [hv])
  have hsum : ([v].map FVal.val).sum = v.val := by simp
  rw [hsum] at hne hzero
  refine ⟨hne, fun h0 => ?_⟩
  rw [hzero h0]
  cases hn : v.neg <;> simp [hn]

theorem sum_inf (rm : Nat) (n : Bool) : (ffOf ty).sum rm [.inf n] = infOf ty n.toNat := by
  rw [infOf_eq h]
  cases n <;> simp [FF.sum, FVal.isInf, FVal.neg, FF.ofVal, h.ne]

theorem sum_inf_num (rm : Nat) (n : Bool) {w : FVal} (hw : w.isNum = true) :
    (ffOf ty).sum rm [.inf n, w] = infOf ty n.toNat ∧ (ffOf ty).sum rm [w, .inf n] = infOf ty n.toNat := by
  cases w with
  | nan => cases hw
  | inf => cases hw
  | num n' m' e' =>
    rw [infOf_eq h]
    cases n <;> simp [FF.sum, FVal.isInf, FVal.neg, FF.ofVal, h.ne]

theorem sum_inf_inf (rm : Nat) (n n' : Bool) : (ffOf ty).sum rm [.inf n, .inf n'] = if n = n' then infOf ty n.toNat else nanOf ty := by
  rw [infOf_eq h, nanOf_eq h]
  cases n <;> cases n' <;> simp [FF.sum, FVal.isInf, FVal.neg, FF.ofVal, h.ne]

/-! ### Operands -/

theorem signOf_infOf (n : Bool) : signOf ty (infOf ty n.toNat) = n.toNat := by
  rw [infOf_eq h, signOf_signed h (FF.infCode_lt_signBit h.ne)]

/-- A code with a value decodes to a number of that value and its sign. -/
theorem decode_number {c : Nat} {x : ℚ} (hx : floatVal ty c = some x) : ∃ v, (ffOf ty).decode c = v ∧ v.isNum = true ∧ v.val = x ∧
    v.neg.toNat = signOf ty c := by
  obtain ⟨m, e, hd, hv⟩ := decode_of_floatVal h hx
  exact ⟨_, hd, rfl, hv.symm, (signOf_eq h c).symm⟩

/-! ### The rules -/

section
variable {rm a b c : Nat} (ha : a < 2 ^ (ffOf ty).width) (hb : b < 2 ^ (ffOf ty).width)
include ha hb

theorem add_eq_sum (hna : isNanOf ty a = false) (hnb : isNanOf ty b = false) :
    (ffOf ty).add rm a b = (ffOf ty).sum rm [(ffOf ty).decode a, (ffOf ty).decode b] :=
  fused_eq h rm (cs := [a, b]) (by simp [ha, hb]) (by simp [hna, hnb]) [] _

theorem sumRule_add (hrm : rm < 4) : SumRule ty rm a b ((ffOf ty).add rm a b) := by
  refine ⟨nanRule_fused h rm (cs := [a, b]) (by simp [ha, hb]) _ _, fun x y hx hy => ?_, fun i j y => ⟨?_, ?_, ?_⟩⟩
  · obtain ⟨v, hv, hvn, rfl, hvs⟩ := decode_number h hx
    obtain ⟨w, hw, hwn, rfl, hws⟩ := decode_number h hy
    obtain ⟨hne, hzero⟩ := sum_two h hrm hvn hwn
    rw [add_eq_sum h ha hb (isNanOf_of_floatVal h hx) (isNanOf_of_floatVal h hy), hv, hw]
    refine ⟨hne, fun h0 => ?_⟩
    have hboth : v.val = 0 ↔ w.val = 0 := by constructor <;> intro hz <;> linarith
    simp only [hzero h0, hboth, hvs, hws]
  · rintro ⟨rfl, hi, hy⟩
    obtain ⟨n, rfl⟩ := exists_sign hi
    obtain ⟨w, hw, hwn, rfl, -⟩ := decode_number h hy
    rw [add_eq_sum h ha hb (isNanOf_infOf h n) (isNanOf_of_floatVal h hy), decode_infOf h, hw, (sum_inf_num h rm n hwn).1]
  · rintro ⟨rfl, hi, hy⟩
    obtain ⟨n, rfl⟩ := exists_sign hi
    obtain ⟨w, hw, hwn, rfl, -⟩ := decode_number h hy
    rw [add_eq_sum h ha hb (isNanOf_of_floatVal h hy) (isNanOf_infOf h n), decode_infOf h, hw, (sum_inf_num h rm n hwn).2]
  · rintro ⟨rfl, rfl, hi, hj⟩
    obtain ⟨n, rfl⟩ := exists_sign hi
    obtain ⟨n', rfl⟩ := exists_sign hj
    rw [add_eq_sum h ha hb (isNanOf_infOf h n) (isNanOf_infOf h n'), decode_infOf h, decode_infOf h, sum_inf_inf h]
    cases n <;> cases n' <;> rfl

/-- A product is the sum of its one exact product, or invalid. -/
theorem mul_eq_sum (hna : isNanOf ty a = false) (hnb : isNanOf ty b = false) : (ffOf ty).mul rm a b =
    match mulExact ((ffOf ty).decode a) ((ffOf ty).decode b) with
    | none => (ffOf ty).nan
    | some p => (ffOf ty).sum rm [p] := by
  refine (fused_eq h rm (cs := [a, b]) (by simp [ha, hb]) (by simp [hna, hnb]) [((ffOf ty).decode a, (ffOf ty).decode b)] []).trans ?_
  cases hp : mulExact ((ffOf ty).decode a) ((ffOf ty).decode b) <;> simp [List.mapM_cons, hp]

theorem productRule_mul (hrm : rm < 4) : ProductRule ty rm a b ((ffOf ty).mul rm a b) := by
  refine ⟨nanRule_fused h rm (cs := [a, b]) (by simp [ha, hb]) _ _, fun x y hx hy => ?_, fun i j y => ⟨?_, ?_, ?_⟩⟩
  · obtain ⟨v, hv, hvn, rfl, hvs⟩ := decode_number h hx
    obtain ⟨w, hw, hwn, rfl, hws⟩ := decode_number h hy
    obtain ⟨p, hp, hpn, hps, hpv⟩ := mulExact_num hvn hwn
    obtain ⟨hne, hzero⟩ := sum_one h hrm hpn
    rw [mul_eq_sum h ha hb (isNanOf_of_floatVal h hx) (isNanOf_of_floatVal h hy), hv, hw, hp, ← hpv, ← hvs, ← hws, ← toNat_bne, ← hps]
    exact ⟨hne, hzero⟩
  · rintro ⟨rfl, hi, hy⟩
    obtain ⟨n, rfl⟩ := exists_sign hi
    obtain ⟨w, hw, hwn, rfl, hws⟩ := decode_number h hy
    rw [mul_eq_sum h ha hb (isNanOf_infOf h n) (isNanOf_of_floatVal h hy), decode_infOf h, hw, (mulExact_inf_num n hwn).1, signOf_infOf h, ← hws,
      ← toNat_bne]
    by_cases hz : w.val = 0
    · rw [if_pos hz, if_pos hz]
      exact (nanOf_eq h).symm
    · rw [if_neg hz, if_neg hz]
      exact sum_inf h rm _
  · rintro ⟨rfl, hi, hy⟩
    obtain ⟨n, rfl⟩ := exists_sign hi
    obtain ⟨w, hw, hwn, rfl, hws⟩ := decode_number h hy
    rw [mul_eq_sum h ha hb (isNanOf_of_floatVal h hy) (isNanOf_infOf h n), decode_infOf h, hw, (mulExact_inf_num n hwn).2, signOf_infOf h, ← hws,
      ← toNat_bne]
    by_cases hz : w.val = 0
    · rw [if_pos hz, if_pos hz]
      exact (nanOf_eq h).symm
    · rw [if_neg hz, if_neg hz]
      exact sum_inf h rm _
  · rintro ⟨rfl, rfl, hi, hj⟩
    obtain ⟨n, rfl⟩ := exists_sign hi
    obtain ⟨n', rfl⟩ := exists_sign hj
    rw [mul_eq_sum h ha hb (isNanOf_infOf h n) (isNanOf_infOf h n'), decode_infOf h, decode_infOf h, signOf_infOf h, signOf_infOf h, ← toNat_bne]
    exact sum_inf h rm _

theorem fusedRule_fma (hc : c < 2 ^ (ffOf ty).width) (hrm : rm < 4) : FusedRule ty rm a b c ((ffOf ty).fma rm a b c) := by
  refine ⟨nanRule_fused h rm (cs := [a, b, c]) (by simp [ha, hb, hc]) _ _, fun x y z hx hy hz => ?_⟩
  obtain ⟨v, hv, hvn, rfl, hvs⟩ := decode_number h hx
  obtain ⟨w, hw, hwn, rfl, hws⟩ := decode_number h hy
  obtain ⟨u, hu, hun, rfl, hus⟩ := decode_number h hz
  obtain ⟨p, hp, hpn, hps, hpv⟩ := mulExact_num hvn hwn
  have hfma : (ffOf ty).fma rm a b c = (ffOf ty).sum rm [p, u] := by
    refine (fused_eq h rm (cs := [a, b, c]) (by simp [ha, hb, hc]) ?_ [((ffOf ty).decode a, (ffOf ty).decode b)] [(ffOf ty).decode c]).trans ?_
    · simp [isNanOf_of_floatVal h hx, isNanOf_of_floatVal h hy, isNanOf_of_floatVal h hz]
    · simp [List.mapM_cons, hv, hw, hu, hp]
  rw [hfma, ← hpv, ← hvs, ← hws, ← hus, ← toNat_bne, ← hps]
  exact sum_two h hrm hpn hun
end

/-! ### Differences -/

omit h in
/-- A code with its sign changed. -/
def flipped (ty c : Nat) : Nat := if signOf ty c = 1 then c - zeroOf ty 1 else c + zeroOf ty 1

theorem flipped_eq {c : Nat} (hc : c < 2 ^ (ffOf ty).width) : ∃ n k, k < (ffOf ty).signBit ∧ c = (ffOf ty).signed n k ∧ flipped ty c = (ffOf ty).signed (!n) k := by
  have hw : 2 ^ (ffOf ty).width = 2 * (ffOf ty).signBit := by rw [FF.width, FF.signBit, Nat.add_assoc, Nat.pow_add, Nat.pow_one]
  have hzero : zeroOf ty 1 = (ffOf ty).signBit := by rw [zeroOf, h.fields, Nat.one_mul, FF.signBit]
  rcases Nat.lt_or_ge c (ffOf ty).signBit with hlt | hge
  · have hs := signOf_signed h (neg := false) hlt
    exact ⟨false, c, hlt, rfl, by rw [flipped, hzero, if_neg (by rw [show signOf ty c = 0 from hs]; decide), Nat.add_comm]; rfl⟩
  · have hk : c - (ffOf ty).signBit < (ffOf ty).signBit := by omega
    have hcode : c = (ffOf ty).signed true (c - (ffOf ty).signBit) := by rw [FF.signed, if_pos rfl]; omega
    have hs := signOf_signed h (neg := true) hk
    rw [← hcode] at hs
    exact ⟨true, _, hk, hcode, by rw [flipped, hzero, if_pos (show signOf ty c = 1 from hs)]; rfl⟩

theorem decode_signed_not {n : Bool} {k : Nat} (hk : k < (ffOf ty).signBit) (hn : isNanOf ty ((ffOf ty).signed n k) = false) :
    (ffOf ty).decode ((ffOf ty).signed (!n) k) = ((ffOf ty).decode ((ffOf ty).signed n k)).flip := by
  have hexp : ∀ n, expOf ty ((ffOf ty).signed n k) = expOf ty k := fun n => by
    rw [expOf_eq h, signed_mod hk, expOf_eq h, Nat.mod_eq_of_lt hk]
  have hfrac : ∀ n, fracOf ty ((ffOf ty).signed n k) = fracOf ty k := fun n => by
    rw [fracOf_eq h, signed_mod hk, fracOf_eq h, Nat.mod_eq_of_lt hk]
  rw [decode_fields h, decode_fields h, hexp, hexp, hfrac, hfrac, negOf_signed h hk, negOf_signed h hk]
  by_cases h1 : expOf ty k = 2 ^ (ffOf ty).ebits - 1
  · by_cases h2 : fracOf ty k = 0
    · simp only [if_pos h1, if_pos h2, FVal.flip]
    · exact absurd ((isNanOf_iff h).mpr ⟨(hexp n).trans h1, by rwa [hfrac]⟩) (by rw [hn]; decide)
  · simp only [if_neg h1, FVal.flip]

/-- A difference is the sum with the sign of a number changed (R186). -/
theorem sub_eq_add {rm a b : Nat} (hb : b < 2 ^ (ffOf ty).width) (hn : isNanOf ty b = false) :
    (ffOf ty).sub rm a b = (ffOf ty).add rm a (flipped ty b) ∧ flipped ty b < 2 ^ (ffOf ty).width := by
  obtain ⟨n, k, hk, rfl, hflip⟩ := flipped_eq h hb
  rw [hflip, FF.sub, FF.add, decode_signed_not h hk hn]
  refine ⟨?_, FF.signed_lt hk⟩
  rw [← isNan_decode h] at hn
  have hfirst : firstNan (ffOf ty) [(ffOf ty).decode a, (ffOf ty).decode ((ffOf ty).signed n k)] =
      firstNan (ffOf ty) [(ffOf ty).decode a, ((ffOf ty).decode ((ffOf ty).signed n k)).flip] := by
    cases hv : (ffOf ty).decode ((ffOf ty).signed n k) with
    | nan => rw [hv] at hn; cases hn
    | inf => cases (ffOf ty).decode a <;> rfl
    | num => cases (ffOf ty).decode a <;> rfl
  rw [FF.fused, FF.fused, hfirst]

theorem subRules {rm a b : Nat} (ha : a < 2 ^ (ffOf ty).width) (hb : b < 2 ^ (ffOf ty).width) (hrm : rm < 4) :
    (isNanOf ty b = false → SumRule ty rm a (flipped ty b) ((ffOf ty).sub rm a b)) ∧ NanRule ty [a, b] ((ffOf ty).sub rm a b) := by
  refine ⟨fun hn => ?_, nanRule_fused h rm (cs := [a, b]) (by simp [ha, hb]) _ _⟩
  obtain ⟨hsub, hlt⟩ := sub_eq_add h (rm := rm) (a := a) hb hn
  rw [hsub]
  exact sumRule_add h ha hlt hrm
end

end Sys2Proof.Machine
end

section
/-! SUPPORT. Conversions (spec/07 R173, spec/08 R195): between formats, from integers, and to integers. -/

namespace Sys2Proof.Machine

/-! ### Rounding to an integer -/

/-- To the nearest integer, and of two to the even one (R169). -/
theorem roundedInt_nearest (x : ℚ) : (x - ⌊x⌋ < 1 / 2 → roundedInt 0 x = ⌊x⌋) ∧ (1 / 2 < x - ⌊x⌋ → roundedInt 0 x = ⌈x⌉) ∧
    (x - ⌊x⌋ = 1 / 2 → roundedInt 0 x = if ⌊x⌋ % 2 = 0 then ⌊x⌋ else ⌈x⌉) := by
  rw [roundedInt, if_pos rfl]
  refine ⟨fun h => if_pos h, fun h => ?_, fun h => ?_⟩
  · rw [if_neg h.le.not_gt, if_pos h]
  · rw [if_neg h.not_lt, if_neg h.not_gt]

/-- A magnitude strictly between two numbers, with its sign, rounds to one of them (R169). -/
theorem roundedInt_strictly_between {rm : Nat} (hrm : rm < 4) (neg : Bool) {q : Nat} {t : ℚ} (hq : q < t) (hq' : t < q + 1) :
    (RoundsUp rm neg q t → roundedInt rm (signum neg * t) = if neg then -((q : Int) + 1) else q + 1) ∧
    (¬RoundsUp rm neg q t → roundedInt rm (signum neg * t) = if neg then -(q : Int) else q) := by
  have hfloor : ⌊t⌋ = (q : Int) := Int.floor_eq_iff.mpr ⟨by exact_mod_cast hq.le, by exact_mod_cast hq'⟩
  have hceil : ⌈t⌉ = (q : Int) + 1 := Int.ceil_eq_iff.mpr ⟨by push_cast; linarith, by push_cast; exact hq'.le⟩
  have hfloor' : ⌊-t⌋ = -((q : Int) + 1) := by rw [Int.floor_neg, hceil]
  have hceil' : ⌈-t⌉ = -(q : Int) := by rw [Int.ceil_neg, hfloor]
  have hpos : 0 < t := lt_of_le_of_lt (Nat.cast_nonneg q) hq
  by_cases h0 : rm = 0
  · subst h0
    have hup : RoundsUp 0 neg q t ↔ 2 * (q : ℚ) + 1 < 2 * t ∨ (2 * t = 2 * q + 1 ∧ q % 2 = 1) := by simp [RoundsUp, RoundsAway]
    obtain ⟨hbelow, habove, htie⟩ := roundedInt_nearest t
    obtain ⟨hbelow', habove', htie'⟩ := roundedInt_nearest (-t)
    rw [hfloor] at hbelow habove htie
    rw [hfloor'] at hbelow' habove' htie'
    rw [hceil] at habove htie
    rw [hceil'] at habove' htie'
    push_cast at *
    rw [hup]
    rcases lt_trichotomy (2 * t) (2 * q + 1) with hlt | heq | hgt
    · refine ⟨fun hu => ?_, fun _ => ?_⟩
      · rcases hu with hu | ⟨hu, -⟩ <;> linarith
      · cases neg with
        | false => simpa using hbelow (by linarith)
        | true => simpa using habove' (by linarith)
    · have hodd : (-((q : Int) + 1)) % 2 = 0 ↔ q % 2 = 1 := by omega
      have heven : (q : Int) % 2 = 0 ↔ ¬q % 2 = 1 := by omega
      have hval : roundedInt 0 (signum neg * t) = if q % 2 = 1 then (if neg then -((q : Int) + 1) else q + 1) else (if neg then -(q : Int) else q) := by
        cases neg with
        | false =>
          rw [signum_false, one_mul, htie (by linarith)]
          simp only [heven, ite_not, Bool.false_eq_true, if_false]
        | true =>
          rw [signum_true, neg_one_mul, htie' (by linarith)]
          simp only [hodd, if_true]
      rw [hval]
      exact ⟨fun hu => if_pos (hu.elim (fun h => absurd h heq.not_gt) And.right), fun hu => if_neg fun h => hu (.inr ⟨heq, h⟩)⟩
    · refine ⟨fun _ => ?_, fun hu => absurd (.inl hgt) hu⟩
      cases neg with
      | false => simpa using habove (by linarith)
      | true => simpa using hbelow' (by linarith)
  · interval_cases rm
    · exact absurd rfl h0
    all_goals cases neg <;> simp [RoundsUp, RoundsAway, roundedInt, hfloor, hceil, hfloor', hceil', hpos, hpos.not_gt, hq.ne']
theorem roundedInt_intCast (rm : Nat) (z : Int) : roundedInt rm (z : ℚ) = z := by
  simp [roundedInt]

/-- A magnitude between two numbers, with its sign, rounds to one of them (R169). -/
theorem roundedInt_between {rm : Nat} (hrm : rm < 4) (neg : Bool) {q : Nat} {t : ℚ} (hq : q ≤ t) (hq' : t < q + 1) :
    (RoundsUp rm neg q t → roundedInt rm (signum neg * t) = if neg then -((q : Int) + 1) else q + 1) ∧
    (¬RoundsUp rm neg q t → roundedInt rm (signum neg * t) = if neg then -(q : Int) else q) := by
  rcases hq.lt_or_eq with hlt | rfl
  · exact roundedInt_strictly_between hrm neg hlt hq'
  · have hcast : signum neg * q = (((if neg then -(q : Int) else q) : Int) : ℚ) := by cases neg <;> simp
    rw [hcast, roundedInt_intCast]
    refine ⟨fun hu => ?_, fun _ => rfl⟩
    rcases hu with ⟨-, hu | ⟨hu, -⟩⟩ | ⟨-, hu⟩
    · linarith
    · linarith
    · exact absurd rfl hu

/-- The model rounds a number to an integer as R169 says. -/
theorem roundToInt_eq {rm : Nat} (hrm : rm < 4) (n : Bool) (m : Nat) (e : Int) : roundToInt rm n m e = roundedInt rm (FVal.val (.num n m e)) := by
  have hquot := unit_quotient m e 0
  simp only [Int.sub_zero, Int.zero_sub, zpow_zero, mul_one] at hquot
  obtain ⟨hle, hlt⟩ := div_floor_spec (m * 2 ^ e.toNat) (Nat.two_pow_pos (-e).toNat)
  have hdecide := roundUp_iff hrm n (m * 2 ^ e.toNat) (Nat.two_pow_pos (-e).toNat)
  rw [hquot] at hle hlt hdecide
  obtain ⟨hup, hdown⟩ := roundedInt_between hrm n hle hlt
  rw [FVal.val, roundToInt]
  by_cases hu : RoundsUp rm n (m * 2 ^ e.toNat / 2 ^ (-e).toNat) (m * 2 ^ e)
  · simp only [hup hu, hdecide.mpr hu, if_true]
    push_cast
    rfl
  · simp only [hdown hu, if_neg (hdecide.not.mpr hu)]

/-! ### Conversions -/

section
variable {ty : Nat} (h : floatTy ty)
include h

/-- A number in a format is its value rounded once, and a zero keeps its sign. -/
theorem ofVal_num {rm : Nat} (hrm : rm < 4) {v : FVal} (hv : v.isNum = true) :
    (v.val ≠ 0 → RoundedTo ty rm v.val ((ffOf ty).ofVal rm false v)) ∧ (v.val = 0 → (ffOf ty).ofVal rm false v = zeroOf ty v.neg.toNat) := by
  cases v with
  | nan => cases hv
  | inf => cases hv
  | num n m e =>
    rw [Ne, FVal.val_num_eq_zero]
    refine ⟨fun hm => roundedTo_round h hrm n hm e, ?_⟩
    rintro rfl
    rw [zeroOf_eq h, FF.ofVal, FF.round, if_pos rfl]
    rfl

theorem ofVal_inf (rm : Nat) (n : Bool) : (ffOf ty).ofVal rm false (.inf n) = infOf ty n.toNat := by
  rw [infOf_eq h, FF.ofVal, if_neg h.ne]
  rfl

/-- A NaN stays one in another format: quiet, with its sign (R171). -/
theorem quiet_spec (n : Bool) (frac fbits : Nat) :
    isNanOf ty ((ffOf ty).quiet n frac fbits) = true ∧ signOf ty ((ffOf ty).quiet n frac fbits) = n.toNat ∧
      (ffOf ty).quiet n frac fbits / 2 ^ ((ffOf ty).mbits - 1) % 2 = 1 := by
  obtain ⟨b, hb⟩ := Nat.exists_eq_add_of_le' (ffOf ty).mbits_pos
  have hB : 2 ^ (ffOf ty).mbits = 2 * 2 ^ b := by rw [hb, Nat.pow_succ, Nat.mul_comm]
  obtain ⟨p, hp, hq⟩ : ∃ p, p < 2 ^ b ∧ (ffOf ty).quiet n frac fbits = (ffOf ty).signed n ((ffOf ty).infCode + (p + 2 ^ b)) := by
    rw [FF.quiet, if_neg h.ne, hb, Nat.add_sub_cancel]
    exact ⟨_, Nat.mod_lt _ (Nat.two_pow_pos b), rfl⟩
  have hinf := (ffOf ty).infCode_lt
  have hk : (ffOf ty).infCode + (p + 2 ^ b) < (ffOf ty).signBit := by omega
  have hcode : (ffOf ty).infCode + (p + 2 ^ b) = p + 2 ^ b + (2 ^ (ffOf ty).ebits - 1) * 2 ^ (ffOf ty).mbits := Nat.add_comm ..
  rw [hq, isNanOf_iff h, expOf_eq h, fracOf_eq h, signed_mod hk, signOf_signed h hk, hcode, Nat.add_mul_div_right _ _ (Nat.two_pow_pos _),
    Nat.add_mul_mod_self_right, Nat.div_eq_of_lt (by omega), Nat.mod_eq_of_lt (by omega), hb, Nat.add_sub_cancel, ← hb]
  refine ⟨⟨Nat.zero_add _, by have := Nat.two_pow_pos b; omega⟩, rfl, ?_⟩
  have hsign : (ffOf ty).signBit = 2 ^ (ffOf ty).ebits * (2 * 2 ^ b) := by rw [FF.signBit, Nat.pow_add, hB]
  obtain ⟨m, hm⟩ : ∃ m, (ffOf ty).signed n (p + 2 ^ b + (2 ^ (ffOf ty).ebits - 1) * 2 ^ (ffOf ty).mbits) = p + (2 * m + 1) * 2 ^ b := by
    rw [FF.signed, hsign, hB]
    cases n with
    | true => exact ⟨2 ^ (ffOf ty).ebits + (2 ^ (ffOf ty).ebits - 1), by rw [if_pos rfl]; ring⟩
    | false => exact ⟨2 ^ (ffOf ty).ebits - 1, by rw [if_neg (by decide)]; ring⟩
  rw [hm, Nat.add_mul_div_right _ _ (Nat.two_pow_pos b), Nat.div_eq_of_lt hp]
  omega
end

end Sys2Proof.Machine
end

section
/-! SUPPORT. Floating arithmetic and conversions of words (spec/08 R186, R187, R193, R195). -/

namespace Sys2Proof.Machine

/-! ### Results at the width of their type -/

section
variable {ty : Nat} (h : floatTy ty)
include h

theorem mod_width_lt (x : Nat) : x % 2 ^ tyBits ty < 2 ^ (ffOf ty).width := by
  rw [h.width]
  exact Nat.mod_lt _ (Nat.two_pow_pos _)

theorem decode_mod_ty (x : Nat) : (ffOf ty).decode (x % 2 ^ tyBits ty) = (ffOf ty).decode x := by rw [h.width, decode_mod]

theorem mod_of_code {x : Nat} (hx : x < 2 ^ (ffOf ty).width) : x % 2 ^ tyBits ty = x := by rw [h.width, Nat.mod_eq_of_lt hx]

section
variable {rm : Nat} (hrm : rm < 4) (x y z : Nat)
include hrm

theorem sumRule_add_word : SumRule ty rm (x % 2 ^ tyBits ty) (y % 2 ^ tyBits ty) ((ffOf ty).add rm x y % 2 ^ tyBits ty) := by
  have hrule := sumRule_add h (mod_width_lt h x) (mod_width_lt h y) hrm
  rw [FF.add, decode_mod_ty h, decode_mod_ty h, ← FF.add] at hrule
  rwa [mod_of_code h (x := (ffOf ty).add rm x y) (FF.fused_lt h.ne ..)]

theorem productRule_mul_word : ProductRule ty rm (x % 2 ^ tyBits ty) (y % 2 ^ tyBits ty) ((ffOf ty).mul rm x y % 2 ^ tyBits ty) := by
  have hrule := productRule_mul h (mod_width_lt h x) (mod_width_lt h y) hrm
  rw [FF.mul, decode_mod_ty h, decode_mod_ty h, ← FF.mul] at hrule
  rwa [mod_of_code h (x := (ffOf ty).mul rm x y) (FF.fused_lt h.ne ..)]

theorem subRules_word :
    (isNanOf ty (y % 2 ^ tyBits ty) = false → SumRule ty rm (x % 2 ^ tyBits ty) (flipped ty (y % 2 ^ tyBits ty)) ((ffOf ty).sub rm x y % 2 ^ tyBits ty)) ∧
    NanRule ty [x % 2 ^ tyBits ty, y % 2 ^ tyBits ty] ((ffOf ty).sub rm x y % 2 ^ tyBits ty) := by
  have hrule := subRules h (mod_width_lt h x) (mod_width_lt h y) hrm
  rw [FF.sub, decode_mod_ty h, decode_mod_ty h, ← FF.sub] at hrule
  rwa [mod_of_code h (x := (ffOf ty).sub rm x y) (FF.fused_lt h.ne ..)]

theorem fusedRule_fma_word :
    FusedRule ty rm (x % 2 ^ tyBits ty) (y % 2 ^ tyBits ty) (z % 2 ^ tyBits ty) ((ffOf ty).fma rm x y z % 2 ^ tyBits ty) := by
  have hrule := fusedRule_fma h (mod_width_lt h x) (mod_width_lt h y) (mod_width_lt h z) hrm
  rw [FF.fma, decode_mod_ty h, decode_mod_ty h, decode_mod_ty h, ← FF.fma] at hrule
  rwa [mod_of_code h (x := (ffOf ty).fma rm x y z) (FF.fused_lt h.ne ..)]
end
end

/-! ### Conversions of words -/

theorem not_tyF_of_lt {ty : Nat} (h : ty < 8) : tyF ty = false := by
  unfold tyF
  simp only [Bool.and_eq_false_iff, decide_eq_false_iff_not]
  omega

section
variable {ty ts md : Nat} (hmd : md < 4) (x : Nat)
include hmd

/-- A conversion into a float type without `.sat`, from a value that is exact (R195). -/
theorem cvtN_toFloat (h : floatTy ty) : cvtN ty ts md x % 2 ^ tyBits ty = (ffOf ty).ofVal md false
    (if tyF ts then (ffOf ts).decode (x % 2 ^ tyBits ts) else ofInt (tyVal ts (x % 2 ^ tyBits ts))) := by
  have h4 : ¬4 ≤ md := Nat.not_le.mpr hmd
  have hne : ty ≠ 0x10 := by rcases h with rfl | rfl | rfl | rfl | rfl <;> decide
  have hval : cvtN ty ts md x = (ffOf ty).ofVal md false
      (if tyF ts then (ffOf ts).decode (x % 2 ^ tyBits ts) else ofInt (tyVal ts (x % 2 ^ tyBits ts))) := by
    simp only [cvtN, h.tyF, if_true, h4, decide_false, if_neg hne, ite_self, Nat.mod_eq_of_lt hmd]
    split <;> rfl
  rw [hval, mod_of_code h (FF.ofVal_lt h.ne ..)]

theorem cvtN_toInt (hs : floatTy ts) (hd : ty < 8) :
    cvtN ty ts md x % 2 ^ tyBits ty = (BitVec.ofInt (tyBits ty) (toInt ty md ((ffOf ts).decode (x % 2 ^ tyBits ts)))).toNat := by
  simp only [cvtN, hs.tyF, if_true, not_tyF_of_lt hd, Bool.false_eq_true, if_false, Nat.mod_eq_of_lt hmd]
  rw [← ofNat_wrap, BitVec.toNat_ofNat]

/-- From one float type to another: rounded once, an infinity kept, a NaN quiet (R171, R195). -/
theorem cvtN_float_spec (hs : floatTy ts) (h : floatTy ty) :
    let c := x % 2 ^ tyBits ts
    let r := cvtN ty ts md x % 2 ^ tyBits ty
    (∀ v, floatVal ts c = some v → (v ≠ 0 → RoundedTo ty md v r) ∧ (v = 0 → r = zeroOf ty (signOf ts c))) ∧
    ((∃ s, s < 2 ∧ c = infOf ts s) → r = infOf ty (signOf ts c)) ∧
    (isNanOf ts c = true → isNanOf ty r = true ∧ signOf ty r = signOf ts c ∧ r / 2 ^ ((floatFields ty).2 - 1) % 2 = 1) := by
  intro c r
  have hr : r = (ffOf ty).ofVal md false ((ffOf ts).decode c) := by
    have := cvtN_toFloat (ts := ts) hmd x h
    rwa [hs.tyF, if_pos rfl] at this
  rw [hr]
  refine ⟨fun v hv => ?_, fun ⟨s, hs2, hc⟩ => ?_, fun hn => ?_⟩
  · obtain ⟨w, hw, hwn, rfl, hws⟩ := decode_number hs hv
    rw [hw, ← hws]
    exact ofVal_num h hmd hwn
  · obtain ⟨n, rfl⟩ := exists_sign hs2
    rw [hc, decode_infOf hs, ofVal_inf h, signOf_infOf hs]
  · rw [decode_of_isNanOf hs hn, signOf_eq hs, h.fields]
    exact quiet_spec h ..

/-- From an integer: its value rounded once (R195). -/
theorem cvtN_ofInt_spec (hs : ts < 8) (h : floatTy ty) (vs : List Src) (n lane : Nat) :
    let v : ℚ := (valueOf ts (srcBits vs n (tyBits ts) lane) : Int)
    let r := cvtN ty ts md (srcN vs n lane) % 2 ^ tyBits ty
    (v ≠ 0 → RoundedTo ty md v r) ∧ (v = 0 → r = 0) := by
  intro v r
  have hr : r = (ffOf ty).ofVal md false (ofInt (valueOf ts (srcBits vs n (tyBits ts) lane))) := by
    have := cvtN_toFloat (ts := ts) hmd (srcN vs n lane) h
    rwa [not_tyF_of_lt hs, if_neg (by decide), tyVal_eq_valueOf, ← toNat_srcBits, BitVec.ofNat_toNat, BitVec.setWidth_eq] at this
  have hval : ∀ z : Int, (ofInt z).val = z := fun z => by
    rw [ofInt, FVal.val, zpow_zero, mul_one]
    rcases lt_or_ge z 0 with hlt | hge
    · obtain ⟨n, rfl⟩ := Int.eq_negSucc_of_lt_zero hlt
      simp [hlt]
    · obtain ⟨n, rfl⟩ := Int.eq_ofNat_of_zero_le hge
      simp [hge.not_gt]
  obtain ⟨hne, hzero⟩ := ofVal_num h hmd (v := ofInt (valueOf ts (srcBits vs n (tyBits ts) lane))) rfl
  rw [hval, ← hr] at hne hzero
  refine ⟨hne, fun h0 => ?_⟩
  have hz : valueOf ts (srcBits vs n (tyBits ts) lane) = 0 := Int.cast_eq_zero.mp h0
  rw [hzero h0, hz]
  exact Nat.zero_mul _

/-- To an integer: rounded and clamped (R173, R195). -/
theorem cvtN_toInt_spec (hs : floatTy ts) (hd : ty < 8) :
    let c := x % 2 ^ tyBits ts
    let r := cvtN ty ts md x % 2 ^ tyBits ty
    (∀ v, floatVal ts c = some v → r = (BitVec.ofInt (tyBits ty) (clamp ty (roundedInt md v))).toNat) ∧
    (isNanOf ts c = true → r = 0) ∧
    (∀ s, s < 2 → c = infOf ts s → r = (BitVec.ofInt (tyBits ty) (if s = 1 then tyMin ty else tyMax ty)).toNat) := by
  intro c r
  rw [show r = _ from cvtN_toInt hmd x hs hd]
  refine ⟨fun v hv => ?_, fun hn => ?_, fun s hs2 hc => ?_⟩
  · obtain ⟨m, e, hdec, rfl⟩ := decode_of_floatVal hs hv
    rw [hdec, toInt, satInt_eq_clamp, roundToInt_eq hmd]
  · rw [decode_of_isNanOf hs hn, toInt]
    simp
  · obtain ⟨n, rfl⟩ := exists_sign hs2
    rw [show x % 2 ^ tyBits ts = c from rfl, hc, decode_infOf hs, toInt]
    cases n <;> rfl
end

/-- Settles O13: the rules hold of the functions that the words write, whose rounding takes one of the two codes around the exact value. -/
theorem floatArithmeticRoundsOnce : Obligations.FloatArithmeticRoundsOnce := by
  unfold Obligations.FloatArithmeticRoundsOnce
  intro vs lane code neg value
  have hcode : ∀ ty n, code ty n = srcN vs n lane % 2 ^ tyBits ty := fun ty n => toNat_srcBits ..
  refine ⟨?_, ?_, ?_⟩
  · rintro f ty rfl hty hmd a b
    have h : floatTy f.ty.toNat := by rcases hty with h | h | h <;> simp [floatTy, h]
    simp only [a, b, hcode]
    obtain ⟨hsub, hnan⟩ := subRules_word h hmd (srcN vs 0 lane) (srcN vs 1 lane)
    exact ⟨⟨_, rfl, sumRule_add_word h hmd _ _⟩, ⟨_, rfl, productRule_mul_word h hmd _ _⟩, fun hb => ⟨_, rfl, hsub hb⟩, ⟨_, rfl, hnan⟩⟩
  · intro f hty hmd
    have h : floatTy 0x0F := by simp [floatTy]
    have ht : f.ty.toNat = 0x0F := by rw [hty]; rfl
    simp only [hcode]
    refine ⟨⟨_, rfl, ?_⟩, ⟨_, rfl, ?_⟩⟩
    · show SumRule 0x0F _ _ _ (_ % 2 ^ tyBits f.ty.toNat)
      rw [ht]
      exact sumRule_add_word h hmd _ _
    · show ProductRule 0x0F _ _ _ (_ % 2 ^ tyBits f.ty.toNat)
      rw [ht]
      exact productRule_mul_word h hmd _ _
  · rintro f ty rfl hmd
    have hmod : f.md.toNat % 4 = f.md.toNat := Nat.mod_eq_of_lt hmd
    simp only [hcode]
    refine ⟨fun hty => ⟨_, rfl, ?_⟩, fun hty => ⟨_, rfl, ?_⟩, fun hs h => ?_, fun hs h => ?_, fun hs hd => ?_⟩
    · have h : floatTy f.tyd.toNat := by rcases hty with h | h | h <;> simp [floatTy, h]
      show FusedRule _ _ _ _ _ ((ffOf f.tyd.toNat).fma (f.md.toNat % 4) _ _ _ % _)
      rw [hmod]
      exact fusedRule_fma_word h hmd _ _ _
    · have h : floatTy 0x0F := by simp [floatTy]
      show FusedRule _ _ _ _ _ (FF.f64.fma (f.md.toNat % 4) _ _ _ % 2 ^ tyBits 0x0F)
      rw [hmod, hty]
      exact fusedRule_fma_word h hmd _ _ _
    · obtain ⟨hnum, hinf, hnan⟩ := cvtN_float_spec hmd (srcN vs 0 lane) hs h
      exact ⟨fun x hx => ⟨_, rfl, hnum x hx⟩, fun hc => ⟨_, rfl, hinf hc⟩, fun hc => ⟨_, rfl, hnan hc⟩⟩
    · exact ⟨_, rfl, cvtN_ofInt_spec hmd hs h vs 0 lane⟩
    · exact ⟨_, rfl, cvtN_toInt_spec hmd (srcN vs 0 lane) hs hd⟩

end Sys2Proof.Machine
end

section
/-! SUPPORT. Float, function and conversion words: their results at once, or outstanding (spec/02 R41, R43; spec/08 R184-R197). -/

namespace Sys2Proof.Machine

/-! ### The shape of the float words -/

/-- A word that reads its sources and puts, in each thread, the value of a register operation, at once or later (R184). -/
def DeliversResult (s : State) (i : Instr) (h : Head) (o : RegOp) : Prop :=
  ∃ f b, wordOf i s = some (f, b) ∧ f.h = h ∧ f.control = false ∧ b s = floatWord h o.long o.srcs o.dst o.ty o.val s

section
variable {s : State} {i : Instr} {m : Form}

theorem deliversResult_opF2 {f : A64} {long : Bool} {body : FF → Nat → Nat → Nat} {g : Nat → Nat → Nat}
    (hw : wordOf i s = some (m, fbinBody f long body)) (hm : m.h = f.h) (hc : m.control = false) (hg : body (ffOf f.ty.toNat) = g) :
    DeliversResult s i f.h (opF2 f long g) := by
  subst hg
  exact ⟨m, _, hw, hm, hc, rfl⟩

theorem deliversResult_opF3 {f : T96} {long : Bool} {ty : Nat} {g : Nat → Nat → Nat → Nat} (hw : wordOf i s = some (m, fmaBody f long ty g))
    (hm : m.h = f.h) (hc : m.control = false) : DeliversResult s i f.h (opF3 f ty long g) := ⟨m, _, hw, hm, hc, rfl⟩

theorem deliversResult_opFn {f : A64} {g : FF → Nat → Nat} (hw : wordOf i s = some (m, fnBody f g)) (hm : m.h = f.h) (hc : m.control = false) :
    DeliversResult s i f.h (opFn f g) := by
  refine ⟨m, _, hw, hm, hc, ?_⟩
  simp only [fnBody, opFn, toNat_srcBits]

/-- The FP64 words take .f64 alone (R193). -/
theorem acts_f64 {f : A64} {md : Bool} {w : Nat} {body : State → Eff} (hw : wordOf i s = some (fbinForm f (f.ty == 0x0F) md true w, body))
    (ha : Acts s i) : ffOf f.ty.toNat = .f64 := by
  have hty : f.ty = 0x0F := by simpa using acts_not_bad hw ha (c := 5) (x := !(f.ty == 0x0F)) (by simp [fbinForm, badTy])
  rw [hty]
  rfl

theorem deliversResult_fclass {f : A64} {o : RegOp} (ho : floatOp (.fclass f) = some o) : DeliversResult s (.fclass f) f.h o := by
  cases ho
  refine ⟨_, _, rfl, rfl, rfl, ?_⟩
  simp only [bodyFclass, toNat_srcBits]

theorem deliversResult_floatOp {o : RegOp} {h : Head} (ho : floatOp i = some o) (hh : i.head? = some h) (ha : Acts s i) : DeliversResult s i h o := by
  unfold floatOp at ho
  split at ho <;> cases ho <;> cases hh
  · exact deliversResult_opF2 rfl rfl rfl rfl
  · exact deliversResult_opF2 rfl rfl rfl rfl
  · exact deliversResult_opF2 rfl rfl rfl rfl
  · exact deliversResult_opF2 rfl rfl rfl rfl
  · exact deliversResult_opF2 rfl rfl rfl rfl
  · exact deliversResult_opF2 rfl rfl rfl (by rw [acts_f64 rfl ha])
  · exact deliversResult_opF2 rfl rfl rfl (by rw [acts_f64 rfl ha])
  · exact deliversResult_opF3 rfl rfl rfl
  · exact deliversResult_opF3 rfl rfl rfl
  · exact deliversResult_opF3 rfl rfl rfl
  · exact deliversResult_opF3 rfl rfl rfl
  · exact deliversResult_opFn rfl rfl rfl
  · exact deliversResult_opFn rfl rfl rfl
  · exact deliversResult_opFn rfl rfl rfl
  · exact deliversResult_opFn rfl rfl rfl
  · exact deliversResult_opFn rfl rfl rfl
  · exact deliversResult_opFn rfl rfl rfl
  · exact deliversResult_opFn rfl rfl rfl
  · exact deliversResult_fclass rfl
  · exact ⟨_, _, rfl, rfl, rfl, rfl⟩
  · exact ⟨_, _, rfl, rfl, rfl, rfl⟩
  · exact ⟨_, _, rfl, rfl, rfl, rfl⟩
end

/-! ### A long-latency word that reads sources -/

theorem floatWord_eq (s : State) (h : Head) (o : RegOp) :
    floatWord h o.long o.srcs o.dst o.ty o.val s = (s.srcs s.cur h.uni o.srcs).2.results o.long (regPend h s o) := by
  simp only [floatWord, regPend, (srcs_onlyChans s.cur h.uni o.srcs s).me]

section
variable {s : State} {k : Nat} (i : Instr) {f : Form} {pre : Stand} {p : Pend} (hu : f.h.uni = false) (hnone : pre.part f.h = 0)
include hu hnone

/-- A long-latency word that no thread takes part in waits with what it pushes behind an earlier push of the channel (R184). -/
theorem start_idle_behind {x : Nat × List ChanEntry} (hch : p.ch = some x) (hpush : (s.standAt k).willPush x.1 = true) :
    s.start k i f pre p = (s.putLater k { p with flag := none }).retire k i f pre := by
  unfold State.start
  rw [if_pos (by rw [hu, hnone]; rfl)]
  split
  · next y hy =>
    cases hch.symm.trans hy
    rw [if_pos hpush]
  · next hn => cases hch.symm.trans hn

/-- Otherwise it is done at once (R41). -/
theorem start_idle_now (hpush : ∀ x, p.ch = some x → (s.standAt k).willPush x.1 = false) :
    s.start k i f pre p = (s.putNow k p).retire k i f pre := by
  unfold State.start
  rw [if_pos (by rw [hu, hnone]; rfl)]
  split
  · next x hch => rw [if_neg (by rw [hpush x hch]; decide)]
  · rfl
end

section
variable {i : Instr} {s u : State} {f : Form} {b : State → Eff} {p : Pend} (hw : wordOf i s = some (f, b)) (hc : f.control = false)
  (hcur : u.cur = s.cur) (hme : u.me = s.me) (hstale : u.stale = s.stale)
include hw hcur hstale

theorem started_me : (started s u i p).me = (u.start s.cur i f s.me p).standAt s.cur := by
  have hlocal := localFrame_start u i f s.me p
  rw [hcur] at hlocal
  rw [started_eq hw hstale, me_eq, hlocal.cur_eq, hcur]

include hc hme

/-- With a thread that takes part, its results are outstanding under its flag (R41). -/
theorem leavesPending_of_sources (ha : Acts s i) (hh : i.head? = some f.h) (hb : b s = .long u p) (hpart : f.h.uni = true ∨ s.me.part f.h ≠ 0) :
    LeavesPending i s (started s u i p) p := by
  have hstand : u.standAt s.cur = s.me := by rw [← hcur, ← me_eq, hme]
  obtain ⟨fl, hfl⟩ := flagUp_eq s.me (s.me.flagOf f.h.sch)
  have hstart := start_participates (s := u) (k := s.cur) i p hpart
  rw [hstand, hfl] at hstart
  obtain ⟨place, clpos, e⟩ := retire_stand ((u.setStand s.cur { s.me with flags := fl }).putLater s.cur
    { p with flag := if s.me.flagOf f.h.sch < 12 then some (s.me.flagOf f.h.sch) else none }) s.cur i f s.me hc
  rw [← hstart, ← started_me hw hcur hstale, putLater_standAt, setStand_standAt] at e
  refine ⟨exec_started hw ha hb, ?_⟩
  rw [e]
  refine ⟨rfl, rfl, rfl, rfl, rfl, f.h, s.me.pend.map p.contest, hh, List.length_map .., rfl, fun m => ?_⟩
  have hflags := flag_flagUp s.me (s.me.flagOf f.h.sch) m
  rw [hfl] at hflags
  exact hflags

/-- With none, it has no results but what it sends to a channel, which waits behind an earlier push of the stand (R41, R184). -/
theorem started_idle (hu : f.h.uni = false) (hnone : s.me.part f.h = 0) (hv : p.vw = []) (hs : p.sw = []) :
    let t := (started s u i p).me
    let behind : Prop := ∃ x, p.ch = some x ∧ s.me.willPush x.1 = true
    t.pc = s.me.pc + BitVec.ofNat 64 (wordBytes i) ∧ t.v = s.me.v ∧ t.sr = s.me.sr ∧ t.flags = s.me.flags ∧
      (¬behind → t.pend.length = s.me.pend.length) ∧
      (behind → ∃ rest, t.pend = rest ++ [{ p with flag := none }] ∧ rest.length = s.me.pend.length) := by
  have hstand : u.standAt s.cur = s.me := by rw [← hcur, ← me_eq, hme]
  intro t behind
  have ht : t = (u.start s.cur i f s.me p).standAt s.cur := started_me hw hcur hstale
  by_cases hbehind : behind
  · obtain ⟨x, hch, hpush⟩ := hbehind
    rw [start_idle_behind i hu hnone hch (by rw [hstand]; exact hpush)] at ht
    obtain ⟨place, clpos, e⟩ := retire_stand (u.putLater s.cur { p with flag := none }) s.cur i f s.me hc
    rw [ht, e, putLater_standAt, hstand]
    exact ⟨rfl, rfl, rfl, rfl, fun hno => absurd ⟨x, hch, hpush⟩ hno, fun _ => ⟨_, rfl, List.length_map ..⟩⟩
  · rw [start_idle_now i hu hnone fun x hch => by rw [hstand]; exact Bool.eq_false_iff.mpr fun hp => hbehind ⟨x, hch, hp⟩] at ht
    obtain ⟨place, clpos, e⟩ := retire_stand (u.putNow s.cur p) s.cur i f s.me hc
    rw [ht, e, putNow_standAt, hstand]
    refine ⟨rfl, ?_, ?_, rfl, fun _ => List.length_map .., fun hb => absurd hb hbehind⟩
    · simp only [Stand.put, hv, tputs_nil]
    · simp only [Stand.put, hs, tputs_nil]
end

/-- The results of a vector word in which no thread takes part name no register; those for a channel go there. -/
theorem regPend_idle {h : Head} {s : State} (o : RegOp) (hu : h.uni = false) (hnone : s.me.part h = 0) :
    (regPend h s o).vw = [] ∧ (regPend h s o).sw = [] ∧
      ((∃ x, (regPend h s o).ch = some x ∧ s.me.willPush x.1 = true) ↔ o.dst.cl = true ∧ s.me.willPush o.dst.num.toNat = true) := by
  unfold regPend outVals
  rw [hu, hnone, lanes_zero]
  cases o.dst.cl <;> simp [Pend.empty]

/-- Settles O14: a fixed-latency word puts its results at once, a long-latency one starts with them outstanding, unless no thread takes part. -/
theorem floatResults : Obligations.FloatResults := by
  unfold Obligations.FloatResults
  intro i s o h ho hh ha
  obtain ⟨f, b, hw, rfl, hc, hb⟩ := deliversResult_floatOp ho hh ha
  cases hl : o.long with
  | false =>
    have hmap : b s = mapWord f.h o.srcs o.dst o.ty o.val s := by rw [hb, hl]; rfl
    obtain ⟨t, hexec, hpc, hval⟩ := exec_writesResult ⟨f, b, hw, hmap⟩ ha
    exact ⟨t, hexec, hpc, fun _ => hval, fun h => absurd h (by decide)⟩
  | true =>
    have hchans := srcs_onlyChans s.cur f.h.uni o.srcs s
    have hlong : b s = .long (s.srcs s.cur f.h.uni o.srcs).2 (regPend f.h s o) := by rw [hb, floatWord_eq, hl]; rfl
    by_cases hpart : f.h.uni = true ∨ s.me.part f.h ≠ 0
    · have hleaves := leavesPending_of_sources hw hc hchans.cur hchans.me hchans.stale ha hh hlong hpart
      have hparts := hleaves
      obtain ⟨hexec, hpc, hv, -⟩ := hparts
      refine ⟨_, hexec, hpc, fun h => absurd h (by decide), fun _ => ⟨hv, fun hu hnone => ?_, fun _ => hleaves⟩⟩
      exact hpart.elim (fun h => absurd (h.symm.trans hu) (by decide)) (absurd hnone)
    · obtain ⟨hu, hnone⟩ : f.h.uni = false ∧ s.me.part f.h = 0 := by simpa using hpart
      obtain ⟨hvw, hsw, hbehind⟩ := regPend_idle o hu hnone
      obtain ⟨hpc, hv, hsr, hfl, hnot, hyes⟩ := started_idle hw hc hchans.cur hchans.me hchans.stale hu hnone hvw hsw
      rw [hbehind] at hnot hyes
      exact ⟨_, exec_started hw ha hlong, hpc, fun h => absurd h (by decide), fun _ => ⟨hv, fun _ _ => ⟨hfl, hsr, hnot, hyes⟩, fun h => absurd h hpart⟩⟩

end Sys2Proof.Machine
end

section
/-! SUPPORT. The matrix engine's records and queues (spec/09 R206, R207, R210): reading what a record's change leaves, and commands that
leave the queue. -/

namespace Sys2Proof.Machine

theorem mem_tset {α : Type} {key : Nat} {v : α} {x : Nat × α} : ∀ {t : Tbl α}, x ∈ tset key v t → x = (key, v) ∨ x ∈ t
  | [], h => .inl (List.mem_singleton.mp h)
  | (j, b) :: r, h => by
    unfold tset at h
    split_ifs at h with hj hlt
    · exact (List.mem_cons.mp h).imp_right (List.mem_cons_of_mem _)
    · exact List.mem_cons.mp h
    · rcases List.mem_cons.mp h with rfl | h
      · exact .inr List.mem_cons_self
      · exact (mem_tset h).imp_right (List.mem_cons_of_mem _)

/-! ### Engines and records by name -/

@[simp] theorem setEngine_engineAt (s : State) (cl : Nat) (e : Engine) : (s.setEngine cl e).engineAt cl = e := by
  simp [State.engineAt, State.setEngine]
theorem setEngine_clusterAt_ne (s : State) {cl j : Nat} (e : Engine) (h : j ≠ cl) : (s.setEngine cl e).clusterAt j = s.clusterAt j :=
  setCluster_clusterAt_ne _ _ _ h

namespace Engine
variable {e e' e'' : Engine} {n seq : Nat} {r : Resv} {f : Cmd → Cmd}

@[simp] theorem setResv_resv (e : Engine) (n : Nat) (r : Resv) : (e.setResv n r).resv n = r := tget_tset_self ..
theorem setResv_resv_ne {j : Nat} (h : j ≠ n) : (e.setResv n r).resv j = e.resv j := tget_tset_ne _ h ..
theorem setResv_resv_at (j : Nat) : (e.setResv n r).resv j = if j = n then r else e.resv j := tget_tset ..
@[simp] theorem mapCmd_resv : (e.mapCmd n seq f).resv n = (e.resv n).mapCmd seq f := setResv_resv ..
theorem mapCmd_resv_ne {j : Nat} (h : j ≠ n) : (e.mapCmd n seq f).resv j = e.resv j := setResv_resv_ne h
theorem setPhase_eq (p : CmdPhase) : e.setPhase n seq p = e.mapCmd n seq (fun c => { c with phase := p }) := rfl
theorem resv_congr (h : e'.recs = e.recs) : e'.resv = e.resv := by
  funext n
  simp only [Engine.resv, h]

/-! ### Engines without a closing record -/

/-- No record of the engine waits to be freed (R227). -/
def NoneClosing (e : Engine) : Prop := ∀ x ∈ e.recs, x.2.state ≠ .closing

theorem NoneClosing.resv (h : e.NoneClosing) (n : Nat) : (e.resv n).state ≠ .closing := by
  unfold Engine.resv tget
  cases hr : tfind n e.recs with
  | none => decide
  | some r => exact h _ (mem_of_tfind hr)

theorem NoneClosing.setResv (h : e.NoneClosing) (hr : r.state = (e.resv n).state) : (e.setResv n r).NoneClosing := fun x hx => by
  rcases mem_tset hx with rfl | hx
  · exact hr ▸ h.resv n
  · exact h x hx

theorem NoneClosing.mapCmd (h : e.NoneClosing) : (e.mapCmd n seq f).NoneClosing := h.setResv rfl
theorem NoneClosing.congr (h : e.NoneClosing) (hr : e'.recs = e.recs) : e'.NoneClosing := fun x hx => h x (hr ▸ hx)

/-- Where no record is closing none is freed (R227). -/
theorem freeAll_of_noneClosing (h : e.NoneClosing) : e.freeAll = e := by
  have hone (n : Nat) : e.freeOne n = e := if_neg fun hc => h.resv n hc.1
  unfold Engine.freeAll
  induction e.recs.map Prod.fst with
  | nil => rfl
  | cons n ns ih => rw [List.foldl_cons, hone, ih]

/-! ### Complete commands leave the queue (R210) -/

/-- Only a record's queue is shorter at its head, by complete commands, which are noted as gone if they were withdrawn. -/
structure Swept (n : Nat) (e e' : Engine) : Prop where
  rest : e' = { e with recs := e'.recs }
  other : ∀ j, j ≠ n → e'.resv j = e.resv j
  mine : ∃ q g, e'.resv n = { e.resv n with queue := q, gone := g } ∧ (∀ d ∈ q, d ∈ (e.resv n).queue) ∧
    ∀ d ∈ (e.resv n).queue, d.phase ≠ .complete → d ∈ q

theorem Swept.refl (n : Nat) (e : Engine) : e.Swept n e := ⟨rfl, fun _ _ => rfl, _, _, rfl, fun _ h => h, fun _ h _ => h⟩

theorem Swept.trans (h : e.Swept n e') (h' : e'.Swept n e'') : e.Swept n e'' := by
  obtain ⟨q, g, hr, hsub, hkeep⟩ := h.mine
  obtain ⟨q', g', hr', hsub', hkeep'⟩ := h'.mine
  rw [hr] at hr' hsub' hkeep'
  refine ⟨?_, fun j hj => (h'.other j hj).trans (h.other j hj), q', g', hr', fun d hd => hsub d (hsub' d hd),
    fun d hd hp => hkeep' d (hkeep d hd hp) hp⟩
  rw [h'.rest, h.rest]

/-- The head of a record's queue leaves it when it is complete. -/
theorem swept_head {c : Cmd} {q : List Cmd} {g : List Nat} (hq : (e.resv n).queue = c :: q) (hc : c.phase = .complete) :
    e.Swept n (e.setResv n { e.resv n with queue := q, gone := g }) := by
  refine ⟨rfl, fun j hj => setResv_resv_ne hj, q, g, setResv_resv .., fun d hd => hq ▸ List.mem_cons_of_mem _ hd, fun d hd hp => ?_⟩
  rw [hq] at hd
  rcases List.mem_cons.mp hd with rfl | hd
  · exact absurd hc hp
  · exact hd

theorem sweep_swept (n k : Nat) : ∀ {e : Engine}, e.NoneClosing → e.Swept n (e.sweep n k) := by
  induction k with
  | zero => exact fun _ => Swept.refl n _
  | succ k ih =>
    intro e h
    unfold Engine.sweep
    simp only
    split
    · next c q hq =>
      split_ifs with hc hw
      · exact (swept_head hq hc).trans (ih (h.setResv rfl))
      · exact (swept_head hq hc).trans (ih (h.setResv rfl))
      · rw [freeAll_of_noneClosing h]
        exact Swept.refl n e
    · rw [freeAll_of_noneClosing h]
      exact Swept.refl n e

end Engine

/-- An engine is put in place and its complete commands leave it. -/
theorem sweep_setEngine (s : State) (cl n : Nat) (e : Engine) (h : e.NoneClosing) :
    let t := (s.setEngine cl e).sweep cl n
    e.Swept n (t.engineAt cl) ∧ t = { s with clusters := t.clusters } ∧ ∀ j, j ≠ cl → t.clusterAt j = s.clusterAt j := by
  unfold State.sweep
  simp only [setEngine_engineAt]
  refine ⟨Engine.sweep_swept n _ h, rfl, fun j hj => ?_⟩
  rw [setEngine_clusterAt_ne _ _ hj, setEngine_clusterAt_ne _ _ hj]

end Sys2Proof.Machine
end

section
/-! SUPPORT. Accumulator tiles, and the grant of a matrix command (spec/09 R211, R214; spec/10 R224, R231-R234). -/

namespace Sys2Proof.Machine

theorem tfind_append {α : Type} (k : Nat) (b : Tbl α) : ∀ a : Tbl α, tfind k (a ++ b) = (tfind k a).or (tfind k b)
  | [] => rfl
  | (j, x) :: a => by
    rw [List.cons_append, tfind, tfind]
    split
    · rfl
    · exact tfind_append k b a

/-- Entries taken by their keys are found as before, and no others are. -/
theorem tfind_filter_key {α : Type} (k : Nat) (p : Nat → Bool) : ∀ t : Tbl α, tfind k (t.filter (fun x => p x.1)) = if p k then tfind k t else none
  | [] => by simp [tfind]
  | (j, x) :: t => by
    have ih := tfind_filter_key k p t
    by_cases hj : p j = true <;> by_cases hk : j = k <;> simp_all [tfind]

/-- Words listed from a key on are found by their places. -/
theorem tfind_zip_range {α : Type} (b i : Nat) (ws : List α) :
    tfind (b + i) (((List.range ws.length).zip ws).map (fun w => (b + w.1, w.2))) = ws[i]? := by
  rw [List.range_eq_range']
  suffices h : ∀ (m : Nat), tfind (b + m + i) (((List.range' m ws.length).zip ws).map (fun w => (b + w.1, w.2))) = ws[i]? from h 0
  induction ws generalizing i with
  | nil => intro m; rfl
  | cons w ws ih =>
    intro m
    rw [List.length_cons, List.range'_succ, List.zip_cons_cons, List.map_cons, tfind]
    cases i with
    | zero => simp
    | succ i =>
      have := ih i (m + 1)
      rw [if_neg (by omega), List.getElem?_cons_succ, ← this]
      congr 1
      omega

/-- A key below or beyond the listed words is not found among them. -/
theorem tfind_zip_range_none {α : Type} {b k : Nat} {ws : List α} (h : k < b ∨ b + ws.length ≤ k) :
    tfind k (((List.range ws.length).zip ws).map (fun w => (b + w.1, w.2))) = none := by
  refine tfind_of_not_mem fun hk => ?_
  simp only [List.map_map, List.mem_map, Function.comp_apply] at hk
  obtain ⟨⟨i, w⟩, hw, rfl⟩ := hk
  have := List.mem_range.mp (List.of_mem_zip hw).1
  simp only at h
  omega

namespace Engine
variable {e : Engine} {n seq tile : Nat} {ws : List Word32}

theorem accAt_congr {e' : Engine} (ha : e'.acc = e.acc) (hs : e'.accSeed = e.accSeed) : e'.accAt = e.accAt := by
  funext j x
  simp only [Engine.accAt, ha, hs]

/-- A replaced tile has the new words (R214). -/
theorem setAcc_accAt_self {i : Nat} {w : Word32} (hw : ws[i]? = some w) : (e.setAcc tile ws).accAt tile i = w := by
  have hlow : tfind (4096 * tile + i) (e.acc.filter (fun x => decide (x.1 < 4096 * tile))) = none :=
    (tfind_filter_key _ (fun k => decide (k < 4096 * tile)) _).trans (if_neg (by simp))
  unfold Engine.accAt Engine.setAcc
  simp only [tfind_append, hlow, tfind_zip_range, hw, Option.none_or, Option.some_or]

/-- The other tiles keep theirs. -/
theorem setAcc_accAt_ne {j i : Nat} (hj : j ≠ tile) (hi : i < 4096) (hlen : ws.length ≤ 4096) :
    (e.setAcc tile ws).accAt j i = e.accAt j i := by
  have hmid : tfind (4096 * j + i) (((List.range ws.length).zip ws).map (fun w => (4096 * tile + w.1, w.2))) = none :=
    tfind_zip_range_none (by omega)
  have hfind : tfind (4096 * j + i) (e.setAcc tile ws).acc = tfind (4096 * j + i) e.acc := by
    unfold Engine.setAcc
    simp only [tfind_append, hmid]
    rw [tfind_filter_key _ (fun k => decide (k < 4096 * tile)), tfind_filter_key _ (fun k => decide (4096 * tile + 4096 ≤ k))]
    by_cases h : j < tile
    · rw [if_pos (by simp; omega), if_neg (by simp; omega)]
      simp
    · rw [if_neg (by simp; omega), if_pos (by simp; omega)]
      simp
  have hseed : tfind j (e.setAcc tile ws).accSeed = tfind j e.accSeed := (tfind_tdel ..).trans (if_neg hj)
  unfold Engine.accAt
  rw [hfind, hseed]

@[simp] theorem setAcc_recs : (e.setAcc tile ws).recs = e.recs := rfl
@[simp] theorem setAcc_buf : (e.setAcc tile ws).buf = e.buf := rfl
theorem tileWords_getElem? {i : Nat} (hi : i < 4096) : (e.tileWords tile)[i]? = some (e.accAt tile i) := by
  simp [Engine.tileWords, hi]
theorem tileWords_length : (e.tileWords tile).length = 4096 := by simp [Engine.tileWords]

end Engine

/-! ### The arbiter's choice (R211) -/

theorem mayGrant_iff {s : State} {cl n : Nat} {c : Cmd} (h : (s.engineAt cl).head n = some c) : s.mayGrant cl n = true ↔
    (s.engineAt cl).ready n c = true ∧ (c.op.path = 4 ∨ ∀ x ∈ (s.engineAt cl).taken, ∀ d, (s.engineAt cl).head x.1 = some d →
      d.op.path = c.op.path → (s.engineAt cl).ready x.1 d = true → listLe (s.rankOf cl n c) (s.rankOf cl x.1 d) = true) := by
  unfold State.mayGrant
  simp only [h, Bool.and_eq_true, Bool.or_eq_true, beq_iff_eq, List.all_eq_true]
  refine and_congr_right fun _ => or_congr_right (forall₂_congr fun x _ => ?_)
  cases hd : (s.engineAt cl).head x.1 with
  | none => simp
  | some d =>
    simp only [Option.some.injEq, forall_eq', Bool.or_eq_true, bne_iff_ne, Bool.not_eq_true', ne_eq]
    cases (s.engineAt cl).ready x.1 d <;> by_cases hp : d.op.path = c.op.path <;> simp [hp]

/-- An arbiter's turn that chooses nothing leaves the machine as it is. -/
theorem commandGrant_idle {s : State} {cl n : Nat} (h : s.mayGrant cl n ≠ true) : exec (.commandGrant cl n) s = .next s :=
  congrArg Host.Outcome.next (if_neg h)

/-- An arbiter's turn that chooses: the engine has granted, and complete commands have left the queue. -/
theorem commandGrant_grants {s : State} {cl n : Nat} (h : s.mayGrant cl n = true) (hno : ((s.engineAt cl).grant n).NoneClosing) :
    ∃ t, exec (.commandGrant cl n) s = .next t ∧ ((s.engineAt cl).grant n).Swept n (t.engineAt cl) ∧ t = { s with clusters := t.clusters } ∧
      ∀ j, j ≠ cl → t.clusterAt j = s.clusterAt j :=
  ⟨_, congrArg Host.Outcome.next (if_pos h), sweep_setEngine s cl n _ hno⟩

end Sys2Proof.Machine
end

section
/-! SUPPORT. What each matrix command does when it is granted (spec/09 R203, R211, R214; spec/10 R224, R231-R234). -/

namespace Sys2Proof.Machine

namespace Engine
variable {e e' : Engine} {n : Nat}

/-! ### What the leaving of complete commands keeps -/

theorem Swept.accAt (h : e.Swept n e') : e'.accAt = e.accAt := by rw [h.rest]; rfl
theorem Swept.buf (h : e.Swept n e') : e'.buf = e.buf := by rw [h.rest]
theorem Swept.planes (h : e.Swept n e') : e'.planes = e.planes := by rw [h.rest]
theorem Swept.full (h : e.Swept n e') : e'.full = e.full := by rw [h.rest]
theorem Swept.dead (h : e.Swept n e') : e'.dead = e.dead := by rw [h.rest]
theorem Swept.isFull (h : e.Swept n e') : e'.isFull = e.isFull := by
  funext r l
  simp only [Engine.isFull, h.full]

/-- Of a record, only its queue and the commands gone from it can differ. -/
theorem Swept.resv (h : e.Swept n e') (j : Nat) : ∃ q g, e'.resv j = { e.resv j with queue := q, gone := g } := by
  obtain ⟨q, g, hr, -, -⟩ := h.mine
  by_cases hj : j = n
  · exact ⟨q, g, hj ▸ hr⟩
  · exact ⟨_, _, h.other j hj⟩

theorem Swept.tiles (h : e.Swept n e') (j : Nat) :
    (e'.resv j).atile = (e.resv j).atile ∧ (e'.resv j).stile = (e.resv j).stile ∧ (e'.resv j).ff = (e.resv j).ff := by
  obtain ⟨q, g, hr⟩ := h.resv j
  simp [hr]

end Engine

/-- The accumulator words outside some tiles are as before. -/
def Engine.KeepsTiles (e e' : Engine) (ts : List Nat) : Prop := ∀ j x, j ∉ ts → x < 4096 → e'.accAt j x = e.accAt j x

/-- A reservation's command runs at the arbiter's turn: it is under way behind it, and the engine and the command then have a property. -/
def GrantRuns (s : State) (cl n : Nat) (c : Cmd) (post : Engine → Cmd → Prop) : Prop :=
  ∃ t d, exec (.commandGrant cl n) s = .next t ∧ d ∈ ((t.engineAt cl).resv n).queue ∧
    d.seq = c.seq ∧ d.phase = .granted ∧ d.op = c.op ∧ post (t.engineAt cl) d ∧ t = { s with clusters := t.clusters } ∧
    ∀ j, j ≠ cl → t.clusterAt j = s.clusterAt j

/-- A command as its grant leaves it: the same command, under way. -/
def Granted (c d : Cmd) : Prop := d.seq = c.seq ∧ d.phase = .granted ∧ d.op = c.op

theorem mem_mapCmd {r : Resv} {c : Cmd} (h : c ∈ r.queue) (f : Cmd → Cmd) : f c ∈ (r.mapCmd c.seq f).queue :=
  List.mem_map.mpr ⟨c, h, if_pos rfl⟩

/-- A command runs where the engine that granted it has it under way in a queue that is otherwise as it was. -/
theorem grantRuns {s : State} {cl n : Nat} {c : Cmd} {post : Engine → Cmd → Prop} (hmay : s.mayGrant cl n = true) {r : Resv} {f : Cmd → Cmd}
    (hc : c ∈ r.queue) (hno : ((s.engineAt cl).grant n).NoneClosing) (hr : ((s.engineAt cl).grant n).resv n = r.mapCmd c.seq f)
    (hf : Granted c (f c)) (hpost : ∀ e', ((s.engineAt cl).grant n).Swept n e' → post e' (f c)) : GrantRuns s cl n c post := by
  obtain ⟨t, ht, hsw, hrest, hother⟩ := commandGrant_grants hmay hno
  obtain ⟨hseq, hphase, hop⟩ := hf
  obtain ⟨q, g, hq, -, hkeep⟩ := hsw.mine
  refine ⟨t, f c, ht, ?_, hseq, hphase, hop, hpost _ hsw, hrest, hother⟩
  rw [hq]
  exact hkeep _ (hr ▸ mem_mapCmd hc f) (by simp [hphase])

namespace Engine
variable {e : Engine} {n : Nat} {c : Cmd}

/-- A ready first waiting command is the one that a grant runs. -/
theorem grant_of_ready (h : e.head n = some c) (hr : e.ready n c = true) : e.grant n = match c.op with
    | .swap => (e.setResv n { e.resv n with atile := (e.resv n).stile, stile := (e.resv n).atile }).setPhase n c.seq .granted
    | .load i => ((e.setResv n { e.resv n with stile := some i }).usePlane n (e.resv n).tag i).setPhase n c.seq .granted
    | .zero m => ((tilesOf m).foldl (fun e j => e.setAcc j (List.replicate 4096 0)) e).setPhase n c.seq .granted
    | .pass sn _ t j z => e.grantPass n c sn t j z
    | .drain _ d _ satx za _ row0 rows _ _ j _ => e.grantDrain n c d satx za row0 rows j
    | .fillS _ _ first count => e.grantFill n c first count
    | .fillG _ first count _ => e.grantFill n c first count := by
  unfold Engine.grant
  simp only [h, hr] <;> rfl

theorem usePlane_mem (tag i : Nat) : (n, tag, i) ∈ (e.usePlane n tag i).planes := List.mem_append_right _ List.mem_cons_self
theorem NoneClosing.usePlane {tag i : Nat} (h : e.NoneClosing) : (e.usePlane n tag i).NoneClosing := h.congr rfl

section
variable (h : e.head n = some c) (hr : e.ready n c = true)
include h hr

theorem grant_swap (hop : c.op = .swap) : e.grant n =
    (e.setResv n { e.resv n with atile := (e.resv n).stile, stile := (e.resv n).atile }).setPhase n c.seq .granted := by
  rw [grant_of_ready h hr, hop]
theorem grant_load {i : Nat} (hop : c.op = .load i) : e.grant n =
    ((e.setResv n { e.resv n with stile := some i }).usePlane n (e.resv n).tag i).setPhase n c.seq .granted := by
  rw [grant_of_ready h hr, hop]
theorem grant_zero {m : Byte} (hop : c.op = .zero m) : e.grant n =
    ((tilesOf m).foldl (fun e j => e.setAcc j (List.replicate 4096 0)) e).setPhase n c.seq .granted := by
  rw [grant_of_ready h hr, hop]
theorem grant_pass {sn tg t j : Nat} {z : Bool} (hop : c.op = .pass sn tg t j z) : e.grant n = e.grantPass n c sn t j z := by
  rw [grant_of_ready h hr, hop]
theorem grant_drain {dest d base row0 rows stride ch j : Nat} {add satx za : Bool} {m : Byte}
    (hop : c.op = .drain dest d add satx za base row0 rows stride ch j m) : e.grant n = e.grantDrain n c d satx za row0 rows j := by
  rw [grant_of_ready h hr, hop]
theorem grant_fill (hl : (e.resv n).fillLines c.op ≠ []) : ∃ first count, e.grant n = e.grantFill n c first count := by
  rw [grant_of_ready h hr]
  cases hop : c.op with
  | fillS => exact ⟨_, _, rfl⟩
  | fillG => exact ⟨_, _, rfl⟩
  | _ => exact absurd (by rw [hop]; rfl) hl

end

/-- Tiles cleared one after the other: each of them reads zero, the others as before (R214, R233). -/
theorem clearTiles_accAt {j x : Nat} (hx : x < 4096) : ∀ (ts : List Nat) (e : Engine),
    (ts.foldl (fun e j => e.setAcc j (List.replicate 4096 0)) e).accAt j x = if j ∈ ts then 0 else e.accAt j x
  | [], e => rfl
  | t :: ts, e => by
    rw [List.foldl_cons, clearTiles_accAt hx ts]
    by_cases hj : j = t
    · subst hj
      rw [setAcc_accAt_self (i := x) (w := 0) ((List.getElem?_replicate ..).trans (if_pos hx)), ite_self, if_pos List.mem_cons_self]
    · rw [setAcc_accAt_ne hj hx List.length_replicate.le]
      simp only [List.mem_cons, hj, false_or]

/-- Clearing tiles keeps everything but accumulators. -/
theorem clearTiles_rest : ∀ (ts : List Nat) (e : Engine), let e' := ts.foldl (fun e j => e.setAcc j (List.replicate 4096 0)) e
    e'.recs = e.recs ∧ e'.buf = e.buf
  | [], _ => ⟨rfl, rfl⟩
  | _ :: ts, _ => clearTiles_rest ts _

end Engine

section
variable {s : State} {cl n : Nat} {c : Cmd} (hmay : s.mayGrant cl n = true) (hhead : (s.engineAt cl).head n = some c)
  (hready : (s.engineAt cl).ready n c = true) (hno : (s.engineAt cl).NoneClosing)
include hmay hhead hready hno

/-- A swap exchanges the active and the shadow tile (R224). -/
theorem grant_swap_runs (h : c.op = .swap) : let e := s.engineAt cl
    GrantRuns s cl n c (fun e' _ => (e'.resv n).atile = (e.resv n).stile ∧ (e'.resv n).stile = (e.resv n).atile ∧
      e.KeepsTiles e' [] ∧ e'.buf = e.buf) := by
  intro e
  have hg := Engine.grant_swap hhead hready h
  refine grantRuns hmay (r := { e.resv n with atile := (e.resv n).stile, stile := (e.resv n).atile }) (f := fun c => { c with phase := .granted })
    (List.mem_of_find?_eq_some hhead) ?_ ?_ ⟨rfl, rfl, rfl⟩ fun e' hsw => ?_
  · rw [hg]
    exact .mapCmd (.setResv hno rfl)
  · rw [hg, Engine.setPhase_eq, Engine.mapCmd_resv, Engine.setResv_resv]
  · rw [hg] at hsw
    obtain ⟨ha, hs, -⟩ := hsw.tiles n
    rw [Engine.setPhase_eq, Engine.mapCmd_resv, Engine.setResv_resv] at ha hs
    exact ⟨ha, hs, fun j x _ _ => by rw [hsw.accAt]; rfl, hsw.buf⟩

/-- A load sets the shadow tile and brings it to a plane (R203, R224). -/
theorem grant_load_runs {i : Nat} (h : c.op = .load i) : let e := s.engineAt cl
    GrantRuns s cl n c (fun e' _ => (e'.resv n).stile = some i ∧ (e'.resv n).atile = (e.resv n).atile ∧
      e.KeepsTiles e' [] ∧ e'.buf = e.buf ∧ (n, (e.resv n).tag, i) ∈ e'.planes) := by
  intro e
  have hg := Engine.grant_load hhead hready h
  have hresv : (e.grant n).resv n = ({ e.resv n with stile := some i } : Resv).mapCmd c.seq (fun c => { c with phase := .granted }) := by
    rw [hg, Engine.setPhase_eq, Engine.mapCmd_resv]
    exact congrArg (Resv.mapCmd · _ _) (Engine.setResv_resv ..)
  refine grantRuns hmay (r := { e.resv n with stile := some i }) (List.mem_of_find?_eq_some hhead) ?_ hresv ⟨rfl, rfl, rfl⟩ fun e' hsw => ?_
  · rw [hg]
    exact .mapCmd (.usePlane (.setResv hno rfl))
  · obtain ⟨ha, hs, -⟩ := hsw.tiles n
    rw [hresv] at ha hs
    rw [hg] at hsw
    exact ⟨hs, ha, fun j x _ _ => by rw [hsw.accAt]; rfl, hsw.buf, hsw.planes ▸ Engine.usePlane_mem ..⟩

/-- A zero clears its accumulator tiles (R233). -/
theorem grant_zero_runs {m : Byte} (h : c.op = .zero m) : let e := s.engineAt cl
    GrantRuns s cl n c (fun e' _ => e.KeepsTiles e' (tilesOf m) ∧ e'.buf = e.buf ∧
      ∀ j ∈ tilesOf m, ∀ x, x < 4096 → e'.accAt j x = 0) := by
  intro e
  have hg := Engine.grant_zero hhead hready h
  obtain ⟨hrecs, hbuf⟩ := Engine.clearTiles_rest (tilesOf m) e
  refine grantRuns hmay (r := e.resv n) (f := fun c => { c with phase := .granted }) (List.mem_of_find?_eq_some hhead) ?_ ?_ ⟨rfl, rfl, rfl⟩
    fun e' hsw => ?_
  · rw [hg]
    exact (hno.congr hrecs).mapCmd
  · rw [hg, Engine.setPhase_eq, Engine.mapCmd_resv, Engine.resv_congr hrecs]
  · rw [hg] at hsw
    have hacc (j x : Nat) (hx : x < 4096) : e'.accAt j x = if j ∈ tilesOf m then 0 else e.accAt j x := by
      rw [hsw.accAt]
      exact Engine.clearTiles_accAt hx (tilesOf m) e
    exact ⟨fun j x hj hx => by rw [hacc j x hx, if_neg hj], hsw.buf.trans hbuf, fun j hj x hx => by rw [hacc j x hx, if_pos hj]⟩

end

end Sys2Proof.Machine
end

section
/-! SUPPORT. Passes, drains and fills at their grant (spec/09 R213-R217; spec/10 R224, R231, R232, R234). -/

namespace Sys2Proof.Machine

/-- The words that a pass leaves in an accumulator tile: its values added to the words there, or to zero (R231). -/
def passWords (e : Engine) (j : Nat) (z : Bool) (pv : List Nat) : List Word32 :=
  (((List.range 4096).zip pv).map (fun p => addDefault .f32 (if z then 0 else (e.accAt j p.1).toNat) p.2)).map (fun x => BitVec.ofNat 32 x)

theorem passWords_getElem? {e : Engine} {j i v : Nat} {z : Bool} {pv : List Nat} (hi : i < 4096) (hv : pv[i]? = some v) :
    (passWords e j z pv)[i]? = some (BitVec.ofNat 32 (addDefault .f32 (if z then 0 else (e.accAt j i).toNat) v)) := by
  have hz : ((List.range 4096).zip pv)[i]? = some (i, v) := List.getElem?_zip_eq_some.mpr ⟨List.getElem?_range hi, hv⟩
  rw [passWords, List.getElem?_map, List.getElem?_map, hz]
  rfl

theorem passWords_length {e : Engine} {j : Nat} {z : Bool} {pv : List Nat} : (passWords e j z pv).length ≤ 4096 := by
  rw [passWords, List.length_map, List.length_map, List.length_zip, List.length_range]
  exact Nat.min_le_left ..

/-- A tile's words with rows cleared (R234). -/
def clearedRows (e : Engine) (j row0 rows : Nat) : List Word32 :=
  ((List.range 4096).zip (e.tileWords j)).map (fun w => if row0 ≤ w.1 / 64 ∧ w.1 / 64 < row0 + rows then 0 else w.2)

theorem clearedRows_getElem? {e : Engine} {j row0 rows i : Nat} (hi : i < 4096) :
    (clearedRows e j row0 rows)[i]? = some (if row0 ≤ i / 64 ∧ i / 64 < row0 + rows then 0 else e.accAt j i) := by
  have hz : ((List.range 4096).zip (e.tileWords j))[i]? = some (i, e.accAt j i) :=
    List.getElem?_zip_eq_some.mpr ⟨List.getElem?_range hi, Engine.tileWords_getElem? hi⟩
  rw [clearedRows, List.getElem?_map, hz]
  rfl

theorem clearedRows_length {e : Engine} {j row0 rows : Nat} : (clearedRows e j row0 rows).length ≤ 4096 := by
  rw [clearedRows, List.length_map, List.length_zip, List.length_range]
  exact Nat.min_le_left ..

/-- The codes that a drain of rows reads from a tile, row by row (R214, R215). -/
def drainedCodes (e : Engine) (d : Nat) (satx : Bool) (row0 rows j : Nat) : List Word32 :=
  ((((e.tileWords j).drop (64 * row0)).take (64 * rows)).map (drainCode d (dfmtSat d satx))).map (fun x => BitVec.ofNat 32 x)

theorem drainedCodes_length {e : Engine} {d row0 rows j : Nat} {satx : Bool} (h : row0 + rows ≤ 64) :
    (drainedCodes e d satx row0 rows j).length = 64 * rows := by
  rw [drainedCodes, List.length_map, List.length_map, List.length_take, List.length_drop, Engine.tileWords_length]
  omega

theorem drainedCodes_getElem? {e : Engine} {d row0 rows j i v : Nat} {satx : Bool} (h : row0 + rows ≤ 64) (hi : i < rows) (hv : v < 64) :
    (drainedCodes e d satx row0 rows j)[64 * i + v]? =
      some (BitVec.ofNat 32 (drainCode d (dfmtSat d satx) (e.accAt j (64 * (row0 + i) + v)))) := by
  have hx : 64 * row0 + (64 * i + v) = 64 * (row0 + i) + v := by omega
  rw [drainedCodes, List.getElem?_map, List.getElem?_map, List.getElem?_take_of_lt (by omega), List.getElem?_drop, hx,
    Engine.tileWords_getElem? (by omega)]
  rfl

namespace Engine
variable {e : Engine} {n : Nat} {c : Cmd}

/-- An engine that may take assists up differs in its assists at most (R217). -/
theorem exists_assists (b : Bool) (e : Engine) (a : List (Nat × Nat × Nat)) :
    ∃ as, (if b then { e with assists := a } else e) = { e with assists := as } := by
  cases b <;> exact ⟨_, rfl⟩

/-- A pass reads a line whose fill was cancelled (R231). -/
def passDead (e : Engine) (n sn t : Nat) : Prop :=
  (∃ l ∈ (e.passLines (e.resv n) sn t).1, e.isDead (e.resv n) l = true) ∨ ∃ l ∈ (e.passLines (e.resv n) sn t).2, e.isDead (e.resv sn) l = true

/-- Such a pass is withdrawn. -/
theorem grantPass_dead {sn t j : Nat} {z : Bool} (h : e.passDead n sn t) :
    e.grantPass n c sn t j z = e.mapCmd n c.seq (fun c => { c with phase := .complete, withdrawn := true }) := by
  unfold Engine.passDead at h
  unfold Engine.grantPass
  simp only
  rw [if_pos (by simpa only [Bool.or_eq_true, List.any_eq_true] using h)]

/-- A record takes a format fault up in its FF (R209). -/
def noteFault (e : Engine) (n : Nat) (b : Bool) : Engine := e.setResv n { e.resv n with ff := (e.resv n).ff || b }

theorem noteFault_queue (k : Nat) (b : Bool) : ((e.noteFault k b).resv n).queue = (e.resv n).queue := by
  unfold noteFault
  rw [setResv_resv_at]
  split
  · next h => rw [h]
  · rfl

theorem noteFault_ff_self (b : Bool) : ((e.noteFault n b).resv n).ff = ((e.resv n).ff || b) := by
  unfold noteFault
  rw [setResv_resv]

theorem noteFault_ff_ne {k : Nat} (h : n ≠ k) (b : Bool) : ((e.noteFault k b).resv n).ff = (e.resv n).ff := by
  unfold noteFault
  rw [setResv_resv_ne h]

theorem NoneClosing.noteFault {b : Bool} (h : e.NoneClosing) : (e.noteFault n b).NoneClosing := h.setResv rfl

/-- Any other pass adds its values to its tile, and the faults of its two tiles' formats are noted; planes and assists aside nothing else
changes (R209, R217, R231). -/
theorem grantPass_alive {sn t j : Nat} {z : Bool} (h : ¬e.passDead n sn t) :
    let tile := (e.resv n).atile.getD 0
    let p := e.passValues (e.resv n) (e.resv sn) tile t
    ∃ ps as, e.grantPass n c sn t j z = { (((e.setAcc j (passWords e j z p.1)).noteFault n p.2.1).noteFault sn p.2.2).mapCmd n c.seq
      (fun c => { c with phase := .granted, addr := tile }) with planes := ps, assists := as } := by
  unfold Engine.passDead at h
  unfold Engine.grantPass
  simp only
  rw [if_neg (by simpa only [Bool.or_eq_true, List.any_eq_true] using h)]
  exact ⟨(e.usePlane n (e.resv n).tag ((e.resv n).atile.getD 0)).planes, exists_assists ..⟩

/-- A drain reads its codes, and under ZA clears its rows; assists aside nothing else changes (R214, R217, R234). -/
theorem grantDrain_eq (d : Nat) (satx za : Bool) (row0 rows j : Nat) : ∃ as, e.grantDrain n c d satx za row0 rows j =
    { (if za then e.setAcc j (clearedRows e j row0 rows) else e).mapCmd n c.seq
      (fun c => { c with phase := .granted, vals := drainedCodes e d satx row0 rows j, todo := List.range rows }) with assists := as } := by
  unfold Engine.grantDrain
  simp only
  exact exists_assists ..

end Engine

section
variable {s : State} {cl n : Nat} {c : Cmd} (hmay : s.mayGrant cl n = true) (hhead : (s.engineAt cl).head n = some c)
  (hready : (s.engineAt cl).ready n c = true) (hno : (s.engineAt cl).NoneClosing)
include hmay hhead hready hno

/-- A pass over lines that are full adds its products to its tile (R231). -/
theorem grant_pass_runs {sn tg t j : Nat} {z : Bool} (h : c.op = .pass sn tg t j z) : let e := s.engineAt cl
    ¬e.passDead n sn t → GrantRuns s cl n c (fun e' _ => e.KeepsTiles e' [j] ∧ e'.buf = e.buf ∧
      let p := e.passValues (e.resv n) (e.resv sn) ((e.resv n).atile.getD 0) t
      (∀ i v, i < 4096 → p.1[i]? = some v → e'.accAt j i = BitVec.ofNat 32 (addDefault .f32 (if z then 0 else (e.accAt j i).toNat) v)) ∧
      (n ≠ sn → (e'.resv n).ff = ((e.resv n).ff || p.2.1) ∧ (e'.resv sn).ff = ((e.resv sn).ff || p.2.2))) := by
  intro e halive
  obtain ⟨ps, as, hpass⟩ := Engine.grantPass_alive (c := c) (j := j) (z := z) halive
  have hg := (Engine.grant_pass hhead hready h).trans hpass
  refine grantRuns hmay (hc := ?_) (hno := ?_) (hr := by rw [hg]; exact Engine.mapCmd_resv) ⟨rfl, rfl, rfl⟩ fun e' hsw => ?_
  · rw [Engine.noteFault_queue, Engine.noteFault_queue]
    exact List.mem_of_find?_eq_some hhead
  · rw [hg]
    exact .congr (.mapCmd (.noteFault (.noteFault (.congr hno Engine.setAcc_recs)))) rfl
  · rw [hg] at hsw
    refine ⟨fun i x hi hx => ?_, hsw.buf, fun i v hi hv => ?_, fun hne => ⟨?_, ?_⟩⟩
    · rw [hsw.accAt]
      exact Engine.setAcc_accAt_ne (List.ne_of_not_mem_cons hi) hx passWords_length
    · rw [hsw.accAt]
      exact Engine.setAcc_accAt_self (passWords_getElem? hi hv)
    · rw [(hsw.tiles n).2.2]
      refine (congrArg Resv.ff Engine.mapCmd_resv).trans ?_
      exact (Engine.noteFault_ff_ne hne _).trans (Engine.noteFault_ff_self _)
    · rw [(hsw.tiles sn).2.2]
      refine (congrArg Resv.ff (Engine.mapCmd_resv_ne hne.symm)).trans ?_
      exact (Engine.noteFault_ff_self _).trans (congrArg (· || _) (Engine.noteFault_ff_ne hne.symm _))

/-- A pass that needs a cancelled line is withdrawn (R231). -/
theorem grant_pass_withdrawn {sn tg t j : Nat} {z : Bool} (h : c.op = .pass sn tg t j z) : let e := s.engineAt cl
    e.passDead n sn t → ∃ t, exec (.commandGrant cl n) s = .next t ∧ e.KeepsTiles (t.engineAt cl) [] ∧
      (t.engineAt cl).buf = e.buf ∧ ∀ d ∈ ((t.engineAt cl).resv n).queue, d.seq = c.seq → d.phase = .complete ∧ d.withdrawn = true := by
  intro e hdead
  have hg := (Engine.grant_pass hhead hready h).trans (Engine.grantPass_dead hdead)
  obtain ⟨t, ht, hsw, -, -⟩ := commandGrant_grants hmay (hg ▸ hno.mapCmd)
  rw [hg] at hsw
  refine ⟨t, ht, fun i x _ _ => by rw [hsw.accAt]; rfl, hsw.buf, fun d hd hseq => ?_⟩
  obtain ⟨q, g, hq, hsub, -⟩ := hsw.mine
  rw [hq] at hd
  have hmem := hsub d hd
  rw [Engine.mapCmd_resv] at hmem
  obtain ⟨a, -, rfl⟩ := List.mem_map.mp hmem
  by_cases ha : a.seq = c.seq
  · rw [if_pos ha]
    exact ⟨rfl, rfl⟩
  · rw [if_neg ha] at hseq
    exact absurd hseq ha

/-- A drain takes the codes of its rows, and under ZA clears them (R214, R234). -/
theorem grant_drain_runs {dest d base row0 rows stride ch j : Nat} {add satx za : Bool} {m : Byte}
    (h : c.op = .drain dest d add satx za base row0 rows stride ch j m) (hrows : row0 + rows ≤ 64) : let e := s.engineAt cl
    GrantRuns s cl n c (fun e' q => e.KeepsTiles e' [j] ∧ e'.buf = e.buf ∧
      q.todo = List.range rows ∧ q.vals.length = 64 * rows ∧
      (∀ i v, i < rows → v < 64 → q.vals[64 * i + v]? =
        some (BitVec.ofNat 32 (drainCode d (dfmtSat d satx) (e.accAt j (64 * (row0 + i) + v))))) ∧
      ∀ x, x < 4096 → e'.accAt j x = if za = true ∧ row0 ≤ x / 64 ∧ x / 64 < row0 + rows then 0 else e.accAt j x) := by
  intro e
  obtain ⟨as, hdrain⟩ := Engine.grantDrain_eq (e := e) (n := n) (c := c) d satx za row0 rows j
  have hg := (Engine.grant_drain hhead hready h).trans hdrain
  have hrest : (if za then e.setAcc j (clearedRows e j row0 rows) else e).recs = e.recs ∧
      (if za then e.setAcc j (clearedRows e j row0 rows) else e).buf = e.buf := by
    cases za <;> exact ⟨rfl, rfl⟩
  refine grantRuns hmay (r := e.resv n) (f := fun c => { c with phase := .granted, vals := drainedCodes e d satx row0 rows j, todo := List.range rows })
    (List.mem_of_find?_eq_some hhead) ?_ ?_ ⟨rfl, rfl, rfl⟩ fun e' hsw => ?_
  · rw [hg]
    exact .congr (.mapCmd (.congr hno hrest.1)) rfl
  · rw [hg, ← Engine.resv_congr hrest.1]
    exact Engine.mapCmd_resv
  · rw [hg] at hsw
    have hacc : e'.accAt = (if za then e.setAcc j (clearedRows e j row0 rows) else e).accAt := hsw.accAt
    refine ⟨fun i x hi hx => ?_, hsw.buf.trans hrest.2, rfl, drainedCodes_length hrows, fun i v hi hv => drainedCodes_getElem? hrows hi hv,
      fun x hx => ?_⟩
    · rw [hacc]
      cases za with
      | false => rfl
      | true => exact Engine.setAcc_accAt_ne (List.ne_of_not_mem_cons hi) hx clearedRows_length
    · rw [hacc]
      cases za with
      | false => simp
      | true => simpa using Engine.setAcc_accAt_self (clearedRows_getElem? hx)

/-- A fill empties its lines, and no other line fills or empties (R213). -/
theorem grant_fill_runs : let e := s.engineAt cl
    let r := e.resv n
    r.fillLines c.op ≠ [] → GrantRuns s cl n c (fun e' q => e.KeepsTiles e' [] ∧ e'.buf = e.buf ∧
      q.todo = r.fillLines c.op ∧ (∀ l ∈ r.fillLines c.op, e'.isFull r l = false ∧ e'.isDead r l = false) ∧
      ∀ l, l ∉ (r.fillLines c.op).map (fun l => 32 * r.gbase + l) → (l ∈ e'.full ↔ l ∈ e.full)) := by
  intro e r hl
  obtain ⟨first, count, hg⟩ := Engine.grant_fill hhead hready hl
  refine grantRuns hmay (r := r) (f := fun c => { c with phase := .granted, todo := r.fillLines c.op }) (List.mem_of_find?_eq_some hhead)
    ?_ ?_ ⟨rfl, rfl, rfl⟩ fun e' hsw => ?_
  · rw [hg]
    exact .mapCmd (.congr hno rfl)
  · rw [hg]
    exact Engine.mapCmd_resv
  · rw [hg] at hsw
    have hfull : e'.full = e.full.filter (fun l => !((r.fillLines c.op).map (fun l => 32 * r.gbase + l)).contains l) := hsw.full
    have hdead : e'.dead = e.dead.filter (fun l => !((r.fillLines c.op).map (fun l => 32 * r.gbase + l)).contains l) := hsw.dead
    refine ⟨fun j x _ _ => by rw [hsw.accAt]; rfl, hsw.buf, rfl, fun l hl => ?_, fun l hl => ?_⟩
    · simp [Engine.isFull, Engine.isDead, hfull, hdead, hl]
    · rw [hfull, List.mem_filter]
      exact and_iff_left (by simpa using hl)

end

end Sys2Proof.Machine
end

section
/-! SUPPORT. Plane loads and assists (spec/09 R203, R217). -/

namespace Sys2Proof.Machine

namespace Engine
variable {e : Engine} {n : Nat}

/-- A plane load changes only the planes. -/
theorem loadAhead_planes : e.loadAhead n = { e with planes := (e.loadAhead n).planes } := by
  unfold Engine.loadAhead
  simp only
  split
  · split <;> rfl
  · rfl

/-- Without a turn of the reservation they stay. -/
theorem loadAhead_of_not_oldest (h : e.oldestHead n = false) : e.loadAhead n = e := by
  unfold Engine.loadAhead
  simp only
  split
  · rw [h, Bool.and_false]
    rfl
  · rfl

/-- The tile that the head pass of the oldest waiting reservation needs is then in a plane. -/
theorem loadAhead_mem {c : Cmd} {sn tg t j i : Nat} {z : Bool} (hc : e.head n = some c) (hop : c.op = .pass sn tg t j z)
    (ho : e.oldestHead n = true) (hi : (e.resv n).atile = some i) : (n, (e.resv n).tag, i) ∈ (e.loadAhead n).planes := by
  have h : e.loadAhead n = e.usePlane n (e.resv n).tag i := by
    unfold Engine.loadAhead
    simp only [hc, hi, hop, ho]
    rfl
  exact h ▸ usePlane_mem _ _

end Engine

/-- An engine put in place changes nothing else. -/
theorem setEngine_frame (s : State) (cl : Nat) (e : Engine) : s.setEngine cl e = { s with clusters := (s.setEngine cl e).clusters } ∧
    ∀ j, j ≠ cl → (s.setEngine cl e).clusterAt j = s.clusterAt j := ⟨rfl, fun _ hj => setEngine_clusterAt_ne s e hj⟩

theorem exec_planeLoad (s : State) (cl n : Nat) : exec (.planeLoad cl n) s = .next (s.setEngine cl ((s.engineAt cl).loadAhead n)) := rfl
theorem exec_matrixAssist (s : State) (cl : Nat) :
    exec (.matrixAssist cl) s = .next (s.setEngine cl { s.engineAt cl with assists := (s.engineAt cl).assists.drop 1 }) := rfl

end Sys2Proof.Machine
end

section
/-! SUPPORT. An operand line in the buffer, and loads that leave memory as it was (spec/09 R206; spec/10 R213; spec/12 R274, R277). -/

namespace Sys2Proof.Machine

/-! ### Bytes in a row -/

/-- Bytes put in a row are read there, and the others as before. -/
theorem memGet_putBytes_row (bs : List Byte) : ∀ (m a : Nat) (mem : Mem) (x : Nat),
    memGet (putBytes (((List.range' m bs.length).zip bs).map (fun b => (a + b.1, b.2))) mem) x =
      if a + m ≤ x then (bs[x - (a + m)]?).getD (memGet mem x) else memGet mem x := by
  induction bs with
  | nil => intro m a mem x; simp [putBytes]
  | cons b bs ih =>
    intro m a mem x
    rw [List.length_cons, List.range'_succ, List.zip_cons_cons, List.map_cons]
    refine (ih (m + 1) a _ x).trans ?_
    rw [memGet_memSet]
    rcases Nat.lt_trichotomy x (a + m) with hx | rfl | hx
    · rw [if_neg (by omega), if_neg (by omega), if_neg (by omega)]
    · rw [if_neg (by omega), if_pos rfl, if_pos (by omega), Nat.sub_self]
      rfl
    · obtain ⟨i, rfl⟩ : ∃ i, x = a + m + (i + 1) := ⟨x - (a + m) - 1, by omega⟩
      rw [if_pos (by omega), if_neg (by omega), if_pos (by omega), show a + m + (i + 1) - (a + (m + 1)) = i by omega,
        Nat.add_sub_cancel_left, List.getElem?_cons_succ]

theorem memGet_putBytes_range (bs : List Byte) (a : Nat) (mem : Mem) (x : Nat) :
    memGet (putBytes (((List.range bs.length).zip bs).map (fun b => (a + b.1, b.2))) mem) x =
      if a ≤ x then (bs[x - a]?).getD (memGet mem x) else memGet mem x := by
  rw [List.range_eq_range']
  exact memGet_putBytes_row bs 0 a mem x

/-- Pieces of one length in a row: each place lies in one of them. -/
theorem getElem?_flatMap_const {α β : Type} {g : α → List β} {k : Nat} (hk : 0 < k) (hg : ∀ a, (g a).length = k) (i : Nat) (as : List α) :
    (as.flatMap g)[i]? = (as[i / k]?).bind (fun a => (g a)[i % k]?) := by
  induction as generalizing i with
  | nil => simp
  | cons a as ih =>
    rw [List.flatMap_cons, List.getElem?_append, hg a]
    by_cases h : i < k
    · simp [h, Nat.div_eq_of_lt h, Nat.mod_eq_of_lt h]
    · obtain ⟨j, rfl⟩ : ∃ j, i = j + k := ⟨i - k, by omega⟩
      rw [if_neg h, Nat.add_sub_cancel, ih, Nat.add_div_right _ hk, Nat.add_mod_right, List.getElem?_cons_succ]

theorem bytesOf_length (n : Nat) : ∀ x, (bytesOf x n).length = n := by
  induction n with
  | zero => exact fun _ => rfl
  | succ n ih => exact fun x => congrArg (· + 1) (ih (x / 256))

/-- The bytes of what is read at homes are the bytes there (R27). -/
theorem bytesOf_homeRead (s : State) (n : Nat) : ∀ (pa j : Nat), j < n → (bytesOf (s.homeRead pa n) n)[j]? = some (s.homeGet (pa + j)) := by
  induction n with
  | zero => intro _ _ h; omega
  | succ n ih =>
    intro pa j h
    have hb := (s.homeGet pa).isLt
    rw [State.homeRead, bytesOf]
    cases j with
    | zero =>
      rw [List.getElem?_cons_zero, show pa + 0 = pa from rfl]
      exact congrArg some (BitVec.eq_of_toNat_eq (by rw [BitVec.toNat_ofNat]; omega))
    | succ j =>
      rw [List.getElem?_cons_succ, show ((s.homeGet pa).toNat + 256 * s.homeRead (pa + 1) n) / 256 = s.homeRead (pa + 1) n by omega,
        ih (pa + 1) j (by omega), show pa + 1 + j = pa + (j + 1) by omega]

/-! ### A line of a fill -/

namespace Engine
variable {e : Engine} {n seq l off : Nat} {bs : List Byte}

theorem putLine_isFull : (e.putLine n seq l off bs).isFull (e.resv n) l = true := by
  show (if e.full.contains (32 * (e.resv n).gbase + l) then e.full else e.full ++ [32 * (e.resv n).gbase + l]).contains _ = true
  split
  · assumption
  · simp

theorem putLine_buf (x : Nat) : memGet (e.putLine n seq l off bs).buf x = if 4096 * (e.resv n).gbase + off ≤ x then
    (bs[x - (4096 * (e.resv n).gbase + off)]?).getD (memGet e.buf x) else memGet e.buf x := memGet_putBytes_range ..

theorem putLine_accAt : (e.putLine n seq l off bs).accAt = e.accAt := rfl
theorem NoneClosing.putLine (h : e.NoneClosing) : (e.putLine n seq l off bs).NoneClosing := by
  unfold Engine.putLine
  exact .mapCmd (.congr h rfl)

end Engine

/-! ### Loads leave every byte as it was -/

/-- Nothing but the directory, orders and placement differs, and each byte is at its home as it was. -/
structure HomeKept (s t : State) : Prop where
  clusters : t.clusters = s.clusters
  stands : t.stands = s.stands
  copses : t.copses = s.copses
  cores : t.cores = s.cores
  home : ∀ a, t.homeGet a = s.homeGet a

theorem HomeKept.refl (s : State) : HomeKept s s := ⟨rfl, rfl, rfl, rfl, fun _ => rfl⟩
theorem HomeKept.trans {s t u : State} (h : HomeKept s t) (h' : HomeKept t u) : HomeKept s u :=
  ⟨h'.clusters.trans h.clusters, h'.stands.trans h.stands, h'.copses.trans h.copses, h'.cores.trans h.cores,
    fun a => (h'.home a).trans (h.home a)⟩
theorem homeKept_ite {s t u : State} {c : Prop} [Decidable c] (ht : HomeKept s t) (hu : HomeKept s u) : HomeKept s (if c then t else u) := by
  split
  · exact ht
  · exact hu

theorem homeRead_congr {s t : State} (h : ∀ a, t.homeGet a = s.homeGet a) (n : Nat) : ∀ pa, t.homeRead pa n = s.homeRead pa n := by
  induction n with
  | zero => exact fun _ => rfl
  | succ n ih => exact fun pa => by rw [State.homeRead, State.homeRead, h, ih]

theorem HomeKept.sameMemory {s t : State} (h : HomeKept s t) : SameMemory s t := fun core pa => by
  simp only [byteSeen, State.coreView, State.l1At, State.coreAt, h.cores, h.home, homeRead_congr h.home]

theorem memGet_memBlock (m : Mem) (n line o : Nat) (ho : o < n) : memGet (memBlock m n line) o = memGet m (n * line + o) := by
  unfold memGet tget memBlock
  congr 1
  induction m with
  | nil => rfl
  | cons c m ih =>
    obtain ⟨a, b⟩ := c
    by_cases h : a = n * line + o
    · subst h
      have hdiv : (n * line + o) / n = line := by rw [Nat.mul_add_div (by omega), Nat.div_eq_of_lt ho, Nat.add_zero]
      simp [tfind, hdiv, Nat.mod_eq_of_lt ho]
    · rw [tfind, if_neg h, ← ih, List.filterMap_cons]
      by_cases hd : a / n = line
      · have hm : a % n ≠ o := fun hm => h (by rw [← hd, ← hm, Nat.div_add_mod])
        simp [hd, tfind, hm]
      · simp [hd]

theorem isWindow_line (line o : Nat) (ho : o < 128) : isWindow (128 * line + o) = isWindow (128 * line) := by
  have h : bits (128 * line + o) 47 44 = bits (128 * line) 47 44 := by simp only [bits]; omega
  simp only [isWindow, h]

/-- A directory entry that holds the bytes of the line's home in its copy. -/
def HoldsHome (s : State) (line : Nat) (d : Dir) : Prop := d.cached = true ∧ ∀ o, o < 128 → memGet d.bytes o = s.homeGet (128 * line + o)

theorem holdsHome_ite {s : State} {line : Nat} {d d' : Dir} {c : Prop} [Decidable c] (h : HoldsHome s line d) (h' : HoldsHome s line d') :
    HoldsHome s line (if c then d else d') := by
  split
  · exact h
  · exact h'

theorem HoldsHome.congr {s t : State} {line : Nat} {d : Dir} (h : HoldsHome s line d) (hk : HomeKept s t) : HoldsHome t line d :=
  ⟨h.1, fun o ho => (h.2 o ho).trans (hk.home _).symm⟩

/-- The copy with which a load finds its line has the home's bytes (R274). -/
theorem holdsHome_cached {s : State} (vi line : Nat) (hw : isWindow (128 * line) = false) : HoldsHome s line (s.cached vi line) := by
  have hdiv {o : Nat} (ho : o < 128) : (128 * line + o) / 128 = line ∧ (128 * line + o) % 128 = o := by omega
  unfold State.cached
  simp only
  by_cases hc : (s.dirAt line).cached = true
  · rw [if_pos hc]
    exact ⟨hc, fun o ho => by simp only [State.homeGet, hdiv ho, hc, if_true]⟩
  · rw [if_neg hc]
    refine ⟨rfl, fun o ho => ?_⟩
    simp only [State.homeGet, hdiv ho, hc, isWindow_line line o ho, hw]
    exact memGet_memBlock _ _ _ _ ho

theorem homeKept_setDir {s : State} {line : Nat} {d : Dir} (h : HoldsHome s line d) : HomeKept s (s.setDir line d) := by
  refine ⟨rfl, rfl, rfl, rfl, fun a => ?_⟩
  by_cases ha : a / 128 = line
  · have hb := h.2 (a % 128) (Nat.mod_lt _ (by omega))
    rw [← ha, Nat.div_add_mod] at hb
    rw [State.homeGet, ha, setDir_dirAt, if_pos h.1, hb]
  · unfold State.homeGet
    simp only [setDir_dirAt_ne _ _ _ ha]
    rfl

theorem homeKept_request (s : State) (line field : Nat) (stream : Bool) : HomeKept s (s.request line field stream) := by
  unfold State.request
  simp only
  split
  · next hc =>
    have hd : HoldsHome s line ((s.dirAt line).request s.placement.clock field stream) := by
      unfold Dir.request
      refine holdsHome_ite ⟨hc, fun o ho => ?_⟩ ⟨hc, fun o ho => ?_⟩ <;>
        simp only [State.homeGet, show (128 * line + o) / 128 = line by omega, hc, if_true, show (128 * line + o) % 128 = o by omega]
    exact (homeKept_setDir hd).trans ⟨rfl, rfl, rfl, rfl, fun _ => rfl⟩
  · exact .refl s

theorem homeKept_forget (s : State) (line : Nat) : HomeKept s (s.forget line) := by
  unfold State.forget
  exact homeKept_ite (.refl s) ⟨rfl, rfl, rfl, rfl, fun _ => rfl⟩

/-- A load of a line that is no window's changes no byte (R277). -/
theorem homeKept_noteLoad (s : State) (vi core line : Nat) (ph : BitVec 2) (hw : isWindow (128 * line) = false) :
    HomeKept s (s.noteLoad vi core line ph) := by
  have hpinned (b : Bool) (p : List Nat) :
      HoldsHome s line (if b then { s.cached vi line with pins := p } else s.cached vi line) :=
    have h := holdsHome_cached vi line hw
    holdsHome_ite (d := { s.cached vi line with pins := p }) h h
  have hused (b : Bool) (u : Tbl Nat) {d : Dir} (h : HoldsHome s line d) : HoldsHome s line (if b then { d with repUsed := u } else d) :=
    holdsHome_ite (d := { d with repUsed := u }) h h
  have hfirst {d : Dir} (p : Option (Nat × Nat)) (h : HoldsHome s line d) : HoldsHome s line { d with firstLoad := p } := h
  have hreplica {d : Dir} (p : Tbl Mem) (u : Tbl Nat) (h : HoldsHome s line d) :
      HoldsHome s line { d with replicas := p, firstLoad := none, repUsed := u } := h
  refine .trans (homeKept_ite (homeKept_setDir (hused _ _ (hpinned _ _)))
    (homeKept_ite ?_ (homeKept_setDir (hfirst _ (hused _ _ (hpinned _ _)))))) (homeKept_request ..)
  exact (homeKept_ite (homeKept_forget s line) (.refl s)).trans
    (homeKept_setDir ((hreplica _ _ (hused _ _ (hpinned _ _))).congr (homeKept_ite (homeKept_forget s line) (.refl s))))

/-- So do loads of several. -/
theorem homeKept_loads (vi core : Nat) : ∀ (lines : List Nat) (s : State),
    HomeKept s (lines.foldl (fun s line => if isWindow (128 * line) then s else s.noteLoad vi core line 0) s)
  | [], s => .refl s
  | line :: lines, s => by
    refine .trans ?_ (homeKept_loads vi core lines _)
    beta_reduce
    split
    · exact .refl s
    · next hw => exact homeKept_noteLoad s vi core line 0 (by simpa using hw)

end Sys2Proof.Machine
end

section
/-! SUPPORT. The arrival of operand lines from scratchpad and from global memory (spec/10 R213, R228, R229), and the engine's obligation. -/

namespace Sys2Proof.Machine

/-! ### First touches leave bytes and full bits (R261) -/

/-- Of the machine only the copses differ, and a copse's bytes and the full bits and marks of its lines are as before. -/
structure TouchKept (copse : Nat) (s t : State) : Prop where
  rest : t = { s with copses := t.copses }
  scratch : (t.copseAt copse).scratch = (s.copseAt copse).scratch
  lines : ∀ l, ((t.copseAt copse).lineAt l).full = ((s.copseAt copse).lineAt l).full ∧ ((t.copseAt copse).lineAt l).bm = ((s.copseAt copse).lineAt l).bm

theorem TouchKept.refl (copse : Nat) (s : State) : TouchKept copse s s := ⟨rfl, rfl, fun _ => ⟨rfl, rfl⟩⟩
theorem TouchKept.trans {copse : Nat} {s t u : State} (h : TouchKept copse s t) (h' : TouchKept copse t u) : TouchKept copse s u := by
  refine ⟨?_, h'.scratch.trans h.scratch, fun l => ⟨(h'.lines l).1.trans (h.lines l).1, (h'.lines l).2.trans (h.lines l).2⟩⟩
  rw [h'.rest, h.rest]

theorem touchKept_touchLine (s : State) (copse l : Nat) : TouchKept copse s (s.touchLine copse l) := by
  unfold State.touchLine
  simp only
  split
  · exact .refl copse s
  · refine ⟨rfl, by rw [setCopse_copseAt]; rfl, fun l' => ?_⟩
    rw [setCopse_copseAt]
    simp only [Copse.lineAt, Copse.setLine, tget_tset]
    split
    · next h => rw [h]; exact ⟨rfl, rfl⟩
    · exact ⟨rfl, rfl⟩

theorem touchKept_touchLines (copse : Nat) : ∀ (ls : List Nat) (s : State), TouchKept copse s (s.touchLines copse ls)
  | [], s => .refl copse s
  | l :: ls, s => (touchKept_touchLine s copse l).trans (touchKept_touchLines copse ls _)

theorem TouchKept.sameMemory {copse : Nat} {s t : State} (h : TouchKept copse s t) : SameMemory s t := by
  rw [h.rest]
  exact sameMemory_of_parts (fun _ => rfl) rfl rfl rfl

/-! ### A line that arrives -/

/-- A line of a fill has arrived: it is full and its bytes are those of a source, by their offset in the fill; nothing else that stands or
memory see is different. -/
def LineArrives (s : State) (cl n : Nat) (c : Cmd) (src : Nat → Nat → Byte) : Prop :=
  let e := s.engineAt cl
  let r := e.resv n
  ∃ t l, exec (.operandLineArrive cl n) s = .next t ∧ l ∈ c.todo ∧
    let e' := t.engineAt cl
    let y := lineSpan (r.fillSpan c.op).1 (r.fillSpan c.op).2 l
    e'.isFull r l = true ∧ (∀ i, i < y.2.2 → memGet e'.buf (4096 * r.gbase + y.2.1 + i) = src y.1 i) ∧
    (∀ a, a < 4096 * r.gbase + y.2.1 ∨ 4096 * r.gbase + y.2.1 + y.2.2 ≤ a → memGet e'.buf a = memGet e.buf a) ∧
    (∀ j y, y < 4096 → e'.accAt j y = e.accAt j y) ∧ SameMemory s t ∧ t.stands = s.stands ∧
    (t.copseAt (copseOf c.stand)).scratch = (s.copseAt (copseOf c.stand)).scratch

/-- It has arrived once it is put in the buffer. -/
theorem lineArrives_of_putLine {s u : State} {cl n l : Nat} {c : Cmd} {y : Nat × Nat × Nat} {bs : List Byte} {src : Nat → Nat → Byte}
    (hno : (s.engineAt cl).NoneClosing) (hl : l ∈ c.todo) (hmem : SameMemory s u) (hst : u.stands = s.stands)
    (hsc : (u.copseAt (copseOf c.stand)).scratch = (s.copseAt (copseOf c.stand)).scratch)
    (hy : lineSpan (((s.engineAt cl).resv n).fillSpan c.op).1 (((s.engineAt cl).resv n).fillSpan c.op).2 l = y)
    (hop : s.operandLine cl n = u.setEngine cl ((s.engineAt cl).putLine n c.seq l y.2.1 bs)) (hlen : bs.length = y.2.2)
    (hsrc : ∀ i, i < y.2.2 → bs[i]? = some (src y.1 i)) : LineArrives s cl n c src := by
  subst hy
  obtain ⟨hsw, hrest, -⟩ := sweep_setEngine u cl n _ (hno.putLine (n := n) (seq := c.seq) (l := l) (bs := bs))
  refine ⟨_, l, congrArg (fun t => Host.Outcome.next (State.sweep t cl n)) hop, hl, ?_, fun i hi => ?_, fun a ha => ?_, fun j x _ => ?_, ?_, ?_, ?_⟩
  · rw [hsw.isFull]
    exact Engine.putLine_isFull
  · rw [hsw.buf, Engine.putLine_buf, if_pos (Nat.le_add_right ..), Nat.add_sub_cancel_left, hsrc i hi]
    rfl
  · rw [hsw.buf, Engine.putLine_buf]
    split
    · rw [List.getElem?_eq_none (by omega)]
      rfl
    · rfl
  · rw [hsw.accAt, Engine.putLine_accAt]
  · rw [hrest]
    exact hmem.trans (sameMemory_of_parts (fun _ => rfl) rfl rfl rfl)
  · rw [hrest]
    exact hst
  · rw [hrest]
    exact hsc

/-! ### From scratchpad (R229) -/

section
variable {s : State} {cl n : Nat} {c : Cmd}

/-- A line whose scratchpad lines are full, unmarked and as they were at acceptance takes their bytes. -/
theorem fillFromScratch_puts {src l : Nat} {y : Nat × Nat × Nat}
    (hy : lineSpan (((s.engineAt cl).resv n).fillSpan c.op).1 (((s.engineAt cl).resv n).fillSpan c.op).2 l = y) :
    let cp := s.copseAt (copseOf c.stand)
    (∀ q ∈ linesOf (src + y.1) y.2.2, (cp.lineAt q).bm = false ∧ (cp.lineAt q).full = true) →
    (∀ i, i < y.2.2 → ∀ m, tfind ((src + y.1 + i) / 128) c.snap = some m →
      memGet m ((src + y.1 + i) % 128) = memGet cp.scratch (src + y.1 + i)) →
    s.fillFromScratch cl n c src l = (s.touchLines (copseOf c.stand) (linesOf (src + y.1) y.2.2)).bump.setEngine cl
      ((s.engineAt cl).putLine n c.seq l y.2.1 ((List.range y.2.2).map (fun i => memGet cp.scratch (src + y.1 + i)))) := by
  intro cp hlines hsnap
  have ht := touchKept_touchLines (copseOf c.stand) (linesOf (src + y.1) y.2.2) s
  unfold State.fillFromScratch
  simp only [hy]
  generalize hu : s.touchLines (copseOf c.stand) (linesOf (src + y.1) y.2.2) = u at ht
  have hfind : (linesOf (src + y.1) y.2.2).find? (fun q => ((u.copseAt (copseOf c.stand)).lineAt q).bm ||
      (!((u.copseAt (copseOf c.stand)).lineAt q).full && ((u.copseAt (copseOf c.stand)).lineAt q).filler == none)) = none := by
    refine List.find?_eq_none.mpr fun q hq => ?_
    obtain ⟨hbm, hfull⟩ := hlines q hq
    simp [(ht.lines q).1, (ht.lines q).2, cp, hbm, hfull]
  have hfull : (u.copseAt (copseOf c.stand)).linesFull (linesOf (src + y.1) y.2.2) = true :=
    List.all_eq_true.mpr fun q hq => (ht.lines q).1.trans (hlines q hq).2
  have hbytes : (List.range y.2.2).map (fun i => u.snapByte (copseOf c.stand) c.snap (src + y.1 + i)) =
      (List.range y.2.2).map (fun i => memGet cp.scratch (src + y.1 + i)) := by
    refine List.map_congr_left fun i hi => ?_
    unfold State.snapByte
    simp only [ht.scratch]
    split
    · rfl
    · next m hm => exact if_pos (hsnap i (List.mem_range.mp hi) m hm)
  have heng : u.engineAt cl = s.engineAt cl := by rw [ht.rest]; rfl
  rw [hfind]
  simp only [hfull, hbytes, heng]
  rfl

/-! ### From global memory (R213) -/

/-- Chunks that all translate: each has its physical address. -/
theorem chunksXlate_ok {s : State} {copse : Nat} : ∀ {vas ps : List Nat}, (s.chunksXlate copse vas).1 = .ok ps →
    List.Forall₂ (fun va pa => ∃ leaf, s.xlate copse .read va = .ok (pa, leaf)) vas ps
  | [], ps, h => by
    cases h
    exact .nil
  | va :: vas, ps, h => by
    unfold State.chunksXlate at h
    cases hx : s.xlate copse .read va with
    | fault cause =>
      rw [hx] at h
      cases h
    | ok x =>
      obtain ⟨pa, leaf⟩ := x
      rw [hx] at h
      simp only at h
      split at h
      · next qs _ hqs =>
        cases h
        exact .cons ⟨leaf, hx⟩ (chunksXlate_ok (congrArg Prod.fst hqs))
      · next hne =>
        cases hr : s.chunksXlate copse vas with
        | mk r m =>
          rw [hr] at h
          exact absurd (by rw [hr, show r = .ok ps from h]) (hne ps m)

/-- The state in which a fetch reads its lines at their homes. -/
def fetched (s : State) (copse : Nat) (ps : List Nat) : State :=
  (distinct (ps.map (fun pa => pa / 128))).foldl
    (fun t line => if isWindow (128 * line) then t else t.noteLoad (s.copseAt copse).vi (s.copseAt copse).core line 0) s

/-- A line that translates, meets no staged update and waits for no copy is read at its homes. -/
theorem fillFromGlobal_puts {d first l : Nat} {y : Nat × Nat × Nat} {ps : List Nat}
    (hy : lineSpan (((s.engineAt cl).resv n).fillSpan c.op).1 (((s.engineAt cl).resv n).fillSpan c.op).2 l = y)
    (hps : (s.chunksXlate (copseOf c.stand) (descChunks d y.1 y.2.2)).1 = .ok ps) (hst : ∀ pa ∈ ps, s.stagedLine (pa / 128) = false)
    (hcopy : s.copyAhead (copseOf c.stand) c (descChunks d y.1 y.2.2) = false) :
    s.fillFromGlobal cl n c d first l = (fetched s (copseOf c.stand) ps).setEngine cl ((s.engineAt cl).putLine n c.seq l y.2.1
      (ps.flatMap (fun pa => bytesOf ((fetched s (copseOf c.stand) ps).homeRead pa 16) 16))) := by
  have hx : s.chunksXlate (copseOf c.stand) (descChunks d y.1 y.2.2) = (.ok ps, (s.chunksXlate (copseOf c.stand) (descChunks d y.1 y.2.2)).2) :=
    Prod.ext hps rfl
  have hstaged : ps.any (fun pa => s.stagedLine (pa / 128)) = false := by simpa using hst
  have heng : (fetched s (copseOf c.stand) ps).engineAt cl = s.engineAt cl := by
    have hk : HomeKept s (fetched s (copseOf c.stand) ps) := homeKept_loads ..
    rw [State.engineAt, State.clusterAt, hk.clusters]
    rfl
  rw [← heng]
  unfold State.fillFromGlobal
  simp only [hy]
  rw [hx]
  simp only [hstaged, hcopy]
  rfl

/-- The bytes that it takes are those of its addresses, chunk by chunk (R327). -/
theorem fetched_bytes {t u : State} {d x k : Nat} {ps : List Nat} (hk : k % 16 = 0) (hhome : ∀ a, t.homeGet a = u.homeGet a) {copse : Nat}
    (hps : (s.chunksXlate copse (descChunks d x k)).1 = .ok ps) : let bs := ps.flatMap (fun pa => bytesOf (t.homeRead pa 16) 16)
    bs.length = k ∧ ∀ i, i < k → bs[i]? = some (match s.xlate copse .read (descAddr d (x + i / 16 * 16)) with
      | .ok (pa, _) => u.homeGet (pa + i % 16)
      | .fault _ => 0) := by
  intro bs
  have hall := chunksXlate_ok hps
  have hlen : ps.length = k / 16 := by
    rw [← hall.length_eq, descChunks, List.length_map, List.length_range]
  constructor
  · rw [List.length_flatMap]
    simp only [bytesOf_length, List.map_const', List.sum_replicate_nat, hlen]
    omega
  · intro i hi
    obtain ⟨leaf, hx⟩ := hall.get (i := i / 16) (by simp [descChunks]; omega) (by omega)
    simp only [List.get_eq_getElem, descChunks, List.getElem_map, List.getElem_range] at hx
    rw [getElem?_flatMap_const (by omega) (fun pa => bytesOf_length 16 _), List.getElem?_eq_getElem (by omega : i / 16 < ps.length),
      Option.bind_some, bytesOf_homeRead t 16 _ _ (Nat.mod_lt _ (by omega)), Nat.mul_comm (i / 16), hx, hhome]

/-! ### The line that comes next -/

/-- The lines that may come next are lines still to come, and there is one while there are any. -/
theorem nextLines_spec (r : Resv) (c : Cmd) (h : c.todo ≠ []) : r.nextLines c ≠ [] ∧ ∀ l ∈ r.nextLines c, l ∈ c.todo := by
  unfold Resv.nextLines
  simp only
  split
  · obtain ⟨p, hp, hmem, -⟩ := lowest_spec (mt List.map_eq_nil_iff.mp h)
    rw [hp]
    obtain ⟨l, hl, hpage⟩ := List.mem_map.mp hmem
    exact ⟨List.ne_nil_of_mem (List.mem_filter.mpr ⟨hl, beq_iff_eq.mpr hpage⟩), fun l hl => (List.mem_filter.mp hl).1⟩
  · exact ⟨by simpa using h, fun l hl => List.mem_of_mem_take hl⟩

/-- The state in which the next line of a fill is chosen: with more than one candidate a free choice is used up. -/
def choiceMade (s : State) (ls : List Nat) : State := if ls.length ≤ 1 then s else s.bump

/-- The first fill under way of a resident copse takes one of its next lines. -/
theorem operandLine_takes (hfind : ((s.engineAt cl).resv n).queue.find?
      (fun c => ((s.engineAt cl).resv n).fillLines c.op != [] && c.phase != .waiting && c.phase != .complete) = some c)
    (hphase : c.phase = .granted) (hlife : (s.copseAt (copseOf c.stand)).life = .resident) (htodo : c.todo ≠ []) :
    let ls := ((s.engineAt cl).resv n).nextLines c
    ∃ l ∈ ls, s.operandLine cl n = match c.op with
      | .fillS _ src _ _ => (choiceMade s ls).fillFromScratch cl n c src l
      | .fillG _ _ _ d => (choiceMade s ls).fillFromGlobal cl n c d.toNat ((lowest ls).getD l) l
      | _ => choiceMade s ls := by
  intro ls
  have hpos : 0 < ls.length := List.length_pos_iff.mpr (nextLines_spec ((s.engineAt cl).resv n) c htodo).1
  have hop : s.operandLine cl n =
      let (j, t) := if ls.length ≤ 1 then (0, s) else s.pick ls.length
      let l := (ls[j]?).getD 0
      match c.op with
      | .fillS _ src _ _ => t.fillFromScratch cl n c src l
      | .fillG _ _ _ d => t.fillFromGlobal cl n c d.toNat ((lowest ls).getD l) l
      | _ => t := by
    unfold State.operandLine
    simp only [hfind, hlife, hphase] <;> rfl
  rw [hop]
  unfold choiceMade
  by_cases hone : ls.length ≤ 1
  · refine ⟨ls[0], List.getElem_mem hpos, ?_⟩
    simp only [hone, if_true, List.getElem?_eq_getElem hpos, Option.getD_some]
  · have hj : Config.freeNat s.free % ls.length < ls.length := Nat.mod_lt _ hpos
    refine ⟨ls[Config.freeNat s.free % ls.length], List.getElem_mem hj, ?_⟩
    simp only [hone, if_false, State.pick, List.getElem?_eq_getElem hj, Option.getD_some]
    rfl

end

/-! ### Fills in the buffer -/

section
variable {s : State} {cl n : Nat} {c : Cmd} (hfind : ((s.engineAt cl).resv n).queue.find?
    (fun c => ((s.engineAt cl).resv n).fillLines c.op != [] && c.phase != .waiting && c.phase != .complete) = some c)
  (hphase : c.phase = .granted) (hlife : (s.copseAt (copseOf c.stand)).life = .resident) (hno : (s.engineAt cl).NoneClosing) (htodo : c.todo ≠ [])
include hfind hphase hlife hno htodo

/-- A fill from scratchpad takes its next line (R229). -/
theorem lineArrives_fillS {p : BitVec 2} {src first cnt : Nat} (hop : c.op = .fillS p src first cnt) :
    let cp := s.copseAt (copseOf c.stand)
    let span := ((s.engineAt cl).resv n).fillSpan c.op
    (∀ l ∈ c.todo.take 1, let y := lineSpan span.1 span.2 l
      (∀ q ∈ linesOf (src + y.1) y.2.2, (cp.lineAt q).bm = false ∧ (cp.lineAt q).full = true) ∧
      ∀ i, i < y.2.2 → ∀ m, tfind ((src + y.1 + i) / 128) c.snap = some m →
        memGet m ((src + y.1 + i) % 128) = memGet cp.scratch (src + y.1 + i)) →
    LineArrives s cl n c (fun x i => memGet cp.scratch (src + x + i)) := by
  intro cp span h
  have hnext : ((s.engineAt cl).resv n).nextLines c = c.todo.take 1 := by simp only [Resv.nextLines, hop]
  obtain ⟨l, hl, htake⟩ := operandLine_takes hfind hphase hlife htodo
  have hone : choiceMade s (c.todo.take 1) = s := if_pos (List.length_take_le 1 c.todo)
  rw [hnext] at hl htake
  simp only [hop, hone] at htake
  obtain ⟨hlines, hsnap⟩ := h l hl
  have ht := touchKept_touchLines (copseOf c.stand) (linesOf (src + (lineSpan span.1 span.2 l).1) (lineSpan span.1 span.2 l).2.2) s
  refine lineArrives_of_putLine (u := State.bump _) hno (List.mem_of_mem_take hl) ht.sameMemory ?_ ht.scratch rfl
    (htake.trans (fillFromScratch_puts rfl hlines hsnap)) ?_ fun i hi => ?_
  · rw [ht.rest]
    rfl
  · rw [List.length_map, List.length_range]
  · rw [List.getElem?_map, List.getElem?_range hi]
    rfl

/-- A fill from global memory takes one of its next lines (R213, R327). -/
theorem lineArrives_fillG {p : BitVec 2} {first cnt : Nat} {d : BitVec 128} (hop : c.op = .fillG p first cnt d) :
    let span := ((s.engineAt cl).resv n).fillSpan c.op
    let v := choiceMade s (((s.engineAt cl).resv n).nextLines c)
    (∀ l ∈ c.todo, let y := lineSpan span.1 span.2 l
      y.2.2 % 16 = 0 ∧ ∃ ps, (v.chunksXlate (copseOf c.stand) (descChunks d.toNat y.1 y.2.2)).1 = .ok ps ∧
        (∀ pa ∈ ps, s.stagedLine (pa / 128) = false) ∧ s.copyAhead (copseOf c.stand) c (descChunks d.toNat y.1 y.2.2) = false) →
    LineArrives s cl n c (fun x i => match v.xlate (copseOf c.stand) .read (descAddr d.toNat (x + i / 16 * 16)) with
      | .ok (pa, _) => s.homeGet (pa + i % 16)
      | .fault _ => 0) := by
  intro span v h
  obtain ⟨l, hl, htake⟩ := operandLine_takes hfind hphase hlife htodo
  simp only [hop] at htake
  have hmem := (nextLines_spec _ c htodo).2 l hl
  obtain ⟨hk, ps, hps, hstaged, hcopy⟩ := h l hmem
  have hv : HomeKept s v := homeKept_ite (.refl s) ⟨rfl, rfl, rfl, rfl, fun _ => rfl⟩
  have hkept : HomeKept s (fetched v (copseOf c.stand) ps) := hv.trans (homeKept_loads ..)
  have heng : v.engineAt cl = s.engineAt cl := by
    rw [State.engineAt, State.clusterAt, hv.clusters]
    rfl
  have hdir : (∀ pa ∈ ps, v.stagedLine (pa / 128) = false) ∧
      v.copyAhead (copseOf c.stand) c (descChunks d.toNat (lineSpan span.1 span.2 l).1 (lineSpan span.1 span.2 l).2.2) = false := by
    have hb : v = s ∨ v = s.bump := ite_eq_or_eq ..
    rcases hb with hb | hb <;> rw [hb] <;> exact ⟨hstaged, hcopy⟩
  obtain ⟨hlen, hbytes⟩ := fetched_bytes hk hkept.home hps
  refine lineArrives_of_putLine hno hmem hkept.sameMemory hkept.stands ?_ rfl ?_ hlen hbytes
  · rw [State.copseAt, hkept.copses]
    rfl
  · rw [htake, fillFromGlobal_puts (by rw [heng]) hps hdir.1 hdir.2, heng]

end

/-- Settles O39: the arbiter's choice is `mayGrant_iff` and each command's effect its `grant_…_runs`; lines arrive by `lineArrives_fillS` and
`lineArrives_fillG`. -/
theorem engineRunsCommandsInOrder : Obligations.EngineRunsCommandsInOrder := by
  unfold Obligations.EngineRunsCommandsInOrder
  refine ⟨fun cl n c s => ?_, fun cl n s => ⟨?_, ?_⟩, fun cl n c s => ?_⟩
  · intro e r hhead _ hno runs keep first
    refine ⟨fun hfirst => commandGrant_idle (mt (mayGrant_iff hhead).mp hfirst), fun hfirst => ?_⟩
    have hmay := (mayGrant_iff hhead).mpr hfirst
    have hready := hfirst.1
    exact ⟨fun hop => grant_swap_runs hmay hhead hready hno hop,
      fun i hop => grant_load_runs hmay hhead hready hno hop,
      fun m hop => grant_zero_runs hmay hhead hready hno hop,
      fun sn tg t0 j z hop => ⟨fun halive => grant_pass_runs hmay hhead hready hno hop halive,
        fun hdead => grant_pass_withdrawn hmay hhead hready hno hop hdead⟩,
      fun dest d add satx za base row0 rows stride ch j m hop hrows => grant_drain_runs hmay hhead hready hno hop hrows,
      fun hl => grant_fill_runs hmay hhead hready hno hl⟩
  · obtain ⟨hrest, hother⟩ := setEngine_frame s cl ((s.engineAt cl).loadAhead n)
    refine ⟨_, _, exec_planeLoad s cl n, hrest, (setEngine_engineAt ..).trans Engine.loadAhead_planes, hother, fun ho => ?_, ?_⟩
    · rw [Engine.loadAhead_of_not_oldest ho]
    · exact fun c sn tg t0 j z i hc hop ho hi => Engine.loadAhead_mem hc hop ho hi
  · exact ⟨_, exec_matrixAssist s cl, (setEngine_frame ..).1, setEngine_engineAt .., (setEngine_frame s cl _).2⟩
  · intro e r copse cp span hfind hphase hlife hno htodo arrives
    exact ⟨fun p src first cnt hop h => lineArrives_fillS hfind hphase hlife hno htodo hop h,
      fun p first cnt d hop => lineArrives_fillG hfind hphase hlife hno htodo hop⟩

end Sys2Proof.Machine
end

section
/-! SUPPORT. A scratchpad load that leaves a line untouched (spec/11 R261, spec/14 R318): the refutation of O31. -/

namespace Sys2Proof.Machine

/-! ### First touches of a copse that the table lists twice -/

/-- An `ld.s` word: one 32-bit element for each thread, from the offset that the thread has in v2 into v0. -/
def scatteredLoad : M96 := ⟨⟨false, 7, false, .heart 0 0⟩, ⟨0, false, false, false⟩, ⟨2, false, false, false⟩, 0, 6, 0, 0, 0, 0, 0⟩

/-- An empty line of region 0 that nobody has touched. -/
def unfilledLine : LineSt := ⟨false, false, false, some .region, 1, 0⟩

/-- A copse whose lines 0 and 1 are untouched, with 127 requests in the queue of its copy engine: the fills of the lines behind them. -/
def busyCopse : Copse :=
  { Copse.init with
    life := .resident
    kind := .heart
    alloc := 129
    lines := [(0, unfilledLine), (1, unfilledLine)]
    regions := [(0, ⟨0, 16512, 0, 0, 0⟩)]
    fills := (List.range 127).map (fun i => ⟨i + 2, none, none, []⟩) }

/-- A machine whose table of copses lists copse 0 twice. Its one stand is about to issue, its threads 0 and 1 with the offsets 0 and 128. The
statement asks nothing of the tables of its state, so it speaks of this one too. -/
def twiceResident : State :=
  { State.reset with
    copses := [(0, busyCopse), (0, busyCopse)]
    stands := [(0, { Stand.init with life := .live, place := .inClause, a := 3, v := [(128 * 2 + 1, 128)] })] }

theorem scatteredLoad_acts : Acts twiceResident (.ldS scatteredLoad) := by
  refine ⟨⟨?canIssue, ?legal, ?unblocked, ?ownChannels, ?room⟩, fun huniform => ?guard⟩
  case guard => cases huniform
  all_goals decide +kernel

/-- By the sum over the table, the engine has room for two requests: it counts 254 of 256. -/
theorem twiceResident_hasRoom : twiceResident.engineRoom 0 2 = true := by decide +kernel

/-- The fill of line 0 is counted once for each entry of the table and takes all of that room, so line 1 raises none. -/
theorem scatteredLoad_leavesUntouched :
    ((twiceResident.issueWord (.ldS scatteredLoad) (formLdS scatteredLoad) (bodyLdS scatteredLoad)).myCopse.lineAt 1) = unfilledLine := by
  decide +kernel

/-- Refutes O31: the engine's load is a sum over the entries of the table of copses, and a first touch raises one fill, of the copse's first
entry. Where the table lists the copse twice (`twiceResident`), one fill raises the load by two, and of two lines that an `ld.s` meets the second
finds no room and stays untouched, against the clause that every line has been touched where the engine had room for as many requests. -/
theorem not_scratchpadLoadsAndStores : ¬ Obligations.ScratchpadLoadsAndStores := by
  unfold Obligations.ScratchpadLoadsAndStores
  intro hall
  obtain ⟨hload, -⟩ := hall scatteredLoad twiceResident
  obtain ⟨-, hwaits, -⟩ := hload scatteredLoad_acts
  obtain ⟨t, ⟨hexec, -⟩, -, -, htouched⟩ := hwaits (by decide +kernel) (by decide +kernel)
  obtain rfl : twiceResident.issueWord _ (formLdS scatteredLoad) (bodyLdS scatteredLoad) = t := Host.Outcome.next.inj hexec
  have hline := htouched 1 (by decide +kernel)
  rw [scatteredLoad_leavesUntouched] at hline
  obtain htouch | hregion | hroom := hline
  · cases htouch
  · cases hregion
  · exact absurd (twiceResident_hasRoom.symm.trans hroom) (by decide)

end Sys2Proof.Machine
end

section
/-! SUPPORT. A write-back in the name of a stand of another copse (spec/11 R262): the refutation of O33. -/

namespace Sys2Proof.Machine

/-- Line 0 of region 0, with its first byte dirty. -/
def dirtyRegionLine : LineSt := ⟨true, false, true, none, 1, 1⟩

/-- The write-back of line 0 in the name of stand 16, which is a stand of copse 1. -/
def strangeWriteBack : Fill := ⟨0, some 16, none, []⟩

/-- A copse on core 4 under maintenance, so that its addresses are physical, with one dirty line of a region with mask CO. -/
def strangerCopse : Copse :=
  { Copse.init with
    life := .resident
    core := 4
    maint := true
    alloc := 1
    scratch := [(0, 7)]
    lines := [(0, dirtyRegionLine)]
    regions := [(0, ⟨0, 128, 0, 0, 0⟩)]
    fills := [strangeWriteBack] }

/-- A machine of that copse alone: copse 1, of stand 16, reads as being on core 0. The statement asks nothing of the stand that a write-back is
for, so it speaks of this one too. -/
def strangerWritesBack : State := { State.reset with copses := [(0, strangerCopse)] }

/-- The store goes to the L1 of the stand's core, and core 4 still sees the zero of the home. -/
theorem strangerWritesBack_unseen : byteSeen (strangerWritesBack.regionWb 0 0) 4 0 = 0 := by decide +kernel

theorem strangerWritesBack_settled : Settled strangerWritesBack 4 0 := by
  refine ⟨fun c _ l hl => ?away, fun r hr => ?replicas, fun hwindow => ?window⟩
  case away => cases hl
  case replicas => cases hr
  case window => exact absurd hwindow (by decide)

/-- Refutes O33: a write-back is a store of the stand that its fill names, so its bytes go to the L1 of that stand's core. Where the fill names
a stand of a copse on another core (`strangerWritesBack`), the core of the copse does not see them, against the clause that it does. -/
theorem not_regionLinesFillAndWriteBack : ¬ Obligations.RegionLinesFillAndWriteBack := by
  unfold Obligations.RegionLinesFillAndWriteBack
  intro hall
  obtain ⟨-, hwriteBack⟩ := hall 0 0 strangerWritesBack strangeWriteBack 0 ⟨0, 128, 0, 0, 0⟩ rfl rfl rfl
  obtain ⟨htranslated, -⟩ := hwriteBack 16 rfl rfl
  obtain ⟨-, hsettled, -⟩ := htranslated 0 maintLeaf rfl
  obtain ⟨t, hexec, -, -, -, -, hput, -⟩ := hsettled rfl rfl strangerWritesBack_settled (fun j hj => by cases hj)
  obtain rfl : strangerWritesBack.regionWb 0 0 = t := Host.Outcome.next.inj hexec
  have hseen := hput 0 ⟨rfl, rfl⟩
  rw [show (strangerWritesBack.copseAt 0).core = 4 from rfl, strangerWritesBack_unseen] at hseen
  exact absurd hseen (by decide)

end Sys2Proof.Machine
end

section
/-! SUPPORT. An eviction of a home copy with bytes beyond its line (spec/12 R277): the refutation of O35. -/

namespace Sys2Proof.Machine

/-- A dirty home copy in bank 0 with a byte at offset 200, where a line ends at 128. -/
def overlongCopy : Dir := { Dir.init with cached := true, dirty := true, bytes := [(200, 7)] }

/-- A machine with that copy of line 0 alone. The clause on the other lines of the frames asks nothing of the bytes of the copy, so it speaks of
this one too. -/
def overlongCached : State := { State.reset with dir := [(0, overlongCopy)] }

/-- Nothing of its bank goes before the copy, so it is evicted, and its byte goes into the frame of line 1. -/
theorem overlongCached_spills : memGet (overlongCached.evictLine 0 none).frames 200 = 7 := by decide +kernel

/-- Refutes O35: a dirty home copy that is evicted is written to its frame byte by byte, at the line's address and the byte's offset. Where the
directory lists a byte of the copy at an offset beyond the line (`overlongCached`), the frame of another line changes, against the clause
that the frames of other lines are as before. -/
theorem not_placementQueriesAndMoves : ¬ Obligations.PlacementQueriesAndMoves := by
  unfold Obligations.PlacementQueriesAndMoves
  rintro ⟨-, -, -, -, hevict, -⟩
  obtain ⟨-, hgoes, -⟩ := hevict 0 overlongCached
  obtain ⟨t, hexec, -, -, -, hothers⟩ := hgoes ⟨rfl, rfl, by decide +kernel⟩
  obtain rfl : overlongCached.evictLine 0 none = t := Host.Outcome.next.inj hexec
  have hkept := hothers 200 (by decide)
  rw [overlongCached_spills] at hkept
  exact absurd hkept (by decide)

end Sys2Proof.Machine
end

section
/-! SUPPORT. A function-level reset over a directory that lists a line twice (spec/19 R449): the refutation of O57. -/

namespace Sys2Proof.Machine

/-- Interface 0, whose domain's set in force has slice 0. -/
def sliceZeroVi : Vi := { Vi.init with dom := { Vi.init.dom with sel := false, set0 := { Vi.init.dom.set0 with slices := [0] } } }

/-- A machine with that interface whose directory lists line 0 twice: the entry in force holds no home copy and yet a dirty mark, the one behind
it a home copy in bank 0. The clause on the reset asks only that no copse is listed twice, so it speaks of this one too. -/
def twiceListedLine : State :=
  { State.reset with
    vis := [(0, sliceZeroVi)]
    dir := [(0, { Dir.init with dirty := true }), (0, { Dir.init with cached := true })] }

/-- The reset leaves the mark of the entry in force, there being no home copy to write to its frame, and the domain still counts the line. -/
theorem twiceListedLine_staysDirty :
    0 ∈ (twiceListedLine.flr 0).domainLines 0 ∧ ((twiceListedLine.flr 0).dirAt 0).dirty = true := by decide +kernel

/-- Refutes O57: after a function-level reset every line of the domain is to be clean. The lines of the domain are read off the entries of the
directory, the mark off the entry in force: where a line is listed twice (`twiceListedLine`), a copy behind an entry without one makes the line
one of the domain, and the dirty mark of that entry stays. -/
theorem not_hostRegistersAndResets : ¬ Obligations.HostRegistersAndResets := by
  unfold Obligations.HostRegistersAndResets
  rintro ⟨-, -, -, -, hreset, -⟩
  obtain ⟨-, hflr⟩ := hreset 0 0 twiceListedLine
  obtain ⟨t, hexec, -, -, -, -, -, -, hclean, -⟩ := hflr (by decide) rfl rfl
  obtain rfl : twiceListedLine.flr 0 = t := Host.Outcome.next.inj hexec
  obtain ⟨hlisted, hdirty⟩ := twiceListedLine_staysDirty
  exact Bool.noConfusion (hdirty.symm.trans (hclean 0 hlisted).1)

end Sys2Proof.Machine
end

section
/-! SUPPORT. How a uniform word ends (spec/02 R41): behind its effect, with results outstanding, or in its trap; and where the engines, channels and
b registers then stand. -/

namespace Sys2Proof.Machine

section
variable {i : Instr} {s u t : State} {f : Form} {b : State → Eff} {p : Pend}

/-! ### Engines, channels and the executing stand behind a word -/

theorem LocalFrame.engineAt_eq (h : LocalFrame s t) (cl : Nat) : t.engineAt cl = s.engineAt cl := by
  obtain ⟨-, -, -, -, -, -, hother, ⟨-, -, -, -, -, -, heng, -⟩⟩ := h
  by_cases hcl : cl = clusterOf s.myCoreKey
  · rw [hcl]
    exact heng
  · rw [State.engineAt, hother cl hcl]
    rfl

theorem LocalFrame.nextId_eq (h : LocalFrame s t) : t.nextId = s.nextId := by
  obtain ⟨⟨-, -, hid, -⟩, -⟩ := h
  exact hid

theorem localFrame_behind (hcur : u.cur = s.cur) (i : Instr) : LocalFrame u (done s u i) := by
  unfold done
  split
  · rw [← hcur]
    exact (localFrame_ownWindow u _ _).trans (localFrame_retire (u.ownWindow _ _) _ _ _)
  · exact localFrame_refl u

theorem localFrame_outstanding (hcur : u.cur = s.cur) (i : Instr) (p : Pend) : LocalFrame u (started s u i p) := by
  unfold started
  split
  · rw [← hcur]
    exact (localFrame_ownWindow u _ _).trans (localFrame_start (u.ownWindow _ _) _ _ _ _)
  · exact localFrame_refl u

/-- Issuing a word leaves the channels to its effect. -/
theorem done_chanAt (s u : State) (i : Instr) (core n : Nat) : (done s u i).chanAt core n = u.chanAt core n := by
  unfold done
  split
  · next f _ _ =>
    obtain ⟨a, c, hcore⟩ := retire_coreAt (u.ownWindow s.cur s.stale.length) s.cur i f s.me
    have hown : ∀ c, (u.ownWindow s.cur s.stale.length).coreAt c = u.coreAt c := fun _ => rfl
    unfold State.chanAt
    by_cases hc : core = (u.ownWindow s.cur s.stale.length).coreOf s.cur
    · rw [hc, hcore, hown]
    · rw [retire_coreAt_ne _ _ _ _ _ hc, hown]
  · rfl

/-! ### Endings -/

/-- A word whose effect leaves its stand's registers passes. -/
theorem passesWith_done (hw : wordOf i s = some (f, b)) (ha : Acts s i) (hc : f.control = false) (hb : b s = .done u) (hcur : u.cur = s.cur)
    (hr : SameRegs s.me u.me) : PassesWith i s (done s u i) := by
  obtain ⟨hpc, -, hv, hsr, hp, hq, -, hpd⟩ := hr
  obtain ⟨place, clpos, e⟩ := done_me hw hc hcur
  refine ⟨exec_done hw ha hb, ?_⟩
  rw [e, ← hpc]
  exact ⟨rfl, hv, hsr, hp, hq, hpd⟩

theorem trapsWith_of_trap {r : TrapReq} {q : FaultRec → Prop} (hw : wordOf i s = some (f, b)) (ha : Acts s i) (hb : b s = .trap r)
    (hq : q (s.faultRec s.cur r s.me.pc false)) : TrapsWith i s q :=
  ⟨s.faultRec s.cur r s.me.pc false, hq, rfl, rfl, exec_trapped hw ha hb⟩

/-- The b registers behind a uniform word that leaves results outstanding. -/
theorem started_b (hw : wordOf i s = some (f, b)) (hu : f.h.uni = true) (hc : f.control = false) (hcur : u.cur = s.cur) :
    (started s u i p).me.b = u.me.b := by
  have hlocal := localFrame_outstanding hcur i p
  obtain ⟨place, clpos, e⟩ := start_standAt (u.ownWindow s.cur s.stale.length) s.cur i s.me p hu hc
  rw [me_eq, hlocal.cur_eq, hcur]
  simp only [started, hw] at e ⊢
  rw [e, ← hcur]
  rfl

theorem done_b (hw : wordOf i s = some (f, b)) (hc : f.control = false) (hcur : u.cur = s.cur) : (done s u i).me.b = u.me.b := by
  obtain ⟨place, clpos, e⟩ := done_me hw hc hcur
  rw [e]
end

end Sys2Proof.Machine
end

section
/-! SUPPORT. Matrix commands: their handles and faults, and their acceptance (spec/09 R208, R210; spec/10 R213, R221-R223). -/

namespace Sys2Proof.Machine

/-! ### Handles and faults (R221) -/

theorem bound_resv {s : State} {a n : Nat} {r : Resv} (h : s.bound a = some (n, r)) : s.myEngine.resv n = r := by
  unfold State.bound at h
  split at h
  · cases h
  · simp only at h
    split at h
    · cases h
      rfl
    · cases h

/-- What a matrix word does behind its handle: the lowest fault of a list of causes, or else what follows. -/
def checked (i : Instr) (cs : List (Nat × Bool)) (q : Eff) : Eff :=
  match mtxTrap i cs with
  | some t => .trap t
  | none => q

section
variable {i : Instr} {cs : List (Nat × Bool)} {q : Eff} {bad : Nat → Prop}

theorem mem_raised {m : Nat} : m ∈ cs.filterMap (fun c => if c.2 then some c.1 else none) ↔ (m, true) ∈ cs := by
  simp [List.mem_filterMap]

theorem checked_bad (hbad : ∀ m, (m, true) ∈ cs ↔ bad m) {m : Nat} (hm : bad m) (hl : ∀ j, j < m → ¬bad j) :
    checked i cs q = .trap (trapOf i 8 m) := by
  have h : lowest (cs.filterMap (fun c => if c.2 then some c.1 else none)) = some m :=
    lowest_eq (mem_raised.mpr ((hbad m).mpr hm)) fun d hd => Nat.le_of_not_lt fun hlt => hl d hlt ((hbad d).mp (mem_raised.mp hd))
  simp only [checked, mtxTrap, h]

theorem checked_good (hbad : ∀ m, (m, true) ∈ cs ↔ bad m) (h : ∀ m, ¬bad m) : checked i cs q = q := by
  have hnone : cs.filterMap (fun c => if c.2 then some c.1 else none) = [] :=
    List.eq_nil_iff_forall_not_mem.mpr fun m hm => h m ((hbad m).mp (mem_raised.mp hm))
  simp only [checked, mtxTrap, hnone, lowest]
end

/-- A fault of the matrix engine names no address (R221). -/
def MatrixTraps (s : State) (i : Instr) (cause : Nat) : Prop := TrapsWith i s (fun r => r.cls = 8 ∧ r.cause = BitVec.ofNat 8 cause ∧ r.addr = 0)

section
variable {i : Instr} {s : State} {f : Form} {b : State → Eff} (hw : wordOf i s = some (f, b)) (ha : Acts s i)
include hw ha

theorem matrixTraps_of_trap {cause : Nat} (hb : b s = .trap (trapOf i 8 cause)) : MatrixTraps s i cause :=
  trapsWith_of_trap hw ha hb ⟨rfl, rfl, rfl⟩

/-- A word that makes its checks traps with the lowest cause. -/
theorem matrixTraps_lowest {cs : List (Nat × Bool)} {q : Eff} {bad : Nat → Prop} (hb : b s = checked i cs q) (hbad : ∀ m, (m, true) ∈ cs ↔ bad m) :
    ∀ m, m < 16 → bad m → (∀ j, j < m → ¬bad j) → MatrixTraps s i m :=
  fun _ _ hm hl => matrixTraps_of_trap hw ha (hb.trans (checked_bad hbad hm hl))
end

/-! ### Acceptance (R210, R213) -/

/-- A command as it stands in a queue once it is accepted. -/
def queued (s : State) (op : CmdOp) (q : Nat) (snap : List (Nat × Mem)) : Cmd :=
  ⟨q, s.cur, op, .waiting, [], snap, [], 0, false, (s.clusterAt s.myCluster).halves, []⟩

/-- Room for commands of which one goes to a reservation. -/
def queueRoom (s : State) (n k : Nat) : Prop :=
  (s.myEngine.taken.map (fun x => x.2.queue.length)).sum + k ≤ 64 ∧ (s.myEngine.resv n).queue.length + 1 ≤ 16

/-- Room for fetches in the copy engine of the copse. -/
def fetchRoom (s : State) : Prop := s.engineRoom (copseOf s.cur) 1 = true

theorem foldl_add_eq_sum {α : Type} (g : α → Nat) (xs : List α) : ∀ m, xs.foldl (fun n x => n + g x) m = m + (xs.map g).sum := by
  induction xs with
  | nil => simp
  | cons x xs ih =>
    intro m
    rw [List.foldl_cons, ih, List.map_cons, List.sum_cons]
    omega

theorem roomFor_iff {e : Engine} {cs : List (Nat × Cmd)} : e.roomFor cs = true ↔
    (e.taken.map (fun x => x.2.queue.length)).sum + cs.length ≤ 64 ∧
      ∀ c ∈ cs, (e.resv c.1).queue.length + (cs.filter (fun d => d.1 == c.1)).length ≤ 16 := by
  unfold Engine.roomFor
  rw [foldl_add_eq_sum (fun x : Nat × Resv => x.2.queue.length), Nat.zero_add, Bool.and_eq_true, List.all_eq_true]
  exact and_congr decide_eq_true_iff (forall₂_congr fun _ _ => decide_eq_true_iff)

section
variable {s : State} {n : Nat} {c : Cmd}

/-- What the acceptance of a command leaves of the machine besides engines: the registers of the executing stand, copses and bytes. -/
structure Kept (s u : State) : Prop where
  cur : u.cur = s.cur
  copses : u.copses = s.copses
  memory : SameMemory s u
  regs : SameRegs s.me u.me

theorem Kept.refl (s : State) : Kept s s := ⟨rfl, rfl, sameMemory_refl s, sameRegs_refl _⟩
theorem SameRegs.trans {a b c : Stand} (h : SameRegs a b) (h' : SameRegs b c) : SameRegs a c := by
  simp only [SameRegs] at *
  simp only [h', h, and_self]
theorem Kept.trans {s u v : State} (h : Kept s u) (h' : Kept u v) : Kept s v :=
  ⟨h'.cur.trans h.cur, h'.copses.trans h.copses, h.memory.trans h'.memory, h.regs.trans h'.regs⟩
theorem Kept.myCluster {s u : State} (h : Kept s u) : u.myCluster = s.myCluster := by
  simp only [State.myCluster, State.myCoreKey, State.coreOf, State.copseAt, h.cur, h.copses]
theorem Kept.behind {s u : State} (h : Kept s u) (i : Instr) : SameMemory s (done s u i) ∧ (done s u i).copses = s.copses :=
  have hl := localFrame_behind h.cur i
  ⟨h.memory.trans hl.sameMemory, hl.copses_eq.trans h.copses⟩

theorem kept_setEngine (s : State) (cl : Nat) (e : Engine) : Kept s (s.setEngine cl e) :=
  ⟨rfl, rfl, sameMemory_of_parts (fun _ => rfl) rfl rfl rfl, sameRegs_refl _⟩

theorem kept_accept (s : State) (k : Nat) (c : Nat × Cmd) : Kept s (s.accept s.myCluster k c) :=
  ⟨rfl, rfl, sameMemory_of_parts (fun _ => rfl) rfl rfl rfl, sameRegs_refl _⟩

theorem accept_engineAt (s : State) (cl k : Nat) (c : Nat × Cmd) : (s.accept cl k c).engineAt cl =
    (s.engineAt cl).setResv c.1 { (s.engineAt cl).resv c.1 with
      queue := ((s.engineAt cl).resv c.1).queue ++ [{ c.2 with seq := s.nextId, stand := k, since := (s.clusterAt cl).halves }], accepted := s.nextId } :=
  setEngine_engineAt ..

theorem accept_halves (s : State) (cl k : Nat) (c : Nat × Cmd) : ((s.accept cl k c).clusterAt cl).halves = (s.clusterAt cl).halves := by
  show ((State.setEngine _ _ _).clusterAt cl).halves = _
  rw [State.setEngine, setCluster_clusterAt]
  rfl

/-- Commands wait for room in both queues and, if they fetch, in the copy engine. -/
theorem enqueue_eq (cs : List (Nat × Cmd)) :
    let fetches := (cs.filter (fun c => c.2.op.fetches)).length
    s.enqueue cs = if s.myEngine.roomFor cs && (fetches == 0 || s.engineRoom (copseOf s.cur) fetches)
      then .done (cs.foldl (fun t c => t.accept t.myCluster t.cur c) s) else .stay s := rfl

/-- One command alone is accepted when its reservation, its engine and, for a fetch, the copy engine have room. -/
theorem enqueue_fits (h : queueRoom s n 1 ∧ (c.op.fetches = true → fetchRoom s)) : s.enqueue [(n, c)] = .done (s.accept s.myCluster s.cur (n, c)) := by
  obtain ⟨⟨hall, hone⟩, hf⟩ := h
  have hroom : s.myEngine.roomFor [(n, c)] = true := roomFor_iff.mpr ⟨hall, by simpa using hone⟩
  rw [enqueue_eq, if_pos]
  · rfl
  · cases hop : c.op.fetches with
    | true => simpa [hroom, hop, fetchRoom] using hf hop
    | false => simp [hroom, hop]

theorem enqueue_waits (h : ¬(queueRoom s n 1 ∧ (c.op.fetches = true → fetchRoom s))) : s.enqueue [(n, c)] = .stay s := by
  rw [enqueue_eq, if_neg fun ht => h ?_]
  rw [Bool.and_eq_true, roomFor_iff] at ht
  obtain ⟨⟨hall, hone⟩, hf⟩ := ht
  refine ⟨⟨hall, by simpa using hone⟩, fun hop => ?_⟩
  simpa [hop, fetchRoom] using hf
end

/-- A word queues a command, or waits for room; where the command is accepted something more holds. -/
def Takes (s : State) (i : Instr) (n : Nat) (op : CmdOp) (snap : List (Nat × Mem)) (post : State → Prop) : Prop :=
  let e := s.myEngine
  let fits : Prop := queueRoom s n 1 ∧ (op.fetches = true → fetchRoom s)
  (fits → ∃ t, PassesWith i s t ∧ SameMemory s t ∧ t.copses = s.copses ∧ post t ∧ t.nextId = s.nextId + 1 ∧
    (t.engineAt s.myCluster).resv n = { e.resv n with queue := (e.resv n).queue ++ [queued s op s.nextId snap], accepted := s.nextId } ∧
    ∀ j, j ≠ n → (t.engineAt s.myCluster).resv j = e.resv j) ∧
  (¬fits → ∃ t, WaitsWith i s t ∧ t.clusters = s.clusters)

section
variable {i : Instr} {s : State} {f : Form} {b : State → Eff} (hw : wordOf i s = some (f, b)) (ha : Acts s i)
include hw ha

theorem waits_of_stay (hb : b s = .stay s) : ∃ t, WaitsWith i s t ∧ t.clusters = s.clusters :=
  ⟨_, waitsWith_stayed hw ha hb rfl (sameRegs_refl _), rfl⟩

/-- A word whose effect is the acceptance of a command, and something more that engines and registers do not see. -/
theorem takes_of_body (hc : f.control = false) {n : Nat} {op : CmdOp} {snap : List (Nat × Mem)} {post : State → Prop} (g : State → State)
    (hfits : queueRoom s n 1 ∧ (op.fetches = true → fetchRoom s) →
      b s = .done (g (s.accept s.myCluster s.cur (n, { newCmd op with snap := snap }))))
    (hwaits : ¬(queueRoom s n 1 ∧ (op.fetches = true → fetchRoom s)) → b s = .stay s)
    (hg : ∀ u : State, Kept u (g u) ∧ (g u).nextId = u.nextId ∧ ∀ cl, (g u).engineAt cl = u.engineAt cl)
    (hpost : ∀ u : State, (∀ core m, u.chanAt core m = (g (s.accept s.myCluster s.cur (n, { newCmd op with snap := snap }))).chanAt core m) → post u) :
    Takes s i n op snap post := by
  refine ⟨fun hfit => ?_, fun hfit => waits_of_stay hw ha (hwaits hfit)⟩
  obtain ⟨u, hu⟩ : ∃ u, u = s.accept s.myCluster s.cur (n, { newCmd op with snap := snap }) := ⟨_, rfl⟩
  obtain ⟨hkeep, hid, heng⟩ := hg u
  rw [← hu] at hfits hpost
  have hkept : Kept s (g u) := (hu ▸ kept_accept s s.cur _ : Kept s u).trans hkeep
  have hlocal := localFrame_behind hkept.cur i
  obtain ⟨hmem, hcop⟩ := hkept.behind i
  have hengine : (done s (g u) i).engineAt s.myCluster = s.myEngine.setResv n { s.myEngine.resv n with
      queue := (s.myEngine.resv n).queue ++ [queued s op s.nextId snap], accepted := s.nextId } := by
    rw [hlocal.engineAt_eq, heng, hu, accept_engineAt]
    rfl
  refine ⟨_, passesWith_done hw ha hc (hfits hfit) hkept.cur hkept.regs, hmem, hcop, hpost _ fun core m => done_chanAt .., ?_, ?_, fun j hj => ?_⟩
  · rw [hlocal.nextId_eq, hid, hu]
    rfl
  · rw [hengine, Engine.setResv_resv]
  · rw [hengine, Engine.setResv_resv_ne hj]

/-- A word whose effect is a queued command. -/
theorem takes_of_enqueue (hc : f.control = false) {n : Nat} {op : CmdOp} {snap : List (Nat × Mem)} {post : State → Prop}
    (hb : b s = s.enqueue [(n, { newCmd op with snap := snap })])
    (hpost : ∀ u : State, (∀ core m, u.chanAt core m = s.chanAt core m) → post u) : Takes s i n op snap post :=
  takes_of_body hw ha hc id (fun h => hb.trans (enqueue_fits h)) (fun h => hb.trans (enqueue_waits h))
    (fun u => ⟨Kept.refl u, rfl, fun _ => rfl⟩) (fun u h => hpost u h)
end

section
variable {i : Instr} {s : State} {f : Form} {b : State → Eff} (hw : wordOf i s = some (f, b)) (ha : Acts s i)
include hw ha

/-- A word that makes its checks and queues a command. -/
theorem queues_of_checked (hc : f.control = false) {cs : List (Nat × Bool)} {bad : Nat → Prop} {n : Nat} {op : CmdOp} {snap : List (Nat × Mem)}
    (hb : b s = checked i cs (s.enqueue [(n, { newCmd op with snap := snap })])) (hbad : ∀ m, (m, true) ∈ cs ↔ bad m) :
    (∀ m, m < 16 → bad m → (∀ j, j < m → ¬bad j) → MatrixTraps s i m) ∧ ((∀ m, ¬bad m) → Takes s i n op snap (fun _ => True)) :=
  ⟨matrixTraps_lowest hw ha hb hbad, fun h => takes_of_enqueue hw ha hc (hb.trans (checked_good hbad h)) fun _ _ => trivial⟩
end

/-! ### Fills (R228) -/

section
variable {f : E96} {s : State} {n : Nat} {r : Resv}

theorem bits_low (x hi : Nat) : bits x hi 0 = x % 2 ^ (hi + 1) := by simp [bits]

theorem bodyMtile_bound (h : s.bound f.sa.num.toNat = some (n, r)) :
    let part := f.md.toNat % 4
    let first := f.imm.toNat % 512
    let cnt := f.imm.toNat / 512 % 128 + 1
    let src := (s.rdS s.cur f.sb.num.toNat).toNat
    let bytes := r.partSize part * cnt
    bodyMtile f s = checked (.mtile f) [(4, decide (r.blen < first + cnt)), (6, src % 16 != 0 || !s.myCopse.inAlloc src bytes),
        (8, (part == 1 && !r.hdr) || (part == 2 && !r.spar))]
      (s.enqueue [(n, { newCmd (.fillS (BitVec.ofNat 2 part) src first cnt) with snap := s.myCopse.snapLines src bytes })]) := by
  intro part first cnt src bytes
  unfold bodyMtile mtileBody
  simp only [h, bits_low]
  rfl

theorem bodyMtileD_bound (h : s.bound f.sa.num.toNat = some (n, r)) :
    let part := f.md.toNat % 4
    let first := f.imm.toNat % 512
    let cnt := f.imm.toNat / 512 % 128 + 1
    let desc := tget 0 s.me.d f.sc.num.toNat
    bodyMtileD f s = checked (.mtileD f) [(4, decide (r.blen < first + cnt)), (8, (part == 1 && !r.hdr) || (part == 2 && !r.spar)),
        (0xA, !descTiles desc.toNat (r.partSize part))]
      (s.enqueue [(n, newCmd (.fillG (BitVec.ofNat 2 part) first cnt desc))]) := by
  intro part first cnt desc
  unfold bodyMtileD mtileBody
  simp only [h, bits_low]
  rfl

/-! ### Loads, swaps and zeroing (R230, R233) -/

theorem bodyMlds_bound (h : s.bound f.sa.num.toNat = some (n, r)) :
    bodyMlds f s = checked (.mlds f) [(2, !r.role), (4, decide (r.blen ≤ f.imm.toNat))] (s.enqueue [(n, newCmd (.load f.imm.toNat))]) := by
  unfold bodyMlds
  simp only [h]
  rfl

theorem bodyMswap_bound (h : s.bound f.sa.num.toNat = some (n, r)) :
    bodyMswap f s = checked (.mswap f) [(2, !r.role), (9, r.tilesThen.2.isNone)] (s.enqueue [(n, newCmd .swap)]) := by
  unfold bodyMswap
  simp only [h]
  rfl

theorem bodyMzero_bound (h : s.bound f.sa.num.toNat = some (n, r)) :
    let tiles : Byte := f.imm.setWidth 8
    bodyMzero f s = checked (.mzero f) [(2, !r.role), (5, tiles &&& ~~~r.amask != 0)] (s.enqueue [(n, newCmd (.zero tiles))]) := by
  unfold bodyMzero
  simp only [h, BitVec.ofNat_toNat]
  rfl

/-! ### Passes (R231) -/

/-- What a pass is checked for: W, the stationary reservation, and S, the streamed one. -/
def passChecks (f : E96) (s : State) (w x : Resv) : List (Nat × Bool) :=
  let t0 := f.imm.toNat % 512
  let tiles := if w.spar then 2 else 1
  [(2, !w.role || x.role), (3, (fmtClass w.fmt.toNat == 16) != (fmtClass x.fmt.toNat == 16)), (4, decide (x.blen < t0 + tiles)),
    (5, !w.amask.getLsbD (f.imm.toNat / 512 % 8)), (9, w.tilesThen.1.isNone),
    (0xA, f.md.getLsbD 0 && !descTiles (tget 0 s.me.d f.sc.num.toNat).toNat (tiles * fmtSize x.fmt.toNat))]

theorem bodyMstr_bound {m : Nat} {w x : Resv} (hw : s.bound f.sa.num.toNat = some (n, w)) (hx : s.bound f.sb.num.toNat = some (m, x)) :
    let t0 := f.imm.toNat % 512
    let pass := newCmd (.pass m x.tag t0 (f.imm.toNat / 512 % 8) (f.md.getLsbD 1))
    bodyMstr f s = checked (.mstr f) (passChecks f s w x) (s.enqueue ((if f.md.getLsbD 0 then
      [(m, newCmd (.fillG 0 t0 (if w.spar then 2 else 1) (tget 0 s.me.d f.sc.num.toNat)))] else []) ++ [(n, pass)])) := by
  intro t0 pass
  unfold bodyMstr
  simp only [hw, hx, bits_low]
  rfl

theorem bodyMstr_stale (h : s.bound f.sa.num.toNat = none ∨ s.bound f.sb.num.toNat = none) : bodyMstr f s = .trap (trapOf (.mstr f) 8 1) := by
  unfold bodyMstr
  rcases h with h | h
  · simp only [h]
  · cases hw : s.bound f.sa.num.toNat <;> simp only [h]

/-! ### Drains (R234) -/

theorem bodyMdrn_stride (hd : f.md.toNat % 4 = 2) (hs : (s.rdS s.cur f.sc.num.toNat).toNat / 2 ^ 16 % 2 ^ 32 ≠ 0) :
    bodyMdrn f s = .trap { trapOf (.mdrn f) 0 4 with addr := s.me.pc } := by
  unfold bodyMdrn
  simp only
  rw [if_pos ⟨hd, hs⟩]

/-- What a drain is checked for. -/
def drainChecks (f : E96) (s : State) (w : Resv) : List (Nat × Bool) :=
  let dest := f.md.toNat % 4
  let dfmt := f.md.toNat / 4 % 8
  let row := 64 * (if dfmt = 0 then 4 else if dfmt ≤ 2 then 2 else 1)
  let unit := min row 128
  let base := if dest = 2 then 0 else (s.rdS s.cur f.sb.num.toNat).toNat
  let sh := (s.rdS s.cur f.sc.num.toNat).toNat
  let row0 := sh % 64
  let rows := sh / 2 ^ 6 % 128
  let stride := sh / 2 ^ 16 % 2 ^ 32
  let ch := sh / 2 ^ 60 % 16
  [(2, !w.role), (5, !w.amask.getLsbD (f.imm.toNat / 2 ^ 8 % 8)),
    (6, dest == 0 && (base % 16 != 0 || stride % 16 != 0 || !s.myCopse.inAlloc base ((rows - 1) * stride + row))),
    (7, dest == 1 && (base % unit != 0 || stride % unit != 0)),
    (0xB, rows == 0 || decide (64 < rows) || decide (64 < row0 + rows) || sh / 2 ^ 13 % 8 != 0 || sh / 2 ^ 48 % 2 ^ 12 != 0 || (dest != 2 && ch != 0)
      || (dest == 0 && decide (stride < row)))]

/-- The command of a drain. -/
def drainCommand (f : E96) (s : State) : CmdOp :=
  let sh := (s.rdS s.cur f.sc.num.toNat).toNat
  .drain (f.md.toNat % 4) (f.md.toNat / 4 % 8) (f.md.getLsbD 5) (f.md.getLsbD 6) (f.md.getLsbD 7)
    (if f.md.toNat % 4 = 2 then 0 else (s.rdS s.cur f.sb.num.toNat).toNat) (sh % 64) (sh / 2 ^ 6 % 128) (sh / 2 ^ 16 % 2 ^ 32) (sh / 2 ^ 60 % 16)
    (f.imm.toNat / 2 ^ 8 % 8) (f.imm.setWidth 8)

/-- The channel that a drain goes to. -/
def drainChan (f : E96) (s : State) : Nat := 32 + (s.rdS s.cur f.sc.num.toNat).toNat / 2 ^ 60 % 16

/-- A drain that a channel waits for: one entry more is due there. -/
def State.dueAt (s : State) (core n : Nat) : State := s.setChan core n { s.chanAt core n with due := (s.chanAt core n).due + 1 }

section
variable (h : f.md.toNat % 4 ≠ 2 ∨ (s.rdS s.cur f.sc.num.toNat).toNat / 2 ^ 16 % 2 ^ 32 = 0)
include h

theorem no_stride : ¬(f.md.toNat % 4 = 2 ∧ bits (s.rdS s.cur f.sc.num.toNat).toNat 47 16 ≠ 0) := fun ⟨hd, hs⟩ => h.elim (fun h => h hd) hs

theorem bodyMdrn_stale (hr : s.bound f.sa.num.toNat = none) : bodyMdrn f s = .trap (trapOf (.mdrn f) 8 1) := by
  unfold bodyMdrn
  simp only [hr]
  rw [if_neg (no_stride h)]

theorem bodyMdrn_bound (hr : s.bound f.sa.num.toNat = some (n, r)) : bodyMdrn f s = checked (.mdrn f) (drainChecks f s r)
    (if f.md.toNat % 4 = 2 && s.chanBad (copseOf s.cur) s.myCoreKey (drainChan f s) false then .trap (trapOf (.mdrn f) 6 5)
    else if f.md.toNat % 4 ≠ 2 then s.enqueue [(n, newCmd (drainCommand f s))]
    else match s.enqueue [(n, newCmd (drainCommand f s))] with
      | .done t => .done (t.dueAt t.myCoreKey (drainChan f s))
      | e => e) := by
  unfold bodyMdrn
  simp only [hr]
  rw [if_neg (no_stride h)]
  simp only [bits_low, BitVec.ofNat_toNat]
  rfl
end

end

/-! ### A pass behind its fetch (R231) -/

section
variable {s : State} {n m : Nat} {c d : Cmd} (hne : m ≠ n) (hc : c.op.fetches = true) (hd : d.op.fetches = false)
include hne hc hd

/-- Two commands for two reservations, of which the first fetches, find room together. -/
theorem two_fit_iff : (s.myEngine.roomFor [(m, c), (n, d)] &&
    (([(m, c), (n, d)].filter (fun c => c.2.op.fetches)).length == 0 ||
      s.engineRoom (copseOf s.cur) ([(m, c), (n, d)].filter (fun c => c.2.op.fetches)).length)) = true ↔
    queueRoom s n 2 ∧ queueRoom s m 2 ∧ fetchRoom s := by
  have hroom : s.myEngine.roomFor [(m, c), (n, d)] = true ↔ queueRoom s n 2 ∧ queueRoom s m 2 := by
    rw [roomFor_iff]
    simp only [queueRoom, List.forall_mem_cons, List.not_mem_nil, false_implies, implies_true, and_true, List.length_cons, List.length_nil]
    simp [hne, hne.symm]
    omega
  have hfetch : ([(m, c), (n, d)].filter (fun c => c.2.op.fetches)).length = 1 := by simp [hc, hd]
  rw [hfetch, Bool.and_eq_true, hroom, and_assoc]
  simp [fetchRoom]

theorem enqueue_two_fit (h : queueRoom s n 2 ∧ queueRoom s m 2 ∧ fetchRoom s) :
    s.enqueue [(m, c), (n, d)] = .done ((s.accept s.myCluster s.cur (m, c)).accept s.myCluster s.cur (n, d)) := by
  rw [enqueue_eq, if_pos ((two_fit_iff hne hc hd).mpr h)]
  rfl

theorem enqueue_two_wait (h : ¬(queueRoom s n 2 ∧ queueRoom s m 2 ∧ fetchRoom s)) : s.enqueue [(m, c), (n, d)] = .stay s := by
  rw [enqueue_eq, if_neg fun ht => h ((two_fit_iff hne hc hd).mp ht)]

end

/-- Where two commands accepted one after the other stand. -/
theorem accept_two {s : State} {n m : Nat} {c d : Cmd} (hne : m ≠ n) :
    let u := (s.accept s.myCluster s.cur (m, c)).accept s.myCluster s.cur (n, d)
    let e := s.myEngine
    let since := (s.clusterAt s.myCluster).halves
    Kept s u ∧ u.nextId = s.nextId + 2 ∧
      ((u.engineAt s.myCluster).resv m).queue = (e.resv m).queue ++ [{ c with seq := s.nextId, stand := s.cur, since := since }] ∧
      ((u.engineAt s.myCluster).resv n).queue = (e.resv n).queue ++ [{ d with seq := s.nextId + 1, stand := s.cur, since := since }] ∧
      ∀ j, j ≠ n → j ≠ m → (u.engineAt s.myCluster).resv j = e.resv j := by
  intro u e since
  obtain ⟨v, hv⟩ : ∃ v, v = s.accept s.myCluster s.cur (m, c) := ⟨_, rfl⟩
  have hkept : Kept s v := hv ▸ kept_accept s s.cur _
  have hu : u = v.accept v.myCluster v.cur (n, d) := by rw [hkept.myCluster, hkept.cur, hv]
  have heng : v.engineAt s.myCluster = e.setResv m { e.resv m with
      queue := (e.resv m).queue ++ [{ c with seq := s.nextId, stand := s.cur, since := since }], accepted := s.nextId } := by
    rw [hv, accept_engineAt]
    rfl
  have hid : v.nextId = s.nextId + 1 := by rw [hv]; rfl
  have hhalves : (v.clusterAt s.myCluster).halves = since := by rw [hv, accept_halves]
  have hengu : u.engineAt s.myCluster = (v.engineAt s.myCluster).setResv n { (v.engineAt s.myCluster).resv n with
      queue := ((v.engineAt s.myCluster).resv n).queue ++ [{ d with seq := s.nextId + 1, stand := s.cur, since := since }], accepted := s.nextId + 1 } := by
    rw [hu, hkept.myCluster, accept_engineAt, hid, hhalves, hkept.cur]
  refine ⟨hkept.trans (hu ▸ kept_accept v v.cur _), ?_, ?_, ?_, fun j hn hm => ?_⟩
  · rw [hu]
    exact congrArg (· + 1) hid
  · rw [hengu, Engine.setResv_resv_ne hne, heng, Engine.setResv_resv]
  · rw [hengu, Engine.setResv_resv, heng, Engine.setResv_resv_ne hne.symm]
  · rw [hengu, Engine.setResv_resv_ne hn, heng, Engine.setResv_resv_ne hm]

/-- A pass with its fetch is accepted, or waits for room. -/
theorem pass_behind_fetch {f : E96} {s : State} {n m : Nat} {w x : Resv} {fetch pass : CmdOp} (ha : Acts s (.mstr f)) (hne : m ≠ n)
    (hw : s.myEngine.resv n = w) (hx : s.myEngine.resv m = x) (hc : fetch.fetches = true) (hd : pass.fetches = false)
    (hb : bodyMstr f s = s.enqueue [(m, newCmd fetch), (n, newCmd pass)]) :
    (queueRoom s n 2 → queueRoom s m 2 → fetchRoom s → ∃ t, PassesWith (.mstr f) s t ∧ SameMemory s t ∧ t.nextId = s.nextId + 2 ∧
      ((t.engineAt s.myCluster).resv m).queue = x.queue ++ [queued s fetch s.nextId []] ∧
      ((t.engineAt s.myCluster).resv n).queue = w.queue ++ [queued s pass (s.nextId + 1) []] ∧
      ∀ i, i ≠ n → i ≠ m → (t.engineAt s.myCluster).resv i = s.myEngine.resv i) ∧
    (¬(queueRoom s n 2 ∧ queueRoom s m 2 ∧ fetchRoom s) → ∃ t, WaitsWith (.mstr f) s t ∧ t.clusters = s.clusters) := by
  refine ⟨fun hn hm hf => ?_, fun hno => waits_of_stay rfl ha (hb.trans (enqueue_two_wait hne hc hd hno))⟩
  obtain ⟨hkept, hid, hm', hn', hj⟩ := accept_two (s := s) (c := newCmd fetch) (d := newCmd pass) hne
  have hlocal := localFrame_behind hkept.cur (.mstr f)
  refine ⟨_, passesWith_done rfl ha rfl (hb.trans (enqueue_two_fit hne hc hd ⟨hn, hm, hf⟩)) hkept.cur hkept.regs, (hkept.behind _).1,
    hlocal.nextId_eq.trans hid, ?_⟩
  rw [hlocal.engineAt_eq, ← hw, ← hx]
  exact ⟨hm', hn', hj⟩

theorem kept_dueAt (u : State) (n : Nat) : Kept u (u.dueAt u.myCoreKey n) :=
  have h := localFrame_setChan u n { u.chanAt u.myCoreKey n with due := (u.chanAt u.myCoreKey n).due + 1 }
  ⟨h.cur_eq, h.copses_eq, h.sameMemory, sameRegs_refl _⟩

theorem dueAt_engineAt (u : State) (n cl : Nat) : (u.dueAt u.myCoreKey n).engineAt cl = u.engineAt cl :=
  (localFrame_setChan u n _).engineAt_eq cl

theorem dueAt_chanAt (u : State) (core n : Nat) : (u.dueAt core n).chanAt core n = { u.chanAt core n with due := (u.chanAt core n).due + 1 } := by
  conv_lhs => unfold State.dueAt State.setChan State.chanAt
  rw [setCore_coreAt]
  exact tget_tset_self ..

theorem inAlloc_false_iff {c : Copse} {a n : Nat} : c.inAlloc a n = false ↔ 128 * c.alloc < a + n := by
  simp [Copse.inAlloc]

section
variable {f : E96} {s : State} (h : s.bound f.sa.num.toNat = none)
include h

theorem bodyMtile_stale : bodyMtile f s = .trap (trapOf (.mtile f) 8 1) := by
  unfold bodyMtile mtileBody
  simp only [h]
theorem bodyMtileD_stale : bodyMtileD f s = .trap (trapOf (.mtileD f) 8 1) := by
  unfold bodyMtileD mtileBody
  simp only [h]
theorem bodyMlds_stale : bodyMlds f s = .trap (trapOf (.mlds f) 8 1) := by
  unfold bodyMlds
  simp only [h]
theorem bodyMswap_stale : bodyMswap f s = .trap (trapOf (.mswap f) 8 1) := by
  unfold bodyMswap
  simp only [h]
theorem bodyMzero_stale : bodyMzero f s = .trap (trapOf (.mzero f) 8 1) := by
  unfold bodyMzero
  simp only [h]
end

/-- Settles O38: per word, the checks are the list that the model makes, and what follows them is the acceptance. -/
theorem matrixCommandsAreQueued : Obligations.MatrixCommandsAreQueued := by
  intro f s e cl traps lowest stale fetchRoom room cmd takes none' a desc
  refine ⟨fun ha => ⟨fun h => ?_, fun n r h => ?_⟩, fun ha => ⟨fun h => ?_, fun n r h => ?_⟩, fun ha => ⟨fun h => ?_, fun n r h => ?_⟩,
    fun ha => ⟨fun h => ?_, fun n r h => ?_⟩, fun ha => ⟨fun h => ?_, fun h => ?_, fun n w m x hw hx => ?_⟩,
    fun ha => ⟨fun h => ?_, fun n r h => ?_⟩, fun ha => ?_⟩
  · exact matrixTraps_of_trap rfl ha (bodyMtile_stale h)
  · exact queues_of_checked rfl ha rfl (bodyMtile_bound h) fun m => by simp [inAlloc_false_iff]
  · exact matrixTraps_of_trap rfl ha (bodyMtileD_stale h)
  · exact queues_of_checked rfl ha rfl (bodyMtileD_bound h) fun m => by simp [desc]
  · exact matrixTraps_of_trap rfl ha (bodyMlds_stale h)
  · exact queues_of_checked rfl ha rfl (bodyMlds_bound h) fun m => by simp
  · exact matrixTraps_of_trap rfl ha (bodyMswap_stale h)
  · exact queues_of_checked rfl ha rfl (bodyMswap_bound h) fun m => by simp
  · exact matrixTraps_of_trap rfl ha (bodyMstr_stale (.inl h))
  · exact matrixTraps_of_trap rfl ha (bodyMstr_stale (.inr h))
  · intro t0 j tiles mem pass bad
    have hbad : ∀ m, (m, true) ∈ passChecks f s w x ↔ bad m := fun m => by simp [passChecks, bad, desc, t0, tiles, j, mem]
    refine ⟨matrixTraps_lowest rfl ha (bodyMstr_bound hw hx) hbad, fun hgood => ?_⟩
    have hb := (bodyMstr_bound hw hx).trans (checked_good hbad hgood)
    refine ⟨fun hmem => ?_, fun hmem => ?_⟩
    · rw [if_neg (by simpa [mem] using hmem)] at hb
      exact takes_of_enqueue rfl ha rfl hb fun _ _ => trivial
    · have hrole : w.role = true ∧ x.role = false := by simpa [bad] using hgood 2
      have hne : m ≠ n := by
        rintro rfl
        rw [← bound_resv hw, bound_resv hx, hrole.2] at hrole
        exact absurd hrole.1 Bool.false_ne_true
      rw [if_pos hmem] at hb
      exact pass_behind_fetch ha hne (bound_resv hw) (bound_resv hx) rfl rfl hb
  · exact matrixTraps_of_trap rfl ha (bodyMzero_stale h)
  · exact queues_of_checked rfl ha rfl (bodyMzero_bound h) fun m => by simp
  · intro dest dfmt row unit base sh row0 rows stride ch j core c
    refine ⟨fun hd hs => traps_of_trap rfl ha (bodyMdrn_stride hd hs) rfl rfl, fun hgo => ⟨fun h => ?_, fun n w h => ?_⟩⟩
    · exact matrixTraps_of_trap rfl ha (bodyMdrn_stale hgo h)
    · intro bad op lent
      have hb := bodyMdrn_bound hgo h
      have hbad : ∀ m, (m, true) ∈ drainChecks f s w ↔ bad m := fun m => by
        simp [drainChecks, inAlloc_false_iff, bad, dest, dfmt, row, unit, base, sh, row0, rows, stride, ch, j, or_assoc, add_assoc]
      refine ⟨matrixTraps_lowest rfl ha hb hbad, fun hgood => ?_⟩
      replace hb := hb.trans (checked_good hbad hgood)
      refine ⟨fun hd hl => ?_, fun hd => ?_, fun hd hl => ?_⟩
      · rw [if_pos (by simpa [dest] using ⟨hd, hl⟩)] at hb
        exact traps_of_trap rfl ha hb rfl rfl
      · rw [if_neg (by simp [show f.md.toNat % 4 ≠ 2 from hd]), if_pos hd] at hb
        exact takes_of_enqueue rfl ha rfl hb fun u hu => hu _ _
      · have hown : s.chanBad (copseOf s.cur) s.myCoreKey (drainChan f s) false = false := hl
        rw [hown, Bool.and_false, if_neg Bool.false_ne_true, if_neg (not_not.mpr hd)] at hb
        exact takes_of_body rfl ha rfl (fun t => t.dueAt t.myCoreKey (drainChan f s)) (fun hf => by rw [hb, enqueue_fits hf]; rfl)
          (fun hf => by rw [hb, enqueue_waits hf]) (fun u => ⟨kept_dueAt u _, rfl, dueAt_engineAt u _⟩) 
            (fun u hu => (hu _ _).trans (dueAt_chanAt ..))

end Sys2Proof.Machine
end

section
/-! SUPPORT. Reservations of the matrix engine (spec/09 R206-R208, R225-R227, R236, R237): opening, naming, releasing and waiting. -/

namespace Sys2Proof.Machine

/-! ### A release frees what nothing needs any more (R227) -/

namespace Engine
variable {e e' : Engine} {n j : Nat}

/-- A record that closes with an empty queue may become free. -/
def Idle (e : Engine) (n : Nat) : Prop := (e.resv n).state = .closing ∧ (e.resv n).queue = []

/-- What becomes of a record when it is freed. -/
def freed (r : Resv) : Resv := { Resv.init with tag := r.tag, gone := r.gone, ff := r.ff }

theorem freeOne_frees (h : e.Idle n) (hr : e.readers n ((e.resv n).tag - 1) = false) : (e.freeOne n).resv n = freed (e.resv n) := by
  unfold Engine.freeOne
  simp only
  rw [if_pos ⟨h.1, h.2, by simp [hr]⟩]
  exact tget_tset_self ..

theorem freeOne_resv (e : Engine) (n j : Nat) :
    (e.freeOne n).resv j = e.resv j ∨ (e.Idle j ∧ (e.freeOne n).resv j = freed (e.resv j)) := by
  rcases eq_or_ne j n with rfl | hj
  · unfold Engine.freeOne
    simp only
    split_ifs with h
    · exact .inr ⟨⟨h.1, h.2.1⟩, tget_tset_self ..⟩
    · exact .inl rfl
  · refine .inl ?_
    unfold Engine.freeOne
    simp only
    split_ifs
    · exact tget_tset_ne _ hj ..
    · rfl

theorem freeOne_tag (e : Engine) (n j : Nat) : ((e.freeOne n).resv j).tag = (e.resv j).tag := by
  rcases freeOne_resv e n j with h | ⟨-, h⟩
  · rw [h]
  · rw [h]
    rfl

/-- What a record becomes when idle records are freed: itself, or free. -/
theorem freeOne_state (e : Engine) (n j : Nat) : (e.freeOne n).resv j = e.resv j ∨ e.Idle j ∧ ((e.freeOne n).resv j).state = .free :=
  (freeOne_resv e n j).imp_right fun ⟨hidle, h⟩ => ⟨hidle, h ▸ rfl⟩

/-- Commands that hold a record back: none but those that held it before. -/
def NoNewReaders (e e' : Engine) : Prop := ∀ x ∈ e'.taken, x.2.queue = [] ∨ x ∈ e.taken

theorem NoNewReaders.readers (h : NoNewReaders e e') {tag : Nat} (hr : e.readers n tag = false) : e'.readers n tag = false := by
  rw [Engine.readers, List.any_eq_false] at hr ⊢
  intro x hx
  rcases h x hx with hq | hx
  · simp [hq]
  · exact hr x hx

theorem NoNewReaders.trans {e'' : Engine} (h : NoNewReaders e e') (h' : NoNewReaders e' e'') : NoNewReaders e e'' :=
  fun x hx => (h' x hx).elim .inl (h x)

theorem noNewReaders_freeOne (e : Engine) (n : Nat) : NoNewReaders e (e.freeOne n) := by
  intro x hx
  unfold Engine.freeOne at hx
  simp only at hx
  split at hx
  · obtain ⟨hmem, hstate⟩ := List.mem_filter.mp hx
    rcases mem_tset hmem with rfl | hmem
    · exact .inl rfl
    · exact .inr (List.mem_filter.mpr ⟨hmem, hstate⟩)
  · exact .inr hx

section
variable (ns : List Nat)

theorem freeOnes_tag : ∀ e : Engine, ((ns.foldl (fun e n => e.freeOne n) e).resv j).tag = (e.resv j).tag := by
  induction ns with
  | nil => exact fun _ => rfl
  | cons n ns ih => exact fun e => (ih _).trans (freeOne_tag ..)

theorem freeOnes_state : ∀ e : Engine, (ns.foldl (fun e n => e.freeOne n) e).resv j = e.resv j ∨
    e.Idle j ∧ ((ns.foldl (fun e n => e.freeOne n) e).resv j).state = .free := by
  induction ns with
  | nil => exact fun _ => .inl rfl
  | cons n ns ih =>
    intro e
    rw [List.foldl_cons]
    rcases ih (e.freeOne n) with h | ⟨⟨hs, hq⟩, hfree⟩
    · rw [h]
      exact freeOne_state ..
    · rcases freeOne_state e n j with h | ⟨hidle, -⟩
      · exact .inr ⟨by rw [Idle, ← h]; exact ⟨hs, hq⟩, hfree⟩
      · exact .inr ⟨hidle, hfree⟩

/-- An idle record whose tiles no pass has still to read is freed. -/
theorem freeOnes_frees (hj : j ∈ ns) : ∀ e : Engine, e.Idle j ∨ (e.resv j).state = .free → e.readers j ((e.resv j).tag - 1) = false →
    ((ns.foldl (fun e n => e.freeOne n) e).resv j).state = .free := by
  induction ns with
  | nil => exact absurd hj List.not_mem_nil
  | cons n ns ih =>
    intro e hidle hr
    have hr' : (e.freeOne n).readers j (((e.freeOne n).resv j).tag - 1) = false := by
      rw [freeOne_tag]
      exact (noNewReaders_freeOne e n).readers hr
    rw [List.foldl_cons]
    rcases hidle with hidle | hfree
    · rcases List.mem_cons.mp hj with rfl | hj
      · have hfree : ((e.freeOne j).resv j).state = .free := by rw [freeOne_frees hidle hr]; rfl
        exact (freeOnes_state ns (e.freeOne j)).elim (fun h => (congrArg Resv.state h).trans hfree) And.right
      · refine ih hj _ ?_ hr'
        rcases freeOne_state e n j with h | ⟨-, h⟩
        · exact .inl (by rw [Idle, h]; exact hidle)
        · exact .inr h
    · have hfree' : ((e.freeOne n).resv j).state = .free := (freeOne_state e n j).elim (fun h => h ▸ hfree) And.right
      exact (freeOnes_state ns (e.freeOne n)).elim (fun h => (congrArg Resv.state h).trans hfree') And.right
end

/-- What a release does to the record (R227). -/
theorem release_resv {r : Resv} (hr : e.resv n = r) (ho : r.state = .opened) :
    ((e.release n).resv n).tag = r.tag + 1 ∧ ((e.release n).resv n).state ≠ .opened ∧
    (r.queue = [] → e.readers n r.tag = false → ((e.release n).resv n).state = .free) ∧
    (r.queue ≠ [] → ((e.release n).resv n).state = .closing ∧ ((e.release n).resv n).queue = r.queue) ∧
    ∀ j, j ≠ n → (e.resv j).state = .opened → (e.release n).resv j = e.resv j := by
  obtain ⟨c, hc⟩ : ∃ c, c = e.setResv n { r with state := .closing, tag := r.tag + 1 } := ⟨_, rfl⟩
  have hrel : e.release n = (c.recs.map Prod.fst).foldl (fun e n => e.freeOne n) c := by
    unfold Engine.release
    simp only [hr, ho, if_true, hc]
    rfl
  have hcn : c.resv n = { r with state := .closing, tag := r.tag + 1 } := by rw [hc, setResv_resv]
  have hcj : ∀ j, j ≠ n → c.resv j = e.resv j := fun j hj => by rw [hc, setResv_resv_ne hj]
  rw [hrel]
  refine ⟨by rw [freeOnes_tag, hcn], ?_, fun hq hread => ?_, fun hq => ?_, fun j hj hopen => ?_⟩
  · rcases freeOnes_state (c.recs.map Prod.fst) (j := n) c with h | ⟨-, h⟩
    · rw [h, hcn]
      exact RecState.noConfusion
    · rw [h]
      exact RecState.noConfusion
  · have hmem : n ∈ c.recs.map Prod.fst := by
      rw [hc]
      exact List.mem_map.mpr ⟨_, mem_of_tfind (tfind_tset_self ..), rfl⟩
    have hnew : NoNewReaders e c := fun x hx => by
      obtain ⟨hx, hs⟩ := List.mem_filter.mp hx
      rw [hc] at hx
      rcases mem_tset hx with rfl | hx
      · exact .inl hq
      · exact .inr (List.mem_filter.mpr ⟨hx, hs⟩)
    refine freeOnes_frees _ hmem c (.inl ?_) ?_
    · rw [Idle, hcn]
      exact ⟨rfl, hq⟩
    · rw [hcn]
      exact hnew.readers hread
  · rcases freeOnes_state (c.recs.map Prod.fst) (j := n) c with h | ⟨⟨-, h⟩, -⟩
    · rw [h, hcn]
      exact ⟨rfl, rfl⟩
    · rw [hcn] at h
      exact absurd h hq
  · rcases freeOnes_state (c.recs.map Prod.fst) (j := j) c with h | ⟨⟨h, -⟩, -⟩
    · rw [h, hcj j hj]
    · rw [hcj j hj, hopen] at h
      exact absurd h RecState.noConfusion

end Engine

/-! ### Words that give a status -/

section
variable {f : E96} {i : Instr} {fm : Form} {b : State → Eff} {s : State}

/-- A word that leaves one scalar outstanding, when its effect keeps what it must. -/
theorem gives_of_long (hw : wordOf i s = some (fm, b)) (ha : Acts s i) (hh : i.head? = some fm.h) (huni : onlyUni fm.h ∈ fm.bad)
    (hc : fm.control = false) {u : State} {x : Nat} (hb : b s = .long u (statusPend f x)) (hkept : Kept s u) {post : State → Prop}
    (hpost : ∀ t, t.cur = s.cur → t.copses = s.copses → (∀ cl, t.engineAt cl = u.engineAt cl) → t.me.b = u.me.b → post t) :
    ∃ t, LeavesPending i s t { Pend.empty with sw := [(f.dst.num.toNat, BitVec.ofNat 64 x)] } ∧ post t ∧ SameMemory s t ∧ t.copses = s.copses := by
  have hu : fm.h.uni = true := by simpa using acts_not_bad hw ha huni
  have hl := localFrame_outstanding hkept.cur i (statusPend f x)
  obtain ⟨hleaves, -⟩ := leavesPending_started hw ha hh hu hc hb hkept.cur hkept.regs
  have hcop := hl.copses_eq.trans hkept.copses
  exact ⟨_, hleaves, hpost _ (hl.cur_eq.trans hkept.cur) hcop hl.engineAt_eq (started_b hw hu hc hkept.cur), hkept.memory.trans hl.sameMemory, hcop⟩

theorem bind_eq (s : State) (n : Nat) (h : Option BHandle) :
    s.bind n h = s.setMe { s.me with b := match h with | some x => tset n x s.me.b | none => tdel n s.me.b } := rfl

theorem kept_bind (s : State) (n : Nat) (h : Option BHandle) : Kept s (s.bind n h) :=
  ⟨rfl, rfl, sameMemory_setStand s s.cur _, by rw [bind_eq, setMe_eq, setMe_me]; simp [SameRegs]⟩

theorem bind_b (s : State) (n : Nat) (h : Option BHandle) :
    (s.bind n h).me.b = match h with | some x => tset n x s.me.b | none => tdel n s.me.b := by
  rw [bind_eq, setMe_eq, setMe_me]

end

/-! ### Opening (R208, R225) -/

/-- Two reservations would hold one tile. -/
def heldTiles (s : State) (b : Nat) : Prop := ∃ x ∈ s.myEngine.taken, x.2.amask &&& (BitVec.ofNat 8 (bits b 39 32) : Byte) ≠ 0

/-- Tiles are given to a reservation with words of any value. -/
def Engine.seeded (e : Engine) (ts : List Nat) (free : Nat) : Engine :=
  ts.foldl (fun e j => { e with accSeed := tset j (free + j) e.accSeed }) e

theorem Engine.seeded_resv (ts : List Nat) (free : Nat) : ∀ e : Engine, (e.seeded ts free).resv = e.resv := by
  induction ts with
  | nil => exact fun _ => rfl
  | cons j ts ih => exact fun e => (ih _).trans rfl

/-- The machine behind an `mres` that opens record i at a run of granules. -/
def State.opened (s : State) (f : E96) (a b i base : Nat) : State :=
  let tag := (s.myEngine.resv i).tag
  let e := s.myEngine.seeded (tilesOf (BitVec.ofNat 8 (bits b 39 32))) s.free
  let u := s.setEngine s.myCluster (e.setResv i (newResv f a b (copseOf s.cur) (s.cur % 16) tag base))
  State.bind { u with free := u.free + 8 } (f.imm.toNat % 16) (some ⟨i, tag⟩)

section
variable {f : E96} {s : State} {a b : Nat}

theorem openResv_named (h : s.bNamed (f.imm.toNat % 16) = true) : s.openResv f a b = (1, s) := by
  unfold State.openResv
  simp only
  rw [if_pos h]

variable (h : s.bNamed (f.imm.toNat % 16) = false)
include h

theorem openResv_operands (hok : mresOk (mresFmt f) (f.md.getLsbD 4) (f.md.getLsbD 5) a b = false) : s.openResv f a b = (2, s) := by
  unfold State.openResv
  simp only
  rw [if_neg (by simp [h]), if_pos (by simpa using hok)]

variable (hok : mresOk (mresFmt f) (f.md.getLsbD 4) (f.md.getLsbD 5) a b = true)
include hok

theorem openResv_held (hheld : heldTiles s b) : s.openResv f a b = (3, s) := by
  unfold State.openResv
  simp only
  rw [if_neg (by simp [h]), if_neg (by simpa using hok), if_pos (by simpa [heldTiles] using hheld)]

variable (hfree : ¬heldTiles s b)
include hfree

theorem openResv_tiles : s.openResv f a b = match freeRecord s.myEngine with
    | none => (4, s)
    | some i => match s.myEngine.freeRun (bits a 16 9) with
      | none => (5, s)
      | some base => (0, s.opened f a b i base) := by
  unfold State.openResv
  simp only
  rw [if_neg (by simp [h]), if_neg (by simpa using hok), if_neg (by simpa [heldTiles] using hfree)]
  rfl

end

/-! ### Records and runs (R206, R225) -/

section
variable {e : Engine}

theorem freeRecord_none : freeRecord e = none ↔ ∀ i, ¬(i < 32 ∧ (e.resv i).state = .free) := by
  rw [freeRecord, List.find?_range_eq_none]
  simp only [not_and, Bool.not_eq_true', beq_eq_false_iff_ne, ne_eq]

theorem freeRecord_some {i : Nat} (h : i < 32 ∧ (e.resv i).state = .free) (hl : ∀ j, j < i → ¬(j < 32 ∧ (e.resv j).state = .free)) :
    freeRecord e = some i := by
  rw [freeRecord, List.find?_range_eq_some]
  refine ⟨by simpa using h.2, List.mem_range.mpr h.1, fun j hj => ?_⟩
  simpa using fun hs => hl j hj ⟨hj.trans h.1, hs⟩

/-- A run of granules that no reservation holds. -/
def Engine.fits (e : Engine) (n base : Nat) : Prop :=
  base + n ≤ 128 ∧ ∀ x ∈ e.taken, base + n ≤ x.2.gbase ∨ x.2.gbase + x.2.gcnt ≤ base

theorem fits_iff {n base : Nat} : e.fits n base ↔
    base < 129 - n ∧ (e.taken.all fun x => decide (base + n ≤ x.2.gbase) || decide (x.2.gbase + x.2.gcnt ≤ base)) = true := by
  have h : base + n ≤ 128 ↔ base < 129 - n := by omega
  simp only [Engine.fits, h, List.all_eq_true, Bool.or_eq_true, decide_eq_true_eq]

theorem freeRun_none {n : Nat} (h : ∀ base, ¬e.fits n base) : e.freeRun n = none := by
  rw [Engine.freeRun, List.find?_range_eq_none]
  intro base hb
  rw [Bool.not_eq_true', Bool.eq_false_iff]
  exact fun ht => h base (fits_iff.mpr ⟨hb, ht⟩)

theorem freeRun_some {n base : Nat} (h : e.fits n base) (hl : ∀ c, c < base → ¬e.fits n c) : e.freeRun n = some base := by
  obtain ⟨hb, hall⟩ := fits_iff.mp h
  rw [Engine.freeRun, List.find?_range_eq_some]
  refine ⟨hall, List.mem_range.mpr hb, fun c hc => ?_⟩
  rw [Bool.not_eq_true', Bool.eq_false_iff]
  exact fun ht => hl c hc (fits_iff.mpr ⟨hc.trans hb, ht⟩)
end

/-! ### What an opened reservation is -/

section
variable {f : E96} {s : State} {a b i base : Nat}

theorem kept_free (u : State) (n m : Nat) (h : Option BHandle) : Kept u (State.bind { u with free := m } n h) :=
  have hfree : Kept u { u with free := m } := ⟨rfl, rfl, sameMemory_of_parts (fun _ => rfl) rfl rfl rfl, sameRegs_refl _⟩
  hfree.trans (kept_bind _ _ _)

theorem opened_kept : Kept s (s.opened f a b i base) := by
  unfold State.opened
  exact (kept_setEngine s s.myCluster _).trans (kept_free (s.setEngine _ _) _ _ _)

theorem opened_resv : (((s.opened f a b i base).engineAt s.myCluster).resv i) =
    newResv f a b (copseOf s.cur) (s.cur % 16) (s.myEngine.resv i).tag base := by
  show (State.engineAt (s.setEngine _ _) s.myCluster).resv i = _
  rw [setEngine_engineAt, Engine.setResv_resv]

theorem opened_resv_ne {j : Nat} (h : j ≠ i) : ((s.opened f a b i base).engineAt s.myCluster).resv j = s.myEngine.resv j := by
  show (State.engineAt (s.setEngine _ _) s.myCluster).resv j = _
  rw [setEngine_engineAt, Engine.setResv_resv_ne h, Engine.seeded_resv]

theorem opened_b : (s.opened f a b i base).me.b = tset (f.imm.toNat % 16) ⟨i, (s.myEngine.resv i).tag⟩ s.me.b := bind_b ..

/-- A handle names the reservation that it was given for. -/
theorem bound_eq {t : State} {n i : Nat} {r : Resv} (hb : tfind n t.me.b = some ⟨i, r.tag⟩) (hr : t.myEngine.resv i = r) (ho : r.state = .opened)
    (hc : r.copse = copseOf t.cur) : t.bound n = some (i, r) := by
  unfold State.bound
  simp only [hb, hr]
  rw [if_pos ⟨ho, trivial, hc⟩]

theorem myCluster_congr {s t : State} (hcur : t.cur = s.cur) (hcop : t.copses = s.copses) : t.myCluster = s.myCluster := by
  simp only [State.myCluster, State.myCoreKey, State.coreOf, State.copseAt, hcur, hcop]

theorem bound_opened {n i : Nat} {r : Resv} (h : s.bound n = some (i, r)) : s.myEngine.resv i = r ∧ r.state = .opened := by
  refine ⟨bound_resv h, ?_⟩
  unfold State.bound at h
  split at h
  · cases h
  · simp only at h
    split at h
    · next ho =>
      cases h
      exact ho.1
    · cases h
end

/-! ### The words -/

theorem amask_bits (b : Nat) : (BitVec.ofNat 8 (bits b 39 32) : Byte) = BitVec.ofNat 8 (b / 2 ^ 32) := by
  apply BitVec.eq_of_toNat_eq
  simp [bits]

theorem ofNat_bits16 (a lo : Nat) : BitVec.ofNat 16 (bits a (lo + 15) lo) = BitVec.ofNat 16 (a / 2 ^ lo) := by
  apply BitVec.eq_of_toNat_eq
  simp [bits, show lo + 15 + 1 - lo = 16 by omega]

theorem ofNat_mod_extract {w : Nat} (x : BitVec w) : BitVec.ofNat 3 (x.toNat % 8) = x.extractLsb' 0 3 := by
  apply BitVec.eq_of_toNat_eq
  simp

theorem ofNat_mod_pow {w n : Nat} : BitVec.ofNat w (n % 2 ^ w) = BitVec.ofNat w n := by
  apply BitVec.eq_of_toNat_eq
  simp

section
variable {f : E96} {s : State}

/-- A status that changes nothing else. -/
theorem gives_same {i : Instr} {fm : Form} {b : State → Eff} (hw : wordOf i s = some (fm, b)) (ha : Acts s i) (hh : i.head? = some fm.h)
    (huni : onlyUni fm.h ∈ fm.bad) (hc : fm.control = false) {x : Nat} (hb : b s = .long s (statusPend f x)) :
    ∃ t, LeavesPending i s t { Pend.empty with sw := [(f.dst.num.toNat, BitVec.ofNat 64 x)] } ∧
      (t.engineAt s.myCluster = s.myEngine ∧ t.me.b = s.me.b) ∧ SameMemory s t ∧ t.copses = s.copses :=
  gives_of_long hw ha hh huni hc hb (Kept.refl s) fun _ _ _ heng hb => ⟨heng _, hb⟩

theorem bodyMres_eq {x : Nat} {u : State} (h : s.openResv f (s.rdS s.cur f.sa.num.toNat).toNat (s.rdS s.cur f.sb.num.toNat).toNat = (x, u)) :
    bodyMres f s = .long u (statusPend f x) := by
  unfold bodyMres
  rw [h]

theorem bodyMresDup_eq {x : Nat} {u : State} (h : s.dupResv f = (x, u)) : bodyMresDup f s = .long u (statusPend f x) := by
  unfold bodyMresDup
  rw [h]

end

/-! ### Naming, releasing and querying (R226, R227, R237) -/

section
variable {f : E96} {s : State}

/-- The reservation that `mres.dup` looks for. -/
def dupFound (f : E96) (s : State) (x : Nat × Resv) : Bool :=
  x.2.state == .opened && x.2.copse == copseOf s.cur && x.2.stand.toNat == f.imm.toNat / 2 ^ 8 % 16 && x.2.breg.toNat == f.imm.toNat / 2 ^ 4 % 16

theorem dupResv_named (h : s.bNamed (f.imm.toNat % 16) = true) : s.dupResv f = (1, s) := by
  unfold State.dupResv
  simp only [show bits f.imm.toNat 3 0 = f.imm.toNat % 16 from bits_low ..]
  rw [if_pos h]

theorem dupResv_free (h : s.bNamed (f.imm.toNat % 16) = false) : s.dupResv f = match s.myEngine.recs.find? (dupFound f s) with
    | none => (6, s)
    | some (i, r) => (0, s.bind (f.imm.toNat % 16) (some ⟨i, r.tag⟩)) := by
  unfold State.dupResv
  simp only [show bits f.imm.toNat 3 0 = f.imm.toNat % 16 from bits_low ..]
  rw [if_neg (by simp [h])]
  rfl

theorem bodyMrel_none (h : s.bound f.sa.num.toNat = none) : bodyMrel f s = .done (s.bind f.sa.num.toNat none) := by
  unfold bodyMrel
  simp only [h]

theorem bodyMrel_some {i : Nat} {r : Resv} (h : s.bound f.sa.num.toNat = some (i, r)) :
    bodyMrel f s = .done ((s.setEngine s.myCluster (s.myEngine.release i)).bind f.sa.num.toNat none) := by
  unfold bodyMrel
  simp only [h]

/-- `mrel` passes with its register null and its engine as the release leaves it. -/
theorem mrel_passes (ha : Acts s (.mrel f)) {u : State} {e : Engine} (hkept : Kept s u) (heng : u.engineAt s.myCluster = e) (hb : u.me.b = s.me.b)
    (hbody : bodyMrel f s = .done (u.bind f.sa.num.toNat none)) :
    ∃ t, PassesWith (.mrel f) s t ∧ t.engineAt s.myCluster = e ∧ t.me.b = tdel f.sa.num.toNat s.me.b ∧ SameMemory s t := by
  have hk : Kept s (u.bind f.sa.num.toNat none) := hkept.trans (kept_bind u _ _)
  refine ⟨_, passesWith_done rfl ha rfl hbody hk.cur hk.regs, ?_, ?_, (hk.behind _).1⟩
  · rw [(localFrame_behind hk.cur _).engineAt_eq]
    exact heng
  · rw [done_b (i := .mrel f) rfl rfl hk.cur, bind_b, hb]

theorem bodyMwait_none (h : s.bound f.sa.num.toNat = none) : bodyMwait f s = .trap (trapOf (.mwait f) 8 1) := by
  unfold bodyMwait
  simp only [h]

/-- What an `mwait` leaves outstanding. -/
def waitPend (f : E96) (s : State) (i : Nat) (r : Resv) : Pend :=
  { Pend.empty with on := .mwait s.myCluster i r.tag r.accepted f.dst.num.toNat s.me.spot, sw := [(f.dst.num.toNat, 0)] }

theorem bodyMwait_some {i : Nat} {r : Resv} (h : s.bound f.sa.num.toNat = some (i, r)) : bodyMwait f s = .long s (waitPend f s i r) := by
  unfold bodyMwait
  simp only [h]
  rfl

theorem bodyMq_none (h : s.bound f.sa.num.toNat = none) : bodyMq f s = .long s (statusPend f 0) := by
  unfold bodyMq
  simp only [h]

theorem bodyMq_some {i : Nat} {r : Resv} (h : s.bound f.sa.num.toNat = some (i, r)) :
    bodyMq f s = .long (if f.md = 1 then s.setEngine s.myCluster (s.myEngine.setResv i { r with ff := false }) else s)
      (statusPend f (r.toBits / 2 ^ (64 * f.imm.toNat) % 2 ^ 64)) := by
  unfold bodyMq
  simp only [h]

end

/-! ### Waiting (R236) -/

/-- An `mwait` ends when no command up to the one it names is left. -/
theorem mwaitDone_eq (e : Engine) (n upto : Nat) : e.mwaitDone n upto = if ∃ c ∈ (e.resv n).queue, c.seq ≤ upto then none
    else some ((e.resv n).ff.toNat + if ∃ g ∈ (e.resv n).gone, g ≤ upto then 2 else 0) := by
  simp [Engine.mwaitDone]

section
variable {s : State} {k idx cl i tag upto d : Nat} {x : Spot} {p : Pend} (hp : (s.standAt k).pend[idx]? = some p)
  (hon : p.on = .mwait cl i tag upto d x) (hres : (s.copseAt (copseOf k)).life = .resident)
  (hbefore : ∀ q ∈ (s.standAt k).pend.take idx, q.before p = false) (htag : ((s.engineAt cl).resv i).tag = tag)

include hp hon hres hbefore htag in
theorem completePend_mwait : s.completePend k idx = match (s.engineAt cl).mwaitDone i upto with
    | none => s
    | some v => (s.setStand k { s.standAt k with pend := (s.standAt k).pend.eraseIdx idx }).finish k { p with sw := [(d, BitVec.ofNat 64 v)] } := by
  have hwait : ¬((s.copseAt (copseOf k)).life ≠ .resident ∨ ((s.standAt k).pend.take idx).any (fun q => q.before p) = true) := by
    simpa [hres] using hbefore
  unfold State.completePend State.pendDone
  simp only [hp, if_neg hwait, hon, htag]
  rw [if_neg (by simp)]
  cases (s.engineAt cl).mwaitDone i upto with
  | none => rfl
  | some v => rfl

/-- The result of an `mwait` that completes. -/
theorem finish_mwait (hs : p.slost = []) (v : Nat) :
    let t := (s.setStand k { s.standAt k with pend := (s.standAt k).pend.eraseIdx idx }).finish k { p with sw := [(d, BitVec.ofNat 64 v)] }
    tget 0 (t.standAt k).sr d = BitVec.ofNat 64 v ∧ (t.standAt k).pend = (s.standAt k).pend.eraseIdx idx := by
  intro t
  obtain ⟨u, hu⟩ : ∃ u, u = s.setStand k { s.standAt k with pend := (s.standAt k).pend.eraseIdx idx } := ⟨_, rfl⟩
  have hstand : u.standAt k = { s.standAt k with pend := (s.standAt k).pend.eraseIdx idx } := by rw [hu, setStand_standAt]
  obtain ⟨fl, hfl⟩ := flagDown_eq ((u.standAt k).put (u.landing { p with sw := [(d, BitVec.ofNat 64 v)] })) (p.flag.getD 15)
  have ht : t.standAt k = { (s.standAt k).put (u.landing { p with sw := [(d, BitVec.ofNat 64 v)] }) with
      pend := (s.standAt k).pend.eraseIdx idx, flags := fl } := by
    show (State.finish _ k _).standAt k = _
    rw [finish_standAt, ← hu, hfl, hstand]
    rfl
  refine ⟨?_, by rw [ht]⟩
  rw [ht]
  simp [Stand.put, State.landing, hs, tputs]
end

/-- Settles O37: each word by the outcome of its opening, naming or release, and `mwait` by what is left of its reservation's queue. -/
theorem matrixReservations : Obligations.MatrixReservations := by
  refine ⟨fun f s => ?_, ?_⟩
  · intro e cl gives same n
    refine ⟨fun ha => ?_, fun ha => ?_, fun ha => ?_, fun ha => ?_, fun ha => ?_⟩
    · intro a b ok am gcnt held free fits
      have hgive {x : Nat} (h : s.openResv f a b = (x, s)) : gives (.mres f) x same :=
        gives_same rfl ha rfl List.mem_cons_self rfl (bodyMres_eq h)
      have hheld : held ↔ heldTiles s b := by rw [heldTiles, amask_bits]
      refine ⟨fun h => hgive (openResv_named h), fun h hok => hgive (openResv_operands h hok), fun h hok hh =>
        hgive (openResv_held h hok (hheld.mp hh)), fun h hok hh hf => hgive ?_, fun h hok hh hf hr => hgive ?_, fun i base h hok hh hi hl hr hrl => ?_⟩
      · rw [openResv_tiles h hok (hheld.not.mp hh), freeRecord_none.mpr hf]
      · obtain ⟨i, hi⟩ : ∃ i, freeRecord s.myEngine = some i := Option.ne_none_iff_exists'.mp fun hn => hf.elim fun i hi => freeRecord_none.mp hn i hi
        simp only [openResv_tiles h hok (hheld.not.mp hh), hi, show s.myEngine.freeRun (bits a 16 9) = none from freeRun_none hr]
      · have hopen : s.openResv f a b = (0, s.opened f a b i base) := by
          simp only [openResv_tiles h hok (hheld.not.mp hh), show freeRecord s.myEngine = some i from freeRecord_some hi hl, show s.myEngine.freeRun (bits a 16 9) = some base from freeRun_some hr hrl]
        refine gives_of_long rfl ha rfl List.mem_cons_self rfl (bodyMres_eq hopen) opened_kept fun t hcur hcop heng htb => ?_
        have hres : (t.engineAt cl).resv i = newResv f a b (copseOf s.cur) (s.cur % 16) (e.resv i).tag base := by rw [heng, opened_resv]
        have hbound : t.bound n = some (i, (t.engineAt cl).resv i) := by
          have ht : t.myEngine.resv i = (t.engineAt cl).resv i := by rw [State.myEngine, myCluster_congr hcur hcop]
          refine bound_eq ?_ ht ?_ ?_
          · rw [htb, opened_b, tfind_tset_self, hres]
            rfl
          · rw [hres]
            rfl
          · rw [hres, hcur]
            rfl
        intro r
        have hr' : r = newResv f a b (copseOf s.cur) (s.cur % 16) (e.resv i).tag base := hres
        clear_value r
        subst hr'
        refine ⟨rfl, rfl, rfl, ofNat_mod_extract _, rfl, rfl, rfl, bits_low .., ofNat_bits16 a 32, ofNat_bits16 a 48, rfl, amask_bits b, rfl, rfl, rfl, rfl,
          rfl, rfl, ofNat_mod_pow.symm, hres ▸ hbound, fun m hm => ?_, fun j hj => ?_⟩
        · rw [htb, opened_b, tfind_tset_ne hm]
        · rw [heng, opened_resv_ne hj]
    · intro found
      refine ⟨fun h => gives_same rfl ha rfl List.mem_cons_self rfl (bodyMresDup_eq (dupResv_named h)), fun h hf =>
        gives_same rfl ha rfl List.mem_cons_self rfl (bodyMresDup_eq ?_), fun i r h hf => ?_⟩
      · simp only [dupResv_free h, show s.myEngine.recs.find? (dupFound f s) = none from hf]
      · have hdup : s.dupResv f = (0, s.bind n (some ⟨i, r.tag⟩)) := by
          simp only [dupResv_free h, show s.myEngine.recs.find? (dupFound f s) = some (i, r) from hf]
          rfl
        refine gives_of_long rfl ha rfl List.mem_cons_self rfl (bodyMresDup_eq hdup) (kept_bind s _ _) fun t hcur hcop heng htb => ⟨heng _, ?_, fun m hm => ?_⟩
        · rw [htb, bind_b, tfind_tset_self]
        · rw [htb, bind_b, tfind_tset_ne hm]
    · intro n
      refine ⟨fun h => ?_, fun i r h => ?_⟩
      · obtain ⟨t, hpass, heng, hb, hmem⟩ := mrel_passes ha (Kept.refl s) rfl rfl (bodyMrel_none h)
        exact ⟨t, hpass, heng, by rw [hb, tfind_tdel, if_pos rfl], hmem⟩
      · obtain ⟨hres, hopen⟩ := bound_opened h
        obtain ⟨t, hpass, heng, hb, hmem⟩ := mrel_passes ha (kept_setEngine s _ _) (setEngine_engineAt ..) rfl (bodyMrel_some h)
        refine ⟨t, hpass, by rw [hb, tfind_tdel, if_pos rfl], hmem, fun m hm => by rw [hb, tfind_tdel, if_neg hm], ?_⟩
        rw [heng]
        exact Engine.release_resv hres hopen
    · refine ⟨fun h => matrixTraps_of_trap rfl ha (bodyMwait_none h), fun i r h => ?_⟩
      have hu : f.h.uni = true := by
        simpa using acts_not_bad rfl ha (show onlyUni f.h ∈ (formMwait f).bad from List.mem_cons_self)
      have hl := localFrame_outstanding (u := s) rfl (.mwait f) (waitPend f s i r)
      obtain ⟨hleaves, -⟩ := leavesPending_started rfl ha rfl hu rfl (bodyMwait_some h) rfl (sameRegs_refl _)
      exact ⟨_, hl, hl.sameMemory, hleaves⟩
    · refine ⟨fun h => gives_same rfl ha rfl List.mem_cons_self rfl (bodyMq_none h), fun i r h => ?_⟩
      have hb := bodyMq_some h
      have hres := bound_resv h
      split_ifs at hb with hclr
      · refine gives_of_long rfl ha rfl List.mem_cons_self rfl hb (kept_setEngine s _ _) fun t hcur hcop heng htb => ⟨?_, htb, fun j hj => ?_⟩
        · rw [heng, setEngine_engineAt, Engine.setResv_resv, if_pos hclr]
        · rw [heng, setEngine_engineAt, Engine.setResv_resv_ne hj]
      · refine gives_of_long rfl ha rfl List.mem_cons_self rfl hb (Kept.refl s) fun t hcur hcop heng htb => ⟨?_, htb, fun j hj => ?_⟩
        · rw [heng, if_neg hclr]
          exact hres
        · rw [heng]
          rfl
  intro k idx cl i tag upto d x p s hp hon hres hbefore hs r htag
  refine ⟨fun hc => ?_, fun hc => ?_⟩
  · show Host.Outcome.next (s.completePend k idx) = _
    rw [completePend_mwait hp hon hres hbefore htag, mwaitDone_eq, if_pos hc]
  · refine ⟨_, ?_, finish_mwait hs _⟩
    show Host.Outcome.next (s.completePend k idx) = _
    rw [completePend_mwait hp hon hres hbefore htag, mwaitDone_eq, if_neg fun ⟨c, hm, hle⟩ => absurd (hc c hm) (Nat.not_lt.mpr hle)]

end Sys2Proof.Machine
end

section
/-! SUPPORT. Lists of writes and what they leave in byte memory (spec/02 R27, R43). -/

namespace Sys2Proof.Machine

/-! ### Numbers and their bytes -/

theorem natOf_append (a b : List Byte) : natOf (a ++ b) = natOf a + 256 ^ a.length * natOf b := by
  induction a with
  | nil => simp [natOf]
  | cons x a ih => rw [List.cons_append, natOf, natOf, ih, List.length_cons, pow_succ]; ring

/-- The byte at a place of the number that bytes make. -/
theorem ofNat_natOf (bs : List Byte) : ∀ i b, bs[i]? = some b → BitVec.ofNat 8 (natOf bs / 256 ^ i) = b := by
  induction bs with
  | nil => intro i b h; simp at h
  | cons x bs ih =>
    intro i b h
    cases i with
    | zero =>
      obtain rfl : x = b := by simpa using h
      apply BitVec.eq_of_toNat_eq
      simp only [natOf, pow_zero, Nat.div_one, BitVec.toNat_ofNat]
      omega
    | succ i =>
      rw [natOf, pow_succ', ← Nat.div_div_eq_div_mul, show (x.toNat + 256 * natOf bs) / 256 = natOf bs by have := x.isLt; omega]
      exact ih i b (by simpa using h)

theorem bytesOf_getElem? (n : Nat) : ∀ (x i : Nat), i < n → (bytesOf x n)[i]? = some (BitVec.ofNat 8 (x / 256 ^ i)) := by
  induction n with
  | zero => intro x i h; omega
  | succ n ih =>
    intro x i h
    cases i with
    | zero => simp [bytesOf]
    | succ i =>
      rw [bytesOf, List.getElem?_cons_succ, ih _ _ (by omega), pow_succ', Nat.div_div_eq_div_mul]

/-! ### The last write to a place -/

/-- The byte that one write puts at a place, if it covers it. -/
def writtenBy (w : Nat × Nat × Nat) (a : Nat) : Option Byte :=
  if w.1 ≤ a ∧ a < w.1 + w.2.1 then some (BitVec.ofNat 8 (w.2.2 / 256 ^ (a - w.1))) else none

theorem lastByte_nil (a : Nat) : lastByte [] a = none := rfl
theorem lastByte_append (us ws : List (Nat × Nat × Nat)) (a : Nat) : lastByte (us ++ ws) a = (lastByte ws a).or (lastByte us a) := by
  simp only [lastByte, List.reverse_append, List.find?_append, Option.map_or]
theorem lastByte_singleton (w : Nat × Nat × Nat) (a : Nat) : lastByte [w] a = writtenBy w a := by
  unfold lastByte writtenBy
  by_cases h : w.1 ≤ a ∧ a < w.1 + w.2.1 <;> simp [h]
theorem lastByte_cons (w : Nat × Nat × Nat) (ws : List (Nat × Nat × Nat)) (a : Nat) : lastByte (w :: ws) a = (lastByte ws a).or (writtenBy w a) := by
  rw [← lastByte_singleton, ← lastByte_append]
  rfl

theorem lastByte_eq_none {ws : List (Nat × Nat × Nat)} {a : Nat} : lastByte ws a = none ↔ ∀ w ∈ ws, writtenBy w a = none := by
  induction ws with
  | nil => simp [lastByte_nil]
  | cons w ws ih => rw [lastByte_cons, Option.or_eq_none_iff, ih, List.forall_mem_cons, and_comm]

/-- What stands at a covered place is the byte of some write there. -/
theorem exists_of_lastByte {ws : List (Nat × Nat × Nat)} {a : Nat} {b : Byte} (h : lastByte ws a = some b) : ∃ w ∈ ws, writtenBy w a = some b := by
  induction ws with
  | nil => cases h
  | cons w ws ih =>
    rw [lastByte_cons, Option.or_eq_some_iff] at h
    rcases h with h | ⟨-, h⟩
    · obtain ⟨x, hx, hb⟩ := ih h
      exact ⟨x, List.mem_cons_of_mem _ hx, hb⟩
    · exact ⟨w, List.mem_cons_self, h⟩

theorem writtenBy_some {w : Nat × Nat × Nat} {a : Nat} {b : Byte} (h : writtenBy w a = some b) :
    w.1 ≤ a ∧ a < w.1 + w.2.1 ∧ b = BitVec.ofNat 8 (w.2.2 / 256 ^ (a - w.1)) := by
  unfold writtenBy at h
  split at h
  · next hc => exact ⟨hc.1, hc.2, (Option.some.inj h).symm⟩
  · cases h

theorem lastByte_congr {α : Type} {f g : α → Nat × Nat × Nat} {a : Nat} : ∀ {es : List α}, (∀ e ∈ es, writtenBy (f e) a = writtenBy (g e) a) →
    lastByte (es.map f) a = lastByte (es.map g) a
  | [], _ => rfl
  | e :: es, h => by
    rw [List.map_cons, List.map_cons, lastByte_cons, lastByte_cons, h e List.mem_cons_self,
      lastByte_congr fun x hx => h x (List.mem_cons_of_mem _ hx)]

/-- Writes moved by a distance write the same, moved. -/
theorem lastByte_moved (d a : Nat) : ∀ ws : List (Nat × Nat × Nat), lastByte (ws.map (fun w => (d + w.1, w.2))) (d + a) = lastByte ws a
  | [] => rfl
  | w :: ws => by
    have hone : writtenBy (d + w.1, w.2) (d + a) = writtenBy w a := by
      unfold writtenBy
      simp only [Nat.add_sub_add_left, Nat.add_assoc, Nat.add_le_add_iff_left, Nat.add_lt_add_iff_left]
    rw [List.map_cons, lastByte_cons, lastByte_cons, hone, lastByte_moved d a ws]

/-! ### Bytes written one run after the other -/

/-- Runs of bytes, each from its address. -/
def putRuns (rs : List (Nat × List Byte)) (m : Mem) : Mem :=
  rs.foldl (fun m r => putBytes (((List.range r.2.length).zip r.2).map (fun b => (r.1 + b.1, b.2))) m) m
theorem putRuns_cons (r : Nat × List Byte) (rs : List (Nat × List Byte)) (m : Mem) :
    putRuns (r :: rs) m = putRuns rs (putBytes (((List.range r.2.length).zip r.2).map (fun b => (r.1 + b.1, b.2))) m) := rfl
/-- A run as one write. -/
def runWrite (r : Nat × List Byte) : Nat × Nat × Nat := (r.1, r.2.length, natOf r.2)

theorem writtenBy_run (r : Nat × List Byte) (a : Nat) : writtenBy (runWrite r) a = if r.1 ≤ a then r.2[a - r.1]? else none := by
  unfold writtenBy runWrite
  by_cases h : r.1 ≤ a ∧ a < r.1 + r.2.length
  · have hget : r.2[a - r.1]? = some (r.2[a - r.1]'(by omega)) := List.getElem?_eq_getElem _
    rw [if_pos h, if_pos h.1, hget, ofNat_natOf _ _ _ hget]
  · rw [if_neg h]
    split
    · exact (List.getElem?_eq_none (by omega)).symm
    · rfl

/-- The low bytes of a number as a write. -/
theorem writtenBy_bytesOf (d x n a : Nat) : writtenBy (runWrite (d, bytesOf x n)) a = writtenBy (d, n, x) a := by
  rw [writtenBy_run]
  unfold writtenBy
  by_cases h : d ≤ a ∧ a < d + n
  · rw [if_pos h, if_pos h.1, bytesOf_getElem? _ _ _ (by omega)]
  · rw [if_neg h]
    split
    · exact List.getElem?_eq_none (by rw [bytesOf_length]; omega)
    · rfl

/-- Memory behind runs: the last that covers a place stands there. -/
theorem memGet_putRuns (a : Nat) : ∀ (rs : List (Nat × List Byte)) (m : Mem),
    memGet (putRuns rs m) a = (lastByte (rs.map runWrite) a).getD (memGet m a)
  | [], _ => rfl
  | r :: rs, m => by
    rw [putRuns_cons, memGet_putRuns a rs, List.map_cons, lastByte_cons, writtenBy_run, memGet_putBytes_range]
    cases lastByte (rs.map runWrite) a with
    | some b => rfl
    | none => split <;> simp

/-! ### Elements as runs -/

theorem putBytes_append (xs ys : List (Nat × Byte)) (m : Mem) : putBytes (xs ++ ys) m = putBytes ys (putBytes xs m) := List.foldl_append ..

theorem putBytes_elems (sz : Nat) : ∀ (es : List (Nat × Word32)) (m : Mem),
    putBytes (elemsBytes sz es) m = putRuns (es.map (fun e => (e.1, bytesOf e.2.toNat sz))) m
  | [], _ => rfl
  | e :: es, m => by
    have htail := putBytes_elems sz es
    rw [elemsBytes] at htail
    rw [elemsBytes, List.flatMap_cons, putBytes_append, htail, List.map_cons, putRuns_cons, bytesOf_length]

theorem memGet_putElemsBytes (sz a : Nat) (es : List (Nat × Word32)) (m : Mem) :
    memGet (putBytes (elemsBytes sz es) m) a = (lastByte (es.map (fun e => (e.1, sz, e.2.toNat))) a).getD (memGet m a) := by
  rw [putBytes_elems, memGet_putRuns, List.map_map]
  congr 1
  exact lastByte_congr fun e _ => writtenBy_bytesOf ..

end Sys2Proof.Machine
end

section
/-! SUPPORT. Writes of engines at the homes of their lines (spec/10 R216, R234; spec/12 R279, R299). -/

namespace Sys2Proof.Machine

/-- Some writes have gone home: each byte there is the last write's or what it was, and beside directory, orders, placement and old values nothing
differs. -/
structure WritesHome (s t : State) (ws : List (Nat × Nat × Nat)) : Prop where
  rest : t = { s with dir := t.dir, placement := t.placement, order := t.order, stale := t.stale, past := t.past }
  home : ∀ a, isWindow a = false → t.homeGet a = (lastByte ws a).getD (s.homeGet a)

section
variable {s t u : State} {us ws : List (Nat × Nat × Nat)}

theorem WritesHome.refl (s : State) : WritesHome s s [] := ⟨rfl, fun _ _ => rfl⟩

theorem WritesHome.trans (h : WritesHome s t us) (h' : WritesHome t u ws) : WritesHome s u (us ++ ws) := by
  refine ⟨?_, fun a ha => ?_⟩
  · rw [h'.rest, h.rest]
  · rw [h'.home a ha, h.home a ha, lastByte_append]
    cases lastByte ws a <;> rfl

theorem WritesHome.then_kept (h : WritesHome s t us) (h' : WritesHome t u []) : WritesHome s u us := List.append_nil us ▸ h.trans h'
theorem WritesHome.of_kept (h : WritesHome s t []) (h' : WritesHome t u us) : WritesHome s u us := h.trans h'

theorem writesHome_of_home (hrest : t = { s with dir := t.dir, placement := t.placement, order := t.order, stale := t.stale, past := t.past })
    (hdir : t.dir = s.dir) : WritesHome s t [] := by
  refine ⟨hrest, fun a _ => ?_⟩
  have hf : t.frames = s.frames := by rw [hrest]
  have hp : t.posted = s.posted := by rw [hrest]
  rw [homeGet_congr hdir hf hp]
  rfl
end

section
variable (s : State)

theorem writesHome_noteStale (stands : List Nat) (ws : List (Nat × Word32)) : WritesHome s (s.noteStale stands ws) [] := writesHome_of_home rfl rfl

theorem writesHome_foldl {α : Type} {f : State → α → State} (hf : ∀ s a, WritesHome s (f s a) []) : ∀ (l : List α) (s : State), WritesHome s (l.foldl f s) []
  | [], s => .refl s
  | a :: l, s => (hf s a).trans (writesHome_foldl hf l (f s a))

theorem writesHome_noteHome (line : Nat) (old new : Mem) : WritesHome s (s.noteHome line old new) [] :=
  writesHome_foldl (fun s _ => writesHome_noteStale s _ _) _ s

theorem writesHome_noteEngine (copse bit line : Nat) : WritesHome s (s.noteEngine copse bit line) [] := by
  unfold State.noteEngine
  split
  · exact writesHome_of_home rfl rfl
  · exact .refl s

theorem writesHome_setDir {line : Nat} {d : Dir} (h : HoldsHome s line d) : WritesHome s (s.setDir line d) [] :=
  ⟨rfl, fun a _ => (homeKept_setDir h).home a⟩

theorem writesHome_request (line field : Nat) (stream : Bool) : WritesHome s (s.request line field stream) [] := by
  refine ⟨?_, fun a _ => (homeKept_request s line field stream).home a⟩
  unfold State.request
  simp only
  split
  · rfl
  · rfl
end

/-- Elements of a line as writes. -/
def lineWrites (line sz : Nat) (es : List (Nat × Word32)) : List (Nat × Nat × Nat) := es.map (fun e => (128 * line + e.1, sz, e.2.toNat))

section
variable {line sz : Nat} {es : List (Nat × Word32)}

/-- Writes of a line leave other lines. -/
theorem lineWrites_other (hin : ∀ e ∈ es, e.1 + sz ≤ 128) {a : Nat} (ha : a / 128 ≠ line) : lastByte (lineWrites line sz es) a = none := by
  refine lastByte_eq_none.mpr fun w hw => ?_
  obtain ⟨e, he, rfl⟩ := List.mem_map.mp hw
  have := hin e he
  exact if_neg fun hc => ha (by simp only at hc; omega)

theorem lineWrites_line (a : Nat) (ha : a / 128 = line) :
    lastByte (lineWrites line sz es) a = lastByte (es.map (fun e => (e.1, sz, e.2.toNat))) (a % 128) := by
  have hmap : lineWrites line sz es = (es.map (fun e => (e.1, sz, e.2.toNat))).map (fun w => (128 * line + w.1, w.2)) := by
    rw [List.map_map]
    rfl
  conv_lhs => rw [hmap, show a = 128 * line + a % 128 by omega]
  exact lastByte_moved ..

theorem elemsBytes_in (hin : ∀ e ∈ es, e.1 + sz ≤ 128) : ∀ b ∈ elemsBytes sz es, b.1 < 128 := by
  intro b hb
  obtain ⟨e, he, hb⟩ := List.mem_flatMap.mp hb
  obtain ⟨x, hx, rfl⟩ := List.mem_map.mp hb
  have := List.mem_range.mp (List.of_mem_zip hx).1
  have := hin e he
  simp only
  omega

/-- Elements without bytes write nothing. -/
theorem lastByte_of_no_bytes (h : elemsBytes sz es = []) (x : Nat) : lastByte (es.map (fun e => (e.1, sz, e.2.toNat))) x = none := by
  cases hb : lastByte (es.map (fun e => (e.1, sz, e.2.toNat))) x with
  | none => rfl
  | some b =>
    have hval (m : Mem) : memGet m x = b := by
      have := memGet_putElemsBytes sz x es m
      rwa [h, hb] at this
    have h01 : memGet [] x = memGet [(x, 1)] x := (hval _).trans (hval _).symm
    simp [memGet, tget, tfind] at h01

/-- Elements put at the home of their line (R279). -/
theorem writesHome_homePut (s : State) (vi : Nat) (hw : isWindow (128 * line) = false) (hin : ∀ e ∈ es, e.1 + sz ≤ 128) :
    WritesHome s (s.homePut vi line (elemsBytes sz es)) (lineWrites line sz es) := by
  have hall : (elemsBytes sz es).filter (fun b => decide (b.1 < 128)) = elemsBytes sz es :=
    List.filter_eq_self.mpr fun b hb => decide_eq_true (elemsBytes_in hin b hb)
  obtain ⟨hcached, hheld⟩ := holdsHome_cached (s := s) vi line hw
  obtain ⟨d, hd⟩ : ∃ d, d = s.cached vi line := ⟨_, rfl⟩
  obtain ⟨b, hb⟩ : ∃ b, b = putBytes (elemsBytes sz es) d.bytes := ⟨_, rfl⟩
  have hput : WritesHome s (s.setDir line { d with bytes := b, dirty := true, written := true, zero := b == [] }) (lineWrites line sz es) := by
    refine ⟨rfl, fun a _ => ?_⟩
    by_cases ha : a / 128 = line
    · have hold := hheld (a % 128) (Nat.mod_lt _ (by omega))
      rw [show 128 * line + a % 128 = a by omega] at hold
      have hc : d.cached = true := hd ▸ hcached
      rw [lineWrites_line a ha, ← hold, ← hd, ← memGet_putElemsBytes, ← hb]
      unfold State.homeGet
      simp only [ha, setDir_dirAt, hc, if_true]
    · rw [lineWrites_other hin ha]
      unfold State.homeGet
      simp only [setDir_dirAt_ne _ _ _ ha]
      rfl
  unfold State.homePut
  simp only [hall, hw, ← hd, ← hb, Bool.false_eq_true, if_false]
  split_ifs with hnil hsame
  · refine ⟨rfl, fun a _ => ?_⟩
    by_cases ha : a / 128 = line
    · rw [lineWrites_line a ha, lastByte_of_no_bytes hnil]
      rfl
    · rw [lineWrites_other hin ha]
      rfl
  · exact hput.then_kept (writesHome_noteHome _ _ _ _)
  · exact (hput.then_kept (writesHome_noteHome _ _ _ _)).then_kept (writesHome_of_home rfl rfl)

/-- An engine writes elements of a line (R279, R299). -/
theorem writesHome_engineWrite (s : State) (vi field copse : Nat) (hw : isWindow (128 * line) = false) (hin : ∀ e ∈ es, e.1 + sz ≤ 128) :
    WritesHome s ((s.engineWrite vi field line (elemsBytes sz es) false).noteEngine copse 5 line) (lineWrites line sz es) := by
  unfold State.engineWrite
  rw [if_neg (by simp [hw])]
  exact ((writesHome_homePut s vi hw hin).then_kept (writesHome_request _ _ _ _)).then_kept (writesHome_noteEngine _ _ _ _)
end

end Sys2Proof.Machine
end

section
/-! SUPPORT. The end of a matrix command (spec/09 R210, R212, R216): what completes, and what stays of its queue. -/

namespace Sys2Proof.Machine

namespace Engine
variable {n : Nat}

/-! ### Sweeping takes commands away only -/

theorem freeOne_queue (e : Engine) (k n : Nat) : ∀ d ∈ ((e.freeOne k).resv n).queue, d ∈ (e.resv n).queue := by
  intro d hd
  rcases freeOne_resv e k n with h | ⟨-, h⟩
  · rwa [h] at hd
  · rw [h] at hd
    exact absurd hd List.not_mem_nil

theorem freeAll_queue (e : Engine) (n : Nat) : ∀ d ∈ (e.freeAll.resv n).queue, d ∈ (e.resv n).queue := by
  unfold Engine.freeAll
  generalize e.recs.map Prod.fst = ns
  induction ns generalizing e with
  | nil => exact fun _ h => h
  | cons k ns ih => exact fun d hd => freeOne_queue e k n d (ih _ d hd)

theorem sweep_queue (n k : Nat) : ∀ (e : Engine), ∀ d ∈ ((e.sweep n k).resv n).queue, d ∈ (e.resv n).queue := by
  induction k with
  | zero => exact fun _ _ h => h
  | succ k ih =>
    intro e d hd
    unfold Engine.sweep at hd
    simp only at hd
    split at hd
    · next c q hq =>
      split at hd
      · have := ih _ d hd
        rw [setResv_resv] at this
        exact hq ▸ List.mem_cons_of_mem _ this
      · exact freeAll_queue e n d hd
    · exact freeAll_queue e n d hd

theorem mem_setPhase {e : Engine} {seq : Nat} {p : CmdPhase} {d : Cmd} (h : d ∈ ((e.setPhase n seq p).resv n).queue) (hd : d.seq = seq) : d.phase = p := by
  rw [setPhase_eq, mapCmd_resv] at h
  obtain ⟨c, -, rfl⟩ := List.mem_map.mp h
  split_ifs at hd ⊢ with hc
  · rfl
  · exact absurd hd hc

end Engine

/-- A command has ended: what is left of it in its queue is complete. -/
def Finished (t : State) (cl n seq : Nat) : Prop := ∀ d ∈ ((t.engineAt cl).resv n).queue, d.seq = seq → d.phase = .complete

/-- A phase given to a command is its phase behind the sweep. -/
theorem setPhase_sweep (s : State) (cl n seq : Nat) (p : CmdPhase) :
    ∀ d ∈ ((((s.setEngine cl ((s.engineAt cl).setPhase n seq p)).sweep cl n).engineAt cl).resv n).queue, d.seq = seq → d.phase = p := by
  intro d hd
  unfold State.sweep at hd
  simp only [setEngine_engineAt] at hd
  exact Engine.mem_setPhase (Engine.sweep_queue n _ _ d hd)

theorem finished_cmdDone (s : State) (cl n seq : Nat) : Finished ((s.cmdDone cl n seq).sweep cl n) cl n seq := setPhase_sweep s cl n seq .complete

/-- A sweep changes engines alone. -/
theorem sweep_rest (s : State) (cl n : Nat) : s.sweep cl n = { s with clusters := (s.sweep cl n).clusters } := rfl

/-- What is behind a completed command but for engines. -/
theorem cmdDone_sweep_rest (s : State) (cl n seq : Nat) :
    (s.cmdDone cl n seq).sweep cl n = { s with clusters := ((s.cmdDone cl n seq).sweep cl n).clusters } := rfl

theorem sameMemory_clusters {s t : State} (x : Tbl Cluster) (h : SameMemory s t) : SameMemory s { t with clusters := x } :=
  h.trans (sameMemory_of_parts (fun _ => rfl) rfl rfl rfl)

/-! ### The command that goes on (R210, R212) -/

section
variable {s : State} {cl n : Nat} {c : Cmd} (hfind : ((s.engineAt cl).resv n).queue.find? (fun c => c.phase != .complete) = some c)
  (hrun : (s.engineAt cl).running n c = true)
include hfind hrun

theorem passDone_eq : s.passDone cl n = match c.op.drainOp with | some o => s.deliverDrain cl n c o | none => s.cmdDone cl n c.seq := by
  unfold State.passDone
  simp only [hfind, Option.filter_some, hrun, if_true] <;> rfl

theorem exec_passComplete_plain (ho : c.op.drainOp = none) : exec (.passComplete cl n) s = .next ((s.cmdDone cl n c.seq).sweep cl n) := by
  show Host.Outcome.next ((s.passDone cl n).sweep cl n) = _
  rw [passDone_eq hfind hrun, ho]

/-- A drain under way delivers. -/
theorem exec_passComplete_drain {o : DrainOp} (ho : c.op.drainOp = some o) (hp : c.phase = .granted) (hl : (s.copseAt (copseOf c.stand)).life = .resident) :
    exec (.passComplete cl n) s = .next ((if o.dest = 0 then s.drainScratch cl n c o else if o.dest = 1 then s.drainGlobal cl n c o
      else s.drainRow cl n c o).sweep cl n) := by
  show Host.Outcome.next ((s.passDone cl n).sweep cl n) = _
  rw [passDone_eq hfind hrun, ho]
  unfold State.deliverDrain
  simp only [hp, hl, ne_eq, not_true_eq_false, if_false]
end

/-- A drain that cannot be delivered ends with its trap (R234). -/
theorem drainFail_ends {s : State} {cl n : Nat} {c : Cmd} {r : TrapReq} (h : s.deferRoom c.stand = true) :
    Finished ((s.drainFail cl n c r).sweep cl n) cl n c.seq ∧ SameMemory s ((s.drainFail cl n c r).sweep cl n) := by
  unfold State.drainFail
  rw [if_pos h]
  have hmem : SameMemory s (s.deferTrap c.stand r) := by
    unfold State.deferTrap
    simp only
    by_cases habs : (s.standAt c.stand).life = .absent
    · rw [if_pos habs]
      exact sameMemory_refl s
    · rw [if_neg habs]
      exact sameMemory_setStand s _ _
  exact ⟨finished_cmdDone _ _ _ _, sameMemory_clusters _ hmem⟩

end Sys2Proof.Machine
end

section
/-! SUPPORT. Drains to the scratchpad (spec/10 R234-R236; spec/11 R252). -/

namespace Sys2Proof.Machine

/-! ### Elements of a drain and where they go -/

theorem zip_range'_eq {α : Type} (n : Nat) : ∀ (m : Nat) (xs : List α),
    (List.range' m n).zip xs = (List.range' m n).filterMap (fun i => (xs[i - m]?).map (fun x => (i, x))) := by
  induction n with
  | zero => exact fun _ _ => rfl
  | succ n ih =>
    intro m xs
    cases xs with
    | nil => simp
    | cons x xs =>
      have htail : (List.range' (m + 1) n).filterMap (fun i => (xs[i - (m + 1)]?).map (fun x => (i, x))) =
          (List.range' (m + 1) n).filterMap (fun i => ((x :: xs)[i - m]?).map (fun x => (i, x))) := by
        refine List.filterMap_congr fun i hi => ?_
        have := (List.mem_range'_1.mp hi).1
        rw [show i - m = (i - (m + 1)) + 1 by omega, List.getElem?_cons_succ]
      rw [List.range'_succ, List.zip_cons_cons, ih, htail, List.filterMap_cons]
      simp

theorem zip_range_eq {α : Type} (n : Nat) (xs : List α) :
    (List.range n).zip xs = (List.range n).filterMap (fun i => (xs[i]?).map (fun x => (i, x))) := by
  rw [List.range_eq_range', zip_range'_eq]
  rfl

theorem mem_distinct_aux {x : Nat} (xs : List Nat) : ∀ r : List Nat,
    x ∈ xs.foldl (fun r x => if r.contains x then r else r ++ [x]) r ↔ x ∈ r ∨ x ∈ xs := by
  induction xs with
  | nil => simp
  | cons y xs ih =>
    intro r
    rw [List.foldl_cons, ih, List.mem_cons]
    split
    · next h =>
      have hy : y ∈ r := by simpa using h
      exact ⟨fun hx => hx.imp_right .inr, fun hx => hx.elim .inl fun hx => hx.elim (fun e => .inl (e ▸ hy)) .inr⟩
    · rw [List.mem_append, List.mem_singleton, or_assoc]

theorem mem_distinct {x : Nat} {xs : List Nat} : x ∈ distinct xs ↔ x ∈ xs := (mem_distinct_aux xs []).trans (by simp)

section
variable (c : Cmd) (o : DrainOp) (cp : Copse)

/-- The places of a drain's elements in its rows: place in the tile, address and word. -/
def rowPlaces (sz : Nat) : List (Nat × Nat × Word32) :=
  c.todo.flatMap (fun i => (c.rowElems sz i).map (fun e => (64 * i + e.1 / sz, o.base + i * o.stride + e.1, e.2)))
/-- Of those the ones that are still to be written. -/
def placesLeft (sz : Nat) : List (Nat × Nat × Word32) := (rowPlaces c o sz).filter (fun e => !c.early.contains e.1)

theorem dfmtBytes_pos (d : Nat) : 0 < dfmtBytes d := by
  unfold dfmtBytes
  split_ifs <;> decide

/-- A row's elements still to be written, place by place. -/
theorem rowLeft_eq {sz : Nat} (hsz : 0 < sz) (i : Nat) :
    (((c.rowElems sz i).map (fun e => (64 * i + e.1 / sz, o.base + i * o.stride + e.1, e.2))).filter (fun e => !c.early.contains e.1)).map
      (fun e => (e.2.1, sz, e.2.2.toNat)) =
    (List.range 64).filterMap (fun x =>
      if c.early.contains (64 * i + x) then none else (c.vals[64 * i + x]?).map (fun w => (o.base + i * o.stride + sz * x, sz, w.toNat))) := by
  rw [Cmd.rowElems, zip_range_eq, List.map_filterMap, List.map_filterMap, List.filter_filterMap, List.map_filterMap]
  refine List.filterMap_congr fun x hx => ?_
  have hval : ((c.vals.drop (64 * i)).take 64)[x]? = c.vals[64 * i + x]? := by
    rw [List.getElem?_take_of_lt (List.mem_range.mp hx), List.getElem?_drop]
  rw [hval]
  cases c.vals[64 * i + x]? with
  | none => simp
  | some w =>
    by_cases he : 64 * i + x ∈ c.early <;> simp [he, Nat.mul_div_cancel_left _ hsz, Option.filter]

theorem drainElems_eq {sz : Nat} (hsz : 0 < sz) : drainElems c o sz = (placesLeft c o sz).map (fun e => (e.2.1, sz, e.2.2.toNat)) := by
  unfold placesLeft rowPlaces drainElems
  rw [List.filter_flatMap, List.map_flatMap]
  exact List.flatMap_congr fun i _ => (rowLeft_eq c o hsz i).symm

theorem scratchElems_plain (h : o.add = false) :
    c.scratchElems o cp = (placesLeft c o (dfmtBytes o.d)).map (fun e => (e.1, e.2.1, bytesOf e.2.2.toNat (dfmtBytes o.d))) := by
  unfold placesLeft rowPlaces Cmd.scratchElems
  simp only [h, Bool.false_eq_true, if_false]
  rw [List.filter_flatMap, List.filter_flatMap, List.map_flatMap]
  refine List.flatMap_congr fun i _ => ?_
  rw [List.filter_map, List.filter_map, List.map_map]
  rfl

/-- Where a drain's elements go, be they added or not. -/
theorem scratchElems_places : (c.scratchElems o cp).map (fun e => (e.2.1, e.2.2.length)) =
    (placesLeft c o (dfmtBytes o.d)).map (fun e => (e.2.1, dfmtBytes o.d)) := by
  unfold placesLeft rowPlaces Cmd.scratchElems
  simp only
  rw [List.filter_flatMap, List.filter_flatMap, List.map_flatMap, List.map_flatMap]
  refine List.flatMap_congr fun i _ => ?_
  rw [List.filter_map, List.filter_map, List.map_map, List.map_map]
  cases o.add with
  | false => simp [Function.comp_def, bytesOf_length]
  | true =>
    rw [if_pos rfl, combine, List.filter_map, List.map_map]
    simp [Function.comp_def, bytesOf_length]
end

end Sys2Proof.Machine
end

section
/-! SUPPORT. What a drain to the scratchpad leaves there (spec/10 R234-R236). -/

namespace Sys2Proof.Machine

/-! ### Elements in the scratchpad -/

theorem markDirty_scratch (c : Copse) (l : Nat) (m : Mask) : (c.markDirty l m).scratch = c.scratch := by
  unfold Copse.markDirty
  split
  · rfl
  · split
    · rfl
    · rfl

theorem markDirties_scratch (g : Nat → Mask) : ∀ (ls : List Nat) (c : Copse), (ls.foldl (fun c l => c.markDirty l (g l)) c).scratch = c.scratch
  | [], _ => rfl
  | l :: ls, c => (markDirties_scratch g ls _).trans (markDirty_scratch c l _)

theorem put_scratch (c : Copse) (a : Nat) (bs : List Byte) :
    (c.put a bs).scratch = putBytes (((List.range bs.length).zip bs).map (fun b => (a + b.1, b.2))) c.scratch := by
  unfold Copse.put
  rw [markDirties_scratch, putBytes, List.foldl_map]

theorem putElems_scratch : ∀ (es : List (Nat × Nat × List Byte)) (c : Copse), (c.putElems es).scratch = putRuns (es.map Prod.snd) c.scratch
  | [], _ => rfl
  | e :: es, c => by
    have htail := putElems_scratch es (c.put e.2.1 e.2.2)
    rw [put_scratch] at htail
    rw [List.map_cons, putRuns_cons, ← htail]
    rfl

theorem memGet_putElems (es : List (Nat × Nat × List Byte)) (c : Copse) (a : Nat) :
    memGet (c.putElems es).scratch a = (lastByte (es.map (fun e => runWrite e.2)) a).getD (memGet c.scratch a) := by
  rw [putElems_scratch, memGet_putRuns, List.map_map]
  rfl

/-- Whether a place is covered depends on addresses and lengths alone. -/
theorem lastByte_none_of_places {α β : Type} {f : α → Nat × Nat × Nat} {g : β → Nat × Nat × Nat} {us : List α} {ws : List β} {a : Nat}
    (h : us.map (fun u => ((f u).1, (f u).2.1)) = ws.map (fun w => ((g w).1, (g w).2.1))) (hw : lastByte (ws.map g) a = none) :
    lastByte (us.map f) a = none := by
  rw [lastByte_eq_none] at hw ⊢
  intro x hx
  obtain ⟨u, hu, rfl⟩ := List.mem_map.mp hx
  have hmem : ((f u).1, (f u).2.1) ∈ ws.map (fun w => ((g w).1, (g w).2.1)) := h ▸ List.mem_map_of_mem hu
  obtain ⟨w, hwm, he⟩ := List.mem_map.mp hmem
  have hnone := hw _ (List.mem_map_of_mem hwm)
  obtain ⟨h1, h2⟩ := Prod.mk.inj he
  unfold writtenBy at hnone ⊢
  rw [← h1, ← h2]
  split at hnone
  · cases hnone
  · next hc => exact if_neg hc

section
variable {c : Cmd} {o : DrainOp} {cp : Copse} {a : Nat}

/-- A drain writes nothing outside its elements. -/
theorem scratchElems_outside (h : lastByte (drainElems c o (dfmtBytes o.d)) a = none) :
    memGet (cp.putElems (c.scratchElems o cp)).scratch a = memGet cp.scratch a := by
  rw [drainElems_eq c o (dfmtBytes_pos o.d)] at h
  rw [memGet_putElems, lastByte_none_of_places (scratchElems_places c o cp) h]
  rfl

/-- A plain drain writes its elements. -/
theorem scratchElems_inside (hadd : o.add = false) {b : Byte} (h : lastByte (drainElems c o (dfmtBytes o.d)) a = some b) :
    memGet (cp.putElems (c.scratchElems o cp)).scratch a = b := by
  rw [drainElems_eq c o (dfmtBytes_pos o.d)] at h
  rw [memGet_putElems, scratchElems_plain c o cp hadd, List.map_map]
  refine (congrArg (Option.getD · _) ((lastByte_congr fun e _ => ?_).trans h)).trans rfl
  exact writtenBy_bytesOf ..

/-- Some elements of a plain drain leave each byte as it was or as one of them has it. -/
theorem someElems_byte (hadd : o.add = false) (p : Nat × Nat × List Byte → Bool) :
    let t := memGet (cp.putElems ((c.scratchElems o cp).filter p)).scratch a
    t = memGet cp.scratch a ∨ ∃ w ∈ drainElems c o (dfmtBytes o.d), w.1 ≤ a ∧ a < w.1 + w.2.1 ∧ t = BitVec.ofNat 8 (w.2.2 / 256 ^ (a - w.1)) := by
  intro t
  have ht : t = _ := memGet_putElems ..
  cases hlast : lastByte (((c.scratchElems o cp).filter p).map (fun e => runWrite e.2)) a with
  | none =>
    rw [hlast] at ht
    exact .inl ht
  | some b =>
    rw [hlast] at ht
    obtain ⟨w, hw, hb⟩ := exists_of_lastByte hlast
    obtain ⟨e, he, rfl⟩ := List.mem_map.mp hw
    have hmem := (List.mem_filter.mp he).1
    rw [scratchElems_plain c o cp hadd] at hmem
    obtain ⟨x, hx, rfl⟩ := List.mem_map.mp hmem
    rw [writtenBy_bytesOf] at hb
    obtain ⟨hlo, hhi, hval⟩ := writtenBy_some hb
    refine .inr ⟨(x.2.1, dfmtBytes o.d, x.2.2.toNat), ?_, hlo, hhi, ht.trans hval⟩
    rw [drainElems_eq c o (dfmtBytes_pos o.d)]
    exact List.mem_map_of_mem hx
end

/-! ### Lines of the scratchpad -/

/-- Lines that a drain has made full. -/
def Copse.madeFull (c : Copse) (ls : List Nat) : Copse := ls.foldl (fun cp l => cp.setLine l { cp.lineAt l with full := true, filler := none }) c

theorem setLine_lineAt (c : Copse) (l : Nat) (x : LineSt) (j : Nat) : (c.setLine l x).lineAt j = if j = l then x else c.lineAt j := tget_tset ..

theorem madeFull_cons (c : Copse) (l : Nat) (ls : List Nat) :
    c.madeFull (l :: ls) = (c.setLine l { c.lineAt l with full := true, filler := none }).madeFull ls := rfl

theorem madeFull_scratch (ls : List Nat) : ∀ c : Copse, (c.madeFull ls).scratch = c.scratch := by
  induction ls with
  | nil => exact fun _ => rfl
  | cons l ls ih =>
    intro c
    rw [madeFull_cons, ih]
    rfl

theorem madeFull_keeps {l : Nat} (ls : List Nat) : ∀ c : Copse, (c.lineAt l).full = true ∧ (c.lineAt l).filler = none →
    ((c.madeFull ls).lineAt l).full = true ∧ ((c.madeFull ls).lineAt l).filler = none := by
  induction ls with
  | nil => exact fun _ h => h
  | cons k ls ih =>
    intro c h
    rw [madeFull_cons]
    refine ih _ ?_
    rw [setLine_lineAt]
    split
    · exact ⟨rfl, rfl⟩
    · exact h

theorem madeFull_full {l : Nat} (ls : List Nat) : ∀ c : Copse, l ∈ ls →
    ((c.madeFull ls).lineAt l).full = true ∧ ((c.madeFull ls).lineAt l).filler = none := by
  induction ls with
  | nil => exact fun _ h => absurd h List.not_mem_nil
  | cons k ls ih =>
    intro c h
    rw [madeFull_cons]
    rcases List.mem_cons.mp h with rfl | h
    · refine madeFull_keeps ls _ ?_
      rw [setLine_lineAt, if_pos rfl]
      exact ⟨rfl, rfl⟩
    · exact ih _ h

/-- A line that awaits no fill is not touched anew. -/
theorem touchLine_of_settled {s : State} {copse l : Nat} (h : (s.copseAt copse).awaitsFill l = false) : s.touchLine copse l = s := by
  unfold State.touchLine
  simp only
  rw [if_pos]
  have hl : (!((s.copseAt copse).lineAt l).touched && ((s.copseAt copse).lineAt l).region != 0) = false := (Bool.or_eq_false_iff.mp h).1
  cases ht : ((s.copseAt copse).lineAt l).touched with
  | true => simp
  | false =>
    have hr : ((s.copseAt copse).lineAt l).region = 0 := by simpa [ht] using hl
    simp [hr]

theorem touchLines_of_settled {s : State} {copse : Nat} : ∀ {ls : List Nat}, (∀ l ∈ ls, (s.copseAt copse).awaitsFill l = false) → s.touchLines copse ls = s
  | [], _ => rfl
  | l :: ls, h => by
    show (s.touchLine copse l).touchLines copse ls = s
    rw [touchLine_of_settled (h l List.mem_cons_self)]
    exact touchLines_of_settled fun x hx => h x (List.mem_cons_of_mem _ hx)

/-! ### The drain -/

section
variable {s : State} {cl n : Nat} {c : Cmd} {o : DrainOp}
  (h : ∀ l ∈ c.scratchLines o, ((s.copseAt (copseOf c.stand)).lineAt l).bm = false ∧ (s.copseAt (copseOf c.stand)).awaitsFill l = false)
include h

theorem barred_none : c.barred o (s.copseAt (copseOf c.stand)) = none := by
  unfold Cmd.barred
  rw [Option.map_eq_none_iff, List.find?_eq_none]
  intro x hx
  obtain ⟨i, hi, hx⟩ := List.mem_flatMap.mp hx
  obtain ⟨l, hl, rfl⟩ := List.mem_map.mp hx
  rw [(h l (mem_distinct.mpr (List.mem_flatMap.mpr ⟨i, hi, hl⟩))).1]
  exact Bool.false_ne_true

theorem drainScratch_eq : s.drainScratch cl n c o = if s.addBehind cl c then s
    else (s.setCopse (copseOf c.stand) (((s.copseAt (copseOf c.stand)).putElems (c.scratchElems o (s.copseAt (copseOf c.stand)))).madeFull
      (c.scratchLines o))).cmdDone cl n c.seq := by
  have hnone : (c.scratchLines o).any (s.copseAt (copseOf c.stand)).awaitsFill = false :=
    List.any_eq_false.mpr fun l hl => by rw [(h l hl).2]; exact Bool.false_ne_true
  unfold State.drainScratch
  simp only [touchLines_of_settled fun l hl => (h l hl).2, barred_none h, hnone, Bool.false_or]
  rfl
end

end Sys2Proof.Machine
end

section
/-! SUPPORT. Drains to global memory (spec/10 R215, R216, R234, R235). -/

namespace Sys2Proof.Machine

/-! ### A piece of a row is one write -/

/-- What stands at a place when all writes that cover it agree. -/
theorem lastByte_of_agree {ws : List (Nat × Nat × Nat)} {a : Nat} {v : Option Byte} (hall : ∀ w ∈ ws, ∀ b, writtenBy w a = some b → v = some b)
    (hsome : ∀ b, v = some b → ∃ w ∈ ws, writtenBy w a ≠ none) : lastByte ws a = v := by
  cases hl : lastByte ws a with
  | none =>
    cases hv : v with
    | none => rfl
    | some b =>
      obtain ⟨w, hw, hne⟩ := hsome b hv
      exact absurd (lastByte_eq_none.mp hl w hw) hne
  | some b =>
    obtain ⟨w, hw, hb⟩ := exists_of_lastByte hl
    exact (hall w hw b hb).symm

theorem lastByte_flatMap {α : Type} {f : α → List (Nat × Nat × Nat)} {g : α → Nat × Nat × Nat} {a : Nat} : ∀ {xs : List α},
    (∀ x ∈ xs, lastByte (f x) a = writtenBy (g x) a) → lastByte (xs.flatMap f) a = lastByte (xs.map g) a
  | [], _ => rfl
  | x :: xs, h => by
    rw [List.flatMap_cons, lastByte_append, List.map_cons, lastByte_cons, h x List.mem_cons_self,
      lastByte_flatMap fun y hy => h y (List.mem_cons_of_mem _ hy)]

/-- The bytes of row i of a drain. -/
def Cmd.rowData (c : Cmd) (sz i : Nat) : List Byte := ((c.vals.drop (64 * i)).take 64).flatMap (fun w => bytesOf w.toNat sz)
/-- The bytes of a piece. -/
def pieceBytes (c : Cmd) (d : Nat) (p : Nat × Nat × Nat) : List Byte := ((c.rowData (dfmtBytes d) p.1).drop p.2.1).take (min (rowBytes d) 128)

section
variable {c : Cmd} {sz i : Nat}

theorem mem_rowElems {e : Nat × Word32} : e ∈ c.rowElems sz i ↔ ∃ x, x < 64 ∧ c.vals[64 * i + x]? = some e.2 ∧ e.1 = sz * x := by
  have hval {x : Nat} (hx : x < 64) : ((c.vals.drop (64 * i)).take 64)[x]? = c.vals[64 * i + x]? := by
    rw [List.getElem?_take_of_lt hx, List.getElem?_drop]
  unfold Cmd.rowElems
  rw [zip_range_eq, List.map_filterMap, List.mem_filterMap]
  constructor
  · rintro ⟨x, hx, he⟩
    have hx := List.mem_range.mp hx
    rw [hval hx] at he
    cases hv : c.vals[64 * i + x]? with
    | none => simp [hv] at he
    | some w =>
      obtain rfl : (sz * x, w) = e := by simpa [hv] using he
      exact ⟨x, hx, hv, rfl⟩
  · rintro ⟨x, hx, hv, he⟩
    refine ⟨x, List.mem_range.mpr hx, ?_⟩
    rw [hval hx, hv]
    simp [← he]

theorem rowData_getElem? (hsz : 0 < sz) {k : Nat} (hk : k < 64 * sz) :
    (c.rowData sz i)[k]? = (c.vals[64 * i + k / sz]?).map (fun w => BitVec.ofNat 8 (w.toNat / 256 ^ (k % sz))) := by
  have hx : k / sz < 64 := Nat.div_lt_of_lt_mul (by rwa [Nat.mul_comm])
  unfold Cmd.rowData
  rw [getElem?_flatMap_const hsz (fun w => bytesOf_length sz _), List.getElem?_take_of_lt hx, List.getElem?_drop]
  cases c.vals[64 * i + k / sz]? with
  | none => rfl
  | some w => exact bytesOf_getElem? _ _ _ (Nat.mod_lt _ hsz)

/-- A piece of whole elements within a row. -/
def WholePiece (d : Nat) (p : Nat × Nat × Nat) : Prop :=
  dfmtBytes d ∣ p.2.1 ∧ p.2.1 + min (rowBytes d) 128 ≤ rowBytes d ∧ p.2.2 % 128 + min (rowBytes d) 128 ≤ 128

variable {d : Nat} {p : Nat × Nat × Nat}

theorem mem_pieceElems {e : Nat × Word32} : e ∈ pieceElems c d p ↔ ∃ x, x < 64 ∧ c.vals[64 * p.1 + x]? = some e.2 ∧
    p.2.1 ≤ dfmtBytes d * x ∧ dfmtBytes d * x < p.2.1 + min (rowBytes d) 128 ∧ e.1 = p.2.2 % 128 + (dfmtBytes d * x - p.2.1) := by
  have hmin : minN (rowBytes d) 128 = min (rowBytes d) 128 := by unfold minN; split <;> omega
  unfold pieceElems
  simp only [List.mem_map, List.mem_filter, mem_rowElems, Bool.and_eq_true, decide_eq_true_eq, hmin]
  constructor
  · rintro ⟨y, ⟨⟨x, hx, hv, hy⟩, hlo, hhi⟩, rfl⟩
    exact ⟨x, hx, hv, hy ▸ hlo, hy ▸ hhi, by rw [hy]⟩
  · rintro ⟨x, hx, hv, hlo, hhi, he⟩
    exact ⟨(dfmtBytes d * x, e.2), ⟨⟨x, hx, hv, rfl⟩, hlo, hhi⟩, by rw [← he]⟩

theorem dfmtBytes_dvd_unit (d : Nat) : dfmtBytes d ∣ min (rowBytes d) 128 := by
  unfold rowBytes dfmtBytes
  split_ifs <;> decide

theorem pieceBytes_getElem? (hp : WholePiece d p) {k : Nat} (hk : k < min (rowBytes d) 128) : (pieceBytes c d p)[k]? =
    (c.vals[64 * p.1 + (p.2.1 + k) / dfmtBytes d]?).map (fun w => BitVec.ofNat 8 (w.toNat / 256 ^ ((p.2.1 + k) % dfmtBytes d))) := by
  obtain ⟨-, hrow, -⟩ := hp
  unfold pieceBytes
  rw [List.getElem?_take_of_lt hk, List.getElem?_drop, rowData_getElem? (dfmtBytes_pos d) (show p.2.1 + k < 64 * dfmtBytes d by unfold rowBytes at *; omega)]

theorem pieceBytes_length_le : (pieceBytes c d p).length ≤ min (rowBytes d) 128 := List.length_take_le ..

/-- An element of a piece lies whole in it. -/
theorem elem_fits (hp : WholePiece d p) {x : Nat} (hhi : dfmtBytes d * x < p.2.1 + min (rowBytes d) 128) :
    dfmtBytes d * x + dfmtBytes d ≤ p.2.1 + min (rowBytes d) 128 := by
  obtain ⟨m, hm⟩ := hp.1
  obtain ⟨q, hq⟩ := dfmtBytes_dvd_unit d
  rw [hm, hq, ← Nat.mul_add] at hhi ⊢
  rw [← Nat.mul_succ]
  exact Nat.mul_le_mul_left _ (Nat.lt_of_mul_lt_mul_left hhi)

theorem pieceElems_in (hp : WholePiece d p) : ∀ e ∈ pieceElems c d p, e.1 + dfmtBytes d ≤ 128 := by
  intro e he
  obtain ⟨x, -, -, hlo, hhi, he⟩ := mem_pieceElems.mp he
  have := elem_fits hp hhi
  obtain ⟨-, -, hline⟩ := hp
  omega

/-- The elements of a piece write what its bytes write as one run. -/
theorem lastByte_piece (hp : WholePiece d p) (a : Nat) :
    lastByte (lineWrites (p.2.2 / 128) (dfmtBytes d) (pieceElems c d p)) a = writtenBy (runWrite (p.2.2, pieceBytes c d p)) a := by
  have hsz := dfmtBytes_pos d
  rw [writtenBy_run]
  refine lastByte_of_agree (fun w hw b hb => ?_) fun b hb => ?_
  · obtain ⟨e, he, rfl⟩ := List.mem_map.mp hw
    obtain ⟨x, -, hv, hlo, hhi, hplace⟩ := mem_pieceElems.mp he
    obtain ⟨hfrom, hto, rfl⟩ := writtenBy_some hb
    have hfit := elem_fits hp hhi
    simp only [hplace] at hfrom hto ⊢
    have hk : p.2.1 + (a - p.2.2) = dfmtBytes d * x + (a - (128 * (p.2.2 / 128) + (p.2.2 % 128 + (dfmtBytes d * x - p.2.1)))) := by omega
    have hr : a - (128 * (p.2.2 / 128) + (p.2.2 % 128 + (dfmtBytes d * x - p.2.1))) < dfmtBytes d := by omega
    rw [if_pos (show p.2.2 ≤ a by omega), pieceBytes_getElem? hp (by omega), hk, Nat.mul_add_div hsz, Nat.mul_add_mod, Nat.div_eq_of_lt hr,
      Nat.mod_eq_of_lt hr, Nat.add_zero, hv]
    rfl
  · split_ifs at hb with hle
    simp only at hb hle
    have hk : a - p.2.2 < min (rowBytes d) 128 := by
      by_contra hge
      have hlen := pieceBytes_length_le (c := c) (d := d) (p := p)
      rw [List.getElem?_eq_none (by omega)] at hb
      cases hb
    rw [pieceBytes_getElem? hp hk] at hb
    obtain ⟨w, hw, -⟩ := Option.map_eq_some_iff.mp hb
    obtain ⟨hdvd, hrow, -⟩ := hp
    obtain ⟨m, hm⟩ := hdvd
    have hdiv := Nat.div_add_mod (p.2.1 + (a - p.2.2)) (dfmtBytes d)
    have hmod := Nat.mod_lt (p.2.1 + (a - p.2.2)) hsz
    have hx : (p.2.1 + (a - p.2.2)) / dfmtBytes d < 64 := Nat.div_lt_of_lt_mul (by unfold rowBytes at *; omega)
    have hlo : p.2.1 ≤ dfmtBytes d * ((p.2.1 + (a - p.2.2)) / dfmtBytes d) := by
      conv_lhs => rw [hm]
      refine Nat.mul_le_mul_left _ ((Nat.le_div_iff_mul_le hsz).mpr ?_)
      rw [hm, Nat.mul_comm]
      exact Nat.le_add_right ..
    have hmem : (p.2.2 % 128 + (dfmtBytes d * ((p.2.1 + (a - p.2.2)) / dfmtBytes d) - p.2.1), w) ∈ pieceElems c d p :=
      mem_pieceElems.mpr ⟨_, hx, hw, hlo, by omega, rfl⟩
    refine ⟨_, List.mem_map_of_mem hmem, ?_⟩
    unfold writtenBy
    rw [if_pos (by simp only; omega)]
    exact Option.some_ne_none _

end

end Sys2Proof.Machine
end

section
/-! SUPPORT. How a drain reaches memory (spec/10 R215, R216, R234, R235). -/

namespace Sys2Proof.Machine

/-! ### Pieces and their addresses -/

theorem piecesXlate_ok {s : State} {copse : Nat} : ∀ {xs ps : List (Nat × Nat × Nat)}, (s.piecesXlate copse xs).1 = .ok ps →
    ∀ p ∈ ps, ∃ x ∈ xs, p.1 = x.1 ∧ p.2.1 = x.2.1
  | [], ps, h => by
    obtain rfl : [] = ps := by simpa [State.piecesXlate] using h
    exact fun p hp => absurd hp List.not_mem_nil
  | (i, x, va) :: xs, ps, h => by
    unfold State.piecesXlate at h
    split at h
    · cases h
    · next pa _ _ =>
      split at h
      · next qs y hq =>
        obtain rfl : (i, x, pa) :: qs = ps := by simpa using h
        have ih := piecesXlate_ok (copse := copse) (s := s) (xs := xs) (ps := qs) (by rw [hq])
        intro p hp
        rcases List.mem_cons.mp hp with rfl | hp
        · exact ⟨_, List.mem_cons_self, rfl, rfl⟩
        · obtain ⟨z, hz, he⟩ := ih p hp
          exact ⟨z, List.mem_cons_of_mem _ hz, he⟩
      · next e hne =>
        exact absurd (Prod.ext h rfl : s.piecesXlate copse xs = (.ok ps, _)) (hne _ _)

theorem drainPieces_whole {c : Cmd} {o : DrainOp} {x : Nat × Nat × Nat} (hx : x ∈ drainPieces c o) :
    dfmtBytes o.d ∣ x.2.1 ∧ x.2.1 + min (rowBytes o.d) 128 ≤ rowBytes o.d := by
  have hmin : minN (rowBytes o.d) 128 = min (rowBytes o.d) 128 := by unfold minN; split <;> omega
  unfold drainPieces at hx
  rw [hmin] at hx
  obtain ⟨i, -, hx⟩ := List.mem_flatMap.mp hx
  obtain ⟨j, hj, rfl⟩ := List.mem_map.mp hx
  have hj := List.mem_range.mp hj
  refine ⟨(dfmtBytes_dvd_unit o.d).mul_right j, ?_⟩
  calc min (rowBytes o.d) 128 * j + min (rowBytes o.d) 128 = min (rowBytes o.d) 128 * (j + 1) := rfl
    _ ≤ min (rowBytes o.d) 128 * (rowBytes o.d / min (rowBytes o.d) 128) := Nat.mul_le_mul_left _ hj
    _ ≤ rowBytes o.d := Nat.mul_div_le ..

/-- The pieces of a drain whose addresses lie in lines of the wafer. -/
theorem wholePieces {s : State} {copse : Nat} {c : Cmd} {o : DrainOp} {ps : List (Nat × Nat × Nat)}
    (hok : (s.piecesXlate copse (drainPieces c o)).1 = .ok ps) (hin : ∀ p ∈ ps, isWindow p.2.2 = false ∧ p.2.2 % 128 + min (rowBytes o.d) 128 ≤ 128) :
    ∀ p ∈ ps, isWindow (128 * (p.2.2 / 128)) = false ∧ WholePiece o.d p := by
  intro p hp
  obtain ⟨x, hx, -, hat⟩ := piecesXlate_ok hok p hp
  obtain ⟨hw, hline⟩ := hin p hp
  obtain ⟨hdvd, hrow⟩ := drainPieces_whole hx
  rw [← hat] at hdvd hrow
  refine ⟨?_, hdvd, hrow, hline⟩
  rw [← isWindow_line (p.2.2 / 128) (p.2.2 % 128) (Nat.mod_lt _ (by omega)), Nat.div_add_mod]
  exact hw

/-! ### A plain drain writes (R234) -/

section
variable {s : State} {cl n : Nat} {c : Cmd} {o : DrainOp} {ps : List (Nat × Nat × Nat)}

/-- The pieces of a drain written at their homes. -/
def State.deliveredHome (s : State) (vi field copse : Nat) (c : Cmd) (d : Nat) (ps : List (Nat × Nat × Nat)) : State :=
  ps.foldl (fun s p => (s.engineWrite vi field (p.2.2 / 128) (elemsBytes (dfmtBytes d) (pieceElems c d p)) false).noteEngine copse 5 (p.2.2 / 128)) s

theorem writesHome_deliveredHome (vi field copse d : Nat) : ∀ (ps : List (Nat × Nat × Nat)) (s : State),
    (∀ p ∈ ps, isWindow (128 * (p.2.2 / 128)) = false ∧ WholePiece d p) →
    WritesHome s (s.deliveredHome vi field copse c d ps) (ps.flatMap (fun p => lineWrites (p.2.2 / 128) (dfmtBytes d) (pieceElems c d p)))
  | [], s, _ => .refl s
  | p :: ps, s, h => by
    obtain ⟨hw, hp⟩ := h p List.mem_cons_self
    exact (writesHome_engineWrite s vi field copse hw (pieceElems_in hp)).trans
      (writesHome_deliveredHome vi field copse d ps _ fun q hq => h q (List.mem_cons_of_mem _ hq))

section
variable {y : Nat} (hx : s.piecesXlate (copseOf c.stand) (drainPieces c o) = (.ok ps, y))
include hx

theorem drainGlobal_plain (hadd : o.add = false) (hst : ∀ p ∈ ps, s.stagedLine (p.2.2 / 128) = false) : s.drainGlobal cl n c o =
    (s.deliveredHome (s.copseAt (copseOf c.stand)).vi (fieldOfCore (s.copseAt (copseOf c.stand)).core) (copseOf c.stand) c o.d ps).cmdDone cl n c.seq := by
  have hany : (ps.any fun p => s.stagedLine (p.2.2 / 128)) = false :=
    List.any_eq_false.mpr fun p hp => by rw [hst p hp]; exact Bool.false_ne_true
  unfold State.drainGlobal
  simp only [hx, hadd, hany, Bool.false_and, Bool.false_eq_true, if_false]
  rfl

/-- The pieces of an adding drain staged. -/
def State.stagedAll (s : State) (cl n : Nat) (c : Cmd) (o : DrainOp) (ps : List (Nat × Nat × Nat)) : State :=
  ps.foldl (fun s p => s.stageLine cl n c o p) s

theorem drainGlobal_add (hadd : o.add = true) (hw : ∀ p ∈ ps, isWindow p.2.2 = false) : s.drainGlobal cl n c o =
    if ps.any (fun p => s.heldLine (p.2.2 / 128)) then s
    else if ((s.stagedAll cl n c o ps).detKey c).isSome then (s.stagedAll cl n c o ps).cmdDone cl n c.seq
    else (s.stagedAll cl n c o ps).setEngine cl (((s.stagedAll cl n c o ps).engineAt cl).setPhase n c.seq .staged) := by
  have hnone : (ps.any fun p => isWindow p.2.2) = false := List.any_eq_false.mpr fun p hp => by rw [hw p hp]; exact Bool.false_ne_true
  unfold State.drainGlobal
  simp only [hx, hadd, hnone, Bool.not_false, Bool.or_true, Bool.and_self, if_true]
  rfl
end

theorem drainGlobal_fault {cause va : Nat} (hx : s.piecesXlate (copseOf c.stand) (drainPieces c o) = (.fault cause, va)) (h2 : cause ≠ 2) (h3 : cause ≠ 3) :
    s.drainGlobal cl n c o = s.drainFail cl n c (drainTrap 3 (if cause = 5 then 6 else cause) (128 * (va / 128)) false o.mask) := by
  unfold State.drainGlobal
  simp only [hx, h2, h3, or_self, if_false]

/-! ### An adding drain stages (R216, R235) -/

/-- Updates staged: nothing but the directory differs, and each byte is at its home as it was. -/
structure Stages (s t : State) : Prop where
  rest : t = { s with dir := t.dir }
  home : ∀ a, t.homeGet a = s.homeGet a

theorem Stages.trans {s t u : State} (h : Stages s t) (h' : Stages t u) : Stages s u :=
  ⟨by rw [h'.rest, h.rest], fun a => (h'.home a).trans (h.home a)⟩

theorem Stages.sameMemory {t : State} (h : Stages s t) : SameMemory s t := by
  have hr := h.rest
  exact HomeKept.sameMemory ⟨by rw [hr], by rw [hr], by rw [hr], by rw [hr], h.home⟩

/-- The entry of a line with an update staged. -/
def State.stagedDir (s : State) (cl n : Nat) (c : Cmd) (o : DrainOp) (p : Nat × Nat × Nat) : Dir :=
  let d := s.cached (s.copseAt (copseOf c.stand)).vi (p.2.2 / 128)
  let d := if maskHas (maskFull o.mask) 2 then d.collapse none else d
  { d with staged := d.staged ++ [⟨cl, n, c.seq, o.d, dfmtSat o.d o.satx, pieceElems c o.d p, s.detKey c, copseOf c.stand, (s.copseAt (copseOf c.stand)).vi⟩] }

theorem stageLine_eq {p : Nat × Nat × Nat} (hw : isWindow (128 * (p.2.2 / 128)) = false) :
    s.stageLine cl n c o p = s.setDir (p.2.2 / 128) (s.stagedDir cl n c o p) := by
  unfold State.stageLine
  simp only [hw, Bool.false_eq_true, if_false]
  rfl

theorem cached_staged (s : State) (vi line : Nat) : (s.cached vi line).staged = (s.dirAt line).staged := by
  unfold State.cached
  simp only
  split
  · rfl
  · rfl

theorem stagedDir_staged (p : Nat × Nat × Nat) : (s.stagedDir cl n c o p).staged.length = (s.dirAt (p.2.2 / 128)).staged.length + 1 := by
  unfold State.stagedDir
  simp only [List.length_append, List.length_singleton]
  split
  · exact congrArg (List.length · + 1) (cached_staged ..)
  · exact congrArg (List.length · + 1) (cached_staged ..)

theorem stagedDir_holds {p : Nat × Nat × Nat} (hw : isWindow (128 * (p.2.2 / 128)) = false) : HoldsHome s (p.2.2 / 128) (s.stagedDir cl n c o p) := by
  have h := holdsHome_cached (s := s) (s.copseAt (copseOf c.stand)).vi (p.2.2 / 128) hw
  unfold State.stagedDir
  simp only
  split
  · exact h
  · exact h

theorem stages_stageLine {p : Nat × Nat × Nat} (hw : isWindow (128 * (p.2.2 / 128)) = false) :
    Stages s (s.stageLine cl n c o p) ∧
    ∀ l, ((s.stageLine cl n c o p).dirAt l).staged.length = (s.dirAt l).staged.length + if p.2.2 / 128 = l then 1 else 0 := by
  rw [stageLine_eq hw]
  refine ⟨⟨rfl, (homeKept_setDir (stagedDir_holds hw)).home⟩, fun l => ?_⟩
  split
  · next h => rw [← h, setDir_dirAt, stagedDir_staged]
  · next h => rw [setDir_dirAt_ne _ _ _ (Ne.symm h)]; rfl

theorem stages_stagedAll : ∀ (ps : List (Nat × Nat × Nat)) (s : State), (∀ p ∈ ps, isWindow (128 * (p.2.2 / 128)) = false) →
    Stages s (s.stagedAll cl n c o ps) ∧ ∀ l, ((s.stagedAll cl n c o ps).dirAt l).staged.length =
      (s.dirAt l).staged.length + (ps.filter (fun p => p.2.2 / 128 == l)).length
  | [], s, _ => ⟨⟨rfl, fun _ => rfl⟩, fun _ => rfl⟩
  | p :: ps, s, h => by
    obtain ⟨hone, hcount⟩ := stages_stageLine (s := s) (cl := cl) (n := n) (c := c) (o := o) (h p List.mem_cons_self)
    obtain ⟨hrest, hcounts⟩ := stages_stagedAll ps (s.stageLine cl n c o p) fun q hq => h q (List.mem_cons_of_mem _ hq)
    refine ⟨hone.trans hrest, fun l => ?_⟩
    rw [State.stagedAll, List.foldl_cons, ← State.stagedAll, hcounts, hcount, List.filter_cons]
    by_cases hl : p.2.2 / 128 = l
    · simp [hl]
      omega
    · simp [hl]

theorem detKey_isSome (s : State) (c : Cmd) : (s.detKey c).isSome = (s.launchAt (s.copseAt (copseOf c.stand)).launch).det := by
  unfold State.detKey
  simp only
  split
  · next h => rw [h]; rfl
  · next h => rw [Bool.not_eq_true] at h; rw [h]; rfl

theorem Stages.detKey_isSome {t : State} (h : Stages s t) (c : Cmd) :
    (t.detKey c).isSome = (s.launchAt (s.copseAt (copseOf c.stand)).launch).det := by
  rw [Machine.detKey_isSome, h.rest]
  rfl
end

end Sys2Proof.Machine
end

section
/-! SUPPORT. Rows for a channel, and staged updates that are committed (spec/10 R215, R216, R235). -/

namespace Sys2Proof.Machine

/-! ### Rows for a channel (R215, R337) -/

theorem map_snd_elemsBytes (sz : Nat) (es : List (Nat × Word32)) : (elemsBytes sz es).map Prod.snd = es.flatMap (fun e => bytesOf e.2.toNat sz) := by
  unfold elemsBytes
  rw [List.map_flatMap]
  refine List.flatMap_congr fun e _ => ?_
  rw [List.map_map]
  exact List.map_snd_zip (by rw [bytesOf_length, List.length_range])

theorem rowBytes_eq (c : Cmd) (sz i : Nat) : (elemsBytes sz (c.rowElems sz i)).map Prod.snd = c.rowData sz i := by
  have hlen : ((c.vals.drop (64 * i)).take 64).length ≤ (List.range 64).length := by
    rw [List.length_range]
    exact List.length_take_le ..
  have hvals : ((List.range 64).zip ((c.vals.drop (64 * i)).take 64)).map Prod.snd = (c.vals.drop (64 * i)).take 64 := List.map_snd_zip hlen
  rw [map_snd_elemsBytes, Cmd.rowElems, List.flatMap_map, Cmd.rowData]
  conv_rhs => rw [← hvals, List.flatMap_map]

/-- A row as an entry of a channel. -/
def rowEntry (c : Cmd) (sz i : Nat) : ChanEntry :=
  entryOf ((List.range 128).map (fun w => (w, BitVec.ofNat 32 (natOf (((c.rowData sz i).drop (4 * w)).take 4)))))

theorem tget_rowEntry (c : Cmd) (sz i : Nat) {w : Nat} (hw : w < 128) :
    tget 0 (rowEntry c sz i) w = BitVec.ofNat 32 (natOf (((c.rowData sz i).drop (4 * w)).take 4)) :=
  tget_entryOf _ (fun w => BitVec.ofNat 32 (natOf (((c.rowData sz i).drop (4 * w)).take 4))) w (List.mem_range.mpr hw) List.nodup_range

section
variable {s : State} {cl n i : Nat} {c : Cmd} {o : DrainOp} {rest : List Nat}

/-- The machine behind a row that has been pushed. -/
def State.rowPushed (s : State) (cl n : Nat) (c : Cmd) (o : DrainOp) (i : Nat) (rest : List Nat) : State :=
  let core := (s.copseAt (copseOf c.stand)).core
  (s.chanPush core (32 + o.ch) [rowEntry c (dfmtBytes o.d) i]).setEngine cl ((s.engineAt cl).mapCmd n c.seq (fun c => { c with todo := rest }))

theorem drainRow_eq (htodo : c.todo = i :: rest) : s.drainRow cl n c o =
    let core := (s.copseAt (copseOf c.stand)).core
    let t := s.rowPushed cl n c o i rest
    if s.chanFree core (32 + o.ch) = 0 then s
    else if rest ≠ [] then t
    else (t.setChan core (32 + o.ch) { t.chanAt core (32 + o.ch) with due := (t.chanAt core (32 + o.ch)).due - 1 }).cmdDone cl n c.seq := by
  unfold State.drainRow
  simp only [htodo, rowBytes_eq]
  rfl

theorem setChan_chanAt_self (s : State) (core n : Nat) (x : Chan) : (s.setChan core n x).chanAt core n = x := by
  unfold State.setChan State.chanAt
  rw [setCore_coreAt]
  exact tget_tset_self ..

theorem rowPushed_chanAt : (s.rowPushed cl n c o i rest).chanAt (s.copseAt (copseOf c.stand)).core (32 + o.ch) =
    { s.chanAt (s.copseAt (copseOf c.stand)).core (32 + o.ch) with
      entries := (s.chanAt (s.copseAt (copseOf c.stand)).core (32 + o.ch)).entries ++ [rowEntry c (dfmtBytes o.d) i] } :=
  setChan_chanAt_self ..

theorem sameMemory_setChan (s : State) (core n : Nat) (x : Chan) : SameMemory s (s.setChan core n x) := by
  refine sameMemory_of_parts (fun c => ?_) rfl rfl rfl
  rw [State.setChan, setCore_coreAt_at]
  split
  · next e => subst e; rfl
  · rfl

theorem sameMemory_rowPushed : SameMemory s (s.rowPushed cl n c o i rest) :=
  sameMemory_clusters _ (sameMemory_setChan _ _ _ _)
end

/-! ### A committed update (R216) -/

theorem noteHome_dir (line : Nat) (old new : Mem) (s : State) : (s.noteHome line old new).dir = s.dir := by
  unfold State.noteHome
  generalize changedWords line old new = ws
  induction ws generalizing s with
  | nil => rfl
  | cons w ws ih => exact (ih _).trans rfl

theorem noteEngine_dir (s : State) (copse bit line : Nat) : (s.noteEngine copse bit line).dir = s.dir := by
  unfold State.noteEngine
  split
  · rfl
  · rfl

/-- Bytes put home leave staged updates where they are. -/
theorem homePut_staged (s : State) (vi line : Nat) (bs : List (Nat × Byte)) : ((s.homePut vi line bs).dirAt line).staged = (s.dirAt line).staged := by
  unfold State.homePut
  simp only
  split_ifs
  · rfl
  · rfl
  · simp only [State.dirAt, noteHome_dir]
    exact (congrArg Dir.staged (setDir_dirAt ..)).trans (cached_staged ..)
  · simp only [State.dirAt, noteHome_dir]
    exact (congrArg Dir.staged (setDir_dirAt ..)).trans (cached_staged ..)

/-- A directory entry with the same copy. -/
theorem writesHome_setDir_same (s : State) {line : Nat} {d : Dir} (hc : d.cached = (s.dirAt line).cached) (hb : d.bytes = (s.dirAt line).bytes) :
    WritesHome s (s.setDir line d) [] := by
  refine ⟨rfl, fun a _ => ?_⟩
  unfold State.homeGet
  by_cases ha : a / 128 = line
  · simp only [ha, setDir_dirAt, hc, hb]
    rfl
  · simp only [setDir_dirAt_ne _ _ _ ha]
    rfl

/-- The elements of a staged update added to what stands at their places. -/
def addedElems (s : State) (line : Nat) (x : Staged) : List (Nat × Word32) :=
  combine x.dfmt x.sat (fun o => s.homeRead (128 * line + o) (dfmtBytes x.dfmt)) x.elems

section
variable {s : State} {line : Nat} {x : Staged} (hw : isWindow (128 * line) = false) (hin : ∀ e ∈ x.elems, e.1 + dfmtBytes x.dfmt ≤ 128)

theorem applyStaged_eq (s : State) (line : Nat) (x : Staged) : s.applyStaged line x =
    ((s.setDir line { s.dirAt line with staged := (s.dirAt line).staged.erase x }).homePut x.vi line
      (elemsBytes (dfmtBytes x.dfmt) (addedElems s line x))).noteEngine x.copse 5 line := rfl

theorem applyStaged_staged : ((s.applyStaged line x).dirAt line).staged = (s.dirAt line).staged.erase x := by
  rw [applyStaged_eq, State.dirAt, noteEngine_dir]
  exact (homePut_staged ..).trans (congrArg Dir.staged (setDir_dirAt ..))

include hw hin

theorem writesHome_applyStaged : WritesHome s (s.applyStaged line x) (lineWrites line (dfmtBytes x.dfmt) (addedElems s line x)) := by
  have hin' : ∀ e ∈ addedElems s line x, e.1 + dfmtBytes x.dfmt ≤ 128 := by
    intro e he
    obtain ⟨y, hy, rfl⟩ := List.mem_map.mp he
    exact hin y hy
  have herase : WritesHome s (s.setDir line { s.dirAt line with staged := (s.dirAt line).staged.erase x }) [] := writesHome_setDir_same s rfl rfl
  rw [applyStaged_eq]
  exact (herase.of_kept (writesHome_homePut _ x.vi hw hin')).then_kept (writesHome_noteEngine _ _ _ _)

/-- An update that is committed: it is gone, and its sums stand at their places (R216). -/
theorem applyStaged_adds :
    let sum (e : Nat × Word32) : Nat := (dfmtOf x.dfmt).addSat x.sat (s.homeRead (128 * line + e.1) (dfmtBytes x.dfmt)) e.2.toNat
    ((s.applyStaged line x).dirAt line).staged = (s.dirAt line).staged.erase x ∧ (s.applyStaged line x).stands = s.stands ∧
    (s.applyStaged line x).copses = s.copses ∧ ∀ a, isWindow a = false → (s.applyStaged line x).homeGet a =
      (lastByte (x.elems.map (fun e => (128 * line + e.1, dfmtBytes x.dfmt, sum e % 2 ^ 32))) a).getD (s.homeGet a) := by
  intro sum
  have hwrites := writesHome_applyStaged (s := s) hw hin
  have hlist : lineWrites line (dfmtBytes x.dfmt) (addedElems s line x) = x.elems.map (fun e => (128 * line + e.1, dfmtBytes x.dfmt, sum e % 2 ^ 32)) := by
    unfold lineWrites addedElems combine
    rw [List.map_map]
    simp only [Function.comp_def, BitVec.toNat_ofNat, sum]
  refine ⟨applyStaged_staged, by rw [hwrites.rest], by rw [hwrites.rest], fun a ha => ?_⟩
  rw [hwrites.home a ha, hlist]
end

/-- Nothing waits for a commit. -/
theorem afterCommit_of_idle {s : State} (hlog : ∀ e ∈ s.cores, ∀ y ∈ e.2.slog, y.req = 0 → y.cause ≠ 0)
    (hst : ∀ e ∈ s.stands, e.2.fenceM = none ∧ e.2.swbs = []) : s.afterCommit = s := by
  have hl : s.cores.flatMap (fun c => (c.2.slog.filter (fun e => e.req == 0 && e.cause == 0)).map (fun e => (c.1, e))) = [] := by
    refine List.flatMap_eq_nil_iff.mpr fun c hc => List.map_eq_nil_iff.mpr (List.filter_eq_nil_iff.mpr fun y hy => ?_)
    simpa using hlog c hc y hy
  have hs : s.stands.filter (fun e => e.2.fenceM.isSome || e.2.swbs != []) = [] := by
    refine List.filter_eq_nil_iff.mpr fun e he => ?_
    obtain ⟨h1, h2⟩ := hst e he
    simp [h1, h2]
  unfold State.afterCommit
  simp only [hl, List.foldl_nil, hs, List.map_nil]

/-! ### Deferred updates (R235) -/

theorem ordEnded_iff {s : State} {launch stage o : Nat} : s.ordEnded launch stage o = true ↔ o < (s.stage launch stage).created ∧
    ∀ e ∈ s.copses, e.2.launch = launch → e.2.stage = stage → e.2.ord = o → e.2.life ≠ .resident ∧ e.2.life ≠ .saved := by
  unfold State.ordEnded
  rw [Bool.and_eq_true, decide_eq_true_eq, Bool.not_eq_true', List.any_eq_false]
  refine and_congr_right fun _ => forall₂_congr fun e _ => ?_
  simp only [Bool.and_eq_true, Bool.or_eq_true, beq_iff_eq, not_and, not_or, and_imp, ne_eq]

theorem detCommit_eq {s : State} {line launch stage ord k q : Nat} {x : Staged} (hx : leastKey (s.dirAt line).staged = some x)
    (hdet : x.det = some (launch, stage, ord, k, q)) : s.detCommit line =
      if (List.range stage).all (fun j => (s.stage launch j).done) && (List.range (ord + 1)).all (fun o => s.ordEnded launch stage o) then
        s.applyStaged line x
      else s := by
  unfold State.detCommit
  simp only [hx, hdet]

end Sys2Proof.Machine
end

section
/-! SUPPORT. Drains that deliver their rows: the obligation (spec/10 R215, R216, R234, R235). -/

namespace Sys2Proof.Machine

/-! ### Each destination at the completion of a pass -/

section
variable {s : State} {cl n : Nat} {c : Cmd}

/-- A completed command that is no drain leaves accumulators and all but engines (R210). -/
theorem plain_completes (hno : (s.engineAt cl).NoneClosing) : let t := (s.cmdDone cl n c.seq).sweep cl n
    Finished t cl n c.seq ∧ t = { s with clusters := t.clusters } ∧ ∀ j x, x < 4096 → (t.engineAt cl).accAt j x = (s.engineAt cl).accAt j x := by
  have hno' : ((s.engineAt cl).setPhase n c.seq .complete).NoneClosing := hno.mapCmd
  obtain ⟨hsw, -, -⟩ := sweep_setEngine s cl n _ hno'
  exact ⟨finished_cmdDone _ _ _ _, rfl, fun j x _ => (congrFun (congrFun hsw.accAt j) x).trans rfl⟩

variable {o : DrainOp}

/-- A drain to the scratchpad has written its elements and made its lines full (R234). -/
theorem scratch_completes (h : ∀ l ∈ c.scratchLines o, ((s.copseAt (copseOf c.stand)).lineAt l).bm = false ∧ (s.copseAt (copseOf c.stand)).awaitsFill l = false)
    (hbehind : s.addBehind cl c = false) : let t := (s.drainScratch cl n c o).sweep cl n
    Finished t cl n c.seq ∧ SameMemory s t ∧ t.stands = s.stands ∧
    (∀ l ∈ c.scratchLines o, ((t.copseAt (copseOf c.stand)).lineAt l).full = true ∧ ((t.copseAt (copseOf c.stand)).lineAt l).filler = none) ∧
    (∀ a, lastByte (drainElems c o (dfmtBytes o.d)) a = none → memGet (t.copseAt (copseOf c.stand)).scratch a = memGet (s.copseAt (copseOf c.stand)).scratch a) ∧
    (o.add = false → ∀ a b, lastByte (drainElems c o (dfmtBytes o.d)) a = some b → memGet (t.copseAt (copseOf c.stand)).scratch a = b) := by
  obtain ⟨cp, hcp⟩ : ∃ cp, cp = s.copseAt (copseOf c.stand) := ⟨_, rfl⟩
  obtain ⟨cp', hcp'⟩ : ∃ cp', cp' = (cp.putElems (c.scratchElems o cp)).madeFull (c.scratchLines o) := ⟨_, rfl⟩
  have hd : s.drainScratch cl n c o = (s.setCopse (copseOf c.stand) cp').cmdDone cl n c.seq := by
    rw [drainScratch_eq h, hbehind, hcp', hcp]
    rfl
  have hcopse : ∀ u : State, u.copses = (s.setCopse (copseOf c.stand) cp').copses → u.copseAt (copseOf c.stand) = cp' := fun u hu =>
    (congrArg (fun t => tget Copse.init t (copseOf c.stand)) hu).trans (tget_tset_self ..)
  rw [hd, ← hcp]
  intro t
  have ht : t.copseAt (copseOf c.stand) = cp' := hcopse t rfl
  have hscratch : cp'.scratch = (cp.putElems (c.scratchElems o cp)).scratch := by rw [hcp', madeFull_scratch]
  rw [ht, hscratch]
  refine ⟨finished_cmdDone _ _ _ _, sameMemory_of_parts (fun _ => rfl) rfl rfl rfl, rfl, fun l hl => ?_, fun a ha => scratchElems_outside ha,
    fun hadd a b hab => scratchElems_inside hadd hab⟩
  rw [hcp']
  exact madeFull_full _ _ hl

section
variable {ps : List (Nat × Nat × Nat)} (hok : (s.piecesXlate (copseOf c.stand) (drainPieces c o)).1 = .ok ps)
  (hin : ∀ p ∈ ps, isWindow p.2.2 = false ∧ p.2.2 % 128 + min (rowBytes o.d) 128 ≤ 128)
include hok hin

/-- A plain drain to memory has written its rows at the homes (R234). -/
theorem memory_completes (hadd : o.add = false) (hst : ∀ p ∈ ps, s.stagedLine (p.2.2 / 128) = false) :
    let t := (s.drainGlobal cl n c o).sweep cl n
    Finished t cl n c.seq ∧ t.stands = s.stands ∧ t.copses = s.copses ∧ ∀ a, isWindow a = false →
      t.homeGet a = (lastByte (ps.map (fun p => runWrite (p.2.2, pieceBytes c o.d p))) a).getD (s.homeGet a) := by
  have hwhole := wholePieces hok hin
  have hwrites := writesHome_deliveredHome (c := c) (s.copseAt (copseOf c.stand)).vi (fieldOfCore (s.copseAt (copseOf c.stand)).core) (copseOf c.stand) o.d ps s hwhole
  obtain ⟨u, hu⟩ : ∃ u, u = s.deliveredHome (s.copseAt (copseOf c.stand)).vi (fieldOfCore (s.copseAt (copseOf c.stand)).core) (copseOf c.stand) c o.d ps := ⟨_, rfl⟩
  rw [drainGlobal_plain (Prod.ext hok rfl) hadd hst, ← hu]
  rw [← hu] at hwrites
  refine ⟨finished_cmdDone _ _ _ _, ?_, ?_, fun a ha => ?_⟩
  · show u.stands = _
    rw [hwrites.rest]
  · show u.copses = _
    rw [hwrites.rest]
  · show u.homeGet a = _
    rw [hwrites.home a ha, lastByte_flatMap fun p hp => lastByte_piece (hwhole p hp).2 a]

/-- An adding drain to memory has staged one update per line (R216, R235). -/
theorem memory_stages (hadd : o.add = true) (hheld : ∀ p ∈ ps, s.heldLine (p.2.2 / 128) = false) :
    let t := (s.drainGlobal cl n c o).sweep cl n
    SameMemory s t ∧ t.stands = s.stands ∧ t.copses = s.copses ∧
    (∀ l, (t.dirAt l).staged.length = (s.dirAt l).staged.length + (ps.filter (fun p => p.2.2 / 128 == l)).length) ∧
    ((s.launchAt (s.copseAt (copseOf c.stand)).launch).det = true → Finished t cl n c.seq) ∧
    ((s.launchAt (s.copseAt (copseOf c.stand)).launch).det = false → ∀ d ∈ ((t.engineAt cl).resv n).queue, d.seq = c.seq → d.phase = .staged) := by
  have hwhole := wholePieces hok hin
  have hany : (ps.any fun p => s.heldLine (p.2.2 / 128)) = false := List.any_eq_false.mpr fun p hp => by rw [hheld p hp]; exact Bool.false_ne_true
  obtain ⟨hstages, hcount⟩ := stages_stagedAll (cl := cl) (n := n) (c := c) (o := o) ps s fun p hp => (hwhole p hp).1
  obtain ⟨u, hu⟩ : ∃ u, u = s.stagedAll cl n c o ps := ⟨_, rfl⟩
  rw [drainGlobal_add (Prod.ext hok rfl) hadd fun p hp => (hin p hp).1, hany, ← hu]
  rw [← hu] at hstages hcount
  have hdet := hstages.detKey_isSome c
  have hst : u.stands = s.stands := by rw [hstages.rest]
  have hco : u.copses = s.copses := by rw [hstages.rest]
  rw [hdet, if_neg Bool.false_ne_true]
  cases (s.launchAt (s.copseAt (copseOf c.stand)).launch).det with
  | true => exact ⟨sameMemory_clusters _ hstages.sameMemory, hst, hco, hcount, fun _ => finished_cmdDone _ _ _ _, fun h => by cases h⟩
  | false => exact ⟨sameMemory_clusters _ hstages.sameMemory, hst, hco, hcount, fun h => (by cases h), fun _ => setPhase_sweep u cl n c.seq .staged⟩
end

/-- A drain to a channel has pushed one row (R215, R337). -/
theorem row_completes {i : Nat} {rest : List Nat} (hno : (s.engineAt cl).NoneClosing) (hc : c ∈ ((s.engineAt cl).resv n).queue) (hp : c.phase = .granted)
    (htodo : c.todo = i :: rest) (hfree : 0 < s.chanFree (s.copseAt (copseOf c.stand)).core (32 + o.ch)) :
    let core := (s.copseAt (copseOf c.stand)).core
    let t := (s.drainRow cl n c o).sweep cl n
    SameMemory s t ∧ t.stands = s.stands ∧
    (t.chanAt core (32 + o.ch)).entries = (s.chanAt core (32 + o.ch)).entries ++ [rowEntry c (dfmtBytes o.d) i] ∧
    (rest = [] → Finished t cl n c.seq ∧ (t.chanAt core (32 + o.ch)).due = (s.chanAt core (32 + o.ch)).due - 1) ∧
    (rest ≠ [] → ∃ d ∈ ((t.engineAt cl).resv n).queue, d.seq = c.seq ∧ d.todo = rest ∧ d.phase = .granted) := by
  intro core
  obtain ⟨u, hu⟩ : ∃ u, u = s.rowPushed cl n c o i rest := ⟨_, rfl⟩
  have hmem : SameMemory s u := hu ▸ sameMemory_rowPushed
  have hst : u.stands = s.stands := by rw [hu]; rfl
  have hchan := rowPushed_chanAt (s := s) (cl := cl) (n := n) (c := c) (o := o) (i := i) (rest := rest)
  rw [drainRow_eq htodo]
  simp only
  rw [if_neg (by omega), ← hu]
  rw [← hu] at hchan
  by_cases hrest : rest = []
  · rw [if_neg (not_not.mpr hrest)]
    have hset : ∀ x, ((u.setChan core (32 + o.ch) x).cmdDone cl n c.seq |>.sweep cl n).chanAt core (32 + o.ch) = x := fun x => setChan_chanAt_self u core _ x
    refine ⟨sameMemory_clusters _ (hmem.trans (sameMemory_setChan _ _ _ _)), hst, ?_, fun _ => ⟨finished_cmdDone _ _ _ _, ?_⟩, fun h => absurd hrest h⟩
    · rw [hset]
      exact congrArg Chan.entries hchan
    · rw [hset]
      exact congrArg (fun x => x.due - 1) hchan
  · rw [if_pos hrest]
    refine ⟨sameMemory_clusters _ hmem, hst, congrArg Chan.entries hchan, fun h => absurd h hrest, fun _ => ?_⟩
    have hno' : ((s.engineAt cl).mapCmd n c.seq (fun c => { c with todo := rest })).NoneClosing := hno.mapCmd
    obtain ⟨hsw, -, -⟩ := sweep_setEngine (s.chanPush core (32 + o.ch) [rowEntry c (dfmtBytes o.d) i]) cl n _ hno'
    obtain ⟨q, g, hq, -, hkeep⟩ := hsw.mine
    have hmemq : ({ c with todo := rest } : Cmd) ∈ (((s.engineAt cl).mapCmd n c.seq (fun c => { c with todo := rest })).resv n).queue := by
      rw [Engine.mapCmd_resv]
      exact mem_mapCmd hc (fun c => { c with todo := rest })
    refine ⟨{ c with todo := rest }, ?_, rfl, rfl, hp⟩
    rw [hu]
    exact (congrArg Resv.queue hq) ▸ hkeep _ hmemq (by rw [hp]; decide)
end

/-! ### A part of a drain (R236) -/

theorem drainSome_part (s : State) (cl n : Nat) (c : Cmd) (o : DrainOp) :
    SameMemory s (s.drainSome cl n c o) ∧ (s.drainSome cl n c o).stands = s.stands ∧
    (o.add = false → ∀ a, let was := memGet (s.copseAt (copseOf c.stand)).scratch a
      memGet ((s.drainSome cl n c o).copseAt (copseOf c.stand)).scratch a = was ∨ ∃ w ∈ drainElems c o (dfmtBytes o.d), w.1 ≤ a ∧ a < w.1 + w.2.1 ∧
        memGet ((s.drainSome cl n c o).copseAt (copseOf c.stand)).scratch a = BitVec.ofNat 8 (w.2.2 / 256 ^ (a - w.1))) := by
  unfold State.drainSome
  simp only
  split
  · exact ⟨sameMemory_refl s, rfl, fun _ _ => .inl rfl⟩
  · refine ⟨sameMemory_of_parts (fun _ => rfl) rfl rfl rfl, rfl, fun hadd a => ?_⟩
    have hcopse (cp : Copse) (e : Engine) : (((s.setCopse (copseOf c.stand) cp).setEngine cl e).bump).copseAt (copseOf c.stand) = cp := tget_tset_self ..
    rw [hcopse]
    exact someElems_byte hadd _

theorem passPart_part (s : State) (cl n : Nat) : SameMemory s (s.passPart cl n) ∧ (s.passPart cl n).stands = s.stands ∧ ∀ c o,
    ((s.engineAt cl).resv n).queue.find? (fun c => c.phase != .complete) = some c → c.op.drainOp = some o → o.dest = 0 → o.add = false →
    ∀ a, let was := memGet (s.copseAt (copseOf c.stand)).scratch a
      memGet ((s.passPart cl n).copseAt (copseOf c.stand)).scratch a = was ∨ ∃ w ∈ drainElems c o (dfmtBytes o.d), w.1 ≤ a ∧ a < w.1 + w.2.1 ∧
        memGet ((s.passPart cl n).copseAt (copseOf c.stand)).scratch a = BitVec.ofNat 8 (w.2.2 / 256 ^ (a - w.1)) := by
  cases hfind : (((s.engineAt cl).resv n).queue.find? (fun c => c.phase != .complete)).filter ((s.engineAt cl).running n) with
  | none =>
    have hs : s.passPart cl n = s := by
      unfold State.passPart
      simp only [hfind]
    rw [hs]
    exact ⟨sameMemory_refl s, rfl, fun _ _ _ _ _ _ _ => .inl rfl⟩
  | some c =>
    have hc : ((s.engineAt cl).resv n).queue.find? (fun c => c.phase != .complete) = some c := by
      rw [Option.filter_eq_some_iff] at hfind
      exact hfind.1
    by_cases hgo : ∃ o, c.op.drainOp = some o ∧ o.dest = 0
    · obtain ⟨o, ho, hd⟩ := hgo
      have hs : s.passPart cl n = s.drainSome cl n c o := by
        unfold State.passPart
        simp only [hfind, ho, hd, if_true]
      obtain ⟨hmem, hst, hbyte⟩ := drainSome_part s cl n c o
      rw [hs]
      refine ⟨hmem, hst, fun c' o' hc' ho' _ hadd => ?_⟩
      obtain rfl : c = c' := Option.some.inj (hc.symm.trans hc')
      obtain rfl : o = o' := Option.some.inj (ho.symm.trans ho')
      exact hbyte hadd
    · have hs : s.passPart cl n = s := by
        unfold State.passPart
        simp only [hfind]
        cases ho : c.op.drainOp with
        | none => rfl
        | some o => exact if_neg fun hd => hgo ⟨o, ho, hd⟩
      rw [hs]
      exact ⟨sameMemory_refl s, rfl, fun _ _ _ _ _ _ _ => .inl rfl⟩

/-- Settles O40: per destination, what the drain's step leaves is what its writes, updates or row make of the state. -/
theorem drainsDeliverTheirRows : Obligations.DrainsDeliverTheirRows := by
  refine ⟨?_, ?_, ?_⟩
  · intro cl n c s e r copse cp hfind hrun _ hno finished
    refine ⟨fun ho => ?_, fun o ho hp hl => ?_⟩
    · obtain ⟨hfin, hrest, hacc⟩ := plain_completes (n := n) (c := c) hno
      exact ⟨_, exec_passComplete_plain hfind hrun ho, hfin, hrest, hacc⟩
    · intro sz data
      have hexec := exec_passComplete_drain hfind hrun ho hp hl
      refine ⟨fun hd => ?_, fun hd => ?_, fun hd i rest htodo => ?_⟩
      · intro ls ws hls
        rw [if_pos hd] at hexec
        refine ⟨fun hb => ⟨_, hexec, ?_⟩, fun hb => ⟨_, hexec, scratch_completes hls hb⟩⟩
        rw [drainScratch_eq hls, hb, if_pos rfl, sweep_rest]
        exact ⟨rfl, sameMemory_clusters _ (sameMemory_refl s)⟩
      · intro unit bytes
        rw [if_neg (by omega), if_pos hd] at hexec
        refine ⟨fun cause va hx h2 h3 hroom => ⟨_, hexec, ?_⟩, fun ps hok hin => ⟨fun hadd hst => ⟨_, hexec, memory_completes hok hin hadd hst⟩,
          fun hadd hheld => ⟨_, hexec, ?_⟩, fun hadd hheld => ⟨_, hexec, memory_stages hok hin hadd hheld⟩⟩⟩
        · rw [drainGlobal_fault hx h2 h3]
          exact drainFail_ends hroom
        · obtain ⟨p, hp, hheld⟩ := hheld
          have hany : (ps.any fun p => s.heldLine (p.2.2 / 128)) = true := List.any_eq_true.mpr ⟨p, hp, hheld⟩
          rw [drainGlobal_add (Prod.ext hok rfl) hadd fun p hp => (hin p hp).1, hany, if_pos rfl]
          exact sweep_rest s cl n
      · rw [if_neg (by omega), if_neg (by omega)] at hexec
        refine ⟨fun hfree => ⟨_, hexec, ?_⟩, fun hfree => ?_⟩
        · rw [drainRow_eq htodo]
          simp only
          rw [if_pos hfree]
          exact sweep_rest s cl n
        · obtain ⟨hmem, hst, hent, hlast, hmore⟩ := row_completes (cl := cl) hno (List.mem_of_find?_eq_some hfind) hp htodo hfree
          exact ⟨_, _, hexec, hmem, hst, hent, fun w hw => tget_rowEntry c _ i hw, hlast, hmore⟩
  · intro cl n s
    exact ⟨_, rfl, passPart_part s cl n⟩
  · intro line x s hw hin sum ws added
    have hadds : added (s.applyStaged line x) := applyStaged_adds hw hin
    have hrest := (writesHome_applyStaged (s := s) hw hin).rest
    obtain ⟨u, hu⟩ : ∃ u, u = s.applyStaged line x := ⟨_, rfl⟩
    rw [← hu] at hadds hrest
    refine ⟨fun cl n c hfind hof hlog hst => ?_, fun launch stage ord k q hx hdet => ?_⟩
    · have hcommit : s.commit cl n = u.cmdDone cl n c.seq := by
        unfold State.commit
        simp only [hfind, hof, List.foldl_cons, List.foldl_nil, ← hu]
        refine afterCommit_of_idle ?_ ?_
        · show ∀ e ∈ u.cores, _
          rw [hrest]
          exact hlog
        · show ∀ e ∈ u.stands, _
          rw [hrest]
          exact hst
      have hexec : exec (.drainCommit cl n) s = .next ((u.cmdDone cl n c.seq).sweep cl n) := by rw [← hcommit]; rfl
      exact ⟨_, hexec, hadds, finished_cmdDone _ _ _ _⟩
    · intro ended
      have hcond : ((List.range stage).all (fun j => (s.stage launch j).done) && (List.range (ord + 1)).all (fun o => s.ordEnded launch stage o)) = true ↔
          ended := by
        simp only [Bool.and_eq_true, List.all_eq_true, List.mem_range, ordEnded_iff, Nat.lt_succ_iff]
        rfl
      have hexec : exec (.detDrainCommit line) s = .next (s.detCommit line) := rfl
      rw [hexec, detCommit_eq hx hdet, ← hu]
      exact ⟨fun h => ⟨_, congrArg Host.Outcome.next (if_pos (hcond.mpr h)), hadds⟩, fun h => congrArg Host.Outcome.next (if_neg (fun hc => h (hcond.mp hc)))⟩

end Sys2Proof.Machine
end

section
/-! SUPPORT. What an operation on one line of memory touches, and writing a line back (spec/12 R279, R288; spec/13 R299). -/

namespace Sys2Proof.Machine

/-! ### Steps that leave every line of memory as it is -/

/-- Directory, frames, port queues and every L1 are as before. -/
structure Quiet (s t : State) : Prop where
  frame : MemFrame s t
  dir : t.dir = s.dir
  frames : t.frames = s.frames
  posted : t.posted = s.posted
  l1 : ∀ c, (t.coreAt c).l1 = (s.coreAt c).l1

theorem Quiet.refl (s : State) : Quiet s s := ⟨memFrame_refl s, rfl, rfl, rfl, fun _ => rfl⟩
theorem Quiet.trans {s t u : State} (h : Quiet s t) (h' : Quiet t u) : Quiet s u :=
  ⟨h.frame.trans h'.frame, h'.dir.trans h.dir, h'.frames.trans h.frames, h'.posted.trans h.posted, fun c => (h'.l1 c).trans (h.l1 c)⟩
theorem quiet_ite {s t u : State} {c : Prop} [Decidable c] (ht : Quiet s t) (hu : Quiet s u) : Quiet s (if c then t else u) := by
  split
  · exact ht
  · exact hu
theorem quiet_foldl {α : Type} {f : State → α → State} (hf : ∀ s a, Quiet s (f s a)) : ∀ (l : List α) (s : State), Quiet s (l.foldl f s)
  | [], s => .refl s
  | a :: l, s => (hf s a).trans (quiet_foldl hf l (f s a))

section
variable (s : State)

theorem quiet_order (o : Order) : Quiet s { s with order := o } := ⟨memFrame_order s o, rfl, rfl, rfl, fun _ => rfl⟩
theorem quiet_past (l : List (Nat × Mem)) : Quiet s { s with past := l } := ⟨memFrame_past s l, rfl, rfl, rfl, fun _ => rfl⟩
theorem quiet_noteStale (stands : List Nat) (ws : List (Nat × Word32)) : Quiet s (s.noteStale stands ws) :=
  ⟨memFrame_noteStale s stands ws, rfl, rfl, rfl, fun _ => rfl⟩
theorem quiet_noteHome (line : Nat) (old new : Mem) : Quiet s (s.noteHome line old new) :=
  quiet_foldl (fun s _ => quiet_noteStale s _ _) _ s
theorem quiet_addPath (stand net line : Nat) : Quiet s (s.addPath stand net line) := by
  refine ⟨memFrame_addPath s stand net line, ?_, ?_, ?_, fun c => ?_⟩ <;> (unfold State.addPath; split <;> rfl)
theorem quiet_disown (core line : Nat) : Quiet s (s.disown core line) := by
  refine ⟨memFrame_disown s core line, ?_, ?_, ?_, fun c => ?_⟩ <;> (unfold State.disown; simp only; split <;> rfl)
theorem quiet_learnBy (copse : Nat) (ls : List Nat) : Quiet s (s.learnBy copse ls) := by
  unfold State.learnBy
  split
  · exact .refl s
  · exact quiet_order s _
theorem quiet_learn (k : Nat) (ls : List Nat) : Quiet s (s.learn k ls) := quiet_learnBy s _ _
theorem quiet_unmark (core : Nat) (p : Nat → Bool) : Quiet s (s.unmark core p) := quiet_ite (.refl s) (quiet_order s _)
theorem quiet_setRefresh (core : Nat) (ls : List Nat) : Quiet s (s.setRefresh core ls) := quiet_ite (.refl s) (quiet_order s _)
theorem quiet_carryHome (core : Nat) (addrs : List Nat) : Quiet s (s.carryHome core addrs) := quiet_order s _
theorem quiet_carry (k : Nat) (place : Option Nat) (addrs : List Nat) : Quiet s (s.carry k place addrs) := quiet_order s _
theorem quiet_dropChains (core line : Nat) : Quiet s (s.dropChains core line) := quiet_ite (.refl s) (quiet_order s _)
theorem quiet_afterAtomics (core line : Nat) : Quiet s (s.afterAtomics core line) :=
  quiet_ite ((quiet_unmark s _ _).trans (quiet_foldl (fun s c => quiet_setRefresh s c _) _ _)) (.refl s)
theorem quiet_notePast (core line : Nat) : Quiet s (s.notePast core line) := by
  unfold State.notePast
  split
  · exact .refl s
  · exact quiet_ite (.refl s) (quiet_past s _)
end

/-! ### Steps on one line -/

/-- What the machine holds of a line of memory: its directory entry, the cores' copies, and its frame. -/
structure LineState where
  dir : Dir
  copies : Nat → Option L1Line
  frame : Mem
def State.line (s : State) (l : Nat) : LineState := ⟨s.dirAt l, fun c => s.l1At c l, memBlock s.frames 128 l⟩

theorem line_eq {s t : State} {l : Nat} (hd : t.dirAt l = s.dirAt l) (hc : ∀ c, t.l1At c l = s.l1At c l)
    (hf : memBlock t.frames 128 l = memBlock s.frames 128 l) : t.line l = s.line l := by
  rw [State.line, State.line, hd, hf, funext hc]

/-- Only one line of memory may differ. -/
structure LineOnly (l : Nat) (s t : State) : Prop where
  frame : MemFrame s t
  others : ∀ j, j ≠ l → t.line j = s.line j
  posted : t.posted = s.posted

theorem LineOnly.refl (l : Nat) (s : State) : LineOnly l s s := ⟨memFrame_refl s, fun _ _ => rfl, rfl⟩
theorem LineOnly.trans {l : Nat} {s t u : State} (h : LineOnly l s t) (h' : LineOnly l t u) : LineOnly l s u :=
  ⟨h.frame.trans h'.frame, fun j hj => (h'.others j hj).trans (h.others j hj), h'.posted.trans h.posted⟩

/-- The copies of a line in the L1s, and the frames, are as before; of its directory entry what placement and use are noted in may differ. -/
structure Noted (l : Nat) (s t : State) : Prop where
  only : LineOnly l s t
  l1 : ∀ c j, t.l1At c j = s.l1At c j
  frames : t.frames = s.frames
  entry : (t.dirAt l).cached = (s.dirAt l).cached ∧ (t.dirAt l).bytes = (s.dirAt l).bytes ∧ (t.dirAt l).dirty = (s.dirAt l).dirty ∧
    (t.dirAt l).pins = (s.dirAt l).pins ∧ (t.dirAt l).replicas = (s.dirAt l).replicas

theorem Noted.trans {l : Nat} {s t u : State} (h : Noted l s t) (h' : Noted l t u) : Noted l s u := by
  obtain ⟨h1, h2, h3, h4, h5⟩ := h.entry
  obtain ⟨h1', h2', h3', h4', h5'⟩ := h'.entry
  exact ⟨h.only.trans h'.only, fun c j => (h'.l1 c j).trans (h.l1 c j), h'.frames.trans h.frames,
    h1'.trans h1, h2'.trans h2, h3'.trans h3, h4'.trans h4, h5'.trans h5⟩

theorem Quiet.dirAt_eq {s t : State} (h : Quiet s t) (l : Nat) : t.dirAt l = s.dirAt l := by simp only [State.dirAt, h.dir]
theorem Quiet.l1At_eq {s t : State} (h : Quiet s t) (c l : Nat) : t.l1At c l = s.l1At c l := by simp only [State.l1At, h.l1]
theorem Quiet.noted {s t : State} (h : Quiet s t) (l : Nat) : Noted l s t :=
  ⟨⟨h.frame, fun j _ => line_eq (h.dirAt_eq j) (fun c => h.l1At_eq c j) (by rw [h.frames]), h.posted⟩, h.l1At_eq, h.frames, by
    rw [h.dirAt_eq l]; exact ⟨rfl, rfl, rfl, rfl, rfl⟩⟩

theorem lineOnly_setDir (s : State) (l : Nat) (d : Dir) : LineOnly l s (s.setDir l d) :=
  ⟨memFrame_setDir s l d, fun _ hj => line_eq (setDir_dirAt_ne _ _ _ hj) (fun _ => rfl) rfl, rfl⟩

theorem noted_request (s : State) (l field : Nat) (stream : Bool) : Noted l s (s.request l field stream) := by
  unfold State.request
  simp only
  split
  · refine ⟨⟨(memFrame_setDir s _ _).trans (memFrame_placement _ _), fun _ hj => line_eq (setDir_dirAt_ne _ _ _ hj) (fun _ => rfl) rfl, rfl⟩,
      fun _ _ => rfl, rfl, ?_⟩
    have hd : ∀ d : Dir, State.dirAt { s.setDir l d with placement := { s.placement with clock := s.placement.clock + 1 } } l = d :=
      fun d => setDir_dirAt s l d
    rw [hd]
    unfold Dir.request
    split
    · exact ⟨rfl, rfl, rfl, rfl, rfl⟩
    · exact ⟨rfl, rfl, rfl, rfl, rfl⟩
  · exact (Quiet.refl s).noted l

/-! ### Lines and their bytes -/

theorem homeGet_eq_lineBytes {s : State} {a : Nat} (hw : isWindow (128 * (a / 128)) = false) : s.homeGet a = memGet (s.lineBytes (a / 128)) (a % 128) := by
  have ha : isWindow a = false := by
    rw [← isWindow_line (a / 128) (a % 128) (Nat.mod_lt _ (by omega)), Nat.div_add_mod] at hw
    exact hw
  unfold State.homeGet State.lineBytes
  simp only [hw, ha, Bool.false_eq_true, if_false]
  split
  · rfl
  · rw [memGet_memBlock _ _ _ _ (Nat.mod_lt _ (by omega)), Nat.div_add_mod]

theorem lineBytes_of_cached {s : State} {l : Nat} (h : (s.dirAt l).cached = true) : s.lineBytes l = (s.dirAt l).bytes := by
  unfold State.lineBytes
  simp only [h, if_true]

theorem lineBytes_congr {s t : State} {l : Nat} (hw : isWindow (128 * l) = false) (hc : (t.dirAt l).cached = (s.dirAt l).cached)
    (hb : (t.dirAt l).bytes = (s.dirAt l).bytes) (hf : t.frames = s.frames) : t.lineBytes l = s.lineBytes l := by
  unfold State.lineBytes
  simp only [hw, hc, hb, hf, Bool.false_eq_true, if_false]

theorem cached_bytes (s : State) (vi : Nat) {l : Nat} (hw : isWindow (128 * l) = false) : (s.cached vi l).bytes = s.lineBytes l := by
  unfold State.cached State.lineBytes
  simp only [hw, Bool.false_eq_true, if_false]
  split
  · rfl
  · rfl

theorem cached_cached (s : State) (vi l : Nat) : (s.cached vi l).cached = true := by
  unfold State.cached
  simp only
  split
  · next h => exact h
  · rfl

theorem cached_pins (s : State) (vi l : Nat) : (s.cached vi l).pins = (s.dirAt l).pins := by
  unfold State.cached
  simp only
  split
  · rfl
  · rfl

theorem cached_replicas (s : State) (vi l : Nat) : ∀ r ∈ (s.cached vi l).replicas, r ∈ (s.dirAt l).replicas := by
  intro r hr
  unfold State.cached at hr
  simp only at hr
  split at hr
  · exact hr
  · exact absurd hr List.not_mem_nil

/-- Bytes of a line that have been put at its home. -/
structure PutHome (l : Nat) (bs : List (Nat × Byte)) (s t : State) : Prop where
  only : LineOnly l s t
  l1 : ∀ c j, t.l1At c j = s.l1At c j
  frames : t.frames = s.frames
  cached : (t.dirAt l).cached = true
  dirty : (t.dirAt l).dirty = true
  bytes : (t.dirAt l).bytes = putBytes bs (s.lineBytes l)
  pins : (t.dirAt l).pins = (s.dirAt l).pins
  replicas : ∀ r ∈ (t.dirAt l).replicas, r ∈ (s.dirAt l).replicas

theorem PutHome.then_noted {l : Nat} {bs : List (Nat × Byte)} {s t u : State} (h : PutHome l bs s t) (h' : Noted l t u) : PutHome l bs s u := by
  obtain ⟨h1, h2, h3, h4, h5⟩ := h'.entry
  exact ⟨h.only.trans h'.only, fun c j => (h'.l1 c j).trans (h.l1 c j), h'.frames.trans h.frames, h1.trans h.cached, h3.trans h.dirty,
    h2.trans h.bytes, h4.trans h.pins, fun r hr => h.replicas r (h5 ▸ hr)⟩

theorem putHome_homePut (s : State) (vi : Nat) {l : Nat} {bs : List (Nat × Byte)} (hw : isWindow (128 * l) = false) (hin : ∀ b ∈ bs, b.1 < 128)
    (hne : bs ≠ []) : PutHome l bs s (s.homePut vi l bs) := by
  have hall : bs.filter (fun b => decide (b.1 < 128)) = bs := List.filter_eq_self.mpr fun b hb => decide_eq_true (hin b hb)
  obtain ⟨d, hd⟩ : ∃ d, d = s.cached vi l := ⟨_, rfl⟩
  have hput (z : Bool) : PutHome l bs s (s.setDir l { d with bytes := putBytes bs d.bytes, dirty := true, written := true, zero := z }) :=
    ⟨lineOnly_setDir s l _, fun _ _ => rfl, rfl, by rw [setDir_dirAt, hd]; exact cached_cached .., by rw [setDir_dirAt],
      by rw [setDir_dirAt, hd, cached_bytes s vi hw], by rw [setDir_dirAt, hd]; exact cached_pins ..,
      by rw [setDir_dirAt, hd]; exact cached_replicas s vi l⟩
  unfold State.homePut
  simp only [hall, hw, ← hd, Bool.false_eq_true, if_false, if_neg hne]
  split_ifs
  · exact (hput _).then_noted ((quiet_noteHome _ _ _ _).noted l)
  · exact (hput _).then_noted (((quiet_noteHome _ _ _ _).trans (quiet_past _ _)).noted l)

/-! ### Masked bytes -/

theorem memGet_putBytes_map (g : Nat → Byte) (x : Nat) : ∀ (os : List Nat) (m : Mem),
    memGet (putBytes (os.map (fun o => (o, g o))) m) x = if x ∈ os then g x else memGet m x
  | [], m => by simp [putBytes]
  | o :: os, m => by
    have htail := memGet_putBytes_map g x os (memSet o (g o) m)
    rw [List.map_cons, putBytes, List.foldl_cons, ← putBytes, htail, memGet_memSet]
    by_cases hx : x ∈ os
    · simp [hx]
    · by_cases ho : x = o
      · simp [ho]
      · simp [hx, ho]

theorem memGet_putMasked (m : Mask) (b base : Mem) {x : Nat} (hx : x < 128) :
    memGet (putBytes (maskedBytes m b) base) x = if m.getLsbD x then memGet b x else memGet base x := by
  rw [maskedBytes, memGet_putBytes_map]
  simp only [mem_lanes, hx, true_and]

theorem maskedBytes_in (m : Mask) (b : Mem) : ∀ x ∈ maskedBytes m b, x.1 < 128 := by
  intro x hx
  obtain ⟨o, ho, rfl⟩ := List.mem_map.mp hx
  exact ((mem_lanes m o).mp ho).1

theorem maskedBytes_ne {m : Mask} (b : Mem) (h : m ≠ 0) : maskedBytes m b ≠ [] := by
  intro hnil
  have hl : lanes m = [] := List.map_eq_nil_iff.mp hnil
  refine h (BitVec.eq_of_getLsbD_eq fun i hi => ?_)
  have hno : i ∉ lanes m := by rw [hl]; exact List.not_mem_nil
  rw [mem_lanes] at hno
  simpa [hi] using hno

theorem mem_tdel {α : Type} {k : Nat} {x : Nat × α} : ∀ {t : Tbl α}, x ∈ tdel k t → x ∈ t
  | [], h => h
  | (j, b) :: r, h => by
    simp only [tdel] at h
    split at h
    · exact List.mem_cons_of_mem _ (mem_tdel h)
    · rcases List.mem_cons.mp h with rfl | h
      · exact List.mem_cons_self
      · exact List.mem_cons_of_mem _ (mem_tdel h)

theorem lineForm_memSet {m : Mem} (h : LineForm m) {o : Nat} (ho : o < 128) (b : Byte) : LineForm (memSet o b m) := by
  obtain ⟨hwf, hin⟩ := h
  refine ⟨memSet_wf o b hwf, fun c hc => ?_⟩
  unfold memSet at hc
  split at hc
  · exact hin c (mem_tdel hc)
  · rcases mem_tset hc with rfl | hc
    · exact ho
    · exact hin c hc

theorem lineForm_putBytes (bs : List (Nat × Byte)) : ∀ {m : Mem}, LineForm m → (∀ b ∈ bs, b.1 < 128) → LineForm (putBytes bs m) := by
  induction bs with
  | nil => exact fun h _ => h
  | cons b bs ih => exact fun h hin => ih (lineForm_memSet h (hin b List.mem_cons_self) b.2) fun x hx => hin x (List.mem_cons_of_mem _ hx)

/-! ### Blocks of the frames -/

theorem tfind_of_wfFrom {m : Mem} : ∀ {lo : Nat}, Memory.wfFrom lo m = true → ∀ {c : Host.Cell}, c ∈ m → tfind c.1 m = some c.2 := by
  induction m with
  | nil => exact fun _ _ h => absurd h List.not_mem_nil
  | cons x r ih =>
    intro lo hwf c hc
    obtain ⟨a, b⟩ := x
    obtain ⟨-, -, hr⟩ := wfFrom_cons.mp hwf
    rcases List.mem_cons.mp hc with rfl | hc
    · exact if_pos rfl
    · have hfound := ih hr hc
      have hne : a ≠ c.1 := fun e => by rw [tfind_wfFrom_lt hr (show c.1 < a + 1 by omega)] at hfound; cases hfound
      rw [tfind, if_neg hne, hfound]

/-- Cells written at a base over memory: canonical cells stand there, and elsewhere what stood. -/
theorem memGet_putCells (base x : Nat) : ∀ (b : Mem) {lo : Nat} (m : Mem), Memory.wfFrom lo b = true →
    memGet (b.foldl (fun m c => memSet (base + c.1) c.2 m) m) x =
      if base ≤ x then (tfind (x - base) b).getD (memGet m x) else memGet m x
  | [], _, m, _ => by simp [tfind]
  | (a, v) :: r, lo, m, hwf => by
    obtain ⟨-, -, hr⟩ := wfFrom_cons.mp hwf
    rw [List.foldl_cons, memGet_putCells base x r _ hr, memGet_memSet]
    by_cases hx : base ≤ x
    · simp only [if_pos hx, tfind]
      by_cases ha : x = base + a
      · have hnone : tfind (x - base) r = none := by rw [show x - base = a by omega]; exact tfind_wfFrom_lt hr (by omega)
        rw [hnone, if_pos ha, if_pos (show a = x - base by omega)]
        rfl
      · rw [if_neg ha, if_neg (show a ≠ x - base by omega)]
    · rw [if_neg hx, if_neg hx, if_neg (by omega)]

theorem memGet_filter (p : Host.Cell → Bool) (x : Nat) (h : ∀ b : Byte, p (x, b) = true) : ∀ m : Mem, memGet (m.filter p) x = memGet m x
  | [] => rfl
  | (a, b) :: r => by
    have ih := memGet_filter p x h r
    unfold memGet tget at ih ⊢
    rw [List.filter_cons]
    by_cases hax : a = x
    · rw [if_pos (by rw [hax]; exact h b), tfind, tfind, if_pos hax, if_pos hax]
    · split
      · rw [tfind, tfind, if_neg hax, if_neg hax, ih]
      · rw [tfind, if_neg hax, ih]

theorem memGet_filter_out (p : Host.Cell → Bool) (x : Nat) (h : ∀ b : Byte, p (x, b) = false) : ∀ m : Mem, memGet (m.filter p) x = 0
  | [] => rfl
  | (a, b) :: r => by
    have ih := memGet_filter_out p x h r
    unfold memGet tget at ih ⊢
    rw [List.filter_cons]
    by_cases hax : a = x
    · rw [if_neg (by rw [hax, h b]; decide), ih]
    · split
      · rw [tfind, if_neg hax, ih]
      · exact ih

/-- A byte of a frame whose line has been replaced. -/
theorem memGet_memSetBlock {b : Mem} (hb : LineForm b) (m : Mem) (n x : Nat) :
    memGet (memSetBlock m 128 n b) x = if x / 128 = n then memGet b (x % 128) else memGet m x := by
  obtain ⟨hwf, hin⟩ := hb
  rw [memSetBlock, memGet_putCells (128 * n) x b _ hwf]
  by_cases hx : x / 128 = n
  · rw [if_pos hx, if_pos (by omega), memGet_filter_out _ _ (fun _ => by simp [hx]), show x - 128 * n = x % 128 by omega]
    rfl
  · rw [if_neg hx, memGet_filter _ _ (fun _ => by simp [hx])]
    split
    · have hnone : tfind (x - 128 * n) b = none := by
        by_contra hne
        obtain ⟨v, hv⟩ := Option.ne_none_iff_exists'.mp hne
        have := hin _ (mem_of_tfind hv)
        simp only at this
        omega
      rw [hnone]
      rfl
    · rfl

theorem memBlock_cons (c : Host.Cell) (m : Mem) (size n : Nat) :
    memBlock (c :: m) size n = if c.1 / size = n then (c.1 % size, c.2) :: memBlock m size n else memBlock m size n := by
  unfold memBlock
  rw [List.filterMap_cons]
  split_ifs <;> rfl

theorem memBlock_tset_ne {size n a : Nat} (h : a / size ≠ n) (b : Byte) : ∀ m : Mem, memBlock (tset a b m) size n = memBlock m size n
  | [] => by rw [tset, memBlock_cons, if_neg h]
  | (x, y) :: r => by
    rw [tset]
    split_ifs with he hlt
    · rw [memBlock_cons, memBlock_cons, if_neg h, if_neg (by rw [he]; exact h)]
    · rw [memBlock_cons, if_neg h]
    · rw [memBlock_cons, memBlock_cons, memBlock_tset_ne h b r]

theorem memBlock_tdel_ne {size n a : Nat} (h : a / size ≠ n) : ∀ m : Mem, memBlock (tdel a m) size n = memBlock m size n
  | [] => rfl
  | (x, y) :: r => by
    rw [tdel]
    split_ifs with he
    · rw [memBlock_cons, if_neg (by rw [he]; exact h), memBlock_tdel_ne h r]
    · rw [memBlock_cons, memBlock_cons, memBlock_tdel_ne h r]

theorem memBlock_memSet_ne {size n a : Nat} (h : a / size ≠ n) (b : Byte) (m : Mem) : memBlock (memSet a b m) size n = memBlock m size n := by
  unfold memSet
  split
  · exact memBlock_tdel_ne h m
  · exact memBlock_tset_ne h b m

theorem memBlock_putCells_ne {n j : Nat} (hj : j ≠ n) : ∀ (b m : Mem), (∀ c ∈ b, c.1 < 128) →
    memBlock (b.foldl (fun m c => memSet (128 * n + c.1) c.2 m) m) 128 j = memBlock m 128 j
  | [], _, _ => rfl
  | c :: b, m, h => by
    have hc := h c List.mem_cons_self
    rw [List.foldl_cons, memBlock_putCells_ne hj b _ fun x hx => h x (List.mem_cons_of_mem _ hx), memBlock_memSet_ne (by omega)]

theorem memBlock_filter (p : Host.Cell → Bool) (size n : Nat) (h : ∀ c : Host.Cell, c.1 / size = n → p c = true) :
    ∀ m : Mem, memBlock (m.filter p) size n = memBlock m size n
  | [] => rfl
  | c :: m => by
    have ih := memBlock_filter p size n h m
    rw [List.filter_cons, memBlock_cons]
    split_ifs with hp hc hc
    · rw [memBlock_cons, if_pos hc, ih]
    · rw [memBlock_cons, if_neg hc, ih]
    · exact absurd (h c hc) hp
    · exact ih

/-- The other frames stay when one is written (R283). -/
theorem memBlock_memSetBlock_ne {b : Mem} (hb : LineForm b) {n j : Nat} (hj : j ≠ n) (m : Mem) :
    memBlock (memSetBlock m 128 n b) 128 j = memBlock m 128 j := by
  obtain ⟨-, hin⟩ := hb
  rw [memSetBlock, memBlock_putCells_ne hj b _ hin, memBlock_filter _ _ _ fun c hc => by simp [hc, hj]]

end Sys2Proof.Machine
end

section
/-! SUPPORT. Copies of a line in the L1s: writing one back, dropping it, and cleaning or dropping a home copy (spec/12 R283, R288; spec/13 R299). -/

namespace Sys2Proof.Machine

section
variable {s : State} {core l : Nat}

/-! ### One L1 line -/

theorem setL1_l1At (s : State) (core l : Nat) (x : L1Line) (c j : Nat) :
    (s.setL1 core l x).l1At c j = if c = core ∧ j = l then some x else s.l1At c j := by
  unfold State.l1At State.setL1
  simp only [setCore_coreAt_at]
  by_cases hc : c = core
  · rw [if_pos hc, hc, tfind_tset]
    simp
  · rw [if_neg hc, if_neg fun h => hc h.1]

theorem lineOnly_setL1 (s : State) (core l : Nat) (x : L1Line) : LineOnly l s (s.setL1 core l x) :=
  ⟨memFrame_setL1 s core l x, fun j hj => line_eq rfl (fun c => by rw [setL1_l1At, if_neg fun h => hj h.2]) rfl, rfl⟩

/-- A core's copy of a line, and nothing else of memory, is as given. -/
structure CopyIs (core l : Nat) (x : Option L1Line) (s t : State) : Prop where
  only : LineOnly l s t
  own : t.l1At core l = x
  others : ∀ c, c ≠ core → t.l1At c l = s.l1At c l
  dir : t.dir = s.dir
  frames : t.frames = s.frames

theorem CopyIs.then_quiet {x : Option L1Line} {t u : State} (h : CopyIs core l x s t) (h' : Quiet t u) : CopyIs core l x s u :=
  ⟨h.only.trans (h'.noted l).only, (h'.l1At_eq core l).trans h.own, fun c hc => (h'.l1At_eq c l).trans (h.others c hc), h'.dir.trans h.dir,
    h'.frames.trans h.frames⟩

theorem Quiet.then_copyIs {x : Option L1Line} {t u : State} (h : Quiet s t) (h' : CopyIs core l x t u) : CopyIs core l x s u :=
  ⟨(h.noted l).only.trans h'.only, h'.own, fun c hc => (h'.others c hc).trans (h.l1At_eq c l), h'.dir.trans h.dir, h'.frames.trans h.frames⟩

theorem copyIs_setL1 (s : State) (core l : Nat) (x : L1Line) : CopyIs core l (some x) s (s.setL1 core l x) :=
  ⟨lineOnly_setL1 s core l x, by rw [setL1_l1At, if_pos ⟨rfl, rfl⟩], fun c hc => by rw [setL1_l1At, if_neg fun h => hc h.1], rfl, rfl⟩

/-- A dropped copy is gone, and nothing else of memory differs (R288). -/
theorem copyIs_dropL1 (s : State) (core l : Nat) : CopyIs core l none s (s.dropL1 core l) := by
  unfold State.dropL1
  split
  · next h => exact ⟨.refl l s, h, fun _ _ => rfl, rfl, rfl⟩
  · next x _ =>
    simp only
    generalize hws : List.filter _ _ = ws
    refine ((quiet_notePast s core l).trans (quiet_noteStale _ ((s.notePast core l).standsOn core) ws)).then_copyIs ?_
    generalize (s.notePast core l).noteStale ((s.notePast core l).standsOn core) ws = u
    refine CopyIs.then_quiet ?_ ((quiet_unmark _ _ _).trans (quiet_dropChains _ _ _))
    have hl1 (c j : Nat) : (u.setCore core { u.coreAt core with l1 := tdel l (u.coreAt core).l1 }).l1At c j =
        if c = core ∧ j = l then none else u.l1At c j := by
      unfold State.l1At
      rw [setCore_coreAt_at]
      by_cases hc : c = core
      · rw [if_pos hc, hc, tfind_tdel]
        simp
      · rw [if_neg hc, if_neg fun h => hc h.1]
    exact ⟨⟨memFrame_setL1s u core _, fun j hj => line_eq rfl (fun c => by rw [hl1, if_neg fun h => hj h.2]) rfl, rfl⟩,
      by rw [hl1, if_pos ⟨rfl, rfl⟩], fun c hc => by rw [hl1, if_neg fun h => hc h.1], rfl, rfl⟩

/-! ### Writing a copy back (R299) -/

theorem writeBackL1_clean (h : ∀ x, s.l1At core l = some x → x.dirty = 0) : s.writeBackL1 core l = s := by
  unfold State.writeBackL1
  split
  · rfl
  · next x hx => simp only [if_pos (h x hx)]

/-- A copy written back. -/
def L1Line.cleaned (x : L1Line) : L1Line := { x with dirty := 0, writers := [] }

theorem writeBackL1_dirty {x : L1Line} (hx : s.l1At core l = some x) (hd : x.dirty ≠ 0) :
    ∃ u, Noted l (s.homePut (s.viOf (x.writers.headD 0)) l (maskedBytes x.dirty x.bytes)) u ∧
      CopyIs core l (some x.cleaned) u (s.writeBackL1 core l) := by
  unfold State.writeBackL1
  simp only [hx, if_neg hd]
  refine ⟨_, ?noted, (copyIs_setL1 _ core l x.cleaned).then_quiet (quiet_disown _ _ _)⟩
  case noted =>
    refine (noted_request _ l (fieldOfCore core) x.low).trans (Quiet.noted ?_ l)
    refine (quiet_foldl (fun s w => quiet_addPath s w netBulk l) x.writers _).trans ?_
    refine (quiet_carryHome _ core ((lanes x.dirty).map (fun o => 128 * l + o))).trans ((quiet_afterAtomics _ core l).trans ?_)
    exact quiet_foldl (fun s c => quiet_learnBy s c [l]) _ _

/-- What writing a dirty copy back leaves of a line of memory. -/
structure WrittenBack (core l : Nat) (x : L1Line) (s t : State) : Prop where
  only : LineOnly l s t
  own : t.l1At core l = some x.cleaned
  others : ∀ c, c ≠ core → t.l1At c l = s.l1At c l
  frames : t.frames = s.frames
  cached : (t.dirAt l).cached = true
  dirty : (t.dirAt l).dirty = true
  bytes : (t.dirAt l).bytes = putBytes (maskedBytes x.dirty x.bytes) (s.lineBytes l)
  pins : (t.dirAt l).pins = (s.dirAt l).pins
  replicas : ∀ r ∈ (t.dirAt l).replicas, r ∈ (s.dirAt l).replicas

theorem writtenBack {x : L1Line} (hw : isWindow (128 * l) = false) (hx : s.l1At core l = some x) (hd : x.dirty ≠ 0) :
    WrittenBack core l x s (s.writeBackL1 core l) := by
  obtain ⟨u, hnoted, hcopy⟩ := writeBackL1_dirty hx hd
  have hput := (putHome_homePut s (s.viOf (x.writers.headD 0)) hw (maskedBytes_in x.dirty x.bytes) (maskedBytes_ne x.bytes hd)).then_noted hnoted
  have hdir : (s.writeBackL1 core l).dirAt l = u.dirAt l := by simp only [State.dirAt, hcopy.dir]
  exact ⟨hput.only.trans hcopy.only, hcopy.own, fun c hc => (hcopy.others c hc).trans (hput.l1 c l), hcopy.frames.trans hput.frames,
    by rw [hdir]; exact hput.cached, by rw [hdir]; exact hput.dirty, by rw [hdir]; exact hput.bytes, by rw [hdir]; exact hput.pins,
    by rw [hdir]; exact hput.replicas⟩

theorem lineOnly_foldl {α : Type} {f : State → α → State} (hf : ∀ s a, LineOnly l s (f s a)) : ∀ (as : List α) (s : State), LineOnly l s (as.foldl f s)
  | [], s => .refl l s
  | a :: as, s => (hf s a).trans (lineOnly_foldl hf as (f s a))

/-- Writing back touches one line (R299). -/
theorem lineOnly_writeBackL1 (s : State) (core : Nat) {l : Nat} (hw : isWindow (128 * l) = false) : LineOnly l s (s.writeBackL1 core l) := by
  cases hx : s.l1At core l with
  | none => rw [writeBackL1_clean fun x h => by rw [hx] at h; cases h]; exact .refl l s
  | some x =>
    by_cases hd : x.dirty = 0
    · rw [writeBackL1_clean fun y h => by rw [hx] at h; cases h; exact hd]
      exact .refl l s
    · exact (writtenBack hw hx hd).only

theorem lineOnly_recall (s : State) (core : Nat) {l : Nat} (hw : isWindow (128 * l) = false) : LineOnly l s (s.recall core l) := by
  refine lineOnly_foldl (fun s c => ?_) _ s
  split
  · exact .refl l s
  · split
    · exact lineOnly_writeBackL1 s c hw
    · exact .refl l s

/-- Recalling leaves the copy of the core itself. -/
theorem recall_own (s : State) (core : Nat) {l : Nat} (hw : isWindow (128 * l) = false) : (s.recall core l).l1At core l = s.l1At core l := by
  have hne : ∀ c ∈ siblings core, core ≠ c := fun c hc => by
    have := (List.mem_filter.mp hc).2
    exact fun e => by simp [e] at this
  unfold State.recall
  generalize siblings core = cs at hne
  induction cs generalizing s with
  | nil => rfl
  | cons c cs ih =>
    rw [List.foldl_cons, ih _ fun d hd => hne d (List.mem_cons_of_mem _ hd)]
    split
    · rfl
    · next x hx =>
      split
      · by_cases hd : x.dirty = 0
        · rw [writeBackL1_clean fun y h => by rw [hx] at h; cases h; exact hd]
        · exact (writtenBack hw hx hd).others core (hne c List.mem_cons_self)
      · rfl

/-! ### Home copies (R283, R288) -/

theorem lineOnly_cleanHome {s : State} {l : Nat} (hb : LineForm (s.lineBytes l)) : LineOnly l s (s.cleanHome l) := by
  unfold State.cleanHome
  simp only
  split
  · next h =>
    rw [Bool.and_eq_true] at h
    obtain ⟨hcached, -⟩ := h
    rw [lineBytes_of_cached hcached] at hb
    refine LineOnly.trans (t := { s with frames := memSetBlock s.frames 128 l (s.dirAt l).bytes })
      ⟨⟨by simp, fun _ => ⟨_, rfl⟩, fun _ => ⟨_, rfl⟩, fun _ => ⟨_, rfl⟩⟩, fun j hj => line_eq rfl (fun _ => rfl) ?_, rfl⟩ (lineOnly_setDir _ _ _)
    exact memBlock_memSetBlock_ne hb hj _
  · exact .refl l s

theorem memFrame_cleanHome (s : State) (l : Nat) : MemFrame s (s.cleanHome l) := by
  unfold State.cleanHome
  simp only
  split
  · exact MemFrame.trans (t := { s with frames := memSetBlock s.frames 128 l (s.dirAt l).bytes })
      ⟨by simp, fun _ => ⟨_, rfl⟩, fun _ => ⟨_, rfl⟩, fun _ => ⟨_, rfl⟩⟩ (memFrame_setDir _ _ _)
  · exact memFrame_refl s

/-- What a home copy written to its frame leaves. -/
theorem cleanHome_entry (hb : LineForm (s.lineBytes l)) :
    (s.cleanHome l).dirAt l = (if (s.dirAt l).cached && (s.dirAt l).dirty then { s.dirAt l with dirty := false } else s.dirAt l) ∧
      (∀ c j, (s.cleanHome l).l1At c j = s.l1At c j) ∧
      ((s.dirAt l).cached = true → (s.dirAt l).dirty = true → ∀ a, a / 128 = l → memGet (s.cleanHome l).frames a = memGet (s.dirAt l).bytes (a % 128)) ∧
      (((s.dirAt l).cached && (s.dirAt l).dirty) = false → s.cleanHome l = s) := by
  unfold State.cleanHome
  simp only
  split
  · next h =>
    have hcached : (s.dirAt l).cached = true := (Bool.and_eq_true_iff.mp h).1
    rw [lineBytes_of_cached hcached] at hb
    exact ⟨setDir_dirAt _ _ _, fun _ _ => rfl, fun _ _ a ha => (memGet_memSetBlock hb _ _ _).trans (if_pos ha), fun hno => absurd (h.symm.trans hno) (by decide)⟩
  · next h => exact ⟨rfl, fun _ _ => rfl, fun hc hd => absurd (by rw [hc, hd]; rfl) h, fun _ => rfl⟩

/-- What is left in the directory of a line without a home copy. -/
def Dir.dropped (d : Dir) : Dir := { Dir.init with pins := d.pins, staged := d.staged, waiters := d.waiters }

theorem dropHome_quiet (s : State) (l : Nat) : Quiet (s.setDir l (s.dirAt l).dropped) (s.dropHome l) := by
  unfold State.dropHome
  simp only
  split
  · exact .refl _
  · exact (quiet_past _ _).trans (quiet_noteHome _ _ _ _)

theorem lineOnly_dropHome (s : State) (l : Nat) : LineOnly l s (s.dropHome l) :=
  (lineOnly_setDir s l _).trans ((dropHome_quiet s l).noted l).only

/-- A dropped home copy: the line is what its frame holds, with its pin marks. -/
theorem dropHome_entry (s : State) (l : Nat) : (s.dropHome l).dirAt l = (s.dirAt l).dropped ∧ (∀ c j, (s.dropHome l).l1At c j = s.l1At c j) ∧
    (s.dropHome l).frames = s.frames :=
  ⟨((dropHome_quiet s l).dirAt_eq l).trans (setDir_dirAt _ _ _), (dropHome_quiet s l).l1At_eq, (dropHome_quiet s l).frames⟩
end

end Sys2Proof.Machine
end

section
/-! SUPPORT. Cache maintenance of one line, and of the lines of a range (spec/12 R286-R291). -/

namespace Sys2Proof.Machine

/-! ### What a line's state says -/

section
variable {s t : State} {l : Nat} (h : t.line l = s.line l)
include h

theorem dirAt_of_line : t.dirAt l = s.dirAt l := congrArg LineState.dir h
theorem l1At_of_line (c : Nat) : t.l1At c l = s.l1At c l := congrFun (congrArg LineState.copies h) c
theorem frame_of_line : memBlock t.frames 128 l = memBlock s.frames 128 l := congrArg LineState.frame h
theorem frameByte_of_line {a : Nat} (ha : a / 128 = l) : memGet t.frames a = memGet s.frames a := by
  have hb (m : Mem) : memGet m a = memGet (memBlock m 128 l) (a % 128) := by
    rw [memGet_memBlock _ _ _ _ (Nat.mod_lt _ (by omega)), ← ha, Nat.div_add_mod]
  rw [hb, hb, frame_of_line h]
theorem homeGet_of_line (hp : t.posted = s.posted) {a : Nat} (ha : a / 128 = l) : t.homeGet a = s.homeGet a := by
  unfold State.homeGet State.windowBytes
  simp only [ha, dirAt_of_line h, frame_of_line h, frameByte_of_line h ha, hp]
theorem homeGet_of_plain (hw : isWindow (128 * l) = false) {a : Nat} (ha : a / 128 = l) : t.homeGet a = s.homeGet a := by
  have hwa : isWindow a = false := by
    rw [← ha, ← isWindow_line (a / 128) (a % 128) (Nat.mod_lt _ (by omega)), Nat.div_add_mod] at hw
    exact hw
  unfold State.homeGet
  simp only [ha, dirAt_of_line h, frameByte_of_line h ha, hwa, Bool.false_eq_true, if_false]
theorem lineBytes_of_line (hw : isWindow (128 * l) = false) : t.lineBytes l = s.lineBytes l := by
  unfold State.lineBytes
  simp only [hw, dirAt_of_line h, frame_of_line h, Bool.false_eq_true, if_false]
theorem cleaned_of_line (hw : isWindow (128 * l) = false) (core : Nat) {a : Nat} (ha : a / 128 = l) : cleaned t core a = cleaned s core a := by
  unfold cleaned
  rw [ha, l1At_of_line h, homeGet_of_plain h hw ha]
theorem byteSeen_of_line (hp : t.posted = s.posted) (core : Nat) {a : Nat} (ha : a / 128 = l) : byteSeen t core a = byteSeen s core a := by
  unfold byteSeen State.coreView
  rw [ha, l1At_of_line h]
  simp only [List.range_one, List.map_cons, List.map_nil, State.homeRead, Nat.add_zero, homeGet_of_line h hp ha]
end

/-! ### Ranges of lines -/

/-- A line at home, of canonical bytes. -/
def Formed (s : State) (l : Nat) : Prop := isWindow (128 * l) = false ∧ LineForm (s.lineBytes l)

theorem Formed.of_line {s t : State} {l : Nat} (h : Formed s l) (hl : t.line l = s.line l) : Formed t l := by
  obtain ⟨hw, hf⟩ := h
  exact ⟨hw, by rwa [lineBytes_of_line hl hw]⟩

/-- What holds of a line before and after is about that line. -/
def AboutLine (p : State → State → Nat → Prop) : Prop :=
  ∀ s s' t t' l, isWindow (128 * l) = false → s'.line l = s.line l → t'.line l = t.line l → p s t l → p s' t' l

/-- An operation that touches one line at a time does of each line of a list what it does of one (R286). -/
theorem foldl_lines {op : State → Nat → State} {p : State → State → Nat → Prop} {inv : State → Prop}
    (hop : ∀ s l, inv s → Formed s l → LineOnly l s (op s l) ∧ p s (op s l) l ∧ inv (op s l)) (hp : AboutLine p) :
    ∀ (ls : List Nat) (s : State), ls.Nodup → inv s → (∀ l ∈ ls, Formed s l) →
      MemFrame s (ls.foldl op s) ∧ (ls.foldl op s).posted = s.posted ∧ (∀ j, j ∉ ls → (ls.foldl op s).line j = s.line j) ∧
        ∀ l ∈ ls, p s (ls.foldl op s) l
  | [], s, _, _, _ => ⟨memFrame_refl s, rfl, fun _ _ => rfl, fun _ h => absurd h List.not_mem_nil⟩
  | l :: ls, s, hnd, hinv, hform => by
    obtain ⟨hl, hnd⟩ := List.nodup_cons.mp hnd
    have hformed := hform l List.mem_cons_self
    obtain ⟨honly, hpl, hinv⟩ := hop s l hinv hformed
    have hother : ∀ j ∈ ls, (op s l).line j = s.line j := fun j hj => honly.others j fun e => hl (e ▸ hj)
    obtain ⟨hframe, hposted, hrest, hall⟩ := foldl_lines hop hp ls (op s l) hnd hinv
      fun j hj => (hform j (List.mem_cons_of_mem _ hj)).of_line (hother j hj)
    rw [List.foldl_cons]
    refine ⟨honly.frame.trans hframe, hposted.trans honly.posted, fun j hj => ?_, fun j hj => ?_⟩
    · rw [List.mem_cons, not_or] at hj
      exact (hrest j hj.2).trans (honly.others j hj.1)
    · rcases List.mem_cons.mp hj with rfl | hj
      · exact hp s s _ _ j hformed.1 rfl (hrest j hl) hpl
      · exact hp _ s _ _ j (hform j (List.mem_cons_of_mem _ hj)).1 (hother j hj).symm rfl (hall j hj)

/-! ### `cmo` on one line (R288) -/

section
variable {s : State} {own l : Nat}

/-- The bytes behind a clean of the core's copy, and what its home copy then is. -/
structure WroteBack (own l : Nat) (s t : State) : Prop where
  only : LineOnly l s t
  copy : t.l1At own l = (s.l1At own l).map (fun x => { x with dirty := 0, writers := if x.dirty = 0 then x.writers else [] })
  frames : t.frames = s.frames
  home : ∀ a, a / 128 = l → t.homeGet a = cleaned s own a
  form : LineForm (t.lineBytes l)
  dirty : (s.dirAt l).dirty = true → (t.dirAt l).dirty = true
  kept : (s.dirAt l).cached = true → (t.dirAt l).cached = true
  wrote : (∃ x, s.l1At own l = some x ∧ x.dirty ≠ 0) → (t.dirAt l).cached = true ∧ (t.dirAt l).dirty = true

theorem cleaned_eq_homeGet {a : Nat} (ha : a / 128 = l) (h : ∀ x, s.l1At own l = some x → x.dirty = 0) : cleaned s own a = s.homeGet a := by
  unfold cleaned
  rw [ha]
  split
  · next x hx => rw [h x hx, if_neg (by simp)]
  · rfl

theorem wroteBack (h : Formed s l) : WroteBack own l s (s.writeBackL1 own l) := by
  obtain ⟨hw, hf⟩ := h
  by_cases hclean : ∀ x, s.l1At own l = some x → x.dirty = 0
  · rw [writeBackL1_clean hclean]
    refine ⟨.refl l s, ?_, rfl, fun a ha => (cleaned_eq_homeGet ha hclean).symm, hf, id, id, fun ⟨x, hx, hd⟩ => absurd (hclean x hx) hd⟩
    cases hx : s.l1At own l with
    | none => rfl
    | some x => rw [Option.map_some, if_pos (hclean x hx), ← hclean x hx]
  · obtain ⟨x, hx, hd⟩ : ∃ x, s.l1At own l = some x ∧ x.dirty ≠ 0 := by
      rw [not_forall] at hclean
      obtain ⟨x, hx⟩ := hclean
      rw [Classical.not_imp] at hx
      exact ⟨x, hx⟩
    have h := writtenBack hw hx hd
    refine ⟨h.only, by rw [h.own, hx, Option.map_some, if_neg hd]; rfl, h.frames, fun a ha => ?_, ?_, fun _ => h.dirty, fun _ => h.cached,
      fun _ => ⟨h.cached, h.dirty⟩⟩
    · subst ha
      rw [homeGet_eq_lineBytes hw, lineBytes_of_cached h.cached, h.bytes, memGet_putMasked _ _ _ (Nat.mod_lt _ (by omega)),
        ← homeGet_eq_lineBytes hw]
      unfold cleaned
      rw [hx]
    · rw [lineBytes_of_cached h.cached, h.bytes]
      exact lineForm_putBytes _ hf (maskedBytes_in _ _)

/-- What `cmo.cln` leaves of a line (R288). -/
def CleansLine (own lvl : Nat) (s t : State) (l : Nat) : Prop :=
  t.l1At own l = (s.l1At own l).map (fun x => { x with dirty := 0, writers := if x.dirty = 0 then x.writers else [] }) ∧
    ∀ a, a / 128 = l → t.homeGet a = cleaned s own a ∧ (lvl = 2 → (t.dirAt l).cached = true →
      (t.dirAt l).dirty = false ∧ ((s.dirAt l).dirty = true → memGet t.frames a = t.homeGet a))

theorem homeGet_of_cached (h : (s.dirAt l).cached = true) {a : Nat} (ha : a / 128 = l) : s.homeGet a = memGet (s.dirAt l).bytes (a % 128) := by
  unfold State.homeGet
  simp only [ha, h, if_true]

theorem cleanHome_homeGet (hf : LineForm (s.lineBytes l)) {a : Nat} (ha : a / 128 = l) : (s.cleanHome l).homeGet a = s.homeGet a := by
  obtain ⟨hdir, -, -, hno⟩ := cleanHome_entry hf
  cases hc : ((s.dirAt l).cached && (s.dirAt l).dirty) with
  | false => rw [hno hc]
  | true =>
    rw [if_pos hc] at hdir
    have hcached : (s.dirAt l).cached = true := (Bool.and_eq_true_iff.mp hc).1
    rw [homeGet_of_cached (s := s.cleanHome l) (by rw [hdir]; exact hcached) ha, homeGet_of_cached hcached ha, hdir]

theorem memFrame_cmoClean (s : State) (own lvl l : Nat) : MemFrame s (s.cmoClean own lvl l) :=
  memFrame_ite ((memFrame_writeBackL1 s own l).trans (memFrame_cleanHome _ _)) (memFrame_writeBackL1 s own l)

theorem cleansLine {lvl : Nat} (h : Formed s l) : LineOnly l s (s.cmoClean own lvl l) ∧ CleansLine own lvl s (s.cmoClean own lvl l) l := by
  have hback := wroteBack (own := own) h
  unfold State.cmoClean
  simp only
  split_ifs with hlvl
  · obtain ⟨hdir, hl1, hframe, hno⟩ := cleanHome_entry hback.form
    refine ⟨hback.only.trans (lineOnly_cleanHome hback.form), (hl1 own l).trans hback.copy, fun a ha => ?_⟩
    have hhome := cleanHome_homeGet hback.form ha
    refine ⟨hhome.trans (hback.home a ha), fun _ hc => ?_⟩
    cases hd : ((s.writeBackL1 own l).dirAt l).dirty with
    | false =>
      rw [hno (by rw [hd, Bool.and_false])] at hc ⊢
      exact ⟨hd, fun hdirty => absurd (hback.dirty hdirty) (by rw [hd]; decide)⟩
    | true =>
      have hcached : ((s.writeBackL1 own l).dirAt l).cached = true := by
        rw [hdir] at hc
        split at hc <;> exact hc
      rw [if_pos (by rw [hcached, hd]; rfl)] at hdir
      exact ⟨by rw [hdir], fun _ => by rw [hframe hcached hd a ha, hhome, homeGet_of_cached hcached ha]⟩
  · exact ⟨hback.only, hback.copy, fun a ha => ⟨hback.home a ha, fun h2 => absurd h2 hlvl⟩⟩

/-! The invalidate half. -/

theorem memFrame_dropL1 (s : State) (core l : Nat) : MemFrame s (s.dropL1 core l) := (copyIs_dropL1 s core l).only.frame
theorem memFrame_dropHome (s : State) (l : Nat) : MemFrame s (s.dropHome l) := (lineOnly_dropHome s l).frame

theorem copyIs_drop (s : State) (own l : Nat) : CopyIs own l none s ((s.dropL1 own l).disown own l) :=
  (copyIs_dropL1 s own l).then_quiet (quiet_disown _ _ _)

/-- What `cmo.inv` leaves of a line (R288). -/
structure DropsLine (own lvl : Nat) (s t : State) (l : Nat) : Prop where
  copy : t.l1At own l = none
  replicas : lvl ≠ 0 → (t.dirAt l).replicas = []
  pins : (t.dirAt l).pins = (s.dirAt l).pins
  home : lvl ≠ 2 → ∀ a, a / 128 = l → t.homeGet a = s.homeGet a
  gone : lvl = 2 → (t.dirAt l).cached = false
  frames : ∀ a, a / 128 = l → memGet t.frames a = memGet s.frames a

theorem dropsLine (s : State) (own lvl l : Nat) : LineOnly l s (s.cmoDrop own lvl l) ∧ DropsLine own lvl s (s.cmoDrop own lvl l) l := by
  have hcopy := copyIs_drop s own l
  have hdir : ((s.dropL1 own l).disown own l).dirAt l = s.dirAt l := by simp only [State.dirAt, hcopy.dir]
  have hhome (a : Nat) : ((s.dropL1 own l).disown own l).homeGet a = s.homeGet a := homeGet_congr hcopy.dir hcopy.frames hcopy.only.posted a
  unfold State.cmoDrop
  simp only
  split_ifs with h0 h2
  · exact ⟨hcopy.only, hcopy.own, fun h => absurd h0 h, by rw [hdir], fun _ a _ => hhome a, fun h => by omega, fun a _ => by rw [hcopy.frames]⟩
  · generalize hu : State.setDir ((s.dropL1 own l).disown own l) l _ = u
    have honly : LineOnly l s u := by rw [← hu]; exact hcopy.only.trans (lineOnly_setDir _ _ _)
    have hpins : (u.dirAt l).pins = (s.dirAt l).pins := by rw [← hu, setDir_dirAt, hdir]; rfl
    have hl1 : u.l1At own l = none := by rw [← hu]; exact hcopy.own
    have hframes : u.frames = s.frames := by rw [← hu]; exact hcopy.frames
    obtain ⟨hentry, hl1', hframes'⟩ := dropHome_entry u l
    exact ⟨honly.trans (lineOnly_dropHome u l), (hl1' own l).trans hl1, fun _ => by rw [hentry]; rfl, by rw [hentry, ← hpins]; rfl,
      fun h => absurd h2 h, fun _ => by rw [hentry]; rfl, fun a _ => by rw [hframes', hframes]⟩
  · refine ⟨hcopy.only.trans (lineOnly_setDir _ _ _), hcopy.own, fun _ => by rw [setDir_dirAt]; rfl, by rw [setDir_dirAt, hdir]; rfl,
      fun _ a ha => ?_, fun h => absurd h h2, fun a _ => congrArg (memGet · a) hcopy.frames⟩
    rw [← hhome a]
    unfold State.homeGet State.windowBytes
    simp only [ha, setDir_dirAt]
    rfl

theorem memFrame_cmoDrop (s : State) (own lvl l : Nat) : MemFrame s (s.cmoDrop own lvl l) := (dropsLine s own lvl l).1.frame
end

end Sys2Proof.Machine
end

section
/-! SUPPORT. Both halves of `cmo`, `dsc`, `zero`, `pin` and `unpin` on one line (spec/12 R280, R288-R291). -/

namespace Sys2Proof.Machine

section
variable {s : State} {own l : Nat}

/-! ### `cmo.cinv` (R288) -/

theorem homeGet_of_uncached (hw : isWindow (128 * l) = false) (h : (s.dirAt l).cached = false) {a : Nat} (ha : a / 128 = l) :
    s.homeGet a = memGet s.frames a := by
  have hwa : isWindow a = false := by
    rw [← ha, ← isWindow_line (a / 128) (a % 128) (Nat.mod_lt _ (by omega)), Nat.div_add_mod] at hw
    exact hw
  unfold State.homeGet
  simp only [ha, h, hwa, Bool.false_eq_true, if_false]

/-- Something of the line had not gone to its frame. -/
def Unwritten (s : State) (own l : Nat) : Prop :=
  ((s.dirAt l).cached = true ∧ (s.dirAt l).dirty = true) ∨ ∃ x, s.l1At own l = some x ∧ x.dirty ≠ 0

theorem cmoClean_frame (h : Formed s l) (hd : Unwritten s own l) {a : Nat} (ha : a / 128 = l) :
    memGet (s.cmoClean own 2 l).frames a = cleaned s own a := by
  have hback := wroteBack (own := own) h
  obtain ⟨hcached, hdirty⟩ : ((s.writeBackL1 own l).dirAt l).cached = true ∧ ((s.writeBackL1 own l).dirAt l).dirty = true := by
    rcases hd with ⟨hc, hd⟩ | hx
    · exact ⟨hback.kept hc, hback.dirty hd⟩
    · exact hback.wrote hx
  obtain ⟨-, -, hframe, -⟩ := cleanHome_entry hback.form
  show memGet ((s.writeBackL1 own l).cleanHome l).frames a = _
  rw [hframe hcached hdirty a ha, ← homeGet_of_cached hcached ha, hback.home a ha]

/-- What `cmo.cinv` leaves of a line (R288). -/
def FlushesLine (own lvl : Nat) (s t : State) (l : Nat) : Prop :=
  t.l1At own l = none ∧ (lvl ≠ 0 → (t.dirAt l).replicas = []) ∧
    ∀ a, a / 128 = l → (lvl ≠ 2 → t.homeGet a = cleaned s own a) ∧
      (lvl = 2 → (t.dirAt l).cached = false ∧ (Unwritten s own l → t.homeGet a = cleaned s own a))

theorem flushesLine {lvl : Nat} (h : Formed s l) : LineOnly l s ((s.cmoClean own lvl l).cmoDrop own lvl l) ∧
    FlushesLine own lvl s ((s.cmoClean own lvl l).cmoDrop own lvl l) l := by
  obtain ⟨honly, -, hclean⟩ := cleansLine (own := own) (lvl := lvl) h
  obtain ⟨honly', hdrop⟩ := dropsLine (s.cmoClean own lvl l) own lvl l
  refine ⟨honly.trans honly', hdrop.copy, hdrop.replicas, fun a ha => ⟨fun h2 => ?_, fun h2 => ⟨hdrop.gone h2, fun hd => ?_⟩⟩⟩
  · rw [hdrop.home h2 a ha]
    exact (hclean a ha).1
  · rw [homeGet_of_uncached h.1 (hdrop.gone h2) ha, hdrop.frames a ha]
    subst h2
    exact cmoClean_frame h hd ha

/-! ### Zero lines (R280, R289, R290) -/

/-- The zeros of a line. -/
def zeroBytes : List (Nat × Byte) := (List.range 128).map (fun o => (o, (0 : Byte)))

theorem zeroBytes_in : ∀ b ∈ zeroBytes, b.1 < 128 := by
  intro b hb
  obtain ⟨o, ho, rfl⟩ := List.mem_map.mp hb
  exact List.mem_range.mp ho

theorem zeroBytes_ne : zeroBytes ≠ [] := by simp [zeroBytes]

theorem memGet_putZero (m : Mem) {o : Nat} (ho : o < 128) : memGet (putBytes zeroBytes m) o = 0 := by
  rw [zeroBytes, memGet_putBytes_map (fun _ => 0), if_pos (List.mem_range.mpr ho)]

/-- A line of zeros at its home, and in the core's copy if it holds one. -/
def ZeroLine (own : Nat) (s : State) (l : Nat) : Prop :=
  (∀ a, a / 128 = l → s.homeGet a = 0) ∧ ∀ x, s.l1At own l = some x → ∀ o, memGet x.bytes o = 0

theorem ZeroLine.of_line {own : Nat} {s t : State} {l : Nat} (h : ZeroLine own s l) (hw : isWindow (128 * l) = false) (hl : t.line l = s.line l) :
    ZeroLine own t l := by
  obtain ⟨hhome, hcopy⟩ := h
  exact ⟨fun a ha => (homeGet_of_plain hl hw ha).trans (hhome a ha), fun x hx => hcopy x ((l1At_of_line hl own).symm.trans hx)⟩

theorem ZeroLine.byteSeen {own : Nat} {s : State} {a : Nat} (h : ZeroLine own s (a / 128)) : byteSeen s own a = 0 := by
  obtain ⟨hhome, hcopy⟩ := h
  unfold Machine.byteSeen State.coreView
  split
  · rw [State.homeRead, hhome a rfl]
    rfl
  · next x hx =>
    simp only [List.range_one, List.map_cons, List.map_nil, Nat.add_zero, hcopy x hx, hhome a rfl, ite_self]
    rfl

/-- The copy that a core has of a line it zeroes. -/
def State.zeroedCopy (s : State) (core l : Nat) : State :=
  match s.l1At core l with
  | none => s
  | some _ => ((s.dropL1 core l).setL1 core l { L1Line.init with valid := allLanes }).disown core l

theorem zeroLine_eq (s : State) (k : Nat) (hw : isWindow (128 * l) = false) :
    s.zeroLine k l = ((s.recall (s.coreOf k) l).zeroedCopy (s.coreOf k) l).homeStore k netBulk l zeroBytes := by
  unfold State.zeroLine
  simp only [hw, Bool.false_eq_true, if_false]
  rfl

theorem zeroedCopy_only (s : State) (core l : Nat) : LineOnly l s (s.zeroedCopy core l) ∧
    (s.l1At core l = none → (s.zeroedCopy core l).l1At core l = none) ∧
    ∀ x, (s.zeroedCopy core l).l1At core l = some x → ∀ o, memGet x.bytes o = 0 := by
  unfold State.zeroedCopy
  split
  · next h => exact ⟨.refl l s, id, fun x hx => by rw [h] at hx; cases hx⟩
  · next y h =>
    have hset := (copyIs_setL1 (s.dropL1 core l) core l { L1Line.init with valid := allLanes }).then_quiet (quiet_disown _ core l)
    refine ⟨(copyIs_dropL1 s core l).only.trans hset.only, fun hno => (by rw [h] at hno; cases hno), fun x hx => ?_⟩
    cases hset.own.symm.trans hx
    exact fun _ => rfl

theorem zeroLine_spec (s : State) (k : Nat) {l : Nat} (hw : isWindow (128 * l) = false) :
    LineOnly l s (s.zeroLine k l) ∧ ZeroLine (s.coreOf k) (s.zeroLine k l) l ∧
      (s.l1At (s.coreOf k) l = none → (s.zeroLine k l).l1At (s.coreOf k) l = none) := by
  rw [zeroLine_eq s k hw]
  have hrecall := lineOnly_recall s (s.coreOf k) hw
  have hown := recall_own s (s.coreOf k) hw
  generalize s.recall (s.coreOf k) l = u at hrecall hown
  obtain ⟨hcopy, hnone, hzero⟩ := zeroedCopy_only u (s.coreOf k) l
  generalize u.zeroedCopy (s.coreOf k) l = v at hcopy hnone hzero
  have hput : PutHome l zeroBytes v (v.homeStore k netBulk l zeroBytes) := by
    unfold State.homeStore
    rw [hw, if_neg (by decide)]
    refine (putHome_homePut v (v.viOf k) hw zeroBytes_in zeroBytes_ne).then_noted ?_
    refine ((quiet_addPath _ k netBulk l).noted l).trans ((noted_request _ l (fieldOfCore (v.coreOf k)) false).trans (Quiet.noted ?_ l))
    exact (quiet_learn _ k [l]).trans (quiet_carry _ k none _)
  refine ⟨hrecall.trans (hcopy.trans hput.only), ⟨fun a ha => ?_, fun x hx => hzero x ((hput.l1 _ _).symm.trans hx)⟩, fun h => ?_⟩
  · rw [homeGet_of_cached hput.cached ha, hput.bytes, memGet_putZero _ (Nat.mod_lt _ (by omega))]
  · exact (hput.l1 _ _).trans (hnone (hown.trans h))

/-! ### `dsc` (R289) -/

/-- What `dsc` leaves of a line. -/
def DiscardsLine (own : Nat) (t : State) (l : Nat) : Prop :=
  t.l1At own l = none ∧ (t.dirAt l).replicas = [] ∧ ∀ a, a / 128 = l → t.homeGet a = 0

theorem discardsLine (s : State) (k : Nat) {l : Nat} (hw : isWindow (128 * l) = false) :
    LineOnly l s (s.discard k l) ∧ DiscardsLine (s.coreOf k) (s.discard k l) l := by
  have hcopy := copyIs_drop s (s.coreOf k) l
  unfold State.discard
  simp only
  generalize (s.dropL1 (s.coreOf k) l).disown (s.coreOf k) l = u at hcopy
  have hcore : u.coreOf k = s.coreOf k := by
    obtain ⟨hf, -⟩ := hcopy.only.frame
    have hc : u.copses = s.copses := by simp only [hf]
    simp only [State.coreOf, State.copseAt, hc]
  obtain ⟨honly, ⟨hhome, -⟩, hnone⟩ := zeroLine_spec u k hw
  rw [hcore] at hnone
  generalize u.zeroLine k l = v at honly hhome hnone
  refine ⟨hcopy.only.trans (honly.trans (lineOnly_setDir _ _ _)), hnone hcopy.own, by rw [setDir_dirAt]; rfl, fun a ha => ?_⟩
  rw [← hhome a ha]
  unfold State.homeGet State.windowBytes
  simp only [ha, setDir_dirAt]
  rfl

/-! ### Pins (R291) -/

/-- A directory entry with other pin marks. -/
def Dir.withPins (d : Dir) (p : List Nat) : Dir := { d with pins := p }

/-- An entry with the home copy it had changes no byte. -/
theorem sameMemory_setDir (s : State) (l : Nat) {d : Dir} (hc : d.cached = (s.dirAt l).cached) (hb : d.bytes = (s.dirAt l).bytes) :
    SameMemory s (s.setDir l d) := by
  intro core pa
  by_cases h : pa / 128 = l
  · have hhome : (s.setDir l d).homeGet pa = s.homeGet pa := by
      unfold State.homeGet State.windowBytes
      simp only [h, setDir_dirAt, hc, hb]
      rfl
    unfold byteSeen State.coreView State.homeRead State.homeRead
    simp only [hhome, State.l1At, List.range_one, List.map_cons, List.map_nil, Nat.add_zero]
    rfl
  · exact byteSeen_of_line ((lineOnly_setDir s l _).others _ h) rfl core rfl

/-- The marks of a line after a pin. -/
def State.pinMarks (s : State) (vi l : Nat) : List Nat :=
  if (s.dirAt l).pins.contains vi || !s.pinRoom vi then (s.dirAt l).pins else (s.dirAt l).pins ++ [vi]

theorem pinLine_eq (s : State) (vi l : Nat) : s.pinLine vi l = s.setDir l ((s.dirAt l).withPins (s.pinMarks vi l)) := by
  unfold State.pinLine State.pinMarks
  simp only
  split_ifs <;> rfl

theorem unpinLine_eq (s : State) (vi l : Nat) :
    s.unpinLine vi l = s.setDir l ((s.dirAt l).withPins ((s.dirAt l).pins.filter (fun x => x != vi))) := rfl

theorem mem_pinMarks {vi x : Nat} (h : x ≠ vi) : x ∈ s.pinMarks vi l ↔ x ∈ (s.dirAt l).pins := by
  unfold State.pinMarks
  split
  · rfl
  · simp [h]

theorem pinMarks_room {vi : Nat} (h : s.pinRoom vi = true) : vi ∈ s.pinMarks vi l := by
  unfold State.pinMarks
  split
  · next hc => simpa [h] using hc
  · simp

theorem pinMarks_full {vi : Nat} (h : s.pinRoom vi = false) : s.pinMarks vi l = (s.dirAt l).pins := by
  unfold State.pinMarks
  rw [h, if_pos (by simp)]

/-- Setting an entry takes nothing from a count that the entry still belongs to. -/
theorem filter_tset_le {α : Type} {p : Nat × α → Bool} {k : Nat} {a : α} : ∀ {t : Tbl α},
    (∀ b, tfind k t = some b → p (k, b) = true → p (k, a) = true) → (t.filter p).length ≤ ((tset k a t).filter p).length
  | [], _ => Nat.zero_le _
  | (j, b) :: r, h => by
    rw [tset]
    split_ifs with hjk hlt
    · subst hjk
      have hb := h b (if_pos rfl)
      rw [List.filter_cons, List.filter_cons]
      split_ifs with h1 h2
      · rfl
      · exact absurd (hb h1) h2
      · exact Nat.le_succ _
      · rfl
    · rw [List.filter_cons (xs := (j, b) :: r)]
      split
      · exact Nat.le_succ _
      · rfl
    · have ih := filter_tset_le (t := r) fun c hc => h c (by rw [tfind, if_neg hjk]; exact hc)
      rw [List.filter_cons, List.filter_cons]
      split
      · exact Nat.succ_le_succ ih
      · exact ih

/-- A pin leaves a full quota full (R291). -/
theorem pinRoom_pinLine {vi : Nat} (h : s.pinRoom vi = false) : (s.pinLine vi l).pinRoom vi = false := by
  rw [pinLine_eq, pinMarks_full h]
  unfold State.pinRoom at h ⊢
  rw [Bool.or_eq_false_iff] at h ⊢
  obtain ⟨hlimit, hfull⟩ := h
  have hmore : s.pinned vi ≤ (s.setDir l ((s.dirAt l).withPins (s.dirAt l).pins)).pinned vi := by
    refine filter_tset_le fun b hb hp => ?_
    have hd : s.dirAt l = b := by unfold State.dirAt tget; rw [hb]; rfl
    rw [hd]
    exact hp
  rw [decide_eq_false_iff_not] at hfull ⊢
  exact ⟨hlimit, fun hlt => hfull (Nat.lt_of_le_of_lt hmore hlt)⟩
end

end Sys2Proof.Machine
end

section
/-! SUPPORT. Maintenance words: their checks, their waits, and the lines of a range (spec/12 R286, R287). -/

namespace Sys2Proof.Machine

/-! ### Ranges and pages -/

/-- What traps before any effect: a misaligned range, where whole lines are asked for, else one that ends above the address space (R287). -/
def Beyond (i : Instr) (s : State) (xs : List (Nat × Nat × Nat)) (akind : Nat) (whole : Bool) : Prop :=
  (whole = true → ∀ x, xs.find? (fun x => x.2.1 % 128 != 0 || x.2.2 % 128 != 0) = some x → AccessTraps i s 4 1 x.2.1 akind) ∧
    ((whole = true → ∀ x ∈ xs, x.2.1 % 128 = 0 ∧ x.2.2 % 128 = 0) →
      ∀ x, xs.find? (fun x => decide (2 ^ 57 < x.2.1 + x.2.2)) = some x → AccessTraps i s 3 1 x.2.1 akind)

/-- Every range passes these checks. -/
def Inside (xs : List (Nat × Nat × Nat)) (whole : Bool) : Prop :=
  ∀ x ∈ xs, x.2.1 + x.2.2 ≤ 2 ^ 57 ∧ (whole = true → x.2.1 % 128 = 0 ∧ x.2.2 % 128 = 0)

section
variable (i : Instr) (f : M96) (akind : Nat) {xs : List (Nat × Nat × Nat)}

theorem filter_of_find {α : Type} {p : α → Bool} {x : α} {l : List α} (h : l.find? p = some x) : ∃ r, l.filter p = x :: r := by
  rw [← List.head?_filter] at h
  exact List.head?_eq_some_iff.mp h

theorem rangeBad_misaligned {x : Nat × Nat × Nat} (h : xs.find? (fun x => x.2.1 % 128 != 0 || x.2.2 % 128 != 0) = some x) :
    ∃ ts, rangeBad i f akind true xs = some (accessTrap i f.h.uni 4 1 x.2.1 akind false f.sm ts) := by
  obtain ⟨r, hr⟩ := filter_of_find h
  unfold rangeBad
  simp only [Bool.true_and, hr]
  exact ⟨_, rfl⟩

theorem noneMisaligned {whole : Bool} (h : whole = true → ∀ x ∈ xs, x.2.1 % 128 = 0 ∧ x.2.2 % 128 = 0) :
    xs.filter (fun x => whole && (x.2.1 % 128 != 0 || x.2.2 % 128 != 0)) = [] := by
  refine List.filter_eq_nil_iff.mpr fun x hx => ?_
  cases whole with
  | false => simp
  | true =>
    obtain ⟨h1, h2⟩ := h rfl x hx
    simp [h1, h2]

theorem rangeBad_beyond {whole : Bool} (ha : whole = true → ∀ x ∈ xs, x.2.1 % 128 = 0 ∧ x.2.2 % 128 = 0) {x : Nat × Nat × Nat}
    (h : xs.find? (fun x => decide (2 ^ 57 < x.2.1 + x.2.2)) = some x) :
    ∃ ts, rangeBad i f akind whole xs = some (accessTrap i f.h.uni 3 1 x.2.1 akind false f.sm ts) := by
  obtain ⟨r, hr⟩ := filter_of_find h
  unfold rangeBad
  rw [noneMisaligned ha, hr]
  exact ⟨_, rfl⟩

theorem rangeBad_inside {whole : Bool} (h : Inside xs whole) : rangeBad i f akind whole xs = none := by
  unfold rangeBad
  rw [noneMisaligned fun hw x hx => (h x hx).2 hw, List.filter_eq_nil_iff.mpr fun x hx => by simpa using (h x hx).1]

/-- A word that makes these checks first traps as they say. -/
theorem beyond_of {i : Instr} {s : State} {form : Form} {b : State → Eff} (hw : wordOf i s = some (form, b)) (ha : Acts s i) {whole : Bool}
    (hb : ∀ r, rangeBad i f akind whole xs = some r → b s = .trap r) : Beyond i s xs akind whole := by
  refine ⟨fun hwhole x hx => ?_, fun haligned x hx => ?_⟩
  · subst hwhole
    obtain ⟨ts, e⟩ := rangeBad_misaligned i f akind hx
    exact trapsWith_of_trap hw ha (hb _ e) ⟨rfl, rfl, rfl, rfl⟩
  · obtain ⟨ts, e⟩ := rangeBad_beyond i f akind haligned hx
    exact trapsWith_of_trap hw ha (hb _ e) ⟨rfl, rfl, rfl, rfl⟩
end

/-- A range on one page. -/
theorem rangePages_one {ea n : Nat} (hn : 0 < n) (hp : ea % 65536 + n ≤ 65536) : rangePages ea n = [(ea, n)] := by
  have hdiv : (ea + n - 1) / 65536 = ea / 65536 := by omega
  unfold rangePages
  rw [if_neg (by omega), hdiv, Nat.add_sub_cancel_left]
  have hlo : maxN ea (65536 * (ea / 65536 + 0)) = ea := by unfold maxN; split <;> omega
  have hhi : minN (ea + n) (65536 * (ea / 65536 + 0 + 1)) - ea = n := by unfold minN; split <;> omega
  simp only [List.range_one, List.map_cons, List.map_nil, hlo, hhi]

theorem linesOf_nodup (a n : Nat) : (linesOf a n).Nodup := by
  unfold linesOf
  split
  · exact List.nodup_nil
  · exact List.Nodup.map (fun i j h => Nat.add_left_cancel h) List.nodup_range

/-! ### Frames -/

theorem MemFrame.sameRegs {s t : State} (h : MemFrame s t) : t.cur = s.cur ∧ SameRegs s.me t.me := by
  obtain ⟨hcur, hr, -⟩ := h.readyToSend
  exact ⟨hcur, hr⟩

theorem ReleaseFrame.sameRegs {s t : State} (h : ReleaseFrame s t) : t.cur = s.cur ∧ SameRegs s.me t.me := by
  obtain ⟨_, _, _, _, e⟩ := h.me
  obtain ⟨⟨hcur, -⟩, -⟩ := h
  refine ⟨hcur, ?_⟩
  rw [e]
  exact sameRegs_refl s.me

theorem MemFrame.copses_eq {s t : State} (h : MemFrame s t) : t.copses = s.copses := by
  obtain ⟨hf, -⟩ := h
  simp only [hf]

theorem MemFrame.coreOf_eq {s t : State} (h : MemFrame s t) (k : Nat) : t.coreOf k = s.coreOf k := by
  simp only [State.coreOf, State.copseAt, h.copses_eq]

theorem MemFrame.myCoreKey_eq {s t : State} (h : MemFrame s t) : t.myCoreKey = s.myCoreKey := by
  obtain ⟨hcur, -⟩ := h.sameRegs
  rw [State.myCoreKey, State.myCoreKey, hcur]
  exact h.coreOf_eq _

theorem MemFrame.viOf_eq {s t : State} (h : MemFrame s t) (k : Nat) : t.viOf k = s.viOf k := by
  simp only [State.viOf, State.copseAt, h.copses_eq]

section
variable {k : Nat} {acc : Acc} {op op' : State → Nat → State} (hmem : ∀ s l, MemFrame s (op s l))
include hmem

theorem memFrame_lines (ls : List Nat) (s : State) : MemFrame s (ls.foldl (fun s l => if isWindow (128 * l) then s else op s l) s) :=
  memFrame_foldl (fun s l => memFrame_ite (memFrame_refl s) (hmem s l)) ls s

theorem memFrame_onPages : ∀ (ps : List (Nat × Nat)) (s : State), MemFrame s (s.onPages k acc op ps).2
  | [], s => memFrame_refl s
  | (lo, n) :: r, s => by
    unfold State.onPages
    split
    · split
      · exact memFrame_refl s
      · exact memFrame_onPages r s
    · exact (memFrame_lines hmem _ s).trans (memFrame_onPages r _)

theorem memFrame_onRanges : ∀ (xs : List (Nat × Nat × Nat)) (s : State), MemFrame s (s.onRanges k acc op xs).2
  | [], s => memFrame_refl s
  | (t, ea, n) :: r, s => by
    have hpages := memFrame_onPages (k := k) (acc := acc) hmem (rangePages ea n) s
    unfold State.onRanges
    split
    · next h => rw [h] at hpages; exact hpages
    · next h => rw [h] at hpages; exact hpages.trans (memFrame_onRanges r _)

variable {s0 : State} (hop : ∀ s, MemFrame s0 s → ∀ l, op' s l = op s l)
include hop

theorem lines_congr : ∀ (ls : List Nat) (s : State), MemFrame s0 s →
    ls.foldl (fun s l => if isWindow (128 * l) then s else op' s l) s = ls.foldl (fun s l => if isWindow (128 * l) then s else op s l) s
  | [], _, _ => rfl
  | l :: ls, s, h => by
    rw [List.foldl_cons, List.foldl_cons, hop s h l]
    exact lines_congr ls _ (h.trans (memFrame_ite (memFrame_refl s) (hmem s l)))

theorem onPages_congr : ∀ (ps : List (Nat × Nat)) (s : State), MemFrame s0 s → s.onPages k acc op' ps = s.onPages k acc op ps
  | [], _, _ => rfl
  | (lo, n) :: r, s, h => by
    unfold State.onPages
    split
    · rw [onPages_congr r s h]
    · rw [lines_congr hmem hop _ s h]
      exact onPages_congr r _ (h.trans (memFrame_lines hmem _ s))

/-- Operations that agree inside the frame do the same on every range. -/
theorem onRanges_congr : ∀ (xs : List (Nat × Nat × Nat)) (s : State), MemFrame s0 s → s.onRanges k acc op' xs = s.onRanges k acc op xs
  | [], _, _ => rfl
  | (t, ea, n) :: r, s, h => by
    have hpages := memFrame_onPages (k := k) (acc := acc) hmem (rangePages ea n) s
    unfold State.onRanges
    rw [onPages_congr hmem hop _ s h]
    split
    · rfl
    · next hr => rw [hr] at hpages; exact onRanges_congr r _ (h.trans hpages)
end

/-! ### Waiting for a staged update (R216) -/

theorem holdAt_keeps (s : State) (w : Waiter) (lines : List Nat) : MemFrame s (s.holdAt w lines) ∧ SameMemory s (s.holdAt w lines) := by
  unfold State.holdAt
  generalize distinct (lines.filter s.stagedLine) = ls
  induction ls generalizing s with
  | nil => exact ⟨memFrame_refl s, sameMemory_refl s⟩
  | cons l ls ih =>
    obtain ⟨hframe, hmem⟩ := ih (s.setDir l { s.dirAt l with
      waiters := if ((s.dirAt l).waiters.filter s.stillWaits).contains w then (s.dirAt l).waiters.filter s.stillWaits
        else (s.dirAt l).waiters.filter s.stillWaits ++ [w] })
    refine ⟨(memFrame_setDir s l _).trans hframe, SameMemory.trans ?_ hmem⟩
    exact sameMemory_setDir s l rfl rfl

section
variable {i : Instr} {s u : State} {form : Form} {b : State → Eff} (hw : wordOf i s = some (form, b)) (ha : Acts s i)
include hw ha

theorem waits_inFrame (hb : b s = .stay u) (hframe : ReleaseFrame s u) (hmem : SameMemory s u) : ∃ t, WaitsWith i s t ∧ SameMemory s t := by
  obtain ⟨hcur, hr⟩ := hframe.sameRegs
  exact ⟨_, waitsWith_stayed hw ha hb hcur hr, hmem.trans (sameMemory_setStand u s.cur _)⟩

/-- A word whose effect stays in the frame of a release passes; what its effect leaves of memory stands behind it. -/
theorem passes_done (hc : form.control = false) (hb : b s = .done u) (hframe : ReleaseFrame s u) :
    PassesWith i s (done s u i) ∧ (done s u i).copses = s.copses ∧ (done s u i).launches = s.launches ∧ (∀ l, (done s u i).line l = u.line l) ∧
      (done s u i).posted = u.posted := by
  obtain ⟨hcur, hr⟩ := hframe.sameRegs
  have hlocal := localFrame_behind hcur i
  have hl1 := hlocal.l1_eq
  obtain ⟨⟨-, -, -, -, -, -, -, -, hlaunches, -, -, hframes, hdir, -, -, -, -, -, -, -, -, hposted, -⟩, hcopses, -⟩ := hlocal
  refine ⟨passesWith_done hw ha hc hb hcur hr, hcopses.trans ?_, hlaunches.trans ?_, fun l => ?_, hposted⟩
  · obtain ⟨⟨-, -, hco, -⟩, -⟩ := hframe
    exact hco
  · obtain ⟨⟨-, -, -, hl⟩, -⟩ := hframe
    exact hl
  · exact line_eq (by simp only [State.dirAt, hdir]) (fun c => by simp only [State.l1At, hl1]) (by rw [hframes])
end

end Sys2Proof.Machine
end

section
/-! SUPPORT. The maintenance words `cmo`, `dsc`, `pin` and `unpin` (spec/12 R286-R291). -/

namespace Sys2Proof.Machine

/-! ### What a maintenance word does (R286, R287) -/

/-- A live side-log entry holds a page of a range. -/
def State.rangesLogged (s : State) (own : Nat) (xs : List (Nat × Nat × Nat)) : Prop :=
  ∃ x ∈ xs, s.pageLogged own ((rangePages x.2.1 x.2.2).map (fun p => (0, p.1))) = true
/-- The lines of a range that lie at a home. -/
def homeLines (pa n : Nat) : List Nat := (linesOf pa n).filter (fun l => !isWindow (128 * l))

theorem foldl_homeLines (op : State → Nat → State) (pa n : Nat) (s : State) :
    (linesOf pa n).foldl (fun s l => if isWindow (128 * l) then s else op s l) s = (homeLines pa n).foldl op s := by
  unfold homeLines
  generalize linesOf pa n = ls
  induction ls generalizing s with
  | nil => rfl
  | cons l ls ih =>
    rw [List.foldl_cons, ih, List.filter_cons]
    cases isWindow (128 * l) <;> rfl

/-- A range on one page with a malformed entry traps at its address. -/
def StopsMalformed (i : Instr) (s : State) (acc : Acc) (xs : List (Nat × Nat × Nat)) : Prop :=
  ∀ t0 ea n, xs = [(t0, ea, n)] → 0 < n → ea % 65536 + n ≤ 65536 → s.xlate (copseOf s.cur) acc ea = .fault 5 →
    ∃ r why, r.cls = 3 ∧ r.cause = 5 ∧ r.addr = BitVec.ofNat 64 ea ∧ r.npc = s.me.pc ∧ r.defer = false ∧ exec i s = .next
      (State.stalled (if s.me.pend = [] then s.takeTrap s.cur r else s.setStand s.cur { s.me with trapWait := some r }) s.cur why)

/-- A range on one page whose lines are performed. -/
def PerformsLines (i : Instr) (s : State) (acc : Acc) (post : State → List Nat → Prop) (xs : List (Nat × Nat × Nat)) : Prop :=
  ∀ t0 ea n pa e, xs = [(t0, ea, n)] → 0 < n → ea % 65536 + n ≤ 65536 → s.xlate (copseOf s.cur) acc ea = .ok (pa, e) →
    let ls := homeLines pa n
    (∀ l ∈ ls, NoneAway s s.myCoreKey l ∧ LineForm (s.lineBytes l)) →
    ∃ t, PassesWith i s t ∧ post t ls ∧ (∀ l, l ∉ ls → t.dirAt l = s.dirAt l ∧ ∀ c, t.l1At c l = s.l1At c l) ∧
      ∀ core pa, pa / 128 ∉ ls → byteSeen t core pa = byteSeen s core pa

/-- A maintenance word: what traps, what waits, and what is done. -/
def Maintains (s : State) (xs : List (Nat × Nat × Nat)) (i : Instr) (whole waits : Bool) (acc : Acc) (op : State → Nat → State)
    (post : State → List Nat → Prop) : Prop :=
  Beyond i s xs 0 whole ∧
    (Inside xs whole → s.rangesLogged s.myCoreKey xs → ∃ t, WaitsWith i s t ∧ SameMemory s t) ∧
    (Inside xs whole → waits = true → (∃ x ∈ xs, ∃ l ∈ s.rangeLines s.cur acc x.2.1 x.2.2, s.stagedLine l = true) →
      ∃ t, WaitsWith i s t ∧ SameMemory s t) ∧
    (Inside xs whole → ¬s.rangesLogged s.myCoreKey xs →
      (waits = true → ∀ x ∈ xs, ∀ l ∈ s.rangeLines s.cur acc x.2.1 x.2.2, s.stagedLine l = false) →
      ((s.onRanges s.cur acc op xs).1 = none → ∃ t, PassesWith i s t ∧ t.copses = s.copses ∧ t.launches = s.launches) ∧
      PerformsLines i s acc post xs ∧ StopsMalformed i s acc xs)

/-- How the word ends behind its ranges. -/
def rangesEnd (i : Instr) (f : M96) (s : State) : Option (Nat × Nat) × State → Eff
  | (none, u) => .done u
  | (some (t, va), u) => .stay (u.raise s.cur (accessTrap i f.h.uni 3 5 va 0 false f.sm [t]) s.me.pc)

section
variable {i : Instr} {f : M96} {s : State} {form : Form} {b : State → Eff} {whole waits : Bool} {acc : Acc} {op op' : State → Nat → State}
  (hw : wordOf i s = some (form, b)) (ha : Acts s i) (hb : b s = maintain i f 0 whole waits acc op' s)
include hw ha hb

theorem maintain_logged (hin : Inside (s.ranges f) whole) (hlog : s.rangesLogged s.myCoreKey (s.ranges f)) :
    ∃ t, WaitsWith i s t ∧ SameMemory s t := by
  obtain ⟨x, hx, hlog⟩ := hlog
  refine waits_inFrame (u := s) hw ha (hb.trans ?_) (releaseFrame_refl s) (sameMemory_refl s)
  unfold maintain
  simp only [rangeBad_inside i f 0 hin]
  exact if_pos (List.any_eq_true.mpr ⟨x, hx, hlog⟩)

theorem maintain_staged (hin : Inside (s.ranges f) whole) (hwaits : waits = true)
    (hstaged : ∃ x ∈ s.ranges f, ∃ l ∈ s.rangeLines s.cur acc x.2.1 x.2.2, s.stagedLine l = true) : ∃ t, WaitsWith i s t ∧ SameMemory s t := by
  by_cases hlog : s.rangesLogged s.myCoreKey (s.ranges f)
  · exact maintain_logged hw ha hb hin hlog
  · obtain ⟨x, hx, l, hl, hst⟩ := hstaged
    obtain ⟨hframe, hmem⟩ := holdAt_keeps s (.stand s.cur s.me.issues) ((s.ranges f).flatMap (fun x => s.rangeLines s.cur acc x.2.1 x.2.2))
    refine waits_inFrame hw ha (hb.trans ?_) hframe.releaseFrame hmem
    unfold maintain
    simp only [rangeBad_inside i f 0 hin]
    refine (if_neg fun h => hlog (List.any_eq_true.mp h)).trans ?_
    rw [hwaits, if_pos]
    · rfl
    · rw [Bool.true_and]
      exact List.any_eq_true.mpr ⟨x, hx, List.any_eq_true.mpr ⟨l, hl, hst⟩⟩

variable (hmem : ∀ s l, MemFrame s (op s l)) (hop : ∀ t, MemFrame s t → ∀ l, op' t l = op t l)
include hmem hop

omit hw ha in
/-- Past its waits, the word goes through its ranges. -/
theorem maintain_goes (hin : Inside (s.ranges f) whole) (hlog : ¬s.rangesLogged s.myCoreKey (s.ranges f))
    (hstaged : waits = true → ∀ x ∈ s.ranges f, ∀ l ∈ s.rangeLines s.cur acc x.2.1 x.2.2, s.stagedLine l = false) :
    b s = rangesEnd i f s (s.onRanges s.cur acc op (s.ranges f)) := by
  have hfree : (waits && (s.ranges f).any (fun x => (s.rangeLines s.cur acc x.2.1 x.2.2).any s.stagedLine)) = false := by
    cases waits with
    | false => rfl
    | true =>
      rw [Bool.true_and, List.any_eq_false]
      intro x hx h
      obtain ⟨l, hl, hst⟩ := List.any_eq_true.mp h
      exact absurd ((hstaged rfl x hx l hl).symm.trans hst) (by decide)
  rw [hb, ← onRanges_congr hmem hop _ s (memFrame_refl s)]
  unfold maintain
  simp only [rangeBad_inside i f 0 hin]
  exact (if_neg fun h => hlog (List.any_eq_true.mp h)).trans ((if_neg (by rw [hfree]; decide)).trans rfl)

/-- A maintenance word does as R286 and R287 say, by what its operation does on the lines of one page. -/
theorem maintains (hc : form.control = false) {post : State → List Nat → Prop}
    (hpost : ∀ ls : List Nat, ls.Nodup → (∀ l ∈ ls, Formed s l) → ∀ t, (∀ l, t.line l = (ls.foldl op s).line l) →
      t.posted = (ls.foldl op s).posted → post t ls ∧ (∀ j, j ∉ ls → t.line j = s.line j) ∧ t.posted = s.posted) :
    Maintains s (s.ranges f) i whole waits acc op post := by
  refine ⟨beyond_of f 0 hw ha fun r hr => ?_, maintain_logged hw ha hb, maintain_staged hw ha hb, fun hin hlog hstaged => ?_⟩
  · rw [hb]
    unfold maintain
    simp only [hr]
  have hgoes := maintain_goes hb hmem hop hin hlog hstaged
  refine ⟨fun hnone => ?_, ?_, fun t0 ea n hx hn hp hpa => ?_⟩
  · have hframe := memFrame_onRanges (k := s.cur) (acc := acc) hmem (s.ranges f) s
    obtain ⟨u, hu⟩ : ∃ u, s.onRanges s.cur acc op (s.ranges f) = (none, u) := ⟨_, Prod.ext hnone rfl⟩
    rw [hu] at hgoes hframe
    obtain ⟨hpass, hcopses, hlaunches, -⟩ := passes_done hw ha hc hgoes hframe.releaseFrame
    exact ⟨_, hpass, hcopses, hlaunches⟩
  · intro t0 ea n pa e hx hn hp hpa ls hls
    have hrun : s.onRanges s.cur acc op (s.ranges f) = (none, ls.foldl op s) := by
      rw [hx]
      unfold State.onRanges
      rw [rangePages_one hn hp]
      unfold State.onPages
      simp only [hpa]
      unfold State.onPages State.onRanges
      rw [foldl_homeLines]
    rw [hrun] at hgoes
    obtain ⟨hpass, -, -, hline, hposted⟩ := passes_done hw ha hc hgoes (memFrame_foldl hmem ls s).releaseFrame
    obtain ⟨hpost, hothers, hposted⟩ := hpost ls ((linesOf_nodup pa n).filter _) (fun l hl => ⟨by simpa using (List.mem_filter.mp hl).2, (hls l hl).2⟩)
      _ hline hposted
    exact ⟨_, hpass, hpost, fun l hl => ⟨dirAt_of_line (hothers l hl), l1At_of_line (hothers l hl)⟩,
      fun core pa hpa => byteSeen_of_line (hothers _ hpa) hposted core rfl⟩
  · have hrun : s.onRanges s.cur acc op (s.ranges f) = (some (t0, ea), s) := by
      rw [hx]
      unfold State.onRanges
      rw [rangePages_one hn hp]
      unfold State.onPages
      simp only [hpa, if_true]
    rw [hrun] at hgoes
    exact ⟨s.faultRec s.cur (accessTrap i f.h.uni 3 5 ea 0 false f.sm [t0]) s.me.pc false, _, rfl, rfl, rfl, rfl, rfl, exec_stayed hw ha hgoes⟩
end

/-! ### Posts of single lines -/

/-- What is said of each line of a list holds behind the word when the operation gives it line by line. -/
theorem post_lines {op : State → Nat → State} {p : State → State → Nat → Prop} (s : State)
    (hop : ∀ t l, MemFrame s t → Formed t l → LineOnly l t (op t l) ∧ p t (op t l) l) (hp : AboutLine p) (ls : List Nat) (hnd : ls.Nodup)
    (hform : ∀ l ∈ ls, Formed s l) (t : State) (hline : ∀ l, t.line l = (ls.foldl op s).line l) (hposted : t.posted = (ls.foldl op s).posted) :
    (∀ l ∈ ls, p s t l) ∧ (∀ j, j ∉ ls → t.line j = s.line j) ∧ t.posted = s.posted := by
  obtain ⟨-, hposted', hothers, hall⟩ := foldl_lines (inv := MemFrame s)
    (fun t l ht h => ⟨(hop t l ht h).1, (hop t l ht h).2, ht.trans (hop t l ht h).1.frame⟩) hp ls s hnd (memFrame_refl s) hform
  exact ⟨fun l hl => hp s s _ t l (hform l hl).1 rfl (hline l) (hall l hl), fun j hj => (hline j).trans (hothers j hj), hposted.trans hposted'⟩

theorem cleansLine_about (own lvl : Nat) : AboutLine (CleansLine own lvl) := by
  intro s s' t t' l hw hs ht ⟨hcopy, hbytes⟩
  refine ⟨by rw [l1At_of_line ht, l1At_of_line hs, hcopy], fun a ha => ?_⟩
  obtain ⟨hhome, hanc⟩ := hbytes a ha
  rw [homeGet_of_plain ht hw ha, cleaned_of_line hs hw own ha, dirAt_of_line ht, dirAt_of_line hs, frameByte_of_line ht ha]
  exact ⟨hhome, hanc⟩

theorem dropsLine_about (own lvl : Nat) : AboutLine (DropsLine own lvl) := by
  intro s s' t t' l hw hs ht h
  refine ⟨by rw [l1At_of_line ht, h.copy], by rw [dirAt_of_line ht]; exact h.replicas, by rw [dirAt_of_line ht, dirAt_of_line hs, h.pins],
    fun h2 a ha => ?_, by rw [dirAt_of_line ht]; exact h.gone, fun a ha => ?_⟩
  · rw [homeGet_of_plain ht hw ha, homeGet_of_plain hs hw ha]
    exact h.home h2 a ha
  · rw [frameByte_of_line ht ha, frameByte_of_line hs ha]
    exact h.frames a ha

theorem unwritten_of_line {s t : State} {own l : Nat} (h : t.line l = s.line l) : Unwritten t own l ↔ Unwritten s own l := by
  unfold Unwritten
  rw [dirAt_of_line h, l1At_of_line h]

theorem flushesLine_about (own lvl : Nat) : AboutLine (FlushesLine own lvl) := by
  intro s s' t t' l hw hs ht ⟨hcopy, hrep, hbytes⟩
  refine ⟨by rw [l1At_of_line ht, hcopy], by rw [dirAt_of_line ht]; exact hrep, fun a ha => ?_⟩
  rw [homeGet_of_plain ht hw ha, cleaned_of_line hs hw own ha, dirAt_of_line ht, unwritten_of_line hs]
  exact hbytes a ha

theorem discardsLine_about (own : Nat) : AboutLine (fun _ t l => DiscardsLine own t l) := by
  intro s s' t t' l hw _ ht ⟨hcopy, hrep, hzero⟩
  exact ⟨by rw [l1At_of_line ht, hcopy], by rw [dirAt_of_line ht, hrep], fun a ha => by rw [homeGet_of_plain ht hw ha, hzero a ha]⟩

end Sys2Proof.Machine
end

section
/-! SUPPORT. The maintenance words one by one (spec/12 R288, R289, R291). -/

namespace Sys2Proof.Machine

section
variable {f : M96} {s : State}

theorem maintains_cmoCln (ha : Acts s (.cmoCln f)) : Maintains s (s.ranges f) (.cmoCln f) false true .read
    (fun t l => t.cmoClean s.myCoreKey f.md.toNat l) (fun t ls => ∀ l ∈ ls, CleansLine s.myCoreKey f.md.toNat s t l) :=
  maintains rfl ha rfl (fun t l => memFrame_cmoClean t _ _ l) (fun t ht l => by rw [ht.myCoreKey_eq]; rfl) rfl
    (post_lines s (fun _ _ _ h => cleansLine h) (cleansLine_about _ _))

/-- What R288 says of an invalidated line. -/
def InvalidatesLine (own lvl : Nat) (s t : State) (l : Nat) : Prop :=
  t.l1At own l = none ∧ (lvl ≠ 0 → (t.dirAt l).replicas = []) ∧ (t.dirAt l).pins = (s.dirAt l).pins ∧
    ∀ a, a / 128 = l → (lvl ≠ 2 → t.homeGet a = s.homeGet a) ∧ (lvl = 2 → (t.dirAt l).cached = false ∧ t.homeGet a = memGet s.frames a)

theorem DropsLine.invalidates {own lvl l : Nat} {t : State} (h : DropsLine own lvl s t l) (hw : isWindow (128 * l) = false) :
    InvalidatesLine own lvl s t l :=
  ⟨h.copy, h.replicas, h.pins, fun a ha => ⟨fun h2 => h.home h2 a ha, fun h2 =>
    ⟨h.gone h2, (homeGet_of_uncached hw (h.gone h2) ha).trans (h.frames a ha)⟩⟩⟩

theorem maintains_cmoInv (ha : Acts s (.cmoInv f)) : Maintains s (s.ranges f) (.cmoInv f) false true (if f.md.toNat = 2 then .write else .read)
    (fun t l => t.cmoDrop s.myCoreKey f.md.toNat l) (fun t ls => ∀ l ∈ ls, InvalidatesLine s.myCoreKey f.md.toNat s t l) := by
  refine maintains rfl ha rfl (fun t l => memFrame_cmoDrop t _ _ l) (fun t ht l => by rw [ht.myCoreKey_eq]; rfl) rfl
    fun ls hnd hform t hline hposted => ?_
  obtain ⟨hpost, hrest⟩ := post_lines s (fun t l _ _ => dropsLine t _ _ l) (dropsLine_about _ _) ls hnd hform t hline hposted
  exact ⟨fun l hl => (hpost l hl).invalidates (hform l hl).1, hrest⟩

theorem maintains_cmoCinv (ha : Acts s (.cmoCinv f)) : Maintains s (s.ranges f) (.cmoCinv f) false true (if f.md.toNat = 2 then .write else .read)
    (fun t l => (t.cmoClean s.myCoreKey f.md.toNat l).cmoDrop s.myCoreKey f.md.toNat l)
    (fun t ls => ∀ l ∈ ls, FlushesLine s.myCoreKey f.md.toNat s t l) :=
  maintains rfl ha rfl (fun t l => (memFrame_cmoClean t _ _ l).trans (memFrame_cmoDrop _ _ _ l)) (fun t ht l => by rw [ht.myCoreKey_eq]; rfl) rfl
    (post_lines s (fun _ _ _ h => flushesLine h) (flushesLine_about _ _))

/-! ### `dsc` (R289) -/

theorem memFrame_homeStore (s : State) (k net l : Nat) (bs : List (Nat × Byte)) : MemFrame s (s.homeStore k net l bs) := by
  unfold State.homeStore
  split
  · exact memFrame_homePut _ _ _ _
  · refine (memFrame_homePut s (s.viOf k) l bs).trans ((memFrame_addPath _ k net l).trans ((memFrame_request _ l (fieldOfCore (s.coreOf k)) false).trans ?_))
    exact ((quiet_learn _ k [l]).trans (quiet_carry _ k none _)).frame

theorem memFrame_zeroLine (s : State) (k l : Nat) : MemFrame s (s.zeroLine k l) := by
  cases hw : isWindow (128 * l) with
  | true =>
    unfold State.zeroLine
    simp only [hw, if_true]
    exact memFrame_homePut _ _ _ _
  | false => exact (zeroLine_spec s k hw).1.frame

theorem memFrame_discard (s : State) (k l : Nat) : MemFrame s (s.discard k l) :=
  ((copyIs_drop s (s.coreOf k) l).only.frame.trans (memFrame_zeroLine _ k l)).trans (memFrame_setDir _ _ _)

theorem maintains_dsc (ha : Acts s (.dsc f)) (hfence : s.me.fenceM = none) : Maintains s (s.ranges f) (.dsc f) true true .write
    (fun t l => t.discard t.cur l) (fun t ls => ∀ l ∈ ls, DiscardsLine s.myCoreKey t l) := by
  have hb : bodyDsc f s = maintain (.dsc f) f 0 true true .write (fun t l => t.discard t.cur l) s :=
    if_neg (by rw [hfence]; exact Bool.false_ne_true)
  refine maintains (i := .dsc f) (form := formDsc f) (b := bodyDsc f) rfl ha hb (fun t l => memFrame_discard t _ l) (fun _ _ _ => rfl) rfl
    (post_lines s (fun t l ht h => ?_) (discardsLine_about _))
  have hcore : t.coreOf t.cur = s.myCoreKey := ht.myCoreKey_eq
  rw [← hcore]
  exact discardsLine t t.cur h.1

theorem dsc_waits (ha : Acts s (.dsc f)) (hfence : s.me.fenceM ≠ none) : ∃ t, WaitsWith (.dsc f) s t ∧ SameMemory s t := by
  refine waits_inFrame (u := s) rfl ha ?_ (releaseFrame_refl s) (sameMemory_refl s)
  show (if s.me.fenceM.isSome then Eff.stay s else _) = _
  rw [if_pos (Option.isSome_iff_ne_none.mpr hfence)]

/-! ### Pins (R291) -/

theorem memFrame_pinLine (s : State) (vi l : Nat) : MemFrame s (s.pinLine vi l) := memFrame_setDir s l _
theorem memFrame_unpinLine (s : State) (vi l : Nat) : MemFrame s (s.unpinLine vi l) := memFrame_setDir s l _

theorem sameMemory_foldl {op : State → Nat → State} (h : ∀ s l, SameMemory s (op s l)) : ∀ (ls : List Nat) (s : State), SameMemory s (ls.foldl op s)
  | [], s => sameMemory_refl s
  | l :: ls, s => (h s l).trans (sameMemory_foldl h ls (op s l))

theorem SameMemory.of_lines {s u t : State} (h : SameMemory s u) (hline : ∀ l, t.line l = u.line l) (hposted : t.posted = u.posted) :
    SameMemory s t := fun core pa => (byteSeen_of_line (hline _) hposted core rfl).trans (h core pa)

/-- The other contexts' marks of a line stay. -/
def OthersMarks (vi : Nat) (s t : State) (l : Nat) : Prop := ∀ x, x ≠ vi → (x ∈ (t.dirAt l).pins ↔ x ∈ (s.dirAt l).pins)

theorem othersMarks_about (vi : Nat) : AboutLine (OthersMarks vi) := by
  intro s s' t t' l _ hs ht h
  unfold OthersMarks
  rw [dirAt_of_line hs, dirAt_of_line ht]
  exact h

theorem pinsLine (s : State) (vi l : Nat) : LineOnly l s (s.pinLine vi l) ∧ OthersMarks vi s (s.pinLine vi l) l ∧
    SameMemory s (s.pinLine vi l) ∧ ((s.pinLine vi l).dirAt l).pins = s.pinMarks vi l := by
  rw [pinLine_eq]
  refine ⟨lineOnly_setDir _ _ _, fun x hx => ?_, sameMemory_setDir s l rfl rfl, by rw [setDir_dirAt]; rfl⟩
  rw [setDir_dirAt]
  exact mem_pinMarks hx

/-- What R291 says of pinned lines. -/
def PinsLines (vi : Nat) (s t : State) (ls : List Nat) : Prop :=
  SameMemory s t ∧
    ((s.viAt vi).pquota ≠ 0 → 256 * (s.viAt vi).pquota.toNat ≤ s.pinned vi → ∀ l ∈ ls, (vi ∈ (t.dirAt l).pins ↔ vi ∈ (s.dirAt l).pins)) ∧
    ∀ l ∈ ls, ((s.viAt vi).pquota = 0 → vi ∈ (t.dirAt l).pins) ∧ ∀ x, x ≠ vi → (x ∈ (t.dirAt l).pins ↔ x ∈ (s.dirAt l).pins)

theorem pinsLines (s : State) (vi : Nat) (ls : List Nat) (hnd : ls.Nodup) (hform : ∀ l ∈ ls, Formed s l) (t : State)
    (hline : ∀ l, t.line l = (ls.foldl (fun t l => t.pinLine vi l) s).line l) (hposted : t.posted = (ls.foldl (fun t l => t.pinLine vi l) s).posted) :
    PinsLines vi s t ls ∧ (∀ j, j ∉ ls → t.line j = s.line j) ∧ t.posted = s.posted := by
  obtain ⟨hothers, hrest⟩ := post_lines s (fun s l _ _ => ⟨(pinsLine s vi l).1, (pinsLine s vi l).2.1⟩) (othersMarks_about vi) ls hnd hform t hline hposted
  have hmem : SameMemory s t := (sameMemory_foldl (fun s l => (pinsLine s vi l).2.2.1) ls s).of_lines hline hposted
  have hfull (h : s.pinRoom vi = false) : ∀ l ∈ ls, (vi ∈ (t.dirAt l).pins ↔ vi ∈ (s.dirAt l).pins) := by
    obtain ⟨-, -, -, hall⟩ := foldl_lines (op := fun t l => t.pinLine vi l) (inv := fun t => t.pinRoom vi = false)
      (p := fun s t l => vi ∈ (t.dirAt l).pins ↔ vi ∈ (s.dirAt l).pins)
      (fun s l hroom _ => ⟨(pinsLine s vi l).1, by rw [(pinsLine s vi l).2.2.2, pinMarks_full hroom], pinRoom_pinLine hroom⟩)
      (fun s s' t t' l _ hs ht h => by simp only [dirAt_of_line hs, dirAt_of_line ht]; exact h) ls s hnd h hform
    exact fun l hl => by rw [dirAt_of_line (hline l)]; exact hall l hl
  have hfree (h : (s.viAt vi).pquota = 0) : ∀ l ∈ ls, vi ∈ (t.dirAt l).pins := by
    obtain ⟨-, -, -, hall⟩ := foldl_lines (op := fun t l => t.pinLine vi l) (inv := fun t => (t.viAt vi).pquota = 0)
      (p := fun _ t l => vi ∈ (t.dirAt l).pins)
      (fun s l hq _ => ⟨(pinsLine s vi l).1, by rw [(pinsLine s vi l).2.2.2]; exact pinMarks_room (by unfold State.pinRoom; rw [hq]; rfl), hq⟩)
      (fun s s' t t' l _ _ ht h => by simp only [dirAt_of_line ht]; exact h) ls s hnd h hform
    exact fun l hl => by rw [dirAt_of_line (hline l)]; exact hall l hl
  refine ⟨⟨hmem, fun hq hn => hfull ?_, fun l hl => ⟨fun hq => hfree hq l hl, hothers l hl⟩⟩, hrest⟩
  unfold State.pinRoom
  rw [Bool.or_eq_false_iff]
  exact ⟨by simpa using hq, decide_eq_false (by omega)⟩

theorem maintains_pin (ha : Acts s (.pin f)) : Maintains s (s.ranges f) (.pin f) false false .read
    (fun t l => t.pinLine (s.viOf s.cur) l) (PinsLines (s.viOf s.cur) s) :=
  maintains rfl ha rfl (fun t l => memFrame_pinLine t _ l) (fun t ht l => by rw [ht.viOf_eq, ht.sameRegs.1]) rfl (pinsLines s _)

/-- A context's mark of a line goes, the others stay. -/
def UnmarksLine (vi : Nat) (s t : State) (l : Nat) : Prop := vi ∉ (t.dirAt l).pins ∧ OthersMarks vi s t l

theorem unmarksLine_about (vi : Nat) : AboutLine (UnmarksLine vi) := by
  intro s s' t t' l hw hs ht ⟨hmine, hothers⟩
  exact ⟨by rwa [dirAt_of_line ht], othersMarks_about vi s s' t t' l hw hs ht hothers⟩

theorem unpinsLine (s : State) (vi l : Nat) : LineOnly l s (s.unpinLine vi l) ∧ UnmarksLine vi s (s.unpinLine vi l) l := by
  rw [unpinLine_eq]
  refine ⟨lineOnly_setDir _ _ _, ?_, fun x hx => ?_⟩
  · rw [setDir_dirAt]
    simp [Dir.withPins]
  · rw [setDir_dirAt]
    simp [Dir.withPins, hx]

theorem sameMemory_unpinLine (s : State) (vi l : Nat) : SameMemory s (s.unpinLine vi l) := sameMemory_setDir s l rfl rfl

theorem maintains_unpin (ha : Acts s (.unpin f)) : Maintains s (s.ranges f) (.unpin f) false false .read
    (fun t l => t.unpinLine (s.viOf s.cur) l) (fun t ls => SameMemory s t ∧ ∀ l ∈ ls, s.viOf s.cur ∉ (t.dirAt l).pins ∧
      ∀ x, x ≠ s.viOf s.cur → (x ∈ (t.dirAt l).pins ↔ x ∈ (s.dirAt l).pins)) := by
  refine maintains rfl ha rfl (fun t l => memFrame_unpinLine t _ l) (fun t ht l => by rw [ht.viOf_eq, ht.sameRegs.1]) rfl
    fun ls hnd hform t hline hposted => ?_
  obtain ⟨hpost, hrest⟩ := post_lines s (fun t l _ _ => unpinsLine t (s.viOf s.cur) l) (unmarksLine_about _) ls hnd hform t hline hposted
  exact ⟨⟨(sameMemory_foldl (fun t l => sameMemory_unpinLine t _ l) ls s).of_lines hline hposted, hpost⟩, hrest⟩
end

end Sys2Proof.Machine
end

section
/-! SUPPORT. What a word leaves beside memory: page requests, TLBs and side logs; and what a release writes home (spec/12 R245, R247, R255; spec/13
R300). -/

namespace Sys2Proof.Machine

/-! ### Page requests, TLBs and side logs -/

/-- Stands, copses, launches and every line of memory are as before. -/
structure Aside (s t : State) : Prop where
  cur : t.cur = s.cur
  free : t.free = s.free
  stands : t.stands = s.stands
  copses : t.copses = s.copses
  launches : t.launches = s.launches
  dir : t.dir = s.dir
  frames : t.frames = s.frames
  posted : t.posted = s.posted
  l1 : ∀ c, (t.coreAt c).l1 = (s.coreAt c).l1

theorem Aside.refl (s : State) : Aside s s := ⟨rfl, rfl, rfl, rfl, rfl, rfl, rfl, rfl, fun _ => rfl⟩
theorem Aside.trans {s t u : State} (h : Aside s t) (h' : Aside t u) : Aside s u :=
  ⟨h'.cur.trans h.cur, h'.free.trans h.free, h'.stands.trans h.stands, h'.copses.trans h.copses, h'.launches.trans h.launches,
    h'.dir.trans h.dir, h'.frames.trans h.frames, h'.posted.trans h.posted, fun c => (h'.l1 c).trans (h.l1 c)⟩
theorem aside_foldl {α : Type} {f : State → α → State} (hf : ∀ s a, Aside s (f s a)) : ∀ (l : List α) (s : State), Aside s (l.foldl f s)
  | [], s => .refl s
  | a :: l, s => (hf s a).trans (aside_foldl hf l (f s a))

theorem Aside.line {s t : State} (h : Aside s t) (l : Nat) : t.line l = s.line l :=
  line_eq (by simp only [State.dirAt, h.dir]) (fun c => by simp only [State.l1At, h.l1]) (by rw [h.frames])
theorem Aside.sameMemory {s t : State} (h : Aside s t) : SameMemory s t := sameMemory_of_parts h.l1 h.dir h.frames h.posted
theorem Aside.standAt {s t : State} (h : Aside s t) (k : Nat) : t.standAt k = s.standAt k := by simp only [State.standAt, h.stands]
theorem Aside.coreOf {s t : State} (h : Aside s t) (k : Nat) : t.coreOf k = s.coreOf k := by simp only [State.coreOf, State.copseAt, h.copses]
theorem Aside.releaseFrame {s t : State} (h : Aside s t) : ReleaseFrame s t :=
  ⟨⟨h.cur, h.free, h.copses, h.launches⟩, fun j => ⟨_, _, _, _, h.standAt j⟩⟩

theorem aside_postPage (s : State) (vi va cause : Nat) : Aside s (s.postPage vi va cause).2 ∧ (s.postPage vi va cause).2.cores = s.cores := by
  unfold State.postPage
  simp only
  split
  · exact ⟨.refl s, rfl⟩
  · exact ⟨⟨rfl, rfl, rfl, rfl, rfl, rfl, rfl, rfl, fun _ => rfl⟩, rfl⟩

theorem aside_tlbAdd (s : State) (copse va : Nat) (l : Leaf) :
    Aside s (s.tlbAdd copse va l) ∧ ∀ c, ((s.tlbAdd copse va l).coreAt c).slog = (s.coreAt c).slog := by
  unfold State.tlbAdd
  split
  · exact ⟨.refl s, fun _ => rfl⟩
  · have hcore (c : Nat) (x : List TlbEntry) : (if c = (s.copseAt copse).core then { s.coreAt (s.copseAt copse).core with tlb := x } else s.coreAt c) =
        { s.coreAt c with tlb := if c = (s.copseAt copse).core then x else (s.coreAt c).tlb } := by
      split
      · next h => rw [h]
      · rfl
    refine ⟨⟨rfl, rfl, rfl, rfl, rfl, rfl, rfl, rfl, fun c => ?_⟩, fun c => ?_⟩
    · simp only [setCluster_coreAt, setCore_coreAt_at, hcore]
    · simp only [setCluster_coreAt, setCore_coreAt_at, hcore]

theorem aside_keepTlb (s : State) (k : Nat) (ys : List (Nat × Nat × Xl (Nat × Leaf))) :
    Aside s (s.keepTlb k ys) ∧ ∀ c, ((s.keepTlb k ys).coreAt c).slog = (s.coreAt c).slog := by
  unfold State.keepTlb
  induction ys generalizing s with
  | nil => exact ⟨.refl s, fun _ => rfl⟩
  | cons y ys ih =>
    rw [List.foldl_cons]
    split
    · next l _ =>
      obtain ⟨haside, hslog⟩ := aside_tlbAdd s (copseOf k) y.2.1 l
      obtain ⟨haside', hslog'⟩ := ih (s.tlbAdd (copseOf k) y.2.1 l)
      exact ⟨haside.trans haside', fun c => (hslog' c).trans (hslog c)⟩
    · exact ih s

/-- Holding a stand on pages posts one request for each. -/
theorem holdPages_spec (s : State) (k : Nat) (i : Instr) (uni : Bool) (akind : Nat) (sm : Byte) (ps : List (Nat × Nat × Nat × List Nat)) :
    ∃ u ids, Aside s u ∧ ids.length = ps.length ∧ s.holdPages k i uni akind sm ps = u.setStand k { s.standAt k with wait := .page ids none } := by
  have hfold : ∀ (ps : List (Nat × Nat × Nat × List Nat)) (a : List (Nat × TrapReq) × State), Aside a.2 (ps.foldl (fun a p =>
      ((a.1 ++ [((a.2.postPage (a.2.viOf k) p.2.2.1 p.2.1).1, accessTrap i uni 3 6 p.2.2.1 akind false sm p.2.2.2)],
        (a.2.postPage (a.2.viOf k) p.2.2.1 p.2.1).2) : List (Nat × TrapReq) × State)) a).2 ∧ (ps.foldl (fun a p =>
      ((a.1 ++ [((a.2.postPage (a.2.viOf k) p.2.2.1 p.2.1).1, accessTrap i uni 3 6 p.2.2.1 akind false sm p.2.2.2)],
        (a.2.postPage (a.2.viOf k) p.2.2.1 p.2.1).2) : List (Nat × TrapReq) × State)) a).1.length = a.1.length + ps.length := by
    intro ps
    induction ps with
    | nil => exact fun a => ⟨.refl _, rfl⟩
    | cons p ps ih =>
      intro a
      obtain ⟨haside, hlen⟩ := ih (a.1 ++ [((a.2.postPage (a.2.viOf k) p.2.2.1 p.2.1).1, accessTrap i uni 3 6 p.2.2.1 akind false sm p.2.2.2)],
        (a.2.postPage (a.2.viOf k) p.2.2.1 p.2.1).2)
      refine ⟨(aside_postPage a.2 _ _ _).1.trans haside, hlen.trans ?_⟩
      simp only [List.length_append, List.length_cons, List.length_nil]
      omega
  obtain ⟨haside, hlen⟩ := hfold ps ([], s)
  refine ⟨_, _, haside, hlen.trans (Nat.zero_add _), ?_⟩
  rw [← haside.standAt k]
  rfl

/-- The side-log entry of a faulting page. -/
def logEntry (s : State) (k : Nat) (uni : Bool) (op : Option (BitVec 3 × BitVec 5)) (sm : Byte) (ph : BitVec 2) (es : List Elem)
    (p : Nat × Nat × Nat × List Nat) (id : Nat) : LogEntry :=
  { stand := k, page := p.1, cause := p.2.1, elems := (es.filter (fun e => pageOf e.2.1 == p.1)).map (fun e => ⟨e.1, e.2.1, e.2.2.1, BitVec.ofNat 64 e.2.2.2⟩),
    op := op, sm := sm, ph := ph, uni := uni, req := id, word := (s.standAt k).issues }

theorem logPage_spec (s : State) (k : Nat) (uni : Bool) (op : Option (BitVec 3 × BitVec 5)) (sm : Byte) (ph : BitVec 2) (es : List Elem)
    (p : Nat × Nat × Nat × List Nat) : ∃ id, Aside s (s.logPage k uni op sm ph es p) ∧
      ((s.logPage k uni op sm ph es p).coreAt (s.coreOf k)).slog = (s.coreAt (s.coreOf k)).slog ++ [logEntry s k uni op sm ph es p id] := by
  obtain ⟨hpost, hcores⟩ := aside_postPage s (s.viOf k) p.2.2.1 p.2.1
  have hcore := hpost.coreOf k
  have hstand := hpost.standAt k
  unfold State.logPage
  simp only
  generalize s.postPage (s.viOf k) p.2.2.1 p.2.1 = r at hpost hcores hcore hstand
  obtain ⟨id, u⟩ := r
  refine ⟨id, hpost.trans ⟨rfl, rfl, rfl, rfl, rfl, rfl, rfl, rfl, fun c => ?_⟩, ?_⟩
  · rw [setCore_coreAt_at]
    split
    · next h => rw [h]
    · rfl
  · simp only at hcore hstand hcores
    simp only [hcore, setCore_coreAt, hstand]
    simp only [State.coreAt, hcores]
    rfl

/-- One entry per page, in order (R255). -/
theorem logPages_spec (k : Nat) (uni : Bool) (op : Option (BitVec 3 × BitVec 5)) (sm : Byte) (ph : BitVec 2) (es : List Elem) :
    ∀ (ps : List (Nat × Nat × Nat × List Nat)) (s : State), ∃ ids : List Nat, ids.length = ps.length ∧
      Aside s (ps.foldl (fun s p => s.logPage k uni op sm ph es p) s) ∧
      ((ps.foldl (fun s p => s.logPage k uni op sm ph es p) s).coreAt (s.coreOf k)).slog =
        (s.coreAt (s.coreOf k)).slog ++ (ps.zip ids).map (fun x => logEntry s k uni op sm ph es x.1 x.2)
  | [], s => ⟨[], rfl, .refl s, by simp⟩
  | p :: ps, s => by
    obtain ⟨id, haside, hslog⟩ := logPage_spec s k uni op sm ph es p
    obtain ⟨ids, hlen, haside', hslog'⟩ := logPages_spec k uni op sm ph es ps (s.logPage k uni op sm ph es p)
    have hentry : logEntry (s.logPage k uni op sm ph es p) k uni op sm ph es = logEntry s k uni op sm ph es := by
      unfold logEntry
      rw [haside.standAt k]
    rw [haside.coreOf k, hentry, hslog] at hslog'
    exact ⟨id :: ids, congrArg Nat.succ hlen, haside.trans haside', by rw [List.foldl_cons, hslog', List.zip_cons_cons, List.map_cons, List.append_assoc]; rfl⟩

/-! ### What a release writes home (R300) -/

/-- The device holds no byte for a place that it did not hold. -/
def Fewer (s t : State) : Prop := ∀ pa b, Holds t pa b → Holds s pa b

theorem Fewer.refl (s : State) : Fewer s s := fun _ _ h => h
theorem Fewer.trans {s t u : State} (h : Fewer s t) (h' : Fewer t u) : Fewer s u := fun pa b hb => h pa b (h' pa b hb)
theorem fewer_foldl {α : Type} {f : State → α → State} (hf : ∀ s a, Fewer s (f s a)) : ∀ (l : List α) (s : State), Fewer s (l.foldl f s)
  | [], s => .refl s
  | a :: l, s => (hf s a).trans (fewer_foldl hf l (f s a))

theorem holds_of_line {s t : State} {pa : Nat} {b : Byte} (hl : t.line (pa / 128) = s.line (pa / 128)) (hp : t.posted = s.posted)
    (h : Holds t pa b) : Holds s pa b := by
  unfold Holds at h ⊢
  rw [homeGet_of_line hl hp rfl, dirAt_of_line hl] at h
  simp only [l1At_of_line hl] at h
  exact h

theorem fewer_of_lines {s t : State} (hl : ∀ l, t.line l = s.line l) (hp : t.posted = s.posted) : Fewer s t := fun _ _ h => holds_of_line (hl _) hp h

theorem Quiet.fewer {s t : State} (h : Quiet s t) : Fewer s t :=
  fewer_of_lines (fun l => line_eq (h.dirAt_eq l) (fun c => h.l1At_eq c l) (by rw [h.frames])) h.posted
theorem quiet_signed (s : State) (k : Nat) (m : Byte) (fence : Bool) : Quiet s (s.signed k m fence) := quiet_ite (.refl s) (quiet_order s _)

/-- A copy has gone home: what the home then gives was there or in the copy, and no other place holds more. -/
structure GoneHome (core l : Nat) (x : L1Line) (s t : State) : Prop where
  others : ∀ j, j ≠ l → t.line j = s.line j
  homes : ∀ a, a / 128 ≠ l → t.homeGet a = s.homeGet a
  home : ∀ a, a / 128 = l → t.homeGet a = s.homeGet a ∨ (x.dirty.getLsbD (a % 128) = true ∧ t.homeGet a = memGet x.bytes (a % 128))
  replicas : ∀ r ∈ (t.dirAt l).replicas, r ∈ (s.dirAt l).replicas
  own : t.l1At core l = some x.cleaned
  copies : ∀ c, c ≠ core → t.l1At c l = s.l1At c l

theorem GoneHome.fewer {core l : Nat} {x : L1Line} {s t : State} (h : GoneHome core l x s t) (hx : s.l1At core l = some x) : Fewer s t := by
  intro pa b hb
  by_cases hpa : pa / 128 = l
  · subst hpa
    rcases hb with hb | ⟨r, hr, hb⟩ | ⟨c, y, hy, hbit, hb⟩
    · rcases h.home pa rfl with hsame | ⟨hbit, hcopy⟩
      · exact .inl (hb.trans hsame)
      · exact .inr (.inr ⟨core, x, hx, by rw [BitVec.getLsbD_or, hbit, Bool.or_true], hb.trans hcopy⟩)
    · exact .inr (.inl ⟨r, h.replicas r hr, hb⟩)
    · by_cases hc : c = core
      · subst hc
        cases hy.symm.trans h.own
        refine .inr (.inr ⟨c, x, hx, ?_, hb⟩)
        rw [BitVec.getLsbD_or, Bool.or_eq_true] at hbit ⊢
        exact hbit.elim .inl fun h => by simp [L1Line.cleaned] at h
      · exact .inr (.inr ⟨c, y, (h.copies c hc).symm.trans hy, hbit, hb⟩)
  · rcases hb with hb | hb | hb
    · exact .inl (hb.trans (h.homes pa hpa))
    · rw [dirAt_of_line (h.others _ hpa)] at hb
      exact .inr (.inl hb)
    · simp only [l1At_of_line (h.others _ hpa)] at hb
      exact .inr (.inr hb)

theorem WrittenBack.goneHome {core l : Nat} {x : L1Line} {s t : State} (h : WrittenBack core l x s t) (hw : isWindow (128 * l) = false) :
    GoneHome core l x s t := by
  refine ⟨h.only.others, fun a ha => homeGet_of_line (h.only.others _ ha) h.only.posted rfl, fun a ha => ?_, h.replicas, h.own, h.others⟩
  have hhome : t.homeGet a = if x.dirty.getLsbD (a % 128) then memGet x.bytes (a % 128) else s.homeGet a := by
    subst ha
    rw [homeGet_of_cached h.cached rfl, h.bytes, memGet_putMasked _ _ _ (Nat.mod_lt _ (by omega)), homeGet_eq_lineBytes hw]
  cases hbit : x.dirty.getLsbD (a % 128) with
  | true => exact .inr ⟨rfl, by rw [hhome, hbit, if_pos rfl]⟩
  | false => exact .inl (by rw [hhome, hbit, if_neg Bool.false_ne_true])

theorem homePut_window (s : State) (vi : Nat) {l : Nat} {bs : List (Nat × Byte)} (hw : isWindow (128 * l) = true) (hin : ∀ b ∈ bs, b.1 < 128)
    (hne : bs ≠ []) : s.homePut vi l bs = { s with posted := s.posted ++ [(windowPort (128 * l), l, bs)] } := by
  have hall : bs.filter (fun b => decide (b.1 < 128)) = bs := List.filter_eq_self.mpr fun b hb => decide_eq_true (hin b hb)
  unfold State.homePut
  simp only [hall, hw, if_neg hne, if_true]

theorem goneHome_window {core l : Nat} {x : L1Line} {s : State} (hw : isWindow (128 * l) = true) (hx : s.l1At core l = some x) (hd : x.dirty ≠ 0) :
    GoneHome core l x s (s.writeBackL1 core l) := by
  obtain ⟨u, hnoted, hcopy⟩ := writeBackL1_dirty hx hd
  rw [homePut_window s _ hw (maskedBytes_in x.dirty x.bytes) (maskedBytes_ne x.bytes hd)] at hnoted
  generalize s.writeBackL1 core l = t at hcopy
  have hposted : t.posted = s.posted ++ [(windowPort (128 * l), l, maskedBytes x.dirty x.bytes)] := hcopy.only.posted.trans hnoted.only.posted
  have hothers (j : Nat) (hj : j ≠ l) : t.line j = s.line j := (hcopy.only.others j hj).trans (hnoted.only.others j hj)
  have hframes : t.frames = s.frames := hcopy.frames.trans hnoted.frames
  have hdir : t.dirAt l = u.dirAt l := by simp only [State.dirAt, hcopy.dir]
  obtain ⟨hcached, hbytes, -, -, hreplicas⟩ := hnoted.entry
  have hwindow (j : Nat) : t.windowBytes j = if j = l then putBytes (maskedBytes x.dirty x.bytes) (s.windowBytes j) else s.windowBytes j := by
    unfold State.windowBytes
    rw [hposted, hframes, List.filter_append]
    by_cases hj : j = l
    · subst hj
      simp
    · rw [if_neg hj, List.filter_cons_of_neg (by simpa using Ne.symm hj), List.filter_nil, List.append_nil]
  refine ⟨hothers, fun a ha => ?_, fun a ha => ?_, fun r hr => ?_, hcopy.own, fun c hc => (hcopy.others c hc).trans (hnoted.l1 c l)⟩
  · unfold State.homeGet
    simp only [dirAt_of_line (hothers _ ha), hwindow, if_neg ha, hframes]
  · have hwa : isWindow a = true := by
      rw [← ha, ← isWindow_line (a / 128) (a % 128) (Nat.mod_lt _ (by omega)), Nat.div_add_mod] at hw
      exact hw
    unfold State.homeGet
    simp only [ha, hdir, hcached, hbytes, hwindow, hwa, if_true]
    split
    · next h => exact .inl (by rw [if_pos (show (s.dirAt l).cached = true from h)]; rfl)
    · next h =>
      rw [memGet_putMasked _ _ _ (Nat.mod_lt _ (by omega)), if_neg (show ¬(s.dirAt l).cached = true from h)]
      cases hbit : x.dirty.getLsbD (a % 128) with
      | true => exact .inr ⟨rfl, rfl⟩
      | false => exact .inl rfl
  · rw [hdir, hreplicas] at hr
    exact hr

/-- Writing a copy back puts at its home what the copy holds. -/
theorem fewer_writeBackL1 (s : State) (core l : Nat) : Fewer s (s.writeBackL1 core l) := by
  by_cases hclean : ∀ x, s.l1At core l = some x → x.dirty = 0
  · rw [writeBackL1_clean hclean]
    exact .refl s
  obtain ⟨x, hx, hd⟩ : ∃ x, s.l1At core l = some x ∧ x.dirty ≠ 0 := by
    rw [not_forall] at hclean
    obtain ⟨x, hx⟩ := hclean
    rw [Classical.not_imp] at hx
    exact ⟨x, hx⟩
  cases hw : isWindow (128 * l) with
  | false => exact ((writtenBack hw hx hd).goneHome hw).fewer hx
  | true => exact (goneHome_window hw hx hd).fewer hx

theorem fewer_recall (s : State) (core l : Nat) : Fewer s (s.recall core l) := by
  refine fewer_foldl (fun s c => ?_) _ s
  split
  · exact .refl s
  · split
    · exact fewer_writeBackL1 s c l
    · exact .refl s

theorem fewer_flushL1 (s : State) (core : Nat) : Fewer s (s.flushL1 core) :=
  (fewer_foldl (fun s l => fewer_writeBackL1 s core l) _ s).trans (fewer_foldl (fun s l => fewer_recall s core l) _ _)

theorem fewer_release (s : State) (k : Nat) (m : Byte) : Fewer s (s.release k m).2 := by
  have hstand (s : State) (x : Stand) : Fewer s (s.setStand k x) := fewer_of_lines (fun _ => rfl) rfl
  have hsigned (s : State) : Fewer s (s.signed k m false) := (quiet_signed s k m false).fewer
  have hnow : Fewer s (s.releaseNow k m false) := by
    obtain ⟨u, hu, hr⟩ : ∃ u, u = (if maskFull m = maskCO then s else s.flushL1 (s.coreOf k)) ∧ Fewer s u := by
      refine ⟨_, rfl, ?_⟩
      split
      · exact .refl s
      · exact fewer_flushL1 s _
    unfold State.releaseNow
    simp only [← hu]
    split_ifs
    · exact hr.trans (hstand u _)
    · exact hr.trans (hstand u _)
    · exact hr
  have hcovered := (hstand s { s.standAt k with rel := none }).trans (hsigned _)
  have hheld := Fewer.refl s
  have hdone := hnow.trans (hsigned _)
  have hmarkers := hnow.trans (hstand _ { (s.releaseNow k m false).standAt k with rel := some m, wait := .markers })
  unfold State.release
  simp only
  split <;> split_ifs <;> assumption

end Sys2Proof.Machine
end

section
/-! SUPPORT. `zero` (spec/12 R255, R286, R290). -/

namespace Sys2Proof.Machine

/-! ### Zeroing several lines -/

theorem foldl_zeroLine (k : Nat) : ∀ (ls : List Nat) (s : State), (∀ l ∈ ls, isWindow (128 * l) = false) →
    (ls.foldl (fun s l => s.zeroLine k l) s).posted = s.posted ∧ (∀ j, j ∉ ls → (ls.foldl (fun s l => s.zeroLine k l) s).line j = s.line j) ∧
      ∀ l ∈ ls, ZeroLine (s.coreOf k) (ls.foldl (fun s l => s.zeroLine k l) s) l
  | [], _, _ => ⟨rfl, fun _ _ => rfl, fun _ h => absurd h List.not_mem_nil⟩
  | l :: ls, s, hw => by
    have hwl := hw l List.mem_cons_self
    obtain ⟨honly, hzero, -⟩ := zeroLine_spec s k hwl
    obtain ⟨hposted, hothers, hall⟩ := foldl_zeroLine k ls (s.zeroLine k l) fun j hj => hw j (List.mem_cons_of_mem _ hj)
    rw [honly.frame.coreOf_eq] at hall
    rw [List.foldl_cons]
    refine ⟨hposted.trans honly.posted, fun j hj => ?_, fun j hj => ?_⟩
    · rw [List.mem_cons, not_or] at hj
      exact (hothers j hj.2).trans (honly.others j hj.1)
    · by_cases hin : j ∈ ls
      · exact hall j hin
      · obtain rfl : j = l := (List.mem_cons.mp hj).resolve_right hin
        exact hzero.of_line hwl (hothers j hin)

theorem memFrame_zeroLines (k : Nat) (ls : List Nat) (s : State) : MemFrame s (ls.foldl (fun s l => s.zeroLine k l) s) :=
  memFrame_foldl (fun s l => memFrame_zeroLine s k l) ls s

/-! ### Elements and their translations -/

/-- The elements of a list that translate, with their data. -/
def elemWork (es : List Elem) (ys : List (Nat × Nat × Xl (Nat × Leaf))) : List (Nat × Nat × Nat) :=
  (es.zip ys).filterMap (fun e => match e.2.2.2 with | .ok (pa, _) => some (pa, e.1.2.2) | .fault _ => none)

theorem elemWork_map_fst : ∀ (es : List Elem) (ys : List (Nat × Nat × Xl (Nat × Leaf))), es.length = ys.length →
    (elemWork es ys).map Prod.fst = (translated ys).map (fun y => y.2.2)
  | [], [], _ => rfl
  | e :: es, (t, va, x) :: ys, h => by
    have ih := elemWork_map_fst es ys (Nat.succ.inj h)
    unfold elemWork translated at ih ⊢
    rw [List.zip_cons_cons, List.filterMap_cons, List.filterMap_cons]
    cases x with
    | fault c => exact ih
    | ok p => exact congrArg (p.1 :: ·) ih

theorem mem_elemWork {es : List Elem} {ys : List (Nat × Nat × Xl (Nat × Leaf))} {w : Nat × Nat × Nat} (h : w ∈ elemWork es ys) :
    (∃ e ∈ es, w.2 = e.2.2) ∧ (w.1, w.2.1) ∈ (es.zip ys).filterMap (fun w => match w.2.2.2 with | .ok x => some (x.1, w.1.2.2.1) | .fault _ => none) := by
  obtain ⟨⟨e, y⟩, hz, hw⟩ := List.mem_filterMap.mp h
  have hmem := (List.of_mem_zip hz).1
  cases hy : y.2.2 with
  | fault c => simp only [hy] at hw; cases hw
  | ok p =>
    simp only [hy] at hw
    cases hw
    exact ⟨⟨e, hmem, rfl⟩, List.mem_filterMap.mpr ⟨(e, y), hz, by simp only [hy]⟩⟩

/-- Elements of whole lines are zeroed line by line. -/
theorem foldl_applyElem (k : Nat) (sm : Byte) : ∀ (ws : List (Nat × Nat × Nat)) (s : State), (∀ w ∈ ws, w.2.1 = 128) →
    ws.foldl (fun s w => s.applyElem k none sm 0 w.1 w.2.1 w.2.2) s = (ws.map (fun w => w.1 / 128)).foldl (fun s l => s.zeroLine k l) s
  | [], _, _ => rfl
  | w :: ws, s, h => by
    have hw : s.applyElem k none sm 0 w.1 w.2.1 w.2.2 = s.zeroLine k (w.1 / 128) := if_pos (h w List.mem_cons_self)
    rw [List.foldl_cons, hw, foldl_applyElem k sm ws _ fun x hx => h x (List.mem_cons_of_mem _ hx)]
    rfl

theorem zeroElems_size {xs : List (Nat × Nat × Nat)} : ∀ e ∈ zeroElems xs, e.2.2.1 = 128 := by
  intro e he
  obtain ⟨x, -, he⟩ := List.mem_flatMap.mp he
  obtain ⟨j, -, rfl⟩ := List.mem_map.mp he
  rfl

theorem length_xlateAll (s : State) (k : Nat) (acc : Acc) (xs : List (Nat × Nat)) : (s.xlateAll k acc xs).length = xs.length := by
  simp [State.xlateAll]

/-! ### A word that may leave its flag to the side log (R286) -/

section
variable {i : Instr} {s u : State} {form : Form} {b : State → Eff} {p : Pend}

/-- A word that some thread takes part in leaves its results outstanding, wherever its effect has changed no register. -/
theorem leavesPending_inFrame (hw : wordOf i s = some (form, b)) (ha : Acts s i) (hh : i.head? = some form.h)
    (hpart : form.h.uni = true ∨ s.me.part form.h ≠ 0) (hc : form.control = false) (hb : b s = .long u p) (hframe : ReleaseFrame s u) :
    LeavesPending i s (started s u i p) p := by
  obtain ⟨hcur, hr⟩ := hframe.sameRegs
  obtain ⟨hpc, hclh, hv, hsr, hp, hq, hfl, hpd⟩ := hr
  obtain ⟨w, hwin⟩ : ∃ w, w = u.ownWindow s.cur s.stale.length := ⟨_, rfl⟩
  have hwcur : w.cur = s.cur := by rw [hwin]; exact hcur
  have hstand : w.standAt s.cur = u.me := by rw [hwin, me_eq, hcur]; rfl
  have ht : started s u i p = w.start s.cur i form s.me p := by simp only [started, hw, hwin]
  have hlocal := localFrame_start w i form s.me p
  rw [hwcur, ← ht] at hlocal
  have hflagOf : u.me.flagOf form.h.sch = s.me.flagOf form.h.sch := by simp only [Stand.flagOf, hclh]
  obtain ⟨fl, hfl'⟩ := flagUp_eq u.me (s.me.flagOf form.h.sch)
  have hstart := start_participates (s := w) (k := s.cur) i p hpart
  rw [hstand, hflagOf, hfl'] at hstart
  obtain ⟨place, clpos, e⟩ := retire_stand ((w.setStand s.cur { u.me with flags := fl }).putLater s.cur
    { p with flag := if s.me.flagOf form.h.sch < 12 then some (s.me.flagOf form.h.sch) else none }) s.cur i form s.me hc
  rw [← hstart, ← ht, putLater_standAt, setStand_standAt] at e
  have hme : (started s u i p).me = (started s u i p).standAt s.cur := by rw [me_eq, hlocal.cur_eq, hwcur]
  refine ⟨exec_started hw ha hb, ?_⟩
  rw [hme, e, ← hpc, ← hv, ← hsr, ← hp, ← hq, ← hpd]
  refine ⟨rfl, rfl, rfl, rfl, rfl, form.h, u.me.pend.map p.contest, hh, List.length_map .., rfl, fun m => ?_⟩
  have hflags := flag_flagUp u.me (s.me.flagOf form.h.sch) m
  rw [hfl'] at hflags
  have hflag : u.me.flag m = s.me.flag m := by simp only [Stand.flag, hfl]
  rw [← hflag]
  exact hflags
end

section
variable {f : M96} {s : State}

/-- The word's flag falls later: some line of it went to the side log, now or before it waited. -/
def ZeroLate (f : M96) (s : State) (vas : List (Nat × Nat)) : Prop :=
  f.ord = 0 ∧ s.me.flagOf f.h.sch < 12 ∧ (faultPages (s.xlateAll s.cur .write vas) ≠ [] ∨ ∃ e ∈ s.myCore.slog, e.stand = s.cur ∧ e.word = s.me.issues)

def ZeroEnds (f : M96) (s : State) (vas : List (Nat × Nat)) (t : State) : Prop :=
  (¬ZeroLate f s vas → PassesWith (.zero f) s t) ∧ (ZeroLate f s vas → LeavesPending (.zero f) s t { Pend.empty with on := .log s.me.issues })

/-- What the end of a word keeps of its effect. -/
structure EndsAs (s u t : State) : Prop where
  copses : t.copses = s.copses
  launches : t.launches = s.launches
  line : ∀ l, t.line l = u.line l
  posted : t.posted = u.posted
  slog : (t.coreAt s.myCoreKey).slog = (u.coreAt s.myCoreKey).slog

theorem endsAs_of_local {u t : State} (hlocal : LocalFrame u t) (hframe : ReleaseFrame s u) : EndsAs s u t := by
  have hl1 := hlocal.l1_eq
  obtain ⟨⟨hcur, -, hco, hla⟩, -⟩ := hframe
  have hcore : u.myCoreKey = s.myCoreKey := by simp only [State.myCoreKey, State.coreOf, State.copseAt, hcur, hco]
  obtain ⟨⟨-, -, -, -, -, -, -, -, hlaunches, -, -, hframes, hdir, -, -, -, -, -, -, -, -, hposted, -⟩, hcopses, -, -, -, ⟨-, hslog, -⟩, -⟩ := hlocal
  refine ⟨hcopses.trans hco, hlaunches.trans hla, fun l => line_eq (by simp only [State.dirAt, hdir]) (fun c => by simp only [State.l1At, hl1]) (by rw [hframes]),
    hposted, ?_⟩
  rw [← hcore]
  exact hslog

theorem zero_form (f : M96) (s : State) : wordOf (.zero f) s = some (formZero f, bodyZero f) := rfl

theorem zero_ends_done {u : State} {vas : List (Nat × Nat)} (ha : Acts s (.zero f)) (hb : bodyZero f s = .done u) (hframe : ReleaseFrame s u)
    (hlate : ¬ZeroLate f s vas) : ∃ t, ZeroEnds f s vas t ∧ EndsAs s u t := by
  obtain ⟨hcur, hr⟩ := hframe.sameRegs
  exact ⟨_, ⟨fun _ => passesWith_done (zero_form f s) ha rfl hb hcur hr, fun h => absurd h hlate⟩, endsAs_of_local (localFrame_behind hcur _) hframe⟩

theorem zero_participates (h : zeroElems (s.ranges f) ≠ []) : f.h.uni = true ∨ s.me.part f.h ≠ 0 := by
  cases hu : f.h.uni with
  | true => exact .inl rfl
  | false =>
    refine .inr fun hnone => h ?_
    have hdoing : s.me.doing f.h = [] := by
      unfold Stand.doing
      rw [hu, hnone, lanes_zero]
      rfl
    unfold State.ranges State.eas
    simp only [hdoing]
    rfl

/-- A plain `zero` ends at once, or leaves its flag to the side log (R286). -/
theorem zero_ends_plain {u : State} {new : List LogEntry} (ha : Acts s (.zero f)) (hord : f.ord = 0) (hes : zeroElems (s.ranges f) ≠ [])
    {vas : List (Nat × Nat)} (hb : bodyZero f s = zeroFlag f (.done u)) (hframe : ReleaseFrame s u)
    (hslog : (u.coreAt s.myCoreKey).slog = s.myCore.slog ++ new) (hnew : ∀ e ∈ new, e.stand = s.cur ∧ e.word = s.me.issues)
    (hlen : new.length = (faultPages (s.xlateAll s.cur .write vas)).length) : ∃ t, ZeroEnds f s vas t ∧ EndsAs s u t := by
  obtain ⟨hcur, hr⟩ := hframe.sameRegs
  have hissues : u.me.issues = s.me.issues := by
    obtain ⟨_, _, _, _, e⟩ := hframe.me
    rw [e]
  have hflagOf : u.me.flagOf f.h.sch = s.me.flagOf f.h.sch := by
    obtain ⟨-, hclh, -⟩ := hr
    simp only [Stand.flagOf, hclh]
  have hmine : u.myCore.slog = s.myCore.slog ++ new := by
    obtain ⟨⟨-, -, hco, -⟩, -⟩ := hframe
    have hcore : u.myCoreKey = s.myCoreKey := by simp only [State.myCoreKey, State.coreOf, State.copseAt, hcur, hco]
    rw [← hslog, ← hcore]
    rfl
  have hcond : (decide (u.me.flagOf f.h.sch < 12) && u.myCore.slog.any (fun x => x.stand == u.cur && x.word == u.me.issues)) = true ↔ ZeroLate f s vas := by
    rw [hflagOf, hmine, hcur, hissues, Bool.and_eq_true, decide_eq_true_iff, List.any_append, Bool.or_eq_true, List.any_eq_true, List.any_eq_true]
    unfold ZeroLate
    have hany : (∃ x ∈ new, (x.stand == s.cur && x.word == s.me.issues) = true) ↔ faultPages (s.xlateAll s.cur .write vas) ≠ [] := by
      rw [← List.length_pos_iff_ne_nil, ← hlen, List.length_pos_iff_exists_mem]
      exact ⟨fun ⟨x, hx, _⟩ => ⟨x, hx⟩, fun ⟨x, hx⟩ => ⟨x, hx, by simp [hnew x hx]⟩⟩
    rw [hany]
    simp only [Bool.and_eq_true, beq_iff_eq, hord, true_and]
    exact and_congr_right fun _ => or_comm
  by_cases hlate : ZeroLate f s vas
  · have hlong : bodyZero f s = .long u { Pend.empty with on := .log s.me.issues } := by
      rw [hb, ← hissues]
      exact if_pos (hcond.mpr hlate)
    exact ⟨_, ⟨fun h => absurd hlate h, fun _ => leavesPending_inFrame (zero_form f s) ha rfl (zero_participates hes) rfl hlong hframe⟩,
      endsAs_of_local (localFrame_outstanding hcur _ _) hframe⟩
  · refine zero_ends_done ha (hb.trans ?_) hframe hlate
    exact if_neg fun h => hlate (hcond.mp h)
end

end Sys2Proof.Machine
end

section
/-! SUPPORT. How `zero` goes through its checks, its waits and its lines (spec/12 R255, R286, R290). -/

namespace Sys2Proof.Machine

section
variable {f : M96} {s : State}

/-- The accesses of `zero`: thread and address of each line. -/
def zeroVas (f : M96) (s : State) : List (Nat × Nat) := (zeroElems (s.ranges f)).map (fun e => (e.1, e.2.1))

/-- Their translations. -/
def zeroXlates (f : M96) (s : State) : List (Nat × Nat × Xl (Nat × Leaf)) := s.xlateAll s.cur .write (zeroVas f s)

theorem bodyZero_bad {r : TrapReq} (h : rangeBad (.zero f) f 2 true (s.ranges f) = some r) : bodyZero f s = .trap r := by
  unfold bodyZero
  simp only [h]

theorem bodyZero_empty (hin : Inside (s.ranges f) true) (hes : zeroElems (s.ranges f) = []) : bodyZero f s = .done s := by
  unfold bodyZero
  simp only [rangeBad_inside (.zero f) f 2 hin]
  exact if_pos hes

section
variable (hin : Inside (s.ranges f) true) (hes : zeroElems (s.ranges f) ≠ [])
include hin hes

theorem bodyZero_plain (hord : f.ord = 0) :
    bodyZero f s = zeroFlag f (s.writeElems (.zero f) f.h.uni (zeroElems (s.ranges f)) f.sm 0 none id) := by
  unfold bodyZero
  simp only [rangeBad_inside (.zero f) f 2 hin]
  exact (if_neg hes).trans (if_pos hord)

/-- What an ordered `zero` does once its accesses are translated or not. -/
def zeroReached (f : M96) (k : Nat) : Reach → Eff
  | .trap r => .trap r
  | .wait s => .stay s
  | .go s ys =>
    if s.me.fenceM.isSome then .stay s
    else if ys.any (fun y => s.stagedLine (y.2.2 / 128)) then .stay (s.holdWord (ys.map (fun y => y.2.2 / 128)))
    else if (s.release k f.sm).1 then .done (ys.foldl (fun s y => s.zeroLine k (y.2.2 / 128)) (s.release k f.sm).2)
    else .stay (s.release k f.sm).2

theorem bodyZero_ordered (hord : f.ord ≠ 0) :
    bodyZero f s = zeroReached f s.cur (s.reach (.zero f) f.h.uni .write 2 f.sm (zeroVas f s)) := by
  unfold bodyZero
  simp only [rangeBad_inside (.zero f) f 2 hin]
  refine (if_neg hes).trans ((if_neg hord).trans ?_)
  show _ = zeroReached f s.cur (s.reach (.zero f) f.h.uni .write 2 f.sm ((zeroElems (s.ranges f)).map (fun e => (e.1, e.2.1))))
  cases s.reach (.zero f) f.h.uni .write 2 f.sm ((zeroElems (s.ranges f)).map (fun e => (e.1, e.2.1))) with
  | trap r => rfl
  | wait u => rfl
  | go u ys =>
    unfold zeroReached
    simp only
    split_ifs with h1 h2 h3
    · rfl
    · rfl
    · split
      · next h => rw [h] at h3; cases h3
      · next h => rw [h]
    · split
      · next h => rw [h]
      · next h => rw [h] at h3; exact absurd rfl h3
end

/-! ### Traps and waits (R244, R245, R255) -/

theorem zero_traps (ha : Acts s (.zero f)) (hin : Inside (s.ranges f) true) : TranslationTraps (.zero f) s .write 2 (zeroVas f s) := by
  intro c va ts himm
  have hes : zeroElems (s.ranges f) ≠ [] := fun h => by
    unfold zeroVas at himm
    rw [h] at himm
    cases himm
  refine trapsWith_of_trap (r := accessTrap (.zero f) f.h.uni 3 c va 2 false f.sm ts) (zero_form f s) ha ?_ ⟨rfl, rfl, rfl, rfl⟩
  by_cases hord : f.ord = 0
  · rw [bodyZero_plain hin hes hord]
    unfold State.writeElems
    unfold zeroVas at himm
    simp only [himm]
    rfl
  · rw [bodyZero_ordered hin hes hord]
    unfold State.reach
    simp only [himm]
    rfl

/-- A word held on page requests waits on them. -/
theorem waits_holdPages {ps : List (Nat × Nat × Nat × List Nat)} (ha : Acts s (.zero f))
    (hb : bodyZero f s = .stay (s.holdPages s.cur (.zero f) f.h.uni 2 f.sm ps)) :
    ∃ t ids, WaitsWith (.zero f) s t ∧ t.me.wait = .page ids none ∧ ids.length = ps.length ∧ SameMemory s t := by
  obtain ⟨u, ids, haside, hlen, hhold⟩ := holdPages_spec s s.cur (.zero f) f.h.uni 2 f.sm ps
  rw [hhold] at hb
  obtain ⟨v, hv⟩ : ∃ v, v = u.setStand s.cur { s.standAt s.cur with wait := .page ids none } := ⟨_, rfl⟩
  rw [← hv] at hb
  have hcur : v.cur = s.cur := by rw [hv]; exact haside.cur
  have hme : v.me = { s.me with wait := .page ids none } := by rw [me_eq, hcur, hv, setStand_standAt]; rfl
  refine ⟨_, ids, waitsWith_stayed (zero_form f s) ha hb hcur (by rw [hme]; exact sameRegs_refl s.me), ?_, hlen, ?_⟩
  · rw [State.stalled, me_eq, setStand_cur, hcur, setStand_standAt, ← hcur, ← me_eq, hme]
  · exact (haside.sameMemory.trans (by rw [hv]; exact sameMemory_setStand u _ _)).trans (sameMemory_setStand v _ _)

theorem zero_holds (ha : Acts s (.zero f)) (hin : Inside (s.ranges f) true) (hord : f.ord ≠ 0) : HoldsOnPages (.zero f) s .write (zeroVas f s) := by
  intro himm hlog hfault
  have hes : zeroElems (s.ranges f) ≠ [] := fun h => by
    unfold zeroVas at hfault
    rw [h] at hfault
    exact hfault rfl
  refine waits_holdPages ha ?_
  rw [bodyZero_ordered hin hes hord]
  unfold State.reach
  simp only [himm]
  rw [if_neg (show ¬s.pageLogged (s.coreOf s.cur) (zeroVas f s) = true from fun h => absurd (hlog.symm.trans h) (by decide))]
  cases hps : faultPages (s.xlateAll s.cur .write (zeroVas f s)) with
  | nil => exact absurd hps hfault
  | cons p ps => rfl

/-! ### Plain `zero` (R255) -/

/-- The lines that `zero` reaches. -/
def zeroLines (f : M96) (s : State) : List Nat := (translated (zeroXlates f s)).map (fun y => y.2.2 / 128)

/-- The machine once a plain `zero` has written and logged its lines. -/
def zeroWritten (f : M96) (s : State) : State :=
  (faultPages (zeroXlates f s)).foldl (fun s' p => s'.logPage s.cur f.h.uni none f.sm 0 (zeroElems (s.ranges f)) p)
    ((zeroLines f s).foldl (fun s' l => s'.zeroLine s.cur l) (s.keepTlb s.cur (zeroXlates f s)))

theorem elemWork_lines (f : M96) (s : State) : (elemWork (zeroElems (s.ranges f)) (zeroXlates f s)).map (fun w => w.1 / 128) = zeroLines f s := by
  have h := elemWork_map_fst (zeroElems (s.ranges f)) (zeroXlates f s) (by unfold zeroXlates zeroVas; rw [length_xlateAll, List.length_map])
  have h' := congrArg (List.map (fun n => n / 128)) h
  rw [List.map_map, List.map_map] at h'
  exact h'

theorem elemWork_size {w : Nat × Nat × Nat} (h : w ∈ elemWork (zeroElems (s.ranges f)) (zeroXlates f s)) : w.2.1 = 128 := by
  obtain ⟨⟨e, he, hw⟩, -⟩ := mem_elemWork h
  rw [hw]
  exact zeroElems_size e he

section
variable (hin : Inside (s.ranges f) true) (hes : zeroElems (s.ranges f) ≠ []) (hord : f.ord = 0)
  (himm : immediate (zeroXlates f s) = none) (hlog : s.pageLogged s.myCoreKey (zeroVas f s) = false) (hfence : s.me.fenceM = none)
include hin hes hord himm hlog hfence

theorem writeElems_full (hfull : sideLogSize - s.myCore.slog.length < (faultPages (zeroXlates f s)).length) :
    bodyZero f s = .stay (s.holdPages s.cur (.zero f) f.h.uni 2 f.sm (faultPages (zeroXlates f s))) := by
  rw [bodyZero_plain hin hes hord]
  refine congrArg (zeroFlag f) (a₂ := .stay _) ?_
  unfold State.writeElems
  unfold zeroXlates zeroVas at himm hfull ⊢
  unfold zeroVas at hlog
  simp only [himm]
  refine (if_neg ?_).trans (if_pos hfull)
  rw [hfence]
  exact fun h => absurd (hlog.symm.trans ((Bool.or_false _).symm.trans h)) (by decide)

theorem writeElems_done (hroom : ¬sideLogSize - s.myCore.slog.length < (faultPages (zeroXlates f s)).length)
    (hfree : ∀ w ∈ elemWork (zeroElems (s.ranges f)) (zeroXlates f s), s.elemWaits s.cur none f.sm w.1 w.2.1 = false) :
    bodyZero f s = zeroFlag f (.done (zeroWritten f s)) := by
  have hany : ¬((elemWork (zeroElems (s.ranges f)) (zeroXlates f s)).any (fun w => s.elemWaits s.cur none f.sm w.1 w.2.1) = true) := fun h => by
    obtain ⟨w, hw, hwait⟩ := List.any_eq_true.mp h
    exact absurd ((hfree w hw).symm.trans hwait) (by decide)
  have hwork := foldl_applyElem s.cur f.sm (elemWork (zeroElems (s.ranges f)) (zeroXlates f s)) (s.keepTlb s.cur (zeroXlates f s))
    fun w hw => elemWork_size hw
  rw [elemWork_lines] at hwork
  rw [bodyZero_plain hin hes hord]
  congr 1
  unfold zeroWritten
  rw [← hwork]
  unfold State.writeElems
  unfold elemWork zeroXlates zeroVas at *
  simp only [himm]
  refine (if_neg ?_).trans ((if_neg hroom).trans (if_neg hany))
  rw [hfence]
  exact fun h => absurd (hlog.symm.trans ((Bool.or_false _).symm.trans h)) (by decide)
end

/-- What a plain `zero` leaves beside memory. -/
theorem zeroWritten_spec (f : M96) (s : State) : ReleaseFrame s (zeroWritten f s) ∧ (∀ l, (zeroWritten f s).line l =
      ((zeroLines f s).foldl (fun s' l => s'.zeroLine s.cur l) (s.keepTlb s.cur (zeroXlates f s))).line l) ∧
    (zeroWritten f s).posted = ((zeroLines f s).foldl (fun s' l => s'.zeroLine s.cur l) (s.keepTlb s.cur (zeroXlates f s))).posted ∧
    ∃ ids : List Nat, ids.length = (faultPages (zeroXlates f s)).length ∧ ((zeroWritten f s).coreAt s.myCoreKey).slog = s.myCore.slog ++
      ((faultPages (zeroXlates f s)).zip ids).map (fun x => logEntry s s.cur f.h.uni none f.sm 0 (zeroElems (s.ranges f)) x.1 x.2) := by
  obtain ⟨hkeep, hkslog⟩ := aside_keepTlb s s.cur (zeroXlates f s)
  have hzero := memFrame_zeroLines s.cur (zeroLines f s) (s.keepTlb s.cur (zeroXlates f s))
  obtain ⟨v, hv⟩ : ∃ v, v = (zeroLines f s).foldl (fun s' l => s'.zeroLine s.cur l) (s.keepTlb s.cur (zeroXlates f s)) := ⟨_, rfl⟩
  rw [← hv] at hzero
  obtain ⟨ids, hlen, haside, hslog⟩ := logPages_spec s.cur f.h.uni none f.sm 0 (zeroElems (s.ranges f)) (faultPages (zeroXlates f s)) v
  have hcore : v.coreOf s.cur = s.myCoreKey := (hzero.coreOf_eq _).trans (hkeep.coreOf _)
  have hvslog : (v.coreAt s.myCoreKey).slog = s.myCore.slog := by
    obtain ⟨-, -, hco, -⟩ := hzero
    obtain ⟨x, e⟩ := hco s.myCoreKey
    rw [e]
    exact hkslog _
  have hframe : ReleaseFrame s v := hkeep.releaseFrame.trans hzero.releaseFrame
  have hentry : logEntry v s.cur f.h.uni none f.sm 0 (zeroElems (s.ranges f)) = logEntry s s.cur f.h.uni none f.sm 0 (zeroElems (s.ranges f)) := by
    obtain ⟨-, hst⟩ := hframe
    obtain ⟨_, _, _, _, e⟩ := hst s.cur
    unfold logEntry
    rw [e]
  rw [hcore, hvslog, hentry] at hslog
  unfold zeroWritten
  rw [← hv]
  exact ⟨hframe.trans haside.releaseFrame, haside.line, haside.posted, ids, hlen, hslog⟩

theorem logEntries_pages {k : Nat} {uni : Bool} {op : Option (BitVec 3 × BitVec 5)} {sm : Byte} {es : List Elem} (s : State) :
    ∀ (ps : List (Nat × Nat × Nat × List Nat)) (ids : List Nat), ids.length = ps.length →
      ((ps.zip ids).map (fun x => logEntry s k uni op sm 0 es x.1 x.2)).map (fun e => (e.stand, e.page, e.cause)) = ps.map (fun p => (k, p.1, p.2.1))
  | [], _, _ => rfl
  | p :: ps, id :: ids, h => by
    rw [List.zip_cons_cons, List.map_cons, List.map_cons, List.map_cons, logEntries_pages s ps ids (Nat.succ.inj h)]
    rfl

theorem zero_sideLogs (ha : Acts s (.zero f)) (hin : Inside (s.ranges f) true) (hes : zeroElems (s.ranges f) ≠ []) (hord : f.ord = 0) :
    SideLogs (.zero f) s f.h.uni (zeroElems (s.ranges f)) f.sm none (ZeroEnds f s (zeroVas f s)) := by
  intro himm hlog hfence hfree
  refine ⟨fun hroom => ?_, fun hsize hfull => ?_⟩
  · have hb := writeElems_done hin hes hord himm hlog hfence (show ¬64 - s.myCore.slog.length < (faultPages (zeroXlates f s)).length from fun h => by
      unfold zeroXlates zeroVas at h
      omega)
      fun w hw => hfree _ (mem_elemWork hw).2
    obtain ⟨hframe, -, -, ids, hlen, hslog⟩ := zeroWritten_spec f s
    obtain ⟨new, hnew⟩ : ∃ new, new = ((faultPages (zeroXlates f s)).zip ids).map
      (fun x => logEntry s s.cur f.h.uni none f.sm 0 (zeroElems (s.ranges f)) x.1 x.2) := ⟨_, rfl⟩
    rw [← hnew] at hslog
    have hmem : ∀ e ∈ new, ∃ p id, e = logEntry s s.cur f.h.uni none f.sm 0 (zeroElems (s.ranges f)) p id := fun e he => by
      rw [hnew] at he
      obtain ⟨x, -, rfl⟩ := List.mem_map.mp he
      exact ⟨_, _, rfl⟩
    obtain ⟨t, hends, hend⟩ := zero_ends_plain (vas := zeroVas f s) ha hord hes hb hframe hslog
      (fun e he => by obtain ⟨p, id, rfl⟩ := hmem e he; exact ⟨rfl, rfl⟩) (by rw [hnew, List.length_map, List.length_zip, hlen, Nat.min_self]; rfl)
    refine ⟨t, new, hends, hend.slog.trans hslog, ?_, fun e he => ?_⟩
    · rw [hnew]
      exact logEntries_pages s _ ids hlen
    · obtain ⟨p, id, rfl⟩ := hmem e he
      exact ⟨rfl, rfl, rfl, rfl⟩
  · have hb := writeElems_full hin hes hord himm hlog hfence (show 64 - s.myCore.slog.length < (faultPages (zeroXlates f s)).length by
      unfold zeroXlates zeroVas
      omega)
    obtain ⟨t, ids, hwait, hpage, -, hmem⟩ := waits_holdPages ha hb
    exact ⟨t, ids, hwait, hpage, hmem⟩

/-! ### Lines that all translate (R290) -/

section
variable (ha : Acts s (.zero f)) (hin : Inside (s.ranges f) true) (hes : zeroElems (s.ranges f) ≠ []) (hall : AllTranslate s .write (zeroVas f s))
  (hfence : s.me.fenceM = none)
  (hfree : ∀ y ∈ translated (zeroXlates f s), s.stagedLine (y.2.2 / 128) = false ∧ isWindow y.2.2 = false)
include hfree

theorem zeroLines_plain : ∀ l ∈ zeroLines f s, isWindow (128 * l) = false := by
  intro l hl
  obtain ⟨y, hy, rfl⟩ := List.mem_map.mp hl
  have hwin := (hfree y hy).2
  rwa [← Nat.div_add_mod y.2.2 128, isWindow_line (y.2.2 / 128) (y.2.2 % 128) (Nat.mod_lt _ (by omega))] at hwin

/-- Behind its lines every one of them is a line of zeros. -/
theorem zeroes {u v t : State} (hcore : u.coreOf s.cur = s.myCoreKey) (hv : v = (zeroLines f s).foldl (fun s' l => s'.zeroLine s.cur l) u)
    (hline : ∀ l, t.line l = v.line l) : ∀ y ∈ translated (zeroXlates f s), ∀ a, a / 128 = y.2.2 / 128 → t.homeGet a = 0 ∧ byteSeen t s.myCoreKey a = 0 := by
  have hplain := zeroLines_plain hfree
  obtain ⟨-, -, hzero⟩ := foldl_zeroLine s.cur (zeroLines f s) u hplain
  intro y hy a ha
  have hmem : a / 128 ∈ zeroLines f s := List.mem_map.mpr ⟨y, hy, ha.symm⟩
  have hz := hzero _ hmem
  rw [← hv, hcore] at hz
  have hz' := hz.of_line (hplain _ hmem) (hline _)
  exact ⟨hz'.1 a rfl, hz'.byteSeen⟩

include ha hin hes hall hfence

/-- A plain `zero` zeroes its lines and no other. -/
theorem zero_plain (hord : f.ord = 0) : ∃ t, ZeroEnds f s (zeroVas f s) t ∧ t.copses = s.copses ∧
    (∀ y ∈ translated (zeroXlates f s), ∀ a, a / 128 = y.2.2 / 128 → t.homeGet a = 0 ∧ byteSeen t s.myCoreKey a = 0) ∧
    ∀ core pa, (∀ y ∈ translated (zeroXlates f s), y.2.2 / 128 ≠ pa / 128) → byteSeen t core pa = byteSeen s core pa := by
  obtain ⟨himm, hlog, hfault⟩ := hall
  have hnone : (faultPages (zeroXlates f s)).length = 0 := by
    unfold zeroXlates
    rw [hfault]
    rfl
  have hb := writeElems_done hin hes hord himm hlog hfence (by rw [hnone]; exact Nat.not_lt_zero _) fun w hw => by
    obtain ⟨y, hy, hpa⟩ : ∃ y ∈ translated (zeroXlates f s), y.2.2 / 128 = w.1 / 128 := by
      have hl : w.1 / 128 ∈ zeroLines f s := by rw [← elemWork_lines]; exact List.mem_map_of_mem hw
      exact List.mem_map.mp hl
    unfold State.elemWaits
    simp only
    rw [if_pos (elemWork_size hw), ← hpa]
    exact (hfree y hy).1
  obtain ⟨hframe, hline, hposted, ids, hlen, hslog⟩ := zeroWritten_spec f s
  obtain ⟨t, hends, hend⟩ := zero_ends_plain (vas := zeroVas f s) ha hord hes hb hframe hslog (fun e he => by
    obtain ⟨x, -, rfl⟩ := List.mem_map.mp he
    exact ⟨rfl, rfl⟩) (by rw [List.length_map, List.length_zip, hlen, Nat.min_self]; rfl)
  obtain ⟨hkeep, -⟩ := aside_keepTlb s s.cur (zeroXlates f s)
  obtain ⟨hposted', hothers, -⟩ := foldl_zeroLine s.cur (zeroLines f s) (s.keepTlb s.cur (zeroXlates f s)) (zeroLines_plain hfree)
  refine ⟨t, hends, hend.copses, zeroes hfree (hkeep.coreOf _) rfl fun l => (hend.line l).trans (hline l), fun core pa hpa => ?_⟩
  refine byteSeen_of_line ?_ (hend.posted.trans (hposted.trans (hposted'.trans hkeep.posted))) core rfl
  refine (hend.line _).trans ((hline _).trans ((hothers _ fun hin => ?_).trans (hkeep.line _)))
  obtain ⟨y, hy, he⟩ := List.mem_map.mp hin
  exact hpa y hy he

/-- An ordered `zero` is a release first, which it waits for; then it zeroes its lines (R300). -/
theorem zero_ordered (hord : f.ord ≠ 0) :
    let r := (s.keepTlb s.cur (zeroXlates f s)).release s.cur f.sm
    (r.1 = false → ∃ t, WaitsWith (.zero f) s t ∧ ∀ pa b, Holds t pa b → Holds s pa b) ∧
      (r.1 = true → ∃ t, ZeroEnds f s (zeroVas f s) t ∧ t.copses = s.copses ∧
        ∀ y ∈ translated (zeroXlates f s), ∀ a, a / 128 = y.2.2 / 128 → t.homeGet a = 0 ∧ byteSeen t s.myCoreKey a = 0) := by
  intro r
  obtain ⟨himm, hlog, hfault⟩ := hall
  obtain ⟨hkeep, -⟩ := aside_keepTlb s s.cur (zeroXlates f s)
  have hreach : s.reach (.zero f) f.h.uni .write 2 f.sm (zeroVas f s) = .go (s.keepTlb s.cur (zeroXlates f s)) (translated (zeroXlates f s)) := by
    unfold State.reach
    simp only [himm, hfault]
    exact if_neg fun h => absurd (hlog.symm.trans h) (by decide)
  have hnofence : ¬((s.keepTlb s.cur (zeroXlates f s)).me.fenceM.isSome = true) := by
    rw [me_eq, hkeep.cur, hkeep.standAt, ← me_eq, hfence]
    decide
  have hnostaged : ¬((translated (zeroXlates f s)).any (fun y => (s.keepTlb s.cur (zeroXlates f s)).stagedLine (y.2.2 / 128)) = true) := fun h => by
    obtain ⟨y, hy, hst⟩ := List.any_eq_true.mp h
    unfold State.stagedLine State.dirAt at hst
    rw [hkeep.dir] at hst
    exact absurd ((hfree y hy).1.symm.trans hst) (by decide)
  have hb := bodyZero_ordered hin hes hord
  rw [hreach] at hb
  have hrelease : ReleaseFrame s r.2 := hkeep.releaseFrame.trans (releaseFrame_release _ _ _)
  have hrest : zeroReached f s.cur (.go (s.keepTlb s.cur (zeroXlates f s)) (translated (zeroXlates f s))) =
      if r.1 then .done ((translated (zeroXlates f s)).foldl (fun s' y => s'.zeroLine s.cur (y.2.2 / 128)) r.2) else .stay r.2 :=
    (if_neg hnofence).trans (if_neg hnostaged)
  rw [hrest] at hb
  refine ⟨fun hheld => ?_, fun hdone => ?_⟩
  · rw [hheld, if_neg Bool.false_ne_true] at hb
    obtain ⟨hcur, hr⟩ := hrelease.sameRegs
    refine ⟨_, waitsWith_stayed (zero_form f s) ha hb hcur hr, ?_⟩
    have hfewer : Fewer s r.2 := (fewer_of_lines hkeep.line hkeep.posted).trans (fewer_release _ _ _)
    exact hfewer.trans (fewer_of_lines (fun _ => rfl) rfl)
  · rw [hdone, if_pos rfl] at hb
    have hfold : (translated (zeroXlates f s)).foldl (fun s' y => s'.zeroLine s.cur (y.2.2 / 128)) r.2 =
        (zeroLines f s).foldl (fun s' l => s'.zeroLine s.cur l) r.2 := by
      unfold zeroLines
      rw [List.foldl_map]
    rw [hfold] at hb
    obtain ⟨t, hends, hend⟩ := zero_ends_done (vas := zeroVas f s) ha hb (hrelease.trans (memFrame_zeroLines s.cur _ _).releaseFrame) fun h => hord h.1
    have hcore : r.2.coreOf s.cur = s.myCoreKey := by
      obtain ⟨⟨-, -, hco, -⟩, -⟩ := hrelease
      simp only [State.coreOf, State.copseAt, hco, State.myCoreKey]
    exact ⟨t, hends, hend.copses, zeroes hfree hcore rfl hend.line⟩
end
end

/-- Settles O34: word by word, from what each operation does of one line. -/
theorem cacheMaintenanceByRange : Obligations.CacheMaintenanceByRange := by
  unfold Obligations.CacheMaintenanceByRange
  intro f s xs own vi beyond inside ops lvl
  refine ⟨fun ha => maintains_cmoCln ha, fun ha => maintains_cmoInv ha, fun ha => maintains_cmoCinv ha,
    fun ha => ⟨dsc_waits ha, maintains_dsc ha⟩, fun ha => maintains_pin ha, fun ha => maintains_unpin ha, fun ha => ?_⟩
  intro es vas ys r late ends
  refine ⟨beyond_of f 2 (zero_form f s) ha fun _ => bodyZero_bad, fun hin => ⟨fun hes => ?_, zero_traps ha hin, zero_holds ha hin,
    fun hord hes => zero_sideLogs ha hin hes hord, fun hes hall hfence hfree => ⟨fun hord => ?_, fun hgo => ?_⟩⟩⟩
  · obtain ⟨hpass, -, -, hline, hposted⟩ := passes_done (zero_form f s) ha rfl (bodyZero_empty hin hes) (releaseFrame_refl s)
    exact ⟨_, hpass, (sameMemory_refl s).of_lines hline hposted⟩
  · exact (zero_ordered ha hin hes hall hfence hfree hord).1
  · by_cases hord : f.ord = 0
    · obtain ⟨t, hends, hcopses, hzero, hothers⟩ := zero_plain ha hin hes hall hfence hfree hord
      exact ⟨t, hends, hcopses, hzero, fun _ => hothers⟩
    · obtain ⟨t, hends, hcopses, hzero⟩ := (zero_ordered ha hin hes hall hfence hfree hord).2 (hgo.resolve_left hord)
      exact ⟨t, hends, hcopses, hzero, fun h => absurd h hord⟩

end Sys2Proof.Machine
end

section
/-! SUPPORT. The bits of a completion record and their fields (spec/15 R354, R355, R358). -/

namespace Sys2Proof.Machine

/-! ### Fields of a number -/

theorem testBit_bits (x hi lo j : Nat) : (bits x hi lo).testBit j = (decide (j < hi + 1 - lo) && x.testBit (lo + j)) := by
  rw [bits, Nat.testBit_mod_two_pow, Nat.testBit_div_two_pow, Nat.add_comm j lo]

/-- A field replaced, by the part above, the field and the part below. -/
theorem setBits_parts (x hi lo v : Nat) (h : lo ≤ hi + 1) :
    setBits x hi lo v = 2 ^ lo * (2 ^ (hi + 1 - lo) * (x / 2 ^ (hi + 1)) + v % 2 ^ (hi + 1 - lo)) + x % 2 ^ lo := by
  have hpow : 2 ^ (hi + 1) = 2 ^ lo * 2 ^ (hi + 1 - lo) := by rw [← pow_add]; congr 1; omega
  have hlow := Nat.div_add_mod x (2 ^ lo)
  have hhigh := Nat.div_add_mod (x / 2 ^ lo) (2 ^ (hi + 1 - lo))
  rw [Nat.div_div_eq_div_mul, ← hpow] at hhigh
  unfold setBits bits
  generalize x % 2 ^ lo = c at *
  generalize x / 2 ^ lo % 2 ^ (hi + 1 - lo) = b at *
  generalize v % 2 ^ (hi + 1 - lo) = d at *
  generalize x / 2 ^ (hi + 1) = a at *
  rw [← hhigh] at hlow
  rw [← hlow, Nat.mul_add, Nat.mul_add, Nat.mul_comm b, Nat.mul_comm d]
  omega

theorem testBit_setBits (x hi lo v j : Nat) (h : lo ≤ hi + 1) :
    (setBits x hi lo v).testBit j = if j < lo then x.testBit j else if j ≤ hi then v.testBit (j - lo) else x.testBit j := by
  rw [setBits_parts x hi lo v h, Nat.testBit_two_pow_mul_add _ (Nat.mod_lt _ (Nat.two_pow_pos lo))]
  by_cases hlo : j < lo
  · rw [if_pos hlo, if_pos hlo, Nat.testBit_mod_two_pow]
    simp [hlo]
  · rw [if_neg hlo, if_neg hlo, Nat.testBit_two_pow_mul_add _ (Nat.mod_lt _ (Nat.two_pow_pos _))]
    by_cases hhi : j ≤ hi
    · rw [if_pos (by omega), if_pos hhi, Nat.testBit_mod_two_pow]
      simp only [show j - lo < hi + 1 - lo by omega, decide_true, Bool.true_and]
    · rw [if_neg (by omega), if_neg hhi, Nat.testBit_div_two_pow]
      congr 1
      omega

theorem bits_setBits_apart (x hi lo v hi' lo' : Nat) (h : lo ≤ hi + 1) (hapart : hi < lo' ∨ hi' < lo) :
    bits (setBits x hi lo v) hi' lo' = bits x hi' lo' := by
  refine Nat.eq_of_testBit_eq fun j => ?_
  rw [testBit_bits, testBit_bits, testBit_setBits _ _ _ _ _ h]
  by_cases hj : j < hi' + 1 - lo'
  · congr 1
    rcases hapart with ha | ha
    · rw [if_neg (by omega), if_neg (by omega)]
    · rw [if_pos (by omega)]
  · simp [hj]

theorem bits_setBits_same (x hi lo v : Nat) (h : lo ≤ hi + 1) : bits (setBits x hi lo v) hi lo = v % 2 ^ (hi + 1 - lo) := by
  refine Nat.eq_of_testBit_eq fun j => ?_
  rw [testBit_bits, testBit_setBits _ _ _ _ _ h, Nat.testBit_mod_two_pow]
  by_cases hj : j < hi + 1 - lo
  · rw [if_neg (by omega), if_pos (by omega), Nat.add_sub_cancel_left]
  · simp [hj]

theorem bits_lt (x hi lo : Nat) : bits x hi lo < 2 ^ (hi + 1 - lo) := Nat.mod_lt _ (Nat.two_pow_pos _)

/-! ### Single bits in turn -/

/-- Some of sixteen bits set to one value. -/
def setEach (b v : Nat) (ks : List Nat) (r : Nat) : Nat := ks.foldl (fun r k => setBits r (b + k) (b + k) v) r

theorem testBit_setEach (b v j : Nat) : ∀ (ks : List Nat) (r : Nat),
    (setEach b v ks r).testBit j = if ∃ k ∈ ks, j = b + k then v.testBit 0 else r.testBit j
  | [], r => by simp [setEach]
  | k :: ks, r => by
    have ih := testBit_setEach b v j ks (setBits r (b + k) (b + k) v)
    rw [testBit_setBits _ _ _ _ _ (by omega)] at ih
    unfold setEach at ih ⊢
    rw [List.foldl_cons, ih]
    by_cases hks : ∃ m ∈ ks, j = b + m
    · obtain ⟨m, hm, rfl⟩ := hks
      rw [if_pos ⟨m, hm, rfl⟩, if_pos ⟨m, List.mem_cons_of_mem _ hm, rfl⟩]
    · rw [if_neg hks]
      by_cases hk : j = b + k
      · subst hk
        rw [if_neg (by omega), if_pos (by omega), if_pos ⟨k, List.mem_cons_self, rfl⟩, Nat.sub_self]
      · have hno : ¬∃ m ∈ k :: ks, j = b + m := by
          rintro ⟨m, hm, rfl⟩
          rcases List.mem_cons.mp hm with rfl | hm
          · exact hk rfl
          · exact hks ⟨m, hm, rfl⟩
        rw [if_neg hno]
        by_cases hlt : j < b + k
        · rw [if_pos hlt]
        · rw [if_neg hlt, if_neg (by omega)]

theorem bits_setEach_apart (b v hi lo : Nat) {ks : List Nat} (hks : ∀ k ∈ ks, k < 16) (h : hi < b ∨ b + 16 ≤ lo) (r : Nat) :
    bits (setEach b v ks r) hi lo = bits r hi lo := by
  refine Nat.eq_of_testBit_eq fun j => ?_
  rw [testBit_bits, testBit_bits, testBit_setEach]
  by_cases hj : j < hi + 1 - lo
  · rw [if_neg]
    rintro ⟨k, hk, e⟩
    have := hks k hk
    omega
  · simp [hj]

end Sys2Proof.Machine
end
section
/-! SUPPORT. A completion record as a number and as its fields: what a delivered line and a completed phase make of it (spec/15 R354-R358). -/

namespace Sys2Proof.Machine

/-! ### The view of a number -/

/-- The fields of a slot, from the record's number. -/
def recSlot (r i : Nat) : Nat × Nat × Nat × Nat := (recSID r i, recEXPL r i, recDELL r i, recNEXPL r i)

/-- The fields of a record, from its number. -/
def viewOf (r : Nat) : RecView :=
  ⟨recPH r, recBRK r, bits r 2 2, recNXV r, recVALID r, recEXPS r, recARRS r, recNEXPS r, BitVec.ofNat 16 (r / 2 ^ 32), BitVec.ofNat 16 (r / 2 ^ 48),
    (List.range 4).map (recSlot r)⟩

theorem recView_eq (s : State) (copse o : Nat) : recView s copse o = viewOf (s.recAt copse o) := rfl

theorem bits_congr {x y hi lo : Nat} (h : ∀ j, lo ≤ j → j ≤ hi → x.testBit j = y.testBit j) : bits x hi lo = bits y hi lo := by
  refine Nat.eq_of_testBit_eq fun j => ?_
  rw [testBit_bits, testBit_bits]
  by_cases hj : j < hi + 1 - lo
  · rw [h (lo + j) (by omega) (by omega)]
  · simp [hj]

theorem getLsbD_ofNat_div (r lo i : Nat) (h : i < 16) : (BitVec.ofNat 16 (r / 2 ^ lo)).getLsbD i = r.testBit (lo + i) := by
  rw [BitVec.getLsbD_ofNat, Nat.testBit_div_two_pow, Nat.add_comm i lo]
  simp [h]

theorem viewOf_mod (r : Nat) : viewOf (r % 2 ^ 256) = viewOf r := by
  have ht (j : Nat) (h : j < 256) : (r % 2 ^ 256).testBit j = r.testBit j := by rw [Nat.testBit_mod_two_pow]; simp [h]
  have hb (hi lo : Nat) (h : hi < 256) : bits (r % 2 ^ 256) hi lo = bits r hi lo := bits_congr fun j _ hj => ht j (by omega)
  have hp (lo : Nat) (h : lo ≤ 240) : BitVec.ofNat 16 (r % 2 ^ 256 / 2 ^ lo) = BitVec.ofNat 16 (r / 2 ^ lo) := by
    refine BitVec.eq_of_getLsbD_eq fun i hi => ?_
    rw [getLsbD_ofNat_div _ _ _ hi, getLsbD_ofNat_div _ _ _ hi, ht _ (by omega)]
  have hslots : (List.range 4).map (recSlot (r % 2 ^ 256)) = (List.range 4).map (recSlot r) := by
    refine List.map_congr_left fun i hi => ?_
    have hi := List.mem_range.mp hi
    unfold recSlot recSID recEXPL recDELL recNEXPL
    rw [hb _ _ (by omega), hb _ _ (by omega), hb _ _ (by omega), hb _ _ (by omega)]
  unfold viewOf recPH recBRK recNXV recVALID recEXPS recARRS recNEXPS
  rw [hslots, hp 32 (by omega), hp 48 (by omega), hb 0 0 (by omega), hb 1 1 (by omega), hb 2 2 (by omega), hb 3 3 (by omega), hb 4 4 (by omega),
    hb 12 8 (by omega), hb 17 13 (by omega), hb 22 18 (by omega)]

/-! ### One field of every slot -/

/-- A field of each slot set. -/
def setSlots (h l : Nat) (v : Nat → Nat) (r : Nat) : Nat := (List.range 4).foldl (fun x i => setBits x (64 + 48 * i + h) (64 + 48 * i + l) (v i)) r

theorem setSlots_eq (h l : Nat) (v : Nat → Nat) (r : Nat) : setSlots h l v r =
    setBits (setBits (setBits (setBits r (64 + 48 * 0 + h) (64 + 48 * 0 + l) (v 0)) (64 + 48 * 1 + h) (64 + 48 * 1 + l) (v 1))
      (64 + 48 * 2 + h) (64 + 48 * 2 + l) (v 2)) (64 + 48 * 3 + h) (64 + 48 * 3 + l) (v 3) := rfl

theorem bits_setSlots_apart {h l : Nat} (hlh : l ≤ h) (v : Nat → Nat) (r hi lo : Nat)
    (hapart : ∀ i, i < 4 → 64 + 48 * i + h < lo ∨ hi < 64 + 48 * i + l) : bits (setSlots h l v r) hi lo = bits r hi lo := by
  rw [setSlots_eq, bits_setBits_apart _ _ _ _ _ _ (by omega) (hapart 3 (by omega)), bits_setBits_apart _ _ _ _ _ _ (by omega) (hapart 2 (by omega)),
    bits_setBits_apart _ _ _ _ _ _ (by omega) (hapart 1 (by omega)), bits_setBits_apart _ _ _ _ _ _ (by omega) (hapart 0 (by omega))]

theorem bits_setSlots_same {h l : Nat} (hlh : l ≤ h) (hh : h < 48) (v : Nat → Nat) (r : Nat) {i : Nat} (hi : i < 4) :
    bits (setSlots h l v r) (64 + 48 * i + h) (64 + 48 * i + l) = v i % 2 ^ (h + 1 - l) := by
  have hsame (x v j : Nat) : bits (setBits x (64 + 48 * j + h) (64 + 48 * j + l) v) (64 + 48 * j + h) (64 + 48 * j + l) = v % 2 ^ (h + 1 - l) := by
    rw [bits_setBits_same _ _ _ _ (by omega)]
    congr 2
    omega
  have hother (x v i j : Nat) (hij : i ≠ j) : bits (setBits x (64 + 48 * j + h) (64 + 48 * j + l) v) (64 + 48 * i + h) (64 + 48 * i + l) =
      bits x (64 + 48 * i + h) (64 + 48 * i + l) := bits_setBits_apart _ _ _ _ _ _ (by omega) (by omega)
  rw [setSlots_eq]
  obtain rfl | rfl | rfl | rfl : i = 0 ∨ i = 1 ∨ i = 2 ∨ i = 3 := by omega
  · rw [hother _ _ 0 3 (by decide), hother _ _ 0 2 (by decide), hother _ _ 0 1 (by decide), hsame]
  · rw [hother _ _ 1 3 (by decide), hother _ _ 1 2 (by decide), hsame]
  · rw [hother _ _ 2 3 (by decide), hsame]
  · rw [hsame]

/-! ### A phase completes (R358) -/

/-- The held stands that a record takes into its phase. -/
def takenOf (r : Nat) : List Nat := ((List.range 16).filter (fun k => bitAt (recHELD r) k)).take (recEXPS r - recARRS r)

theorem takenOf_lt (r : Nat) : ∀ k ∈ takenOf r, k < 16 := fun _ hk => List.mem_range.mp (List.mem_filter.mp (List.mem_of_mem_take hk)).1

/-- The number of a record whose held stands have come into its phase. -/
def takeHeld (w : Nat → Bool) (r : Nat) : Nat :=
  setEach 32 1 ((takenOf r).filter w) (setBits (setEach 48 0 (takenOf r) r) 17 13 (recARRS r + (takenOf r).length))

/-- The number of a record that goes to its next phase, nobody parked. -/
def nextPhase (r : Nat) (broken : Bool) : Nat :=
  let r1 := setSlots 24 15 (fun i => if broken then 0 else recDELL r i - recEXPL r i) r
  let r2 := setBits (setBits (setBits r1 1 1 (if broken then 1 else 0)) 0 0 (1 - recPH r)) 17 13 0
  let r3 := if recNXV r = 1 then setBits (setBits (setSlots 14 5 (fun i => recNEXPL r i) r2) 12 8 (recNEXPS r)) 3 3 0 else r2
  setBits r3 47 32 0

theorem bits_takeHeld (w : Nat → Bool) (r hi lo : Nat) (h : hi < 13 ∨ 18 ≤ lo) (h' : hi < 32 ∨ 64 ≤ lo) :
    bits (takeHeld w r) hi lo = bits r hi lo := by
  unfold takeHeld
  rw [bits_setEach_apart 32 1 hi lo (fun k hk => takenOf_lt r k (List.mem_of_mem_filter hk)) (by omega),
    bits_setBits_apart _ _ _ _ _ _ (by omega) (by omega), bits_setEach_apart 48 0 hi lo (takenOf_lt r) (by omega)]

theorem takeHeld_arrs (w : Nat → Bool) (r : Nat) (h : recARRS r ≤ recEXPS r) : recARRS (takeHeld w r) = recARRS r + (takenOf r).length := by
  have hlen : (takenOf r).length ≤ recEXPS r - recARRS r := List.length_take_le _ _
  have hlt : recEXPS r < 32 := bits_lt r 12 8
  unfold takeHeld recARRS
  rw [bits_setEach_apart 32 1 17 13 (fun k hk => takenOf_lt r k (List.mem_of_mem_filter hk)) (by omega), bits_setBits_same _ _ _ _ (by omega)]
  exact Nat.mod_eq_of_lt (show recARRS r + (takenOf r).length < 2 ^ 5 by omega)

theorem takeHeld_park (w : Nat → Bool) (r i : Nat) (hi : i < 16) :
    (takeHeld w r).testBit (32 + i) = (decide (i ∈ takenOf r ∧ w i = true) || r.testBit (32 + i)) := by
  have hno : ¬∃ k ∈ takenOf r, 32 + i = 48 + k := fun ⟨k, _, e⟩ => by omega
  have hbase : (setBits (setEach 48 0 (takenOf r) r) 17 13 (recARRS r + (takenOf r).length)).testBit (32 + i) = r.testBit (32 + i) := by
    rw [testBit_setBits _ _ _ _ _ (by omega), if_neg (by omega), if_neg (by omega), testBit_setEach, if_neg hno]
  unfold takeHeld
  rw [testBit_setEach, hbase]
  by_cases hin : i ∈ takenOf r ∧ w i = true
  · rw [if_pos ⟨i, List.mem_filter.mpr hin, rfl⟩, decide_eq_true hin]
    rfl
  · have hout : ¬∃ k ∈ (takenOf r).filter w, 32 + i = 32 + k := by
      rintro ⟨k, hk, e⟩
      obtain rfl : i = k := by omega
      exact hin (List.mem_filter.mp hk)
    rw [if_neg hout, decide_eq_false hin, Bool.false_or]

theorem takeHeld_held (w : Nat → Bool) (r i : Nat) (hi : i < 16) :
    (takeHeld w r).testBit (48 + i) = (r.testBit (48 + i) && !decide (i ∈ takenOf r)) := by
  have hno : ¬∃ k ∈ (takenOf r).filter w, 48 + i = 32 + k := fun ⟨k, hk, e⟩ => by
    have := takenOf_lt r k (List.mem_of_mem_filter hk)
    omega
  have hbase : (setBits (setEach 48 0 (takenOf r) r) 17 13 (recARRS r + (takenOf r).length)).testBit (48 + i) =
      (setEach 48 0 (takenOf r) r).testBit (48 + i) := by
    rw [testBit_setBits _ _ _ _ _ (by omega), if_neg (by omega), if_neg (by omega)]
  unfold takeHeld
  rw [testBit_setEach, if_neg hno, hbase, testBit_setEach]
  by_cases hin : i ∈ takenOf r
  · rw [if_pos ⟨i, hin, rfl⟩, decide_eq_true hin]
    simp
  · have hout : ¬∃ k ∈ takenOf r, 48 + i = 48 + k := by
      rintro ⟨k, hk, e⟩
      obtain rfl : i = k := by omega
      exact hin hk
    rw [if_neg hout, decide_eq_false hin]
    simp

section
variable (r : Nat) (broken : Bool)

/-- The surplus of each slot goes over, and the phase's bits turn. -/
def phaseTurned : Nat :=
  setBits (setBits (setBits (setSlots 24 15 (fun i => if broken then 0 else recDELL r i - recEXPL r i) r) 1 1 (if broken then 1 else 0)) 0 0
    (1 - recPH r)) 17 13 0

/-- What was laid down for the phase after it is expected now. -/
def phaseExpects : Nat :=
  if recNXV r = 1 then setBits (setBits (setSlots 14 5 (fun i => recNEXPL r i) (phaseTurned r broken)) 12 8 (recNEXPS r)) 3 3 0 else phaseTurned r broken

theorem nextPhase_eq : nextPhase r broken = setBits (phaseExpects r broken) 47 32 0 := rfl

theorem bits_phaseTurned (hi lo : Nat) (h : hi < 13 ∨ 17 < lo) (h' : 1 < lo) (hs : ∀ i, i < 4 → 64 + 48 * i + 24 < lo ∨ hi < 64 + 48 * i + 15) :
    bits (phaseTurned r broken) hi lo = bits r hi lo := by
  unfold phaseTurned
  rw [bits_setBits_apart _ _ _ _ _ _ (by omega) (by omega), bits_setBits_apart _ _ _ _ _ _ (by omega) (by omega),
    bits_setBits_apart _ _ _ _ _ _ (by omega) (by omega), bits_setSlots_apart (by omega) _ _ _ _ hs]

theorem bits_phaseExpects (hi lo : Nat) (h : hi < 3 ∨ 3 < lo) (h' : hi < 8 ∨ 12 < lo) (hs : ∀ i, i < 4 → 64 + 48 * i + 14 < lo ∨ hi < 64 + 48 * i + 5) :
    bits (phaseExpects r broken) hi lo = bits (phaseTurned r broken) hi lo := by
  unfold phaseExpects
  split
  · rw [bits_setBits_apart _ _ _ _ _ _ (by omega) (by omega), bits_setBits_apart _ _ _ _ _ _ (by omega) (by omega),
      bits_setSlots_apart (by omega) _ _ _ _ hs]
  · rfl

theorem bits_nextPhase (hi lo : Nat) (h : hi < 32 ∨ 47 < lo) : bits (nextPhase r broken) hi lo = bits (phaseExpects r broken) hi lo := by
  rw [nextPhase_eq, bits_setBits_apart _ _ _ _ _ _ (by omega) (by omega)]

/-- Fields that a phase's end leaves. -/
theorem nextPhase_kept : bits (nextPhase r broken) 2 2 = bits r 2 2 ∧ recVALID (nextPhase r broken) = recVALID r ∧
    recNEXPS (nextPhase r broken) = recNEXPS r ∧ recHELD (nextPhase r broken) = recHELD r := by
  have hkept (hi lo : Nat) (h : hi < 3 ∨ 17 < lo) (h' : hi < 32 ∨ 47 < lo) (hlo : 1 < lo) (hl : lo ≤ 63) (hl' : hi ≤ 63) :
      bits (nextPhase r broken) hi lo = bits r hi lo := by
    rw [bits_nextPhase r broken _ _ (by omega), bits_phaseExpects r broken _ _ (by omega) (by omega) (by omega),
      bits_phaseTurned r broken _ _ (by omega) (by omega) (by omega)]
  have hvalid : bits (nextPhase r broken) 4 4 = bits r 4 4 := by
    rw [bits_nextPhase r broken _ _ (by omega), bits_phaseExpects r broken _ _ (by omega) (by omega) (by omega),
      bits_phaseTurned r broken _ _ (by omega) (by omega) (by omega)]
  exact ⟨hkept 2 2 (by omega) (by omega) (by omega) (by omega) (by omega), hvalid, hkept 22 18 (by omega) (by omega) (by omega) (by omega) (by omega),
    hkept 63 48 (by omega) (by omega) (by omega) (by omega) (by omega)⟩

theorem nextPhase_flags : recPH (nextPhase r broken) = 1 - recPH r ∧ recBRK (nextPhase r broken) = (if broken then 1 else 0) ∧
    recARRS (nextPhase r broken) = 0 := by
  have hph : recPH r < 2 := bits_lt r 0 0
  unfold recPH at hph ⊢
  unfold recBRK recARRS
  refine ⟨?_, ?_, ?_⟩
  · rw [bits_nextPhase r broken _ _ (by omega), bits_phaseExpects r broken _ _ (by omega) (by omega) (by omega), phaseTurned,
      bits_setBits_apart _ _ _ _ _ _ (by omega) (by omega), bits_setBits_same _ _ _ _ (by omega)]
    exact Nat.mod_eq_of_lt (by omega)
  · rw [bits_nextPhase r broken _ _ (by omega), bits_phaseExpects r broken _ _ (by omega) (by omega) (by omega), phaseTurned,
      bits_setBits_apart _ _ _ _ _ _ (by omega) (by omega), bits_setBits_apart _ _ _ _ _ _ (by omega) (by omega), bits_setBits_same _ _ _ _ (by omega)]
    cases broken <;> rfl
  · rw [bits_nextPhase r broken _ _ (by omega), bits_phaseExpects r broken _ _ (by omega) (by omega) (by omega), phaseTurned,
      bits_setBits_same _ _ _ _ (by omega)]
    rfl

theorem nextPhase_expects : recNXV (nextPhase r broken) = 0 ∧
    recEXPS (nextPhase r broken) = (if recNXV r = 1 then recNEXPS r else recEXPS r) := by
  unfold recNXV recEXPS
  rw [bits_nextPhase r broken _ _ (by omega), bits_nextPhase r broken _ _ (by omega)]
  unfold phaseExpects
  split
  · rw [bits_setBits_same _ _ _ _ (by omega), bits_setBits_apart _ _ _ _ _ _ (by omega) (by omega), bits_setBits_same _ _ _ _ (by omega)]
    exact ⟨rfl, Nat.mod_eq_of_lt (bits_lt r 22 18)⟩
  · next h =>
    have hnxv : bits r 3 3 < 2 := bits_lt r 3 3
    rw [bits_phaseTurned r broken _ _ (by omega) (by omega) (by omega), bits_phaseTurned r broken _ _ (by omega) (by omega) (by omega)]
    exact ⟨by unfold recNXV at h; omega, rfl⟩

theorem nextPhase_slot {i : Nat} (hi : i < 4) : recSlot (nextPhase r broken) i = (recSID r i, if recNXV r = 1 then recNEXPL r i else recEXPL r i,
    if broken then 0 else recDELL r i - recEXPL r i, recNEXPL r i) := by
  have hsid : recSID (nextPhase r broken) i = recSID r i := by
    unfold recSID
    rw [bits_nextPhase r broken _ _ (by omega), bits_phaseExpects r broken _ _ (by omega) (by omega) (by omega),
      bits_phaseTurned r broken _ _ (by omega) (by omega) (by omega)]
  have hnext : recNEXPL (nextPhase r broken) i = recNEXPL r i := by
    unfold recNEXPL
    rw [bits_nextPhase r broken _ _ (by omega), bits_phaseExpects r broken _ _ (by omega) (by omega) (by omega),
      bits_phaseTurned r broken _ _ (by omega) (by omega) (by omega)]
  have hdel : recDELL (nextPhase r broken) i = if broken then 0 else recDELL r i - recEXPL r i := by
    have hlt : recDELL r i < 2 ^ 10 := by
      have := bits_lt r (64 + 48 * i + 24) (64 + 48 * i + 15)
      rwa [show 64 + 48 * i + 24 + 1 - (64 + 48 * i + 15) = 10 by omega] at this
    show bits (nextPhase r broken) (64 + 48 * i + 24) (64 + 48 * i + 15) = _
    rw [bits_nextPhase r broken _ _ (by omega), bits_phaseExpects r broken _ _ (by omega) (by omega) (by omega), phaseTurned,
      bits_setBits_apart _ _ _ _ _ _ (by omega) (by omega), bits_setBits_apart _ _ _ _ _ _ (by omega) (by omega),
      bits_setBits_apart _ _ _ _ _ _ (by omega) (by omega), bits_setSlots_same (by omega) (by omega) _ _ hi]
    refine Nat.mod_eq_of_lt (Nat.lt_of_le_of_lt (m := recDELL r i) ?_ hlt)
    split <;> omega
  have hexp : recEXPL (nextPhase r broken) i = if recNXV r = 1 then recNEXPL r i else recEXPL r i := by
    show bits (nextPhase r broken) (64 + 48 * i + 14) (64 + 48 * i + 5) = _
    rw [bits_nextPhase r broken _ _ (by omega)]
    unfold phaseExpects
    split
    · have hlt : recNEXPL r i < 2 ^ 10 := by
        have := bits_lt r (64 + 48 * i + 34) (64 + 48 * i + 25)
        rwa [show 64 + 48 * i + 34 + 1 - (64 + 48 * i + 25) = 10 by omega] at this
      rw [bits_setBits_apart _ _ _ _ _ _ (by omega) (by omega), bits_setBits_apart _ _ _ _ _ _ (by omega) (by omega),
        bits_setSlots_same (by omega) (by omega) _ _ hi]
      exact Nat.mod_eq_of_lt hlt
    · rw [bits_phaseTurned r broken _ _ (by omega) (by omega) (by omega)]
  unfold recSlot
  rw [hsid, hexp, hdel, hnext]

theorem nextPhase_park {i : Nat} (hi : i < 16) : (nextPhase r broken).testBit (32 + i) = false := by
  rw [nextPhase_eq, testBit_setBits _ _ _ _ _ (by omega), if_neg (by omega), if_pos (by omega)]
  exact Nat.zero_testBit _
end

theorem bitAt_bits (r k : Nat) (hk : k < 16) : bitAt (recHELD r) k = r.testBit (48 + k) := by
  have h := testBit_bits r 63 48 k
  rw [show k < 63 + 1 - 48 by omega |> decide_eq_true, Bool.true_and] at h
  rw [← h, bitAt, Nat.testBit_eq_decide_div_mod_eq]
  rfl

/-- The held stands by the record's field. -/
theorem takenOf_eq (r : Nat) : takenOf r = ((List.range 16).filter (fun i => (viewOf r).held.getLsbD i)).take (recEXPS r - recARRS r) := by
  unfold takenOf
  congr 1
  refine List.filter_congr fun k hk => ?_
  have hk := List.mem_range.mp hk
  rw [bitAt_bits r k hk]
  exact (getLsbD_ofNat_div r 48 k hk).symm

theorem testBit_sum_pow (p : Nat → Bool) : ∀ (n i : Nat), (((List.range n).filter p).map (fun i => 2 ^ i)).sum.testBit i = (decide (i < n) && p i)
  | 0, i => by simp
  | n + 1, i => by
    have hlt : (((List.range n).filter p).map (fun i => 2 ^ i)).sum < 2 ^ n := by
      refine Nat.lt_pow_two_of_testBit _ fun j hj => ?_
      rw [testBit_sum_pow p n j, decide_eq_false (by omega), Bool.false_and]
    have ih := testBit_sum_pow p n
    rw [List.range_succ, List.filter_append, List.map_append, List.sum_append]
    cases hp : p n with
    | false =>
      rw [List.filter_cons_of_neg (by simp [hp])]
      simp only [List.filter_nil, List.map_nil, List.sum_nil, Nat.add_zero, ih]
      by_cases hi : i = n
      · subst hi; simp [hp]
      · congr 1; exact decide_eq_decide.mpr (by omega)
    | true =>
      rw [List.filter_cons_of_pos (by simp [hp])]
      simp only [List.filter_nil, List.map_cons, List.map_nil, List.sum_cons, List.sum_nil, Nat.add_zero]
      rw [Nat.add_comm]
      have h2 := Nat.testBit_two_pow_mul_add 1 hlt i
      rw [Nat.mul_one] at h2
      rw [h2, ih]
      by_cases hi : i < n
      · rw [if_pos hi, decide_eq_true hi, decide_eq_true (by omega)]
      · rw [if_neg hi]
        by_cases he : i = n
        · subst he
          simp [hp]
        · rw [decide_eq_false (by omega), Bool.false_and]
          obtain ⟨m, hm⟩ : ∃ m, i - n = m + 1 := ⟨i - n - 1, by omega⟩
          rw [hm, Nat.testBit_succ]
          exact Nat.zero_testBit m

theorem getLsbD_bits16 (p : Nat → Bool) (i : Nat) (hi : i < 16) : (bits16 p).getLsbD i = p i := by
  rw [bits16, BitVec.getLsbD_ofNat, testBit_sum_pow]
  simp [hi]

/-- The held stands that come into the next phase. -/
theorem takenOf_nextPhase (r : Nat) (broken : Bool) : takenOf (nextPhase r broken) =
    ((List.range 16).filter (fun i => (viewOf r).held.getLsbD i)).take (if recNXV r = 1 then recNEXPS r else recEXPS r) := by
  obtain ⟨-, -, -, hheld⟩ := nextPhase_kept r broken
  obtain ⟨-, -, harrs⟩ := nextPhase_flags r broken
  obtain ⟨-, hexps⟩ := nextPhase_expects r broken
  rw [takenOf_eq, harrs, hexps, Nat.sub_zero]
  congr 1
  refine List.filter_congr fun k hk => ?_
  have hk := List.mem_range.mp hk
  unfold viewOf
  rw [getLsbD_ofNat_div _ _ _ hk, getLsbD_ofNat_div _ _ _ hk, ← bitAt_bits _ _ hk, ← bitAt_bits _ _ hk, hheld]

/-- The phase's end, of numbers and of fields (R358). -/
theorem viewOf_complete (r : Nat) (broken : Bool) (w : Nat → Bool) :
    viewOf (takeHeld w (nextPhase r broken)) = (viewOf r).complete w broken := by
  obtain ⟨hstray, hvalid, hnexps, hheld⟩ := nextPhase_kept r broken
  obtain ⟨hph, hbrk, harrs⟩ := nextPhase_flags r broken
  obtain ⟨hnxv, hexps⟩ := nextPhase_expects r broken
  have htaken := takenOf_nextPhase r broken
  have hheldbit (i : Nat) (hi : i < 16) : (nextPhase r broken).testBit (48 + i) = r.testBit (48 + i) := by
    rw [← bitAt_bits _ _ hi, ← bitAt_bits _ _ hi, hheld]
  have hpark := fun i hi => nextPhase_park r broken (i := i) hi
  have hslot := fun i hi => nextPhase_slot r broken (i := i) hi
  generalize nextPhase r broken = q at *
  have hkept (hi lo : Nat) (h : hi < 13 ∨ 18 ≤ lo) (h' : hi < 32 ∨ 64 ≤ lo) := bits_takeHeld w q hi lo h h'
  have harrs' := takeHeld_arrs w q (by rw [harrs]; exact Nat.zero_le _)
  rw [harrs, Nat.zero_add, htaken] at harrs'
  unfold RecView.complete
  rw [viewOf, RecView.mk.injEq]
  refine ⟨(hkept 0 0 (by omega) (by omega)).trans hph, (hkept 1 1 (by omega) (by omega)).trans hbrk, (hkept 2 2 (by omega) (by omega)).trans hstray,
    (hkept 3 3 (by omega) (by omega)).trans hnxv, (hkept 4 4 (by omega) (by omega)).trans hvalid, (hkept 12 8 (by omega) (by omega)).trans hexps,
    harrs', (hkept 22 18 (by omega) (by omega)).trans hnexps, ?_, ?_, ?_⟩
  · refine BitVec.eq_of_getLsbD_eq fun i hi => ?_
    rw [getLsbD_ofNat_div _ _ _ hi, takeHeld_park _ _ _ hi, getLsbD_bits16 _ _ hi, hpark i hi, Bool.or_false, htaken, Bool.decide_and, Bool.decide_eq_true]
    exact congrArg (fun b => b && w i) (List.contains_eq_mem _ _).symm
  · refine BitVec.eq_of_getLsbD_eq fun i hi => ?_
    rw [getLsbD_ofNat_div _ _ _ hi, takeHeld_held _ _ _ hi, getLsbD_bits16 _ _ hi, hheldbit i hi, htaken, ← getLsbD_ofNat_div r 48 i hi]
    exact congrArg (fun b => (viewOf r).held.getLsbD i && !b) (List.contains_eq_mem _ _).symm
  · show (List.range 4).map (recSlot (takeHeld w q)) = ((List.range 4).map (recSlot r)).map _
    rw [List.map_map]
    refine List.map_congr_left fun i hi => ?_
    have hi := List.mem_range.mp hi
    have hsame : recSlot (takeHeld w q) i = recSlot q i := by
      unfold recSlot recSID recEXPL recDELL recNEXPL
      rw [hkept _ _ (by omega) (by omega), hkept _ _ (by omega) (by omega), hkept _ _ (by omega) (by omega), hkept _ _ (by omega) (by omega)]
    rw [hsame, hslot i hi]
    rfl

/-! ### A line is delivered (R356) -/

theorem viewOf_stray (r : Nat) : viewOf (setBits r 2 2 1) = { viewOf r with stray := 1 } := by
  have hkept (hi lo : Nat) (h : hi < 2 ∨ 2 < lo) : bits (setBits r 2 2 1) hi lo = bits r hi lo := bits_setBits_apart _ _ _ _ _ _ (by omega) (by omega)
  have hpart (lo : Nat) (h : 2 < lo) : BitVec.ofNat 16 (setBits r 2 2 1 / 2 ^ lo) = BitVec.ofNat 16 (r / 2 ^ lo) := by
    refine BitVec.eq_of_getLsbD_eq fun i hi => ?_
    rw [getLsbD_ofNat_div _ _ _ hi, getLsbD_ofNat_div _ _ _ hi, testBit_setBits _ _ _ _ _ (by omega), if_neg (by omega), if_neg (by omega)]
  have hslot : (List.range 4).map (recSlot (setBits r 2 2 1)) = (List.range 4).map (recSlot r) := by
    refine List.map_congr_left fun i _ => ?_
    unfold recSlot recSID recEXPL recDELL recNEXPL
    rw [hkept _ _ (by omega), hkept _ _ (by omega), hkept _ _ (by omega), hkept _ _ (by omega)]
  rw [viewOf, viewOf, RecView.mk.injEq]
  exact ⟨hkept 0 0 (by omega), hkept 1 1 (by omega), bits_setBits_same _ _ _ _ (by omega), hkept 3 3 (by omega), hkept 4 4 (by omega),
    hkept 12 8 (by omega), hkept 17 13 (by omega), hkept 22 18 (by omega), hpart 32 (by omega), hpart 48 (by omega), hslot⟩

theorem viewOf_slots_getD (r : Nat) {slot : Nat} (h : slot < 4) : ((viewOf r).slots[slot]?).getD (0, 0, 0, 0) = recSlot r slot := by
  unfold viewOf
  rw [List.getElem?_map, List.getElem?_range h]
  rfl

/-- A delivered line counts in its slot. -/
theorem viewOf_setDELL (r : Nat) {slot : Nat} (h : slot < 4) {n : Nat} (hn : n < 1024) : viewOf (setDELL r slot n) =
    { viewOf r with slots := (viewOf r).slots.set slot (recSID r slot, recEXPL r slot, n, recNEXPL r slot) } := by
  have hkept (hi lo : Nat) (h : hi < 64 + 48 * slot + 15 ∨ 64 + 48 * slot + 24 < lo) : bits (setDELL r slot n) hi lo = bits r hi lo :=
    bits_setBits_apart _ _ _ _ _ _ (by omega) (by omega)
  have hpart (lo : Nat) (h : lo ≤ 48) : BitVec.ofNat 16 (setDELL r slot n / 2 ^ lo) = BitVec.ofNat 16 (r / 2 ^ lo) := by
    refine BitVec.eq_of_getLsbD_eq fun i hi => ?_
    rw [getLsbD_ofNat_div _ _ _ hi, getLsbD_ofNat_div _ _ _ hi, setDELL, testBit_setBits _ _ _ _ _ (by omega), if_pos (by omega)]
  have hslots : (List.range 4).map (recSlot (setDELL r slot n)) =
      ((List.range 4).map (recSlot r)).set slot (recSID r slot, recEXPL r slot, n, recNEXPL r slot) := by
    refine List.ext_getElem? fun i => ?_
    rw [List.getElem?_set, List.getElem?_map, List.getElem?_map, List.length_map, List.length_range]
    by_cases hi : i < 4
    · rw [List.getElem?_range hi]
      by_cases he : slot = i
      · subst he
        rw [if_pos rfl, if_pos hi]
        have hdel : recDELL (setDELL r slot n) slot = n := by
          unfold recDELL setDELL
          rw [bits_setBits_same _ _ _ _ (by omega)]
          exact Nat.mod_eq_of_lt (by rw [show 64 + 48 * slot + 24 + 1 - (64 + 48 * slot + 15) = 10 by omega]; exact hn)
        simp only [Option.map_some, recSlot, hdel]
        unfold recSID recEXPL recNEXPL
        rw [hkept _ _ (by omega), hkept _ _ (by omega), hkept _ _ (by omega)]
      · rw [if_neg he]
        simp only [Option.map_some]
        unfold recSlot recSID recEXPL recDELL recNEXPL
        rw [hkept _ _ (by omega), hkept _ _ (by omega), hkept _ _ (by omega), hkept _ _ (by omega)]
    · rw [List.getElem?_eq_none (by rw [List.length_range]; omega), if_neg (by omega), Option.map_none, Option.map_none]
  rw [viewOf, viewOf, RecView.mk.injEq]
  exact ⟨hkept 0 0 (by omega), hkept 1 1 (by omega), hkept 2 2 (by omega), hkept 3 3 (by omega), hkept 4 4 (by omega),
    hkept 12 8 (by omega), hkept 17 13 (by omega), hkept 22 18 (by omega), hpart 32 (by omega), hpart 48 (by omega), hslots⟩

/-- The loop's condition, by the fields (R358). -/
theorem viewOf_ready (r : Nat) : (viewOf r).ready ↔ recVALID r = 1 ∧ recARRS r = recEXPS r ∧ (List.range 4).all (fun i => recEXPL r i ≤ recDELL r i) = true := by
  unfold RecView.ready viewOf recSlot
  simp only [List.mem_map, forall_exists_index, and_imp, forall_apply_eq_imp_iff₂, List.all_eq_true, decide_eq_true_eq]

end Sys2Proof.Machine
end
section
/-! SUPPORT. The completion records of a copse as copies change them: delivered lines, completed and broken phases (spec/14 R325; spec/15 R356-R358, R364). -/

namespace Sys2Proof.Machine

/-! ### What a record's change leaves -/

/-- A stand is as it was but for registers, its place, deferred traps and a wait that may have ended. -/
structure StandKept (x y : Stand) : Prop where
  life : y.life = x.life
  fenceM : y.fenceM = x.fenceM
  swbs : y.swbs = x.swbs
  page : ∀ id, y.wait.onPage id = true → x.wait.onPage id = true

theorem StandKept.refl (x : Stand) : StandKept x x := ⟨rfl, rfl, rfl, fun _ h => h⟩

/-- Copses and stands alone differ: of the copses one at most, of the stands as above. -/
structure Keeps (copse : Nat) (s t : State) : Prop where
  rest : t = { s with copses := t.copses, stands := t.stands }
  kept : ∀ k, StandKept (s.standAt k) (t.standAt k)
  stands : ∀ e ∈ t.stands, e ∈ s.stands ∨ e.2.life = (s.standAt e.1).life
  copses : ∀ e ∈ t.copses, e ∈ s.copses ∨ e.1 = copse

/-- And no stand's deferred traps nor their count differ. -/
structure CopyFrame (copse : Nat) (s t : State) : Prop extends Keeps copse s t where
  traps : ∀ k, (t.standAt k).deferred = (s.standAt k).deferred ∧ (t.standAt k).tseq = (s.standAt k).tseq

section
variable {copse : Nat}

theorem Keeps.refl (s : State) : Keeps copse s s := ⟨rfl, fun _ => .refl _, fun _ h => .inl h, fun _ h => .inl h⟩
theorem Keeps.trans {s t u : State} (h : Keeps copse s t) (h' : Keeps copse t u) : Keeps copse s u := by
  refine ⟨by rw [h'.rest, h.rest], fun k => ?_, fun e he => ?_, fun e he => ?_⟩
  · have hk := h.kept k
    have hk' := h'.kept k
    exact ⟨hk'.life.trans hk.life, hk'.fenceM.trans hk.fenceM, hk'.swbs.trans hk.swbs, fun id hid => hk.page id (hk'.page id hid)⟩
  · rcases h'.stands e he with he | he
    · exact h.stands e he
    · exact .inr (he.trans (h.kept e.1).life)
  · rcases h'.copses e he with he | he
    · exact h.copses e he
    · exact .inr he

theorem Keeps.sameMemory {s t : State} (h : Keeps copse s t) : SameMemory s t := by
  rw [h.rest]
  exact sameMemory_of_parts (fun _ => rfl) rfl rfl rfl

theorem keeps_setStand {s : State} {k : Nat} {x : Stand} (hk : StandKept (s.standAt k) x) : Keeps copse s (s.setStand k x) := by
  refine ⟨rfl, fun j => ?_, fun e he => ?_, fun _ h => .inl h⟩
  · rw [setStand_standAt_at]
    split
    · next h => subst h; exact hk
    · exact .refl _
  · rcases mem_tset he with rfl | he
    · exact .inr hk.life
    · exact .inl he

theorem CopyFrame.refl (s : State) : CopyFrame copse s s := ⟨.refl s, fun _ => ⟨rfl, rfl⟩⟩
theorem CopyFrame.trans {s t u : State} (h : CopyFrame copse s t) (h' : CopyFrame copse t u) : CopyFrame copse s u :=
  ⟨h.toKeeps.trans h'.toKeeps, fun k => ⟨(h'.traps k).1.trans (h.traps k).1, (h'.traps k).2.trans (h.traps k).2⟩⟩

theorem copyFrame_setCopse (s : State) (copse : Nat) (c : Copse) : CopyFrame copse s (s.setCopse copse c) := by
  refine ⟨⟨rfl, fun _ => .refl _, fun _ h => .inl h, fun e he => ?_⟩, fun _ => ⟨rfl, rfl⟩⟩
  rcases mem_tset he with rfl | he
  · exact .inr rfl
  · exact .inl he

theorem copyFrame_setStand {s : State} {k : Nat} {x : Stand} (hk : StandKept (s.standAt k) x) (hd : x.deferred = (s.standAt k).deferred)
    (ht : x.tseq = (s.standAt k).tseq) : CopyFrame copse s (s.setStand k x) := by
  refine ⟨keeps_setStand hk, fun j => ?_⟩
  rw [setStand_standAt_at]
  split
  · next h => subst h; exact ⟨hd, ht⟩
  · exact ⟨rfl, rfl⟩

/-- A stand goes on, or waits for a phase. -/
theorem standKept_of_wait {x y : Stand} (hl : y.life = x.life) (hf : y.fenceM = x.fenceM) (hs : y.swbs = x.swbs) (hw : ∀ id, y.wait.onPage id = false) :
    StandKept x y := ⟨hl, hf, hs, fun id h => by rw [hw id] at h; cases h⟩
end

/-- Of the copses a record's bytes differ at most. -/
structure RecFrame (copse o : Nat) (s t : State) : Prop where
  frame : CopyFrame copse s t
  only : t.copseAt copse = { s.copseAt copse with scratch := (t.copseAt copse).scratch }
  apart : ∀ a, a < o ∨ o + 32 ≤ a → memGet (t.copseAt copse).scratch a = memGet (s.copseAt copse).scratch a

section
variable {copse o : Nat}

theorem RecFrame.refl (s : State) : RecFrame copse o s s := ⟨.refl s, rfl, fun _ _ => rfl⟩
theorem RecFrame.trans {s t u : State} (h : RecFrame copse o s t) (h' : RecFrame copse o t u) : RecFrame copse o s u := by
  refine ⟨h.frame.trans h'.frame, ?_, fun a ha => (h'.apart a ha).trans (h.apart a ha)⟩
  rw [h'.only, h.only]

theorem recFrame_of_copses {s t : State} (h : CopyFrame copse s t) (hc : t.copses = s.copses) : RecFrame copse o s t := by
  have hsame : t.copseAt copse = s.copseAt copse := by simp only [State.copseAt, hc]
  exact ⟨h, by rw [hsame], fun a _ => by rw [hsame]⟩

theorem recFrame_foldl {α : Type} {f : State → α → State} (hf : ∀ s a, RecFrame copse o s (f s a)) : ∀ (l : List α) (s : State),
    RecFrame copse o s (l.foldl f s)
  | [], s => .refl s
  | a :: l, s => (hf s a).trans (recFrame_foldl hf l (f s a))

theorem recFrame_setRec (s : State) (r : Nat) : RecFrame copse o s (s.setRec copse o r) := by
  unfold State.setRec
  refine ⟨copyFrame_setCopse .., by simp, fun a ha => ?_⟩
  rw [setCopse_copseAt]
  exact memGet_memWrite_other _ _ _ _ _ (by omega)

/-! ### Stands that go on -/

theorem wakeRec_frame (s : State) (k : Nat) (status : Bool) : RecFrame copse o s (s.wakeRec k status) := by
  unfold State.wakeRec
  simp only
  split
  · exact recFrame_of_copses (copyFrame_setStand (standKept_of_wait rfl rfl rfl fun _ => rfl) rfl rfl) rfl
  · exact recFrame_of_copses (copyFrame_setStand (standKept_of_wait rfl rfl rfl fun _ => rfl) rfl rfl) rfl
  · exact .refl s

theorem releaseHeld_frame (s : State) (k p ph : Nat) : RecFrame copse o s (s.releaseHeld k p ph false) := by
  unfold State.releaseHeld
  simp only
  split
  · exact recFrame_of_copses (copyFrame_setStand (standKept_of_wait rfl rfl rfl fun _ => rfl) rfl rfl) rfl
  · exact recFrame_of_copses (copyFrame_setStand (standKept_of_wait rfl rfl rfl fun _ => rfl) rfl rfl) rfl
  · exact .refl s

/-- A held arrival's wait for its phase goes by the stand's wait. -/
theorem heldWaits_congr {s t : State} {copse i : Nat} (h : (t.standAt (16 * copse + i)).wait = (s.standAt (16 * copse + i)).wait) :
    heldWaits t copse i = heldWaits s copse i := by
  unfold heldWaits
  rw [h]

theorem heldWaits_setStand {s : State} {k : Nat} {x : Stand} {copse i : Nat} (h : 16 * copse + i ≠ k) : heldWaits (s.setStand k x) copse i = heldWaits s copse i :=
  heldWaits_congr (by rw [setStand_standAt_ne _ _ _ h])

/-- Waking a parked stand ends no held arrival's wait. -/
theorem heldWaits_wakeRec (s : State) (k : Nat) (status : Bool) (copse i : Nat) : heldWaits (s.wakeRec k status) copse i = heldWaits s copse i := by
  have hset {x : Stand} (hw : x.wait = .none) (hno : ∀ a b c, (s.standAt k).wait ≠ .heldRec a b c) : heldWaits (s.setStand k x) copse i = heldWaits s copse i := by
    by_cases he : 16 * copse + i = k
    · have h1 : heldWaits (s.setStand k x) copse i = false := by
        unfold heldWaits
        rw [he, setStand_standAt, hw]
      have h2 : heldWaits s copse i = false := by
        unfold heldWaits
        rw [he]
        split
        · next h => exact absurd h (hno _ _ _)
        · rfl
      rw [h1, h2]
    · exact heldWaits_setStand he
  unfold State.wakeRec
  simp only
  split
  · next h => exact hset rfl fun _ _ _ e => by rw [h] at e; cases e
  · next h => exact hset rfl fun _ _ _ e => by rw [h] at e; cases e
  · rfl

theorem heldWaits_wakes (status : Bool) (copse i : Nat) : ∀ (ks : List Nat) (s : State),
    heldWaits (ks.foldl (fun s k => s.wakeRec (16 * copse + k) status) s) copse i = heldWaits s copse i
  | [], _ => rfl
  | _ :: ks, _ => (heldWaits_wakes status copse i ks _).trans (heldWaits_wakeRec ..)

theorem heldWaits_releaseHeld {s : State} {k p ph : Nat} {copse i : Nat} (h : 16 * copse + i ≠ k) :
    heldWaits (s.releaseHeld k p ph false) copse i = heldWaits s copse i := by
  unfold State.releaseHeld
  simp only
  split
  · exact heldWaits_setStand h
  · exact heldWaits_setStand h
  · rfl

theorem heldWaits_releases (p ph copse i : Nat) : ∀ (ks : List Nat) (s : State), i ∉ ks →
    heldWaits (ks.foldl (fun s k => s.releaseHeld (16 * copse + k) p ph false) s) copse i = heldWaits s copse i
  | [], _, _ => rfl
  | k :: ks, _, h => by
    have hne : i ≠ k := fun e => h (e ▸ List.mem_cons_self)
    exact (heldWaits_releases p ph copse i ks _ fun hi => h (List.mem_cons_of_mem _ hi)).trans (heldWaits_releaseHeld (by omega))

/-! ### A phase of a record in the machine (R358) -/

/-- What stands when the parked ones of a phase have gone on. -/
def State.unparked (s : State) (copse o : Nat) (status : Bool) : State :=
  ((List.range 16).filter (fun k => bitAt (recPARK (s.recAt copse o)) k)).foldl (fun s k => s.wakeRec (16 * copse + k) status) s
/-- The record's number behind a phase, of a machine whose parked stands have gone on. -/
def State.turned (s : State) (copse r : Nat) (broken : Bool) : Nat := takeHeld (heldWaits s copse) (nextPhase r broken)

/-- Setting one place after the other, each by a value that the places before it do not touch. -/
theorem foldl_set_own {set : Nat → Nat → Nat → Nat} {val : Nat → Nat → Nat} (hval : ∀ x j v i, i ≠ j → val (set x j v) i = val x i) :
    ∀ (l : List Nat) (r : Nat), l.Nodup → l.foldl (fun x i => set x i (val x i)) r = l.foldl (fun x i => set x i (val r i)) r
  | [], _, _ => rfl
  | j :: l, r, h => by
    obtain ⟨hj, hl⟩ := List.nodup_cons.mp h
    rw [List.foldl_cons, List.foldl_cons, foldl_set_own hval l _ hl]
    refine List.foldl_ext _ _ _ fun x i hi => ?_
    rw [hval r j (val r j) i fun e => hj (e ▸ hi)]

/-- The surplus of the slots, each taken from the number that the slots before it have made. -/
theorem surplus_eq (r : Nat) (broken : Bool) :
    (List.range 4).foldl (fun r i => setDELL r i (if broken then 0 else recDELL r i - recEXPL r i)) r =
      setSlots 24 15 (fun i => if broken then 0 else recDELL r i - recEXPL r i) r := by
  refine foldl_set_own (set := setDELL) (val := fun r i => if broken then 0 else recDELL r i - recEXPL r i) (fun x j v i h => ?_) _ _ List.nodup_range
  have hdel : recDELL (setDELL x j v) i = recDELL x i := bits_setBits_apart _ _ _ _ _ _ (by omega) (by omega)
  have hexp : recEXPL (setDELL x j v) i = recEXPL x i := bits_setBits_apart _ _ _ _ _ _ (by omega) (by omega)
  rw [hdel, hexp]

theorem recComplete_eq (s : State) (copse o : Nat) (broken : Bool) : s.recComplete copse o broken =
    (takenOf (nextPhase (s.recAt copse o) broken)).foldl
      (fun t k => t.releaseHeld (16 * copse + k) o (recPH ((s.unparked copse o (!broken)).turned copse (s.recAt copse o) broken)) false)
      ((s.unparked copse o (!broken)).setRec copse o ((s.unparked copse o (!broken)).turned copse (s.recAt copse o) broken)) := by
  unfold State.recComplete
  simp only [surplus_eq]
  rfl

theorem unparked_frame (s : State) (status : Bool) : RecFrame copse o s (s.unparked copse o status) :=
  recFrame_foldl (fun s k => wakeRec_frame s (16 * copse + k) status) _ s

theorem recComplete_frame (s : State) (broken : Bool) : RecFrame copse o s (s.recComplete copse o broken) := by
  rw [recComplete_eq]
  exact ((unparked_frame s _).trans (recFrame_setRec _ _)).trans (recFrame_foldl (fun s k => releaseHeld_frame s (16 * copse + k) o _) _ _)

theorem recCheck_frame (n : Nat) (s : State) : RecFrame copse o s (s.recCheck copse o n) := by
  induction n generalizing s with
  | zero => exact .refl s
  | succ n ih =>
    unfold State.recCheck
    simp only
    split
    · exact (recComplete_frame s false).trans (ih _)
    · exact .refl s

theorem recDeliver_frame (s : State) (slot stand : Nat) : RecFrame copse o s (s.recDeliver copse o slot stand) := by
  unfold State.recDeliver
  simp only
  split
  · exact .refl s
  · split
    · exact (recFrame_setRec s _).trans (recCheck_frame _ _)
    · exact recFrame_setRec s _

theorem recBreak_frame (s : State) (slot : Nat) : RecFrame copse o s (s.recBreak copse o slot) := by
  unfold State.recBreak
  simp only
  split
  · exact (recComplete_frame s true).trans (recCheck_frame _ _)
  · exact .refl s

/-! ### The record's fields behind it -/

theorem recAt_congr {s t : State} (h : ∀ a, o ≤ a → a < o + 32 → memGet (t.copseAt copse).scratch a = memGet (s.copseAt copse).scratch a) :
    t.recAt copse o = s.recAt copse o := memRead_congr _ _ _ _ fun i hi => h _ (by omega) (by omega)

theorem recAt_of_copses {s t : State} (hc : t.copses = s.copses) : t.recAt copse o = s.recAt copse o := by
  simp only [State.recAt, State.copseAt, hc]

theorem recAt_setRec (s : State) (r : Nat) : (s.setRec copse o r).recAt copse o = r % 2 ^ 256 := by
  unfold State.recAt State.setRec
  rw [setCopse_copseAt]
  exact memRead_memWrite ..

theorem recView_setRec (s : State) (r : Nat) : recView (s.setRec copse o r) copse o = viewOf r := by
  rw [recView_eq, recAt_setRec, viewOf_mod]

/-- A word that tells of the held stands of a record what they wait for. -/
def Tells (w : Nat → Bool) (s : State) (copse o : Nat) : Prop := ∀ i, i < 16 → (viewOf (s.recAt copse o)).held.getLsbD i = true → heldWaits s copse i = w i

theorem complete_congr {v : RecView} {w w' : Nat → Bool} (h : ∀ i, i < 16 → v.held.getLsbD i = true → w' i = w i) (broken : Bool) :
    v.complete w' broken = v.complete w broken := by
  have hpark (n : Nat) : (fun i => (((List.range 16).filter (fun i => v.held.getLsbD i)).take n).contains i && w' i) =
      fun i => (((List.range 16).filter (fun i => v.held.getLsbD i)).take n).contains i && w i := by
    funext i
    rw [List.contains_eq_mem]
    by_cases hi : i ∈ ((List.range 16).filter (fun i => v.held.getLsbD i)).take n
    · obtain ⟨hr, hh⟩ := List.mem_filter.mp (List.mem_of_mem_take hi)
      rw [h i (List.mem_range.mp hr) hh]
    · rw [decide_eq_false hi, Bool.false_and, Bool.false_and]
  unfold RecView.complete
  simp only [hpark]

/-- A completed phase, of the record's fields; and the word still tells. -/
theorem recComplete_view (s : State) (broken : Bool) {w : Nat → Bool} (hw : Tells w s copse o) :
    recView (s.recComplete copse o broken) copse o = (recView s copse o).complete w broken ∧ Tells w (s.recComplete copse o broken) copse o := by
  obtain ⟨u, hu⟩ : ∃ u, u = s.unparked copse o (!broken) := ⟨_, rfl⟩
  obtain ⟨r, hr⟩ : ∃ r, r = s.recAt copse o := ⟨_, rfl⟩
  obtain ⟨ks, hks⟩ : ∃ ks, ks = takenOf (nextPhase r broken) := ⟨_, rfl⟩
  have heq := recComplete_eq s copse o broken
  rw [← hu, ← hr, ← hks] at heq
  have huw (i : Nat) : heldWaits u copse i = heldWaits s copse i := by
    rw [hu]
    exact heldWaits_wakes _ copse i _ s
  have hat : (s.recComplete copse o broken).recAt copse o = u.turned copse r broken % 2 ^ 256 := by
    have hcopses : ∀ (ks : List Nat) (ph : Nat) (t : State),
        (ks.foldl (fun t k => t.releaseHeld (16 * copse + k) o ph false) t).copses = t.copses := by
      intro ks ph
      induction ks with
      | nil => exact fun _ => rfl
      | cons k ks ih =>
        intro t
        rw [List.foldl_cons, ih]
        unfold State.releaseHeld
        simp only
        split <;> rfl
    rw [heq, recAt_of_copses (hcopses _ _ _), recAt_setRec]
  have hview : recView (s.recComplete copse o broken) copse o = (recView s copse o).complete w broken := by
    rw [recView_eq, recView_eq, hat, viewOf_mod, ← hr]
    unfold State.turned
    rw [viewOf_complete]
    refine complete_congr (fun i hi hh => ?_) broken
    rw [huw]
    exact hw i hi (hr ▸ hh)
  refine ⟨hview, fun i hi hh => ?_⟩
  rw [← recView_eq, hview, recView_eq, ← hr] at hh
  unfold RecView.complete at hh
  rw [getLsbD_bits16 _ _ hi, Bool.and_eq_true, Bool.not_eq_true', List.contains_eq_mem, decide_eq_false_iff_not] at hh
  obtain ⟨hheld, hno⟩ := hh
  have hout : i ∉ ks := by
    rw [hks, takenOf_nextPhase]
    exact hno
  rw [heq, heldWaits_releases _ _ _ _ _ _ hout]
  refine Eq.trans ?_ ((huw i).trans (hw i hi (hr ▸ hheld)))
  exact heldWaits_congr rfl

/-! ### Phases one after another -/

theorem after_succ (v : RecView) (w : Nat → Bool) : ∀ n, (v.complete w false).after w n = v.after w (n + 1)
  | 0 => rfl
  | n + 1 => congrArg (fun v => v.complete w false) (after_succ v w n)

/-- As many phases complete as are ready one after another, up to the number of rounds. -/
theorem recCheck_view {w : Nat → Bool} (n : Nat) (s : State) (hw : Tells w s copse o) : ∃ m, m ≤ n ∧
    (∀ j, j < m → ((recView s copse o).after w j).ready) ∧ (m < n → ¬((recView s copse o).after w m).ready) ∧
    recView (s.recCheck copse o n) copse o = (recView s copse o).after w m := by
  induction n generalizing s with
  | zero => exact ⟨0, Nat.le_refl 0, fun j hj => absurd hj (Nat.not_lt_zero j), fun h => absurd h (Nat.not_lt_zero 0), rfl⟩
  | succ n ih =>
    have hiff : (recView s copse o).ready ↔ _ := viewOf_ready (s.recAt copse o)
    unfold State.recCheck
    simp only
    split
    · next hready =>
      have hready := hiff.mpr hready
      obtain ⟨hview, hw'⟩ := recComplete_view s false hw
      obtain ⟨m, hm, hall, hno, he⟩ := ih _ hw'
      generalize recView s copse o = v at hview hready
      rw [hview] at hall hno he
      rw [after_succ] at hno he
      refine ⟨m + 1, by omega, fun j hj => ?_, fun h => hno (by omega), he⟩
      cases j with
      | zero => exact hready
      | succ j =>
        rw [← after_succ]
        exact hall j (by omega)
    · next hready => exact ⟨0, Nat.zero_le _, fun j hj => absurd hj (Nat.not_lt_zero j), fun _ h => hready (hiff.mp h), rfl⟩

theorem recCheck_settles {w : Nat → Bool} {s : State} (hw : Tells w s copse o) : ∃ n, (recView s copse o).settles w n ∧
    recView (s.recCheck copse o recFuel) copse o = (recView s copse o).after w n := by
  obtain ⟨m, hm, hall, hno, he⟩ := recCheck_view recFuel s hw
  exact ⟨m, ⟨hm, hall, hno⟩, he⟩

theorem tells_self (s : State) : Tells (heldWaits s copse) s copse o := fun _ _ _ => rfl

/-- A delivered line counts in the record (R356). -/
theorem recDeliver_counts (s : State) {slot : Nat} (stand : Nat) (h : slot < 4) : LineCounted s (s.recDeliver copse o slot stand) copse o slot stand := by
  obtain ⟨r, hr⟩ : ∃ r, r = s.recAt copse o := ⟨_, rfl⟩
  unfold LineCounted
  rw [recView_eq, ← hr]
  simp only [viewOf_slots_getD r h]
  have hadmits (x : Nat) : (x == 16 || x == stand % 16) = true ↔ x = 16 ∨ x = stand % 16 := by simp
  unfold State.recDeliver
  simp only [← hr]
  refine ⟨fun hv => ?_, fun hv hno => ?_, fun hv hc => ?_⟩
  · rw [if_pos (show recVALID r = 0 from hv), recView_eq, ← hr]
  · have hv' : recVALID r ≠ 0 := by rw [show recVALID r = 1 from hv]; decide
    rw [if_neg hv', if_neg (fun hc => hno ⟨hc.1, (hadmits _).mp hc.2⟩), recView_setRec, viewOf_stray]
  · have hv' : recVALID r ≠ 0 := by rw [show recVALID r = 1 from hv]; decide
    rw [if_neg hv', if_pos ⟨hc.1, (hadmits _).mpr hc.2⟩]
    have hle : minN 1023 (recDELL r slot + 1) < 1024 := by unfold minN; split <;> omega
    have hset := (recView_setRec (copse := copse) (o := o) s (setDELL r slot (minN 1023 (recDELL r slot + 1)))).trans (viewOf_setDELL r h hle)
    have htells : Tells (heldWaits s copse) (s.setRec copse o (setDELL r slot (minN 1023 (recDELL r slot + 1)))) copse o := fun _ _ _ => rfl
    obtain ⟨n, hn, he⟩ := recCheck_settles htells
    rw [hset] at hn he
    exact ⟨n, hn, he⟩

/-- A copy that ends early breaks the phase (R325). -/
theorem recBreak_breaks (s : State) {slot : Nat} (h : slot < 4) : PhaseBroken s (s.recBreak copse o slot) copse o slot := by
  obtain ⟨r, hr⟩ : ∃ r, r = s.recAt copse o := ⟨_, rfl⟩
  unfold PhaseBroken
  simp only
  rw [recView_eq, ← hr, viewOf_slots_getD r h]
  unfold State.recBreak
  simp only [← hr]
  change if recVALID r = 1 ∧ recEXPL r slot ≠ 0 then _ else _
  by_cases hc : recVALID r = 1 ∧ recEXPL r slot ≠ 0
  · rw [if_pos hc, if_pos hc]
    obtain ⟨hview, hw⟩ := recComplete_view s true (tells_self (copse := copse) (o := o) s)
    obtain ⟨n, hn, he⟩ := recCheck_settles hw
    rw [hview, recView_eq s, ← hr] at hn he
    exact ⟨n, hn, he⟩
  · rw [if_neg hc, if_neg hc, recView_eq, ← hr]

end

end Sys2Proof.Machine
end
section
/-! SUPPORT. How a copy ends: done, cancelled, denied or with its trap (spec/14 R321, R323-R325; spec/17 R397). -/

namespace Sys2Proof.Machine

/-! ### A copse's copies -/

theorem copyOf_seq {c : Copse} {seq : Nat} {x : Copy} (h : c.copyOf seq = some x) : x.seq = seq := by
  have := List.find?_some h
  simpa using this

theorem find?_map_copy {seq : Nat} {f : Copy → Copy} (hf : ∀ y, (f y).seq = y.seq) : ∀ {l : List Copy} {x : Copy}, l.find? (fun y => y.seq == seq) = some x →
    (l.map (fun y => if y.seq = seq then f y else y)).find? (fun y => y.seq == seq) = some (f x)
  | y :: l, x, h => by
    by_cases hy : y.seq = seq
    · rw [List.find?_cons_of_pos (by simp [hy])] at h
      cases h
      rw [List.map_cons, if_pos hy, List.find?_cons_of_pos (by simp [hf, hy])]
    · rw [List.find?_cons_of_neg (by simp [hy])] at h
      rw [List.map_cons, if_neg hy, List.find?_cons_of_neg (by simp [hy])]
      exact find?_map_copy hf h

theorem copyOf_mapCopy {c : Copse} {seq : Nat} {x : Copy} (h : c.copyOf seq = some x) {f : Copy → Copy} (hf : ∀ y, (f y).seq = y.seq) :
    (c.mapCopy seq f).copyOf seq = some (f x) := find?_map_copy hf h

theorem copyOf_dropCopy (c : Copse) (seq : Nat) : (c.dropCopy seq).copyOf seq = none := by
  refine List.find?_eq_none.mpr fun y hy => ?_
  have := (List.mem_filter.mp hy).2
  simpa using this

/-! ### A copy ends (R321, R331) -/

theorem copseAt_of_copses {s t : State} (h : t.copses = s.copses) (c : Nat) : t.copseAt c = s.copseAt c := by
  unfold State.copseAt
  rw [h]

theorem wakeCopies_frame (s : State) (copse : Nat) : CopyFrame copse s (s.wakeCopies copse) ∧ (s.wakeCopies copse).copses = s.copses := by
  unfold State.wakeCopies
  generalize (s.copseAt copse).copies = cs
  refine List.foldlRecOn (s.standsOf copse) _ (motive := fun t => CopyFrame copse s t ∧ t.copses = s.copses) ⟨.refl s, rfl⟩ fun t ht k _ => ?_
  obtain ⟨hf, hc⟩ := ht
  simp only
  split
  · split
    · exact ⟨hf, hc⟩
    · exact ⟨hf.trans (copyFrame_setStand (standKept_of_wait rfl rfl rfl fun _ => rfl) rfl rfl), hc⟩
  · exact ⟨hf, hc⟩

/-- What is left of a copy that has ended. -/
def Copy.over (x : Copy) (status : BitVec 2) : Option Copy :=
  if x.ntf.isSome then some { x with status := some status, parked := none, fate := none } else none

/-- Of the copse its copies alone differ. -/
def CopiesOnly (copse : Nat) (s t : State) : Prop := t.copseAt copse = { s.copseAt copse with copies := (t.copseAt copse).copies }

theorem copiesOnly_setCopse {s : State} {copse : Nat} {c : Copse} (h : c = { s.copseAt copse with copies := c.copies }) : CopiesOnly copse s (s.setCopse copse c) := by
  unfold CopiesOnly
  rw [setCopse_copseAt]
  exact h

theorem CopiesOnly.trans {copse : Nat} {s t u : State} (h : CopiesOnly copse s t) (h' : CopiesOnly copse t u) : CopiesOnly copse s u := by
  unfold CopiesOnly at *
  rw [h', h]

theorem copyEnd_ends {s : State} {copse seq : Nat} {x : Copy} (h : (s.copseAt copse).copyOf seq = some x) (status : BitVec 2) :
    CopyFrame copse s (s.copyEnd copse seq status) ∧ CopiesOnly copse s (s.copyEnd copse seq status) ∧
    ((s.copyEnd copse seq status).copseAt copse).copyOf seq = x.over status := by
  unfold State.copyEnd Copy.over
  simp only [h]
  split
  · refine ⟨copyFrame_setCopse .., copiesOnly_setCopse rfl, ?_⟩
    rw [setCopse_copseAt]
    exact copyOf_mapCopy h (f := fun x => { x with status := some status, parked := none, fate := none }) fun _ => rfl
  · obtain ⟨hf, hc⟩ := wakeCopies_frame (s.setCopse copse ((s.copseAt copse).dropCopy seq)) copse
    have hat : ((s.setCopse copse ((s.copseAt copse).dropCopy seq)).wakeCopies copse).copseAt copse = (s.copseAt copse).dropCopy seq := (copseAt_of_copses hc copse).trans (setCopse_copseAt ..)
    refine ⟨(copyFrame_setCopse ..).trans hf, ?_, ?_⟩
    · unfold CopiesOnly
      rw [hat]
      rfl
    · rw [hat]
      exact copyOf_dropCopy ..

/-! ### A copy is cancelled (R325) -/

/-- The lines that have a copy as filler have none any more. -/
def Copse.emptied (c : Copse) (seq : Nat) (ls : List Nat) : Copse := ls.foldl (fun c l =>
  let y := c.lineAt l
  if y.filler = some (.copy seq) then c.setLine l { y with filler := none } else c) c

theorem emptied_rest (seq : Nat) : ∀ (ls : List Nat) (c : Copse), c.emptied seq ls = { c with lines := (c.emptied seq ls).lines }
  | [], _ => rfl
  | l :: ls, c => by
    have hstep : c.emptied seq (l :: ls) = (if (c.lineAt l).filler = some (.copy seq) then c.setLine l { c.lineAt l with filler := none } else c).emptied seq ls := rfl
    rw [hstep, emptied_rest seq ls]
    split <;> rfl

theorem emptied_lineAt (seq l : Nat) : ∀ (ls : List Nat) (c : Copse),
    (c.emptied seq ls).lineAt l = if l ∈ ls ∧ (c.lineAt l).filler = some (.copy seq) then { c.lineAt l with filler := none } else c.lineAt l
  | [], c => by simp [Copse.emptied]
  | k :: ls, c => by
    have hstep : c.emptied seq (k :: ls) = (if (c.lineAt k).filler = some (.copy seq) then c.setLine k { c.lineAt k with filler := none } else c).emptied seq ls := rfl
    rw [hstep, emptied_lineAt seq l ls]
    by_cases hlk : l = k
    · subst hlk
      by_cases hf : (c.lineAt l).filler = some (.copy seq)
      · simp [hf, setLine_lineAt]
      · simp [hf]
    · have hsame : (if (c.lineAt k).filler = some (.copy seq) then c.setLine k { c.lineAt k with filler := none } else c).lineAt l = c.lineAt l := by
        split
        · rw [setLine_lineAt, if_neg hlk]
        · rfl
      rw [hsame]
      simp [hlk]

theorem PhaseBroken.congr {s t s' t' : State} {copse o slot : Nat} (h : PhaseBroken s t copse o slot) (hs : recView s' copse o = recView s copse o)
    (hw : heldWaits s' copse = heldWaits s copse) (ht : recView t' copse o = recView t copse o) : PhaseBroken s' t' copse o slot := by
  unfold PhaseBroken at *
  rw [hs, hw, ht]
  exact h

theorem LineCounted.congr {s t s' t' : State} {copse o slot k : Nat} (h : LineCounted s t copse o slot k) (hs : recView s' copse o = recView s copse o)
    (hw : heldWaits s' copse = heldWaits s copse) (ht : recView t' copse o = recView t copse o) : LineCounted s' t' copse o slot k := by
  unfold LineCounted at *
  simp only [hs, hw, ht]
  exact h

theorem recView_of_scratch {s t : State} {copse : Nat} (h : (t.copseAt copse).scratch = (s.copseAt copse).scratch) (o : Nat) :
    recView t copse o = recView s copse o := by
  rw [recView_eq, recView_eq]
  exact congrArg viewOf (recAt_congr fun a _ _ => by rw [h])

theorem CopiesOnly.scratch {copse : Nat} {s t : State} (h : CopiesOnly copse s t) : (t.copseAt copse).scratch = (s.copseAt copse).scratch := by rw [h]
theorem CopiesOnly.lineAt {copse : Nat} {s t : State} (h : CopiesOnly copse s t) (l : Nat) : (t.copseAt copse).lineAt l = (s.copseAt copse).lineAt l := by
  rw [h]
  rfl
theorem RecFrame.copyOf {copse o : Nat} {s t : State} (h : RecFrame copse o s t) (seq : Nat) : (t.copseAt copse).copyOf seq = (s.copseAt copse).copyOf seq := by
  rw [h.only]
  rfl
theorem RecFrame.lineAt {copse o : Nat} {s t : State} (h : RecFrame copse o s t) (l : Nat) : (t.copseAt copse).lineAt l = (s.copseAt copse).lineAt l := by
  rw [h.only]
  rfl

/-- The phase of the record that a copy is bound to, if it is, breaks. -/
def State.copyBreaks (s : State) (copse : Nat) (x : Copy) : State :=
  match x.cr with | some (o, slot) => s.recBreak copse o slot | none => s

theorem copyBreaks_breaks (s : State) (copse : Nat) (x : Copy) : CopyFrame copse s (s.copyBreaks copse x) ∧
    ((s.copyBreaks copse x).copseAt copse = { s.copseAt copse with scratch := ((s.copyBreaks copse x).copseAt copse).scratch }) ∧
    (∀ a, x.apart a → memGet ((s.copyBreaks copse x).copseAt copse).scratch a = memGet (s.copseAt copse).scratch a) ∧
    ∀ o slot, x.cr = some (o, slot) → slot < 4 → PhaseBroken s (s.copyBreaks copse x) copse o slot := by
  unfold State.copyBreaks
  split
  · next o slot h =>
    have hf := recBreak_frame (copse := copse) (o := o) s slot
    refine ⟨hf.frame, hf.only, fun a ha => hf.apart a (ha o slot h), fun o' slot' h' hlt => ?_⟩
    rw [h] at h'
    cases h'
    exact recBreak_breaks s hlt
  · next h => exact ⟨.refl s, rfl, fun _ _ => rfl, fun o slot h' => by rw [h] at h'; cases h'⟩

theorem copyCancel_eq {s : State} {copse seq : Nat} {x : Copy} (h : (s.copseAt copse).copyOf seq = some x) (hst : x.status = none) (status : BitVec 2) :
    s.copyCancel copse seq status =
      ((s.setCopse copse ((s.copseAt copse).emptied seq x.restLines)).copyBreaks copse x).copyEnd copse seq status := by
  unfold State.copyCancel
  simp only [h, hst, Option.isSome_none, Bool.false_eq_true, if_false]
  rfl

/-- A cancelled copy ends (R325). -/
theorem copyCancel_ends {s : State} {copse seq : Nat} {x : Copy} (h : (s.copseAt copse).copyOf seq = some x) (hst : x.status = none) (status : BitVec 2) :
    CopyFrame copse s (s.copyCancel copse seq status) ∧ CopyEnds s (s.copyCancel copse seq status) copse x status := by
  rw [copyCancel_eq h hst]
  obtain rfl := copyOf_seq h
  obtain ⟨u, hu⟩ : ∃ u, u = s.setCopse copse ((s.copseAt copse).emptied x.seq x.restLines) := ⟨_, rfl⟩
  rw [← hu]
  have hucopse : u.copseAt copse = (s.copseAt copse).emptied x.seq x.restLines := by rw [hu, setCopse_copseAt]
  have hurest : u.copseAt copse = { s.copseAt copse with lines := (u.copseAt copse).lines } := by rw [hucopse]; exact emptied_rest ..
  have huscratch : (u.copseAt copse).scratch = (s.copseAt copse).scratch := by rw [hurest]
  obtain ⟨hbf, hbonly, hbapart, hbbreaks⟩ := copyBreaks_breaks u copse x
  generalize u.copyBreaks copse x = v at *
  have hvof : (v.copseAt copse).copyOf x.seq = some x := by
    rw [hbonly, ← h, hurest]
    rfl
  obtain ⟨hef, heonly, heover⟩ := copyEnd_ends hvof status
  have huf : CopyFrame copse s u := hu ▸ copyFrame_setCopse ..
  refine ⟨(huf.trans hbf).trans hef, ?_, fun l => ?_, fun a ha => ?_, fun o slot hcr hlt => ?_⟩
  · rw [heover]
    unfold Copy.over
    cases x.ntf <;> simp
  · rw [heonly.lineAt]
    refine Eq.trans ?_ (emptied_lineAt x.seq l x.restLines (s.copseAt copse))
    rw [← hucopse, hbonly]
    rfl
  · rw [heonly.scratch, hbapart a ha, huscratch]
  · exact (hbbreaks o slot hcr hlt).congr (recView_of_scratch huscratch.symm o) (by rw [hu]; rfl) (recView_of_scratch heonly.scratch o)

/-! ### With a trap (R323, R397) -/

/-- A record names what a trap asks for. -/
def NamedBy (r : TrapReq) (f : FaultRec) : Prop :=
  f.cls = r.cls ∧ f.cause = r.cause ∧ f.addr = r.addr ∧ f.akind = r.akind ∧ f.sm = r.sm ∧ f.aux = r.aux

theorem TrapDeferred.mono {s t : State} {k : Nat} {p q : FaultRec → Prop} (h : TrapDeferred s t k p) (hpq : ∀ r, p r → q r) : TrapDeferred s t k q := by
  obtain ⟨r, hr, hrest⟩ := h
  exact ⟨r, hpq r hr, hrest⟩

theorem TrapDeferred.then {s t u : State} {copse k : Nat} {p : FaultRec → Prop} (h : TrapDeferred s t k p) (hf : CopyFrame copse t u) : TrapDeferred s u k p := by
  obtain ⟨r, hr, hdefer, hpc, htseq, hd, ht⟩ := h
  exact ⟨r, hr, hdefer, hpc, htseq, (hf.traps k).1.trans hd, (hf.traps k).2.trans ht⟩

theorem TrapDeferred.of_stand {s t s' : State} {k : Nat} {p : FaultRec → Prop} (h : TrapDeferred s t k p) (hs : s'.standAt k = s.standAt k) :
    TrapDeferred s' t k p := by
  unfold TrapDeferred at *
  rw [hs]
  exact h

/-- A trap deferred for a stand that is there. -/
theorem deferTrap_defers {s : State} {k : Nat} (hl : (s.standAt k).life ≠ .absent) (r : TrapReq) :
    TrapDeferred s (s.deferTrap k r) k (NamedBy r) ∧ s.deferTrap k r = { s with stands := (s.deferTrap k r).stands } ∧
    (∀ copse, Keeps copse s (s.deferTrap k r)) ∧ ∀ j, ((s.deferTrap k r).standAt j).wait = (s.standAt j).wait := by
  unfold State.deferTrap
  simp only [if_neg hl]
  refine ⟨⟨s.faultRec k r (if (s.standAt k).life = .ending then (s.standAt k).exitPc else (s.standAt k).pc) true, ⟨rfl, rfl, rfl, rfl, rfl, rfl⟩, rfl, rfl, rfl, ?_, ?_⟩, rfl, fun _ => keeps_setStand ⟨rfl, rfl, rfl, fun _ h => h⟩, fun j => ?_⟩
  · rw [setStand_standAt]
  · rw [setStand_standAt]
  · rw [setStand_standAt_at]
    split
    · next h => subst h; rfl
    · rfl

theorem CopyEnds.of_same {s s' t : State} {copse : Nat} {x : Copy} {status : BitVec 2} (h : CopyEnds s t copse x status)
    (hc : s'.copseAt copse = s.copseAt copse) (hw : heldWaits s' copse = heldWaits s copse) : CopyEnds s' t copse x status := by
  obtain ⟨hof, hlines, hapart, hbreaks⟩ := h
  refine ⟨hof, ?_, ?_, fun o slot hcr hlt => (hbreaks o slot hcr hlt).congr (recView_of_scratch (by rw [hc]) o) hw rfl⟩
  · rw [hc]; exact hlines
  · rw [hc]; exact hapart

/-- A copy that fails ends with its trap where the queue of its stand has room. -/
theorem copyFail_ends {s : State} {copse seq : Nat} {x : Copy} (h : (s.copseAt copse).copyOf seq = some x) (hst : x.status = none)
    (hlife : (s.standAt x.stand).life ≠ .absent) (hroom : (s.standAt x.stand).deferred.length < 16) (status : BitVec 2) (r : TrapReq) :
    let t := s.copyFail copse seq status r
    Keeps copse s t ∧ CopyEnds s t copse x status ∧ TrapDeferred s t x.stand (NamedBy r) := by
  have heq : s.copyFail copse seq status r = (s.deferTrap x.stand r).copyCancel copse seq status := by
    unfold State.copyFail State.deferRoom
    simp only [h, hst, Option.isSome_none, Bool.false_eq_true, if_false, hroom, decide_true, if_true]
  obtain ⟨htrap, hrest, hkeeps, hwait⟩ := deferTrap_defers hlife r
  rw [heq]
  have hcopse : (s.deferTrap x.stand r).copseAt copse = s.copseAt copse := by
    rw [hrest]
    rfl
  obtain ⟨hf, hends⟩ := copyCancel_ends (s := s.deferTrap x.stand r) (hcopse ▸ h) hst status
  exact ⟨(hkeeps copse).trans hf.toKeeps, hends.of_same hcopse.symm (funext fun i => (heldWaits_congr (hwait _)).symm), htrap.then hf⟩

/-- Without room it stays as one that has failed. -/
theorem copyFail_stays {s : State} {copse seq : Nat} {x : Copy} (h : (s.copseAt copse).copyOf seq = some x) (hst : x.status = none)
    (hroom : ¬(s.standAt x.stand).deferred.length < 16) (status : BitVec 2) (r : TrapReq) :
    let t := s.copyFail copse seq status r
    Keeps copse s t ∧ t.stands = s.stands ∧ (t.copseAt copse).copyOf seq = some { x with fate := some (status, r) } := by
  have heq : s.copyFail copse seq status r = s.setCopse copse ((s.copseAt copse).mapCopy seq (fun x => { x with fate := some (status, r) })) := by
    unfold State.copyFail State.deferRoom
    simp only [h, hst, Option.isSome_none, Bool.false_eq_true, if_false, hroom, decide_false]
  rw [heq]
  refine ⟨(copyFrame_setCopse ..).toKeeps, rfl, ?_⟩
  rw [setCopse_copseAt]
  exact copyOf_mapCopy h (f := fun x => { x with fate := some (status, r) }) fun _ => rfl

end Sys2Proof.Machine
end
section
/-! SUPPORT. A copy at a page that does not translate, and the answer to its request (spec/14 R320, R323; spec/19 R444, R448). -/

namespace Sys2Proof.Machine

/-! ### A line of a copy is tried (R320) -/

/-- What a copy's engine does with one ripe line. -/
def State.deliverUnit (s : State) (copse : Nat) (x : Copy) (i : Nat) : State :=
  let c := s.copseAt copse
  let u := (x.units[i]?).getD []
  let ls := (u.map (fun p => p.2.1 / 128)).dedup
  if c.copyBehind x u || s.fetchBehind copse x u then s
  else match s.unitXlate copse (if x.form.inward then .read else .write) u with
  | (.fault cause, _) => s.copyPark copse x (s.copyCause copse x cause) (s.copyLine copse x)
  | (.ok qs, _) =>
    if x.form.inward then
      match x.restLines.find? (fun l => (c.lineAt l).bm) with
      | some l => s.copyFail copse x.seq 1 (x.trap 5 2 (maxN x.off (128 * l)) true 6)
      | none =>
        let s := s.touchLines copse ls
        if ls.any (s.copseAt copse).awaitsFill then s
        else if qs.any (fun q => s.stagedLine (q.1 / 128)) then s.holdAt (.copy copse x.seq x.todo.length) (qs.map (fun q => q.1 / 128))
        else (qs.foldl (fun s q => s.movePiece copse x q) s).unitDone copse x i u
    else
      let s := s.touchLines copse ls
      let c := s.copseAt copse
      match ls.find? (fun l => !(c.lineAt l).full && (c.lineAt l).filler == none) with
      | some l => s.copyFail copse x.seq 1 (x.trap 4 3 (maxN x.off (128 * l)) true 5)
      | none =>
        if !c.linesFull ls then s
        else if qs.any (fun q => s.stagedLine (q.1 / 128)) then s.holdAt (.copy copse x.seq x.todo.length) (qs.map (fun q => q.1 / 128))
        else (qs.foldl (fun s q => s.movePiece copse x q) s).bump.unitDone copse x i u

/-- The machine behind the choice of a line. -/
def State.afterChoice (s : State) (x : Copy) : State := if x.ripe.length = 1 then s else s.bump

section
variable {s : State} {copse seq : Nat} {x : Copy}

theorem deliver_parked (h : (s.copseAt copse).copyOf seq = some x) (hfate : x.fate = none) (hp : x.parked ≠ none) : s.deliver copse seq = s := by
  obtain ⟨id, hid⟩ := Option.ne_none_iff_exists'.mp hp
  unfold State.deliver
  simp only [h, hfate, hid, Option.isSome_some, true_or, if_true, ite_self]

theorem deliver_fated (h : (s.copseAt copse).copyOf seq = some x) (hl : (s.copseAt copse).life = .resident) (hst : x.status = none) {st : BitVec 2}
    {r : TrapReq} (hfate : x.fate = some (st, r)) : s.deliver copse seq = s.copyFail copse seq st r := by
  unfold State.deliver
  simp only [h, hl, hst, hfate, Option.isSome_none, Bool.false_eq_true, ne_eq, not_true_eq_false, or_self, if_false]

theorem deliver_tries (h : (s.copseAt copse).copyOf seq = some x) (hl : (s.copseAt copse).life = .resident) (hst : x.status = none)
    (hfate : x.fate = none) (hp : x.parked = none) (hripe : x.ripe ≠ []) : ∃ i ∈ x.ripe, s.deliver copse seq = (s.afterChoice x).deliverUnit copse x i := by
  obtain rfl := copyOf_seq h
  have hpos : 0 < x.ripe.length := List.length_pos_iff.mpr hripe
  have hget {j : Nat} (hj : j < x.ripe.length) : (x.ripe[j]?).getD 0 ∈ x.ripe := by
    rw [List.getElem?_eq_getElem hj]
    exact List.getElem_mem hj
  by_cases h1 : x.ripe.length = 1
  · refine ⟨(x.ripe[0]?).getD 0, hget hpos, ?_⟩
    unfold State.deliver State.afterChoice
    simp only [h, hl, hst, hfate, hp, hripe, h1, Option.isSome_none, Bool.false_eq_true, ne_eq, not_true_eq_false, or_self, if_false, if_true] <;> rfl
  · refine ⟨(x.ripe[Config.freeNat s.free % x.ripe.length]?).getD 0, hget (Nat.mod_lt _ hpos), ?_⟩
    unfold State.deliver State.afterChoice
    simp only [h, hl, hst, hfate, hp, hripe, h1, Option.isSome_none, Bool.false_eq_true, ne_eq, not_true_eq_false, or_self, if_false] <;> rfl

theorem deliverUnit_fault {i cause a : Nat} (hb : (s.copseAt copse).copyBehind x ((x.units[i]?).getD []) = false)
    (hf : s.fetchBehind copse x ((x.units[i]?).getD []) = false)
    (hx : s.unitXlate copse (if x.form.inward then .read else .write) ((x.units[i]?).getD []) = (.fault cause, a)) :
    s.deliverUnit copse x i = s.copyPark copse x (s.copyCause copse x cause) (s.copyLine copse x) := by
  unfold State.deliverUnit
  simp only [hb, hf, hx, Bool.or_self, Bool.false_eq_true, if_false]

/-- The first undelivered line names the cause and the address (R323). -/
theorem copyCause_first {first cause va d : Nat} (hfirst : lowest x.ripe = some first)
    (hx : s.unitXlate copse (if x.form.inward then .read else .write) ((x.units[first]?).getD []) = (.fault cause, va)) :
    s.copyCause copse x d = cause ∧ s.copyLine copse x = 128 * (va / 128) := by
  unfold State.copyCause State.copyLine
  simp only [hfirst, Option.getD_some, hx, and_self]

/-! ### Parking (R323) -/

theorem event_pages (v : Vi) (m : Mem) (r : FaultRec) : (v.event m r).1.pages = v.pages := by
  unfold Vi.event
  split <;> rfl

theorem postPage_pages (s : State) (vi va cause : Nat) :
    ∃ p ∈ ((s.postPage vi va cause).2.viAt vi).pages, p.id = (s.postPage vi va cause).1 ∧ p.page = pageOf va ∧ p.cause = cause := by
  unfold State.postPage
  simp only
  split
  · next p h =>
    have hp := List.find?_some h
    rw [Bool.and_eq_true, beq_iff_eq, beq_iff_eq] at hp
    exact ⟨p, List.mem_of_find?_eq_some h, rfl, hp⟩
  · refine ⟨⟨(s.viAt vi).nextReq, pageOf va, cause⟩, ?_, rfl, rfl, rfl⟩
    unfold State.postEvent
    simp only [setVi_viAt, event_pages]
    exact List.mem_append_right _ (List.mem_singleton_self _)

theorem copyPark_full {cause line : Nat} (hc : cause = 2 ∨ cause = 3) (hroom : ¬(s.standAt x.stand).deferred.length < 16) :
    s.copyPark copse x cause line = s := by
  unfold State.copyPark State.deferRoom
  simp only [if_pos hc, hroom, decide_false, Bool.not_false, if_true]

theorem copyPark_ends {cause line : Nat} (h2 : cause ≠ 2) (h3 : cause ≠ 3) :
    s.copyPark copse x cause line = s.copyFail copse x.seq 2 (x.trap 3 6 line false x.akind) := by
  unfold State.copyPark
  rw [if_neg (by simp [h2, h3])]

/-- A copy parks on the request of its first undelivered line (R323). -/
theorem copyPark_parks {cause line : Nat} (h : (s.copseAt copse).copyOf x.seq = some x) (hc : cause = 2 ∨ cause = 3)
    (hroom : (s.standAt x.stand).deferred.length < 16) (hlife : (s.standAt x.stand).life ≠ .absent) :
    let t := s.copyPark copse x cause line
    SameMemory s t ∧ (t.copseAt copse).scratch = (s.copseAt copse).scratch ∧ (t.copseAt copse).lines = (s.copseAt copse).lines ∧
    TrapDeferred s t x.stand (NamedBy (x.trap 3 cause line false x.akind)) ∧ ∃ id, (t.copseAt copse).copyOf x.seq = some { x with parked := some id } ∧
      ∃ p ∈ (t.viAt (s.copseAt copse).vi).pages, p.id = id ∧ p.page = pageOf line ∧ p.cause = cause := by
  obtain ⟨id, u, hu⟩ : ∃ id u, s.postPage (s.copseAt copse).vi line cause = (id, u) := ⟨_, _, rfl⟩
  obtain ⟨v, hv⟩ : ∃ v, v = u.setCopse copse ((u.copseAt copse).mapCopy x.seq (fun x => { x with parked := some id })) := ⟨_, rfl⟩
  have heq : s.copyPark copse x cause line = v.deferTrap x.stand (x.trap 3 cause line false x.akind) := by
    unfold State.copyPark State.deferRoom
    simp only [if_pos hc, hroom, decide_true, Bool.not_true, Bool.false_eq_true, if_false, hu, hv]
  have haside := (aside_postPage s (s.copseAt copse).vi line cause).1
  have hpages := postPage_pages s (s.copseAt copse).vi line cause
  rw [hu] at haside hpages
  have hucopse : u.copseAt copse = s.copseAt copse := copseAt_of_copses haside.copses copse
  have hvstand (k : Nat) : v.standAt k = s.standAt k := by
    rw [hv]
    exact haside.standAt k
  have hvmem : SameMemory s v := by
    rw [hv]
    exact fun core pa => haside.sameMemory core pa
  have hvcopse : v.copseAt copse = (s.copseAt copse).mapCopy x.seq (fun x => { x with parked := some id }) := by rw [hv, setCopse_copseAt, hucopse]
  obtain ⟨htrap, hrest, -, -⟩ := deferTrap_defers (s := v) (k := x.stand) (by rw [hvstand]; exact hlife) (x.trap 3 cause line false x.akind)
  rw [heq]
  generalize v.deferTrap x.stand (x.trap 3 cause line false x.akind) = t at *
  have htcopse : t.copseAt copse = v.copseAt copse := by
    rw [hrest]
    rfl
  have htvis : t.viAt (s.copseAt copse).vi = u.viAt (s.copseAt copse).vi := by
    rw [hrest, hv]
    rfl
  refine ⟨?_, ?_, ?_, htrap.of_stand (hvstand _).symm, id, ?_, ?_⟩
  · have htmem : SameMemory v t := by
      rw [hrest]
      exact sameMemory_of_parts (fun _ => rfl) rfl rfl rfl
    exact fun core pa => (htmem core pa).trans (hvmem core pa)
  · rw [htcopse, hvcopse]
    rfl
  · rw [htcopse, hvcopse]
    rfl
  · rw [htcopse, hvcopse]
    exact copyOf_mapCopy h (f := fun x => { x with parked := some id }) fun _ => rfl
  · rw [htvis]
    exact hpages
end

end Sys2Proof.Machine
end
section
/-! SUPPORT. How a copy fails or parks, and goes on or ends by the answer of its page request (spec/14 R323, R324; spec/19 R444, R448). -/

namespace Sys2Proof.Machine

/-! ### Failing and parking -/

theorem afterChoice_eq (s : State) (x : Copy) : ∃ f, s.afterChoice x = { s with free := f } := by
  unfold State.afterChoice
  split
  · exact ⟨s.free, rfl⟩
  · exact ⟨_, rfl⟩

theorem Keeps.sameMemory_of {copse : Nat} {s t : State} {f : Nat} (h : Keeps copse { s with free := f } t) : SameMemory s t :=
  fun core pa => h.sameMemory core pa

section
variable {s : State} {copse seq : Nat} {x : Copy}

/-- The trap of a copy by its record. -/
def Copy.traps (x : Copy) (cause line : Nat) (r : FaultRec) : Prop :=
  r.cls = 3 ∧ r.cause = BitVec.ofNat 8 cause ∧ r.addr = BitVec.ofNat 64 line ∧ r.akind = (if x.form.inward then 5 else 6) ∧ r.sm = x.sm ∧
    r.aux = x.num.setWidth 64

theorem traps_of_named {cause line : Nat} (r : FaultRec) (h : NamedBy (x.trap 3 cause line false x.akind) r) : x.traps cause line r := by
  obtain ⟨hcls, hcause, haddr, hakind, hsm, haux⟩ := h
  refine ⟨hcls, hcause, haddr, hakind.trans ?_, hsm, haux⟩
  show BitVec.ofNat 4 x.akind = _
  unfold Copy.akind
  split <;> rfl

/-- A copy whose end waited for room ends with it. -/
theorem fated_ends (h : (s.copseAt copse).copyOf seq = some x) (hl : (s.copseAt copse).life = .resident) (hst : x.status = none)
    (hlife : (s.standAt x.stand).life ≠ .absent) (st : BitVec 2) (r : TrapReq) (hfate : x.fate = some (st, r)) :
    ((s.standAt x.stand).deferred.length < 16 → ∃ t, exec (.copyLineDeliver copse seq) s = .next t ∧ SameMemory s t ∧ CopyEnds s t copse x st ∧
      TrapDeferred s t x.stand (fun f => f.cls = r.cls ∧ f.cause = r.cause ∧ f.addr = r.addr)) ∧
    (¬(s.standAt x.stand).deferred.length < 16 → ∃ t, exec (.copyLineDeliver copse seq) s = .next t ∧ SameMemory s t ∧
      (t.copseAt copse).copyOf seq = some x ∧ t.stands = s.stands) := by
  have hexec : exec (.copyLineDeliver copse seq) s = .next (s.copyFail copse seq st r) := congrArg Host.Outcome.next (deliver_fated h hl hst hfate)
  refine ⟨fun hroom => ⟨_, hexec, ?_⟩, fun hroom => ⟨_, hexec, ?_⟩⟩
  · obtain ⟨hkeeps, hends, htrap⟩ := copyFail_ends h hst hlife hroom st r
    exact ⟨hkeeps.sameMemory, hends, htrap.mono fun f hf => ⟨hf.1, hf.2.1, hf.2.2.1⟩⟩
  · obtain ⟨hkeeps, hstands, hof⟩ := copyFail_stays h hst hroom st r
    refine ⟨hkeeps.sameMemory, hof.trans ?_, hstands⟩
    rw [← hfate]

/-- A copy none of whose ripe lines translates parks or ends at the first (R323). -/
theorem faulted_parks (h : (s.copseAt copse).copyOf seq = some x) (hl : (s.copseAt copse).life = .resident) (hst : x.status = none)
    (hlife : (s.standAt x.stand).life ≠ .absent) (hfate : x.fate = none) (hp : x.parked = none) {first cause va : Nat} (hfirst : first ∈ x.ripe)
    (hleast : ∀ i ∈ x.ripe, first ≤ i)
    (hall : ∀ i ∈ x.ripe, (s.copseAt copse).copyBehind x ((x.units[i]?).getD []) = false ∧ s.fetchBehind copse x ((x.units[i]?).getD []) = false ∧
      ∃ a, (s.afterChoice x).unitXlate copse (if x.form.inward then .read else .write) ((x.units[i]?).getD []) = (.fault cause, a))
    (hx : (s.afterChoice x).unitXlate copse (if x.form.inward then .read else .write) ((x.units[first]?).getD []) = (.fault cause, va)) :
    ∃ t, exec (.copyLineDeliver copse seq) s = .next t ∧ SameMemory s t ∧
      (cause = 2 ∨ cause = 3 → (s.standAt x.stand).deferred.length < 16 → (t.copseAt copse).scratch = (s.copseAt copse).scratch ∧
        (t.copseAt copse).lines = (s.copseAt copse).lines ∧ TrapDeferred s t x.stand (x.traps cause (128 * (va / 128))) ∧
        ∃ id, (t.copseAt copse).copyOf seq = some { x with parked := some id } ∧
          ∃ p ∈ (t.viAt (s.copseAt copse).vi).pages, p.id = id ∧ p.page = 128 * (va / 128) / 65536 ∧ p.cause = cause) ∧
      (cause = 2 ∨ cause = 3 → ¬(s.standAt x.stand).deferred.length < 16 → t.copses = s.copses ∧ t.stands = s.stands ∧ t.vis = s.vis) ∧
      (cause ≠ 2 → cause ≠ 3 → (s.standAt x.stand).deferred.length < 16 → CopyEnds s t copse x 2 ∧
        TrapDeferred s t x.stand (x.traps 6 (128 * (va / 128)))) := by
  obtain rfl := copyOf_seq h
  obtain ⟨i, hi, hdeliver⟩ := deliver_tries h hl hst hfate hp (List.ne_nil_of_mem hfirst)
  obtain ⟨hbehind, hfetch, a, hxi⟩ := hall i hi
  obtain ⟨f, hv⟩ := afterChoice_eq s x
  obtain ⟨hcause, hline⟩ := copyCause_first (d := cause) (lowest_eq hfirst hleast) hx
  have hexec : exec (.copyLineDeliver copse x.seq) s = .next ((s.afterChoice x).copyPark copse x cause (128 * (va / 128))) := by
    refine congrArg Host.Outcome.next (hdeliver.trans ?_)
    rw [deliverUnit_fault (by rw [hv]; exact hbehind) (by rw [hv]; exact hfetch) hxi, hcause, hline]
  rw [hv] at hexec
  refine ⟨_, hexec, ?_⟩
  by_cases hc : cause = 2 ∨ cause = 3
  · by_cases hroom : (s.standAt x.stand).deferred.length < 16
    · obtain ⟨hmem, hscratch, hlines, htrap, id, hid⟩ := copyPark_parks (s := { s with free := f }) (line := 128 * (va / 128)) h hc hroom hlife
      refine ⟨fun core pa => hmem core pa, fun _ _ => ⟨hscratch, hlines, (htrap.mono traps_of_named).of_stand rfl, id, hid⟩,
        fun _ hno => absurd hroom hno, fun h2 h3 => absurd hc (by simp [h2, h3])⟩
    · rw [copyPark_full (s := { s with free := f }) hc hroom]
      exact ⟨fun _ _ => rfl, fun _ hyes => absurd hyes hroom, fun _ _ => ⟨rfl, rfl, rfl⟩, fun h2 h3 => absurd hc (by simp [h2, h3])⟩
  · have h2 : cause ≠ 2 := fun e => hc (.inl e)
    have h3 : cause ≠ 3 := fun e => hc (.inr e)
    rw [copyPark_ends (s := { s with free := f }) h2 h3]
    refine ⟨?_, fun hc' => absurd hc' hc, fun hc' => absurd hc' hc, fun _ _ hroom => ?_⟩
    · by_cases hroom : (s.standAt x.stand).deferred.length < 16
      · exact (copyFail_ends (s := { s with free := f }) h hst hlife hroom _ _).1.sameMemory_of
      · exact (copyFail_stays (s := { s with free := f }) h hst hroom _ _).1.sameMemory_of
    · obtain ⟨-, hends, htrap⟩ := copyFail_ends (s := { s with free := f }) h hst hlife hroom 2 (x.trap 3 6 (128 * (va / 128)) false x.akind)
      exact ⟨hends.of_same rfl rfl, (htrap.mono traps_of_named).of_stand rfl⟩
end

/-! ### A command is taken and completed (R444) -/

theorem badCmds_rest (vi : Nat) : ∀ (n : Nat) (s : State), s.badCmds vi n = { s with vis := (s.badCmds vi n).vis, hostMem := (s.badCmds vi n).hostMem }
  | 0, _ => rfl
  | n + 1, s => by
    unfold State.badCmds
    simp only
    split
    · rw [badCmds_rest vi n]
      rfl
    · rfl

theorem takeCmd_rest {s u : State} {vi op : Nat} {tag : BitVec 16} (h : s.takeCmd vi op tag = some u) : u = { s with vis := u.vis, hostMem := u.hostMem } := by
  unfold State.takeCmd at h
  simp only at h
  split at h
  · cases h
    rw [badCmds_rest]
    rfl
  · cases h

/-- The completion ring has room and holds nothing back. -/
def Vi.takesCompletion (v : Vi) : Bool := v.cq.on && !v.cq.full && v.cqHeld == []

theorem takesCompletion_iff (v : Vi) : v.takesCompletion = true ↔ 4 ≤ v.cq.logn.toNat ∧ v.cq.logn.toNat ≤ 12 ∧
    (v.cq.dptr.toNat + 1) % 2 ^ v.cq.logn.toNat ≠ v.cq.hptr.toNat % 2 ^ v.cq.logn.toNat ∧ v.cqHeld = [] := by
  simp [Vi.takesCompletion, Ring.on, Ring.full, Ring.size, and_assoc]

/-- The bits of a completion entry. -/
def completionBits (tag : BitVec 16) (status : Byte) (detail : BitVec 32) : BitVec 128 := (0 : BitVec 64) ++ detail ++ (0 : Byte) ++ status ++ tag

theorem toBits_eq_completionBits (c : Completion) (version : Nat) :
    c.toBits version = (completionBits c.tag c.status (if version ≤ 2 then 0 else c.detail)).toNat := by
  have h (x : BitVec 32) : (completionBits c.tag c.status x).toNat = c.tag.toNat + c.status.toNat * 2 ^ 16 + x.toNat * 2 ^ 32 := by
    simp only [completionBits, toNat_append_add, BitVec.ofNat_eq_ofNat, BitVec.toNat_ofNat]
    ring
  rw [h, Completion.toBits]
  split <;> rfl

theorem completionPosted_complete (s : State) (vi : Nat) (tag : BitVec 16) (status detail : Nat) :
    CompletionPosted s (s.complete vi tag status detail) vi tag status detail := by
  have hentry (m : Mem) (base a : Nat) (y : BitVec 128) :
      memGet (memWrite m base y.toNat 16) a = if base ≤ a ∧ a < base + 16 then y.extractLsb' (8 * (a - base)) 8 else memGet m a := by
    split
    · next h =>
      obtain ⟨i, rfl⟩ := Nat.exists_eq_add_of_le h.1
      rw [memGet_memWrite 16 m base _ i (by omega), Nat.add_sub_cancel_left]
      apply BitVec.eq_of_toNat_eq
      rw [BitVec.toNat_ofNat, BitVec.extractLsb'_toNat, Nat.shiftRight_eq_div_pow, Nat.pow_mul]
    · next h => exact memGet_memWrite_other 16 m base _ a (by omega)
  unfold CompletionPosted State.complete Vi.complete
  simp only [← takesCompletion_iff]
  refine ⟨fun htakes => ?_, fun hheld => ?_⟩
  · have htakes' : ((s.viAt vi).cq.on && !(s.viAt vi).cq.full && (s.viAt vi).cqHeld == []) = true := htakes
    obtain ⟨-, -, -, hempty⟩ := (takesCompletion_iff (s.viAt vi)).mp htakes
    simp only [if_pos htakes', setVi_viAt, setVi_hostMem]
    refine ⟨rfl, trivial, hempty, fun a => ?_⟩
    rw [Nat.mul_comm 4096, toBits_eq_completionBits]
    exact hentry ..
  · have hheld' : ¬((s.viAt vi).cq.on && !(s.viAt vi).cq.full && (s.viAt vi).cqHeld == []) = true := hheld
    simp only [if_neg hheld', setVi_viAt, setVi_hostMem, and_self]

theorem CompletionPosted.of_same {s u t : State} {vi : Nat} {tag : BitVec 16} {status detail : Nat} (h : CompletionPosted u t vi tag status detail)
    (hq : (u.viAt vi).cq = (s.viAt vi).cq) (hh : (u.viAt vi).cqHeld = (s.viAt vi).cqHeld) (hb : (u.viAt vi).cqBase = (s.viAt vi).cqBase)
    (ha : (u.viAt vi).agreed = (s.viAt vi).agreed) (hm : (u.viAt vi).msi0 = (s.viAt vi).msi0) (hmem : u.hostMem = s.hostMem) :
    CompletionPosted s t vi tag status detail := by
  unfold CompletionPosted at *
  simp only [hq, hh, hb, ha, hm, hmem] at h
  exact h

end Sys2Proof.Machine
end
section
/-! SUPPORT. The answer to the page request of a parked copy (spec/14 R323; spec/19 R444, R448). -/

namespace Sys2Proof.Machine

/-! ### Translation goes by tables alone -/

theorem walk_congr {s t : State} (h : ∀ a, t.homeGet a = s.homeGet a) (va lvl table : Nat) : t.walk va lvl table = s.walk va lvl table := by
  induction lvl generalizing table with
  | zero =>
    unfold State.walk
    rw [homeRead_congr h]
  | succ lvl ih =>
    unfold State.walk
    rw [homeRead_congr h]
    simp only [ih]

/-- The pages asked for leave the translations. -/
theorem unitXlate_pages (s : State) (vi : Nat) (ps : List PageReq) (copse : Nat) (acc : Acc) (us : List Piece) :
    (s.setVi vi { s.viAt vi with pages := ps }).unitXlate copse acc us = s.unitXlate copse acc us := by
  have hx (va : Nat) : (s.setVi vi { s.viAt vi with pages := ps }).xlate copse acc va = s.xlate copse acc va := by
    have hroot (j : Nat) : ((s.setVi vi { s.viAt vi with pages := ps }).viAt j).ctxRoot = (s.viAt j).ctxRoot := by
      rw [setVi_viAt_at]
      split
      · next h => subst h; rfl
      · rfl
    have hwalk (j : Nat) : (s.setVi vi { s.viAt vi with pages := ps }).walkVi j va = s.walkVi j va := by
      unfold State.walkVi
      rw [hroot]
      split
      · exact walk_congr (s := s) (t := s.setVi vi _) (fun _ => rfl) _ _ _
      · rfl
    unfold State.xlate
    rw [hwalk]
    rfl
  induction us with
  | nil => rfl
  | cons p us ih =>
    unfold State.unitXlate
    rw [hx, ih]

/-! ### Whom the answer meets -/

theorem foldl_stays {α β : Type} {f : β → α → β} {b : β} : ∀ {l : List α}, (∀ a ∈ l, f b a = b) → l.foldl f b = b
  | [], _ => rfl
  | a :: l, h => by
    rw [List.foldl_cons, h a List.mem_cons_self]
    exact foldl_stays fun c hc => h c (List.mem_cons_of_mem _ hc)

theorem resumeFenceM_stays {s : State} {k : Nat} (hf : (s.standAt k).fenceM = none) (hs : (s.standAt k).swbs = []) : s.resumeFenceM k = s := by
  unfold State.resumeFenceM State.settleSwbs State.startFenceM
  simp only [hs, List.foldl_nil, hf, ite_self]

theorem Keeps.standsOf {copse : Nat} {s t : State} (h : Keeps copse s t) {c k : Nat} (hk : k ∈ t.standsOf c) : k ∈ s.standsOf c := by
  unfold State.standsOf at hk ⊢
  obtain ⟨e, he, rfl⟩ := List.mem_map.mp hk
  obtain ⟨he, hp⟩ := List.mem_filter.mp he
  rcases h.stands e he with hin | hlife
  · exact List.mem_map.mpr ⟨e, List.mem_filter.mpr ⟨hin, hp⟩, rfl⟩
  · have hne : (s.standAt e.1).life ≠ .absent := by
      rw [← hlife]
      exact bne_iff_ne.mp (Bool.and_eq_true_iff.mp hp).2
    have hfind : tfind e.1 s.stands = some (s.standAt e.1) := by
      have hat : s.standAt e.1 = (tfind e.1 s.stands).getD Stand.init := rfl
      cases hf : tfind e.1 s.stands with
      | some x => rw [hat, hf]; rfl
      | none =>
        rw [hat, hf] at hne
        exact absurd rfl hne
    refine List.mem_map.mpr ⟨(e.1, s.standAt e.1), List.mem_filter.mpr ⟨mem_of_tfind hfind, ?_⟩, rfl⟩
    rw [← hlife]
    exact hp

theorem Keeps.standsOfVi {copse vi : Nat} {s t : State} (h : Keeps copse s t) (hc : copse ∈ s.residentsOf vi) {k : Nat} (hk : k ∈ t.standsOfVi vi) :
    k ∈ s.standsOfVi vi := by
  unfold State.standsOfVi at hk ⊢
  obtain ⟨c, hcs, hk⟩ := List.mem_flatMap.mp hk
  refine List.mem_flatMap.mpr ⟨c, ?_, h.standsOf hk⟩
  unfold State.residentsOf at hcs ⊢
  obtain ⟨e, he, rfl⟩ := List.mem_map.mp hcs
  obtain ⟨he, hp⟩ := List.mem_filter.mp he
  rcases h.copses e he with hin | heq
  · exact List.mem_map.mpr ⟨e, List.mem_filter.mpr ⟨hin, hp⟩, rfl⟩
  · rw [heq]
    exact hc

section
variable {u : State} {vi id copse : Nat} {x : Copy}

/-- Nothing but one copse waits on a request of an interface. -/
structure OnlyCopse (u : State) (vi id copse : Nat) : Prop where
  residents : u.residentsOf vi = [copse]
  fills : ∀ f ∈ (u.copseAt copse).fills, f.req ≠ some id
  cmds : u.cmdsOn vi id = []
  logs : ∀ e ∈ u.logsOf vi, e.2.req ≠ id
  stands : ∀ k ∈ u.standsOfVi vi, (u.standAt k).wait.onPage id = false ∧ (u.standAt k).fenceM = none ∧ (u.standAt k).swbs = []

/-- The machine without the request. -/
def State.answered (u : State) (vi id : Nat) : State := u.setVi vi { u.viAt vi with pages := (u.viAt vi).pages.filter (fun p => p.id != id) }

/-- The answer comes to that copse alone. -/
theorem answerPage_only (h : OnlyCopse u vi id copse) {deny : Bool} (hk : Keeps copse (u.answered vi id) ((u.answered vi id).answerCopse copse id deny)) :
    u.answerPage vi id deny = (u.answered vi id).answerCopse copse id deny := by
  have hlogs : ((u.answered vi id).logsOf vi).filter (fun e => e.2.req == id) = [] :=
    List.filter_eq_nil_iff.mpr fun e he => by simpa using h.logs e he
  have hcmds : (u.answered vi id).cmdsOn vi id = [] := h.cmds
  have hres : (u.answered vi id).residentsOf vi = [copse] := h.residents
  have hstand {k : Nat} (hin : k ∈ ((u.answered vi id).answerCopse copse id deny).standsOfVi vi) :
      (((u.answered vi id).answerCopse copse id deny).standAt k).wait.onPage id = false ∧
      (((u.answered vi id).answerCopse copse id deny).standAt k).fenceM = none ∧ (((u.answered vi id).answerCopse copse id deny).standAt k).swbs = [] := by
    obtain ⟨hpage, hfence, hswbs⟩ := h.stands k (hk.standsOfVi (by rw [hres]; exact List.mem_singleton_self _) hin)
    have hkept := hk.kept k
    refine ⟨Bool.eq_false_iff.mpr fun hp => ?_, hkept.fenceM.trans hfence, hkept.swbs.trans hswbs⟩
    exact absurd (hkept.page id hp) (Bool.eq_false_iff.mp hpage)
  have heq : u.answerPage vi id deny =
      (let v := ((u.answered vi id).answerCopse copse id deny)
       let w := (v.standsOfVi vi).foldl (fun s k => if (s.standAt k).wait.onPage id then s.answerStand k id deny else s) v
       (w.standsOfVi vi).foldl (fun s k => s.resumeFenceM k) w) := by
    have hstep : u.answerPage vi id deny =
        (let s := (((u.answered vi id).logsOf vi).filter (fun e => e.2.req == id)).foldl (fun s e => if deny then s.discardLog e.1 e.2 6 else s.replayLog e.1 e.2)
          (u.answered vi id)
         let s := (s.residentsOf vi).foldl (fun s c => s.answerCopse c id deny) s
         let s := ((u.answered vi id).cmdsOn vi id).foldl (fun s c =>
           s.setEngine c.1 ((s.engineAt c.1).setPhase c.2.1 c.2.2 (if deny then .parked none else .granted))) s
         let s := (s.standsOfVi vi).foldl (fun s k => if (s.standAt k).wait.onPage id then s.answerStand k id deny else s) s
         (s.standsOfVi vi).foldl (fun s k => s.resumeFenceM k) s) := rfl
    rw [hstep, hlogs, hcmds]
    simp only [List.foldl_nil, hres, List.foldl_cons]
  rw [heq]
  generalize (u.answered vi id).answerCopse copse id deny = v at *
  have hw : (v.standsOfVi vi).foldl (fun s k => if (s.standAt k).wait.onPage id then s.answerStand k id deny else s) v = v :=
    foldl_stays fun k hin => by rw [if_neg (Bool.eq_false_iff.mp (hstand hin).1)]
  simp only [hw]
  exact foldl_stays fun k hin => resumeFenceM_stays (hstand hin).2.1 (hstand hin).2.2

/-- A request that stands and is waited for is answered (R448). -/
theorem pageAnswer_awaited {s : State} {tag : BitVec 16} (deny : Bool) (hcmd : s.takeCmd vi 2 tag = some u) (hpage : ∃ p ∈ (u.viAt vi).pages, p.id = id)
    (hin : copse ∈ u.residentsOf vi) (hx : ∃ x ∈ (u.copseAt copse).copies, x.parked = some id) :
    exec (.pageAns vi tag id deny) s = .next ((u.answerPage vi id deny).complete vi tag 0 0) := by
  obtain ⟨p, hp, hpid⟩ := hpage
  obtain ⟨x, hx, hparked⟩ := hx
  have hany : ((u.viAt vi).pages.any (fun p => p.id == id) && u.awaited vi id) = true := by
    rw [Bool.and_eq_true]
    refine ⟨List.any_eq_true.mpr ⟨p, hp, beq_iff_eq.mpr hpid⟩, ?_⟩
    unfold State.awaited
    simp only [Bool.or_eq_true]
    exact .inl (.inr (List.any_eq_true.mpr ⟨copse, hin, Bool.or_eq_true_iff.mpr (.inl (List.any_eq_true.mpr ⟨x, hx, beq_iff_eq.mpr hparked⟩))⟩))
  show Host.Outcome.next (s.pageAnswer vi tag id deny) = _
  unfold State.pageAnswer
  rw [hcmd]
  simp only [hany, if_true]

/-- A copy that a mapped page lets go on. -/
theorem answerCopse_maps (hcopies : (u.copseAt copse).copies = [x]) (hparked : x.parked = some id) :
    Keeps copse u (u.answerCopse copse id false) ∧ ((u.answerCopse copse id false).copseAt copse).copies = [{ x with parked := none }] ∧
    (u.answerCopse copse id false).stands = u.stands := by
  unfold State.answerCopse
  simp only [Bool.not_false, if_true, hcopies, List.map_cons, List.map_nil, hparked]
  refine ⟨(copyFrame_setCopse ..).toKeeps, ?_, rfl⟩
  rw [setCopse_copseAt]

/-- A copy that a denial ends. -/
theorem answerCopse_denies (hcopies : (u.copseAt copse).copies = [x]) (hparked : x.parked = some id)
    (hfills : ∀ f ∈ (u.copseAt copse).fills, f.req ≠ some id) :
    u.answerCopse copse id true = u.copyFail copse x.seq 2 (x.trap 3 6 (u.copyLine copse x) false x.akind) := by
  have hcs : (u.copseAt copse).copies.filter (fun x => x.parked == some id) = [x] := by
    rw [hcopies, List.filter_cons_of_pos (by simp [hparked])]
    rfl
  have hfs : (u.copseAt copse).fills.filter (fun x => x.req == some id) = [] := List.filter_eq_nil_iff.mpr fun f hf => by simpa using hfills f hf
  unfold State.answerCopse
  simp only [Bool.not_true, Bool.false_eq_true, if_false, hcs, hfs, List.foldl_cons, List.foldl_nil]
end

/-- The page answer of a parked copy (R323, R448). -/
theorem pageAns_answers {s u : State} {copse vi id : Nat} {x : Copy} {tag : BitVec 16} (deny : Bool) (hlife : (s.standAt x.stand).life ≠ .absent)
    (hst : x.status = none) (hcmd : s.takeCmd vi 2 tag = some u) (honly : OnlyCopse u vi id copse) (hcopies : (u.copseAt copse).copies = [x])
    (hparked : x.parked = some id) (hpage : ∃ p ∈ (u.viAt vi).pages, p.id = id) :
    ∃ t, exec (.pageAns vi tag id deny) s = .next t ∧ CompletionPosted u t vi tag 0 0 ∧ SameMemory s t ∧
      (deny = false → (t.copseAt copse).copies = [{ x with parked := none }] ∧ t.stands = u.stands) ∧
      (deny = true → (s.standAt x.stand).deferred.length < 16 → CopyEnds u t copse x 2 ∧
        TrapDeferred u t x.stand (fun r => r.cls = 3 ∧ r.cause = 6 ∧ ∀ first, first ∈ x.ripe → (∀ i ∈ x.ripe, first ≤ i) → ∀ cause va,
          u.unitXlate copse (if x.form.inward then .read else .write) ((x.units[first]?).getD []) = (.fault cause, va) →
            r.addr = BitVec.ofNat 64 (128 * (va / 128)))) := by
  have hrest := takeCmd_rest hcmd
  have hof : (u.copseAt copse).copyOf x.seq = some x := by
    unfold Copse.copyOf
    rw [hcopies, List.find?_cons_of_pos (by simp)]
  obtain ⟨a, ha⟩ : ∃ a, a = u.answered vi id := ⟨_, rfl⟩
  have hacopies : (a.copseAt copse).copies = [x] := by rw [ha]; exact hcopies
  have haof : (a.copseAt copse).copyOf x.seq = some x := by rw [ha]; exact hof
  have halife : (a.standAt x.stand).life ≠ .absent := by rw [ha]; show (u.standAt x.stand).life ≠ .absent; rw [hrest]; exact hlife
  have hafills : ∀ f ∈ (a.copseAt copse).fills, f.req ≠ some id := by rw [ha]; exact honly.fills
  have hkeeps : Keeps copse a (a.answerCopse copse id deny) := by
    cases deny with
    | false => exact (answerCopse_maps hacopies hparked).1
    | true =>
      rw [answerCopse_denies hacopies hparked hafills]
      by_cases hroom : (a.standAt x.stand).deferred.length < 16
      · exact (copyFail_ends haof hst halife hroom _ _).1
      · exact (copyFail_stays haof hst hroom _ _).1
  have hexec := pageAnswer_awaited deny hcmd hpage (by rw [honly.residents]; exact List.mem_singleton_self _)
    ⟨x, by rw [hcopies]; exact List.mem_singleton_self _, hparked⟩
  rw [answerPage_only honly (ha ▸ hkeeps), ← ha] at hexec
  obtain ⟨v, hv⟩ : ∃ v, v = a.answerCopse copse id deny := ⟨_, rfl⟩
  rw [← hv] at hexec hkeeps
  have hvvi : v.viAt vi = { u.viAt vi with pages := (u.viAt vi).pages.filter (fun p => p.id != id) } := by
    rw [hkeeps.rest, ha]
    exact setVi_viAt ..
  have hvhost : v.hostMem = u.hostMem := by
    rw [hkeeps.rest, ha]
    rfl
  refine ⟨_, hexec, (completionPosted_complete v vi tag 0 0).of_same (by rw [hvvi]) (by rw [hvvi]) (by rw [hvvi]) (by rw [hvvi]) (by rw [hvvi]) hvhost, ?_,
    fun hdeny => ?_, fun hdeny hroom => ?_⟩
  · have hsa : SameMemory s a := by
      rw [ha, hrest]
      exact sameMemory_of_parts (fun _ => rfl) rfl rfl rfl
    have hvt : SameMemory v (v.complete vi tag 0 0) := sameMemory_of_parts (fun _ => rfl) rfl rfl rfl
    exact fun core pa => (hvt core pa).trans ((hkeeps.sameMemory core pa).trans (hsa core pa))
  · subst hdeny
    obtain ⟨-, hcs, hss⟩ := answerCopse_maps hacopies hparked
    rw [← hv] at hcs hss
    refine ⟨hcs, ?_⟩
    show v.stands = u.stands
    rw [hss, ha]
    rfl
  · subst hdeny
    rw [answerCopse_denies hacopies hparked hafills] at hv
    have haroom : (a.standAt x.stand).deferred.length < 16 := by
      rw [ha]
      show (u.standAt x.stand).deferred.length < 16
      rw [hrest]
      exact hroom
    obtain ⟨-, hends, htrap⟩ := copyFail_ends haof hst halife haroom 2 (x.trap 3 6 (a.copyLine copse x) false x.akind)
    rw [← hv] at hends htrap
    refine ⟨hends.of_same (by rw [ha]; rfl) (by rw [ha]; rfl), ?_⟩
    refine (htrap.mono fun r hr => ⟨hr.1, hr.2.1, fun first hfirst hleast cause va hx => ?_⟩).of_stand (by rw [ha]; rfl)
    have hxa : a.unitXlate copse (if x.form.inward then .read else .write) ((x.units[first]?).getD []) = (.fault cause, va) := by
      rw [ha]
      exact (unitXlate_pages ..).trans hx
    rw [hr.2.2.1, (copyCause_first (d := 0) (lowest_eq hfirst hleast) hxa).2]
    rfl

end Sys2Proof.Machine
end
section
/-! SUPPORT. The status entry of a copy that has ended (spec/14 R321, R337). -/

namespace Sys2Proof.Machine

theorem tget_entryOf_pair (a b : Word32) : tget 0 (entryOf [(0, a), (1, b)]) 0 = a ∧ tget 0 (entryOf [(0, a), (1, b)]) 1 = b := by
  have h := fun t ht => tget_entryOf [0, 1] (fun t => if t = 0 then a else b) t ht (by decide)
  exact ⟨h 0 (by decide), h 1 (by decide)⟩

/-- The bits of a status entry. -/
theorem entry_words (x : Copy) (st : BitVec 2) : tget 0 (x.entry st) 0 = (0 : BitVec 16) ++ x.grp ++ st ++ BitVec.ofNat 10 x.lines ∧
    tget 0 (x.entry st) 1 = x.num := by
  obtain ⟨h0, h1⟩ := tget_entryOf_pair (BitVec.ofNat 32 (x.lines % 1024 + st.toNat * 1024 + x.grp.toNat * 4096)) x.num
  refine ⟨h0.trans (BitVec.eq_of_toNat_eq ?_), h1⟩
  have := st.isLt
  have := x.grp.isLt
  simp only [toNat_append_add, BitVec.toNat_ofNat, BitVec.ofNat_eq_ofNat]
  omega

section
variable {s : State} {copse seq n : Nat} {x : Copy} {st : BitVec 2}

theorem pushStatus_full (h : (s.copseAt copse).copyOf seq = some x) (hst : x.status = some st) (hn : x.ntf = some n)
    (hfull : s.chanFree (s.copseAt copse).core (16 + n) = 0) : s.pushStatus copse seq = s := by
  unfold State.pushStatus
  simp only [h, hst, hn, hfull, or_true, if_true]

/-- The machine with the status entry pushed. -/
def State.statusPushed (s : State) (core n : Nat) (e : ChanEntry) : State :=
  (s.chanPush core n [e]).setChan core n { (s.chanPush core n [e]).chanAt core n with due := ((s.chanPush core n [e]).chanAt core n).due - 1 }

theorem pushStatus_pushes (h : (s.copseAt copse).copyOf seq = some x) (hl : (s.copseAt copse).life = .resident) (hst : x.status = some st)
    (hn : x.ntf = some n) (hroom : 0 < s.chanFree (s.copseAt copse).core (16 + n)) : s.pushStatus copse seq =
      ((s.statusPushed (s.copseAt copse).core (16 + n) (x.entry st)).setCopse copse ((s.copseAt copse).dropCopy seq)).wakeCopies copse := by
  unfold State.pushStatus
  simp only [h, hl, hst, hn, Nat.ne_of_gt hroom, ne_eq, not_true_eq_false, or_self, if_false]
  rfl

/-- A due status entry is pushed when its channel has room (R321). -/
theorem status_pushed (h : (s.copseAt copse).copyOf seq = some x) (hl : (s.copseAt copse).life = .resident) (hst : x.status = some st)
    (hn : x.ntf = some n) :
    (s.chanFree (s.copseAt copse).core (16 + n) = 0 → exec (.copyStatusPush copse seq) s = .next s) ∧
    (0 < s.chanFree (s.copseAt copse).core (16 + n) → ∃ t e, exec (.copyStatusPush copse seq) s = .next t ∧ (t.copseAt copse).copyOf seq = none ∧
      (t.chanAt (s.copseAt copse).core (16 + n)).entries = (s.chanAt (s.copseAt copse).core (16 + n)).entries ++ [e] ∧
      (t.chanAt (s.copseAt copse).core (16 + n)).due = (s.chanAt (s.copseAt copse).core (16 + n)).due - 1 ∧
      tget 0 e 0 = (0 : BitVec 16) ++ x.grp ++ st ++ BitVec.ofNat 10 x.lines ∧ tget 0 e 1 = x.num ∧ SameMemory s t) := by
  refine ⟨fun hfull => congrArg Host.Outcome.next (pushStatus_full h hst hn hfull), fun hroom => ?_⟩
  obtain ⟨u, hu⟩ : ∃ u, u = s.statusPushed (s.copseAt copse).core (16 + n) (x.entry st) := ⟨_, rfl⟩
  have hexec : exec (.copyStatusPush copse seq) s = .next ((u.setCopse copse ((s.copseAt copse).dropCopy seq)).wakeCopies copse) := by
    rw [hu]
    exact congrArg Host.Outcome.next (pushStatus_pushes h hl hst hn hroom)
  obtain ⟨hframe, hcopses⟩ := wakeCopies_frame (u.setCopse copse ((s.copseAt copse).dropCopy seq)) copse
  generalize (u.setCopse copse ((s.copseAt copse).dropCopy seq)).wakeCopies copse = t at *
  have hchan : t.chanAt (s.copseAt copse).core (16 + n) = { s.chanAt (s.copseAt copse).core (16 + n) with
      entries := (s.chanAt (s.copseAt copse).core (16 + n)).entries ++ [x.entry st], due := (s.chanAt (s.copseAt copse).core (16 + n)).due - 1 } := by
    have ht : t.chanAt (s.copseAt copse).core (16 + n) = u.chanAt (s.copseAt copse).core (16 + n) := by
      rw [hframe.rest]
      rfl
    rw [ht, hu]
    unfold State.statusPushed
    rw [setChan_chanAt_self]
    unfold State.chanPush
    rw [setChan_chanAt_self]
  obtain ⟨h0, h1⟩ := entry_words x st
  refine ⟨t, x.entry st, hexec, ?_, by rw [hchan], by rw [hchan], h0, h1, ?_⟩
  · rw [copseAt_of_copses hcopses, setCopse_copseAt]
    exact copyOf_dropCopy ..
  · have hsu : SameMemory s u := by
      rw [hu]
      exact fun core pa => (sameMemory_setChan _ _ _ _ core pa).trans (sameMemory_setChan _ _ _ _ core pa)
    exact fun core pa => (hframe.sameMemory core pa).trans (hsu core pa)
end

end Sys2Proof.Machine
end
section
/-! SUPPORT. The pieces of a copy's lines, and what moving them makes of scratchpad and homes (spec/14 R320, R335; spec/13 R299). -/

namespace Sys2Proof.Machine

/-! ### Pieces (R320) -/

theorem splitRun_in : ∀ (fuel g o n : Nat), ∀ p ∈ splitRun true fuel g o n, p.2.1 % 128 + p.2.2 ≤ 128
  | 0, _, _, _, _, h => absurd h List.not_mem_nil
  | fuel + 1, g, o, n, p, h => by
    unfold splitRun at h
    simp only [if_true] at h
    split at h
    · exact absurd h List.not_mem_nil
    · rcases List.mem_cons.mp h with rfl | h
      · have hmod : o % 128 < 128 := Nat.mod_lt _ (by omega)
        simp only [minN]
        split <;> omega
      · exact splitRun_in fuel _ _ _ p h

theorem piecesOf_in : ∀ (rs : List (Nat × Nat)) (o : Nat), ∀ p ∈ piecesOf true o rs, p.2.1 % 128 + p.2.2 ≤ 128
  | [], _, _, h => absurd h List.not_mem_nil
  | (g, n) :: rs, o, p, h => by
    rcases List.mem_append.mp h with h | h
    · exact splitRun_in _ _ _ _ p h
    · exact piecesOf_in rs _ p h

/-- A piece begins a group or joins the first. -/
theorem groupPieces_cons (b : Bool) (q : Piece) (ps : List Piece) : groupPieces b (q :: ps) = [q] :: groupPieces b ps ∨
    ∃ r rs gs, groupPieces b ps = (r :: rs) :: gs ∧ groupPieces b (q :: ps) = (q :: r :: rs) :: gs := by
  rw [groupPieces]
  rcases groupPieces b ps with _ | ⟨_ | ⟨r, rs⟩, gs⟩
  · exact .inl rfl
  · exact .inl rfl
  · by_cases hkey : (if b = true then q.2.1 else q.1) / 128 = (if b = true then r.2.1 else r.1) / 128
    · exact .inr ⟨r, rs, gs, rfl, if_pos hkey⟩
    · exact .inl (if_neg hkey)

theorem mem_groupPieces {b : Bool} : ∀ {ps : List Piece} {u : List Piece}, u ∈ groupPieces b ps → ∀ p ∈ u, p ∈ ps
  | [], _, h, _, _ => absurd h List.not_mem_nil
  | q :: ps, u, h, p, hp => by
    rcases groupPieces_cons b q ps with heq | ⟨r, rs, gs, hgs, heq⟩
    · rw [heq] at h
      rcases List.mem_cons.mp h with rfl | h
      · exact List.mem_cons.mpr (.inl (List.mem_singleton.mp hp))
      · exact List.mem_cons_of_mem _ (mem_groupPieces h p hp)
    · rw [heq] at h
      rcases List.mem_cons.mp h with rfl | h
      · rcases List.mem_cons.mp hp with rfl | hp
        · exact List.mem_cons_self
        · exact List.mem_cons_of_mem _ (mem_groupPieces (hgs ▸ List.mem_cons_self) p hp)
      · exact List.mem_cons_of_mem _ (mem_groupPieces (hgs ▸ List.mem_cons_of_mem _ h) p hp)

section
variable {x : Copy} {i : Nat}

theorem mem_unit {p : Piece} (h : p ∈ (x.units[i]?).getD []) : ∃ u ∈ x.units, p ∈ u := by
  cases hu : x.units[i]? with
  | none => rw [hu] at h; exact absurd h List.not_mem_nil
  | some u => rw [hu] at h; exact ⟨u, List.mem_of_getElem? hu, h⟩

/-- A piece of an inward copy lies on one line of the scratchpad. -/
theorem unit_in (hin : x.form.inward = true) {p : Piece} (h : p ∈ (x.units[i]?).getD []) : p.2.1 % 128 + p.2.2 ≤ 128 := by
  obtain ⟨u, hu, hp⟩ := mem_unit h
  unfold Copy.units at hu
  rw [hin] at hu
  exact piecesOf_in _ _ p (mem_groupPieces hu p hp)

theorem ripe_todo (h : i ∈ x.ripe) : i ∈ x.todo := by
  unfold Copy.ripe at h
  simp only at h
  split at h
  · exact absurd h List.not_mem_nil
  · exact List.mem_of_mem_filter h

theorem unit_restLines (h : i ∈ x.todo) {p : Piece} (hp : p ∈ (x.units[i]?).getD []) : p.2.1 / 128 ∈ x.restLines :=
  List.mem_dedup.mpr (List.mem_flatMap.mpr ⟨i, h, List.mem_map.mpr ⟨p, hp, rfl⟩⟩)
end

/-- A unit that translates has an address for each of its pieces. -/
theorem unitXlate_pieces {s : State} {copse : Nat} {acc : Acc} : ∀ {us : List Piece} {qs : List (Nat × Piece)}, (s.unitXlate copse acc us).1 = .ok qs →
    qs.map Prod.snd = us
  | [], qs, h => by
    obtain rfl : [] = qs := Xl.ok.inj h
    rfl
  | p :: us, qs, h => by
    unfold State.unitXlate at h
    split at h
    · cases h
    · split at h
      · next xs _ hx =>
        obtain rfl : _ = qs := Xl.ok.inj h
        exact congrArg (p :: ·) (unitXlate_pieces (us := us) (by rw [hx]))
      · next hno => exact (hno qs _ (Prod.ext h rfl)).elim

end Sys2Proof.Machine
end
section
/-! SUPPORT. A copy's pieces moved between homes and scratchpad (spec/14 R320, R335; spec/12 R279; spec/13 R299). -/

namespace Sys2Proof.Machine

/-! ### Into the scratchpad -/

/-- Bytes have come into a copse's scratchpad: homes, cores and stands are as before. -/
structure MovesIn (copse : Nat) (s t : State) (ws : List (Nat × Nat × Nat)) : Prop where
  stands : t.stands = s.stands
  cores : t.cores = s.cores
  home : ∀ a, t.homeGet a = s.homeGet a
  copies : (t.copseAt copse).copies = (s.copseAt copse).copies
  scratch : ∀ a, memGet (t.copseAt copse).scratch a = (lastByte ws a).getD (memGet (s.copseAt copse).scratch a)

section
variable {copse : Nat} {s t u : State} {us ws : List (Nat × Nat × Nat)}

theorem MovesIn.refl (s : State) : MovesIn copse s s [] := ⟨rfl, rfl, fun _ => rfl, rfl, fun _ => rfl⟩
theorem MovesIn.trans (h : MovesIn copse s t us) (h' : MovesIn copse t u ws) : MovesIn copse s u (us ++ ws) := by
  refine ⟨h'.stands.trans h.stands, h'.cores.trans h.cores, fun a => (h'.home a).trans (h.home a), h'.copies.trans h.copies, fun a => ?_⟩
  rw [h'.scratch, h.scratch, lastByte_append]
  cases lastByte ws a <;> rfl

theorem MovesIn.sameMemory (h : MovesIn copse s t ws) : SameMemory s t := fun core pa => by
  simp only [byteSeen, State.coreView, State.l1At, State.coreAt, h.cores, h.home, homeRead_congr h.home]
end

theorem markDirty_copies (c : Copse) (l : Nat) (m : Mask) : (c.markDirty l m).copies = c.copies := by
  unfold Copse.markDirty
  split
  · rfl
  · split <;> rfl

theorem put_copies (c : Copse) (a : Nat) (bs : List Byte) : (c.put a bs).copies = c.copies := by
  unfold Copse.put
  refine List.foldlRecOn (linesOf a bs.length) _ (motive := fun d : Copse => d.copies = c.copies) rfl fun d hd l _ => ?_
  exact (markDirty_copies ..).trans hd

theorem isWindow_of_place {pa : Nat} (h : isWindow pa = false) : isWindow (128 * (pa / 128)) = false := by
  rw [← isWindow_line (pa / 128) (pa % 128) (Nat.mod_lt _ (by omega)), Nat.div_add_mod]
  exact h

section
variable {s : State} {copse : Nat} {x : Copy}

theorem movePiece_in (hin : x.form.inward = true) (q : Nat × Piece) (hw : isWindow q.1 = false) :
    MovesIn copse s (s.movePiece copse x q) [(q.2.2.1, q.2.2.2, s.homeRead q.1 q.2.2.2)] := by
  obtain ⟨pa, g, o, n⟩ := q
  have hk := homeKept_noteLoad s (s.copseAt copse).vi (s.copseAt copse).core (pa / 128) x.ph (isWindow_of_place hw)
  have heq : s.movePiece copse x (pa, g, o, n) = (s.noteLoad (s.copseAt copse).vi (s.copseAt copse).core (pa / 128) x.ph).setCopse copse
      (((s.noteLoad (s.copseAt copse).vi (s.copseAt copse).core (pa / 128) x.ph).copseAt copse).put o
        (bytesOf ((s.noteLoad (s.copseAt copse).vi (s.copseAt copse).core (pa / 128) x.ph).homeRead pa n) n)) := by
    unfold State.movePiece
    simp only [hin, hw, Bool.false_eq_true, if_true, if_false]
  rw [heq]
  generalize s.noteLoad (s.copseAt copse).vi (s.copseAt copse).core (pa / 128) x.ph = u at hk ⊢
  have hc : u.copseAt copse = s.copseAt copse := copseAt_of_copses hk.copses copse
  refine ⟨hk.stands, hk.cores, hk.home, ?_, fun a => ?_⟩
  · rw [setCopse_copseAt, put_copies, hc]
  · rw [setCopse_copseAt, put_scratch, memGet_putBytes_range, hc, homeRead_congr hk.home, lastByte_singleton, ← writtenBy_bytesOf, writtenBy_run]
    split <;> rfl

theorem movePieces_in (hin : x.form.inward = true) (v : State) : ∀ (qs : List (Nat × Piece)) (s : State), (∀ a, s.homeGet a = v.homeGet a) →
    (∀ q ∈ qs, isWindow q.1 = false) →
    MovesIn copse s (qs.foldl (fun s q => s.movePiece copse x q) s) (qs.map (fun q => (q.2.2.1, q.2.2.2, v.homeRead q.1 q.2.2.2)))
  | [], s, _, _ => .refl s
  | q :: qs, s, hv, hw => by
    have h := movePiece_in (copse := copse) (s := s) hin q (hw q List.mem_cons_self)
    have ht := movePieces_in hin v qs (s.movePiece copse x q) (fun a => (h.home a).trans (hv a)) fun q hq => hw q (List.mem_cons_of_mem _ hq)
    rw [homeRead_congr hv] at h
    exact h.trans ht
end

/-! ### To the homes -/

theorem WritesHome.congr {s t : State} {us ws : List (Nat × Nat × Nat)} (h : WritesHome s t us) (hw : ∀ a, lastByte ws a = lastByte us a) : WritesHome s t ws :=
  ⟨h.rest, fun a ha => by rw [hw, h.home a ha]⟩

theorem ofNat_memRead (n : Nat) : ∀ (m : Mem) (a i : Nat), i < n → BitVec.ofNat 8 (memRead m a n / 256 ^ i) = memGet m (a + i) := by
  induction n with
  | zero => intro _ _ _ h; omega
  | succ n ih =>
    intro m a i h
    have hlt := (memGet m a).isLt
    rw [memRead]
    cases i with
    | zero =>
      refine BitVec.eq_of_toNat_eq ?_
      rw [BitVec.toNat_ofNat, Nat.pow_zero, Nat.div_one, Nat.add_zero a]
      omega
    | succ i =>
      rw [pow_succ', ← Nat.div_div_eq_div_mul, show ((memGet m a).toNat + 256 * memRead m (a + 1) n) / 256 = memRead m (a + 1) n by omega, ih _ _ _ (by omega)]
      congr 1
      omega

/-- Bytes of a memory as elements of one byte from an offset. -/
def byteElems (m : Mem) (d o n : Nat) : List (Nat × Word32) := (List.range n).map (fun i => (d + i, (memGet m (o + i)).setWidth 32))

theorem elemsBytes_byteElems (m : Mem) (d o n : Nat) : elemsBytes 1 (byteElems m d o n) = (List.range n).map (fun i => (d + i, memGet m (o + i))) := by
  have hone (i : Nat) : ((List.range 1).zip (bytesOf ((memGet m (o + i)).setWidth 32).toNat 1)).map (fun b => (d + i + b.1, b.2)) = [(d + i, memGet m (o + i))] := by
    have hb : BitVec.ofNat 8 ((memGet m (o + i)).setWidth 32).toNat = memGet m (o + i) := by
      refine BitVec.eq_of_toNat_eq ?_
      have := (memGet m (o + i)).isLt
      rw [BitVec.toNat_ofNat, BitVec.toNat_setWidth]
      omega
    rw [bytesOf, bytesOf, hb]
    rfl
  unfold elemsBytes byteElems
  rw [List.flatMap_map]
  simp only [hone]
  exact (List.map_eq_flatMap ..).symm

/-- Single bytes write what their number does. -/
theorem lastByte_byteElems (m : Mem) (o pa n : Nat) (a : Nat) :
    lastByte (lineWrites (pa / 128) 1 (byteElems m (pa % 128) o n)) a = writtenBy (pa, n, memRead m o n) a := by
  have hpa : 128 * (pa / 128) + pa % 128 = pa := Nat.div_add_mod pa 128
  have hws : lineWrites (pa / 128) 1 (byteElems m (pa % 128) o n) = (List.range n).map (fun i => (pa + i, 1, (memGet m (o + i)).toNat)) := by
    unfold lineWrites byteElems
    rw [List.map_map]
    refine List.map_congr_left fun i _ => ?_
    have hlt := (memGet m (o + i)).isLt
    have hval : ((memGet m (o + i)).setWidth 32).toNat = (memGet m (o + i)).toNat := by
      rw [BitVec.toNat_setWidth]
      omega
    simp only [Function.comp_apply, hval, Prod.mk.injEq, and_true]
    omega
  rw [hws]
  have hbyte {i : Nat} (hi : i < n) : writtenBy (pa, n, memRead m o n) (pa + i) = some (memGet m (o + i)) := by
    unfold writtenBy
    rw [if_pos (by simp only; omega), Nat.add_sub_cancel_left, ofNat_memRead _ _ _ _ hi]
  cases hl : lastByte ((List.range n).map (fun i => (pa + i, 1, (memGet m (o + i)).toNat))) a with
  | none =>
    have hnone := lastByte_eq_none.mp hl
    symm
    unfold writtenBy
    refine if_neg fun hc => ?_
    have hi : a - pa < n := by simp only at hc; omega
    have := hnone _ (List.mem_map.mpr ⟨a - pa, List.mem_range.mpr hi, rfl⟩)
    unfold writtenBy at this
    rw [if_pos (by simp only at hc ⊢; omega)] at this
    cases this
  | some b =>
    obtain ⟨w, hw, hb⟩ := exists_of_lastByte hl
    obtain ⟨i, hi, rfl⟩ := List.mem_map.mp hw
    obtain ⟨hlo, hhi, hval⟩ := writtenBy_some hb
    obtain rfl : a = pa + i := by simp only at hlo hhi; omega
    rw [hbyte (List.mem_range.mp hi), hval]
    simp only [Nat.sub_self, Nat.pow_zero, Nat.div_one, BitVec.ofNat_toNat, BitVec.setWidth_eq]

theorem snapByte_now {s : State} {copse a : Nat} {snap : List (Nat × Mem)}
    (h : ∀ m, tfind (a / 128) snap = some m → memGet m (a % 128) = memGet (s.copseAt copse).scratch a) :
    s.snapByte copse snap a = memGet (s.copseAt copse).scratch a := by
  unfold State.snapByte
  simp only
  split
  · rfl
  · next m hm => rw [if_pos (h m hm)]

theorem writesHome_pinLine (s : State) (vi l : Nat) : WritesHome s (s.pinLine vi l) [] := by
  rw [pinLine_eq]
  refine ⟨rfl, fun a _ => ?_⟩
  show _ = s.homeGet a
  unfold State.homeGet
  rw [setDir_dirAt_at]
  split
  · next h => rw [h]; rfl
  · rfl

section
variable {s : State} {copse : Nat} {x : Copy}

/-- The bytes of a copse are as a copy's snapshot has them. -/
def Unchanged (x : Copy) (m : Mem) (p : Piece) : Prop := ∀ b, p.2.1 ≤ b → b < p.2.1 + p.2.2 → ∀ y, tfind (b / 128) x.snap = some y → memGet y (b % 128) = memGet m b

theorem movePiece_out (hout : x.form.inward = false) (q : Nat × Piece) (hw : isWindow q.1 = false) (hfit : q.1 % 128 + q.2.2.2 ≤ 128)
    (hsnap : Unchanged x (s.copseAt copse).scratch q.2) :
    WritesHome s (s.movePiece copse x q) [(q.1, q.2.2.2, memRead (s.copseAt copse).scratch q.2.2.1 q.2.2.2)] := by
  obtain ⟨pa, g, o, n⟩ := q
  obtain ⟨u, hu⟩ : ∃ u, u = if x.ph == 1 && !isWindow pa then s.pinLine (s.copseAt copse).vi (pa / 128) else s := ⟨_, rfl⟩
  have hpin : WritesHome s u [] := by
    rw [hu]
    split
    · exact writesHome_pinLine ..
    · exact .refl s
  have hucopse : u.copseAt copse = s.copseAt copse := copseAt_of_copses (by rw [hpin.rest]) copse
  have hbytes : (List.range n).map (fun i => (pa % 128 + i, u.snapByte copse x.snap (o + i))) =
      elemsBytes 1 (byteElems (s.copseAt copse).scratch (pa % 128) o n) := by
    rw [elemsBytes_byteElems]
    refine List.map_congr_left fun i hi => ?_
    have hi := List.mem_range.mp hi
    have hnow : u.snapByte copse x.snap (o + i) = memGet (u.copseAt copse).scratch (o + i) := snapByte_now fun m hm => by
      rw [hucopse]
      exact hsnap (o + i) (Nat.le_add_right _ _) (Nat.add_lt_add_left hi o) m hm
    rw [hnow, hucopse]
  have heq : s.movePiece copse x (pa, g, o, n) = (u.engineWrite (s.copseAt copse).vi (fieldOfCore (s.copseAt copse).core) (pa / 128)
      (elemsBytes 1 (byteElems (s.copseAt copse).scratch (pa % 128) o n)) (x.ph == 2)).noteEngine copse 4 (pa / 128) := by
    rw [← hbytes]
    unfold State.movePiece
    simp only [hout, Bool.false_eq_true, if_false, ← hu]
  have hline := isWindow_of_place hw
  have hes : ∀ e ∈ byteElems (s.copseAt copse).scratch (pa % 128) o n, e.1 + 1 ≤ 128 := by
    intro e he
    obtain ⟨i, hi, rfl⟩ := List.mem_map.mp he
    have := List.mem_range.mp hi
    simp only at hfit ⊢
    omega
  have hwrite : WritesHome u (s.movePiece copse x (pa, g, o, n)) (lineWrites (pa / 128) 1 (byteElems (s.copseAt copse).scratch (pa % 128) o n)) := by
    rw [heq]
    unfold State.engineWrite
    rw [if_neg (by simp [hline])]
    exact ((writesHome_homePut u _ hline hes).then_kept (writesHome_request _ _ _ _)).then_kept (writesHome_noteEngine _ _ _ _)
  refine (hpin.of_kept hwrite).congr fun a => ?_
  rw [lastByte_singleton, lastByte_byteElems]

theorem movePieces_out (hout : x.form.inward = false) (m : Mem) : ∀ (qs : List (Nat × Piece)) (s : State), (s.copseAt copse).scratch = m →
    (∀ q ∈ qs, isWindow q.1 = false ∧ q.1 % 128 + q.2.2.2 ≤ 128 ∧ Unchanged x m q.2) →
    WritesHome s (qs.foldl (fun s q => s.movePiece copse x q) s) (qs.map (fun q => (q.1, q.2.2.2, memRead m q.2.2.1 q.2.2.2)))
  | [], s, _, _ => .refl s
  | q :: qs, s, hm, hq => by
    obtain ⟨hw, hfit, hsnap⟩ := hq q List.mem_cons_self
    have h := movePiece_out (copse := copse) (s := s) hout q hw hfit (by rw [hm]; exact hsnap)
    have hcopse : (s.movePiece copse x q).copseAt copse = s.copseAt copse := copseAt_of_copses (by rw [h.rest]) copse
    have ht := movePieces_out hout m qs (s.movePiece copse x q) (by rw [hcopse, hm]) fun q hq' => hq q (List.mem_cons_of_mem _ hq')
    rw [hm] at h
    exact h.trans ht
end

end Sys2Proof.Machine
end
section
/-! SUPPORT. A line of a copy has been delivered (spec/14 R320, R321; spec/15 R356). -/

namespace Sys2Proof.Machine

/-- The line counts in the record that a copy is bound to, if it is. -/
def State.copyCounts (s : State) (copse : Nat) (x : Copy) : State :=
  match x.cr with | some (o, slot) => s.recDeliver copse o slot x.stand | none => s

theorem copyCounts_counts (s : State) (copse : Nat) (x : Copy) : CopyFrame copse s (s.copyCounts copse x) ∧
    ((s.copyCounts copse x).copseAt copse = { s.copseAt copse with scratch := ((s.copyCounts copse x).copseAt copse).scratch }) ∧
    (∀ a, x.apart a → memGet ((s.copyCounts copse x).copseAt copse).scratch a = memGet (s.copseAt copse).scratch a) ∧
    ∀ o slot, x.cr = some (o, slot) → slot < 4 → LineCounted s (s.copyCounts copse x) copse o slot x.stand := by
  unfold State.copyCounts
  split
  · next o slot h =>
    have hf := recDeliver_frame (copse := copse) (o := o) s slot x.stand
    refine ⟨hf.frame, hf.only, fun a ha => hf.apart a (ha o slot h), fun o' slot' h' hlt => ?_⟩
    rw [h] at h'
    cases h'
    exact recDeliver_counts s x.stand hlt
  · next h => exact ⟨.refl s, rfl, fun _ _ => rfl, fun o slot h' => by rw [h] at h'; cases h'⟩

/-- A copy with one line less to deliver. -/
def Copy.advanced (x : Copy) (i : Nat) : Copy := { x with todo := x.todo.erase i, lines := x.lines + 1 }
/-- What is left of it: one without lines to deliver has ended. -/
def Copy.left (x : Copy) (i : Nat) : Option Copy := if x.todo.erase i ≠ [] then some (x.advanced i) else (x.advanced i).over 0

theorem touchLine_copies (s : State) (copse l : Nat) : ((s.touchLine copse l).copseAt copse).copies = (s.copseAt copse).copies := by
  unfold State.touchLine
  simp only
  split
  · rfl
  · rw [setCopse_copseAt]
    rfl

theorem touchLines_copies (copse : Nat) : ∀ (ls : List Nat) (s : State), ((s.touchLines copse ls).copseAt copse).copies = (s.copseAt copse).copies
  | [], _ => rfl
  | l :: ls, s => (touchLines_copies copse ls (s.touchLine copse l)).trans (touchLine_copies s copse l)

theorem madeFull_copies (ls : List Nat) : ∀ c : Copse, (c.madeFull ls).copies = c.copies := by
  induction ls with
  | nil => exact fun _ => rfl
  | cons l ls ih =>
    intro c
    rw [madeFull_cons, ih]
    rfl

section
variable {s : State} {copse : Nat} {x : Copy}

/-- The copse with a unit's lines full and its copy a line on. -/
def Copse.advanced (c : Copse) (x : Copy) (i : Nat) (u : List Piece) : Copse :=
  (if x.form.inward then c.madeFull (u.map (fun p => p.2.1 / 128)) else c).mapCopy x.seq (fun x => x.advanced i)

theorem unitDone_eq (i : Nat) (u : List Piece) : s.unitDone copse x i u =
    if x.todo.erase i = [] then ((s.setCopse copse ((s.copseAt copse).advanced x i u)).copyCounts copse x).copyEnd copse x.seq 0
    else (s.setCopse copse ((s.copseAt copse).advanced x i u)).copyCounts copse x := rfl

theorem copseAdvanced_scratch (c : Copse) (i : Nat) (u : List Piece) : (c.advanced x i u).scratch = c.scratch := by
  unfold Copse.advanced
  split
  · exact madeFull_scratch ..
  · rfl

theorem copseAdvanced_copyOf {c : Copse} (h : c.copyOf x.seq = some x) (i : Nat) (u : List Piece) :
    (c.advanced x i u).copyOf x.seq = some (x.advanced i) := by
  unfold Copse.advanced
  refine copyOf_mapCopy (f := fun x => x.advanced i) ?_ fun _ => rfl
  split
  · unfold Copse.copyOf
    rw [madeFull_copies]
    exact h
  · exact h

/-- A delivered line (R320, R321). -/
theorem unitDone_done (h : (s.copseAt copse).copyOf x.seq = some x) (i : Nat) (u : List Piece) : let t := s.unitDone copse x i u
    CopyFrame copse s t ∧ (t.copseAt copse).copyOf x.seq = x.left i ∧
    (∀ a, x.apart a → memGet (t.copseAt copse).scratch a = memGet (s.copseAt copse).scratch a) ∧
    (∀ o slot, x.cr = some (o, slot) → slot < 4 → LineCounted s t copse o slot x.stand) ∧
    (x.form.inward = true → ∀ p ∈ u, ((t.copseAt copse).lineAt (p.2.1 / 128)).full = true) := by
  obtain ⟨v, hv⟩ : ∃ v, v = s.setCopse copse ((s.copseAt copse).advanced x i u) := ⟨_, rfl⟩
  have hvcopse : v.copseAt copse = (s.copseAt copse).advanced x i u := by rw [hv, setCopse_copseAt]
  have hvframe : CopyFrame copse s v := hv ▸ copyFrame_setCopse ..
  have hvscratch : (v.copseAt copse).scratch = (s.copseAt copse).scratch := by rw [hvcopse, copseAdvanced_scratch]
  obtain ⟨hcf, hconly, hcapart, hccounts⟩ := copyCounts_counts v copse x
  have heq := unitDone_eq (s := s) (copse := copse) (x := x) i u
  rw [← hv] at heq
  have hwaits : heldWaits s copse = heldWaits v copse := by rw [hv]; rfl
  generalize v.copyCounts copse x = w at *
  have hwof : (w.copseAt copse).copyOf x.seq = some (x.advanced i) := by
    rw [hconly, ← copseAdvanced_copyOf h i u, hvcopse]
    rfl
  have hwfull : x.form.inward = true → ∀ p ∈ u, ((w.copseAt copse).lineAt (p.2.1 / 128)).full = true := by
    intro hin p hp
    have hlines : (w.copseAt copse).lineAt (p.2.1 / 128) = ((s.copseAt copse).madeFull (u.map (fun p => p.2.1 / 128))).lineAt (p.2.1 / 128) := by
      rw [hconly, hvcopse]
      unfold Copse.advanced
      rw [if_pos hin]
      rfl
    rw [hlines]
    exact (madeFull_full _ _ (List.mem_map.mpr ⟨p, hp, rfl⟩)).1
  intro t
  have ht : t = _ := heq
  unfold Copy.left
  by_cases hd : x.todo.erase i = []
  · rw [if_pos hd] at ht
    rw [if_neg (fun hno => hno hd)]
    obtain ⟨hef, heonly, heover⟩ := copyEnd_ends hwof 0
    rw [← ht] at hef heonly heover
    refine ⟨(hvframe.trans hcf).trans hef, heover, fun a ha => ?_, fun o slot hcr hlt => ?_, fun hin p hp => ?_⟩
    · rw [heonly.scratch, hcapart a ha, hvscratch]
    · exact (hccounts o slot hcr hlt).congr (recView_of_scratch hvscratch.symm o) hwaits (recView_of_scratch heonly.scratch o)
    · rw [heonly.lineAt]
      exact hwfull hin p hp
  · rw [if_neg hd] at ht
    rw [if_pos hd, ht]
    refine ⟨hvframe.trans hcf, hwof, fun a ha => ?_, fun o slot hcr hlt => ?_, hwfull⟩
    · rw [hcapart a ha, hvscratch]
    · exact (hccounts o slot hcr hlt).congr (recView_of_scratch hvscratch.symm o) hwaits rfl
end

/-- What is left of a copy that was going on. -/
theorem left_eq {x : Copy} (hfate : x.fate = none) (hp : x.parked = none) (i : Nat) : x.left i =
    if x.todo.erase i ≠ [] then some { x with todo := x.todo.erase i, lines := x.lines + 1 }
    else if x.ntf.isSome then some { x with todo := x.todo.erase i, lines := x.lines + 1, status := some 0 } else none := by
  unfold Copy.left Copy.over Copy.advanced
  cases x
  cases hfate
  cases hp
  rfl

/-! ### A line delivered inward (R320) -/

section
variable {s : State} {copse seq : Nat} {x : Copy}

theorem deliverUnit_inward {i : Nat} {qs : List (Nat × Piece)} (hin : x.form.inward = true)
    (hb : (s.copseAt copse).copyBehind x ((x.units[i]?).getD []) = false) (hf : s.fetchBehind copse x ((x.units[i]?).getD []) = false)
    (hx : (s.unitXlate copse .read ((x.units[i]?).getD [])).1 = .ok qs) (hbm : ∀ l ∈ x.restLines, ((s.copseAt copse).lineAt l).bm = false)
    (hfill : ∀ p ∈ (x.units[i]?).getD [], (s.copseAt copse).awaitsFill (p.2.1 / 128) = false) (hst : ∀ q ∈ qs, s.stagedLine (q.1 / 128) = false) :
    s.deliverUnit copse x i = (qs.foldl (fun s q => s.movePiece copse x q) s).unitDone copse x i ((x.units[i]?).getD []) := by
  unfold State.deliverUnit
  simp only
  generalize (x.units[i]?).getD [] = u at *
  have hfind : x.restLines.find? (fun l => ((s.copseAt copse).lineAt l).bm) = none := List.find?_eq_none.mpr fun l hl => by simp [hbm l hl]
  have hsettled : ∀ l ∈ (u.map (fun p => p.2.1 / 128)).dedup, (s.copseAt copse).awaitsFill l = false := by
    intro l hl
    obtain ⟨p, hp, rfl⟩ := List.mem_map.mp (List.mem_dedup.mp hl)
    exact hfill p hp
  have hany : ((u.map (fun p => p.2.1 / 128)).dedup).any (s.copseAt copse).awaitsFill = false := List.any_eq_false.mpr fun l hl => by simp [hsettled l hl]
  have hstaged : qs.any (fun q => s.stagedLine (q.1 / 128)) = false := List.any_eq_false.mpr fun q hq => by simp [hst q hq]
  obtain ⟨a, hpair⟩ : ∃ a, s.unitXlate copse .read u = (.ok qs, a) := ⟨_, Prod.ext hx rfl⟩
  simp only [hb, hf, hin, hpair, hfind, touchLines_of_settled hsettled, hany, hstaged, Bool.or_self, Bool.false_eq_true, if_true, if_false]

theorem Copse.stays_full {t : State} (h : TouchKept copse s t) {ls : List Nat} (hfull : ∀ l ∈ ls, ((s.copseAt copse).lineAt l).full = true) :
    ls.find? (fun l => !((t.copseAt copse).lineAt l).full && ((t.copseAt copse).lineAt l).filler == none) = none ∧
    (t.copseAt copse).linesFull ls = true := by
  have hall : ∀ l ∈ ls, ((t.copseAt copse).lineAt l).full = true := fun l hl => (h.lines l).1.trans (hfull l hl)
  exact ⟨List.find?_eq_none.mpr fun l hl => by simp [hall l hl], List.all_eq_true.mpr hall⟩

theorem deliverUnit_outward {i : Nat} {qs : List (Nat × Piece)} (hout : x.form.inward = false)
    (hb : (s.copseAt copse).copyBehind x ((x.units[i]?).getD []) = false) (hf : s.fetchBehind copse x ((x.units[i]?).getD []) = false)
    (hx : (s.unitXlate copse .write ((x.units[i]?).getD [])).1 = .ok qs)
    (hfull : ∀ p ∈ (x.units[i]?).getD [], ((s.copseAt copse).lineAt (p.2.1 / 128)).full = true) (hst : ∀ q ∈ qs, s.stagedLine (q.1 / 128) = false) :
    ∃ u, TouchKept copse s u ∧ (u.copseAt copse).copies = (s.copseAt copse).copies ∧
      s.deliverUnit copse x i = (qs.foldl (fun s q => s.movePiece copse x q) u).bump.unitDone copse x i ((x.units[i]?).getD []) := by
  unfold State.deliverUnit
  simp only
  generalize (x.units[i]?).getD [] = us at *
  have htouch := touchKept_touchLines copse (us.map (fun p => p.2.1 / 128)).dedup s
  have hcopies := touchLines_copies copse (us.map (fun p => p.2.1 / 128)).dedup s
  have hlines : ∀ l ∈ (us.map (fun p => p.2.1 / 128)).dedup, ((s.copseAt copse).lineAt l).full = true := by
    intro l hl
    obtain ⟨p, hp, rfl⟩ := List.mem_map.mp (List.mem_dedup.mp hl)
    exact hfull p hp
  obtain ⟨hfind, hlf⟩ := Copse.stays_full htouch hlines
  obtain ⟨a, hpair⟩ : ∃ a, s.unitXlate copse .write us = (.ok qs, a) := ⟨_, Prod.ext hx rfl⟩
  generalize s.touchLines copse (us.map (fun p => p.2.1 / 128)).dedup = u at *
  have hstaged : qs.any (fun q => u.stagedLine (q.1 / 128)) = false := by
    refine List.any_eq_false.mpr fun q hq => ?_
    have : u.stagedLine (q.1 / 128) = s.stagedLine (q.1 / 128) := by
      rw [htouch.rest]
      rfl
    simp [this, hst q hq]
  refine ⟨u, htouch, hcopies, ?_⟩
  simp only [hb, hf, hout, hpair, hfind, hlf, hstaged, Bool.or_self, Bool.not_true, Bool.false_eq_true, if_false]
end

end Sys2Proof.Machine
end
section
/-! SUPPORT. A delivery of a copy as a step of the machine (spec/14 R320, R321, R335). -/

namespace Sys2Proof.Machine

/-- Nothing is in the way of a line of a copy, and its pieces translate. -/
def FreeUnit (s : State) (copse : Nat) (x : Copy) (i : Nat) (acc : Acc) (qs : List (Nat × Piece)) : Prop :=
  (s.copseAt copse).copyBehind x ((x.units[i]?).getD []) = false ∧ s.fetchBehind copse x ((x.units[i]?).getD []) = false ∧
    ((s.afterChoice x).unitXlate copse acc ((x.units[i]?).getD [])).1 = .ok qs ∧
    ∀ q ∈ qs, s.stagedLine (q.1 / 128) = false ∧ isWindow q.1 = false ∧ q.1 % 128 + q.2.2.2 ≤ 128

/-- The bytes that pieces bring to the scratchpad, and those that they take to the homes. -/
def inWrites (s : State) (qs : List (Nat × Piece)) : List (Nat × Nat × Nat) := qs.map (fun q => (q.2.2.1, q.2.2.2, s.homeRead q.1 q.2.2.2))
def outWrites (m : Mem) (qs : List (Nat × Piece)) : List (Nat × Nat × Nat) := qs.map (fun q => (q.1, q.2.2.2, memRead m q.2.2.1 q.2.2.2))

theorem copyOf_of_copies {c d : Copse} (h : d.copies = c.copies) (seq : Nat) : d.copyOf seq = c.copyOf seq := by
  unfold Copse.copyOf
  rw [h]

theorem homeGet_of_frame {copse : Nat} {s t : State} (h : CopyFrame copse s t) (a : Nat) : t.homeGet a = s.homeGet a :=
  homeGet_congr (by rw [h.rest]) (by rw [h.rest]) (by rw [h.rest]) a

/-- The record of a bound copy lies apart from the bytes that a line brings. -/
theorem inWrites_apart {s : State} {x : Copy} {i o a : Nat} {qs : List (Nat × Piece)} (hin : x.form.inward = true) (hi : i ∈ x.ripe)
    (hqs : qs.map Prod.snd = (x.units[i]?).getD []) (ho : o % 32 = 0) (hrest : o / 128 ∉ x.restLines) (hlo : o ≤ a) (hhi : a < o + 32) :
    lastByte (inWrites s qs) a = none := by
  refine lastByte_eq_none.mpr fun w hw => ?_
  obtain ⟨q, hq, rfl⟩ := List.mem_map.mp hw
  have hunit : q.2 ∈ (x.units[i]?).getD [] := hqs ▸ List.mem_map_of_mem hq
  have hfit := unit_in hin hunit
  have hline := unit_restLines (ripe_todo hi) hunit
  refine if_neg fun hc => ?_
  have hne : q.2.2.1 / 128 ≠ o / 128 := fun e => hrest (e ▸ hline)
  simp only at hc
  omega

section
variable {s : State} {copse seq : Nat} {x : Copy} (h : (s.copseAt copse).copyOf seq = some x) (hl : (s.copseAt copse).life = .resident)
  (hst : x.status = none) (hfate : x.fate = none) (hp : x.parked = none) (hripe : x.ripe ≠ [])
include h hl hst hfate hp hripe

/-- A line comes into the scratchpad. -/
theorem delivers_inward (hin : x.form.inward = true) (hbm : ∀ l ∈ x.restLines, ((s.copseAt copse).lineAt l).bm = false)
    (hcr : ∀ o slot, x.cr = some (o, slot) → o % 32 = 0 ∧ o / 128 ∉ x.restLines)
    (hall : ∀ i ∈ x.ripe, (∃ qs, FreeUnit s copse x i .read qs) ∧ ∀ p ∈ (x.units[i]?).getD [], (s.copseAt copse).awaitsFill (p.2.1 / 128) = false) :
    ∃ t i qs, exec (.copyLineDeliver copse seq) s = .next t ∧ i ∈ x.ripe ∧ FreeUnit s copse x i .read qs ∧ (t.copseAt copse).copyOf seq = x.left i ∧
      SameMemory s t ∧ (∀ o slot, x.cr = some (o, slot) → slot < 4 → LineCounted s t copse o slot x.stand) ∧
      (∀ a, x.apart a → memGet (t.copseAt copse).scratch a = (lastByte (inWrites s qs) a).getD (memGet (s.copseAt copse).scratch a)) ∧
      ∀ p ∈ (x.units[i]?).getD [], ((t.copseAt copse).lineAt (p.2.1 / 128)).full = true := by
  obtain rfl := copyOf_seq h
  obtain ⟨i, hi, hdeliver⟩ := deliver_tries h hl hst hfate hp hripe
  obtain ⟨⟨qs, hfree⟩, hfill⟩ := hall i hi
  obtain ⟨hb, hf, hx, hq⟩ := hfree
  obtain ⟨f, hv⟩ := afterChoice_eq s x
  have hunit := deliverUnit_inward (s := s.afterChoice x) hin (by rw [hv]; exact hb) (by rw [hv]; exact hf) hx (by rw [hv]; exact hbm)
    (by rw [hv]; exact hfill) (by rw [hv]; exact fun q hqs => (hq q hqs).1)
  have hmoves := movePieces_in (copse := copse) hin s qs (s.afterChoice x) (by rw [hv]; exact fun _ => rfl) fun q hqs => (hq q hqs).2.1
  have hpieces := unitXlate_pieces hx
  rw [← hdeliver] at hunit
  generalize qs.foldl (fun s q => s.movePiece copse x q) (s.afterChoice x) = w at hunit hmoves
  rw [hv] at hmoves
  have hwof : (w.copseAt copse).copyOf x.seq = some x := (copyOf_of_copies hmoves.copies x.seq).trans h
  obtain ⟨hframe, hleft, hapart, hcounts, hfull⟩ := unitDone_done hwof i ((x.units[i]?).getD [])
  rw [← hunit] at hframe hleft hapart hcounts hfull
  refine ⟨_, i, qs, rfl, hi, ⟨hb, hf, hx, hq⟩, hleft, fun core pa => ?_, fun o slot hcr' hlt => ?_, fun a ha => ?_, hfull hin⟩
  · exact (hframe.sameMemory core pa).trans (hmoves.sameMemory core pa)
  · obtain ⟨ho, hrest⟩ := hcr o slot hcr'
    refine (hcounts o slot hcr' hlt).congr ?_ ?_ rfl
    · rw [recView_eq, recView_eq]
      refine congrArg viewOf (recAt_congr fun a hlo hhi => ?_)
      rw [hmoves.scratch a]
      exact congrArg (Option.getD · _) (inWrites_apart hin hi hpieces ho hrest hlo hhi).symm
    · funext j
      refine heldWaits_congr ?_
      simp only [State.standAt, hmoves.stands]
  · exact (hapart a ha).trans (hmoves.scratch a)

/-- A line goes to its homes. -/
theorem delivers_outward (hout : x.form.inward = false)
    (hall : ∀ i ∈ x.ripe, (∃ qs, FreeUnit s copse x i .write qs) ∧ ∀ p ∈ (x.units[i]?).getD [], ((s.copseAt copse).lineAt (p.2.1 / 128)).full = true ∧
      Unchanged x (s.copseAt copse).scratch p) :
    ∃ t i qs, exec (.copyLineDeliver copse seq) s = .next t ∧ i ∈ x.ripe ∧ FreeUnit s copse x i .write qs ∧ (t.copseAt copse).copyOf seq = x.left i ∧
      (∀ o slot, x.cr = some (o, slot) → slot < 4 → LineCounted s t copse o slot x.stand) ∧
      (∀ a, x.apart a → memGet (t.copseAt copse).scratch a = memGet (s.copseAt copse).scratch a) ∧
      ∀ a, isWindow a = false → t.homeGet a = (lastByte (outWrites (s.copseAt copse).scratch qs) a).getD (s.homeGet a) := by
  obtain rfl := copyOf_seq h
  obtain ⟨i, hi, hdeliver⟩ := deliver_tries h hl hst hfate hp hripe
  obtain ⟨⟨qs, hfree⟩, hpieces⟩ := hall i hi
  obtain ⟨hb, hf, hx, hq⟩ := hfree
  obtain ⟨f, hv⟩ := afterChoice_eq s x
  obtain ⟨u, htouch, hcopies, hunit⟩ := deliverUnit_outward (s := s.afterChoice x) hout (by rw [hv]; exact hb) (by rw [hv]; exact hf) hx
    (by rw [hv]; exact fun p hpu => (hpieces p hpu).1) (by rw [hv]; exact fun q hqs => (hq q hqs).1)
  have hmem : ∀ q ∈ qs, q.2 ∈ (x.units[i]?).getD [] := fun q hqs => unitXlate_pieces hx ▸ List.mem_map_of_mem hqs
  rw [hv] at htouch hcopies
  have huscratch : (u.copseAt copse).scratch = (s.copseAt copse).scratch := htouch.scratch
  have hwrites := movePieces_out (copse := copse) (x := x) hout (s.copseAt copse).scratch qs u huscratch
    fun q hqs => ⟨(hq q hqs).2.1, (hq q hqs).2.2, (hpieces q.2 (hmem q hqs)).2⟩
  rw [← hdeliver] at hunit
  generalize qs.foldl (fun s q => s.movePiece copse x q) u = w at hunit hwrites
  have hwcopse : w.bump.copseAt copse = u.copseAt copse := copseAt_of_copses (s := u) (t := w.bump) (by
    show w.copses = u.copses
    rw [hwrites.rest]) copse
  have hwof : (w.bump.copseAt copse).copyOf x.seq = some x := by
    rw [hwcopse]
    exact (copyOf_of_copies hcopies x.seq).trans h
  obtain ⟨hframe, hleft, hapart, hcounts, -⟩ := unitDone_done hwof i ((x.units[i]?).getD [])
  rw [← hunit] at hframe hleft hapart hcounts
  have hscratch : (w.bump.copseAt copse).scratch = (s.copseAt copse).scratch := by rw [hwcopse, huscratch]
  refine ⟨_, i, qs, rfl, hi, ⟨hb, hf, hx, hq⟩, hleft, fun o slot hcr hlt => ?_, fun a ha => ?_, fun a ha => ?_⟩
  · refine (hcounts o slot hcr hlt).congr (recView_of_scratch hscratch.symm o) ?_ rfl
    funext j
    refine heldWaits_congr ?_
    have hwst : w.bump.stands = s.stands := by
      show w.stands = s.stands
      rw [hwrites.rest, htouch.rest]
    simp only [State.standAt, hwst]
  · rw [hapart a ha, hscratch]
  · have husame : u.homeGet a = s.homeGet a := homeGet_congr (by rw [htouch.rest]) (by rw [htouch.rest]) (by rw [htouch.rest]) a
    rw [homeGet_of_frame hframe a]
    exact (hwrites.home a ha).trans (by rw [husame]; rfl)
end

end Sys2Proof.Machine
end
section
/-! SUPPORT. The start of a copy: its checks in their order, its wait and its acceptance (spec/14 R318-R322, R329). -/

namespace Sys2Proof.Machine

/-! ### Checks in their order (R322) -/

/-- The first check that fails traps; behind them all comes the rest. -/
def trapChain : List (Bool × TrapReq) → Eff → Eff
  | [], q => q
  | (b, r) :: bs, q => if b then .trap r else trapChain bs q

/-- A check of the model is one of a table: condition, class and cause. -/
def ChecksAs (x : Prop × Nat × Nat) (y : Bool × TrapReq) : Prop :=
  (y.1 = true ↔ x.1) ∧ y.2.cls = BitVec.ofNat 8 x.2.1 ∧ y.2.cause = BitVec.ofNat 8 x.2.2

theorem trapChain_first {cs : List (Prop × Nat × Nat)} {bs : List (Bool × TrapReq)} (h : List.Forall₂ ChecksAs cs bs) (q : Eff) :
    ∀ (j : Nat) (x : Prop × Nat × Nat), cs[j]? = some x → x.1 → (∀ (m : Nat) (y : Prop × Nat × Nat), m < j → cs[m]? = some y → ¬y.1) →
      ∃ r, trapChain bs q = .trap r ∧ r.cls = BitVec.ofNat 8 x.2.1 ∧ r.cause = BitVec.ofNat 8 x.2.2 := by
  induction h with
  | nil => exact fun _ _ hx => absurd hx (by simp)
  | @cons c b cs bs hcb _ ih =>
    intro j x hx hc hbefore
    obtain ⟨hiff, hcls, hcause⟩ := hcb
    cases j with
    | zero =>
      obtain rfl : c = x := Option.some.inj hx
      exact ⟨b.2, if_pos (hiff.mpr hc), hcls, hcause⟩
    | succ j =>
      have hno : ¬b.1 = true := fun hb => hbefore 0 c (Nat.zero_lt_succ j) rfl (hiff.mp hb)
      obtain ⟨r, hr, hrest⟩ := ih j x hx hc fun m y hm hy => hbefore (m + 1) y (Nat.succ_lt_succ hm) hy
      exact ⟨r, (if_neg hno).trans hr, hrest⟩

theorem trapChain_none {cs : List (Prop × Nat × Nat)} {bs : List (Bool × TrapReq)} (h : List.Forall₂ ChecksAs cs bs) (q : Eff)
    (hno : ∀ x ∈ cs, ¬x.1) : trapChain bs q = q := by
  induction h with
  | nil => rfl
  | cons hcb _ ih =>
    refine (if_neg fun hb => hno _ List.mem_cons_self (hcb.1.mp hb)).trans (ih fun x hx => hno x (List.mem_cons_of_mem _ hx))

/-- Bytes of a copy's runs, and the offset of the record that its binding word names. -/
abbrev runsLen (runs : List (Nat × Nat)) : Nat := (runs.map Prod.snd).sum
abbrev bindOff (bw : Nat) : Nat := bw / 2 ^ 17 % 2 ^ 11 * 32

section
variable (s : State) (i : Instr) (form : CopyForm) (off : Nat) (runs : List (Nat × Nat)) (bw : Nat) (ntf : Option Nat) (bad6 : Bool)

/-- The checks of a copy: condition, class and cause. -/
def copyCauses : List (Prop × Nat × Nat) :=
  let c := s.myCopse
  let ls := linesOf off (runsLen runs)
  let inw := form = .cpy ∨ form = .tIn
  [(off % 16 ≠ 0 ∨ (runs.headD (0, 0)).1 % 16 ≠ 0 ∨ 128 * c.alloc < off + runsLen runs, 6, 1),
    (inw ∧ ∃ l ∈ ls, (c.lineAt l).full = false ∧ ∃ q, (c.lineAt l).filler = some (.copy q), 6, 2),
    (bw / 2 ^ 28 % 2 = 1 ∧ ¬(bindOff bw + 32 ≤ 128 * c.alloc ∧ (c.lineAt (bindOff bw / 128)).bm = true), 6, 4),
    (∃ n, ntf = some n ∧ s.chanBad (copseOf s.cur) c.core (16 + n) false = true, 6, 5),
    (bad6 = true, 6, 6), (inw ∧ ∃ l ∈ ls, (c.lineAt l).bm = true, 5, 2), (∃ r ∈ runs, 2 ^ 57 < r.1 + r.2, 3, 1)]

/-- A line is being filled by a copy. -/
def LineSt.copying (x : LineSt) : Bool := !x.full && (match x.filler with | some (.copy _) => true | _ => false)
/-- The channel of a status entry is none that the copse may name. -/
def State.ntfBad (s : State) (ntf : Option Nat) : Bool :=
  match ntf with | some n => s.chanBad (copseOf s.cur) s.myCopse.core (16 + n) false | none => false

/-- The checks of a copy of a length, bound to the record at an offset, with their traps. -/
def copyChecks (len o : Nat) : List (Bool × TrapReq) :=
  let c := s.myCopse
  let ls := linesOf off len
  let ga := (runs.headD (0, 0)).1
  [(decide (off % 16 ≠ 0 ∨ ga % 16 ≠ 0 ∨ (!c.inAlloc off len) = true), copyTrap i 6 1 off false 0 0),
    (form.inward && ls.any (fun l => (c.lineAt l).copying), copyTrap i 6 2 off false 0 0),
    (bwCrb bw && !(c.inAlloc o 32 && (c.lineAt (o / 128)).bm), copyTrap i 6 4 o false 0 0),
    (s.ntfBad ntf, copyTrap i 6 5 off false 0 0), (bad6, copyTrap i 6 6 off false 0 0),
    (form.inward && c.linesMarked ls, copyTrap i 5 2 (maxN off (128 * ((ls.find? (fun l => (c.lineAt l).bm)).getD 0))) true 6 0),
    (runs.any (fun r => 2 ^ 57 < r.1 + r.2), copyTrap i 3 1 ga false (if form.inward then 5 else 6) (bwSm bw))]

theorem inward_iff : form.inward = true ↔ form = .cpy ∨ form = .tIn := by cases form <;> simp [CopyForm.inward]

theorem copying_iff (x : LineSt) : x.copying = true ↔ x.full = false ∧ ∃ q, x.filler = some (.copy q) := by
  unfold LineSt.copying
  rw [Bool.and_eq_true, Bool.not_eq_true']
  refine and_congr_right fun _ => ?_
  split
  · next q h => simp [h]
  · next h => simpa using h

theorem copyChecks_causes : List.Forall₂ ChecksAs (copyCauses s form off runs bw ntf bad6) (copyChecks s i form off runs bw ntf bad6 (runsLen runs) (bindOff bw)) := by
  have hin := inward_iff form
  refine .cons ⟨?_, rfl, rfl⟩ (.cons ⟨?_, rfl, rfl⟩ (.cons ⟨?_, rfl, rfl⟩ (.cons ⟨?_, rfl, rfl⟩ (.cons ⟨Iff.rfl, rfl, rfl⟩ (.cons ⟨?_, rfl, rfl⟩
    (.cons ⟨?_, rfl, rfl⟩ .nil))))))
  · simp [Copse.inAlloc]
  · simp only [Bool.and_eq_true, List.any_eq_true, hin, copying_iff]
  · simp only [Bool.and_eq_true, Bool.not_eq_true', Bool.and_eq_false_iff, not_and_or, Bool.not_eq_true, Copse.inAlloc, decide_eq_false_iff_not, bwCrb,
      bitAt, beq_iff_eq]
  · unfold State.ntfBad
    cases ntf <;> simp
  · simp only [Bool.and_eq_true, Copse.linesMarked, List.any_eq_true, hin]
  · simp

/-! ### Acceptance (R318-R321) -/

/-- The copy that is accepted. -/
def State.newCopy (s : State) (form : CopyForm) (off : Nat) (runs : List (Nat × Nat)) (bw : Nat) (ntf : Option Nat) (len o : Nat) : Copy :=
  let cp : Copy :=
    { seq := s.nextId, stand := s.cur, num := s.me.copySeq, form := form, off := off, runs := runs,
      cr := if bwCrb bw then some (o, bwSlot bw) else none, grp := BitVec.ofNat 4 (bwGrp bw), sm := BitVec.ofNat 8 (bwSm bw),
      ph := BitVec.ofNat 2 (bwPh bw), ntf := ntf, todo := [], lines := 0, parked := none, fate := none, status := none,
      snap := if form.inward then [] else s.myCopse.snapLines off len }
  { cp with todo := List.range cp.units.length }
/-- The machine with a copy more in the copse's list. -/
def State.copyAdded (s : State) (x : Copy) : State :=
  ({ s with nextId := s.nextId + 1 }.setStand s.cur { s.me with copySeq := s.me.copySeq + 1 }).setMyCopse { s.myCopse with copies := s.myCopse.copies ++ [x] }
/-- A status entry will be due at a channel, if one is asked for. -/
def State.entryDue (s : State) (core : Nat) (ntf : Option Nat) : State :=
  match ntf with
  | none => s
  | some n => s.setChan core (16 + n) { s.chanAt core (16 + n) with due := (s.chanAt core (16 + n)).due + 1 }
/-- The machine with a copy accepted. -/
def State.copyStarted (s : State) (x : Copy) (len : Nat) : State :=
  (if x.form.inward then (s.copyAdded x).takeLines (copseOf s.cur) s.nextId x.off len else s.copyAdded x).entryDue s.myCopse.core x.ntf

theorem trapChain_cons (p : Prop) [Decidable p] (r : TrapReq) (bs : List (Bool × TrapReq)) (q : Eff) :
    (if p then .trap r else trapChain bs q) = trapChain ((decide p, r) :: bs) q := by
  by_cases h : p
  · rw [if_pos h, trapChain, if_pos (decide_eq_true h)]
  · rw [if_neg h, trapChain, if_neg (by simpa using h)]

/-- No room for a copy. -/
def State.copyFull (s : State) (form : CopyForm) (off len : Nat) : Bool :=
  !s.engineRoom (copseOf s.cur) (1 + (if form.inward then (s.myCopse.copyTouches off len).length else 0)) || decide (copyLimit ≤ s.myCopse.copies.length)

theorem copyFull_iff : s.copyFull form off (runsLen runs) = true ↔ 64 ≤ s.myCopse.copies.length ∨
    256 < s.engineLoad (copseOf s.cur) + (1 + if form.inward then (s.myCopse.copyTouches off (runsLen runs)).length else 0) := by
  unfold State.copyFull State.engineRoom
  rw [Bool.or_eq_true, Bool.not_eq_true', decide_eq_false_iff_not, decide_eq_true_iff, or_comm, Nat.not_le]
  rfl

/-- The start of a copy is its checks, and then its wait or its acceptance. -/
theorem startCopy_eq : s.startCopy i form off runs bw ntf bad6 = trapChain (copyChecks s i form off runs bw ntf bad6 (runsLen runs) (bindOff bw))
    (if s.copyFull form off (runsLen runs) then .stay s
      else .done (s.copyStarted (s.newCopy form off runs bw ntf (runsLen runs) (bindOff bw)) (runsLen runs))) := by
  have hlen : runs.foldl (fun n r => n + r.2) 0 = runsLen runs := by rw [foldl_add_eq_sum Prod.snd, Nat.zero_add]
  have hoff : 32 * bwCrix bw = bindOff bw := by rw [Nat.mul_comm]; rfl
  rw [← hlen, ← hoff]
  unfold copyChecks
  rw [← trapChain_cons]
  rfl
end

end Sys2Proof.Machine
end
section
/-! SUPPORT. What the acceptance of a copy leaves, and the words that start one (spec/14 R318-R322, R326, R329, R330). -/

namespace Sys2Proof.Machine

/-! ### Destination lines (R320) -/

theorem touchLine_lineAt {s : State} {copse l j : Nat} (h : j ≠ l) : ((s.touchLine copse l).copseAt copse).lineAt j = (s.copseAt copse).lineAt j := by
  unfold State.touchLine
  simp only
  split
  · rfl
  · rw [setCopse_copseAt]
    exact (setLine_lineAt ..).trans (if_neg h)

theorem touchLines_lineAt {copse j : Nat} (ls : List Nat) (s : State) (h : j ∉ ls) :
    ((s.touchLines copse ls).copseAt copse).lineAt j = (s.copseAt copse).lineAt j := by
  induction ls generalizing s with
  | nil => rfl
  | cons l ls ih => exact (ih (s.touchLine copse l) fun hj => h (List.mem_cons_of_mem _ hj)).trans (touchLine_lineAt fun e => h (e ▸ List.mem_cons_self))

/-- A copse some of whose lines a copy fills. -/
def Copse.taken (c : Copse) (seq : Nat) (ls : List Nat) : Copse :=
  ls.foldl (fun c l => c.setLine l { c.lineAt l with full := false, filler := some (.copy seq), touched := true }) c

theorem taken_rest (seq : Nat) : ∀ (ls : List Nat) (c : Copse), c.taken seq ls = { c with lines := (c.taken seq ls).lines }
  | [], _ => rfl
  | l :: ls, c => by
    have hstep : c.taken seq (l :: ls) = (c.setLine l { c.lineAt l with full := false, filler := some (.copy seq), touched := true }).taken seq ls := rfl
    rw [hstep, taken_rest seq ls]
    rfl

theorem taken_lineAt (seq j : Nat) : ∀ (ls : List Nat) (c : Copse),
    (c.taken seq ls).lineAt j = if j ∈ ls then { c.lineAt j with full := false, filler := some (.copy seq), touched := true } else c.lineAt j
  | [], c => rfl
  | l :: ls, c => by
    have hstep : c.taken seq (l :: ls) = (c.setLine l { c.lineAt l with full := false, filler := some (.copy seq), touched := true }).taken seq ls := rfl
    rw [hstep, taken_lineAt seq j ls, setLine_lineAt]
    by_cases hj : j = l
    · subst hj
      simp
    · simp [hj]

/-- The lines of an inward copy (R320). -/
theorem takeLines_takes (s : State) (copse seq off len : Nat) : let t := s.takeLines copse seq off len
    t = { s with copses := t.copses } ∧ (t.copseAt copse).copies = (s.copseAt copse).copies ∧ (t.copseAt copse).scratch = (s.copseAt copse).scratch ∧
    (∀ l ∈ linesOf off len, ((t.copseAt copse).lineAt l).full = false ∧ ((t.copseAt copse).lineAt l).filler = some (.copy seq)) ∧
    ∀ l, l ∉ linesOf off len → (t.copseAt copse).lineAt l = (s.copseAt copse).lineAt l := by
  intro t
  have htouch := touchKept_touchLines copse (partLines off len) s
  have hcopies := touchLines_copies copse (partLines off len) s
  have hlines := fun l (h : l ∉ linesOf off len) => touchLines_lineAt (copse := copse) (j := l) (partLines off len) s fun hp => h (List.mem_of_mem_filter hp)
  have ht : t = (s.touchLines copse (partLines off len)).setCopse copse (((s.touchLines copse (partLines off len)).copseAt copse).taken seq (linesOf off len)) := rfl
  clear_value t
  generalize s.touchLines copse (partLines off len) = u at *
  have hcopse : t.copseAt copse = (u.copseAt copse).taken seq (linesOf off len) := by rw [ht, setCopse_copseAt]
  refine ⟨?_, ?_, ?_, fun l hl => ?_, fun l hl => ?_⟩
  · rw [ht, htouch.rest]
    rfl
  · rw [hcopse, taken_rest, hcopies]
  · rw [hcopse, taken_rest, htouch.scratch]
  · rw [hcopse, taken_lineAt, if_pos hl]
    exact ⟨rfl, rfl⟩
  · rw [hcopse, taken_lineAt, if_neg hl, hlines l hl]

/-! ### The machine behind an acceptance -/

/-- What an accepted copy leaves: it is the last of the copse, and the next of its stand. -/
structure Started (s t : State) (x : Copy) (len : Nat) : Prop where
  cur : t.cur = s.cur
  memory : SameMemory s t
  copies : t.myCopse.copies = s.myCopse.copies ++ [x]
  nextId : t.nextId = s.nextId + 1
  copySeq : t.me.copySeq = s.me.copySeq + 1
  scratch : t.myCopse.scratch = s.myCopse.scratch
  taken : x.form.inward = true → ∀ l ∈ linesOf x.off len, (t.myCopse.lineAt l).full = false ∧ (t.myCopse.lineAt l).filler = some (.copy s.nextId)
  others : ∀ l, x.form.inward = false ∨ l ∉ linesOf x.off len → t.myCopse.lineAt l = s.myCopse.lineAt l
  due : ∀ n, x.ntf = some n → (t.chanAt s.myCopse.core (16 + n)).due = (s.chanAt s.myCopse.core (16 + n)).due + 1

/-- The word's issue leaves all that. -/
theorem Started.behind {s u t : State} {x : Copy} {len : Nat} (h : Started s u x len) (hl : LocalFrame u t) (hseq : t.me.copySeq = u.me.copySeq)
    (hchan : ∀ core n, t.chanAt core n = u.chanAt core n) : Started s t x len := by
  have hmine : t.myCopse = u.myCopse := by
    unfold State.myCopse
    rw [hl.cur_eq, copseAt_of_copses hl.copses_eq]
  obtain ⟨⟨-, hcur, hnext, -⟩, -⟩ := id hl
  refine ⟨hcur.trans h.cur, h.memory.trans hl.sameMemory, ?_, hnext.trans h.nextId, hseq.trans h.copySeq, ?_, ?_, ?_, fun n hn => ?_⟩
  · rw [hmine, h.copies]
  · rw [hmine, h.scratch]
  · rw [hmine]
    exact h.taken
  · rw [hmine]
    exact h.others
  · rw [hchan, h.due n hn]

theorem entryDue_rest (s : State) (core : Nat) (ntf : Option Nat) : s.entryDue core ntf = { s with cores := (s.entryDue core ntf).cores } ∧
    SameMemory s (s.entryDue core ntf) ∧ ∀ n, ntf = some n → ((s.entryDue core ntf).chanAt core (16 + n)).due = (s.chanAt core (16 + n)).due + 1 := by
  cases ntf with
  | none => exact ⟨rfl, sameMemory_refl s, fun _ h => by cases h⟩
  | some n =>
    refine ⟨rfl, sameMemory_setChan s core (16 + n) _, fun m h => ?_⟩
    cases h
    unfold State.entryDue
    rw [setChan_chanAt_self]

theorem copyStarted_started (s : State) (x : Copy) (len : Nat) : Started s (s.copyStarted x len) x len ∧ SameRegs s.me (s.copyStarted x len).me := by
  obtain ⟨a, ha⟩ : ∃ a, a = s.copyAdded x := ⟨_, rfl⟩
  obtain ⟨v, hv⟩ : ∃ v, v = if x.form.inward then a.takeLines (copseOf s.cur) s.nextId x.off len else a := ⟨_, rfl⟩
  have hacopse : a.copseAt (copseOf s.cur) = { s.myCopse with copies := s.myCopse.copies ++ [x] } := by
    rw [ha]
    exact setCopse_copseAt ..
  obtain ⟨htrest, htcopies, htscratch, httaken, htothers⟩ := takeLines_takes a (copseOf s.cur) s.nextId x.off len
  have hvrest : v = { a with copses := v.copses } := by
    rw [hv]
    split
    · exact htrest
    · rfl
  have hvcopies : (v.copseAt (copseOf s.cur)).copies = s.myCopse.copies ++ [x] := by
    rw [hv]
    split
    · rw [htcopies, hacopse]
    · rw [hacopse]
  have hvscratch : (v.copseAt (copseOf s.cur)).scratch = s.myCopse.scratch := by
    rw [hv]
    split
    · rw [htscratch, hacopse]
    · rw [hacopse]
  have hame : a.standAt s.cur = { s.me with copySeq := s.me.copySeq + 1 } := by
    rw [ha]
    exact setStand_standAt ..
  have hvmem : SameMemory s v := by
    rw [hvrest, ha]
    exact sameMemory_of_parts (fun _ => rfl) rfl rfl rfl
  obtain ⟨hdrest, hdmem, hddue⟩ := entryDue_rest v s.myCopse.core x.ntf
  have hvchan (n : Nat) : v.chanAt s.myCopse.core n = s.chanAt s.myCopse.core n := by
    rw [hvrest, ha]
    rfl
  have heq : s.copyStarted x len = v.entryDue s.myCopse.core x.ntf := by
    rw [hv, ha]
    rfl
  rw [heq]
  generalize v.entryDue s.myCopse.core x.ntf = t at *
  have hcur : t.cur = s.cur := by
    rw [hdrest, hvrest, ha]
    rfl
  have hme : t.me = { s.me with copySeq := s.me.copySeq + 1 } := by
    rw [me_eq, hcur, ← hame, hdrest, hvrest]
    rfl
  have hmine : t.myCopse = v.copseAt (copseOf s.cur) := by
    unfold State.myCopse
    rw [hcur, hdrest]
    rfl
  refine ⟨⟨hcur, hvmem.trans hdmem, hmine ▸ hvcopies, ?_, by rw [hme], hmine ▸ hvscratch, fun hin l hl => ?_, fun l hl => ?_,
    fun n hn => by rw [hddue n hn, hvchan]⟩, by rw [hme]; simp [SameRegs]⟩
  · rw [hdrest, hvrest, ha]
    rfl
  · rw [hmine, hv, if_pos hin]
    exact httaken l hl
  · rw [hmine, hv]
    split
    · next hin =>
      rcases hl with hno | hl
      · exact absurd hin (by rw [hno]; decide)
      · rw [htothers l hl, hacopse]
        rfl
    · rw [hacopse]
      rfl

/-! ### The words -/

section
variable {i : Instr} {f : Form} {b : State → Eff} {s : State} {form : CopyForm} {off : Nat} {runs : List (Nat × Nat)} {bw : Nat} {ntf : Option Nat}
  {bad6 : Bool} (hw : wordOf i s = some (f, b)) (ha : Acts s i) (hc : f.control = false) (hb : b s = s.startCopy i form off runs bw ntf bad6)
include hw ha hb

theorem start_traps (j : Nat) (x : Prop × Nat × Nat) (hx : (copyCauses s form off runs bw ntf bad6)[j]? = some x) (h : x.1)
    (hbefore : ∀ (m : Nat) (y : Prop × Nat × Nat), m < j → (copyCauses s form off runs bw ntf bad6)[m]? = some y → ¬y.1) : Traps i s x.2.1 x.2.2 := by
  rw [startCopy_eq] at hb
  obtain ⟨r, hr, hcls, hcause⟩ := trapChain_first (copyChecks_causes s i form off runs bw ntf bad6) _ j x hx h hbefore
  exact traps_of_trap hw ha (hb.trans hr) hcls hcause

theorem start_waits (hno : ∀ x ∈ copyCauses s form off runs bw ntf bad6, ¬x.1) (hfull : 64 ≤ s.myCopse.copies.length ∨
    256 < s.engineLoad (copseOf s.cur) + (1 + if form.inward then (s.myCopse.copyTouches off (runsLen runs)).length else 0)) :
    ∃ t, WaitsWith i s t ∧ t.copses = s.copses ∧ SameMemory s t := by
  rw [startCopy_eq, trapChain_none (copyChecks_causes s i form off runs bw ntf bad6) _ hno,
    if_pos ((copyFull_iff s form off runs).mpr hfull)] at hb
  exact ⟨_, waitsWith_stayed hw ha hb rfl (sameRegs_refl _), rfl, sameMemory_of_parts (fun _ => rfl) rfl rfl rfl⟩

include hc in
theorem start_accepts (hno : ∀ x ∈ copyCauses s form off runs bw ntf bad6, ¬x.1) (hroom : ¬(64 ≤ s.myCopse.copies.length ∨
    256 < s.engineLoad (copseOf s.cur) + (1 + if form.inward then (s.myCopse.copyTouches off (runsLen runs)).length else 0))) :
    ∃ t, PassesWith i s t ∧ Started s t (s.newCopy form off runs bw ntf (runsLen runs) (bindOff bw)) (runsLen runs) := by
  rw [startCopy_eq, trapChain_none (copyChecks_causes s i form off runs bw ntf bad6) _ hno,
    if_neg (fun h => hroom ((copyFull_iff s form off runs).mp h))] at hb
  obtain ⟨hst, hregs⟩ := copyStarted_started s (s.newCopy form off runs bw ntf (runsLen runs) (bindOff bw)) (runsLen runs)
  generalize s.copyStarted (s.newCopy form off runs bw ntf (runsLen runs) (bindOff bw)) (runsLen runs) = u at hst hregs hb
  obtain ⟨place, clpos, hme⟩ := done_me hw hc hst.cur
  exact ⟨_, passesWith_done hw ha hc hb hst.cur hregs, hst.behind (localFrame_behind hst.cur i) (by rw [hme]) (done_chanAt s u i)⟩
end

end Sys2Proof.Machine
end
section
/-! SUPPORT. Tile descriptors as a word makes them (spec/14 R326, R330), and the fields of an accepted copy (R319). -/

namespace Sys2Proof.Machine

/-! ### Descriptors -/

theorem descRuns_eq (d : Nat) : descRuns d = (List.range (d / 2 ^ 112 % 2 ^ 9 + 1)).map (fun r => (d % 2 ^ 64 + r * (d / 2 ^ 64 % 2 ^ 32), d / 2 ^ 96 % 2 ^ 16)) := by
  unfold descRuns descRows descBase descStride descBytes
  rw [bits_low]
  rfl

theorem descMake_parts (a b : Nat) (ha : a < 2 ^ 64) : let d := descMake a b
    bitAt d 127 = true ∧ bits d 126 121 = 0 ∧ descBase d = a ∧ descStride d = bits b 31 0 ∧ descBytes d = bits b 47 32 ∧ descRows d = bits b 56 48 + 1 := by
  have h1 : bits b 31 0 < 2 ^ 32 := bits_lt b 31 0
  have h2 : bits b 47 32 < 2 ^ 16 := bits_lt b 47 32
  have h3 : bits b 56 48 < 2 ^ 9 := bits_lt b 56 48
  unfold descBase descStride descBytes descRows descMake
  generalize bits b 31 0 = st at *
  generalize bits b 47 32 = row at *
  generalize bits b 56 48 = rows at *
  simp only [bits, bitAt, beq_iff_eq]
  omega

section
variable (a b : Word64)

/-- A descriptor's word is one of a valid descriptor (R326, R330). -/
def DescValid : Prop :=
  let stride := (b.extractLsb' 0 32).toNat
  let row := (b.extractLsb' 32 16).toNat
  let rows := (b.extractLsb' 48 9).toNat + 1
  b.extractLsb' 57 7 = 0 ∧ a.toNat % 16 = 0 ∧ stride % 16 = 0 ∧ 16 ≤ row ∧ row % 16 = 0 ∧ (rows = 1 ∨ row ≤ stride) ∧ rows * row ≤ 65536 ∧
    a.toNat + (rows - 1) * stride + row ≤ 2 ^ 57

theorem bits_eq_extract {w : Nat} (x : BitVec w) (hi lo : Nat) : bits x.toNat hi lo = (x.extractLsb' lo (hi + 1 - lo)).toNat := by
  rw [BitVec.extractLsb'_toNat, Nat.shiftRight_eq_div_pow]
  rfl

theorem descValid_iff : ¬(bits b.toNat 63 57 ≠ 0 ∨ (!descOk (descMake a.toNat b.toNat)) = true) ↔ DescValid a b := by
  obtain ⟨htop, hzero, hbase, hstride, hbytes, hrows⟩ := descMake_parts a.toNat b.toNat a.isLt
  have hhigh : bits b.toNat 63 57 = 0 ↔ b.extractLsb' 57 7 = 0 := by
    rw [bits_eq_extract, ← BitVec.toNat_inj]
    rfl
  have h1 : bits b.toNat 31 0 = (b.extractLsb' 0 32).toNat := bits_eq_extract b 31 0
  have h2 : bits b.toNat 47 32 = (b.extractLsb' 32 16).toNat := bits_eq_extract b 47 32
  have h3 : bits b.toNat 56 48 = (b.extractLsb' 48 9).toNat := bits_eq_extract b 56 48
  unfold descOk DescValid
  rw [htop, hzero, hbase, hstride, hbytes, hrows, h1, h2, h3]
  simp only [not_or, ne_eq, not_not, hhigh, Bool.not_eq_true', Bool.not_eq_false, Bool.and_eq_true, Bool.or_eq_true, beq_iff_eq, decide_eq_true_eq,
    Nat.add_sub_cancel, true_and, beq_self_eq_true, and_assoc]

/-- The descriptor that the word writes. -/
theorem descMake_bits : BitVec.ofNat 128 (descMake a.toNat b.toNat) = (1 : BitVec 1) ++ (0 : BitVec 6) ++ b.extractLsb' 0 57 ++ a := by
  refine BitVec.eq_of_toNat_eq ?_
  have hb := b.isLt
  have ha := a.isLt
  simp only [toNat_append_add, BitVec.toNat_ofNat, BitVec.ofNat_eq_ofNat, BitVec.extractLsb'_toNat, Nat.shiftRight_eq_div_pow, descMake, bits]
  omega
end

/-! ### The fields of an accepted copy -/

section
variable (s : State) (form : CopyForm) (off : Nat) (runs : List (Nat × Nat)) (bw : Nat) (ntf : Option Nat) (len o : Nat)

theorem newCopy_cr : (s.newCopy form off runs bw ntf len o).cr = if bw / 2 ^ 28 % 2 = 1 then some (o, bw / 2 ^ 29 % 4) else none := by
  show (if bwCrb bw then some (o, bwSlot bw) else none) = _
  unfold bwCrb bitAt
  simp only [beq_iff_eq]
  rfl

theorem ofNat_bits_width (x w lo : Nat) (hw : 0 < w) : BitVec.ofNat w (bits x (lo + w - 1) lo) = BitVec.ofNat w (x / 2 ^ lo) := by
  refine BitVec.eq_of_toNat_eq ?_
  rw [BitVec.toNat_ofNat, BitVec.toNat_ofNat, bits, show lo + w - 1 + 1 - lo = w by omega, Nat.mod_mod]

theorem newCopy_hints : (s.newCopy form off runs bw ntf len o).grp = BitVec.ofNat 4 (bw / 2 ^ 31) ∧
    (s.newCopy form off runs bw ntf len o).sm = BitVec.ofNat 8 (bw / 2 ^ 35) ∧ (s.newCopy form off runs bw ntf len o).ph = BitVec.ofNat 2 (bw / 2 ^ 43) :=
  ⟨ofNat_bits_width bw 4 31 (by decide), ofNat_bits_width bw 8 35 (by decide), ofNat_bits_width bw 2 43 (by decide)⟩
end

end Sys2Proof.Machine
end
section
/-! Copies: their start, their delivery, their end (spec/14 R318-R330; spec/15 R356). -/

namespace Sys2Proof.Machine

section
variable {f : E96} {s : State}

theorem bwLen_eq (b : Nat) : bwLen b = b % 2 ^ 17 := bits_low b 16

theorem cpyBody_starts (i : Instr) (form : CopyForm) (w : W128) : cpyBody i form w s = s.startCopy i form ((s.rdS s.cur w.dst.num.toNat).toNat % 2 ^ 32)
    [((s.rdS s.cur w.sa.num.toNat).toNat, w.imm.toNat % 2 ^ 17)] w.imm.toNat (if w.md.getLsbD 4 then some (w.md.toNat % 16) else none) false := by
  rw [← bwLen_eq]
  rfl

/-- The descriptor that a tile copy reads. -/
abbrev State.tileDesc (s : State) (f : E96) : Nat := (tget 0 s.me.d f.sa.num.toNat).toNat

theorem cpyTBody_invalid (i : Instr) (form : CopyForm) (h : descOk (s.tileDesc f) = false) : cpyTBody i form f s =
    .trap (copyTrap i 6 (if (s.rdS s.cur f.dst.num.toNat).toNat % 2 ^ 32 % 16 ≠ 0 then 1 else 3) ((s.rdS s.cur f.dst.num.toNat).toNat % 2 ^ 32) false 0 0) := by
  unfold cpyTBody
  simp only [h, Bool.not_false, if_true]

theorem cpyTBody_starts (i : Instr) (form : CopyForm) (h : descOk (s.tileDesc f) = true) : cpyTBody i form f s =
    s.startCopy i form ((s.rdS s.cur f.dst.num.toNat).toNat % 2 ^ 32)
      ((List.range (s.tileDesc f / 2 ^ 112 % 2 ^ 9 + 1)).map (fun r =>
        (s.tileDesc f % 2 ^ 64 + r * (s.tileDesc f / 2 ^ 64 % 2 ^ 32), s.tileDesc f / 2 ^ 96 % 2 ^ 16)))
      (s.rdS s.cur f.sb.num.toNat).toNat (if f.md.getLsbD 6 then some (f.md.toNat / 4 % 16) else none)
      (bwLen (s.rdS s.cur f.sb.num.toNat).toNat != 0 || !bwZeros (s.rdS s.cur f.sb.num.toNat).toNat) := by
  rw [← descRuns_eq]
  unfold cpyTBody
  simp only [h, Bool.not_true, Bool.false_eq_true, if_false]
  rfl

theorem cpyTDef_invalid (ha : Acts s (.cpyTDef f)) (h : ¬DescValid (s.rdS s.cur f.sa.num.toNat) (s.rdS s.cur f.sb.num.toNat)) : Traps (.cpyTDef f) s 6 3 := by
  refine traps_of_trap rfl ha (if_pos ?_) rfl rfl
  exact not_not.mp fun hno => h ((descValid_iff _ _).mp hno)

/-- A valid descriptor is written (R330). -/
theorem cpyTDef_writes (ha : Acts s (.cpyTDef f)) (h : DescValid (s.rdS s.cur f.sa.num.toNat) (s.rdS s.cur f.sb.num.toNat)) :
    ∃ t, PassesWith (.cpyTDef f) s t ∧ SameMemory s t ∧ ∀ n, tget 0 t.me.d n = if n = f.dst.num.toNat then
      (1 : BitVec 1) ++ (0 : BitVec 6) ++ (s.rdS s.cur f.sb.num.toNat).extractLsb' 0 57 ++ s.rdS s.cur f.sa.num.toNat else tget 0 s.me.d n := by
  obtain ⟨d, hd⟩ : ∃ d, d = tset f.dst.num.toNat
    (BitVec.ofNat 128 (descMake (s.rdS s.cur f.sa.num.toNat).toNat (s.rdS s.cur f.sb.num.toNat).toNat)) s.me.d := ⟨_, rfl⟩
  obtain ⟨u, hu⟩ : ∃ u, u = s.setMe { s.me with d := d } := ⟨_, rfl⟩
  have hb : bodyCpyTDef f s = .done u := by
    rw [hu, hd]
    exact if_neg ((descValid_iff _ _).mpr h)
  have hcur : u.cur = s.cur := by rw [hu]; rfl
  have hume : u.me = { s.me with d := d } := by rw [hu, setMe_eq, setMe_me]
  obtain ⟨place, clpos, hme⟩ := done_me (i := .cpyTDef f) (s := s) rfl rfl hcur
  refine ⟨_, passesWith_done rfl ha rfl hb hcur (by rw [hume]; simp [SameRegs]), ?_, fun n => ?_⟩
  · have hsu : SameMemory s u := by
      rw [hu]
      exact sameMemory_of_parts (fun _ => rfl) rfl rfl rfl
    exact hsu.trans (localFrame_behind hcur _).sameMemory
  · rw [hme, hume, ← descMake_bits, hd]
    exact tget_tset ..
end

/-- Settles O41: the words by their checks and what acceptance leaves; delivery, parking and ends by the line that is tried; records by their fields. -/
theorem copiesMoveTheirBytes : Obligations.CopiesMoveTheirBytes := by
  refine ⟨fun w f s => ?_, fun copse seq x s => ?_, fun copse seq x s => ?_⟩
  · intro c k starts lines tile
    have hstarts {i : Instr} {fm : Form} {b : State → Eff} (form : CopyForm) (off : Nat) (runs : List (Nat × Nat)) (bw : Nat) (ntf : Option Nat)
        (bad6 : Bool) (hw : wordOf i s = some (fm, b)) (ha : Acts s i) (hc : fm.control = false)
        (hb : b s = s.startCopy i form off runs bw ntf bad6) : starts i form off runs bw ntf bad6 := by
      refine And.intro (start_traps hw ha hb) fun hno => ⟨start_waits hw ha hb hno, fun hroom => ?_⟩
      obtain ⟨t, hpasses, hst⟩ := start_accepts hw ha hc hb hno hroom
      obtain ⟨hgrp, hsm, hph⟩ := newCopy_hints s form off runs bw ntf (runsLen runs) (bindOff bw)
      refine ⟨t, _, hpasses, hst.memory, hst.copies, hst.nextId, hst.copySeq, hst.scratch, rfl, rfl, rfl, rfl, rfl, rfl, newCopy_cr .., hgrp, hsm, hph,
        rfl, rfl, rfl, rfl, rfl, fun hin => hst.taken ((inward_iff form).mpr hin), fun l hl => hst.others l ?_, hst.due⟩
      exact hl.imp_left fun hno => Bool.eq_false_iff.mpr fun hin => hno ((inward_iff form).mp hin)
    refine ⟨fun ha => ?_, fun ha => ?_, fun ha => ⟨fun h => ?_, fun h => ?_⟩, fun ha => ⟨fun h => ?_, fun h => ?_⟩, fun ha => ?_⟩
    · exact hstarts _ _ _ _ _ _ rfl ha rfl (cpyBody_starts ..)
    · exact hstarts _ _ _ _ _ _ rfl ha rfl (cpyBody_starts ..)
    · exact traps_of_trap rfl ha (cpyTBody_invalid _ _ h) rfl rfl
    · exact hstarts _ _ _ _ _ _ rfl ha rfl (cpyTBody_starts _ _ h)
    · exact traps_of_trap rfl ha (cpyTBody_invalid _ _ h) rfl rfl
    · exact hstarts _ _ _ _ _ _ rfl ha rfl (cpyTBody_starts _ _ h)
    · intro a b stride row rows valid
      exact ⟨cpyTDef_invalid ha, cpyTDef_writes ha⟩
  · intro c h hl hfate
    refine ⟨fun hst hp hripe => ?_, fun st n hst hn => status_pushed h hl hst hn⟩
    intro v unit moved bound free
    refine ⟨fun hin hbm hcr hall => ?_, fun hout hall => ?_⟩
    · obtain ⟨t, i, qs, hexec, hi, hfree, hleft, hmem, hbound, hscratch, hfull⟩ := delivers_inward h hl hst hfate hp hripe hin hbm hcr hall
      exact ⟨t, i, qs, hexec, hi, hfree, hleft.trans (left_eq hfate hp i), hmem, hbound, hscratch, hfull⟩
    · obtain ⟨t, i, qs, hexec, hi, hfree, hleft, hbound, hscratch, hhome⟩ := delivers_outward h hl hst hfate hp hripe hout hall
      exact ⟨t, i, qs, hexec, hi, hfree, hleft.trans (left_eq hfate hp i), hbound, hscratch, hhome⟩
  · intro c v acc unit room named h hl hst hlife
    refine ⟨fun hfate hp => congrArg Host.Outcome.next (deliver_parked h hfate hp), fun hfate hp first cause va hfirst hleast hall hx => ?_,
      fun st r hfate => fated_ends h hl hst hlife st r hfate, ?_⟩
    · exact faulted_parks h hl hst hlife hfate hp hfirst hleast hall hx
    · intro vi id tag deny u hcmd hres hcopies hparked _ hpage hfills hcmds hlogs hstands
      exact pageAns_answers deny hlife hst hcmd ⟨hres, hfills, hcmds, hlogs, hstands⟩ hcopies hparked hpage

end Sys2Proof.Machine
end
